-- ==== Sys2Proof/Word.lean ====
section
/-!
DEFINITION. Word.lean: the words of the W9 (R2, R4): bytes, 64-bit data words, 128-byte lines, tags and wave numbers.
-/
namespace Sys2Proof

/-- One byte. -/
abbrev Byte := BitVec 8

/-- A 64-bit token data word or register (R109). -/
abbrev Word := BitVec 64

/-- A 128-byte line (R4); byte i is bits [8i+7:8i] (R2). -/
abbrev Line := BitVec 1024

/-- A thread tag (R109). -/
abbrev Tag := BitVec 14

/-- A wave number (R109); it wraps from 2^24 - 1 to 0 (R130). -/
abbrev Wave := BitVec 24

end Sys2Proof
end

