-- ==== Sys2Proof/Syntax.lean ====
section
/-!
DEFINITION. Syntax.lean: the operations and events of the W9, one constructor of `Instr` per row of spec/opcode_table.json.
The Lilux-1 forms carry the decoded fields of their record (R254 to R261); the device events carry what the outside world
or the scheduling of agents decides: which object the event concerns, and the data that comes from outside.
-/
namespace Sys2Proof

/-- Element types, codes 0 to 14 (R196). -/
inductive ETy
  | b64 | s8x8 | s16x4 | s32x2 | s64 | n8x8 | n16x4 | n32x2 | n64 | f32x2 | bf16x4 | f16x4 | e4m3x8 | e5m2x8 | f64
  deriving DecidableEq, Repr

/-- Rounding modes, codes 0 to 5 (R204). -/
inductive Rm
  | rne | rtz | rdn | rup | rna | srd
  deriving DecidableEq, Repr

/-- The port of a destination word (R256): a port of the target slot, or the special sink (R114). -/
inductive DPort
  | left | right | aux | sink
  deriving DecidableEq, Repr

/-- A destination word (R256). -/
structure Dest where
  port : DPort
  fret : BitVec 12
  velem : BitVec 3
  slot : BitVec 5
  side : Bool
  deriving DecidableEq, Repr

/-- Which port the immediate supplies (R255, `IMMSEL`). -/
inductive ImmSel
  | none | left | right
  deriving DecidableEq, Repr

/-- Predicate mode (R112, R255). -/
inductive PMode
  | none | onTrue | onFalse
  deriving DecidableEq, Repr

/-- Access codes of Format M (R259). -/
inductive Acc
  | n8 | n16 | n32 | n64 | s8 | s16 | s32 | s64
  deriving DecidableEq, Repr

/-- Scopes (R183). -/
inductive Scope
  | thread | cluster | placement | task | die | device | host | gang
  deriving DecidableEq, Repr

/-- A pred or succ of a sequence triple (R123): an own number, `^` (126) or `?` (127). -/
inductive SeqLink
  | own (n : BitVec 6)
  | edge
  | unknown
  deriving DecidableEq, Repr

/-- Kinds of fence (R259). -/
inductive FenceKind
  | acquire | release | full
  deriving DecidableEq, Repr

/-- Tile formats, codes 0 to 8 (R201). -/
inductive TFmt
  | mx4 | trit | s8 | e4m3 | e5m2 | bf16 | f16 | f32 | s32
  deriving DecidableEq, Repr

/-- Integer comparison conditions (R260). -/
inductive ICmp
  | eq | ne | lt | le | gt | ge
  deriving DecidableEq, Repr

/-- Floating-point comparison conditions (R260). -/
inductive FCmp
  | eq | ne | lt | le | gt | ge | un
  deriving DecidableEq, Repr

/-- Accumulators named by a drain (R365). -/
inductive AccSel
  | bank0 | bank1 | dense
  deriving DecidableEq, Repr

/-- Group scales of a drain (R368, `GSEL`). -/
inductive GSel
  | none | g1 | g8 | g32
  deriving DecidableEq, Repr

/-- The fields of a Format A record (R255, R257, R258) other than its opcode and `SUB`.
`immh` is the extension word where one follows. -/
structure FmtA where
  ty : ETy
  sat : Bool
  rm : Rm
  dests : List Dest
  immSel : ImmSel
  pmode : PMode
  imm32 : BitVec 32
  immh : Option (BitVec 32)
  deriving DecidableEq, Repr

/-- The fields of a Format M record (R255, R257) other than its opcode and, for `fence` and `atom`, the access code or
extension `SUBOP` that the constructor carries. `offh` is bits [43:20] of the offset where an extension word follows. -/
structure FmtM where
  acc : Acc
  scope : Scope
  dests : List Dest
  pmode : PMode
  pred : SeqLink
  own : BitVec 6
  succ : SeqLink
  off : BitVec 20
  offh : Option (BitVec 24)
  deriving DecidableEq, Repr

/-- The fields of a Format E record (R255, R257) other than its opcode and `SUBOP`. `ext` says whether an extension word
follows; `tc`, `count` and `xf` are its fields. Where a form's own constructor arguments hold `XF`, `xf` is zero here. -/
structure FmtE where
  tfmt : TFmt
  sat : Bool
  rm : Rm
  dests : List Dest
  pmode : PMode
  pred : SeqLink
  own : BitVec 6
  succ : SeqLink
  ta : BitVec 8
  tb : BitVec 8
  ext : Bool
  tc : BitVec 8
  count : BitVec 12
  xf : BitVec 12
  deriving DecidableEq, Repr

/-- The `SUBOP` and `XF` fields of `drain` and `drain.m` (R365, R368). -/
structure DrainF where
  acc : AccSel
  clr : Bool
  nout : BitVec 2
  rowsc : Bool
  gsel : GSel
  deriving DecidableEq, Repr

/-- A register number of `srd` (R388). -/
inductive SReg
  | time | task | place | home | fret | elem | cls | flags
  | evsel (n : BitVec 2) | evc (n : BitVec 2) | beat | qerr | qcons
  deriving DecidableEq, Repr

/-- How a Folgar port trains (R22): eight lanes at 200 Gb/s, then the fallbacks in order. -/
inductive FolgarMode
  | eight200 | eight100 | low4x200 | high4x200 | low4x100 | high4x100
  deriving DecidableEq, Repr

/-- A firmware image in flash (R34): its bytes, signature, security version, whether it asks the fused counter to advance, and the service
images that it brings (R35): the HBM training graph's, one for each channel (R394), and the dispatcher's. -/
structure FwImage where
  body : List Byte
  sig : List Byte
  secVersion : Nat
  advance : Bool
  training : List (List Byte)
  dispatcher : List Byte
  deriving DecidableEq, Repr

/-- SPDM requests answered (R36); `challenge` asks for the signature over the transcript. -/
inductive SpdmReq
  | certificate (slot : Nat)
  | measurement (index : Nat)
  | challenge (nonce : List Byte)
  deriving DecidableEq, Repr

/-- An SPDM request as it arrives (R36): in band through the mailbox of the PF, or over the Epurn port. -/
structure SpdmMsg where
  inBand : Bool
  req : SpdmReq
  deriving DecidableEq, Repr

/-- A sync interval's end (R24): the offset from the parent in nanoseconds, and how far the clock is steered. -/
structure PtpSync where
  offset : Int
  steer : Int
  deriving DecidableEq, Repr

/-- A window of a function that a host access names: its BAR (R49). -/
structure BarWindow where
  bar : Nat
  fn : Nat
  deriving DecidableEq, Repr

/-- What a move is to do (R89): take a fret to another, or change two virtual elements' places within it. -/
inductive MoveGoal
  | fret (dst : Nat)
  | elements (a b : Nat)
  deriving DecidableEq, Repr

/-- A peer's entry into a collective, as it arrives at this device's fabric engine (R382, R383): the peer's rank and the
fields that must agree, and its source elements. -/
structure CollPeer where
  cid : BitVec 32
  ordinal : Nat
  rank : Nat
  subop : Nat
  tfmt : TFmt
  nelem : Nat
  nmem : Nat
  root : Nat
  members : List (BitVec 20)
  src : List (BitVec 32)
  gid : BitVec 32
  deriving DecidableEq, Repr

/-- The operations and events of the device, one constructor per row of spec/opcode_table.json: the Lilux-1 forms in the
table's order, then the device events that carry data from outside or name several objects, then those that do not. An event
that concerns one object (a task, a function, a fret, a unit, a message in flight) takes its number from the state's
`subject`, which the beat that holds the event sets. -/
inductive Instr
  -- Lilux-1: dataflow control (R276)
  | steer (f : FmtA)
  | select (f : FmtA)
  | wadv (f : FmtA)
  | wset (f : FmtA)
  | mov (f : FmtA)
  | const (f : FmtA)
  | sink (f : FmtA)
  | gate (f : FmtA)
  | join (three : Bool) (f : FmtA)
  | idx (f : FmtA)
  | spawn (f : FmtA)
  | send (f : FmtA)
  | tagof (f : FmtA)
  | endt (f : FmtA)
  -- Lilux-1: integer arithmetic (R285)
  | add (f : FmtA)
  | sub (f : FmtA)
  | addc (co : Bool) (f : FmtA)
  | subb (bo : Bool) (f : FmtA)
  | neg (f : FmtA)
  | abs (f : FmtA)
  | mul (f : FmtA)
  | mulh (f : FmtA)
  | mulw (odd : Bool) (f : FmtA)
  | mad (f : FmtA)
  | div (f : FmtA)
  | rem (f : FmtA)
  | min (f : FmtA)
  | max (f : FmtA)
  | avg (f : FmtA)
  | sad (f : FmtA)
  -- Lilux-1: logic, shifts, bit fields (R291)
  | and (f : FmtA)
  | or (f : FmtA)
  | xor (f : FmtA)
  | andn (f : FmtA)
  | not (f : FmtA)
  | shl (f : FmtA)
  | shr (f : FmtA)
  | sar (f : FmtA)
  | rot (f : FmtA)
  | shrp (f : FmtA)
  | clz (f : FmtA)
  | ctz (f : FmtA)
  | popc (f : FmtA)
  | brev (f : FmtA)
  | bext (f : FmtA)
  | bdep (f : FmtA)
  -- Lilux-1: lanes, comparison, addresses (R295)
  | perm (f : FmtA)
  | mix (hi : Bool) (f : FmtA)
  | bcast (f : FmtA)
  | pack (f : FmtA)
  | unpk (hi : Bool) (f : FmtA)
  | cmp (cc : ICmp) (f : FmtA)
  | btst (f : FmtA)
  | blend (f : FmtA)
  | lea (scale : BitVec 2) (f : FmtA)
  -- Lilux-1: floating point (R306 to R321)
  | fadd (f : FmtA)
  | fsub (f : FmtA)
  | fmul (f : FmtA)
  | fma (f : FmtA)
  | fmin (f : FmtA)
  | fmax (f : FmtA)
  | fabs (f : FmtA)
  | fneg (f : FmtA)
  | fcmp (cc : FCmp) (f : FmtA)
  | fclass (f : FmtA)
  | frcp (f : FmtA)
  | frsq (f : FmtA)
  | fsqrt (f : FmtA)
  | fdiv (f : FmtA)
  | fexp2 (f : FmtA)
  | flog2 (f : FmtA)
  | ftanh (f : FmtA)
  | fsin (f : FmtA)
  | fcos (f : FmtA)
  | fsig (f : FmtA)
  | fround (f : FmtA)
  | fscl (f : FmtA)
  | cvt (d : ETy) (part : BitVec 3) (mrg : Bool) (f : FmtA)
  | famax (f : FmtA)
  | fsum (f : FmtA)
  | fdot2 (f : FmtA)
  | mxscale (f : FmtA)
  | mxq (part : BitVec 3) (f : FmtA)
  | mxdq (part : BitVec 3) (f : FmtA)
  | tpack (part : BitVec 3) (f : FmtA)
  | tunpk (part : BitVec 3) (f : FmtA)
  -- Lilux-1: memory and synchronisation (R328)
  | ld (m : FmtM)
  | ldAcq (m : FmtM)
  | ldIo (m : FmtM)
  | ldnt (m : FmtM)
  | st (m : FmtM)
  | stRel (m : FmtM)
  | stIo (m : FmtM)
  | ldc (m : FmtM)
  | stc (m : FmtM)
  | fillc (m : FmtM)
  | relc (m : FmtM)
  | cntq (m : FmtM)
  | memnop (m : FmtM)
  | atomAdd (m : FmtM)
  | atomMin (m : FmtM)
  | atomMax (m : FmtM)
  | atomAnd (m : FmtM)
  | atomOr (m : FmtM)
  | atomXor (m : FmtM)
  | atomXchg (m : FmtM)
  | atomCas (m : FmtM)
  | atomInc (m : FmtM)
  | atomFadd (m : FmtM)
  | fence (kind : FenceKind) (m : FmtM)
  | pref (m : FmtM)
  | flush (m : FmtM)
  | waitl (m : FmtM)
  | barinit (m : FmtM)
  | bararr (m : FmtM)
  | barwait (m : FmtM)
  -- Lilux-1: tiles, engines, fabric (R358)
  | tLd (e : FmtE)
  | tSt (e : FmtE)
  | tRel (e : FmtE)
  | tZero (e : FmtE)
  | tStat (e : FmtE)
  | tTr (e : FmtE)
  | mmTern (bank clr : Bool) (e : FmtE)
  | mmMx4 (bank clr : Bool) (e : FmtE)
  | mmD (clr : Bool) (e : FmtE)
  | drain (d : DrainF) (e : FmtE)
  | drainM (d : DrainF) (e : FmtE)
  | copy (e : FmtE)
  | gath (e : FmtE)
  | nmcAxpy (e : FmtE)
  | nmcSgd (e : FmtE)
  | nmcScal (e : FmtE)
  | nmcFill (e : FmtE)
  | nmcSum (e : FmtE)
  | nmcFadd (e : FmtE)
  | collAllredSum (e : FmtE)
  | collAllredMax (e : FmtE)
  | collAllgat (e : FmtE)
  | collRedsc (e : FmtE)
  | collBcast (e : FmtE)
  | collGbar (e : FmtE)
  | rwr (e : FmtE)
  | rrd (e : FmtE)
  -- Lilux-1: system forms (R385)
  | trap (f : FmtA)
  | temit (f : FmtA)
  | brk (e : FmtE)
  | srd (reg : SReg) (f : FmtA)
  | swrEvsel (n : BitVec 2) (e : FmtE)
  | swrEvc (n : BitVec 2) (e : FmtE)
  | swrBeat (e : FmtE)
  | swrQerr (e : FmtE)
  | swrQcons (e : FmtE)
  | launch (e : FmtE)
  | launchDisp (e : FmtE)
  | launchRecfg (e : FmtE)
  | time (f : FmtA)
  | chk (f : FmtA)
  -- power, pins, boot and training (R30 to R41)
  | bridgeLinkTraining (failing : List (Nat × Nat × Nat))
  | fretSelfTest (defective : List Nat)
  | hostLinkTrained (rate width : Nat) (cxl : Bool)
  | folgarPortTrained (port : Nat) (mode : FolgarMode)
  | bridgeFlitCrcFail (link : Nat) (retrainOk : Bool)
  | folgarFlitReceive (port vc : Nat) (flit : List Byte)
  | ptpSync (sync : PtpSync)
  | powerEvaluation (watts : Nat)
  | thermalThreshold (sensor temp : Nat)
  | thermalTrip (sensor temp : Nat)
  | patrolScrubVisit (channel line : Nat)
  | epurnReadCommand (off : Nat)
  | deviceIdWrite (v : BitVec 20)
  | epPlimWrite (v : BitVec 32)
  | epResetWrite (v : BitVec 32)
  | pldmFirmwareUpdate (image : FwImage)
  | spdmRequest (msg : SpdmMsg)
  -- host registers, BAR2 and queues (R49 to R61)
  | registerWrite (window : BarWindow) (off size : Nat) (v : Word)
  | bar2Read (fn off len : Nat)
  | bar2Write (fn off : Nat) (bytes : List Byte)
  | hfEvtClear (fn : Nat) (v : Word)
  | queueEnable (fn queue : Nat) (v : Word)
  | queueDisable (fn queue : Nat) (v : Word)
  -- scheduling (R70 to R106)
  | workItemIssue (task pl : Nat)
  | placementRelease (task pl : Nat)
  | fretMove (src : Nat) (goal : MoveGoal)
  | hostKill (fn : Nat) (v : Word)
  | gangHoldReceive (gid : BitVec 32) (at_ : Nat)
  | gangFreezeInstant (gid : BitVec 32)
  | gangReleaseReceive (gid : BitVec 32) (at_ : Nat)
  | gangResumeInstant (gid : BitVec 32)
  -- tokens, waves and threads (R107 to R140)
  | flushMarkerArrival (pf cluster : Nat)
  | earlyReadPerform (task pl : Nat) (tag : Tag) (own : BitVec 6)
  | waveCommit (task pl : Nat) (tag : Tag)
  | heldOperationIssue (task pl : Nat) (tag : Tag)
  | endtTagReturn (task pl : Nat) (tag : Tag)
  | tagUnitSpawn (task pl : Nat)
  | faultReportArrival (task n : Nat)
  -- homes, host-line cache, counted lines (R151 to R166)
  | hlcClusterRead (n : Nat) (exclusive : Bool)
  -- access counters, invalidation, migration (R170 to R176)
  | accessQueueConsume (v : Word)
  | invalidationStart (fn : Nat) (v : Word)
  -- HBM PHY windows (R38, R39)
  | hphyProbeStart (ch : Nat) (v : Word)
  | hphyProbeComplete (ch : Nat) (pass : Word) (spass : BitVec 2)
  | hphySetChst (ch : Nat) (v : Word)
  | hphyPatternTestStart (ch : Nat) (v : Word)
  | hphyPatternTestComplete (ch : Nat) (errcnt : BitVec 16) (errdq : Word)
  -- fabric (R380 to R383)
  | remoteWriteServe (gid : BitVec 32) (addr : Nat) (bytes : List Byte) (poisoned : Bool)
  | remoteReadServe (gid : BitVec 32) (addr len : Nat)
  | collEntry (peer : CollPeer)
  | collTimeout (cid : BitVec 32)
  -- trace and debug (R227 to R236)
  | dbgStep (v : Word)
  -- rows at the table's end
  | cxlMemAccess (write : Bool) (addr : Nat) (bytes : List Byte)
  -- power, pins, boot and training (R30 to R41)
  | auxColdStart
  | pwrEnAssert
  | pwrEnDeassert
  | perstNAssert
  | perstNDeassert
  | hubSecurityBoot
  | hbmTrainingPhaseEnd
  | dispatcherStart
  | phaseTimeout
  | configRequest
  | folgarTrainingTimeout
  | clockChange
  | cooldownExpiry
  | heartbeatWatchdog
  | pldmPlatformMonitoring
  -- host registers, BAR2 and queues (R49 to R61)
  | dispatchPick
  -- scheduling (R70 to R106)
  | leaseWalkResume
  | quotaAdmit
  | fretwaitService
  | drainVictimExpiry
  | fretLoad
  | placementGrowth
  | fretScrubComplete
  | fretMoveComplete
  | taskEnd
  | taskDone
  | checkpointStart
  | checkpointWriteComplete
  | checkpointTimeout
  | taskResume
  | taskKill
  | killDrainTimeout
  | pfFlr
  | vfFlr
  | flrDrainComplete
  | flrDrainTimeout
  | hostLinkLoss
  | linkLossTimeout
  | hostLinkRetrain
  | sliceStart
  | sliceEnd
  -- tokens, waves and threads (R107 to R140)
  | tokenArrival
  | reconfigurationToken
  | reconfigRewriteComplete
  | reconfigScrubExpiry
  | wobEntryAdmit
  | chainOperationArrival
  | readReply
  | storeAck
  | faultFreezeComplete
  -- homes, host-line cache, counted lines (R151 to R166)
  | homeReadMiss
  | homeWriteMiss
  | homePerformedAccess
  | cleanEvictionNotice
  | dirtyWriteBack
  | invalidationReceive
  | forwardRecallReceive
  | ackReceive
  | hlcWrite
  | hostSnoopData
  | hostSnoopInvalidate
  | countedEstablishment
  | consumingRead
  | relcScan
  -- access counters, invalidation, migration (R170 to R176)
  | hfAcovfClear
  | invalidationComplete
  | migrationRecordConsume
  | migrationPieceCopy
  | migrationSwitchOver
  -- barriers, waits, prefetch (R346 to R352)
  | barrierRequestServe
  | barwaitResend
  | waitlSlicePoll
  | waitlHostPoll
  | prefComplete
  -- engines (R354 to R357)
  | engineCommandAccept
  | engineCommandStart
  | engineCommandComplete
  -- fabric (R380 to R383)
  | remoteRequestTimeout
  -- trace and debug (R227 to R236)
  | traceMerge
  | clusterPowerGate
  | debugAttach
  | dbgHalt
  | dbgResume
  | dbgEnd
  | dbgKill
  | dbgDump
  -- rows at the table's end
  | killDrainComplete
  | checkpointSettleComplete
  deriving DecidableEq, Repr

end Sys2Proof
end

