-- ==== Sys2Proof/Config.lean ====
section
/-!
DEFINITION. Config.lean: what an implementation fixes, and the values the manual leaves open. A constant without a body
is an open value: no proof can see what it is.
-/
namespace Sys2Proof.Config

/-- Functions whose results R317 only bounds. -/
inductive ApproxFn
  | rcp | rsq | exp2 | log2 | tanh | sin | cos | sig
  deriving DecidableEq, Repr

/-- The open choice of an approximated result (R317): a fixed function of the operand bits, `TYPE` and `MOD`. The machine
keeps the result within what R317 says of it. -/
opaque approx : ApproxFn → ETy → Rm → Bool → Nat → Nat

/-- Silicon revision (`EP_ID`, `HF_ID`; R46, R54): fixed for the device, its value not given. -/
opaque siliconRev : BitVec 16

/-- The firmware key, as its 57 bytes (R34, R250): the manual gives none. -/
opaque firmwareKey : BitVec 456

/-- The CRC-32 a Folgar flit or bridge flit carries (R21, R10): the polynomial lies outside the manual. -/
opaque crc32 : List (BitVec 8) → BitVec 32

/-- Which line a full set of the memory-side cache gives up to let a line in (R141 gives no rule). -/
opaque mscVictim : Nat → Nat

/-- Which entry a full TLB gives up to let a translation in (R169 gives no rule). -/
opaque tlbVictim : Nat → Nat

/-- After how many cycles a cluster sees an uncached host store, by the store's number and the cluster (R180 gives no bound). -/
opaque postDelay : Nat → Nat → Nat

/-- How many cycles after a reconfiguration token has arrived a cluster takes the new map generation, by config-local fret and cluster (R137 gives no
time). -/
opaque mapDelay : Nat → Nat → Nat

/-- Where a window of 16 cycles has its run of frozen ones (R26 gives their share and no place). -/
opaque dutyPhase : Nat → Nat

/-- By which of the ports that carry data, and on which virtual channel, a message to a device leaves (R21 gives no rule). -/
opaque folgarPath : Nat → Nat × Nat

/-- The private part of the device's identity key, as its 57 bytes (R36): the manual gives none. -/
opaque identityKey : BitVec 456

/-- Bytes of an SPDM answer beyond the digests the manual gives (R36). -/
opaque spdmBytes : Nat → List (BitVec 8)

/-- A byte of a page whose migration was abandoned (R174), or of data the manual calls undefined. -/
opaque freeByte : Nat → BitVec 8

/-- The set of the host-line cache that a line takes (R155 gives ways and no index). -/
opaque hlcSet : Nat → Nat

/-- A word the manual leaves open. -/
opaque freeWord : Nat → BitVec 64

end Sys2Proof.Config
end

