-- ==== Sys2Proof/Machine/Forms.lean ====
section
/-!
DEFINITION. Machine/Forms.lean: what R261 and the tables of R276, R285, R291, R295, R306 to R325, R328, R358 and R385 say of
each Lilux-1 form: its opcode, its legal types, access codes, formats and mod fields, the ports it takes, its sub-operation
fields, and the checks of one record (R262 codes 4 and 5, as far as one record decides them).
-/
namespace Sys2Proof

/-! ### Codes of the named fields -/

/-- The `TYPE` code of an element type (R196). -/
def ETy.code : ETy → Nat
  | .b64 => 0 | .s8x8 => 1 | .s16x4 => 2 | .s32x2 => 3 | .s64 => 4 | .n8x8 => 5 | .n16x4 => 6 | .n32x2 => 7 | .n64 => 8
  | .f32x2 => 9 | .bf16x4 => 10 | .f16x4 => 11 | .e4m3x8 => 12 | .e5m2x8 => 13 | .f64 => 14

/-- The element type of a `TYPE` code (R196); code 15 is reserved. -/
def ETy.ofCode : Nat → Option ETy
  | 0 => some .b64 | 1 => some .s8x8 | 2 => some .s16x4 | 3 => some .s32x2 | 4 => some .s64 | 5 => some .n8x8
  | 6 => some .n16x4 | 7 => some .n32x2 | 8 => some .n64 | 9 => some .f32x2 | 10 => some .bf16x4 | 11 => some .f16x4
  | 12 => some .e4m3x8 | 13 => some .e5m2x8 | 14 => some .f64 | _ => none

/-- Lane width of a type (R196). -/
def ETy.width : ETy → Nat
  | .b64 | .s64 | .n64 | .f64 => 64
  | .s32x2 | .n32x2 | .f32x2 => 32
  | .s16x4 | .n16x4 | .bf16x4 | .f16x4 => 16
  | .s8x8 | .n8x8 | .e4m3x8 | .e5m2x8 => 8

/-- Lane count of a type (R196). -/
def ETy.lanes (t : ETy) : Nat := 64 / t.width

/-- A type with two's-complement lanes. -/
def ETy.signed : ETy → Bool
  | .s8x8 | .s16x4 | .s32x2 | .s64 => true
  | _ => false

/-- An integer type, codes 1 to 8. -/
def ETy.isInt (t : ETy) : Bool := 1 ≤ t.code && t.code ≤ 8

/-- The `RM` code (R204). -/
def Rm.code : Rm → Nat
  | .rne => 0 | .rtz => 1 | .rdn => 2 | .rup => 3 | .rna => 4 | .srd => 5

/-- The rounding mode of an `RM` code (R204); 6 and 7 are reserved. -/
def Rm.ofCode : Nat → Option Rm
  | 0 => some .rne | 1 => some .rtz | 2 => some .rdn | 3 => some .rup | 4 => some .rna | 5 => some .srd | _ => none

/-- The `PORT` code of a destination word (R256). -/
def DPort.code : DPort → Nat
  | .left => 0 | .right => 1 | .aux => 2 | .sink => 3

/-- The port of a `PORT` code (R256). -/
def DPort.ofCode : Nat → DPort
  | 0 => .left | 1 => .right | 2 => .aux | _ => .sink

/-- The `IMMSEL` code (R255). -/
def ImmSel.code : ImmSel → Nat
  | .none => 0 | .left => 1 | .right => 2

/-- The immediate's port of an `IMMSEL` code (R255); 3 is reserved. -/
def ImmSel.ofCode : Nat → Option ImmSel
  | 0 => some .none | 1 => some .left | 2 => some .right | _ => Option.none

/-- The `PMODE` code (R255). -/
def PMode.code : PMode → Nat
  | .none => 0 | .onTrue => 1 | .onFalse => 2

/-- The predicate mode of a `PMODE` code (R255); 3 is reserved. -/
def PMode.ofCode : Nat → Option PMode
  | 0 => some .none | 1 => some .onTrue | 2 => some .onFalse | _ => Option.none

/-- The `ACC` code (R259). -/
def Acc.code : Acc → Nat
  | .n8 => 0 | .n16 => 1 | .n32 => 2 | .n64 => 3 | .s8 => 4 | .s16 => 5 | .s32 => 6 | .s64 => 7

/-- The access of an `ACC` code (R259); 8 to 15 are reserved. -/
def Acc.ofCode : Nat → Option Acc
  | 0 => some .n8 | 1 => some .n16 | 2 => some .n32 | 3 => some .n64 | 4 => some .s8 | 5 => some .s16 | 6 => some .s32
  | 7 => some .s64 | _ => none

/-- Size in bytes of an access (R259). -/
def Acc.size : Acc → Nat
  | .n8 | .s8 => 1 | .n16 | .s16 => 2 | .n32 | .s32 => 4 | .n64 | .s64 => 8

/-- Codes 4 and above sign-extend a loaded value (R259, R330). -/
def Acc.signed : Acc → Bool
  | .s8 | .s16 | .s32 | .s64 => true
  | _ => false

/-- The `SCOPE` code (R183). -/
def Scope.code : Scope → Nat
  | .thread => 0 | .cluster => 1 | .placement => 2 | .task => 3 | .die => 4 | .device => 5 | .host => 6 | .gang => 7

/-- The scope of a `SCOPE` code (R183). -/
def Scope.ofCode : Nat → Option Scope
  | 0 => some .thread | 1 => some .cluster | 2 => some .placement | 3 => some .task | 4 => some .die | 5 => some .device
  | 6 => some .host | 7 => some .gang | _ => none

/-- The 7-bit value of a pred or succ (R123). -/
def SeqLink.code : SeqLink → Nat
  | .own n => n.toNat | .edge => 126 | .unknown => 127

/-- The pred or succ of a 7-bit value (R123); 64 to 125 are illegal. -/
def SeqLink.ofCode (v : Nat) : Option SeqLink :=
  if v < 64 then some (.own (BitVec.ofNat 6 v)) else if v = 126 then some .edge else if v = 127 then some .unknown else none

/-- The kind of a fence, carried in `ACC` (R259). -/
def FenceKind.code : FenceKind → Nat
  | .acquire => 1 | .release => 2 | .full => 3

/-- The `TFMT` code (R201). -/
def TFmt.code : TFmt → Nat
  | .mx4 => 0 | .trit => 1 | .s8 => 2 | .e4m3 => 3 | .e5m2 => 4 | .bf16 => 5 | .f16 => 6 | .f32 => 7 | .s32 => 8

/-- The tile format of a `TFMT` code (R201); 9 to 15 are illegal. -/
def TFmt.ofCode : Nat → Option TFmt
  | 0 => some .mx4 | 1 => some .trit | 2 => some .s8 | 3 => some .e4m3 | 4 => some .e5m2 | 5 => some .bf16 | 6 => some .f16
  | 7 => some .f32 | 8 => some .s32 | _ => none

/-- The condition code of `cmp` (R260). -/
def ICmp.code : ICmp → Nat
  | .eq => 0 | .ne => 1 | .lt => 2 | .le => 3 | .gt => 4 | .ge => 5

/-- The condition of a `cmp` code (R260). -/
def ICmp.ofCode : Nat → Option ICmp
  | 0 => some .eq | 1 => some .ne | 2 => some .lt | 3 => some .le | 4 => some .gt | 5 => some .ge | _ => none

/-- The condition code of `fcmp` (R260). -/
def FCmp.code : FCmp → Nat
  | .eq => 0 | .ne => 1 | .lt => 2 | .le => 3 | .gt => 4 | .ge => 5 | .un => 6

/-- The condition of an `fcmp` code (R260). -/
def FCmp.ofCode : Nat → Option FCmp
  | 0 => some .eq | 1 => some .ne | 2 => some .lt | 3 => some .le | 4 => some .gt | 5 => some .ge | 6 => some .un | _ => none

/-- `SUBOP`[1:0] of a drain (R365). -/
def AccSel.code : AccSel → Nat
  | .bank0 => 0 | .bank1 => 1 | .dense => 2

/-- The accumulator of `SUBOP`[1:0] of a drain (R365); 3 is illegal. -/
def AccSel.ofCode : Nat → Option AccSel
  | 0 => some .bank0 | 1 => some .bank1 | 2 => some .dense | _ => none

/-- `XF`[1:0] of a drain (R368). -/
def GSel.code : GSel → Nat
  | .none => 0 | .g1 => 1 | .g8 => 2 | .g32 => 3

/-- The group scales of `XF`[1:0] of a drain (R368). -/
def GSel.ofCode : Nat → GSel
  | 0 => .none | 1 => .g1 | 2 => .g8 | _ => .g32

/-- The number of a system register (R388). -/
def SReg.code : SReg → Nat
  | .time => 0 | .task => 1 | .place => 2 | .home => 3 | .fret => 4 | .elem => 5 | .cls => 6 | .flags => 7
  | .evsel n => 0x10 + n.toNat | .evc n => 0x14 + n.toNat | .beat => 0x20 | .qerr => 0x21 | .qcons => 0x22

/-- The system register of a number (R388); a number not listed is rejected. -/
def SReg.ofCode (v : Nat) : Option SReg :=
  match v with
  | 0 => some .time | 1 => some .task | 2 => some .place | 3 => some .home | 4 => some .fret | 5 => some .elem
  | 6 => some .cls | 7 => some .flags
  | 0x10 => some (.evsel 0) | 0x11 => some (.evsel 1) | 0x12 => some (.evsel 2) | 0x13 => some (.evsel 3)
  | 0x14 => some (.evc 0) | 0x15 => some (.evc 1) | 0x16 => some (.evc 2) | 0x17 => some (.evc 3)
  | 0x20 => some .beat | 0x21 => some .qerr | 0x22 => some .qcons
  | _ => none

/-! ### Type sets of R261 -/

/-- I: every integer type. -/
def tyI : List ETy := [.s8x8, .s16x4, .s32x2, .s64, .n8x8, .n16x4, .n32x2, .n64]
/-- S: the signed integer types. -/
def tyS : List ETy := [.s8x8, .s16x4, .s32x2, .s64]
/-- W: the integer types whose lanes can widen. -/
def tyW : List ETy := [.s8x8, .s16x4, .s32x2, .n8x8, .n16x4, .n32x2]
/-- L: the packed types. -/
def tyL : List ETy := [.s8x8, .s16x4, .s32x2, .n8x8, .n16x4, .n32x2, .f32x2, .bf16x4, .f16x4, .e4m3x8, .e5m2x8]
/-- F: the floating-point types of at least 16 bits. -/
def tyF : List ETy := [.f32x2, .bf16x4, .f16x4, .f64]
/-- E: every floating-point type. -/
def tyE : List ETy := [.f32x2, .bf16x4, .f16x4, .e4m3x8, .e5m2x8, .f64]
/-- Untyped bits alone. -/
def tyB : List ETy := [.b64]

/-! ### Descriptors -/

/-- The ports a form takes its operands on (R111), and which an immediate may replace (R258). -/
structure Sig where
  left : Bool
  right : Bool
  aux : Bool
  immL : Bool
  immR : Bool
  deriving DecidableEq, Repr

/-- Classes of the chain forms (R125). -/
inductive Cls
  | earlyRead | held | orderOnly
  deriving DecidableEq, Repr

/-- What R261 and its table say of a Format A form. -/
structure DescA where
  op : Nat
  sub : Nat
  f : FmtA
  types : List ETy
  sat : Bool
  rm : Bool
  sig : Sig
  immReq : Bool
  side : Bool
  noDest : Bool
  extra : Bool
  deriving DecidableEq, Repr

/-- What R261 and its table say of a Format M form. -/
structure DescM where
  op : Nat
  sub : Nat
  accCode : Nat
  m : FmtM
  accs : List Acc
  anyScope : Bool
  sig : Sig
  noOff : Bool
  needExt : Bool
  noDest : Bool
  priv : Bool
  cls : Cls
  deriving DecidableEq, Repr

/-- What R261 and its table say of a Format E form. Every one is a held operation (R354, R385). -/
structure DescE where
  op : Nat
  subop : Nat
  xf : Nat
  e : FmtE
  tfmts : List TFmt
  sat : Bool
  rm : Bool
  sig : Sig
  useTa : Bool
  useTb : Bool
  useTc : Bool
  useCount : Bool
  needExt : Bool
  priv : Bool
  extra : Bool
  deriving DecidableEq, Repr

/-- A form of one of the three formats, or a device event, which has no encoding. -/
inductive Desc
  | a (d : DescA)
  | m (d : DescM)
  | e (d : DescE)
  | event
  deriving DecidableEq, Repr

/-- Ports with no immediate. -/
def sigN (l r x : Bool) : Sig := ⟨l, r, x, false, false⟩
/-- One operand on the left port. -/
def sig1 : Sig := ⟨true, false, false, false, false⟩
/-- Left and right, either of which may be an immediate. -/
def sig2 : Sig := ⟨true, true, false, true, true⟩
/-- Left, right and aux; left or right may be an immediate. -/
def sig3 : Sig := ⟨true, true, true, true, true⟩
/-- Left and right; right may be an immediate. -/
def sig2R : Sig := ⟨true, true, false, false, true⟩

/-- A Format A form without sub-operation, side words or further rules. -/
def rowA (op : Nat) (types : List ETy) (sat rm : Bool) (sig : Sig) (f : FmtA) : Desc :=
  .a ⟨op, 0, f, types, sat, rm, sig, false, false, false, true⟩

/-- A Format A form with a `SUB` field, and the condition its description puts on the record. -/
def rowAS (op sub : Nat) (types : List ETy) (sat rm : Bool) (sig : Sig) (f : FmtA) (extra : Bool := true) : Desc :=
  .a ⟨op, sub, f, types, sat, rm, sig, false, false, false, extra⟩

/-- `cvt` pairs of R318: not the same type, not both integer, no `SAT` toward an integer; R319's limits on part and merge. -/
def cvtLegal (s d : ETy) (part : BitVec 3) (mrg sat : Bool) : Bool :=
  s ≠ d && d ≠ .b64 && !(s.isInt && d.isInt) && !(sat && d.isInt)
    && part.toNat < Nat.max s.lanes d.lanes / Nat.min s.lanes d.lanes && (!mrg || s.lanes < d.lanes)

/-- The part limit of `mxq` and `mxdq` (R321). -/
def mxPartLegal (t : ETy) (part : BitVec 3) : Bool := t = .f32x2 || part.toNat < 4

/-- A Format M form. -/
def rowM (op : Nat) (accs : List Acc) (anyScope : Bool) (sig : Sig) (cls : Cls) (m : FmtM) : DescM :=
  ⟨op, 0, m.acc.code, m, accs, anyScope, sig, false, false, false, false, cls⟩

/-- An `atom` of sub-operation `sub` (R260, R341): all but `add` need the extension word. -/
def rowAtom (sub : Nat) (accs : List Acc) (sig : Sig) (m : FmtM) : Desc :=
  .m { rowM 0x9D accs false sig .held m with sub := sub, needExt := sub ≠ 0 }

/-- Accesses `n8` to `s64`. -/
def accAll : List Acc := [.n8, .n16, .n32, .n64, .s8, .s16, .s32, .s64]
/-- Accesses of a store. -/
def accSt : List Acc := [.n8, .n16, .n32, .n64]

/-- A Format E form without sub-operation or extension fields. -/
def rowE (op : Nat) (tfmts : List TFmt) (sig : Sig) (useTa useTb : Bool) (e : FmtE) : DescE :=
  ⟨op, 0, 0, e, tfmts, false, false, sig, useTa, useTb, false, false, false, false, true⟩

/-- Every tile format. -/
def tfAll : List TFmt := [.mx4, .trit, .s8, .e4m3, .e5m2, .bf16, .f16, .f32, .s32]
/-- Format code 0 alone. -/
def tf0 : List TFmt := [.mx4]
/-- Output formats of a drain, codes 2 to 8. -/
def tfDrain : List TFmt := [.s8, .e4m3, .e5m2, .bf16, .f16, .f32, .s32]

/-- `SUBOP` of `mm.tern` and `mm.mx4` (R365). -/
def mmSubop (bank clr : Bool) : Nat := bank.toNat + 2 * clr.toNat

/-- `SUBOP` of a drain (R365). -/
def DrainF.subop (d : DrainF) : Nat := d.acc.code + 4 * d.clr.toNat

/-- `XF` of a drain (R368). -/
def DrainF.xf (d : DrainF) : Nat := d.gsel.code + 4 * d.rowsc.toNat + 8 * d.nout.toNat

/-- Whether a drain steers to one of several output tiles (R370). -/
def DrainF.steered (d : DrainF) : Bool := 2 ≤ d.nout.toNat

/-- The rules of R209, R368, R370 and R371 on a drain's record. -/
def drainLegal (d : DrainF) (e : FmtE) : Bool :=
  !(e.sat && (e.tfmt = .s8 || e.tfmt = .s32)) && (d.rowsc || e.ta = 0) && (d.gsel ≠ .none || e.tb = 0)
    && e.tc.toNat + (d.nout.toNat - 1) ≤ 255 && (!d.steered || e.dests.length = d.nout.toNat)

/-- A Format E form whose sub-operation or register number stands in `SUBOP` or `XF`. -/
def rowX (op subop xf : Nat) (sig : Sig) (needExt priv : Bool) (e : FmtE) : Desc :=
  .e { rowE op tf0 sig false false e with subop := subop, xf := xf, needExt := needExt, priv := priv }

/-- `nmc` sub-operation `sub` (R260, R376). -/
def rowNmc (sub : Nat) (e : FmtE) : Desc :=
  .e { rowE 0xCD [.f32] (sigN true true true) false false e with subop := sub, rm := true, useCount := true, needExt := true }

/-- `coll` sub-operation `sub` (R260, R382). -/
def rowColl (sub : Nat) (e : FmtE) : Desc :=
  .e { rowE 0xCE [.bf16, .f32, .s32] sig1 false false e with subop := sub, rm := true }

/-- The descriptor of every form (R261). -/
def Instr.desc : Instr → Desc
  | .steer f => .a ⟨0x01, 0, f, tyB, false, false, sig2, false, true, false, true⟩
  | .select f => .a ⟨0x02, 0, f, tyB, false, false, sig3, false, true, false, true⟩
  | .wadv f => rowA 0x03 tyB false false sig1 f
  | .wset f => rowA 0x04 tyB false false sig2R f
  | .mov f => rowA 0x05 tyB false false sig1 f
  | .const f => .a ⟨0x06, 0, f, tyB, false, false, sig2R, true, false, false, true⟩
  | .sink f => .a ⟨0x07, 0, f, tyB, false, false, sig1, false, false, true, true⟩
  | .gate f => rowA 0x08 tyB false false sig2R f
  | .join three f => rowAS 0x09 (16 * three.toNat) tyB false false (if three then sig3 else sig2) f
  | .idx f => .a ⟨0x0A, 0, f, tyB, false, false, sig2R, true, false, false, f.immh = none && f.imm32.toNat ≤ 5⟩
  | .spawn f => .a ⟨0x0B, 0, f, tyB, false, false, sig1, false, true, false, true⟩
  | .send f => rowA 0x0C tyB false false sig2R f
  | .tagof f => rowA 0x0D tyB false false sig1 f
  | .endt f => .a ⟨0x0E, 0, f, tyB, false, false, sig1, false, false, true, true⟩
  | .add f => rowA 0x20 tyI true false sig2 f
  | .sub f => rowA 0x21 tyI true false sig2 f
  | .addc co f => rowAS 0x22 (16 * co.toNat) [.s64, .n64] false false sig3 f
  | .subb bo f => rowAS 0x23 (16 * bo.toNat) [.s64, .n64] false false sig3 f
  | .neg f => rowA 0x24 tyS true false sig1 f
  | .abs f => rowA 0x25 tyS true false sig1 f
  | .mul f => rowA 0x26 tyI false false sig2 f
  | .mulh f => rowA 0x27 tyI false false sig2 f
  | .mulw odd f => rowAS 0x28 odd.toNat tyW false false sig2 f
  | .mad f => rowA 0x29 tyI false false sig3 f
  | .div f => rowA 0x2A tyI false false sig2 f
  | .rem f => rowA 0x2B tyI false false sig2 f
  | .min f => rowA 0x2C tyI false false sig2 f
  | .max f => rowA 0x2D tyI false false sig2 f
  | .avg f => rowA 0x2E tyI false false sig2 f
  | .sad f => rowA 0x2F [.s8x8, .s16x4, .n8x8, .n16x4] false false sig2 f
  | .and f => rowA 0x30 tyB false false sig2 f
  | .or f => rowA 0x31 tyB false false sig2 f
  | .xor f => rowA 0x32 tyB false false sig2 f
  | .andn f => rowA 0x33 tyB false false sig2 f
  | .not f => rowA 0x34 tyB false false sig1 f
  | .shl f => rowA 0x35 tyI false false sig2 f
  | .shr f => rowA 0x36 tyI false false sig2 f
  | .sar f => rowA 0x37 tyI false false sig2 f
  | .rot f => rowA 0x38 tyI false false sig2 f
  | .shrp f => rowA 0x39 tyB false false sig3 f
  | .clz f => rowA 0x3A tyI false false sig1 f
  | .ctz f => rowA 0x3B tyI false false sig1 f
  | .popc f => rowA 0x3C tyI false false sig1 f
  | .brev f => rowA 0x3D tyI false false sig1 f
  | .bext f => rowA 0x3E tyB false false sig2 f
  | .bdep f => rowA 0x3F tyB false false sig2 f
  | .perm f => rowA 0x40 tyB false false sig3 f
  | .mix hi f => rowAS 0x41 hi.toNat tyL false false sig2 f
  | .bcast f => rowA 0x42 tyL false false sig2 f
  | .pack f => rowA 0x43 [.s16x4, .s32x2, .s64, .n16x4, .n32x2, .n64] true false sig2 f
  | .unpk hi f => rowAS 0x44 hi.toNat tyW false false sig1 f
  | .cmp cc f => rowAS 0x45 cc.code tyI false false sig2 f
  | .btst f => rowA 0x46 tyB false false sig2 f
  | .blend f => rowA 0x47 tyL false false sig3 f
  | .lea scale f => rowAS 0x48 (16 * scale.toNat) [.n64] false false sig2 f
  | .fadd f => rowA 0x60 tyF true true sig2 f
  | .fsub f => rowA 0x61 tyF true true sig2 f
  | .fmul f => rowA 0x62 tyF true true sig2 f
  | .fma f => rowA 0x63 tyF true true sig3 f
  | .fmin f => rowA 0x64 tyF false false sig2 f
  | .fmax f => rowA 0x65 tyF false false sig2 f
  | .fabs f => rowA 0x66 tyE false false sig1 f
  | .fneg f => rowA 0x67 tyE false false sig1 f
  | .fcmp cc f => rowAS 0x68 cc.code tyE false false sig2 f
  | .fclass f => rowA 0x69 tyE false false sig2R f
  | .frcp f => rowA 0x6A tyF true true sig1 f
  | .frsq f => rowA 0x6B tyF true true sig1 f
  | .fsqrt f => rowA 0x6C tyF true true sig1 f
  | .fdiv f => rowA 0x6D tyF true true sig2 f
  | .fexp2 f => rowA 0x6E tyF true true sig1 f
  | .flog2 f => rowA 0x6F tyF true true sig1 f
  | .ftanh f => rowA 0x70 tyF true true sig1 f
  | .fsin f => rowA 0x71 tyF true true sig1 f
  | .fcos f => rowA 0x72 tyF true true sig1 f
  | .fsig f => rowA 0x73 tyF true true sig1 f
  | .fround f => rowA 0x74 tyF false true sig1 f
  | .fscl f => rowA 0x75 tyF true true sig2R f
  | .cvt d part mrg f => rowAS 0x76 (d.code + 16 * part.toNat + 128 * mrg.toNat) (tyI ++ tyE) true true (if mrg then sig2R else sig1) f (cvtLegal f.ty d part mrg f.sat)
  | .famax f => rowA 0x77 tyE false false sig2 f
  | .fsum f => rowA 0x78 tyF true true sig2 f
  | .fdot2 f => rowA 0x79 [.bf16x4, .f16x4, .e4m3x8, .e5m2x8] true true sig3 f
  | .mxscale f => rowA 0x7A [.f32x2, .bf16x4] false false sig1 f
  | .mxq part f => rowAS 0x7B (16 * part.toNat) [.f32x2, .bf16x4] false true sig2R f (mxPartLegal f.ty part)
  | .mxdq part f => rowAS 0x7C (16 * part.toNat) [.f32x2, .bf16x4] false false sig2R f (mxPartLegal f.ty part)
  | .tpack part f => rowAS 0x7D (16 * part.toNat) [.s8x8] false false sig1 f
  | .tunpk part f => rowAS 0x7E (16 * part.toNat) [.s8x8] false false sig1 f
  | .ld m => .m (rowM 0x90 accAll false sig1 .earlyRead m)
  | .ldAcq m => .m (rowM 0x91 accAll true sig1 .earlyRead m)
  | .ldIo m => .m { rowM 0x92 [.n64] false sig1 .earlyRead m with priv := true }
  | .ldnt m => .m (rowM 0x93 accAll false sig1 .earlyRead m)
  | .st m => .m (rowM 0x94 accSt false (sigN true true false) .held m)
  | .stRel m => .m (rowM 0x95 accSt true (sigN true true false) .held m)
  | .stIo m => .m { rowM 0x96 [.n64] false (sigN true true false) .held m with priv := true }
  | .ldc m => .m (rowM 0x97 accAll false sig1 .held m)
  | .stc m => .m (rowM 0x98 accSt false (sigN true true true) .held m)
  | .fillc m => .m (rowM 0x99 [.n8] false (sigN true true false) .held m)
  | .relc m => .m (rowM 0x9A [.n8] false (sigN true true false) .held m)
  | .cntq m => .m (rowM 0x9B [.n8] false sig1 .earlyRead m)
  | .memnop m => .m { rowM 0x9C [.n8] false sig1 .orderOnly m with noOff := true, noDest := true }
  | .atomAdd m => rowAtom 0 [.n32, .n64] (sigN true true false) m
  | .atomMin m => rowAtom 1 [.n32, .n64, .s32, .s64] (sigN true true false) m
  | .atomMax m => rowAtom 2 [.n32, .n64, .s32, .s64] (sigN true true false) m
  | .atomAnd m => rowAtom 3 [.n32, .n64] (sigN true true false) m
  | .atomOr m => rowAtom 4 [.n32, .n64] (sigN true true false) m
  | .atomXor m => rowAtom 5 [.n32, .n64] (sigN true true false) m
  | .atomXchg m => rowAtom 6 [.n32, .n64] (sigN true true false) m
  | .atomCas m => rowAtom 7 [.n32, .n64] (sigN true true true) m
  | .atomInc m => rowAtom 8 [.n32, .n64] sig1 m
  | .atomFadd m => rowAtom 9 [.n32, .n64] (sigN true true false) m
  | .fence kind m => .m { rowM 0x9E [.n8] true sig1 .held m with accCode := kind.code, noOff := true }
  | .pref m => .m (rowM 0x9F [.n8] false (sigN true true true) .held m)
  | .flush m => .m (rowM 0xA0 [.n8] false sig1 .held m)
  | .waitl m => .m (rowM 0xA1 [.n64] true (sigN true true false) .held m)
  | .barinit m => .m { rowM 0xA2 [.n8] false (sigN true true false) .held m with noOff := true }
  | .bararr m => .m { rowM 0xA3 [.n8] false sig1 .held m with noOff := true }
  | .barwait m => .m { rowM 0xA4 [.n8] false (sigN true true false) .held m with noOff := true }
  | .tLd e => .e { rowE 0xC0 tfAll (sigN true true false) true false e with useCount := true }
  | .tSt e => .e (rowE 0xC1 tf0 (sigN true true false) true false e)
  | .tRel e => .e (rowE 0xC2 tf0 sig1 true false e)
  | .tZero e => .e (rowE 0xC3 tfAll sig1 true false e)
  | .tStat e => .e (rowE 0xC4 tf0 sig1 true false e)
  | .tTr e => .e { rowE 0xC5 tf0 sig1 true true e with extra := e.ta ≠ e.tb }
  | .mmTern bank clr e => .e { rowE 0xC6 [.trit] sig1 true true e with subop := mmSubop bank clr }
  | .mmMx4 bank clr e => .e { rowE 0xC7 [.mx4] sig1 true true e with subop := mmSubop bank clr }
  | .mmD clr e => .e { rowE 0xC8 [.e4m3, .e5m2, .bf16, .f16] sig1 true true e with subop := 2 * clr.toNat }
  | .drain d e => .e { rowE 0xC9 tfDrain (sigN true false d.steered) true true e with subop := d.subop, xf := d.xf, sat := true, rm := true, useTc := true, extra := drainLegal d e }
  | .drainM d e => .e { rowE 0xCA tfDrain (sigN true true false) true true e with subop := d.subop, xf := d.xf, sat := true, rm := true, extra := drainLegal d e && d.nout = 0 }
  | .copy e => .e (rowE 0xCB tf0 sig1 false false e)
  | .gath e => .e (rowE 0xCC tfAll (sigN true true false) true true e)
  | .nmcAxpy e => rowNmc 0 e
  | .nmcSgd e => rowNmc 1 e
  | .nmcScal e => rowNmc 2 e
  | .nmcFill e => rowNmc 3 e
  | .nmcSum e => rowNmc 4 e
  | .nmcFadd e => rowNmc 5 e
  | .collAllredSum e => rowColl 0 e
  | .collAllredMax e => rowColl 1 e
  | .collAllgat e => rowColl 2 e
  | .collRedsc e => rowColl 3 e
  | .collBcast e => rowColl 4 e
  | .collGbar e => rowColl 5 e
  | .rwr e => .e (rowE 0xCF tf0 (sigN true true true) false false e)
  | .rrd e => .e (rowE 0xD0 tf0 (sigN true true true) false false e)
  | .trap f => .a ⟨0xF0, 0, f, tyB, false, false, sig1, false, false, true, true⟩
  | .temit f => .a ⟨0xF1, 0, f, tyB, false, false, sig1, false, false, true, true⟩
  | .brk e => rowX 0xF2 0 0 sig1 false false e
  | .srd reg f => .a ⟨0xF3, 0, { f with imm32 := BitVec.ofNat 32 reg.code }, tyB, false, false, sig2R, true, false, false, f.imm32 = 0 && f.immh = none⟩
  | .swrEvsel n e => rowX 0xF4 0 (0x10 + n.toNat) (sigN true true false) true true e
  | .swrEvc n e => rowX 0xF4 0 (0x14 + n.toNat) (sigN true true false) true true e
  | .swrBeat e => rowX 0xF4 0 0x20 (sigN true true false) true true e
  | .swrQerr e => rowX 0xF4 0 0x21 (sigN true true false) true true e
  | .swrQcons e => rowX 0xF4 0 0x22 (sigN true true false) true true e
  | .launch e => rowX 0xF5 0 0 sig1 false false e
  | .launchDisp e => .e { rowE 0xF5 tf0 (sigN true true false) false false e with subop := 1, priv := true, extra := e.pmode = .none }
  | .launchRecfg e => rowX 0xF5 2 0 sig1 false false e
  | .time f => rowA 0xF6 tyB false false sig1 f
  | .chk f => rowA 0xF7 tyB false false sig1 f
  | .bridgeLinkTraining _ => .event
  | .fretSelfTest _ => .event
  | .hostLinkTrained _ _ _ => .event
  | .hostLinkRetrain => .event
  | .folgarPortTrained _ _ => .event
  | .bridgeFlitCrcFail _ _ => .event
  | .folgarFlitReceive _ _ _ => .event
  | .ptpSync _ => .event
  | .powerEvaluation _ => .event
  | .thermalThreshold _ _ => .event
  | .thermalTrip _ _ => .event
  | .patrolScrubVisit _ _ => .event
  | .epurnReadCommand _ => .event
  | .deviceIdWrite _ => .event
  | .epPlimWrite _ => .event
  | .epResetWrite _ => .event
  | .pldmFirmwareUpdate _ => .event
  | .spdmRequest _ => .event
  | .registerWrite _ _ _ _ => .event
  | .bar2Read _ _ _ => .event
  | .bar2Write _ _ _ => .event
  | .hfEvtClear _ _ => .event
  | .queueEnable _ _ _ => .event
  | .queueDisable _ _ _ => .event
  | .workItemIssue _ _ => .event
  | .placementRelease _ _ => .event
  | .fretMove _ _ => .event
  | .hostKill _ _ => .event
  | .gangHoldReceive _ _ => .event
  | .gangFreezeInstant _ => .event
  | .gangReleaseReceive _ _ => .event
  | .gangResumeInstant _ => .event
  | .flushMarkerArrival _ _ => .event
  | .earlyReadPerform _ _ _ _ => .event
  | .waveCommit _ _ _ => .event
  | .heldOperationIssue _ _ _ => .event
  | .endtTagReturn _ _ _ => .event
  | .tagUnitSpawn _ _ => .event
  | .faultReportArrival _ _ => .event
  | .hlcClusterRead _ _ => .event
  | .accessQueueConsume _ => .event
  | .invalidationStart _ _ => .event
  | .hphyProbeStart _ _ => .event
  | .hphyProbeComplete _ _ _ => .event
  | .hphySetChst _ _ => .event
  | .hphyPatternTestStart _ _ => .event
  | .hphyPatternTestComplete _ _ _ => .event
  | .remoteWriteServe _ _ _ _ => .event
  | .remoteReadServe _ _ _ => .event
  | .collEntry _ => .event
  | .collTimeout _ => .event
  | .dbgStep _ => .event
  | .cxlMemAccess _ _ _ => .event
  | .auxColdStart => .event
  | .pwrEnAssert => .event
  | .pwrEnDeassert => .event
  | .perstNAssert => .event
  | .perstNDeassert => .event
  | .hubSecurityBoot => .event
  | .hbmTrainingPhaseEnd => .event
  | .dispatcherStart => .event
  | .phaseTimeout => .event
  | .configRequest => .event
  | .folgarTrainingTimeout => .event
  | .clockChange => .event
  | .cooldownExpiry => .event
  | .heartbeatWatchdog => .event
  | .pldmPlatformMonitoring => .event
  | .dispatchPick => .event
  | .leaseWalkResume => .event
  | .quotaAdmit => .event
  | .fretwaitService => .event
  | .drainVictimExpiry => .event
  | .fretLoad => .event
  | .placementGrowth => .event
  | .fretScrubComplete => .event
  | .fretMoveComplete => .event
  | .taskEnd => .event
  | .taskDone => .event
  | .checkpointStart => .event
  | .checkpointWriteComplete => .event
  | .checkpointTimeout => .event
  | .taskResume => .event
  | .taskKill => .event
  | .killDrainTimeout => .event
  | .pfFlr => .event
  | .vfFlr => .event
  | .flrDrainComplete => .event
  | .flrDrainTimeout => .event
  | .hostLinkLoss => .event
  | .linkLossTimeout => .event
  | .sliceStart => .event
  | .sliceEnd => .event
  | .tokenArrival => .event
  | .reconfigurationToken => .event
  | .reconfigRewriteComplete => .event
  | .reconfigScrubExpiry => .event
  | .wobEntryAdmit => .event
  | .chainOperationArrival => .event
  | .readReply => .event
  | .storeAck => .event
  | .faultFreezeComplete => .event
  | .homeReadMiss => .event
  | .homeWriteMiss => .event
  | .homePerformedAccess => .event
  | .cleanEvictionNotice => .event
  | .dirtyWriteBack => .event
  | .invalidationReceive => .event
  | .forwardRecallReceive => .event
  | .ackReceive => .event
  | .hlcWrite => .event
  | .hostSnoopData => .event
  | .hostSnoopInvalidate => .event
  | .countedEstablishment => .event
  | .consumingRead => .event
  | .relcScan => .event
  | .hfAcovfClear => .event
  | .invalidationComplete => .event
  | .migrationRecordConsume => .event
  | .migrationPieceCopy => .event
  | .migrationSwitchOver => .event
  | .barrierRequestServe => .event
  | .barwaitResend => .event
  | .waitlSlicePoll => .event
  | .waitlHostPoll => .event
  | .prefComplete => .event
  | .engineCommandAccept => .event
  | .engineCommandStart => .event
  | .engineCommandComplete => .event
  | .remoteRequestTimeout => .event
  | .traceMerge => .event
  | .clusterPowerGate => .event
  | .debugAttach => .event
  | .dbgHalt => .event
  | .dbgResume => .event
  | .dbgEnd => .event
  | .dbgKill => .event
  | .dbgDump => .event
  | .killDrainComplete => .event
  | .checkpointSettleComplete => .event

/-! ### The checks of one record -/

/-- Why a record is refused: CFG_BADOP (R262), except where a reason says another code. -/
inductive Reject
  /-- The bytes end before the record does (a structural fault, CFG_BADHDR). -/
  | truncated
  /-- An unassigned opcode (R261). -/
  | badOpcode
  /-- A type, access code or tile format outside R261. -/
  | badType
  /-- A rounding or saturation field outside R261. -/
  | badMod
  /-- A sub-operation or a sub-field outside R260, or a rule of the form's own description broken. -/
  | badSub
  /-- `IMMSEL` 3, or an immediate that the form does not take (R258, R274). -/
  | badImm
  /-- `PMODE` 3, or a port rule of R111 broken. -/
  | badPort
  /-- A scope outside R261. -/
  | badScope
  /-- An illegal triple value (R123). -/
  | badTriple
  /-- An offset on a form that takes none (R329). -/
  | badOffset
  /-- A tile slot, count or extension field on a form without it, or a nonzero zero field. -/
  | badField
  /-- Destination words on a form without outputs. -/
  | badNdest
  /-- A destination word with a nonzero zero field, `SIDE` on a form without side outputs, or a special-sink word with nonzero fields (CFG_BADDEST). -/
  | badDest
  /-- A device event: it has no record. -/
  | noRecord
  deriving DecidableEq, Repr

/-- The first reason of a list of checks that fails. -/
def firstBad : List (Bool × Reject) → Option Reject
  | [] => none
  | (ok, r) :: t => if ok then firstBad t else some r

/-- Whether an immediate selection names a port that may take it (R258, R274). -/
def Sig.allowsImm (g : Sig) : ImmSel → Bool
  | .none => true | .left => g.immL | .right => g.immR

/-- The ports a record expects (R111): the form's operand ports less the immediate's, and aux for a predicate. -/
def Sig.expects (g : Sig) (im : ImmSel) (pm : PMode) : Bool × Bool × Bool :=
  (g.left && im ≠ .left, g.right && im ≠ .right, g.aux || pm ≠ .none)

/-- R111: some port is expected, and aux is not both operand and predicate. -/
def Sig.portsLegal (g : Sig) (im : ImmSel) (pm : PMode) : Bool :=
  ((g.left && im ≠ .left) || (g.right && im ≠ .right) || g.aux || pm ≠ .none) && !(g.aux && pm ≠ .none)

/-- One destination word (R256): a special sink has every other field zero (R114); `SIDE` only where the form has side outputs. -/
def Dest.legal (side : Bool) (d : Dest) : Bool :=
  (d.port ≠ .sink || (d.fret = 0 && d.velem = 0 && d.slot = 0 && !d.side)) && (side || !d.side)

/-- The checks of a Format A record. -/
def DescA.check (d : DescA) : Option Reject :=
  firstBad [
    (d.types.contains d.f.ty, .badType),
    ((d.sat || !d.f.sat) && (d.rm || d.f.rm = .rne), .badMod),
    (d.extra, .badSub),
    (d.sig.allowsImm d.f.immSel && (!d.immReq || d.f.immSel = .right)
      && (d.f.immSel ≠ .none || (d.f.imm32 = 0 && d.f.immh = none)), .badImm),
    (d.sig.portsLegal d.f.immSel d.f.pmode, .badPort),
    (d.f.dests.length ≤ 3 && (!d.noDest || d.f.dests.length = 0), .badNdest),
    (d.f.dests.all (Dest.legal d.side), .badDest)]

/-- The checks of a Format M record. -/
def DescM.check (d : DescM) : Option Reject :=
  firstBad [
    (d.accs.contains d.m.acc, .badType),
    (d.anyScope || d.m.scope = .thread, .badScope),
    (!d.needExt || d.m.offh.isSome, .badSub),
    (d.sig.portsLegal .none d.m.pmode, .badPort),
    (!d.noOff || (d.m.off = 0 && d.m.offh = none), .badOffset),
    (d.m.dests.length ≤ 3 && (!d.noDest || d.m.dests.length = 0), .badNdest),
    (d.m.dests.all (Dest.legal false), .badDest)]

/-- The checks of a Format E record. -/
def DescE.check (d : DescE) : Option Reject :=
  firstBad [
    (d.tfmts.contains d.e.tfmt, .badType),
    ((d.sat || !d.e.sat) && (d.rm || d.e.rm = .rne), .badMod),
    (d.extra && (!d.needExt || d.e.ext), .badSub),
    (d.sig.portsLegal .none d.e.pmode, .badPort),
    ((d.useTa || d.e.ta = 0) && (d.useTb || d.e.tb = 0) && (d.useTc || d.e.tc = 0) && (d.useCount || d.e.count = 0)
      && d.e.xf = 0 && (d.e.ext || (d.e.tc = 0 && d.e.count = 0 && d.xf = 0)), .badField),
    (d.e.dests.length ≤ 3, .badNdest),
    (d.e.dests.all (Dest.legal false), .badDest)]

/-- The checks of one record (R262 codes 4 and 5, R301, R327, R353, R393): the first that fails. -/
def Desc.check : Desc → Option Reject
  | .a d => d.check
  | .m d => d.check
  | .e d => d.check
  | .event => some .noRecord

/-- The ports of an instruction's record (R111). -/
def Instr.ports (i : Instr) : Bool × Bool × Bool :=
  match i.desc with
  | .a d => d.sig.expects d.f.immSel d.f.pmode
  | .m d => d.sig.expects .none d.m.pmode
  | .e d => d.sig.expects .none d.e.pmode
  | .event => (false, false, false)

/-- The destination words of an instruction's record (R256). -/
def Instr.dests (i : Instr) : List Dest :=
  match i.desc with
  | .a d => d.f.dests
  | .m d => d.m.dests
  | .e d => d.e.dests
  | .event => []

/-- A privileged form (R261, R392): it loads only in service images. -/
def Instr.privileged (i : Instr) : Bool :=
  match i.desc with
  | .m d => d.priv
  | .e d => d.priv
  | _ => false

/-- The triple of a chain form (R123). -/
def Instr.triple? (i : Instr) : Option (SeqLink × BitVec 6 × SeqLink) :=
  match i.desc with
  | .m d => some (d.m.pred, d.m.own, d.m.succ)
  | .e d => some (d.e.pred, d.e.own, d.e.succ)
  | _ => none

/-- The class of a chain form (R125). -/
def Instr.cls? (i : Instr) : Option Cls :=
  match i.desc with
  | .m d => some d.cls
  | .e _ => some .held
  | _ => none

end Sys2Proof
end

