-- ==== Sys2Proof/WellFormed.lean ====
section
/-!
DEFINITION. WellFormed.lean: an instruction is well formed when its record passes every check of R262 codes 4 and 5 that
one record decides. A device event has no record: its arguments are ranges the machine itself checks when it happens.
-/
namespace Sys2Proof

/-- Why an instruction is no legal record, if it is none. -/
def Instr.bad (i : Instr) : Option Reject := i.desc.check

/-- A legal record of a Lilux-1 form. -/
def Instr.wf (i : Instr) : Bool := i.bad.isNone

end Sys2Proof
end

