-- ==== Sys2Proof/Decode.lean ====
section
/-!
DEFINITION. Decode.lean: a Lilux-1 record read from its bytes (R2, R254 to R261), rejecting by name, and the encoder from the
same tables. A record is an eight-byte slot word, up to three destination words of four bytes, and an extension word.
-/
namespace Sys2Proof

/-! ### Little-endian bytes (R2) -/

/-- The value of little-endian bytes. -/
def leNat : List Byte → Nat
  | [] => 0
  | b :: bs => b.toNat + 256 * leNat bs

/-- The low `k` bytes of a value, little-endian. -/
def leBytes : Nat → Nat → List Byte
  | 0, _ => []
  | k + 1, v => BitVec.ofNat 8 v :: leBytes k (v / 256)

/-- The first `k` bytes as a value, and the bytes after them; `none` where fewer are left. -/
def takeLe : Nat → List Byte → Option (Nat × List Byte)
  | 0, bs => some (0, bs)
  | _ + 1, [] => none
  | k + 1, b :: bs =>
    match takeLe k bs with
    | none => none
    | some (v, rest) => some (b.toNat + 256 * v, rest)

/-- `n` bits of `v` from bit `lo`. -/
def bitsAt (v lo n : Nat) : Nat := v / 2 ^ lo % 2 ^ n

/-! ### Raw records -/

/-- A record's words before its fields are read (R254). -/
structure RawRec where
  slot : Nat
  dests : List Nat
  ext : Option Nat
  deriving DecidableEq, Repr

/-- `n` destination words. -/
def takeDests : Nat → List Byte → Option (List Nat × List Byte)
  | 0, bs => some ([], bs)
  | n + 1, bs =>
    match takeLe 4 bs with
    | none => none
    | some (d, rest) =>
      match takeDests n rest with
      | none => none
      | some (ds, rest') => some (d :: ds, rest')

/-- `NDEST`, bits [47:46] of the slot word in every format (R255). -/
def ndestOf (w : Nat) : Nat := bitsAt w 46 2

/-- `EXT`, bit [45] of the slot word in every format (R255). -/
def extOf (w : Nat) : Bool := bitsAt w 45 1 = 1

/-- Length in bytes of the record that a slot word opens (R254). -/
def recLen (w : Nat) : Nat := 8 + 4 * ndestOf w + (if extOf w then 4 else 0)

/-- One record's words, and the bytes after it (R254). -/
def takeRec (bs : List Byte) : Option (RawRec × List Byte) :=
  match takeLe 8 bs with
  | none => none
  | some (w, r1) =>
    match takeDests (ndestOf w) r1 with
    | none => none
    | some (ds, r2) =>
      if extOf w then
        match takeLe 4 r2 with
        | none => none
        | some (x, r3) => some (⟨w, ds, some x⟩, r3)
      else some (⟨w, ds, none⟩, r2)

/-- The bytes of a record's words. -/
def RawRec.bytes (r : RawRec) : List Byte :=
  leBytes 8 r.slot ++ (r.dests.flatMap (leBytes 4)) ++ (match r.ext with | none => [] | some x => leBytes 4 x)

/-! ### Destination words (R256) -/

/-- A destination word; nonzero bits [8:0] are CFG_BADDEST. -/
def decodeDest (v : Nat) : Option Dest :=
  if bitsAt v 0 9 ≠ 0 then none
  else some ⟨DPort.ofCode (bitsAt v 30 2), BitVec.ofNat 12 (bitsAt v 18 12), BitVec.ofNat 3 (bitsAt v 15 3),
    BitVec.ofNat 5 (bitsAt v 10 5), bitsAt v 9 1 = 1⟩

/-- The word of a destination. -/
def encodeDest (d : Dest) : Nat :=
  d.port.code * 2 ^ 30 + d.fret.toNat * 2 ^ 18 + d.velem.toNat * 2 ^ 15 + d.slot.toNat * 2 ^ 10 + d.side.toNat * 2 ^ 9

/-- Every destination word of a record. -/
def decodeDests : List Nat → Option (List Dest)
  | [] => some []
  | v :: vs =>
    match decodeDest v, decodeDests vs with
    | some d, some ds => some (d :: ds)
    | _, _ => none

/-! ### The three formats (R255, R257) -/

/-- Fields of a Format A record, with `SUB`. -/
def decodeA (r : RawRec) : Except Reject (FmtA × Nat) :=
  match ETy.ofCode (bitsAt r.slot 52 4) with
  | none => .error .badType
  | some ty =>
    match Rm.ofCode (bitsAt r.slot 48 3) with
    | none => .error .badMod
    | some rm =>
      match ImmSel.ofCode (bitsAt r.slot 43 2) with
      | none => .error .badImm
      | some im =>
        match PMode.ofCode (bitsAt r.slot 41 2) with
        | none => .error .badPort
        | some pm =>
          match decodeDests r.dests with
          | none => .error .badDest
          | some ds => .ok (⟨ty, bitsAt r.slot 51 1 = 1, rm, ds, im, pm, BitVec.ofNat 32 (bitsAt r.slot 0 32),
              r.ext.map (BitVec.ofNat 32)⟩, bitsAt r.slot 32 9)

/-- The words of a Format A record. -/
def encodeA (op sub : Nat) (f : FmtA) : RawRec :=
  ⟨op * 2 ^ 56 + f.ty.code * 2 ^ 52 + f.sat.toNat * 2 ^ 51 + f.rm.code * 2 ^ 48 + f.dests.length * 2 ^ 46
      + f.immh.isSome.toNat * 2 ^ 45 + f.immSel.code * 2 ^ 43 + f.pmode.code * 2 ^ 41 + sub * 2 ^ 32 + f.imm32.toNat,
    f.dests.map encodeDest, f.immh.map BitVec.toNat⟩

/-- Fields of a Format M record, with its `ACC` code and extension `SUBOP`. An `ACC` code is read as an access in
`FmtM.acc`; `fence`, whose `ACC` is its kind, takes `n8` there. -/
def decodeM (r : RawRec) : Except Reject (FmtM × Nat) :=
  match Acc.ofCode (if bitsAt r.slot 56 8 = 0x9E then 0 else bitsAt r.slot 52 4) with
  | none => .error .badType
  | some acc =>
    match Scope.ofCode (bitsAt r.slot 49 3) with
    | none => .error .badScope
    | some sc =>
      match PMode.ofCode (bitsAt r.slot 41 2) with
      | none => .error .badPort
      | some pm =>
        match SeqLink.ofCode (bitsAt r.slot 34 7), SeqLink.ofCode (bitsAt r.slot 27 7), SeqLink.ofCode (bitsAt r.slot 20 7) with
        | some pred, some (.own own), some succ =>
          if bitsAt r.slot 48 1 ≠ 0 || bitsAt r.slot 43 2 ≠ 0 then .error .badField
          else if (match r.ext with | none => false | some x => bitsAt x 4 4 ≠ 0) then .error .badField
          else
            match decodeDests r.dests with
            | none => .error .badDest
            | some ds => .ok (⟨acc, sc, ds, pm, pred, own, succ, BitVec.ofNat 20 (bitsAt r.slot 0 20),
                r.ext.map (fun x => BitVec.ofNat 24 (bitsAt x 8 24))⟩,
                match r.ext with | none => 0 | some x => bitsAt x 0 4)
        | _, _, _ => .error .badTriple

/-- The words of a Format M record. -/
def encodeM (op accCode sub : Nat) (m : FmtM) : RawRec :=
  ⟨op * 2 ^ 56 + accCode * 2 ^ 52 + m.scope.code * 2 ^ 49 + m.dests.length * 2 ^ 46 + m.offh.isSome.toNat * 2 ^ 45
      + m.pmode.code * 2 ^ 41 + m.pred.code * 2 ^ 34 + m.own.toNat * 2 ^ 27 + m.succ.code * 2 ^ 20 + m.off.toNat,
    m.dests.map encodeDest, m.offh.map (fun h => h.toNat * 2 ^ 8 + sub)⟩

/-- Fields of a Format E record, with `SUBOP` and `XF`; `FmtE.xf` is left zero, since every `XF` of R358 belongs to a form's own arguments. -/
def decodeE (r : RawRec) : Except Reject (FmtE × Nat × Nat) :=
  match TFmt.ofCode (bitsAt r.slot 52 4) with
  | none => .error .badType
  | some tf =>
    match Rm.ofCode (bitsAt r.slot 48 3) with
    | none => .error .badMod
    | some rm =>
      match PMode.ofCode (bitsAt r.slot 41 2) with
      | none => .error .badPort
      | some pm =>
        match SeqLink.ofCode (bitsAt r.slot 34 7), SeqLink.ofCode (bitsAt r.slot 27 7), SeqLink.ofCode (bitsAt r.slot 20 7) with
        | some pred, some (.own own), some succ =>
          if bitsAt r.slot 43 2 ≠ 0 then .error .badField
          else
            match decodeDests r.dests with
            | none => .error .badDest
            | some ds =>
              let x := r.ext.getD 0
              .ok (⟨tf, bitsAt r.slot 51 1 = 1, rm, ds, pm, pred, own, succ, BitVec.ofNat 8 (bitsAt r.slot 12 8),
                BitVec.ofNat 8 (bitsAt r.slot 4 8), r.ext.isSome, BitVec.ofNat 8 (bitsAt x 24 8), BitVec.ofNat 12 (bitsAt x 12 12),
                0⟩, bitsAt r.slot 0 4, bitsAt x 0 12)
        | _, _, _ => .error .badTriple

/-- The words of a Format E record. -/
def encodeE (op subop xf : Nat) (e : FmtE) : RawRec :=
  ⟨op * 2 ^ 56 + e.tfmt.code * 2 ^ 52 + e.sat.toNat * 2 ^ 51 + e.rm.code * 2 ^ 48 + e.dests.length * 2 ^ 46
      + e.ext.toNat * 2 ^ 45 + e.pmode.code * 2 ^ 41 + e.pred.code * 2 ^ 34 + e.own.toNat * 2 ^ 27 + e.succ.code * 2 ^ 20
      + e.ta.toNat * 2 ^ 12 + e.tb.toNat * 2 ^ 4 + subop,
    e.dests.map encodeDest, if e.ext then some (e.tc.toNat * 2 ^ 24 + e.count.toNat * 2 ^ 12 + xf) else none⟩

/-! ### From opcodes to forms (R260, R261) -/

/-- A form that takes no sub-operation: `SUB` or `SUBOP` must be zero. -/
def plain (sub : Nat) (i : Instr) : Except Reject Instr := if sub = 0 then .ok i else .error .badSub

/-- A form chosen by a one-bit sub-operation. -/
def pick2 (sub : Nat) (i : Bool → Instr) : Except Reject Instr :=
  if sub = 0 then .ok (i false) else if sub = 1 then .ok (i true) else .error .badSub

/-- A form with a part q in `SUB`[6:4] alone. -/
def pickPart (sub : Nat) (i : BitVec 3 → Instr) : Except Reject Instr :=
  if sub % 16 = 0 && sub / 128 = 0 then .ok (i (BitVec.ofNat 3 (sub / 16))) else .error .badSub

/-- The Format A form of an opcode and `SUB`. -/
def buildA (op sub : Nat) (f : FmtA) : Except Reject Instr :=
  match op with
  | 0x01 => plain sub (.steer f)
  | 0x02 => plain sub (.select f)
  | 0x03 => plain sub (.wadv f)
  | 0x04 => plain sub (.wset f)
  | 0x05 => plain sub (.mov f)
  | 0x06 => plain sub (.const f)
  | 0x07 => plain sub (.sink f)
  | 0x08 => plain sub (.gate f)
  | 0x09 => if sub = 0 then .ok (.join false f) else if sub = 16 then .ok (.join true f) else .error .badSub
  | 0x0A => plain sub (.idx f)
  | 0x0B => plain sub (.spawn f)
  | 0x0C => plain sub (.send f)
  | 0x0D => plain sub (.tagof f)
  | 0x0E => plain sub (.endt f)
  | 0x20 => plain sub (.add f)
  | 0x21 => plain sub (.sub f)
  | 0x22 => if sub = 0 then .ok (.addc false f) else if sub = 16 then .ok (.addc true f) else .error .badSub
  | 0x23 => if sub = 0 then .ok (.subb false f) else if sub = 16 then .ok (.subb true f) else .error .badSub
  | 0x24 => plain sub (.neg f)
  | 0x25 => plain sub (.abs f)
  | 0x26 => plain sub (.mul f)
  | 0x27 => plain sub (.mulh f)
  | 0x28 => pick2 sub (fun b => .mulw b f)
  | 0x29 => plain sub (.mad f)
  | 0x2A => plain sub (.div f)
  | 0x2B => plain sub (.rem f)
  | 0x2C => plain sub (.min f)
  | 0x2D => plain sub (.max f)
  | 0x2E => plain sub (.avg f)
  | 0x2F => plain sub (.sad f)
  | 0x30 => plain sub (.and f)
  | 0x31 => plain sub (.or f)
  | 0x32 => plain sub (.xor f)
  | 0x33 => plain sub (.andn f)
  | 0x34 => plain sub (.not f)
  | 0x35 => plain sub (.shl f)
  | 0x36 => plain sub (.shr f)
  | 0x37 => plain sub (.sar f)
  | 0x38 => plain sub (.rot f)
  | 0x39 => plain sub (.shrp f)
  | 0x3A => plain sub (.clz f)
  | 0x3B => plain sub (.ctz f)
  | 0x3C => plain sub (.popc f)
  | 0x3D => plain sub (.brev f)
  | 0x3E => plain sub (.bext f)
  | 0x3F => plain sub (.bdep f)
  | 0x40 => plain sub (.perm f)
  | 0x41 => pick2 sub (fun b => .mix b f)
  | 0x42 => plain sub (.bcast f)
  | 0x43 => plain sub (.pack f)
  | 0x44 => pick2 sub (fun b => .unpk b f)
  | 0x45 => match ICmp.ofCode sub with | some cc => .ok (.cmp cc f) | none => .error .badSub
  | 0x46 => plain sub (.btst f)
  | 0x47 => plain sub (.blend f)
  | 0x48 => if sub % 16 = 0 && sub / 64 = 0 then .ok (.lea (BitVec.ofNat 2 (sub / 16)) f) else .error .badSub
  | 0x60 => plain sub (.fadd f)
  | 0x61 => plain sub (.fsub f)
  | 0x62 => plain sub (.fmul f)
  | 0x63 => plain sub (.fma f)
  | 0x64 => plain sub (.fmin f)
  | 0x65 => plain sub (.fmax f)
  | 0x66 => plain sub (.fabs f)
  | 0x67 => plain sub (.fneg f)
  | 0x68 => match FCmp.ofCode sub with | some cc => .ok (.fcmp cc f) | none => .error .badSub
  | 0x69 => plain sub (.fclass f)
  | 0x6A => plain sub (.frcp f)
  | 0x6B => plain sub (.frsq f)
  | 0x6C => plain sub (.fsqrt f)
  | 0x6D => plain sub (.fdiv f)
  | 0x6E => plain sub (.fexp2 f)
  | 0x6F => plain sub (.flog2 f)
  | 0x70 => plain sub (.ftanh f)
  | 0x71 => plain sub (.fsin f)
  | 0x72 => plain sub (.fcos f)
  | 0x73 => plain sub (.fsig f)
  | 0x74 => plain sub (.fround f)
  | 0x75 => plain sub (.fscl f)
  | 0x76 => match ETy.ofCode (sub % 16) with
    | some d => if sub / 256 = 0 then .ok (.cvt d (BitVec.ofNat 3 (sub / 16)) (sub / 128 % 2 = 1) f) else .error .badSub
    | none => .error .badSub
  | 0x77 => plain sub (.famax f)
  | 0x78 => plain sub (.fsum f)
  | 0x79 => plain sub (.fdot2 f)
  | 0x7A => plain sub (.mxscale f)
  | 0x7B => pickPart sub (fun q => .mxq q f)
  | 0x7C => pickPart sub (fun q => .mxdq q f)
  | 0x7D => pickPart sub (fun q => .tpack q f)
  | 0x7E => pickPart sub (fun q => .tunpk q f)
  | 0xF0 => plain sub (.trap f)
  | 0xF1 => plain sub (.temit f)
  | 0xF3 => match SReg.ofCode f.imm32.toNat with
    | some reg => plain sub (.srd reg { f with imm32 := 0 })
    | none => .error .badSub
  | 0xF6 => plain sub (.time f)
  | 0xF7 => plain sub (.chk f)
  | _ => .error .badOpcode

/-- The `atom` form of an extension `SUBOP` (R260). -/
def buildAtom (sub : Nat) (m : FmtM) : Except Reject Instr :=
  match sub with
  | 0 => .ok (.atomAdd m)
  | 1 => .ok (.atomMin m)
  | 2 => .ok (.atomMax m)
  | 3 => .ok (.atomAnd m)
  | 4 => .ok (.atomOr m)
  | 5 => .ok (.atomXor m)
  | 6 => .ok (.atomXchg m)
  | 7 => .ok (.atomCas m)
  | 8 => .ok (.atomInc m)
  | 9 => .ok (.atomFadd m)
  | _ => .error .badSub

/-- The `fence` of an `ACC` code (R259). -/
def buildFence (acc : Nat) (m : FmtM) : Except Reject Instr :=
  match acc with
  | 1 => .ok (.fence .acquire m)
  | 2 => .ok (.fence .release m)
  | 3 => .ok (.fence .full m)
  | _ => .error .badType

/-- The Format M form of an opcode; `acc` is the raw `ACC` code and `sub` the extension `SUBOP`. -/
def buildM (op acc sub : Nat) (m : FmtM) : Except Reject Instr :=
  match op with
  | 0x90 => plain sub (.ld m)
  | 0x91 => plain sub (.ldAcq m)
  | 0x92 => plain sub (.ldIo m)
  | 0x93 => plain sub (.ldnt m)
  | 0x94 => plain sub (.st m)
  | 0x95 => plain sub (.stRel m)
  | 0x96 => plain sub (.stIo m)
  | 0x97 => plain sub (.ldc m)
  | 0x98 => plain sub (.stc m)
  | 0x99 => plain sub (.fillc m)
  | 0x9A => plain sub (.relc m)
  | 0x9B => plain sub (.cntq m)
  | 0x9C => plain sub (.memnop m)
  | 0x9D => buildAtom sub m
  | 0x9E => if sub = 0 then buildFence acc m else .error .badSub
  | 0x9F => plain sub (.pref m)
  | 0xA0 => plain sub (.flush m)
  | 0xA1 => plain sub (.waitl m)
  | 0xA2 => plain sub (.barinit m)
  | 0xA3 => plain sub (.bararr m)
  | 0xA4 => plain sub (.barwait m)
  | _ => .error .badOpcode

/-- The drain fields of `SUBOP` and `XF` (R365, R368). -/
def decodeDrain (subop xf : Nat) : Option DrainF :=
  match AccSel.ofCode (subop % 4) with
  | none => none
  | some acc =>
    if subop / 8 ≠ 0 || xf / 32 ≠ 0 then none
    else some ⟨acc, subop / 4 % 2 = 1, BitVec.ofNat 2 (xf / 8), xf / 4 % 2 = 1, GSel.ofCode (xf % 4)⟩

/-- A form without `SUBOP` or `XF`. -/
def plainE (subop xf : Nat) (i : Instr) : Except Reject Instr :=
  if subop = 0 && xf = 0 then .ok i else .error .badSub

/-- A form with bank and clear in `SUBOP` (R365). -/
def pickBank (subop xf : Nat) (i : Bool → Bool → Instr) : Except Reject Instr :=
  if subop / 4 = 0 && xf = 0 then .ok (i (subop % 2 = 1) (subop / 2 = 1)) else .error .badSub

/-- The `swr` of a register number (R388); a register whose Write column is a dash is refused. -/
def buildSwr (xf : Nat) (e : FmtE) : Except Reject Instr :=
  match SReg.ofCode xf with
  | some (.evsel n) => .ok (.swrEvsel n e)
  | some (.evc n) => .ok (.swrEvc n e)
  | some .beat => .ok (.swrBeat e)
  | some .qerr => .ok (.swrQerr e)
  | some .qcons => .ok (.swrQcons e)
  | _ => .error .badSub

/-- The `nmc` form of a `SUBOP` (R260). -/
def buildNmc (subop : Nat) (e : FmtE) : Except Reject Instr :=
  match subop with
  | 0 => .ok (.nmcAxpy e)
  | 1 => .ok (.nmcSgd e)
  | 2 => .ok (.nmcScal e)
  | 3 => .ok (.nmcFill e)
  | 4 => .ok (.nmcSum e)
  | 5 => .ok (.nmcFadd e)
  | _ => .error .badSub

/-- The `coll` form of a `SUBOP` (R260). -/
def buildColl (subop : Nat) (e : FmtE) : Except Reject Instr :=
  match subop with
  | 0 => .ok (.collAllredSum e)
  | 1 => .ok (.collAllredMax e)
  | 2 => .ok (.collAllgat e)
  | 3 => .ok (.collRedsc e)
  | 4 => .ok (.collBcast e)
  | 5 => .ok (.collGbar e)
  | _ => .error .badSub

/-- The `launch` form of a `SUBOP` (R385). -/
def buildLaunch (subop : Nat) (e : FmtE) : Except Reject Instr :=
  match subop with
  | 0 => .ok (.launch e)
  | 1 => .ok (.launchDisp e)
  | 2 => .ok (.launchRecfg e)
  | _ => .error .badSub

/-- The Format E form of an opcode, `SUBOP` and `XF`. -/
def buildE (op subop xf : Nat) (e : FmtE) : Except Reject Instr :=
  match op with
  | 0xC0 => plainE subop xf (.tLd e)
  | 0xC1 => plainE subop xf (.tSt e)
  | 0xC2 => plainE subop xf (.tRel e)
  | 0xC3 => plainE subop xf (.tZero e)
  | 0xC4 => plainE subop xf (.tStat e)
  | 0xC5 => plainE subop xf (.tTr e)
  | 0xC6 => pickBank subop xf (fun b c => .mmTern b c e)
  | 0xC7 => pickBank subop xf (fun b c => .mmMx4 b c e)
  | 0xC8 => if subop % 2 = 0 && subop / 4 = 0 && xf = 0 then .ok (.mmD (subop / 2 = 1) e) else .error .badSub
  | 0xC9 => match decodeDrain subop xf with | some d => .ok (.drain d e) | none => .error .badSub
  | 0xCA => match decodeDrain subop xf with | some d => .ok (.drainM d e) | none => .error .badSub
  | 0xCB => plainE subop xf (.copy e)
  | 0xCC => plainE subop xf (.gath e)
  | 0xCD => if xf = 0 then buildNmc subop e else .error .badSub
  | 0xCE => if xf = 0 then buildColl subop e else .error .badSub
  | 0xCF => plainE subop xf (.rwr e)
  | 0xD0 => plainE subop xf (.rrd e)
  | 0xF2 => plainE subop xf (.brk e)
  | 0xF4 => if subop = 0 then buildSwr xf e else .error .badSub
  | 0xF5 => if xf = 0 then buildLaunch subop e else .error .badSub
  | _ => .error .badOpcode

/-! ### Whole records -/

/-- The form of a record's words, before the checks of its own description. -/
def parseRec (r : RawRec) : Except Reject Instr :=
  let op := bitsAt r.slot 56 8
  if (0x90 ≤ op && op ≤ 0xA4) then
    match decodeM r with
    | .error e => .error e
    | .ok (m, sub) => buildM op (bitsAt r.slot 52 4) sub m
  else if (0xC0 ≤ op && op ≤ 0xD0) || op = 0xF2 || op = 0xF4 || op = 0xF5 then
    match decodeE r with
    | .error e => .error e
    | .ok (e, subop, xf) => buildE op subop xf e
  else
    match decodeA r with
    | .error e => .error e
    | .ok (f, sub) => buildA op sub f

/-- The instruction of a record's words: parsed, then checked (R262 codes 4 and 5). -/
def decodeRec (r : RawRec) : Except Reject Instr :=
  match parseRec r with
  | .error e => .error e
  | .ok i =>
    match i.bad with
    | none => .ok i
    | some e => .error e

/-- The instruction that opens a byte string, and the bytes after its record; total, rejecting by name. -/
def decode (bs : List Byte) : Except Reject (Instr × List Byte) :=
  match takeRec bs with
  | none => .error .truncated
  | some (r, rest) =>
    match decodeRec r with
    | .error e => .error e
    | .ok i => .ok (i, rest)

/-- The words of an instruction's record; a device event has none. -/
def Instr.raw (i : Instr) : RawRec :=
  match i.desc with
  | .a d => encodeA d.op d.sub d.f
  | .m d => encodeM d.op d.accCode d.sub d.m
  | .e d => encodeE d.op d.subop d.xf d.e
  | .event => ⟨0, [], none⟩

/-- The bytes of an instruction's record. -/
def encode (i : Instr) : List Byte := i.raw.bytes

/-- The instruction whose record's low `nbits` bits are `w` and whose other bits are zero, bit 0 being the lowest bit of
the slot word; the longest record has 24 bytes. -/
def decodeTableWord (nbits w : Nat) : Option Instr :=
  match decode (leBytes 24 (w % 2 ^ nbits)) with
  | .ok (i, _) => some i
  | .error _ => none

end Sys2Proof
end

