-- ==== Sys2Proof/Machine/Flags.lean ====
section
/-!
DEFINITION. Machine/Flags.lean: the sticky flags of `S.FLAGS` (R218), as a set that firings and completions add to.
-/
namespace Sys2Proof.Machine

/-- The nine flags of R218. -/
structure Flags where
  nv : Bool
  dz : Bool
  ov : Bool
  uf : Bool
  nx : Bool
  sat : Bool
  scaleFloor : Bool
  underRead : Bool
  spawnRef : Bool
  deriving DecidableEq, Repr

/-- No flag set: the value at placement creation (R218). -/
def Flags.none : Flags := ⟨false, false, false, false, false, false, false, false, false⟩

/-- Union: simultaneous settings are ORed and none is lost (R218). -/
def Flags.or (a b : Flags) : Flags :=
  ⟨a.nv || b.nv, a.dz || b.dz, a.ov || b.ov, a.uf || b.uf, a.nx || b.nx, a.sat || b.sat, a.scaleFloor || b.scaleFloor,
    a.underRead || b.underRead, a.spawnRef || b.spawnRef⟩

/-- The word `srd` of `S.FLAGS` reads (R218). -/
def Flags.word (f : Flags) : Word :=
  BitVec.ofNat 64 (f.nv.toNat + 2 * f.dz.toNat + 4 * f.ov.toNat + 8 * f.uf.toNat + 16 * f.nx.toNat + 32 * f.sat.toNat
    + 64 * f.scaleFloor.toNat + 128 * f.underRead.toNat + 256 * f.spawnRef.toNat)

/-- The flags of a saved `S.FLAGS` word (R98). -/
def Flags.ofWord (w : Nat) : Flags :=
  ⟨w % 2 = 1, w / 2 % 2 = 1, w / 4 % 2 = 1, w / 8 % 2 = 1, w / 16 % 2 = 1, w / 32 % 2 = 1, w / 64 % 2 = 1,
    w / 128 % 2 = 1, w / 256 % 2 = 1⟩

def Flags.NV : Flags := { Flags.none with nv := true }
def Flags.DZ : Flags := { Flags.none with dz := true }
def Flags.NX : Flags := { Flags.none with nx := true }
def Flags.SAT : Flags := { Flags.none with sat := true }
def Flags.SCALEFLOOR : Flags := { Flags.none with scaleFloor := true }
def Flags.UNDERREAD : Flags := { Flags.none with underRead := true }
def Flags.SPAWNREF : Flags := { Flags.none with spawnRef := true }
/-- Overflow comes with inexact (R199). -/
def Flags.OVNX : Flags := { Flags.none with ov := true, nx := true }

/-- One flag when a condition holds. -/
def Flags.when (c : Bool) (f : Flags) : Flags := if c then f else Flags.none

/-- The union of a list. -/
def Flags.all : List Flags → Flags
  | [] => Flags.none
  | f :: fs => f.or (Flags.all fs)

end Sys2Proof.Machine
end

