-- ==== Sys2Proof/Machine/Numeric.lean ====
section
/-!
DEFINITION. Machine/Numeric.lean: the floating-point formats (R197), exact values, rounding (R204 to R207), overflow (R206),
the IEEE flags (R199), conversions (R208, R209) and the MXFP4 element (R200, R210). Values are kept exact, as an integer times
a power of two, until the one rounding point.
-/
namespace Sys2Proof.Machine

/-! ### Formats -/

/-- How a format spends its top codes (R197). -/
inductive FKind
  | ieee | e4m3 | e2m1
  deriving DecidableEq, Repr

/-- A floating-point format (R197). -/
structure Fmt where
  ebits : Nat
  fbits : Nat
  kind : FKind
  deriving DecidableEq, Repr

def fmtF64 : Fmt := ⟨11, 52, .ieee⟩
def fmtF32 : Fmt := ⟨8, 23, .ieee⟩
def fmtBf16 : Fmt := ⟨8, 7, .ieee⟩
def fmtF16 : Fmt := ⟨5, 10, .ieee⟩
def fmtE5m2 : Fmt := ⟨5, 2, .ieee⟩
def fmtE4m3 : Fmt := ⟨4, 3, .e4m3⟩
def fmtE2m1 : Fmt := ⟨2, 1, .e2m1⟩

/-- The format of a floating-point element type (R196). -/
def ETy.fmt : ETy → Fmt
  | .bf16x4 => fmtBf16
  | .f16x4 => fmtF16
  | .e4m3x8 => fmtE4m3
  | .e5m2x8 => fmtE5m2
  | .f64 => fmtF64
  | _ => fmtF32

/-- Exponent bias (R197). -/
def Fmt.bias (f : Fmt) : Nat := 2 ^ (f.ebits - 1) - 1

/-- Exponent of the smallest normal value. -/
def Fmt.emin (f : Fmt) : Int := 1 - (f.bias : Int)

/-- Width of the format in bits. -/
def Fmt.width (f : Fmt) : Nat := 1 + f.ebits + f.fbits

/-- The code of the largest finite magnitude M (R197). -/
def Fmt.maxMag (f : Fmt) : Nat :=
  match f.kind with
  | .ieee => (2 ^ f.ebits - 1) * 2 ^ f.fbits - 1
  | .e4m3 => 0x7E
  | .e2m1 => 0x7

/-- The code of an infinite magnitude, where the format has one. -/
def Fmt.infMag (f : Fmt) : Nat := (2 ^ f.ebits - 1) * 2 ^ f.fbits

/-- The canonical NaN (R197). -/
def Fmt.canonNan (f : Fmt) : Nat :=
  match f.kind with
  | .ieee => f.infMag + 2 ^ (f.fbits - 1)
  | .e4m3 => 0x7F
  | .e2m1 => 0

/-- A magnitude's code with a sign. -/
def Fmt.withSign (f : Fmt) (neg : Bool) (mag : Nat) : Nat := neg.toNat * 2 ^ (f.width - 1) + mag

/-- A floating-point value: a NaN, signalling or quiet; an infinity; or (-1)^neg * m * 2^e. -/
inductive FVal
  | nan (signalling : Bool)
  | inf (neg : Bool)
  | fin (neg : Bool) (m : Nat) (e : Int)
  deriving DecidableEq, Repr

/-- The value of a code (R197, R302). -/
def Fmt.unpack (f : Fmt) (v : Nat) : FVal :=
  let neg : Bool := v / 2 ^ (f.width - 1) % 2 = 1
  let ex := v / 2 ^ f.fbits % 2 ^ f.ebits
  let fr := v % 2 ^ f.fbits
  if f.kind = .ieee && ex = 2 ^ f.ebits - 1 then
    if fr = 0 then .inf neg else .nan (fr / 2 ^ (f.fbits - 1) = 0)
  else if f.kind = .e4m3 && ex = 15 && fr = 7 then .nan false
  else if ex = 0 then .fin neg fr (f.emin - f.fbits)
  else .fin neg (2 ^ f.fbits + fr) ((ex : Int) - f.bias - f.fbits)

/-! ### Rounding (R205, R206) -/

/-- An exact finite value; `sticky` says that the magnitude lies strictly between m and m + 1 (times 2^e), for quotients
and roots, which carry far more bits than any format. -/
structure Exact where
  neg : Bool
  m : Nat
  e : Int
  sticky : Bool
  deriving DecidableEq, Repr

/-- R205: whether the larger neighbour is chosen, for a magnitude k + r / 2^d (and a little more when `sticky`). -/
def roundsUp (rm : Rm) (neg : Bool) (rho k r d : Nat) (sticky : Bool) : Bool :=
  (r ≠ 0 || sticky) &&
    match rm with
    | .rne => 2 * r > 2 ^ d || (2 * r = 2 ^ d && (sticky || k % 2 = 1))
    | .rtz => false
    | .rdn => neg
    | .rup => !neg
    | .rna => 2 * r ≥ 2 ^ d
    | .srd => r * 2 ^ 32 / 2 ^ d > rho

/-- The magnitude x rounded to a multiple of 2^q: the multiple, and whether it is inexact. A shift past every bit of m by 40
or more acts as 40, since no mode can tell such magnitudes apart. -/
def roundAt (rm : Rm) (rho : Nat) (x : Exact) (q : Int) : Nat × Bool :=
  let d := min (q - x.e).toNat (Nat.log2 x.m + 40)
  let m' := x.m * 2 ^ (x.e - q).toNat
  let k := m' / 2 ^ d
  let r := m' % 2 ^ d
  (k + (roundsUp rm x.neg rho k r d x.sticky).toNat, r ≠ 0 || x.sticky)

/-- Exponent of the highest one bit of a nonzero exact value. -/
def Exact.top (x : Exact) : Int := x.e + Nat.log2 x.m

/-- R206 without `SAT`: whether a magnitude beyond M becomes infinite (or, for E4M3, NaN) rather than M. -/
def overflowsToInf (rm : Rm) (neg : Bool) : Bool :=
  match rm with
  | .rne | .rna | .srd => true
  | .rtz => false
  | .rdn => neg
  | .rup => !neg

/-- R206: a rounded magnitude beyond M. Overflow and inexact are raised whatever is returned (R199). -/
def Fmt.overflow (f : Fmt) (rm : Rm) (sat neg : Bool) : Nat × Flags :=
  if sat then (f.withSign neg f.maxMag, Flags.OVNX.or Flags.SAT)
  else if overflowsToInf rm neg then
    (if f.kind = .ieee then f.withSign neg f.infMag else f.canonNan, Flags.OVNX)
  else (f.withSign neg f.maxMag, Flags.OVNX)

/-- R206: an infinite value in the format. -/
def Fmt.infinite (f : Fmt) (sat neg : Bool) : Nat × Flags :=
  if sat then (f.withSign neg f.maxMag, Flags.SAT)
  else if f.kind = .ieee then (f.withSign neg f.infMag, Flags.none)
  else (f.canonNan, Flags.NV)

/-- R205 and R206 with the flags of R199: an exact value rounded once into the format. -/
def Fmt.round (f : Fmt) (rm : Rm) (sat : Bool) (rho : Nat) (x : Exact) : Nat × Flags :=
  if x.m = 0 then (f.withSign x.neg 0, Flags.none)
  else
    let q0 := f.emin - (f.fbits : Int)
    let q := max x.top f.emin - f.fbits
    let (k, inexact) := roundAt rm rho x q
    let mag := (q - q0).toNat * 2 ^ f.fbits + k
    if mag > f.maxMag then f.overflow rm sat x.neg
    else
      let tiny : Bool := x.top < f.emin &&
        !(x.top = f.emin - 1 && (roundAt rm rho x (x.top - f.fbits)).1 ≥ 2 ^ (f.fbits + 1))
      (f.withSign x.neg mag, { Flags.none with nx := inexact, uf := inexact && tiny })

/-- The result of an operation before its rounding. -/
inductive Res
  /-- The canonical NaN; `nv` says whether invalid operation is raised. -/
  | nan (nv : Bool)
  | inf (neg : Bool)
  | exact (x : Exact)
  deriving DecidableEq, Repr

/-- The one rounding of a result (R198, R205, R206). -/
def Fmt.finish (f : Fmt) (rm : Rm) (sat : Bool) (rho : Nat) : Res → Nat × Flags
  | .nan nv => (f.canonNan, Flags.when nv Flags.NV)
  | .inf neg => f.infinite sat neg
  | .exact x => f.round rm sat rho x

/-! ### Exact arithmetic -/

def FVal.isNan : FVal → Bool
  | .nan _ => true
  | _ => false

def FVal.isSnan : FVal → Bool
  | .nan s => s
  | _ => false

def FVal.isInf : FVal → Bool
  | .inf _ => true
  | _ => false

def FVal.isZero : FVal → Bool
  | .fin _ m _ => m = 0
  | _ => false

def FVal.neg? : FVal → Bool
  | .nan _ => false
  | .inf n => n
  | .fin n _ _ => n

/-- Negation of a value; a NaN stays as it is. -/
def FVal.negate : FVal → FVal
  | .nan s => .nan s
  | .inf n => .inf (!n)
  | .fin n m e => .fin (!n) m e

/-- The magnitude of a value. -/
def FVal.abs : FVal → FVal
  | .nan s => .nan s
  | .inf _ => .inf false
  | .fin _ m e => .fin false m e

/-- A value as a result. -/
def FVal.res : FVal → Res
  | .nan s => .nan s
  | .inf n => .inf n
  | .fin n m e => .exact ⟨n, m, e, false⟩

/-- The smallest exponent of the nonzero finite values. -/
def minExp : List FVal → Option Int
  | [] => none
  | .fin _ m e :: t =>
    if m = 0 then minExp t else
      match minExp t with
      | none => some e
      | some e' => some (min e e')
  | _ :: t => minExp t

/-- A finite value as a multiple of 2^e0. -/
def FVal.scaled (e0 : Int) : FVal → Int
  | .fin n m e => (if n then -1 else 1) * ((m * 2 ^ (e - e0).toNat : Nat) : Int)
  | _ => 0

/-- The exact sum of values (R205, R307, R313): NaNs first, then infinities, then the sum; a zero sum is +0 but in RDN, and
a sum of zeros of equal sign keeps that sign. -/
def sumVals (rm : Rm) (vs : List FVal) : Res :=
  if vs.any FVal.isNan then .nan (vs.any FVal.isSnan)
  else
    let infs := vs.filter FVal.isInf
    match infs with
    | i :: _ => if infs.all (fun v => v.neg? = i.neg?) then .inf i.neg? else .nan true
    | [] =>
      match minExp vs with
      | none => .exact ⟨if vs.all FVal.neg? then true else if vs.any FVal.neg? then rm = .rdn else false, 0, 0, false⟩
      | some e0 =>
        let s := (vs.map (FVal.scaled e0)).foldl (· + ·) 0
        if s = 0 then .exact ⟨rm = .rdn, 0, 0, false⟩ else .exact ⟨s < 0, s.natAbs, e0, false⟩

/-- The exact product (R307): 0 times infinity is invalid; `none` for it. NaN operands are examined before. -/
def mulVals (x y : FVal) : Option FVal :=
  match x, y with
  | .fin n m e, .fin n' m' e' => some (.fin (n ^^ n') (m * m') (e + e'))
  | a, b => if a.isZero || b.isZero then none else some (.inf (a.neg? ^^ b.neg?))

/-- Order of two values that are no NaN: -1, 0 or 1; zeros compare equal. -/
def cmpVals (x y : FVal) : Int :=
  match x, y with
  | .inf a, .inf b => if a = b then 0 else if a then -1 else 1
  | .inf a, _ => if a then -1 else 1
  | _, .inf b => if b then 1 else -1
  | x, y =>
    match minExp [x, y] with
    | none => 0
    | some e0 => (x.scaled e0 - y.scaled e0).sign

/-- Integer square root, rounded down: bit by bit from bit b - 1. -/
def isqrtFrom : Nat → Nat → Nat → Nat
  | 0, _, r => r
  | b + 1, n, r => if (r + 2 ^ b) * (r + 2 ^ b) ≤ n then isqrtFrom b n (r + 2 ^ b) else isqrtFrom b n r

/-- Integer square root, rounded down. -/
def isqrt (n : Nat) : Nat := isqrtFrom (Nat.log2 n / 2 + 1) n 0

/-- A quotient of two nonzero magnitudes, to 200 bits and a sticky bit. -/
def quotExact (neg : Bool) (m : Nat) (e : Int) (m' : Nat) (e' : Int) : Exact :=
  let n := m * 2 ^ 200
  ⟨neg, n / m', e - e' - 200, n % m' ≠ 0⟩

/-- A square root, to at least 200 bits and a sticky bit. -/
def sqrtExact (m : Nat) (e : Int) : Exact :=
  let (m1, e1) := if e % 2 = 0 then (m, e) else (2 * m, e - 1)
  let n := m1 * 2 ^ 400
  let r := isqrt n
  ⟨false, r, e1 / 2 - 200, r * r ≠ n⟩

/-- The reciprocal of a square root, to at least 200 bits and a sticky bit. -/
def rsqrtExact (m : Nat) (e : Int) : Exact :=
  let (m1, e1) := if e % 2 = 0 then (m, e) else (2 * m, e - 1)
  let n := 2 ^ 600
  let r := isqrt (n / m1)
  ⟨false, r, -(e1 / 2) - 300, r * r * m1 ≠ n⟩

/-! ### Conversions -/

/-- R208: floating point to floating point. -/
def convFF (src dst : Fmt) (rm : Rm) (sat : Bool) (rho v : Nat) : Nat × Flags :=
  dst.finish rm sat rho (src.unpack v).res

/-- Limits of an integer lane. -/
def intMin (signed : Bool) (w : Nat) : Int := if signed then -(2 ^ (w - 1) : Int) else 0

def intMax (signed : Bool) (w : Nat) : Int := if signed then (2 ^ (w - 1) : Int) - 1 else (2 ^ w : Int) - 1

/-- An integer modulo 2^w, as a lane. -/
def wrapInt (w : Nat) (v : Int) : Nat := (v % (2 ^ w : Int)).toNat

/-- R209: floating point to an integer of w bits. -/
def convFI (src : Fmt) (signed : Bool) (w : Nat) (rm : Rm) (rho v : Nat) : Nat × Flags :=
  match src.unpack v with
  | .nan _ => (0, Flags.NV)
  | .inf neg => (wrapInt w (if neg then intMin signed w else intMax signed w), Flags.NV)
  | .fin neg m e =>
    if m = 0 then (0, Flags.none)
    else
      let (k, inexact) := roundAt rm rho ⟨neg, m, e, false⟩ (max e 0)
      let n : Int := (if neg then -1 else 1) * ((k * 2 ^ (max e 0).toNat : Nat) : Int)
      if n > intMax signed w then (wrapInt w (intMax signed w), Flags.NV)
      else if n < intMin signed w then (wrapInt w (intMin signed w), Flags.NV)
      else (wrapInt w n, Flags.when inexact Flags.NX)

/-- R209: an integer to floating point, rounded once. -/
def convIF (dst : Fmt) (rm : Rm) (sat : Bool) (rho : Nat) (v : Int) : Nat × Flags :=
  dst.round rm sat rho ⟨v < 0, v.natAbs, 0, false⟩

/-! ### MXFP4 (R200, R210) -/

/-- R210: the E8M0 code of a block's largest magnitude; a clamp at 0 raises SCALEFLOOR, one at 254 raises SAT. -/
def mxCode (amax : FVal) : Nat × Flags :=
  match amax with
  | .nan _ => (0xFF, Flags.none)
  | .inf _ => (0xFF, Flags.none)
  | .fin _ m e =>
    if m = 0 then (0, Flags.none)
    else
      let c : Int := e + Nat.log2 m - 2 + 127
      if c < 0 then (0, Flags.SCALEFLOOR) else if c > 254 then (254, Flags.SAT) else (c.toNat, Flags.none)

/-- R210, R323: one E2M1 element against a scale code. DEDUCED: code 0xFF comes first, as R210 orders its cases, so a NaN
lane under it raises nothing (unsafe: the flag could differ, log entry 22). -/
def mxElement (x : FVal) (code : Nat) (rm : Rm) (rho : Nat) : Nat × Flags :=
  if code = 0xFF then (0, Flags.none)
  else
    match x with
    | .nan _ => (0, Flags.NV)
    | .inf neg => (fmtE2m1.withSign neg 7, Flags.NX)
    | .fin neg m e =>
      let (b, fl) := fmtE2m1.round rm true rho ⟨neg, m, e - ((code : Int) - 127), false⟩
      (b, { Flags.none with nx := fl.nx })

/-- The value of an E2M1 element under a scale code (R200). -/
def mxValue (code4 code : Nat) : FVal :=
  if code = 0xFF then .nan false
  else
    match fmtE2m1.unpack code4 with
    | .fin n m e => .fin n m (e + ((code : Int) - 127))
    | v => v

/-! ### Deterministic stochastic rounding (R207) -/

/-- The last three lines of R207: the mixing function, called F in R247. -/
def mix64 (x0 : Word) : Word :=
  let x1 := (x0 ^^^ (x0 >>> 30)) * 0xBF58476D1CE4E5B9
  let x2 := (x1 ^^^ (x1 >>> 27)) * 0x94D049BB133111EB
  x2 ^^^ (x2 >>> 31)

/-- The inputs of R207 other than the lane: work identifier, wave, config-local fret, virtual element and slot. -/
structure SrdIn where
  work : Word
  wave : Nat
  fret : Nat
  velem : Nat
  slot : Nat
  deriving DecidableEq, Repr

/-- R207: the 32-bit value ρ of a lane number. -/
def SrdIn.rho (s : SrdIn) (lane : Nat) : Nat :=
  let c : Word := BitVec.ofNat 64 (s.wave + 2 ^ 24 * s.fret + 2 ^ 36 * s.velem + 2 ^ 39 * s.slot + 2 ^ 44 * lane)
  (mix64 (s.work ^^^ (c * 0x9E3779B97F4A7C15))).toNat / 2 ^ 32

/-! ### Results that R317 only bounds -/

/-- The code of the magnitude 2^n held within the format's codes, rounded down. -/
def Fmt.pow2Mag (f : Fmt) (n : Int) : Nat :=
  if n < f.emin - f.fbits then 0
  else if n < f.emin then 2 ^ (n - (f.emin - f.fbits)).toNat
  else min f.infMag ((n - f.emin + 1).toNat * 2 ^ f.fbits)

/-- The code of a whole number's magnitude, rounded down, held at the infinity code. -/
def Fmt.natMag (f : Fmt) (n : Nat) : Nat := min f.infMag ((f.round .rtz true 0 ⟨false, n, 0, false⟩).1)

/-- A magnitude chosen from lo to hi by the open choice c. -/
def choose (c lo hi : Nat) : Nat := lo + c % (hi - lo + 1)

/-- The flags and bits of an approximated result with a chosen magnitude (R317): inexact always; overflow and underflow by
R199 applied to the value returned. -/
def Fmt.approxOut (f : Fmt) (rm : Rm) (sat neg : Bool) (mag : Nat) : Nat × Flags :=
  if mag > f.maxMag then f.overflow rm sat neg
  else (f.withSign neg mag, { Flags.none with nx := true, uf := mag < 2 ^ f.fbits })

/-- Every magnitude code within one ulp of an exact value y, ulp(y) taken at |y| (R317); magnitudes past M stand for the
codes an unbounded exponent range would have. -/
def Fmt.within1ulp (f : Fmt) (y : Exact) : List Nat :=
  let q0 := f.emin - (f.fbits : Int)
  let q := max y.top f.emin - f.fbits
  let base := (q - q0).toNat * 2 ^ f.fbits + (roundAt .rtz 0 y q).1
  let val (mag : Nat) : Nat :=
    let t := mag / 2 ^ f.fbits - 1
    let k := if mag < 2 ^ f.fbits then mag else mag % 2 ^ f.fbits + 2 ^ f.fbits
    k * 2 ^ (q0 + t - y.e).toNat
  let u := 2 ^ (q - y.e).toNat
  ([base - 2, base - 1, base, base + 1, base + 2].filter
    (fun v => v ≠ 0 && val v ≤ y.m + u && y.m + y.sticky.toNat ≤ val v + u)).eraseDups

end Sys2Proof.Machine
end

