-- ==== Sys2Proof/Machine/Tab.lean ====
section
/-!
DEFINITION. Machine/Tab.lean: tables by number and memories by address, as lists in one canonical form, with their reads
and writes.
-/
namespace Sys2Proof.Machine

/-- A table: rows in strictly rising order of their numbers. -/
abbrev Tab (α : Type) := List (Nat × α)

/-- The row of a number. -/
def tget {α : Type} : Tab α → Nat → Option α
  | [], _ => none
  | (k, v) :: t, n => if k = n then some v else tget t n

/-- The row of a number, or a default. -/
def tgetD {α : Type} (t : Tab α) (n : Nat) (d : α) : α := (tget t n).getD d

/-- The table with one row set. -/
def tput {α : Type} : Tab α → Nat → α → Tab α
  | [], n, v => [(n, v)]
  | (k, w) :: t, n, v => if n = k then (k, v) :: t else if n < k then (n, v) :: (k, w) :: t else (k, w) :: tput t n v

/-- The table without one row. -/
def tdel {α : Type} : Tab α → Nat → Tab α
  | [], _ => []
  | (k, w) :: t, n => if n = k then tdel t n else (k, w) :: tdel t n

/-- The table with one row changed, where it has that row. -/
def tmod {α : Type} (t : Tab α) (n : Nat) (f : α → α) : Tab α :=
  match tget t n with
  | none => t
  | some v => tput t n (f v)

/-- Rows in strictly rising order. -/
def tabRising {α : Type} : Tab α → Bool
  | [] => true
  | (_, _) :: [] => true
  | (a, _) :: (b, y) :: t => a < b && tabRising ((b, y) :: t)

/-- A set of numbers: a table of rows without contents. -/
abbrev NSet := Tab Unit

def nsHas (s : NSet) (n : Nat) : Bool := (tget s n).isSome
def nsAdd (s : NSet) (n : Nat) : NSet := tput s n ()
def nsDel (s : NSet) (n : Nat) : NSet := tdel s n

/-! ### Memory: bytes by address -/

/-- What a byte that is not listed reads as. DESIGN CHOICE, unsafe (log entry 3): the manual gives memory no contents after
power-on; the model takes 0x00. -/
def unlistedByte : Byte := 0

/-- A memory: listed bytes in strictly rising order of address, none equal to what an unlisted byte reads as. -/
abbrev Memory := List Host.Cell

/-- The byte at an address. -/
def memByte (m : Memory) (a : Nat) : Byte := tgetD m a unlistedByte

/-- The memory with one byte written; a byte that equals the unlisted value is not listed. -/
def memPut (m : Memory) (a : Nat) (b : Byte) : Memory := if b = unlistedByte then tdel m a else tput m a b

/-- Bytes written from an address upward. -/
def memPutBytes (m : Memory) (a : Nat) : List Byte → Memory
  | [] => m
  | b :: bs => memPutBytes (memPut m a b) (a + 1) bs

/-- n bytes from an address upward. -/
def memBytes (m : Memory) (a : Nat) : Nat → List Byte
  | 0 => []
  | n + 1 => memByte m a :: memBytes m (a + 1) n

/-- The canonical form of a memory. -/
def Memory.wf (m : Memory) : Bool := tabRising m && m.all (fun c => c.2 ≠ unlistedByte)

/-! ### Lists -/

/-- The list without its n-th element. -/
def dropAt {α : Type} : List α → Nat → List α
  | [], _ => []
  | _ :: t, 0 => t
  | x :: t, n + 1 => x :: dropAt t n

/-- The list with its n-th element replaced. -/
def setAt {α : Type} : List α → Nat → α → List α
  | [], _, _ => []
  | _ :: t, 0, y => y :: t
  | x :: t, n + 1, y => x :: setAt t n y

/-- The position of the first element that satisfies a test. -/
def findIdx1 {α : Type} (p : α → Bool) : List α → Option Nat
  | [] => none
  | x :: t => if p x then some 0 else (findIdx1 p t).map (· + 1)

/-- The element of least key, the earlier of equals. -/
def minBy {α : Type} (key : α → Nat) : List α → Option α
  | [] => none
  | x :: t =>
    match minBy key t with
    | none => some x
    | some y => if key x ≤ key y then some x else some y

/-- Elements put in rising order of a key, equals in their order. -/
def insertBy {α : Type} (key : α → Nat) (x : α) : List α → List α
  | [] => [x]
  | y :: t => if key x ≤ key y then x :: y :: t else y :: insertBy key x t

def sortBy {α : Type} (key : α → Nat) : List α → List α
  | [] => []
  | x :: t => insertBy key x (sortBy key t)

end Sys2Proof.Machine
end

