-- ==== Sys2Proof/Machine/State.lean ====
section
/-!
DEFINITION. Machine/State.lean: everything the manual gives the device to hold, as plain data, the reasons a step can stop,
and the state right after auxiliary cold start.

Numbering used throughout: cluster c is the device cluster number of R151; physical fret pf = 8 * c + fret; an element is
pf and its number; a placement's key is 64 * task number + index; an address space's key is 256 * function + ASID; a line is
an HBM physical address divided by 128.
-/
namespace Sys2Proof.Machine

/-! ### Clocks, package and board -/

/-- Fabric cycles counted from phase 3 (R386), PTP time (R24), and nanoseconds since auxiliary power was applied, against
which the limits of R30, R42, R44, R48, R96, R97 and R100 run (the model's own count). -/
structure Clock where
  cycle : Nat
  ptpNs : Nat
  ns : Nat
  deriving DecidableEq, Repr

/-- Causes of `EP_CAUSE` (R46). -/
inductive Cause
  | none | bootsig | pwrfail | bridge | svcfail | hbmall | thermtrip
  deriving DecidableEq, Repr

/-- A bridge link (R10, R12): `remapped` counts, by module, the failing lanes that lane remapping repairs (R37). -/
structure Bridge where
  trained : Bool
  retries : Nat
  retrained : Bool
  remapped : Tab Nat
  deriving DecidableEq, Repr

/-- A Folgar port (R21 to R23, R46): `again` is when its retraining under a later identifier began, `rx` the sequence number expected
next on each virtual channel. -/
structure Port where
  data : Bool
  up : Bool
  lanes : Nat
  rate : Nat
  tried : Bool
  again : Option Nat
  rx : Tab Nat
  deriving DecidableEq, Repr

/-- Package, power and the Epurn window (R24 to R31, R34 to R36, R46, R47). `epAddr` and `pps` are the connector's straps and pulse input
(R28); `badLink` is the bridge link that was fatal (R12); `svcDigests` the digests of the service configurations loaded, in order, and
`chstEnd` the channel states after phase 4 (R36); `transcript` the messages of the SPDM session. -/
structure Board where
  aux : Bool
  pwrEn : Bool
  pwrGood : Bool
  perst : Bool
  phase : Nat
  phaseSince : Nat
  cause : Cause
  trip : Bool
  fatal : Bool
  ptpLock : Bool
  hlink : Bool
  hostLoss : Bool
  flr : Bool
  duty : Nat
  beat : BitVec 16
  beatSince : Nat
  alert : Bool
  devId : BitVec 20
  plim : BitVec 32
  clk : Nat
  clkNext : Option Nat
  clkSince : Nat
  dieTemp : Tab Nat
  stackTemp : Tab Nat
  tripAt : Option Nat
  tripSensor : Nat
  resetHeld : Bool
  linkRate : Nat
  linkWidth : Nat
  cxl : Bool
  modeSettled : Bool
  bridges : Tab Bridge
  ports : Tab Port
  portsSince : Option Nat
  lossEvents : Nat
  lossLines : Nat
  lossAt : Option Nat
  ptpGood : Nat
  hotStacks : NSet
  flash : Option FwImage
  fuseVersion : Nat
  staged : Option FwImage
  booted : List Byte
  svcDigests : List Byte
  chstEnd : List Byte
  transcript : List Byte
  debugLock : Bool
  folgarIn : List (Nat × Nat × List Byte)
  folgarRetry : Nat
  defects : NSet
  epAddr : BitVec 2
  pps : Bool
  badLink : Option Nat
  deriving DecidableEq, Repr

/-! ### Host side -/

/-- A launch queue's registers (R56). -/
structure Queue where
  base : Word
  prod : Word
  ctl : Word
  cons : Word
  err : Word
  deriving DecidableEq, Repr

/-- A function-level reset in progress (R42): when it began, and whether it is a PF reset. -/
structure Flr where
  start : Nat
  pf : Bool
  deriving DecidableEq, Repr

/-- A host kill in progress (R101): its `SEQ`, tasks ended so far, and the tasks still awaited. -/
structure KillReq where
  seq : Nat
  ended : Nat
  waiting : List Nat
  deriving DecidableEq, Repr

/-- An entry of an MSI-X table (R49, R65): message address, message data, and mask bit. -/
structure MsixVec where
  addr : Word
  data : BitVec 32
  masked : Bool
  deriving DecidableEq, Repr

/-- One function (R49): registers by BAR0 offset, queues, reset in progress, MSI-X pending bits and table, AtomicOp enable, a host
kill in progress, and cycle and die of the last rejection at configuration load (R263). -/
structure HostFn where
  regs : Tab Word
  queues : Tab Queue
  flr : Option Flr
  pending : NSet
  vecs : Tab MsixVec
  atomicOp : Bool
  kill : Option KillReq
  cfgErrAt : Option (Nat × Nat)
  deriving DecidableEq, Repr

/-- What a host or Epurn request is answered with. -/
inductive HostReply
  | data (bytes : List Byte)
  | unsupported
  | poisoned
  | retryStatus
  | done
  | internalError
  deriving DecidableEq, Repr

/-- An entry of the holding area (R44, R69): a record or line bound for host memory, a line's atomic maximum (R64), an interrupt, or a
loss record. -/
inductive Held
  | bytes (fn addr : Nat) (bytes : List Byte)
  | maxLine (fn addr : Nat) (v : Word)
  | msix (fn vec : Nat)
  | loss (lines : Nat)
  deriving DecidableEq, Repr

/-- The host's view: functions, the size of the PF's BAR2 as a power of two (R49), arbitration record, and what the device has sent out; `caps`
holds each VF's `HF_VFCAP` as its last placement decision took it (R55). -/
structure HostSide where
  fns : Tab HostFn
  vfEnable : Bool
  bar2Log : Nat
  served : Tab Nat
  msix : List (Nat × Nat)
  replies : List HostReply
  held : List Held
  caps : Tab Word
  deriving DecidableEq, Repr

/-! ### Faults and threads -/

/-- Fault codes of R220. -/
inductive FCode
  | lease | align | overread | countquota | tritcode | uecc | trap | chk | matchovf | tilestate | engine | hostlink | collpeer | priv
  deriving DecidableEq, Repr

/-- When a fault was found (R133, R226 `KIND`). -/
inductive FKindAt
  | beforeCommit | afterCommit | notTied | taskWide
  deriving DecidableEq, Repr

/-- A fault found: code, ENGINE reason, address, own number where it is a chain conflict, and what R226 records of where. -/
structure FaultRec where
  code : FCode
  reason : Nat
  addr : Nat
  kind : FKindAt
  wave : Nat
  tag : Nat
  pl : Nat
  work : Word
  fret : Nat
  velem : Nat
  slot : Nat
  pf : Nat
  pelem : Nat
  own : Nat
  time : Nat
  waiting : List (Word × Nat)
  slotBytes : List Byte
  cfgid : Word
  swid : Nat
  deriving DecidableEq, Repr

/-- Where a chain operation stands (R125 to R131, R331). -/
inductive WState
  /-- In the WOB, not performed. -/
  | entered
  /-- An early read sent to memory. -/
  | sent
  /-- An early read answered. -/
  | replied
  /-- A committed held operation that waits for its turn. -/
  | committed
  /-- A committed held operation sent to its home, unit or barrier. -/
  | issued
  /-- A store performed, kept for forwarding until acknowledged; or any operation done. -/
  | done
  deriving DecidableEq, Repr

/-- A chain operation: the instruction, where it fired, its operands and triple, and what the WOB knows of it. -/
structure WobOp where
  instr : Instr
  task : Nat
  pl : Nat
  tag : Nat
  wave : Nat
  fret : Nat
  velem : Nat
  slot : Nat
  pf : Nat
  pelem : Nat
  left : Word
  right : Word
  aux : Word
  squashed : Bool
  ea : Nat
  pa : Nat
  host : Bool
  scratch : Bool
  st : WState
  value : Word
  fwd : List (Nat × Byte)
  seq : Nat
  reserved : Bool
  gen : Bool
  serial : Nat
  deriving DecidableEq, Repr

/-- A thread: its work identifier (R120), oldest uncommitted wave (R117, R128), ordinal (R247), grant cycle (R121), faults
pending, whether a fault has landed, the number that tells it from earlier threads of its tag, and the hash of its writes
(R247). -/
structure Thread where
  work : Word
  oldest : Nat
  ordinal : Word
  granted : Nat
  faults : List FaultRec
  stopped : Bool
  serial : Nat
  hash : Word
  deriving DecidableEq, Repr

/-! ### Memory system -/

/-- A directory entry (R151). -/
inductive Dir
  | i
  | sp (ptrs : List Nat)
  | sc (groups : NSet)
  | e (y : Nat)
  deriving DecidableEq, Repr

/-- An L2 line (R141, R151, R162): data, dirty, directory, count with its owner task, its address space and the virtual address of
the line as established, last use. -/
structure L2Line where
  data : Line
  dirty : Bool
  dir : Dir
  count : Nat
  owner : Nat
  space : Nat
  va : Nat
  used : Nat
  deriving DecidableEq, Repr

/-- A spent marker (R162): owner task, address space, and virtual address as established. -/
structure Spent where
  owner : Nat
  space : Nat
  va : Nat
  deriving DecidableEq, Repr

/-- MESI states of an L1 line that is present (R151). -/
inductive L1St
  | s | e | m
  deriving DecidableEq, Repr

/-- An L1 line of a cluster (R141, R423): state, data, way (2 * fret + 0 or 1), last use; `host` marks a host-tier line. -/
structure L1Line where
  cluster : Nat
  line : Nat
  st : L1St
  data : Line
  way : Nat
  used : Nat
  host : Bool
  deriving DecidableEq, Repr

/-- Host-line-cache states that are present (R155). -/
inductive HSt
  | m | o | e | s
  deriving DecidableEq, Repr

/-- A host-line-cache line (R155). -/
structure HlcLine where
  st : HSt
  data : Line
  dir : Dir
  deriving DecidableEq, Repr

/-- A memory-side-cache line (R141). -/
structure MscLine where
  data : Line
  dirty : Bool
  deriving DecidableEq, Repr

/-- What a request asks of a home (R152). -/
inductive ReqKind
  | read (nt : Bool)
  | write
  | atHome
  | establish
  | consume
  | relc
  | hlcRead
  | hlcWrite
  deriving DecidableEq, Repr

/-- A request at a home, in arrival order. -/
structure Req where
  kind : ReqKind
  op : WobOp
  cluster : Nat
  line : Nat
  seq : Nat
  deriving DecidableEq, Repr

/-- A line transaction (R152): the request being served and the acknowledgements awaited. -/
structure Txn where
  id : Nat
  line : Nat
  req : Req
  awaited : Nat
  deriving DecidableEq, Repr

/-- A coherence message in flight (R152, R153). -/
inductive CohMsg
  | inval (id line cluster : Nat)
  | forward (id line cluster : Nat)
  | recall (id line cluster : Nat)
  | ack (id line cluster : Nat) (data : Option Line)
  | evict (line cluster : Nat)
  | writeBack (line cluster : Nat) (data : Line)
  deriving DecidableEq, Repr

/-- A read reply owed to a WOB (R128, R330): raw bytes as a value, a line to install, or a fault. -/
structure Reply where
  op : WobOp
  raw : Nat
  install : Option (Nat × L1St × Line)
  fault : Option (FCode × Nat)
  gen : Bool
  deriving DecidableEq, Repr

/-- A store acknowledgement owed to a WOB (R128): a line to install in M before the store is merged, or a fault. -/
structure Ack where
  op : WobOp
  line : Nat
  install : Option Line
  fault : Option (FCode × Nat)
  deriving DecidableEq, Repr

/-- A registered `waitl` (R348): the operation, its line, whether it is polled and not re-checked at writes, and when it was
last looked at (cycles for a slice's poll, nanoseconds for the hub's). -/
structure Wait where
  op : WobOp
  place : Nat
  polled : Bool
  last : Nat
  deriving DecidableEq, Repr

/-- A TLB entry (R169): address space, virtual page start, page size, frame, write permission. -/
structure TlbEntry where
  space : Nat
  va : Nat
  size : Nat
  frame : Nat
  w : Bool
  deriving DecidableEq, Repr

/-- A store on the uncached host path that its WOB has not yet been told of (R66, R180): its operation's number, its thread and wave, where it
writes, the bytes, those written over, and when it was sent. Until the acknowledgement each cluster sees it from a moment of its own. -/
structure Post where
  seq : Nat
  task : Nat
  serial : Nat
  wave : Nat
  pa : Nat
  bytes : List Byte
  old : List Byte
  since : Nat
  deriving DecidableEq, Repr

/-- A cluster's or a die's TLB (R107, R169): which translations it holds, as address space and page start, the newest first. -/
abbrev TlbHeld := List (Nat × Nat)

/-- An invalidation in progress (R170, R171): the command word, and the order number before which requests must drain. -/
structure Inval where
  cmd : Word
  before : Nat
  deriving DecidableEq, Repr

/-- A migration in progress (R172 to R174): the record, pieces and bytes copied so far, and the address of its status word. -/
structure Mig where
  src : Nat
  dst : Nat
  ptea : Nat
  va : Nat
  size : Nat
  fn : Nat
  asid : Nat
  done : Nat
  copied : Nat
  stat : Nat
  deriving DecidableEq, Repr

/-- A PHY training window (R38, R39). -/
structure Phy where
  chst : Nat
  spass : BitVec 2
  busy : Bool
  dir : Bool
  delay : BitVec 7
  pres : Word
  rdly : Word
  wdly : Word
  repair : Word
  errcnt : BitVec 16
  done : Bool
  rounds : BitVec 8
  seed : BitVec 32
  perr : Word
  testing : Bool
  clean : Bool
  since : Nat
  deriving DecidableEq, Repr

/-- A training instance at work on a channel (R40, R394), and the task that it is. -/
structure Train where
  ch : Nat
  task : Nat
  deriving DecidableEq, Repr

/-- Memories, caches, coherence, translation, migration, access counters and PHY windows. `flaws` holds the HBM lines whose stored bits are
in error, by the number of DQ byte lanes affected, and `corrected` counts those corrected and rewritten (R15); `withheld` the channels
that phase 4 left untrained or failed (R16); `train` and `trainLeft` the channels in training and still to be trained (R40); `hdm` the lines
that the host holds through CXL.mem, `hdmMod` its data of those that it has modified, and `backInv` those that it has been told to give up (R19); `tlb` the translations in force, `ctlb` and
`dtlb` what the TLB of each cluster and the second level of each die hold of them (R169); `pins` the lines that a fill holds at their homes, by
the fill's number (R360); `posts` the uncached host stores that not every cluster need see yet (R180). -/
structure Mem where
  hbm : Memory
  hostMem : Memory
  poison : NSet
  hostPoison : NSet
  flaws : Tab Nat
  corrected : Nat
  msc : Tab MscLine
  l2 : Tab L2Line
  spent : Tab Spent
  l1 : List L1Line
  hlc : Tab HlcLine
  reqs : List Req
  txns : List Txn
  msgs : List CohMsg
  replies : List Reply
  acks : List Ack
  ldcWait : List Req
  waits : List Wait
  tlb : List TlbEntry
  ctlb : Tab TlbHeld
  dtlb : Tab TlbHeld
  pins : List (Nat × Nat)
  posts : List Post
  invs : Tab Inval
  acCount : Tab Nat
  acQueued : List (Nat × Nat)
  migs : List Mig
  phy : Tab Phy
  withheld : NSet
  train : List Train
  trainLeft : List Nat
  hdm : NSet
  hdmMod : Tab Line
  backInv : List Nat
  deriving DecidableEq, Repr

/-! ### Fabric -/

/-- A matching-store entry, resident or spilled (R98, R109, R115). -/
structure Entry where
  slot : Nat
  port : Nat
  tag : Nat
  wave : Nat
  gen : Bool
  data : Word
  arrival : Nat
  seq : Nat
  spilled : Bool
  deriving DecidableEq, Repr

/-- A token waiting in an output queue (R108): its destination word, key fields, data, and the cycle from which it may leave. -/
structure OutTok where
  dest : Dest
  tag : Nat
  wave : Nat
  data : Word
  ready : Nat
  deriving DecidableEq, Repr

/-- What an output queue holds: a token, a chain operation bound for its home WOB (R119), or a spawn request bound for the tag
unit (R282). -/
inductive OutItem
  | tok (t : OutTok)
  | chain (op : WobOp) (ready : Nat)
  | spawn (tag wave : Nat) (data : Word) (slot velem : Nat) (dests : List Dest) (ready : Nat) (work ordinal : Word)
  deriving DecidableEq, Repr

/-- Cycle-class counters of an element (R237), 32 bits each, saturating. -/
structure Classes where
  fired : Nat
  cfgload : Nat
  idle : Nat
  blockOut : Tab Nat
  waitPort : Tab Nat
  waitSlot : Tab Nat
  deriving DecidableEq, Repr

/-- An element's matching store, output queue, counters, and the cycle of its last turn. -/
structure Elem where
  entries : List Entry
  outQ : List OutItem
  classes : Classes
  lastTurn : Option Nat
  deriving DecidableEq, Repr

/-- A barrier (R350) with its registered waits, oldest first. -/
structure Barrier where
  expect : Nat
  arrived : Nat
  phase : Nat
  waiters : List WobOp
  deriving DecidableEq, Repr

/-- States of a fret (R84). -/
inductive FretSt
  | defect | service | scrub | free | reserved (task : Nat) | load | live | move
  deriving DecidableEq, Repr

/-- A cached configuration fret (R84, R86). -/
structure CfgRec where
  cfgid : Word
  f : Nat
  nf : Nat
  deriving DecidableEq, Repr

/-- A rewrite under way in a fret (R137): the placement, config-local fret, element and slot, the new record, whether the token
has arrived, the clusters whose flush markers are still awaited, for a killed fret when it was released (R139), and whether all that the
rewrite waits for held as the last cycle ended. -/
structure Window where
  task : Nat
  pl : Nat
  fret : Nat
  velem : Nat
  slot : Nat
  bytes : List Byte
  opened : Bool
  markers : NSet
  since : Nat
  ready : Bool
  deriving DecidableEq, Repr

/-- A physical fret; `promised` is the task that its scrub's end reserves it for (R94); `remap` the physical elements of its virtual ones where
that is not the identity (R87, R89); `rewrote` the slot last rewritten, and in which cycle (R137). -/
structure Fret where
  st : FretSt
  cfg : Option CfgRec
  owner : Option (Nat × Nat)
  gen : Bool
  slots : Tab (List Byte)
  swids : Tab Nat
  elems : Tab Elem
  scratch : Memory
  bars : Tab Barrier
  window : Option Window
  promised : Option Nat
  remap : List Nat
  rewrote : Option (Nat × Nat)
  deriving DecidableEq, Repr

/-- A token in flight in the network (R109, R110): resolved destination, key fields, sender's cluster, the cycle from
which it may arrive, and the flags that its delivery sets, where it is an engine command's (R218). -/
structure NetTok where
  task : Nat
  pl : Nat
  pf : Nat
  pelem : Nat
  fret : Nat
  velem : Nat
  slot : Nat
  port : Nat
  tag : Nat
  wave : Nat
  gen : Bool
  data : Word
  src : Nat
  earliest : Nat
  flags : Flags
  deriving DecidableEq, Repr

/-- A chain operation in flight to its home WOB, or waiting at the share's input (R125, R131). -/
structure OpMsg where
  op : WobOp
  earliest : Nat
  waiting : Bool
  seq : Nat
  deriving DecidableEq, Repr

/-- A spawn request on its way to, or at, a tag unit (R282), with its spawner's work identifier and ordinal. -/
structure SpawnReq where
  cluster : Nat
  pf : Nat
  pelem : Nat
  fret : Nat
  slot : Nat
  velem : Nat
  tag : Nat
  wave : Nat
  data : Word
  dests : List Dest
  work : Word
  ordinal : Word
  earliest : Nat
  deriving DecidableEq, Repr

/-- An `endt` notice on its way to, or at, the thread's home WOB (R283). -/
structure Notice where
  task : Nat
  pl : Nat
  tag : Nat
  wave : Nat
  earliest : Nat
  deriving DecidableEq, Repr

/-- A placement (R87, R107, R120): fret map and element remaps by config-local fret, map generations with, by fret, the cycle in which a
reconfiguration token last changed them (R137), frets under a move,
engine grants by cluster; the free list, as the tags never yet taken (`fresh` and up) followed by those returned; threads;
WOB entries of uncommitted waves and, in `queue`, committed held operations and stores not yet acknowledged; sticky flags;
spawn requests; returned tags with the cycle in which each reaches the tag unit; reserve holders by home fret; freeze mark;
the interval's start (R237); tokens held back for a move or a stepped wave (R89, R230); and, by home fret, the thread whose wave was
committed last, and the thread whose held operation was issued last with the cycle (R140). -/
structure Placement where
  task : Nat
  idx : Nat
  map : Tab Nat
  remap : Tab (List Nat)
  mapGen : NSet
  regen : Tab Nat
  moving : NSet
  grants : NSet
  fresh : Nat
  freeTags : List Nat
  threads : Tab Thread
  wob : List WobOp
  queue : List WobOp
  flags : Flags
  spawns : List SpawnReq
  returned : List (Nat × Nat)
  holders : Tab (Nat × Nat)
  frozen : Bool
  since : Nat
  heldToks : List NetTok
  turns : Tab Nat
  issues : Tab (Nat × Nat)
  deriving DecidableEq, Repr

/-- A trace record (R234) before it reaches a ring. -/
structure TrRec where
  time : Nat
  payload : Word
  swid : Nat
  tag : Nat
  wave : Nat
  kind : Nat
  fret : Nat
  velem : Nat
  slot : Nat
  pl : Nat
  task : Nat
  fn : Nat
  pf : Nat
  body : List Byte
  deriving DecidableEq, Repr

/-- A move in progress (R89): the placement, and source and destination of each fret that moves with it (R147); or, within one fret, the two
virtual elements that change places. -/
structure Move where
  task : Nat
  pl : Nat
  pairs : List (Nat × Nat)
  elem : Option (Nat × Nat)
  since : Nat
  deriving DecidableEq, Repr

/-- A reconfiguration of a task (R137, R391): the `launch.recfg` that asked for it, and the rewrites not yet begun, each with
its window as it will open. -/
structure Recfg where
  task : Nat
  op : WobOp
  todo : List Window
  deriving DecidableEq, Repr

/-- The fabric: frets, placements, traffic, counters and trace FIFOs. -/
structure Fab where
  frets : Tab Fret
  placements : Tab Placement
  net : List NetTok
  ops : List OpMsg
  notices : List Notice
  barQ : List OpMsg
  moves : List Move
  recfgs : List Recfg
  evsel : Tab Word
  evc : Tab Word
  trFifo : Tab (List TrRec)
  trLost : Tab Nat
  gated : NSet
  deriving DecidableEq, Repr

/-! ### Tasks -/

/-- Task states of R70. -/
inductive TState
  | check | reswait | admitwait | fretwait | loading | running | saving | saved | held | killing | ended | rejected
  deriving DecidableEq, Repr

/-- Final `STATUS` of R63. -/
inductive TStatus
  | done | fault | killed | rejected
  deriving DecidableEq, Repr

/-- Actions of R93. -/
inductive VAction
  | drain | checkpoint | kill
  deriving DecidableEq, Repr

/-- A victim mark: the action ordered, when, and the newcomer it serves. -/
structure Victim where
  action : VAction
  since : Nat
  newcomer : Nat
  deriving DecidableEq, Repr

/-- A gang descriptor (R103). -/
structure Gang where
  gid : BitVec 32
  ctmo : Nat
  t0 : Nat
  period : Nat
  off : Nat
  len : Nat
  ghold : Bool
  deriving DecidableEq, Repr

/-- A tile table entry with its data (R146). -/
structure Tile where
  st : Nat
  fmt : TFmt
  rows : Nat
  cols : Nat
  gbase : Nat
  gcnt : Nat
  count : Nat
  satf : Bool
  pf : Nat
  gen : Bool
  data : Memory
  deriving DecidableEq, Repr

/-- Kinds of an accumulator (R365). -/
inductive AccKind
  | none | int | fp
  deriving DecidableEq, Repr

/-- An accumulator (R215, R365): kind, saturation bit, elements by row * columns + column (INT32 or binary32 codes). -/
structure Accum where
  kind : AccKind
  sat : Bool
  elems : Tab (BitVec 32)
  deriving DecidableEq, Repr

/-- A counted line as a save image holds it (R98), by virtual address: its page may migrate meanwhile (R102). -/
structure SavedLine where
  va : Nat
  count : Nat
  data : Line
  deriving DecidableEq, Repr

/-- An accepted engine command (R354): the operation, its unit and cluster, the tile slots still to be read and the tiles taken
(R149), its descriptor or prepared data; and, once running, when its busy part and hand-off end, how far it has moved of how
much, the poisoned lines it is writing over by the bytes covered (R157), what it delivers, and the last 8-byte word that a `copy` has read, by
its place (R178). -/
structure Cmd where
  op : WobOp
  unit : Nat
  cluster : Nat
  toRead : List Nat
  taken : List (Nat × Tile)
  desc : List Byte
  running : Bool
  busyEnd : Nat
  doneAt : Nat
  result : Word
  flags : Flags
  fault : Option (FCode × Nat × Nat)
  steer : Option Nat
  progress : Nat
  total : Nat
  cover : Tab Nat
  carry : Option (Nat × Nat)
  deriving DecidableEq, Repr

/-- A collective this device has entered (R382, R383): the command, its ordinal, entry time, peers entered so far, whether the
clock of `CTMO` stands still. -/
structure Coll where
  op : WobOp
  cid : BitVec 32
  ordinal : Nat
  subop : Nat
  nelem : Nat
  root : Nat
  members : List (BitVec 20)
  dst : Nat
  rank : Nat
  src : List (BitVec 32)
  since : Nat
  heldFor : Option Nat
  gid : BitVec 32
  deriving DecidableEq, Repr

/-- A save image (R98), in structured form beside the bytes written to the `SAVE` lease. -/
structure Image where
  placements : List Placement
  frets : List (Nat × Nat × Fret)
  tiles : List (Nat × Nat × Nat × Tile)
  accs : List (Nat × Nat × List Accum)
  pending : List WobOp
  counted : List SavedLine
  spent : List Nat
  copied : List Cmd
  colls : List Coll
  ops : List OpMsg
  notices : List Notice
  deriving DecidableEq, Repr

/-- Which copy of a paired run a task is (R246). -/
inductive PairCopy
  | a | b
  deriving DecidableEq, Repr

/-- A task (R70 to R102). `lastPl` is one past the placement last given an item (R74). `ending` holds from the moment its end is decided, with `status`, until the end has been performed
(R64); `slow` after a drain that expired (R96); `loadErr` is why the image read for its frets is rejected, once they are loaded (R86, R262);
`nfault` counts the faults found (R223); `learned` is the PTP time of acceptance (R104), `sliceFrom` that since which the next end instant counts (R105, R232). -/
structure Task where
  num : Nat
  fn : Nat
  asid : Nat
  hdr : List Byte
  rtag : Word
  cval : Word
  intr : Bool
  vec : Nat
  child : Bool
  svc : Bool
  st : TState
  accept : Nat
  prio : Nat
  tokens : Nat
  cfgid : Word
  nf : Nat
  nextItem : Nat
  ended : Nat
  nextPl : Nat
  lastPl : Nat
  quota : Bool
  walk : Nat
  need : Nat
  victim : Option Victim
  flags : Flags
  fault : Option FaultRec
  faultAt : Nat
  nfault : Nat
  reports : List (FaultRec × Nat)
  freezing : Bool
  status : TStatus
  reason : Nat
  faddr : Nat
  frec : Nat
  image : Option Image
  nsave : Nat
  start : Nat
  endT : Nat
  gang : Option Gang
  prefHeld : List WobOp
  settled : Bool
  stateSince : Nat
  pair : Option PairCopy
  meas : Bool
  orderKill : Bool
  noLine : Bool
  ending : Bool
  slow : Bool
  loadErr : Option (Nat × Nat)
  learned : Nat
  sliceFrom : Nat
  deriving DecidableEq, Repr

/-- The task table (R71), the last number assigned (R389), the order of acceptance (R79), and the memory-effects order. -/
structure Sched where
  tasks : Tab Task
  lastTask : Nat
  acceptCtr : Nat
  dispatching : Bool
  deriving DecidableEq, Repr

/-! ### Engines, fabric engine -/

/-- A remote request toward a peer (R381): the operation and when it was sent. -/
structure Remote where
  op : WobOp
  since : Nat
  deriving DecidableEq, Repr

/-- Engine-side state. `fabricOut` holds the messages given to the Folgar sender and `flitsOut` the flits that carry them, by port; `txSeq`
the next sequence number of each port's virtual channels, by 8 * port + channel (R21). -/
structure Eng where
  tiles : Tab Tile
  accs : Tab Accum
  cmds : List Cmd
  busyLines : NSet
  remote : List Remote
  colls : List Coll
  peers : List (CollPeer × Nat)
  ordinals : Tab Nat
  fabricOut : List (Nat × List Byte)
  flitsOut : List (Nat × List Byte)
  txSeq : Tab Nat
  deriving DecidableEq, Repr

/-! ### Debug, measurement, pairing -/

/-- The debug block's attached task, the wave that a step lets commit, tokens of stepped `spawn` firings held at their sender, and
the waves committed by steps, whose engine commands are held (R227 to R231); and a halt that waits (R102). -/
structure Dbg where
  attached : Option Nat
  stepping : Option (Nat × Nat × Nat)
  heldToks : List NetTok
  steppedWaves : List (Nat × Nat × Nat)
  haltPending : Bool
  deriving DecidableEq, Repr

/-- A measured launch (R240 to R245). -/
structure Meas where
  task : Nat
  npass : Nat
  restore : Bool
  creset : Bool
  stopmis : Bool
  snap : Nat
  snapsz : Nat
  res : Nat
  sels : List (Nat × Nat × Nat × Nat)
  pass : Nat
  pages : List (Nat × Nat)
  hash : Word
  hash1 : Word
  misbits : Nat
  sums : List Nat
  cyc : List Nat
  missing : NSet
  snapFull : Bool
  refused : Bool
  deriving DecidableEq, Repr

/-- A paired run (R246 to R248): its queue's tag, copies, keys that ended in each copy with their hashes, in order of copy A. -/
structure Pair where
  rtag : Word
  taskA : Nat
  taskB : Nat
  endA : Option (TStatus × Nat)
  endB : Option (TStatus × Nat)
  keysA : List (Word × Word × Word)
  keysB : List (Word × Word × Word)
  overflow : Bool
  fn : Nat
  late : List (Nat × Thread)
  deriving DecidableEq, Repr

/-- Debug, gang holds, measurement and pairing. -/
structure Obs where
  dbg : Dbg
  gangHold : Tab Nat
  gangRelease : Tab Nat
  gangFrozen : NSet
  meas : List Meas
  pairs : List Pair
  measHeld : Tab Nat
  deriving DecidableEq, Repr

/-! ### The machine -/

/-- What a beat brings about: an event, or one element's turn to fire (task, placement, config-local fret, virtual element). -/
inductive Cue
  | event (i : Instr) (subject : Nat)
  | fire (task pl fret velem : Nat)
  deriving DecidableEq, Repr

/-- One beat of the agenda: cycles and nanoseconds that pass first, bytes that the host writes in its own memory meanwhile (R177), by
host address, HBM lines in which one or more DQ byte lanes come to be in error (R15), and what then happens. -/
structure Beat where
  cycles : Nat
  ns : Nat
  hostBytes : List (Nat × Byte)
  flaws : List (Nat × Nat)
  cue : Cue
  deriving DecidableEq, Repr

/-- The instance latched for a firing (R111, R117, R272): where it fires, its key, and its operand words. -/
structure Focus where
  task : Nat
  pl : Nat
  fret : Nat
  velem : Nat
  pf : Nat
  pelem : Nat
  slot : Nat
  tag : Nat
  wave : Nat
  gen : Bool
  left : Word
  right : Word
  aux : Word
  deriving DecidableEq, Repr

/-- The device. `agenda`, `focus`, `subject`, `freeCtr` and `seqCtr` are the model's own (log entries 1, 2 and 5). -/
structure State where
  clock : Clock
  board : Board
  host : HostSide
  mem : Mem
  fab : Fab
  sched : Sched
  eng : Eng
  obs : Obs
  agenda : List Beat
  focus : Option Focus
  subject : Nat
  freeCtr : Nat
  seqCtr : Nat
  deriving DecidableEq, Repr

/-- Reasons the machine stops with a fault. A fault of a task is no such stop: it is an event inside the machine. -/
inductive Fault
  /-- A firing's slot holds bytes that are no record. Raised by `step`; safe: a loaded image never holds one (R262). -/
  | badRecord (r : Reject)
  deriving DecidableEq, Repr

/-- Reasons the machine refuses a step. -/
inductive Refusal
  /-- Raised by `exec` for an operation that has no meaning yet; safe: nothing is claimed of it. -/
  | notModelled (mnemonic : String)
  /-- Raised by the meaning of an operation or event when the rule that governs it does not let it happen in this state: the
  machine has no such step. Safe: the agenda named a happening that the manual rules out. -/
  | notEnabled (mnemonic : String)
  /-- Raised by `exec` for a Lilux-1 form when no instance has been latched to fire. Safe: a form happens only by a firing. -/
  | noFocus
  deriving DecidableEq, Repr

/-! ### Objects before anything has touched them -/

/-- Cycle-class counters at the start of an interval (R237). -/
def Classes.zero : Classes := ⟨0, 0, 0, [], [], []⟩

/-- An element with nothing in it. -/
def Elem.empty : Elem := ⟨[], [], Classes.zero, none⟩

/-- A barrier as a scrub leaves it (R350). -/
def Barrier.zero : Barrier := ⟨0, 0, 0, []⟩

/-- A fret that nothing has touched: FREE with nothing cached, or SERVICE in the service cluster, cluster 0 (R9, R84). -/
def Fret.fresh (pf : Nat) : Fret :=
  ⟨if pf < 8 then .service else .free, none, none, false, [], [], [], [], [], none, none, [], none⟩

/-- A queue's registers after reset (R56). -/
def Queue.zero : Queue := ⟨0, 0, 0, 0, 0⟩

/-- A function after its reset (R53, R56, R67). -/
def HostFn.zero : HostFn := ⟨[], [], none, [], [], false, none, none⟩

/-- An entry of an MSI-X table after reset: masked, as the MSI-X rules have it (log entry 28). -/
def MsixVec.zero : MsixVec := ⟨0, 0, true⟩

/-- A PHY window after power-on reset (R38). -/
def Phy.zero : Phy :=
  ⟨0, 0, false, false, 0, 0, 0x4040404040404040, 0x4040404040404040, 0, 0, false, 0, 0, 0, false, false, 0⟩

/-- A cleared accumulator (R365). -/
def Accum.zero : Accum := ⟨.none, false, []⟩

/-- No debugger attached. -/
def Dbg.none : Dbg := ⟨Option.none, Option.none, [], [], false⟩

/-- The clocks before phase 3 (R386). PTP time and the model's own nanoseconds start at 0 (DESIGN CHOICE, log entry 4). -/
def Clock.reset : Clock := ⟨0, 0, 0⟩

/-- The package right after auxiliary cold start: `EP_STAT` and the window's registers as R46 and R47 give them. What the
manual gives no value for is chosen in log entry 4. -/
def Board.reset : Board where
  aux := true
  pwrEn := false
  pwrGood := false
  perst := true
  phase := 0
  phaseSince := 0
  cause := .none
  trip := false
  fatal := false
  ptpLock := false
  hlink := false
  hostLoss := false
  flr := false
  duty := 0
  beat := 0
  beatSince := 0
  alert := false
  devId := 0xFFFFF
  plim := 3400
  clk := 2700
  clkNext := none
  clkSince := 0
  dieTemp := []
  stackTemp := []
  tripAt := none
  tripSensor := 0
  resetHeld := false
  linkRate := 0
  linkWidth := 0
  cxl := false
  modeSettled := false
  bridges := []
  ports := []
  portsSince := none
  lossEvents := 0
  lossLines := 0
  lossAt := none
  ptpGood := 0
  hotStacks := []
  flash := none
  fuseVersion := 0
  staged := none
  booted := []
  svcDigests := []
  chstEnd := []
  transcript := []
  debugLock := false
  folgarIn := []
  folgarRetry := 0
  defects := []
  epAddr := 0
  pps := false
  badLink := none

/-- The host side with no function touched. -/
def HostSide.reset : HostSide := ⟨[], false, 40, [], [], [], [], []⟩

/-- Memories with nothing listed, caches and queues empty. -/
def Mem.reset : Mem where
  hbm := []
  hostMem := []
  poison := []
  hostPoison := []
  flaws := []
  corrected := 0
  msc := []
  l2 := []
  spent := []
  l1 := []
  hlc := []
  reqs := []
  txns := []
  msgs := []
  replies := []
  acks := []
  ldcWait := []
  waits := []
  tlb := []
  ctlb := []
  dtlb := []
  pins := []
  posts := []
  invs := []
  acCount := []
  acQueued := []
  migs := []
  phy := []
  withheld := []
  train := []
  trainLeft := []
  hdm := []
  hdmMod := []
  backInv := []

/-- The fabric with nothing loaded. -/
def Fab.reset : Fab := ⟨[], [], [], [], [], [], [], [], [], [], [], [], []⟩

/-- No task. -/
def Sched.reset : Sched := ⟨[], 0, 0, false⟩

/-- Engines idle. -/
def Eng.reset : Eng := ⟨[], [], [], [], [], [], [], [], [], [], []⟩

/-- Nothing attached, held, measured or paired. -/
def Obs.reset : Obs := ⟨Dbg.none, [], [], [], [], [], []⟩

/-- The device right after auxiliary cold start (R32), the reset that resets everything. -/
def State.reset : State where
  clock := Clock.reset
  board := Board.reset
  host := HostSide.reset
  mem := Mem.reset
  fab := Fab.reset
  sched := Sched.reset
  eng := Eng.reset
  obs := Obs.reset
  agenda := []
  focus := none
  subject := 0
  freeCtr := 0
  seqCtr := 0

end Sys2Proof.Machine
end

