-- ==== Sys2Proof/Machine/Ops.lean ====
section
/-!
DEFINITION. Machine/Ops.lean: the named operations over the fabric's state: the mesh (R9, R11, R118), reads and writes of
frets, placements, threads and tasks, event counters (R238), sticky flags (R218), sending tokens (R109), trace records (R234,
R235), and taking a fault: found, landed and reported (R133, R223).
-/
namespace Sys2Proof.Machine

/-- What a step of this machine answers. -/
abbrev Out := Host.Outcome State Fault Refusal

/-- An event: it comes about where its rule lets it, and is no step of the machine elsewhere. -/
def event (mn : String) (ok : Bool) (s : State) : Out := if ok then .next s else .refused (.notEnabled mn)

/-! ### The mesh -/

/-- Whether the power manager has frozen every cluster for the present cycle (R26): of each 16 cycles as many as the duty fraction says, in one
run, which begins where it may (log entry 9). Nothing fires or leaves an element, no wave commits, and no engine starts. -/
def State.frozenNow (s : State) : Bool :=
  s.board.duty ≠ 0 && (s.clock.cycle + Config.dutyPhase (s.clock.cycle / 16)) % 16 < s.board.duty

/-- What happens in a cluster, which a frozen cycle holds up (R26): WOBs, L1s, matching stores, tag units and barriers stand still as elements do (log
entry 9). -/
def State.inCycle (s : State) (mn : String) (o : Out) : Out := if s.frozenNow then .refused (.notEnabled mn) else o

/-- Die of a device cluster number (R151). -/
def dieOf (c : Nat) : Nat := c / 128
/-- Device column of a cluster (R9). -/
def devX (c : Nat) : Nat := c % 16 + 16 * (dieOf c % 2)
/-- Device row of a cluster (R9). -/
def devY (c : Nat) : Nat := c / 16 % 8 + 8 * (dieOf c / 2)
def absDiff (a b : Nat) : Nat := (a - b) + (b - a)
/-- Mesh hops of the dimension-ordered route (R11). -/
def meshHops (a b : Nat) : Nat := absDiff (devX a) (devX b) + absDiff (devY a) (devY b)
/-- Bridge links that the route crosses (R11). -/
def bridgesCrossed (a b : Nat) : Nat := absDiff (dieOf a % 2) (dieOf b % 2) + absDiff (dieOf a / 2) (dieOf b / 2)
/-- Latency between two clusters; within one cluster, that of another fret (R118). -/
def routeLat (a b : Nat) : Nat := if a = b then 4 else 8 + 2 * meshHops a b + 20 * bridgesCrossed a b
/-- The hub gateway router's cluster of a die: die-local (8, 4) (R11). -/
def gateway (d : Nat) : Nat := 128 * d + 72
/-- Cluster of a physical fret. -/
def clusterOf (pf : Nat) : Nat := pf / 8
/-- Latency between two frets (R118). -/
def fretLat (a b : Nat) : Nat := if a = b then 1 else routeLat (clusterOf a) (clusterOf b)
/-- Latency between two elements (R118); elements 2k and 2k + 1 of a fret form a pod (R108). -/
def elemLat (pf e pf' e' : Nat) : Nat := if pf = pf' && e / 2 = e' / 2 then 0 else fretLat pf pf'

/-! ### Frets, elements, placements, threads, tasks -/

def State.fret (s : State) (pf : Nat) : Fret := tgetD s.fab.frets pf (Fret.fresh pf)
def State.setFret (s : State) (pf : Nat) (f : Fret) : State := { s with fab := { s.fab with frets := tput s.fab.frets pf f } }
def State.modFret (s : State) (pf : Nat) (g : Fret → Fret) : State := s.setFret pf (g (s.fret pf))
def Fret.elem (f : Fret) (e : Nat) : Elem := tgetD f.elems e Elem.empty
def Fret.setElem (f : Fret) (e : Nat) (x : Elem) : Fret := { f with elems := tput f.elems e x }
def State.elem (s : State) (pf e : Nat) : Elem := (s.fret pf).elem e
def State.modElem (s : State) (pf e : Nat) (g : Elem → Elem) : State := s.modFret pf (fun f => f.setElem e (g (f.elem e)))

/-- Key of a placement of a task. -/
def plKey (task pl : Nat) : Nat := 64 * task + pl
def State.placement? (s : State) (task pl : Nat) : Option Placement := tget s.fab.placements (plKey task pl)
def State.setPlacement (s : State) (p : Placement) : State :=
  { s with fab := { s.fab with placements := tput s.fab.placements (plKey p.task p.idx) p } }
/-- The placement changed, where it exists. -/
def State.modPlacement (s : State) (task pl : Nat) (g : Placement → Placement) : State :=
  { s with fab := { s.fab with placements := tmod s.fab.placements (plKey task pl) g } }
/-- The placements of a task, in order of index. -/
def State.placementsOf (s : State) (task : Nat) : List Placement :=
  (s.fab.placements.map Prod.snd).filter (fun p => p.task = task)

def Placement.thread? (p : Placement) (tag : Nat) : Option Thread := tget p.threads tag
def Placement.modThread (p : Placement) (tag : Nat) (g : Thread → Thread) : Placement :=
  { p with threads := tmod p.threads tag g }
/-- Oldest uncommitted wave of a tag's thread; 0 for a tag that no thread holds. -/
def Placement.oldest (p : Placement) (tag : Nat) : Nat := ((p.thread? tag).map Thread.oldest).getD 0

/-- The fret count Nf of a placement. -/
def Placement.nf (p : Placement) : Nat := p.map.length
/-- The physical fret that holds a config-local fret (R87). -/
def Placement.physFret (p : Placement) (f : Nat) : Nat := tgetD p.map f 0
/-- The physical element of a virtual element (R87). -/
def Placement.physElem (p : Placement) (f v : Nat) : Nat := (tgetD p.remap f []).getD v v

/-- h(t) mod Nf: the config-local fret of a thread's home WOB share (R119). -/
def homeFret (tag nf : Nat) : Nat := (tag * 2533 % 16384) % nf
/-- The config-local home fret of a tag in a placement. -/
def Placement.home (p : Placement) (tag : Nat) : Nat := homeFret tag p.nf
/-- The physical home fret of a tag (R119). -/
def Placement.homePf (p : Placement) (tag : Nat) : Nat := p.physFret (p.home tag)
/-- The cluster of a tag's home WOB share. -/
def Placement.homeCluster (p : Placement) (tag : Nat) : Nat := clusterOf (p.homePf tag)

def State.task? (s : State) (t : Nat) : Option Task := tget s.sched.tasks t
def State.setTask (s : State) (t : Task) : State := { s with sched := { s.sched with tasks := tput s.sched.tasks t.num t } }
def State.modTask (s : State) (t : Nat) (g : Task → Task) : State :=
  { s with sched := { s.sched with tasks := tmod s.sched.tasks t g } }
def State.tasks (s : State) : List Task := s.sched.tasks.map Prod.snd

/-- A fresh number for things ordered by arrival (the model's own count, log entry 5). -/
def State.bump (s : State) : State := { s with seqCtr := s.seqCtr + 1 }
/-- The next free value's index (log entry 5). -/
def State.drawFree (s : State) : State := { s with freeCtr := s.freeCtr + 1 }

/-- Task states in which a task has not ended (R70). -/
def TState.live : TState → Bool
  | .ended | .rejected => false
  | _ => true

/-! ### Launch header fields (R72) -/

/-- A little-endian field of a record. -/
def field (r : List Byte) (off len : Nat) : Nat := leNat ((r.drop off).take len)
/-- A header's field. -/
def Task.fld (t : Task) (off len : Nat) : Nat := field t.hdr off len
def Task.hdrFlag (t : Task) (b : Nat) : Bool := (t.fld 31 1).testBit b
/-- `CKPT`, `KILL`, `FPOL`, `DBG`, `TRC` of the header's `FLAGS`. -/
def Task.ckpt (t : Task) : Bool := t.hdrFlag 0
def Task.killable (t : Task) : Bool := t.hdrFlag 1
def Task.fpolHold (t : Task) : Bool := t.hdrFlag 2
def Task.dbg (t : Task) : Bool := t.hdrFlag 3
def Task.trc (t : Task) : Bool := t.hdrFlag 4
def Task.workCnt (t : Task) : Nat := t.fld 16 8
def Task.width (t : Task) (k : Nat) : Nat := t.fld (24 + k) 1
def Task.widths (t : Task) : List Nat := (List.range 6).map t.width
def Task.pool (t : Task) : Nat := t.fld 40 4
/-- Units of the matching partition, scratchpad and tiles of each fret (R143). -/
def Task.munits (t : Task) : Nat := t.pool % 16
def Task.sunits (t : Task) : Nat := t.pool / 16 % 16
def Task.tunits (t : Task) : Nat := t.pool / 256 % 16
def Task.cquota (t : Task) : Nat := t.fld 44 4
/-- The used lease words (R72, R77). -/
def Task.leases (t : Task) : List Nat := (List.range (min 16 (t.fld 38 1))).map (fun k => t.fld (128 + 8 * k) 8)
/-- Key of the task's address space. -/
def Task.space (t : Task) : Nat := 256 * t.fn + t.asid

/-! ### Event counters (R238, R239) -/

/-- One counter advanced by n: modulo 2^48, with `OVF` set on a wrap. -/
def evcAdd (w : Word) (n : Nat) : Word :=
  if n = 0 then w else
  let c := w.toNat % 2 ^ 48 + n
  BitVec.ofNat 64 (c % 2 ^ 48 + 2 ^ 63 * ((w.toNat / 2 ^ 63 = 1) || c ≥ 2 ^ 48 : Bool).toNat)

/-- Whether a selection counts an event of a task (R238). -/
def evselHits (sel : Word) (task code : Nat) : Bool :=
  sel.toNat / 2 ^ 32 = task && sel.toNat / 2 ^ 16 % 2 = 1 && sel.toNat % 256 = code

/-- The counters of a cluster (keys 4 * cluster + n) that select an event advanced. -/
def Fab.countEvent (f : Fab) (cluster task code n : Nat) : Fab :=
  { f with evc := (List.range 4).foldl (fun t k =>
      if evselHits (tgetD f.evsel (4 * cluster + k) 0) task code then
        tput t (4 * cluster + k) (evcAdd (tgetD t (4 * cluster + k) 0) n)
      else t) f.evc }

/-- n events of a code counted for a task in a cluster (R239). -/
def State.countEvent (s : State) (cluster task code n : Nat) : State := { s with fab := s.fab.countEvent cluster task code n }

/-! ### Sticky flags (R218) -/

/-- Flags added to a placement's `S.FLAGS`. -/
def State.setFlags (s : State) (task pl : Nat) (fl : Flags) : State :=
  s.modPlacement task pl (fun p => { p with flags := p.flags.or fl })

/-! ### Trace records (R234, R235) -/

/-- Records of one fret in a cluster's trace FIFO: its share holds 32 (R107). -/
def State.shareFull (s : State) (pf : Nat) : Bool :=
  32 ≤ ((tgetD s.fab.trFifo (clusterOf pf) []).filter (fun r => r.pf = pf)).length

/-- A record placed in its cluster's FIFO. -/
def State.putTrace (s : State) (r : TrRec) : State :=
  { s with fab := { s.fab with
      trFifo := tput s.fab.trFifo (clusterOf r.pf) (tgetD s.fab.trFifo (clusterOf r.pf) [] ++ [r]) } }

/-- A STOP record (R234), for a task with `TRC`; `stop` and `code` are its payload. -/
def State.traceStop (s : State) (task : Nat) (swid tag wave fret velem slot pl pf : Nat) (stop code : Nat) : State :=
  match s.task? task with
  | none => s
  | some t =>
    if t.trc then
      s.putTrace ⟨s.clock.ptpNs, BitVec.ofNat 64 (stop + 256 * code), swid, tag, wave, 4, fret, velem, slot, pl, task, t.fn, pf, []⟩
    else s

/-! ### Sending tokens (R109, R110) -/

/-- The word of a token's key in the form of R109. -/
def keyWord (gen : Bool) (slot velem fret port tag wave : Nat) : Nat :=
  wave + 2 ^ 24 * tag + 2 ^ 38 * port + 2 ^ 40 * fret + 2 ^ 52 * velem + 2 ^ 55 * slot + 2 ^ 60 * gen.toNat

/-- Whether a cluster has taken the map generation that a reconfiguration token brought (R137, step 3; log entry 48). -/
def Placement.mapTaken (p : Placement) (f cluster now : Nat) : Bool :=
  match tget p.regen f with
  | some since => since + 1 + Config.mapDelay f cluster ≤ now
  | none => true

/-- The generation with which a cluster stamps tokens for a fret (R109, R137). -/
def Placement.genAt (p : Placement) (f cluster now : Nat) : Bool := nsHas p.mapGen f == p.mapTaken f cluster now

/-- A token as it leaves its sender's cluster (R109): `FRET` resolved through the fret map, `VELEM` through the remap, `GEN`
from the map entry. It may arrive after `lat`, and takes part in a firing no earlier than cycle n + 1 + L (R117). -/
def Placement.netTok (p : Placement) (d : Dest) (tag wave : Nat) (data : Word) (src now lat : Nat) : NetTok :=
  { task := p.task, pl := p.idx, pf := p.physFret d.fret.toNat, pelem := p.physElem d.fret.toNat d.velem.toNat,
    fret := d.fret.toNat, velem := d.velem.toNat, slot := d.slot.toNat, port := d.port.code, tag := tag, wave := wave,
    gen := p.genAt d.fret.toNat src now, data := data, src := src, earliest := now + 1 + lat, flags := Flags.none }

/-- A token put into the network, with the flags that its delivery sets (R218); one whose route crosses bridge links is counted in its sender's cluster (R239). -/
def State.netSend (s : State) (t : NetTok) : State :=
  let s := { s with fab := { s.fab with net := s.fab.net ++ [t] } }
  if bridgesCrossed t.src (clusterOf t.pf) = 0 then s else s.countEvent t.src t.task 0x15 1

/-- A token sent, outside an output queue, by a WOB, an engine or a tag unit in fret `pf`: dropped for the special sink (R114),
held at its sender while its destination fret is under a move (R89), and otherwise into the network. -/
def State.sendFrom (s : State) (pf task pl tag wave : Nat) (data : Word) (d : Dest) (fl : Flags := Flags.none) : State :=
  if d.port = .sink then s
  else
    match s.placement? task pl with
    | none => s
    | some p =>
      let t := { p.netTok d tag wave data (clusterOf pf) s.clock.cycle (fretLat pf (p.physFret d.fret.toNat)) with flags := fl }
      if nsHas p.moving d.fret.toNat then s.setPlacement { p with heldToks := p.heldToks ++ [t] }
      else s.netSend t

/-- A token sent to each destination word, in order (R254). -/
def State.sendAll (s : State) (pf task pl tag wave : Nat) (data : Word) (ds : List Dest) (fl : Flags := Flags.none) : State :=
  ds.foldl (fun s d => s.sendFrom pf task pl tag wave data d fl) s

/-- A chain operation's result tokens, sent from its home WOB share with its `TAG` and `WAVE` (R129, R330). -/
def State.sendResult (s : State) (op : WobOp) (data : Word) : State :=
  match s.placement? op.task op.pl with
  | none => s
  | some p => s.sendAll (p.homePf op.tag) op.task op.pl op.tag op.wave data op.instr.dests

/-! ### Gangs (R106, R232) -/

/-- A flit's virtual channel and sequence number (R21), where log entry 24 has them in the header. -/
def flitVc (flit : List Byte) : Nat := field flit 8 1
def flitSeq (flit : List Byte) : Nat := field flit 9 3

/-- A flit (R21): 16 bytes of header with destination, source, virtual channel, sequence number and CRC-32, and 240 of payload. -/
def flitOf (dst src vc seq : Nat) (payload : List Byte) : List Byte :=
  let head := leBytes 4 dst ++ leBytes 4 src ++ leBytes 1 vc ++ leBytes 3 seq
  let body := payload ++ List.replicate (240 - payload.length) 0
  head ++ leBytes 4 (Config.crc32 (head ++ body)).toNat ++ body

/-- A message cut into flits on a port's virtual channel, in sequence; n is a bound on their number. -/
def Eng.sendFlits (e : Eng) (port dst src vc : Nat) (msg : List Byte) : Nat → Eng
  | 0 => e
  | n + 1 =>
    if msg.isEmpty then e
    else
      let key := 8 * port + vc
      let seq := tgetD e.txSeq key 0
      Eng.sendFlits { e with
        flitsOut := e.flitsOut ++ [(port, flitOf dst src vc seq (msg.take 240))], txSeq := tput e.txSeq key ((seq + 1) % 2 ^ 24) }
        port dst src vc (msg.drop 240) n

/-- A message given to the Folgar sender: it leaves as flits by a port that carries data, where there is one (R21, log entry 24). -/
def Eng.sendMsg (e : Eng) (b : Board) (id : Nat) (msg : List Byte) : Eng :=
  let e := { e with fabricOut := e.fabricOut ++ [(id, msg)] }
  let ports := (b.ports.filter (fun r => r.2.up && r.2.data)).map Prod.fst
  let path := Config.folgarPath id
  match ports[path.1 % ports.length]? with
  | none => e
  | some port => e.sendFlits port id b.devId.toNat (path.2 % 8) msg (msg.length / 240 + 1)

def State.sendFabric (s : State) (id : Nat) (msg : List Byte) : State := { s with eng := s.eng.sendMsg s.board id msg }

/-- The collectives of a task stand still, and their time with them. -/
def State.holdColls (s : State) (task : Nat) : State :=
  let put := fun (g : Coll) => if g.op.task = task && g.heldFor.isNone then { g with heldFor := some s.clock.ns } else g
  { s with eng := { s.eng with colls := s.eng.colls.map put } }

/-- The collectives of a task go on; the time that they stood still does not count. -/
def State.resumeColls (s : State) (task : Nat) : State :=
  let put := fun (g : Coll) => match g.heldFor with
    | some n => if g.op.task = task then { g with heldFor := none, since := g.since + (s.clock.ns - n) } else g
    | none => g
  { s with eng := { s.eng with colls := s.eng.colls.map put } }

/-- A gang message to every device of the gang (log entry 24): kind, `GID`, instant. -/
def State.gangMsg (s : State) (kind : Nat) (gid : BitVec 32) (at_ : Nat) : State :=
  s.sendFabric 0xFFFFF (leBytes 1 kind ++ leBytes 4 gid.toNat ++ leBytes 8 at_)

/-- The mark of a gang hold that this device sent. -/
def gangOrigin (gid : BitVec 32) : Nat := gid.toNat + 2 ^ 32

/-- R232: a gang task with `GHOLD` has stopped: a gang hold goes out, and slices and collectives stand still. -/
def State.gangStop (s : State) (task : Nat) : State :=
  match (s.task? task).bind Task.gang with
  | none => s
  | some g =>
    if g.ghold then
      let s := (s.gangMsg 4 g.gid (s.clock.ptpNs + 20000)).holdColls task
      { s with obs := { s.obs with gangFrozen := nsAdd (nsAdd s.obs.gangFrozen g.gid.toNat) (gangOrigin g.gid) } }
    else s

/-- R232: this device ends the hold that it sent: a release goes out, naming the instant 20 µs from now, and holds here too. -/
def State.gangFree (s : State) (task : Nat) : State :=
  match (s.task? task).bind Task.gang with
  | none => s
  | some g =>
    if nsHas s.obs.gangFrozen (gangOrigin g.gid) then
      let at_ := s.clock.ptpNs + 20000
      let s := s.gangMsg 5 g.gid at_
      let o := s.obs
      { s with obs := { o with gangFrozen := nsDel o.gangFrozen (gangOrigin g.gid), gangRelease := tput o.gangRelease g.gid.toNat at_ } }
    else s

/-! ### Waves -/

/-- Wave distance (R117): modulo 2^24. -/
def waveDist (wave oldest : Nat) : Nat := (wave + 2 ^ 24 - oldest % 2 ^ 24) % 2 ^ 24
/-- A wave already committed has a distance of 2^23 or more (R117). -/
def waveCommitted (wave oldest : Nat) : Bool := 2 ^ 23 ≤ waveDist wave oldest

/-! ### Taking a fault (R133, R223) -/

/-- A thread's tokens that wait in an element, oldest first, at most 24, in the token form of R109 (R226). -/
def State.waitingToks (s : State) (pf pelem fret velem tag : Nat) : List (Word × Nat) :=
  ((sortBy Entry.seq ((s.elem pf pelem).entries.filter (fun e => e.tag = tag))).take 24).map
    (fun e => (e.data, keyWord e.gen e.slot velem fret e.port e.tag e.wave))

/-- A fault record as it lands: the time and the tokens that wait (R226). -/
def State.stampFault (s : State) (f : FaultRec) : FaultRec :=
  { f with time := s.clock.ptpNs, waiting := s.waitingToks f.pf f.pelem f.fret f.velem f.tag }

/-- R133: whether a pending fault can land. Before commit and not tied: every older wave of the thread has committed. -/
def faultLands (oldest : Nat) (f : FaultRec) : Bool :=
  f.kind = .afterCommit || f.wave = oldest || waveCommitted f.wave oldest

/-- The fault of a thread that lands now: the first found of those that can. -/
def Placement.landing? (p : Placement) (tag : Nat) : Option FaultRec :=
  match p.thread? tag with
  | none => none
  | some t => if t.stopped then none else t.faults.find? (faultLands t.oldest)

/-- The die of a task's placement 0. -/
def State.taskDie (s : State) (task : Nat) : Nat :=
  match s.placement? task 0 with
  | none => 0
  | some p => dieOf (clusterOf (p.physFret 0))

/-- R223: the report leaves the home WOB's cluster for a chain operation's fault, the firing element's otherwise, toward the
Farrier at the gateway of placement 0's die. -/
def State.reportArrival (s : State) (f : FaultRec) (task : Nat) : Nat :=
  let from_ := match f.kind, s.placement? task f.pl with
    | .notTied, _ => clusterOf f.pf
    | _, some p => p.homeCluster f.tag
    | _, none => clusterOf f.pf
  s.clock.cycle + routeLat from_ (gateway (s.taskDie task))

/-- R133: the thread's uncommitted waves from the fault's on are discarded. Every older wave has committed, so these are all the
thread's uncommitted waves; its chain operations of committed waves stand. -/
def Placement.discard (p : Placement) (tag : Nat) : Placement :=
  { p.modThread tag (fun t => { t with stopped := true, faults := [] }) with wob := p.wob.filter (fun o => o.tag ≠ tag) }

/-- Number of a fault code (R220). -/
def FCode.num : FCode → Nat
  | .lease => 1 | .align => 2 | .overread => 3 | .countquota => 4 | .tritcode => 5 | .uecc => 6 | .trap => 7 | .chk => 8
  | .matchovf => 9 | .tilestate => 10 | .engine => 11 | .hostlink => 12 | .collpeer => 13 | .priv => 14

/-- Place of a fault code in the order in which an operation reports it (R222). -/
def FCode.rank : FCode → Nat
  | .priv => 1 | .align => 2 | .lease => 3 | .hostlink => 4 | .countquota => 5 | .overread => 6 | .tilestate => 7 | .engine => 8
  | .tritcode => 9 | .uecc => 10 | .trap | .chk | .matchovf | .collpeer => 11

/-- A fault reported (R133, R223): a STOP record is made, and the report is sent to the Farrier. -/
def State.reportFault (s : State) (task : Nat) (f : FaultRec) : State :=
  let f := s.stampFault f
  let stop := if ((s.task? task).map Task.fpolHold).getD false then 5 else 0
  let s := s.traceStop task f.swid f.tag f.wave f.fret f.velem f.slot f.pl f.pf stop f.code.num
  let at_ := s.reportArrival f task
  s.modTask task (fun t => { t with reports := t.reports ++ [(f, at_)] })

/-- A fault as its element's place now is: its placement may have moved since it was found (R89, R226). -/
def State.seatFault (s : State) (task : Nat) (f : FaultRec) : FaultRec :=
  match s.placement? task f.pl with
  | some p => { f with pf := p.physFret f.fret, pelem := p.physElem f.fret f.velem }
  | none => f

/-- A fault taken (R133): its thread's uncommitted waves are discarded, and it is reported. -/
def State.landFault (s : State) (task pl tag : Nat) (f : FaultRec) : State :=
  let f := s.stampFault (s.seatFault task f)
  (s.modPlacement task pl (fun p => p.discard tag)).reportFault task f

/-- The pending fault of a thread landed, if one can. -/
def State.landIfDue (s : State) (task pl tag : Nat) : State :=
  match s.placement? task pl with
  | none => s
  | some p =>
    match p.landing? tag with
    | none => s
    | some f => s.landFault task pl tag f

/-- A fault found is counted with its task: all but the one recorded make `NFAULT` (R223, R226). -/
def State.countFault (s : State) (task : Nat) : State := s.modTask task (fun t => { t with nfault := min 0x10000 (t.nfault + 1) })

/-- A fault found (R133): it waits with its thread until it can land, and lands at once where it can. A tag whose thread is
gone reports at once: nothing of it is left to discard. -/
def State.findFault (s : State) (f : FaultRec) (task : Nat) : State :=
  let s := s.countFault task
  match s.placement? task f.pl with
  | none => s
  | some p =>
    match p.thread? f.tag with
    | none => s.landFault task f.pl f.tag f
    | some _ =>
      (s.modPlacement task f.pl (fun p => p.modThread f.tag (fun t => { t with faults := t.faults ++ [f] }))).landIfDue
        task f.pl f.tag

/-- The loaded slot's bytes and static wave id (R226). -/
def State.slotInfo (s : State) (pf velem slot : Nat) : List Byte × Nat :=
  (tgetD (s.fret pf).slots (32 * velem + slot) [], tgetD (s.fret pf).swids (32 * velem + slot) 0)

/-- The physical fret and element that hold an operation's slot now: its placement may have moved since it fired (R89, R226). -/
def State.opSeat (s : State) (op : WobOp) : Nat × Nat :=
  match s.placement? op.task op.pl with
  | some p => (p.physFret op.fret, p.physElem op.fret op.velem)
  | none => (op.pf, op.pelem)

/-- A fault of a chain operation (R226). -/
def State.opFault (s : State) (op : WobOp) (kind : FKindAt) (code : FCode) (reason addr : Nat) (own : Nat := 0) : FaultRec :=
  let work := match s.placement? op.task op.pl with
    | none => 0
    | some p => ((p.thread? op.tag).map Thread.work).getD 0
  let (pf, pelem) := s.opSeat op
  { code := code, reason := reason, addr := addr, kind := kind, wave := op.wave, tag := op.tag, pl := op.pl, work := work,
    fret := op.fret, velem := op.velem, slot := op.slot, pf := pf, pelem := pelem, own := own, time := 0, waiting := [],
    slotBytes := (s.slotInfo pf op.velem op.slot).1,
    cfgid := ((s.task? op.task).map Task.cfgid).getD 0, swid := (s.slotInfo pf op.velem op.slot).2 }

/-- A fault of a chain operation found. -/
def State.faultOp (s : State) (op : WobOp) (kind : FKindAt) (code : FCode) (reason addr : Nat) (own : Nat := 0) : State :=
  s.findFault (s.opFault op kind code reason addr own) op.task

/-- A fault of an operation found after its wave committed (R133, second row): it lands on the operation's thread, and is only reported where that
thread has ended since, whoever holds its tag now. -/
def State.faultAfter (s : State) (op : WobOp) (code : FCode) (reason addr : Nat) : State :=
  let same : Bool := match s.placement? op.task op.pl with
    | none => false
    | some p => ((p.thread? op.tag).map (fun t => decide (t.serial = op.serial))).getD false
  if same then s.faultOp op .afterCommit code reason addr
  else (s.countFault op.task).reportFault op.task { s.opFault op .afterCommit code reason addr with work := op.value }

/-- The fault record of a firing (R226): not tied to a chain operation (R133, third row). -/
def State.firingFault (s : State) (c : Focus) (code : FCode) (addr : Nat) : FaultRec :=
  let work := match s.placement? c.task c.pl with
    | none => 0
    | some p => ((p.thread? c.tag).map Thread.work).getD 0
  { code := code, reason := 0, addr := addr, kind := .notTied, wave := c.wave, tag := c.tag, pl := c.pl, work := work,
    fret := c.fret, velem := c.velem, slot := c.slot, pf := c.pf, pelem := c.pelem, own := 0, time := 0, waiting := [],
    slotBytes := (s.slotInfo c.pf c.velem c.slot).1,
    cfgid := ((s.task? c.task).map Task.cfgid).getD 0, swid := (s.slotInfo c.pf c.velem c.slot).2 }

end Sys2Proof.Machine
end

