-- ==== Sys2Proof/Machine/Memory.lean ====
section
/-!
DEFINITION. Machine/Memory.lean: physical addresses and channels (R51, R150), host registers' storage, lines, the caches below a
WOB and their contents (R141, R142, R154, R423), coherent reads and writes of engines, records and the host (R152), access
counters (R175, R176).
-/
namespace Sys2Proof.Machine

/-! ### Host registers (R49, R53) -/

def State.hostFn (s : State) (fn : Nat) : HostFn := tgetD s.host.fns fn HostFn.zero
def State.modFn (s : State) (fn : Nat) (g : HostFn → HostFn) : State :=
  { s with host := { s.host with fns := tput s.host.fns fn (g (s.hostFn fn)) } }
/-- A function register held in BAR0, by offset; 0 until written. -/
def State.reg (s : State) (fn off : Nat) : Word := tgetD (s.hostFn fn).regs off 0
def State.setReg (s : State) (fn off : Nat) (v : Word) : State := s.modFn fn (fun f => { f with regs := tput f.regs off v })
def State.queue (s : State) (fn q : Nat) : Queue := tgetD (s.hostFn fn).queues q Queue.zero
def State.setQueue (s : State) (fn q : Nat) (x : Queue) : State := s.modFn fn (fun f => { f with queues := tput f.queues q x })

/-- Bits [h:l] of a register (R2). -/
def bits (v : Word) (h l : Nat) : Nat := v.toNat / 2 ^ l % 2 ^ (h + 1 - l)

/-- A vector's entry in its function's MSI-X table. -/
def State.msixVec (s : State) (fn vec : Nat) : MsixVec := tgetD (s.hostFn fn).vecs vec MsixVec.zero

/-- A vector raised (R65): a message, or a pending bit where the vector is masked; held while the link is lost (R44). -/
def State.raiseVec (s : State) (fn vec : Nat) : State :=
  if s.board.hostLoss then { s with host := { s.host with held := s.host.held ++ [.msix fn vec] } }
  else if (s.msixVec fn vec).masked then s.modFn fn (fun f => { f with pending := nsAdd f.pending vec })
  else { s with host := { s.host with msix := s.host.msix ++ [(fn, vec)] } }

/-- A bit of `HF_EVT` set; vector 0 is raised where it was 0 (R65). -/
def State.setEvt (s : State) (fn b : Nat) : State :=
  let v := s.reg fn 0x010
  if v.toNat.testBit b then s else (s.setReg fn 0x010 (v ||| BitVec.ofNat 64 (2 ^ b))).raiseVec fn 0

/-! ### Physical addresses (R51, R150) -/

def hbmSize : Nat := 768 * 2 ^ 30
def hostBase : Nat := 0x8_0000_0000_0000
def hostSize : Nat := 2 ^ 44

/-- Device channel of an HBM address (R150). -/
def channelOf (pa : Nat) : Nat :=
  let b := pa / 4096
  (b % 384 + 97 * (b / 384) % 384) % 384
/-- Channel-local address (R150). -/
def channelLocal (pa : Nat) : Nat := 4096 * (pa / 4096 / 384) + pa % 4096
/-- Home L2 slice of an HBM address (R150). -/
def sliceOf (pa : Nat) : Nat := 32 * (channelOf pa / 96) + channelOf pa % 96 % 32
/-- Set within the home slice (R423). -/
def l2SetOf (pa : Nat) : Nat := channelLocal pa / 128 % 1024
/-- The cluster at whose router a slice sits (R423). -/
def sliceCluster (sl : Nat) : Nat := 128 * (sl / 32) + 16 * (2 * (sl % 32 / 8)) + 2 * (sl % 8)

/-- R16, R39, R150: blocks of a channel that is not trained, or that phase 4 did not leave trained, are unbacked. -/
def State.hbmBacked (s : State) (pa : Nat) : Bool :=
  pa < hbmSize && (tgetD s.mem.phy (channelOf pa) Phy.zero).chst = 1 && !nsHas s.mem.withheld (channelOf pa)
/-- A host-tier physical address (R51). -/
def isHost (pa : Nat) : Bool := hostBase ≤ pa && pa < hostBase + hostSize
/-- A backed physical address (R51). -/
def State.backed (s : State) (pa : Nat) : Bool := s.hbmBacked pa || isHost pa

/-- `HF_VFMEM.BASE` and `HF_VFSIZE.SIZE` of a VF, in bytes (R55). -/
def State.vfBase (s : State) (fn : Nat) : Nat := bits (s.reg 0 (0x2000 + 0x20 * (fn - 1))) 51 21 * 2 ^ 21
def State.vfSize (s : State) (fn : Nat) : Nat := min 131072 (bits (s.reg 0 (0x2008 + 0x20 * (fn - 1))) 38 21) * 2 ^ 21
/-- Highest effective priority and most frets of a VF, as its last placement decision took them (R55). -/
def State.vfPcap (s : State) (fn : Nat) : Nat := bits (tgetD s.host.caps fn 0) 18 16
def State.vfFrets (s : State) (fn : Nat) : Nat := bits (tgetD s.host.caps fn 0) 12 0

/-- A placement decision of a function begins: for a VF, `HF_VFCAP` as it stands takes effect (R55). Such decisions are the check of a launch, the
service of its task at the head of FRETWAIT, and a growth (log entry 18). -/
def State.takeCap (s : State) (fn : Nat) : State :=
  if fn = 0 then s else { s with host := { s.host with caps := tput s.host.caps fn (s.reg 0 (0x2010 + 0x20 * (fn - 1))) } }

/-- R51: an address as a function names it, as a device physical address, where it is backed and within the function's range. -/
def State.fnAddr (s : State) (fn a : Nat) : Option Nat :=
  if isHost a then some a
  else if fn = 0 then (if s.hbmBacked a then some a else none)
  else if a < s.vfSize fn && s.hbmBacked (s.vfBase fn + a) then some (s.vfBase fn + a)
  else none

/-! ### Lines -/

def lineRead (l : Line) (off n : Nat) : Nat := l.toNat / 2 ^ (8 * off) % 2 ^ (8 * n)
def lineWrite (l : Line) (off n v : Nat) : Line :=
  BitVec.ofNat 1024 (l.toNat - lineRead l off n * 2 ^ (8 * off) + v % 2 ^ (8 * n) * 2 ^ (8 * off))
def lineBytes (l : Line) : List Byte := leBytes 128 l.toNat
def bytesLine (bs : List Byte) : Line := BitVec.ofNat 1024 (leNat bs)

def Mem.hbmLine (m : Mem) (line : Nat) : Line := bytesLine (memBytes m.hbm (128 * line) 128)
/-- A line written to HBM, with fresh check bytes (R15). -/
def Mem.putHbmLine (m : Mem) (line : Nat) (d : Line) : Mem :=
  { m with hbm := memPutBytes m.hbm (128 * line) (lineBytes d), flaws := tdel m.flaws line }

/-- A line's check bytes looked at as it is read from HBM (R15): an error within one DQ byte lane is corrected and rewritten; one of two byte
lanes leaves the line poisoned. -/
def Mem.checkHbm (m : Mem) (line : Nat) : Mem :=
  match tget m.flaws line with
  | none => m
  | some n =>
    if n ≤ 1 then { m with flaws := tdel m.flaws line, corrected := m.corrected + 1 }
    else { m with flaws := tdel m.flaws line, poison := nsAdd m.poison line }

/-- Some bytes of a line written at its channel (R158): the line's check bytes are looked at first, so that an error stays with it (R15, R157). -/
def Mem.patchHbm (m : Mem) (line off n v : Nat) : Mem :=
  (m.checkHbm line).putHbmLine line (lineWrite (m.hbmLine line) off n v)

/-- A line about to be read: where no cache holds it, HBM is read, and its check bytes are looked at (R15). -/
def Mem.checkRead (m : Mem) (line : Nat) : Mem :=
  if (tget m.l2 line).isNone && (tget m.msc line).isNone then m.checkHbm line else m

/-- Contents below the L2 (R141): the memory-side cache, or HBM. -/
def Mem.below (m : Mem) (line : Nat) : Line :=
  match tget m.msc line with
  | some x => x.data
  | none => m.hbmLine line

/-- The memory-side cache's copy written to HBM where it is dirty, and invalidated (R158). -/
def Mem.mscFlush (m : Mem) (line : Nat) : Mem :=
  match tget m.msc line with
  | none => m
  | some x => { (if x.dirty then m.putHbmLine line x.data else m) with msc := tdel m.msc line }

/-- A line's set in the memory-side cache of its channel: one of 512 (R141). Which bits choose it is the model's (log entry 23). -/
def mscSetOf (pa : Nat) : Nat := channelLocal pa / 128 % 512

/-- The other lines of a line's set in its channel's memory-side cache. -/
def Mem.mscRivals (m : Mem) (line : Nat) : List (Nat × MscLine) :=
  m.msc.filter (fun r => r.1 ≠ line && channelOf (128 * r.1) = channelOf (128 * line) && mscSetOf (128 * r.1) = mscSetOf (128 * line))

/-- A line put in the memory-side cache: 512 KiB a channel, 8 ways of 512 sets (R14, R141). A full set gives up a line, which is open (log
entry 23); modified data goes to HBM. -/
def Mem.putMsc (m : Mem) (line : Nat) (x : MscLine) : Mem :=
  let rivals := if m.msc.length < 8 || (tget m.msc line).isSome then [] else m.mscRivals line
  let m := if rivals.length < 8 then m
    else match rivals[Config.mscVictim line % rivals.length]? with
      | some v => m.mscFlush v.1
      | none => m
  { m with msc := tput m.msc line x }

/-- A dirty line written back to the memory-side cache (R141, R154). -/
def Mem.toMsc (m : Mem) (line : Nat) (d : Line) : Mem := m.putMsc line ⟨d, true⟩

/-- The host's modified copy of a line taken into the L2, or into the memory-side cache where the L2 has none (R19); the host holds the line no
longer. -/
def Mem.endHdm (m : Mem) (line : Nat) : Mem :=
  let m' := { m with hdm := nsDel m.hdm line, hdmMod := tdel m.hdmMod line }
  match tget m.hdmMod line with
  | none => m'
  | some d =>
    if (tget m.l2 line).isSome then { m' with l2 := tmod m'.l2 line (fun x => { x with data := d, dirty := true }) } else m'.toMsc line d

/-- A line that the host holds through CXL.mem taken from it by a back-invalidation, with what the host has written in it (R19, log entry
69). -/
def Mem.backInvalidate (m : Mem) (line : Nat) : Mem :=
  if nsHas m.hdm line || (tget m.hdmMod line).isSome then { m.endHdm line with backInv := m.backInv ++ [line] } else m

/-- A line about to be read at its home: one that the host has modified is taken back first (R19). -/
def Mem.fetchHdm (m : Mem) (line : Nat) : Mem := if (tget m.hdmMod line).isSome then m.backInvalidate line else m

/-! ### L1 copies -/

def Mem.l1Of (m : Mem) (line : Nat) : List L1Line := m.l1.filter (fun x => x.line = line)
def Mem.l1At (m : Mem) (cluster line : Nat) : Option L1Line := m.l1.find? (fun x => x.cluster = cluster && x.line = line)
def Mem.dropL1At (m : Mem) (cluster line : Nat) : Mem :=
  { m with l1 := m.l1.filter (fun x => !(x.cluster = cluster && x.line = line)) }

/-- The value every agent would read of an HBM line (R152): the host's modified copy (R19), a modified L1 copy, the L2 copy, or what lies
below. -/
def Mem.value (m : Mem) (line : Nat) : Line :=
  match tget m.hdmMod line, (m.l1Of line).find? (fun x => x.st = .m) with
  | some d, _ => d
  | none, some x => x.data
  | none, none =>
    match tget m.l2 line with
    | some x => x.data
    | none => m.below line

/-- Every L1 copy invalidated, dirty data taken into the L2 (R152). -/
def Mem.recallAll (m : Mem) (line : Nat) : Mem :=
  let d := m.value line
  let dirty := (m.l1Of line).any (fun x => x.st = .m)
  let m := { m with l1 := m.l1.filter (fun x => x.line ≠ line) }
  { m with l2 := tmod m.l2 line (fun x => { x with data := d, dirty := x.dirty || dirty, dir := .i }) }

/-- The owner's copy reduced to S, its data taken into the L2 (R152, read by the home). -/
def Mem.share (m : Mem) (line : Nat) : Mem :=
  let d := m.value line
  let dirty := (m.l1Of line).any (fun x => x.st = .m)
  let m := { m with l1 := m.l1.map (fun (x : L1Line) => if x.line = line then { x with st := .s, data := d } else x) }
  { m with l2 := tmod m.l2 line (fun x =>
      { x with data := d, dirty := x.dirty || dirty, dir := match x.dir with | .e y => .sp [y] | d => d }) }

/-- Lines of a set of a slice in the L2, other than counted ones and those that a fill has pinned (R162, R360). -/
def Mem.l2Rivals (m : Mem) (line : Nat) : List (Nat × L2Line) :=
  m.l2.filter (fun r => r.2.count = 0 && !m.pins.any (fun q => q.1 = r.1) && r.1 ≠ line && sliceOf (128 * r.1) = sliceOf (128 * line) && l2SetOf (128 * r.1) = l2SetOf (128 * line))

def Mem.l2InSet (m : Mem) (line : Nat) : Nat :=
  (m.l2.filter (fun r => sliceOf (128 * r.1) = sliceOf (128 * line) && l2SetOf (128 * r.1) = l2SetOf (128 * line))).length

/-- The line evicted to make room, if the set's 16 ways are taken (R141, R154): the least recently used that is neither counted nor pinned;
where fills have pinned every other, a pinned one gives way (log entry 23). -/
def Mem.l2Victim (m : Mem) (line : Nat) : Option Nat :=
  if (tget m.l2 line).isSome || m.l2InSet line < 16 then none
  else
    let rivals := m.l2Rivals line
    let rivals := if rivals.isEmpty then ({ m with pins := [] } : Mem).l2Rivals line else rivals
    (minBy (fun (r : Nat × L2Line) => r.2.used) rivals).map Prod.fst

/-- R154: an L2 eviction. -/
def Mem.evictL2 (m : Mem) (line : Nat) : Mem :=
  let m := m.recallAll line
  match tget m.l2 line with
  | none => m
  | some x => { (if x.dirty then m.toMsc line x.data else m) with l2 := tdel m.l2 line }

/-- A line present in the L2, filled from below where absent (R141); `used` is its use stamp. -/
def Mem.ensureL2 (m : Mem) (line used : Nat) : Mem :=
  match tget m.l2 line with
  | some x => { m with l2 := tput m.l2 line { x with used := used } }
  | none =>
    let m := match m.l2Victim line with
      | some v => m.evictL2 v
      | none => m
    let d := m.below line
    let m := if (tget m.msc line).isSome then m else (m.checkHbm line).putMsc line ⟨d, false⟩
    { m with l2 := tput m.l2 line ⟨d, false, .i, 0, 0, 0, 0, used⟩ }

def Mem.counted (m : Mem) (line : Nat) : Bool := ((tget m.l2 line).map (fun x => decide (x.count ≠ 0))).getD false
def Mem.isSpent (m : Mem) (line : Nat) : Bool := (tget m.spent line).isSome

/-- Nothing is in flight for a line: no transaction, no reply or acknowledgement that installs it, and no coherence message
(R152: the home serves a line's requests one at a time). -/
def Mem.settled (m : Mem) (line : Nat) : Bool :=
  !m.txns.any (fun t => t.line = line)
    && !m.replies.any (fun r => match r.install with | some (l, _, _) => l = line | none => false)
    && !m.acks.any (fun a => a.line = line && a.install.isSome)
    && !m.msgs.any (fun x => match x with
      | .inval _ l _ | .forward _ l _ | .recall _ l _ | .ack _ l _ _ | .evict l _ | .writeBack l _ _ => l = line)

/-- The line that would be evicted to let a line in is settled. -/
def Mem.victimSettled (m : Mem) (line : Nat) : Bool := (m.l2Victim line).all m.settled

/-- Nothing is in flight for a line, and no request for it waits at its home. -/
def Mem.quiet (m : Mem) (line : Nat) : Bool :=
  m.settled line && m.victimSettled line && !m.reqs.any (fun r => r.line = line)

/-! ### Waits on lines (R348) -/

/-- The 64-bit word a `waitl` watches. -/
def waitWord (op : WobOp) (d : Line) : Nat := lineRead d (op.pa % 128) 8

/-- Registered waits on a line re-checked against its value: those satisfied get their reply (R348). -/
def Mem.recheck (m : Mem) (line : Nat) (d : Line) : Mem :=
  let hit := fun (w : Wait) => w.place = line && !w.polled && w.op.right.toNat ≤ waitWord w.op d
  { m with
    replies := m.replies ++ (m.waits.filter hit).map (fun w => ⟨w.op, waitWord w.op d, none, none, w.op.gen⟩)
    waits := m.waits.filter (fun w => !hit w) }

/-- Registered waits on a line that has become spent fault OVERREAD (R348). -/
def Mem.waitsOverread (m : Mem) (line : Nat) : Mem :=
  let hit := fun (w : Wait) => w.place = line && !w.polled
  { m with
    replies := m.replies ++ (m.waits.filter hit).map (fun w => ⟨w.op, 0, none, some (.overread, w.op.ea), w.op.gen⟩)
    waits := m.waits.filter (fun w => !hit w) }

/-! ### Migration (R173) -/

/-- Bytes of a page (R172, `SIZE`). -/
def pageBytes (size : Nat) : Nat := if size = 0 then 2 ^ 12 else if size = 1 then 2 ^ 16 else if size = 2 then 2 ^ 21 else 2 ^ 30
/-- Bytes moved as one piece (R173). -/
def pieceBytes (size : Nat) : Nat := min (2 ^ 16) (pageBytes size)

/-- The migration whose registered pieces hold a physical address: pieces up to the one under way stay registered until the
switch-over ends (R173). -/
def Mem.migAt (m : Mem) (pa : Nat) : Option Mig :=
  m.migs.find? (fun g => g.src ≤ pa && pa < g.src + min (pageBytes g.size) (pieceBytes g.size * (g.done + 1)))

/-- Where a write is mirrored: the new address of a registered byte whose line has been copied (R173). -/
def Mem.mirror (m : Mem) (pa : Nat) : Option Nat :=
  match m.migAt pa with
  | none => none
  | some g => if pa / 128 * 128 < g.src + g.copied then some (g.dst + (pa - g.src)) else none

/-! ### Writes performed at a home -/

/-- Bytes written at a line's home slice (R152): every L1 copy invalidated with dirty data taken, the bytes merged into the L2
copy, and the line's waits re-checked (R348). -/
def Mem.homeWrite (m : Mem) (line off n v used : Nat) : Mem :=
  let m := ((m.backInvalidate line).ensureL2 line used).recallAll line
  let d := lineWrite (((tget m.l2 line).map L2Line.data).getD 0) off n v
  ({ m with l2 := tmod m.l2 line (fun x => { x with data := d, dirty := true }) }).recheck line d

/-- A line's value taken by the home for a read (R152): an owner keeps S, and a host that has modified the line gives it up (R19). -/
def Mem.homeRead (m : Mem) (line used : Nat) : Mem := ((m.fetchHdm line).ensureL2 line used).share line

/-! ### The host side of the host tier -/

/-- Host address of a host-tier physical address (R51). -/
def State.hostAddr (s : State) (pa : Nat) : Nat := bits (s.reg 0 0x108) 63 30 * 2 ^ 30 + (pa - hostBase)

/-- The value of a host-tier line: the host-line cache's copy, or host memory (R155, R66). -/
def State.hostLine (s : State) (line : Nat) : Line :=
  match tget s.mem.hlc line with
  | some x => x.data
  | none => bytesLine (memBytes s.mem.hostMem (s.hostAddr (128 * line)) 128)

/-- Tasks that the host-line cache serves: the PF's, in CXL mode (R66, R155). -/
def State.usesHlc (s : State) (fn : Nat) : Bool := s.board.cxl && fn = 0

/-- R155: a line evicted from the host-line cache: cluster copies are invalidated, and modified data is written back to the host. -/
def State.hlcEvict (s : State) (line : Nat) : State :=
  match tget s.mem.hlc line with
  | none => s
  | some x =>
    let m := { s.mem with l1 := s.mem.l1.filter (fun y => y.line ≠ line), hlc := tdel s.mem.hlc line }
    if x.st = .m || x.st = .o then
      { s with mem := { m with hostMem := memPutBytes m.hostMem (s.hostAddr (128 * line)) (lineBytes x.data) } }
    else { s with mem := m }

/-- Lines of the host-line cache that share a set with a line. The cache is 64 MiB of 16 ways, 32,768 sets (R155); which of them a line takes is
open (log entry 16). -/
def State.hlcSet (s : State) (line : Nat) : List (Nat × HlcLine) :=
  s.mem.hlc.filter (fun r => r.1 ≠ line && Config.hlcSet r.1 % 32768 = Config.hlcSet line % 32768)

/-- A line put in the host-line cache; a full set gives up one of its lines, which is open (log entry 16). -/
def State.hlcInsert (s : State) (line : Nat) (x : HlcLine) : State :=
  let set := if s.mem.hlc.length < 16 || (tget s.mem.hlc line).isSome then [] else s.hlcSet line
  let s := if set.length < 16 then s
    else match set[(Config.freeWord s.freeCtr).toNat % set.length]? with
      | some v => (s.hlcEvict v.1).drawFree
      | none => s
  { s with mem := { s.mem with hlc := tput s.mem.hlc line x } }

/-- A write at the host-line cache (R155): cluster copies are invalidated, ownership is had, and the line is M. -/
def State.hlcPut (s : State) (line : Nat) (d : Line) : State :=
  let s := { s with mem := { s.mem with l1 := s.mem.l1.filter (fun x => x.line ≠ line) } }
  let s := s.hlcInsert line ⟨.m, d, .i⟩
  { s with mem := s.mem.recheck line d }

/-- A store that has not reached every cluster writes a byte of a range. -/
def Post.meets (x : Post) (pa n : Nat) : Bool := x.pa < pa + n && pa < x.pa + x.bytes.length

/-- The posted stores that every cluster sees once it sees some of them: each of these, and before it in its order at the host every one of its wave
(R66) and every one that writes a byte in common (R179). -/
def postsUpTo (hit : Post → Bool) (posts : List Post) : List Nat :=
  (posts.foldr (fun x acc =>
    let leads := fun (y : Post) => (y.task = x.task && y.serial = x.serial && y.wave = x.wave) || y.meets x.pa x.bytes.length
    if hit x || acc.any leads then x :: acc else acc) []).map Post.seq

/-- Posted stores that every cluster now sees (R180), with those that must then be seen. -/
def Mem.settlePosts (m : Mem) (hit : Post → Bool) : Mem :=
  if m.posts.isEmpty then m
  else
    let seen := postsUpTo hit m.posts
    { m with posts := m.posts.filter (fun x => !seen.any (fun n => n = x.seq)) }

/-- A host-tier range that is read or written at the host itself: what had been posted to it is then seen by all (R179). -/
def State.settleRange (s : State) (pa n : Nat) : State := { s with mem := s.mem.settlePosts (fun x => x.meets pa n) }

/-- Every cluster now sees every posted store: a task's threads go on in other clusters, where they see no less than before (R194). -/
def State.settleAll (s : State) : State := { s with mem := { s.mem with posts := [] } }

/-- A host-tier line is wanted on the uncached path: the host takes from the host-line cache what it holds modified, and the cache keeps the line
shared (R155, R66). -/
def State.hlcShare (s : State) (line : Nat) : State :=
  match tget s.mem.hlc line with
  | none => s
  | some x =>
    if x.st = .m || x.st = .o then
      { s with mem := { s.mem with
          hlc := tput s.mem.hlc line { x with st := .s }, hostMem := memPutBytes s.mem.hostMem (s.hostAddr (128 * line)) (lineBytes x.data) } }
    else s

/-- A host-tier line is written on the uncached path: the host takes it from the host-line cache first, with every cluster's copy, and a copy on its
way is not kept (R155, R66). -/
def State.hlcYield (s : State) (line : Nat) : State :=
  if (tget s.mem.hlc line).isNone then s
  else
    let s := s.hlcEvict line
    let once := fun (r : Reply) => match r.install with
      | some (l, _, _) => if l = line then { r with install := none } else r
      | none => r
    { s with mem := { s.mem with replies := s.mem.replies.map once } }

/-- Bytes written to host memory on the uncached path (R66), seen by all at once; stores that they cover are then seen by none, and waits at the
host-line cache look at the line again (R348). -/
def State.hostWrite (s : State) (pa : Nat) (bs : List Byte) : State :=
  let s := (s.hlcYield (pa / 128)).settleRange pa bs.length
  let s := { s with mem := { s.mem with hostMem := memPutBytes s.mem.hostMem (s.hostAddr pa) bs } }
  { s with mem := s.mem.recheck (pa / 128) (s.hostLine (pa / 128)) }

/-- A store posted on the uncached path (R66): host memory takes it, and each cluster sees it from a moment of its own (R180). -/
def State.hostPost (s : State) (op : WobOp) (bs : List Byte) : State :=
  let s := s.hlcYield (op.pa / 128)
  let a := s.hostAddr op.pa
  let x : Post := ⟨op.seq, op.task, op.serial, op.wave, op.pa, bs, memBytes s.mem.hostMem a bs.length, s.clock.cycle⟩
  { s with mem := { s.mem with hostMem := memPutBytes s.mem.hostMem a bs, posts := s.mem.posts ++ [x] } }

/-- Whether a cluster sees a posted store: its moment has come, and that of every store before it of its thread's wave (R66, R180). -/
def State.postSeen (s : State) (cluster : Nat) (x : Post) : Bool :=
  (s.mem.posts.takeWhile (fun y => y.seq ≠ x.seq) ++ [x]).all (fun y =>
    !(y.task = x.task && y.serial = x.serial && y.wave = x.wave) || y.since + Config.postDelay y.seq cluster ≤ s.clock.cycle)

/-- A byte of host memory as a cluster sees it (R180, R179): the last store of those posted to it that the cluster sees; where it sees none, what the
first was written over. -/
def State.hostByteSeen (s : State) (cluster pa : Nat) : Byte :=
  let on := s.mem.posts.filter (fun x => x.meets pa 1)
  match (on.filter (s.postSeen cluster)).getLast?, on.head? with
  | some x, _ => x.bytes.getD (pa - x.pa) 0
  | none, some x => x.old.getD (pa - x.pa) 0
  | none, none => memByte s.mem.hostMem (s.hostAddr pa)

/-- n bytes of host memory as a cluster sees them. -/
def State.hostSeen (s : State) (cluster pa n : Nat) : Nat :=
  if s.mem.posts.isEmpty then leNat (memBytes s.mem.hostMem (s.hostAddr pa) n)
  else leNat ((List.range n).map (fun k => s.hostByteSeen cluster (pa + k)))

/-! ### Coherent accesses of whole agents: engines, the dispatcher, BAR2 -/

/-- A line that a near-memory command works on (R158). -/
def State.busy (s : State) (line : Nat) : Bool := nsHas s.eng.busyLines line

/-- A line's data that is on its way home from the cluster that had modified it (R152, R153). -/
def Mem.inFlight (m : Mem) (line : Nat) : Option Line :=
  m.msgs.findSome? (fun x => match x with
    | .writeBack l _ d | .ack _ l _ (some d) => if l = line then some d else none
    | _ => none)

/-- The value of a line as a coherent read sees it, data on its way home among it; a busy line is read at its channel (R158). -/
def State.lineValue (s : State) (line : Nat) : Line :=
  if isHost (128 * line) then s.hostLine line
  else if s.busy line then s.mem.hbmLine line
  else (s.mem.inFlight line).getD (s.mem.value line)

/-- Whether a line's error is read from HBM and cannot be corrected (R15). -/
def Mem.flawed (m : Mem) (line : Nat) : Bool :=
  1 < tgetD m.flaws line 0 && (tget m.l2 line).isNone && (tget m.msc line).isNone

/-- A line that a read finds poisoned: marked so, or with an error that cannot be corrected (R15, R157). -/
def State.poisoned (s : State) (line : Nat) : Bool := nsHas s.mem.poison line || s.mem.flawed line

/-- HBM lines about to be read, each looked at where it comes out of HBM (R15). -/
def State.readLines (s : State) (ls : List Nat) : State := { s with mem := ls.foldl Mem.checkRead s.mem }

/-- n bytes from a physical address, line by line, as coherent reads see them. -/
def State.readBytes (s : State) (pa : Nat) : Nat → List Byte
  | 0 => []
  | n + 1 => BitVec.ofNat 8 (lineRead (s.lineValue (pa / 128)) (pa % 128) 1) :: s.readBytes (pa + 1) n

/-- One little-endian number of n bytes within a line. -/
def State.readNat (s : State) (pa n : Nat) : Nat := lineRead (s.lineValue (pa / 128)) (pa % 128) n

/-- One piece written coherently within a line, without mirroring. -/
def State.writeAt (s : State) (fn pa n v : Nat) : State :=
  if isHost pa then
    if s.usesHlc fn then (s.hlcPut (pa / 128) (lineWrite (s.hostLine (pa / 128)) (pa % 128) n v)).bump
    else s.hostWrite pa (leBytes n v)
  else if s.busy (pa / 128) then
    let m := s.mem.patchHbm (pa / 128) (pa % 128) n v
    { s with mem := m.recheck (pa / 128) (m.hbmLine (pa / 128)) }
  else { s.bump with mem := s.mem.homeWrite (pa / 128) (pa % 128) n v s.seqCtr }

/-- One piece written coherently: on a registered line whose copy is made, on the new line too (R173). -/
def State.writePiece (s : State) (fn pa n v : Nat) : State :=
  let s' := s.writeAt fn pa n v
  match s.mem.mirror pa with
  | none => s'
  | some pa' => s'.writeAt fn pa' n v

/-- Bytes written coherently from a physical address upward, line by line, over at most n lines. -/
def State.writeLines (s : State) (fn pa : Nat) (bs : List Byte) : Nat → State
  | 0 => s
  | n + 1 =>
    let k := min (128 - pa % 128) bs.length
    if k = 0 then s
    else (s.writePiece fn pa k (leNat (bs.take k))).writeLines fn (pa + k) (bs.drop k) n

/-- Bytes written coherently from a physical address upward. -/
def State.writeBytes (s : State) (fn pa : Nat) (bs : List Byte) : State := s.writeLines fn pa bs (bs.length / 128 + 2)

/-- Lines that n bytes from pa touch. -/
def linesOf (pa n : Nat) : List Nat := if n = 0 then [] else (List.range ((pa + n - 1) / 128 - pa / 128 + 1)).map (· + pa / 128)

/-- Nothing is under way for any line of a range. -/
def State.rangeQuiet (s : State) (pa n : Nat) : Bool := (linesOf pa n).all (fun l => s.mem.quiet l)

/-! ### Access counters (R175, R176) -/

/-- Key of a counter: function and 64 KiB region of the host tier. -/
def acKey (fn pa : Nat) : Nat := fn * 2 ^ 28 + (pa - hostBase) / 2 ^ 16

/-- Whether a migration record of the ring covers part of a region: one under way, or one not yet consumed (R176). -/
def State.migCovers (s : State) (region : Nat) : Bool :=
  let lo := hostBase + region * 2 ^ 16
  let covers := fun (a size : Nat) => a < lo + 2 ^ 16 && lo < a + pageBytes size
  s.mem.migs.any (fun g => covers g.src g.size || covers g.dst g.size) ||
    (List.range (min 4096 ((s.reg 0 0x228).toNat - (s.reg 0 0x230).toNat))).any (fun k =>
      let q := s.reg 0 0x220
      let r := (s.reg 0 0x230).toNat + k
      let a := bits q 51 12 * 4096 + 64 * (r % 2 ^ (bits q 3 0 + 4))
      covers (s.readNat a 8) (s.readNat (a + 32) 1) || covers (s.readNat (a + 8) 8) (s.readNat (a + 32) 1))

def State.acIsQueued (s : State) (key : Nat) : Bool := s.mem.acQueued.any (fun q => q.1 = key) || s.migCovers (key % 2 ^ 28)

/-- R176: a region that has reached the threshold is posted, left alone, or dropped. -/
def State.acPost (s : State) (key kind : Nat) : State :=
  let q := s.reg 0 0x240
  let prod := (s.reg 0 0x250).toNat
  if s.acIsQueued key || q.toNat % 2 = 0 then s
  else if prod - (s.reg 0 0x258).toNat < 4096 then
    let e := leBytes 8 (key % 2 ^ 28 * 2 ^ 16) ++ leBytes 1 (key / 2 ^ 28) ++ leBytes 1 kind ++ leBytes 6 0
    let s := s.writeBytes 0 (bits q 51 16 * 2 ^ 16 + 16 * (prod % 4096)) e
    let s := s.setReg 0 0x250 (BitVec.ofNat 64 (prod + 1))
    { s with mem := { s.mem with acQueued := s.mem.acQueued ++ [(key, prod)] } }
  else s.setReg 0 0x260 (BitVec.ofNat 64 (min (2 ^ 32 - 1) ((s.reg 0 0x260).toNat + 1)))

def State.setCount (s : State) (key v : Nat) : State := { s with mem := { s.mem with acCount := tput s.mem.acCount key v } }

/-- R176: a region's counter has reached the threshold: it is posted and goes on, or, where it cannot be, holds at the threshold. -/
def State.acReach (s : State) (key kind : Nat) : State :=
  let s' := s.acPost key kind
  if s'.acIsQueued key then s' else s'.setCount key (bits (s.reg 0 0x248) 15 0)

/-- R175, R176: one host-tier line access that the host-line cache does not serve. A counter that is not queued and cannot be
posted holds at the threshold; a queued one saturates at 0xFFFF. -/
def State.acCountAccess (s : State) (fn pa : Nat) : State :=
  let thr := bits (s.reg 0 0x248) 15 0
  if thr = 0 then s
  else
    let key := acKey fn pa
    let c := min 0xFFFF (tgetD s.mem.acCount key 0 + 1)
    if s.acIsQueued key || c < thr then s.setCount key c else (s.setCount key c).acReach key 0

/-- R176: the counter of a region that has stopped being queued returns to 0. -/
def State.settleCounters (s before : State) : State :=
  let gone := fun (k : Nat) => before.acIsQueued k && !s.acIsQueued k
  { s with mem := { s.mem with acCount := s.mem.acCount.filter (fun r => !gone r.1) } }

/-! ### Migrations abandoned (R172, R174) -/

/-- A page's contents become open values (R174); n lines are left. -/
def State.openPage (s : State) (pa : Nat) : Nat → State
  | 0 => s
  | n + 1 =>
    let bs := (List.range 128).map (fun k => Config.freeByte (2 ^ 30 * s.freeCtr + 128 * n + k))
    (s.writeBytes 0 (pa + 128 * n) bs).openPage pa n

/-- A status word written, where its address is backed (R172). -/
def State.migStatus (s : State) (g : Mig) (code : Nat) : State := if s.hbmBacked g.stat then s.writeBytes 0 g.stat (leBytes 8 code) else s

/-- The host-tier lines of a page, marked as they read from then on: poisoned (R174). -/
def Mem.poisonHost (m : Mem) (pa n : Nat) : Mem :=
  if isHost pa then { m with hostPoison := (linesOf pa n).foldl nsAdd m.hostPoison } else m

/-- A migration ended ABANDONED: the old page is valid. Where a function-level reset ended it, the new page's contents are undefined; where a
link loss did, host-tier lines of either page are poisoned (R174). -/
def State.abandonMig (reset : Bool) (s : State) (g : Mig) : State :=
  let n := pageBytes g.size
  let s := { s with mem := { s.mem with migs := s.mem.migs.filter (fun x => x ≠ g) } }
  let s := if reset then (s.openPage g.dst (n / 128)).drawFree else { s with mem := (s.mem.poisonHost g.src n).poisonHost g.dst n }
  s.migStatus g 2

/-- The migrations that satisfy a test abandoned. -/
def State.abandonMigs (s : State) (reset : Bool) (test : Mig → Bool) : State :=
  ((s.mem.migs.filter test).foldl (State.abandonMig reset) s).settleCounters s

end Sys2Proof.Machine
end

