-- ==== Sys2Proof/Machine/Phy.lean ====
section
/-!
DEFINITION. Machine/Phy.lean: the HBM PHY training windows (R38, R39) in privileged I/O space (R334).
-/
namespace Sys2Proof.Machine

/-! ### Registers of a window -/

def phyBase : Nat := 0xF_C000_0000
/-- An I/O address in a training window (R334). -/
def inPhy (a : Nat) : Bool := phyBase ≤ a && a < phyBase + 384 * 0x1000
def phyCh (a : Nat) : Nat := (a - phyBase) / 0x1000
def phyOff (a : Nat) : Nat := (a - phyBase) % 0x1000

def State.phy (s : State) (ch : Nat) : Phy := tgetD s.mem.phy ch Phy.zero
def State.setPhy (s : State) (ch : Nat) (p : Phy) : State := { s with mem := { s.mem with phy := tput s.mem.phy ch p } }

/-- `HPHY_CTL` as read: `GO` reads as 0. -/
def Phy.ctl (p : Phy) : Word :=
  BitVec.ofNat 64 (p.chst * 2 ^ 18 + p.spass.toNat * 2 ^ 16 + p.busy.toNat * 2 ^ 9 + p.dir.toNat * 2 ^ 7 + p.delay.toNat)

/-- `HPHY_PAT` as read. -/
def Phy.pat (p : Phy) : Word :=
  BitVec.ofNat 64 (p.errcnt.toNat * 2 ^ 48 + p.done.toNat * 2 ^ 41 + p.rounds.toNat * 2 ^ 32 + p.seed.toNat)

/-- A register of a window; an offset that the table does not list reads as zero (R38). -/
def Phy.read (p : Phy) (off : Nat) : Word :=
  if off = 0x000 then p.ctl
  else if off = 0x008 then p.pres
  else if off = 0x010 then p.rdly
  else if off = 0x018 then p.wdly
  else if off = 0x020 then p.repair
  else if off = 0x028 then p.pat
  else if off = 0x030 then p.perr
  else 0

/-- A probe or a pattern test runs. -/
def Phy.running (p : Phy) : Bool := p.busy || p.testing

/-- The channel state after a write of `CHST` (R38, R39): 3 is ignored, and 1 takes effect only after a clean test. -/
def Phy.newChst (p : Phy) (c : Nat) : Nat :=
  if c = 3 then p.chst else if c = 1 then (if p.clean then 1 else 0) else c

/-- A write of `HPHY_CTL` (R39). -/
def Phy.writeCtl (p : Phy) (now : Nat) (v : Word) : Phy :=
  if v.getLsbD 8 && p.running then p
  else { p with
    chst := p.newChst (bits v 19 18), dir := v.getLsbD 7, delay := v.extractLsb' 0 7,
    busy := p.busy || v.getLsbD 8, since := if v.getLsbD 8 then now else p.since }

/-- A write of `HPHY_PAT` (R39): `ROUNDS` 0 runs nothing and sets `DONE`. -/
def Phy.writePat (p : Phy) (v : Word) : Phy :=
  if v.getLsbD 40 && p.running then p
  else
    let p := { p with rounds := v.extractLsb' 32 8, seed := v.extractLsb' 0 32 }
    if v.getLsbD 40 then { p with done := p.rounds = 0, testing := p.rounds ≠ 0, clean := false } else p

/-- A write of a window's register (R38, R39): every field is read-only once `CHST` is 1 or 2; delay and repair registers are
not written while a probe or a test runs. `HPHY_PRES` and `HPHY_PERR` hold results, and writes do not change them (log entry 14). -/
def Phy.write (p : Phy) (now off : Nat) (v : Word) : Phy :=
  if p.chst ≠ 0 then p
  else if off = 0x000 then p.writeCtl now v
  else if off = 0x028 then p.writePat v
  else if p.running then p
  else if off = 0x010 then { p with rdly := v &&& 0x7F7F7F7F7F7F7F7F, clean := false }
  else if off = 0x018 then { p with wdly := v &&& 0x7F7F7F7F7F7F7F7F, clean := false }
  else if off = 0x020 then { p with repair := v &&& 0x5F5F, clean := false }
  else p

/-- What `ld.io` reads (R334). -/
def State.ioRead (s : State) (a : Nat) : Word := if inPhy a then (s.phy (phyCh a)).read (phyOff a) else 0

/-- What `st.io` writes (R334). -/
def State.ioWrite (s : State) (a : Nat) (v : Word) : State :=
  if inPhy a then s.setPhy (phyCh a) ((s.phy (phyCh a)).write s.clock.cycle (phyOff a) v) else s

end Sys2Proof.Machine
end

