-- ==== Sys2Proof/Machine/Approx.lean ====
section
/-!
DEFINITION. Machine/Approx.lean: the approximated functions (R316, R317). The mathematical value is enclosed in an interval far
narrower than the bound of R317, in fixed point; the result is a choice left open (Config.approx) among the codes within that bound.
-/
namespace Sys2Proof.Machine

/-! ### Fixed point: numbers in units of 2^-256 -/

/-- 1 in fixed point. -/
def fxOne : Nat := 2 ^ 256

/-- ln 2. -/
def fxLn2 : Nat := 0xb17217f7d1cf79abc9e3b39803f2f6af40f343267298b62d8a0d175b8baafa2b

/-- log2 e. -/
def fxLog2e : Nat := 0x171547652b82fe1777d0ffda0d23a7d11d6aef551bad2b4b1164a2cd9a342648f

/-- pi / 2. -/
def fxHalfPi : Nat := 0x1921fb54442d18469898cc51701b839a252049c1114cf98e804177d4c76273644

/-- 2 / pi, in units of 2^-1400: enough to reduce any finite binary64 value by whole quadrants (R317). -/
def fxTwoOverPi : Nat :=
  0xa2f9836e4e441529fc2757d1f534ddc0db6295993c439041fe5163abdebbc561b7246e * 2 ^ 1120 +
  0x3a424dd2e006492eea09d1921cfe1deb1cb129a73ee88235f52ebb4484e99c7026b45f7e413991d6 * 2 ^ 800 +
  0x39835339f49c845f8bbdf9283b1ff897ffde05980fef2f118b5a0a6d1f6d367ecf27cb09b74f463f * 2 ^ 480 +
  0x669e5fea2d7527bac7ebe5f17b3d0739f78a5292ea6bfb5fb11f8d5d0856033046fc7b6babf0cfbc * 2 ^ 160 +
  0x209af4361da9e391615ee61b086599855f14a068

/-- The exponential series from term n down, by Horner's rule. -/
def fxExpFrom (x : Nat) : Nat → Nat → Nat
  | 0, acc => acc
  | n + 1, acc => fxExpFrom x n (fxOne + x * acc / ((n + 1) * fxOne))

/-- 2^f for f in [0, 1]. -/
def fxPow2 (f : Nat) : Nat := fxExpFrom (f * fxLn2 / fxOne) 60 fxOne

/-- The bits of log2 z for z in [1, 2), by repeated squaring. -/
def fxLog2From : Nat → Nat → Nat → Nat
  | 0, _, acc => acc
  | n + 1, z, acc =>
    let z2 := z * z / fxOne
    if z2 ≥ 2 * fxOne then fxLog2From n (z2 / 2) (2 * acc + 1) else fxLog2From n z2 (2 * acc)

/-- The sine series over theta, from term n down; z is theta squared. -/
def fxSinFrom (z : Nat) : Nat → Nat → Nat
  | 0, acc => acc
  | n + 1, acc => fxSinFrom z n (fxOne - z * acc / ((2 * n + 2) * (2 * n + 3) * fxOne))

/-- The cosine series, from term n down; z is theta squared. -/
def fxCosFrom (z : Nat) : Nat → Nat → Nat
  | 0, acc => acc
  | n + 1, acc => fxCosFrom z n (fxOne - z * acc / ((2 * n + 1) * (2 * n + 2) * fxOne))

/-- sin theta for theta in [0, pi/2]. -/
def fxSin (th : Nat) : Nat := th * fxSinFrom (th * th / fxOne) 40 fxOne / fxOne

/-- cos theta for theta in [0, pi/2]. -/
def fxCos (th : Nat) : Nat := fxCosFrom (th * th / fxOne) 40 fxOne

/-- m * 2^e in fixed point, rounded down. -/
def fxOf (m : Nat) (e : Int) : Nat :=
  if e + 256 ≥ 0 then m * 2 ^ (e + 256).toNat else m / 2 ^ min (-(e + 256)).toNat (Nat.log2 m + 1)

/-- e^-x for x in fixed point below 2^13, as (g, k): g * 2^-(256 + k). -/
def fxExpNeg (x : Nat) : Nat × Nat :=
  let t := x * fxLog2e / fxOne
  (fxPow2 (fxOne - t % fxOne), t / fxOne + 1)

/-! ### Enclosures and the codes near them -/

/-- A magnitude known to lie in [lo, hi] * 2^e. -/
structure Encl where
  lo : Nat
  hi : Nat
  e : Int
  deriving DecidableEq, Repr

/-- v * 2^e, known to within r units, and at most `cap` units. -/
def Encl.about (v r cap : Nat) (e : Int) : Encl := ⟨v - r, min cap (v + r), e⟩

/-- A magnitude just below m * 2^e, by less than one part in 2^100. -/
def Encl.below (m : Nat) (e : Int) : Encl := ⟨m * 2 ^ 128 - m * 2 ^ 28, m * 2 ^ 128, e - 128⟩

/-- Whether a value is so small that the functions equal it to one part in 2^100. -/
def tinyVal (m : Nat) (e : Int) : Bool := e + Nat.log2 m < -60

/-- Exponent of the last place of m * 2^e in a format (R317: the spacing at the value, or the subnormal spacing). -/
def Fmt.ulpExp (f : Fmt) (m : Nat) (e : Int) : Int :=
  if m = 0 then f.emin - f.fbits else max (e + Nat.log2 m) f.emin - f.fbits

/-- The magnitude code of m * 2^e rounded down, the exponent range unbounded above. -/
def Fmt.magFloor (f : Fmt) (m : Nat) (e : Int) : Nat :=
  let q := f.ulpExp m e
  (q - (f.emin - f.fbits)).toNat * 2 ^ f.fbits +
    (if q ≤ e then m * 2 ^ (e - q).toNat else m / 2 ^ min (q - e).toNat (Nat.log2 m + 1))

/-- The magnitude code of m * 2^e rounded up. -/
def Fmt.magCeil (f : Fmt) (m : Nat) (e : Int) : Nat :=
  let q := f.ulpExp m e
  f.magFloor m e + (if q ≤ e || m % 2 ^ min (q - e).toNat (Nat.log2 m + 1) = 0 then 0 else 1)

/-- The magnitude codes within R317's bound of an enclosed value, lowest and highest: k units in the last place, or 2^a where
that is larger. They lie within it of every point of the enclosure. A code of 0 is among them only for a value below the subnormal range. -/
def Fmt.codesNear (f : Fmt) (k : Nat) (a : Option Int) (y : Encl) : Nat × Nat :=
  let q := f.ulpExp y.hi y.e
  let a := a.getD q
  let e := min y.e (min q a)
  let sh := (y.e - e).toNat
  let b := max (k * 2 ^ (q - e).toNat) (2 ^ (a - e).toNat)
  let lo := f.magCeil (y.hi * 2 ^ sh - b) e
  (if f.magFloor y.lo y.e = 0 then lo else max 1 lo, f.magFloor (y.lo * 2 ^ sh + b) e)

/-- A result chosen among the codes near an enclosed value, of magnitude code at most `cap` (R317). -/
def Fmt.near (f : Fmt) (rm : Rm) (sat neg : Bool) (c k : Nat) (a : Option Int) (cap : Nat) (y : Encl) : Nat × Flags :=
  let (lo, hi) := f.codesNear k a y
  f.approxOut rm sat neg (choose c (min lo cap) (min hi cap))

/-! ### The functions -/

/-- Floor of a finite value, held within ±2^20. -/
def floorVal (neg : Bool) (m : Nat) (e : Int) : Int :=
  let a : Nat := if e ≥ 0 then (if e + Nat.log2 m > 20 then 2 ^ 20 else m * 2 ^ e.toNat) else min (2 ^ 20) (m / 2 ^ min (-e).toNat (Nat.log2 m + 1))
  let frac : Bool := e < 0 && m % 2 ^ min (-e).toNat (Nat.log2 m + 1) ≠ 0
  if neg then -(a : Int) - frac.toNat else a

/-- Whether a finite value is an integer. -/
def isIntVal (m : Nat) (e : Int) : Bool := e ≥ 0 || m % 2 ^ min (-e).toNat (Nat.log2 m + 1) = 0

/-- A power of two. -/
def isPow2 (m : Nat) : Bool := m = 2 ^ Nat.log2 m

/-- 2^x for a finite x that is no integer: 2^floor(x) times a factor in [1, 2). -/
def enclExp2 (neg : Bool) (m : Nat) (e : Int) : Encl :=
  let fr := fxOf m e % fxOne
  let g := fxPow2 (if neg then fxOne - fr else fr)
  ⟨max fxOne (g - 2 ^ 32), min (2 * fxOne - 1) (g + 2 ^ 32), floorVal neg m e - 256⟩

/-- |log2 x| for x = m * 2^e, no power of two. -/
def enclLog2 (m : Nat) (e : Int) : Encl :=
  let top : Int := e + Nat.log2 m
  let l := fxLog2From 200 (m * 2 ^ 256 / 2 ^ Nat.log2 m) 0
  let v := if top ≥ 0 then top.toNat * 2 ^ 200 + l else (-top).toNat * 2 ^ 200 - l
  ⟨v - 2 ^ 8, v + 2 ^ 8, -200⟩

/-- |tanh x| for |x| = m * 2^e, not 0: (u - 1) / (u + 1) with u = e^2|x|. -/
def enclTanh (m : Nat) (e : Int) : Encl :=
  if tinyVal m e then .below m e
  else if floorVal false m e ≥ 64 then ⟨fxOne - 2 ^ 80, fxOne - 1, -256⟩
  else
    let t := 2 * fxOf m e * fxLog2e / fxOne
    let u := fxPow2 (t % fxOne) * 2 ^ (t / fxOne)
    .about ((u - fxOne) * fxOne / (u + fxOne)) (2 ^ 40) (fxOne - 1) (-256)

/-- 1 / (1 + e^-x) for x = ±m * 2^e, not 0. Of a negative x it lies below 1/2, where the spacing of a format changes; of a positive one above. -/
def enclSig (neg : Bool) (m : Nat) (e : Int) : Encl :=
  if floorVal false m e ≥ 2 ^ 12 then (if neg then ⟨0, 1, -5000⟩ else ⟨fxOne - 2 ^ 32, fxOne - 1, -256⟩)
  else
    let (g, k) := fxExpNeg (fxOf m e)
    let d := fxOne * 2 ^ k
    if neg then
      let v := g * d / (d + g)
      ⟨(v - 2 ^ 32) * 2 ^ 900, min (d * 2 ^ 899 - 1) ((v + 2 ^ 32) * 2 ^ 900), -(1156 + k : Nat)⟩
    else
      let v := d * fxOne / (d + g)
      ⟨max (fxOne / 2) (v - 2 ^ 32), min (fxOne - 1) (v + 2 ^ 32), -256⟩

/-- The quadrant of |x| = m * 2^e, not tiny, and the angle within it: the reduction modulo 2 pi keeps over 250 bits for every finite x. -/
def reduceAngle (m : Nat) (e : Int) : Nat × Nat :=
  let n := m * fxTwoOverPi * 2 ^ (e + 112).toNat
  (n / 2 ^ 1512 % 4, (n % 2 ^ 1512) / 2 ^ 1256 * fxHalfPi / fxOne)

/-- sin x or cos x: whether it is negative, and its magnitude. -/
def enclTrig (isCos neg : Bool) (m : Nat) (e : Int) : Bool × Encl :=
  if tinyVal m e then (if isCos then (false, ⟨fxOne - 2 ^ 140, fxOne - 1, -256⟩) else (neg, .below m e))
  else
    let (k, th) := reduceAngle m e
    let q := (k + isCos.toNat) % 4
    ((decide (q ≥ 2) ^^ (!isCos && neg)), .about (if q % 2 = 0 then fxSin th else fxCos th) (2 ^ 40) (fxOne - 1) (-256))

end Sys2Proof.Machine
end

