-- ==== Sys2Proof/Machine/Lanes.lean ====
section
/-!
DEFINITION. Machine/Lanes.lean: data words as lanes (R196), and what each integer, bit and lane form computes (R286 to R300).
-/
namespace Sys2Proof.Machine

/-! ### Lanes -/

/-- Lane i, of width w, of a data word. -/
def laneOf (w : Nat) (x : Word) (i : Nat) : Nat := x.toNat / 2 ^ (w * i) % 2 ^ w

/-- A data word from its lanes, lane 0 first. -/
def packLanes (w : Nat) : List Nat → Nat
  | [] => 0
  | v :: vs => v % 2 ^ w + 2 ^ w * packLanes w vs

/-- A data word whose lane i is g i. -/
def mapLanes (n w : Nat) (g : Nat → Nat) : Word := BitVec.ofNat 64 (packLanes w ((List.range n).map g))

/-- A data word whose lane i is g i, with the union of the flags. -/
def mapLanesF (n w : Nat) (g : Nat → Nat × Flags) : Word × Flags :=
  let rs := (List.range n).map g
  (BitVec.ofNat 64 (packLanes w (rs.map Prod.fst)), Flags.all (rs.map Prod.snd))

/-- val(x, i): lane i as two's complement or unsigned (R285). -/
def laneVal (t : ETy) (x : Word) (i : Nat) : Int :=
  let v := laneOf t.width x i
  if t.signed && v ≥ 2 ^ (t.width - 1) then (v : Int) - (2 ^ t.width : Int) else v

/-- Lanes computed from integers and wrapped. -/
def mapInts (t : ETy) (g : Nat → Int) : Word := mapLanes t.lanes t.width (fun i => wrapInt t.width (g i))

/-- Clamping under `SAT`, or wrapping (R286). -/
def clampLane (signed : Bool) (w : Nat) (sat : Bool) (v : Int) : Nat × Flags :=
  if sat && v > intMax signed w then (wrapInt w (intMax signed w), Flags.SAT)
  else if sat && v < intMin signed w then (wrapInt w (intMin signed w), Flags.SAT)
  else (wrapInt w v, Flags.none)

/-- All ones in a lane, or zero (R299). -/
def maskLane (w : Nat) (c : Bool) : Nat := if c then 2 ^ w - 1 else 0

/-! ### Integer arithmetic (R286 to R290) -/

/-- R286: lanes computed exactly, then wrapped or clamped. -/
def aluSat (t : ETy) (sat : Bool) (g : Nat → Int) : Word × Flags :=
  mapLanesF t.lanes t.width (fun i => clampLane t.signed t.width sat (g i))

/-- R287: carry in from bit 0 of aux. -/
def aluAddc (co : Bool) (L R A : Word) : Word :=
  let s := L.toNat + R.toNat + A.toNat % 2
  BitVec.ofNat 64 (if co then s / 2 ^ 64 else s)

/-- R287: borrow in from bit 0 of aux. -/
def aluSubb (bo : Bool) (L R A : Word) : Word :=
  let d : Int := (L.toNat : Int) - R.toNat - ((A.toNat % 2 : Nat) : Int)
  if bo then (if d < 0 then 1 else 0) else BitVec.ofNat 64 (wrapInt 64 d)

/-- R288: products of the even or odd lanes, at twice the width. -/
def aluMulw (t : ETy) (odd : Bool) (L R : Word) : Word :=
  mapLanes (t.lanes / 2) (2 * t.width) (fun j =>
    let k := 2 * j + odd.toNat
    wrapInt (2 * t.width) (laneVal t L k * laneVal t R k))

/-- R288: the high half of the product. -/
def aluMulh (t : ETy) (L R : Word) : Word :=
  mapInts t (fun i => (laneVal t L i * laneVal t R i).fdiv (2 ^ t.width : Int))

/-- R289, R217: quotient and remainder of one lane. -/
def divLane (t : ETy) (x y : Int) : Int × Int :=
  if y = 0 then (if t.signed then -1 else intMax false t.width, x)
  else if t.signed && x = intMin true t.width && y = -1 then (x, 0)
  else (x.tdiv y, x - y * x.tdiv y)

/-- R290: the sum of the lanes' absolute differences. -/
def aluSad (t : ETy) (L R : Word) : Word :=
  BitVec.ofNat 64 (((List.range t.lanes).map (fun i => (laneVal t L i - laneVal t R i).natAbs)).foldl (· + ·) 0)

/-! ### Shifts, counts and bit fields (R293, R294) -/

/-- R293: one lane shifted left; a count at or above the width gives 0. -/
def shlLane (w u k : Nat) : Nat := if k < w then u * 2 ^ k % 2 ^ w else 0

/-- R293: one lane shifted right. -/
def shrLane (w u k : Nat) : Nat := if k < w then u / 2 ^ k else 0

/-- R293: one lane shifted right with sign fill. -/
def sarLane (w u k : Nat) : Nat :=
  let x : Int := if u ≥ 2 ^ (w - 1) then (u : Int) - (2 ^ w : Int) else u
  wrapInt w (x.fdiv (2 ^ min k (w - 1) : Int))

/-- R293: one lane rotated left. -/
def rotLane (w u k : Nat) : Nat := (u / 2 ^ (w - k % w) + u * 2 ^ (k % w)) % 2 ^ w

/-- R293: a shift form over its lanes; the type gives only the width. -/
def aluShift (t : ETy) (g : Nat → Nat → Nat → Nat) (L R : Word) : Word :=
  mapLanes t.lanes t.width (fun i => g t.width (laneOf t.width L i) (laneOf t.width R i))

/-- R293: `shrp` takes 64 bits of hi:lo from bit A[5:0]. -/
def aluShrp (L R A : Word) : Word := BitVec.ofNat 64 ((L.toNat * 2 ^ 64 + R.toNat) / 2 ^ (A.toNat % 64))

/-- Zero bits above the highest one bit of a w-bit value. -/
def clzNat (w u : Nat) : Nat := if u = 0 then w else w - 1 - Nat.log2 u

/-- Zero bits below the lowest one bit of a w-bit value. -/
def ctzNat : Nat → Nat → Nat
  | 0, _ => 0
  | w + 1, u => if u % 2 = 1 then 0 else 1 + ctzNat w (u / 2)

/-- One bits among the low w bits. -/
def popNat : Nat → Nat → Nat
  | 0, _ => 0
  | w + 1, u => u % 2 + popNat w (u / 2)

/-- The low w bits in reverse. -/
def revNat : Nat → Nat → Nat
  | 0, _ => 0
  | w + 1, u => u % 2 * 2 ^ w + revNat w (u / 2)

/-- R294: a counting form over its lanes. -/
def aluCount (t : ETy) (g : Nat → Nat → Nat) (L : Word) : Word :=
  mapLanes t.lanes t.width (fun i => g t.width (laneOf t.width L i))

/-- R294: the bits of `l` under the mask `m`, gathered to the low bits; over n bits. -/
def gatherBits : Nat → Nat → Nat → Nat
  | 0, _, _ => 0
  | n + 1, l, m => if m % 2 = 1 then l % 2 + 2 * gatherBits n (l / 2) (m / 2) else gatherBits n (l / 2) (m / 2)

/-- R294: the low bits of `l` scattered to the positions of the mask `m`; over n bits. -/
def scatterBits : Nat → Nat → Nat → Nat
  | 0, _, _ => 0
  | n + 1, l, m => if m % 2 = 1 then l % 2 + 2 * scatterBits n (l / 2) (m / 2) else 2 * scatterBits n l (m / 2)

/-! ### Lanes, comparison and addresses (R296 to R300) -/

/-- R296: each byte of the result from the sixteen bytes of a and b. -/
def aluPerm (L R A : Word) : Word :=
  mapLanes 8 8 (fun j =>
    let k := R.toNat / 2 ^ (4 * j) % 16
    if k < 8 then laneOf 8 L k else laneOf 8 A (k - 8))

/-- R297: lanes of a and b interleaved. -/
def aluMix (t : ETy) (hi : Bool) (L R : Word) : Word :=
  let h := if hi then t.lanes / 2 else 0
  mapLanes t.lanes t.width (fun i => laneOf t.width (if i % 2 = 0 then L else R) (h + i / 2))

/-- R297: one lane of a in every lane. -/
def aluBcast (t : ETy) (L R : Word) : Word :=
  mapLanes t.lanes t.width (fun _ => laneOf t.width L (R.toNat % t.lanes))

/-- R298: lanes of a, then of b, narrowed to half the width. -/
def aluPack (t : ETy) (sat : Bool) (L R : Word) : Word × Flags :=
  mapLanesF (2 * t.lanes) (t.width / 2) (fun i =>
    clampLane t.signed (t.width / 2) sat (if i < t.lanes then laneVal t L i else laneVal t R (i - t.lanes)))

/-- R298: half the lanes of a, widened. -/
def aluUnpk (t : ETy) (hi : Bool) (L : Word) : Word :=
  let h := if hi then t.lanes / 2 else 0
  mapLanes (t.lanes / 2) (2 * t.width) (fun j => wrapInt (2 * t.width) (laneVal t L (h + j)))

/-- R299, R260: an integer relation. -/
def ICmp.holds : ICmp → Int → Int → Bool
  | .eq, x, y => x = y
  | .ne, x, y => x ≠ y
  | .lt, x, y => x < y
  | .le, x, y => x ≤ y
  | .gt, x, y => x > y
  | .ge, x, y => x ≥ y

/-- R299: all ones where the relation holds. -/
def aluCmp (t : ETy) (cc : ICmp) (L R : Word) : Word :=
  mapLanes t.lanes t.width (fun i => maskLane t.width (ICmp.holds cc (laneVal t L i) (laneVal t R i)))

/-- R299: bit R mod 64 of L. -/
def aluBtst (L R : Word) : Word := BitVec.ofNat 64 (L.toNat / 2 ^ (R.toNat % 64) % 2)

/-- R299: lane i of a where bit 0 of lane i of m is 1. -/
def aluBlend (t : ETy) (L R A : Word) : Word :=
  mapLanes t.lanes t.width (fun i => laneOf t.width (if laneOf t.width A i % 2 = 1 then L else R) i)

/-- R300: base plus a scaled index. -/
def aluLea (scale : BitVec 2) (L R : Word) : Word := L + R * BitVec.ofNat 64 (2 ^ scale.toNat)

end Sys2Proof.Machine
end

