-- ==== Sys2Proof/Machine/FloatAlu.lean ====
section
/-!
DEFINITION. Machine/FloatAlu.lean: what each floating-point, conversion, quantisation and packing form computes (R307 to R326).
-/
namespace Sys2Proof.Machine

/-- Rounding controls of a form: `RM`, `SAT` and the inputs of R207. -/
structure RCtx where
  rm : Rm
  sat : Bool
  srd : SrdIn
  deriving DecidableEq, Repr

/-- Lane i of a word as a floating-point value. -/
def laneF (t : ETy) (x : Word) (i : Nat) : FVal := (ETy.fmt t).unpack (laneOf t.width x i)

/-- Every lane of a word as a floating-point value. -/
def lanesF (t : ETy) (x : Word) : List FVal := (List.range t.lanes).map (laneF t x)

/-- Lanes computed to a result and rounded once each (R302, R304). -/
def mapRes (t : ETy) (c : RCtx) (g : Nat → Res) : Word × Flags :=
  mapLanesF t.lanes t.width (fun i => (ETy.fmt t).finish c.rm c.sat (c.srd.rho i) (g i))

/-! ### Arithmetic (R307 to R309) -/

/-- R307: the exact x * y + z; a NaN operand decides before the product is examined. -/
def fmaRes (rm : Rm) (x y z : FVal) : Res :=
  if x.isNan || y.isNan || z.isNan then .nan (x.isSnan || y.isSnan || z.isSnan)
  else match mulVals x y with
    | none => .nan true
    | some p => sumVals rm [p, z]

/-- R307: the exact x * y. -/
def mulRes (x y : FVal) : Res :=
  if x.isNan || y.isNan then .nan (x.isSnan || y.isSnan)
  else match mulVals x y with
    | none => .nan true
    | some p => p.res

def fluAdd (t : ETy) (c : RCtx) (L R : Word) : Word × Flags := mapRes t c (fun i => sumVals c.rm [laneF t L i, laneF t R i])
def fluSub (t : ETy) (c : RCtx) (L R : Word) : Word × Flags :=
  mapRes t c (fun i => sumVals c.rm [laneF t L i, (laneF t R i).negate])
def fluMul (t : ETy) (c : RCtx) (L R : Word) : Word × Flags := mapRes t c (fun i => mulRes (laneF t L i) (laneF t R i))
def fluFma (t : ETy) (c : RCtx) (L R A : Word) : Word × Flags :=
  mapRes t c (fun i => fmaRes c.rm (laneF t L i) (laneF t R i) (laneF t A i))

/-- Order with -0 below +0 (R308). -/
def leTotal (x y : FVal) : Bool :=
  let c := cmpVals x y
  c < 0 || (c = 0 && (x.neg? || !y.neg?))

/-- R308: minimumNumber or maximumNumber of one lane, a bit copy of the chosen operand. -/
def minmaxLane (f : Fmt) (isMax : Bool) (a b : Nat) : Nat × Flags :=
  let x := f.unpack a
  let y := f.unpack b
  let fl := Flags.when (x.isSnan || y.isSnan) Flags.NV
  if x.isNan && y.isNan then (f.canonNan, fl)
  else if x.isNan then (b, fl)
  else if y.isNan then (a, fl)
  else if isMax then (if leTotal x y then b else a, fl) else (if leTotal x y then a else b, fl)

def fluMinMax (t : ETy) (isMax : Bool) (L R : Word) : Word × Flags :=
  mapLanesF t.lanes t.width (fun i => minmaxLane (ETy.fmt t) isMax (laneOf t.width L i) (laneOf t.width R i))

/-- R309: bit w - 1 of each lane cleared. -/
def fluAbs (t : ETy) (L : Word) : Word := mapLanes t.lanes t.width (fun i => laneOf t.width L i % 2 ^ (t.width - 1))

/-- R309: bit w - 1 of each lane inverted. -/
def fluNeg (t : ETy) (L : Word) : Word := mapLanes t.lanes t.width (fun i => (laneOf t.width L i + 2 ^ (t.width - 1)) % 2 ^ t.width)

/-! ### Comparison and classification (R311) -/

/-- R311: whether the relation holds, and the flag it raises. -/
def fcmpLane (cc : FCmp) (x y : FVal) : Bool × Flags :=
  let anyNan := x.isNan || y.isNan
  let snan := Flags.when (x.isSnan || y.isSnan) Flags.NV
  let c := cmpVals x y
  match cc with
  | .eq => (!anyNan && c = 0, snan)
  | .ne => (anyNan || c ≠ 0, snan)
  | .lt => (!anyNan && c < 0, Flags.when anyNan Flags.NV)
  | .le => (!anyNan && c ≤ 0, Flags.when anyNan Flags.NV)
  | .gt => (!anyNan && c > 0, Flags.when anyNan Flags.NV)
  | .ge => (!anyNan && c ≥ 0, Flags.when anyNan Flags.NV)
  | .un => (anyNan, snan)

def fluCmp (t : ETy) (cc : FCmp) (L R : Word) : Word × Flags :=
  mapLanesF t.lanes t.width (fun i =>
    let (b, fl) := fcmpLane cc (laneF t L i) (laneF t R i)
    (maskLane t.width b, fl))

/-- The class number of R311. -/
def fclassOf (f : Fmt) (v : Nat) : Nat :=
  match f.unpack v with
  | .nan true => 0
  | .nan false => 1
  | .inf true => 2
  | .inf false => 9
  | .fin neg m _ =>
    if m = 0 then (if neg then 5 else 6)
    else if m < 2 ^ f.fbits then (if neg then 4 else 7)
    else (if neg then 3 else 8)

def fluClass (t : ETy) (L R : Word) : Word :=
  mapLanes t.lanes t.width (fun i => maskLane t.width (R.toNat / 2 ^ fclassOf (ETy.fmt t) (laneOf t.width L i) % 2 = 1))

/-! ### Reductions (R313) -/

/-- The largest magnitude of a list of codes that are no NaN; magnitudes order as their codes do. -/
def maxMagCode (w : Nat) (vs : List Nat) : Nat := (vs.map (· % 2 ^ (w - 1))).foldl max 0

def fluAmax (t : ETy) (L R : Word) : Word × Flags :=
  let codes := (List.range t.lanes).map (laneOf t.width L) ++ (List.range t.lanes).map (laneOf t.width R)
  let vals := codes.map (ETy.fmt t).unpack
  if vals.any FVal.isNan then
    (mapLanes t.lanes t.width (fun _ => (ETy.fmt t).canonNan), Flags.when (vals.any FVal.isSnan) Flags.NV)
  else (mapLanes t.lanes t.width (fun _ => maxMagCode t.width codes), Flags.none)

def fluSum (t : ETy) (c : RCtx) (L R : Word) : Word × Flags :=
  let xs := lanesF t L ++ lanesF t R
  let (v, fl) := (ETy.fmt t).finish c.rm c.sat (c.srd.rho 0) (sumVals c.rm xs)
  (BitVec.ofNat 64 v, if xs.contains (.inf true) && xs.contains (.inf false) then fl.or Flags.NV else fl)

/-- One output lane of `fdot2`: m products and an addend. -/
def dotRes (rm : Rm) (xs ys : List FVal) (z : FVal) : Res :=
  if (xs ++ ys ++ [z]).any FVal.isNan then .nan ((xs ++ ys ++ [z]).any FVal.isSnan)
  else
    let ps := List.zipWith mulVals xs ys
    if ps.any Option.isNone then .nan true else sumVals rm (ps.filterMap id ++ [z])

def fluDot2 (t : ETy) (c : RCtx) (L R A : Word) : Word × Flags :=
  let m := t.lanes / 2
  mapLanesF 2 32 (fun j =>
    let ks := (List.range m).map (fun k => m * j + k)
    fmtF32.finish c.rm c.sat (c.srd.rho j) (dotRes c.rm (ks.map (laneF t L)) (ks.map (laneF t R)) (laneF .f32x2 A j)))

/-! ### Rounding to integers and scaling (R314) -/

def froundLane (f : Fmt) (c : RCtx) (i v : Nat) : Nat × Flags :=
  match f.unpack v with
  | .nan s => (f.canonNan, Flags.when s Flags.NV)
  | .inf _ => (v, Flags.none)
  | .fin neg m e =>
    if m = 0 || e ≥ 0 then (v, Flags.none)
    else
      let (k, inexact) := roundAt c.rm (c.srd.rho i) ⟨neg, m, e, false⟩ 0
      ((f.round .rtz false 0 ⟨neg, k, 0, false⟩).1, Flags.when inexact Flags.NX)

def fluRound (t : ETy) (c : RCtx) (L : Word) : Word × Flags :=
  mapLanesF t.lanes t.width (fun i => froundLane (ETy.fmt t) c i (laneOf t.width L i))

/-- A lane read as two's complement. -/
def signedLane (w : Nat) (x : Word) (i : Nat) : Int :=
  let v := laneOf w x i
  if v ≥ 2 ^ (w - 1) then (v : Int) - (2 ^ w : Int) else v

def fluScl (t : ETy) (c : RCtx) (L R : Word) : Word × Flags :=
  mapRes t c (fun i =>
    match laneF t L i with
    | .fin n m e => .exact ⟨n, m, e + signedLane t.width R i, false⟩
    | v => v.res)

/-! ### Division, roots and approximations (R316, R317) -/

def fdivRes (x y : FVal) : Res × Flags :=
  if x.isNan || y.isNan then (.nan (x.isSnan || y.isSnan), Flags.none)
  else
    let neg := x.neg? ^^ y.neg?
    match x, y with
    | .inf _, .inf _ => (.nan true, Flags.none)
    | .inf _, _ => (.inf neg, Flags.none)
    | _, .inf _ => (.exact ⟨neg, 0, 0, false⟩, Flags.none)
    | .fin _ m e, .fin _ m' e' =>
      if m' = 0 then (if m = 0 then (.nan true, Flags.none) else (.inf neg, Flags.DZ))
      else if m = 0 then (.exact ⟨neg, 0, 0, false⟩, Flags.none)
      else (.exact (quotExact neg m e m' e'), Flags.none)
    | _, _ => (.nan true, Flags.none)

def fluDiv (t : ETy) (c : RCtx) (L R : Word) : Word × Flags :=
  mapLanesF t.lanes t.width (fun i =>
    let (r, fl) := fdivRes (laneF t L i) (laneF t R i)
    let (v, fl') := (ETy.fmt t).finish c.rm c.sat (c.srd.rho i) r
    (v, fl.or fl'))

def fsqrtRes (x : FVal) : Res :=
  match x with
  | .nan s => .nan s
  | .inf neg => if neg then .nan true else .inf false
  | .fin neg m e => if m = 0 then .exact ⟨neg, 0, 0, false⟩ else if neg then .nan true else .exact (sqrtExact m e)

def fluSqrt (t : ETy) (c : RCtx) (L : Word) : Word × Flags := mapRes t c (fun i => fsqrtRes (laneF t L i))

/-- A format whose `frcp` and `frsq` are correctly rounded (R317). -/
def narrowF (t : ETy) : Bool := t = .bf16x4 || t = .f16x4

/-- The value of an exact result: correctly rounded in the narrow formats, and otherwise one of the values within one ulp,
by the open choice (R317). -/
def rcpOut (fn : Config.ApproxFn) (t : ETy) (c : RCtx) (i v : Nat) (y : Exact) : Nat × Flags :=
  let f := ETy.fmt t
  if narrowF t then f.round c.rm c.sat (c.srd.rho i) y
  else
    let cs := f.within1ulp y
    f.approxOut c.rm c.sat y.neg (cs.getD (Config.approx fn t c.rm c.sat v % cs.length) 1)

def frcpLane (t : ETy) (c : RCtx) (i v : Nat) : Nat × Flags :=
  let f := ETy.fmt t
  match f.unpack v with
  | .nan s => (f.canonNan, Flags.when s Flags.NV)
  | .inf neg => (f.withSign neg 0, Flags.none)
  | .fin neg m e =>
    if m = 0 then
      let (r, fl) := f.infinite c.sat neg
      (r, fl.or Flags.DZ)
    else rcpOut .rcp t c i v (quotExact neg 1 0 m e)

def frsqLane (t : ETy) (c : RCtx) (i v : Nat) : Nat × Flags :=
  let f := ETy.fmt t
  match f.unpack v with
  | .nan s => (f.canonNan, Flags.when s Flags.NV)
  | .inf neg => if neg then (f.canonNan, Flags.NV) else (0, Flags.none)
  | .fin neg m e =>
    if m = 0 then
      let (r, fl) := f.infinite c.sat neg
      (r, fl.or Flags.DZ)
    else if neg then (f.canonNan, Flags.NV)
    else rcpOut .rsq t c i v (rsqrtExact m e)

/-- Units in the last place of R317's bound, by format. -/
def ulpsOf (t : ETy) : Nat := if narrowF t then 1 else 2

/-- R317's absolute bound 2^-(p - d), p the precision. -/
def absBound (f : Fmt) (d : Nat) : Option Int := some (-((f.fbits + 1 - d : Nat) : Int))

/-- `fexp2` (R316, R317): 2^n is exact where representable; elsewhere it lies within the bound, whatever the rounding words are. -/
def fexp2Lane (t : ETy) (c : RCtx) (v : Nat) : Nat × Flags :=
  let f := ETy.fmt t
  match f.unpack v with
  | .nan s => (f.canonNan, Flags.when s Flags.NV)
  | .inf neg => if neg then (0, Flags.none) else f.infinite c.sat false
  | .fin neg m e =>
    if m = 0 then f.round c.rm c.sat 0 ⟨false, 1, 0, false⟩
    else
      let n := floorVal neg m e
      let y : Encl := if isIntVal m e then ⟨1, 1, n⟩ else enclExp2 neg m e
      let code := f.magFloor 1 n
      if isIntVal m e && 0 < code && code ≤ f.maxMag then (code, Flags.none)
      else
        f.near c.rm c.sat false (Config.approx .exp2 t c.rm c.sat v) (ulpsOf t) none (f.magFloor y.hi y.e + 4) y

/-- `flog2` (R316, R317): log2 of 2^n is n. -/
def flog2Lane (t : ETy) (c : RCtx) (v : Nat) : Nat × Flags :=
  let f := ETy.fmt t
  match f.unpack v with
  | .nan s => (f.canonNan, Flags.when s Flags.NV)
  | .inf neg => if neg then (f.canonNan, Flags.NV) else f.infinite c.sat false
  | .fin neg m e =>
    if m = 0 then
      let (r, fl) := f.infinite c.sat true
      (r, fl.or Flags.DZ)
    else if neg then (f.canonNan, Flags.NV)
    else
      let top : Int := e + Nat.log2 m
      if isPow2 m then f.round .rne false 0 ⟨top < 0, top.natAbs, 0, false⟩
      else f.near c.rm c.sat (top < 0) (Config.approx .log2 t c.rm c.sat v) (ulpsOf t) (absBound f 2) f.maxMag (enclLog2 m e)

/-- `ftanh` (R316, R317): the sign of x, a magnitude of at most 1. -/
def ftanhLane (t : ETy) (c : RCtx) (v : Nat) : Nat × Flags :=
  let f := ETy.fmt t
  match f.unpack v with
  | .nan s => (f.canonNan, Flags.when s Flags.NV)
  | .inf neg => (f.withSign neg (f.natMag 1), Flags.none)
  | .fin neg m e =>
    if m = 0 then (v, Flags.none)
    else f.near c.rm c.sat neg (Config.approx .tanh t c.rm c.sat v) (ulpsOf t) (absBound f 0) (f.natMag 1) (enclTanh m e)

/-- `fsin` and `fcos` (R316, R317): a magnitude of at most 1. -/
def ftrigLane (isCos : Bool) (t : ETy) (c : RCtx) (v : Nat) : Nat × Flags :=
  let f := ETy.fmt t
  match f.unpack v with
  | .nan s => (f.canonNan, Flags.when s Flags.NV)
  | .inf _ => (f.canonNan, Flags.NV)
  | .fin neg m e =>
    if m = 0 then (if isCos then (f.natMag 1, Flags.none) else (v, Flags.none))
    else
      let (sg, y) := enclTrig isCos neg m e
      f.near c.rm c.sat sg (Config.approx (if isCos then .cos else .sin) t c.rm c.sat v) (ulpsOf t) (absBound f 0) (f.natMag 1) y

/-- `fsig` (R316, R317): from 0 to 1. -/
def fsigLane (t : ETy) (c : RCtx) (v : Nat) : Nat × Flags :=
  let f := ETy.fmt t
  match f.unpack v with
  | .nan s => (f.canonNan, Flags.when s Flags.NV)
  | .inf neg => (if neg then 0 else f.natMag 1, Flags.none)
  | .fin neg m e =>
    if m = 0 then (f.pow2Mag (-1), Flags.none)
    else f.near c.rm c.sat false (Config.approx .sig t c.rm c.sat v) (ulpsOf t) (absBound f 0) (f.natMag 1) (enclSig neg m e)

/-- A one-operand lane function over a word. -/
def mapLane1 (t : ETy) (g : Nat → Nat → Nat × Flags) (L : Word) : Word × Flags :=
  mapLanesF t.lanes t.width (fun i => g i (laneOf t.width L i))

/-! ### Conversion (R319, R320) -/

/-- R320: one lane converted, by the first rule that applies. -/
def convLane (s d : ETy) (c : RCtx) (lam : Nat) (L : Word) (i : Nat) : Nat × Flags :=
  if s.isInt then convIF (ETy.fmt d) c.rm c.sat (c.srd.rho lam) (laneVal s L i)
  else if d.isInt then convFI (ETy.fmt s) d.signed d.width c.rm (c.srd.rho lam) (laneOf s.width L i)
  else convFF (ETy.fmt s) (ETy.fmt d) c.rm c.sat (c.srd.rho lam) (laneOf s.width L i)

/-- R319: the lanes moved and converted; `base` is the right operand where the merge bit is 1. -/
def fluCvt (s d : ETy) (part : Nat) (base : Word) (c : RCtx) (L : Word) : Word × Flags :=
  if d.lanes ≥ s.lanes then
    mapLanesF d.lanes d.width (fun j =>
      if part * s.lanes ≤ j && j < (part + 1) * s.lanes then convLane s d c j L (j - part * s.lanes)
      else (laneOf d.width base j, Flags.none))
  else mapLanesF d.lanes d.width (fun i => convLane s d c i L (part * d.lanes + i))

/-! ### MXFP4 and ternary packing (R322 to R326) -/

/-- R322: the scale code of |lane 0|. -/
def fluMxscale (t : ETy) (L : Word) : Word × Flags :=
  let (c, fl) := mxCode (laneF t L 0).abs
  (BitVec.ofNat 64 c, { Flags.none with scaleFloor := fl.scaleFloor })

/-- R323: the lanes quantised against the code s[7:0], placed at part q. -/
def fluMxq (t : ETy) (part : Nat) (c : RCtx) (L R : Word) : Word × Flags :=
  let rs := (List.range t.lanes).map (fun i => mxElement (laneF t L i) (R.toNat % 256) c.rm (c.srd.rho i))
  (BitVec.ofNat 64 (packLanes 4 (rs.map Prod.fst) * 2 ^ (4 * t.lanes * part)), Flags.all (rs.map Prod.snd))

/-- R324: codes restored; the rounding to the lane format is RNE. -/
def fluMxdq (t : ETy) (part : Nat) (L R : Word) : Word × Flags :=
  mapLanesF t.lanes t.width (fun i =>
    (ETy.fmt t).finish .rne false 0 (mxValue (laneOf 4 L (t.lanes * part + i)) (R.toNat % 256)).res)

/-- The digit of a weight (R203). -/
def tritDigit (x : Int) : Nat := if x = 0 then 0 else if x > 0 then 1 else 2

/-- R325: five signed lanes as the trit-byte q. -/
def fluTpack (part : Nat) (L : Word) : Word × Flags :=
  let xs := (List.range 5).map (fun i => laneVal .s8x8 L i)
  let v := xs.foldr (fun x acc => tritDigit x + 3 * acc) 0
  (BitVec.ofNat 64 (v * 2 ^ (8 * part)), Flags.when (xs.any (fun x => x > 1 || x < -1)) Flags.SAT)

/-- The weight lane of a digit (R326). -/
def tritLane (d : Nat) : Nat := if d = 0 then 0 else if d = 1 then 1 else 0xFF

/-- R326: byte q as five lanes; `none` where it is 243 to 255, which is TRITCODE. -/
def fluTunpk (part : Nat) (L : Word) : Option Word :=
  let b := laneOf 8 L part
  if b ≥ 243 then none
  else some (mapLanes 8 8 (fun i => if i < 5 then tritLane (b / 3 ^ i % 3) else 0))

end Sys2Proof.Machine
end

