-- ==== Sys2Proof/Machine/Operands.lean ====
section
/-!
DEFINITION. Machine/Operands.lean: the operand forms: immediates (R258), operand words and predicates of a firing (R112,
R272), effective addresses (R329), and how a firing ends: squashed, with tokens in the output queue, or with a chain operation
on its way to its home WOB.
-/
namespace Sys2Proof

/-! ### Immediates and addresses -/

/-- R258: `IMMH`:`IMM32` with an extension word, otherwise `IMM32` sign-extended. -/
def FmtA.imm (f : FmtA) : Word :=
  match f.immh with
  | some h => BitVec.ofNat 64 (f.imm32.toNat + 2 ^ 32 * h.toNat)
  | none => f.imm32.signExtend 64

/-- R329: the offset of a Format M record. -/
def FmtM.offset (m : FmtM) : Word :=
  match m.offh with
  | some h => (BitVec.ofNat 44 (h.toNat * 2 ^ 20 + m.off.toNat)).signExtend 64
  | none => m.off.signExtend 64

/-- R329: EA := (L + off) mod 2^64. -/
def FmtM.ea (m : FmtM) (left : Word) : Word := left + m.offset

/-- R330: a loaded value, of the access's size, extended by its code. -/
def Acc.extend (a : Acc) (v : Nat) : Word :=
  let w := 8 * a.size
  BitVec.ofNat 64 (if a.signed && v.testBit (w - 1) then v % 2 ^ w + (2 ^ 64 - 2 ^ w) else v % 2 ^ w)

/-! ### Operands of a firing -/

/-- The left operand word (R272). -/
def FmtA.left (f : FmtA) (c : Machine.Focus) : Word := if f.immSel = .left then f.imm else c.left
/-- The right operand word (R272). -/
def FmtA.right (f : FmtA) (c : Machine.Focus) : Word := if f.immSel = .right then f.imm else c.right

/-- R112: whether a predicate squashes the firing. -/
def PMode.squashes (pm : PMode) (aux : Word) : Bool :=
  match pm with
  | .none => false
  | .onTrue => aux.toNat % 2 = 0
  | .onFalse => aux.toNat % 2 = 1

end Sys2Proof

namespace Sys2Proof.Machine

/-- The firing thread's work identifier (R120). -/
def State.workOf (s : State) (c : Focus) : Word :=
  match s.placement? c.task c.pl with
  | none => 0
  | some p => ((p.thread? c.tag).map Thread.work).getD 0

/-- The firing thread's ordinal (R247). -/
def State.ordinalOf (s : State) (c : Focus) : Word :=
  match s.placement? c.task c.pl with
  | none => 0
  | some p => ((p.thread? c.tag).map Thread.ordinal).getD 0

/-- The inputs of R207 for a firing. -/
def State.srdIn (s : State) (c : Focus) : SrdIn := ⟨s.workOf c, c.wave, c.fret, c.velem, c.slot⟩

/-- The rounding controls of a firing. -/
def State.rctx (s : State) (f : FmtA) (c : Focus) : RCtx := ⟨f.rm, f.sat, s.srdIn c⟩

/-! ### Ends of a firing -/

/-- The output queue of an element with items added. -/
def State.pushOut (s : State) (c : Focus) (items : List OutItem) : State :=
  s.modElem c.pf c.pelem (fun e => { e with outQ := e.outQ ++ items })

/-- Tokens of a firing in cycle n with extra latency X, for the words that a value is chosen for; a word of the special sink is
dropped (R114), and the queue keeps record order (R254). The item may leave at the end of cycle n + X (R275). -/
def outToks (now x tag wave : Nat) (ds : List Dest) (v : Dest → Option Word) : List OutItem :=
  ds.filterMap (fun d =>
    if d.port = .sink then none
    else (v d).map (fun data => .tok ⟨d, tag, wave, data, now + x⟩))

/-- R272: the result on the words with `SIDE` 0 and the side output on those with `SIDE` 1, where the form produced them. -/
def State.emit (s : State) (c : Focus) (x tag wave : Nat) (ds : List Dest) (res side : Option Word) : State :=
  s.pushOut c (outToks s.clock.cycle x tag wave ds (fun d => if d.side then side else res))

/-- The latched instance is spent. -/
def State.unfocus (s : State) : State := { s with focus := none }

/-- R272: a Format A firing. A squashed firing changes nothing more (R112, R273) and is counted (R239). -/
def fireA (f : FmtA) (s : State) (g : Focus → Word → Word → Word → State → State) : Out :=
  match s.focus with
  | none => .refused .noFocus
  | some c =>
    if f.pmode.squashes c.aux then .next ((s.countEvent (clusterOf c.pf) c.task 0x03 1).unfocus)
    else .next ((g c (f.left c) (f.right c) c.aux s).unfocus)

/-- A firing with one result that raises no flag, and extra latency X. -/
def fireVal (f : FmtA) (x : Nat) (s : State) (h : Word → Word → Word → Word) : Out :=
  fireA f s (fun c l r a s => s.emit c x c.tag c.wave f.dests (some (h l r a)) none)

/-- A firing with one result and flags, set when it fires (R218). -/
def fireFlg (f : FmtA) (x : Nat) (s : State) (h : RCtx → Word → Word → Word → Word × Flags) : Out :=
  fireA f s (fun c l r a s =>
    let (v, fl) := h (s.rctx f c) l r a
    (s.setFlags c.task c.pl fl).emit c x c.tag c.wave f.dests (some v) none)

/-- The chain operation that a firing sends to its home WOB (R125, R328): operands, triple and place; a squashed one too (R112).
Its address is worked out at WOB entry (R329). -/
def Focus.chainOp (c : Focus) (i : Instr) (squashed : Bool) (ea : Nat) : WobOp :=
  { instr := i, task := c.task, pl := c.pl, tag := c.tag, wave := c.wave, fret := c.fret, velem := c.velem, slot := c.slot,
    pf := c.pf, pelem := c.pelem, left := c.left, right := c.right, aux := c.aux, squashed := squashed, ea := ea, pa := 0,
    host := false, scratch := false, st := .entered, value := 0, fwd := [], seq := 0, reserved := false, gen := c.gen,
    serial := 0 }

/-- A firing of a chain form: nothing is performed; the operation enters the output queue on its way to the home WOB. -/
def fireChain (i : Instr) (pm : PMode) (ea : Focus → Nat) (s : State) : Out :=
  match s.focus with
  | none => .refused .noFocus
  | some c =>
    let sq := pm.squashes c.aux
    let s := if sq then s.countEvent (clusterOf c.pf) c.task 0x03 1 else s
    .next ((s.pushOut c [.chain (c.chainOp i sq (ea c)) s.clock.cycle]).unfocus)

/-- A Format M firing (R328): the effective address comes from the left operand and the offset. -/
def fireM (i : Instr) (m : FmtM) (s : State) : Out := fireChain i m.pmode (fun c => (m.ea c.left).toNat) s

/-- A Format E firing (R354, R385): the left operand is an address, a shape word or a trigger. -/
def fireE (i : Instr) (e : FmtE) (s : State) : Out := fireChain i e.pmode (fun c => c.left.toNat) s

end Sys2Proof.Machine
end

