-- ==== Sys2Proof/Machine/Translate.lean ====
section
/-!
DEFINITION. Machine/Translate.lean: leases (R77), page tables (R167, R168), the TLB (R169, R170), and the checks that an access
passes before it is performed (R329, R356).
-/
namespace Sys2Proof.Machine

/-! ### Leases (R77) -/

/-- First address and size of a lease word. -/
def leaseBase (w : Nat) : Nat := w / 2 ^ 12 % 2 ^ 40 * 2 ^ 12
def leaseSize (w : Nat) : Nat := (w % 2 ^ 12 + 1) * 2 ^ (12 + w / 2 ^ 52 % 32)
def leaseTier (w : Nat) : Nat := w / 2 ^ 62
def leaseRo (w : Nat) : Bool := w.testBit 61
def leaseSave (w : Nat) : Bool := w.testBit 60

/-- Whether a lease covers an address. -/
def leaseHas (w va : Nat) : Bool := leaseBase w ≤ va && va < leaseBase w + leaseSize w

/-- R77: an address that some lease covers; for a write, some covering lease that is not read-only. -/
def Task.leased (t : Task) (va : Nat) (wr : Bool) : Bool :=
  va < 2 ^ 52 && t.leases.any (fun w => leaseHas w va && (!wr || !leaseRo w))

/-! ### Page tables (R167, R168) -/

/-- A table entry, read coherently from device memory; none where its address is unbacked or in the host tier (R167). -/
def State.pteAt (s : State) (fn a : Nat) : Option Nat :=
  match s.fnAddr fn a with
  | none => none
  | some pa => if isHost pa then none else some (s.readNat pa 8)

def pteFrame (e : Nat) : Nat := e / 2 ^ 12 % 2 ^ 40 * 2 ^ 12
def pteCont (e : Nat) : Bool := e.testBit 3
def pteW (e : Nat) : Bool := e.testBit 2
def pteLeaf (e : Nat) : Bool := e.testBit 1

/-- Size of the page that a leaf of a level maps, without `CONT`. -/
def leafSize (level : Nat) : Nat := if level = 0 then 2 ^ 12 else if level = 1 then 2 ^ 21 else 2 ^ 30

/-- R168: an entry that is valid at its level, but for the agreement of a `CONT` group. -/
def pteValid (level e : Nat) : Bool :=
  e % 2 = 1 && e / 2 ^ 52 = 0 && e / 2 ^ 4 % 2 ^ 8 = 0 && (level = 0 || !pteCont e)
    && (if level = 0 then pteLeaf e else if level ≤ 2 then true else !pteLeaf e)
    && (!pteLeaf e || pteFrame e % (if pteCont e then 2 ^ 16 else leafSize level) = 0)

/-- R168: the sixteen entries of a `CONT` group agree in `FRAME`, `W` and `CONT`. -/
def State.contAgrees (s : State) (fn a e : Nat) : Bool :=
  (List.range 16).all (fun k =>
    match s.pteAt fn (a / 128 * 128 + 8 * k) with
    | some x => pteFrame x = pteFrame e && pteW x = pteW e && pteCont x
    | none => false)

/-- What a walk finds: a leaf as a TLB entry whose frame is as the function names it, or an invalid entry. -/
inductive Walk
  | leaf (t : TlbEntry) (pteAddr : Nat)
  | invalid
  deriving DecidableEq, Repr

/-- R167: the walk from a level's table downward. -/
def State.walk (s : State) (fn space va : Nat) : Nat → Nat → Walk
  | 0, table =>
    let a := table + 8 * (va / 2 ^ 12 % 512)
    match s.pteAt fn a with
    | none => .invalid
    | some e =>
      if !pteValid 0 e then .invalid
      else if pteCont e then
        if s.contAgrees fn a e then .leaf ⟨space, va / 2 ^ 16 * 2 ^ 16, 2 ^ 16, pteFrame e, pteW e⟩ a else .invalid
      else .leaf ⟨space, va / 2 ^ 12 * 2 ^ 12, 2 ^ 12, pteFrame e, pteW e⟩ a
  | level + 1, table =>
    let idx := if level + 1 = 4 then va / 2 ^ 48 % 16 else va / 2 ^ (12 + 9 * (level + 1)) % 512
    let a := table + 8 * idx
    match s.pteAt fn a with
    | none => .invalid
    | some e =>
      if !pteValid (level + 1) e then .invalid
      else if pteLeaf e then
        let sz := leafSize (level + 1)
        .leaf ⟨space, va / sz * sz, sz, pteFrame e, pteW e⟩ a
      else s.walk fn space va level (pteFrame e)

/-- The address-space descriptor's root of (function, ASID), where it is valid (R54, R167). One with a reserved bit of `ROOT` set is taken as not
valid; bytes 8 to 15 are not looked at (log entry 11). -/
def State.spaceRoot (s : State) (fn asid : Nat) : Option Nat :=
  if bits (s.reg fn 0x018) 7 0 < asid then none
  else
    match s.pteAt fn (bits (s.reg fn 0x018) 51 12 * 4096 + 16 * asid) with
    | none => none
    | some r => if r % 2 = 1 && r / 2 % 2 ^ 11 = 0 && r / 2 ^ 52 = 0 then some (pteFrame r) else none

/-- A walk of an address space (key 256 * function + ASID). -/
def State.walkSpace (s : State) (space va : Nat) : Walk :=
  match s.spaceRoot (space / 256) (space % 256) with
  | none => .invalid
  | some root => if va < 2 ^ 52 then s.walk (space / 256) space va 4 root else .invalid

/-! ### TLB (R169, R170) -/

/-- The TLB entry that holds a virtual address. Entries stay until an invalidation removes them: a change of the tables reaches
running work only so (R170, log entry 11). -/
def State.tlbHit (s : State) (space va : Nat) : Option TlbEntry :=
  s.mem.tlb.find? (fun t => t.space = space && t.va ≤ va && va < t.va + t.size)

/-- The translation in force: the TLB's, or a walk's. -/
def State.xlate (s : State) (space va : Nat) : Option TlbEntry :=
  match s.tlbHit space va with
  | some t => some t
  | none => match s.walkSpace space va with
    | .leaf t _ => some t
    | .invalid => none

/-- The physical address of a virtual one, and whether its page may be written; none where the entry is invalid or the frame
unbacked (R169). -/
def State.physOf (s : State) (space va : Nat) : Option (Nat × Bool) :=
  match s.xlate space va with
  | none => none
  | some t => (s.fnAddr (space / 256) (t.frame + (va - t.va))).map (fun pa => (pa, t.w))

/-- The walk's result kept in the TLB. -/
def State.tlbFill (s : State) (space va : Nat) : State :=
  match s.tlbHit space va with
  | some _ => s
  | none => match s.walkSpace space va with
    | .leaf t _ => { s with mem := { s.mem with tlb := t :: s.mem.tlb } }
    | .invalid => s

/-- A translation put in a TLB of so many entries; a full one gives up an entry, which is open (log entry 11). -/
def tlbPut (cap : Nat) (l : TlbHeld) (e : Nat × Nat) : TlbHeld :=
  if l.any (fun x => x = e) then l else e :: (if l.length < cap then l else dropAt l (Config.tlbVictim (e.1 + e.2) % cap))

/-- A translation used in a cluster: its TLB of 2,048 entries is looked up; a miss, which is counted (R239), goes to the die's TLB of 16,384 entries
and to the tables (R169). The translation in force is the device's: a change of the tables reaches running work only through an invalidation,
which removes it everywhere (R170). -/
def State.tlbUse (s : State) (cluster task space va : Nat) : State :=
  let s := s.tlbFill space va
  match s.tlbHit space va with
  | none => s.countEvent cluster task 0x0D 1
  | some t =>
    let e := (space, t.va)
    let held := tgetD s.mem.ctlb cluster []
    if held.any (fun x => x = e) then s
    else
      let d := dieOf cluster
      { s.countEvent cluster task 0x0D 1 with mem := { s.mem with
          ctlb := tput s.mem.ctlb cluster (tlbPut 2048 held e), dtlb := tput s.mem.dtlb d (tlbPut 16384 (tgetD s.mem.dtlb d []) e) } }

/-- The TLBs' entries of address spaces removed, over a range of addresses (R171, step 1). -/
def Mem.tlbDrop (m : Mem) (space : Nat → Bool) (lo hi : Nat) : Mem :=
  let gone := m.tlb.filter (fun e => space e.space && e.va < hi && lo < e.va + e.size)
  let keep := fun (r : Nat × TlbHeld) => (r.1, r.2.filter (fun x => !gone.any (fun e => e.space = x.1 && e.va = x.2)))
  { m with tlb := m.tlb.filter (fun e => !gone.any (fun g => g = e)), ctlb := m.ctlb.map keep, dtlb := m.dtlb.map keep }

/-- R77, R168, R169: an access at one address, for a task: its physical address where leases and pages permit it. -/
def State.access (s : State) (t : Task) (va : Nat) (wr : Bool) : Option Nat :=
  if t.leased va wr then
    match s.physOf t.space va with
    | some (pa, w) => if wr && !w then none else some pa
    | none => none
  else none

/-! ### The scratch window (R144) -/

def scratchBase : Nat := 0xF_FFFF_FFF0_0000
def inScratch (va : Nat) : Bool := scratchBase ≤ va && va < 2 ^ 52

/-! ### Ranges of virtual addresses, for engines and records -/

/-- The first address of a range that fails, going up line by line and page by page: checks are made at the range's start and at
each 128-byte boundary in it, and at its last byte (leases and pages are multiples of 4 KiB). -/
def State.firstBadVa (s : State) (t : Task) (wr : Bool) (va n : Nat) : Option Nat :=
  if n = 0 then none
  else ((va :: ((List.range ((va + n - 1) / 4096 - va / 4096)).map (fun k => (va / 4096 + 1 + k) * 4096)))).find?
    (fun a => (s.access t a wr).isNone || inScratch a)

/-- The first address, line by line, of a virtual range whose physical address satisfies a test. -/
def State.firstVaWith (s : State) (space va n : Nat) (test : Nat → Bool) : Option Nat :=
  (linesOf va n).findSome? (fun l =>
    let a := max va (128 * l)
    match s.physOf space a with
    | some (pa, _) => if test pa then some a else none
    | none => none)

/-- Nothing is in flight for any line of a virtual range. -/
def State.vaQuiet (s : State) (space va n : Nat) : Bool := (s.firstVaWith space va n (fun pa => !s.mem.quiet (pa / 128))).isNone

/-- The TLB filled for every page of a range. -/
def State.tlbFillRange (s : State) (space va n : Nat) : State :=
  if n = 0 then s
  else ((List.range ((va + n - 1) / 4096 - va / 4096 + 1)).map (fun k => (va / 4096 + k) * 4096)).foldl
    (fun s a => s.tlbFill space a) s

/-- The physical pieces, none across a line, of a virtual range that passes its checks. -/
def State.pieces (s : State) (space va : Nat) : Nat → Nat → List (Nat × Nat)
  | _, 0 => []
  | 0, _ => []
  | fuel + 1, n =>
    let k := min (128 - va % 128) n
    match s.physOf space va with
    | none => []
    | some (pa, _) => (pa, k) :: s.pieces space (va + k) fuel (n - k)

/-- Bytes of a virtual range, as coherent reads see them. -/
def State.readVa (s : State) (space va n : Nat) : List Byte :=
  (s.pieces space va (n / 128 + 2) n).flatMap (fun p => s.readBytes p.1 p.2)

/-- Bytes written coherently to a virtual range, piece by piece. -/
def State.writePieces (s : State) (fn : Nat) : List (Nat × Nat) → List Byte → State
  | [], _ => s
  | (pa, k) :: ps, bs => (s.writePiece fn pa k (leNat (bs.take k))).writePieces fn ps (bs.drop k)

def State.writeVa (s : State) (space va : Nat) (bs : List Byte) : State :=
  s.writePieces (space / 256) (s.pieces space va (bs.length / 128 + 2) bs.length) bs

end Sys2Proof.Machine
end

