-- ==== Sys2Proof/Machine/Wob.lean ====
section
/-!
DEFINITION. Machine/Wob.lean: the wave-order buffer: chains (R123), admission (R131), the checks at entry (R132, R329), and the
commit of waves (R128).
-/
namespace Sys2Proof.Machine

/-! ### Forms by kind -/

/-- An `atom` form. -/
def isAtom : Instr → Bool
  | .atomAdd _ | .atomMin _ | .atomMax _ | .atomAnd _ | .atomOr _ | .atomXor _ | .atomXchg _ | .atomCas _ | .atomInc _
  | .atomFadd _ => true
  | _ => false

/-- The read-modify-write and ordering operations of R126. -/
def isOrdering : Instr → Bool
  | .stc _ | .fillc _ | .ldc _ | .relc _ | .fence _ _ | .waitl _ | .barwait _ => true
  | i => isAtom i

/-- A form whose store is forwarded from (R127). -/
def isStore : Instr → Bool
  | .st _ | .stRel _ | .stc _ => true
  | _ => false

/-- The write forms of R329. -/
def isWriteForm : Instr → Bool
  | .st _ | .stRel _ | .stc _ | .fillc _ | .relc _ => true
  | i => isAtom i

/-- The counted forms of R161. -/
def isCountedForm : Instr → Bool
  | .stc _ | .fillc _ | .ldc _ | .cntq _ | .relc _ => true
  | _ => false

/-- The forms that reach the scratchpad (R144). -/
def isScratchForm : Instr → Bool
  | .ld _ | .ldAcq _ | .ldnt _ | .st _ | .stRel _ => true
  | i => isAtom i

/-- The I/O forms (R334). -/
def isIo : Instr → Bool
  | .ldIo _ | .stIo _ => true
  | _ => false

/-- Forms whose left port carries an address that is checked at WOB entry (R329); `pref` never faults (R346). -/
def hasAddr : Instr → Bool
  | .memnop _ | .fence _ _ | .barinit _ | .bararr _ | .barwait _ | .pref _ => false
  | i => match i.desc with
    | .m _ => true
    | _ => false

/-- The Format M fields of an operation. -/
def Instr.fmtM? (i : Instr) : Option FmtM :=
  match i.desc with
  | .m d => some d.m
  | _ => none

/-- The Format E fields of an operation. -/
def Instr.fmtE? (i : Instr) : Option FmtE :=
  match i.desc with
  | .e d => some d.e
  | _ => none

/-- The access of a memory operation. -/
def WobOp.acc (op : WobOp) : Sys2Proof.Acc := ((Instr.fmtM? op.instr).map FmtM.acc).getD .n8
/-- Size in bytes of a memory operation. -/
def WobOp.size (op : WobOp) : Nat := op.acc.size

/-- An engine, fabric or Format E system form. -/
def WobOp.isE (op : WobOp) : Bool := (Instr.fmtE? op.instr).isSome

/-- R125: an operation that is never performed: `memnop`, or squashed. -/
def WobOp.orderOnly (op : WobOp) : Bool := op.squashed || op.instr.cls? = some .orderOnly
/-- An early read by class (R125), not squashed. -/
def WobOp.early (op : WobOp) : Bool := !op.squashed && op.instr.cls? = some .earlyRead
/-- A held operation by class (R125), not squashed. -/
def WobOp.held (op : WobOp) : Bool := !op.squashed && op.instr.cls? = some .held
/-- A read-modify-write or ordering operation that is performed (R126). -/
def WobOp.orders (op : WobOp) : Bool := !op.squashed && isOrdering op.instr

/-! ### Chains (R123) -/

def WobOp.pred (op : WobOp) : SeqLink := (op.instr.triple?.map (fun t => t.1)).getD .unknown
def WobOp.own (op : WobOp) : BitVec 6 := (op.instr.triple?.map (fun t => t.2.1)).getD 0
def WobOp.succ (op : WobOp) : SeqLink := (op.instr.triple?.map (fun t => t.2.2)).getD .unknown

/-- R123: X is linked directly before Y. -/
def links (x y : WobOp) : Bool := x.succ = .own y.own || y.pred = .own x.own

/-- The chain from an operation on, over at most n links. -/
def chainFrom (ops : List WobOp) (x : WobOp) : Nat → List WobOp
  | 0 => [x]
  | n + 1 =>
    match ops.find? (fun y => links x y) with
    | none => [x]
    | some y => x :: chainFrom ops y n

/-- The linked chain from the operation with pred `^`. -/
def chainOf (ops : List WobOp) : List WobOp :=
  match ops.find? (fun x => x.pred = .edge) with
  | none => []
  | some x => chainFrom ops x (ops.length - 1)

/-- R123: the chain runs from `^` to `^`. -/
def chainComplete (ops : List WobOp) : Bool :=
  match (chainOf ops).getLast? with
  | none => false
  | some x => x.succ = .edge

/-- R128: complete, with every operation of the wave that has arrived on it. -/
def chainWhole (ops : List WobOp) : Bool := chainComplete ops && (chainOf ops).length = ops.length

/-- The uncommitted operations of a wave in the WOB. -/
def Placement.waveOps (p : Placement) (tag wave : Nat) : List WobOp := p.wob.filter (fun o => o.tag = tag && o.wave = wave)

/-- Operations before one in its wave's chain, where the chain from `^` reaches it. -/
def before? (ops : List WobOp) (op : WobOp) : Option (List WobOp) :=
  let c := chainOf ops
  if c.any (fun x => x.own = op.own) then some (c.takeWhile (fun x => x.own ≠ op.own)) else none

/-- R132: the links an arriving operation makes disagree with its own fields, with a neighbour's, or with a link already made. -/
def contradicts (ops : List WobOp) (z : WobOp) : Bool :=
  ops.any (fun x =>
    (links x z && ((z.pred ≠ .own x.own && z.pred ≠ .unknown) || (x.succ ≠ .own z.own && x.succ ≠ .unknown)
      || ops.any (fun y => y.own ≠ x.own && (links x y || links y z)))) ||
    (links z x && ((z.succ ≠ .own x.own && z.succ ≠ .unknown) || (x.pred ≠ .own z.own && x.pred ≠ .unknown)
      || ops.any (fun y => y.own ≠ x.own && (links y x || links z y)))))

/-! ### Admission (R131) -/

/-- Entries a share holds: uncommitted operations, and committed ones that keep their entries (R128, R331). -/
def Placement.shareOps (p : Placement) (h : Nat) : List WobOp := (p.wob ++ p.queue).filter (fun o => p.home o.tag = h)

/-- Operations that wait at a share's input, oldest first. -/
def State.shareWaiting (s : State) (task pl h : Nat) : List OpMsg :=
  match s.placement? task pl with
  | none => []
  | some p => s.fab.ops.filter (fun m => m.waiting && m.op.task = task && m.op.pl = pl && p.home m.op.tag = h)

/-- An operation of its thread's oldest uncommitted wave. -/
def Placement.isOldest (p : Placement) (op : WobOp) : Bool := op.wave = p.oldest op.tag

/-- Whether an unreserved entry is open. -/
def Placement.openEntry (p : Placement) (h : Nat) : Bool := ((p.shareOps h).filter (fun o => !o.reserved)).length < 64

/-- Whether the reserve is open to an operation (R131): its thread holds the reserve for that wave, or no thread does. -/
def Placement.openReserve (p : Placement) (h : Nat) (op : WobOp) : Bool :=
  p.isOldest op && ((p.shareOps h).filter WobOp.reserved).length < 64 &&
    match tget p.holders h with
    | none => true
    | some hold => hold = (op.tag, op.wave)

/-! ### Checks at entry (R329) -/

/-- The security window of I/O space (R334). -/
def inSecurity (a : Nat) : Bool := 0xFF0000000 ≤ a && a ≤ 0xFFFFFFFFF

/-- R144: the range and form rules of a scratch-window access. -/
def scratchOk (t : Task) (i : Instr) (ea size : Nat) : Bool :=
  isScratchForm i && ea - scratchBase + size ≤ t.sunits * 16384

/-- Whether an address fails R329's LEASE row or the translation that follows it (R168, R169). -/
def State.leaseFails (s : State) (t : Task) (i : Instr) (ea size : Nat) : Bool :=
  ea ≥ 2 ^ 52 ||
    (if isIo i then false
     else if inScratch ea then !scratchOk t i ea size
     else match s.access t ea (isWriteForm i) with
      | none => true
      | some pa => isCountedForm i && isHost pa)

/-- R329, R222: the first fault of an operation at WOB entry. -/
def State.entryFault (s : State) (t : Task) (op : WobOp) : Option FCode :=
  if op.squashed || !hasAddr op.instr then none
  else if isIo op.instr && inSecurity op.ea then some .priv
  else if op.ea % op.size ≠ 0 then some .align
  else if s.leaseFails t op.instr op.ea op.size then some .lease
  else none

/-- Where an operation's address lies: its physical address, or its offset in the scratch window. -/
def State.placeOp (s : State) (t : Task) (op : WobOp) : WobOp :=
  if !hasAddr op.instr || isIo op.instr then { op with pa := op.ea }
  else if inScratch op.ea then { op with scratch := true, pa := op.ea - scratchBase }
  else match s.physOf t.space op.ea with
    | none => op
    | some (pa, _) => { op with pa := pa, host := isHost pa }

/-! ### Entry -/

/-- R132: an operation that may not enter: its wave has committed, its own number is present, a link is contradicted, or the
wave's chain is already complete. -/
def Placement.chkAtEntry (p : Placement) (op : WobOp) : Bool :=
  let ops := p.waveOps op.tag op.wave
  waveCommitted op.wave (p.oldest op.tag) || ops.any (fun o => o.own = op.own) || contradicts ops op || chainComplete ops

/-- The operation entered, and R132's last case looked for: the chain is now complete with an operation off it, whose fault it is (log entry
12). -/
def State.enterWob (s : State) (op : WobOp) : State :=
  let s := s.modPlacement op.task op.pl (fun p => { p with wob := p.wob ++ [op] })
  match s.placement? op.task op.pl with
  | none => s
  | some p =>
    let ops := p.waveOps op.tag op.wave
    if chainComplete ops && !chainWhole ops then
      match ops.find? (fun o => !(chainOf ops).any (fun c => c.own = o.own)) with
      | some off => s.faultOp off .beforeCommit .chk 0 0 off.own.toNat
      | none => s
    else s

/-- An operation whose address is translated as it enters: an access outside every lease, or misaligned, ends before it (R169, R329). -/
def WobOp.translated (op : WobOp) : Bool :=
  hasAddr op.instr && !op.squashed && !isIo op.instr && !inScratch op.ea && op.ea % op.size = 0

/-- An operation admitted to its share (R131): checked by R132 and R329, translated, and entered. CHK is looked for first
(DEDUCED, log entry 12). -/
def State.admitOp (s : State) (op : WobOp) (reserved : Bool) : State :=
  match s.placement? op.task op.pl, s.task? op.task with
  | some p, some t =>
    let s := if reserved then s.setPlacement { p with holders := tput p.holders (p.home op.tag) (op.tag, op.wave) } else s
    let op := { op with seq := s.seqCtr, reserved := reserved }
    let s := s.bump
    if p.chkAtEntry op then s.faultOp op .beforeCommit .chk 0 0 op.own.toNat
    else
      let s' := if op.translated && t.leased op.ea false then s.tlbUse (p.homeCluster op.tag) op.task t.space op.ea else s
      match s'.entryFault t op with
      | some code => s'.faultOp op .beforeCommit code 0 op.ea
      | none => s'.enterWob (s'.placeOp t op)
  | _, _ => s

/-- The message at the head of this event, if it may arrive now. -/
def State.arrivingOp (s : State) : Option OpMsg :=
  match s.fab.ops[s.subject]? with
  | some m => if m.earliest ≤ s.clock.cycle && !m.waiting && (s.placement? m.op.task m.op.pl).isSome then some m else none
  | none => none

/-- A message taken off the way to its share. -/
def State.dropOp (s : State) (n : Nat) : State := { s with fab := { s.fab with ops := dropAt s.fab.ops n } }

/-- `CHAIN_OPERATION_ARRIVAL` (R125, R131): the operation `subject` reaches its home share. It enters where an entry is open to
it, and otherwise waits at the share's input, which stalls. -/
def execChainOperationArrival (s : State) : Out :=
  s.inCycle "CHAIN_OPERATION_ARRIVAL" <| match s.arrivingOp with
  | none => notEnabled
  | some m =>
    match s.placement? m.op.task m.op.pl with
    | none => notEnabled
    | some p =>
      let h := p.home m.op.tag
      let waiting := s.shareWaiting m.op.task m.op.pl h
      if waiting.isEmpty && p.openEntry h then .next ((s.dropOp s.subject).admitOp m.op false)
      else if p.openReserve h m.op && !waiting.any (fun w => p.isOldest w.op) then .next ((s.dropOp s.subject).admitOp m.op true)
      else .next { s.bump with fab := { s.fab with ops := setAt s.fab.ops s.subject { m with waiting := true, seq := s.seqCtr } } }
where
  notEnabled : Out := .refused (.notEnabled "CHAIN_OPERATION_ARRIVAL")

/-- Whether a waiting operation may be admitted, and whether into the reserve (R131): the oldest that waits takes an unreserved
entry; of those in their thread's oldest wave, the one that has waited longest becomes the reserve holder. -/
def State.admitKind (s : State) (m : OpMsg) : Option Bool :=
  match s.placement? m.op.task m.op.pl with
  | none => none
  | some p =>
    let h := p.home m.op.tag
    let ws := s.shareWaiting m.op.task m.op.pl h
    if p.openEntry h && ws.all (fun w => m.seq ≤ w.seq) then some false
    else if p.openReserve h m.op && ws.all (fun w => !(p.isOldest w.op && p.openReserve h w.op) || m.seq ≤ w.seq) then some true
    else none

/-- `WOB_ENTRY_ADMIT` (R131): the waiting operation `subject` gets an entry. -/
def execWobEntryAdmit (s : State) : Out :=
  s.inCycle "WOB_ENTRY_ADMIT" <| match s.fab.ops[s.subject]? with
  | none => .refused (.notEnabled "WOB_ENTRY_ADMIT")
  | some m =>
    if m.waiting then
      match s.admitKind m with
      | some r => .next ((s.dropOp s.subject).admitOp m.op r)
      | none => .refused (.notEnabled "WOB_ENTRY_ADMIT")
    else .refused (.notEnabled "WOB_ENTRY_ADMIT")

/-! ### Commit (R128) -/

/-- An operation on I/O space that is performed. -/
def WobOp.io (op : WobOp) : Bool := !op.squashed && isIo op.instr

/-- An early read performed at commit, as held (R126): one that follows a read-modify-write or ordering operation or a `st.io` (R331), an `ld.io`
that follows a held operation of its wave, and any read after such an `ld.io` (R193). -/
def treatedHeld (bef : List WobOp) (op : WobOp) : Bool :=
  bef.any (fun o => o.orders || (o.held && o.io))
    || (bef.dropWhile (fun o => !o.held)).any (fun o => o.early && o.io) || (op.io && bef.any WobOp.held)

/-- The operations of a wave that go on past its commit, in chain order: held ones, and early reads treated as held. -/
def heldOf (chain : List WobOp) : List WobOp :=
  (List.range chain.length).filterMap (fun k =>
    match chain[k]? with
    | none => none
    | some op => if op.held || (op.early && treatedHeld (chain.take k) op) then some op else none)

/-- Early reads of a wave that are performed before its commit. -/
def earlyOf (chain : List WobOp) : List WobOp :=
  (List.range chain.length).filterMap (fun k =>
    match chain[k]? with
    | none => none
    | some op => if op.early && !treatedHeld (chain.take k) op then some op else none)

/-- Whether a debugger's step lets only one wave commit (R230). -/
def State.stepAllows (s : State) (task pl tag wave : Nat) : Bool :=
  if s.obs.dbg.attached = some task then
    match s.obs.dbg.stepping with
    | none => true
    | some (spl, stag, swave) => spl = pl && stag = tag && swave = wave
  else true

/-- R128: whether a thread's oldest uncommitted wave can commit. A fault pending on it or on an older wave blocks it; one on a
younger wave does not (DEDUCED from R133, log entry 13). -/
def State.commitOk (s : State) (task pl tag : Nat) : Bool :=
  match s.placement? task pl with
  | none => false
  | some p =>
    match p.thread? tag with
    | none => false
    | some t =>
      let ops := p.waveOps tag t.oldest
      !p.frozen && !t.stopped && !t.faults.any (fun f => faultLands t.oldest f) && chainWhole ops
        && (earlyOf (chainOf ops)).all (fun o => o.st = .replied) && s.stepAllows task pl tag t.oldest

/-- The first of some tags in the round that follows a tag (R140). -/
def roundFirst (last : Nat) (tags : List Nat) : Option Nat := minBy (fun t => (t + 16383 - last % 16384) % 16384) tags

/-- The threads of a share with a committable wave (R140). -/
def State.committable (s : State) (p : Placement) (h : Nat) : List Nat :=
  (p.threads.map Prod.fst).filter (fun t => p.home t = h && s.commitOk p.task p.idx t)

/-- Whether a thread is the next that its share commits for: the WOB serves threads with a committable wave round-robin (R140). -/
def State.commitTurn (s : State) (task pl tag : Nat) : Bool :=
  match s.placement? task pl with
  | none => false
  | some p => decide (roundFirst (tgetD p.turns (p.home tag) 16383) (s.committable p (p.home tag)) = some tag)

/-- The held operations of a committing wave, as they join the queue of committed operations; each carries its thread's work
identifier, which a command may draw from (R207). -/
def toQueue (t : Thread) (chain : List WobOp) : List WobOp :=
  (heldOf chain).map (fun o => { o with st := .committed, serial := t.serial, value := t.work })

/-- A wave's commit (R128): its held operations join the committed ones in chain order, its other entries are freed, and the
thread's oldest uncommitted wave advances, wrapping at 2^24 (R130). The share's reserve is given back (R131). -/
def Placement.commit (p : Placement) (tag : Nat) : Placement :=
  match p.thread? tag with
  | none => p
  | some t =>
    let chain := chainOf (p.waveOps tag t.oldest)
    let h := p.home tag
    { p.modThread tag (fun t => { t with oldest := (t.oldest + 1) % 2 ^ 24 }) with
      wob := p.wob.filter (fun o => !(o.tag = tag && o.wave = t.oldest))
      queue := p.queue ++ toQueue t chain
      turns := tput p.turns h tag
      holders := if tget p.holders h = some (tag, t.oldest) then tdel p.holders h else p.holders }

/-- The static wave id of a wave: that of its operations' slots (R252). -/
def State.waveSwid (s : State) (ops : List WobOp) : Nat :=
  match ops with
  | [] => 0
  | o :: _ => (s.slotInfo (s.opSeat o).1 o.velem o.slot).2

/-- A debug breakpoint that a committing wave meets (R229): `HF_BRK`b of PF BAR0. -/
def State.brkHits (s : State) (swid tag : Nat) : Bool :=
  (List.range 4).any (fun b =>
    let r := s.reg 0 (0x340 + 8 * b)
    bits r 63 63 = 1 && bits r 47 32 = swid && tag &&& bits r 13 0 = bits r 29 16 &&& bits r 13 0)

/-- A placement of a stopped task commits, admits, binds, spawns and launches nothing (R229). -/
def Placement.freezeFor (task : Nat) (p : Placement) : Placement :=
  if p.task = task then { p with frozen := true } else p

/-- A step that a stop ends: the stepped wave's spawned tokens and engine commands stay held until RESUME, unless `STEPENG` is 1 (R230, R284). -/
def State.endStep (s : State) : State :=
  let d := s.obs.dbg
  let waves := match d.stepping with
    | some w => if bits (s.reg 0 0x308) 2 2 = 0 && !d.steppedWaves.contains w then d.steppedWaves ++ [w] else d.steppedWaves
    | none => d.steppedWaves
  { s with obs := { s.obs with dbg := { d with stepping := none, steppedWaves := waves } } }

/-- R229: a stop of the attached task: every placement freezes, the task enters HELD, cause and static wave id are recorded, and
the vector is raised. A fault already recorded keeps precedence. -/
def State.debugStop (s : State) (task cause swid : Nat) (tag wave pl pf : Nat) : State :=
  let frozen := s.fab.placements.map (Prod.map id (Placement.freezeFor task))
  let s := { s with fab := { s.fab with placements := frozen } }
  let s := s.modTask task (fun t => { t with st := .held, stateSince := s.clock.ns })
  let keep := s.reg 0 0x318 &&& 0x18
  let s := s.setReg 0 0x318 (keep ||| BitVec.ofNat 64 (4 + 2 ^ 16 * cause + 2 ^ 32 * swid))
  let s := s.traceStop task swid tag wave 0 0 0 pl pf cause 0
  let vec := bits (s.reg 0 0x308) 39 32
  let s := if vec = 0 then s else s.raiseVec 0 vec
  s.endStep.gangStop task

/-- Whether an attached task can be stopped (R228). -/
def State.debuggable (s : State) (task : Nat) : Bool :=
  s.obs.dbg.attached = some task && ((s.task? task).map Task.dbg).getD false

/-- What a commit stops for (R229, R230), by order of cause: breakpoint, `brk`, step done. -/
def State.stopCause (s : State) (task tag : Nat) (ops : List WobOp) : Option Nat :=
  if !s.debuggable task then none
  else if s.brkHits (s.waveSwid ops) tag then some 2
  else if ops.any (fun o => !o.squashed && match o.instr with | .brk _ => true | _ => false) then some 3
  else if s.obs.dbg.stepping.isSome then some 4
  else none

/-- The engine commands of a stepped wave are held unless `STEPENG` is 1 (R230). -/
def State.noteStep (s : State) (task pl tag wave : Nat) : State :=
  if s.obs.dbg.attached = some task && s.obs.dbg.stepping.isSome && bits (s.reg 0 0x308) 2 2 = 0 then
    { s with obs := { s.obs with dbg := { s.obs.dbg with steppedWaves := s.obs.dbg.steppedWaves ++ [(pl, tag, wave)] } } }
  else s

/-- `WAVE_COMMIT` (R128): the oldest uncommitted wave of a thread commits; a fault that waited for it lands (R133), and a debug
stop comes about (R229). -/
def execWaveCommit (task pl : Nat) (tag : Tag) (s : State) : Out :=
  s.inCycle "WAVE_COMMIT" <| match s.commitOk task pl tag.toNat && s.commitTurn task pl tag.toNat, s.placement? task pl with
  | true, some p =>
    let w := p.oldest tag.toNat
    let ops := p.waveOps tag.toNat w
    let cause := s.stopCause task tag.toNat ops
    let s := s.noteStep task pl tag.toNat w
    let s := s.setPlacement (p.commit tag.toNat)
    let s := s.countEvent (p.homeCluster tag.toNat) task 0x09 1
    let s := s.landIfDue task pl tag.toNat
    match cause with
    | some c => .next (s.debugStop task c (s.waveSwid ops) tag.toNat w pl (p.homePf tag.toNat))
    | none => .next s
  | _, _ => .refused (.notEnabled "WAVE_COMMIT")

end Sys2Proof.Machine
end

