-- ==== Sys2Proof/Machine/Reads.lean ====
section
/-!
DEFINITION. Machine/Reads.lean: the L1s (R142, R423), snapshots and thread hashes of writes (R245, R247), early reads (R126, R127,
R332), and the replies and acknowledgements that reach a WOB (R128, R138, R330).
-/
namespace Sys2Proof.Machine

/-! ### L1 placement and replacement (R423) -/

/-- A placement's frets in a cluster, by their number in the cluster. -/
def Placement.waysIn (p : Placement) (cluster : Nat) : List Nat :=
  sortBy id ((p.map.map Prod.snd).filterMap (fun pf => if clusterOf pf = cluster then some (pf % 8) else none))

/-- The task whose placement's ways hold an L1 line (R239). -/
def State.wayTask (s : State) (x : L1Line) : Nat :=
  match (s.fret (8 * x.cluster + x.way / 2)).owner with
  | some (key, _) => key / 64
  | none => 0

/-- An L1 copy evicted: a dirty line is written back, a clean one is noticed to the home (R142, R152). -/
def State.evictL1 (s : State) (x : L1Line) : State :=
  let s := if x.st = .m then s.countEvent x.cluster (s.wayTask x) 0x08 1 else s
  let msg := if x.st = .m then CohMsg.writeBack x.line x.cluster x.data else .evict x.line x.cluster
  let m := s.mem.dropL1At x.cluster x.line
  { s with mem := { m with msgs := m.msgs ++ [msg] } }

/-- The lines of a set of a cluster's L1 (R423: bits [12:7]). -/
def Mem.l1Set (m : Mem) (cluster line : Nat) : List L1Line :=
  m.l1.filter (fun x => x.cluster = cluster && x.line % 64 = line % 64)

/-- The way that a placement with these frets of the cluster allocates, and the line evicted from it (R423). -/
def Mem.l1Way (m : Mem) (cluster : Nat) (frets : List Nat) (line : Nat) : Nat × Option L1Line :=
  let set := m.l1Set cluster line
  match (frets.flatMap (fun f => [2 * f, 2 * f + 1])).find? (fun w => !set.any (fun x => x.way = w)) with
  | some w => (w, none)
  | none =>
    let pair := fun f => set.filter (fun x => x.way / 2 = f)
    match minBy (fun f => (pair f).foldl (fun u x => max u x.used) 0) frets with
    | none => (0, none)
    | some f =>
      match minBy L1Line.used (pair f) with
      | none => (2 * f, none)
      | some x => (x.way, some x)

/-- A line filled into a placement's ways (R142, R423); a copy that is there already keeps its way. -/
def State.fillL1 (s : State) (p : Placement) (cluster line : Nat) (st : L1St) (data : Line) : State :=
  match s.mem.l1At cluster line with
  | some x =>
    { s.bump with mem := { s.mem.dropL1At cluster line with
        l1 := { x with st := st, data := data, used := s.seqCtr } :: (s.mem.dropL1At cluster line).l1 } }
  | none =>
    let (w, out) := s.mem.l1Way cluster (p.waysIn cluster) line
    let s := match out with
      | some x => s.evictL1 x
      | none => s
    { s.bump with mem := { s.mem with l1 := ⟨cluster, line, st, data, w, s.seqCtr, isHost (128 * line)⟩ :: s.mem.l1 } }

/-- The copy that a placement hits: one in its own ways (R142). -/
def State.l1Hit (s : State) (p : Placement) (cluster line : Nat) : Option L1Line :=
  match s.mem.l1At cluster line with
  | some x => if (p.waysIn cluster).any (fun f => f = x.way / 2) then some x else none
  | none => none

/-- A copy in another placement's ways evicted before a miss goes out (R142). -/
def State.clearOthers (s : State) (cluster line : Nat) : State :=
  match s.mem.l1At cluster line with
  | some x => s.evictL1 x
  | none => s

/-- A use of an L1 copy (R423). -/
def State.touchL1 (s : State) (x : L1Line) : State :=
  { s.bump with mem := { s.mem with
      l1 := s.mem.l1.map (fun (y : L1Line) => if y.cluster = x.cluster && y.line = x.line then { y with used := s.seqCtr } else y) } }

/-! ### Writes that are measured or compared -/

/-- R245: a page not yet copied is copied to the next free slot before its first write; with no free slot the pass is the last. -/
def Meas.take (g : Meas) (page : Nat) : Meas :=
  if g.snapFull || g.pages.any (fun q => q.1 = page) then g
  else if g.pages.length < g.snapsz then { g with pages := g.pages ++ [(page, g.snap + 4096 * g.pages.length)] }
  else { g with snapFull := true }

/-- A measured launch of a task that snapshots. -/
def State.snapshotting (s : State) (task : Nat) : Option Meas :=
  s.obs.meas.find? (fun g => g.task = task && g.restore && !g.refused)

/-- R245: the first write of a measured task to a page of device memory is preceded by a snapshot of the page. -/
def State.snapshot (s : State) (task pa : Nat) : State :=
  if isHost pa then s
  else
    match s.snapshotting task with
    | none => s
    | some g =>
      let g' := g.take (pa / 4096)
      let put := fun (x : Meas) => if x.task = task then g' else x
      let s' := { s with obs := { s.obs with meas := s.obs.meas.map put } }
      if g'.pages.length = g.pages.length then s'
      else s'.writeBytes 0 (g.snap + 4096 * g.pages.length) (s.readBytes (pa / 4096 * 4096) 4096)

/-- F of R247: the last three lines of R207. -/
def hashF (v : Nat) : Word := mix64 (BitVec.ofNat 64 v)

/-- One write added to a thread's hash (R247). -/
def hashWrite (h : Word) (va size data : Nat) : Word :=
  hashF ((hashF ((h ^^^ hashF (va + 2 ^ 56 * size)).toNat)) ^^^ BitVec.ofNat 64 data).toNat

/-- A write of a thread hashed (R247), for the thread that issued it, and still where that has ended. -/
def State.noteWrite (s : State) (op : WobOp) (data : Nat) : State :=
  let hash := fun (t : Thread) =>
    if t.serial = op.serial then { t with hash := hashWrite t.hash op.ea op.size (data % 2 ^ (8 * op.size)) } else t
  let late := fun (g : Pair) => ({ g with late := g.late.map (Prod.map id hash) } : Pair)
  let s : State := { s with obs := { s.obs with pairs := s.obs.pairs.map late } }
  s.modPlacement op.task op.pl (fun p => p.modThread op.tag hash)

/-! ### Generations at a WOB (R138) -/

/-- The physical home fret of an operation. -/
def State.homePfOf (s : State) (op : WobOp) : Nat := ((s.placement? op.task op.pl).map (fun p => p.homePf op.tag)).getD 0

/-- An operation stamped, at issue, with its home fret's current generation. -/
def State.stampGen (s : State) (op : WobOp) : WobOp := { op with gen := (s.fret (s.homePfOf op)).gen }

/-- R138: a reply whose generation differs from the fret's is accepted only while the fret's window is open. -/
def State.replyAccepted (s : State) (op : WobOp) (gen : Bool) : Bool :=
  (s.placement? op.task op.pl).isSome &&
    (gen = (s.fret (s.homePfOf op)).gen || ((s.fret (s.homePfOf op)).window.map Window.opened).getD false)

/-- Whether a cluster has asked a home for a line and not yet been answered: it asks for a line once at a time (DEDUCED, log
entry 15). -/
def State.asked (s : State) (cluster line : Nat) : Bool :=
  s.mem.reqs.any (fun r => r.cluster = cluster && r.line = line && (r.kind = .read false || r.kind = .write || r.kind = .hlcRead))
    || s.mem.txns.any (fun t => t.req.cluster = cluster && t.line = line && (t.req.kind = .read false || t.req.kind = .write))
    || s.mem.replies.any (fun r => match r.install with
      | some (l, _, _) => l = line && clusterOf (s.homePfOf r.op) = cluster
      | none => false)
    || s.mem.acks.any (fun a => a.install.isSome && a.line = line && clusterOf (s.homePfOf a.op) = cluster)

/-! ### Operations in the WOB by their number -/

def Placement.wobOp? (p : Placement) (seq : Nat) : Option WobOp := p.wob.find? (fun o => o.seq = seq)
def Placement.queueOp? (p : Placement) (seq : Nat) : Option WobOp := p.queue.find? (fun o => o.seq = seq)

/-- An operation's entry replaced, wherever it stands. -/
def Placement.putOp (p : Placement) (op : WobOp) : Placement :=
  let put := fun (o : WobOp) => if o.seq = op.seq then op else o
  { p with wob := p.wob.map put, queue := p.queue.map put }

/-- A committed operation's entry freed. -/
def Placement.freeOp (p : Placement) (seq : Nat) : Placement := { p with queue := p.queue.filter (fun o => o.seq ≠ seq) }

def State.putOp (s : State) (op : WobOp) : State := s.modPlacement op.task op.pl (fun p => p.putOp op)
def State.freeOp (s : State) (op : WobOp) : State := s.modPlacement op.task op.pl (fun p => p.freeOp op.seq)

/-- The cluster that holds an operation's home WOB share. -/
def State.opCluster (s : State) (op : WobOp) : Nat := clusterOf (s.homePfOf op)

/-- An event of R239 counted for an operation, in its home WOB's cluster. -/
def State.countOp (s : State) (op : WobOp) (code : Nat) : State := s.countEvent (s.opCluster op) op.task code 1

/-- An early read that is treated as held (R126) counts as a held operation where it is performed or served (R239). -/
def State.countRead (s : State) (op : WobOp) : State := if op.early && op.st = .issued then s.countOp op 0x0A else s

/-- The answer of a held operation: its result token sent and its entry freed (R330). -/
def State.answerHeld (s : State) (op : WobOp) (data : Word) : State := (s.sendResult op data).freeOp op

/-- A held operation performed and answered at once; the event is counted as it is performed (R239). -/
def State.finishHeld (s : State) (op : WobOp) (data : Word) : State := (s.countOp op 0x0A).answerHeld op data

/-- A fault found as a held operation is performed (R133, second row): its entry is freed. -/
def State.failHeld (s : State) (op : WobOp) (code : FCode) (reason addr : Nat) : State :=
  (s.freeOp op).faultAfter op code reason addr

/-! ### Forwarding (R127) -/

/-- Whether a store writes a byte of an access's place. -/
def WobOp.coversAt (st : WobOp) (scratch : Bool) (a : Nat) : Bool := st.scratch = scratch && st.pa ≤ a && a < st.pa + st.size

/-- The byte of an access that earlier stores supply: the last in chain order that writes it. -/
def fwdByte (stores : List WobOp) (op : WobOp) (k : Nat) : Option (Nat × Byte) :=
  (stores.reverse.find? (fun st => st.coversAt op.scratch (op.pa + k))).map
    (fun st => (k, BitVec.ofNat 8 (st.right.toNat / 2 ^ (8 * (op.pa + k - st.pa)))))

/-- The forms that read bytes and are served by forwarding. -/
def forwards : Instr → Bool
  | .ld _ | .ldAcq _ | .ldnt _ => true
  | _ => false

/-- R127: the bytes that a read takes from earlier stores: those of its thread's committed waves not yet acknowledged, and those
of its own wave before it. -/
def fwdOf (stores : List WobOp) (op : WobOp) : List (Nat × Byte) :=
  if forwards op.instr then
    (List.range op.size).filterMap (fwdByte (stores.filter (fun o => !o.squashed && isStore o.instr)) op)
  else []

/-- The bytes read, with those forwarded in their places. -/
def overlay (raw : Nat) (fwd : List (Nat × Byte)) : Nat :=
  fwd.foldl (fun v q => v - v / 2 ^ (8 * q.1) % 2 ^ 8 * 2 ^ (8 * q.1) + q.2.toNat * 2 ^ (8 * q.1)) raw

/-! ### Reads sent (R332) -/

def State.pushReply (s : State) (op : WobOp) (raw : Nat) (fault : Option (FCode × Nat)) : State :=
  { s with mem := { s.mem with replies := s.mem.replies ++ [⟨op, raw, none, fault, op.gen⟩] } }

/-- A request sent to its home. -/
def State.pushReq (s : State) (kind : ReqKind) (op : WobOp) (line : Nat) : State :=
  { s.bump with mem := { s.mem with reqs := s.mem.reqs ++ [⟨kind, op, s.opCluster op, line, s.seqCtr⟩] } }

/-- A read of host-tier bytes on the uncached path (R66), or its fault (R44, R157); the access is counted (R175). What the PF's host-line cache holds
modified of the line reaches the host first. -/
def State.readUncached (s : State) (t : Task) (op : WobOp) : State :=
  let s := (s.acCountAccess t.fn op.pa).hlcShare (op.pa / 128)
  if s.board.hostLoss then s.pushReply op 0 (some (.hostlink, op.ea))
  else if nsHas s.mem.hostPoison (op.pa / 128) then s.pushReply op 0 (some (.uecc, op.ea / 128 * 128))
  else (s.countRead op).pushReply op (s.hostSeen (s.opCluster op) op.pa op.size) none

/-- A read served by the home cluster's L1 or sent on to the home (R142, R332). -/
def State.readCached (s : State) (p : Placement) (op : WobOp) : State :=
  let c := p.homeCluster op.tag
  match s.l1Hit p c (op.pa / 128) with
  | some x =>
    let s := (s.touchL1 x).countOp op 0x06
    if s.poisoned (op.pa / 128) then s.pushReply op 0 (some (.uecc, op.ea / 128 * 128))
    else (s.countRead op).pushReply op (lineRead x.data (op.pa % 128) op.size) none
  | none =>
    let s := s.countOp op 0x07
    let nt := match op.instr with | .ldnt _ => true | _ => false
    (s.clearOthers c (op.pa / 128)).pushReq (if op.host then .hlcRead else .read nt) op (op.pa / 128)

/-- A read performed: sent to whatever serves it, or answered at once where a store of the thread, the scratchpad, an I/O
register or the L1 serves it (R127, R144, R332, R334). -/
def State.performRead (s : State) (t : Task) (p : Placement) (op : WobOp) : State :=
  match op.instr with
  | .ldIo _ => (s.countRead op).pushReply op (s.ioRead op.ea).toNat none
  | .cntq _ => s.pushReq .atHome op (op.pa / 128)
  | _ =>
    if op.fwd.length = op.size then ((s.countRead op).countOp op 0x0C).pushReply op 0 none
    else if op.scratch then
      (s.countRead op).pushReply op (leNat (memBytes (s.fret (p.homePf op.tag)).scratch op.pa op.size)) none
    else if op.host && !s.usesHlc t.fn then s.readUncached t op
    else s.readCached p op

/-- Whether the one-request rule lets a read go out now. -/
def State.readMayGo (s : State) (t : Task) (p : Placement) (op : WobOp) : Bool :=
  !(forwards op.instr) || op.scratch || (op.host && !s.usesHlc t.fn) || !s.asked (p.homeCluster op.tag) (op.pa / 128)

/-! ### What holds a thread's later accesses back (R331) -/

/-- A committed operation, not yet done, that holds back every later access: read-modify-writes, acquire and full fences, waits,
`st.io`, and early reads treated as held (R126). -/
def holdsBackAll (op : WobOp) : Bool :=
  op.early ||
    match op.instr with
    | .stIo _ | .ldc _ | .stc _ | .fillc _ | .relc _ | .waitl _ | .barwait _ => true
    | .fence k _ => k ≠ .release
    | i => isAtom i

/-- A memory access that a release waits for (R345): engine writes and prefetches are not waited for. -/
def WobOp.access (op : WobOp) : Bool :=
  op.early ||
    match op.instr with
    | .st _ | .stRel _ | .stIo _ | .ldc _ | .stc _ | .fillc _ | .relc _ | .flush _ => true
    | i => isAtom i

/-- The committed operations of a thread, in chain order across waves. -/
def Placement.queueOf (p : Placement) (serial : Nat) : List WobOp := p.queue.filter (fun o => o.serial = serial)

/-! ### `EARLY_READ_PERFORM` -/

/-- Two accesses to a byte in common. -/
def WobOp.overlaps (a b : WobOp) : Bool :=
  hasAddr a.instr && hasAddr b.instr && a.scratch = b.scratch && a.pa < b.pa + b.size && b.pa < a.pa + a.size

/-- The reads of a chain's prefix that must have their replies before a read: those of earlier load runs, every `ld.acq`, every read of the same
location (R179, R181), and, for the order of `ld.io` in its run, all of them before an `ld.io` and every `ld.io` before another read (R126,
R182, R333). -/
def mustReply (bef : List WobOp) (op : WobOp) : List WobOp :=
  let run := (bef.reverse.takeWhile WobOp.early).reverse
  let older := (bef.take (bef.length - run.length)).filter WobOp.early
  older ++ run.filter (fun o => isIo op.instr || isIo o.instr || o.overlaps op || match o.instr with | .ldAcq _ => true | _ => false)

/-- The early read that this event names, with the operations before it in its chain, where R126, R182, R193 and R331 let it be
performed now. -/
def State.earlyReady (s : State) (task pl tag : Nat) (own : BitVec 6) : Option (Task × Placement × WobOp × List WobOp) :=
  match s.task? task, s.placement? task pl with
  | some t, some p =>
    match p.thread? tag with
    | none => none
    | some th =>
      let ops := p.waveOps tag th.oldest
      match ops.find? (fun o => o.own = own) with
      | none => none
      | some op =>
        match before? ops op with
        | none => none
        | some bef =>
          if op.early && op.st = .entered && !p.frozen && !th.stopped && !treatedHeld bef op
              && (mustReply bef op).all (fun o => o.st = .replied) && !(p.queueOf th.serial).any holdsBackAll
              && !(isIo op.instr && (p.queueOf th.serial).any WobOp.access)
              && s.readMayGo t p op then some (t, p, { op with serial := th.serial }, bef)
          else none
  | _, _ => none

/-- `EARLY_READ_PERFORM` (R126, R127, R332). -/
def execEarlyReadPerform (task pl : Nat) (tag : Tag) (own : BitVec 6) (s : State) : Out :=
  s.inCycle "EARLY_READ_PERFORM" <| match s.earlyReady task pl tag.toNat own with
  | none => .refused (.notEnabled "EARLY_READ_PERFORM")
  | some (t, p, op, bef) =>
    let op := s.stampGen { op with st := .sent, fwd := fwdOf (p.queueOf op.serial ++ bef) op }
    .next ((s.putOp op).performRead t p op)

/-! ### `READ_REPLY` -/

/-- The result word of a read, from the bytes that its reply carries (R330, R337). -/
def readResult (op : WobOp) (raw : Nat) : Word :=
  if forwards op.instr || isAtom op.instr then op.acc.extend (overlay raw op.fwd)
  else match op.instr with
    | .ldc _ => op.acc.extend raw
    | _ => BitVec.ofNat 64 raw

/-- The line that a reply carries is filled (R142). -/
def State.installReply (s : State) (op : WobOp) : Option (Nat × L1St × Line) → State
  | none => s
  | some (line, st, d) =>
    match s.placement? op.task op.pl with
    | none => s
    | some p => s.fillL1 p (p.homeCluster op.tag) line st d

/-- A reply taken by an early read that still waits for it: its tokens are sent, or its fault is found before commit. -/
def State.replyEarly (s : State) (op : WobOp) (r : Reply) : State :=
  match r.fault with
  | some (code, addr) => s.faultOp op .beforeCommit code 0 addr
  | none => (s.putOp { op with st := .replied }).sendResult op (readResult op r.raw)

/-- A reply taken by a committed operation, which was performed and counted where it was served (R239). -/
def State.replyHeld (s : State) (op : WobOp) (r : Reply) : State :=
  match r.fault with
  | some (code, addr) => s.failHeld op code 0 addr
  | none => s.answerHeld op (readResult op r.raw)

/-- A reply delivered to its WOB entry; one whose entry is gone is dropped (R133). -/
def State.deliverReply (s : State) (r : Reply) : State :=
  match s.placement? r.op.task r.op.pl with
  | none => s
  | some p =>
    match p.wobOp? r.op.seq, p.queueOp? r.op.seq with
    | some op, _ => s.replyEarly op r
    | none, some op => s.replyHeld op r
    | none, none => s

/-- `READ_REPLY` (R330, R138): the reply `subject` reaches its WOB. -/
def execReadReply (s : State) : Out :=
  s.inCycle "READ_REPLY" <| match s.mem.replies[s.subject]? with
  | none => .refused (.notEnabled "READ_REPLY")
  | some r =>
    let s := { s with mem := { s.mem with replies := dropAt s.mem.replies s.subject } }
    let s := s.installReply r.op r.install
    .next (if s.replyAccepted r.op r.gen then s.deliverReply r else s)

/-! ### `STORE_ACK` -/

/-- The line that an acknowledgement grants is filled in M with the store's bytes merged (R152, R332); a store that outlives its killed
placement is performed at the home (R100). -/
def State.installAck (s : State) (a : Ack) : State :=
  match a.install, s.placement? a.op.task a.op.pl with
  | some d, some p =>
    s.fillL1 p (p.homeCluster a.op.tag) a.line .m (lineWrite d (a.op.pa % 128) a.op.size a.op.right.toNat)
  | some _, none => { s.bump with mem := s.mem.homeWrite a.line (a.op.pa % 128) a.op.size a.op.right.toNat s.seqCtr }
  | none, _ => s

/-- An acknowledged store that was posted is seen by every cluster, and what was posted before it of its wave or to its bytes too (R66, R180). -/
def Mem.settlePost (m : Mem) (op : WobOp) : Mem := m.settlePosts (fun x => x.seq = op.seq)

/-- `STORE_ACK` (R128): the acknowledgement `subject` reaches its WOB; the store's entry is freed and its token sent. A line that is granted is
written by the store only now, which performs it (R239). -/
def execStoreAck (s : State) : Out :=
  s.inCycle "STORE_ACK" <| match s.mem.acks[s.subject]? with
  | none => .refused (.notEnabled "STORE_ACK")
  | some a =>
    let s := ({ s with mem := { s.mem with acks := dropAt s.mem.acks s.subject }.settlePost a.op } : State).installAck a
    if s.replyAccepted a.op a.op.gen then
      match a.fault with
      | some (code, addr) => .next (s.failHeld a.op code 0 addr)
      | none => .next ((if a.install.isSome then s.countOp a.op 0x0A else s).answerHeld a.op 0)
    else .next s

end Sys2Proof.Machine
end

