-- ==== Sys2Proof/Machine/Homes.lean ====
section
/-!
DEFINITION. Machine/Homes.lean: the home slices (R151 to R154), accesses performed at the home (R156, R341 to R343, R347, R348),
counted lines (R162 to R166), and the host-line cache (R155).
-/
namespace Sys2Proof.Machine

/-! ### Requests at a home -/

/-- The request `n`, where its home may serve it now: it is its line's oldest, the line has no transaction outstanding, and
nothing that the same cluster sent before it is still on the way (R152, R110). -/
def State.servable (s : State) (n : Nat) : Option Req :=
  match s.mem.reqs[n]? with
  | none => none
  | some r =>
    if !(s.mem.reqs.take n).any (fun q => q.line = r.line) && !s.mem.txns.any (fun t => t.line = r.line)
        && s.mem.victimSettled r.line
        && !s.mem.msgs.any (fun m => match m with
          | .evict l c | .writeBack l c _ => l = r.line && c = r.cluster
          | _ => false) then some r
    else none

/-- A request taken off its home's input. -/
def State.takeReq (s : State) (r : Req) : State :=
  { s with mem := { s.mem with reqs := s.mem.reqs.filter (fun q => q.seq ≠ r.seq) } }

def State.pushAck (s : State) (op : WobOp) (line : Nat) (install : Option Line) (fault : Option (FCode × Nat)) : State :=
  { s with mem := { s.mem with acks := s.mem.acks ++ [⟨op, line, install, fault⟩] } }

def Mem.dirOf (m : Mem) (line : Nat) : Dir := ((tget m.l2 line).map L2Line.dir).getD .i
def Mem.setDir (m : Mem) (line : Nat) (d : Dir) : Mem := { m with l2 := tmod m.l2 line (fun x => { x with dir := d }) }
def Mem.l2Data (m : Mem) (line : Nat) : Line := ((tget m.l2 line).map L2Line.data).getD (m.below line)
def State.setDir (s : State) (line : Nat) (d : Dir) : State := { s with mem := s.mem.setDir line d }

/-- Clusters that receive an invalidation or recall: every pointer, or every cluster of every marked group (R152). -/
def Dir.targets : Dir → List Nat
  | .i => []
  | .sp ps => ps
  | .sc gs => gs.flatMap (fun g => (List.range 8).map (· + 8 * g.1))
  | .e y => [y]

/-- A transaction begun: the messages sent, and as many acknowledgements awaited (R152). -/
def State.beginTxn (s : State) (r : Req) (targets : List Nat) (mk : Nat → Nat → Nat → CohMsg) : State :=
  let id := s.seqCtr
  let s := (s.takeReq r).bump
  { s with mem := { s.mem with
      txns := s.mem.txns ++ [⟨id, r.line, r, targets.length⟩]
      msgs := s.mem.msgs ++ targets.map (mk id r.line) } }

/-- Copies invalidated in the clusters given; an owner is recalled (R152). -/
def State.beginInval (s : State) (r : Req) (targets : List Nat) : State :=
  match s.mem.dirOf r.line with
  | .e _ => s.beginTxn r targets .recall
  | _ => s.beginTxn r targets .inval

/-! ### Read misses (R152) -/

/-- The directory with a sharer added. -/
def Dir.share (x : Nat) : Dir → Dir
  | .i => .sp [x]
  | .sp ps =>
    if ps.any (fun p => p = x) then .sp ps
    else if ps.length < 4 then .sp (ps ++ [x])
    else .sc ((ps ++ [x]).foldl (fun t p => nsAdd t (p / 8)) [])
  | .sc gs => .sc (nsAdd gs (x / 8))
  | .e y => .sp [y, x]

/-- Data sent to a reader, with the line to fill in the state given, or none for a read that allocates in no L1. -/
def State.sendData (s : State) (r : Req) (install : Option L1St) : State :=
  let d := s.mem.l2Data r.line
  let rep : Reply := ⟨r.op, lineRead d (r.op.pa % 128) r.op.size, install.map (fun st => (r.line, st, d)), none, r.op.gen⟩
  let s := s.countRead r.op
  { s with mem := { s.mem with replies := s.mem.replies ++ [rep] } }

/-- A read miss served without a forward. In I the reader gets E; a line under migration, or one that the host holds, is only given in S (R173,
R19). -/
def State.readShared (s : State) (r : Req) (nt : Bool) : State :=
  let fresh := (tget s.mem.l2 r.line).isNone
  let s := { s.bump with mem := (s.mem.fetchHdm r.line).ensureL2 r.line (if nt && fresh then 0 else s.seqCtr) }
  if nt then s.sendData r none
  else match s.mem.dirOf r.line, (s.mem.migAt (128 * r.line)).isSome || nsHas s.mem.hdm r.line with
    | .i, false => (s.setDir r.line (.e r.cluster)).sendData r (some .e)
    | d, _ => (s.setDir r.line (d.share r.cluster)).sendData r (some .s)

/-- A read reply that is a fault. -/
def State.readFault (s : State) (r : Req) (code : FCode) (addr : Nat) : State := s.pushReply r.op 0 (some (code, addr))

/-- Address that UECC records: the line's (R220). -/
def WobOp.lineVa (op : WobOp) : Nat := op.ea / 128 * 128

/-- A read miss at the home (R152, R165, R157, R158). -/
def State.serveRead (s : State) (r : Req) (nt : Bool) : State :=
  let s := if s.mem.isSpent r.line then s else s.readLines [r.line]
  if s.mem.isSpent r.line then (s.takeReq r).readFault r .overread r.op.ea
  else if s.poisoned r.line then (s.takeReq r).readFault r .uecc r.op.lineVa
  else if s.busy r.line then
    ((s.takeReq r).countRead r.op).pushReply r.op (lineRead (s.mem.hbmLine r.line) (r.op.pa % 128) r.op.size) none
  else if s.mem.counted r.line then (s.takeReq r).sendData r none
  else match s.mem.dirOf r.line with
    | .e y => if y = r.cluster then ((s.takeReq r).setDir r.line .i).readShared r nt else s.beginTxn r [y] .forward
    | _ => (s.takeReq r).readShared r nt

/-- `HOME_READ_MISS` (R152): the request `subject` is served. -/
def execHomeReadMiss (s : State) : Out :=
  match s.servable s.subject with
  | some r =>
    match r.kind with
    | .read nt => .next (s.serveRead r nt)
    | _ => .refused (.notEnabled "HOME_READ_MISS")
  | none => .refused (.notEnabled "HOME_READ_MISS")

/-! ### Write misses (R152) -/

/-- A store that is performed at the home and not in an L1: to a counted line (R165), a busy line (R158), a line under migration
(R173), or a line on which a `waitl` is registered (R348). -/
def State.storeAtHome (s : State) (line : Nat) : Bool :=
  s.mem.counted line || s.busy line || (s.mem.migAt (128 * line)).isSome || s.mem.waits.any (fun w => w.place = line)

def State.fnOf (s : State) (op : WobOp) : Nat := ((s.task? op.task).map Task.fn).getD 0

/-- A write miss whose copies are gone: the line is given in M, taken back from the host where that holds it (R19), or the store performed at the
home. A measured task's page is copied first (R245). -/
def State.completeWrite (s : State) (r : Req) : State :=
  let s := s.snapshot r.op.task r.op.pa
  if s.storeAtHome r.line then
    ((s.writePiece (s.fnOf r.op) r.op.pa r.op.size r.op.right.toNat).countOp r.op 0x0A).pushAck r.op r.line none none
  else
    let s := { s.bump with mem := ((s.mem.backInvalidate r.line).ensureL2 r.line s.seqCtr).setDir r.line (.e r.cluster) }
    s.pushAck r.op r.line (some (s.mem.l2Data r.line)) none

/-- A write miss or upgrade at the home (R152): copies of the others are invalidated, the owner's recalled; a store performed at
the home invalidates the requester's own copy too. -/
def State.serveWrite (s : State) (r : Req) : State :=
  if s.mem.isSpent r.line then (s.takeReq r).pushAck r.op r.line none (some (.overread, r.op.ea))
  else
    let all := s.storeAtHome r.line
    let targets := match s.mem.dirOf r.line with
      | .e y => [y]
      | d => d.targets.filter (fun c => all || c ≠ r.cluster)
    if targets.isEmpty then (s.takeReq r).completeWrite r else s.beginInval r targets

/-- `HOME_WRITE_MISS` (R152): the request `subject` is served. -/
def execHomeWriteMiss (s : State) : Out :=
  match s.servable s.subject with
  | some r => if r.kind = .write then .next (s.serveWrite r) else .refused (.notEnabled "HOME_WRITE_MISS")
  | none => .refused (.notEnabled "HOME_WRITE_MISS")

/-! ### Atomics (R341, R342) -/

/-- A sum of `fadd`, rounded RNE (R307, R342). -/
def atomFadd (f : Fmt) (old x : Nat) : Nat × Flags :=
  f.finish .rne false 0 (sumVals .rne [f.unpack old, f.unpack x])

/-- The value that an `atom` writes, none where a `cas` does not, and its flags; values are of w bits. -/
def atomNew (op : WobOp) (old : Nat) : Option Nat × Flags :=
  let w := 8 * op.size
  let x := op.right.toNat % 2 ^ w
  let e := op.aux.toNat % 2 ^ w
  let less := fun (a b : Nat) => if op.acc.signed then decide ((BitVec.ofNat w a).toInt < (BitVec.ofNat w b).toInt) else decide (a < b)
  match op.instr with
  | .atomAdd _ => (some ((old + x) % 2 ^ w), Flags.none)
  | .atomMin _ => (some (if less x old then x else old), Flags.none)
  | .atomMax _ => (some (if less old x then x else old), Flags.none)
  | .atomAnd _ => (some (old &&& x), Flags.none)
  | .atomOr _ => (some (old ||| x), Flags.none)
  | .atomXor _ => (some (old ^^^ x), Flags.none)
  | .atomXchg _ => (some x, Flags.none)
  | .atomCas _ => (if old = e then some x else none, Flags.none)
  | .atomInc _ => (some ((old + 1) % 2 ^ w), Flags.none)
  | .atomFadd _ => let (v, fl) := atomFadd (if op.size = 4 then fmtF32 else fmtF64) old x; (some v, fl)
  | _ => (none, Flags.none)

/-- What an `atom` does beside its write: flags when it is performed (R342), its events (R239), and its write hashed (R247). -/
def State.noteAtom (s : State) (op : WobOp) (new : Option Nat) (fl : Flags) : State :=
  let s := ((s.setFlags op.task op.pl fl).countOp op 0x17).countOp op 0x0A
  match new with
  | some v => s.noteWrite op v
  | none => s

/-- An `atom` on an HBM line whose copies are gone (R156). -/
def State.atomHome (s : State) (r : Req) : State :=
  let s := { s with mem := (s.mem.backInvalidate r.line).checkRead r.line }
  if s.poisoned r.line then s.readFault r .uecc r.op.lineVa
  else
    let old := s.readNat r.op.pa r.op.size
    let (new, fl) := atomNew r.op old
    let s := match new with
      | some v => (s.snapshot r.op.task r.op.pa).writePiece (s.fnOf r.op) r.op.pa r.op.size v
      | none => s
    (s.noteAtom r.op new fl).pushReply r.op old none

/-! ### Other accesses performed at the home -/

/-- `flush` of an ordinary HBM line (R347): L2 and memory-side copies are written back to HBM and invalidated. A counted line is
left alone (R165). -/
def State.flushHome (s : State) (r : Req) : State :=
  let s := if s.mem.counted r.line then s else { s with mem := ((s.mem.backInvalidate r.line).evictL2 r.line).mscFlush r.line }
  (s.countOp r.op 0x0A).pushReply r.op 0 none

/-- Registrations held at a slice (R348). -/
def Mem.waitsAt (m : Mem) (slice : Nat) : Nat :=
  (m.waits.filter (fun w => !w.polled && !isHost (128 * w.place) && sliceOf (128 * w.place) = slice)).length

/-- A `waitl` performed: checked, and registered where its threshold is not met (R348): up to 256 at a slice, which polls the rest. -/
def State.waitHome (s : State) (r : Req) : State :=
  let s := if isHost (128 * r.line) then s else { s with mem := (s.mem.fetchHdm r.line).checkRead r.line }
  if s.poisoned r.line then s.readFault r .uecc r.op.lineVa
  else
    let v := s.readNat r.op.pa 8
    let s := s.countOp r.op 0x0A
    if r.op.right.toNat ≤ v then s.pushReply r.op v none
    else
      let full := !isHost (128 * r.line) && 256 ≤ s.mem.waitsAt (sliceOf (128 * r.line))
      { s with mem := { s.mem with waits := s.mem.waits ++ [⟨r.op, r.line, full, s.clock.cycle⟩] } }

/-- The count of a line (R337). -/
def Mem.countAt (m : Mem) (line : Nat) : Nat := ((tget m.l2 line).map L2Line.count).getD 0

/-- An access performed at the home once the copies that it needs gone are gone. -/
def State.completeAtHome (s : State) (r : Req) : State :=
  match r.op.instr with
  | .cntq _ => (s.countRead r.op).pushReply r.op (s.mem.countAt r.line) none
  | .flush _ => s.flushHome r
  | .waitl _ => s.waitHome r
  | _ => s.atomHome r

/-- An access performed at the home (R152): atomics and flushes as a write that invalidates every copy; a `waitl` as a read, for which an owner
keeps S; a `cntq` reads the count and changes nothing (R337). -/
def State.serveAtHome (s : State) (r : Req) : State :=
  if s.mem.isSpent r.line then (s.takeReq r).readFault r .overread r.op.ea
  else
    let d := s.mem.dirOf r.line
    match r.op.instr, d with
    | .cntq _, _ => (s.takeReq r).completeAtHome r
    | .waitl _, .e y => s.beginTxn r [y] .forward
    | .waitl _, _ => (s.takeReq r).completeAtHome r
    | _, _ => if d.targets.isEmpty then (s.takeReq r).completeAtHome r else s.beginInval r d.targets

/-- `HOME_PERFORMED_ACCESS` (R152, R156): the request `subject` is performed. -/
def execHomePerformedAccess (s : State) : Out :=
  match s.servable s.subject with
  | some r => if r.kind = .atHome then .next (s.serveAtHome r) else .refused (.notEnabled "HOME_PERFORMED_ACCESS")
  | none => .refused (.notEnabled "HOME_PERFORMED_ACCESS")

/-! ### Counted lines (R162 to R164) -/

/-- Counted lines of a line's set (R162, R423). -/
def Mem.setCounted (m : Mem) (line : Nat) : Nat :=
  (m.l2.filter (fun r => r.2.count ≠ 0 && sliceOf (128 * r.1) = sliceOf (128 * line) && l2SetOf (128 * r.1) = l2SetOf (128 * line))).length

/-- Marker entries of a line's slice that are reserved or in use (R162). -/
def Mem.markersAt (m : Mem) (line : Nat) : Nat :=
  let sl := sliceOf (128 * line)
  (m.l2.filter (fun r => r.2.count ≠ 0 && sliceOf (128 * r.1) = sl)).length
    + (m.spent.filter (fun r => sliceOf (128 * r.1) = sl)).length

/-- Counted lines and spent markers charged to a task (R162, R163). -/
def Mem.quotaUse (m : Mem) (task : Nat) : Nat :=
  (m.l2.filter (fun r => r.2.count ≠ 0 && r.2.owner = task)).length + (m.spent.filter (fun r => r.2.owner = task)).length

/-- One consuming read of a line that is counted or spent (R164, R336). -/
def State.consume (s : State) (r : Req) : State :=
  if s.mem.isSpent r.line then s.readFault r .overread r.op.ea
  else if s.poisoned r.line then s.readFault r .uecc r.op.lineVa
  else match tget s.mem.l2 r.line with
    | none => s
    | some x =>
      let v := lineRead x.data (r.op.pa % 128) r.op.size
      let m := if x.count = 1 then
          ({ s.mem with l2 := tdel s.mem.l2 r.line, spent := tput s.mem.spent r.line ⟨x.owner, x.space, x.va⟩ } : Mem).waitsOverread r.line
        else { s.mem with l2 := tput s.mem.l2 r.line { x with count := x.count - 1 } }
      ((({ s with mem := m } : State).countOp r.op 0x12).countOp r.op 0x0A).pushReply r.op v none

/-- Waiting consuming reads of a line served, in the order in which they arrived (R164). -/
def State.serveWaiting (s : State) (line : Nat) : State :=
  let ws := s.mem.ldcWait.filter (fun r => r.line = line)
  let s := { s with mem := { s.mem with ldcWait := s.mem.ldcWait.filter (fun r => r.line ≠ line) } }
  ws.foldl State.consume s

/-- The count that an establishment declares, held at 4,095, and whether it was above (R335). -/
def estCount (op : WobOp) : Nat × Bool :=
  let c := match op.instr with
    | .stc _ => op.aux.toNat
    | _ => op.right.toNat
  (min 4095 c, 4095 < c)

/-- The store of an `stc` merged (R162, step 5). -/
def State.estStore (s : State) (r : Req) : State :=
  match r.op.instr with
  | .stc _ =>
    let d := lineWrite (s.mem.l2Data r.line) (r.op.pa % 128) r.op.size r.op.right.toNat
    let m := { s.mem with l2 := tmod s.mem.l2 r.line (fun x => { x with data := d }) }
    (({ s with mem := m.recheck r.line d } : State)).noteWrite r.op r.op.right.toNat
  | _ => s

/-- Whether an establishment finds no counted way, no marker entry, or no quota (R162). -/
def State.noRoomToCount (s : State) (r : Req) : Bool :=
  8 ≤ s.mem.setCounted r.line || 8192 ≤ s.mem.markersAt r.line
    || ((s.task? r.op.task).map Task.cquota).getD 0 ≤ s.mem.quotaUse r.op.task

/-- R162, steps 2 to 4: dirty data is written back to HBM, the line is present, and takes its count; a host that holds it is told (R19). -/
def State.pin (s : State) (r : Req) (c : Nat) : State :=
  let space := ((s.task? r.op.task).map Task.space).getD 0
  let m := ((s.mem.backInvalidate r.line).evictL2 r.line).mscFlush r.line
  let m := m.ensureL2 r.line s.seqCtr
  { s.bump with mem := { m with
      l2 := tmod m.l2 r.line (fun x => { x with count := c, owner := r.op.task, space := space, va := r.op.ea / 128 * 128, dirty := true }) } }

/-- A line already counted gets a count added (R163). -/
def State.addCount (s : State) (r : Req) (c : Nat) : State :=
  let old := s.mem.countAt r.line
  let s := s.setFlags r.op.task r.op.pl (Flags.SAT.when (4095 < old + c))
  { s with mem := { s.mem with l2 := tmod s.mem.l2 r.line (fun x => { x with count := min 4095 (old + c) }) } }

/-- An establishment whose line has no L1 copy (R162, R163), its faults in the order of R222; a count above 4,095 sets SAT whatever follows
(R335). A measured task's page is copied first (R245). -/
def State.completeEstablish (s : State) (r : Req) : State :=
  let (c, big) := estCount r.op
  let s := s.setFlags r.op.task r.op.pl (Flags.SAT.when big)
  let old := s.mem.countAt r.line
  if old = 0 && s.noRoomToCount r then s.readFault r .countquota r.op.ea
  else if s.mem.isSpent r.line then s.readFault r .overread r.op.ea
  else
    let s := s.snapshot r.op.task r.op.pa
    let s := if old ≠ 0 then s.addCount r c else s.pin r c
    (((s.estStore r).countOp r.op 0x0A).pushReply r.op 0 none).serveWaiting r.line

/-- Where an establishment's address now lies: its page may have been moved by a migration (R174), or be mapped no longer (R169). -/
def State.estPlace (s : State) (r : Req) : Option Nat :=
  match s.task? r.op.task with
  | none => some r.op.pa
  | some t => s.access t r.op.ea true

/-- An establishment at its home: re-directed to its page's new place after a migration (R174, R161), and otherwise performed once
every copy is invalidated (R162). -/
def State.serveEstablish (s : State) (r : Req) : State :=
  match s.estPlace r with
  | none => (s.takeReq r).readFault r .lease r.op.ea
  | some pa =>
    if isHost pa then (s.takeReq r).readFault r .lease r.op.ea
    else if pa ≠ r.op.pa then (s.takeReq r).pushReq .establish { r.op with pa := pa } (pa / 128)
    else
      let ts := (s.mem.dirOf r.line).targets
      if ts.isEmpty then (s.takeReq r).completeEstablish r else s.beginInval r ts

/-- `COUNTED_ESTABLISHMENT` (R162): the request `subject` is performed; one on a line under migration or under a near-memory
command waits (R174, R158). -/
def execCountedEstablishment (s : State) : Out :=
  match s.servable s.subject with
  | some r =>
    if r.kind = .establish && (s.mem.migAt (128 * r.line)).isNone && !s.busy r.line then .next (s.serveEstablish r)
    else .refused (.notEnabled "COUNTED_ESTABLISHMENT")
  | none => .refused (.notEnabled "COUNTED_ESTABLISHMENT")

/-- `CONSUMING_READ` (R164): the `ldc` `subject` is served, or waits at the home. -/
def execConsumingRead (s : State) : Out :=
  match s.servable s.subject with
  | some r =>
    if r.kind = .consume then
      if s.mem.isSpent r.line || s.mem.counted r.line then .next ((s.takeReq r).consume r)
      else .next { s.takeReq r with mem := { (s.takeReq r).mem with ldcWait := s.mem.ldcWait ++ [r] } }
    else .refused (.notEnabled "CONSUMING_READ")
  | none => .refused (.notEnabled "CONSUMING_READ")

/-! ### `relc` (R166, R338) -/

/-- Lines that a range's pages hold, of those given. -/
def State.linesInRange (s : State) (t : Task) (ea len : Nat) (lines : List Nat) : List Nat :=
  let lo := ea / 128 * 128
  let hi := (ea + len + 127) / 128 * 128
  let pages := (List.range ((hi - 1) / 4096 - lo / 4096 + 1)).map (fun k => lo / 4096 + k)
  pages.flatMap (fun vp =>
    match s.physOf t.space (4096 * vp) with
    | none => []
    | some (pa, _) => lines.filter (fun l =>
        128 * l / 4096 = pa / 4096 && lo ≤ 4096 * vp + 128 * l % 4096 && 4096 * vp + 128 * l % 4096 < hi))

/-- Counted lines and spent markers of an address space (R166). -/
def Mem.countedOf (m : Mem) (space : Nat) : List Nat :=
  (m.l2.filter (fun r => r.2.count ≠ 0 && r.2.space = space)).map Prod.fst
def Mem.spentOf (m : Mem) (space : Nat) : List Nat := (m.spent.filter (fun r => r.2.space = space)).map Prod.fst

/-- A counted line made an ordinary dirty line (R166). -/
def Mem.release (m : Mem) (line : Nat) : Mem := { m with l2 := tmod m.l2 line (fun x => { x with count := 0, dirty := true }) }

/-- A `relc` performed on the lines given (R166): its flag and its result. -/
def State.relcOn (s : State) (op : WobOp) (cs ms : List Nat) : State :=
  let s := cs.foldl (fun (s : State) (l : Nat) => s.snapshot op.task (128 * l)) s
  let m := cs.foldl Mem.release s.mem
  let m := { m with spent := ms.foldl tdel m.spent }
  let s := ({ s with mem := m } : State).setFlags op.task op.pl (Flags.UNDERREAD.when (!cs.isEmpty))
  (s.countOp op 0x0A).pushReply op (cs.length + 2 ^ 32 * ms.length) none

/-- A `relc` at the slices of its range: a range past 2^52, or a line of it that fails its checks, faults and releases nothing
(R338). Its address names HBM (R161); pages of its range that lie in the host tier hold no counted line and are passed over (log entry 78). -/
def State.relc (s : State) (t : Task) (op : WobOp) : State :=
  let len := op.right.toNat
  if len = 0 then (s.countOp op 0x0A).pushReply op 0 none
  else if 2 ^ 52 < op.ea + len then s.pushReply op 0 (some (.lease, op.ea))
  else
    let lo := op.ea / 128 * 128
    match s.firstBadVa t true lo ((op.ea + len + 127) / 128 * 128 - lo) with
    | some a => s.pushReply op 0 (some (.lease, a))
    | none => s.relcOn op (s.linesInRange t op.ea len (s.mem.countedOf t.space)) (s.linesInRange t op.ea len (s.mem.spentOf t.space))

/-- `RELC_SCAN` (R166, R338): the `relc` `subject` is performed, whole, at the slices of its range. -/
def execRelcScan (s : State) : Out :=
  match s.mem.reqs[s.subject]? with
  | none => .refused (.notEnabled "RELC_SCAN")
  | some r =>
    match r.kind, s.task? r.op.task with
    | .relc, some t =>
      if (s.mem.countedOf t.space).all (fun l => !s.mem.txns.any (fun x => x.line = l)) then .next ((s.takeReq r).relc t r.op)
      else .refused (.notEnabled "RELC_SCAN")
    | _, _ => .refused (.notEnabled "RELC_SCAN")

/-! ### Messages (R152, R153) -/

def State.takeMsg (s : State) (n : Nat) : State := { s with mem := { s.mem with msgs := dropAt s.mem.msgs n } }

/-- `CLEAN_EVICTION_NOTICE` (R152, R153): the notice `subject` reaches the home; it is ignored while a transaction is outstanding. -/
def execCleanEvictionNotice (s : State) : Out :=
  match s.mem.msgs[s.subject]? with
  | some (.evict line c) =>
    let s := s.takeMsg s.subject
    let drop := fun (d : Dir) => match d with
      | .sp ps => if (ps.filter (fun p => p ≠ c)).isEmpty then .i else .sp (ps.filter (fun p => p ≠ c))
      | .e y => if y = c then .i else .e y
      | d => d
    if isHost (128 * line) then
      .next { s with mem := { s.mem with hlc := tmod s.mem.hlc line (fun x => { x with dir := drop x.dir }) } }
    else if s.mem.txns.any (fun t => t.line = line) then .next s
    else .next (s.setDir line (drop (s.mem.dirOf line)))
  | _ => .refused (.notEnabled "CLEAN_EVICTION_NOTICE")

/-- `DIRTY_WRITE_BACK` (R152, R153): the write-back `subject` is written into the L2; where a recall or forward is outstanding, its
data answers it. -/
def execDirtyWriteBack (s : State) : Out :=
  match s.mem.msgs[s.subject]? with
  | some (.writeBack line _ d) =>
    let s := s.takeMsg s.subject
    let m := ({ s.mem with l2 := tmod s.mem.l2 line (fun x => { x with data := d, dirty := true }) } : Mem).recheck line d
    .next { s with mem := if m.txns.any (fun t => t.line = line) then m else m.setDir line .i }
  | _ => .refused (.notEnabled "DIRTY_WRITE_BACK")

/-- A line granted to a cluster and not yet filled there: it is filled before a later invalidation is applied (R153). -/
def State.grantPending (s : State) (cluster line : Nat) : Bool :=
  s.mem.replies.any (fun r => match r.install with
    | some (l, _, _) => l = line && s.opCluster r.op = cluster
    | none => false)
    || s.mem.acks.any (fun a => a.install.isSome && a.line = line && s.opCluster a.op = cluster)

def State.pushMsg (s : State) (m : CohMsg) : State := { s with mem := { s.mem with msgs := s.mem.msgs ++ [m] } }

/-- `INVALIDATION_RECEIVE` (R152): the invalidation `subject` reaches its cluster, which drops any copy and acknowledges. -/
def execInvalidationReceive (s : State) : Out :=
  s.inCycle "INVALIDATION_RECEIVE" <| match s.mem.msgs[s.subject]? with
  | some (.inval id line c) =>
    if s.grantPending c line then .refused (.notEnabled "INVALIDATION_RECEIVE")
    else
      let s := s.takeMsg s.subject
      match s.mem.l1At c line with
      | none => .next (s.pushMsg (.ack id line c none))
      | some x =>
        let s := s.countEvent c (s.wayTask x) 0x14 1
        .next (({ s with mem := s.mem.dropL1At c line } : State).pushMsg
          (.ack id line c (if x.st = .m then some x.data else none)))
  | _ => .refused (.notEnabled "INVALIDATION_RECEIVE")

/-- A copy reduced to S (R152). -/
def Mem.toS (m : Mem) (cluster line : Nat) : Mem :=
  { m with l1 := m.l1.map (fun (x : L1Line) => if x.cluster = cluster && x.line = line then { x with st := .s } else x) }

/-- `FORWARD_RECALL_RECEIVE` (R152, R153): the forward or recall `subject` reaches the owner, which keeps S or gives the line up,
and answers with its data if it was modified, or without data where it has evicted the line. -/
def execForwardRecallReceive (s : State) : Out :=
  s.inCycle "FORWARD_RECALL_RECEIVE" <| match s.mem.msgs[s.subject]? with
  | some (.forward id line c) =>
    if s.grantPending c line then .refused (.notEnabled "FORWARD_RECALL_RECEIVE")
    else
      let s := s.takeMsg s.subject
      let d := (s.mem.l1At c line).bind (fun x => if x.st = .m then some x.data else none)
      .next (({ s with mem := s.mem.toS c line } : State).pushMsg (.ack id line c d))
  | some (.recall id line c) =>
    if s.grantPending c line then .refused (.notEnabled "FORWARD_RECALL_RECEIVE")
    else
      let s := s.takeMsg s.subject
      let d := (s.mem.l1At c line).bind (fun x => if x.st = .m then some x.data else none)
      .next (({ s with mem := s.mem.dropL1At c line } : State).pushMsg (.ack id line c d))
  | _ => .refused (.notEnabled "FORWARD_RECALL_RECEIVE")

/-- The waiting access performed once its last acknowledgement has arrived (R152). -/
def State.finishTxn (s : State) (r : Req) : State :=
  match r.kind, r.op.instr with
  | .read nt, _ =>
    let d := s.mem.dirOf r.line
    if nt then (s.setDir r.line (.sp d.targets)).sendData r none
    else (s.setDir r.line (d.share r.cluster)).sendData r (some .s)
  | .write, _ => (s.setDir r.line .i).completeWrite r
  | .atHome, .waitl _ => (s.setDir r.line (.sp (s.mem.dirOf r.line).targets)).completeAtHome r
  | .atHome, _ => (s.setDir r.line .i).completeAtHome r
  | .establish, _ => (s.setDir r.line .i).completeEstablish r
  | _, _ => s

/-- An acknowledgement's data taken into the L2 (R152). -/
def Mem.takeData (m : Mem) (line : Nat) : Option Line → Mem
  | none => m
  | some d => { m with l2 := tmod m.l2 line (fun x => { x with data := d, dirty := true }) }

/-- `ACK_RECEIVE` (R152): the acknowledgement `subject` reaches the home, behind anything its cluster sent before it (R110). -/
def execAckReceive (s : State) : Out :=
  match s.mem.msgs[s.subject]? with
  | some (.ack id line c d) =>
    if (s.mem.msgs.take s.subject).any (fun m => match m with
        | .evict l k | .writeBack l k _ => l = line && k = c
        | _ => false) then .refused (.notEnabled "ACK_RECEIVE")
    else
      let s := s.takeMsg s.subject
      match s.mem.txns.find? (fun t => t.id = id) with
      | none => .next s
      | some t =>
        let m := s.mem.takeData line d
        if t.awaited ≤ 1 then
          .next (({ s with mem := { m with txns := m.txns.filter (fun x => x.id ≠ id) } } : State).finishTxn t.req)
        else
          let less := fun (x : Txn) => if x.id = id then { x with awaited := x.awaited - 1 } else x
          .next { s with mem := { m with txns := m.txns.map less } }
  | _ => .refused (.notEnabled "ACK_RECEIVE")

/-! ### The host-line cache (R155) -/

/-- A cluster read at the host-line cache (R155): M goes O, O, E and S stay; an absent line is read from the host, and goes S or, where
the host grants it, E. That one fetched line is taken as served by the cache in R175's sense (log entry 79). -/
def State.hlcFetch (s : State) (line x : Nat) (exclusive copy : Bool) : State :=
  let add := fun (d : Dir) => if copy then d.share x else d
  match tget s.mem.hlc line with
  | some h =>
    let st := if h.st = .m then .o else h.st
    { s with mem := { s.mem with hlc := tput s.mem.hlc line { h with st := st, dir := add h.dir } } }
  | none => s.hlcInsert line ⟨if exclusive then .e else .s, s.hostLine line, add .i⟩

/-- `HLC_CLUSTER_READ` (R155): the request n is served; `exclusive` is what the host grants for a line it is asked for. -/
def execHlcClusterRead (n : Nat) (exclusive : Bool) (s : State) : Out :=
  match s.servable n with
  | some r =>
    if r.kind = .hlcRead then
      let s := s.takeReq r
      if s.board.hostLoss then .next (s.readFault r .hostlink r.op.ea)
      else if nsHas s.mem.hostPoison r.line then .next (s.readFault r .uecc r.op.lineVa)
      else match r.op.instr with
        | .waitl _ => .next ((s.hlcFetch r.line r.cluster exclusive false).waitHome r)
        | .ldnt _ =>
          let s := s.hlcFetch r.line r.cluster exclusive false
          .next ((s.countRead r.op).pushReply r.op (lineRead (s.hostLine r.line) (r.op.pa % 128) r.op.size) none)
        | _ =>
          let s := (s.hlcFetch r.line r.cluster exclusive true).countRead r.op
          let d := s.hostLine r.line
          let rep : Reply := ⟨r.op, lineRead d (r.op.pa % 128) r.op.size, some (r.line, .s, d), none, r.op.gen⟩
          .next { s with mem := { s.mem with replies := s.mem.replies ++ [rep] } }
    else .refused (.notEnabled "HLC_CLUSTER_READ")
  | none => .refused (.notEnabled "HLC_CLUSTER_READ")

/-- Writing back and invalidating a host-tier line (R347). -/
def State.hlcFlush (s : State) (line : Nat) : State := s.hlcEvict line

/-- A write at the host-line cache (R155): a store, an atomic, or a flush. During a link loss it completes poisoned (R44): a store
is lost, an atomic faults, and a flush leaves a modified line held. -/
def State.serveHlcWrite (s : State) (r : Req) : State :=
  match r.op.instr with
  | .flush _ => ((if s.board.hostLoss then s else s.hlcFlush r.line).countOp r.op 0x0A).pushReply r.op 0 none
  | i =>
    if isAtom i then
      if s.board.hostLoss then s.readFault r .hostlink r.op.ea
      else if nsHas s.mem.hostPoison r.line then s.readFault r .uecc r.op.lineVa
      else
        let old := lineRead (s.hostLine r.line) (r.op.pa % 128) r.op.size
        let (new, fl) := atomNew r.op old
        let s := match new with
          | some v => s.writePiece 0 r.op.pa r.op.size v
          | none => s
        (s.noteAtom r.op new fl).pushReply r.op old none
    else if s.board.hostLoss then (s.countOp r.op 0x0A).pushAck r.op r.line none none
    else ((s.writePiece 0 r.op.pa r.op.size r.op.right.toNat).countOp r.op 0x0A).pushAck r.op r.line none none

/-- `HLC_WRITE` (R155): the request `subject` is performed at the host-line cache. -/
def execHlcWrite (s : State) : Out :=
  match s.servable s.subject with
  | some r =>
    if r.kind = .hlcWrite && s.mem.settled r.line then .next ((s.takeReq r).serveHlcWrite r)
    else .refused (.notEnabled "HLC_WRITE")
  | none => .refused (.notEnabled "HLC_WRITE")

/-- The host answered with a line's data; the host's memory then holds it. -/
def State.giveHost (s : State) (line : Nat) (d : Line) : State :=
  { s with
    host := { s.host with replies := s.host.replies ++ [.data (lineBytes d)] }
    mem := { s.mem with hostMem := memPutBytes s.mem.hostMem (s.hostAddr (128 * line)) (lineBytes d) } }

/-- A snoop that takes a line re-checks the waits on it (R348). -/
def State.snoopRecheck (s : State) (line : Nat) (d : Line) : State := { s with mem := s.mem.recheck line d }

/-- `HOST_SNOOP_DATA` (R155): the host asks for the data of host-tier line `subject`. -/
def execHostSnoopData (s : State) : Out :=
  let line := s.subject
  if !s.board.cxl || s.board.hostLoss || !s.mem.settled line then .refused (.notEnabled "HOST_SNOOP_DATA")
  else match tget s.mem.hlc line with
    | none => .next s
    | some x =>
      let s := if x.st = .m || x.st = .o then s.giveHost line x.data else s
      .next ({ s with mem := { s.mem with hlc := tput s.mem.hlc line { x with st := .s } } }.snoopRecheck line x.data)

/-- `HOST_SNOOP_INVALIDATE` (R155): the host takes host-tier line `subject` away. -/
def execHostSnoopInvalidate (s : State) : Out :=
  let line := s.subject
  if !s.board.cxl || s.board.hostLoss || !s.mem.settled line then .refused (.notEnabled "HOST_SNOOP_INVALIDATE")
  else match tget s.mem.hlc line with
    | none => .next s
    | some x =>
      let s := if x.st = .m || x.st = .o then s.giveHost line x.data else s
      let m := { s.mem with l1 := s.mem.l1.filter (fun y => y.line ≠ line), hlc := tdel s.mem.hlc line }
      .next (({ s with mem := m } : State).snoopRecheck line x.data)

end Sys2Proof.Machine
end

