-- ==== Sys2Proof/Machine/FaultRecord.lean ====
section
/-!
DEFINITION. Machine/FaultRecord.lean: a task's leased pages (R80), and the fault record as it is written to its function's ring (R225,
R226).
-/
namespace Sys2Proof.Machine

/-! ### Leased pages (R80) -/

/-- The pages of a lease, by virtual address. -/
def leasePages (w : Nat) : List Nat := (List.range (leaseSize w / 4096)).map (fun k => leaseBase w + 4096 * k)

/-- The leased pages of a task, in order. -/
def Task.pages (t : Task) : List Nat := t.leases.flatMap leasePages

/-- Whether a page of a task is valid and backed, and whether it lies in the host tier. -/
inductive PageAt
  | resident (host : Bool)
  | invalid
  | unbacked
  deriving DecidableEq, Repr

def State.pageAt (s : State) (t : Task) (va : Nat) : PageAt :=
  match s.walkSpace t.space va with
  | .invalid => .invalid
  | .leaf e _ =>
    match s.fnAddr t.fn (e.frame + (va - e.va)) with
    | none => .unbacked
    | some pa => .resident (isHost pa)

/-- Whether a task has a host-tier lease (R241): of `TIER` 2, or with a page that translates to the host tier. -/
def State.hostLeased (s : State) (t : Task) : Bool :=
  t.leases.any (fun w => leaseTier w = 2) || t.pages.any (fun va => decide (s.pageAt t va = .resident true))

/-! ### Device addresses -/

/-- Bytes written at a device physical address as a function names it, where it is backed device memory (R225, R233). -/
def State.writeFn (s : State) (fn a : Nat) (bs : List Byte) : State :=
  match s.fnAddr fn a with
  | some pa => s.writeBytes fn pa bs
  | none => s

/-- Whether a function's address is backed device memory. -/
def State.deviceBacked (s : State) (fn a : Nat) : Bool :=
  match s.fnAddr fn a with
  | some pa => !isHost pa
  | none => false

/-! ### The fault record (R225, R226) -/

/-- Bits put side by side, lowest first: values with their widths. -/
def packBits : List (Nat × Nat) → Nat
  | [] => 0
  | (v, w) :: t => v % 2 ^ w + 2 ^ w * packBits t

/-- Number of destination words of a slot record. -/
def recDests (bs : List Byte) : List (List Byte) :=
  let n := match decode bs with
    | .ok (i, _) => i.dests.length
    | .error _ => 0
  (List.range 3).map (fun k => if k < n then (bs.drop (8 + 4 * k)).take 4 else leBytes 4 0)

/-- The extension word of a slot record, or zero. -/
def recExt (bs : List Byte) : List Byte :=
  let n := match decode bs with
    | .ok (i, _) => i.dests.length
    | .error _ => 0
  let e := (bs.drop (8 + 4 * n)).take 4
  e ++ leBytes (4 - e.length) 0

/-- `KIND` of R226. -/
def FKindAt.code : FKindAt → Nat
  | .beforeCommit => 0
  | .afterCommit => 1
  | .notTied => 2
  | .taskWide => 3

/-- The first 128 bytes of a fault record (R226). A task-wide fault names no thread and no element. The own number that R132 puts in the record
stands in `EXTW`, whose sequence triple is the conflicting operation's (log entry 12). -/
def FaultRec.head (f : FaultRec) (nfault : Nat) : List Byte :=
  let z := f.kind = .taskWide
  let cut := fun (n : Nat) => if z then 0 else n
  let slotw := f.slotBytes.take 8
  leBytes 8 (packBits [(f.code.num, 8), (f.reason, 8), (nfault, 16), (cut f.swid, 16), (f.kind.code, 8)])
    ++ leBytes 8 (packBits [(cut f.wave, 24), (cut f.tag, 14), (cut f.pl, 6)])
    ++ leBytes 8 (cut f.work.toNat) ++ leBytes 8 f.addr
    ++ leBytes 8 (packBits [(cut (dieOf (clusterOf f.pf)), 2), (cut (clusterOf f.pf % 128), 7), (cut (f.pf % 8), 3), (cut f.pelem, 3),
      (cut f.fret, 12), (cut f.velem, 3), (cut f.slot, 5)])
    ++ (if z then leBytes 24 0 else slotw ++ leBytes (8 - slotw.length) 0 ++ (recDests f.slotBytes).flatMap id ++ recExt f.slotBytes)
    ++ leBytes 8 f.time ++ leBytes 8 f.cfgid.toNat ++ leBytes 2 f.waiting.length ++ leBytes 46 0

/-- A fault record's 512 bytes (R226). -/
def FaultRec.bytes (f : FaultRec) (nfault : Nat) : List Byte :=
  let toks := f.waiting.flatMap (fun w => leBytes 8 w.1.toNat ++ leBytes 8 w.2)
  let b := f.head nfault ++ toks
  b ++ leBytes (512 - b.length) 0

/-- The fault record written to the function's ring (R225): its address, 0 where the ring is off or its `BASE` unbacked. -/
def State.writeFaultRec (s : State) (t : Task) (f : FaultRec) : State × Nat :=
  let q := s.reg t.fn 0x280
  let prod := (s.reg t.fn 0x288).toNat
  let a := bits q 51 15 * 2 ^ 15 + 512 * (prod % 64)
  if q.toNat % 2 = 0 || !s.deviceBacked t.fn (bits q 51 15 * 2 ^ 15) then (s, 0)
  else ((s.writeFn t.fn a (f.bytes (t.nfault - 1))).setReg t.fn 0x288 (BitVec.ofNat 64 (prod + 1)), a)

/-- A task-wide HOSTLINK (R44, R81): no wave is discarded and no element named. -/
def State.hostLinkFault (s : State) (t : Task) : FaultRec :=
  { code := .hostlink, reason := 0, addr := 0, kind := .taskWide, wave := 0, tag := 0, pl := 0, work := 0, fret := 0, velem := 0, slot := 0,
    pf := 0, pelem := 0, own := 0, time := s.clock.ptpNs, waiting := [], slotBytes := [], cfgid := t.cfgid, swid := 0 }

/-- The STOP record of a fault that lands otherwise than in a thread (R234); a task-wide one is made beside placement 0 (log entry 64). -/
def State.traceFault (s : State) (task : Nat) (f : FaultRec) : State :=
  let pf := if f.kind = .taskWide then ((s.placement? task 0).map (fun p => p.physFret 0)).getD 0 else f.pf
  s.traceStop task f.swid f.tag f.wave f.fret f.velem f.slot f.pl pf 0 f.code.num

end Sys2Proof.Machine
end

