-- ==== Sys2Proof/Machine/Shake.lean ====
section
/-!
DEFINITION. Machine/Shake.lean: SHAKE256, by which images and firmware are digested (R34, R250), and SHA3-512, which SPDM uses (R36). The manual
names the functions; their definitions are those of FIPS 202 (PRESUMED, log entry 17).
-/
namespace Sys2Proof.Machine

/-- A lane of the 5 by 5 array, by x + 5 * y. -/
def lane (a : List Word) (i : Nat) : Word := a.getD i 0

def rotl (w : Word) (n : Nat) : Word := w.rotateLeft (n % 64)

/-- Rotations of the ρ step, by x + 5 * y. -/
def rhoOffs : List Nat :=
  [0, 1, 62, 28, 27, 36, 44, 6, 55, 20, 3, 10, 43, 25, 39, 41, 45, 15, 21, 8, 18, 2, 61, 56, 14]

/-- Round constants of the ι step. -/
def roundConsts : List Word :=
  [0x0000000000000001, 0x0000000000008082, 0x800000000000808A, 0x8000000080008000, 0x000000000000808B, 0x0000000080000001,
   0x8000000080008081, 0x8000000000008009, 0x000000000000008A, 0x0000000000000088, 0x0000000080008009, 0x000000008000000A]
  ++ [0x000000008000808B, 0x800000000000008B, 0x8000000000008089, 0x8000000000008003, 0x8000000000008002, 0x8000000000000080,
   0x000000000000800A, 0x800000008000000A, 0x8000000080008081, 0x8000000000008080, 0x0000000080000001, 0x8000000080008008]

/-- θ. -/
def theta (a : List Word) : List Word :=
  let c := (List.range 5).map (fun x => lane a x ^^^ lane a (x + 5) ^^^ lane a (x + 10) ^^^ lane a (x + 15) ^^^ lane a (x + 20))
  let d := (List.range 5).map (fun x => lane c ((x + 4) % 5) ^^^ rotl (lane c ((x + 1) % 5)) 1)
  (List.range 25).map (fun i => lane a i ^^^ lane d (i % 5))

/-- ρ and π: lane (x, y) comes from lane (x + 3y, x). -/
def rhoPi (a : List Word) : List Word :=
  (List.range 25).map (fun i =>
    let x := i % 5
    let y := i / 5
    let j := (x + 3 * y) % 5 + 5 * x
    rotl (lane a j) (rhoOffs.getD j 0))

/-- χ. -/
def chi (a : List Word) : List Word :=
  (List.range 25).map (fun i =>
    let y := i / 5 * 5
    lane a i ^^^ ((~~~ lane a (y + (i + 1) % 5)) &&& lane a (y + (i % 5 + 2) % 5)))

/-- One round. -/
def keccakRound (a : List Word) (rc : Word) : List Word :=
  match chi (rhoPi (theta a)) with
  | [] => []
  | w :: t => (w ^^^ rc) :: t

def keccakF (a : List Word) : List Word := roundConsts.foldl keccakRound a

/-- The 64-bit lanes of little-endian bytes. -/
def lanesOfBytes (bs : List Byte) (n : Nat) : List Word :=
  (List.range n).map (fun i => BitVec.ofNat 64 (leNat ((bs.drop (8 * i)).take 8)))

/-- One block of `rate` bytes absorbed. -/
def absorb (rate : Nat) (a : List Word) (block : List Byte) : List Word :=
  let b := lanesOfBytes block (rate / 8)
  keccakF ((List.range 25).map (fun i => lane a i ^^^ lane b i))

/-- A message padded to whole blocks of `rate` bytes; `dom` holds the domain bits and the first bit of the padding. -/
def spongePad (rate : Nat) (dom : Byte) (m : List Byte) : List Byte :=
  let k := rate - m.length % rate
  if k = 1 then m ++ [dom ||| 0x80] else m ++ (dom :: List.replicate (k - 2) 0) ++ [0x80]

/-- Blocks absorbed in turn, over at most n blocks. -/
def absorbAll (rate : Nat) (a : List Word) (m : List Byte) : Nat → List Word
  | 0 => a
  | n + 1 => if m.isEmpty then a else absorbAll rate (absorb rate a (m.take rate)) (m.drop rate) n

/-- The first n bytes that a sponge gives of a message, n at most its rate. -/
def spongeOut (rate : Nat) (dom : Byte) (n : Nat) (m : List Byte) : List Byte :=
  let p := spongePad rate dom m
  ((absorbAll rate (List.replicate 25 0) p (p.length / rate)).flatMap (fun w => leBytes 8 w.toNat)).take n

/-- The first 512 bits of SHAKE256 of a message. -/
def shake256 (m : List Byte) : List Byte := spongeOut 136 0x1F 64 m

/-- The first 912 bits of SHAKE256 of a message, which Ed448 uses. -/
def shake256x114 (m : List Byte) : List Byte := spongeOut 136 0x1F 114 m

/-- SHA3-512 of a message (R36). -/
def sha3 (m : List Byte) : List Byte := spongeOut 72 0x06 64 m

end Sys2Proof.Machine
end

