-- ==== Sys2Proof/Machine/Ed448.lean ====
section
/-!
DEFINITION. Machine/Ed448.lean: Ed448 signatures with an empty context (RFC 8032), which R34, R35 and R250 check under the firmware key and R36
makes under the device's identity key. The manual names the algorithm; its definition is that of RFC 8032 (PRESUMED, log entry 17).
-/
namespace Sys2Proof.Machine

/-! ### The field and the curve -/

/-- p = 2^448 - 2^224 - 1. -/
def edP : Nat := 2 ^ 448 - 2 ^ 224 - 1

/-- -d of the curve x² + y² = 1 + d x² y². -/
def edNegD : Nat := 39081

/-- The order of the base point. -/
def edL : Nat := 2 ^ 446 - 13818066809895115352007386748515426880336692474882178609894547503885

/-- a - b modulo p. -/
def edSub (a b : Nat) : Nat := (a + (edP - b % edP)) % edP

/-- a ^ e modulo p, for e below 2^n. -/
def edPow (a e : Nat) : Nat → Nat
  | 0 => 1
  | n + 1 =>
    let h := edPow a (e / 2) n
    if e % 2 = 1 then h * h % edP * a % edP else h * h % edP

/-- A point, as X / Z and Y / Z. -/
structure EdPoint where
  x : Nat
  y : Nat
  z : Nat
  deriving DecidableEq, Repr

/-- The neutral point. -/
def EdPoint.zero : EdPoint := ⟨0, 1, 1⟩

/-- The base point. -/
def EdPoint.base : EdPoint where
  x := 224580040295924300187604334099896036246789641632564134246125461686950415467406032909029192869357953282578032075146446173674602635247710
  y := 298819210078481492676017930443930673437544040154080242095928241372331506189835876003536878655418784733982303233503462500531545062832660
  z := 1

def EdPoint.add (a b : EdPoint) : EdPoint :=
  let zz := a.z * b.z % edP
  let sq := zz * zz % edP
  let xx := a.x * b.x % edP
  let yy := a.y * b.y % edP
  let e := edNegD * xx % edP * yy % edP
  let f := (sq + e) % edP
  let g := edSub sq e
  let h := (a.x + a.y) * (b.x + b.y) % edP
  ⟨zz * f % edP * edSub h (xx + yy) % edP, zz * g % edP * edSub yy xx % edP, f * g % edP⟩

/-- n times a point, for n below 2^k. -/
def EdPoint.mul (a : EdPoint) (n : Nat) : Nat → EdPoint
  | 0 => .zero
  | k + 1 =>
    let h := a.mul (n / 2) k
    if n % 2 = 1 then (h.add h).add a else h.add h

/-- Two forms of one point. -/
def EdPoint.same (a b : EdPoint) : Bool := a.x * b.z % edP = b.x * a.z % edP && a.y * b.z % edP = b.y * a.z % edP

/-- A point from its 57 bytes, where they encode one. -/
def EdPoint.ofBytes (bs : List Byte) : Option EdPoint :=
  let w := leNat bs
  let y := w % 2 ^ 455
  let odd := w / 2 ^ 455
  let u := edSub (y * y) 1
  let v := edSub (edP - edNegD * (y * y % edP) % edP) 1
  let u3 := u * u % edP * u % edP
  let v3 := v * v % edP * v % edP
  let x := u3 * v % edP * edPow (u3 * u % edP * u % edP * v3 % edP) ((edP - 3) / 4) 448 % edP
  if edP ≤ y || v * (x * x % edP) % edP ≠ u || (x = 0 && odd = 1) then none
  else some ⟨if x % 2 = odd then x else edP - x, y, 1⟩

/-- The 57 bytes of a point. -/
def EdPoint.bytes (a : EdPoint) : List Byte :=
  let inv := edPow a.z (edP - 2) 448
  leBytes 57 (a.y * inv % edP + 2 ^ 455 * (a.x * inv % edP % 2))

/-! ### Signatures -/

/-- SHAKE256 after the prefix of Ed448 with an empty context, as a number of 114 bytes. -/
def edHash (m : List Byte) : Nat := leNat (shake256x114 ([0x53, 0x69, 0x67, 0x45, 0x64, 0x34, 0x34, 0x38, 0, 0] ++ m))

/-- Whether a signature of 114 bytes over a message holds under a public key. -/
def ed448Verify (key m sig : List Byte) : Bool :=
  let r := sig.take 57
  let n := leNat ((sig.drop 57).take 57)
  match EdPoint.ofBytes key, EdPoint.ofBytes r with
  | some a, some p =>
    let k := edHash (r ++ key ++ m) % edL
    n < edL && (EdPoint.base.mul (4 * n) 448).same ((p.add (a.mul k 446)).mul 4 3)
  | _, _ => false

/-- The signature of a message under a private key of 57 bytes. -/
def ed448Sign (secret m : List Byte) : List Byte :=
  let h := shake256x114 secret
  let n := leNat (h.take 56) % 2 ^ 447 / 4 * 4 + 2 ^ 447
  let a := (EdPoint.base.mul n 448).bytes
  let k := edHash (h.drop 57 ++ m) % edL
  let r := (EdPoint.base.mul k 446).bytes
  r ++ leBytes 57 ((k + edHash (r ++ a ++ m) % edL * n) % edL)

/-- Whether a signature over a digest verifies under the firmware key: the one check of R34, R35 and R250. -/
def sigHolds (digest sig : List Byte) : Bool := ed448Verify (leBytes 57 Config.firmwareKey.toNat) digest sig

/-- Whether a service image's signature block holds over its body (R35, R250): 114 bytes of signature, and 14 of zero. -/
def blockHolds (body block : List Byte) : Bool := leNat ((block.drop 114).take 14) = 0 && sigHolds (shake256 body) (block.take 114)

/-- The device's signature of an SPDM transcript hash (R36). -/
def deviceSign (hash : List Byte) : List Byte := ed448Sign (leBytes 57 Config.identityKey.toNat) hash

end Sys2Proof.Machine
end

