-- ==== Sys2Proof/Machine/Image.lean ====
section
/-!
DEFINITION. Machine/Image.lean: graph images as the Farrier reads and checks them (R249 to R252, R262, R124), and the reserved fields
of a launch header (R72).
-/
namespace Sys2Proof.Machine

/-- A rejection: the code of R262 and the offset reported. -/
abbrev ImgErr := Nat × Nat

def imgCheck (ok : Bool) (code off : Nat) : Except ImgErr Unit := if ok then .ok () else .error (code, off)

/-! ### Reading -/

/-- One byte of an image, where it can be read (R86, R262). -/
def State.imgByte (s : State) (space base off : Nat) : Option Byte :=
  match s.physOf space (base + off) with
  | none => none
  | some (pa, _) =>
    if s.poisoned (pa / 128) || nsHas s.mem.hostPoison (pa / 128) then none else some (BitVec.ofNat 8 (s.readNat pa 1))

/-- n bytes of an image. -/
def State.imgRead (s : State) (space base off : Nat) : Nat → Except ImgErr (List Byte)
  | 0 => .ok []
  | n + 1 =>
    match s.imgByte space base off with
    | none => .error (1, off)
    | some b =>
      match s.imgRead space base (off + 1) n with
      | .error e => .error e
      | .ok bs => .ok (b :: bs)

/-! ### Reserved fields of a launch header (R72) -/

/-- Reserved bits of a header below and above its pool word, by byte offset of their field. -/
def reservedLow (h : List Byte) : List (Nat × Nat) :=
  let f := field h
  [(8, f 8 8 / 2 ^ 52), (30, f 30 1 / 2 ^ 5), (31, f 31 1 / 2 ^ 5), (36, f 36 1 / 2 ^ 3), (37, f 37 1 / 2 ^ 4)]
def reservedHigh (h : List Byte) : List (Nat × Nat) :=
  let f := field h
  [(56, f 56 8 / 2 ^ 52), (64, f 64 8 / 2 ^ 52), (72, f 72 8 / 2 ^ 52)]

/-- The first field with a nonzero reserved bit. -/
def firstNonzero (fs : List (Nat × Nat)) : Option Nat := (fs.find? (fun q => q.2 ≠ 0)).map Prod.fst

/-- The first reserved bit of a header that is nonzero (HDRRES of R73), by byte offset of its field; pool and leases have reasons of their own. -/
def hdrReserved (h : List Byte) : Option Nat := firstNonzero (reservedLow h ++ reservedHigh h)

/-- The same of a template, which is an image's: the pool word and the leases used are among its fields (R262). -/
def tmplReserved (h : List Byte) : Option Nat :=
  let f := field h
  firstNonzero (reservedLow h ++ [(40, f 40 4 / 2 ^ 12)] ++ reservedHigh h
    ++ (List.range (min 16 (f 38 1))).map (fun k => (128 + 8 * k, f (128 + 8 * k) 8 / 2 ^ 57 % 8)))

/-! ### Structure (R249, R251, R252) -/

/-- The header's fields. -/
structure ImgHdr where
  svc : Bool
  tmpl : Bool
  nf : Nat
  nw : Nat
  ftoff : Nat
  wtoff : Nat
  tmoff : Nat
  dtoff : Nat
  dtlen : Nat
  body : Nat
  deriving DecidableEq, Repr

/-- A record of a fret section: its slot number 32 * element + slot, its offset, and its bytes. -/
structure ImgRec where
  slot : Nat
  off : Nat
  bytes : List Byte
  deriving DecidableEq, Repr

/-- A static wave: its slot addresses (R252). -/
abbrev ImgWave := List Nat

/-- An image as read: its header, the records of each fret, and the waves. -/
structure Img where
  hdr : ImgHdr
  frets : List (List ImgRec)
  waves : List ImgWave
  deriving DecidableEq, Repr

def imgHdrOf (h : List Byte) : ImgHdr :=
  let f := field h
  ⟨(f 6 2).testBit 0, (f 6 2).testBit 1, f 8 2, f 12 4, f 16 4, f 20 4, f 24 4, f 28 4, f 32 4, f 36 4⟩

/-- A region of the body: where it starts, its length, and the field that locates it. -/
structure Region where
  start : Nat
  len : Nat
  src : Nat
  deriving DecidableEq, Repr

/-- Regions checked in turn: aligned on 8, within the body, clear of the header and of those before them. -/
def checkRegions (body : Nat) : List Region → List Region → Except ImgErr (List Region)
  | seen, [] => .ok seen
  | seen, r :: rs =>
    if r.start % 8 = 0 && r.start + r.len ≤ body
        && seen.all (fun q => r.len = 0 || q.len = 0 || r.start + r.len ≤ q.start || q.start + q.len ≤ r.start)
    then checkRegions body (seen ++ [r]) rs
    else .error (1, r.src)

/-- The header's own fields (R249), in the order of their offsets; `nf` is the count that CHECK took (R73). -/
def ImgHdr.check (h : List Byte) (nf : Nat) : Except ImgErr ImgHdr := do
  let f := field h
  let x := imgHdrOf h
  imgCheck (f 0 4 = 0x3149474C) 1 0
  imgCheck (f 4 2 = 1) 1 4
  imgCheck (f 6 2 / 4 = 0) 1 6
  imgCheck (1 ≤ x.nf && x.nf ≤ 4096 && x.nf = nf) 1 8
  imgCheck (f 10 2 = 0) 1 10
  imgCheck (1 ≤ x.nw && x.nw ≤ 65536) 1 12
  imgCheck (x.tmpl || x.tmoff = 0) 1 24
  imgCheck (x.dtlen ≠ 0 || x.dtoff = 0) 1 28
  imgCheck (x.body % 8 = 0 && 64 ≤ x.body) 1 36
  imgCheck (f 48 16 = 0) 1 48
  .ok x

/-- The tables that the header locates. -/
def ImgHdr.regions (x : ImgHdr) : List Region :=
  [⟨x.ftoff, 48 * x.nf, 16⟩, ⟨x.wtoff, 8 * x.nw, 20⟩] ++ (if x.tmpl then [⟨x.tmoff, 256, 24⟩] else [])
    ++ (if x.dtlen = 0 then [] else [⟨x.dtoff, x.dtlen, 28⟩])

/-- A section's records cut apart, one for each occupied slot; none where their lengths do not make up the section. -/
def cutRecords (off : Nat) : List Nat → List Byte → Option (List ImgRec)
  | [], bs => if bs.isEmpty then some [] else none
  | k :: ks, bs =>
    if bs.length < 8 then none
    else
      let n := recLen (leNat (bs.take 8))
      if bs.length < n then none
      else (cutRecords (off + n) ks (bs.drop n)).map (fun rs => ⟨k, off, bs.take n⟩ :: rs)

/-- Occupied slots of a fret table entry, rising (R251). -/
def slotsOf (smask : Nat) : List Nat := (List.range 256).filter (fun k => smask.testBit k)

/-- How the bytes of an image are read: n of them from an offset. -/
abbrev ImgReader := Nat → Nat → Except ImgErr (List Byte)

/-- An image that firmware brings. -/
def bytesReader (image : List Byte) : ImgReader := fun off n =>
  if off + n ≤ image.length then .ok ((image.drop off).take n) else .error (1, max off image.length)

/-- One fret table entry and its section (R251). -/
def readFretSec (rd : ImgReader) (x : ImgHdr) (st : List Region × List (List ImgRec)) (f : Nat) :
    Except ImgErr (List Region × List (List ImgRec)) := do
  let at_ := x.ftoff + 48 * f
  let e ← rd at_ 48
  imgCheck (field e 4 2 ≤ 6144) 1 (at_ + 4)
  imgCheck (field e 6 2 = 0) 1 (at_ + 6)
  imgCheck (field e 40 8 = 0) 1 (at_ + 40)
  let seen ← checkRegions x.body st.1 [⟨field e 0 4, field e 4 2, at_⟩]
  let bs ← rd (field e 0 4) (field e 4 2)
  match cutRecords (field e 0 4) (slotsOf (field e 8 32)) bs with
  | none => .error (1, at_ + 4)
  | some rs => .ok (seen, st.2 ++ [rs])

/-- The record of a slot address (R252): config-local fret, then 32 * element + slot. -/
def recAt (frets : List (List ImgRec)) (addr : Nat) : Option ImgRec :=
  match frets[addr / 256]? with
  | none => none
  | some rs => rs.find? (fun r => r.slot = addr % 256)

/-- Numbers in strictly rising order. -/
def risingNats : List Nat → Bool
  | a :: b :: t => a < b && risingNats (b :: t)
  | _ => true

/-- One wave table entry and its member list (R252). -/
def readWave (rd : ImgReader) (x : ImgHdr) (frets : List (List ImgRec)) (st : List Region × List ImgWave) (w : Nat) :
    Except ImgErr (List Region × List ImgWave) := do
  let at_ := x.wtoff + 8 * w
  let e ← rd at_ 8
  let n := field e 4 2
  imgCheck (1 ≤ n && n ≤ 128) 1 (at_ + 4)
  imgCheck (field e 6 2 = 0) 1 (at_ + 6)
  let seen ← checkRegions x.body st.1 [⟨field e 0 4, 4 * n, at_⟩]
  let bs ← rd (field e 0 4) (4 * n)
  let ms := (List.range n).map (fun k => field bs (4 * k) 4)
  imgCheck (risingNats ms) 1 (field e 0 4)
  let bad := (List.range n).find? (fun k =>
    let m := ms.getD k 0
    2 ^ 20 ≤ m || x.nf ≤ m / 256 || (recAt frets m).isNone || st.2.any (fun v => v.contains m))
  match bad with
  | some k => .error (1, field e 0 4 + 4 * k)
  | none => .ok (seen, st.2 ++ [ms])

/-- Every record, with its fret. -/
def Img.recs (g : Img) : List (Nat × ImgRec) :=
  (List.range g.frets.length).flatMap (fun f => (g.frets.getD f []).map (fun r => (f, r)))

/-- Step 1 of R262: the image's structure. An occupied slot in no wave is reported at its fret's table entry. -/
def readImgBy (rd : ImgReader) (nf : Nat) : Except ImgErr Img := do
  let h ← rd 0 64
  let x ← ImgHdr.check h nf
  let seen ← checkRegions x.body [⟨0, 64, 0⟩] x.regions
  if x.tmpl then
    let t ← rd x.tmoff 256
    match tmplReserved t with
    | some k => .error (1, x.tmoff + k)
    | none => .ok ()
  let (seen, frets) ← (List.range x.nf).foldlM (readFretSec rd x) (seen, [])
  let (_, waves) ← (List.range x.nw).foldlM (readWave rd x frets) (seen, [])
  let g : Img := ⟨x, frets, waves⟩
  match g.recs.find? (fun q => !waves.any (fun v => v.contains (256 * q.1 + q.2.slot))) with
  | some q => .error (1, x.ftoff + 48 * q.1 + 8)
  | none => .ok g

/-- An image's structure, read in an address space. -/
def State.readImg (s : State) (space base nf : Nat) : Except ImgErr Img := readImgBy (s.imgRead space base) nf

/-! ### Signature, records, waves, digest -/

/-- Step 2 of R262 (R250). A byte of the body or of the block that cannot be read is CFG_BADHDR there. -/
def checkSigBy (rd : ImgReader) (g : Img) : Except ImgErr Unit :=
  if !g.hdr.svc then .ok ()
  else do
    let body ← rd 0 g.hdr.body
    let block ← rd g.hdr.body 128
    imgCheck (blockHolds body block) 2 g.hdr.body

def State.checkSig (s : State) (space base : Nat) (g : Img) : Except ImgErr Unit := checkSigBy (s.imgRead space base) g

/-- The instruction of a record, where it is legal by itself. -/
def ImgRec.instr (r : ImgRec) : Except Reject Instr :=
  match decode r.bytes with
  | .ok (i, _) => .ok i
  | .error e => .error e

/-- A privileged form (R261), by its opcode and, for `launch.disp`, its sub-operation where its record is not legal otherwise: privilege is checked
before the records. -/
def ImgRec.privileged (r : ImgRec) : Bool :=
  let op := field r.bytes 7 1
  match r.instr with
  | .ok i => i.privileged
  | .error _ => [0x92, 0x96, 0xF4].contains op || (op = 0xF5 && field r.bytes 0 1 % 16 = 1)

/-- Step 3 of R262. -/
def checkPriv (g : Img) (service : Bool) : Except ImgErr Unit := do
  imgCheck (!g.hdr.svc || service) 3 0
  if g.hdr.svc then .ok ()
  else
    match g.recs.find? (fun q => q.2.privileged) with
    | some q => .error (3, q.2.off)
    | none => .ok ()

/-- The ports that a slot expects. One whose own record is illegal is taken to expect any: the fault is then that record's (log entry 89). -/
def portExpected (frets : List (List ImgRec)) (d : Dest) : Bool :=
  match recAt frets (256 * d.fret.toNat + 32 * d.velem.toNat + d.slot.toNat) with
  | none => false
  | some r =>
    match r.instr with
    | .error _ => true
    | .ok i => match d.port with
      | .left => i.ports.1
      | .right => i.ports.2.1
      | .aux => i.ports.2.2
      | .sink => true

/-- A destination word that names a slot of the image that expects its port (R262, code 5). -/
def destNames (frets : List (List ImgRec)) (d : Dest) : Bool :=
  d.port = .sink || (d.fret.toNat < frets.length && portExpected frets d)

/-- One record (step 4 of R262). Of a record that breaks both code 4 and code 5, nonzero bits [8:0] of a destination word give 5, and any other fault
of its destinations gives way to 4 (log entry 89). -/
def checkRecord (frets : List (List ImgRec)) (r : ImgRec) : Except ImgErr Unit :=
  match r.instr with
  | .error .badDest => .error (5, r.off)
  | .error _ => .error (4, r.off)
  | .ok i => imgCheck (i.dests.all (destNames frets)) 5 r.off

/-- A static chain operation: its record's offset and its triple. -/
abbrev ImgOp := Nat × SeqLink × BitVec 6 × SeqLink

/-- The chain operations of a wave, in member order. -/
def waveOps (frets : List (List ImgRec)) (w : ImgWave) : List ImgOp :=
  w.filterMap (fun a =>
    match recAt frets a with
    | none => none
    | some r => match r.instr with
      | .ok i => i.triple?.map (fun t => (r.off, t))
      | .error _ => none)

/-- The rules of R124 for one chain operation of a wave. -/
def opLinksOk (ops : List ImgOp) (x : ImgOp) : Bool :=
  let own := x.2.2.1
  (ops.filter (fun y => y.2.2.1 = own)).length = 1 &&
    (match x.2.2.2 with
      | .own b => ops.any (fun y => y.2.2.1 = b && (y.2.1 = .own own || y.2.1 = .unknown))
      | _ => true) &&
    (match x.2.1 with
      | .own b => ops.any (fun y => y.2.2.1 = b && (y.2.2.2 = .own own || y.2.2.2 = .unknown))
      | _ => true)

/-- One wave (step 5 of R262; R124). -/
def checkWave (frets : List (List ImgRec)) (w : ImgWave) : Except ImgErr Unit :=
  let ops := waveOps frets w
  match ops[64]? with
  | some x => .error (6, x.1)
  | none => match ops.find? (fun x => !opLinksOk ops x) with
    | some x => .error (6, x.1)
    | none => .ok ()

/-- `CFGID` of a body (R250). -/
def cfgidOf (body : List Byte) : Nat := leNat ((shake256 body).take 8)

/-- An image loaded and checked (R262): its frets and waves, or the code and offset of its rejection. -/
def loadImgBy (rd : ImgReader) (nf cfgid : Nat) (service : Bool) : Except ImgErr Img := do
  let g ← readImgBy rd nf
  checkSigBy rd g
  checkPriv g service
  (g.recs.map Prod.snd).forM (checkRecord g.frets)
  g.waves.forM (checkWave g.frets)
  let body ← rd 0 g.hdr.body
  imgCheck (cfgidOf body = cfgid) 7 0
  .ok g

def State.loadImg (s : State) (space base nf cfgid : Nat) (service : Bool) : Except ImgErr Img :=
  loadImgBy (s.imgRead space base) nf cfgid service

/-- The static wave id of a slot address (R252). -/
def Img.swid (g : Img) (addr : Nat) : Nat := ((findIdx1 (fun (w : ImgWave) => w.contains addr) g.waves)).getD 0

/-- The slots of one config-local fret, and their static wave ids. -/
def Img.slots (g : Img) (f : Nat) : Tab (List Byte) := (g.frets.getD f []).map (fun r => (r.slot, r.bytes))
def Img.swids (g : Img) (f : Nat) : Tab Nat := (g.frets.getD f []).map (fun r => (r.slot, g.swid (256 * f + r.slot)))

/-- Whether an image holds an engine form in a fret (R135). -/
def Img.engineFret (g : Img) (f : Nat) : Bool :=
  (g.frets.getD f []).any (fun r => match r.bytes with
    | [] => false
    | bs => 0xC0 ≤ leNat ((bs.drop 7).take 1) && leNat ((bs.drop 7).take 1) ≤ 0xD0)

end Sys2Proof.Machine
end

