-- ==== Sys2Proof/Machine/Accept.lean ====
section
/-!
DEFINITION. Machine/Accept.lean: a task accepted by `launch` (R71, R72, R389) and checked in CHECK (R73), with the arithmetic of work
fields and level barriers (R74, R75).
-/
namespace Sys2Proof.Machine

/-! ### Work fields and level barriers (R74, R75) -/

/-- W: the sum of the field widths. -/
def Task.wsum (t : Task) : Nat := t.widths.foldl (· + ·) 0
/-- Number of nonzero widths. -/
def Task.nfields (t : Task) : Nat := (t.widths.filter (fun w => w ≠ 0)).length
/-- Width of the identifier below fields 0 to k. -/
def Task.below (t : Task) (k : Nat) : Nat := t.wsum - (t.widths.take (k + 1)).foldl (· + ·) 0
/-- Level-k barriers: the prefix values that occur among the items. -/
def Task.levelCount (t : Task) (k : Nat) : Nat :=
  if (t.fld 30 1).testBit k && t.workCnt ≠ 0 then (t.workCnt - 1) / 2 ^ t.below k + 1 else 0
/-- Level barriers of levels below k. -/
def Task.levelBase (t : Task) (k : Nat) : Nat := ((List.range k).map t.levelCount).foldl (· + ·) 0
/-- Lv: level barriers of the task. -/
def Task.levels (t : Task) : Nat := t.levelBase 5
/-- Items with a prefix value v at level k. -/
def Task.levelExpect (t : Task) (k v : Nat) : Nat :=
  min t.workCnt ((v + 1) * 2 ^ t.below k) - v * 2 ^ t.below k
/-- `EXPECT` of every level barrier, in order of number. -/
def Task.levelExpects (t : Task) : List Nat :=
  (List.range 5).flatMap (fun k => (List.range (t.levelCount k)).map (t.levelExpect k))

/-! ### Checks of CHECK (R73) -/

/-- Frets that are not defective, outside the service cluster. -/
def State.usableFrets (s : State) : Nat := 4088 - (s.fab.frets.filter (fun r => 8 ≤ r.1 && r.2.st = .defect)).length

/-- Most frets that a function's placements may hold (R68). -/
def State.fretCap (s : State) (fn : Nat) : Nat := if fn = 0 then 4096 else s.vfFrets fn

/-- Bytes that a save lease must have (R78). -/
def Task.saveNeed (t : Task) : Nat := 2 ^ 16 + t.fld 34 2 * t.nf * 2 ^ 19 + t.cquota * 144

def Task.saveLeases (t : Task) : List Nat := t.leases.filter leaseSave

/-- HDRRES. -/
def Task.hdrRes (t : Task) : Bool :=
  (hdrReserved t.hdr).isSome || t.fld 8 8 / 2 ^ 52 ≠ 0 || t.fld 8 8 % 4096 ≠ 0 || t.fld 64 8 % 8 ≠ 0 || t.fld 72 8 % 64 ≠ 0

/-- FIELDS. -/
def Task.badFields (t : Task) : Bool :=
  let ws := t.widths
  (List.range 5).any (fun k => ws.getD k 0 = 0 && ws.getD (k + 1) 0 ≠ 0) || ws.all (fun w => w = 0) || 64 < t.wsum
    || ws.any (fun w => 64 < w) || t.workCnt = 0 || 2 ^ t.wsum < t.workCnt
    || (List.range 5).any (fun k => (t.fld 30 1).testBit k && t.nfields ≤ k + 1)

/-- PLACE, but for the comparison that needs Nf. -/
def Task.badPlace (t : Task) : Bool :=
  t.fld 32 2 = 0 || 64 < t.fld 32 2 || t.fld 34 2 < t.fld 32 2 || 64 < t.fld 34 2 || t.fld 39 1 = 0 || 4 < t.fld 39 1

/-- LEASE. -/
def Task.badLease (t : Task) : Bool :=
  16 < t.fld 38 1 || t.leases.any (fun w => leaseTier w = 3 || w / 2 ^ 57 % 8 ≠ 0 || 2 ^ 52 < leaseBase w + leaseSize w)

/-- POOL (R143). -/
def Task.badPool (t : Task) : Bool := 2 ^ 12 ≤ t.pool || t.munits + t.sunits + t.tunits ≠ 8

/-- SAVESZ. `CKPT` governs the whole row (DEDUCED, log entry 18). -/
def Task.badSave (t : Task) : Bool :=
  t.ckpt && match t.saveLeases with
    | [w] => leaseSize w < t.saveNeed
    | _ => true

/-- Nf taken from a fret that caches the configuration (R73). -/
def State.cachedNf (s : State) (cfgid : Word) : Option Nat :=
  (s.fab.frets.findSome? (fun r => match r.2.cfg with
    | some c => if c.cfgid = cfgid then some c.nf else none
    | none => none))

/-- Nf taken from the image header (R73): none where it cannot be read or `MAGIC`, `VER` or `NF` is invalid. -/
def State.headerNf (s : State) (space image : Nat) : Option Nat :=
  match s.imgRead space image 0 64 with
  | .error _ => none
  | .ok h => if field h 0 4 = 0x3149474C && field h 4 2 = 1 && 1 ≤ field h 8 2 && field h 8 2 ≤ 4096 then some (field h 8 2) else none

def Task.image_ (t : Task) : Nat := t.fld 8 8 % 2 ^ 52

/-- The gang descriptor, where it can be read and is valid (R103, R104). -/
def State.readGang (s : State) (t : Task) : Option Gang :=
  let a := t.fld 72 8 % 2 ^ 52
  match s.imgRead t.space a 0 64 with
  | .error _ => none
  | .ok d =>
    let f := field d
    if f 0 4 = 0 || f 16 4 < 100000 || f 24 4 < 50000 || f 16 4 < f 20 4 + f 24 4 || f 28 1 / 2 ≠ 0 || f 29 35 ≠ 0 then none
    else some ⟨BitVec.ofNat 32 (f 0 4), if f 4 4 = 0 then 100000 else f 4 4, f 8 8, f 16 4, f 20 4, f 24 4, (f 28 1).testBit 0⟩

/-- The outcome of CHECK: the task ready for RESWAIT, or the rejection's reason and address. -/
def State.checkTask (s : State) (t : Task) : Except (Nat × Nat) Task := do
  let need := fun (bad : Bool) (reason : Nat) => (if bad then .error (reason, 0) else .ok () : Except (Nat × Nat) Unit)
  need t.hdrRes 2
  need t.badFields 3
  need t.badPlace 4
  let nf ← match s.cachedNf t.cfgid, s.headerNf t.space t.image_ with
    | some n, _ => .ok n
    | none, some n => .ok n
    | none, none => (.error (9, t.image_) : Except (Nat × Nat) Nat)
  let t := { t with nf := nf, need := t.fld 32 2 * nf }
  need (s.fretCap t.fn < t.need || s.usableFrets < t.need) 4
  need t.badLease 5
  need t.badPool 6
  need (32 * nf < t.levels) 7
  need (262144 < t.cquota) 8
  need t.badSave 10
  if t.fld 72 8 = 0 then .ok { t with st := .reswait }
  else
    match s.readGang t with
    | none => .error (11, 0)
    | some g => if t.ckpt then .ok { t with st := .reswait, gang := some g } else .error (11, 0)

/-! ### Acceptance -/

/-- R389: the lowest nonzero 32-bit number above n, wrapping, that no task which has not ended holds. -/
def State.freeNum (s : State) (n : Nat) : Nat → Nat
  | 0 => n
  | k + 1 =>
    let m := if n + 1 < 2 ^ 32 then n + 1 else 1
    match s.task? m with
    | some t => if t.st.live then s.freeNum m k else m
    | none => m

def State.liveTasks (s : State) : List Task := s.tasks.filter (fun t => t.st.live)

/-- R71: whether `launch` takes a task of a function. -/
def State.mayAccept (s : State) (fn : Nat) : Bool :=
  s.liveTasks.length < 4096 && (s.liveTasks.filter (fun t => t.fn = fn)).length < 1024

/-- A task as `launch` accepts it, before CHECK. -/
def newTask (num fn asid : Nat) (hdr : List Byte) (rtag cval : Word) (intr : Bool) (vec : Nat) (child : Bool) (prio accept ns : Nat) :
    Task where
  num := num
  fn := fn
  asid := asid
  hdr := hdr
  rtag := rtag
  cval := cval
  intr := intr
  vec := vec
  child := child
  svc := false
  st := .check
  accept := accept
  prio := min prio (field hdr 36 1 % 8)
  tokens := field hdr 37 1 % 16
  cfgid := BitVec.ofNat 64 (field hdr 0 8)
  nf := 0
  nextItem := 0
  ended := 0
  nextPl := 0
  lastPl := 0
  quota := false
  walk := 0
  need := 0
  victim := none
  flags := Flags.none
  fault := none
  faultAt := 0
  nfault := 0
  reports := []
  freezing := false
  status := .done
  reason := 0
  faddr := 0
  frec := 0
  image := none
  nsave := 0
  start := 0
  endT := 0
  gang := none
  prefHeld := []
  settled := false
  stateSince := ns
  pair := none
  meas := false
  orderKill := false
  noLine := false
  ending := false
  slow := false
  loadErr := none
  learned := 0
  sliceFrom := 0

/-- A task's end decided (R64): what its completion record will say. A task that is ending already is left alone. -/
def Task.endAs (t : Task) (status : TStatus) (reason faddr : Nat) : Task :=
  if t.ending then t else { t with ending := true, status := status, reason := reason, faddr := faddr }

def State.decideEnd (s : State) (n : Nat) (status : TStatus) (reason faddr : Nat) : State :=
  s.modTask n (fun t => t.endAs status reason faddr)

/-- A rejection at configuration load, on a die, told in the function's `HF_CFGERR` and `HF_CFGTAG` (R263): of those of one cycle the highest
die's values remain. -/
def State.noteCfgErr (s : State) (t : Task) (die code addr : Nat) : State :=
  let later := match (s.hostFn t.fn).cfgErrAt with
    | some (cycle, d) => cycle = s.clock.cycle && decide (die < d)
    | none => false
  if later then s
  else
    let s := s.modFn t.fn (fun f => { f with cfgErrAt := some (s.clock.cycle, die) })
    (s.setReg t.fn 0x2B0 (BitVec.ofNat 64 (code % 16 * 2 ^ 56 + addr % 2 ^ 52))).setReg t.fn 0x2B8 (if t.child then 0 else t.rtag)

/-- A task ended with HOSTLINK, with its fault record (R44, R225). -/
def State.endHostLink (s : State) (t : Task) : State :=
  let f := s.hostLinkFault t
  let (s, a) := (s.traceFault t.num f).writeFaultRec t f
  (s.modTask t.num (fun t => { t with fault := some f, frec := a, freezing := false })).decideEnd t.num .fault 0 0

/-- Whether a range can be written in an address space: translated, backed and `W` = 1. -/
def State.spaceWritable (s : State) (space va : Nat) : Bool :=
  match s.physOf space va with
  | some (_, w) => w
  | none => false

/-- Where a task's header has its completion record, and whether it can be written there (R61, R73). -/
def Task.crecVa (t : Task) : Nat := t.fld 56 8 % 2 ^ 52
def State.crecOk (s : State) (t : Task) : Bool := t.crecVa % 64 = 0 && s.spaceWritable t.space t.crecVa

/-- CHECK performed on a task (R73): it goes to RESWAIT, or its end as REJECTED is decided. A child task whose completion record has no place
ends at once, with its completion line alone; one with a host-tier lease ends with HOSTLINK during a link loss (R44). -/
def State.runCheck (s : State) (t : Task) : State :=
  let s := s.takeCap t.fn
  let t := { t with noLine := t.fld 64 8 % 8 ≠ 0 }
  if t.child && !s.crecOk t then s.setTask (t.endAs .rejected 0 0)
  else
    match s.checkTask t with
    | .ok t =>
      let s := s.setTask t
      if s.board.hostLoss && s.hostLeased t then s.endHostLink t else s
    | .error (reason, addr) =>
      let s := if reason = 9 then s.noteCfgErr t 0 1 addr else s
      s.setTask (t.endAs .rejected reason addr)

/-- A task accepted (R70, R71, R389) and checked at once. -/
def State.accept (s : State) (mk : Nat → Nat → Nat → Task) : State × Nat :=
  let n := s.freeNum s.sched.lastTask 4097
  let s' := { s with sched := { s.sched with lastTask := n, acceptCtr := s.sched.acceptCtr + 1 } }
  (s'.runCheck { mk n s.sched.acceptCtr s.clock.ns with learned := s.clock.ptpNs }, n)

/-- Effective priority (R62, R83): that at acceptance, and a VF's cap in force (R55). -/
def State.effPrio (s : State) (t : Task) : Nat := if t.fn = 0 then t.prio else min t.prio (s.vfPcap t.fn)

/-- R83: a child task accepted for a running task, from a header's bytes. -/
def State.acceptChild (s : State) (parent : Task) (hdr : List Byte) : State × Nat :=
  let (s', n) := s.accept (fun num acc ns =>
    newTask num parent.fn parent.asid hdr 0 1 false 0 true (s.effPrio parent) acc ns)
  (s'.modTask n (fun t => { t with rtag := BitVec.ofNat 64 n }), n)

end Sys2Proof.Machine
end

