-- ==== Sys2Proof/Machine/Launch.lean ====
section
/-!
DEFINITION. Machine/Launch.lean: a launch record taken by the dispatcher (R59 to R62), with the measurement (R240, R241) and the
pairing (R246) that may be laid on it.
-/
namespace Sys2Proof.Machine

/-! ### Queues that err (R58, R61) -/

/-- A queue disabled with an error code. -/
def State.disableQueue (s : State) (fn q code : Nat) : State :=
  let x := s.queue fn q
  s.setQueue fn q { x with err := BitVec.ofNat 64 code, ctl := x.ctl &&& ~~~ (1 : Word) }

/-- A queue disabled with an error code; `HF_EVT.QERR` is set where the code was 0 (R53). -/
def State.queueError (s : State) (fn q code : Nat) : State :=
  let s' := s.disableQueue fn q code
  if (s.queue fn q).err.toNat % 256 = 0 && code ≠ 0 then s'.setEvt fn 0 else s'

/-- `CONS` advanced by one. -/
def State.queueNext (s : State) (fn q : Nat) : State :=
  let x := s.queue fn q
  s.setQueue fn q { x with cons := x.cons + 1 }

/-! ### Reading in an address space -/

/-- Bytes of a range that translates, is backed and holds no poison (R61, step 8). -/
def State.spaceBytes (s : State) (space va n : Nat) : Option (List Byte) :=
  match s.imgRead space va 0 n with
  | .ok bs => some bs
  | .error _ => none

/-! ### Records (R59, R60) -/

/-- The fields of a launch record. -/
structure LRec where
  hdr : Nat
  asid : Nat
  nwait : Nat
  intr : Bool
  vec : Nat
  cval : Word
  rtag : Word
  waits : List (Nat × Nat)
  deriving DecidableEq, Repr

def lrecOf (b : List Byte) : LRec :=
  let f := field b
  ⟨f 0 8 % 2 ^ 52, f 8 2, f 10 1, (f 11 1).testBit 0, f 12 2, BitVec.ofNat 64 (f 16 8), BitVec.ofNat 64 (f 24 8),
    (List.range (min 4 (f 10 1))).map (fun k => (f (32 + 16 * k) 8, f (40 + 16 * k) 8))⟩

/-- BADREC (R59). -/
def State.badRec (s : State) (fn : Nat) (b : List Byte) : Bool :=
  let f := field b
  let r := lrecOf b
  f 0 8 / 2 ^ 52 ≠ 0 || f 11 1 / 2 ≠ 0 || f 14 2 ≠ 0 || f 96 32 ≠ 0 || 4 < r.nwait
    || bits (s.reg fn 0x018) 7 0 < r.asid || (s.spaceRoot fn r.asid).isNone
    || (r.intr && (r.vec = 0 || (if fn = 0 then 255 else 31) < r.vec))
    || r.hdr % 256 ≠ 0 || r.waits.any (fun w => w.1 % 8 ≠ 0)
    || r.waits.any (fun w => match s.physOf (256 * fn + r.asid) w.1 with
      | some (pa, _) => isHost pa && !s.usesHlc fn
      | none => false)

/-- What a wait entry comes to (R60): satisfied, not yet, or unusable. A word on a spent line reads as the memory beneath (log entry 62). -/
def State.waitEntry (s : State) (space : Nat) (w : Nat × Nat) : Option Bool :=
  match s.spaceBytes space w.1 8 with
  | none => none
  | some b => some (w.2 ≤ leNat b)

/-! ### Measurement (R240, R241) -/

/-- A measured launch from its descriptor's bytes. -/
def measOf (d : List Byte) (task : Nat) (refused : Bool) : Meas :=
  let f := field d
  ⟨task, f 0 2, (f 2 1).testBit 0, (f 2 1).testBit 1, (f 2 1).testBit 2, f 8 8, f 16 8, f 24 8,
    (List.range (min 16 (f 0 2))).map (fun p => (f (32 + 4 * p) 1, f (33 + 4 * p) 1, f (34 + 4 * p) 1, f (35 + 4 * p) 1)),
    1, [], 0, 0, 0, [0, 0, 0, 0], [0, 0, 0, 0, 0], [], false, refused⟩

/-- The part of R241 that the descriptor and the header decide. -/
def State.measRefused (s : State) (d : List Byte) (t : Task) : Bool :=
  let f := field d
  let n := f 0 2
  let area := fun (a len : Nat) => (linesOf a len).all (fun l => s.hbmBacked (128 * l))
  f 2 1 / 8 ≠ 0 || f 3 5 ≠ 0 || f 96 32 ≠ 0 || n = 0 || 16 < n || 65536 < f 16 8 || f 8 8 % 4096 ≠ 0 || f 24 8 % 64 ≠ 0
    || !area (f 8 8) (4096 * min 65536 (f 16 8)) || !area (f 24 8) (64 + 128 * n + 8 * min 65536 (f 16 8))
    || (1 < n && (t.fld 72 8 ≠ 0 || t.leases.any (fun w => leaseTier w = 2 && !leaseRo w)))

/-- The 64-byte result header (R242). -/
def measHeader (status passes mis pages : Nat) : List Byte :=
  leBytes 1 status ++ leBytes 1 passes ++ leBytes 2 mis ++ leBytes 4 pages ++ leBytes 56 0

/-- A result header written where its area is backed. -/
def State.writeMeasHeader (s : State) (g : Meas) (status passes : Nat) : State :=
  if s.hbmBacked g.res then s.writeBytes 0 g.res (measHeader status passes g.misbits g.pages.length) else s

/-- A launch measured, where `HF_MEASQ` is armed for its queue: the descriptor is read and `EN` cleared (R240). -/
def State.measure (s : State) (fn q n : Nat) : State :=
  let r := s.reg 0 0x380
  if !(r.getLsbD 15 && bits r 13 8 = fn && bits r 5 0 = q) then s
  else
    match s.task? n with
    | none => s
    | some t =>
      let s := s.setReg 0 0x380 (r &&& ~~~ (0x8000 : Word))
      let d := s.readBytes (bits (s.reg 0 0x388) 51 7 * 128) 128
      if s.measRefused d t then s.writeMeasHeader (measOf d n true) 3 0
      else ({ s with obs := { s.obs with meas := s.obs.meas ++ [measOf d n false] } } : State).modTask n (fun t => { t with meas := true })

/-! ### Consuming a record (R61, step 3; R246) -/

/-- A task accepted from a record's fields, in an address space. The queue's `PRIO` is that at acceptance (R62, log entry 62). -/
def State.acceptRecord (s : State) (fn q asid : Nat) (r : LRec) (hdr : List Byte) (pair : Option PairCopy) : State × Nat :=
  let prio := bits (s.queue fn q).ctl 10 8
  s.accept (fun num acc ns =>
    { newTask num fn asid hdr r.rtag r.cval (r.intr && pair ≠ some .b) r.vec false prio acc ns with pair := pair })

/-- Whether a queue is in paired mode (R246). -/
def State.paired (s : State) (fn q : Nat) : Bool :=
  let r := s.reg 0 0x390
  r.getLsbD 15 && bits r 13 8 = fn && bits r 5 0 = q

/-- What consuming a record comes to. -/
inductive Taken
  | launched (s : State) (num : Nat)
  | noRoom
  | hdrAddr
  deriving DecidableEq, Repr

/-- A record's header read and its task accepted (R61, steps 3, 7 and 8), twice for a paired queue. -/
def State.takeRecord (s : State) (fn q : Nat) (b : List Byte) : Taken :=
  let r := lrecOf b
  let space := 256 * fn + r.asid
  match s.spaceBytes space r.hdr 256 with
  | none => .hdrAddr
  | some hdr =>
    let crec := field hdr 56 8 % 2 ^ 52
    if crec % 64 ≠ 0 || !s.spaceWritable space crec then .hdrAddr
    else if !s.mayAccept fn then .noRoom
    else if s.paired fn q then
      let (s, a) := s.acceptRecord fn q r.asid r hdr (some .a)
      if !s.mayAccept fn then .noRoom
      else
        let s := s.measure fn q a
        let (s, b) := s.acceptRecord fn q (bits (s.reg 0 0x390) 31 24) r hdr (some .b)
        .launched { s with obs := { s.obs with pairs := s.obs.pairs ++ [⟨r.rtag, a, b, none, none, [], [], false, fn, []⟩] } } a
    else
      let (s, n) := s.acceptRecord fn q r.asid r hdr none
      .launched (s.measure fn q n) n

end Sys2Proof.Machine
end

