-- ==== Sys2Proof/Machine/Firing.lean ====
section
/-!
DEFINITION. Machine/Firing.lean: an element's turn: which instances are ready (R111, R113, R121, R137), which one is chosen
(R117), whether the output queue has room (R108), and the latching of its operands (R272).
-/
namespace Sys2Proof.Machine

/-- An instance at an element: slot, tag, wave and generation, and the cycle since which it has been ready. -/
structure Inst where
  slot : Nat
  tag : Nat
  wave : Nat
  gen : Bool
  since : Nat
  deriving DecidableEq, Repr

/-- The instruction of a loaded slot. -/
def Fret.slotInstr (f : Fret) (velem slot : Nat) : Except Reject Instr :=
  match decode (tgetD f.slots (32 * velem + slot) []) with
  | .ok (i, _) => .ok i
  | .error r => .error r

/-- The ports a slot expects (R111), by number: 0 left, 1 right, 2 aux. -/
def portsOf (i : Instr) : List Nat :=
  let (l, r, a) := i.ports
  (if l then [0] else []) ++ (if r then [1] else []) ++ (if a then [2] else [])

/-- An entry of an instance at a port (R111: equal slot, tag, wave and generation). -/
def Entry.fits (e : Entry) (slot tag wave : Nat) (gen : Bool) (port : Nat) : Bool :=
  e.slot = slot && e.tag = tag && e.wave = wave && e.gen = gen && e.port = port

/-- The oldest waiting entry of an instance at a port (R113). -/
def oldestAt (es : List Entry) (slot tag wave : Nat) (gen : Bool) (port : Nat) : Option Entry :=
  minBy Entry.seq (es.filter (fun e => e.fits slot tag wave gen port))

/-- Whether a reconfiguration's rewrite holds an instance back (R137, step 4): a new-generation instance at the slot. -/
def Fret.holdsBack (f : Fret) (velem slot : Nat) (gen : Bool) : Bool :=
  match f.window with
  | none => false
  | some w => w.opened && w.velem = velem && w.slot = slot && gen = f.gen

/-- The cycle since which an instance has been ready (R117, R121): the cycle after its last operand came, or after the element
learned of the tag's grant. None where a port is empty or no thread holds the tag. -/
def readySince (p : Placement) (pf : Nat) (es : List Entry) (ports : List Nat) (e : Entry) : Option Nat :=
  match p.thread? e.tag with
  | none => none
  | some t =>
    let lat := fretLat (p.physFret 0) pf
    ports.foldl (fun acc port =>
      match acc, oldestAt es e.slot e.tag e.wave e.gen port with
      | some a, some x => some (max a (x.arrival + 1))
      | _, _ => none) (some (t.granted + lat + 1))

/-- The ready instances of an element, held-back ones among them, in cycle `now`. -/
def Fret.readyInsts (f : Fret) (p : Placement) (pf velem pelem now : Nat) : List Inst :=
  let es := (f.elem pelem).entries
  es.filterMap (fun e =>
    match f.slotInstr velem e.slot with
    | .error _ => none
    | .ok i =>
      match readySince p pf es (portsOf i) e with
      | none => none
      | some a => if a ≤ now then some ⟨e.slot, e.tag, e.wave, e.gen, a⟩ else none)

/-- R117: age class in cycle `now`. -/
def Inst.ageClass (x : Inst) (now : Nat) : Nat := if now - x.since > 64 then 0 else 1

/-- R117: the key by which the smallest is chosen. -/
def Inst.key (x : Inst) (p : Placement) (now : Nat) : Nat :=
  ((((x.ageClass now) * 2 ^ 24 + waveDist x.wave (p.oldest x.tag)) * 2 ^ 64 + x.since) * 2 ^ 5 + x.slot) * 2 ^ 14 + x.tag

/-- Entries an instance takes: the oldest of each expected port. -/
def instEntries (es : List Entry) (ports : List Nat) (x : Inst) : List Entry :=
  ports.filterMap (fun port => oldestAt es x.slot x.tag x.wave x.gen port)

/-- R115: an instance can be chosen only when all its entries are resident; spilled ones are brought back first. -/
def Fret.resident (f : Fret) (velem pelem : Nat) (x : Inst) : Bool :=
  match f.slotInstr velem x.slot with
  | .ok i => (instEntries (f.elem pelem).entries (portsOf i) x).all (fun e => !e.spilled)
  | .error _ => false

/-- R117: the instance an element chooses. -/
def Fret.choose (f : Fret) (p : Placement) (pf velem pelem now : Nat) : Option Inst :=
  minBy (fun x => x.key p now)
    ((f.readyInsts p pf velem pelem now).filter (fun x =>
      !f.holdsBack velem x.slot x.gen && f.rewrote ≠ some (32 * velem + x.slot, now) && f.resident velem pelem x))

/-- Places a firing needs in the output queue: one for every destination word (R108); one for a `spawn` (R282); and at least one
for a chain form, whose operation leaves through the queue (DEDUCED, log entry 10). -/
def roomNeeded (i : Instr) : Nat :=
  match i with
  | .spawn _ => 1
  | _ => if i.cls?.isSome then max 1 i.dests.length else i.dests.length

/-- The cycle from which an item may leave its element (R275). -/
def OutItem.ready : OutItem → Nat
  | .tok t => t.ready
  | .chain _ ready => ready
  | .spawn _ _ _ _ _ _ ready _ _ => ready

/-- The item that leaves an element next: the first to have left its unit's pipeline, and of those the first fired (R108, R275). -/
def Elem.outHead (e : Elem) : Option OutItem := minBy OutItem.ready e.outQ

/-- Whether a chosen firing has room: in the output queue (R108), where a result still in its unit's pipeline takes no place (R275), and for
`temit` in the trace share (R235). -/
def State.hasRoom (s : State) (task pf pelem : Nat) (i : Instr) : Bool :=
  ((s.elem pf pelem).outQ.filter (fun x => x.ready ≤ s.clock.cycle)).length + roomNeeded i ≤ 8 &&
    match i with
    | .temit _ => !(((s.task? task).map Task.trc).getD false && s.shareFull pf)
    | _ => true

/-- Route class of a queued item (R237): pod, fret, cluster, other cluster, WOB, engine. -/
def routeClass (p : Placement) (pf pelem : Nat) : OutItem → Nat
  | .tok t =>
    let pf' := p.physFret t.dest.fret.toNat
    let e' := p.physElem t.dest.fret.toNat t.dest.velem.toNat
    if pf = pf' then (if pelem / 2 = e' / 2 then 0 else 1) else if clusterOf pf = clusterOf pf' then 2 else 3
  | .chain op _ => match op.instr.desc with
    | .e _ => 5
    | _ => 4
  | .spawn _ _ _ _ _ _ _ _ _ =>
    let pf' := p.physFret 0
    if pf = pf' then 1 else if clusterOf pf = clusterOf pf' then 2 else 3

/-- A 32-bit counter advanced, saturating (R237). -/
def satInc (n : Nat) : Nat := min (n + 1) (2 ^ 32 - 1)
/-- A row of counters advanced. -/
def tabInc (t : Tab Nat) (k : Nat) : Tab Nat := tput t k (satInc (tgetD t k 0))

/-- The element's cycle classed BLOCK_OUT (R237). -/
def Elem.blocked (e : Elem) (cls now : Nat) : Elem :=
  { e with classes := { e.classes with blockOut := tabInc e.classes.blockOut cls }, lastTurn := some now }

/-- An instance's entries taken from the store, and the cycle classed FIRED (R237). -/
def Elem.took (e : Elem) (xs : List Entry) (now : Nat) : Elem :=
  { e with
    entries := e.entries.filter (fun y => !(xs.map Entry.seq).contains y.seq)
    classes := { e.classes with fired := satInc e.classes.fired }
    lastTurn := some now }

/-- The data word of a port among the entries taken. -/
def portData (xs : List Entry) (port : Nat) : Word := ((xs.find? (fun e => e.port = port)).map Entry.data).getD 0

/-- R272: the chosen instance latched: its entries taken, the firing counted (R239) and the task's first firing timed (R63). -/
def State.latch (s : State) (p : Placement) (f velem pf pelem : Nat) (i : Instr) (x : Inst) : State :=
  let xs := instEntries (s.elem pf pelem).entries (portsOf i) x
  let s := s.modElem pf pelem (fun e => e.took xs s.clock.cycle)
  let s := s.countEvent (clusterOf pf) p.task 0x02 1
  let s := if x.ageClass s.clock.cycle = 0 then s.countEvent (clusterOf pf) p.task 0x19 1 else s
  let s := s.modTask p.task (fun t => if t.start = 0 then { t with start := s.clock.ptpNs } else t)
  { s with focus := some ⟨p.task, p.idx, f, velem, pf, pelem, x.slot, x.tag, x.wave, x.gen,
      portData xs 0, portData xs 1, portData xs 2⟩ }

/-- Fret states in which elements fire: LIVE, and SERVICE for firmware graphs (R8, R84). -/
def FretSt.fires : FretSt → Bool
  | .live => true
  | .service => true
  | _ => false

/-- What an element's turn comes to. -/
inductive Turn
  /-- Nothing is chosen: the element fires nothing. -/
  | idle
  /-- A chosen instance has no room (R108). -/
  | block (s : State)
  /-- An instance is latched and its instruction fires. -/
  | fire (i : Instr) (s : State)
  /-- A slot that holds tokens holds no record. -/
  | bad (r : Reject)

/-- An element's turn in the present cycle (R108, R117): none while its placement is frozen, its fret is not LIVE, it has had
its turn in this cycle, the cycle is frozen (R26), or the device is fatal (R31). -/
def State.turn (s : State) (task pl f velem : Nat) : Turn :=
  match s.placement? task pl with
  | none => .idle
  | some p =>
    let pf := p.physFret f
    let pelem := p.physElem f velem
    let fr := s.fret pf
    if p.frozen || s.board.fatal || s.frozenNow || !fr.st.fires || fr.owner ≠ some (plKey task pl, f) || (fr.elem pelem).lastTurn = some s.clock.cycle
    then .idle
    else
      match (fr.elem pelem).entries.findSome? (fun e =>
          match fr.slotInstr velem e.slot with
          | .error r => some r
          | .ok _ => none) with
      | some r => .bad r
      | none =>
        match fr.choose p pf velem pelem s.clock.cycle with
        | none => .idle
        | some x =>
          match fr.slotInstr velem x.slot with
          | .error r => .bad r
          | .ok i =>
            if s.hasRoom task pf pelem i then .fire i (s.latch p f velem pf pelem i x)
            else .block (s.modElem pf pelem (fun e =>
              e.blocked ((e.outHead.map (routeClass p pf pelem)).getD 0) s.clock.cycle))

end Sys2Proof.Machine
end

