-- ==== Sys2Proof/Machine/Recfg.lean ====
section
/-!
DEFINITION. Machine/Recfg.lean: reconfiguration under the generation bit (R137 to R139) and its request (R391).
-/
namespace Sys2Proof.Machine

/-! ### Windows -/

/-- Clusters that hold a fret of a placement. -/
def Placement.clusters (p : Placement) : NSet := p.map.foldl (fun t r => nsAdd t (clusterOf r.2) ) []

/-- Whether a reconfiguration of a task has a window anywhere. -/
def State.hasWindow (s : State) (task : Nat) : Bool :=
  s.fab.frets.any (fun r => match r.2.window with
    | some w => w.task = task && r.2.st ≠ .scrub
    | none => false)

/-- Step 1 of R137 for the next slot of each fret: the new record is in the shadow slot and the reconfiguration token is sent. -/
def State.startRewrites (s : State) (ws : List Window) : State × List Window :=
  ws.foldl (fun (acc : State × List Window) w =>
    match acc.1.placement? w.task w.pl with
    | none => acc
    | some p =>
      let pf := p.physFret w.fret
      if (acc.1.fret pf).window.isSome then (acc.1, acc.2 ++ [w])
      else (acc.1.modFret pf (fun f => { f with window := some w }), acc.2)) (s, [])

/-- Each reconfiguration carried on: rewrites begun where frets are free for them, and those that are done answered with 0 (R391). -/
def State.advanceRecfg (s : State) (r : Recfg) : State :=
  let (s', left) := s.startRewrites r.todo
  if left.isEmpty && !s'.hasWindow r.task then
    ({ s' with fab := { s'.fab with recfgs := s'.fab.recfgs.filter (fun x => x.task ≠ r.task) } } : State).finishHeld r.op 0
  else
    let put := fun (x : Recfg) => if x.task = r.task then { x with todo := left } else x
    { s' with fab := { s'.fab with recfgs := s'.fab.recfgs.map put } }

/-- The reconfiguration of a task carried on. -/
def State.advanceTask (s : State) (task : Nat) : State :=
  match s.fab.recfgs.find? (fun r => r.task = task) with
  | some r => s.advanceRecfg r
  | none => s

/-- `RECONFIGURATION_TOKEN` (R137, steps 2 and 3): the token reaches its element in physical fret `subject`: the current generation
flips and the window opens; each cluster of the placement takes the new map generation after it, at a moment of its own (log entry 48), and then
sends its flush marker. -/
def execReconfigurationToken (s : State) : Out :=
  let pf := s.subject
  let fr := s.fret pf
  s.inCycle "RECONFIGURATION_TOKEN" <| match fr.window with
  | some w =>
    match s.placement? w.task w.pl with
    | some p =>
      if w.opened then .refused (.notEnabled "RECONFIGURATION_TOKEN")
      else
        let g := !fr.gen
        let s := s.setFret pf { fr with gen := g, window := some { w with opened := true, markers := p.clusters } }
        .next (s.setPlacement { p with
          mapGen := if g then nsAdd p.mapGen w.fret else nsDel p.mapGen w.fret
          regen := tput p.regen w.fret s.clock.cycle })
    | none => .refused (.notEnabled "RECONFIGURATION_TOKEN")
  | none => .refused (.notEnabled "RECONFIGURATION_TOKEN")

/-- `FLUSH_MARKER_ARRIVAL` (R137, step 3): the marker of one cluster, which has taken the new map generation, arrives, behind every token that the cluster stamped with the old
generation for that element. -/
def execFlushMarkerArrival (pf cluster : Nat) (s : State) : Out :=
  let fr := s.fret pf
  s.inCycle "FLUSH_MARKER_ARRIVAL" <| match fr.window with
  | some w =>
    let p? := s.placement? w.task w.pl
    let pe := (p?.map (fun p => p.physElem w.fret w.velem)).getD 0
    if w.opened && nsHas w.markers cluster && p?.all (fun p => p.mapTaken w.fret cluster s.clock.cycle)
        && !s.fab.net.any (fun t => t.src = cluster && t.pf = pf && t.pelem = pe && t.gen ≠ fr.gen) then
      .next (s.setFret pf { fr with window := some { w with markers := nsDel w.markers cluster } })
    else .refused (.notEnabled "FLUSH_MARKER_ARRIVAL")
  | none => .refused (.notEnabled "FLUSH_MARKER_ARRIVAL")

/-- Whether a request of a fret's WOB share, stamped with a generation that satisfies a test, awaits its reply. -/
def State.awaitsReply (s : State) (pf : Nat) (g : Bool → Bool) : Bool :=
  let hit := fun (op : WobOp) => s.homePfOf op = pf && g op.gen
  s.mem.reqs.any (fun r => hit r.op) || s.mem.txns.any (fun t => hit t.req.op) || s.mem.replies.any (fun r => hit r.op)
    || s.mem.acks.any (fun a => hit a.op) || s.mem.ldcWait.any (fun r => hit r.op) || s.mem.waits.any (fun w => hit w.op)

/-- Whether an old-generation instance is ready at the slot of a window (R137, step 5). -/
def State.oldReady (s : State) (pf : Nat) (w : Window) : Bool :=
  let fr := s.fret pf
  match s.placement? w.task w.pl with
  | none => false
  | some p => (fr.readyInsts p pf w.velem (p.physElem w.fret w.velem) s.clock.cycle).any (fun x => x.slot = w.slot && x.gen ≠ fr.gen)

/-- A fault of the task has frozen a window's placement: no instance of it fires any more, and the window closes all the same (R139). -/
def State.faultFrozen (s : State) (w : Window) : Bool :=
  ((s.placement? w.task w.pl).map Placement.frozen).getD false && ((s.task? w.task).map (fun t => t.fault.isSome)).getD false

/-- Whether all that the rewrite of a fret's window waits for holds (R137, step 5). -/
def State.rewriteDue (s : State) (pf : Nat) (w : Window) : Bool :=
  let fr := s.fret pf
  w.opened && w.markers.isEmpty && !s.awaitsReply pf (fun g => g ≠ fr.gen) && (!s.oldReady pf w || s.faultFrozen w)

/-- A cycle ends: each window tells whether all that its rewrite waits for holds. -/
def State.noteWindows (s : State) : State :=
  (s.fab.frets.filter (fun r => r.2.window.isSome)).foldl (fun s r =>
    s.modFret r.1 (fun f => { f with window := f.window.map (fun w => { w with ready := s.rewriteDue r.1 w }) })) s

/-- Every entry of a fret stamped with its current generation. -/
def Fret.restamp (f : Fret) : Fret :=
  let put := fun (e : Entry) => { e with gen := f.gen }
  { f with elems := f.elems.map (fun r => (r.1, { r.2 with entries := r.2.entries.map put })) }

/-- `RECONFIG_REWRITE_COMPLETE` (R137, step 5; R139) in physical fret `subject`, in a cycle after one at whose end all that it waits for held. The
slot fires under its new record from the next cycle on. -/
def execReconfigRewriteComplete (s : State) : Out :=
  let pf := s.subject
  let fr := s.fret pf
  s.inCycle "RECONFIG_REWRITE_COMPLETE" <| match fr.window with
  | some w =>
    if w.ready && s.rewriteDue pf w then
      let s := s.modPlacement w.task w.pl (fun p => { p with regen := tdel p.regen w.fret })
      let at_ := 32 * w.velem + w.slot
      .next ((s.setFret pf { fr.restamp with
        slots := tput fr.slots at_ w.bytes, window := none, rewrote := some (at_, s.clock.cycle) }).advanceTask w.task)
    else .refused (.notEnabled "RECONFIG_REWRITE_COMPLETE")
  | none => .refused (.notEnabled "RECONFIG_REWRITE_COMPLETE")

/-- `RECONFIG_SCRUB_EXPIRY` (R139): fret `subject`, killed during a window, is held in SCRUB no longer: no request of either
generation awaits a reply, or 300 µs have passed. -/
def execReconfigScrubExpiry (s : State) : Out :=
  let pf := s.subject
  let fr := s.fret pf
  match fr.window with
  | some w =>
    event "RECONFIG_SCRUB_EXPIRY"
      (fr.st = .scrub && (!s.awaitsReply pf (fun _ => true) || w.since + 300000 ≤ s.clock.ns))
      (s.setFret pf { fr with window := none })
  | none => .refused (.notEnabled "RECONFIG_SCRUB_EXPIRY")

/-! ### The request (R391) -/

/-- What becomes of a `launch.recfg`. -/
inductive RecfgOutcome
  | fault (code : FCode) (addr : Nat)
  | refused (reason : Nat)
  | rejected (target code addr : Nat)
  | waits
  | go (target : Nat) (slots : List (Nat × List Byte)) (ncfgid : Word) (nimage : Nat)
  deriving DecidableEq, Repr

/-- The bytes of a request, where the issuing task may read all of them. -/
def State.recfgBytes (s : State) (t : Task) (a : Nat) : Except Nat (List Byte) :=
  match s.firstBadVa t false a 24 with
  | some x => .error x
  | none =>
    let n := field (s.readVa t.space a 24) 20 2
    match s.firstBadVa t false a (24 + 4 * min n 64) with
    | some x => .error x
    | none => .ok (s.readVa t.space a (24 + 4 * min n 64))

/-- Fields in their ranges (reason 1 of R391). -/
def recfgFields (d : List Byte) (nf : Nat) : Bool :=
  let n := field d 20 2
  let ss := (List.range n).map (fun k => field d (24 + 4 * k) 4)
  1 ≤ n && n ≤ 64 && field d 8 8 / 2 ^ 52 = 0 && field d 8 8 % 4096 = 0 && field d 22 2 = 0 && risingNats ss
    && ss.all (fun a => a / 256 < nf)

/-- The record that a task has loaded at a slot address, with its static wave id. -/
def State.loadedSlot (s : State) (task addr : Nat) : Option (List Byte × Nat) :=
  match s.placement? task 0 with
  | none => none
  | some p =>
    let fr := s.fret (p.physFret (addr / 256))
    match tget fr.slots (addr % 256), tget fr.swids (addr % 256) with
    | some b, some w => some (b, w)
    | _, _ => none

/-- Reason 2 of R391: whether the named slots are occupied in both images with the same static waves. -/
def State.sameWaves (s : State) (target : Nat) (g : Img) (slots : List Nat) : Bool :=
  slots.all (fun a =>
    match s.loadedSlot target a, recAt g.frets a with
    | some (_, w), some _ => g.swid a = w
    | _, _ => false)

/-- The checks of R262 for the named slots of a new image. -/
def State.checkNamed (s : State) (t : Task) (g : Img) (image : Nat) (slots : List Nat) (cfgid : Nat) : Except ImgErr Unit := do
  s.checkSig t.space image g
  checkPriv g t.svc
  (slots.filterMap (recAt g.frets)).forM (checkRecord g.frets)
  g.waves.forM (checkWave g.frets)
  let body ← s.imgRead t.space image 0 g.hdr.body
  imgCheck (cfgidOf body = cfgid) 7 0

/-- Whether a target's reconfiguration has to wait (R139): a request made while the task was SAVED waits on through its return until it is RUNNING
(log entry 19). -/
def State.recfgWaits (s : State) (t : Task) : Bool :=
  t.st = .saving || t.st = .saved || t.st = .killing
    || (t.image.isSome && (t.st = .reswait || t.st = .admitwait || t.st = .fretwait || t.st = .loading))
    || s.fab.recfgs.any (fun r => r.task = t.num) || (s.placementsOf t.num).any (fun p => !p.moving.isEmpty)

/-- A `launch.recfg` decided (R391, R392). -/
def State.recfgOutcome (s : State) (t : Task) (a : Nat) : RecfgOutcome :=
  match s.recfgBytes t a with
  | .error x => .fault .lease x
  | .ok d =>
    let num := field d 16 4
    if num ≠ 0 && num ≠ t.num && !t.svc then .fault .priv a
    else
      match s.task? (if num = 0 then t.num else num) with
      | none => .refused 3
      | some g =>
        if !recfgFields d g.nf then .refused 1
        else if s.recfgWaits g then .waits
        else if g.st ≠ .running || g.ending then .refused 3
        else
          let image := field d 8 8
          let slots := (List.range (field d 20 2)).map (fun k => field d (24 + 4 * k) 4)
          match s.headerNf g.space image with
          | none => .rejected g.num 1 image
          | some nf =>
            if nf ≠ g.nf then .refused 2
            else match s.readImg g.space image nf with
              | .error e => .rejected g.num e.1 (image + e.2)
              | .ok img =>
                if !s.sameWaves g.num img slots then .refused 2
                else match s.checkNamed g img image slots (field d 0 8) with
                  | .error e => .rejected g.num e.1 (image + e.2)
                  | .ok () =>
                    .go g.num (slots.filterMap (fun x => (recAt img.frets x).map (fun r => (x, r.bytes))))
                      (BitVec.ofNat 64 (field d 0 8)) image

/-- The windows of a reconfiguration: each named slot in each placement (R137). -/
def State.recfgWindows (s : State) (target : Nat) (slots : List (Nat × List Byte)) : List Window :=
  (s.placementsOf target).flatMap (fun p => slots.map (fun q =>
    ⟨target, p.idx, q.1 / 256, q.1 % 256 / 32, q.1 % 32, q.2, false, [], 0, false⟩))

/-- The cached records of a task's frets cleared. -/
def State.uncache (s : State) (target : Nat) (frets : List Nat) : State :=
  (s.placementsOf target).foldl (fun s p => frets.foldl (fun s f => s.modFret (p.physFret f) (fun x => { x with cfg := none })) s) s

/-- Every cached record of a task's frets cleared: its image has been rejected (R86, R262). -/
def State.uncacheAll (s : State) (target : Nat) : State :=
  s.uncache target (List.range (((s.task? target).map Task.nf).getD 0))

/-- A reconfiguration begun (R137): the task's `CFGID` is the new one, and its header names the new image (DEDUCED, log entry 19). -/
def State.beginRecfg (s : State) (op : WobOp) (target : Nat) (slots : List (Nat × List Byte)) (ncfgid : Word) (nimage : Nat) : State :=
  let s := s.modTask target (fun t => { t with cfgid := ncfgid, hdr := leBytes 8 ncfgid.toNat ++ leBytes 8 nimage ++ t.hdr.drop 16 })
  let s := s.uncache target (slots.map (fun q => q.1 / 256))
  let r : Recfg := ⟨target, op, s.recfgWindows target slots⟩
  ({ s with fab := { s.fab with recfgs := s.fab.recfgs ++ [r] } } : State).advanceRecfg r

end Sys2Proof.Machine
end

