-- ==== Sys2Proof/Machine/HeldOps.lean ====
section
/-!
DEFINITION. Machine/HeldOps.lean: committed held operations as their WOB issues them (R128, R331, R345): stores, atomics, counted forms,
fences, prefetches, flushes, waits, engine commands (R354) and the system forms of the chain (R385 to R391).
-/
namespace Sys2Proof.Machine

/-! ### When an operation may be issued (R331, R345, R354) -/

/-- An engine form (R354), as against the system forms of Format E. -/
def isEngine : Instr → Bool
  | .brk _ | .swrEvsel _ _ | .swrEvc _ _ | .swrBeat _ | .swrQerr _ | .swrQcons _ | .launch _ | .launchDisp _ | .launchRecfg _ =>
    false
  | i => (Instr.fmtE? i).isSome

/-- An engine form without memory access (R189). -/
def isTileOnly : Instr → Bool
  | .tRel _ | .tZero _ | .tStat _ | .mmTern _ _ _ | .mmMx4 _ _ _ | .mmD _ _ | .drain _ _ => true
  | _ => false

/-- A form performed only once every earlier access of its thread is (R331, R345, R189, R193, R390). -/
def releases : Instr → Bool
  | .stRel _ | .stIo _ | .ldIo _ | .bararr _ | .launch _ | .launchDisp _ => true
  | .fence k _ => k ≠ .acquire
  | i => isEngine i && !isTileOnly i

/-- An accessed line that the home cluster has already asked for: a second request for it waits (log entry 15). -/
def State.lineFree (s : State) (t : Task) (p : Placement) (op : WobOp) : Bool :=
  match op.instr with
  | .st _ | .stRel _ | .stc _ =>
    op.scratch || (op.host && !s.usesHlc t.fn) || !s.asked (p.homeCluster op.tag) (op.pa / 128)
  | _ => s.readMayGo t p op

/-- Whether an operation waits for a store of its thread to be acknowledged: one that is neither a plain load nor a plain store for a store to the same
line, a store for one that writes a byte in common. What the WOB forwards to a later read is then never older than the last write before that read
(R179, log entry 15). -/
def storeBefore (bef : List WobOp) (op : WobOp) : Bool :=
  hasAddr op.instr && !forwards op.instr
    && bef.any (fun o => isStore o.instr && o.scratch = op.scratch && (if isStore op.instr then o.overlaps op else o.pa / 128 = op.pa / 128))

/-- A command of a wave committed under STEP, held until RESUME (R230). -/
def State.stepHeld (s : State) (op : WobOp) : Bool :=
  isEngine op.instr && s.obs.dbg.attached = some op.task
    && s.obs.dbg.steppedWaves.any (fun w => w = (op.pl, op.tag, op.wave))

/-- A near-memory operand range: address and bytes, with whether it is written. -/
def nmcRanges (op : WobOp) : List (Nat × Bool) :=
  match op.instr with
  | .nmcAxpy _ | .nmcSgd _ | .nmcFadd _ => [(op.left.toNat, true), (op.right.toNat, false)]
  | .nmcSum _ => [(op.left.toNat, false)]
  | .nmcScal _ | .nmcFill _ => [(op.left.toNat, true)]
  | _ => []

/-- `COUNT` of an engine form. -/
def WobOp.count (op : WobOp) : Nat := ((Instr.fmtE? op.instr).map (fun e => e.count.toNat)).getD 0

def isNmc (i : Instr) : Bool :=
  match i with
  | .nmcAxpy _ | .nmcSgd _ | .nmcScal _ | .nmcFill _ | .nmcSum _ | .nmcFadd _ => true
  | _ => false

/-- A near-memory command waits at issue while an operand lies in a piece under migration (R160). -/
def State.nmcWaits (s : State) (t : Task) (op : WobOp) : Bool :=
  isNmc op.instr && (nmcRanges op).any (fun r => match s.physOf t.space r.1 with
    | some (pa, _) => (s.mem.migAt pa).isSome
    | none => false)

/-- The next committed operation of a tag that is not yet issued, with the thread's operations before it. -/
def Placement.nextHeld (p : Placement) (tag : Nat) : Option (WobOp × List WobOp) :=
  match p.queue.find? (fun o => o.tag = tag && o.st = .committed) with
  | none => none
  | some op => some (op, (p.queueOf op.serial).takeWhile (fun o => o.seq ≠ op.seq))

/-- The operation that this event issues, where R331 lets it go. -/
def State.heldReady (s : State) (task pl tag : Nat) : Option (Task × Placement × WobOp × List WobOp) :=
  match s.task? task, s.placement? task pl with
  | some t, some p =>
    match p.nextHeld tag with
    | none => none
    | some (op, bef) =>
      if !bef.any holdsBackAll && !bef.any (fun o => isEngine o.instr && o.st = .issued)
          && (!releases op.instr || !bef.any WobOp.access) && !storeBefore bef op && s.lineFree t p op && !s.stepHeld op && !s.nmcWaits t op then
        some (t, p, op, bef)
      else none
  | _, _ => none

/-! ### Stores and atomics -/

/-- A store on the uncached host path (R66): posted in chain order, and acknowledged once every cluster sees it (R180); lost during a link loss
(R44). A store to a page under migration is performed at the hub, for all at once (R173). -/
def State.storeUncached (s : State) (t : Task) (op : WobOp) : State :=
  let s := s.acCountAccess t.fn op.pa
  if s.board.hostLoss then s.finishHeld op 0
  else if (s.mem.migAt op.pa).isSome then (s.writePiece t.fn op.pa op.size op.right.toNat).finishHeld op 0
  else ((s.hostPost op (leBytes op.size op.right.toNat)).countOp op 0x0A).pushAck op (op.pa / 128) none none

/-- The copy that a store may write in the L1: the placement's own, in E or M, on a line whose stores are not performed at home. -/
def State.ownedCopy (s : State) (p : Placement) (op : WobOp) : Option L1Line :=
  match s.l1Hit p (p.homeCluster op.tag) (op.pa / 128) with
  | some x => if x.st = .s || s.storeAtHome (op.pa / 128) then none else some x
  | none => none

/-- A store performed (R332): in the pool share, at the host-line cache, on the uncached path, in an L1 copy that is owned, or by a
request to the home. -/
def State.issueStore (s : State) (t : Task) (p : Placement) (op : WobOp) : State :=
  let s := s.noteWrite op op.right.toNat
  let c := p.homeCluster op.tag
  let line := op.pa / 128
  if op.scratch then
    (s.modFret (p.homePf op.tag) (fun f =>
      { f with scratch := memPutBytes f.scratch op.pa (leBytes op.size op.right.toNat) })).finishHeld op 0
  else if op.host && !s.usesHlc t.fn then s.storeUncached t op
  else if op.host then s.pushReq .hlcWrite op line
  else
    match s.ownedCopy p op with
    | some x =>
      ((s.snapshot op.task op.pa).fillL1 p c line .m (lineWrite x.data (op.pa % 128) op.size op.right.toNat)).finishHeld op 0
    | none =>
      let s := match s.l1Hit p c line with
        | some _ => s
        | none => s.clearOthers c line
      s.pushReq .write op line

/-- An `atom` on the uncached host path (R67): LEASE where the function's AtomicOps are not enabled. -/
def State.atomUncached (s : State) (t : Task) (op : WobOp) : State :=
  if !(s.hostFn t.fn).atomicOp then s.failHeld op .lease 0 op.ea
  else
    let s := ((s.acCountAccess t.fn op.pa).hlcShare (op.pa / 128)).settleRange op.pa op.size
    if s.board.hostLoss then s.failHeld op .hostlink 0 op.ea
    else if nsHas s.mem.hostPoison (op.pa / 128) then s.failHeld op .uecc 0 op.lineVa
    else
      let old := leNat (memBytes s.mem.hostMem (s.hostAddr op.pa) op.size)
      let (new, fl) := atomNew op old
      let s := match new with
        | some v => s.writePiece t.fn op.pa op.size v
        | none => s
      (s.noteAtom op new fl).answerHeld op (op.acc.extend old)

/-- An `atom` in the pool share (R144). -/
def State.atomScratch (s : State) (p : Placement) (op : WobOp) : State :=
  let pf := p.homePf op.tag
  let old := leNat (memBytes (s.fret pf).scratch op.pa op.size)
  let (new, fl) := atomNew op old
  let s := match new with
    | some v => s.modFret pf (fun f => { f with scratch := memPutBytes f.scratch op.pa (leBytes op.size v) })
    | none => s
  (s.noteAtom op new fl).answerHeld op (op.acc.extend old)

/-- An `atom` issued (R156, R343). -/
def State.issueAtom (s : State) (t : Task) (p : Placement) (op : WobOp) : State :=
  if op.scratch then s.atomScratch p op
  else if op.host && !s.usesHlc t.fn then s.atomUncached t op
  else if op.host then s.pushReq .hlcWrite op (op.pa / 128)
  else s.pushReq .atHome op (op.pa / 128)

/-! ### Counted forms, prefetch, flush, waits -/

/-- `stc` or `fillc` issued (R335): a count of 0 establishes nothing. -/
def State.issueEstablish (s : State) (t : Task) (p : Placement) (op : WobOp) : State :=
  if (estCount op).1 = 0 then
    match op.instr with
    | .stc _ => s.issueStore t p op
    | _ => s.finishHeld op 0
  else s.pushReq .establish op (op.pa / 128)

/-- Pages of a range, by virtual address. -/
def pagesOf (va n : Nat) : List Nat :=
  if n = 0 then [] else (List.range ((va + n - 1) / 4096 - va / 4096 + 1)).map (fun k => 4096 * (va / 4096 + k))

/-- The leased pages of a `pref`'s range (R346): bytes outside every lease or in the scratch window are ignored. -/
def prefPages (t : Task) (op : WobOp) : List Nat :=
  let hi := min (op.ea + op.right.toNat) (2 ^ 52)
  (pagesOf op.ea (hi - op.ea)).filter (fun va => t.leased (max va op.ea) false && !inScratch va)

/-- The host-tier regions in which some pages of a task lie (R176). -/
def State.hostRegions (s : State) (t : Task) (vas : List Nat) : NSet :=
  ((vas.filterMap (fun va => (s.physOf t.space va).map Prod.fst)).filter isHost).foldl (fun u pa => nsAdd u (acKey t.fn pa)) []

/-- R346, step 1: the access-counter entries of the range's host-tier regions are posted, each once, as at a `TIER` 1 admission. -/
def State.prefPost (s : State) (t : Task) (op : WobOp) : State := (s.hostRegions t (prefPages t op)).foldl (fun s r => s.acReach r.1 1) s

/-- `flush` issued (R347). -/
def State.issueFlush (s : State) (t : Task) (op : WobOp) : State :=
  if op.host && !s.usesHlc t.fn then s.finishHeld op 0
  else s.pushReq (if op.host then .hlcWrite else .atHome) op (op.pa / 128)

/-- `waitl` performed (R348): checked where its word lies; the hub registers a wait on the uncached host tier and polls it. What it looks at there is
what its cluster sees, so that no later read of the thread sees less (R192). -/
def State.issueWaitl (s : State) (t : Task) (op : WobOp) : State :=
  if op.host && !s.usesHlc t.fn then
    let s := (s.acCountAccess t.fn op.pa).hlcShare (op.pa / 128)
    let v := s.hostSeen (s.opCluster op) op.pa 8
    if s.board.hostLoss then s.failHeld op .hostlink 0 op.ea
    else if nsHas s.mem.hostPoison (op.pa / 128) then s.failHeld op .uecc 0 op.lineVa
    else if op.right.toNat ≤ v then s.finishHeld op (BitVec.ofNat 64 v)
    else
      let s := s.countOp op 0x0A
      { s with mem := { s.mem with waits := s.mem.waits ++ [⟨op, op.pa / 128, true, s.clock.ns⟩] } }
  else s.pushReq (if op.host then .hlcRead else .atHome) op (op.pa / 128)

/-! ### Engine commands at issue (R354) -/

/-- A command's failure: code, reason, address. -/
abbrev CmdFault := FCode × Nat × Nat

/-- The checks of a near-memory command that its home WOB makes at issue (R354, R356, R160, R376), in the order of R222. Of the ENGINE reasons, which
the rules do not order, the model gives NMC_SPLIT for alignment and page, then NMC_TIER, then NMC_SPLIT for unequal channels (log entry 36). -/
def State.nmcFault (s : State) (t : Task) (op : WobOp) : Option CmdFault :=
  let n := op.count
  let rs := nmcRanges op
  let pas := rs.filterMap (fun r => (s.physOf t.space r.1).map Prod.fst)
  match rs.findSome? (fun r => s.firstBadVa t r.2 r.1 (4 * n)) with
  | some a => some (.lease, 0, a)
  | none =>
    match rs.find? (fun r => r.1 % 4 ≠ 0 || n = 0 || 4096 < r.1 % 4096 + 4 * n) with
    | some r => some (.engine, 1, r.1)
    | none =>
      match rs.find? (fun r => ((s.physOf t.space r.1).map (fun q => isHost q.1)).getD false) with
      | some r => some (.engine, 2, r.1)
      | none => if pas.any (fun a => channelOf a ≠ channelOf (pas.headD 0)) then some (.engine, 1, op.right.toNat) else none

/-- An engine form issued: a near-memory command that fails its checks faults at once; any other waits for its unit's queue. -/
def State.issueEngine (s : State) (t : Task) (op : WobOp) : State :=
  if isNmc op.instr then
    match s.nmcFault t op with
    | some (code, reason, addr) => s.failHeld op code reason addr
    | none => s.putOp { op with pa := ((s.physOf t.space op.left.toNat).map Prod.fst).getD 0 }
  else s

/-! ### Barrier requests (R134, R349) -/

/-- The barrier that a word names: its placement index and number, and whether it is a level barrier; none for an invalid word. -/
def barrierOf (t : Task) (pl nf : Nat) (w : Word) : Option (Nat × Nat × Bool) :=
  let n := bits w 16 0
  if w.getLsbD 20 then (if n < t.levels then some (0, n, true) else none)
  else if n < 32 * nf then some (pl, n, pl = 0 && n < t.levels) else none

/-- The physical fret of a barrier (R134). -/
def State.barPf (s : State) (task pl n : Nat) : Nat := ((s.placement? task pl).map (fun p => p.physFret (n / 32))).getD 0

/-- A request on its way to its barrier: it arrives after the latency of a token to the barrier's fret (R134). -/
def State.sendBarrier (s : State) (t : Task) (p : Placement) (op : WobOp) : State :=
  let lat := match barrierOf t op.pl p.nf op.left with
    | some (pl, n, _) => fretLat (p.homePf op.tag) (s.barPf t.num pl n)
    | none => 0
  { s.bump with fab := { s.fab with barQ := s.fab.barQ ++ [⟨op, s.clock.cycle + lat, false, s.seqCtr⟩] } }

/-! ### System forms of the chain (R387 to R391) -/

/-- A counter selection or count written in a cluster (R388, R238); a cluster word above 511 is ignored. -/
def State.swrCluster (s : State) (op : WobOp) (sel : Bool) (n : Nat) : State :=
  let k := 4 * op.left.toNat + n
  if 511 < op.left.toNat then s
  else if sel then { s with fab := { s.fab with evsel := tput s.fab.evsel k (op.right &&& 0xFFFFFFFF000100FF) } }
  else { s with fab := { s.fab with evc := tput s.fab.evc k (op.right &&& 0x0000FFFFFFFFFFFF) } }

/-- `launch` (R390): a child task, or bit [63] where R71 refuses it; a misaligned or unleased header ends the parent with LEASE. -/
def State.issueLaunch (s : State) (t : Task) (op : WobOp) : State :=
  let a := op.left.toNat
  if a % 256 ≠ 0 then s.failHeld op .lease 0 a
  else match s.firstBadVa t false a 256 with
    | some x => s.failHeld op .lease 0 x
    | none =>
      if !s.mayAccept t.fn then s.finishHeld op (BitVec.ofNat 64 (2 ^ 63))
      else
        let (s, n) := s.acceptChild t (s.readVa t.space a 256)
        s.finishHeld op (BitVec.ofNat 64 n)

/-- `launch.disp` (R390): the dispatcher's step 3 of R61, from the record at a device physical address; `CONS` goes on by one where the task is
accepted. -/
def State.issueLaunchDisp (s : State) (op : WobOp) : State :=
  let fn := bits op.right 13 8
  let q := bits op.right 5 0
  match s.takeRecord fn q (s.readBytes op.left.toNat 128) with
  | .launched s n => (s.queueNext fn q).finishHeld op (BitVec.ofNat 64 n)
  | .noRoom => s.finishHeld op (BitVec.ofNat 64 (2 ^ 63))
  | .hdrAddr => (s.queueError fn q 4).finishHeld op (BitVec.ofNat 64 (2 ^ 63))

/-- `launch.recfg` (R390, R391). A rejection's result is not stated: it is a free value. -/
def State.issueRecfg (s : State) (t : Task) (op : WobOp) : State :=
  match s.recfgOutcome t op.left.toNat with
  | .fault code a => s.failHeld op code 0 a
  | .refused r => s.finishHeld op (BitVec.ofNat 64 (2 ^ 63 + r))
  | .rejected target code a =>
    let s' := match s.task? target with
      | some g => s.noteCfgErr g (s.taskDie target) code a
      | none => s
    (((s'.uncacheAll target).decideEnd target .rejected 9 a).drawFree).finishHeld op (Config.freeWord s.freeCtr)
  | .waits => s
  | .go target slots cfgid image => s.beginRecfg op target slots cfgid image

/-! ### `HELD_OPERATION_ISSUE` -/

/-- One operation issued, marked so in its entry. -/
def State.issue (s : State) (t : Task) (p : Placement) (op : WobOp) : State :=
  match op.instr with
  | .st _ | .stRel _ => s.issueStore t p op
  | .stIo _ => (s.ioWrite op.ea op.right).finishHeld op 0
  | .ldc _ => s.pushReq .consume op (op.pa / 128)
  | .stc _ | .fillc _ => s.issueEstablish t p op
  | .relc _ => s.pushReq .relc op (op.pa / 128)
  | .fence _ _ => s.finishHeld op 0
  | .pref _ => s.prefPost t op
  | .flush _ => s.issueFlush t op
  | .waitl _ => s.issueWaitl t op
  | .barinit _ | .bararr _ | .barwait _ => s.sendBarrier t p op
  | .brk _ => s.finishHeld op 0
  | .swrEvsel n _ => (s.swrCluster op true n.toNat).finishHeld op 0
  | .swrEvc n _ => (s.swrCluster op false n.toNat).finishHeld op 0
  | .swrBeat _ => ({ s with board := { s.board with beat := s.board.beat + 1, beatSince := s.clock.ns } } : State).finishHeld op 0
  | .swrQerr _ => ((s.disableQueue (bits op.right 13 8) (bits op.right 5 0) (bits op.right 23 16)).setEvt (bits op.right 13 8) 0).finishHeld op 0
  | .swrQcons _ => (s.queueNext (bits op.right 13 8) (bits op.right 5 0)).finishHeld op 0
  | .launch _ => s.issueLaunch t op
  | .launchDisp _ => s.issueLaunchDisp op
  | .launchRecfg _ => s.issueRecfg t op
  | i => if isAtom i then s.issueAtom t p op else if isEngine i then s.issueEngine t op else s.performRead t p op

/-! ### Translation again (R102, R171) -/

/-- A task's operation translated again: its place, or its fault (R169). -/
def State.retranslate (s : State) (op : WobOp) : State :=
  match s.task? op.task with
  | none => s
  | some t =>
    let s := s.tlbFill t.space op.ea
    match s.entryFault t op with
    | none => s.putOp (s.placeOp t op)
    | some code => if op.st = .entered then s.faultOp op .beforeCommit code 0 op.ea else s.failHeld op code 0 op.ea

/-- An operation whose access has been translated and not yet sent. -/
def WobOp.unsent (op : WobOp) : Bool :=
  (op.st = .entered || op.st = .committed) && hasAddr op.instr && !isIo op.instr && !op.scratch && !op.squashed

/-- Operations of address spaces that wait in WOBs. -/
def State.unsentOf (s : State) (space : Nat → Bool) : List WobOp :=
  (s.fab.placements.map Prod.snd).flatMap (fun p => match s.task? p.task with
    | some t => if space t.space then (p.wob ++ p.queue).filter WobOp.unsent else []
    | none => [])

/-- A reconfiguration that has to wait is not issued yet (R139). -/
def State.recfgHeld (s : State) (t : Task) (op : WobOp) : Bool :=
  match op.instr with
  | .launchRecfg _ => decide (s.recfgOutcome t op.left.toNat = .waits)
  | _ => false

/-- Whether a thread's next held operation may be issued now. -/
def State.mayIssue (s : State) (task pl tag : Nat) : Bool :=
  match s.heldReady task pl tag with
  | none => false
  | some (t, _, op, _) => !s.recfgHeld t op

/-- Whether a thread's share issues for it now: one operation per cycle, and the threads in turn (R128, R140). -/
def State.issueTurn (s : State) (p : Placement) (tag : Nat) : Bool :=
  let tags := (p.threads.map Prod.fst ++ p.queue.map WobOp.tag).filter (fun t => p.home t = p.home tag && s.mayIssue p.task p.idx t)
  match tget p.issues (p.home tag) with
  | none => decide (roundFirst 16383 tags = some tag)
  | some (last, cycle) => cycle < s.clock.cycle && decide (roundFirst last tags = some tag)

/-- An operation issued by its share, which notes whom it served and when. -/
def Placement.noteIssue (p : Placement) (tag now : Nat) : Placement := { p with issues := tput p.issues (p.home tag) (tag, now) }

/-- `HELD_OPERATION_ISSUE` (R128, R331, R140): the next held operation of a thread. -/
def execHeldOperationIssue (task pl : Nat) (tag : Tag) (s : State) : Out :=
  s.inCycle "HELD_OPERATION_ISSUE" <| match s.heldReady task pl tag.toNat with
  | none => .refused (.notEnabled "HELD_OPERATION_ISSUE")
  | some (t, p, op, bef) =>
    if s.recfgHeld t op || !s.issueTurn p tag.toNat then .refused (.notEnabled "HELD_OPERATION_ISSUE")
    else
      let op := s.stampGen { op with st := .issued, fwd := if op.early then fwdOf bef op else [] }
      let s := s.modPlacement task pl (fun p => p.noteIssue tag.toNat s.clock.cycle)
      .next ((s.putOp op).issue t p op)

end Sys2Proof.Machine
end

