-- ==== Sys2Proof/Machine/Tiles.lean ====
section
/-!
DEFINITION. Machine/Tiles.lean: tiles and the tile tables (R146, R148, R149), shapes and layouts (R201, R202, R359), engine units
(R354, R355), and consuming tile reads at acceptance.
-/
namespace Sys2Proof

/-- Bytes of an element; 0 for the packed formats. -/
def TFmt.esize : TFmt → Nat
  | .mx4 | .trit => 0
  | .s8 | .e4m3 | .e5m2 => 1
  | .bf16 | .f16 => 2
  | .f32 | .s32 => 4

/-- B of R201: bytes of a row of `cols` elements. -/
def TFmt.rowBytes (f : TFmt) (cols : Nat) : Nat :=
  match f with
  | .mx4 => cols / 2
  | .trit => cols / 5
  | f => f.esize * cols

end Sys2Proof

namespace Sys2Proof.Machine

/-! ### Shapes (R202, R359) -/

/-- Bytes of a tile (R359). -/
def tileBytes (f : TFmt) (rows cols : Nat) : Nat := rows * f.rowBytes cols + if f = .mx4 then rows * (cols / 32) else 0
/-- `GCNT` (R202). -/
def granules (f : TFmt) (rows cols : Nat) : Nat := (tileBytes f rows cols + 4095) / 4096

def shapeRows (w : Word) : Nat := bits w 27 16
def shapeCols (w : Word) : Nat := bits w 15 0
def shapePitch (w : Word) : Nat := bits w 63 32

/-- The ENGINE reason that a shape meets (R359, then R202), if any. -/
def shapeReason (f : TFmt) (w : Word) : Option Nat :=
  if shapeRows w = 0 || shapeCols w = 0 || bits w 31 28 ≠ 0 then some 7
  else if (f = .mx4 && shapeCols w % 32 ≠ 0) || (f = .trit && shapeCols w % 5 ≠ 0) then some 5
  else none

/-- The ENGINE reason that an address and pitch meet (R359): `mx4` takes a pitch of 0, wider elements their own alignment. -/
def pitchReason (f : TFmt) (addr pitch : Nat) : Option Nat :=
  if f = .mx4 then (if pitch = 0 then none else some 7)
  else if 1 < f.esize && (addr % f.esize ≠ 0 || pitch % f.esize ≠ 0) then some 7
  else none

/-! ### The tile table (R146) -/

/-- Key of a tile table entry: the cluster's table is looked up by placement and slot number. -/
def tileKey (cluster task pl t : Nat) : Nat := (plKey task pl * 512 + cluster) * 256 + t

def State.tile? (s : State) (cluster task pl t : Nat) : Option Tile := tget s.eng.tiles (tileKey cluster task pl t)
def State.setTile (s : State) (cluster task pl t : Nat) (x : Tile) : State :=
  { s with eng := { s.eng with tiles := tput s.eng.tiles (tileKey cluster task pl t) x } }
/-- An entry and its granules freed: the slot is EMPTY. -/
def State.dropTile (s : State) (cluster task pl t : Nat) : State :=
  { s with eng := { s.eng with tiles := tdel s.eng.tiles (tileKey cluster task pl t) } }

/-- Tile states (R363). -/
def tEmpty : Nat := 0
def tFilling : Nat := 1
def tReady : Nat := 2
def tDraining : Nat := 3
def tSpent : Nat := 4

/-- State of a slot: one with no entry is EMPTY. -/
def State.tileState (s : State) (cluster task pl t : Nat) : Nat := ((s.tile? cluster task pl t).map Tile.st).getD tEmpty

/-- Tiles whose granules lie in a fret. -/
def State.tilesOf (s : State) (pf : Nat) : List Tile := (s.eng.tiles.map Prod.snd).filter (fun t => t.pf = pf)

/-- Whether a loaded fret holds an engine form (R135). -/
def Fret.hasEngine (f : Fret) : Bool :=
  f.slots.any (fun r => let op := leNat ((r.2.drop 7).take 1); decide (0xC0 ≤ op) && decide (op ≤ 0xD0))

/-- Whether a move takes an engine grant or tiles with it (R136, R147). -/
def State.movesEngine (s : State) (pairs : List (Nat × Nat)) : Bool := pairs.any (fun q => (s.fret q.1).hasEngine || !(s.tilesOf q.1).isEmpty)

/-- The moves of a placement out of a cluster. -/
def State.movesFrom (s : State) (task pl cluster : Nat) : List Move :=
  s.fab.moves.filter (fun m => m.task = task && m.pl = pl && m.pairs.any (fun q => clusterOf q.1 = cluster))

/-- The lowest run of n free granules below a limit, clear of the tiles given (R146). -/
def lowestRun (limit n : Nat) (ts : List Tile) : Option Nat :=
  (List.range (limit + 1 - n)).find? (fun g =>
    g + n ≤ limit && ts.all (fun t => t.gcnt = 0 || n = 0 || g + n ≤ t.gbase || t.gbase + t.gcnt ≤ g))

/-- R146: the fret and first granule that a fill takes. -/
def State.placeTile (s : State) (t : Task) (p : Placement) (cluster n : Nat) : Option (Nat × Nat) :=
  (p.map.filter (fun r => clusterOf r.2 = cluster)).findSome? (fun r =>
    let ts := s.tilesOf r.2
    if 32 ≤ ts.length then none else (lowestRun (4 * t.tunits) n ts).map (fun g => (r.2, g)))

/-- A filler's tile (R146, R148): FILLING, cleared; a READY tile's granules are used again where they are enough, and those past its `GCNT` (R202) are
given back (log entry 33). Its owner's generation is the fret's. None where no fret has room (TILESPACE); the old tile is then gone. -/
def State.fillTile (s : State) (t : Task) (p : Placement) (cluster slot : Nat) (f : TFmt) (rows cols : Nat) : State × Bool :=
  let n := granules f rows cols
  match s.tile? cluster p.task p.idx slot with
  | some x =>
    if n ≤ x.gcnt then
      (s.setTile cluster p.task p.idx slot { x with
        st := tFilling, fmt := f, rows := rows, cols := cols, gcnt := n, count := 0, satf := false, gen := (s.fret x.pf).gen, data := [] }, true)
    else
      let s := s.dropTile cluster p.task p.idx slot
      match s.placeTile t p cluster n with
      | some (pf, g) => (s.setTile cluster p.task p.idx slot ⟨tFilling, f, rows, cols, g, n, 0, false, pf, (s.fret pf).gen, []⟩, true)
      | none => (s, false)
  | none =>
    match s.placeTile t p cluster n with
    | some (pf, g) => (s.setTile cluster p.task p.idx slot ⟨tFilling, f, rows, cols, g, n, 0, false, pf, (s.fret pf).gen, []⟩, true)
    | none => (s, false)

/-- Status word of `t.stat` (R363). -/
def tileStatus : Option Tile → Word
  | none => 0
  | some t => BitVec.ofNat 64 (t.gcnt % 128 * 2 ^ 48 + t.cols % 2 ^ 16 * 2 ^ 32 + t.rows % 2 ^ 12 * 2 ^ 20 + t.count % 2 ^ 12 * 2 ^ 8
      + t.fmt.code * 2 ^ 4 + t.satf.toNat * 2 ^ 3 + t.st % 8)

/-! ### Elements of a tile (R202) -/

/-- Raw bits of element (row, c) of a tile of a 1-, 2- or 4-byte format. -/
def Tile.elemBits (t : Tile) (row c : Nat) : Nat :=
  leNat (memBytes t.data (row * t.fmt.rowBytes t.cols + c * t.fmt.esize) t.fmt.esize)

/-- Element (row, c) of an `mx4` tile: its 4 bits, and its block's scale code. -/
def Tile.mxElem (t : Tile) (row c : Nat) : Nat := (memByte t.data (row * (t.cols / 2) + c / 2)).toNat / 2 ^ (4 * (c % 2)) % 16
def Tile.mxScale (t : Tile) (row block : Nat) : Nat := (memByte t.data (t.rows * t.cols / 2 + row * (t.cols / 32) + block)).toNat

/-- Weight k of a row of a `trit` tile (R203). -/
def Tile.tritW (t : Tile) (row k : Nat) : Int :=
  let d := (memByte t.data (row * (t.cols / 5) + k / 5)).toNat / 3 ^ (k % 5) % 3
  if d = 0 then 0 else if d = 1 then 1 else -1

/-! ### Commands and units (R354, R355) -/

/-- Engine units, by kind and place: tile fetch, tile table, main array, dense engine, drain path of a cluster; copy engines and
gather units of a die; near-memory engine of a channel; the fabric engine. -/
def unitNum (kind place : Nat) : Nat := 16 * place + kind

/-- The Format E fields of an operation. -/
def WobOp.e (op : WobOp) : Sys2Proof.FmtE := (Instr.fmtE? op.instr).getD ⟨.mx4, false, .rne, [], .none, .unknown, 0, .unknown, 0, 0, false, 0, 0, 0⟩
def WobOp.ta (op : WobOp) : Nat := op.e.ta.toNat
def WobOp.tb (op : WobOp) : Nat := op.e.tb.toNat
def WobOp.tc (op : WobOp) : Nat := op.e.tc.toNat
def WobOp.fmt (op : WobOp) : TFmt := op.e.tfmt

/-- The cluster that holds the fret in which an engine instruction is resident (R135). -/
def State.engCluster (s : State) (op : WobOp) : Nat := ((s.placement? op.task op.pl).map (fun p => clusterOf (p.physFret op.fret))).getD 0

/-- The unit of an engine operation (R354). -/
def State.unitOf (s : State) (op : WobOp) : Nat :=
  let c := s.engCluster op
  match op.instr with
  | .tLd _ | .tSt _ | .tTr _ => unitNum 0 c
  | .tRel _ | .tZero _ | .tStat _ => unitNum 1 c
  | .mmTern _ _ _ | .mmMx4 _ _ _ => unitNum 2 c
  | .mmD _ _ => unitNum 3 c
  | .drain _ _ | .drainM _ _ => unitNum 4 c
  | .copy _ => unitNum 5 (dieOf c)
  | .gath _ => unitNum 6 (dieOf c)
  | i => if isNmc i then unitNum 7 (channelOf op.pa) else unitNum 8 0

/-- Depth of a unit's queue, which a running command has left (R354). -/
def unitDepth (u : Nat) : Nat :=
  match u % 16 with
  | 0 => 16 | 1 => 1 | 2 => 8 | 3 => 8 | 4 => 8 | 5 => 64 | 6 => 32 | 7 => 16 | _ => 256

/-- Commands that a unit runs at once (R354, R355); the manual bounds neither the tile fetch unit nor the fabric engine. -/
def unitWidth (u : Nat) : Nat :=
  match u % 16 with
  | 5 => 8 | 6 => 4 | 8 => 256 | _ => 1

/-- The output tile that a `drain` of several outputs names (R370). -/
def WobOp.drainK (op : WobOp) : Nat :=
  match op.instr with
  | .drain d _ => if d.steered then op.aux.toNat % 4 else 0
  | _ => 0

/-- Tile slots that a command reads as operands, in order (R148): those of matrix forms, drain scales, the sources of `t.st` and
`t.tr`, the index tile of `gath`. -/
def tileReads (op : WobOp) : List Nat :=
  let scales := fun (d : DrainF) => (if d.rowsc then [op.ta] else []) ++ (if d.gsel = .none then [] else [op.tb])
  match op.instr with
  | .mmTern _ _ _ | .mmMx4 _ _ _ | .mmD _ _ => [op.ta, op.tb]
  | .drain d _ | .drainM d _ => scales d
  | .tTr _ => [op.tb]
  | .tSt _ => [op.ta]
  | .gath _ => [op.tb]
  | _ => []

/-- Whether a command's reads consume (R149; R361, R375). -/
def tileConsumes (i : Instr) : Bool :=
  match i with
  | .tSt _ | .gath _ => false
  | _ => true

/-- The tile slot that a command fills (R148); a `drain` to an output that it does not have fills none (R370). -/
def tileFills (op : WobOp) : Option Nat :=
  match op.instr with
  | .tLd _ | .tZero _ | .tTr _ | .gath _ => some op.ta
  | .drain d _ => if d.steered && d.nout.toNat ≤ op.drainK then none else some (op.tc + op.drainK)
  | _ => none

/-! ### Consuming reads, in acceptance order (R149, R355) -/

/-- One slot's reads of an accepted command applied, where its tile is READY and counted: all of its reads at once, or OVERREAD where
they are too many. -/
def State.consumeSlot (s : State) (c : Cmd) (slot : Nat) : State × Cmd :=
  match s.tile? c.cluster c.op.task c.op.pl slot with
  | none => (s, c)
  | some t =>
    let k := (c.toRead.filter (fun x => x = slot)).length
    if k = 0 || t.st ≠ tReady || t.count = 0 || !tileConsumes c.op.instr then (s, c)
    else if t.count < k then (s, { c with fault := some (.overread, 0, slot), toRead := c.toRead.filter (fun x => x ≠ slot) })
    else
      let t' := if t.count = k then { t with count := 0, st := tSpent, gcnt := 0, data := [] } else { t with count := t.count - k }
      let s := s.setTile c.cluster c.op.task c.op.pl slot t'
      (s.countEvent c.cluster c.op.task 0x13 k,
        { c with toRead := c.toRead.filter (fun x => x ≠ slot), taken := c.taken ++ [(slot, t)] })

/-- The consuming reads of a command that can be applied now. -/
def State.consumeCmd (s : State) (c : Cmd) : State × Cmd :=
  if c.fault.isSome then (s, c)
  else c.toRead.foldl (fun (acc : State × Cmd) slot => if acc.2.fault.isSome then acc else acc.1.consumeSlot acc.2 slot) (s, c)

/-- The consuming reads of every accepted command that can be applied now, in acceptance order. -/
def State.consumeAll (s : State) : State :=
  let (s', cs) := s.eng.cmds.foldl (fun (acc : State × List Cmd) c =>
    let (s, c) := acc.1.consumeCmd c
    (s, acc.2 ++ [c])) (s, [])
  { s' with eng := { s'.eng with cmds := cs } }

/-! ### Commands by their number -/

def State.cmd? (s : State) (seq : Nat) : Option Cmd := s.eng.cmds.find? (fun c => c.op.seq = seq)
def State.putCmd (s : State) (c : Cmd) : State :=
  { s with eng := { s.eng with cmds := s.eng.cmds.map (fun (x : Cmd) => if x.op.seq = c.op.seq then c else x) } }
def State.dropCmd (s : State) (seq : Nat) : State :=
  { s with eng := { s.eng with cmds := s.eng.cmds.filter (fun c => c.op.seq ≠ seq) } }

/-! ### `ENGINE_COMMAND_ACCEPT` -/

/-- An engine operation that its home WOB has issued and no unit has accepted, by its number. -/
def State.issuedEngine (s : State) (seq : Nat) : Option WobOp :=
  s.fab.placements.findSome? (fun r => match r.2.queueOp? seq with
    | some op => if isEngine op.instr && op.st = .issued then some op else none
    | none => none)

/-- A line read at its home by an engine, past every L1 (R152, R155, R360); the access of a host line is counted (R175). -/
def State.engTouch (s : State) (t : Task) (pa : Nat) : State :=
  if isHost pa then
    if !s.usesHlc t.fn then (s.acCountAccess t.fn pa).hlcShare (pa / 128)
    else if s.board.hostLoss then s
    else (s.hlcFetch (pa / 128) 0 ((Config.freeWord s.freeCtr).getLsbD 0) false).drawFree
  else if s.busy (pa / 128) || s.mem.counted (pa / 128) then s.readLines [pa / 128]
  else { s.bump with mem := s.mem.homeRead (pa / 128) s.seqCtr }

/-- The lines of a virtual range read at their homes by an engine, or at the host, for all to see what was posted to them (R179). -/
def State.touchVa (s : State) (t : Task) (va n : Nat) : State :=
  (linesOf va n).foldl (fun (s : State) l =>
    match s.physOf t.space (max va (128 * l)) with
    | some (pa, _) => if isHost pa then (s.engTouch t pa).settleRange (pa / 128 * 128) 128 else s.engTouch t pa
    | none => s) s

/-- A line poisoned in HBM or in host memory. -/
def State.linePoison (s : State) (line : Nat) : Bool := s.poisoned line || (isHost (128 * line) && nsHas s.mem.hostPoison line)

/-- The first failure, in the order of R222, of an engine's read of some ranges whole: LEASE, HOSTLINK, OVERREAD. -/
def State.readFails (s : State) (t : Task) (ranges : List (Nat × Nat)) : Option CmdFault :=
  let first := fun (test : Nat → Bool) => ranges.findSome? (fun r => s.firstVaWith t.space r.1 r.2 test)
  match ranges.findSome? (fun r => s.firstBadVa t false r.1 r.2) with
  | some a => some (.lease, 0, a)
  | none =>
    match first (fun pa => isHost pa && s.board.hostLoss) with
    | some a => some (.hostlink, 0, a)
    | none => (first (fun pa => s.mem.isSpent (pa / 128))).map (fun a => (.overread, 0, a))

/-- The poisoned line that a read of some ranges meets first (R157). -/
def State.readPoison (s : State) (t : Task) (ranges : List (Nat × Nat)) : Option CmdFault :=
  (ranges.findSome? (fun r => s.firstVaWith t.space r.1 r.2 (fun pa => s.linePoison (pa / 128)))).map (fun a => (.uecc, 0, a / 128 * 128))

/-- The descriptor of a `copy`, read once at acceptance (R373), or its failure in the order of R222. -/
def State.copyDesc (s : State) (t : Task) (a : Nat) : Except CmdFault (List Byte) :=
  match s.readFails t [(a, 64)] with
  | some f => .error f
  | none =>
    if a % 64 ≠ 0 then .error (.engine, 8, a)
    else match s.readPoison t [(a, 64)] with
      | some f => .error f
      | none => .ok (s.readVa t.space a 64)

/-- What a command takes with it as it is accepted: the descriptor of a `copy` (R373), or where the operands of a near-memory command lie, as they
were translated (R354). -/
def State.acceptDesc (s : State) (t : Task) (c : Cmd) : State × Cmd :=
  let a := c.op.left.toNat
  match c.op.instr with
  | .copy _ =>
    match s.copyDesc t a with
    | .error f => (s, { c with fault := some f })
    | .ok d => (s.touchVa t a 64, { c with desc := d })
  | i =>
    if isNmc i then
      (s, { c with desc := ((nmcRanges c.op).filterMap (fun r => (s.physOf t.space r.1).map Prod.fst)).flatMap (leBytes 8) })
    else (s, c)

/-- A command that its unit's queue has room for now: none of an engine under a move is accepted (R147), nor a `copy` while something is in flight
for its descriptor (R189). -/
def State.acceptable (s : State) (t : Task) (op : WobOp) : Bool :=
  let u := s.unitOf op
  let isCopy := match op.instr with
    | .copy _ => true
    | _ => false
  (s.eng.cmds.filter (fun c => c.unit = u && !c.running)).length < unitDepth u
    && !(s.movesFrom op.task op.pl (s.engCluster op)).any (fun m => s.movesEngine m.pairs)
    && (!isCopy || s.vaQuiet t.space op.left.toNat 64)

/-- `ENGINE_COMMAND_ACCEPT` (R354): the operation with number `subject` enters its unit's queue, where there is room; its entry in the
WOB is freed, and its consuming tile reads are applied. -/
def execEngineCommandAccept (s : State) : Out :=
  s.inCycle "ENGINE_COMMAND_ACCEPT" <| match s.issuedEngine s.subject with
  | none => .refused (.notEnabled "ENGINE_COMMAND_ACCEPT")
  | some op =>
    match s.task? op.task with
    | none => .refused (.notEnabled "ENGINE_COMMAND_ACCEPT")
    | some t =>
      if !s.acceptable t op then .refused (.notEnabled "ENGINE_COMMAND_ACCEPT")
      else
        let c : Cmd := ⟨op, s.unitOf op, s.engCluster op, tileReads op, [], [], false, 0, 0, 0, Flags.none, none, none, 0, 0, [], none⟩
        let (s, c) := (s.freeOp op).acceptDesc t c
        let (s, c) := s.consumeCmd c
        .next { s with eng := { s.eng with cmds := s.eng.cmds ++ [c] } }

end Sys2Proof.Machine
end

