-- ==== Sys2Proof/Machine/Matrix.lean ====
section
/-!
DEFINITION. Machine/Matrix.lean: the arithmetic of the matrix engines (R211 to R215, R365 to R367) and of the drain (R216, R368).
-/
namespace Sys2Proof.Machine

/-! ### Accumulators (R365) -/

/-- Key of an accumulator: banks 0 and 1 of the main array, and the dense engine's. -/
def accKey (cluster sel : Nat) : Nat := 4 * cluster + sel
def State.accum (s : State) (cluster sel : Nat) : Accum := tgetD s.eng.accs (accKey cluster sel) Accum.zero
def State.setAccum (s : State) (cluster sel : Nat) (a : Accum) : State :=
  { s with eng := { s.eng with accs := tput s.eng.accs (accKey cluster sel) a } }

/-- Rows and columns of an accumulator. -/
def accRows (sel : Nat) : Nat := if sel = 2 then 96 else 192
def accCols (sel : Nat) : Nat := if sel = 2 then 64 else 192

/-- The accumulator that a command names. -/
def accSel (i : Instr) : Nat :=
  match i with
  | .mmTern bank _ _ | .mmMx4 bank _ _ => bank.toNat
  | .mmD _ _ => 2
  | .drain d _ | .drainM d _ => d.acc.code
  | _ => 0

/-- Whether a command clears its accumulator. -/
def accClr (i : Instr) : Bool :=
  match i with
  | .mmTern _ c _ | .mmMx4 _ c _ | .mmD c _ => c
  | .drain d _ | .drainM d _ => d.clr
  | _ => false

/-- The kind that a matrix form gives its accumulator. -/
def accKindOf (i : Instr) : AccKind :=
  match i with
  | .mmTern _ _ _ => .int
  | .mmMx4 _ _ _ | .mmD _ _ => .fp
  | _ => .none

/-! ### One output (R211, R213, R214) -/

/-- A sum and its flags, as an accumulation goes on. -/
abbrev AccSt := BitVec 32 × Flags

/-- One group of five of a ternary product (R211): the exact partial sum added, and clamped. -/
def ternStep (a b : Tile) (m n : Nat) (st : AccSt) (g : Nat) : AccSt :=
  let s := (List.range 5).foldl (fun (acc : Int) i =>
    acc + (BitVec.ofNat 8 (a.elemBits m (5 * g + i))).toInt * b.tritW n (5 * g + i)) 0
  let v := st.1.toInt + s
  let lim : Int := 2 ^ 31 - 1
  if v > lim then (BitVec.ofInt 32 lim, st.2.or Flags.SAT)
  else if v < -lim then (BitVec.ofInt 32 (-lim), st.2.or Flags.SAT)
  else (BitVec.ofInt 32 v, st.2)

/-- A binary32 value added to an accumulator element with RNE. -/
def accAdd (st : AccSt) (r : Nat × Flags) : AccSt :=
  let (v, fl) := fmtF32.finish .rne false 0 (sumVals .rne [fmtF32.unpack st.1.toNat, fmtF32.unpack r.1])
  (BitVec.ofNat 32 v, (st.2.or r.2).or fl)

/-- One block of 32 of an MXFP4 product (R213). -/
def mxStep (a b : Tile) (m n : Nat) (st : AccSt) (j : Nat) : AccSt :=
  let sa := a.mxScale m j
  let sb := b.mxScale n j
  if sa = 0xFF || sb = 0xFF then (BitVec.ofNat 32 fmtF32.canonNan, st.2.or Flags.NV)
  else
    let ps := (List.range 32).filterMap (fun i =>
      mulVals (mxValue (a.mxElem m (32 * j + i)) sa) (mxValue (b.mxElem n (32 * j + i)) sb))
    accAdd st (fmtF32.finish .rne false 0 (sumVals .rne ps))

/-- The number format of a tile's elements. -/
def tileNum (f : TFmt) : Fmt :=
  match f with
  | .e4m3 => fmtE4m3
  | .e5m2 => fmtE5m2
  | .bf16 => fmtBf16
  | .f16 => fmtF16
  | _ => fmtF32

/-- One group of sixteen of a dense product (R214): the exact sum rounded once, NaN with invalid operation where it holds a NaN
product, an infinity times zero, or infinities of both signs. -/
def denseGroup (a b : Tile) (m n g : Nat) : Nat × Flags :=
  let xs := (List.range 16).map (fun i => (tileNum a.fmt).unpack (a.elemBits m (16 * g + i)))
  let ys := (List.range 16).map (fun i => (tileNum b.fmt).unpack (b.elemBits n (16 * g + i)))
  if xs.any FVal.isNan || ys.any FVal.isNan then (fmtF32.canonNan, Flags.NV)
  else
    let ps := (xs.zip ys).map (fun q => mulVals q.1 q.2)
    if ps.any Option.isNone then (fmtF32.canonNan, Flags.NV)
    else fmtF32.finish .rne false 0 (sumVals .rne (ps.filterMap id))

def denseStep (a b : Tile) (m n : Nat) (st : AccSt) (g : Nat) : AccSt := accAdd st (denseGroup a b m n g)

/-- One output of a matrix command, over the whole of K. -/
def mmOut (i : Instr) (a b : Tile) (m n : Nat) (v : BitVec 32) : AccSt :=
  match i with
  | .mmTern _ _ _ => (List.range (a.cols / 5)).foldl (ternStep a b m n) (v, Flags.none)
  | .mmMx4 _ _ _ => (List.range (a.cols / 32)).foldl (mxStep a b m n) (v, Flags.none)
  | _ => (List.range (a.cols / 16)).foldl (denseStep a b m n) (v, Flags.none)

/-- The whole of a matrix command's effect on its accumulator (R366): positions outside M by N are unchanged. -/
def mmRun (i : Instr) (a b : Tile) (acc : Accum) : Accum × Flags :=
  let w := accCols (accSel i)
  let acc := if accClr i then Accum.zero else acc
  let cells := (List.range a.rows).flatMap (fun m => (List.range b.rows).map (fun n => (m, n)))
  let (es, fl) := cells.foldl (fun (st : Tab (BitVec 32) × Flags) q =>
    let (v, fl) := mmOut i a b q.1 q.2 (tgetD st.1 (w * q.1 + q.2) 0)
    (tput st.1 (w * q.1 + q.2) v, st.2.or fl)) (acc.elems, Flags.none)
  ({ kind := accKindOf i, sat := acc.sat || (match i with | .mmTern _ _ _ => fl.sat | _ => false), elems := es }, fl)

/-! ### Checks of a matrix command (R366) -/

/-- Whether the formats of the operands are legal for the form. -/
def mmFmtBad (i : Instr) (f a b : TFmt) : Bool × Bool :=
  match i with
  | .mmTern _ _ _ => (a ≠ .s8, b ≠ .trit)
  | .mmMx4 _ _ _ => (a ≠ .mx4, b ≠ .mx4)
  | _ => (a ≠ f, if f = .e4m3 || f = .e5m2 then b ≠ .e4m3 && b ≠ .e5m2 else b ≠ f)

/-- The step that K is a multiple of. -/
def mmK (i : Instr) : Nat :=
  match i with
  | .mmTern _ _ _ => 5
  | .mmMx4 _ _ _ => 32
  | _ => 16

/-- The reason and the slots that a matrix command's check names: format first, then shape. -/
def mmReason (op : WobOp) (a b : Tile) (kind : AccKind) : Option (Nat × List Nat) :=
  let (fa, fb) := mmFmtBad op.instr op.fmt a.fmt b.fmt
  let sel := accSel op.instr
  if fa then some (6, [op.ta])
  else if fb then some (6, [op.tb])
  else if !accClr op.instr && kind ≠ .none && kind ≠ accKindOf op.instr then some (6, [op.ta, op.tb])
  else if accRows sel < a.rows || a.cols % mmK op.instr ≠ 0 then some (7, [op.ta])
  else if accCols sel < b.rows || b.cols % mmK op.instr ≠ 0 then some (7, [op.tb])
  else if a.cols ≠ b.cols then some (7, [op.ta, op.tb])
  else none

/-- K-groups of a ternary command whose bytes are 0 in every weight row (R212). -/
def zeroGroups (b : Tile) : Nat :=
  ((List.range (b.cols / 5)).filter (fun g => (List.range b.rows).all (fun r => memByte b.data (r * (b.cols / 5) + g) = 0))).length

/-- Busy cycles and hand-off of a matrix command (R212, R367). -/
def mmCycles (op : WobOp) (a b : Tile) : Nat × Nat :=
  match op.instr with
  | .mmTern _ _ _ => (24 + 2 * (b.cols / 5) - zeroGroups b, 12)
  | .mmMx4 _ _ _ => (24 + a.cols, 12)
  | _ => (16 + a.cols / (if op.fmt = .e4m3 || op.fmt = .e5m2 then 2 else 1), 8)

/-! ### Drain (R216, R368) -/

/-- Columns that share a group scale. -/
def gselCols (g : GSel) : Nat :=
  match g with
  | .none => 1
  | .g1 => 1
  | .g8 => 8
  | .g32 => 32

/-- The scales of a drain, as tiles. -/
structure Scales where
  row : Option Tile
  group : Option Tile
  width : Nat
  deriving DecidableEq, Repr

/-- A value multiplied by a scale (R216, steps 2 and 3); an absent scale leaves it alone. -/
def scaleStep (v : Nat) (t : Option Tile) (row c : Nat) : Nat × Flags :=
  match t with
  | none => (v, Flags.none)
  | some t => fmtF32.finish .rne false 0 (mulRes (fmtF32.unpack v) (fmtF32.unpack (t.elemBits row c)))

/-- Step 4 of R216. -/
def drainOut (f : TFmt) (rm : Rm) (sat : Bool) (rho v : Nat) : Nat × Flags :=
  match f with
  | .s8 => convFI fmtF32 true 8 rm rho v
  | .s32 => convFI fmtF32 true 32 rm rho v
  | f => convFF fmtF32 (tileNum f) rm sat rho v

/-- One element drained (R216). -/
def drainElem (f : TFmt) (rm : Rm) (sat : Bool) (srd : SrdIn) (acc : Accum) (w cols : Nat) (sc : Scales) (row c : Nat) : Nat × Flags :=
  let raw := tgetD acc.elems (w * row + c) 0
  let (v1, f1) := if acc.kind = .int then convIF fmtF32 .rne false 0 raw.toInt else (raw.toNat, Flags.none)
  let (v2, f2) := scaleStep v1 sc.row row 0
  let (v3, f3) := scaleStep v2 sc.group 0 (c / sc.width)
  let (v4, f4) := drainOut f rm sat (srd.rho (row * cols + c)) v3
  (v4, Flags.all [f1, f2, f3, f4])

/-- The bytes of a drained region, row by row (R202), and its flags. -/
def drainRun (f : TFmt) (rm : Rm) (sat : Bool) (srd : SrdIn) (acc : Accum) (w rows cols : Nat) (sc : Scales) : List Byte × Flags :=
  let cells := (List.range rows).flatMap (fun r => (List.range cols).map (fun c => (r, c)))
  let vs := cells.map (fun q => drainElem f rm sat srd acc w cols sc q.1 q.2)
  (vs.flatMap (fun v => leBytes f.esize v.1), Flags.all (vs.map Prod.snd))

/-- The reason and slot that a scale tile meets: its format, then its size. -/
def scaleReason (slot : Nat) (t : Tile) (rows cols : Nat) : Option (Nat × List Nat) :=
  if t.fmt ≠ .f32 then some (6, [slot]) else if t.rows < rows || t.cols < cols then some (7, [slot]) else none

end Sys2Proof.Machine
end

