-- ==== Sys2Proof/Machine/Stream.lean ====
section
/-!
DEFINITION. Machine/Stream.lean: engine commands as they run: tile fetches and stores (R360, R361, R372), copies (R374), gathers (R375),
fabric writes and reads of the own device (R381), piece by piece, and near-memory commands (R158, R159, R376 to R379), element by
element. A running command moves one piece, of at most a line, whenever its engine is free again.
-/
namespace Sys2Proof.Machine

/-! ### Addresses -/

/-- A 64-bit address at a signed distance. -/
def vaAt (base : Nat) (off : Int) : Nat := (((base : Int) + off) % (2 ^ 64 : Int)).toNat

/-- A signed 64-bit field. -/
def sfield (d : List Byte) (off : Nat) : Int := (BitVec.ofNat 64 (field d off 8)).toInt

/-- The address in memory of byte b of a tile image at p with a pitch (R202, R359). -/
def imageAt (f : TFmt) (cols p pitch b : Nat) : Nat :=
  if f = .mx4 then vaAt p b
  else
    let rb := f.rowBytes cols
    vaAt p (b / rb * (if pitch = 0 then rb else pitch) + b % rb : Nat)

/-- One byte of a command's work: where it is read, where it is written, its place in the tile or in the prepared bytes, and the block of memory
whose bytes move together: bytes of one 8-byte word lie in one block (R178). -/
structure Hop where
  src : Option Nat
  dst : Option Nat
  off : Nat
  block : Nat
  deriving DecidableEq, Repr

/-- Byte b of a `copy` (R374), a line of its destination at a time. -/
def copyHop (d : List Byte) (b : Nat) : Hop :=
  let nx := field d 16 4
  let x := b % nx
  let y := b / nx % field d 20 4
  let z := b / nx / field d 20 4
  let sa := vaAt (field d 0 8) (z * sfield d 40 + y * sfield d 32 + x)
  let da := vaAt (field d 8 8) (z * sfield d 56 + y * sfield d 48 + x)
  ⟨some sa, some da, 0, da / 128⟩

/-- Bytes of a table row of a `gath` (R375). -/
def gathRow (f : TFmt) (cols : Nat) : Nat := f.rowBytes cols + if f = .mx4 then cols / 32 else 0

/-- Byte b of a `gath` (R375): row j of the table at index j, split for `mx4` into elements and scales; at most 64 bytes of one table row move
together. -/
def gathHop (op : WobOp) (idx : Tile) (b : Nat) : Hop :=
  let rows := shapeRows op.right
  let cols := shapeCols op.right
  let rl := gathRow op.fmt cols
  let rb := op.fmt.rowBytes cols
  let j := b / rl
  let o := b % rl
  let i := (BitVec.ofNat 32 (idx.elemBits (j / idx.cols) (j % idx.cols))).toInt
  let pt := if shapePitch op.right = 0 then rl else shapePitch op.right
  let va := vaAt op.left.toNat (i * pt + o)
  ⟨some va, none, if o < rb then j * rb + o else rows * cols / 2 + j * (cols / 32) + (o - rb), 2 ^ 58 * j + va / 64⟩

/-- A tile's bytes at its own slot. -/
def State.slotTile (s : State) (c : Cmd) (slot : Nat) : Option Tile := s.tile? c.cluster c.op.task c.op.pl slot

/-- Byte b of a command's work. -/
def State.hop (s : State) (c : Cmd) (b : Nat) : Option Hop :=
  let op := c.op
  let l := op.left.toNat
  let r := op.right.toNat
  match op.instr with
  | .tLd _ => let va := imageAt op.fmt (shapeCols op.right) l (shapePitch op.right) b; some ⟨some va, none, b, va / 128⟩
  | .tSt _ => (s.slotTile c op.ta).map (fun t => let va := imageAt t.fmt t.cols l (bits op.right 31 0) b; ⟨none, some va, b, va / 128⟩)
  | .drainM _ _ => let va := imageAt op.fmt (shapeCols op.right) l (shapePitch op.right) b; some ⟨none, some va, b, va / 128⟩
  | .copy _ => some (copyHop c.desc b)
  | .gath _ => (c.taken.head?).map (fun t => gathHop op t.2 b)
  | .rwr _ => some ⟨some (l + b), some (r + b), 0, (r + b) / 128⟩
  | .rrd _ => some ⟨some (r + b), some (l + b), 0, (l + b) / 128⟩
  | _ => none

/-- The next piece of a command: the bytes that move together, at most 128, none beyond its end. -/
def State.piece (s : State) (c : Cmd) : List Hop :=
  match s.hop c c.progress with
  | none => []
  | some h =>
    ((List.range (min 128 (c.total - c.progress))).filterMap (fun k => s.hop c (c.progress + k))).takeWhile (fun x => x.block = h.block)

/-! ### Checks of a piece (R356, R222) -/

/-- Commands that move poison with their data instead of faulting on it (R157, R374, R381). R415 has a copy of such a line fault with UECC;
R374, which defines the command, is followed (log entry 88). -/
def carriesPoison (i : Instr) : Bool :=
  match i with
  | .copy _ | .rwr _ | .rrd _ => true
  | _ => false

/-- The address that a failure records: a tile fetch names the line (R360). -/
def failAddr (i : Instr) (va : Nat) : Nat :=
  match i with
  | .tLd _ => va / 128 * 128
  | _ => va

/-- Where one end of a byte's move lies, if leases and pages permit it; engine forms never reach the scratch window (R356). -/
def State.engAccess (s : State) (t : Task) (va : Nat) (wr : Bool) : Option Nat := if inScratch va then none else s.access t va wr

/-- An 8-byte word that an engine reads: on the uncached host path as the cluster of its command's home WOB sees it (R66, R180), and otherwise as a
coherent read does. -/
def State.engWord (s : State) (t : Task) (op : WobOp) (pa : Nat) : Nat :=
  if isHost pa && !s.usesHlc t.fn then s.hostSeen (s.opCluster op) pa 8 else s.readNat pa 8

/-- A byte that an engine reads. -/
def State.engByte (s : State) (t : Task) (op : WobOp) (pa : Nat) : Byte := BitVec.ofNat 8 (s.engWord t op (pa / 8 * 8) / 2 ^ (8 * (pa % 8)))

/-- A fill's bytes are trits, checked as they are written (R203). -/
def WobOp.badTrit (op : WobOp) (b : Byte) : Bool := op.fmt = .trit && 242 < b.toNat

/-- The first failure of a byte's move, in the order of R222. -/
def State.hopFault (s : State) (t : Task) (op : WobOp) (h : Hop) : Option CmdFault :=
  let i := op.instr
  let sp := h.src.map (fun va => (va, s.engAccess t va false))
  let dp := h.dst.map (fun va => (va, s.engAccess t va true))
  let bad := fun (q : Option (Nat × Option Nat)) (test : Nat → Bool) => q.bind (fun x => match x.2 with
    | some pa => if test pa then some x.1 else none
    | none => none)
  let lease := fun (q : Option (Nat × Option Nat)) => q.bind (fun x => if x.2.isNone then some x.1 else none)
  let spent := fun (pa : Nat) => s.mem.isSpent (pa / 128)
  match (lease sp).or (lease dp) with
  | some va => some (.lease, 0, failAddr i va)
  | none =>
    match if carriesPoison i then none else bad sp (fun pa => isHost pa && s.board.hostLoss) with
    | some va => some (.hostlink, 0, va)
    | none =>
      match (bad sp spent).or (bad dp spent) with
      | some va => some (.overread, 0, failAddr i va)
      | none =>
        match if h.dst.isNone then bad sp (fun pa => op.badTrit (s.engByte t op pa)) else none with
        | some va => some (.tritcode, 0, va)
        | none =>
          match if carriesPoison i then none else bad sp (fun pa => s.linePoison (pa / 128)) with
          | some va => some (.uecc, 0, va / 128 * 128)
          | none => none

/-- The failure of a piece that comes first in the order of R222, and of equals the one met first. -/
def State.pieceFault (s : State) (t : Task) (op : WobOp) (hs : List Hop) : Option CmdFault :=
  minBy (fun f => f.1.rank) (hs.filterMap (s.hopFault t op))

/-- The rows of memory that a command of the tile, drain, copy or gather forms names: first address, bytes, and whether they are written. A shape or a
dimension out of its range counts as it stands, and where a `gath` has no `s32` index tile, or a `t.st` no tile, the first byte stands for all (log
entry 36). -/
def State.cmdRows (s : State) (c : Cmd) : List (Nat × Nat × Bool) :=
  let op := c.op
  let l := op.left.toNat
  let image := fun (f : TFmt) (rows cols pitch : Nat) (wr : Bool) =>
    if f = .mx4 then [(l, tileBytes f rows cols, wr)]
    else (List.range rows).map (fun k => (vaAt l (k * (if pitch = 0 then f.rowBytes cols else pitch) : Nat), f.rowBytes cols, wr))
  match op.instr with
  | .tLd _ => (l, 1, false) :: image op.fmt (shapeRows op.right) (shapeCols op.right) (shapePitch op.right) false
  | .drainM _ _ => (l, 1, true) :: image op.fmt (shapeRows op.right) (shapeCols op.right) (shapePitch op.right) true
  | .tSt _ => (l, 1, true) :: match s.slotTile c op.ta with
    | some x => image x.fmt x.rows x.cols (bits op.right 31 0) true
    | none => []
  | .copy _ =>
    let f := field c.desc
    (List.range (f 24 4)).flatMap (fun z => (List.range (f 20 4)).flatMap (fun y =>
      [(vaAt (f 0 8) (z * sfield c.desc 40 + y * sfield c.desc 32), f 16 4, false),
       (vaAt (f 8 8) (z * sfield c.desc 56 + y * sfield c.desc 48), f 16 4, true)]))
  | .gath _ => match s.slotTile c op.tb with
    | some x =>
      if x.fmt ≠ .s32 then [(l, 1, false)]
      else
        let rl := gathRow op.fmt (shapeCols op.right)
        let pt := if shapePitch op.right = 0 then rl else shapePitch op.right
        (List.range (min (shapeRows op.right) (x.rows * x.cols))).map (fun j =>
          (vaAt l ((BitVec.ofNat 32 (x.elemBits (j / x.cols) (j % x.cols))).toInt * pt), rl, false))
    | none => [(l, 1, false)]
  | _ => []

/-- The first of the failures of R222 that a command's rows of memory meet: LEASE, HOSTLINK, OVERREAD. -/
def State.rowFault (s : State) (t : Task) (c : Cmd) : Option CmdFault :=
  let rows := s.cmdRows c
  let i := c.op.instr
  let first := fun (reads : Bool) (test : Nat → Bool) =>
    rows.findSome? (fun r => if reads && r.2.2 then none else s.firstVaWith t.space r.1 r.2.1 test)
  match rows.findSome? (fun r => s.firstBadVa t r.2.2 r.1 r.2.1) with
  | some a => some (.lease, 0, failAddr i a)
  | none =>
    match if carriesPoison i then none else first true (fun pa => isHost pa && s.board.hostLoss) with
    | some a => some (.hostlink, 0, a)
    | none => (first false (fun pa => s.mem.isSpent (pa / 128))).map (fun a => (.overread, 0, failAddr i a))

/-- The virtual addresses, one for each line and end of a piece. -/
def pieceLines (hs : List Hop) (side : Hop → Option Nat) : List Nat := ((hs.filterMap side).map (· / 128)).eraseDups

/-- Nothing is in flight for the lines of a piece. -/
def State.pieceQuiet (s : State) (t : Task) (hs : List Hop) : Bool :=
  let ok := fun (wr : Bool) (l : Nat) => match s.engAccess t (128 * l) wr with
    | some pa => s.mem.quiet (pa / 128)
    | none => true
  (pieceLines hs Hop.src).all (ok false) && (pieceLines hs Hop.dst).all (ok true)

/-! ### Moving a piece -/

/-- The unit's cluster, for units that stand in one and use its TLB (R169). -/
def Cmd.inCluster (c : Cmd) : Bool := c.unit % 16 ≤ 4

/-- The translations that a piece uses (R169): those of units of a cluster through its TLB. -/
def State.pieceTlb (s : State) (t : Task) (c : Cmd) (hs : List Hop) : State :=
  (pieceLines hs Hop.src ++ pieceLines hs Hop.dst).foldl (fun (s : State) l =>
    if !t.leased (128 * l) false then s
    else if c.inCluster then s.tlbUse c.cluster t.num t.space (128 * l) else s.tlbFill t.space (128 * l)) s

/-- A fill keeps the lines that it reads pinned at their homes (R360). -/
def State.pinLine (s : State) (c : Cmd) (pa : Nat) : State :=
  match c.op.instr with
  | .tLd _ =>
    if isHost pa || s.mem.pins.any (fun q => q = (pa / 128, c.op.seq)) then s
    else { s with mem := { s.mem with pins := s.mem.pins ++ [(pa / 128, c.op.seq)] } }
  | _ => s

/-- The lines of a piece read at their homes. -/
def State.pieceRead (s : State) (t : Task) (c : Cmd) (hs : List Hop) : State :=
  (pieceLines hs Hop.src).foldl (fun (s : State) l =>
    match s.engAccess t (128 * l) false with
    | some pa => (s.engTouch t pa).pinLine c pa
    | none => s) s

/-- A source byte, and the 8-byte word it was read in: a word that the command has already read in part is not read again (R178). -/
def State.readHop (s : State) (t : Task) (op : WobOp) (carry : Option (Nat × Nat)) (va : Nat) : Byte × Option (Nat × Nat) :=
  let fresh := s.engWord t op ((s.engAccess t (va / 8 * 8) false).getD 0)
  let w := match carry with
    | some (a, v) => if a = va / 8 then v else fresh
    | none => fresh
  (BitVec.ofNat 8 (w / 2 ^ (8 * (va % 8))), some (va / 8, w))

/-- The bytes of a piece, read or prepared, with the last word read. -/
def State.pieceData (s : State) (t : Task) (c : Cmd) : Option (Nat × Nat) → List Hop → List Byte × Option (Nat × Nat)
  | carry, [] => ([], carry)
  | carry, h :: hs =>
    let (b, carry) := match h.src with
      | some va => s.readHop t c.op carry va
      | none => match c.op.instr with
        | .tSt _ => (((s.slotTile c c.op.ta).map (fun x => memByte x.data h.off)).getD 0, carry)
        | _ => (c.desc.getD h.off 0, carry)
    let (bs, carry) := s.pieceData t c carry hs
    (b :: bs, carry)

/-- Poison of a line set or cleared. -/
def State.setPoison (s : State) (line : Nat) (on : Bool) : State :=
  let put := fun (x : NSet) => if on then nsAdd x line else nsDel x line
  if isHost (128 * line) then { s with mem := { s.mem with hostPoison := put s.mem.hostPoison } }
  else { s with mem := { s.mem with poison := put s.mem.poison } }

/-- R157: a poisoned line written over: the bytes this command has written with sound data are kept, and once they are all 128, the
poison is cleared; poisoned data poisons the line and spoils it for this command. -/
def State.coverLine (s : State) (c : Cmd) (pa n : Nat) (poisoned : Bool) : State × Cmd :=
  let line := pa / 128
  let spoiled := 2 ^ 128
  if poisoned then (s.setPoison line true, { c with cover := tput c.cover line spoiled })
  else if !s.linePoison line then (s, c)
  else
    let m := tgetD c.cover line 0 ||| ((2 ^ n - 1) * 2 ^ (pa % 128))
    if m = 2 ^ 128 - 1 then (s.setPoison line false, { c with cover := tdel c.cover line })
    else (s, { c with cover := tput c.cover line m })

/-- A coherent write of a piece at its home (R361, R165); host lines are not written during a link loss (R44). -/
def State.engWrite (s : State) (t : Task) (c : Cmd) (pa : Nat) (bs : List Byte) (poisoned : Bool) : State × Cmd :=
  if isHost pa && s.board.hostLoss then (s, c)
  else
    let s := if isHost pa && !s.usesHlc t.fn then s.acCountAccess t.fn pa else s
    let s := (s.snapshot c.op.task pa).writePiece t.fn pa bs.length (leNat bs)
    s.coverLine c pa bs.length poisoned

/-- Cycles that an engine is taken up by a piece: 128 bytes a cycle for a tile fetch, 64 for a copy; where the manual gives no rate
the model takes one piece a cycle. -/
def chunkCycles (i : Instr) (n : Nat) : Nat :=
  match i with
  | .copy _ => (n + 63) / 64
  | _ => 1

/-- A piece moved on: the command's next one may begin when its engine is free again. -/
def Cmd.advance (c : Cmd) (now n : Nat) : Cmd := { c with progress := c.progress + n, busyEnd := now + chunkCycles c.op.instr n }

/-- Bytes written into the tile being filled, each at its place. -/
def State.tileWrite (s : State) (c : Cmd) (slot : Nat) (bs : List (Nat × Byte)) : State :=
  match s.slotTile c slot with
  | none => s
  | some t => s.setTile c.cluster c.op.task c.op.pl slot { t with data := bs.foldl (fun m q => memPut m q.1 q.2) t.data }

/-- Bytes at rising addresses joined into runs. -/
def runsOf : List (Nat × Byte) → List (Nat × List Byte)
  | [] => []
  | (a, b) :: t =>
    match runsOf t with
    | (a', bs) :: rs => if a' = a + 1 then (a, b :: bs) :: rs else (a, [b]) :: (a', bs) :: rs
    | [] => [(a, [b])]

/-- A line fetched by the tile fetch unit counted (R239), once where its bytes lie in several pieces. -/
def State.countFetch (s : State) (c : Cmd) (h : Hop) : State :=
  match c.op.instr with
  | .tLd _ =>
    let same := c.progress ≠ 0 && match s.hop c (c.progress - 1) with
      | some x => x.block = h.block
      | none => false
    if same then s else s.countEvent c.cluster c.op.task 0x11 1
  | _ => s

/-- A piece written to memory, run by run, with the poison of what it was read from (R157, R374). -/
def State.pieceWrite (s : State) (t : Task) (c : Cmd) (hs : List Hop) (bs : List Byte) : State × Cmd :=
  let poisoned := (pieceLines hs Hop.src).any (fun l => match s.engAccess t (128 * l) false with
    | some pa => s.linePoison (pa / 128) || (isHost pa && s.board.hostLoss)
    | none => false)
  let runs := runsOf ((hs.filterMap Hop.dst).zip bs)
  runs.foldl (fun (acc : State × Cmd) r => acc.1.engWrite t acc.2 ((acc.1.engAccess t r.1 true).getD 0) r.2 poisoned) (s, c)

/-- One piece of a command, which has passed its checks. -/
def State.movePiece (s : State) (t : Task) (c : Cmd) (hs : List Hop) : State × Cmd :=
  let now := s.clock.cycle
  let s := s.pieceRead t c hs
  let (bs, carry) := s.pieceData t c c.carry hs
  let s := match hs.head? with
    | some h => s.countFetch c h
    | none => s
  let (s, c) :=
    if (hs.filterMap Hop.dst).isEmpty then (s.tileWrite c c.op.ta ((hs.map Hop.off).zip bs), c)
    else s.pieceWrite t c hs bs
  (s, { c.advance now hs.length with carry := carry })

/-- A streaming command's turn in the present cycle: its next piece moves, or as much of it as comes before a failure. -/
def State.streamStep (s : State) (t : Task) (c : Cmd) : State × Cmd :=
  let hs := s.piece c
  if hs.isEmpty then (s, c)
  else
    let s := s.pieceTlb t c hs
    let good := hs.takeWhile (fun h => (s.hopFault t c.op h).isNone)
    if !good.isEmpty && !s.pieceQuiet t good then (s, c)
    else
      let (s', c') := if good.isEmpty then (s, c) else s.movePiece t c good
      if good.length = hs.length then (s', c') else (s', { c' with fault := s.pieceFault t c.op hs })

/-! ### Near-memory elements (R376 to R379) -/

/-- The inputs of R207 for an engine form: its thread's work identifier, its wave, and its instruction. -/
def WobOp.srd (op : WobOp) : SrdIn := ⟨op.value, op.wave, op.fret, op.velem, op.slot⟩

/-- A binary32 product-sum x * y + z, rounded once (R377). -/
def fma32 (rm : Rm) (rho x y z : Nat) : Nat × Flags :=
  fmtF32.finish rm false rho (fmaRes rm (fmtF32.unpack x) (fmtF32.unpack y) (fmtF32.unpack z))

/-- Element i: what y[i] becomes, none where it is unchanged, the running sum, and the flags. -/
def nmcElem (op : WobOp) (i y x sum : Nat) : Option Nat × Nat × Flags :=
  let a := op.aux.toNat % 2 ^ 32
  let lam := op.aux.toNat / 2 ^ 32
  let rm := op.e.rm
  let rho := op.srd.rho
  match op.instr with
  | .nmcAxpy _ => let (v, fl) := fma32 rm (rho i) a x y; (some v, sum, fl)
  | .nmcSgd _ =>
    let (u, f1) := fma32 rm (rho (2 * i)) lam y x
    let (v, f2) := fma32 rm (rho (2 * i + 1)) (a ^^^ 2 ^ 31) u y
    (some v, sum, f1.or f2)
  | .nmcScal _ => let (v, fl) := fmtF32.finish rm false (rho i) (mulRes (fmtF32.unpack a) (fmtF32.unpack y)); (some v, sum, fl)
  | .nmcFill _ => (some a, sum, Flags.none)
  | .nmcSum _ =>
    let (v, fl) := fmtF32.finish rm false (rho i) (sumVals rm [fmtF32.unpack sum, fmtF32.unpack y])
    (none, v, fl)
  | _ => let (v, fl) := fmtF32.finish rm false (rho i) (sumVals rm [fmtF32.unpack y, fmtF32.unpack x]); (some v, sum, fl)

/-- Whether a near-memory form reads y, and x. -/
def nmcReads (i : Instr) : Bool × Bool :=
  match i with
  | .nmcAxpy _ | .nmcSgd _ | .nmcFadd _ => (true, true)
  | .nmcFill _ => (false, false)
  | _ => (true, false)

/-- The result word of a command that stopped at element k (R379). -/
def nmcError (k addr : Nat) : Word := BitVec.ofNat 64 (2 ^ 63 + k % 2 ^ 10 * 2 ^ 52 + addr % 2 ^ 52)

/-- One element of a near-memory command at its channel (R158, R159): the physical address of y stands in the operation's `pa`, that
of x in its `ea`. -/
def State.nmcStep (s : State) (c : Cmd) : State × Cmd :=
  let i := c.progress
  let ya := c.op.pa + 4 * i
  let xa := c.op.ea + 4 * i
  let (ry, rx) := nmcReads c.op.instr
  let s := s.readLines ((if ry then [ya / 128] else []) ++ if rx then [xa / 128] else [])
  let stop := fun (va : Word) => (s, { c with progress := c.total, result := nmcError i (va.toNat + 4 * i) })
  if ry && s.poisoned (ya / 128) then stop c.op.left
  else if rx && s.poisoned (xa / 128) then stop c.op.right
  else
    let y := leNat (memBytes s.mem.hbm ya 4)
    let x := leNat (memBytes s.mem.hbm xa 4)
    let (v, sum, fl) := nmcElem c.op i y x c.result.toNat
    let c := { c.advance s.clock.cycle 1 with result := BitVec.ofNat 64 sum, flags := c.flags.or fl }
    match v with
    | none => (s, c)
    | some v =>
      let s := s.snapshot c.op.task ya
      let m := s.mem.patchHbm (ya / 128) (ya % 128) 4 v
      let s := { s with mem := m.recheck (ya / 128) (m.hbmLine (ya / 128)) }
      match c.op.instr with
      | .nmcFill _ => s.coverLine c ya 4 false
      | _ => (s, c)

/-! ### A cycle of the engines -/

/-- A `copy` that a checkpoint has stopped: its pieces end at boundaries of its destination's lines (R97, step 3; R374). -/
def State.copyStopped (s : State) (c : Cmd) : Bool :=
  match c.op.instr with
  | .copy _ => (s.task? c.op.task).any (fun t => t.st = .saving)
  | _ => false

/-- One running command in one cycle. -/
def State.runCmd (s : State) (seq : Nat) : State :=
  match s.cmd? seq with
  | none => s
  | some c =>
    if !c.running || s.copyStopped c || c.fault.isSome || c.total ≤ c.progress || s.clock.cycle < c.busyEnd then s
    else
      let (s, c) := match s.task? c.op.task with
        | some t => if isNmc c.op.instr then s.nmcStep c else s.streamStep t c
        | none => if isNmc c.op.instr then s.nmcStep c else (s, c)
      s.putCmd c

/-- Pins of fills that are over given up (R360). -/
def State.unpin (s : State) : State :=
  if s.mem.pins.isEmpty then s
  else { s with mem := { s.mem with pins := s.mem.pins.filter (fun q => s.eng.cmds.any (fun c => c.op.seq = q.2)) } }

/-- Every engine in one cycle; in a frozen one those of clusters stand still (R26). -/
def State.runEngines (s : State) (still : Bool) : State :=
  (((s.eng.cmds.filter (fun c => !(still && c.inCluster))).map (fun c => c.op.seq)).foldl State.runCmd s).unpin

end Sys2Proof.Machine
end

