-- ==== Sys2Proof/Machine/Fabric.lean ====
section
/-!
DEFINITION. Machine/Fabric.lean: the hub's fabric engine: remote writes and reads (R380, R381), collectives (R382, R383), and what
peers ask of this device (R106, R381). The layout of a request or a reply within Folgar flits is not given; what stands in
`fabricOut` and in the flits delivered is the model's own (log entry 24).
-/
namespace Sys2Proof.Machine

/-! ### Devices (R23, R380) -/

/-- An identifier that can be given to a device that carries data (R23). -/
def assignable (id : Nat) : Bool := id < 0xC0000

/-- Whether some Folgar port carries data flits (R22, R23). -/
def Board.carriesData (b : Board) : Bool := assignable b.devId.toNat && b.ports.any (fun p => p.2.up && p.2.data)

/-- Whether a fabric form of a task may name a device (R380): its own, or, for a gang task, an assignable one that can be reached.
Whether that device holds a task of the gang is the peer's to answer. -/
def State.mayName (s : State) (t : Task) (id : Nat) : Bool :=
  id = s.board.devId.toNat || (t.gang.isSome && assignable id && s.board.carriesData)

/-- `GID` of a task, 0 without a gang. -/
def Task.gid (t : Task) : BitVec 32 := (t.gang.map Gang.gid).getD 0
/-- `CTMO` in nanoseconds (R103). -/
def Task.ctmoNs (t : Task) : Nat := 1000 * ((t.gang.map Gang.ctmo).getD 100000)

/-! ### `rwr` and `rrd` -/

/-- The device word: identifier, reserved bits, length (R380). -/
def devWord (w : Word) : Nat × Nat × Nat := (bits w 19 0, bits w 31 20, bits w 63 32)

/-- The failure of the checks of R380. -/
def State.remoteFault (s : State) (t : Task) (op : WobOp) : Option CmdFault :=
  let (id, res, len) := devWord op.aux
  if res ≠ 0 || len % 8 ≠ 0 || len = 0 || 2 ^ 24 < len then some (.engine, 8, op.right.toNat)
  else if op.left.toNat % 8 ≠ 0 then some (.engine, 8, op.left.toNat)
  else if op.right.toNat % 8 ≠ 0 then some (.engine, 8, op.right.toNat)
  else if !s.mayName t id then some (.engine, 9, op.right.toNat)
  else none

/-- Whether a fabric operation stays on this device. -/
def State.isLocal (s : State) (op : WobOp) : Bool := (devWord op.aux).1 = s.board.devId.toNat

/-- The first failure of a whole range (R356, R381): leases and pages, then spent lines. -/
def State.rangeFault (s : State) (t : Task) (wr : Bool) (va n : Nat) : Option CmdFault :=
  match s.firstBadVa t wr va n with
  | some a => some (.lease, 0, a)
  | none => (s.firstVaWith t.space va n (fun pa => s.mem.isSpent (pa / 128))).map (fun a => (.overread, 0, a))

/-- Whether a fabric form finds a line's data poisoned: marked so, or in the host tier during a link loss (R381, R384). -/
def State.sendsPoison (s : State) (pa : Nat) : Bool := s.linePoison (pa / 128) || (isHost pa && s.board.hostLoss)

/-- Which 8-byte words of a virtual range lie in lines whose data is poisoned, as a number with a bit for each (R381). -/
def State.vaPoison (s : State) (space va n : Nat) : Nat :=
  (List.range ((n + 7) / 8)).foldl (fun m k => match s.physOf space (va + 8 * k) with
    | some (pa, _) => if s.sendsPoison pa then m + 2 ^ k else m
    | none => m) 0

/-- Before a line is written by an engine: a measured task's page is copied (R245), and the access of a host line is counted (R175). -/
def State.beforeWrite (s : State) (t : Task) (pa : Nat) : State :=
  let s := s.snapshot t.num pa
  if isHost pa && !s.usesHlc t.fn then s.acCountAccess t.fn pa else s

/-- Bytes written coherently to a virtual range by an engine, with the poison they carry; whole lines of sound data end poison where
the form may do so (R157, R381). -/
def State.fabricWrite (s : State) (t : Task) (va : Nat) (bs : List Byte) (poison : Nat) (clears : Bool) : State :=
  let ps := s.pieces t.space va (bs.length / 128 + 2) bs.length
  let s := ps.foldl (fun (s : State) (q : Nat × Nat) => s.beforeWrite t q.1) s
  let s := s.writePieces t.fn ps bs
  (ps.foldl (fun (acc : State × Nat) (q : Nat × Nat) =>
    let fed := poison / 2 ^ (acc.2 / 8) % 2 ^ ((q.2 + 7) / 8) ≠ 0
    (if fed then acc.1.setPoison (q.1 / 128) true
      else if clears && q.2 = 128 then acc.1.setPoison (q.1 / 128) false else acc.1, acc.2 + q.2)) (s, 0)).1

/-- Poison as it goes with n bytes over the fabric: whether there is any, and where there is, the words' bits (R381, log entry 24). -/
def poisonBytes (poison n : Nat) : List Byte := if poison = 0 then leBytes 1 0 else leBytes 1 1 ++ leBytes ((n + 63) / 64) poison

/-- A request to a peer: kind, `GID`, remote address, length, the operation's number, poison, and the bytes of an `rwr`. -/
def remoteMsg (kind : Nat) (gid : BitVec 32) (op : WobOp) (len : Nat) (poison : Nat) (bs : List Byte) : List Byte :=
  leBytes 1 kind ++ leBytes 4 gid.toNat ++ leBytes 8 op.right.toNat ++ leBytes 4 len ++ leBytes 8 op.seq ++ poisonBytes poison bs.length ++ bs

/-- What has come back for a request, in the order of delivery: each flit's payload begins with the request's number. -/
def State.replyFor (s : State) (seq : Nat) : List Byte :=
  (s.board.folgarIn.filter (fun f => leNat ((f.2.2.drop 16).take 8) = seq)).flatMap (fun f => f.2.2.drop 24)

/-- The flits of a reply taken. -/
def State.takeReply (s : State) (seq : Nat) : State :=
  { s with board := { s.board with folgarIn := s.board.folgarIn.filter (fun f => leNat ((f.2.2.drop 16).take 8) ≠ seq) } }

/-- Fault codes that a reply may carry, by number (R220). -/
def fcodeOf (n : Nat) : FCode :=
  match n with
  | 1 => .lease | 3 => .overread | 6 => .uecc | 12 => .hostlink | 13 => .collpeer | _ => .engine

/-- The ranges of this device that an `rwr` or `rrd` reads and writes: address, length, and whether it is written. A length out of its range counts
as one byte. -/
def State.localRanges (s : State) (op : WobOp) : List (Nat × Nat × Bool) :=
  let len := (devWord op.aux).2.2
  let n := if len = 0 || 2 ^ 24 < len then 1 else len
  let rd := match op.instr with
    | .rrd _ => true
    | _ => false
  (op.left.toNat, n, rd) :: (if s.isLocal op then [(op.right.toNat, n, !rd)] else [])

/-- The checks of an `rwr` or `rrd` as it starts, in the order of R222: the leases and pages of its ranges here, and, before an ENGINE reason, their
spent lines (R356). -/
def State.remoteCheck (s : State) (t : Task) (op : WobOp) : Option CmdFault :=
  let rs := s.localRanges op
  match rs.findSome? (fun r => s.firstBadVa t r.2.2 r.1 r.2.1) with
  | some a => some (.lease, 0, a)
  | none => (s.remoteFault t op).map (fun f =>
      match rs.findSome? (fun r => s.firstVaWith t.space r.1 r.2.1 (fun pa => s.mem.isSpent (pa / 128))) with
      | some a => (.overread, 0, a)
      | none => f)

/-- An `rwr` or `rrd` started (R381): on this device its bytes move as those of a copy; toward a peer the request is sent, an
`rwr`'s with its bytes. -/
def State.startRemote (s : State) (t : Task) (c : Cmd) : State × Cmd :=
  let op := c.op
  let (id, _, len) := devWord op.aux
  match s.remoteCheck t op with
  | some f => (s, { c with fault := some f })
  | none =>
    if s.isLocal op then (s, { c with total := len })
    else
      match op.instr with
      | .rwr _ =>
        match s.rangeFault t false op.left.toNat len with
        | some f => (s, { c with fault := some f })
        | none =>
          let bs := s.readVa t.space op.left.toNat len
          let poison := s.vaPoison t.space op.left.toNat len
          let s := (s.touchVa t op.left.toNat len).sendFabric id (remoteMsg 1 t.gid op len poison bs)
          ({ s with eng := { s.eng with remote := s.eng.remote ++ [⟨op, s.clock.ns⟩] } }, c)
      | _ =>
        let s := s.sendFabric id (remoteMsg 2 t.gid op len 0 [])
        ({ s with eng := { s.eng with remote := s.eng.remote ++ [⟨op, s.clock.ns⟩] } }, c)

/-- A reply's poison and bytes, after its code and reason: n bytes were asked for. -/
def replyData (r : List Byte) (n : Nat) : Nat × List Byte :=
  if leNat ((r.drop 2).take 1) = 0 then (0, (r.drop 3).take n)
  else (leNat ((r.drop 3).take ((n + 63) / 64)), (r.drop (3 + (n + 63) / 64)).take n)

/-- Bytes that an `rrd` asks for, and other commands' replies do not carry. -/
def Cmd.asked (c : Cmd) : Nat :=
  match c.op.instr with
  | .rrd _ => (devWord c.op.aux).2.2
  | _ => 0

/-- Whether a request to a peer has its whole reply: a fault with its address, or the bytes of an `rrd`. -/
def State.remoteDone (s : State) (c : Cmd) : Bool :=
  let r := s.replyFor c.op.seq
  if leNat (r.take 1) ≠ 0 then 11 ≤ r.length else 3 ≤ r.length && (replyData r c.asked).2.length = c.asked

/-- A fault that a peer has answered with, at the address that it names (R381). -/
def State.peerFault (s : State) (c : Cmd) : Option CmdFault :=
  let r := s.replyFor c.op.seq
  if s.remoteDone c && leNat (r.take 1) ≠ 0 then some (fcodeOf (leNat (r.take 1)), leNat ((r.drop 1).take 1), leNat ((r.drop 3).take 8)) else none

/-- A request's reply taken (R381): a fault of the peer's, or the bytes written here. -/
def State.finishRemote (s : State) (t : Task) (c : Cmd) : State × Cmd :=
  let (poison, bs) := replyData (s.replyFor c.op.seq) c.asked
  let f := s.peerFault c
  let s := s.takeReply c.op.seq
  let s := { s with eng := { s.eng with remote := s.eng.remote.filter (fun x => x.op.seq ≠ c.op.seq) } }
  if f.isSome then (s, { c with fault := f })
  else
    match c.op.instr with
    | .rrd _ =>
      match s.rangeFault t true c.op.left.toNat c.asked with
      | some f => (s, { c with fault := some f })
      | none => (s.fabricWrite t c.op.left.toNat bs poison true, c)
    | _ => (s, c)

/-- The gang task of this device that a peer's request is for: one that has not ended, switched out or not (R106). -/
def State.gangTask (s : State) (gid : BitVec 32) : Option Task :=
  s.tasks.find? (fun t => t.st.live && (t.gang.map Gang.gid) = some gid)

/-- A reply to a peer: code and reason with the address of a fault, or with poison and bytes. -/
def State.answerPeer (s : State) (f : Option CmdFault) (poison : Nat) (bs : List Byte) : State :=
  match f with
  | some (code, reason, a) => s.sendFabric 0xFFFFF (leBytes 1 code.num ++ leBytes 1 reason ++ leBytes 1 0 ++ leBytes 8 a)
  | none => s.sendFabric 0xFFFFF (leBytes 1 0 ++ leBytes 1 0 ++ poisonBytes poison bs.length ++ bs)

/-- `REMOTE_WRITE_SERVE` (R381, R191, R106): a peer's `rwr` is performed at this device's homes. Where some of its data is poisoned, `subject` says
which words, a bit for each (log entry 28). -/
def execRemoteWriteServe (gid : BitVec 32) (addr : Nat) (bytes : List Byte) (poisoned : Bool) (s : State) : Out :=
  if !s.board.carriesData then .refused (.notEnabled "REMOTE_WRITE_SERVE")
  else
    match s.gangTask gid with
    | none => .next (s.answerPeer (some (.engine, 9, addr)) 0 [])
    | some t =>
      match s.rangeFault t true addr bytes.length with
      | some f => .next (s.answerPeer (some f) 0 [])
      | none =>
        event "REMOTE_WRITE_SERVE" (s.vaQuiet t.space addr bytes.length)
          ((s.fabricWrite t addr bytes (if poisoned then s.subject else 0) true).answerPeer none 0 [])

/-- `REMOTE_READ_SERVE` (R381): a peer's `rrd` is performed at this device's homes, and its bytes sent back. -/
def execRemoteReadServe (gid : BitVec 32) (addr len : Nat) (s : State) : Out :=
  if !s.board.carriesData then .refused (.notEnabled "REMOTE_READ_SERVE")
  else
    match s.gangTask gid with
    | none => .next (s.answerPeer (some (.engine, 9, addr)) 0 [])
    | some t =>
      match s.rangeFault t false addr len with
      | some f => .next (s.answerPeer (some f) 0 [])
      | none =>
        event "REMOTE_READ_SERVE" (s.vaQuiet t.space addr len)
          ((s.touchVa t addr len).answerPeer none (s.vaPoison t.space addr len) (s.readVa t.space addr len))

/-- `REMOTE_REQUEST_TIMEOUT` (R381): the request with number `subject` has had no reply within `CTMO`. -/
def execRemoteRequestTimeout (s : State) : Out :=
  match s.eng.remote.find? (fun r => r.op.seq = s.subject), s.cmd? s.subject with
  | some r, some c =>
    match s.task? r.op.task with
    | none => .refused (.notEnabled "REMOTE_REQUEST_TIMEOUT")
    | some t =>
      let s' := { s with eng := { s.eng with remote := s.eng.remote.filter (fun x => x.op.seq ≠ s.subject) } }
      event "REMOTE_REQUEST_TIMEOUT" (r.since + t.ctmoNs ≤ s.clock.ns && !s.remoteDone c)
        (s'.putCmd { c with fault := some (.collpeer, 0, 0) })
  | _, _ => .refused (.notEnabled "REMOTE_REQUEST_TIMEOUT")

/-! ### Collectives (R382, R383) -/

/-- The remaining estimate in ns (R76). -/
def State.estimate (s : State) (t : Task) : Nat :=
  let p := (s.placementsOf t.num).length
  let n := (t.workCnt - t.ended) * t.fld 48 4
  if p = 0 then t.fld 52 4 else t.fld 52 4 + (n + 16 * p - 1) / (16 * p)

def isColl (i : Instr) : Bool :=
  match i with
  | .collAllredSum _ | .collAllredMax _ | .collAllgat _ | .collRedsc _ | .collBcast _ | .collGbar _ => true
  | _ => false

/-- Sub-operation of a `coll` form (R260). -/
def collSub (i : Instr) : Nat :=
  match i with
  | .collAllredSum _ => 0
  | .collAllredMax _ => 1
  | .collAllgat _ => 2
  | .collRedsc _ => 3
  | .collBcast _ => 4
  | _ => 5

/-- The fields of a collective's descriptor (R382). -/
structure CollHead where
  src : Nat
  dst : Nat
  mtab : Nat
  nelem : Nat
  nmem : Nat
  root : Nat
  cid : Nat
  spare : Nat
  deriving DecidableEq, Repr

def collHead (d : List Byte) : CollHead :=
  ⟨field d 0 8, field d 8 8, field d 16 8, field d 24 4, field d 28 2, field d 30 2, field d 32 4, field d 36 28⟩

/-- A field of a descriptor, or its place, outside its range (R382, COLLDESC). -/
def CollHead.bad (h : CollHead) (sub a : Nat) : Bool :=
  a % 64 ≠ 0 || h.spare ≠ 0 || h.cid = 0 || h.nmem = 0 || 4096 < h.nmem || (if sub = 5 then h.nelem ≠ 0 else h.nelem = 0 || 2 ^ 28 < h.nelem)
    || (if sub = 4 then h.nmem ≤ h.root else h.root ≠ 0)

/-- The members that a descriptor's table names. -/
def State.collMembers (s : State) (t : Task) (h : CollHead) : List Nat :=
  (List.range (min 4096 h.nmem)).map (fun k => field (s.readVa t.space (h.mtab + 4 * k) 4) 0 4)

/-- Whether this device reads its source: in a `gbar` none does, in a `bcast` only the root. -/
def State.collReads (s : State) (sub : Nat) (h : CollHead) (ms : List Nat) : Bool :=
  sub ≠ 5 && (sub ≠ 4 || (findIdx1 (fun m => decide (m = s.board.devId.toNat)) ms).getD 0 = h.root)

/-- The ranges that a `coll` reads as it starts: its descriptor, its member table, and its source. -/
def State.collRanges (s : State) (t : Task) (op : WobOp) : List (Nat × Nat) :=
  let a := op.left.toNat
  let h := collHead (s.readVa t.space a 64)
  let ms := s.collMembers t h
  let n := if s.collReads (collSub op.instr) h ms then min (2 ^ 28) h.nelem else 0
  if h.bad (collSub op.instr) a then [(a, 64)] else [(a, 64), (h.mtab, 4 * h.nmem), (h.src, op.fmt.esize * n)]

/-- A device's entry into a collective as the descriptor gives it, or its failure, the first in the order of R222 (R382). The ordinal that
the draws of R383 use counts from 0 (log entry 87). -/
def State.collDesc (s : State) (t : Task) (op : WobOp) : Except CmdFault Coll :=
  let a := op.left.toNat
  let sub := collSub op.instr
  match (s.readFails t [(a, 64)]).or (s.readFails t (s.collRanges t op)) with
  | some f => .error f
  | none =>
    let h := collHead (s.readVa t.space a 64)
    let ms := s.collMembers t h
    let own := s.board.devId.toNat
    if h.bad sub a || ms.any (fun m => 2 ^ 20 ≤ m) then .error (.engine, 11, a)
    else if (ms.filter (fun m => m = own)).length ≠ 1 || ms.any (fun m => !s.mayName t m) then .error (.engine, 9, a)
    else match s.readPoison t (s.collRanges t op) with
      | some f => .error f
      | none =>
        let n := if s.collReads sub h ms then h.nelem else 0
        let bs := s.readVa t.space h.src (op.fmt.esize * n)
        let src := (List.range n).map (fun k => BitVec.ofNat 32 (field bs (op.fmt.esize * k) op.fmt.esize))
        .ok ⟨op, BitVec.ofNat 32 h.cid, tgetD s.eng.ordinals h.cid 0, sub, h.nelem, h.root, ms.map (BitVec.ofNat 20), h.dst,
          (findIdx1 (fun m => decide (m = own)) ms).getD 0, src, s.clock.ns, none, t.gid⟩

/-- Peers that have entered a collective. -/
def State.entered (s : State) (g : Coll) : List CollPeer :=
  (s.eng.peers.map Prod.fst).filter (fun p => p.cid = g.cid && p.ordinal = g.ordinal)

/-- Whether a peer's entry agrees with this device's (R382, COLLMIX). -/
def Coll.agrees (g : Coll) (p : CollPeer) : Bool :=
  p.subop = g.subop && p.tfmt = g.op.fmt && p.nelem = g.nelem && p.nmem = g.members.length && p.root = g.root && p.members = g.members

/-- COLLMIX as this device can tell it. -/
def State.collMix (s : State) (g : Coll) : Bool :=
  (g.subop = 3 && g.nelem % g.members.length ≠ 0) || (s.entered g).any (fun p => !g.agrees p)

/-- This device's own entry, as its peers receive it. -/
def Coll.own (g : Coll) : CollPeer := ⟨g.cid, g.ordinal, g.rank, g.subop, g.op.fmt, g.nelem, g.members.length, g.root, g.members, g.src, g.gid⟩

/-- The bytes in which an entry goes out, with its command's number, by which a peer may refuse it. -/
def collMsg (p : CollPeer) (seq : Nat) : List Byte :=
  leBytes 1 3 ++ leBytes 4 p.gid.toNat ++ leBytes 8 seq ++ leBytes 4 p.cid.toNat ++ leBytes 4 p.ordinal ++ leBytes 2 p.rank ++ leBytes 1 p.subop ++ leBytes 1 p.tfmt.code
    ++ leBytes 4 p.nelem ++ leBytes 2 p.nmem ++ leBytes 2 p.root ++ p.members.flatMap (fun m => leBytes 4 m.toNat)
    ++ p.src.flatMap (fun v => leBytes 4 v.toNat)

/-- Whether nothing is in flight for what a fabric form reads as it starts: its issue is a release (R189). -/
def State.fabricQuiet (s : State) (t : Task) (op : WobOp) : Bool :=
  match op.instr with
  | .rwr _ => s.isLocal op || s.vaQuiet t.space op.left.toNat (min (2 ^ 24) (devWord op.aux).2.2)
  | i => !isColl i || (s.collRanges t op).all (fun r => s.vaQuiet t.space r.1 r.2)

/-- A `coll` started: this device enters (R382), having read its source, and tells the other members. -/
def State.startColl (s : State) (t : Task) (c : Cmd) : State × Cmd :=
  match s.collDesc t c.op with
  | .error f => (s, { c with fault := some f })
  | .ok g =>
    let s := (s.collRanges t c.op).foldl (fun (s : State) r => s.touchVa t r.1 r.2) s
    let first := ((s.eng.peers.filter (fun p => p.1.cid = g.cid && p.1.ordinal = g.ordinal)).map Prod.snd).foldl min s.clock.ns
    let g := { g with since := first }
    let s := { s with eng := { s.eng with colls := s.eng.colls ++ [g], ordinals := tput s.eng.ordinals g.cid.toNat (g.ordinal + 1) } }
    let s := (g.members.filter (fun m => m ≠ s.board.devId)).foldl (fun (s : State) m => s.sendFabric m.toNat (collMsg g.own c.op.seq)) s
    (s, if s.collMix g then { c with fault := some (.engine, 10, c.op.left.toNat) } else c)

/-- This device's part of a running collective. -/
def State.collOf (s : State) (seq : Nat) : Option Coll := s.eng.colls.find? (fun g => g.op.seq = seq)

/-- Whether every member has entered. -/
def State.collWhole (s : State) (g : Coll) : Bool :=
  (List.range g.members.length).all (fun r => r = g.rank || (s.entered g).any (fun p => p.rank = r))

/-- The source of a rank. -/
def State.collSrc (s : State) (g : Coll) (r : Nat) : List (BitVec 32) :=
  if r = g.rank then g.src else (((s.entered g).find? (fun p => p.rank = r)).map CollPeer.src).getD []

/-- The draw of R383. -/
def Coll.srd (g : Coll) (i : Nat) : SrdIn := ⟨BitVec.ofNat 64 (g.cid.toNat * 2 ^ 32 + i), g.ordinal % 2 ^ 24, 0, 0, 0⟩

/-- Two binary32 values added for a collective. -/
def collAdd (rm : Rm) (rho a b : Nat) : Nat × Flags := fmtF32.finish rm false rho (sumVals rm [fmtF32.unpack a, fmtF32.unpack b])

/-- The sum over ranks of element i (R383); of one member, its own element (R393). -/
def Coll.sum (g : Coll) (i : Nat) (vs : List Nat) : Nat × Flags :=
  let rm := g.op.e.rm
  match g.op.fmt, vs with
  | _, [] => (0, Flags.none)
  | _, [v] => (v, Flags.none)
  | .s32, vs => (vs.foldl (· + ·) 0 % 2 ^ 32, Flags.none)
  | .bf16, v :: vs =>
    let wide := fun (x : Nat) => convFF fmtBf16 fmtF32 .rne false 0 x
    let (acc, fl, _) := vs.foldl (fun (st : Nat × Flags × Nat) x =>
      let (w, f0) := wide x
      let (y, f1) := collAdd rm ((g.srd i).rho st.2.2) st.1 w
      (y, (st.2.1.or f0).or f1, st.2.2 + 1)) ((wide v).1, (wide v).2, 1)
    let (y, f2) := convFF fmtF32 fmtBf16 rm false ((g.srd i).rho 0) acc
    (y, fl.or f2)
  | _, v :: vs =>
    let (acc, fl, _) := vs.foldl (fun (st : Nat × Flags × Nat) x =>
      let (y, f1) := collAdd rm ((g.srd i).rho st.2.2) st.1 x
      (y, st.2.1.or f1, st.2.2 + 1)) (v, Flags.none, 1)
    (acc, fl)

/-- The maximum over ranks (R383, R308). -/
def Coll.max (g : Coll) (vs : List Nat) : Nat × Flags :=
  match vs with
  | [] => (0, Flags.none)
  | v :: vs =>
    vs.foldl (fun (st : Nat × Flags) x =>
      match g.op.fmt with
      | .s32 => (if (BitVec.ofNat 32 st.1).toInt < (BitVec.ofNat 32 x).toInt then x else st.1, st.2)
      | f => let (y, fl) := minmaxLane (tileNum f) true st.1 x; (y, st.2.or fl)) (v, Flags.none)

/-- What rank q's destination receives (R383), and the flags of the elements reduced. -/
def State.collResult (s : State) (g : Coll) : List Nat × Flags :=
  let n := g.members.length
  let srcs := (List.range n).map (fun r => (s.collSrc g r).map BitVec.toNat)
  let col := fun (i : Nat) => srcs.map (fun v => v.getD i 0)
  let red := fun (is : List Nat) =>
    let out := is.map (fun i => if g.subop = 1 then g.max (col i) else g.sum i (col i))
    (out.map Prod.fst, Flags.all (out.map Prod.snd))
  match g.subop with
  | 0 | 1 => red (List.range g.nelem)
  | 2 => (srcs.flatMap id, Flags.none)
  | 3 => red ((List.range (g.nelem / n)).map (fun k => g.rank * (g.nelem / n) + k))
  | 4 => (srcs.getD g.root [], Flags.none)
  | _ => ([], Flags.none)

/-- Bytes of a collective's destination. -/
def Coll.dstLen (g : Coll) : Nat :=
  let e := g.op.fmt.esize
  match g.subop with
  | 2 => e * g.nelem * g.members.length
  | 3 => e * (g.nelem / g.members.length)
  | 5 => 0
  | _ => e * g.nelem

/-- A collective's destination written (R383). -/
def State.finishColl (s : State) (t : Task) (c : Cmd) (g : Coll) : State × Cmd :=
  let (vs, fl) := s.collResult g
  let s := { s with eng := { s.eng with
    colls := s.eng.colls.filter (fun x => x.op.seq ≠ g.op.seq)
    peers := s.eng.peers.filter (fun p => !(p.1.cid = g.cid && p.1.ordinal = g.ordinal)) } }
  match s.rangeFault t true g.dst g.dstLen with
  | some f => (s, { c with fault := some f })
  | none => (s.fabricWrite t g.dst (vs.flatMap (fun v => leBytes g.op.fmt.esize v)) 0 false, { c with flags := fl })

/-- `COLL_ENTRY` (R382): a peer's entry reaches the fabric engine; one that disagrees with this device's makes COLLMIX, and one of a gang that has no
task here, or none that has not ended, is refused with FABDEST (R380). -/
def execCollEntry (peer : CollPeer) (s : State) : Out :=
  let s' := { s with eng := { s.eng with peers := s.eng.peers ++ [(peer, s.clock.ns)] } }
  let mix := match s.eng.colls.find? (fun g => g.cid = peer.cid && g.ordinal = peer.ordinal) with
    | none => s'
    | some g => match s.cmd? g.op.seq with
      | none => s'
      | some c => if g.agrees peer then s' else s'.putCmd { c with fault := some (.engine, 10, c.op.left.toNat) }
  event "COLL_ENTRY" s.board.carriesData (if (s.gangTask peer.gid).isNone then s.answerPeer (some (.engine, 9, 0)) 0 [] else mix)

/-- `COLL_TIMEOUT` (R382): a member has not entered within `CTMO` of the first entry: this device's participant faults COLLPEER. The
time does not run while the collective is held (R106, R232). -/
def execCollTimeout (cid : BitVec 32) (s : State) : Out :=
  let late := fun (g : Coll) => g.cid = cid && !s.collWhole g && g.heldFor.isNone &&
    ((s.task? g.op.task).map (fun t => decide (g.since + t.ctmoNs ≤ s.clock.ns))).getD false
  match s.eng.colls.find? late with
  | none => .refused (.notEnabled "COLL_TIMEOUT")
  | some g =>
    match s.cmd? g.op.seq with
    | none => .refused (.notEnabled "COLL_TIMEOUT")
    | some c =>
      let s' := { s with eng := { s.eng with colls := s.eng.colls.filter (fun x => x.op.seq ≠ g.op.seq) } }
      .next (s'.putCmd { c with fault := some (.collpeer, 0, 0) })

end Sys2Proof.Machine
end

