-- ==== Sys2Proof/Machine/Engine.lean ====
section
/-!
DEFINITION. Machine/Engine.lean: engine commands started and completed (R354 to R357): what each form checks and does as its unit
performs it.
-/
namespace Sys2Proof.Machine

/-! ### When a command may start (R355, R367, R369) -/

/-- Whether a running command still takes its unit up: the arrays and the drain path until the end of the busy part, the others
until the command has completed. -/
def Cmd.occupies (c : Cmd) (now : Nat) : Bool :=
  c.running && match c.op.instr with
    | .mmTern _ _ _ | .mmMx4 _ _ _ | .mmD _ _ | .drain _ _ => now < c.busyEnd
    | _ => true

/-- A command whose hand-off has ended. -/
def Cmd.over (c : Cmd) (now : Nat) : Bool := c.running && c.doneAt ≤ now && c.total ≤ c.progress

def isMm (i : Instr) : Bool :=
  match i with
  | .mmTern _ _ _ | .mmMx4 _ _ _ | .mmD _ _ => true
  | _ => false

def isDrain (i : Instr) : Bool :=
  match i with
  | .drain _ _ | .drainM _ _ => true
  | _ => false

/-- Whether an accumulator holds a command back: a matrix command behind an earlier drain of it, a drain behind an earlier matrix
command into it. -/
def accWaits (before : List Cmd) (c : Cmd) (now : Nat) : Bool :=
  before.any (fun d => d.cluster = c.cluster && accSel d.op.instr = accSel c.op.instr && !d.over now &&
    ((isMm c.op.instr && isDrain d.op.instr) || (isDrain c.op.instr && isMm d.op.instr)))

/-- Whether a tile holds a command back (R148): one that it reads, fills or frees is FILLING or DRAINING. -/
def State.tileWaits (s : State) (c : Cmd) : Bool :=
  let frees := match c.op.instr with
    | .tRel _ => [c.op.ta]
    | _ => []
  (c.toRead ++ (tileFills c.op).toList ++ frees).any (fun slot =>
    let st := s.tileState c.cluster c.op.task c.op.pl slot
    st = tFilling || st = tDraining)

/-- Physical places of y and x of a near-memory command, as they now translate; those of a command whose task is gone, as they were translated when
it was accepted (R160, R43). -/
def State.nmcPas (s : State) (c : Cmd) : List Nat :=
  match s.task? c.op.task with
  | some t => (nmcRanges c.op).filterMap (fun r => (s.physOf t.space r.1).map Prod.fst)
  | none => (List.range (c.desc.length / 8)).map (fun k => field c.desc (8 * k) 8)

/-- The operand lines of a near-memory command. -/
def State.nmcLines (s : State) (c : Cmd) : List Nat := (s.nmcPas c).flatMap (fun pa => linesOf pa (4 * c.op.count))

/-- Whether a near-memory command waits: an operand lies in a migrating piece (R160), or something is in flight for a line (R158). -/
def State.nmcNotYet (s : State) (c : Cmd) : Bool :=
  isNmc c.op.instr && ((s.nmcPas c).any (fun pa => (s.mem.migAt pa).isSome) || (s.nmcLines c).any (fun l => !s.mem.quiet l))

/-- Whether a command's unit and its tiles let it start: commands of a unit start in the order of acceptance (R355); a fill waits for a move of its
placement out of the cluster (R147); and in a frozen cycle no engine of a cluster starts (R26). -/
def State.unitReady (s : State) (c : Cmd) : Bool :=
  let before := s.eng.cmds.takeWhile (fun x => x.op.seq ≠ c.op.seq)
  let mates := s.eng.cmds.filter (fun x => x.unit = c.unit)
  let now := s.clock.cycle
  !c.running && !before.any (fun x => x.unit = c.unit && !x.running)
    && (mates.filter (fun x => x.occupies now)).length < unitWidth c.unit
    && !accWaits before c now && !s.tileWaits c && !s.nmcNotYet c && !(c.inCluster && s.frozenNow)
    && ((tileFills c.op).isNone || (s.movesFrom c.op.task c.op.pl c.cluster).isEmpty)

/-- The command of a placement that this event starts, with its task and placement. -/
def State.startable (s : State) (seq : Nat) : Option (Task × Placement × Cmd) :=
  match s.cmd? seq with
  | none => none
  | some c =>
    match s.task? c.op.task, s.placement? c.op.task c.op.pl with
    | some t, some p => if s.unitReady c && s.fabricQuiet t c.op then some (t, p, c) else none
    | _, _ => none

/-- The near-memory command that this event starts, whose task is gone (R43, R100). -/
def State.orphan (s : State) (seq : Nat) : Option Cmd :=
  match s.cmd? seq with
  | none => none
  | some c => if (s.task? c.op.task).isNone && isNmc c.op.instr && s.unitReady c then some c else none

/-! ### Tiles as a command starts (R148, R149) -/

/-- A slot that is still to be read taken: SPENT is OVERREAD, EMPTY is TILESTATE, READY is taken as it stands. -/
def State.takeSlot (s : State) (c : Cmd) (slot : Nat) : Cmd :=
  match s.slotTile c slot with
  | none => { c with fault := c.fault.or (some (.tilestate, 0, slot)) }
  | some t =>
    if t.st = tSpent then { c with fault := some (.overread, 0, slot) }
    else { c with taken := c.taken ++ [(slot, t)] }

/-- The filler column of R148 for a slot: SPENT is OVERREAD, READY and counted is TILESTATE. -/
def State.fillerFault (s : State) (c : Cmd) (slot : Nat) : Option CmdFault :=
  match s.slotTile c slot with
  | none => none
  | some t => if t.st = tSpent then some (.overread, 0, slot) else if t.count ≠ 0 then some (.tilestate, 0, slot) else none

/-- The first of two failures in the order of R222, OVERREAD before TILESTATE. -/
def worse (a b : Option CmdFault) : Option CmdFault :=
  match a, b with
  | some (.overread, r, x), _ => some (.overread, r, x)
  | _, some (.overread, r, x) => some (.overread, r, x)
  | some f, _ => some f
  | none, g => g

/-- Every tile of a command read, or its failure. A command that has already failed at acceptance stays failed. -/
def State.readTiles (s : State) (c : Cmd) : State × Cmd :=
  let (s, c) := s.consumeCmd c
  if c.fault.isSome then (s, { c with toRead := [] })
  else
    let c := c.toRead.eraseDups.foldl (fun c slot => s.takeSlot c slot) c
    (s, { c with fault := worse c.fault ((tileFills c.op).bind (s.fillerFault c)), toRead := [] })

def Cmd.tile? (c : Cmd) (slot : Nat) : Option Tile := (c.taken.find? (fun q => q.1 = slot)).map Prod.snd

/-- One of several slots: which of them a fault names is not stated (log entry 25). -/
def pickSlot (free : Word) (ss : List Nat) : Nat := ss.getD (free.toNat % ss.length) 0

/-- A command failed with an ENGINE reason, at one of the slots that the check concerns. -/
def State.engFail (s : State) (c : Cmd) (reason : Nat) (slots : List Nat) : State × Cmd :=
  match slots with
  | [x] => (s, { c with fault := some (.engine, reason, x) })
  | _ => (s.drawFree, { c with fault := some (.engine, reason, pickSlot (Config.freeWord s.freeCtr) slots) })

/-- A tile begun by a filler, or TILESPACE. -/
def State.beginFill (s : State) (t : Task) (p : Placement) (c : Cmd) (slot : Nat) (f : TFmt) (rows cols : Nat) : State × Cmd :=
  match s.fillTile t p c.cluster slot f rows cols with
  | (s, true) => (s, c)
  | (s, false) => (s, { c with fault := some (.engine, 4, slot) })

/-- The tile of a command written whole. -/
def State.putTileData (s : State) (c : Cmd) (slot : Nat) (bs : List Byte) (satf : Bool) : State :=
  match s.slotTile c slot with
  | none => s
  | some t => s.setTile c.cluster c.op.task c.op.pl slot { t with data := memPutBytes [] 0 bs, satf := satf }

/-! ### Each form as it starts -/

/-- `t.ld` (R360). -/
def State.startTld (s : State) (t : Task) (p : Placement) (c : Cmd) : State × Cmd :=
  let w := c.op.right
  match (shapeReason c.op.fmt w).or (pitchReason c.op.fmt c.op.left.toNat (shapePitch w)) with
  | some r => s.engFail c r [c.op.ta]
  | none =>
    s.beginFill t p { c with total := tileBytes c.op.fmt (shapeRows w) (shapeCols w) } c.op.ta c.op.fmt (shapeRows w) (shapeCols w)

/-- `t.st` (R361): the tile goes DRAINING. -/
def State.startTst (s : State) (c : Cmd) : State × Cmd :=
  match c.tile? c.op.ta with
  | none => (s, c)
  | some x =>
    match pitchReason x.fmt c.op.left.toNat (bits c.op.right 31 0) with
    | some r => s.engFail c r [c.op.ta]
    | none =>
      (s.setTile c.cluster c.op.task c.op.pl c.op.ta { x with st := tDraining }, { c with total := tileBytes x.fmt x.rows x.cols })

/-- `t.rel` (R148, R362): a counted READY tile raises UNDERREAD, whose flag is set with the token (R218), and any tile is freed. -/
def State.startTrel (s : State) (c : Cmd) : State × Cmd :=
  match s.slotTile c c.op.ta with
  | none => (s, c)
  | some x =>
    (s.dropTile c.cluster c.op.task c.op.pl c.op.ta, { c with flags := Flags.UNDERREAD.when (x.st = tReady && x.count ≠ 0) })

/-- `t.zero` (R362): one cycle a granule. -/
def State.startTzero (s : State) (t : Task) (p : Placement) (c : Cmd) : State × Cmd :=
  let w := c.op.left
  match shapeReason c.op.fmt w with
  | some r => s.engFail c r [c.op.ta]
  | none =>
    s.beginFill t p { c with doneAt := s.clock.cycle + granules c.op.fmt (shapeRows w) (shapeCols w) } c.op.ta c.op.fmt
      (shapeRows w) (shapeCols w)

/-- The bytes of a transposed tile (R364). -/
def Tile.transposed (x : Tile) : List Byte :=
  (List.range x.cols).flatMap (fun c => (List.range x.rows).flatMap (fun r => leBytes x.fmt.esize (x.elemBits r c)))

/-- `t.tr` (R364): 128 bytes a cycle. A `trit` source is ENGINE, reason TILEFMT, as R364 has it; R203 says that such a `t.tr` copies bytes checked
before (log entry 81). -/
def State.startTtr (s : State) (t : Task) (p : Placement) (c : Cmd) : State × Cmd :=
  match c.tile? c.op.tb with
  | none => (s, c)
  | some x =>
    if x.fmt = .mx4 || x.fmt = .trit then s.engFail c 6 [c.op.tb]
    else if 4095 < x.cols then s.engFail c 7 [c.op.ta]
    else
      let (s, c) := s.beginFill t p { c with doneAt := s.clock.cycle + (tileBytes x.fmt x.rows x.cols + 127) / 128 } c.op.ta x.fmt x.cols x.rows
      (s.putTileData c c.op.ta x.transposed false, c)

/-- `mm.tern`, `mm.mx4` and `mm.d` (R366, R367), with their events (R239). -/
def State.startMm (s : State) (c : Cmd) : State × Cmd :=
  match c.tile? c.op.ta, c.tile? c.op.tb with
  | some a, some b =>
    let sel := accSel c.op.instr
    let acc := s.accum c.cluster sel
    match mmReason c.op a b acc.kind with
    | some (r, slots) => s.engFail c r slots
    | none =>
      let (acc', fl) := mmRun c.op.instr a b acc
      let (busy, hand) := mmCycles c.op a b
      let now := s.clock.cycle
      let s := (s.setAccum c.cluster sel acc').countEvent c.cluster c.op.task (if sel = 2 then 0x10 else 0x0E) busy
      let s := match c.op.instr with
        | .mmTern _ _ _ => s.countEvent c.cluster c.op.task 0x0F (zeroGroups b)
        | _ => s
      (s, { c with flags := fl, busyEnd := now + busy, doneAt := now + busy + hand })
  | _, _ => (s, c)

/-- The scales of a drain, or what their check names (R368). -/
def Cmd.scales (c : Cmd) (d : DrainF) (rows cols : Nat) : Except (Nat × List Nat) Scales :=
  let g := gselCols d.gsel
  let row := if d.rowsc then c.tile? c.op.ta else none
  let grp := if d.gsel = .none then none else c.tile? c.op.tb
  match row.bind (fun x => scaleReason c.op.ta x rows 1), grp.bind (fun x => scaleReason c.op.tb x 1 ((cols + g - 1) / g)) with
  | some e, _ => .error e
  | none, some e => .error e
  | none, none => .ok ⟨row, grp, g⟩

/-- A drain's conversion (R216, R368): its bytes, flags, whether its output is marked saturated (R215), and the accumulator it
leaves. -/
def State.drained (s : State) (c : Cmd) (d : DrainF) (rows cols : Nat) (sc : Scales) : State × List Byte × Flags × Bool :=
  let sel := accSel c.op.instr
  let acc := s.accum c.cluster sel
  let (bs, fl) := drainRun c.op.fmt c.op.e.rm c.op.e.sat c.op.srd acc (accCols sel) rows cols sc
  let s := if d.clr then s.setAccum c.cluster sel Accum.zero else s
  (s, bs, fl, acc.sat || fl.sat)

/-- The reason that a drain's region meets: its shape, or the accumulator's bounds (R368). -/
def regionReason (f : TFmt) (sel : Nat) (w : Word) : Option Nat :=
  (shapeReason f w).or (if accRows sel < shapeRows w || accCols sel < shapeCols w then some 7 else none)

/-- `drain` (R370). -/
def State.startDrain (s : State) (t : Task) (p : Placement) (c : Cmd) (d : DrainF) : State × Cmd :=
  let k := c.op.drainK
  let slot := c.op.tc + k
  let w := c.op.left
  if d.steered && d.nout.toNat ≤ k then (s, { c with fault := some (.engine, 7, slot) })
  else match regionReason c.op.fmt (accSel c.op.instr) w with
    | some r => s.engFail c r [slot]
    | none =>
      match c.scales d (shapeRows w) (shapeCols w) with
      | .error (r, slots) => s.engFail c r slots
      | .ok sc =>
        match s.beginFill t p c slot c.op.fmt (shapeRows w) (shapeCols w) with
        | (s, c) =>
          if c.fault.isSome then (s, c)
          else
            let (s, bs, fl, sat) := s.drained c d (shapeRows w) (shapeCols w) sc
            let fin := s.clock.cycle + 4 + shapeRows w
            (s.putTileData c slot bs sat,
              { c with flags := fl, busyEnd := fin, doneAt := fin, steer := if d.steered then some k else none })

/-- `drain.m` (R372). -/
def State.startDrainM (s : State) (c : Cmd) (d : DrainF) : State × Cmd :=
  let w := c.op.right
  match (regionReason c.op.fmt (accSel c.op.instr) w).or (pitchReason c.op.fmt c.op.left.toNat (shapePitch w)) with
  | some r => (s, { c with fault := some (.engine, r, c.op.left.toNat) })
  | none =>
    match c.scales d (shapeRows w) (shapeCols w) with
    | .error (r, slots) => s.engFail c r slots
    | .ok sc =>
      let (s, bs, fl, _) := s.drained c d (shapeRows w) (shapeCols w) sc
      (s, { c with flags := fl, desc := bs, total := bs.length, doneAt := s.clock.cycle + 4 + shapeRows w })

/-- `copy` (R373, R374); its descriptor was read, and its place checked, at acceptance. -/
def State.startCopy (s : State) (c : Cmd) : State × Cmd :=
  let a := c.op.left.toNat
  let f := field c.desc
  if f 16 4 = 0 || 2 ^ 24 < f 16 4 || f 20 4 = 0 || 65536 < f 20 4 || f 24 4 = 0 || 65536 < f 24 4 || f 28 4 ≠ 0
      || 2 ^ 32 < f 16 4 * f 20 4 * f 24 4 then (s, { c with fault := some (.engine, 8, a) })
  else
    let n := f 16 4 * f 20 4 * f 24 4
    (s, { c with total := n, result := BitVec.ofNat 64 n })

/-- `gath` (R375). -/
def State.startGath (s : State) (t : Task) (p : Placement) (c : Cmd) : State × Cmd :=
  let w := c.op.right
  let f := c.op.fmt
  match c.tile? c.op.tb with
  | none => (s, c)
  | some x =>
    if x.fmt ≠ .s32 then s.engFail c 6 [c.op.tb]
    else match shapeReason f w with
      | some r => s.engFail c r [c.op.ta]
      | none =>
        if x.rows * x.cols < shapeRows w then s.engFail c 7 [c.op.tb]
        else if 1 < f.esize && (c.op.left.toNat % f.esize ≠ 0 || shapePitch w % f.esize ≠ 0) then
          (s, { c with fault := some (.engine, 8, c.op.left.toNat) })
        else
          s.beginFill t p { c with total := shapeRows w * gathRow f (shapeCols w) } c.op.ta f (shapeRows w) (shapeCols w)

/-- The operand address that lies in a line with a property, for the engine's own checks of a near-memory command (R160). -/
def State.nmcBad (s : State) (c : Cmd) (test : Nat → Bool) : Option Nat :=
  ((nmcRanges c.op).zip (s.nmcPas c)).findSome? (fun r =>
    ((linesOf r.2 (4 * c.op.count)).find? test).map (fun l => r.1.1 + (max r.2 (128 * l) - r.2)))

/-- The failure of a near-memory command as it is performed, in the order of R222 (R160): the checks made at issue, made again on what its operands
translate to now, and those of spent and counted lines. -/
def State.nmcStartFault (s : State) (c : Cmd) : Option CmdFault :=
  let again := (s.task? c.op.task).bind (fun t => s.nmcFault t c.op)
  let lease := match again with
    | some (.lease, _, _) => again
    | _ => none
  (lease.or ((s.nmcBad c s.mem.isSpent).map (fun a => (.overread, 0, a)))).or
    (again.or ((s.nmcBad c s.mem.counted).map (fun a => (.engine, 3, a))))

/-- `nmc` (R158, R160, R376): every operand line is taken down to HBM, from the host too where that holds it (R19), and marked busy. -/
def State.startNmc (s : State) (c : Cmd) : State × Cmd :=
  match s.nmcStartFault c with
  | some f => (s, { c with fault := some f })
  | none =>
    let pas := s.nmcPas c
    let lines := s.nmcLines c
    let m := lines.foldl (fun (m : Mem) l => ((m.backInvalidate l).evictL2 l).mscFlush l) s.mem
    let s := { s with mem := m, eng := { s.eng with busyLines := lines.foldl nsAdd s.eng.busyLines } }
    (s, { c with op := { c.op with pa := pas.headD 0, ea := pas.getD 1 0 }, total := c.op.count })

/-- A command as its unit begins to perform it (R356). -/
def State.performCmd (s : State) (t : Task) (p : Placement) (c : Cmd) : State × Cmd :=
  match c.op.instr with
  | .tLd _ => s.startTld t p c
  | .tSt _ => s.startTst c
  | .tRel _ => s.startTrel c
  | .tZero _ => s.startTzero t p c
  | .tStat _ => (s, { c with result := tileStatus (s.slotTile c c.op.ta) })
  | .tTr _ => s.startTtr t p c
  | .mmTern _ _ _ | .mmMx4 _ _ _ | .mmD _ _ => s.startMm c
  | .drain d _ => s.startDrain t p c d
  | .drainM d _ => s.startDrainM c d
  | .copy _ => s.startCopy c
  | .gath _ => s.startGath t p c
  | .rwr _ | .rrd _ => s.startRemote t c
  | i => if isNmc i then s.startNmc c else s.startColl t c

/-- A command that fails as it starts fails with what comes first in the order of R222 of that and of what its memory meets (R356). -/
def State.firstFault (s : State) (t : Task) (c : Cmd) : Option CmdFault :=
  c.fault.map (fun f => match s.rowFault t c with
    | some g => if g.1.rank < f.1.rank then g else f
    | none => f)

/-- A fetch that fails as it starts leaves an uncounted tile's slot EMPTY (R360, R375); a tile whose own state was at fault stays (R148). -/
def State.emptyFailed (s : State) (c : Cmd) : State :=
  match c.op.instr, s.slotTile c c.op.ta with
  | .tLd _, some x | .gath _, some x =>
    if c.fault.isSome && x.st = tReady && x.count = 0 then s.dropTile c.cluster c.op.task c.op.pl c.op.ta else s
  | _, _ => s

/-- An accepted command started: its tiles are read, and it is performed, or fails. -/
def State.startCmd (s : State) (t : Task) (p : Placement) (c : Cmd) : State × Cmd :=
  let (s, c) := s.readTiles c
  let (s, c) := if c.fault.isSome then (s, c) else s.performCmd t p c
  let c := { c with fault := s.firstFault t c }
  (s.emptyFailed c, c)

/-- A command marked as running from now on. -/
def Cmd.begun (c : Cmd) (now : Nat) : Cmd := { c with running := true, busyEnd := now, doneAt := now }

/-- `ENGINE_COMMAND_START` (R355): the accepted command with number `subject` is started. -/
def execEngineCommandStart (s : State) : Out :=
  match s.startable s.subject, s.orphan s.subject with
  | some (t, p, c), _ =>
    let (s, c) := s.startCmd t p (c.begun s.clock.cycle)
    .next (s.putCmd c)
  | none, some c =>
    let (s, c) := s.startNmc (c.begun s.clock.cycle)
    .next (s.putCmd c)
  | none, none => .refused (.notEnabled "ENGINE_COMMAND_START")

/-! ### Completion (R357) -/

/-- Whether a command waits for something outside: a peer's reply, with nothing in flight for what an `rrd` then writes (R191), or the members of a
collective, one of which may refuse it (R380). -/
def State.awaitsPeers (s : State) (c : Cmd) : Bool :=
  match c.op.instr, s.task? c.op.task with
  | .rwr _, _ => s.eng.remote.any (fun r => r.op.seq = c.op.seq) && !s.remoteDone c
  | .rrd _, t => s.eng.remote.any (fun r => r.op.seq = c.op.seq) &&
      (!s.remoteDone c || t.any (fun t => !s.vaQuiet t.space c.op.left.toNat c.asked))
  | _, t => match s.collOf c.op.seq, t with
    | some g, some t => (s.peerFault c).isNone && (!s.collWhole g || g.heldFor.isSome || !s.vaQuiet t.space g.dst g.dstLen)
    | _, _ => false

/-- A running command that has nothing left to do. -/
def State.completable (s : State) (seq : Nat) : Option Cmd :=
  match s.cmd? seq with
  | none => none
  | some c =>
    if c.running && ((s.placement? c.op.task c.op.pl).isSome || isNmc c.op.instr) && (c.fault.isSome || (c.total ≤ c.progress && c.busyEnd ≤ s.clock.cycle && c.doneAt ≤ s.clock.cycle && !s.awaitsPeers c))
    then some c else none

/-- What a command leaves of its tile: a fill's goes READY with its count, or is freed where the fill failed; a `t.st`'s returns to
READY (R148, R360, R361). Waiting reads are then applied in acceptance order. -/
def State.settleTile (s : State) (c : Cmd) : State :=
  let count := match c.op.instr with
    | .tLd _ => c.op.count
    | _ => 0
  let s := match (tileFills c.op), (tileFills c.op).bind (s.slotTile c) with
    | some slot, some x =>
      if x.st ≠ tFilling then s
      else if c.fault.isSome then s.dropTile c.cluster c.op.task c.op.pl slot
      else s.setTile c.cluster c.op.task c.op.pl slot { x with st := tReady, count := count }
    | _, _ => s
  let s := match c.op.instr, s.slotTile c c.op.ta with
    | .tSt _, some x => if x.st = tDraining then s.setTile c.cluster c.op.task c.op.pl c.op.ta { x with st := tReady } else s
    | _, _ => s
  s.consumeAll

/-- Busy lines given back (R158): those that the command took as it started. -/
def State.unbusy (s : State) (c : Cmd) : State :=
  if isNmc c.op.instr && c.total ≠ 0 then
    let ls := ([c.op.pa, c.op.ea].take (nmcRanges c.op).length).flatMap (fun pa => linesOf pa (4 * c.op.count))
    { s with eng := { s.eng with busyLines := ls.foldl nsDel s.eng.busyLines } }
  else s

/-- A fault of a command found as its unit performs it (R133, second row). -/
def State.failCmd (s : State) (op : WobOp) (f : CmdFault) : State := s.faultAfter op f.1 f.2.1 f.2.2

/-- The destination words of a command's completion token: all, or for a steered drain the one that its output wakes (R371). -/
def Cmd.dests (c : Cmd) : List Dest :=
  match c.steer with
  | some k => (c.op.instr.dests.drop k).take 1
  | none => c.op.instr.dests

/-- The completion token (R357), which takes the command's flags with it: they are set as it is delivered (R216, R218), or as it is sent where it goes
to no port. -/
def State.finishCmd (s : State) (c : Cmd) : State :=
  let s := if c.dests.all (fun d => d.port = .sink) then s.setFlags c.op.task c.op.pl c.flags else s
  let s := match s.placement? c.op.task c.op.pl with
    | some p => s.sendAll (p.homePf c.op.tag) c.op.task c.op.pl c.op.tag c.op.wave c.result c.dests c.flags
    | none => s
  s.countOp c.op 0x0A

/-- The last of a command's work, done as it completes: a peer's reply taken, or a collective's destination written. -/
def State.lastWork (s : State) (c : Cmd) : State × Cmd :=
  match s.task? c.op.task, c.fault with
  | some t, none =>
    match s.collOf c.op.seq with
    | some g =>
      if (s.peerFault c).isSome then
        ({ s.takeReply c.op.seq with eng := { s.eng with colls := s.eng.colls.filter (fun x => x.op.seq ≠ c.op.seq) } },
          { c with fault := (s.peerFault c).map (fun f => (f.1, f.2.1, c.op.left.toNat)) })
      else s.finishColl t c g
    | none => if s.eng.remote.any (fun r => r.op.seq = c.op.seq) then s.finishRemote t c else (s, c)
  | _, _ => ({ s with eng := { s.eng with colls := s.eng.colls.filter (fun g => g.op.seq ≠ c.op.seq) } }, c)

/-- `ENGINE_COMMAND_COMPLETE` (R357): the running command with number `subject` completes: its fault is taken, or its token is sent. -/
def execEngineCommandComplete (s : State) : Out :=
  match s.completable s.subject with
  | none => .refused (.notEnabled "ENGINE_COMMAND_COMPLETE")
  | some c =>
    s.inCycle "ENGINE_COMMAND_COMPLETE" <|
      let (s, c) := s.lastWork c
      let s := ((s.dropCmd c.op.seq).settleTile c).unbusy c
      match c.fault with
      | some f => .next (s.failCmd c.op f)
      | none => .next (s.finishCmd c)

end Sys2Proof.Machine
end

