-- ==== Sys2Proof/Machine/Threads.lean ====
section
/-!
DEFINITION. Machine/Threads.lean: tokens as they reach an element (R110, R115, R116, R138), the tag unit (R74, R120, R282), the end of
a thread (R121, R283), with the comparison of a paired run (R247).
-/
namespace Sys2Proof.Machine

/-! ### `TOKEN_ARRIVAL` -/

/-- The token `n` of the network, where it may arrive: its way is over, and it is the first of its cluster's for its element (R110). -/
def State.arrivingTok (s : State) (n : Nat) : Option NetTok :=
  match s.fab.net[n]? with
  | none => none
  | some t =>
    if t.earliest ≤ s.clock.cycle && !(s.fab.net.take n).any (fun x => x.src = t.src && x.pf = t.pf && x.pelem = t.pelem) then some t
    else none

/-- R138: whether a token is accepted at its destination fret. -/
def Fret.accepts (f : Fret) (gen : Bool) : Bool := gen = f.gen || (f.window.map Window.opened).getD false

/-- A token taken out of the network. -/
def State.dropTok (s : State) (n : Nat) : State := { s with fab := { s.fab with net := dropAt s.fab.net n } }

def Entry.ofTok (t : NetTok) (arrival seq : Nat) (spilled : Bool) : Entry :=
  ⟨t.slot, t.port, t.tag, t.wave, t.gen, t.data, arrival, seq, spilled⟩

/-- Whether two entries belong to one instance. -/
def Entry.mate (a b : Entry) : Bool := a.slot = b.slot && a.tag = b.tag && a.wave = b.wave && a.gen = b.gen

/-- Whether an entry's instance holds every operand and its tag is held: ready now or in the next cycle. -/
def Fret.whole (f : Fret) (p : Placement) (pf velem : Nat) (es : List Entry) (e : Entry) : Bool :=
  match f.slotInstr velem e.slot with
  | .ok i => (readySince p pf es (portsOf i) e).isSome
  | .error _ => false

/-- Spilled entries of a fret, over its elements. -/
def Fret.spilled (f : Fret) : Nat := (f.elems.map (fun r => (r.2.entries.filter Entry.spilled).length)).foldl (· + ·) 0

/-- What becomes of an arriving token (R115). -/
inductive Arrival
  /-- It takes a free entry. -/
  | enters
  /-- It enters, and the entry with this number is spilled. -/
  | spills (seq : Nat)
  /-- It is spilled itself. -/
  | spilled
  /-- A spill finds no room in the matching partition (R116); the thread charged. -/
  | overflow (e : Entry)
  /-- It waits at the element's input. -/
  | waits
  deriving DecidableEq, Repr

/-- The resident entry that R115 spills: of an instance that is not ready, and is not the one completed, the farthest in waves, and
of those the last to arrive. -/
def spillVictim (f : Fret) (p : Placement) (pf velem : Nat) (es : List Entry) (x : Entry) (completes : Bool) : Option Entry :=
  let far := fun (e : Entry) => (2 ^ 24 - waveDist e.wave (p.oldest e.tag)) * 2 ^ 64 + (2 ^ 64 - e.seq)
  minBy far (es.filter (fun e => !e.spilled && !(completes && e.mate x) && !f.whole p pf velem es e))

/-- R115, R116: what becomes of a token at a full or open store; `room` is the number of entries of the matching partition. -/
def Fret.arrival (f : Fret) (p : Placement) (pf velem pelem room : Nat) (x : Entry) : Arrival :=
  let es := (f.elem pelem).entries
  if (es.filter (fun e => !e.spilled)).length < 64 then .enters
  else
    let completes := f.whole p pf velem (es ++ [x]) x
    match spillVictim f p pf velem es x completes with
    | some v => if f.spilled < room then .spills v.seq else .overflow v
    | none => if completes then .waits else if f.spilled < room then .spilled else .overflow x

/-- A fault of an element that is no firing's (R116, R226). -/
def State.storeFault (s : State) (t : NetTok) (e : Entry) : FaultRec :=
  { code := .matchovf, reason := 0, addr := 0, kind := .notTied, wave := e.wave, tag := e.tag, pl := t.pl,
    work := (((s.placement? t.task t.pl).bind (fun p => p.thread? e.tag)).map Thread.work).getD 0,
    fret := t.fret, velem := t.velem, slot := e.slot, pf := t.pf, pelem := t.pelem, own := 0, time := 0, waiting := [],
    slotBytes := (s.slotInfo t.pf t.velem e.slot).1, cfgid := ((s.task? t.task).map Task.cfgid).getD 0,
    swid := (s.slotInfo t.pf t.velem e.slot).2 }

/-- Whether a thread has stopped, or has a fault of the matching store waiting: it is charged once. -/
def Placement.charged (p : Placement) (tag : Nat) : Bool :=
  match p.thread? tag with
  | none => false
  | some t => t.stopped || t.faults.any (fun f => f.code = .matchovf)

/-- Spill probes and spills are counted (R239). -/
def State.countSpill (s : State) (t : NetTok) (code n : Nat) : State := s.countEvent (clusterOf t.pf) t.task code n

/-- Cycles that a token takes on top of its way (R115): 8 where it first probes the partition, 4 for the spill write that makes it room or takes
it (log entry 14). -/
def Arrival.cycles (probe : Bool) (a : Arrival) : Nat :=
  (if probe then 8 else 0) + match a with
    | .spills _ | .spilled => 4
    | _ => 0

/-- A token placed in its element's store. -/
def State.storeTok (s : State) (t : NetTok) (probe : Bool) (a : Arrival) : State :=
  let x := Entry.ofTok t (s.clock.cycle - 1 + a.cycles probe) s.seqCtr
  let add := fun (s : State) (spilled : Bool) => s.bump.modElem t.pf t.pelem (fun e => { e with entries := e.entries ++ [x spilled] })
  match a with
  | .spills seq =>
    let mark := fun (e : Entry) => if e.seq = seq then { e with spilled := true } else e
    (add (s.modElem t.pf t.pelem (fun e => { e with entries := e.entries.map mark })) false).countSpill t 0x04 1
  | .spilled => (add s true).countSpill t 0x04 1
  | _ => add s false

/-- Entries of a fret's matching partition (R115, R143). -/
def State.partition (s : State) (task : Nat) : Nat := 1024 * ((s.task? task).map Task.munits).getD 0

/-- `TOKEN_ARRIVAL` (R110, R115, R138): the token `subject` reaches its element. -/
def execTokenArrival (s : State) : Out :=
  s.inCycle "TOKEN_ARRIVAL" <| match s.arrivingTok s.subject with
  | none => .refused (.notEnabled "TOKEN_ARRIVAL")
  | some t =>
    let f := s.fret t.pf
    if !f.accepts t.gen then .next ((s.dropTok s.subject).setFlags t.task t.pl t.flags)
    else
      match s.placement? t.task t.pl with
      | none => .next (s.dropTok s.subject)
      | some p =>
        let probe := (f.elem t.pelem).entries.any (fun e => e.spilled && e.slot = t.slot)
        let x := Entry.ofTok t (s.clock.cycle - 1) s.seqCtr false
        match f.arrival p t.pf t.velem t.pelem (s.partition t.task) x with
        | .waits => .next s
        | .overflow e =>
          if p.charged e.tag then .next s else .next (s.findFault (s.storeFault t e) t.task)
        | a =>
          let s := (if probe then s.countSpill t 0x05 1 else s).setFlags t.task t.pl t.flags
          .next ((s.dropTok s.subject).storeTok t probe a)

/-! ### The tag unit (R120, R282) -/

/-- The tag at the head of the free list, and the placement without it. -/
def Placement.takeTag (p : Placement) : Option (Nat × Placement) :=
  if p.fresh < 16384 then some (p.fresh, { p with fresh := p.fresh + 1 })
  else match p.freeTags with
    | t :: ts => some (t, { p with freeTags := ts })
    | [] => none

/-- Every tag is in the free list. -/
def Placement.poolFull (p : Placement) : Bool := p.threads.isEmpty && p.returned.isEmpty

/-- A new thread (R120): wave 0 is its oldest uncommitted wave. -/
def newThread (work ordinal : Word) (now serial : Nat) : Thread := ⟨work, 0, ordinal, now, [], false, serial, 0⟩

/-- A thread begun with a tag. -/
def State.beginThread (s : State) (p : Placement) (tag : Nat) (work ordinal : Word) : State :=
  s.bump.setPlacement { p with threads := tput p.threads tag (newThread work ordinal s.clock.cycle s.seqCtr) }

/-- The order of a cycle's requests: cluster, physical fret, physical element, slot (R282). -/
def SpawnReq.key (r : SpawnReq) : Nat := ((r.cluster * 8 + r.pf) * 8 + r.pelem) * 32 + r.slot

/-- The ordinal of a spawned thread (R247). -/
def SpawnReq.childOrdinal (r : SpawnReq) : Word :=
  let o := hashF (r.ordinal ^^^ hashF (r.wave + 2 ^ 24 * r.fret + 2 ^ 36 * r.velem + 2 ^ 39 * r.slot)).toNat
  if o = 0 then 1 else o

/-- Whether the tokens of a request are held at the tag unit: its firing's wave is being stepped, or was (R230, R284). During SAVING they are
delivered. -/
def State.spawnHeld (s : State) (p : Placement) (r : SpawnReq) : Bool :=
  !(s.task? p.task).any (fun t => t.st = .saving) && s.obs.dbg.attached = some p.task && bits (s.reg 0 0x308) 2 2 = 0
    && (s.obs.dbg.steppedWaves.any (fun w => w = (p.idx, r.tag, r.wave)) || s.obs.dbg.stepping = some (p.idx, r.tag, r.wave))

/-- Tokens sent by the tag unit, or held there; the tag unit lies where config-local fret 0 does (log entry 86). -/
def State.tagSend (s : State) (p : Placement) (r : SpawnReq) (tag wave : Nat) (ds : List Dest) : State :=
  let pf := p.physFret 0
  if s.spawnHeld p r then
    let toks := (ds.filter (fun d => d.port ≠ .sink)).map (fun d =>
      p.netTok d tag wave r.data (clusterOf pf) s.clock.cycle (fretLat pf (p.physFret d.fret.toNat)))
    { s with obs := { s.obs with dbg := { s.obs.dbg with heldToks := s.obs.dbg.heldToks ++ toks } } }
  else s.sendAll pf p.task p.idx tag wave r.data ds

/-- One request granted or refused (R282). -/
def State.serveSpawn (task pl : Nat) (s : State) (r : SpawnReq) : State :=
  match s.placement? task pl with
  | none => s
  | some p =>
    match p.takeTag with
    | none => (s.setFlags task pl Flags.SPAWNREF).tagSend p r r.tag r.wave (r.dests.filter (fun d => d.side))
    | some (t, p') =>
      (s.beginThread p' t r.work r.childOrdinal).tagSend p' r t 0 (r.dests.filter (fun d => !d.side))

/-- `TAG_UNIT_SPAWN` (R282): the requests that have reached the placement's tag unit are granted or refused, in order. -/
def execTagUnitSpawn (task pl : Nat) (s : State) : Out :=
  s.inCycle "TAG_UNIT_SPAWN" <| match s.placement? task pl with
  | none => .refused (.notEnabled "TAG_UNIT_SPAWN")
  | some p =>
    let due := p.spawns.filter (fun r => r.earliest ≤ s.clock.cycle)
    if due.isEmpty then .refused (.notEnabled "TAG_UNIT_SPAWN")
    else
      let s := s.setPlacement { p with spawns := p.spawns.filter (fun r => !(r.earliest ≤ s.clock.cycle)) }
      .next ((sortBy SpawnReq.key due).foldl (State.serveSpawn task pl) s)

/-! ### Work items (R74) -/

/-- A destination word of a launch header. -/
def destOfWord (w : Nat) : Dest :=
  ⟨DPort.ofCode (w / 2 ^ 30 % 4), BitVec.ofNat 12 (w / 2 ^ 18), BitVec.ofNat 3 (w / 2 ^ 15), BitVec.ofNat 5 (w / 2 ^ 10), (w / 2 ^ 9) % 2 = 1⟩

/-- Whether a placement's frets are all loaded. -/
def State.placed (s : State) (p : Placement) : Bool := p.map.all (fun r => decide ((s.fret r.2).st ≠ .load))

/-- Entry points used, with their arguments (R72). -/
def Task.entries (t : Task) : List (Dest × Word) :=
  (List.range (t.fld 39 1)).map (fun k => (destOfWord (t.fld (80 + 4 * k) 4), BitVec.ofNat 64 (t.fld (96 + 8 * k) 8)))

/-- Whether an entry element accepts a token: it would not keep it waiting, nor overflow. -/
def State.entryAccepts (s : State) (t : Task) (p : Placement) (d : Dest) : Bool :=
  let pf := p.physFret d.fret.toNat
  let pe := p.physElem d.fret.toNat d.velem.toNat
  let x : Entry := ⟨d.slot.toNat, d.port.code, 0, 0, (s.fret pf).gen, 0, 0, 0, false⟩
  match (s.fret pf).arrival p pf d.velem.toNat pe (s.partition t.num) x with
  | .waits | .overflow _ => false
  | _ => true

/-- Whether a placement asks for the next item: its frets are loaded, too. -/
def State.asks (s : State) (t : Task) (p : Placement) : Bool :=
  !p.frozen && s.placed p && (p.fresh < 16384 || !p.freeTags.isEmpty) && !p.spawns.any (fun r => r.earliest ≤ s.clock.cycle)
    && t.entries.all (fun e => s.entryAccepts t p e.1)

/-- Whether items of a task are issued: it is RUNNING, its end is not decided, and some are left. -/
def Task.issues (t : Task) : Bool := t.st = .running && !t.ending && !t.freezing && t.nextItem < t.workCnt

/-- The placement whose turn it is, of those that ask: round-robin after the one last served. -/
def State.nextAsker (s : State) (t : Task) : Option Nat :=
  let asks := ((s.placementsOf t.num).filter (s.asks t)).map Placement.idx
  ((asks.filter (fun i => t.lastPl ≤ i)).head?).or asks.head?

/-- `WORK_ITEM_ISSUE` (R74): the next item is issued to a placement. -/
def execWorkItemIssue (task pl : Nat) (s : State) : Out :=
  s.inCycle "WORK_ITEM_ISSUE" <| match s.task? task, s.placement? task pl with
  | some t, some p =>
    match p.takeTag with
    | none => .refused (.notEnabled "WORK_ITEM_ISSUE")
    | some (tag, p') =>
      if t.issues && s.nextAsker t = some pl then
        let s := s.beginThread p' tag (BitVec.ofNat 64 t.nextItem) 0
        let s := s.setTask { t with nextItem := t.nextItem + 1, lastPl := pl + 1 }
        .next (t.entries.foldl (fun s e => s.sendFrom (p.physFret 0) task pl tag 0 e.2 e.1) s)
      else .refused (.notEnabled "WORK_ITEM_ISSUE")
  | _, _ => .refused (.notEnabled "WORK_ITEM_ISSUE")

/-! ### The end of a thread (R121, R283) -/

/-- A key's hash added to a copy's list (R247): threads of equal keys add theirs. -/
def addKey (ks : List (Word × Word × Word)) (w o h : Word) : List (Word × Word × Word) :=
  if ks.any (fun k => k.1 = w && k.2.1 = o) then
    ks.map (fun k => if k.1 = w && k.2.1 = o then (w, o, k.2.2 + h) else k)
  else ks ++ [(w, o, h)]


/-- Keys whose hash the comparator keeps at once (R247): those that have ended in one copy alone, and those of threads that run and have written. -/
def State.keysKept (s : State) (g : Pair) : Nat :=
  let has := fun (ks : List (Word × Word × Word)) (k : Word × Word × Word) => ks.any (fun x => x.1 = k.1 && x.2.1 = k.2.1)
  let ended := g.keysA.filter (fun k => !has g.keysB k) ++ g.keysB.filter (fun k => !has g.keysA k)
  let runs := ((s.placementsOf g.taskA ++ s.placementsOf g.taskB).flatMap (fun p => p.threads.map Prod.snd)).filter (fun t => t.hash ≠ 0)
  (ended.map (fun k => (k.1, k.2.1)) ++ runs.map (fun t => (t.work, t.ordinal))).eraseDups.length

/-- More than 65,536 keys at once end a comparison (R247, R248). -/
def State.limitKeys (s : State) : State :=
  let put := fun (g : Pair) => { g with overflow := g.overflow || decide (65536 < s.keysKept g) }
  if s.obs.pairs.isEmpty then s else { s with obs := { s.obs with pairs := s.obs.pairs.map put } }

/-- A thread of a paired run ended: its key takes its place in its copy's list, with the hash of its writes, where they are all performed. -/
def Pair.note (g : Pair) (task : Nat) (t : Thread) (whole : Bool) : Pair :=
  if g.overflow then g
  else
    let h := if whole then t.hash else 0
    let g := if task = g.taskA then { g with keysA := addKey g.keysA t.work t.ordinal h }
      else { g with keysB := addKey g.keysB t.work t.ordinal h }
    { g with late := if whole then g.late else g.late ++ [(task, t)] }

/-- A thread's end noted by the comparator; `whole` tells that its writes are all performed. -/
def State.noteEnd (s : State) (task : Nat) (t : Thread) (whole : Bool) : State :=
  let put := fun (g : Pair) => if task = g.taskA || task = g.taskB then g.note task t whole else g
  ({ s with obs := { s.obs with pairs := s.obs.pairs.map put } } : State).limitKeys

/-- The first notice of a tag that has reached its home WOB. -/
def State.noticeFor (s : State) (task pl tag : Nat) (p : Placement) : Option Nat :=
  findIdx1 (fun (n : Notice) => n.task = task && n.pl = pl && n.tag = tag && n.earliest ≤ s.clock.cycle
    && ((p.thread? tag).isNone || waveCommitted n.wave (p.oldest tag))) s.fab.notices

/-- A tag on its way back to the tag unit; a work item's thread ends its item (R76). -/
def State.returnTag (s : State) (p : Placement) (tag : Nat) (t : Thread) : State :=
  let at_ := s.clock.cycle + fretLat (p.homePf tag) (p.physFret 0)
  let s := s.setPlacement { p with threads := tdel p.threads tag, returned := p.returned ++ [(tag, at_)] }
  let s := s.modTask p.task (fun k => if t.ordinal = 0 then { k with ended := k.ended + 1 } else k)
  s.noteEnd p.task t (p.queueOf t.serial).isEmpty

/-- `ENDT_TAG_RETURN` (R121, R283, R102): every wave of the thread up to the notice's has committed, and its tag returns; a notice for a
free tag has no effect. -/
def execEndtTagReturn (task pl : Nat) (tag : Tag) (s : State) : Out :=
  s.inCycle "ENDT_TAG_RETURN" <| match s.placement? task pl with
  | none => .refused (.notEnabled "ENDT_TAG_RETURN")
  | some p =>
    match s.noticeFor task pl tag.toNat p with
    | none => .refused (.notEnabled "ENDT_TAG_RETURN")
    | some n =>
      let s' := { s with fab := { s.fab with notices := dropAt s.fab.notices n } }
      match p.thread? tag.toNat with
      | none => .next s'
      | some t => .next (s'.returnTag p tag.toNat t)

end Sys2Proof.Machine
end

