-- ==== Sys2Proof/Machine/Farrier.lean ====
section
/-!
DEFINITION. Machine/Farrier.lean: what the Farrier does over and over: freezing a task, ending an interval (R237, R241), withdrawing
engine grants (R136), releasing placements and frets (R85, R88), removing counted lines (R100, R166), and telling what of a task is
still under way (R64, R223).
-/
namespace Sys2Proof.Machine

/-! ### Freezing (R97, R100, R223) -/

/-- Every placement of a task frozen. -/
def State.freezeTask (s : State) (task : Nat) : State :=
  { s with fab := { s.fab with placements := s.fab.placements.map (Prod.map id (Placement.freezeFor task)) } }

def Placement.thawFor (task : Nat) (p : Placement) : Placement := if p.task = task then { p with frozen := false } else p

/-- Every placement of a task fires again. -/
def State.thawTask (s : State) (task : Nat) : State :=
  { s with fab := { s.fab with placements := s.fab.placements.map (Prod.map id (Placement.thawFor task)) } }

/-- A task moved to a state of R70. -/
def State.toState (s : State) (task : Nat) (st : TState) : State :=
  s.modTask task (fun t => { t with st := st, stateSince := s.clock.ns })

/-! ### Stops that no wave's commit brings about (R229, R232) -/

/-- A stop told to the debugger: `HELD`, `STOP`, `SWID` and `FCODE` of `HF_DBGSTAT`, and `VEC` raised (R227, R229). -/
def State.dbgStopped (s : State) (task stop swid code : Nat) : State :=
  if s.obs.dbg.attached = some task then
    let keep := s.reg 0 0x318 &&& 0x18
    let s := s.setReg 0 0x318 (keep ||| BitVec.ofNat 64 (4 + 2 ^ 16 * stop + 2 ^ 24 * code + 2 ^ 32 * swid))
    let s := s.endStep
    let vec := bits (s.reg 0 0x308) 39 32
    if vec = 0 then s else s.raiseVec 0 vec
  else s

/-- A stop for HALT or a gang hold. No wave is at fault: which one `SWID` and the STOP record name is open (log entry 27). -/
def State.stopAt (s : State) (task cause : Nat) : State :=
  let w := Config.freeWord s.freeCtr
  let pf := ((s.placement? task 0).map (fun p => p.physFret 0)).getD 0
  s.drawFree.debugStop task cause (bits w 15 0) (bits w 29 16) (bits w 53 30) 0 pf

/-- A halt that waited until its task fired (R102). -/
def State.lateHalt (s : State) (task : Nat) : State :=
  if s.obs.dbg.haltPending && s.debuggable task then
    let s := { s with obs := { s.obs with dbg := { s.obs.dbg with haltPending := false } } }
    s.stopAt task 1
  else s

/-- Whether a gang stands still in a gang hold. -/
def State.gangHeld (s : State) (g : Gang) : Bool := nsHas s.obs.gangFrozen g.gid.toNat

/-- A gang task frozen at a hold's instant, as for HALT (R229, R232). -/
def State.gangFreezeTask (s : State) (t : Task) : State :=
  let s := s.holdColls t.num
  if t.st = .running && !t.ending && !t.freezing then
    let w := Config.freeWord s.freeCtr
    let pf := ((s.placement? t.num 0).map (fun p => p.physFret 0)).getD 0
    let s := ((s.drawFree.freezeTask t.num).toState t.num .held).traceStop t.num (bits w 15 0) (bits w 29 16) (bits w 53 30) 0 0 0 0 pf 6 0
    s.dbgStopped t.num 6 (bits w 15 0) 0
  else s

/-- A task that begins, or comes back, to run: a halt that waited for it comes about (R102), and a gang hold in force freezes it (R232). -/
def State.startRunning (s : State) (task : Nat) : State :=
  let s := (s.toState task .running).lateHalt task
  match s.task? task with
  | none => s
  | some t => if t.gang.any s.gangHeld then s.gangFreezeTask t else s

/-! ### Intervals (R237, R241) -/

/-- Counters of a table's rows, in order. -/
def countersOf (t : Tab Nat) (n : Nat) : List Nat := (List.range n).map (fun k => tgetD t k 0)

/-- The 224 bytes of an element's PROFILE record (R237). -/
def Classes.bytes (c : Classes) : List Byte :=
  ([c.fired, c.cfgload, c.idle] ++ countersOf c.blockOut 6 ++ countersOf c.waitPort 3 ++ countersOf c.waitSlot 32).flatMap (leBytes 4)
    ++ leBytes 48 0

def sumTab (t : Tab Nat) : Nat := (t.map Prod.snd).foldl (· + ·) 0

/-- The five totals of R242: FIRED, WAIT_OPND, BLOCK_OUT, CFGLOAD, IDLE. -/
def Classes.totals (c : Classes) : List Nat := [c.fired, sumTab c.waitSlot, sumTab c.blockOut, c.cfgload, c.idle]

def addLists (a b : List Nat) : List Nat := (List.range (max a.length b.length)).map (fun k => a.getD k 0 + b.getD k 0)

/-- The elements of a placement: config-local fret, virtual element, physical fret and element. -/
def Placement.elemsOf (p : Placement) : List (Nat × Nat × Nat × Nat) :=
  p.map.flatMap (fun r => (List.range 8).map (fun v => (r.1, v, r.2, p.physElem r.1 v)))

/-- A PROFILE record of one element (R234, R237). -/
def State.profileRec (s : State) (p : Placement) (fn : Nat) (e : Nat × Nat × Nat × Nat) : TrRec :=
  let (f, v, pf, pe) := e
  ⟨s.clock.ptpNs, BitVec.ofNat 64 p.since, 0, 0, 0, 2, f, v, 0, p.idx, p.task, fn, pf, (s.elem pf pe).classes.bytes⟩

/-- The clusters of a placement. -/
def Placement.clusterList (p : Placement) : List Nat := p.clusters.map Prod.fst

/-- The counters of a cluster that a measured task holds, added into its pass and cleared (R241). -/
def State.readCounters (s : State) (task cluster : Nat) : State :=
  if tgetD s.obs.measHeld cluster 0 ≠ task || task = 0 then s
  else
    let vs := (List.range 4).map (fun n => (tgetD s.fab.evc (4 * cluster + n) 0).toNat % 2 ^ 48)
    let put := fun (g : Meas) => if g.task = task then { g with sums := addLists g.sums vs } else g
    let clear := (List.range 4).foldl (fun t n => tput t (4 * cluster + n) 0) s.fab.evc
    { s with obs := { s.obs with meas := s.obs.meas.map put }, fab := { s.fab with evc := clear } }

/-- The clusters whose counters are read as a placement's interval ends: its own, and those that its task holds the counters of and has left by a
move meanwhile. -/
def State.countedClusters (s : State) (p : Placement) : List Nat :=
  let held := (s.obs.measHeld.filter (fun r => r.2 = p.task)).map Prod.fst
  p.clusterList ++ held.filter (fun c => !(s.placementsOf p.task).any (fun q => q.clusterList.contains c))

/-- The end of a placement's interval (R237, R241): PROFILE records for a task with `TRC`, the totals of a measured pass, and every
count at 0. -/
def State.endInterval (s : State) (p : Placement) (profile : Bool) : State :=
  match s.task? p.task with
  | none => s
  | some t =>
    let s := if t.trc && profile then p.elemsOf.foldl (fun s e => s.putTrace (s.profileRec p t.fn e)) s else s
    let tot := p.elemsOf.foldl (fun a e => addLists a (s.elem e.2.2.1 e.2.2.2).classes.totals) [0, 0, 0, 0, 0]
    let put := fun (g : Meas) => if g.task = p.task then { g with cyc := addLists g.cyc tot } else g
    let s := { s with obs := { s.obs with meas := s.obs.meas.map put } }
    let s := (s.countedClusters p).foldl (fun s c => s.readCounters p.task c) s
    p.elemsOf.foldl (fun s e => s.modElem e.2.2.1 e.2.2.2 (fun x => { x with classes := Classes.zero })) s

/-- `SEL`p written into a cluster's counters at a pass's placement (R241), where no other measured task holds them; a cluster whose counters are
held is counted once in `MISSING` (R242). -/
def State.selectCounters (s : State) (g : Meas) (cluster : Nat) : State :=
  let held := tgetD s.obs.measHeld cluster 0
  if held ≠ 0 && held ≠ g.task then
    let put := fun (x : Meas) => if x.task = g.task then { x with missing := nsAdd x.missing cluster } else x
    { s with obs := { s.obs with meas := s.obs.meas.map put } }
  else
    let (a, b, c, d) := g.sels.getD (g.pass - 1) (0, 0, 0, 0)
    let sel := fun (code : Nat) => BitVec.ofNat 64 (g.task * 2 ^ 32 + 2 ^ 16 + code)
    let evsel := ([a, b, c, d].zipIdx).foldl (fun t q => tput t (4 * cluster + q.2) (sel q.1)) s.fab.evsel
    let evc := (List.range 4).foldl (fun t n => tput t (4 * cluster + n) 0) s.fab.evc
    { s with
      fab := { s.fab with evsel := evsel, evc := if held = g.task then s.fab.evc else evc }
      obs := { s.obs with measHeld := tput s.obs.measHeld cluster g.task } }

/-- The counters that a measured task holds cleared, as a pass of it starts (R241). -/
def State.clearCounters (s : State) (task : Nat) : State :=
  let cs := (s.obs.measHeld.filter (fun r => r.2 = task)).map Prod.fst
  let keys := cs.flatMap (fun c => (List.range 4).map (· + 4 * c))
  { s with fab := { s.fab with evc := keys.foldl (fun t k => tput t k 0) s.fab.evc } }

/-- The counters of a placement's clusters selected, for a measured task. -/
def State.selectFor (s : State) (p : Placement) : State :=
  match s.obs.meas.find? (fun g => g.task = p.task && !g.refused) with
  | none => s
  | some g => p.clusterList.foldl (fun s c => s.selectCounters g c) s

/-- Every selection of a measured task returned to 0 and its counters cleared (R241). -/
def State.dropSelections (s : State) (task : Nat) : State :=
  let cs := (s.obs.measHeld.filter (fun r => r.2 = task)).map Prod.fst
  let keys := cs.flatMap (fun c => (List.range 4).map (· + 4 * c))
  { s with
    fab := { s.fab with
      evsel := keys.foldl (fun t k => tput t k 0) s.fab.evsel
      evc := keys.foldl (fun t k => tput t k 0) s.fab.evc }
    obs := { s.obs with measHeld := cs.foldl tdel s.obs.measHeld } }

/-! ### Engine grants (R136) -/

/-- The accumulators of a cluster cleared. -/
def State.clearAccums (s : State) (cluster : Nat) : State :=
  { s with eng := { s.eng with accs := (List.range 4).foldl (fun t k => tdel t (4 * cluster + k)) s.eng.accs } }

/-- Every grant of a placement ended. -/
def State.endGrants (s : State) (p : Placement) : State := (p.grants.map Prod.fst).foldl State.clearAccums s

/-! ### Release (R85, R88) -/

/-- A fret released: it enters SCRUB, keeps its slots and cached record, and is promised to a task or to none. -/
def Fret.release (f : Fret) (promised : Option Nat) : Fret := { f with st := .scrub, owner := none, promised := promised }

/-- Frets that are reserved for a task or promised to it. -/
def State.securedFor (s : State) (task : Nat) : Nat :=
  (s.fab.frets.filter (fun r => r.2.st = .reserved task || (r.2.st = .scrub && r.2.promised = some task))).length

/-- The task that a fret freed by this task goes to (R94): the newcomer that an action on it serves, up to its need. -/
def State.heir (s : State) (task : Nat) : Option Nat :=
  match (s.task? task).bind Task.victim with
  | none => none
  | some v =>
    match s.task? v.newcomer with
    | some n => if n.st = .fretwait && !n.ending && s.securedFor n.num < n.need then some n.num else none
    | none => none

/-- One fret of a task released. -/
def State.releaseFret (s : State) (task pf : Nat) : State := s.modFret pf (fun f => f.release (s.heir task))

/-- What is on its way in the fabric for a placement discarded. -/
def State.purgeFabric (s : State) (task pl : Nat) : State :=
  let mine := fun (op : WobOp) => op.task = task && op.pl = pl
  { s with fab := { s.fab with
      net := s.fab.net.filter (fun t => !(t.task = task && t.pl = pl))
      ops := s.fab.ops.filter (fun m => !mine m.op)
      notices := s.fab.notices.filter (fun n => !(n.task = task && n.pl = pl))
      barQ := s.fab.barQ.filter (fun m => !mine m.op) } }

/-- Waits of a placement given up: registered `waitl`s, and `ldc`s that wait at a home. -/
def State.purgeWaits (s : State) (task pl : Nat) : State :=
  let mine := fun (op : WobOp) => op.task = task && op.pl = pl
  { s with mem := { s.mem with
      ldcWait := s.mem.ldcWait.filter (fun r => !mine r.op)
      waits := s.mem.waits.filter (fun w => !mine w.op) } }

/-- Tiles of a placement freed. -/
def State.purgeTiles (s : State) (task pl : Nat) : State :=
  { s with eng := { s.eng with tiles := s.eng.tiles.filter (fun r => r.1 / (512 * 256) ≠ plKey task pl) } }

/-- The frets that a placement holds: those of its map, but for one that a rejection at load has already taken from it (R86). -/
def State.fretsIn (s : State) (p : Placement) : List Nat :=
  (p.map.filter (fun r => decide ((s.fret r.2).owner = some (plKey p.task p.idx, r.1)))).map Prod.snd

/-- Frets that a task's placements hold. -/
def State.fretsOf (s : State) (task : Nat) : List Nat := (s.placementsOf task).flatMap s.fretsIn

/-- A placement released (R88, R122): what is left of it is discarded, its grants end, its frets enter SCRUB, and its flags join the
task's (R219). -/
def State.releasePlacement (s : State) (p : Placement) : State :=
  let s := s.modTask p.task (fun t => { t with flags := t.flags.or p.flags })
  let s := ((s.purgeFabric p.task p.idx).purgeWaits p.task p.idx).purgeTiles p.task p.idx
  let s := s.endGrants p
  let s := (s.fretsIn p).foldl (fun s pf => s.releaseFret p.task pf) s
  { s with fab := { s.fab with placements := tdel s.fab.placements (plKey p.task p.idx) } }

/-- Every placement of a task released, with the frets that a load or a move still holds for it. -/
def State.releaseAll (s : State) (task : Nat) : State :=
  let s := (s.placementsOf task).foldl State.releasePlacement s
  let (mine, others) := s.fab.moves.partition (fun m => m.task = task)
  let s := (mine.flatMap (fun m => m.pairs.map Prod.snd)).foldl (fun s pf => s.releaseFret task pf) s
  let s := { s with fab := { s.fab with moves := others } }
  let free := fun (f : Fret) => if f.st = .reserved task then { f with st := .free } else if f.promised = some task then { f with promised := none } else f
  { s with fab := { s.fab with frets := s.fab.frets.map (Prod.map id free), recfgs := s.fab.recfgs.filter (fun r => r.task ≠ task) } }

/-! ### Counted lines (R100, R166) -/

/-- Counted lines and spent markers that a task established. -/
def Mem.countedBy (m : Mem) (task : Nat) : List Nat := (m.l2.filter (fun r => r.2.count ≠ 0 && r.2.owner = task)).map Prod.fst
def Mem.spentBy (m : Mem) (task : Nat) : List Nat := (m.spent.filter (fun r => r.2.owner = task)).map Prod.fst

/-- A task's counted lines and markers removed without write-back and without an event (R100, R43, R97): memory beneath keeps what it
held. -/
def State.discardCounted (s : State) (task : Nat) : State :=
  { s with mem := { s.mem with
      l2 := (s.mem.countedBy task).foldl tdel s.mem.l2
      spent := (s.mem.spentBy task).foldl tdel s.mem.spent } }

/-- R166 at a task's end: counted lines become ordinary dirty lines, markers are removed; whether there was a counted line. -/
def State.releaseCounted (s : State) (task : Nat) : State × Bool :=
  let cs := s.mem.countedBy task
  let s := cs.foldl (fun (s : State) (l : Nat) => s.snapshot task (128 * l)) s
  let m := cs.foldl Mem.release s.mem
  ({ s with mem := { m with spent := (s.mem.spentBy task).foldl tdel m.spent } }, !cs.isEmpty)

/-- Whether some tile of a task is counted and not consumed (R149). -/
def State.tileUnderread (s : State) (task : Nat) : Bool :=
  s.eng.tiles.any (fun r => r.1 / (512 * 256) / 64 = task && r.2.count ≠ 0)

/-! ### What is still under way -/

/-- An operation that waits without a time limit (R140): an issued `ldc` or `waitl` that its home has registered, a `barwait` at its
barrier, a `pref`. -/
def State.unbounded (s : State) (op : WobOp) : Bool :=
  op.st ≠ .committed && match op.instr with
    | .ldc _ => s.mem.ldcWait.any (fun r => r.op.seq = op.seq)
    | .waitl _ => s.mem.waits.any (fun w => w.op.seq = op.seq)
    | .barwait _ => !s.fab.barQ.any (fun m => m.op.seq = op.seq)
    | .pref _ => true
    | _ => false

/-- Whether a committed operation cannot go on: it waits without limit, or stands behind one of its thread that does (R331). -/
def State.stuck (s : State) (p : Placement) (op : WobOp) : Bool :=
  s.unbounded op || ((p.queueOf op.serial).takeWhile (fun o => o.seq ≠ op.seq)).any (fun o => s.unbounded o && holdsBackAll o)

/-- Every committed operation of a placement is done, or cannot go on. -/
def State.queueDone (s : State) (p : Placement) : Bool := p.queue.all (s.stuck p)

/-- Whether a memory request of a task awaits its answer (R100, R97): the waits without limit aside. -/
def State.inFlight (s : State) (task : Nat) : Bool :=
  let mine := fun (op : WobOp) => op.task = task
  s.mem.reqs.any (fun r => mine r.op) || s.mem.txns.any (fun t => mine t.req.op) || s.mem.replies.any (fun r => mine r.op)
    || s.mem.acks.any (fun a => mine a.op)

/-- Commands of a task that engines hold. -/
def State.cmdsOf (s : State) (task : Nat) : List Cmd := s.eng.cmds.filter (fun c => c.op.task = task)

/-- Tokens of a task that are still in flight. -/
def State.toksOf (s : State) (task : Nat) : Bool := s.fab.net.any (fun t => t.task = task)

/-- Everything of a task has settled: committed operations, commands, requests. -/
def State.taskSettled (s : State) (task : Nat) : Bool :=
  (s.placementsOf task).all s.queueDone && (s.cmdsOf task).isEmpty && !s.inFlight task && !s.fab.barQ.any (fun m => m.op.task = task)

end Sys2Proof.Machine
end

