-- ==== Sys2Proof/Machine/Faults.lean ====
section
/-!
DEFINITION. Machine/Faults.lean: a fault's report at the Farrier, the freeze, and the fault record (R223 to R226).
-/
namespace Sys2Proof.Machine

/-! ### `FAULT_REPORT_ARRIVAL` (R223) -/

/-- The order of reports: cycle of arrival, placement index, thread tag. -/
def reportKey (r : FaultRec × Nat) : Nat := (r.2 * 2 ^ 6 + r.1.pl) * 2 ^ 14 + r.1.tag

/-- The report `n` of a task, where it has arrived and is the next. -/
def State.nextReport (s : State) (t : Task) (n : Nat) : Option FaultRec :=
  match t.reports[n]? with
  | none => none
  | some r => if r.2 ≤ s.clock.cycle && t.reports.all (fun q => reportKey r ≤ reportKey q) then some r.1 else none

/-- A report taken: the first becomes the task's fault, and the freeze begins. -/
def Task.takeReport (t : Task) (n : Nat) (f : FaultRec) (ns : Nat) : Task :=
  let t := { t with reports := dropAt t.reports n }
  match t.fault with
  | none => { t with fault := some f, freezing := true, faultAt := ns }
  | some _ => t

/-- `FAULT_REPORT_ARRIVAL` (R223): the report `n` of a task reaches its Farrier. A report that reaches a task whose end is decided, or
that is being killed, changes nothing. -/
def execFaultReportArrival (task n : Nat) (s : State) : Out :=
  match s.task? task with
  | none => .refused (.notEnabled "FAULT_REPORT_ARRIVAL")
  | some t =>
    match s.nextReport t n with
    | none => .refused (.notEnabled "FAULT_REPORT_ARRIVAL")
    | some f =>
      if t.ending || t.st = .killing || !t.st.live then .next (s.setTask { t with reports := dropAt t.reports n })
      else .next (s.setTask (t.takeReport n f s.clock.ns))

/-! ### `FAULT_FREEZE_COMPLETE` (R224) -/

/-- A task that has been frozen for its fault: END ends it, HOLD holds it (R224). -/
def State.afterFault (s : State) (t : Task) (f : FaultRec) (frec : Nat) : State :=
  let s := s.modTask t.num (fun t => { t with frec := frec, freezing := false })
  if t.fpolHold then
    let s := (s.toState t.num .held).modTask t.num (fun t => { t with victim := none, settled := false })
    (s.dbgStopped t.num 5 f.swid f.code.num).gangStop t.num
  else s.decideEnd t.num .fault f.reason f.addr

/-- `FAULT_FREEZE_COMPLETE` (R223, R224): within 4 µs of its report, task `subject` is frozen, its fault record written, and its policy
followed. Under HOLD the held operations and commands already under way go on to their end. -/
def execFaultFreezeComplete (s : State) : Out :=
  match s.task? s.subject with
  | none => .refused (.notEnabled "FAULT_FREEZE_COMPLETE")
  | some t =>
    match t.fault with
    | none => .refused (.notEnabled "FAULT_FREEZE_COMPLETE")
    | some f =>
      if t.freezing && !t.ending then
        let s := s.freezeTask t.num
        let (s, a) := s.writeFaultRec t f
        .next (s.afterFault t f a)
      else .refused (.notEnabled "FAULT_FREEZE_COMPLETE")

end Sys2Proof.Machine
end

