-- ==== Sys2Proof/Machine/Admit.lean ====
section
/-!
DEFINITION. Machine/Admit.lean: from RESWAIT to LOADING: leases granted (R80, R81), quota (R82), the choice of frets (R86, R136), and
the service of FRETWAIT with its pre-emption (R79, R93 to R95).
-/
namespace Sys2Proof.Machine

/-! ### Leases granted (R80) -/

/-- The part of R241 that is decided as leases are first granted: a writable host-tier lease refuses a measurement of several passes. -/
def State.measLeases (s : State) (t : Task) : State :=
  match s.obs.meas.find? (fun g => g.task = t.num && !g.refused) with
  | none => s
  | some g =>
    let bad := t.leases.any (fun w => !leaseRo w && (leasePages w).any (fun va => decide (s.pageAt t va = .resident true)))
    if 1 < g.npass && g.pass = 1 && t.image.isNone && bad then
      let s := s.writeMeasHeader g 3 0
      let s := { s with obs := { s.obs with meas := s.obs.meas.filter (fun x => x.task ≠ t.num) } }
      s.modTask t.num (fun t => { t with meas := false })
    else s

/-- The leases of a task granted (R80): it goes on to ADMITWAIT, or past it where it has its quota (R82, R105). -/
def State.grantLeases (s : State) (t : Task) : State := (s.measLeases t).toState t.num (if t.quota then .fretwait else .admitwait)

/-- A SAVED task back in RESWAIT (R99): its cancelled prefetches are issued again. -/
def State.reenter (s : State) (t : Task) : State :=
  let s := s.modTask t.num (fun t => { t with st := .reswait, stateSince := s.clock.ns, walk := 0 })
  match t.image with
  | none => s
  | some g => g.pending.foldl (fun s op => s.prefPost t op) s

/-- Whether every prefetch that a resuming task has issued again has completed (R99). -/
def Task.prefsDone (t : Task) : Bool :=
  match t.image with
  | none => true
  | some g => g.pending.all (fun o => t.prefHeld.any (fun x => x.seq = o.seq))

/-- `LEASE_WALK_RESUME` (R80): the walk of task `subject`'s leased pages goes on: leases granted, RANGE (R73), or a wait at an invalid
entry. A SAVED task that no gang holds comes back to RESWAIT (R99). During a link loss a host-tier lease ends the task (R44). -/
def execLeaseWalkResume (s : State) : Out :=
  match s.task? s.subject with
  | none => .refused (.notEnabled "LEASE_WALK_RESUME")
  | some t =>
    if t.ending then .refused (.notEnabled "LEASE_WALK_RESUME")
    else if t.st = .saved && t.gang.isNone then .next (s.reenter t)
    else if t.st ≠ .reswait then .refused (.notEnabled "LEASE_WALK_RESUME")
    else if s.board.hostLoss && s.hostLeased t then .next (s.endHostLink t)
    else
      let left := t.pages.drop t.walk
      match findIdx1 (fun va => match s.pageAt t va with | .resident _ => false | _ => true) left with
      | none =>
        if t.prefsDone then .next (s.grantLeases t)
        else .next (s.modTask t.num (fun t => { t with walk := t.walk + left.length }))
      | some k =>
        if s.pageAt t (left.getD k 0) = .unbacked then .next (s.decideEnd t.num .rejected 1 0)
        else .next (s.modTask t.num (fun t => { t with walk := t.walk + k }))

/-! ### Quota (R82) -/

/-- Counted-line quota reserved. -/
def State.quotaHeld (s : State) : Nat := ((s.liveTasks.filter Task.quota).map Task.cquota).foldl (· + ·) 0

/-- The host-tier regions that a task's `TIER` 1 leases cover. -/
def State.leaseRegions (s : State) (t : Task) : NSet := s.hostRegions t ((t.leases.filter (fun w => leaseTier w = 1)).flatMap leasePages)

/-- R77: host-tier regions of `TIER` 1 leases posted at admission, each as though its counter had reached the threshold (R176). -/
def State.postLeases (s : State) (t : Task) : State := (s.leaseRegions t).foldl (fun s r => s.acReach r.1 1) s

/-- `QUOTA_ADMIT` (R82): task `subject` takes its reservation where the allowance of 262,144 lines has room; a gang task then waits for
its slice (R105). -/
def execQuotaAdmit (s : State) : Out :=
  match s.task? s.subject with
  | none => .refused (.notEnabled "QUOTA_ADMIT")
  | some t =>
    event "QUOTA_ADMIT" (t.st = .admitwait && !t.quota && !t.ending && s.quotaHeld + t.cquota ≤ 262144)
      ((s.postLeases t).modTask t.num (fun t =>
        { t with quota := true, st := if t.gang.isNone then .fretwait else .admitwait, stateSince := s.clock.ns }))

/-! ### Gang slices (R104) -/

/-- A PTP time that lies in a slice. -/
def Gang.inSlice (g : Gang) (ptp : Nat) : Bool :=
  g.t0 ≤ ptp && g.off ≤ (ptp - g.t0) % g.period && (ptp - g.t0) % g.period < g.off + g.len

/-- The start instant of the slice that a PTP time lies in. -/
def Gang.sliceStart (g : Gang) (ptp : Nat) : Nat := g.t0 + (ptp - g.t0) / g.period * g.period + g.off

/-- The first end instant after a PTP time. -/
def Gang.nextEnd (g : Gang) (ptp : Nat) : Nat :=
  let k := if g.t0 + g.off + g.len ≤ ptp then (ptp - (g.t0 + g.off + g.len)) / g.period + 1 else 0
  g.t0 + k * g.period + g.off + g.len

/-! ### The choice of frets (R86, R136) -/

/-- Frets that a task may be given: FREE ones, and those reserved for it. -/
def State.freeFor (s : State) (task : Nat) : List Nat :=
  ((List.range 4088).map (· + 8)).filter (fun pf => (s.fret pf).st = .free || (s.fret pf).st = .reserved task)

/-- What the choice of frets looks at: the configuration, which of its frets are engine frets, clusters closed to engine frets, and
clusters closed to all (R246). -/
structure Wish where
  cfgid : Word
  engines : List Bool
  granted : NSet
  closed : NSet
  deriving DecidableEq, Repr

/-- Whether a physical fret caches a config-local fret. -/
def State.caches (s : State) (cfgid : Word) (f pf : Nat) : Bool :=
  match (s.fret pf).cfg with
  | some c => c.cfgid = cfgid && c.f = f
  | none => false

/-- Steps 2 and 3 of R86 among some candidates: nearest to the placement's lowest-numbered cluster in a cluster it holds already, or on
the die with the most FREE frets, among the dies that have a candidate (log entry 83). -/
def nearOrDie (chosen avail cands : List Nat) : Option Nat :=
  let held := chosen.map clusterOf
  let base := (minBy id held).getD 0
  let near := cands.filter (fun pf => held.contains (clusterOf pf))
  match minBy (fun pf => meshHops base (clusterOf pf)) near with
  | some pf => some pf
  | none =>
    let count := fun (d : Nat) => (avail.filter (fun pf => dieOf (clusterOf pf) = d)).length
    minBy (fun pf => 4096 - count (dieOf (clusterOf pf))) cands

/-- R86: the fret for config-local fret f. -/
def State.chooseFret (s : State) (w : Wish) (chosen avail : List Nat) (f : Nat) : Option Nat :=
  let cands := avail.filter (fun pf =>
    !nsHas w.closed (clusterOf pf) && !(w.engines.getD f false && nsHas w.granted (clusterOf pf)))
  match cands.find? (s.caches w.cfgid f) with
  | some pf => some pf
  | none =>
    match nearOrDie chosen avail (cands.filter (fun pf => (s.fret pf).cfg.isNone)) with
    | some pf => some pf
    | none => nearOrDie chosen avail cands

/-- A placement's mapping, and the frets left. -/
def State.mapOne (s : State) (w : Wish) (avail : List Nat) : Nat → Option (List (Nat × Nat) × List Nat)
  | 0 => some ([], avail)
  | n + 1 =>
    match s.mapOne w avail n with
    | none => none
    | some (m, avail) =>
      match s.chooseFret w (m.map Prod.snd) avail n with
      | none => none
      | some pf => some (m ++ [(n, pf)], avail.filter (fun x => x ≠ pf))

/-- Mappings of several placements, each keeping the others' engine clusters for itself. -/
def State.mapMany (s : State) (w : Wish) (nf : Nat) (avail : List Nat) : Nat → Option (List (List (Nat × Nat)))
  | 0 => some []
  | n + 1 =>
    match s.mapOne w avail nf with
    | none => none
    | some (m, avail) =>
      let taken := (m.filter (fun r => w.engines.getD r.1 false)).foldl (fun t r => nsAdd t (clusterOf r.2)) w.granted
      (s.mapMany { w with granted := taken } nf avail n).map (fun ms => m :: ms)

/-- Which frets of a task's configuration are engine frets (R135): from a fret that caches them, or from the image. -/
def State.engineFrets (s : State) (t : Task) : List Bool :=
  let img := match s.readImg t.space t.image_ t.nf with
    | .ok g => some g
    | .error _ => none
  (List.range t.nf).map (fun f =>
    match s.fab.frets.find? (fun r => s.caches t.cfgid f r.1) with
    | some r => r.2.hasEngine
    | none => (img.map (fun g => g.engineFret f)).getD false)

/-- The other copy of a paired run (R246). -/
def State.otherCopy (s : State) (task : Nat) : Option Nat :=
  s.obs.pairs.findSome? (fun g => if g.taskA = task then some g.taskB else if g.taskB = task then some g.taskA else none)

/-- What the choice of a task's frets looks at; the placements of `gone` count as released. -/
def State.wish (s : State) (t : Task) (gone : List Nat) : Wish :=
  let live := (s.fab.placements.map Prod.snd).filter (fun p => !gone.contains p.task)
  let granted := live.foldl (fun u p => p.grants.foldl (fun u r => nsAdd u r.1) u) []
  let closed := match s.otherCopy t.num with
    | none => []
    | some o =>
      let u := (live.filter (fun p => p.task = o)).foldl (fun u p => p.map.foldl (fun u r => nsAdd u (clusterOf r.2)) u) []
      ((s.fab.moves.filter (fun m => m.task = o)).flatMap Move.pairs).foldl (fun u q => nsAdd u (clusterOf q.2)) u
  ⟨t.cfgid, s.engineFrets t, granted, closed⟩

/-- Frets that a function's tasks hold or have been given (R68). -/
def State.fretsHeld (s : State) (fn : Nat) (gone : List Nat) : Nat :=
  ((s.liveTasks.filter (fun t => t.fn = fn && !gone.contains t.num)).flatMap (fun t =>
    (s.placementsOf t.num).map Placement.nf)).foldl (· + ·) 0

/-- A mapping of a task's first placements on some frets, if there is one; a function at its cap waits as though none were free. -/
def State.mapTask (s : State) (t : Task) (avail gone : List Nat) : Option (List (List (Nat × Nat))) :=
  if t.fn ≠ 0 && s.vfFrets t.fn < s.fretsHeld t.fn gone + t.need then none
  else s.mapMany (s.wish t gone) t.nf avail (t.need / t.nf)

/-! ### Pre-emption (R93 to R95) -/

/-- Whether a `coll` of a task is outstanding. -/
def State.collOut (s : State) (task : Nat) : Bool :=
  s.eng.cmds.any (fun c => c.op.task = task && isColl c.op.instr)
    || (s.placementsOf task).any (fun p => p.queue.any (fun o => isColl o.instr))

/-- The action on a candidate and its cost in tokens (R93). -/
def State.classify (s : State) (v : Task) : Option (VAction × Nat) :=
  if v.st = .held then (if v.killable then some (.kill, 4) else none)
  else if s.estimate v ≤ 20000 && !v.slow then some (.drain, 0)
  else if v.ckpt && !s.collOut v.num then some (.checkpoint, 1)
  else if v.killable then some (.kill, 4)
  else none

def VAction.order : VAction → Nat
  | .drain => 0
  | .checkpoint => 1
  | .kill => 2

/-- Tasks that a newcomer may class as victims (R93, R105). -/
def State.mayBeVictim (s : State) (n v : Task) : Bool :=
  (v.st = .running || v.st = .held) && !v.ending && v.gang.isNone && !v.svc && v.victim.isNone && (n.gang.isSome || s.effPrio v < s.effPrio n)

/-- Candidate victims for a newcomer (R93, R105). -/
def State.candidates (s : State) (n : Task) : List (Task × VAction × Nat) :=
  (s.tasks.filter (s.mayBeVictim n)).filterMap (fun v => (s.classify v).map (fun a => (v, a.1, if n.gang.isSome then 0 else a.2)))

/-- The order of R94: effective priority, action, remaining estimate, acceptance time with the latest first. -/
def State.victimOrder (s : State) (cs : List (Task × VAction × Nat)) : List (Task × VAction × Nat) :=
  sortBy (fun c => ((s.effPrio c.1 * 4 + c.2.1.order) * 2 ^ 96 + s.estimate c.1) * 2 ^ 64 + (2 ^ 64 - c.1.accept)) cs


/-- Frets available with others added, in order. -/
def withFrets (avail more : List Nat) : List Nat := ((List.range 4088).map (· + 8)).filter (fun pf => avail.contains pf || more.contains pf)

/-- The walk of R94: candidates taken until the need can be mapped. -/
structure Walked where
  avail : List Nat
  gone : List Nat
  tokens : Nat
  orders : List (Nat × VAction × Nat)
  reached : Bool
  deriving DecidableEq, Repr

def State.walkVictims (s : State) (n : Task) (w : Walked) : List (Task × VAction × Nat) → Walked
  | [] => w
  | (v, a, cost) :: cs =>
    if w.reached then w
    else if w.tokens < cost then s.walkVictims n w cs
    else
      let avail := withFrets w.avail (s.fretsOf v.num)
      let gone := v.num :: w.gone
      s.walkVictims n ⟨avail, gone, w.tokens - cost, w.orders ++ [(v.num, a, cost)], (s.mapTask n avail gone).isSome⟩ cs

/-- Frets and tasks whose release already serves a newcomer (R94): those promised to it, and those that the victims ordered for it still
hold (log entry 84). -/
def State.coming (s : State) (n : Nat) : List Nat × List Nat :=
  let vs := (s.tasks.filter (fun v => (v.victim.map Victim.newcomer) = some n && v.st.live)).map Task.num
  (vs.flatMap s.fretsOf ++ (s.fab.frets.filter (fun r => r.2.st = .scrub && r.2.promised = some n)).map Prod.fst, vs)

/-- The orders of a decision carried out (R94): drains always, checkpoints and kills where the walk reached the need. -/
def State.orderVictims (s : State) (n : Task) (w : Walked) : State :=
  let os := w.orders.filter (fun o => w.reached || o.2.1 = .drain)
  let spent := (os.map (fun o => o.2.2)).foldl (· + ·) 0
  let s := s.modTask n.num (fun t => { t with tokens := t.tokens - spent })
  os.foldl (fun s o => s.modTask o.1 (fun v => { v with victim := some ⟨o.2.1, s.clock.ns, n.num⟩ })) s

/-- The pre-emption decision for the head of FRETWAIT (R93, R94, R95). Each task classed after an expired drain has had its one decision with a
long estimate (R96). -/
def State.preempt (s : State) (n : Task) : State :=
  let (more, vs) := s.coming n.num
  let avail := withFrets (s.freeFor n.num) more
  if (s.mapTask n avail vs).isSome then s
  else
    let classed := s.tasks.filter (s.mayBeVictim n)
    let w := s.walkVictims n ⟨avail, vs, n.tokens, [], false⟩ (s.victimOrder (s.candidates n))
    classed.foldl (fun s v => s.modTask v.num (fun v => { v with slow := false })) (s.orderVictims n w)

/-! ### The head of FRETWAIT (R79) -/

/-- The head of FRETWAIT (R79, R105): gang tasks in their slice first, then by effective priority, then by acceptance. -/
def State.fretwaitHead (s : State) : Option Task :=
  let ready := fun (t : Task) => t.st = .fretwait && !t.ending && match t.gang with
    | none => true
    | some g => g.inSlice s.clock.ptpNs
  minBy (fun t => ((if t.gang.isSome then 0 else 1) * 8 + (7 - s.effPrio t)) * 2 ^ 64 + t.accept) (s.tasks.filter ready)

/-- FREE frets reserved for a task that waits, up to its need (R94). -/
def State.reserveFree (s : State) (t : Task) : State :=
  if t.fn ≠ 0 && s.vfFrets t.fn < s.fretsHeld t.fn [] + t.need then s
  else
    let free := (s.freeFor t.num).filter (fun pf => (s.fret pf).st = .free)
    (free.take (t.need - s.securedFor t.num)).foldl (fun s pf => s.modFret pf (fun f => { f with st := .reserved t.num })) s

end Sys2Proof.Machine
end

