-- ==== Sys2Proof/Machine/Barriers.lean ====
section
/-!
DEFINITION. Machine/Barriers.lean: barriers (R134, R349 to R352), polled line waits (R348), and the completion of prefetches (R346).
-/
namespace Sys2Proof.Machine

/-! ### Barrier words (R349) -/

def State.barrier (s : State) (task pl n : Nat) : Barrier := tgetD (s.fret (s.barPf task pl n)).bars (n % 32) Barrier.zero

def State.setBarrier (s : State) (task pl n : Nat) (b : Barrier) : State :=
  s.modFret (s.barPf task pl n) (fun f => { f with bars := tput f.bars (n % 32) b })

/-- A status word (R350). -/
def barStatus (err : Bool) (phase : Nat) : Word := BitVec.ofNat 64 (err.toNat * 2 ^ 63 + phase % 2 ^ 32)

/-- Registered waits of a fret, over its 32 barriers (R351). -/
def Fret.waitCount (f : Fret) : Nat := (f.bars.map (fun r => r.2.waiters.length)).foldl (· + ·) 0

/-! ### The three forms (R351) -/

/-- `barinit`. An invalid word has no barrier and so no phase: its status carries 0 (DEDUCED, log entry 20). -/
def State.barinit (s : State) (t : Task) (op : WobOp) (bar : Option (Nat × Nat × Bool)) : State :=
  match bar with
  | none => s.finishHeld op (barStatus true 0)
  | some (pl, n, level) =>
    let b := s.barrier t.num pl n
    if level || op.left.getLsbD 20 || b.arrived ≠ 0 || !b.waiters.isEmpty then s.finishHeld op (barStatus true b.phase)
    else (s.setBarrier t.num pl n { b with expect := op.right.toNat, arrived := 0 }).finishHeld op (barStatus false b.phase)

/-- One arrival at an initialised barrier: the last of a phase begins the next and satisfies every registered wait. -/
def State.arrive (s : State) (task pl n : Nat) : State :=
  let b := s.barrier task pl n
  let k := (b.arrived + 1) % 2 ^ 64
  if k = b.expect then
    let ph := (b.phase + 1) % 2 ^ 32
    let s := s.setBarrier task pl n { b with arrived := 0, phase := ph, waiters := [] }
    b.waiters.foldl (fun s w => s.finishHeld w (barStatus false ph)) s
  else s.setBarrier task pl n { b with arrived := k }

/-- `bararr`. -/
def State.bararr (s : State) (t : Task) (op : WobOp) (bar : Option (Nat × Nat × Bool)) : State :=
  match bar with
  | none => s.finishHeld op (barStatus true 0)
  | some (pl, n, _) =>
    let b := s.barrier t.num pl n
    if b.expect = 0 then s.finishHeld op (barStatus true 0)
    else (s.arrive t.num pl n).finishHeld op (barStatus false b.phase)

/-- `barwait`. One that finds no entry free goes back to its WOB, which sends it again (R351). -/
def State.barwait (s : State) (t : Task) (op : WobOp) (bar : Option (Nat × Nat × Bool)) : State :=
  match bar with
  | none => s.finishHeld op (barStatus true 0)
  | some (pl, n, _) =>
    let b := s.barrier t.num pl n
    if b.expect = 0 then s.finishHeld op (barStatus true 0)
    else if b.phase ≠ bits op.right 31 0 then s.finishHeld op (barStatus false b.phase)
    else if (s.fret (s.barPf t.num pl n)).waitCount < 64 then
      s.setBarrier t.num pl n { b with waiters := b.waiters ++ [op] }
    else s.putOp { op with st := .sent, value := BitVec.ofNat 64 s.clock.cycle }

/-- Whether a request is for a barrier, by task, placement and number. -/
def State.forBarrier (s : State) (key : Option (Nat × Nat × Nat)) (op : WobOp) : Bool :=
  match s.task? op.task, s.placement? op.task op.pl with
  | some t, some p => (barrierOf t op.pl p.nf op.left).map (fun b => (op.task, b.1, b.2.1)) = key && key.isSome
  | _, _ => false

/-- The requests for one barrier are served in the order of their arrival (R350): of those for it, none arrives before this one. -/
def State.firstForBarrier (s : State) (n : Nat) (m : OpMsg) (key : Option (Nat × Nat × Nat)) : Bool :=
  !(s.fab.barQ.take n).any (fun q => q.earliest ≤ m.earliest && s.forBarrier key q.op)
    && !(s.fab.barQ.drop (n + 1)).any (fun q => q.earliest < m.earliest && s.forBarrier key q.op)

/-- `BARRIER_REQUEST_SERVE` (R134, R350, R351): the request `subject` has arrived and is served. -/
def execBarrierRequestServe (s : State) : Out :=
  s.inCycle "BARRIER_REQUEST_SERVE" <| match s.fab.barQ[s.subject]? with
  | none => .refused (.notEnabled "BARRIER_REQUEST_SERVE")
  | some m =>
    let op := m.op
    match s.task? op.task, s.placement? op.task op.pl with
    | some t, some p =>
      let bar := barrierOf t op.pl p.nf op.left
      if m.earliest ≤ s.clock.cycle && s.firstForBarrier s.subject m (bar.map (fun b => (op.task, b.1, b.2.1))) then
        let s := { s with fab := { s.fab with barQ := dropAt s.fab.barQ s.subject } }
        match op.instr with
        | .barinit _ => .next (s.barinit t op bar)
        | .bararr _ => .next (s.bararr t op bar)
        | _ => .next (s.barwait t op bar)
      else .refused (.notEnabled "BARRIER_REQUEST_SERVE")
    | _, _ => .refused (.notEnabled "BARRIER_REQUEST_SERVE")

/-- A `barwait` that its barrier turned away (R351), by its number. -/
def State.turnedAway (s : State) (seq : Nat) : Option WobOp :=
  s.fab.placements.findSome? (fun r => match r.2.queueOp? seq with
    | some op => if op.st = .sent then some op else none
    | none => none)

/-- `BARWAIT_RESEND` (R351): the `barwait` with number `subject`, turned away 64 cycles ago, is sent again. -/
def execBarwaitResend (s : State) : Out :=
  s.inCycle "BARWAIT_RESEND" <| match s.turnedAway s.subject with
  | none => .refused (.notEnabled "BARWAIT_RESEND")
  | some op =>
    match s.task? op.task, s.placement? op.task op.pl with
    | some t, some p =>
      let op' := { op with st := .issued }
      event "BARWAIT_RESEND" (op.value.toNat + 64 ≤ s.clock.cycle) ((s.putOp op').sendBarrier t p op')
    | _, _ => .refused (.notEnabled "BARWAIT_RESEND")

/-! ### Polled waits (R348) -/

/-- One polled wait looked at: satisfied, faulted, or looked at again later. -/
def State.pollWait (s : State) (w : Wait) (now : Nat) : State :=
  let line := w.op.pa / 128
  if !isHost w.op.pa && s.mem.isSpent line then s.pushReply w.op 0 (some (.overread, w.op.ea))
  else if isHost w.op.pa && s.board.hostLoss then s.pushReply w.op 0 (some (.hostlink, w.op.ea))
  else if (if isHost w.op.pa then nsHas s.mem.hostPoison line else s.poisoned line) then s.pushReply w.op 0 (some (.uecc, w.op.ea / 128 * 128))
  else
    let s := if isHost w.op.pa then s.hlcShare line else s
    let v := if isHost w.op.pa then s.hostSeen (s.opCluster w.op) w.op.pa 8 else s.readNat w.op.pa 8
    if w.op.right.toNat ≤ v then s.pushReply w.op v none
    else { s with mem := { s.mem with waits := s.mem.waits ++ [{ w with last := now }] } }

/-- `WAITL_SLICE_POLL` (R348): slice `subject` polls the waits beyond its 256 registrations, every 256 cycles. -/
def execWaitlSlicePoll (s : State) : Out :=
  let now := s.clock.cycle
  let due := fun (w : Wait) => w.polled && !isHost (128 * w.place) && sliceOf (128 * w.place) = s.subject && w.last + 256 ≤ now
  let ws := s.mem.waits.filter due
  let s' := { s with mem := { s.mem with waits := s.mem.waits.filter (fun w => !due w) } }
  event "WAITL_SLICE_POLL" (!ws.isEmpty) (ws.foldl (fun s w => s.pollWait w now) s')

/-- `WAITL_HOST_POLL` (R348): the hub polls the uncached host-tier wait `subject`, every 1 µs. -/
def execWaitlHostPoll (s : State) : Out :=
  match s.mem.waits[s.subject]? with
  | none => .refused (.notEnabled "WAITL_HOST_POLL")
  | some w =>
    let s' := { s with mem := { s.mem with waits := dropAt s.mem.waits s.subject } }
    event "WAITL_HOST_POLL" (w.polled && isHost (128 * w.place) && w.last + 1000 ≤ s.clock.ns)
      ((s'.acCountAccess (s.fnOf w.op) w.op.pa).pollWait w s.clock.ns)

/-! ### Prefetch (R346) -/

/-- Whether every leased page of a `pref`'s range translates to an HBM frame. -/
def State.prefResident (s : State) (t : Task) (op : WobOp) : Bool :=
  (prefPages t op).all (fun va => match s.physOf t.space va with
    | some (pa, _) => !isHost pa
    | none => false)

/-- The arrival of a completed `pref`, if its barrier word is valid (R346, R352); at an uninitialised barrier nothing changes. -/
def State.prefArrive (s : State) (t : Task) (pl : Nat) (word : Word) : State :=
  match s.placement? t.num pl with
  | none => s
  | some p =>
    match barrierOf t pl p.nf word with
    | some (bpl, n, _) => if (s.barrier t.num bpl n).expect = 0 then s else s.arrive t.num bpl n
    | none => s

/-- An issued `pref`, by its number. -/
def State.issuedPref (s : State) (seq : Nat) : Option WobOp :=
  s.fab.placements.findSome? (fun r => match r.2.queueOp? seq with
    | some op => match op.instr, op.st with
      | .pref _, .issued => some op
      | _, _ => none
    | none => none)

/-- A `pref` of a task in RESWAIT that was cancelled at its checkpoint and issued again (R99), by its number, until it completes. -/
def State.savedPref (s : State) (seq : Nat) : Option (Task × WobOp) :=
  s.tasks.findSome? (fun t =>
    if t.st ≠ .reswait then none
    else match t.image with
      | none => none
      | some g => (g.pending.find? (fun o => o.seq = seq && !t.prefHeld.any (fun x => x.seq = seq))).map (fun o => (t, o)))

/-- A re-issued `pref` completed: its arrival is held with the task until it resumes. -/
def State.holdPref (s : State) (t : Task) (op : WobOp) : State := s.setTask { t with prefHeld := t.prefHeld ++ [op] }

/-- `PREF_COMPLETE` (R346, R99): the `pref` with number `subject` completes; in SAVING it is cancelled (R97, step 3). -/
def execPrefComplete (s : State) : Out :=
  match s.issuedPref s.subject with
  | none =>
    match s.savedPref s.subject with
    | none => .refused (.notEnabled "PREF_COMPLETE")
    | some (t, op) => event "PREF_COMPLETE" (s.prefResident t op) (s.holdPref t op)
  | some op =>
    match s.task? op.task with
    | none => .refused (.notEnabled "PREF_COMPLETE")
    | some t =>
      s.inCycle "PREF_COMPLETE" <|
        event "PREF_COMPLETE" (t.st ≠ .saving && s.prefResident t op) ((s.prefArrive t op.pl op.aux).finishHeld op 0)

end Sys2Proof.Machine
end

