-- ==== Sys2Proof/Machine/Control.lean ====
section
/-!
DEFINITION. Machine/Control.lean: the dataflow control forms (R276 to R283).
-/
namespace Sys2Proof.Machine

/-- R243: an unsquashed `steer` or `select` adds to the path hash of a measured pass of its task; d is its decision. -/
def pathTerm (i : SrdIn) (d : Nat) : Word :=
  let c : Word := BitVec.ofNat 64 (i.wave + 2 ^ 24 * i.fret + 2 ^ 36 * i.velem + 2 ^ 39 * i.slot + 2 ^ 44 * d)
  mix64 (i.work ^^^ (c * 0x9E3779B97F4A7C15))

/-- The measured passes of a task with a term added to their path hash. -/
def addPath (task : Nat) (x : Word) (ms : List Meas) : List Meas :=
  ms.map (fun m => if m.task = task && !m.refused then { m with hash := m.hash + x } else m)

/-- R277: a decision counted as event 0x16 and in the path hash (R239, R243). -/
def State.noteDecision (s : State) (c : Focus) (d : Nat) : State :=
  let x := pathTerm (s.srdIn c) d
  let s := s.countEvent (clusterOf c.pf) c.task 0x16 1
  { s with obs := { s.obs with meas := addPath c.task x s.obs.meas } }

/-- `steer` (R277): v to the `SIDE` 0 words when bit 0 of p is 1, to the `SIDE` 1 words otherwise. -/
def execSteer (f : FmtA) (s : State) : Out :=
  fireA f s (fun c l r _ s =>
    (s.noteDecision c (l.toNat % 2)).emit c 0 c.tag c.wave f.dests
      (if l.toNat % 2 = 1 then some r else none) (if l.toNat % 2 = 1 then none else some r))

/-- `select` (R277): the chosen value to the `SIDE` 0 words, the other to the `SIDE` 1 words. -/
def execSelect (f : FmtA) (s : State) : Out :=
  fireA f s (fun c l r a s =>
    (s.noteDecision c (l.toNat % 2)).emit c 0 c.tag c.wave f.dests
      (some (if l.toNat % 2 = 1 then r else a)) (some (if l.toNat % 2 = 1 then a else r)))

/-- `wadv` (R278): v with its wave advanced by 1, modulo 2^24. -/
def execWadv (f : FmtA) (s : State) : Out :=
  fireA f s (fun c l _ _ s => s.emit c 0 c.tag ((c.wave + 1) % 2 ^ 24) f.dests (some l) none)

/-- `wset` (R278): v with its wave set to n[23:0]. -/
def execWset (f : FmtA) (s : State) : Out :=
  fireA f s (fun c l r _ s => s.emit c 0 c.tag (r.toNat % 2 ^ 24) f.dests (some l) none)

/-- `mov` (R279). -/
def execMov (f : FmtA) (s : State) : Out := fireVal f 0 s (fun l _ _ => l)

/-- `const` (R279): the immediate, when the trigger arrives. -/
def execConst (f : FmtA) (s : State) : Out := fireVal f 0 s (fun _ r _ => r)

/-- `sink` (R279): consumes v and sends nothing. -/
def execSink (f : FmtA) (s : State) : Out := fireA f s (fun _ _ _ _ s => s)

/-- `gate` (R279): v, once g has arrived. -/
def execGate (f : FmtA) (s : State) : Out := fireVal f 0 s (fun l _ _ => l)

/-- `join` and `join.3` (R279): 0, once every operand has arrived. -/
def execJoin (_three : Bool) (f : FmtA) (s : State) : Out := fireVal f 0 s (fun _ _ _ => 0)

/-- R74, R280: field k of a work identifier, fields laid out from the top of bit W - 1 downward, field 0 outermost. -/
def workField (widths : List Nat) (work k : Nat) : Nat :=
  if k < (widths.takeWhile (· ≠ 0)).length then work / 2 ^ (widths.drop (k + 1)).sum % 2 ^ widths.getD k 0 else 0

/-- `idx` (R280): field k of the thread's work identifier. -/
def execIdx (f : FmtA) (s : State) : Out :=
  fireA f s (fun c _ r _ s =>
    let ws := ((s.task? c.task).map Task.widths).getD []
    s.emit c 0 c.tag c.wave f.dests (some (BitVec.ofNat 64 (workField ws (s.workOf c).toNat r.toNat))) none)

/-- `spawn` (R282): one request, in the output queue, bound for the placement's tag unit. -/
def execSpawn (f : FmtA) (s : State) : Out :=
  fireA f s (fun c l _ _ s => s.pushOut c [.spawn c.tag c.wave l c.slot c.velem f.dests s.clock.cycle (s.workOf c) (s.ordinalOf c)])

/-- `send` (R281): v with the tag and wave of k. -/
def execSend (f : FmtA) (s : State) : Out :=
  fireA f s (fun c l r _ s => s.emit c 0 (r.toNat / 2 ^ 24 % 2 ^ 14) (r.toNat % 2 ^ 24) f.dests (some l) none)

/-- `tagof` (R281): TAG * 2^24 + WAVE. -/
def execTagof (f : FmtA) (s : State) : Out :=
  fireA f s (fun c _ _ _ s => s.emit c 0 c.tag c.wave f.dests (some (BitVec.ofNat 64 (c.tag * 2 ^ 24 + c.wave))) none)

/-- `endt` (R283): a notice to the thread's home WOB. -/
def execEndt (f : FmtA) (s : State) : Out :=
  fireA f s (fun c _ _ _ s =>
    let home := ((s.placement? c.task c.pl).map (fun p => p.homePf c.tag)).getD c.pf
    { s with fab := { s.fab with
        notices := s.fab.notices ++ [⟨c.task, c.pl, c.tag, c.wave, s.clock.cycle + 1 + fretLat c.pf home⟩] } })

end Sys2Proof.Machine
end

