-- ==== Sys2Proof/Machine/Place.lean ====
section
/-!
DEFINITION. Machine/Place.lean: placements made, grown, released and moved: loading frets (R86, R87), growth and release (R88), scrub
(R85), fret moves (R89, R90, R136, R147), and the expiry of a drain (R96).
-/
namespace Sys2Proof.Machine

/-! ### Loading (R86, R87, R262) -/

/-- Whether every fret of a mapping caches its config-local fret already. -/
def State.allCached (s : State) (t : Task) (m : List (List (Nat × Nat))) : Bool :=
  (m.flatMap id).all (fun r => s.caches t.cfgid r.1 r.2)

/-- The records that the frets of a configuration hold at a slot address, as they will stand: from the image, or from a fret that caches
the config-local fret. -/
def State.entryBytes (s : State) (t : Task) (img : Option Img) (f slot : Nat) : Option (List Byte) :=
  match img with
  | some g => tget (g.slots f) slot
  | none => (s.fab.frets.find? (fun r => s.caches t.cfgid f r.1)).bind (fun r => tget r.2.slots slot)

/-- CFG_BADDEST for one `ENTRY`k word (R262, R255, R114): reserved bits, a fret or slot that is not there, a port that is not
expected, a side bit, or a special sink with nonzero fields. -/
def State.entryBad (s : State) (t : Task) (img : Option Img) (w : Nat) : Bool :=
  let d := destOfWord w
  if w % 2 ^ 10 ≠ 0 then true
  else if d.port = .sink then w % 2 ^ 30 ≠ 0
  else
    t.nf ≤ d.fret.toNat ||
      match s.entryBytes t img d.fret.toNat (32 * d.velem.toNat + d.slot.toNat) with
      | none => true
      | some bs => match decode bs with
        | .error _ => true
        | .ok (i, _) => !(portsOf i).contains d.port.code

/-- The configuration read where some fret must be loaded, checked, and the entry words checked at every launch (R262): the image, none
where all is cached, or the rejection. -/
def State.loadConfig (s : State) (t : Task) (m : List (List (Nat × Nat))) : Except ImgErr (Option Img) := do
  let img ← if s.allCached t m then .ok none else (s.loadImg t.space t.image_ t.nf t.cfgid.toNat t.svc).map some
  let bad := (List.range (t.fld 39 1)).any (fun k => s.entryBad t img (t.fld (80 + 4 * k) 4))
  if bad then .error (5, 0) else .ok img

/-- A fret mapped in a placement (R84, R86, R87): LIVE where it caches its configuration fret already, otherwise in LOAD, receiving the image's
section; one of the service cluster stays SERVICE. Its generation is the complement of the last. -/
def Fret.make (fr : Fret) (img : Option Img) (key f : Nat) (reuse : Bool) : Fret :=
  let fr := { fr with owner := some (key, f), gen := !fr.gen, promised := none }
  let after := if fr.st = .service then FretSt.service else .load
  if reuse then { fr with st := .live }
  else
    match img with
    | some g => { fr with st := after, cfg := none, slots := g.slots f, swids := g.swids f }
    | none => { fr with st := after, cfg := none }

/-- A fret whose load is over (R86): LIVE, with the configuration fret and `NF` that it caches recorded. -/
def Fret.loaded (fr : Fret) (t : Task) (f : Nat) : Fret := if fr.st = .load then { fr with st := .live, cfg := some ⟨t.cfgid, f, t.nf⟩ } else fr

/-- A new placement (R87, R120), before its first token. -/
def newPlacement (task idx : Nat) (m : Tab Nat) (remap : Tab (List Nat)) (gens grants : NSet) (frozen : Bool) (since : Nat) : Placement where
  task := task
  idx := idx
  map := m
  remap := remap
  mapGen := gens
  regen := []
  moving := []
  grants := grants
  fresh := 0
  freeTags := []
  threads := []
  wob := []
  queue := []
  flags := Flags.none
  spawns := []
  returned := []
  holders := []
  frozen := frozen
  since := since
  heldToks := []
  turns := []
  issues := []

/-- A placement made on a mapping (R86, R87, R136), with the selections of a measured pass (R241); `engines` tells its engine frets. -/
def State.makePlacement (s : State) (t : Task) (img : Option Img) (engines : List Bool) (idx : Nat) (m : List (Nat × Nat)) : State :=
  let key := plKey t.num idx
  let s := m.foldl (fun s r => s.modFret r.2 (fun fr => fr.make img key r.1 (s.caches t.cfgid r.1 r.2))) s
  let gens := m.foldl (fun u r => if (s.fret r.2).gen then nsAdd u r.1 else u) []
  let remap := (m.filter (fun r => !(s.fret r.2).remap.isEmpty)).map (fun r => (r.1, (s.fret r.2).remap))
  let grants := m.foldl (fun u r => if engines.getD r.1 false then nsAdd u (clusterOf r.2) else u) []
  let p := newPlacement t.num idx m remap gens grants t.image.isSome s.clock.ptpNs
  let s := { s with fab := { s.fab with gated := (m.map Prod.snd).foldl (fun u pf => nsDel u (clusterOf pf)) s.fab.gated } }
  (s.setPlacement p).selectFor p

/-- Placements made on their mappings, the image read once for all of them (R264); a rejection of it is met as the frets are loaded. -/
def State.mapPlacements (s : State) (t : Task) (m : List (Nat × List (Nat × Nat))) : State :=
  let engines := s.engineFrets t
  let (img, err) := match s.loadConfig t (m.map Prod.snd) with
    | .ok img => (img, none)
    | .error e => (none, some e)
  (m.foldl (fun s q => s.makePlacement t img engines q.1 q.2) s).modTask t.num (fun t => { t with loadErr := err })

/-! ### Training instances on the service cluster (R35, R40, R394) -/

/-- The training graph's image for a channel, and the dispatcher's, as the booted firmware brings them. -/
def Board.trainingImage (b : Board) (ch : Nat) : List Byte := ((b.flash.map FwImage.training).getD []).getD ch []
def Board.dispatcherImage (b : Board) : List Byte := (b.flash.map FwImage.dispatcher).getD []

/-- The body of a service image, and its signature block (R249, R250). -/
def svcBody (image : List Byte) : List Byte := image.take (field image 36 4)
def svcBlock (image : List Byte) : List Byte := (image.drop (field image 36 4)).take 128

/-- A service configuration loaded: its digest joins those that measurement 2 covers, in load order (R36). -/
def Board.loadSvc (b : Board) (image : List Byte) : Board := { b with svcDigests := b.svcDigests ++ shake256 (svcBody image) }

/-- The task that a service image's template makes (R249, R394): its `CFGID` is the body's digest. It has no address space of its own, and enters
LOADING at once (log entry 63). -/
def State.serviceTask (s : State) (n : Nat) (image : List Byte) : Task :=
  let x := imgHdrOf image
  let hdr := leBytes 8 (cfgidOf (svcBody image)) ++ (image.drop (x.tmoff + 8)).take 248
  { newTask n 0 0 hdr 0 0 false 0 false 7 s.sched.acceptCtr s.clock.ns with
    svc := true, st := .loading, nf := x.nf, need := x.nf, nextPl := 1, quota := true, learned := s.clock.ptpNs }

/-- A training image as the Farrier takes it: signed, with a template, of one fret (R35, R262, R394). -/
def loadTraining (image : List Byte) : Except ImgErr Img := do
  let g ← loadImgBy (bytesReader image) (imgHdrOf image).nf (cfgidOf (svcBody image)) true
  imgCheck (g.hdr.svc && g.hdr.tmpl) 1 6
  imgCheck (g.hdr.nf = 1) 1 8
  .ok g

/-- A channel's instance launched on a fret of the service cluster. A rejection of its image is met as the fret is loaded. -/
def State.launchTrain (s : State) (ch pf : Nat) : State :=
  let image := s.board.trainingImage ch
  let n := s.freeNum s.sched.lastTask 4097
  let t := s.serviceTask n image
  let m := s.mem
  let s := { s with
    sched := { s.sched with lastTask := n, acceptCtr := s.sched.acceptCtr + 1 }
    mem := { m with train := m.train ++ [(⟨ch, n⟩ : Train)], trainLeft := m.trainLeft.filter (fun x => x ≠ ch) } }
  match loadTraining image with
  | .error e => s.setTask { t with loadErr := some e }
  | .ok img => ({ s with board := s.board.loadSvc image }.setTask t).makePlacement t (some img) [img.engineFret 0] 0 [(0, pf)]

/-- The channels in the order in which their instances are launched: round-robin over the stacks (R40). -/
def trainOrder : List Nat := (List.range 32).flatMap (fun c => (List.range 12).map (fun st => 32 * st + c))

/-- The next instance to launch, and its fret: fewer than eight run, a service fret is idle, and no instance runs on the channel's stack. -/
def State.nextTrain (s : State) : Option (Nat × Nat) :=
  if 8 ≤ s.mem.train.length then none
  else
    match (List.range 8).find? (fun pf => decide ((s.fret pf).st = .service) && (s.fret pf).owner.isNone),
        s.mem.trainLeft.find? (fun ch => !s.mem.train.any (fun t => t.ch / 32 = ch / 32)) with
    | some pf, some ch => some (ch, pf)
    | _, _ => none

/-- Instances launched while there is room, at most n of them. -/
def State.launchTrains : Nat → State → State
  | 0, s => s
  | n + 1, s => match s.nextTrain with
    | some (ch, pf) => State.launchTrains n (s.launchTrain ch pf)
    | none => s

/-- Hub firmware at work in phase 4 (R40): instances that have ended are noted, and the next are launched. -/
def State.goTrain (s : State) : State :=
  let runs := fun (r : Train) => ((s.task? r.task).map (fun t => t.st.live)).getD false
  State.launchTrains 8 { s with mem := { s.mem with train := s.mem.train.filter runs } }

/-- The training of all channels begun. -/
def State.beginTraining (s : State) : State := State.launchTrains 8 { s with mem := { s.mem with train := [], trainLeft := trainOrder } }

/-! ### `FRETWAIT_SERVICE` (R79, R84, R93) -/

/-- The frets of its mapping given to a task, and no others: it is in LOADING, its placements mapped. -/
def State.giveFrets (s : State) (t : Task) (m : List (List (Nat × Nat))) : State :=
  let drop := fun (r : Nat × Fret) =>
    if r.2.st = .reserved t.num then (r.1, { r.2 with st := FretSt.free })
    else if r.2.promised = some t.num then (r.1, { r.2 with promised := none }) else r
  let s := { s with fab := { s.fab with frets := s.fab.frets.map drop } }
  let s := if t.image.isNone then s.clearCounters t.num else s
  let idx := fun (k : Nat) => ((t.image.bind (fun g => g.placements[k]?)).map Placement.idx).getD k
  ((s.toState t.num .loading).mapPlacements t ((m.zipIdx).map (fun q => (idx q.2, q.1)))).modTask t.num (fun t => { t with nextPl := t.need / t.nf })

/-- `FRETWAIT_SERVICE` (R79, R93): the head of FRETWAIT is given its frets where they can be mapped; otherwise it keeps what there is,
and pre-emption is decided for it. -/
def execFretwaitService (s : State) : Out :=
  match s.fretwaitHead with
  | none => .refused (.notEnabled "FRETWAIT_SERVICE")
  | some t =>
    let s := s.takeCap t.fn
    match s.mapTask t (s.freeFor t.num) [] with
    | some m => .next (s.giveFrets t m)
    | none => .next ((s.preempt t).reserveFree t)

/-! ### `FRET_LOAD` (R84, R86, R262) -/

/-- Level barriers given their expected counts (R75). -/
def State.setLevels (s : State) (t : Task) : State :=
  (t.levelExpects.zipIdx).foldl (fun s q => s.setBarrier t.num 0 q.2 { s.barrier t.num 0 q.2 with expect := q.1 }) s

/-- A configuration rejected at load (R86, R263): every fret of the task enters SCRUB with its cached record cleared, where no token reaches it any
more, and the task ends as REJECTED with reason CFG. The die that the rejection is on is that of the first fret in LOAD (log entry 90). -/
def State.rejectConfig (s : State) (t : Task) (e : ImgErr) : State :=
  let addr := t.image_ + e.2
  let frets := s.fretsOf t.num
  let die := dieOf (clusterOf ((frets.find? (fun pf => decide ((s.fret pf).st = .load))).getD 0))
  let clear := fun (s : State) (pf : Nat) => s.modFret pf (fun f => { f.release (s.heir t.num) with cfg := none })
  let s := (frets.foldl clear s).freezeTask t.num
  let s := { s with fab := { s.fab with net := s.fab.net.filter (fun x => x.task ≠ t.num) } }
  (s.noteCfgErr t die e.1 addr).decideEnd t.num .rejected 9 addr

/-- A task with a fret in LOAD, or an image found bad. -/
def State.mustLoad (s : State) (t : Task) : Bool := t.loadErr.isSome || (s.fretsOf t.num).any (fun pf => decide ((s.fret pf).st = .load))

/-- The frets of a task that are in LOAD have received their configuration frets. -/
def State.loadFrets (s : State) (t : Task) : State :=
  (s.placementsOf t.num).foldl (fun s p => p.map.foldl (fun s r => s.modFret r.2 (fun f => f.loaded t r.1)) s) s

/-- `FRET_LOAD` (R84, R86): task `subject` has its configuration on its frets, and from LOADING it is RUNNING; a resumed task waits for its image
(R99). A bad image rejects it. -/
def execFretLoad (s : State) : Out :=
  match s.task? s.subject with
  | none => .refused (.notEnabled "FRET_LOAD")
  | some t =>
    let first := t.st = .loading && t.image.isNone && !(s.placementsOf t.num).isEmpty
    let more := (t.st = .loading || t.st = .running || t.st = .held) && s.mustLoad t
    event "FRET_LOAD" (!t.ending && (first || more))
      (match t.loadErr with
      | some e => s.rejectConfig t e
      | none => if first then ((s.loadFrets t).setLevels t).startRunning t.num else s.loadFrets t)

/-! ### Growth (R88) -/

/-- The lowest placement index that a task has free. -/
def State.freeIdx (s : State) (task : Nat) : Nat :=
  ((List.range 64).find? (fun i => (s.placement? task i).isNone)).getD 0

/-- A further placement's mapping, from frets reserved for no one. -/
def State.mapGrowth (s : State) (t : Task) : Option (List (Nat × Nat)) :=
  let free := ((List.range 4088).map (· + 8)).filter (fun pf => decide ((s.fret pf).st = .free))
  if t.fn ≠ 0 && s.vfFrets t.fn < s.fretsHeld t.fn [] + t.nf then none
  else ((s.mapMany (s.wish t []) t.nf free 1).bind List.head?)

/-- `PLACEMENT_GROWTH` (R88): task `subject`, which has items left, gains a placement, whose frets are then loaded. A drained victim gains none
(R96). -/
def execPlacementGrowth (s : State) : Out :=
  match s.task? s.subject with
  | none => .refused (.notEnabled "PLACEMENT_GROWTH")
  | some t =>
    if t.issues && t.victim.isNone && t.loadErr.isNone && (s.placementsOf t.num).length < t.fld 34 2 then
      let s := s.takeCap t.fn
      match s.mapGrowth t with
      | none => .refused (.notEnabled "PLACEMENT_GROWTH")
      | some m => .next (s.mapPlacements { t with image := none } [(s.freeIdx t.num, m)])
    else .refused (.notEnabled "PLACEMENT_GROWTH")

/-! ### Release (R88) -/

/-- Whether a placement other than placement 0 has nothing left to do. -/
def State.releasable (s : State) (t : Task) (p : Placement) : Bool :=
  p.idx ≠ 0 && t.st = .running && !t.ending && !t.freezing && t.workCnt ≤ t.nextItem && p.poolFull && p.spawns.isEmpty && p.moving.isEmpty
    && s.queueDone p && !p.queue.any (fun o => isEngine o.instr)
    && !s.eng.cmds.any (fun c => c.op.task = p.task && c.op.pl = p.idx)
    && !(s.mem.reqs.any (fun r => r.op.task = p.task && r.op.pl = p.idx))
    && !(s.mem.txns.any (fun x => x.req.op.task = p.task && x.req.op.pl = p.idx))

/-- `PLACEMENT_RELEASE` (R88, R237): a placement whose threads have ended, with no items left, is released. -/
def execPlacementRelease (task pl : Nat) (s : State) : Out :=
  match s.task? task, s.placement? task pl with
  | some t, some p =>
    event "PLACEMENT_RELEASE" (s.releasable t p) ((s.endInterval p true).releasePlacement p)
  | _, _ => .refused (.notEnabled "PLACEMENT_RELEASE")

/-! ### Scrub (R85, R94) -/

/-- The L1 lines in a fret's two ways. -/
def Mem.waysOf (m : Mem) (pf : Nat) : List L1Line := m.l1.filter (fun x => x.cluster = clusterOf pf && x.way / 2 = pf % 8)

/-- A fret's L1 ways emptied, dirty lines written back (R85, R89). -/
def State.flushWays (s : State) (pf : Nat) : State := (s.mem.waysOf pf).foldl State.evictL1 s

/-- A fret after its scrub: slots and cached record stay. -/
def Fret.scrubbed (f : Fret) (st : FretSt) : Fret :=
  { f with st := st, owner := none, elems := [], scratch := [], bars := [], promised := none }

/-- What a scrubbed fret becomes: reserved for the task that it is promised to, or FREE; in the service cluster SERVICE. -/
def State.afterScrub (s : State) (pf : Nat) (f : Fret) : FretSt :=
  if pf < 8 then .service
  else match f.promised with
  | none => .free
  | some n => match s.task? n with
    | some t => if t.st = .fretwait && !t.ending then .reserved n else .free
    | none => .free

/-- `FRET_SCRUB_COMPLETE` (R85): the scrub of fret `subject` ends. -/
def execFretScrubComplete (s : State) : Out :=
  let f := s.fret s.subject
  event "FRET_SCRUB_COMPLETE" (f.st = .scrub && f.window.isNone)
    ((s.flushWays s.subject).modFret s.subject (fun f => f.scrubbed (s.afterScrub s.subject f)))

/-! ### Moves (R89, R90) -/

/-- The config-local fret that a physical fret holds in a placement. -/
def Placement.fretAt (p : Placement) (pf : Nat) : Option Nat := (p.map.find? (fun r => r.2 = pf)).map Prod.fst

/-- Frets of a placement that move with a fret (R147): with engine frets and tiles of its cluster, all of them. -/
def State.moveGroup (s : State) (p : Placement) (src : Nat) : List Nat :=
  let tied := fun (pf : Nat) => (s.fret pf).hasEngine || !(s.tilesOf pf).isEmpty
  if tied src then
    src :: ((p.map.map Prod.snd).filter (fun pf => pf ≠ src && clusterOf pf = clusterOf src && tied pf))
  else [src]

/-- FREE frets of a cluster, the named one first. -/
def State.freeIn (s : State) (dst : Nat) : List Nat :=
  let c := clusterOf dst
  dst :: (((List.range 8).map (· + 8 * c)).filter (fun pf => pf ≠ dst && decide ((s.fret pf).st = .free)))

/-- The pairs of a move. -/
def State.movePairs (s : State) (p : Placement) (src dst : Nat) : List (Nat × Nat) := (s.moveGroup p src).zip (s.freeIn dst)

/-- The map of a placement with some frets moved. -/
def moved (pairs : List (Nat × Nat)) (m : Tab Nat) : Tab Nat :=
  m.map (fun r => match pairs.find? (fun q => q.1 = r.2) with
    | some q => (r.1, q.2)
    | none => r)

def Placement.span (p : Placement) : Nat := p.clusters.length

/-- R90, R95: a move that reduces a placement's span, empties a cluster of live frets, or ends an engine grant. -/
def State.worthMoving (s : State) (p : Placement) (pairs : List (Nat × Nat)) : Bool :=
  let srcs := pairs.map Prod.fst
  let c := clusterOf (srcs.headD 0)
  ({ p with map := moved pairs p.map } : Placement).span < p.span
    || !s.fab.frets.any (fun r => clusterOf r.1 = c && r.2.st = .live && !srcs.contains r.1)
    || (nsHas p.grants c && !p.map.any (fun r => clusterOf r.2 = c && !srcs.contains r.2 && (s.fret r.2).hasEngine))

/-- Whether a move may start (R89, R90, R136, R139, R246). One that takes an engine grant starts while the engines are idle, and none of their
commands is accepted until it is over. -/
def State.mayMove (s : State) (t : Task) (p : Placement) (src dst : Nat) : Bool :=
  let pairs := s.movePairs p src dst
  let w := s.wish t []
  let c := clusterOf dst
  let others := (s.fab.placements.map Prod.snd).filter (fun q => !(q.task = p.task && q.idx = p.idx))
  let busyDie := fun (pf : Nat) => s.fab.moves.any (fun m => m.pairs.any (fun q => dieOf (clusterOf q.1) = dieOf (clusterOf pf)))
  t.st = .running && !t.ending && !t.freezing && !s.tasks.any (fun x => decide (x.st = .fretwait))
    && (s.fret src).st = .live && (s.fret dst).st = .free && 8 ≤ dst && clusterOf src ≠ c
    && pairs.length = (s.moveGroup p src).length && !pairs.any (fun q => (s.fret q.1).window.isSome) && !busyDie src && !busyDie dst
    && !nsHas w.closed c && s.worthMoving p pairs && !s.fab.recfgs.any (fun r => r.task = t.num)
    && (!pairs.any (fun q => (s.fret q.1).hasEngine) || !others.any (fun q => nsHas q.grants c))
    && (!s.movesEngine pairs || !s.eng.cmds.any (fun x => x.op.task = p.task && x.op.pl = p.idx && x.cluster = clusterOf src))

/-- The frets of a move marked under a move in the map. The cluster that an engine fret goes to is granted from here on (R136). -/
def State.markMoving (s : State) (p : Placement) (pairs : List (Nat × Nat)) : Placement :=
  { p with
    moving := (pairs.filterMap (fun q => p.fretAt q.1)).foldl nsAdd p.moving
    grants := (pairs.filter (fun q => (s.fret q.1).hasEngine)).foldl (fun u q => nsAdd u (clusterOf q.2)) p.grants }

/-- Whether two virtual elements of a fret may change places (R89, R90; when the Farrier does so is open, log entry 77). -/
def State.mayMoveElem (s : State) (t : Task) (src : Nat) (e : Nat × Nat) : Bool :=
  let busyDie := s.fab.moves.any (fun m => m.pairs.any (fun q => dieOf (clusterOf q.1) = dieOf (clusterOf src)))
  t.st = .running && !t.ending && !t.freezing && !s.tasks.any (fun x => decide (x.st = .fretwait)) && (s.fret src).st = .live
    && (s.fret src).window.isNone && !busyDie && !s.fab.recfgs.any (fun r => r.task = t.num) && e.1 < 8 && e.2 < 8

/-- A move begun (R89, steps 1 to 4): senders hold tokens for the frets, which stop firing. -/
def State.beginMove (s : State) (p : Placement) (pairs : List (Nat × Nat)) (elem : Option (Nat × Nat)) : State :=
  let s := s.setPlacement (s.markMoving p pairs)
  let put := fun (f : Fret) => ({ f with st := FretSt.move } : Fret)
  let s := pairs.foldl (fun s q => (s.modFret q.1 put).modFret q.2 put) s
  { s with fab := { s.fab with moves := s.fab.moves ++ [⟨p.task, p.idx, pairs, elem, s.clock.ns⟩] } }

/-- `FRET_MOVE` (R89, steps 1 to 4): a fret moves to another; or two virtual elements of it change places. -/
def execFretMove (src : Nat) (goal : MoveGoal) (s : State) : Out :=
  match (s.fret src).owner with
  | none => .refused (.notEnabled "FRET_MOVE")
  | some (key, _) =>
    match s.task? (key / 64), s.placement? (key / 64) (key % 64) with
    | some t, some p =>
      match goal with
      | .fret dst => event "FRET_MOVE" (s.mayMove t p src dst) (s.beginMove p (s.movePairs p src dst) none)
      | .elements a b => event "FRET_MOVE" (s.mayMoveElem t src (a, b)) (s.beginMove p [(src, src)] (some (a, b)))
    | _, _ => .refused (.notEnabled "FRET_MOVE")

/-- Whether a fret's drain tokens have all arrived (R89, step 4), with the tokens sent to it before its map entry was marked. -/
def State.drainedFret (s : State) (pf : Nat) : Bool :=
  let hit := fun (op : WobOp) => s.homePfOf op = pf
  !(s.mem.reqs.any (fun r => hit r.op) || s.mem.txns.any (fun t => hit t.req.op) || s.mem.replies.any (fun r => hit r.op)
    || s.mem.acks.any (fun a => hit a.op) || s.fab.net.any (fun t => t.pf = pf))

/-- The physical element of a virtual one in a fret with a remap (R87). -/
def seatOf (remap : List Nat) (v : Nat) : Nat := remap.getD v v

/-- Elements of a fret, by virtual number, from one remap to another. -/
def reseat (old new : Nat → Nat) (elems : Tab Elem) : Tab Elem :=
  (List.range 8).foldl (fun t v => match tget elems (old v) with
    | some e => tput t (new v) e
    | none => t) []

/-- A fret's contents copied under their edge names (R89, step 6), with the source's generation. -/
def Fret.copyTo (a b : Fret) : Fret :=
  { a with st := .live, window := b.window, promised := b.promised, remap := b.remap, elems := reseat (seatOf a.remap) (seatOf b.remap) a.elems }

/-- A fret's remap with two virtual elements' places exchanged. -/
def swapElems (remap : List Nat) (e : Nat × Nat) : List Nat :=
  (List.range 8).map (fun v => seatOf remap (if v = e.1 then e.2 else if v = e.2 then e.1 else v))

/-- Tiles and accumulators that move with an engine's grant to another cluster (R136, R147). -/
def State.moveEngine (s : State) (p : Placement) (pairs : List (Nat × Nat)) (c c' : Nat) : State :=
  let base := plKey p.task p.idx * 512
  let retile := fun (ts : Tab Tile) (r : Nat × Tile) =>
    if r.1 / 256 = base + c then
      let pf := ((pairs.find? (fun q => q.1 = r.2.pf)).map Prod.snd).getD r.2.pf
      tput (tdel ts r.1) ((base + c') * 256 + r.1 % 256) { r.2 with pf := pf }
    else ts
  let accs := (List.range 4).foldl (fun t k => match tget t (4 * c + k) with
    | some a => tput (tdel t (4 * c + k)) (4 * c' + k) a
    | none => t) s.eng.accs
  { s with eng := { s.eng with tiles := s.eng.tiles.foldl retile s.eng.tiles, accs := accs } }

/-- A token that was held at its sender sent on, to where its fret is by now (R89, step 7; R230); one for a fret under a move is held again. -/
def State.releaseHeld (s : State) (p : Placement) (t : NetTok) : State :=
  let pf := p.physFret t.fret
  let n := { t with
    pf := pf, pelem := p.physElem t.fret t.velem, gen := p.genAt t.fret t.src s.clock.cycle, earliest := s.clock.cycle + 1 + routeLat t.src (clusterOf pf) }
  if nsHas p.moving t.fret then s.modPlacement p.task p.idx (fun p => { p with heldToks := p.heldToks ++ [n] })
  else s.netSend n

/-- The tokens that a debugger's step held sent on (R230, R284). -/
def State.sendStepped (s : State) : State :=
  let toks := s.obs.dbg.heldToks
  let s := { s with obs := { s.obs with dbg := { s.obs.dbg with heldToks := [] } } }
  toks.foldl (fun s t => match s.placement? t.task t.pl with
    | none => s
    | some p => s.releaseHeld p t) s

/-- The grants of a placement as its map now stands (R136). -/
def State.grantsNow (s : State) (p : Placement) : NSet :=
  p.map.foldl (fun u r => if (s.fret r.2).hasEngine then nsAdd u (clusterOf r.2) else u) []

/-- The frets of a move carried over: contents copied, the sources released, engines moved (R89, steps 5, 6 and 8). -/
def State.moveFrets (s : State) (p : Placement) (m : Move) : State :=
  let c := clusterOf ((m.pairs.map Prod.fst).headD 0)
  let c' := clusterOf ((m.pairs.map Prod.snd).headD 0)
  let engine := s.movesEngine m.pairs
  let s := m.pairs.foldl (fun s q => s.flushWays q.1) s
  let s := m.pairs.foldl (fun s q => s.setFret q.2 ((s.fret q.1).copyTo (s.fret q.2))) s
  let s := m.pairs.foldl (fun s q => s.modFret q.1 (fun f => { f.release none with window := none })) s
  if engine then s.moveEngine p m.pairs c c' else s

/-- The fret of an element's move: its ways flushed, and the contents of the two elements exchanged with their places. -/
def State.moveElem (s : State) (pf : Nat) (e : Nat × Nat) : State :=
  (s.flushWays pf).modFret pf (fun f =>
    let r := swapElems f.remap e
    { f with st := .live, remap := r, elems := reseat (seatOf f.remap) (seatOf r) f.elems })

/-- The remaps of a placement as its frets now have them. -/
def State.remapsOf (s : State) (p : Placement) : Tab (List Nat) :=
  (p.map.filter (fun r => !(s.fret r.2).remap.isEmpty)).map (fun r => (r.1, (s.fret r.2).remap))

/-- A move carried out (R89, steps 5 to 8). -/
def State.finishMove (s : State) (p : Placement) (m : Move) : State :=
  let s := match m.elem with
    | none => (s.moveFrets p m).settleAll
    | some e => s.moveElem ((m.pairs.map Prod.fst).headD 0) e
  let fs := m.pairs.filterMap (fun q => p.fretAt q.1)
  let mine := p.heldToks.filter (fun t => fs.contains t.fret)
  let p := { p with
    map := if m.elem.isSome then p.map else moved m.pairs p.map
    moving := fs.foldl nsDel p.moving
    heldToks := p.heldToks.filter (fun t => !fs.contains t.fret) }
  let p := { p with grants := s.grantsNow p, remap := s.remapsOf p }
  let s := { s.setPlacement p with fab := { (s.setPlacement p).fab with moves := s.fab.moves.filter (fun (x : Move) => decide (x ≠ m)) } }
  mine.foldl (fun s t => s.releaseHeld p t) s

/-- Whether a move may be carried out: its task runs (R90), its drain tokens have arrived and, for an engine fret, the engines are idle (R136). -/
def State.moveReady (s : State) (m : Move) : Bool :=
  let c := clusterOf ((m.pairs.map Prod.fst).headD 0)
  let idle := !s.eng.cmds.any (fun x => x.op.task = m.task && x.op.pl = m.pl && x.cluster = c)
  (s.task? m.task).any (fun t => t.st = .running && !t.ending) && m.pairs.all (fun q => s.drainedFret q.1) && (!s.movesEngine m.pairs || idle)

/-- `FRET_MOVE_COMPLETE` (R89): the move of source fret `subject` is carried out. -/
def execFretMoveComplete (s : State) : Out :=
  match s.fab.moves.find? (fun m => m.pairs.any (fun q => q.1 = s.subject)) with
  | none => .refused (.notEnabled "FRET_MOVE_COMPLETE")
  | some m =>
    match s.placement? m.task m.pl with
    | none => .refused (.notEnabled "FRET_MOVE_COMPLETE")
    | some p => event "FRET_MOVE_COMPLETE" (s.moveReady m) (s.finishMove p m)

/-! ### `DRAIN_VICTIM_EXPIRY` (R96) -/

/-- A drain ordered 80 µs ago whose victim has not ended: task `subject` is no longer marked. -/
def execDrainVictimExpiry (s : State) : Out :=
  match s.task? s.subject with
  | none => .refused (.notEnabled "DRAIN_VICTIM_EXPIRY")
  | some t =>
    match t.victim with
    | none => .refused (.notEnabled "DRAIN_VICTIM_EXPIRY")
    | some v =>
      event "DRAIN_VICTIM_EXPIRY" (v.action = .drain && t.st.live && !t.ending && v.since + 80000 ≤ s.clock.ns)
        (s.modTask t.num (fun t => { t with victim := none, slow := true }))

end Sys2Proof.Machine
end

