-- ==== Sys2Proof/Machine/Ending.lean ====
section
/-!
DEFINITION. Machine/Ending.lean: the end of a task (R64, R122): what it leaves, its completion record, line and interrupt (R63), the end
of a measured pass (R242 to R245), and the result of a paired run (R248).
-/
namespace Sys2Proof.Machine

/-! ### `TASK_DONE` (R122) -/

/-- Whether every item has been issued, every tag pool is full, and no engine command or fabric operation is outstanding. -/
def State.allDone (s : State) (t : Task) : Bool :=
  let ps := s.placementsOf t.num
  t.workCnt ≤ t.nextItem && !ps.isEmpty && ps.all Placement.poolFull && (s.cmdsOf t.num).isEmpty
    && !ps.any (fun p => p.queue.any (fun o => isEngine o.instr))

/-- `TASK_DONE` (R122, R102): task `subject` has nothing left to do; its end as DONE is decided. -/
def execTaskDone (s : State) : Out :=
  match s.task? s.subject with
  | none => .refused (.notEnabled "TASK_DONE")
  | some t =>
    event "TASK_DONE" ((t.st = .running || t.st = .saving) && !t.ending && !t.freezing && t.reports.isEmpty && s.allDone t)
      ((s.freezeTask t.num).decideEnd t.num .done 0 0)

/-! ### What a task leaves (R122, R149, R166, R219, R237) -/

/-- Whether an accepted command waits for a tile that may never be filled, or stands behind one that does (R140). -/
def State.cmdStuck (s : State) (c : Cmd) : Bool :=
  !c.running && (s.eng.cmds.takeWhile (fun x => x.op.seq ≠ c.op.seq) ++ [c]).any (fun x => x.unit = c.unit && !x.running && s.tileWaits x)

/-- What the engines and the fabric engine hold of a task dropped; its near-memory commands run on for no task (R43, R100). -/
def State.dropCmds (s : State) (task : Nat) : State :=
  let lose := fun (c : Cmd) => if c.op.task = task then { c with op := { c.op with task := 0 } } else c
  { s with eng := { s.eng with
      cmds := (s.eng.cmds.filter (fun c => c.op.task ≠ task || isNmc c.op.instr)).map lose
      colls := s.eng.colls.filter (fun g => g.op.task ≠ task)
      remote := s.eng.remote.filter (fun r => r.op.task ≠ task) } }

/-- The task's counted lines, tiles, intervals and frets settled, and its flags gathered. A killed task discards its counted lines and
reports no flags (R100, R219). -/
def State.closeTask (s : State) (t : Task) : State :=
  let killed : Bool := t.status = .killed
  let tiles := !killed && s.tileUnderread t.num
  let (s, lines) := if killed then (s.discardCounted t.num, false) else s.releaseCounted t.num
  let s := (s.placementsOf t.num).foldl (fun s p => s.endInterval p (!killed)) s
  let s := (s.dropCmds t.num).releaseAll t.num
  let under := Flags.when (tiles || lines) Flags.UNDERREAD
  s.modTask t.num (fun t => { t with flags := if killed then Flags.none else t.flags.or under, endT := s.clock.ptpNs, quota := false })

/-! ### Completion (R63, R64) -/

/-- Bytes for a place: kept in the holding area where they are bound for a host that cannot be reached (R44, R69). -/
def State.putRecord (s : State) (fn pa : Nat) (bs : List Byte) : State :=
  if isHost pa && s.board.hostLoss then { s with host := { s.host with held := s.host.held ++ [.bytes fn pa bs] } }
  else s.writeBytes fn pa bs

/-- The atomic maximum of R64 at a line's home. -/
def State.maxWord (s : State) (fn pa : Nat) (v : Word) : State := s.writeBytes fn pa (leBytes 8 (max (s.readNat pa 8) v.toNat))

/-- A completion line updated (R64). -/
def State.putLine (s : State) (fn pa : Nat) (v : Word) : State :=
  if isHost pa && s.board.hostLoss then
    let h := if s.usesHlc fn then Held.maxLine fn pa v else Held.bytes fn pa (leBytes 8 v.toNat)
    { s with host := { s.host with held := s.host.held ++ [h] } }
  else if isHost pa && !s.usesHlc fn then s.writeBytes fn pa (leBytes 8 v.toNat)
  else s.maxWord fn pa v

/-- Where a task's completion record goes: a 64-byte-aligned place that can be written (R61, R73). -/
def State.crecAt (s : State) (t : Task) : Option Nat :=
  if t.crecVa % 64 ≠ 0 || t.pair = some .b then none
  else match s.physOf t.space t.crecVa with
    | some (pa, true) => some pa
    | _ => none

/-- Where its completion line lies; none is `NOLINE` (R64). -/
def State.clineAt (s : State) (t : Task) : Option Nat :=
  let a := t.fld 64 8 % 2 ^ 52
  if t.noLine || a % 8 ≠ 0 then none
  else match s.physOf t.space a with
    | some (pa, true) => some pa
    | _ => none

def TStatus.code : TStatus → Nat
  | .done => 0
  | .fault => 1
  | .killed => 2
  | .rejected => 3

/-- `FCODE` of an end. -/
def Task.fcode (t : Task) : Nat := if t.status = .fault then (t.fault.map (fun f => f.code.num)).getD 0 else 0

/-- The completion record of a task (R63). -/
def Task.record (t : Task) (noLine : Bool) : List Byte :=
  let f : Bool := t.status = .fault
  let keep := fun (n : Nat) => if f then n else 0
  leBytes 8 t.rtag.toNat ++ leBytes 1 t.status.code ++ leBytes 1 t.fcode
    ++ leBytes 1 (if f || t.status = .rejected then t.reason else 0) ++ leBytes 1 0
    ++ leBytes 2 (t.flags.word.toNat + 2 ^ 9 * noLine.toNat) ++ leBytes 2 (min 0xFFFF t.nsave)
    ++ leBytes 8 t.start ++ leBytes 8 t.endT ++ leBytes 8 (if f || t.status = .rejected then t.faddr else 0)
    ++ leBytes 8 (keep ((t.fault.map (fun x => x.work.toNat)).getD 0)) ++ leBytes 8 (keep t.frec) ++ leBytes 8 0

/-- Steps 2 to 4 of R64. Copy B of a paired run makes none of them (R246). -/
def State.complete (s : State) (t : Task) : State :=
  if t.pair = some .b then s
  else
    let line := s.clineAt t
    let s := match s.crecAt t with
      | some pa => s.putRecord t.fn pa (t.record line.isNone)
      | none => s
    let s := match line with
      | some pa => s.putLine t.fn pa t.cval
      | none => s
    if t.intr then s.raiseVec t.fn t.vec else s

/-- Whether the lines that a completion writes are at rest, and, while the host is unreachable, the holding area has places (R44). A
completion record, a host-tier completion line and an interrupt take one place each (log entry 82). -/
def State.mayComplete (s : State) (t : Task) : Bool :=
  let at_ := (s.crecAt t).toList ++ (s.clineAt t).toList
  let held := at_.filter isHost
  at_.all (fun pa => s.mem.quiet (pa / 128) || (isHost pa && s.board.hostLoss))
    && (!s.board.hostLoss || s.host.held.length + held.length + t.intr.toNat ≤ 65536)

/-! ### Measured passes (R242 to R245) -/

/-- A pass's entry (R242). -/
def Meas.entry (g : Meas) (t : Task) (now : Nat) : List Byte :=
  (g.sums ++ g.cyc).flatMap (leBytes 8) ++ leBytes 8 g.hash.toNat ++ leBytes 8 t.start ++ leBytes 8 now ++ leBytes 2 g.missing.length ++ leBytes 30 0

/-- A pass's path hash compared with the first pass's. -/
def Meas.compare (g : Meas) : Meas :=
  if g.pass = 1 then { g with hash1 := g.hash }
  else if g.hash = g.hash1 then g else { g with misbits := g.misbits + 2 ^ (g.pass - 2) }

/-- Whether a further pass runs after this one. -/
def Meas.goesOn (g : Meas) (t : Task) : Bool :=
  t.status = .done && g.pass < g.npass && !g.snapFull && !t.orderKill && !(g.stopmis && g.misbits ≠ 0)

/-- `STATUS` of the result (R242, R245). -/
def Meas.status (g : Meas) (t : Task) : Nat :=
  match t.status with
  | .fault => 2
  | .killed => 5
  | .rejected => 6
  | .done => if g.snapFull then 1 else if g.stopmis && g.misbits ≠ 0 && g.pass < g.npass then 4 else 0

/-- Pages of device memory that a task leases. -/
def State.leasedPages (s : State) (t : Task) : NSet :=
  (t.pages.filterMap (fun va => s.physOf t.space va)).foldl (fun u q => nsAdd u (q.1 / 4096)) []

/-- Nothing is under way for the lines of some pages. -/
def Mem.pagesQuiet (m : Mem) (pages : NSet) : Bool :=
  let mine := fun (line : Nat) => nsHas pages (line / 32)
  !m.txns.any (fun t => mine t.line) && !m.reqs.any (fun r => mine r.line)
    && !m.replies.any (fun r => match r.install with | some (l, _, _) => mine l | none => false)
    && !m.acks.any (fun a => mine a.line && a.install.isSome)
    && !m.msgs.any (fun x => match x with
      | .inval _ l _ | .forward _ l _ | .recall _ l _ | .ack _ l _ _ | .evict l _ | .writeBack l _ _ => mine l)

/-- R244, step 2: lines of some pages leave the L1s, the L2 and the memory-side caches, dirty ones written back; counted lines of other
tasks stay. -/
def Mem.emptyPages (m : Mem) (pages : NSet) : Mem :=
  let mine := fun (line : Nat) => nsHas pages (line / 32)
  let m := ((m.l2.filter (fun r => mine r.1 && r.2.count = 0)).map Prod.fst).foldl Mem.evictL2 m
  let m := ((m.msc.filter (fun r => mine r.1)).map Prod.fst).foldl Mem.mscFlush m
  { m with l1 := m.l1.filter (fun x => !mine x.line) }

/-- R244, step 3: snapshotted pages copied back at their homes. -/
def State.restorePages (s : State) (g : Meas) : State :=
  g.pages.foldl (fun s q => s.writeBytes 0 (4096 * q.1) (s.readBytes q.2 4096)) s

/-- The measured task as its next pass begins, in CHECK (R244). -/
def Task.again (t : Task) (ns : Nat) : Task :=
  { newTask t.num t.fn t.asid t.hdr t.rtag t.cval t.intr t.vec t.child t.prio t.accept ns with
    tokens := t.tokens, pair := t.pair, meas := true, learned := t.learned }

/-- The next pass of a measured task (R244). -/
def State.nextPass (s : State) (t : Task) (g : Meas) : State :=
  let pages := s.leasedPages t
  let s := if g.creset then
      { s with mem := (s.mem.emptyPages pages).tlbDrop (fun x => x = t.space) 0 (2 ^ 52) }
    else s
  let s := if g.restore then s.restorePages g else s
  let next := { g with pass := g.pass + 1, hash := 0, sums := [0, 0, 0, 0], cyc := [0, 0, 0, 0, 0], missing := [] }
  let put := fun (x : Meas) => if x.task = t.num then next else x
  { s with obs := { s.obs with meas := s.obs.meas.map put } }.runCheck (t.again s.clock.ns)

/-- The result of a measured launch (R242): header and snapshot index; its counters are returned (R241). -/
def State.measResult (s : State) (t : Task) (g : Meas) : State :=
  let ran := if t.status = .rejected then g.pass - 1 else g.pass
  let s := s.writeMeasHeader g (g.status t) ran
  let s := s.writeBytes 0 (g.res + 64 + 128 * g.npass) (g.pages.flatMap (fun q => leBytes 8 (4096 * q.1)))
  let s := s.dropSelections t.num
  { s with obs := { s.obs with meas := s.obs.meas.filter (fun x => x.task ≠ t.num) } }

/-- The measured launch of a task that it runs under. -/
def State.measOn (s : State) (task : Nat) : Option Meas := s.obs.meas.find? (fun g => g.task = task && !g.refused)

/-- Whether what a measured end touches is at rest. -/
def State.measQuiet (s : State) (t : Task) : Bool :=
  match s.measOn t.num with
  | none => true
  | some g => s.mem.pagesQuiet (g.pages.foldl (fun u q => nsAdd u q.1) (s.leasedPages t))
      && s.rangeQuiet g.res (64 + 128 * g.npass + 8 * g.pages.length)

/-! ### Paired runs (R248) -/

/-- The first key that differs, in the order of copy A, with both hashes. -/
def Pair.differing (g : Pair) : Option (Word × Word × Word × Word) :=
  let at_ := fun (ks : List (Word × Word × Word)) (k : Word × Word × Word) => ks.find? (fun x => x.1 = k.1 && x.2.1 = k.2.1)
  match g.keysA.find? (fun k => (at_ g.keysB k).map (fun x => x.2.2) ≠ some k.2.2) with
  | some k => some (k.1, k.2.1, k.2.2, ((at_ g.keysB k).map (fun x => x.2.2)).getD 0)
  | none => (g.keysB.find? (fun k => (at_ g.keysA k).isNone)).map (fun k => (k.1, k.2.1, 0, k.2.2))

/-- Keys that both copies hold. -/
def Pair.compared (g : Pair) : Nat := (g.keysA.filter (fun k => g.keysB.any (fun x => x.1 = k.1 && x.2.1 = k.2.1))).length

/-- The result record (R248). -/
def Pair.record (g : Pair) : List Byte :=
  let d := g.differing
  let status := if g.overflow then 2 else if g.endA ≠ g.endB then 3 else if d.isSome then 1 else 0
  let (w, o, a, b) := if status = 1 then d.getD (0, 0, 0, 0) else (0, 0, 0, 0)
  leBytes 8 g.rtag.toNat ++ leBytes 1 status ++ leBytes 7 0 ++ leBytes 8 w.toNat ++ leBytes 8 o.toNat ++ leBytes 8 a.toNat ++ leBytes 8 b.toNat
    ++ leBytes 8 g.compared ++ leBytes 8 0

/-- The hashes of a copy's threads whose writes ended after them added to their keys. -/
def Pair.settle (g : Pair) (task : Nat) : Pair :=
  if g.overflow then g
  else (g.late.filter (fun x => x.1 = task)).foldl (fun g x =>
    if task = g.taskA then { g with keysA := addKey g.keysA x.2.work x.2.ordinal x.2.hash }
    else { g with keysB := addKey g.keysB x.2.work x.2.ordinal x.2.hash }) g

/-- A copy's end noted; once both have ended the result is written and `CNT` advanced. The result area is the physical function's (R246). -/
def State.notePair (s : State) (t : Task) : State :=
  let e := some (t.status, t.fcode)
  let put := fun (g : Pair) =>
    if g.taskA = t.num then { g.settle t.num with endA := e } else if g.taskB = t.num then { g.settle t.num with endB := e } else g
  let gs := s.obs.pairs.map put
  let (over_, open_) := gs.partition (fun g => g.endA.isSome && g.endB.isSome)
  let s := { s with obs := { s.obs with pairs := open_ } }
  over_.foldl (fun s g =>
    let cnt := (s.reg 0 0x3A0).toNat
    (s.writeFn 0 (bits (s.reg 0 0x398) 51 14 * 2 ^ 14 + 64 * (cnt % 256)) g.record).setReg 0 0x3A0 (BitVec.ofNat 64 (cnt + 1))) s

/-! ### Kills and the debugger -/

/-- A task that a host kill waited for has ended (R101): `DONESEQ`, `NKILL` and `BUSY` once none is left. -/
def State.noteKilled (s : State) (t : Task) : State :=
  match (s.hostFn t.fn).kill with
  | none => s
  | some k =>
    if !k.waiting.contains t.num then s
    else
      let k := { k with ended := k.ended + 1, waiting := k.waiting.filter (fun n => n ≠ t.num) }
      if k.waiting.isEmpty then
        (s.modFn t.fn (fun f => { f with kill := none })).setReg t.fn 0x2D0
          (BitVec.ofNat 64 (k.seq * 2 ^ 32 + 2 * min 0xFFFF k.ended))
      else s.modFn t.fn (fun f => { f with kill := some k })

/-- The attached task has ended (R227): `ARM`, `ATT`, `HELD` and `BUSY` clear. -/
def State.detach (s : State) (task : Nat) : State :=
  if s.obs.dbg.attached = some task then
    let s := s.setReg 0 0x308 (s.reg 0 0x308 &&& ~~~ (2 : Word))
    let s := s.setReg 0 0x318 (s.reg 0 0x318 &&& ~~~ (0xE : Word))
    { s with obs := { s.obs with dbg := Dbg.none } }
  else s

/-! ### `TASK_END` (R64) -/

/-- Whether everything of an ending task is performed (R64, step 1): a killed task's near-memory commands run on without it (R100), and
what a faulted task waits for without limit is given up. -/
def State.endable (s : State) (t : Task) : Bool :=
  t.ending && (s.placementsOf t.num).all s.queueDone && !s.inFlight t.num && s.measQuiet t
    && (s.cmdsOf t.num).all (fun c => (t.status = .killed && isNmc c.op.instr) || (t.status = .fault && s.cmdStuck c))

/-- The end of a task that does not run again: completion, and what waited for it. -/
def State.finishTask (s : State) (t : Task) : State :=
  let s := s.complete t
  let s := ((s.notePair t).gangFree t.num).detach t.num
  let s := s.noteKilled t
  let st := if t.status = .rejected then TState.rejected else .ended
  s.modTask t.num (fun t => { t with st := st, ending := false, image := none, loadErr := none, reports := [], victim := none, stateSince := s.clock.ns })

/-- A measured pass's entry written and its hash compared (R242, R243). -/
def State.closePass (s : State) (t : Task) (g : Meas) : State × Meas :=
  let g := if t.status = .rejected then g else g.compare
  let s := if t.status = .rejected then s else s.writeBytes 0 (g.res + 64 + 128 * (g.pass - 1)) (g.entry t s.clock.ptpNs)
  let put := fun (x : Meas) => if x.task = t.num then g else x
  ({ s with obs := { s.obs with meas := s.obs.meas.map put } }, g)

/-- The end of a task carried out: what it leaves settled, and its completion, or its next measured pass (R244). -/
def State.endTask (s : State) (t : Task) : State :=
  let s := s.closeTask t
  match s.task? t.num, s.measOn t.num with
  | some t, none => s.finishTask t
  | some t, some g =>
    let (s, g) := s.closePass t g
    if g.goesOn t then s.nextPass t g else (s.measResult t g).finishTask t
  | none, _ => s

/-- `TASK_END` (R64): the end of task `subject`, once decided, is carried out in the order of R64. -/
def execTaskEnd (s : State) : Out :=
  match s.task? s.subject with
  | none => .refused (.notEnabled "TASK_END")
  | some t => event "TASK_END" (s.endable t && s.mayComplete t) (s.endTask t)

end Sys2Proof.Machine
end

