-- ==== Sys2Proof/Machine/Save.lean ====
section
/-!
DEFINITION. Machine/Save.lean: the save image (R98), the checkpoint that writes it (R97, R102), and the resume from it (R99).
-/
namespace Sys2Proof.Machine

/-! ### What an image holds (R98) -/

def isPref : Instr → Bool
  | .pref _ => true
  | _ => false

def isWaitl : Instr → Bool
  | .waitl _ => true
  | _ => false

/-- An operation that its image re-issues at resume: a registered `waitl`, or an `ldc` that waits (R99, R102). -/
def reissued : Instr → Bool
  | .waitl _ | .ldc _ => true
  | _ => false

/-- A placement as its image holds it: outstanding `pref`s stand in the Pending section. -/
def Placement.forImage (p : Placement) : Placement :=
  let q := p.queue.filter (fun o => !(isPref o.instr && o.st = .issued))
  { p with queue := q.map (fun o => if reissued o.instr && o.st = .issued then { o with st := .committed } else o) }

/-- Outstanding `pref`s of a placement. -/
def Placement.prefs (p : Placement) : List WobOp := p.queue.filter (fun o => isPref o.instr && o.st = .issued)

/-- Tiles of a placement, each with the config-local fret that holds it. -/
def State.tilesIn (s : State) (p : Placement) : List (Nat × Nat × Nat × Tile) :=
  (s.eng.tiles.filter (fun r => r.1 / (512 * 256) = plKey p.task p.idx)).map (fun r =>
    (p.idx, (p.fretAt r.2.pf).getD 0, r.1 % 256, r.2))

/-- The config-local engine fret that stands for a granted cluster. -/
def State.grantFret (s : State) (p : Placement) (c : Nat) : Nat :=
  ((p.map.find? (fun r => clusterOf r.2 = c && (s.fret r.2).hasEngine)).map Prod.fst).getD 0

/-- Both main-array banks and the dense-engine accumulator of each cluster whose engines a placement holds, with its engine fret. -/
def State.accsIn (s : State) (p : Placement) : List (Nat × Nat × List Accum) :=
  p.grants.map (fun g => (p.idx, s.grantFret p g.1, (List.range 3).map (s.accum g.1)))

def isCopy : Instr → Bool
  | .copy _ => true
  | _ => false

/-- The save image of a task as it stands. -/
def State.imageOf (s : State) (t : Task) : Image :=
  let ps := s.placementsOf t.num
  { placements := ps.map Placement.forImage
    frets := ps.flatMap (fun p => p.map.map (fun r => (p.idx, r.1, s.fret r.2)))
    tiles := ps.flatMap s.tilesIn
    accs := ps.flatMap s.accsIn
    pending := ps.flatMap Placement.prefs
    counted := (s.mem.l2.filter (fun r => r.2.count ≠ 0 && r.2.owner = t.num)).map (fun r => ⟨r.2.va, r.2.count, s.mem.value r.1⟩)
    spent := (s.mem.spent.filter (fun r => r.2.owner = t.num)).map (fun r => r.2.va)
    copied := (s.cmdsOf t.num).filter (fun c => isCopy c.op.instr)
    colls := s.eng.colls.filter (fun g => g.op.task = t.num)
    ops := s.fab.ops.filter (fun m => m.op.task = t.num)
    notices := s.fab.notices.filter (fun n => n.task = t.num) }

/-! ### The bytes of an image (R98). Where R98 names a section's contents without a layout, the layout is the model's (log entry 26) -/

/-- A section: kind, length, contents. -/
def imgSection (kind : Nat) (body : List Byte) : List Byte := leBytes 4 kind ++ leBytes 4 body.length ++ body

/-- A matching entry (R98): data, and the key word without a generation. -/
def Entry.bytes (e : Entry) (fret velem : Nat) : List Byte :=
  leBytes 8 e.data.toNat ++ leBytes 8 (keyWord false e.slot velem fret e.port e.tag e.wave)

/-- A chain operation: operands, effective address, and its key. -/
def WobOp.bytes (o : WobOp) : List Byte :=
  leBytes 8 o.left.toNat ++ leBytes 8 o.right.toNat ++ leBytes 8 o.aux.toNat ++ leBytes 8 o.ea
    ++ leBytes 8 (keyWord false o.slot o.velem o.fret 0 o.tag o.wave)

/-- The tag-pool bitmap: bit t is set while tag t is in use. -/
def Placement.tagBitmap (p : Placement) : List Byte := leBytes 2048 (p.threads.foldl (fun n r => n + 2 ^ (r.1 % 16384)) 0)

def Placement.section1 (p : Placement) : List Byte :=
  imgSection 1 (p.tagBitmap ++ p.threads.flatMap (fun r => leBytes 2 r.1 ++ leBytes 6 r.2.oldest) ++ leBytes 8 p.flags.word.toNat)

/-- The occupancy bitmap of a fret's 512 resident places: an element's entries take its lowest 64. -/
def Fret.occupancy (f : Fret) : List Byte :=
  leBytes 64 (((List.range 8).map (fun e =>
    (2 ^ min 64 ((f.elem e).entries.filter (fun x => !x.spilled)).length - 1) * 2 ^ (64 * e))).foldl (· + ·) 0)

def Tile.bytes (t : Tile) (slot : Nat) : List Byte :=
  leBytes 1 slot ++ leBytes 1 t.st ++ leBytes 1 t.fmt.code ++ leBytes 1 t.satf.toNat ++ leBytes 2 t.rows ++ leBytes 2 t.cols ++ leBytes 2 t.count
    ++ leBytes 6 0 ++ memBytes t.data 0 (tileBytes t.fmt t.rows t.cols)

def Barrier.bytes (b : Barrier) : List Byte := leBytes 8 b.expect ++ leBytes 8 b.arrived ++ leBytes 4 b.phase ++ leBytes 4 b.waiters.length

/-- The WOB entries that a fret's section holds: uncommitted ones, commands of stepped waves that are held, an `ldc` that waits, and what stands
behind such an operation (R102). -/
def Image.wobOf (g : Image) (pl f : Nat) : List WobOp :=
  (g.placements.filter (fun p => p.idx = pl)).flatMap (fun p =>
    (p.wob ++ p.queue.filter (fun o => !isWaitl o.instr && o.st = .committed)).filter (fun o => p.home o.tag = f))

def Image.tilesOf (g : Image) (pl f : Nat) : List (Nat × Nat × Nat × Tile) := g.tiles.filter (fun r => r.1 = pl && r.2.1 = f)

/-- The element remap of a fret, as eight bytes. -/
def Image.remapBytes (g : Image) (pl f : Nat) : List Byte :=
  (List.range 8).flatMap (fun v => leBytes 1 (((g.placements.find? (fun p => p.idx = pl)).map (fun p => p.physElem f v)).getD v))

/-- The virtual number of a physical element of a fret. -/
def Image.virtElem (g : Image) (pl f e : Nat) : Nat :=
  match g.placements.find? (fun p => p.idx = pl) with
  | none => e
  | some p => ((List.range 8).find? (fun v => p.physElem f v = e)).getD e

/-- A fret's section. -/
def Image.section2 (g : Image) (scratch : Nat) (x : Nat × Nat × Fret) : List Byte :=
  let (pl, f, fr) := x
  imgSection 2 (leBytes 2 f ++ g.remapBytes pl f ++ fr.occupancy
    ++ fr.elems.flatMap (fun e => e.2.entries.flatMap (fun x => x.bytes f (g.virtElem pl f e.1))) ++ (g.wobOf pl f).flatMap WobOp.bytes
    ++ (g.tilesOf pl f).flatMap (fun r => r.2.2.2.bytes r.2.2.1) ++ memBytes fr.scratch 0 scratch
    ++ (List.range 32).flatMap (fun n => (tgetD fr.bars n Barrier.zero).bytes))

def Accum.bytes (a : Accum) : List Byte :=
  leBytes 1 (match a.kind with | .none => 0 | .int => 1 | .fp => 2) ++ leBytes 1 a.sat.toNat ++ leBytes 6 a.elems.length
    ++ a.elems.flatMap (fun r => leBytes 4 r.1 ++ leBytes 4 r.2.toNat)

/-- A collective as it is held (R106): the command, how far the fabric engine has come with it, and this device's contribution. -/
def Coll.bytes (c : Coll) : List Byte :=
  c.op.bytes ++ leBytes 4 c.cid.toNat ++ leBytes 4 c.ordinal ++ leBytes 8 c.since ++ leBytes 4 c.src.length ++ c.src.flatMap (fun w => leBytes 4 w.toNat)

def Image.waits (g : Image) : List WobOp := g.placements.flatMap (fun p => p.queue.filter (fun o => isWaitl o.instr))

def Image.pendingBytes (g : Image) : List Byte :=
  g.pending.flatMap WobOp.bytes ++ g.copied.flatMap (fun c => c.op.bytes ++ leBytes 8 c.progress) ++ g.waits.flatMap WobOp.bytes
    ++ g.colls.flatMap Coll.bytes

def SavedLine.bytes (l : SavedLine) : List Byte := leBytes 8 l.va ++ leBytes 2 l.count ++ leBytes 6 0 ++ lineBytes l.data

/-- The sections of an image, in order. -/
def Image.sections (g : Image) (scratch : Nat) : List Byte :=
  g.placements.flatMap Placement.section1 ++ g.frets.flatMap (g.section2 scratch)
    ++ g.accs.flatMap (fun a => imgSection 3 (leBytes 2 a.1 ++ leBytes 2 a.2.1 ++ a.2.2.flatMap Accum.bytes))
    ++ imgSection 4 g.pendingBytes ++ imgSection 5 (g.counted.flatMap SavedLine.bytes) ++ imgSection 6 (g.spent.flatMap (leBytes 8))

/-- The whole image with its header. -/
def Image.bytes (g : Image) (t : Task) : List Byte :=
  let body := g.sections (16384 * t.sunits)
  let fl := (g.placements.map Placement.flags).foldl Flags.or t.flags
  leBytes 8 t.cfgid.toNat ++ leBytes 4 1 ++ leBytes 2 g.placements.length ++ leBytes 2 t.nf ++ leBytes 8 t.nextItem
    ++ leBytes 8 (64 + body.length) ++ leBytes 2 fl.word.toNat ++ leBytes 30 0 ++ body

/-- Where the image goes: the start of the `SAVE` lease. -/
def Task.saveBase (t : Task) : Nat := ((t.saveLeases.head?).map leaseBase).getD 0

/-! ### An image read back (R78, R99): its values are those that the `SAVE` lease holds by then, in the places where they were written; what
a store over the image's structure does is open, and the structure is kept (log entry 26) -/

/-- Items read back one after another, with what follows them. -/
def rereadList {α : Type} (size : α → Nat) (rd : List Byte → α → α) : List α → List Byte → List α × List Byte
  | [], bs => ([], bs)
  | x :: xs, bs =>
    let (ys, rest) := rereadList size rd xs (bs.drop (size x))
    (rd (bs.take (size x)) x :: ys, rest)

def Entry.reread (bs : List Byte) (e : Entry) : Entry :=
  let k := field bs 8 8
  { e with data := BitVec.ofNat 64 (field bs 0 8), wave := k % 2 ^ 24, tag := k / 2 ^ 24 % 2 ^ 14, port := k / 2 ^ 38 % 4, slot := k / 2 ^ 55 % 32 }

def WobOp.reread (bs : List Byte) (o : WobOp) : WobOp :=
  { o with left := BitVec.ofNat 64 (field bs 0 8), right := BitVec.ofNat 64 (field bs 8 8), aux := BitVec.ofNat 64 (field bs 16 8), ea := field bs 24 8 }

def Tile.reread (bs : List Byte) (t : Tile) : Tile :=
  { t with st := field bs 1 1, satf := field bs 3 1 = 1, count := field bs 8 2, data := memPutBytes t.data 0 (bs.drop 16) }

def Barrier.reread (bs : List Byte) (b : Barrier) : Barrier :=
  { b with expect := field bs 0 8, arrived := field bs 8 8, phase := field bs 16 4 }

def Accum.reread (bs : List Byte) (a : Accum) : Accum :=
  { kind := if field bs 0 1 = 0 then .none else if field bs 0 1 = 1 then .int else .fp
    sat := field bs 1 1 = 1
    elems := (a.elems.zipIdx).map (fun r => (r.1.1, BitVec.ofNat 32 (field bs (12 + 8 * r.2) 4))) }

def SavedLine.reread (bs : List Byte) (_ : SavedLine) : SavedLine := ⟨field bs 0 8, field bs 8 2, bytesLine (bs.drop 16)⟩

def Tile.imageBytes (t : Tile) : Nat := 16 + tileBytes t.fmt t.rows t.cols
def Accum.imageBytes (a : Accum) : Nat := 8 + 8 * a.elems.length

/-- A placement's section read back. -/
def Placement.reread (bs : List Byte) (p : Placement) : Placement :=
  let (ths, rest) := rereadList (fun _ => 8) (fun bs (r : Nat × Thread) => (r.1, { r.2 with oldest := field bs 2 6 % 2 ^ 24 })) p.threads (bs.drop 2056)
  { p with threads := ths, flags := Flags.ofWord (field rest 0 8) }

/-- Operations of an image replaced by what was read back of them. -/
def Image.patch (g : Image) (ops : List WobOp) : Image :=
  let new := fun (o : WobOp) => (ops.find? (fun x => x.seq = o.seq)).getD o
  { g with placements := g.placements.map (fun p => { p with wob := p.wob.map new, queue := p.queue.map new }) }

/-- A fret's section read back: the image with what it changes, and the bytes that follow. -/
def Image.rereadFret (scratch : Nat) (gb : Image × List Byte) (x : Nat × Nat × Fret) : Image × List Byte :=
  let (g, bs) := gb
  let (pl, f, fr) := x
  let elem := fun (bs : List Byte) (e : Nat × Elem) => (e.1, { e.2 with entries := (rereadList (fun _ => 16) Entry.reread e.2.entries bs).1 })
  let (elems, bs) := rereadList (fun e => 16 * e.2.entries.length) elem fr.elems (bs.drop 82)
  let (ops, bs) := rereadList (fun _ => 40) WobOp.reread (g.wobOf pl f) bs
  let (tiles, bs) := rereadList (fun r => r.2.2.2.imageBytes) (fun bs r => (r.1, r.2.1, r.2.2.1, r.2.2.2.reread bs)) (g.tilesOf pl f) bs
  let mem := memPutBytes fr.scratch 0 (bs.take scratch)
  let bs := bs.drop scratch
  let bars := (List.range 32).foldl (fun t n =>
    let b := tgetD t n Barrier.zero
    let b' := b.reread ((bs.drop (24 * n)).take 24)
    if b' = b then t else tput t n b') fr.bars
  let fr := { fr with elems := elems, scratch := mem, bars := bars }
  let g := g.patch ops
  let tile := fun (r : Nat × Nat × Nat × Tile) => (tiles.find? (fun x => x.1 = r.1 && x.2.1 = r.2.1 && x.2.2.1 = r.2.2.1)).getD r
  ({ g with
    frets := g.frets.map (fun y => if y.1 = pl && y.2.1 = f then (pl, f, fr) else y)
    tiles := g.tiles.map tile }, bs.drop 768)

/-- The Pending section read back. -/
def Image.rereadPending (g : Image) (bs : List Byte) : Image :=
  let (pend, bs) := rereadList (fun _ => 40) WobOp.reread g.pending bs
  let cmd := fun (bs : List Byte) (c : Cmd) => { c with op := c.op.reread bs, progress := field bs 40 8 }
  let (cmds, bs) := rereadList (fun _ => 48) cmd g.copied bs
  let (ws, _) := rereadList (fun _ => 40) WobOp.reread g.waits bs
  ({ g with pending := pend, copied := cmds } : Image).patch ws

/-- An image as its bytes now have it. -/
def Image.reread (g : Image) (scratch : Nat) (bs : List Byte) : Image :=
  let (ps, bs) := rereadList (fun p => (Placement.section1 p).length) Placement.reread g.placements (bs.drop 64)
  let (g, bs) := g.frets.foldl (Image.rereadFret scratch) ({ g with placements := ps }, bs)
  let acc := fun (bs : List Byte) (a : Nat × Nat × List Accum) => (a.1, a.2.1, (rereadList Accum.imageBytes Accum.reread a.2.2 (bs.drop 12)).1)
  let (accs, bs) := rereadList (fun a => 12 + (a.2.2.map Accum.imageBytes).foldl (· + ·) 0) acc g.accs bs
  let n := g.pendingBytes.length
  let g := ({ g with accs := accs } : Image).rereadPending ((bs.drop 8).take n)
  let (lines, bs) := rereadList (fun _ => 144) SavedLine.reread g.counted (bs.drop (16 + n))
  let (spent, _) := rereadList (fun _ => 8) (fun bs _ => field bs 0 8) g.spent (bs.drop 8)
  { g with counted := lines, spent := spent }

/-- The image that a task resumes from: what its `SAVE` lease holds. The bytes that R98 fills with zero are not read, and a nonzero one is
no error: R5 rejects a reserved field "as stated for each record", and R98 and R99 state no rejection (log entry 26). -/
def State.rereadImage (s : State) (t : Task) (g : Image) : Image :=
  g.reread (16384 * t.sunits) (s.readVa t.space t.saveBase (g.bytes t).length)

/-! ### `CHECKPOINT_START` (R97, steps 1 to 3) -/

/-- Spawned tokens that a step had left at the tag unit go on to their matching stores (R284). -/
def State.releaseSpawned (s : State) (task : Nat) : State := if s.obs.dbg.attached = some task then s.sendStepped else s

/-- Whether every fret of a task has been loaded. -/
def State.allLive (s : State) (task : Nat) : Bool := (s.fretsOf task).all (fun pf => decide ((s.fret pf).st = .live))

/-- `CHECKPOINT_START` (R97, R139): task `subject`, ordered to be checkpointed, is in SAVING and frozen, once no rewrite or move of it
is under way; its collectives, and their time, stand still from here (R106). -/
def execCheckpointStart (s : State) : Out :=
  match s.task? s.subject with
  | none => .refused (.notEnabled "CHECKPOINT_START")
  | some t =>
    let ordered := t.victim.any (fun v => v.action = .checkpoint)
    let free := !s.hasWindow t.num && !s.fab.recfgs.any (fun r => r.task = t.num) && !s.fab.moves.any (fun m => m.task = t.num)
      && s.allLive t.num
    event "CHECKPOINT_START" (ordered && t.st = .running && !t.ending && !t.freezing && free)
      (((((s.freezeTask t.num).toState t.num .saving).releaseSpawned t.num).holdColls t.num).modTask t.num (fun t => { t with settled := false }))

/-! ### `CHECKPOINT_SETTLE_COMPLETE` (R97, steps 3 to 5) -/

/-- A command that needs not be over for the task to have settled: a stopped `copy`, or a gang's collective (R106). -/
def Cmd.savedAside (c : Cmd) (gang : Bool) : Bool :=
  c.fault.isNone && ((isCopy c.op.instr && !(c.running && c.total ≤ c.progress)) || (gang && isColl c.op.instr))

/-- Whether a committed operation is saved as it stands: it waits without limit, or is a held command of a stepped wave or stands behind one
(R102). -/
def State.saveStuck (s : State) (p : Placement) (op : WobOp) : Bool :=
  s.stuck p op || s.stepHeld op || ((p.queueOf op.serial).takeWhile (fun o => o.seq ≠ op.seq)).any s.stepHeld

/-- Whether everything that step 4 settles has settled: tokens are in matching stores, and committed operations are performed. -/
def State.saveSettled (s : State) (t : Task) : Bool :=
  let ps := s.placementsOf t.num
  ps.all (fun p => p.queue.all (s.saveStuck p)) && !s.inFlight t.num && !s.fab.barQ.any (fun m => m.op.task = t.num) && !s.toksOf t.num
    && ps.all (fun p => p.spawns.isEmpty && p.elemsOf.all (fun e => (s.elem e.2.2.1 e.2.2.2).outQ.isEmpty))
    && s.fab.ops.all (fun m => m.op.task ≠ t.num || m.waiting) && (s.cmdsOf t.num).all (fun c => c.savedAside t.gang.isSome)

/-- Whether trace FIFOs have given up the records of a task. -/
def State.traceDrained (s : State) (task : Nat) : Bool := s.fab.trFifo.all (fun r => r.2.all (fun x => x.task ≠ task))

/-- Whether the 1 ms of a checkpoint's steps 1 to 5 has passed (R97). -/
def State.saveLate (s : State) (t : Task) : Bool := t.stateSince + 1000000 ≤ s.clock.ns

/-- A checkpoint that goes on: nothing has ended, stopped or ordered the end of its task, whose last thread has not ended (R101, R102). -/
def State.saveGoesOn (s : State) (t : Task) : Bool := t.st = .saving && !t.ending && !t.freezing && !t.orderKill && t.reports.isEmpty && !s.allDone t

/-- `CHECKPOINT_SETTLE_COMPLETE` (R97): within 1 ms the drain tokens of task `subject` have arrived, trace FIFOs have drained, and its counts are
read out. -/
def execCheckpointSettleComplete (s : State) : Out :=
  match s.task? s.subject with
  | none => .refused (.notEnabled "CHECKPOINT_SETTLE_COMPLETE")
  | some t =>
    event "CHECKPOINT_SETTLE_COMPLETE" (s.saveGoesOn t && !t.settled && s.saveSettled t && s.traceDrained t.num && !s.saveLate t)
      (((s.placementsOf t.num).foldl (fun s p => s.endInterval p true) s).modTask t.num (fun t => { t with settled := true }))

/-! ### `CHECKPOINT_WRITE_COMPLETE` (R97, steps 6 and 7) -/

/-- The image written, and all that the task holds released but its quota (R97). -/
def State.saveTask (s : State) (t : Task) : State :=
  let g := s.imageOf t
  let ps := s.placementsOf t.num
  let need := ps.length * t.nf
  let s := s.writeVa t.space t.saveBase (g.bytes t)
  let s := (s.discardCounted t.num).releaseAll t.num
  let s := { s with eng := { s.eng with cmds := s.eng.cmds.filter (fun c => !(c.op.task = t.num && isCopy c.op.instr)) } }
  s.modTask t.num (fun t => { t with
    st := .saved, stateSince := s.clock.ns, image := some g, nsave := t.nsave + 1, need := need, victim := none, settled := false })

/-- `CHECKPOINT_WRITE_COMPLETE` (R97): the save image of task `subject` is written, and the task is SAVED. -/
def execCheckpointWriteComplete (s : State) : Out :=
  match s.task? s.subject with
  | none => .refused (.notEnabled "CHECKPOINT_WRITE_COMPLETE")
  | some t =>
    let n := ((s.imageOf t).bytes t).length
    event "CHECKPOINT_WRITE_COMPLETE" (s.saveGoesOn t && t.settled && s.traceDrained t.num && s.saveSettled t && s.vaQuiet t.space t.saveBase n) (s.saveTask t)

/-! ### `CHECKPOINT_TIMEOUT` (R97, R102) -/

/-- An abandoned checkpoint: the task fires again, unmarked; a debugger's halt that waited comes about (R102). -/
def State.unsave (s : State) (t : Task) : State :=
  let s := (s.thawTask t.num).resumeColls t.num
  let now := s.clock.ptpNs
  let put := fun (p : Placement) => if p.task = t.num && t.settled then { p with since := now } else p
  let s := { s with fab := { s.fab with placements := s.fab.placements.map (Prod.map id put) } }
  (s.modTask t.num (fun t => { t with victim := none, settled := false })).startRunning t.num

/-- `CHECKPOINT_TIMEOUT` (R97): steps 1 to 5 of the checkpoint of task `subject` have taken 1 ms: it is killed if it may be, or runs on. -/
def execCheckpointTimeout (s : State) : Out :=
  match s.task? s.subject with
  | none => .refused (.notEnabled "CHECKPOINT_TIMEOUT")
  | some t =>
    event "CHECKPOINT_TIMEOUT" (t.st = .saving && !t.ending && !t.freezing && !t.orderKill && !t.settled && s.saveLate t)
      (if t.killable then s.modTask t.num (fun t => { t with orderKill := true }) else s.unsave t)

/-! ### `TASK_RESUME` (R99) -/

/-- An operation at home in new frets. -/
def WobOp.rehome (op : WobOp) (p : Placement) : WobOp := { op with pf := p.physFret op.fret, pelem := p.physElem op.fret op.velem }

def Barrier.rehome (b : Barrier) (p : Placement) : Barrier := { b with waiters := b.waiters.map (fun o => o.rehome p) }

/-- A saved placement laid on the frets that its task has been given. -/
def Placement.relink (old new : Placement) (now : Nat) : Placement :=
  { old with
    map := new.map
    remap := new.remap
    mapGen := new.mapGen
    moving := []
    grants := new.grants
    wob := old.wob.map (fun o => o.rehome new)
    queue := old.queue.map (fun o => o.rehome new)
    frozen := false
    since := now
    heldToks := [] }

/-- An element's saved tokens under a new generation, its counts from zero. -/
def Elem.relink (e : Elem) (gen : Bool) : Elem :=
  { entries := e.entries.map (fun x => { x with gen := gen }), outQ := [], classes := Classes.zero, lastTurn := none }

/-- A saved fret's contents put into its new fret. -/
def State.relinkFret (s : State) (was p : Placement) (f : Nat) (old : Fret) : State :=
  let elems := fun (gen : Bool) => (reseat (was.physElem f) (p.physElem f) old.elems).map (fun r => (r.1, r.2.relink gen))
  let bars := old.bars.map (fun r => (r.1, r.2.rehome p))
  s.modFret (p.physFret f) (fun g => { g with elems := elems g.gen, scratch := old.scratch, bars := bars })

/-- Placements and frets of an image restored. -/
def State.relinkAll (s : State) (t : Task) (g : Image) : State :=
  let s := g.placements.foldl (fun s old => match s.placement? t.num old.idx with
    | none => s
    | some new => s.setPlacement (old.relink new s.clock.ptpNs)) s
  g.frets.foldl (fun s x => match s.placement? t.num x.1, g.placements.find? (fun p => p.idx = x.1) with
    | some p, some was => s.relinkFret was p x.2.1 x.2.2
    | _, _ => s) s

/-- Tiles and accumulators restored, in the clusters of their frets. -/
def State.restoreTiles (s : State) (t : Task) (g : Image) : State :=
  let s := g.tiles.foldl (fun s x => match s.placement? t.num x.1 with
    | none => s
    | some p =>
      let pf := p.physFret x.2.1
      s.setTile (clusterOf pf) t.num x.1 x.2.2.1 { x.2.2.2 with pf := pf, gen := (s.fret pf).gen }) s
  g.accs.foldl (fun (s : State) x => match s.placement? t.num x.1 with
    | none => s
    | some p =>
      let c := clusterOf (p.physFret x.2.1)
      (x.2.2.zipIdx).foldl (fun s a => if a.1 = Accum.zero then s else s.setAccum c a.2 a.1) s) s

/-- A counted line re-established at its home slice (R99, step 2); what waits for it there is served (R336). -/
def State.recount (s : State) (t : Task) (x : SavedLine) : State :=
  match s.physOf t.space x.va with
  | none => s
  | some (pa, _) =>
    let line := pa / 128
    let m := (s.mem.ensureL2 line s.seqCtr).recallAll line
    let put : L2Line := ⟨x.data, true, .i, x.count, t.num, t.space, x.va, s.seqCtr⟩
    ({ s.bump with mem := ({ m with l2 := tput m.l2 line put }).recheck line x.data } : State).serveWaiting line

/-- Counted lines and spent markers restored. -/
def State.restoreCounted (s : State) (t : Task) (g : Image) : State :=
  let s := g.counted.foldl (fun s x => s.recount t x) s
  g.spent.foldl (fun (s : State) va => match s.physOf t.space va with
    | none => s
    | some (pa, _) => { s with mem := { s.mem with spent := tput s.mem.spent (pa / 128) ⟨t.num, t.space, va⟩ } }) s

/-- Stopped `copy` commands start again at their offsets, and chain operations that waited for an entry wait again. -/
def State.restoreCmds (s : State) (t : Task) (g : Image) : State :=
  let now := s.clock.cycle
  let home := fun (s : State) (op : WobOp) => match s.placement? op.task op.pl with
    | none => op
    | some p => op.rehome p
  let cmd := fun (c : Cmd) =>
    let op := home s c.op
    { c with op := op, cluster := s.engCluster op, unit := s.unitOf op, busyEnd := now }
  let mine := fun (c : Cmd) => if c.op.task = t.num then { c with op := home s c.op } else c
  { s with
    eng := { s.eng with cmds := s.eng.cmds.map mine ++ g.copied.map cmd }
    fab := { s.fab with ops := s.fab.ops ++ g.ops.map (fun m => { m with op := home s m.op }), notices := s.fab.notices ++ g.notices } }

/-- The arrivals of re-issued `pref`s applied, and their tokens sent (R99, step 3). -/
def State.applyPrefs (s : State) (t : Task) : State :=
  t.prefHeld.foldl (fun s op => (s.prefArrive t op.pl op.aux).finishHeld op 0) s

/-- Operations of a resumed task that wait in its WOBs translated again: a page may have migrated meanwhile (R102). -/
def State.retranslateAll (s : State) (t : Task) : State :=
  ((s.unsentOf (fun space => space = t.space)).filter (fun o => o.task = t.num)).foldl State.retranslate s

/-- A SAVED task restored on its new frets, and firing (R99). -/
def State.resumeTask (s : State) (t : Task) (g : Image) : State :=
  let s := (((s.relinkAll t g).settleAll.retranslateAll t).restoreTiles t g).restoreCounted t g
  let s := ((s.restoreCmds t g).applyPrefs t).resumeColls t.num
  (s.modTask t.num (fun t => { t with image := none, prefHeld := [] })).startRunning t.num

/-- Whether the lines that a resume fills are at rest. -/
def State.countedQuiet (s : State) (t : Task) (g : Image) : Bool :=
  (g.counted.map SavedLine.va ++ g.spent).all (fun va => match s.physOf t.space va with
    | none => true
    | some (pa, _) => s.mem.quiet (pa / 128))

/-- `TASK_RESUME` (R99): task `subject`, relinked on its new frets, has its save image restored, and firing resumes. -/
def execTaskResume (s : State) : Out :=
  match s.task? s.subject with
  | none => .refused (.notEnabled "TASK_RESUME")
  | some t =>
    match t.image with
    | none => .refused (.notEnabled "TASK_RESUME")
    | some saved =>
      let g := s.rereadImage t saved
      event "TASK_RESUME" (t.st = .loading && !t.ending && t.loadErr.isNone && !(s.placementsOf t.num).isEmpty && s.allLive t.num
        && s.countedQuiet t g && s.vaQuiet t.space t.saveBase (saved.bytes t).length) (s.resumeTask t g)

end Sys2Proof.Machine
end

