-- ==== Sys2Proof/Machine/Kill.lean ====
section
/-!
DEFINITION. Machine/Kill.lean: kills (R100), host kills (R101), function-level reset (R42, R43), and surprise loss of the host link with
its return (R44, R45, R69).
-/
namespace Sys2Proof.Machine

/-! ### `TASK_KILL` (R100, steps 1 and 2) -/

/-- The generation of every fret of a task flipped; a fret within a rewrite begins its wait of R139. -/
def State.flipGens (s : State) (task : Nat) : State :=
  let now := s.clock.ns
  let flip := fun (f : Fret) => { f with gen := !f.gen, window := f.window.map (fun w => { w with since := now }) }
  (s.fretsOf task).foldl (fun s pf => s.modFret pf flip) s

/-- Whether a task is to be killed (R93, R97, R101, R230). -/
def Task.toKill (t : Task) : Bool := t.orderKill || t.victim.any (fun v => v.action = .kill)

def TState.killableAt : TState → Bool
  | .loading | .running | .held | .saving => true
  | _ => false

/-- `TASK_KILL` (R100): task `subject`, ordered to be killed, is in KILLING; a gang that it holds up is released (R232). -/
def execTaskKill (s : State) : Out :=
  match s.task? s.subject with
  | none => .refused (.notEnabled "TASK_KILL")
  | some t =>
    let s' := (((s.freezeTask t.num).flipGens t.num).toState t.num .killing).gangFree t.num
    event "TASK_KILL" (t.toKill && t.st.killableAt && !t.ending) (s'.modTask t.num (fun t => { t with freezing := false, settled := false }))

/-! ### The drain of a kill (R100, steps 3 to 5) -/

/-- Whether a committed operation is done, waits without limit, or is an engine operation that no engine has accepted, or stands behind
one. -/
def State.killStuck (s : State) (p : Placement) (op : WobOp) : Bool :=
  s.stuck p op || isEngine op.instr || ((p.queueOf op.serial).takeWhile (fun o => o.seq ≠ op.seq)).any (fun o => isEngine o.instr)

/-- Whether every drain token of a kill has arrived. -/
def State.killDrained (s : State) (task : Nat) : Bool :=
  (s.placementsOf task).all (fun p => p.queue.all (s.killStuck p)) && !s.inFlight task && !s.fab.barQ.any (fun m => m.op.task = task)

def ReqKind.writes : ReqKind → Bool
  | .write | .hlcWrite | .atHome => true
  | _ => false

/-- What a killed task has under way dropped: its engine commands but near-memory ones, requests that write nothing, and replies. -/
def State.dropWork (s : State) (task : Nat) : State :=
  let mine := fun (op : WobOp) => op.task = task
  let clear := fun (p : Placement) => if p.task = task then { p with wob := [], queue := [], heldToks := [] } else p
  let s := s.dropCmds task
  { s with
    fab := { s.fab with placements := s.fab.placements.map (Prod.map id clear) }
    mem := { s.mem with
      reqs := s.mem.reqs.filter (fun r => !mine r.op || r.kind.writes)
      replies := s.mem.replies.filter (fun r => !mine r.op) } }

/-- The rest of a kill: engine grants withdrawn, matrix work stopped, counted lines discarded, frets into SCRUB; the end is decided. -/
def State.finishKill (s : State) (t : Task) : State :=
  let s := (s.dropWork t.num).decideEnd t.num .killed 0 0
  match s.task? t.num with
  | some t => s.closeTask t
  | none => s

/-- Whether a kill of a task is in its drain; a function-level reset has its own. -/
def State.inKillDrain (s : State) (t : Task) : Bool := t.st = .killing && !t.ending && (s.hostFn t.fn).flr.isNone

/-- `KILL_DRAIN_COMPLETE` (R100): the drain tokens of task `subject` have all arrived. -/
def execKillDrainComplete (s : State) : Out :=
  match s.task? s.subject with
  | none => .refused (.notEnabled "KILL_DRAIN_COMPLETE")
  | some t => event "KILL_DRAIN_COMPLETE" (s.inKillDrain t && s.killDrained t.num) (s.finishKill t)

/-- `KILL_DRAIN_TIMEOUT` (R100): the drain of task `subject` has taken 300 µs. -/
def execKillDrainTimeout (s : State) : Out :=
  match s.task? s.subject with
  | none => .refused (.notEnabled "KILL_DRAIN_TIMEOUT")
  | some t => event "KILL_DRAIN_TIMEOUT" (s.inKillDrain t && t.stateSince + 300000 ≤ s.clock.ns) (s.finishKill t)

/-! ### Whether the host reaches a function (R30, R31, R42, R44) -/

/-- What becomes of a host access to a function: served; refused with Unsupported Request; or not arriving at all. -/
inductive Reach
  | served
  | unsupported
  | absent
  deriving DecidableEq, Repr

/-- A function is there: the PF, or a VF that is enabled (R49). -/
def State.fnPresent (s : State) (fn : Nat) : Bool := fn = 0 || (s.host.vfEnable && fn ≤ 63)

def State.reach (s : State) (fn : Nat) : Reach :=
  if !s.board.hlink || s.board.hostLoss || !s.board.pwrGood then .absent
  else if s.board.fatal || s.board.phase ≠ 8 || !s.fnPresent fn || (s.hostFn fn).flr.isSome then .unsupported
  else .served

/-- An answer given to the host or to the Epurn port. -/
def State.reply (s : State) (r : HostReply) : State := { s with host := { s.host with replies := s.host.replies ++ [r] } }

/-- A host access: it has its effect where its function is reached. -/
def State.hostAccess (s : State) (mn : String) (fn : Nat) (ok : Bool) (s' : State) : Out :=
  match s.reach fn with
  | .absent => .refused (.notEnabled mn)
  | .unsupported => .next (s.reply .unsupported)
  | .served => event mn ok s'

/-! ### `HOST_KILL` (R101) -/

/-- Whether a kill matches a task. -/
def Task.matchedBy (t : Task) (fn : Nat) (tag : Word) (byNum : Bool) : Bool :=
  t.fn = fn && t.st.live && !t.svc && (if byNum then t.num = tag.toNat % 2 ^ 32 else !t.child && t.rtag = tag)

/-- A kill's outcome for one matched task. -/
def State.killMatched (s : State) (t : Task) : State :=
  if t.ending then s.modTask t.num (fun t => { t with orderKill := t.meas })
  else
    match t.st with
    | .loading | .running | .held | .saving => s.modTask t.num (fun t => { t with orderKill := true })
    | .killing => s
    | _ => (s.discardCounted t.num).decideEnd t.num .killed 0 0

/-- A kill begun by a write of `HF_KILLCMD`. -/
def State.beginKill (s : State) (fn : Nat) (v : Word) : State :=
  let seq := bits v 63 32
  let tag := s.reg fn 0x2C0
  let hit := s.tasks.filter (fun t => t.matchedBy fn tag (v.getLsbD 1))
  let s := s.setReg fn 0x2C8 (BitVec.ofNat 64 (seq * 2 ^ 32 + 2 * (v.getLsbD 1).toNat))
  if hit.isEmpty then s.setReg fn 0x2D0 (BitVec.ofNat 64 (seq * 2 ^ 32))
  else
    let s := hit.foldl State.killMatched s
    let s := s.setReg fn 0x2D0 (s.reg fn 0x2D0 ||| 1)
    s.modFn fn (fun f => { f with kill := some ⟨seq, 0, hit.map Task.num⟩ })

/-- `HOST_KILL` (R101): `GO` is written to `HF_KILLCMD`; while `BUSY` is 1 the write is ignored. -/
def execHostKill (fn : Nat) (v : Word) (s : State) : Out :=
  s.hostAccess "HOST_KILL" fn (v.getLsbD 0) (if (s.hostFn fn).kill.isSome then s else s.beginKill fn v)

/-! ### Function-level reset (R42, R43) -/

/-- Functions that a reset takes: a VF, or the PF with all its VFs. -/
def flrFns (fn : Nat) : List Nat := if fn = 0 then List.range 64 else [fn]

/-- Tasks of some functions; the service graphs belong to none. -/
def State.tasksOf (s : State) (fns : List Nat) : List Task := s.tasks.filter (fun t => fns.contains t.fn && !t.svc && t.st.live)

/-- Steps Fence and Kill for one task: one that has no placement leaves the table at once; the others freeze with their generations
flipped. -/
def State.flrTask (s : State) (t : Task) : State :=
  let s := ((s.freezeTask t.num).flipGens t.num).gangFree t.num
  (s.toState t.num .killing).modTask t.num (fun t => { t with ending := false, freezing := false, settled := false, image := none, reports := [] })

/-- Steps Fence and Kill (R42). A PF reset absorbs resets of its VFs. -/
def State.beginFlr (s : State) (fn : Nat) : State :=
  let fns := flrFns fn
  let s := (s.tasksOf fns).foldl State.flrTask s
  let now := s.clock.ns
  let s := fns.foldl (fun s f => s.modFn f (fun x => { x with flr := some ⟨now, fn = 0⟩ })) s
  { s with board := { s.board with flr := true } }

/-- `PF_FLR` (R42): a function-level reset of the PF begins. -/
def execPfFlr (s : State) : Out :=
  let running := (s.hostFn 0).flr.isSome
  event "PF_FLR" (s.board.hlink && !s.board.hostLoss && !s.board.fatal && s.board.phase = 8 && !running) (s.beginFlr 0)

/-- `VF_FLR` (R42): a function-level reset of VF `subject` begins. -/
def execVfFlr (s : State) : Out :=
  let fn := s.subject
  event "VF_FLR" (s.reach fn = .served && 1 ≤ fn) (s.beginFlr fn)

/-- Writes of a task that have not left the host port: none of them reaches host memory after the reset (R42, R43). -/
def State.dropEgress (s : State) (task : Nat) : State :=
  { s with mem := { s.mem with reqs := s.mem.reqs.filter (fun r => !(r.op.task = task && r.op.host)) } }

/-- A task reset: what it has is released, and it leaves the table without completion (R43). -/
def State.dropTask (s : State) (t : Task) : State :=
  let s := (((s.dropWork t.num).dropEgress t.num).discardCounted t.num).releaseAll t.num
  let s := (s.dropSelections t.num).detach t.num
  let s := s.modTask t.num (fun t => { t with st := .ended, ending := false, quota := false, image := none, loadErr := none, victim := none })
  { s with obs := { s.obs with meas := s.obs.meas.filter (fun g => g.task ≠ t.num) } }

/-- A function's registers, translations, notifications and holdings reset. -/
def State.resetFn (s : State) (fn : Nat) : State :=
  let held := fun (h : Held) => match h with
    | .bytes f _ _ | .maxLine f _ _ | .msix f _ => decide (f ≠ fn)
    | .loss _ => true
  let s := s.abandonMigs true (fun g => g.fn = fn)
  let m := s.mem
  { s with
    host := { s.host with fns := tput s.host.fns fn HostFn.zero, held := s.host.held.filter held }
    mem := { m.tlbDrop (fun x => x / 256 = fn) 0 (2 ^ 52) with
      invs := tdel m.invs fn
      acCount := m.acCount.filter (fun r => r.1 / 2 ^ 28 ≠ fn) }
    obs := { s.obs with pairs := s.obs.pairs.filter (fun g => g.fn ≠ fn) } }

/-- Steps Hard reset and Release (R42, R43). A PF reset restores the PF's registers, the size of its BAR2 among them, and the VF enables (R32). -/
def State.finishFlr (s : State) (fn : Nat) : State :=
  let fns := flrFns fn
  let s := (s.tasksOf fns).foldl State.dropTask s
  let s := fns.foldl State.resetFn s
  let s := if fn = 0 then
      { s with
        host := { s.host with vfEnable := false, bar2Log := 40, caps := [] }
        mem := { s.mem with acQueued := [] }
        obs := { s.obs with dbg := Dbg.none } }
    else s
  { s with board := { s.board with flr := s.host.fns.any (fun r => r.2.flr.isSome) } }

/-- The function-level reset that function `subject` leads: a VF within a PF reset leads none. -/
def State.flrLed (s : State) (fn : Nat) : Option Flr :=
  match (s.hostFn fn).flr with
  | some f => if f.pf && fn ≠ 0 then none else some f
  | none => none

/-- `FLR_DRAIN_COMPLETE` (R42): every drain token of function `subject` has arrived. -/
def execFlrDrainComplete (s : State) : Out :=
  match s.flrLed s.subject with
  | none => .refused (.notEnabled "FLR_DRAIN_COMPLETE")
  | some _ =>
    event "FLR_DRAIN_COMPLETE" ((s.tasksOf (flrFns s.subject)).all (fun t => !s.inFlight t.num))
      (s.finishFlr s.subject)

/-- `FLR_DRAIN_TIMEOUT` (R42): the drain of function `subject` has taken 300 µs. -/
def execFlrDrainTimeout (s : State) : Out :=
  match s.flrLed s.subject with
  | none => .refused (.notEnabled "FLR_DRAIN_TIMEOUT")
  | some f => event "FLR_DRAIN_TIMEOUT" (f.start + 300000 ≤ s.clock.ns) (s.finishFlr s.subject)

/-! ### Surprise link loss (R44, R69, R102) -/

/-- Rates and widths that the host link trains at (R17, R19): 64 GT/s at most in CXL mode. -/
def linkFits (rate width : Nat) (cxl : Bool) : Bool := [16, 32, 64, 128].contains rate && [1, 4, 8, 16].contains width && (!cxl || rate ≤ 64)

/-- A host-tier access of a task that is in flight, if there is one. -/
def State.hostFlight (s : State) (task : Nat) : Option WobOp :=
  let hit := fun (op : WobOp) => op.task = task && isHost op.pa && op.host
  ((s.mem.reqs.map Req.op ++ s.mem.txns.map (fun t => t.req.op) ++ s.mem.replies.map Reply.op ++ s.mem.acks.map Ack.op).find? hit)

/-- Whether a task holds, or waits for, a host-tier lease. -/
def State.endsWithLink (s : State) (t : Task) : Bool := t.st.live && !t.ending && !t.svc && s.hostLeased t

/-- A task ended with HOSTLINK from whatever state it is in (R102): at an access in flight, or task-wide (R223). -/
def State.linkEnd (s : State) (t : Task) : State :=
  let f := match s.hostFlight t.num with
    | some op => s.stampFault (s.opFault op (if op.st = .sent then .beforeCommit else .afterCommit) .hostlink 0 op.ea)
    | none => s.hostLinkFault t
  let s := if t.image.isSome then s.discardCounted t.num else s
  let s := (s.freezeTask t.num).traceFault t.num f
  let (s, a) := s.writeFaultRec { t with nfault := min 0x10000 (t.nfault + 1) } f
  (s.modTask t.num (fun t => { t with fault := some f, frec := a, freezing := false, image := none })).decideEnd t.num .fault 0 f.addr

/-- Accesses to the host tier in flight complete poisoned (R44): requests at the host-line cache and waits on host lines are answered. -/
def State.poisonFlight (s : State) : State :=
  let w := s.mem.waits.filter (fun w => isHost w.op.pa)
  let s := { s with mem := { s.mem with waits := s.mem.waits.filter (fun w => !isHost w.op.pa) } }
  w.foldl (fun s w => s.pushReply w.op 0 (some (.hostlink, w.op.ea))) s

/-- Clean lines of the host-line cache invalidated, with the cluster copies of every line; dirty ones held. -/
def State.dropCleanHlc (s : State) : State :=
  let dirty := fun (x : HlcLine) => x.st = .m || x.st = .o
  { s with mem := { s.mem with
      hlc := s.mem.hlc.filter (fun r => dirty r.2)
      l1 := s.mem.l1.filter (fun x => !x.host || ((tget s.mem.hlc x.line).map dirty).getD false) } }

/-- `HOST_LINK_LOSS` (R44): the host link is lost by surprise. The host then holds no line of HBM any more (log entry 69). -/
def execHostLinkLoss (s : State) : Out :=
  let b := s.board
  let s' := { s with
    board := { b with hlink := false, hostLoss := true, alert := true, lossEvents := min 0xFFFF (b.lossEvents + 1), lossAt := some s.clock.ns }
    mem := { s.mem with hdm := [], hdmMod := [] } }
  let ends := s.tasks.filter s.endsWithLink
  event "HOST_LINK_LOSS" (b.hlink && !b.hostLoss) (((ends.foldl State.linkEnd s').poisonFlight.dropCleanHlc).abandonMigs false (fun g => isHost g.src || isHost g.dst))

/-- The dirty lines of the host-line cache dropped and counted (R32, R44). -/
def State.dropHlc (s : State) : State :=
  let n := (s.mem.hlc.filter (fun r => r.2.st = .m || r.2.st = .o)).length
  { s with
    mem := { s.mem with hlc := [], l1 := s.mem.l1.filter (fun x => !x.host) }
    board := { s.board with lossLines := min 0xFFFF (s.board.lossLines + n) } }

/-- Whether 200 ms have passed since a loss whose dirty lines are still held (R44). -/
def State.lossDue (s : State) : Bool :=
  match s.board.lossAt with
  | some a => s.board.hostLoss && a + 200000000 ≤ s.clock.ns
  | none => false

/-- `LINK_LOSS_TIMEOUT` (R44): 200 ms after detection the held dirty lines are dropped and counted, and a loss record is placed. -/
def execLinkLossTimeout (s : State) : Out :=
  let n := (s.mem.hlc.filter (fun r => r.2.st = .m || r.2.st = .o)).length
  let s' := s.dropHlc
  event "LINK_LOSS_TIMEOUT" s.lossDue
    { s' with board := { s'.board with lossAt := none }, host := { s'.host with held := .loss n :: s'.host.held } }

/-- One entry of the holding area released (R45, R69): a loss record reaches the host as `HF_EVT.LOSSREC` of the PF (log entry 64). -/
def State.releaseHeldEntry (s : State) (h : Held) : State :=
  match h with
  | .bytes fn pa bs => s.writeBytes fn pa bs
  | .maxLine fn pa v => s.maxWord fn pa v
  | .msix fn vec => s.raiseVec fn vec
  | .loss _ => s.setEvt 0 2

/-- The function of a held record. -/
def Held.recordFn : Held → Option Nat
  | .bytes fn _ _ | .maxLine fn _ _ => some fn
  | .msix _ _ | .loss _ => none

def Held.isMsix : Held → Bool
  | .msix _ _ => true
  | _ => false

/-- `HOST_LINK_RETRAIN` (R17, R45, R69): the link is back in the mode settled, at the rate and width that it now reaches: dirty lines still
held are written back, then held records with `HELD` set once a function's last is written, then held interrupts, and `HOSTLOSS` clears. Lines
held for 200 ms are dropped first (R44). The event's number says both: 32 times the rate in GT/s, and the width. -/
def execHostLinkRetrain (s : State) : Out :=
  let rate := s.subject / 32
  let width := s.subject % 32
  let b := s.board
  let held := s.host.held
  let s' := { s with
    board := { b with hlink := true, hostLoss := false, lossAt := none, linkRate := rate, linkWidth := width }
    host := { s.host with held := [] } }
  let s' := (s'.mem.hlc.map Prod.fst).foldl State.hlcEvict s'
  let s' := (held.filter (fun h => !h.isMsix)).foldl State.releaseHeldEntry s'
  let fns := (List.range 64).filter (fun f => held.any (fun h => h.recordFn = some f))
  let s' := fns.foldl (fun s f => s.setEvt f 1) s'
  let s' := (held.filter Held.isMsix).foldl State.releaseHeldEntry s'
  event "HOST_LINK_RETRAIN" (b.hostLoss && !b.perst && linkFits rate width b.cxl && !s.lossDue) s'

end Sys2Proof.Machine
end

