-- ==== Sys2Proof/Machine/Slices.lean ====
section
/-!
DEFINITION. Machine/Slices.lean: Tandem's gang slices (R104 to R106) and gang holds (R232).
-/
namespace Sys2Proof.Machine

/-! ### Slices (R104, R105) -/

/-- Whether a slice's start instant has come for a gang task: the device is locked, and learned of the instant 200 ns before it. -/
def State.sliceOpens (s : State) (t : Task) (g : Gang) : Bool :=
  s.board.ptpLock && g.inSlice s.clock.ptpNs && t.learned + 200 ≤ g.sliceStart s.clock.ptpNs && !s.gangHeld g && !t.ending

/-- `SLICE_START` (R105): at a slice's start, gang task `subject` in ADMITWAIT with its quota goes on to FRETWAIT, and one in SAVED comes
back to RESWAIT. -/
def execSliceStart (s : State) : Out :=
  match s.task? s.subject with
  | none => .refused (.notEnabled "SLICE_START")
  | some t =>
    match t.gang with
    | none => .refused (.notEnabled "SLICE_START")
    | some g =>
      let s' := s.modTask t.num (fun t => { t with sliceFrom := s.clock.ptpNs })
      if !s.sliceOpens t g then .refused (.notEnabled "SLICE_START")
      else
        match t.st with
        | .admitwait => event "SLICE_START" t.quota (s'.toState t.num .fretwait)
        | .saved => .next (s'.reenter { t with sliceFrom := s.clock.ptpNs })
        | _ => .refused (.notEnabled "SLICE_START")

/-- `SLICE_END` (R105): at the end instant gang task `subject` is ordered to be checkpointed. -/
def execSliceEnd (s : State) : Out :=
  match s.task? s.subject with
  | none => .refused (.notEnabled "SLICE_END")
  | some t =>
    match t.gang with
    | none => .refused (.notEnabled "SLICE_END")
    | some g =>
      let due := t.st = .running && !t.ending && t.victim.isNone && !s.gangHeld g && g.nextEnd t.sliceFrom ≤ s.clock.ptpNs
      event "SLICE_END" due
        (s.modTask t.num (fun t => { t with victim := some ⟨.checkpoint, s.clock.ns, 0⟩ }))

/-! ### Gang holds (R232) -/

/-- The tasks of a gang on this device. -/
def State.gangTasks (s : State) (gid : BitVec 32) : List Task := s.tasks.filter (fun t => t.st.live && (t.gang.map Gang.gid) = some gid)

/-- A gang frozen. -/
def State.gangFreeze (s : State) (gid : BitVec 32) : State :=
  let s := (s.gangTasks gid).foldl State.gangFreezeTask s
  let o := s.obs
  { s with obs := { o with gangFrozen := nsAdd o.gangFrozen gid.toNat, gangHold := tdel o.gangHold gid.toNat } }

/-- `GANG_HOLD_RECEIVE` (R232): a gang hold names the instant at which this device freezes; one learned of less than 200 ns before it
freezes at once. -/
def execGangHoldReceive (gid : BitVec 32) (at_ : Nat) (s : State) : Out :=
  event "GANG_HOLD_RECEIVE" s.board.carriesData
    (if at_ < s.clock.ptpNs + 200 then s.gangFreeze gid
     else { s with obs := { s.obs with gangHold := tput s.obs.gangHold gid.toNat at_ } })

/-- `GANG_FREEZE_INSTANT` (R232): the hold's instant has come. -/
def execGangFreezeInstant (gid : BitVec 32) (s : State) : Out :=
  match tget s.obs.gangHold gid.toNat with
  | none => .refused (.notEnabled "GANG_FREEZE_INSTANT")
  | some a => event "GANG_FREEZE_INSTANT" (a ≤ s.clock.ptpNs) (s.gangFreeze gid)

/-- `GANG_RELEASE_RECEIVE` (R232): a gang release names the instant at which every device resumes. -/
def execGangReleaseReceive (gid : BitVec 32) (at_ : Nat) (s : State) : Out :=
  event "GANG_RELEASE_RECEIVE" s.board.carriesData { s with obs := { s.obs with gangRelease := tput s.obs.gangRelease gid.toNat at_ } }

/-- HELD ended: the attached task's register shows it, and every placement fires again. -/
def State.leaveHeld (s : State) (task : Nat) : State :=
  let s := (s.thawTask task).toState task .running
  if s.obs.dbg.attached = some task then s.setReg 0 0x318 (s.reg 0 0x318 &&& ~~~ (6 : Word)) else s

/-- A gang task resumed at a release's instant; the slice then in force runs to its first end after it. -/
def State.gangResumeTask (s : State) (t : Task) : State :=
  let s := s.modTask t.num (fun t => { t with sliceFrom := s.clock.ptpNs })
  if t.st = .held && t.fault.isNone && !t.ending then (s.resumeColls t.num).leaveHeld t.num
  else if t.st = .running then s.resumeColls t.num
  else s

/-- `GANG_RESUME_INSTANT` (R232): the release's instant has come: the gang resumes, where this device holds it no longer itself. -/
def execGangResumeInstant (gid : BitVec 32) (s : State) : Out :=
  match tget s.obs.gangRelease gid.toNat with
  | none => .refused (.notEnabled "GANG_RESUME_INSTANT")
  | some a =>
    let o := s.obs
    let s' := { s with obs := { o with gangRelease := tdel o.gangRelease gid.toNat } }
    let own := nsHas o.gangFrozen (gangOrigin gid)
    let free := { s' with obs := { s'.obs with gangFrozen := nsDel s'.obs.gangFrozen gid.toNat } }
    event "GANG_RESUME_INSTANT" (a ≤ s.clock.ptpNs) (if own then s' else (s.gangTasks gid).foldl State.gangResumeTask free)

end Sys2Proof.Machine
end

