-- ==== Sys2Proof/Machine/Debug.lean ====
section
/-!
DEFINITION. Machine/Debug.lean: the debug block (R227 to R231), the trace merger (R233 to R235) and power gating (R236).
-/
namespace Sys2Proof.Machine

/-! ### `DEBUG_ATTACH` (R228) -/

/-- Tasks that the armed debug block may attach. -/
def State.attachable (s : State) (t : Task) : Bool :=
  t.st.live && !t.child && !t.svc && t.fn = bits (s.reg 0 0x308) 13 8 && t.rtag = s.reg 0 0x300 && (t.dbg || t.st = .held)

/-- A task attached. -/
def State.attach (s : State) (t : Task) : State :=
  let stat := s.reg 0 0x318
  let stat := if t.st = .held then
      let code := (t.fault.map (fun f => f.code.num)).getD 0
      let swid := (t.fault.map FaultRec.swid).getD 0
      (stat &&& 0x10) ||| BitVec.ofNat 64 (0xC + 2 ^ 16 * 5 + 2 ^ 24 * code + 2 ^ 32 * swid)
    else stat ||| 8
  let s := (s.setReg 0 0x308 (s.reg 0 0x308 &&& ~~~ (2 : Word))).setReg 0 0x318 stat
  { s with obs := { s.obs with dbg := { Dbg.none with attached := some t.num } } }

/-- `DEBUG_ATTACH` (R228): while `ARM` is 1 and no task is attached, the oldest that matches is. -/
def execDebugAttach (s : State) : Out :=
  match minBy Task.accept (s.tasks.filter s.attachable) with
  | none => .refused (.notEnabled "DEBUG_ATTACH")
  | some t => event "DEBUG_ATTACH" ((s.reg 0 0x308).getLsbD 1 && s.obs.dbg.attached.isNone) (s.attach t)

/-! ### Commands (R230, R231) -/

/-- `ERR` set: the command is refused. -/
def State.dbgRefuse (s : State) : State := s.setReg 0 0x318 (s.reg 0 0x318 ||| 0x10)
/-- `ERR` cleared as a command is taken. -/
def State.dbgTake (s : State) : State := s.setReg 0 0x318 (s.reg 0 0x318 &&& ~~~ (0x10 : Word))

/-- A command written to `HF_DBGCMD` in the word v: ignored while `BUSY` unless it is HALT, refused with no task attached; `STAG` and `SPL` are
kept as written, whatever the command. -/
def State.dbgCommand (s : State) (mn : String) (v : Word) (halts : Bool) (act : Task → State → State) : Out :=
  let s' := s.setReg 0 0x310 (v &&& 0x3FFF03F0)
  let run := match s.obs.dbg.attached.bind s.task? with
    | none => s'.dbgRefuse
    | some t => act t s'.dbgTake
  s.hostAccess mn 0 true (if (s.reg 0 0x318).getLsbD 1 && !halts then s else run)

/-- The word written to `HF_DBGCMD` by a command whose event has no field for it: `subject` (log entry 28). -/
def State.cmdWord (s : State) : Word := BitVec.ofNat 64 s.subject

/-- `STOP` of `HF_DBGSTAT`. -/
def State.stopField (s : State) : Nat := bits (s.reg 0 0x318) 19 16

/-- HALT: a running task stops; one that does not fire yet, or is in SAVING, stops when it next runs (R102). -/
def haltTask (t : Task) (s : State) : State :=
  if !t.dbg || t.ending then s
  else
    match t.st with
    | .running => if t.freezing then s else s.stopAt t.num 1
    | .held | .killing | .ended | .rejected => s
    | _ => { s with obs := { s.obs with dbg := { s.obs.dbg with haltPending := true } } }

/-- `DBG_HALT` (R229, R230): HALT; it ends a step that cannot commit, `BUSY` or not. -/
def execDbgHalt (s : State) : Out := s.dbgCommand "DBG_HALT" s.cmdWord true haltTask

/-- What a step held released (R230): engine commands of stepped waves go on, and spawned tokens are sent. -/
def State.dropStepped (s : State) : State :=
  let s := s.sendStepped
  { s with obs := { s.obs with dbg := { s.obs.dbg with steppedWaves := [] } } }

/-- RESUME: the task fires again; one of a gang that stands still, at its release's instant, which the device that stopped it names now
(R232). -/
def resumeHeld (t : Task) (s : State) : State :=
  if t.st ≠ .held || s.stopField = 5 then s.dbgRefuse
  else
    let s := s.dropStepped
    if t.gang.any s.gangHeld then s.gangFree t.num else s.leaveHeld t.num

/-- `DBG_RESUME` (R230). -/
def execDbgResume (s : State) : Out := s.dbgCommand "DBG_RESUME" s.cmdWord false resumeHeld

/-- STEP: the elements fire, and one wave may commit. -/
def stepHeld1 (v : Word) (t : Task) (s : State) : State :=
  let tag := bits v 29 16
  let pl := bits v 9 4
  match (s.placement? t.num pl).bind (fun p => p.thread? tag) with
  | none => s.dbgRefuse
  | some th =>
    if t.st ≠ .held || s.stopField = 5 then s.dbgRefuse
    else if !t.dbg then s
    else
      let s := s.leaveHeld t.num
      let s := s.setReg 0 0x318 (s.reg 0 0x318 ||| 2)
      { s with obs := { s.obs with dbg := { s.obs.dbg with stepping := some (pl, tag, th.oldest) } } }

/-- `DBG_STEP` (R230): STEP of the thread and placement that the written word names. -/
def execDbgStep (v : Word) (s : State) : Out :=
  s.dbgCommand "DBG_STEP" v false (stepHeld1 v)

/-- END: a task stopped by a fault ends as under the END policy. -/
def endHeld (t : Task) (s : State) : State :=
  match t.fault with
  | some f => if t.st ≠ .held || s.stopField ≠ 5 then s.dbgRefuse else s.decideEnd t.num .fault f.reason f.addr
  | none => s.dbgRefuse

/-- `DBG_END` (R230, R224). -/
def execDbgEnd (s : State) : Out := s.dbgCommand "DBG_END" s.cmdWord false endHeld

/-- `DBG_KILL` (R230, R100). -/
def execDbgKill (s : State) : Out := s.dbgCommand "DBG_KILL" s.cmdWord false (fun t s => s.killMatched t)

/-- Where DUMP writes. -/
def State.dumpAt (s : State) : Nat := bits (s.reg 0 0x320) 51 6 * 64

/-- DUMP: a save image of the held task's present state, written at `ADDR`. -/
def dumpTask (t : Task) (s : State) : State :=
  let b := (s.imageOf t).bytes t
  if t.st ≠ .held || !s.hbmBacked s.dumpAt || hbmSize < s.dumpAt + b.length then s.dbgRefuse else s.writeBytes 0 s.dumpAt b

/-- Whether the lines that a DUMP writes are at rest. -/
def State.dumpQuiet (s : State) : Bool :=
  match s.obs.dbg.attached.bind s.task? with
  | none => true
  | some t => t.st ≠ .held || s.rangeQuiet s.dumpAt ((s.imageOf t).bytes t).length

/-- `DBG_DUMP` (R230, R98). -/
def execDbgDump (s : State) : Out :=
  if s.dumpQuiet then s.dbgCommand "DBG_DUMP" s.cmdWord false dumpTask else .refused (.notEnabled "DBG_DUMP")

/-! ### `TRACE_MERGE` (R233 to R235) -/

/-- A record's first 32 bytes (R234). -/
def TrRec.head (r : TrRec) : List Byte :=
  leBytes 8 r.time ++ leBytes 8 r.payload.toNat ++ leBytes 2 r.swid ++ leBytes 2 (r.tag % 2 ^ 14) ++ leBytes 4 (r.wave % 2 ^ 24 + 2 ^ 24 * r.kind)
    ++ leBytes 2 (r.fret % 2 ^ 12) ++ leBytes 1 (r.velem % 8 + 8 * (r.slot % 32)) ++ leBytes 1 (r.pl % 64) ++ leBytes 4 r.task

/-- A LOST record with its count. -/
def lostRec (now n fn : Nat) : TrRec := ⟨now, BitVec.ofNat 64 n, 0, 0, 0, 1, 0, 0, 0, 0, 0, fn, 0, []⟩

/-- Ring records that a trace record takes: a PROFILE record takes eight. -/
def TrRec.size (r : TrRec) : Nat := 1 + r.body.length / 32

/-- A function's trace ring: its base and its number of records, where it is enabled and backed (R233). -/
def State.traceRing (s : State) (fn : Nat) : Option (Nat × Nat) :=
  let q := s.reg fn 0x290
  let base := bits q 51 16 * 2 ^ 16
  if q.getLsbD 8 && s.deviceBacked fn base then some (base, 2 ^ (bits q 3 0 + 11)) else none

/-- Records that a ring has room for. -/
def State.traceRoom (s : State) (fn size : Nat) : Nat := size - ((s.reg fn 0x298).toNat - (s.reg fn 0x2A0).toNat)

/-- 32-byte pieces written to a ring, one record each. -/
def State.ringWrite (fn base size : Nat) : Nat → List Byte → State → State
  | 0, _, s => s
  | n + 1, bs, s =>
    let prod := (s.reg fn 0x298).toNat
    let s := s.writeFn fn (base + 32 * (prod % size)) (bs.take 32)
    State.ringWrite fn base size n (bs.drop 32) (s.setReg fn 0x298 (BitVec.ofNat 64 (prod + 1)))

/-- Records of a function lost by a die's merger, or at gating, added to their count (R235, R236). -/
def State.loseTrace (s : State) (die fn n : Nat) : State :=
  let key := 64 * die + fn
  { s with fab := { s.fab with trLost := tput s.fab.trLost key (tgetD s.fab.trLost key 0 + n) } }

/-- The LOST record of a die's merger for a function, where it has one to write and the ring has room. -/
def State.writeLost (fn : Nat) (s : State) (die : Nat) : State :=
  let key := 64 * die + fn
  let lost := tgetD s.fab.trLost key 0
  match s.traceRing fn with
  | none => s
  | some (base, size) =>
    if lost = 0 || s.traceRoom fn size = 0 then s
    else
      let s := State.ringWrite fn base size 1 (lostRec s.clock.ptpNs lost fn).head s
      { s with fab := { s.fab with trLost := tdel s.fab.trLost key } }

/-- The LOST records that a function is owed, before any other record (R235). -/
def State.flushLost (s : State) (fn : Nat) : State := (List.range 4).foldl (State.writeLost fn) s

/-- A record written after the LOST records, or dropped and counted (R235). -/
def State.emitTrace (s : State) (die : Nat) (r : TrRec) : State :=
  match s.traceRing r.fn with
  | none => s.loseTrace die r.fn r.size
  | some (_, size) =>
    let s := s.flushLost r.fn
    if s.traceRoom r.fn size < r.size then s.loseTrace die r.fn r.size
    else (State.ringWrite r.fn ((s.traceRing r.fn).getD (0, 0)).1 size r.size (r.head ++ r.body) s).countEvent (clusterOf r.pf) r.task 0x18 r.size

/-- The FIFO head of oldest time among a die's clusters, with its cluster. -/
def State.oldestTrace (s : State) (die : Nat) : Option (Nat × TrRec) :=
  minBy (fun q => q.2.time) ((s.fab.trFifo.filter (fun r => dieOf r.1 = die)).filterMap (fun r => r.2.head?.map (fun x => (r.1, x))))

/-- Whether the lines of a function's ring that its next n records and its LOST records go to are at rest. -/
def State.ringQuiet (s : State) (fn n : Nat) : Bool :=
  match s.traceRing fn with
  | none => true
  | some (base, size) =>
    let prod := (s.reg fn 0x298).toNat
    (List.range (n + 4)).all (fun k => match s.fnAddr fn (base + 32 * ((prod + k) % size)) with
      | some pa => s.mem.quiet (pa / 128)
      | none => true)

/-- A function that a die's merger owes a LOST record, with room for it. -/
def State.lostDue (s : State) (die : Nat) : Option Nat :=
  (List.range 64).find? (fun fn => tgetD s.fab.trLost (64 * die + fn) 0 ≠ 0 && (s.traceRing fn).any (fun q => s.traceRoom fn q.2 ≠ 0))

/-- `TRACE_MERGE` (R235): the merger of die `subject` writes a LOST record that it owes, or moves the oldest head record. -/
def execTraceMerge (s : State) : Out :=
  match s.lostDue s.subject, s.oldestTrace s.subject with
  | some fn, _ => event "TRACE_MERGE" (s.ringQuiet fn 0) (State.writeLost fn s s.subject)
  | none, none => .refused (.notEnabled "TRACE_MERGE")
  | none, some (c, r) =>
    let s' := { s with fab := { s.fab with trFifo := tmod s.fab.trFifo c (fun rs => rs.drop 1) } }
    event "TRACE_MERGE" (s.ringQuiet r.fn r.size) (s'.emitTrace s.subject r)

/-! ### `CLUSTER_POWER_GATE` (R236) -/

/-- Whether a thermal limit forces gating (R27). -/
def State.tooHot (s : State) : Bool := s.board.dieTemp.any (fun r => 800 < r.2) || !s.board.hotStacks.isEmpty

/-- `CLUSTER_POWER_GATE` (R236): cluster `subject`, with no fret in LIVE, LOAD or MOVE, is gated: its trace FIFO has drained, or its last
record is 4 µs old, or a thermal action forces it. Records left are lost, and a LOST record with their count is written for each function
concerned, apart from what its ring had no room for. -/
def execClusterPowerGate (s : State) : Out :=
  let c := s.subject
  let rs := tgetD s.fab.trFifo c []
  let idle := (List.range 8).all (fun f => match (s.fret (8 * c + f)).st with
    | .live | .load | .move | .service => false
    | _ => true)
  let old := rs.all (fun r => r.time + 4000 ≤ s.clock.ptpNs)
  let fns := (List.range 64).filter (fun fn => rs.any (fun r => r.fn = fn))
  let gone := fun (fn : Nat) => ((rs.filter (fun r => r.fn = fn)).map TrRec.size).foldl (· + ·) 0
  let s' := { s with fab := { s.fab with gated := nsAdd s.fab.gated c, trFifo := tdel s.fab.trFifo c } }
  let lose := fun (s : State) (fn : Nat) => ((s.flushLost fn).loseTrace (dieOf c) fn (gone fn)).flushLost fn
  event "CLUSTER_POWER_GATE" (c < 512 && idle && !nsHas s.fab.gated c && (old || s.tooHot) && fns.all (fun fn => s.ringQuiet fn 4)) (fns.foldl lose s')

end Sys2Proof.Machine
end

