-- ==== Sys2Proof/Machine/EngineForms.lean ====
section
/-!
DEFINITION. Machine/EngineForms.lean: the firings of the engine, fabric and Format E system forms (R354, R385). A firing sends the operation to the home
WOB of its thread; what it then does is in HeldOps.lean, Engine.lean and the files after them.
-/
namespace Sys2Proof.Machine

/-- `t.ld` (R360): a held chain operation (R354). -/
def execTLd (e : FmtE) (s : State) : Out := fireE (.tLd e) e s
/-- `t.st` (R361): a held chain operation (R354). -/
def execTSt (e : FmtE) (s : State) : Out := fireE (.tSt e) e s
/-- `t.rel` (R362): a held chain operation (R354). -/
def execTRel (e : FmtE) (s : State) : Out := fireE (.tRel e) e s
/-- `t.zero` (R362): a held chain operation (R354). -/
def execTZero (e : FmtE) (s : State) : Out := fireE (.tZero e) e s
/-- `t.stat` (R363): a held chain operation (R354). -/
def execTStat (e : FmtE) (s : State) : Out := fireE (.tStat e) e s
/-- `t.tr` (R364): a held chain operation (R354). -/
def execTTr (e : FmtE) (s : State) : Out := fireE (.tTr e) e s
/-- `mm.tern` (R366): a held chain operation (R354). -/
def execMmTern (bank clr : Bool) (e : FmtE) (s : State) : Out := fireE (.mmTern bank clr e) e s
/-- `mm.mx4` (R366): a held chain operation (R354). -/
def execMmMx4 (bank clr : Bool) (e : FmtE) (s : State) : Out := fireE (.mmMx4 bank clr e) e s
/-- `mm.d` (R366): a held chain operation (R354). -/
def execMmD (clr : Bool) (e : FmtE) (s : State) : Out := fireE (.mmD clr e) e s
/-- `drain` (R370): a held chain operation (R354); with several outputs, aux steers it. -/
def execDrain (d : DrainF) (e : FmtE) (s : State) : Out := fireE (.drain d e) e s
/-- `drain.m` (R372): a held chain operation (R354). -/
def execDrainM (d : DrainF) (e : FmtE) (s : State) : Out := fireE (.drainM d e) e s
/-- `copy` (R374): a held chain operation (R354, R385). -/
def execCopy (e : FmtE) (s : State) : Out := fireE (.copy e) e s
/-- `gath` (R375): a held chain operation (R354, R385). -/
def execGath (e : FmtE) (s : State) : Out := fireE (.gath e) e s
/-- `nmc.axpy` (R377): a held chain operation (R354, R385). -/
def execNmcAxpy (e : FmtE) (s : State) : Out := fireE (.nmcAxpy e) e s
/-- `nmc.sgd` (R377): a held chain operation (R354, R385). -/
def execNmcSgd (e : FmtE) (s : State) : Out := fireE (.nmcSgd e) e s
/-- `nmc.scal` (R377): a held chain operation (R354, R385). -/
def execNmcScal (e : FmtE) (s : State) : Out := fireE (.nmcScal e) e s
/-- `nmc.fill` (R377): a held chain operation (R354, R385). -/
def execNmcFill (e : FmtE) (s : State) : Out := fireE (.nmcFill e) e s
/-- `nmc.sum` (R377): a held chain operation (R354, R385). -/
def execNmcSum (e : FmtE) (s : State) : Out := fireE (.nmcSum e) e s
/-- `nmc.fadd` (R377): a held chain operation (R354, R385). -/
def execNmcFadd (e : FmtE) (s : State) : Out := fireE (.nmcFadd e) e s
/-- `coll.allred.sum` (R383): a held chain operation (R354, R385). -/
def execCollAllredSum (e : FmtE) (s : State) : Out := fireE (.collAllredSum e) e s
/-- `coll.allred.max` (R383): a held chain operation (R354, R385). -/
def execCollAllredMax (e : FmtE) (s : State) : Out := fireE (.collAllredMax e) e s
/-- `coll.allgat` (R383): a held chain operation (R354, R385). -/
def execCollAllgat (e : FmtE) (s : State) : Out := fireE (.collAllgat e) e s
/-- `coll.redsc` (R383): a held chain operation (R354, R385). -/
def execCollRedsc (e : FmtE) (s : State) : Out := fireE (.collRedsc e) e s
/-- `coll.bcast` (R383): a held chain operation (R354, R385). -/
def execCollBcast (e : FmtE) (s : State) : Out := fireE (.collBcast e) e s
/-- `coll.gbar` (R383): a held chain operation (R354, R385). -/
def execCollGbar (e : FmtE) (s : State) : Out := fireE (.collGbar e) e s
/-- `rwr` (R381): a held chain operation (R354, R385). -/
def execRwr (e : FmtE) (s : State) : Out := fireE (.rwr e) e s
/-- `rrd` (R381): a held chain operation (R354, R385). -/
def execRrd (e : FmtE) (s : State) : Out := fireE (.rrd e) e s
/-- `brk` (R387): a held chain operation (R354, R385). -/
def execBrk (e : FmtE) (s : State) : Out := fireE (.brk e) e s
/-- `swr` of an event-counter selection (R238, R388): a held chain operation (R385). -/
def execSwrEvsel (n : BitVec 2) (e : FmtE) (s : State) : Out := fireE (.swrEvsel n e) e s
/-- `swr` of an event counter (R388): a held chain operation (R385). -/
def execSwrEvc (n : BitVec 2) (e : FmtE) (s : State) : Out := fireE (.swrEvc n e) e s
/-- `swr.beat` (R388): a held chain operation (R385). -/
def execSwrBeat (e : FmtE) (s : State) : Out := fireE (.swrBeat e) e s
/-- `swr.qerr` (R388): a held chain operation (R385). -/
def execSwrQerr (e : FmtE) (s : State) : Out := fireE (.swrQerr e) e s
/-- `swr.qcons` (R388): a held chain operation (R385). -/
def execSwrQcons (e : FmtE) (s : State) : Out := fireE (.swrQcons e) e s
/-- `launch` (R390): a held chain operation (R385). -/
def execLaunch (e : FmtE) (s : State) : Out := fireE (.launch e) e s
/-- `launch.disp` (R390): a held chain operation (R385). -/
def execLaunchDisp (e : FmtE) (s : State) : Out := fireE (.launchDisp e) e s
/-- `launch.recfg` (R391): a held chain operation (R385). -/
def execLaunchRecfg (e : FmtE) (s : State) : Out := fireE (.launchRecfg e) e s

end Sys2Proof.Machine
end

