-- ==== Sys2Proof/Machine/Float.lean ====
section
/-!
DEFINITION. Machine/Float.lean: the floating-point forms (R306 to R317).
-/
namespace Sys2Proof.Machine

/-- Extra latency: one value for `f64`, another for the other types (R303). -/
def latF (t : ETy) (x64 x : Nat) : Nat := if t = .f64 then x64 else x

/-- `fadd` (R307). -/
def execFadd (f : FmtA) (s : State) : Out := fireFlg f (latF f.ty 3 2) s (fun c l r _ => fluAdd f.ty c l r)
/-- `fsub` (R307). -/
def execFsub (f : FmtA) (s : State) : Out := fireFlg f (latF f.ty 3 2) s (fun c l r _ => fluSub f.ty c l r)
/-- `fmul` (R307). -/
def execFmul (f : FmtA) (s : State) : Out := fireFlg f (latF f.ty 3 2) s (fun c l r _ => fluMul f.ty c l r)
/-- `fma` (R307). -/
def execFma (f : FmtA) (s : State) : Out := fireFlg f (latF f.ty 4 3) s (fun c l r a => fluFma f.ty c l r a)
/-- `fmin` (R308). -/
def execFmin (f : FmtA) (s : State) : Out := fireFlg f 0 s (fun _ l r _ => fluMinMax f.ty false l r)
/-- `fmax` (R308). -/
def execFmax (f : FmtA) (s : State) : Out := fireFlg f 0 s (fun _ l r _ => fluMinMax f.ty true l r)
/-- `fabs` (R309). -/
def execFabs (f : FmtA) (s : State) : Out := fireVal f 0 s (fun l _ _ => fluAbs f.ty l)
/-- `fneg` (R309). -/
def execFneg (f : FmtA) (s : State) : Out := fireVal f 0 s (fun l _ _ => fluNeg f.ty l)
/-- `fcmp` (R311). -/
def execFcmp (cc : FCmp) (f : FmtA) (s : State) : Out := fireFlg f 0 s (fun _ l r _ => fluCmp f.ty cc l r)
/-- `fclass` (R311). -/
def execFclass (f : FmtA) (s : State) : Out := fireVal f 0 s (fun l r _ => fluClass f.ty l r)
/-- `frcp` (R316, R317). -/
def execFrcp (f : FmtA) (s : State) : Out := fireFlg f (latF f.ty 8 4) s (fun c l _ _ => mapLane1 f.ty (frcpLane f.ty c) l)
/-- `frsq` (R316, R317). -/
def execFrsq (f : FmtA) (s : State) : Out := fireFlg f (latF f.ty 8 4) s (fun c l _ _ => mapLane1 f.ty (frsqLane f.ty c) l)
/-- Extra latency of `fsqrt` and `fdiv` (R303). -/
def divLatF (t : ETy) : Nat := if t = .f64 then 20 else if t = .f32x2 then 10 else 6
/-- `fsqrt` (R316). -/
def execFsqrt (f : FmtA) (s : State) : Out := fireFlg f (divLatF f.ty) s (fun c l _ _ => fluSqrt f.ty c l)
/-- `fdiv` (R316). -/
def execFdiv (f : FmtA) (s : State) : Out := fireFlg f (divLatF f.ty) s (fun c l r _ => fluDiv f.ty c l r)
/-- `fexp2` (R316, R317). -/
def execFexp2 (f : FmtA) (s : State) : Out := fireFlg f (latF f.ty 24 12) s (fun c l _ _ => mapLane1 f.ty (fun _ => fexp2Lane f.ty c) l)
/-- `flog2` (R316, R317). -/
def execFlog2 (f : FmtA) (s : State) : Out :=
  fireFlg f (latF f.ty 24 12) s (fun c l _ _ => mapLane1 f.ty (fun _ v => flog2Lane f.ty c v) l)
/-- `ftanh` (R316, R317). -/
def execFtanh (f : FmtA) (s : State) : Out :=
  fireFlg f (latF f.ty 24 12) s (fun c l _ _ => mapLane1 f.ty (fun _ v => ftanhLane f.ty c v) l)
/-- `fsin` (R316, R317). -/
def execFsin (f : FmtA) (s : State) : Out :=
  fireFlg f (latF f.ty 24 12) s (fun c l _ _ => mapLane1 f.ty (fun _ v => ftrigLane false f.ty c v) l)
/-- `fcos` (R316, R317). -/
def execFcos (f : FmtA) (s : State) : Out :=
  fireFlg f (latF f.ty 24 12) s (fun c l _ _ => mapLane1 f.ty (fun _ v => ftrigLane true f.ty c v) l)
/-- `fsig` (R316, R317). -/
def execFsig (f : FmtA) (s : State) : Out :=
  fireFlg f (latF f.ty 24 12) s (fun c l _ _ => mapLane1 f.ty (fun _ v => fsigLane f.ty c v) l)
/-- `fround` (R314). -/
def execFround (f : FmtA) (s : State) : Out := fireFlg f 1 s (fun c l _ _ => fluRound f.ty c l)
/-- `fscl` (R314). -/
def execFscl (f : FmtA) (s : State) : Out := fireFlg f 1 s (fun c l r _ => fluScl f.ty c l r)
/-- `famax` (R313). -/
def execFamax (f : FmtA) (s : State) : Out := fireFlg f 0 s (fun _ l r _ => fluAmax f.ty l r)
/-- `fsum` (R313). -/
def execFsum (f : FmtA) (s : State) : Out := fireFlg f (latF f.ty 4 3) s (fun c l r _ => fluSum f.ty c l r)
/-- `fdot2` (R313). -/
def execFdot2 (f : FmtA) (s : State) : Out := fireFlg f (latF f.ty 4 3) s (fun c l r a => fluDot2 f.ty c l r a)

end Sys2Proof.Machine
end

