-- ==== Sys2Proof/Machine/HostRegs.lean ====
section
/-!
DEFINITION. Machine/HostRegs.lean: the registers of BAR0 as the host reads and writes them (R49, R53, R55, R56, R101, R170, R172, R175,
R225, R227, R233, R240, R246, R263), and launch queues enabled and disabled (R57, R58).
-/
namespace Sys2Proof.Machine

/-! ### BAR0 (R49, R53) -/

/-- An offset that BAR0 of a function backs (R49). -/
def bar0Backed (fn off : Nat) : Bool := off < 0x1000 || (0x10000 ≤ off && off < 0x11000) || (fn = 0 && 0x2000 ≤ off && off < 0x3000)

/-- Registers that only the PF has. -/
def pfOnly (off : Nat) : Bool :=
  (0x100 ≤ off && off < 0x1E0) || (0x220 ≤ off && off ≤ 0x260) || (0x300 ≤ off && off < 0x400) || (0x2000 ≤ off && off < 0x3000)

/-- A queue register of an offset: its queue and its place in the block (R56). -/
def queueReg (off : Nat) : Option (Nat × Nat) := if 0x10000 ≤ off && off < 0x11000 then some ((off - 0x10000) / 0x40, off % 0x40) else none

/-- A VF register of an offset: its VF and its place in the block (R55). -/
def vfReg (off : Nat) : Option (Nat × Nat) :=
  if 0x2000 ≤ off && off < 0x2000 + 0x20 * 63 then some ((off - 0x2000) / 0x20 + 1, off % 0x20) else none

/-! ### Reads -/

/-- `HF_STAT` (R53). -/
def State.hfStat (s : State) (fn : Nat) : Nat :=
  let b := s.board
  2 ^ 5 * ((s.hostFn fn).queues.any (fun r => decide (r.2.err.toNat % 256 ≠ 0))).toNat + 2 ^ 4 * b.ptpLock.toNat + 2 ^ 3 * b.cxl.toNat
    + 2 ^ 2 * b.fatal.toNat + 2 * (decide (b.phase = 8)).toNat + (decide (fn ≠ 0)).toNat

/-- `EP_FDEF`d: defective frets of a die (R46). -/
def State.defects (s : State) (d : Nat) : Nat := ((List.range 1024).filter (fun k => nsHas s.board.defects (1024 * d + k))).length

/-- `EP_FOLG` (R46). -/
def Board.folgTrained (b : Board) : Nat :=
  ((List.range 24).map (fun p => if (tget b.ports p).any Port.up then 2 ^ p else 0)).foldl (· + ·) 0

/-- `EP_FPORT`p (R46). -/
def Board.fport (b : Board) (p : Nat) : Nat :=
  match tget b.ports p with
  | none => 0
  | some x => if x.up then 2 ^ 10 * x.data.toNat + 2 ^ 9 + 2 ^ 6 * (x.lanes % 4) + x.rate / 10 % 64 else 0

/-- `HF_DBGSTAT`, whose `HELD` says whether the attached task is in HELD (R227). -/
def State.dbgStat (s : State) : Word :=
  let held := (s.obs.dbg.attached.bind s.task?).any (fun t => decide (t.st = .held))
  (s.reg 0 0x318 &&& ~~~ (4 : Word)) ||| (if held then 4 else 0)

/-- What an aligned 8-byte read of a backed BAR0 offset returns (R53); PF-only registers read as zero in a VF. -/
def State.readReg (s : State) (fn off : Nat) : Word :=
  if fn ≠ 0 && pfOnly off then 0
  else if off = 0x000 then BitVec.ofNat 64 (0x0009 * 2 ^ 16) ||| (Config.siliconRev.setWidth 64)
  else if off = 0x008 then BitVec.ofNat 64 (s.hfStat fn)
  else if off = 0x020 then (if fn = 0 then 0 else s.reg 0 (0x2008 + 0x20 * (fn - 1)))
  else if off = 0x028 then (if fn = 0 then 0 else s.reg 0 (0x2010 + 0x20 * (fn - 1)))
  else if off = 0x100 then s.board.devId.setWidth 64
  else if off = 0x318 then s.dbgStat
  else if off = 0x110 then BitVec.ofNat 64 (((List.range 4).map (fun d => 2 ^ (11 * d) * (s.defects d % 2 ^ 11))).foldl (· + ·) 0)
  else if off = 0x118 then BitVec.ofNat 64 s.board.folgTrained
  else if 0x120 ≤ off && off < 0x120 + 8 * 24 then BitVec.ofNat 64 (s.board.fport ((off - 0x120) / 8))
  else
    match queueReg off with
    | some (q, r) =>
      let x := s.queue fn q
      if r = 0x00 then x.base else if r = 0x08 then x.prod else if r = 0x10 then x.ctl else if r = 0x18 then x.cons
      else if r = 0x20 then x.err else 0
    | none => s.reg fn off

/-- A read of BAR0 as the host has it answered: none where no register stands there (Unsupported Request), zero for a narrower or
misaligned access (R49, R53). -/
def State.readBar0 (s : State) (fn off size : Nat) : Option Word :=
  if !bar0Backed fn off then none else if size ≠ 8 || off % 8 ≠ 0 then some 0 else some (s.readReg fn off)

/-! ### Writes -/

/-- Writable bits of a plain register. -/
def regMask (off : Nat) : Word :=
  if off = 0x018 then 0x000FFFFFFFFFF0FF
  else if off = 0x108 then 0xFFFFFFFFC0000000
  else if off = 0x200 then 0x000FFFFFFFFFF03F
  else if off = 0x228 || off = 0x2A0 || off = 0x2C0 || off = 0x300 then 0xFFFFFFFFFFFFFFFF
  else if off = 0x240 then 0x000FFFFFFFFF0001
  else if off = 0x248 then 0xFFFF
  else if off = 0x280 then 0x000FFFFFFFFF8001
  else if off = 0x2C8 then 0xFFFFFFFF00000002
  else if off = 0x308 then 0xFF00003F06
  else if off = 0x310 then 0x3FFF03F0
  else if off = 0x320 then 0x000FFFFFFFFFFFC0
  else if off = 0x340 || off = 0x348 || off = 0x350 || off = 0x358 then 0x8000FFFF3FFF3FFF
  else if off = 0x380 then 0xBF3F
  else if off = 0x388 then 0x000FFFFFFFFFFF80
  else if off = 0x390 then 0xFF00BF3F
  else if off = 0x398 then 0x000FFFFFFFFFC000
  else 0

/-- A function with an enabled queue or a task that has not ended (R53). -/
def State.fnBusy (s : State) (fn : Nat) : Bool :=
  (s.hostFn fn).queues.any (fun r => r.2.ctl.getLsbD 0) || s.tasks.any (fun t => t.fn = fn && t.st.live && !t.svc)

/-- A write that its register ignores in the present state (R53, R101, R170, R227, R233). -/
def State.regIgnores (s : State) (fn off : Nat) (v : Word) : Bool :=
  if off = 0x018 || off = 0x108 then s.fnBusy fn
  else if off = 0x200 then (tget s.mem.invs fn).isSome
  else if off = 0x2A0 then decide ((s.reg fn 0x298).toNat < v.toNat)
  else if off = 0x2C0 || off = 0x2C8 then (s.hostFn fn).kill.isSome
  else if off = 0x310 then (s.reg 0 0x318).getLsbD 1
  else false

/-- A ring register written (R172, R233): `BASE` and `LOG2SZ` stay while `EN` is set, and a size out of range leaves `EN` at 0. -/
def ringReg (old v baseMask : Word) (maxLog : Nat) : Word :=
  let keep := if old.getLsbD 8 then old &&& (baseMask ||| 0xF) else v &&& (baseMask ||| 0xF)
  if v.getLsbD 8 && keep.toNat % 16 ≤ maxLog then keep ||| 0x100 else keep

/-- A VF register written (R55). -/
def State.writeVfReg (s : State) (off r : Nat) (v : Word) : State :=
  if r = 0x00 then (if s.host.vfEnable then s else s.setReg 0 off (v &&& 0x000FFFFFFFE00000))
  else if r = 0x08 then (if s.host.vfEnable then s else s.setReg 0 off (v &&& 0x7FFFE00000))
  else if r = 0x10 then (if 4096 < bits v 12 0 then s else s.setReg 0 off (v &&& 0x71FFF))
  else s

/-- A queue register other than `HQ_CTL` written (R56). -/
def State.writeQueueReg (s : State) (fn q r : Nat) (v : Word) : State :=
  let x := s.queue fn q
  if x.ctl.getLsbD 0 then s
  else if r = 0x00 then s.setQueue fn q { x with base := v &&& 0x000FFFFFFFFFF00F }
  else if r = 0x08 then s.setQueue fn q { x with prod := v &&& 0x000FFFFFFFFFFF80 }
  else if r = 0x18 then s.setQueue fn q { x with cons := v }
  else s

/-- A plain register written: its writable fields change. -/
def State.writeReg (s : State) (fn off : Nat) (v : Word) : State :=
  if fn ≠ 0 && pfOnly off then s
  else
    match queueReg off, vfReg off with
    | some (q, r), _ => s.writeQueueReg fn q r v
    | none, some (_, r) => s.writeVfReg off r v
    | none, none =>
      if s.regIgnores fn off v then s
      else if off = 0x220 then s.setReg 0 off (ringReg (s.reg 0 off) v 0x000FFFFFFFFFF000 8)
      else if off = 0x290 then s.setReg fn off (ringReg (s.reg fn off) v 0x000FFFFFFFFF0000 10)
      else if regMask off = 0 then s
      else s.setReg fn off (v &&& regMask off)

/-- Offsets whose aligned 8-byte writes are events of their own. -/
def ownEvent (fn off : Nat) (v : Word) : Bool :=
  off = 0x010 || off = 0x208 || (off = 0x2C8 && v.getLsbD 0) || (queueReg off).any (fun q => q.2 = 0x10)
    || (fn = 0 && (off = 0x100 || off = 0x258 || off = 0x260 || (off = 0x310 && 1 ≤ bits v 3 0 && bits v 3 0 ≤ 6)))

/-! ### BAR4 (R49, R50, R65) -/

/-- Vectors of a function (R50). -/
def vecCount (fn : Nat) : Nat := if fn = 0 then 256 else 32

/-- An offset that BAR4 backs: the MSI-X table, 16 bytes to a vector, or the pending-bit array. -/
def bar4Backed (fn off : Nat) : Bool := off < 16 * vecCount fn || (0x10000 ≤ off && off < 0x10000 + 8 * ((vecCount fn + 63) / 64))

/-- The 32-bit word at an offset of BAR4. -/
def State.readMsix (s : State) (fn off : Nat) : Nat :=
  if off < 0x10000 then
    let x := s.msixVec fn (off / 16)
    if off % 16 = 0 then x.addr.toNat % 2 ^ 32 else if off % 16 = 4 then x.addr.toNat / 2 ^ 32
    else if off % 16 = 8 then x.data.toNat else x.masked.toNat
  else
    let first := 8 * (off - 0x10000)
    ((List.range 32).map (fun k => 2 ^ k * (nsHas (s.hostFn fn).pending (first + k)).toNat)).foldl (· + ·) 0

/-- A read of BAR4 as the host has it answered: none is Unsupported Request; a read that is no aligned word or pair of words reads as zero. -/
def State.readBar4 (s : State) (fn off size : Nat) : Option Word :=
  if !bar4Backed fn off then none
  else if size = 4 && off % 4 = 0 then some (BitVec.ofNat 64 (s.readMsix fn off))
  else if size = 8 && off % 8 = 0 then some (BitVec.ofNat 64 (s.readMsix fn off + 2 ^ 32 * s.readMsix fn (off + 4)))
  else some 0

def State.setVec (s : State) (fn vec : Nat) (x : MsixVec) : State := s.modFn fn (fun f => { f with vecs := tput f.vecs vec x })

/-- A vector's mask bit written; a pending message is sent as its vector is unmasked (R65). -/
def State.maskVec (s : State) (fn vec : Nat) (v : Bool) : State :=
  let s := s.setVec fn vec { s.msixVec fn vec with masked := v }
  if !v && nsHas (s.hostFn fn).pending vec then (s.modFn fn (fun f => { f with pending := nsDel f.pending vec })).raiseVec fn vec else s

/-- A 32-bit word of BAR4 written; the pending-bit array is read only. -/
def State.writeMsix (s : State) (fn off v : Nat) : State :=
  let vec := off / 16
  let x := s.msixVec fn vec
  if 0x10000 ≤ off then s
  else if off % 16 = 0 then s.setVec fn vec { x with addr := BitVec.ofNat 64 (x.addr.toNat / 2 ^ 32 * 2 ^ 32 + v % 2 ^ 32 / 4 * 4) }
  else if off % 16 = 4 then s.setVec fn vec { x with addr := BitVec.ofNat 64 (v % 2 ^ 32 * 2 ^ 32 + x.addr.toNat % 2 ^ 32) }
  else if off % 16 = 8 then s.setVec fn vec { x with data := BitVec.ofNat 32 v }
  else s.maskVec fn vec (v % 2 = 1)

/-- A write of BAR4: an aligned word, or an aligned pair of words in order; another is ignored (R49). -/
def State.writeBar4 (s : State) (fn off size : Nat) (v : Word) : State :=
  if size = 4 && off % 4 = 0 then s.writeMsix fn off v.toNat
  else if size = 8 && off % 8 = 0 then (s.writeMsix fn off (v.toNat % 2 ^ 32)).writeMsix fn (off + 4) (v.toNat / 2 ^ 32)
  else s

/-- `REGISTER_WRITE` (R49, R53): a write of a BAR0 register that has no event of its own, or of BAR4. -/
def execRegisterWrite (window : BarWindow) (off size : Nat) (v : Word) (s : State) : Out :=
  let fn := window.fn
  if window.bar = 4 then s.hostAccess "REGISTER_WRITE" fn true (if bar4Backed fn off then s.writeBar4 fn off size v else s.reply .unsupported)
  else if !bar0Backed fn off then s.hostAccess "REGISTER_WRITE" fn true (s.reply .unsupported)
  else if size ≠ 8 || off % 8 ≠ 0 then s.hostAccess "REGISTER_WRITE" fn true s
  else s.hostAccess "REGISTER_WRITE" fn (!ownEvent fn off v) ((s.writeReg fn off v).settleCounters s)

/-- `HF_EVT_CLEAR` (R53): the bits written as 1 clear. -/
def execHfEvtClear (fn : Nat) (v : Word) (s : State) : Out :=
  s.hostAccess "HF_EVT_CLEAR" fn true (s.setReg fn 0x010 (s.reg fn 0x010 &&& ~~~ v))

/-- `HF_ACOVF_CLEAR` (R175): any write clears the count. -/
def execHfAcovfClear (s : State) : Out := s.hostAccess "HF_ACOVF_CLEAR" 0 true (s.setReg 0 0x260 0)

/-- Entries before an index consumed (R176). -/
def State.consumeAc (s : State) (v : Word) : State :=
  let s' := s.setReg 0 0x258 v
  ({ s' with mem := { s'.mem with acQueued := s'.mem.acQueued.filter (fun q => v.toNat ≤ q.2) } } : State).settleCounters s

/-- `ACCESS_QUEUE_CONSUME` (R176): `CONS` is written; a value beyond `PROD` is ignored. -/
def execAccessQueueConsume (v : Word) (s : State) : Out :=
  s.hostAccess "ACCESS_QUEUE_CONSUME" 0 true (if (s.reg 0 0x250).toNat < v.toNat then s else s.consumeAc v)

/-! ### Queues (R57, R58) -/

/-- Whether every 4 KiB block of a range lies in device memory that a function may name. -/
def State.rangeInDevice (s : State) (fn a n : Nat) : Bool :=
  (List.range ((a + n - 1) / 4096 - a / 4096 + 1)).all (fun k =>
    let x := max a (4096 * (a / 4096 + k))
    !isHost x && (s.fnAddr fn x).isSome)

/-- Records that a queue's array holds. -/
def Queue.size (x : Queue) : Nat := 2 ^ (x.base.toNat % 16 + 4)
def Queue.array (x : Queue) : Nat := bits x.base 51 12 * 4096
def Queue.line (x : Queue) : Nat := bits x.prod 51 7 * 128

/-- Whether a queue's configuration keeps R57. -/
def State.queueValid (s : State) (fn : Nat) (x : Queue) : Bool :=
  x.base.toNat % 16 ≤ 12 &&
    if s.usesHlc fn then isHost x.array && isHost (x.array + 128 * x.size - 1) && isHost x.line
    else s.rangeInDevice fn x.array (128 * x.size) && s.rangeInDevice fn x.line 128

/-- `QUEUE_ENABLE` (R57): `EN` = 1 is written to `HQ_CTL`: `CODE` clears, and the queue is enabled or fails with BADCFG. -/
def execQueueEnable (fn queue : Nat) (v : Word) (s : State) : Out :=
  let x := s.queue fn queue
  let ok := s.queueValid fn x
  let s' := s.setQueue fn queue { x with ctl := (v &&& 0x700) ||| (if ok then 1 else 0), err := if ok then 0 else 1 }
  s.hostAccess "QUEUE_ENABLE" fn (queue < 64 && v.getLsbD 0) (if ok then s' else s'.setEvt fn 0)

/-- `QUEUE_DISABLE` (R58): `EN` = 0 is written to `HQ_CTL`. -/
def execQueueDisable (fn queue : Nat) (v : Word) (s : State) : Out :=
  s.hostAccess "QUEUE_DISABLE" fn (queue < 64 && !v.getLsbD 0) (s.setQueue fn queue { s.queue fn queue with ctl := v &&& 0x700 })

/-! ### The dispatcher (R58 to R61) -/

/-- How a queue stands as the dispatcher scans it. -/
inductive QScan
  | idle
  | blocked
  | ready (record : List Byte)
  | error (code : Nat)
  deriving DecidableEq, Repr

/-- A device physical address of a queue's array or line. -/
def State.queueAddr (s : State) (fn a : Nat) : Nat := (s.fnAddr fn a).getD a

/-- A queue that is scanned: enabled, of a function that is not being reset, and not in host memory during a link loss (R42, R44). -/
def State.scans (s : State) (fn : Nat) (x : Queue) : Bool :=
  x.ctl.getLsbD 0 && s.fnPresent fn && (s.hostFn fn).flr.isNone && !(s.board.hostLoss && isHost x.line)

/-- Address of a queue's oldest record. -/
def State.recordAddr (s : State) (fn : Nat) (x : Queue) : Nat := s.queueAddr fn (x.array + 128 * (x.cons.toNat % x.size))

/-- A queue scanned: nothing posted, an index out of range (R58), a bad record (R59), waits open or unusable (R60), or ready. A producer
line or a record whose line is poisoned or spent is read as its bytes stand (log entry 62). -/
def State.scanQueue (s : State) (fn q : Nat) : QScan :=
  let x := s.queue fn q
  if !s.scans fn x then .idle
  else
    let posted := (BitVec.ofNat 64 (s.readNat (s.queueAddr fn x.line) 8) - x.cons).toNat
    if posted = 0 then .idle
    else if x.size < posted then .error 2
    else
      let b := s.readBytes (s.recordAddr fn x) 128
      if s.badRec fn b then .error 3
      else
        let ws := (lrecOf b).waits.map (s.waitEntry (256 * fn + (lrecOf b).asid))
        if ws.any Option.isNone then .error 4
        else if ws.all (fun w => w = some true) then .ready b
        else .blocked

/-- Whether the lines that a pick of a queue reads are at rest. -/
def State.pickQuiet (s : State) (fn q : Nat) (b : List Byte) : Bool :=
  let x := s.queue fn q
  let r := lrecOf b
  let space := 256 * fn + r.asid
  s.mem.quiet (s.queueAddr fn x.line / 128) && s.mem.quiet (s.recordAddr fn x / 128)
    && (((r.hdr, 256) :: r.waits.map (fun w => (w.1, 8))).all (fun w => match s.physOf space w.1 with
      | some (pa, _) => s.rangeQuiet pa w.2
      | none => true))

/-- The queues that are ready, as (64 * function + queue, priority, record). -/
def State.readyQueues (s : State) : List (Nat × Nat × List Byte) :=
  s.host.fns.flatMap (fun f => f.2.queues.filterMap (fun q => match s.scanQueue f.1 q.1 with
    | .ready b => some (64 * f.1 + q.1, bits q.2.ctl 10 8, b)
    | _ => none))

/-- R61, step 2: the queue picked: the highest priority, and at it the next after the one last served, wrapping round. -/
def State.pickNext (s : State) : Option (Nat × Nat × List Byte) :=
  minBy (fun r => (7 - r.2.1) * 4096 + (r.1 + 4095 - tgetD s.host.served r.2.1 4095) % 4096) s.readyQueues

/-- A ready queue's record taken (R61, steps 3, 7 and 8). One that ends in HDRADDR leaves the record of the queue last served (log entry 62). -/
def State.pick (s : State) (k prio : Nat) (b : List Byte) : State :=
  let fn := k / 64
  let q := k % 64
  let served := fun (s : State) => ({ s with host := { s.host with served := tput s.host.served prio k } } : State)
  match s.takeRecord fn q b with
  | .launched s _ => served (s.queueNext fn q)
  | .noRoom => served s
  | .hdrAddr => s.queueError fn q 4

/-- `DISPATCH_PICK` (R61): `subject` 0 is a pick; 64 * function + queue + 1 is the finding that this queue is in error. -/
def execDispatchPick (s : State) : Out :=
  if !s.sched.dispatching || s.board.phase ≠ 8 || s.board.fatal then .refused (.notEnabled "DISPATCH_PICK")
  else if s.subject = 0 then
    match s.pickNext with
    | none => .refused (.notEnabled "DISPATCH_PICK")
    | some (k, prio, b) => event "DISPATCH_PICK" (s.pickQuiet (k / 64) (k % 64) b) (s.pick k prio b)
  else
    let fn := (s.subject - 1) / 64
    let q := (s.subject - 1) % 64
    match s.scanQueue fn q with
    | .error code => event "DISPATCH_PICK" (s.mem.quiet (s.queueAddr fn (s.queue fn q).line / 128)) (s.queueError fn q code)
    | _ => .refused (.notEnabled "DISPATCH_PICK")

end Sys2Proof.Machine
end

