-- ==== Sys2Proof/Machine/HostMem.lean ====
section
/-!
DEFINITION. Machine/HostMem.lean: device memory as the host reaches it (R52, R19), invalidations (R170, R171), page migration (R172 to
R174), and PCIe configuration requests (R30, R42).
-/
namespace Sys2Proof.Machine

/-! ### BAR2 and CXL.mem (R52, R165, R19) -/

/-- The device physical address of a BAR2 offset, where it is backed and the function's (R52), within the size that the PF's BAR2 has been given
(R49). -/
def State.bar2Addr (s : State) (fn off : Nat) : Option Nat :=
  if fn = 0 then (if off < 2 ^ s.host.bar2Log && s.hbmBacked off then some off else none)
  else if off < s.vfSize fn && s.hbmBacked (s.vfBase fn + off) then some (s.vfBase fn + off)
  else none

/-- The device physical address of a BAR2 range, where all of it is backed. -/
def State.bar2Range (s : State) (fn off n : Nat) : Option Nat :=
  if (linesOf off n).all (fun l => (s.bar2Addr fn (max off (128 * l))).isSome) then (if n = 0 then some off else s.bar2Addr fn off) else none

/-- A line read at its home by an agent without an L1: an owner keeps S (R152); a busy line is read at its channel (R158), a counted one
has no L1 copies (R165). -/
def State.takeAtHome (s : State) (line : Nat) : State :=
  if s.busy line || s.mem.counted line then s else { s.bump with mem := s.mem.homeRead line s.seqCtr }

/-- A host read of device memory at the homes of its lines: poisoned where a line is spent (R52) or poisoned (R157). -/
def State.hostRead (s : State) (pa n : Nat) : State :=
  let ls := linesOf pa n
  let s := s.readLines (ls.filter (fun l => !s.mem.isSpent l))
  if ls.any (fun l => s.mem.isSpent l || s.poisoned l) then s.reply .poisoned
  else (ls.foldl State.takeAtHome s).reply (.data (s.readBytes pa n))

/-- A host write of device memory at the homes of its lines: dropped on a spent line (R52). -/
def State.hostPut (s : State) (pa : Nat) (bs : List Byte) : Nat → State
  | 0 => s
  | n + 1 =>
    let k := min (128 - pa % 128) bs.length
    if k = 0 then s
    else
      let s := if s.mem.isSpent (pa / 128) then s else s.writePiece 0 pa k (leNat (bs.take k))
      s.hostPut (pa + k) (bs.drop k) n

/-- `BAR2_READ` (R52). -/
def execBar2Read (fn off len : Nat) (s : State) : Out :=
  match s.bar2Range fn off len with
  | none => s.hostAccess "BAR2_READ" fn true (s.reply .unsupported)
  | some pa => s.hostAccess "BAR2_READ" fn (s.rangeQuiet pa len) (s.hostRead pa len)

/-- `BAR2_WRITE` (R52). -/
def execBar2Write (fn off : Nat) (bytes : List Byte) (s : State) : Out :=
  match s.bar2Range fn off bytes.length with
  | none => s.hostAccess "BAR2_WRITE" fn true (s.reply .unsupported)
  | some pa => s.hostAccess "BAR2_WRITE" fn (s.rangeQuiet pa bytes.length) (s.hostPut pa bytes (bytes.length / 128 + 2))

/-- A range of device memory, where all of it is backed. -/
def State.hbmRange (s : State) (pa n : Nat) : Option Nat :=
  if (linesOf pa n).all (fun l => s.hbmBacked (max pa (128 * l))) then some pa else none

/-- Whether the host reaches device memory through CXL.mem: in CXL mode, whatever resets of functions are under way (R19, R32). -/
def State.cxlReach (s : State) : Reach :=
  if !s.board.hlink || s.board.hostLoss || !s.board.pwrGood || !s.board.cxl then .absent
  else if s.board.fatal || s.board.phase ≠ 8 then .unsupported
  else .served

/-- The lines that a CXL.mem read gives to the host, to be taken back before they are written (R19, log entry 69); one that was poisoned, spent,
counted or busy `before` is not given. -/
def State.giveHdm (s before : State) (pa n : Nat) : State :=
  let ls := (linesOf pa n).filter (fun l => !(before.mem.isSpent l || before.poisoned l || before.mem.counted l || before.busy l))
  { s with mem := { s.mem with hdm := ls.foldl nsAdd s.mem.hdm } }

/-- The host writes lines back: it holds them no longer, and what it had modified of them comes with them. -/
def State.takeHdm (s : State) (pa n : Nat) : State := { s with mem := (linesOf pa n).foldl Mem.endHdm s.mem }

/-- Whether the host may take lines to write in them in its own cache: none is spent, counted, poisoned, busy or under migration. -/
def State.mayModify (s : State) (pa n : Nat) : Bool :=
  (linesOf pa n).all (fun l => !s.mem.isSpent l && !s.mem.counted l && !s.poisoned l && !s.busy l && (s.mem.migAt (128 * l)).isNone)

/-- Lines that the host takes and writes in its own cache (R19, log entry 69): every copy of the device's is given up, the newest data is then the
host's, and the waits on the line look at it (R348). -/
def State.hostModify (s : State) (pa : Nat) (bs : List Byte) : Nat → State
  | 0 => s
  | n + 1 =>
    let k := min (128 - pa % 128) bs.length
    let l := pa / 128
    if k = 0 then s
    else
      let s := if (tget s.mem.hdmMod l).isSome then s else { s.takeAtHome l with mem := (s.takeAtHome l).mem.recallAll l }
      let d := lineWrite (s.lineValue l) (pa % 128) k (leNat (bs.take k))
      let m := { s.mem with hdm := nsAdd s.mem.hdm l, hdmMod := tput s.mem.hdmMod l d }
      State.hostModify { s with mem := m.recheck l d } (pa + k) (bs.drop k) n

/-- `CXL_MEM_ACCESS` (R19, R52): `bytes` gives the data of a write, and by its length that of a read. As HDM-DB, the host may keep the lines that
it has read until the device takes them back. `subject` 1 has the host write in lines that it takes into its own cache (log entry 69). -/
def execCxlMemAccess (write : Bool) (addr : Nat) (bytes : List Byte) (s : State) : Out :=
  match s.cxlReach with
  | .absent => .refused (.notEnabled "CXL_MEM_ACCESS")
  | .unsupported => .next (s.reply .unsupported)
  | .served =>
    let n := bytes.length
    match s.hbmRange addr n with
    | none => .next (s.reply .unsupported)
    | some pa =>
      event "CXL_MEM_ACCESS" (s.rangeQuiet pa n && !(write && s.subject = 1 && !s.mayModify pa n))
        (if !write then (s.hostRead pa n).giveHdm s pa n
         else if s.subject = 1 then s.hostModify pa bytes (n / 128 + 2)
         else (s.takeHdm pa n).hostPut pa bytes (n / 128 + 2))

/-! ### Invalidation (R170, R171) -/

/-- Whether an invalidation's command matches an address space. -/
def invSpace (fn : Nat) (cmd : Word) (space : Nat) : Bool :=
  if bits cmd 17 16 = 2 then space / 256 = fn else space = 256 * fn + bits cmd 7 0


/-- Waits registered at a place that their address no longer has: they are made again (R171, R174). -/
def State.movedWaits (s : State) (space : Nat → Bool) : List WobOp :=
  let moved := fun (op : WobOp) => match s.task? op.task with
    | some t => space t.space && (s.physOf t.space op.ea).map Prod.fst ≠ some op.pa
    | none => false
  (s.mem.waits.map Wait.op ++ s.mem.ldcWait.map Req.op).filter moved

/-- Translations of address spaces removed for a range, and what waits translated again (R171, steps 1 and 2). -/
def State.invalidate (s : State) (space : Nat → Bool) (lo hi : Nat) : State :=
  let s := { s with mem := s.mem.tlbDrop space lo hi }
  let mv := s.movedWaits space
  let again := fun (op : WobOp) => mv.any (fun o => o.seq = op.seq && o.task = op.task)
  let s := { s with mem := { s.mem with
    waits := s.mem.waits.filter (fun w => !again w.op), ldcWait := s.mem.ldcWait.filter (fun r => !again r.op) } }
  let s := mv.foldl (fun s op => s.putOp { op with st := .committed }) s
  (s.unsentOf space).foldl State.retranslate s

/-- The range of `HF_INVADDR` (R170). A VA that is not aligned to the range's size is rounded down to it (log entry 85). -/
def invRange (r : Word) : Nat × Nat :=
  let n := 2 ^ (12 + min 40 (r.toNat % 64))
  let lo := bits r 51 12 * 4096 / n * n
  (lo, lo + n)

/-- An invalidation begun (R171). -/
def State.beginInvalidation (s : State) (fn : Nat) (v : Word) : State :=
  let r := if bits v 17 16 = 0 then invRange (s.reg fn 0x200) else (0, 2 ^ 52)
  let s := (s.setReg fn 0x208 (v &&& 0xFFFFFFFF000300FF)).setReg fn 0x210 (s.reg fn 0x210 ||| 1)
  let s := s.invalidate (invSpace fn v) r.1 r.2
  { s with mem := { s.mem with invs := tput s.mem.invs fn ⟨v, s.seqCtr⟩ } }

/-- `INVALIDATION_START` (R171): `HF_INVCMD` is written; ignored while `BUSY`, and with `KIND` 3. -/
def execInvalidationStart (fn : Nat) (v : Word) (s : State) : Out :=
  let idle := (tget s.mem.invs fn).isSome || bits v 17 16 = 3
  s.hostAccess "INVALIDATION_START" fn true (if idle then s else s.beginInvalidation fn v)

/-- Whether an operation issued before an order number in matching address spaces is still under way. -/
def State.beforeDrain (s : State) (space : Nat → Bool) (n : Nat) (op : WobOp) (seq : Nat) : Bool :=
  seq < n && match s.task? op.task with
    | some t => space t.space
    | none => false

/-- Whether every drain token of an invalidation has arrived: no request sent before it waits at its home, but for establishments held
up by a migration (R174), and no near-memory command issued before it runs. -/
def State.invDrained (s : State) (space : Nat → Bool) (n : Nat) : Bool :=
  !s.mem.reqs.any (fun r => !(r.kind = .establish && (s.mem.migAt (128 * r.line)).isSome) && s.beforeDrain space n r.op r.seq)
    && !s.mem.txns.any (fun t => s.beforeDrain space n t.req.op t.req.seq)
    && !s.eng.cmds.any (fun c => c.running && isNmc c.op.instr && s.beforeDrain space n c.op c.op.seq)

/-- `INVALIDATION_COMPLETE` (R171): the drain tokens of function `subject`'s invalidation have arrived. -/
def execInvalidationComplete (s : State) : Out :=
  let fn := s.subject
  match tget s.mem.invs fn with
  | none => .refused (.notEnabled "INVALIDATION_COMPLETE")
  | some v =>
    let s' := s.setReg fn 0x210 (BitVec.ofNat 64 (bits v.cmd 63 32 * 2 ^ 32))
    event "INVALIDATION_COMPLETE" (s.invDrained (invSpace fn v.cmd) v.before)
      { s' with mem := { s'.mem with invs := tdel s'.mem.invs fn } }

/-! ### Migration (R172 to R174) -/

/-- Whether a physical page is aligned and backed. -/
def State.pageOk (s : State) (pa size : Nat) : Bool :=
  pa % pageBytes size = 0 && (List.range (pageBytes size / 4096)).all (fun k => s.backed (pa + 4096 * k))

/-- A frame, as a function's leaf names it, of a physical page (R51). -/
def State.frameOf (s : State) (fn pa : Nat) : Nat := if fn = 0 || isHost pa then pa else pa - s.vfBase fn

/-- Leaf entries that map a page, by address. -/
def pteAddrs (ptea size : Nat) : List Nat := if size = 1 then (List.range 16).map (fun k => ptea + 8 * k) else [ptea]

/-- Level of the leaf of a page size. -/
def leafLevel (size : Nat) : Nat := if size ≤ 1 then 0 else size - 1

/-- Whether the entries at `PTEA` are a valid leaf of `SIZE` that maps `SRC`. -/
def State.pteMaps (s : State) (fn ptea size src : Nat) : Bool :=
  let es := (pteAddrs ptea size).map (fun a => s.readNat a 8)
  let e := es.headD 0
  ptea % (if size = 1 then 128 else 8) = 0 && s.hbmBacked ptea && pteValid (leafLevel size) e && pteLeaf e && pteCont e = (size = 1 : Bool)
    && es.all (fun x => x % 2 = 1 && pteFrame x = pteFrame e && pteW x = pteW e && pteCont x = pteCont e)
    && s.fnAddr fn (pteFrame e) = some src

/-- Address of the ring's next record. -/
def State.migRecordAddr (s : State) : Nat :=
  let q := s.reg 0 0x220
  bits q 51 12 * 4096 + 64 * ((s.reg 0 0x230).toNat % 2 ^ (q.toNat % 16 + 4))

/-- A record as a migration. -/
def migOf (b : List Byte) : Mig :=
  let f := field b
  { src := f 0 8, dst := f 8 8, ptea := f 16 8, va := f 24 8, size := f 32 1, fn := f 33 1, asid := f 34 1, done := 0, copied := 0, stat := f 40 8 }

/-- Whether a record is bad (R172). -/
def State.migBad (s : State) (b : List Byte) : Bool :=
  let g := migOf b
  field b 35 5 ≠ 0 || field b 48 16 ≠ 0 || 3 < g.size || 63 < g.fn || !s.pageOk g.src g.size || !s.pageOk g.dst g.size
    || g.va % pageBytes g.size ≠ 0 || 2 ^ 52 ≤ g.va || g.stat % 8 ≠ 0
    || s.fnAddr g.fn (s.frameOf g.fn g.dst) ≠ some g.dst || !s.pteMaps g.fn g.ptea g.size g.src

/-- The lines of piece n of a page. -/
def Mig.piece (g : Mig) (n : Nat) : List Nat := linesOf (g.src + pieceBytes g.size * n) (pieceBytes g.size)
def Mig.pieces (g : Mig) : Nat := pageBytes g.size / pieceBytes g.size

/-- A counted line or a spent marker among some lines. -/
def Mem.anyCounted (m : Mem) (lines : List Nat) : Bool := lines.any (fun l => m.counted l || m.isSpent l)

/-- L1 copies of a piece's lines reduced to S, as it is registered (R173). -/
def State.registerLines (s : State) (lines : List Nat) : State :=
  { s with mem := lines.foldl (fun m l => if isHost (128 * l) then m else (m.backInvalidate l).share l) s.mem }

/-- Whether a piece may be registered: nothing is under way for its lines, none is counted, and no near-memory command works on it. -/
def State.mayRegister (s : State) (lines : List Nat) : Bool :=
  lines.all (fun l => s.mem.quiet l && !s.busy l) && !s.mem.anyCounted lines

/-- The next record taken: BADREQ, DEFERRED, or a page started with its first piece registered. -/
def State.takeMig (s : State) (b : List Byte) : State :=
  let g := migOf b
  let s' := s.setReg 0 0x230 (s.reg 0 0x230 + 1)
  if s.migBad b then (s'.migStatus g 3).settleCounters s
  else if s.mem.anyCounted (linesOf g.src (pageBytes g.size)) then (s'.migStatus g 4).settleCounters s
  else ({ s' with mem := { s'.mem with migs := s'.mem.migs ++ [g] } } : State).registerLines (g.piece 0)

/-- `MIGRATION_RECORD_CONSUME` (R172): the engine, at work on fewer than 16 pages, takes the ring's next record. -/
def execMigrationRecordConsume (s : State) : Out :=
  let a := s.migRecordAddr
  let b := s.readBytes a 64
  let g := migOf b
  let posted := (s.reg 0 0x220).getLsbD 8 && s.reg 0 0x228 ≠ s.reg 0 0x230 && s.hbmBacked a
  let free := s.migBad b || s.mem.anyCounted (linesOf g.src (pageBytes g.size)) || s.mayRegister (g.piece 0)
  event "MIGRATION_RECORD_CONSUME" (posted && s.board.phase = 8 && s.mem.migs.length < 16 && s.mem.quiet (a / 128) && s.mem.quiet (g.stat / 128) && free)
    (s.takeMig b)

/-- A line of a page copied to the new page, with its poison (R174). -/
def State.copyLine (g : Mig) (s : State) (line : Nat) : State :=
  let dst := g.dst + (128 * line - g.src)
  let bad := if isHost (128 * line) then nsHas s.mem.hostPoison line else s.poisoned line
  let d := dst / 128
  let s := s.writeAt 0 dst 128 (s.lineValue line).toNat
  let set := fun (u : NSet) => if bad then nsAdd u d else u
  { s with mem := if isHost dst then { s.mem with hostPoison := set s.mem.hostPoison } else { s.mem with poison := set s.mem.poison } }

/-- `MIGRATION_PIECE_COPY` (R173): the piece under way of migration `subject` is copied, line by line, and the next is registered. -/
def execMigrationPieceCopy (s : State) : Out :=
  match s.mem.migs[s.subject]? with
  | none => .refused (.notEnabled "MIGRATION_PIECE_COPY")
  | some g =>
    let next := if g.done + 1 < g.pieces then g.piece (g.done + 1) else []
    let lines := g.piece g.done
    let news := linesOf (g.dst + pieceBytes g.size * g.done) (pieceBytes g.size)
    let up := !s.board.hostLoss || !(isHost g.src || isHost g.dst)
    let s' := lines.foldl (State.copyLine g) s
    let s' := { s' with mem := { s'.mem with
      migs := setAt s'.mem.migs s.subject { g with done := g.done + 1, copied := g.copied + pieceBytes g.size } } }
    event "MIGRATION_PIECE_COPY" (g.done < g.pieces && up && s.mayRegister next && lines.all s.mem.settled && news.all s.mem.quiet)
      (s'.registerLines next)

/-- The leaf entries at `PTEA` given the new frame. -/
def State.rewritePtes (s : State) (g : Mig) : State :=
  (pteAddrs g.ptea g.size).foldl (fun s a =>
    let e := s.readNat a 8
    s.writeBytes 0 a (leBytes 8 (e - pteFrame e + s.frameOf g.fn g.dst))) s

/-- Whether nothing that reached the old page is still under way: establishments wait for the switch-over (R174). -/
def State.pageDrained (s : State) (g : Mig) : Bool :=
  (linesOf g.src (pageBytes g.size)).all (fun l =>
    s.mem.settled l && !s.busy l && !s.mem.reqs.any (fun r => r.line = l && r.kind ≠ .establish))

/-- `MIGRATION_SWITCH_OVER` (R173): every piece of migration `subject` has been copied: the leaf entries are rewritten, the invalidation
runs, the lines are unregistered, and DONE is written. -/
def execMigrationSwitchOver (s : State) : Out :=
  match s.mem.migs[s.subject]? with
  | none => .refused (.notEnabled "MIGRATION_SWITCH_OVER")
  | some g =>
    let space := 256 * g.fn + g.asid
    let s' := { s.rewritePtes g with mem := { (s.rewritePtes g).mem with migs := dropAt s.mem.migs s.subject } }
    let s' := s'.invalidate (fun x => x = space) g.va (g.va + pageBytes g.size)
    event "MIGRATION_SWITCH_OVER"
      (g.done = g.pieces && s.pageDrained g && (pteAddrs g.ptea g.size).all (fun a => s.mem.quiet (a / 128)) && s.mem.quiet (g.stat / 128))
      ((s'.migStatus g 1).settleCounters s)

/-! ### Configuration requests (R30, R31, R42, R67) -/

/-- What a configuration write changes. `subject` says which (log entry 28): 0 nothing; 1 and 2 `VF Enable` set and cleared; 3 + 2f and
4 + 2f AtomicOp Requester Enable of function f set and cleared; 4096 + n the size of the PF's BAR2, 2^n bytes from 1 GiB to 1 TiB (R49). -/
inductive CfgWrite
  | none
  | vfEnable (v : Bool)
  | atomicOp (fn : Nat) (v : Bool)
  | bar2Size (log : Nat)
  deriving DecidableEq, Repr

def cfgWriteOf (n : Nat) : CfgWrite :=
  if n = 0 then .none
  else if n < 3 then .vfEnable (n = 1)
  else if n < 4096 then .atomicOp ((n - 3) / 2 % 64) ((n - 3) % 2 = 0)
  else .bar2Size (n - 4096)

/-- The function that a configuration write names. -/
def CfgWrite.fn : CfgWrite → Nat
  | .none | .vfEnable _ | .bar2Size _ => 0
  | .atomicOp f _ => f

/-- A configuration write's effect. -/
def State.cfgWrite (s : State) : CfgWrite → State
  | .none => s
  | .vfEnable v => { s with host := { s.host with vfEnable := v } }
  | .atomicOp fn v => s.modFn fn (fun f => { f with atomicOp := v })
  | .bar2Size n => if 30 ≤ n && n ≤ 40 then { s with host := { s.host with bar2Log := n } } else s

/-- `CONFIG_REQUEST` (R30): answered with Request Retry Status until phase 8, and while the function is being reset (R42); with
Unsupported Request in the fatal state (R31). -/
def execConfigRequest (s : State) : Out :=
  let w := cfgWriteOf s.subject
  if !s.board.hlink || s.board.hostLoss then .refused (.notEnabled "CONFIG_REQUEST")
  else if s.board.fatal then .next (s.reply .unsupported)
  else if s.board.phase ≠ 8 || (s.hostFn w.fn).flr.isSome then .next (s.reply .retryStatus)
  else .next ((s.cfgWrite w).reply .done)

end Sys2Proof.Machine
end

