-- ==== Sys2Proof/Machine/Integer.lean ====
section
/-!
DEFINITION. Machine/Integer.lean: the integer arithmetic forms (R285 to R290).
-/
namespace Sys2Proof.Machine

/-- `add` (R286). -/
def execAdd (f : FmtA) (s : State) : Out :=
  fireFlg f 0 s (fun c l r _ => aluSat f.ty c.sat (fun i => laneVal f.ty l i + laneVal f.ty r i))

/-- `sub` (R286). -/
def execSub (f : FmtA) (s : State) : Out :=
  fireFlg f 0 s (fun c l r _ => aluSat f.ty c.sat (fun i => laneVal f.ty l i - laneVal f.ty r i))

/-- `addc` and `addc.co` (R287). -/
def execAddc (co : Bool) (f : FmtA) (s : State) : Out := fireVal f 0 s (aluAddc co)

/-- `subb` and `subb.bo` (R287). -/
def execSubb (bo : Bool) (f : FmtA) (s : State) : Out := fireVal f 0 s (aluSubb bo)

/-- `neg` (R286). -/
def execNeg (f : FmtA) (s : State) : Out := fireFlg f 0 s (fun c l _ _ => aluSat f.ty c.sat (fun i => -laneVal f.ty l i))

/-- `abs` (R286). -/
def execAbs (f : FmtA) (s : State) : Out :=
  fireFlg f 0 s (fun c l _ _ => aluSat f.ty c.sat (fun i => (laneVal f.ty l i).natAbs))

/-- `mul` (R288): the low half. -/
def execMul (f : FmtA) (s : State) : Out :=
  fireVal f 2 s (fun l r _ => mapInts f.ty (fun i => laneVal f.ty l i * laneVal f.ty r i))

/-- `mulh` (R288): the high half. -/
def execMulh (f : FmtA) (s : State) : Out := fireVal f 2 s (fun l r _ => aluMulh f.ty l r)

/-- `mulw` (R288): products of the even or odd lanes, at twice the width. -/
def execMulw (odd : Bool) (f : FmtA) (s : State) : Out := fireVal f 2 s (fun l r _ => aluMulw f.ty odd l r)

/-- `mad` (R288). -/
def execMad (f : FmtA) (s : State) : Out :=
  fireVal f 2 s (fun l r a => mapInts f.ty (fun i => laneVal f.ty l i * laneVal f.ty r i + laneVal f.ty a i))

/-- Extra latency of `div` and `rem` by lane width (R275). -/
def divLatency (w : Nat) : Nat := if w = 8 then 4 else if w = 16 then 6 else if w = 32 then 10 else 18

/-- `div` (R289). -/
def execDiv (f : FmtA) (s : State) : Out :=
  fireVal f (divLatency f.ty.width) s
    (fun l r _ => mapInts f.ty (fun i => (divLane f.ty (laneVal f.ty l i) (laneVal f.ty r i)).1))

/-- `rem` (R289). -/
def execRem (f : FmtA) (s : State) : Out :=
  fireVal f (divLatency f.ty.width) s
    (fun l r _ => mapInts f.ty (fun i => (divLane f.ty (laneVal f.ty l i) (laneVal f.ty r i)).2))

/-- `min` (R290). -/
def execMin (f : FmtA) (s : State) : Out :=
  fireVal f 0 s (fun l r _ => mapInts f.ty (fun i =>
    if laneVal f.ty l i ≤ laneVal f.ty r i then laneVal f.ty l i else laneVal f.ty r i))

/-- `max` (R290). -/
def execMax (f : FmtA) (s : State) : Out :=
  fireVal f 0 s (fun l r _ => mapInts f.ty (fun i =>
    if laneVal f.ty r i ≤ laneVal f.ty l i then laneVal f.ty l i else laneVal f.ty r i))

/-- `avg` (R290): floor((x + y + 1) / 2), exactly. -/
def execAvg (f : FmtA) (s : State) : Out :=
  fireVal f 0 s (fun l r _ => mapInts f.ty (fun i => (laneVal f.ty l i + laneVal f.ty r i + 1).fdiv 2))

/-- `sad` (R290). -/
def execSad (f : FmtA) (s : State) : Out := fireVal f 0 s (fun l r _ => aluSad f.ty l r)

end Sys2Proof.Machine
end

