-- ==== Sys2Proof/Machine/LaneForms.lean ====
section
/-!
DEFINITION. Machine/LaneForms.lean: the lane, comparison and address forms (R295 to R300).
-/
namespace Sys2Proof.Machine

/-- `perm` (R296). -/
def execPerm (f : FmtA) (s : State) : Out := fireVal f 1 s aluPerm
/-- `mix` (R297). -/
def execMix (hi : Bool) (f : FmtA) (s : State) : Out := fireVal f 0 s (fun l r _ => aluMix f.ty hi l r)
/-- `bcast` (R297). -/
def execBcast (f : FmtA) (s : State) : Out := fireVal f 0 s (fun l r _ => aluBcast f.ty l r)
/-- `pack` (R298). -/
def execPack (f : FmtA) (s : State) : Out := fireFlg f 0 s (fun c l r _ => aluPack f.ty c.sat l r)
/-- `unpk` (R298). -/
def execUnpk (hi : Bool) (f : FmtA) (s : State) : Out := fireVal f 0 s (fun l _ _ => aluUnpk f.ty hi l)
/-- `cmp` (R299). -/
def execCmp (cc : ICmp) (f : FmtA) (s : State) : Out := fireVal f 0 s (fun l r _ => aluCmp f.ty cc l r)
/-- `btst` (R299). -/
def execBtst (f : FmtA) (s : State) : Out := fireVal f 0 s (fun l r _ => aluBtst l r)
/-- `blend` (R299). -/
def execBlend (f : FmtA) (s : State) : Out := fireVal f 0 s (fun l r a => aluBlend f.ty l r a)
/-- `lea` (R300). -/
def execLea (scale : BitVec 2) (f : FmtA) (s : State) : Out := fireVal f 0 s (fun l r _ => aluLea scale l r)

end Sys2Proof.Machine
end

