-- ==== Sys2Proof/Machine/Training.lean ====
section
/-!
DEFINITION. Machine/Training.lean: writes of the PHY windows that begin a probe or a pattern test or set a channel's state, and the ends of probes
and tests (R38, R39). The training graph that makes them in phase 4 (R40, R394 to R397) runs as a service task: its `st.io` operations are these writes.
-/
namespace Sys2Proof.Machine

def isStIo : Instr → Bool
  | .stIo _ => true
  | _ => false

/-- The thread, of some service task, whose next held operation is an `st.io` of a value at an I/O address. -/
def State.ioStore (s : State) (a : Nat) (v : Word) : Option (Nat × Nat × Nat) :=
  s.fab.placements.findSome? (fun r => r.2.queue.findSome? (fun o =>
    match s.heldReady r.2.task r.2.idx o.tag with
    | some (_, _, op, _) => if isStIo op.instr && op.ea = a && op.right = v then some (r.2.task, r.2.idx, o.tag) else none
    | none => none))

/-- A write of a window's register. In phase 4 the graphs that train the channels make it: it is the issue of such an `st.io`. -/
def State.phyWrite (s : State) (mn : String) (ch off : Nat) (v : Word) (ok : Bool) : Out :=
  if s.board.phase = 4 then
    match s.ioStore (phyBase + 0x1000 * ch + off) v with
    | some (task, pl, tag) => if ok then execHeldOperationIssue task pl (BitVec.ofNat 14 tag) s else .refused (.notEnabled mn)
    | none => .refused (.notEnabled mn)
  else event mn ok (s.setPhy ch ((s.phy ch).write s.clock.cycle off v))

/-- `HPHY_PROBE_START` (R39): a write with `GO` to `HPHY_CTL`. -/
def execHphyProbeStart (ch : Nat) (v : Word) (s : State) : Out := s.phyWrite "HPHY_PROBE_START" ch 0 v (ch < 384 && v.getLsbD 8)

/-- A repaired DQ reports the spare's result (R39). -/
def Phy.repairBits (p : Phy) (pass : Word) (spass : BitVec 2) : Word :=
  let put := fun (w : Word) (i : Nat) (b : Bool) =>
    if b then w ||| BitVec.ofNat 64 (2 ^ i) else w &&& ~~~ BitVec.ofNat 64 (2 ^ i)
  let w := if p.repair.getLsbD 6 then put pass (bits p.repair 4 0) (spass.getLsbD 0) else pass
  if p.repair.getLsbD 14 then put w (32 + bits p.repair 12 8) (spass.getLsbD 1) else w

/-- `HPHY_PROBE_COMPLETE` (R39): a probe that ran at most 2,048 cycles ends with the results that the channel gave. -/
def execHphyProbeComplete (ch : Nat) (pass : Word) (spass : BitVec 2) (s : State) : Out :=
  let p := s.phy ch
  event "HPHY_PROBE_COMPLETE" (ch < 384 && p.busy && s.clock.cycle ≤ p.since + 2048)
    (s.setPhy ch { p with busy := false, pres := p.repairBits pass spass, spass := spass })

/-- `HPHY_SET_CHST` (R39): a write of `HPHY_CTL` that carries `CHST`. -/
def execHphySetChst (ch : Nat) (v : Word) (s : State) : Out := s.phyWrite "HPHY_SET_CHST" ch 0 v (ch < 384)

/-- `HPHY_PATTERN_TEST_START` (R39): a write with `GO` to `HPHY_PAT`. -/
def execHphyPatternTestStart (ch : Nat) (v : Word) (s : State) : Out :=
  s.phyWrite "HPHY_PATTERN_TEST_START" ch 0x28 v (ch < 384 && v.getLsbD 40)

/-- `HPHY_PATTERN_TEST_COMPLETE` (R38, R39): `ERRCNT` counts bit errors and `ERRDQ` says which DQ saw one. -/
def execHphyPatternTestComplete (ch : Nat) (errcnt : BitVec 16) (errdq : Word) (s : State) : Out :=
  let p := s.phy ch
  event "HPHY_PATTERN_TEST_COMPLETE" (ch < 384 && p.testing && decide (errcnt = 0) = decide (errdq = 0))
    (s.setPhy ch { p with testing := false, done := true, errcnt := errcnt, perr := errdq, clean := errcnt = 0 })

end Sys2Proof.Machine
end

