-- ==== Sys2Proof/Machine/Power.lean ====
section
/-!
DEFINITION. Machine/Power.lean: auxiliary cold start, power and fundamental resets (R32, R33), the power-up order (R30, R34 to R41), the
fatal state (R31), and the module's clock, power and temperatures (R26, R27).
-/
namespace Sys2Proof.Machine

def State.setBoard (s : State) (g : Board → Board) : State := { s with board := g s.board }

/-! ### The fatal state (R31) -/

/-- The fatal state entered with a cause: the host port reports an internal error, and EP_ALERT_N is asserted. -/
def State.goFatal (s : State) (c : Cause) : State :=
  let s := s.setBoard (fun b => { b with fatal := true, phase := 15, cause := c, alert := true })
  if s.board.hlink then s.reply .internalError else s

/-! ### Resets (R32) -/

/-- Lines of the host-line cache that the host has no copy of. -/
def Mem.dirtyHlc (m : Mem) : Nat := (m.hlc.filter (fun r => r.2.st = .m || r.2.st = .o)).length

/-- Everything that the main domain holds lost: dies, memories, links, tasks. What has been sent out, and the host's own memory, stay. -/
def State.loseVolatile (s : State) : State :=
  { s with
    clock := { s.clock with cycle := 0, ptpNs := 0 }
    host := { HostSide.reset with msix := s.host.msix, replies := s.host.replies }
    mem := { Mem.reset with hostMem := s.mem.hostMem, hostPoison := s.mem.hostPoison }
    fab := Fab.reset
    sched := Sched.reset
    eng := Eng.reset
    obs := Obs.reset
    focus := none }

/-- The Epurn window as a power-on reset leaves it (R32, R47): kept but for `EP_STAT`, with the connector's straps and inputs (R28); what the main
domain held of the links, the clock and the boot is gone. The protocol mode is unsettled too, though R18 names only the fundamental reset for
it (log entry 65). -/
def Board.afterPower (b : Board) : Board :=
  { Board.reset with
    cause := b.cause
    devId := b.devId
    plim := b.plim
    lossEvents := b.lossEvents
    lossLines := b.lossLines
    defects := b.defects
    perst := b.perst
    alert := b.alert
    pwrEn := b.pwrEn
    dieTemp := b.dieTemp
    stackTemp := b.stackTemp
    tripAt := b.tripAt
    tripSensor := b.tripSensor
    badLink := b.badLink
    epAddr := b.epAddr
    pps := b.pps
    flash := b.flash
    staged := b.staged
    fuseVersion := b.fuseVersion
    debugLock := b.debugLock }

/-- A die above 100 °C or a stack above 95 °C, in steps of 0.125 °C (R27, R31). -/
def Board.hot (b : Board) : Bool := b.dieTemp.any (fun r => 800 < r.2) || b.stackTemp.any (fun r => 760 < r.2)

/-- A thermal trip (R27, R31): the regulators are off, all volatile state is lost, and the device is fatal with cause THERMTRIP. -/
def State.tripNow (s : State) (sensor : Nat) : State :=
  let s := s.loseVolatile.setBoard Board.afterPower
  let now := s.clock.ns
  (s.setBoard (fun b => { b with trip := true, tripAt := some now, tripSensor := sensor })).goFatal .thermtrip

/-- A power-on reset (R32): phase 1 begins; a firmware image that waits is applied (R46). After a thermal trip the sensors are checked
(R31). -/
def State.powerOn (s : State) : State :=
  let tripped := s.board.trip
  let now := s.clock.ns
  let s := s.loseVolatile.setBoard (fun b =>
    let a := b.afterPower
    { a with phase := 1, phaseSince := now, pwrEn := true, alert := false, flash := b.staged.or b.flash, staged := none })
  if tripped && s.board.hot then s.tripNow s.board.tripSensor else s

/-- A power-on reset requested: held until 60 s after a thermal trip (R31). -/
def State.requestPower (s : State) : State :=
  let wait := s.board.trip && (s.board.tripAt.map (fun a => decide (s.clock.ns < a + 60000000000))).getD false
  if wait then s.setBoard (fun b => { b with pwrEn := true, resetHeld := true }) else s.powerOn

/-- `AUX_COLD_START` (R32): everything is reset, the Epurn window included; flash and fuses keep what they hold. -/
def execAuxColdStart (s : State) : Out :=
  let r := State.reset
  let b := s.board
  .next { r with
    board := { r.board with flash := b.flash, fuseVersion := b.fuseVersion, debugLock := b.debugLock, epAddr := b.epAddr, pps := b.pps }
    host := { r.host with msix := s.host.msix, replies := s.host.replies }
    mem := { r.mem with hostMem := s.mem.hostMem, hostPoison := s.mem.hostPoison }
    agenda := s.agenda
    subject := s.subject
    freeCtr := s.freeCtr
    seqCtr := s.seqCtr }

/-- `PWR_EN_ASSERT` (R32): a power-on reset. -/
def execPwrEnAssert (s : State) : Out := event "PWR_EN_ASSERT" (s.board.aux && !s.board.pwrEn) s.requestPower

/-- `PWR_EN_DEASSERT` (R33): with PWR_GOOD high the module powers down: every volatile state is lost, the dirty lines of the host-line
cache are counted, and `EP_STAT` keeps only `TRIP`. With PWR_GOOD low the regulators are off already. -/
def execPwrEnDeassert (s : State) : Out :=
  let n := s.mem.dirtyHlc
  let down := s.loseVolatile.setBoard (fun b =>
    let a := b.afterPower
    { a with pwrEn := false, trip := b.trip, lossLines := min 0xFFFF (b.lossLines + n) })
  let off := s.setBoard (fun b => { b with pwrEn := false, resetHeld := false, phase := if b.fatal then b.phase else 0 })
  event "PWR_EN_DEASSERT" (s.board.aux && s.board.pwrEn) (if s.board.pwrGood then down else off)

/-- `PERST_N_ASSERT` (R32, R45): a fundamental reset: the host port, all functions as by a PF function-level reset, and the host-line cache,
whose dirty lines are dropped and counted; records and interrupts held for the host are discarded. -/
def execPerstNAssert (s : State) : Out :=
  let port := fun (b : Board) =>
    { b with perst := true, hlink := false, hostLoss := false, lossAt := none, modeSettled := false, cxl := false, linkRate := 0, linkWidth := 0 }
  let s' := if s.board.pwrGood then s.dropHlc.beginFlr 0 else s
  event "PERST_N_ASSERT" (s.board.aux && !s.board.perst)
    ({ s' with host := { s'.host with held := [] }, mem := { s'.mem with hdm := [], hdmMod := [] } }.setBoard port)

/-- `PERST_N_DEASSERT` (R30): link training may begin. -/
def execPerstNDeassert (s : State) : Out :=
  event "PERST_N_DEASSERT" (s.board.aux && s.board.perst) (s.setBoard (fun b => { b with perst := false }))

/-! ### The power-up order (R30) -/

/-- Limit of a gating phase in nanoseconds, and the cause of its failure. -/
def phaseLimit (phase : Nat) : Option (Nat × Cause) :=
  if phase = 1 then some (150000000, .pwrfail)
  else if phase = 2 then some (20000000, .bridge)
  else if phase = 3 then some (30000000, .svcfail)
  else if phase = 4 then some (250000000, .hbmall)
  else if phase = 7 then some (10000000, .svcfail)
  else none

/-- A gating phase in progress that is not past its limit. -/
def State.inPhase (s : State) (phase : Nat) : Bool :=
  s.board.phase = phase && match phaseLimit phase with
    | some (n, _) => decide (s.clock.ns ≤ s.board.phaseSince + n)
    | none => true

/-- The next gating phase begun. -/
def State.toPhase (s : State) (phase : Nat) : State :=
  let now := s.clock.ns
  s.setBoard (fun b => { b with phase := phase, phaseSince := now })

/-- `PHASE_TIMEOUT` (R30): a gating phase has not finished within its limit; the boot hold of phase 1 waits without one (R34). -/
def execPhaseTimeout (s : State) : Out :=
  match phaseLimit s.board.phase with
  | none => .refused (.notEnabled "PHASE_TIMEOUT")
  | some (n, c) =>
    event "PHASE_TIMEOUT" (s.board.phaseSince + n ≤ s.clock.ns && (s.board.phase ≠ 1 || !s.board.pwrGood)) (s.goFatal c)

/-- The check of a firmware image (R34): its signature over the SHAKE256 digest, and its security version. -/
def fwAccepted (f : FwImage) (fuse : Nat) : Bool := sigHolds (shake256 f.body) f.sig && fuse ≤ f.secVersion


/-- A service image that the Farrier loads onto the service cluster (R35): `SVC` set, and its signature valid under the firmware key. -/
def svcAccepted (image : List Byte) : Bool :=
  (field image 6 2).testBit 0 && (svcBlock image).length = 128 && blockHolds (svcBody image) (svcBlock image)

/-- The training graph's image for every channel is one that the Farrier loads. -/
def Board.trainingAccepted (b : Board) : Bool := (List.range 384).all (fun ch => svcAccepted (b.trainingImage ch))

/-- `HUB_SECURITY_BOOT` (R34): the regulators come into regulation, and the firmware image is checked: phase 2, or the boot hold. -/
def execHubSecurityBoot (s : State) : Out :=
  let s' := s.setBoard (fun b => { b with pwrGood := true })
  let hold := s'.setBoard (fun b => { b with cause := .bootsig, alert := true })
  let next := match s.board.flash with
    | none => hold
    | some f =>
      if fwAccepted f s.board.fuseVersion then
        (s'.setBoard (fun b => { b with
          booted := shake256 f.body
          fuseVersion := if f.advance then max b.fuseVersion f.secVersion else b.fuseVersion })).toPhase 2
      else hold
  event "HUB_SECURITY_BOOT" (s.inPhase 1 && !s.board.pwrGood) next

/-- Failing lanes found in a module of a bridge link. -/
def failedLanes (found : List (Nat × Nat × Nat)) (link mod : Nat) : Nat :=
  ((found.filter (fun r => r.1 = link && r.2.1 = mod)).map (fun r => r.2.2)).foldl (· + ·) 0

/-- Modules of a bridge link (R10): four between fabric dies, six to the hub. -/
def modulesOf (link : Nat) : Nat := if link < 4 then 4 else 6

/-- A bridge link trained (R37): a module with at most two failing lanes is remapped; with more it fails the link. -/
def trainBridge (found : List (Nat × Nat × Nat)) (link : Nat) : Bridge :=
  let counts := (List.range (modulesOf link)).map (fun m => (m, failedLanes found link m))
  ⟨counts.all (fun r => r.2 ≤ 2), 0, false, counts.filter (fun r => 0 < r.2 && r.2 ≤ 2)⟩

/-- `BRIDGE_LINK_TRAINING` (R10, R37): the eight bridge links are trained: 0 F0–F1, 1 F2–F3, 2 F0–F2, 3 F1–F3, and 4 + d Fd–H. `found` gives the
failing lanes as (link, module, lanes). A link that cannot be repaired is fatal. Cycles are counted from phase 3 (R386). -/
def execBridgeLinkTraining (found : List (Nat × Nat × Nat)) (s : State) : Out :=
  let links := (List.range 8).map (fun k => (k, trainBridge found k))
  let s' := s.setBoard (fun b => { b with bridges := links })
  let up := { s'.toPhase 3 with clock := { s.clock with cycle := 0 } }
  let next := match links.find? (fun r => !r.2.trained) with
    | none => up
    | some r => (s'.setBoard (fun b => { b with badLink := some r.1 })).goFatal .bridge
  event "BRIDGE_LINK_TRAINING" (s.inPhase 2 && found.all (fun r => r.1 < 8 && r.2.1 < modulesOf r.1 && r.2.2 ≤ 64)) next

/-- `FRET_SELF_TEST` (R35, R40, R41): frets that fail are recorded and never allocated; one in the service cluster is fatal. The training graph,
if its signatures hold, begins on the channels. -/
def execFretSelfTest (defective : List Nat) (s : State) : Out :=
  let s' := s.setBoard (fun b => { b with defects := defective.foldl nsAdd [] })
  let s' := defective.foldl (fun s pf => s.modFret pf (fun f => { f with st := .defect })) s'
  let ok := defective.all (fun pf => 8 ≤ pf) && s.board.trainingAccepted
  event "FRET_SELF_TEST" (s.inPhase 3 && defective.all (fun pf => pf < 4096))
    (if ok then (s'.toPhase 4).beginTraining else s'.goFatal .svcfail)

/-- Trained channels of a die. -/
def State.trainedOn (s : State) (die : Nat) : Nat := (s.mem.phy.filter (fun r => r.2.chst = 1 && r.1 / 96 = die)).length

/-- The channel states as the Epurn window maps them (R46): two bits a channel, in 96 bytes. -/
def State.chstBytes (s : State) : List Byte :=
  (List.range 96).map (fun k => BitVec.ofNat 8 (((List.range 4).map (fun j => 4 ^ j * ((s.phy (4 * k + j)).chst % 4))).foldl (· + ·) 0))

/-- The channels that are not trained as phase 4 ends are withheld (R16, R39), and the states are kept for measurement 4 (R36). -/
def State.endTraining (s : State) : State :=
  let held := ((List.range 384).filter (fun ch => decide ((s.phy ch).chst ≠ 1))).map (fun ch => (ch, ()))
  ({ s with mem := { s.mem with withheld := held } } : State).setBoard (fun b => { b with chstEnd := s.chstBytes })

/-- `HBM_TRAINING_PHASE_END` (R40): every channel's instance has ended: a die without a trained channel is fatal; otherwise the host link and
the Folgar ports start (phases 5 and 6), and phase 7 begins. -/
def execHbmTrainingPhaseEnd (s : State) : Out :=
  let now := s.clock.ns
  let s' := s.endTraining
  let up := (s'.toPhase 7).setBoard (fun b => { b with portsSince := some now })
  event "HBM_TRAINING_PHASE_END" (s.inPhase 4 && s.mem.train.isEmpty && s.mem.trainLeft.isEmpty)
    (if (List.range 4).any (fun d => s.trainedOn d = 0) then s'.goFatal .hbmall else up)

/-- `DISPATCHER_START` (R30, R35, R61): the dispatcher graph is loaded, if its signature holds, and started; phase 8 begins. -/
def execDispatcherStart (s : State) : Out :=
  let now := s.clock.ns
  let s' := (s.toPhase 8).setBoard (fun b => { b.loadSvc b.dispatcherImage with beatSince := now })
  event "DISPATCHER_START" (s.inPhase 7)
    (if svcAccepted s.board.dispatcherImage then
      { s' with sched := { s'.sched with dispatching := true }, host := { s'.host with served := [] } }
    else s.goFatal .svcfail)

/-- `HEARTBEAT_WATCHDOG` (R48): `BEAT` has not advanced for 10 ms in phase 8. -/
def execHeartbeatWatchdog (s : State) : Out :=
  event "HEARTBEAT_WATCHDOG" (s.board.phase = 8 && s.board.beatSince + 10000000 ≤ s.clock.ns) (s.setBoard (fun b => { b with alert := true }))

/-! ### Clock, power and temperature (R26, R27) -/

/-- A fabric clock step in MHz. -/
def clockStep (c : Nat) : Bool := 1200 ≤ c && c ≤ 2700 && c % 50 = 0

/-- `POWER_EVALUATION` (R26): the power manager looks at the input power. `subject` is the step that it chooses: lower while the limit is
exceeded or a part is too hot, unless the clock is at its least, when the fabric is duty-cycled more; duty-cycling eases first. -/
def execPowerEvaluation (watts : Nat) (s : State) : Out :=
  let b := s.board
  let c := s.subject
  let high : Bool := b.plim.toNat < watts
  let low : Bool := (high || b.hot) && 1200 < b.clk
  let now := s.clock.ns
  let duty := if high then (if b.clk = 1200 then min 16 (b.duty + 1) else b.duty) else b.duty - 1
  let ok := clockStep c && (if low then c < b.clk else if high || b.hot || 0 < b.duty then c = b.clk else b.clk ≤ c)
  event "POWER_EVALUATION" (b.pwrGood && !b.fatal && ok)
    (s.setBoard (fun b => { b with duty := duty, clkNext := if c = b.clk then none else some c, clkSince := now }))

/-- `CLOCK_CHANGE` (R26): the step chosen takes effect. -/
def execClockChange (s : State) : Out :=
  match s.board.clkNext with
  | none => .refused (.notEnabled "CLOCK_CHANGE")
  | some c => .next (s.setBoard (fun b => { b with clk := c, clkNext := none }))

/-- A sensor's reading taken: 0 to 3 the fabric dies, 4 the hub, 5 and up the stacks. -/
def Board.sense (b : Board) (sensor temp : Nat) : Board :=
  if sensor < 5 then { b with dieTemp := tput b.dieTemp sensor temp }
  else
    let n := sensor - 5
    { b with stackTemp := tput b.stackTemp n temp, hotStacks := if 760 < temp then nsAdd b.hotStacks n else nsDel b.hotStacks n }

/-- `THERMAL_THRESHOLD` (R27): a sensor's reading, in steps of 0.125 °C: with a die above 100 °C or a stack above 95 °C the clock goes
lower; the channels of a stack above 95 °C double their refresh rate. -/
def execThermalThreshold (sensor temp : Nat) (s : State) : Out :=
  let now := s.clock.ns
  let b := s.board.sense sensor temp
  let b' := if b.hot && 1200 < b.clk then { b with clkNext := some (b.clk - 50), clkSince := now } else b
  event "THERMAL_THRESHOLD" (s.board.aux && sensor < 17 && temp ≤ 880) { s with board := b' }

/-- `THERMAL_TRIP` (R27): a die or stack above 110 °C. -/
def execThermalTrip (sensor temp : Nat) (s : State) : Out :=
  event "THERMAL_TRIP" (s.board.pwrGood && sensor < 17 && 880 < temp) ((s.setBoard (fun b => b.sense sensor temp)).tripNow sensor)

/-- `COOLDOWN_EXPIRY` (R31): 60 s have passed since the trip, and the power-on reset that was held proceeds. -/
def execCooldownExpiry (s : State) : Out :=
  match s.board.tripAt with
  | none => .refused (.notEnabled "COOLDOWN_EXPIRY")
  | some a => event "COOLDOWN_EXPIRY" (s.board.resetHeld && a + 60000000000 ≤ s.clock.ns) s.powerOn

/-- `PATROL_SCRUB_VISIT` (R15): a line of a trained channel, which scrubs its own, is visited: a correctable error is corrected and rewritten, an uncorrectable
one leaves the line poisoned. -/
def execPatrolScrubVisit (channel line : Nat) (s : State) : Out :=
  event "PATROL_SCRUB_VISIT" (s.board.pwrGood && channelOf (128 * line) = channel && s.hbmBacked (128 * line)) { s with mem := s.mem.checkHbm line }

end Sys2Proof.Machine
end

