-- ==== Sys2Proof/Machine/Links.lean ====
section
/-!
DEFINITION. Machine/Links.lean: the host link, the bridges and the Folgar ports (R12, R17, R18, R21 to R24), and the Epurn port: its register
window, PLDM and SPDM (R36, R46 to R48).
-/
namespace Sys2Proof.Machine

/-! ### The host link (R17, R18) -/

/-- `HOST_LINK_TRAINED` (R17, R18): the link reaches L0; after a fundamental reset the mode is settled, and a later training keeps it. -/
def execHostLinkTrained (rate width : Nat) (cxl : Bool) (s : State) : Out :=
  let b := s.board
  let fits := linkFits rate width cxl && (!b.modeSettled || cxl = b.cxl)
  event "HOST_LINK_TRAINED" (b.pwrGood && !b.fatal && !b.perst && !b.hlink && !b.hostLoss && 7 ≤ b.phase && fits)
    (s.setBoard (fun b => { b with hlink := true, linkRate := rate, linkWidth := width, cxl := cxl, modeSettled := true }))

/-! ### Bridges (R12) -/

/-- `BRIDGE_FLIT_CRC_FAIL` (R12): a flit of a bridge link has failed its CRC and is retried; `subject` 0 is a flit's first failure. When the
sixteenth consecutive retry has failed the link retrains, once; a retraining that fails, or that does not help, is fatal, and the Epurn port
reports the link. -/
def execBridgeFlitCrcFail (link : Nat) (retrainOk : Bool) (s : State) : Out :=
  match tget s.board.bridges link with
  | none => .refused (.notEnabled "BRIDGE_FLIT_CRC_FAIL")
  | some x =>
    let x := if s.subject = 0 then { x with retries := 0, retrained := false } else x
    let n := x.retries + 1
    let set := fun (y : Bridge) => s.setBoard (fun b => { b with bridges := tput b.bridges link y })
    let s' := if n ≤ 16 then set { x with retries := n }
      else if retrainOk && !x.retrained then set { x with retries := 0, retrained := true }
      else ((set { x with trained := false }).setBoard (fun b => { b with badLink := some link })).goFatal .bridge
    event "BRIDGE_FLIT_CRC_FAIL" (x.trained && s.board.pwrGood && !s.board.fatal) s'

/-! ### Folgar ports (R21 to R23) -/

/-- Lanes in use and their rate in Gb/s (R22, R46). -/
def portMode : FolgarMode → Nat × Nat
  | .eight200 => (3, 200)
  | .eight100 => (3, 100)
  | .low4x200 => (1, 200)
  | .high4x200 => (2, 200)
  | .low4x100 => (1, 100)
  | .high4x100 => (2, 100)

def Port.down : Port := ⟨false, false, 0, 0, false, none, []⟩
def Board.port (b : Board) (p : Nat) : Port := tgetD b.ports p Port.down
def Board.setPort (b : Board) (p : Nat) (x : Port) : Board := { b with ports := tput b.ports p x }

/-- A reserved identifier: a device given one does not train its ports (R23). -/
def reservedId (id : Nat) : Bool := 0xC0000 ≤ id && id ≤ 0xFFFFE

/-- The device is up far enough for its ports. -/
def Board.portsOn (b : Board) : Bool := b.pwrGood && !b.fatal && b.portsSince.isSome

/-- The instant from which a port's 500 ms to train run (R30, R23): its retraining under a later identifier, or the start of phase 6. -/
def Board.portFrom (b : Board) (p : Nat) : Option Nat := (b.port p).again.or b.portsSince

/-- `FOLGAR_PORT_TRAINED` (R22, R23): a port trains in one of its modes, to carry data where the identifier is assignable, for management
only where it is unassigned. -/
def execFolgarPortTrained (port : Nat) (mode : FolgarMode) (s : State) : Out :=
  let b := s.board
  let x := b.port port
  let (lanes, rate) := portMode mode
  let inTime := ((b.portFrom port).map (fun t => decide (s.clock.ns ≤ t + 500000000))).getD false
  event "FOLGAR_PORT_TRAINED" (b.portsOn && port < 24 && inTime && !x.up && !x.tried && !reservedId b.devId.toNat)
    (s.setBoard (fun b => b.setPort port ⟨assignable b.devId.toNat, true, lanes, rate, false, none, x.rx⟩))

/-- `FOLGAR_TRAINING_TIMEOUT` (R30, R23): port `subject` has not trained within its 500 ms, and stays down. -/
def execFolgarTrainingTimeout (s : State) : Out :=
  let b := s.board
  let x := b.port s.subject
  let late := ((b.portFrom s.subject).map (fun t => decide (t + 500000000 ≤ s.clock.ns))).getD false
  event "FOLGAR_TRAINING_TIMEOUT" (b.portsOn && s.subject < 24 && late && !x.up && !x.tried)
    (s.setBoard (fun b => b.setPort s.subject { Port.down with tried := true }))

/-- A flit's CRC holds (R21): the header's last four bytes carry it (log entry 24). -/
def flitSound (flit : List Byte) : Bool := leNat ((flit.drop 12).take 4) = (Config.crc32 (flit.take 12 ++ flit.drop 16)).toNat

/-- A flit for this device (R21): its destination is the device's identifier, or the broadcast of log entry 24. -/
def Board.takesFlit (b : Board) (flit : List Byte) : Bool := field flit 0 4 = b.devId.toNat || field flit 0 4 = 0xFFFFF

/-- `FOLGAR_FLIT_RECEIVE` (R21): a flit that fails its CRC, or that has overtaken one that did, is retried; the flit that its virtual channel
expects next is delivered where it is for this device, which does not pass on another's (log entry 24). `vc` is the channel that the flit names. -/
def execFolgarFlitReceive (port vc : Nat) (flit : List Byte) (s : State) : Out :=
  let x := s.board.port port
  let due := flitSound flit && vc < 8 && flitSeq flit = tgetD x.rx vc 0
  let took := { x with rx := tput x.rx vc ((tgetD x.rx vc 0 + 1) % 2 ^ 24) }
  let take := fun (b : Board) =>
    { b.setPort port took with folgarIn := if b.takesFlit flit then b.folgarIn ++ [(port, vc, flit)] else b.folgarIn }
  let s' := if due then s.setBoard take else s.setBoard (fun b => { b with folgarRetry := b.folgarRetry + 1 })
  event "FOLGAR_FLIT_RECEIVE" (s.board.portsOn && port < 24 && flit.length = 256 && flitVc flit = vc && x.up && x.data) s'

/-- An identifier written (R23, R46): ignored while a port carries data. Ports that trained for management retrain under an assignable
identifier; under a reserved one no port stays trained. -/
def Board.writeDevId (b : Board) (v : BitVec 20) (now : Nat) : Board :=
  if b.ports.any (fun r => r.2.up && r.2.data) then b
  else if v = b.devId then b
  else if assignable v.toNat && b.devId = 0xFFFFF then
    { b with devId := v, ports := b.ports.map (fun r => (r.1, if r.2.up then { Port.down with again := some now, rx := r.2.rx } else r.2)) }
  else if reservedId v.toNat then
    { b with devId := v, ports := b.ports.map (fun r => (r.1, if r.2.up then { Port.down with rx := r.2.rx } else r.2)) }
  else { b with devId := v }

/-- `DEVICE_ID_WRITE` (R23, R46): `EP_DEVID`, or `HF_DEVID` (R53), is written. -/
def execDeviceIdWrite (v : BitVec 20) (s : State) : Out :=
  let now := s.clock.ns
  event "DEVICE_ID_WRITE" s.board.aux (s.setBoard (fun b => b.writeDevId v now))

/-! ### Time (R24) -/

/-- `PTP_SYNC` (R24): one sync interval, with the offset from the parent in ns: 16 in a row under 20 ns lock the device, and an offset above
50 ns unlocks it. `sync.steer` is how far the clock is moved toward the parent, up to the whole offset (log entry 75). -/
def execPtpSync (sync : PtpSync) (s : State) : Out :=
  let size := sync.offset.natAbs
  let good := if size < 20 then s.board.ptpGood + 1 else 0
  let toward : Bool := sync.steer.natAbs ≤ size && (0 ≤ sync.offset && sync.steer ≤ 0 || sync.offset ≤ 0 && 0 ≤ sync.steer)
  let b := { s.board with ptpGood := min 16 good, ptpLock := if 50 < size then false else s.board.ptpLock || decide (16 ≤ good) }
  event "PTP_SYNC" (s.board.portsOn && toward)
    { s with board := b, clock := { s.clock with ptpNs := (s.clock.ptpNs + sync.steer).toNat } }

/-! ### The Epurn window (R46, R47) -/

/-- The port's SMBus address and I3C static address (R28). -/
def Board.epAddress (b : Board) : Nat := 0x4C + b.epAddr.toNat


def Cause.num : Cause → Nat
  | .none => 0 | .bootsig => 1 | .pwrfail => 2 | .bridge => 3 | .svcfail => 4 | .hbmall => 5 | .thermtrip => 6

/-- `EP_STAT` (R47). -/
def Board.epStat (b : Board) : Nat :=
  let flags := [(24, decide (b.duty ≠ 0)), (23, b.trip), (22, b.fatal), (21, b.ptpLock), (20, b.hlink), (19, b.hostLoss), (18, b.flr),
    (17, b.pwrGood), (16, decide (b.clk < 2700))]
  b.phase % 16 * 2 ^ 28 + b.beat.toNat + (flags.map (fun f => if f.2 then 2 ^ f.1 else 0)).foldl (· + ·) 0

/-- The hottest stack, the lowest-numbered of equals: number and temperature. -/
def Board.hottest (b : Board) : Nat × Nat := (minBy (fun r => 2 ^ 16 - r.2) b.stackTemp).getD (0, 0)

/-- `EP_LINK` (R46). -/
def Board.epLink (b : Board) : Nat := b.linkRate % 256 + 2 ^ 8 * (b.linkWidth % 32) + 2 ^ 16 * b.cxl.toNat + 2 ^ 17 * b.hlink.toNat

/-- A word of the defective-fret bitmap: n is its first fret. -/
def Board.defectWord (b : Board) (n : Nat) : Nat := ((List.range 32).map (fun k => if nsHas b.defects (n + k) then 2 ^ k else 0)).foldl (· + ·) 0

/-- A word of the channel states: n is its first channel. -/
def State.chstWord (s : State) (n : Nat) : Nat := ((List.range 16).map (fun k => 4 ^ k * ((s.phy (n + k)).chst % 4))).foldl (· + ·) 0

/-- A register of the Epurn window; unlisted offsets read as zero. -/
def State.epReg (s : State) (off : Nat) : Nat :=
  let b := s.board
  if off = 0x000 then 0x0009 * 2 ^ 16 + Config.siliconRev.toNat
  else if off = 0x004 then b.epStat
  else if off = 0x008 then b.cause.num
  else if off = 0x00C then b.devId.toNat
  else if off = 0x010 then b.plim.toNat
  else if off = 0x014 then b.clk
  else if 0x020 ≤ off && off ≤ 0x030 && off % 4 = 0 then tgetD b.dieTemp ((off - 0x020) / 4) 0
  else if off = 0x034 then b.hottest.1 % 16 * 2 ^ 24 + b.hottest.2 % 2 ^ 16
  else if off = 0x040 then b.epLink
  else if off = 0x044 then b.folgTrained
  else if 0x048 ≤ off && off ≤ 0x054 && off % 4 = 0 then s.defects ((off - 0x048) / 4)
  else if off = 0x060 then b.lossEvents % 2 ^ 16 + 2 ^ 16 * (b.lossLines % 2 ^ 16)
  else if 0x080 ≤ off && off ≤ 0x0DC && off % 4 = 0 then b.fport ((off - 0x080) / 4)
  else if 0x400 ≤ off && off < 0x600 && off % 4 = 0 then b.defectWord (8 * (off - 0x400))
  else if 0x600 ≤ off && off < 0x660 && off % 4 = 0 then s.chstWord (4 * (off - 0x600))
  else 0

/-- `EPURN_READ_COMMAND` (R46): an MCTP message with command 0x01. -/
def execEpurnReadCommand (off : Nat) (s : State) : Out :=
  event "EPURN_READ_COMMAND" s.board.aux (s.reply (.data (leBytes 4 (s.epReg off))))

/-- `EP_PLIM_WRITE` (R46): a limit outside 1,000 to 3,400 W is ignored. -/
def execEpPlimWrite (v : BitVec 32) (s : State) : Out :=
  event "EP_PLIM_WRITE" s.board.aux
    (if 1000 ≤ v.toNat && v.toNat ≤ 3400 then s.setBoard (fun b => { b with plim := v }) else s)

/-- `EP_RESET_WRITE` (R46, R31): `KEY` 0xA5 requests a power-on reset; any other value, and any write while PWR_EN is deasserted, is
ignored. -/
def execEpResetWrite (v : BitVec 32) (s : State) : Out :=
  event "EP_RESET_WRITE" s.board.aux (if v.toNat % 256 = 0xA5 && s.board.pwrEn then s.requestPower else s)

/-! ### PLDM and SPDM (R34, R36, R46) -/

/-- `PLDM_FIRMWARE_UPDATE` (R46): an image that passes R34's check waits for the next power-on reset. -/
def execPldmFirmwareUpdate (image : FwImage) (s : State) : Out :=
  event "PLDM_FIRMWARE_UPDATE" s.board.aux
    (if fwAccepted image s.board.fuseVersion then (s.setBoard (fun b => { b with staged := some image })).reply .done else s.reply .unsupported)

/-- A sensor or link named in an answer: 0 for none, else its number and 1. -/
def named (x : Option Nat) : Nat := (x.map (· + 1)).getD 0

/-- `PLDM_PLATFORM_MONITORING` (R46): the sensors: the dies' temperatures and the hottest stack; with them the sensor that caused a thermal trip
(R27) and the bridge link that failed (R12). That they stand in this answer is the model's (log entry 68). -/
def execPldmPlatformMonitoring (s : State) : Out :=
  let b := s.board
  event "PLDM_PLATFORM_MONITORING" b.aux
    (s.reply (.data (([0x020, 0x024, 0x028, 0x02C, 0x030, 0x034] : List Nat).flatMap (fun off => leBytes 4 (s.epReg off))
      ++ leBytes 4 (named (b.tripAt.map (fun _ => b.tripSensor))) ++ leBytes 4 (named b.badLink))))

/-- A measurement by its index (R36). Before what it measures has been loaded, 1, 2 and 4 answer no bytes (log entry 68). -/
def State.measurement (s : State) (index : Nat) : Option (List Byte) :=
  let b := s.board
  let digest := fun (bs : List Byte) => if bs.isEmpty then [] else shake256 bs
  if index = 1 then some b.booted
  else if index = 2 then some (digest b.svcDigests)
  else if index = 3 then some (shake256 (leBytes 8 b.fuseVersion ++ leBytes 1 b.debugLock.toNat))
  else if index = 4 then some (digest b.chstEnd)
  else none

/-- A request's bytes in the transcript (log entry 68). -/
def spdmReqBytes : SpdmReq → List Byte
  | .certificate slot => 1 :: leBytes 1 slot
  | .measurement index => 2 :: leBytes 1 index
  | .challenge nonce => 3 :: nonce

/-- What an SPDM request is answered with (R36): certificate slot 0, a measurement, or the Ed448 signature over the SHA3-512 hash of the
transcript. -/
def State.spdmAnswer (s : State) : SpdmReq → Option (List Byte)
  | .certificate slot => if slot = 0 then some (Config.spdmBytes 0) else none
  | .measurement index => s.measurement index
  | r => some (deviceSign (sha3 (s.board.transcript ++ spdmReqBytes r)))

/-- `SPDM_REQUEST` (R36): over the Epurn port, or in band through the mailbox of the PF, which answers as a configuration request does (R30,
R31, R42). The transcript takes the request and its answer. -/
def execSpdmRequest (msg : SpdmMsg) (s : State) : Out :=
  let b := s.board
  let answered := match s.spdmAnswer msg.req with
    | some bs => (s.setBoard (fun b => { b with transcript := b.transcript ++ spdmReqBytes msg.req ++ bs })).reply (.data bs)
    | none => s.reply .unsupported
  if !msg.inBand then event "SPDM_REQUEST" b.aux answered
  else if !b.hlink || b.hostLoss then .refused (.notEnabled "SPDM_REQUEST")
  else if b.fatal then .next (s.reply .unsupported)
  else if b.phase ≠ 8 || (s.hostFn 0).flr.isSome then .next (s.reply .retryStatus)
  else .next answered

end Sys2Proof.Machine
end

