-- ==== Sys2Proof/Machine/Logic.lean ====
section
/-!
DEFINITION. Machine/Logic.lean: the logical, shift and bit-field forms (R291 to R294).
-/
namespace Sys2Proof.Machine

/-- `and` (R292). -/
def execAnd (f : FmtA) (s : State) : Out := fireVal f 0 s (fun l r _ => l &&& r)
/-- `or` (R292). -/
def execOr (f : FmtA) (s : State) : Out := fireVal f 0 s (fun l r _ => l ||| r)
/-- `xor` (R292). -/
def execXor (f : FmtA) (s : State) : Out := fireVal f 0 s (fun l r _ => l ^^^ r)
/-- `andn` (R292): L and not R. -/
def execAndn (f : FmtA) (s : State) : Out := fireVal f 0 s (fun l r _ => l &&& ~~~r)
/-- `not` (R292). -/
def execNot (f : FmtA) (s : State) : Out := fireVal f 0 s (fun l _ _ => ~~~l)
/-- `shl` (R293). -/
def execShl (f : FmtA) (s : State) : Out := fireVal f 0 s (fun l r _ => aluShift f.ty shlLane l r)
/-- `shr` (R293). -/
def execShr (f : FmtA) (s : State) : Out := fireVal f 0 s (fun l r _ => aluShift f.ty shrLane l r)
/-- `sar` (R293). -/
def execSar (f : FmtA) (s : State) : Out := fireVal f 0 s (fun l r _ => aluShift f.ty sarLane l r)
/-- `rot` (R293). -/
def execRot (f : FmtA) (s : State) : Out := fireVal f 0 s (fun l r _ => aluShift f.ty rotLane l r)
/-- `shrp` (R293): the pair hi:lo shifted right. -/
def execShrp (f : FmtA) (s : State) : Out := fireVal f 0 s aluShrp
/-- `clz` (R294). -/
def execClz (f : FmtA) (s : State) : Out := fireVal f 0 s (fun l _ _ => aluCount f.ty clzNat l)
/-- `ctz` (R294). -/
def execCtz (f : FmtA) (s : State) : Out := fireVal f 0 s (fun l _ _ => aluCount f.ty ctzNat l)
/-- `popc` (R294). -/
def execPopc (f : FmtA) (s : State) : Out := fireVal f 0 s (fun l _ _ => aluCount f.ty popNat l)
/-- `brev` (R294). -/
def execBrev (f : FmtA) (s : State) : Out := fireVal f 0 s (fun l _ _ => aluCount f.ty revNat l)
/-- `bext` (R294). -/
def execBext (f : FmtA) (s : State) : Out :=
  fireVal f 1 s (fun l r _ => BitVec.ofNat 64 (gatherBits 64 l.toNat r.toNat))
/-- `bdep` (R294). -/
def execBdep (f : FmtA) (s : State) : Out :=
  fireVal f 1 s (fun l r _ => BitVec.ofNat 64 (scatterBits 64 l.toNat r.toNat))

end Sys2Proof.Machine
end

