-- ==== Sys2Proof/Machine/MemForms.lean ====
section
/-!
DEFINITION. Machine/MemForms.lean: the firings of the memory and synchronisation forms (R328). A firing touches no memory: it sends the operation, with
its operands and triple, to the home WOB of its thread. What the operation then does is in Wob.lean and the files after it.
-/
namespace Sys2Proof.Machine

/-- `ld` (R332): an early read. The firing sends the operation to the home WOB (R328). -/
def execLd (m : FmtM) (s : State) : Out := fireM (.ld m) m s
/-- `ld.acq` (R333): an early read with acquire. The firing sends the operation to the home WOB (R328). -/
def execLdAcq (m : FmtM) (s : State) : Out := fireM (.ldAcq m) m s
/-- `ld.io` (R334): a privileged read of I/O space. The firing sends the operation to the home WOB (R328). -/
def execLdIo (m : FmtM) (s : State) : Out := fireM (.ldIo m) m s
/-- `ldnt` (R332): a non-temporal early read. The firing sends the operation to the home WOB (R328). -/
def execLdnt (m : FmtM) (s : State) : Out := fireM (.ldnt m) m s
/-- `st` (R332): a held store. The firing sends the operation to the home WOB (R328). -/
def execSt (m : FmtM) (s : State) : Out := fireM (.st m) m s
/-- `st.rel` (R333): a held store with release. The firing sends the operation to the home WOB (R328). -/
def execStRel (m : FmtM) (s : State) : Out := fireM (.stRel m) m s
/-- `st.io` (R334): a privileged write of I/O space. The firing sends the operation to the home WOB (R328). -/
def execStIo (m : FmtM) (s : State) : Out := fireM (.stIo m) m s
/-- `ldc` (R336): a consuming read. The firing sends the operation to the home WOB (R328). -/
def execLdc (m : FmtM) (s : State) : Out := fireM (.ldc m) m s
/-- `stc` (R335): a store that establishes a counted line; the count is on aux. The firing sends the operation to the home WOB (R328). -/
def execStc (m : FmtM) (s : State) : Out := fireM (.stc m) m s
/-- `fillc` (R335): an establishment without data. The firing sends the operation to the home WOB (R328). -/
def execFillc (m : FmtM) (s : State) : Out := fireM (.fillc m) m s
/-- `relc` (R338): the release of a range. The firing sends the operation to the home WOB (R328). -/
def execRelc (m : FmtM) (s : State) : Out := fireM (.relc m) m s
/-- `cntq` (R337): a read of a count. The firing sends the operation to the home WOB (R328). -/
def execCntq (m : FmtM) (s : State) : Out := fireM (.cntq m) m s
/-- `memnop` (R340): a place in the chain. The firing sends the operation to the home WOB (R328). -/
def execMemnop (m : FmtM) (s : State) : Out := fireM (.memnop m) m s
/-- `atom.add` (R341). The firing sends the operation to the home WOB (R328). -/
def execAtomAdd (m : FmtM) (s : State) : Out := fireM (.atomAdd m) m s
/-- `atom.min` (R341). The firing sends the operation to the home WOB (R328). -/
def execAtomMin (m : FmtM) (s : State) : Out := fireM (.atomMin m) m s
/-- `atom.max` (R341). The firing sends the operation to the home WOB (R328). -/
def execAtomMax (m : FmtM) (s : State) : Out := fireM (.atomMax m) m s
/-- `atom.and` (R341). The firing sends the operation to the home WOB (R328). -/
def execAtomAnd (m : FmtM) (s : State) : Out := fireM (.atomAnd m) m s
/-- `atom.or` (R341). The firing sends the operation to the home WOB (R328). -/
def execAtomOr (m : FmtM) (s : State) : Out := fireM (.atomOr m) m s
/-- `atom.xor` (R341). The firing sends the operation to the home WOB (R328). -/
def execAtomXor (m : FmtM) (s : State) : Out := fireM (.atomXor m) m s
/-- `atom.xchg` (R341). The firing sends the operation to the home WOB (R328). -/
def execAtomXchg (m : FmtM) (s : State) : Out := fireM (.atomXchg m) m s
/-- `atom.cas` (R341). The firing sends the operation to the home WOB (R328). -/
def execAtomCas (m : FmtM) (s : State) : Out := fireM (.atomCas m) m s
/-- `atom.inc` (R341). The firing sends the operation to the home WOB (R328). -/
def execAtomInc (m : FmtM) (s : State) : Out := fireM (.atomInc m) m s
/-- `atom.fadd` (R341). The firing sends the operation to the home WOB (R328). -/
def execAtomFadd (m : FmtM) (s : State) : Out := fireM (.atomFadd m) m s
/-- `fence` (R344). The firing sends the operation to the home WOB (R328). -/
def execFence (kind : FenceKind) (m : FmtM) (s : State) : Out := fireM (.fence kind m) m s
/-- `pref` (R346). The firing sends the operation to the home WOB (R328). -/
def execPref (m : FmtM) (s : State) : Out := fireM (.pref m) m s
/-- `flush` (R347). The firing sends the operation to the home WOB (R328). -/
def execFlush (m : FmtM) (s : State) : Out := fireM (.flush m) m s
/-- `waitl` (R348). The firing sends the operation to the home WOB (R328). -/
def execWaitl (m : FmtM) (s : State) : Out := fireM (.waitl m) m s
/-- `barinit` (R351). The firing sends the operation to the home WOB (R328). -/
def execBarinit (m : FmtM) (s : State) : Out := fireM (.barinit m) m s
/-- `bararr` (R351). The firing sends the operation to the home WOB (R328). -/
def execBararr (m : FmtM) (s : State) : Out := fireM (.bararr m) m s
/-- `barwait` (R351). The firing sends the operation to the home WOB (R328). -/
def execBarwait (m : FmtM) (s : State) : Out := fireM (.barwait m) m s

end Sys2Proof.Machine
end

