-- ==== Sys2Proof/Machine/Quant.lean ====
section
/-!
DEFINITION. Machine/Quant.lean: the conversion, quantisation and ternary packing forms (R318 to R326).
-/
namespace Sys2Proof.Machine

/-- `cvt` (R319, R320): with the merge bit, the lanes not converted come from the right operand. -/
def execCvt (d : ETy) (part : BitVec 3) (mrg : Bool) (f : FmtA) (s : State) : Out :=
  fireFlg f 1 s (fun c l r _ => fluCvt f.ty d part.toNat (if mrg then r else 0) c l)
/-- `mxscale` (R322). -/
def execMxscale (f : FmtA) (s : State) : Out := fireFlg f 0 s (fun _ l _ _ => fluMxscale f.ty l)
/-- `mxq` (R323). -/
def execMxq (part : BitVec 3) (f : FmtA) (s : State) : Out := fireFlg f 1 s (fun c l r _ => fluMxq f.ty part.toNat c l r)
/-- `mxdq` (R324). -/
def execMxdq (part : BitVec 3) (f : FmtA) (s : State) : Out := fireFlg f 1 s (fun _ l r _ => fluMxdq f.ty part.toNat l r)
/-- `tpack` (R325). -/
def execTpack (part : BitVec 3) (f : FmtA) (s : State) : Out := fireFlg f 0 s (fun _ l _ _ => fluTpack part.toNat l)
/-- `tunpk` (R326): an illegal code is the fault TRITCODE, not tied to a chain operation, with address 0 (R220). -/
def execTunpk (part : BitVec 3) (f : FmtA) (s : State) : Out :=
  fireA f s (fun c l _ _ s =>
    match fluTunpk part.toNat l with
    | some v => s.emit c 0 c.tag c.wave f.dests (some v) none
    | none => s.findFault (s.firingFault c .tritcode 0) c.task)

end Sys2Proof.Machine
end

