-- ==== Sys2Proof/Machine/SystemForms.lean ====
section
/-!
DEFINITION. Machine/SystemForms.lean: the Format A system forms (R385 to R388).
-/
namespace Sys2Proof.Machine

/-- `trap` (R386): the fault TRAP, not tied, address 0. -/
def execTrap (f : FmtA) (s : State) : Out := fireA f s (fun c _ _ _ s => s.findFault (s.firingFault c .trap 0) c.task)

/-- `chk` (R386): CHK where bit 0 of c is 0, and otherwise c. -/
def execChk (f : FmtA) (s : State) : Out :=
  fireA f s (fun c l _ _ s =>
    if l.toNat % 2 = 1 then s.emit c 0 c.tag c.wave f.dests (some l) none
    else s.findFault (s.firingFault c .chk 0) c.task)

/-- The `temit` record of a firing (R234). -/
def State.temitRec (s : State) (c : Focus) (v : Word) (fn : Nat) : TrRec :=
  ⟨s.clock.ptpNs, v, (s.slotInfo c.pf c.velem c.slot).2, c.tag, c.wave, 0, c.fret, c.velem, c.slot, c.pl, c.task, fn, c.pf, []⟩

/-- `temit` (R386): a record of kind 0 in a task with `TRC`, and nothing in any other (R235). -/
def execTemit (f : FmtA) (s : State) : Out :=
  fireA f s (fun c l _ _ s =>
    match s.task? c.task with
    | some t => if t.trc then s.putTrace (s.temitRec c l t.fn) else s
    | none => s)

/-- `time` (R386): the cluster's count of fabric cycles. -/
def execTime (f : FmtA) (s : State) : Out :=
  fireA f s (fun c _ _ _ s => s.emit c 0 c.tag c.wave f.dests (some (BitVec.ofNat 64 s.clock.cycle)) none)

/-- A selection register read by its own task (R238). -/
def ownSel (sel : Word) (task : Nat) (v : Word) : Word := if sel.toNat / 2 ^ 32 = task then v else 0

/-- R388: the value of a system register, or none where only the service may read it. -/
def State.sregRead (s : State) (c : Focus) (r : SReg) : Option Word :=
  let svc := ((s.task? c.task).map Task.svc).getD false
  let cl := clusterOf c.pf
  match r with
  | .time => some (BitVec.ofNat 64 s.clock.ptpNs)
  | .task => some (BitVec.ofNat 64 (c.task % 2 ^ 32))
  | .place => some (BitVec.ofNat 64 c.pl)
  | .home => some (BitVec.ofNat 64 (((s.placement? c.task c.pl).map (fun p => p.home c.tag)).getD 0))
  | .fret => some (BitVec.ofNat 64 (c.fret * 8 + c.pf % 8))
  | .elem => some (BitVec.ofNat 64 (c.velem * 8 + c.pelem))
  | .cls => some (BitVec.ofNat 64 (dieOf cl * 512 + cl))
  | .flags => some (((s.placement? c.task c.pl).map (fun p => p.flags.word)).getD 0)
  | .evsel n =>
    let sel := tgetD s.fab.evsel (4 * cl + n.toNat) 0
    some (ownSel sel c.task sel)
  | .evc n => some (ownSel (tgetD s.fab.evsel (4 * cl + n.toNat) 0) c.task (tgetD s.fab.evc (4 * cl + n.toNat) 0))
  | .beat => if svc then some (s.board.beat.zeroExtend 64) else none
  | .qerr => if svc then some 0 else none
  | .qcons => if svc then some 0 else none

/-- `srd` (R388): the register's value when it fires; PRIV, not tied, with the register's number, for a user task's read of a
service register. -/
def execSrd (reg : SReg) (f : FmtA) (s : State) : Out :=
  fireA f s (fun c _ _ _ s =>
    match s.sregRead c reg with
    | some v => s.emit c 0 c.tag c.wave f.dests (some v) none
    | none => s.findFault (s.firingFault c .priv reg.code) c.task)

end Sys2Proof.Machine
end

