-- ==== Sys2Proof/Machine/Dispatch.lean ====
section
/-! DEFINITION. Machine/Dispatch.lean: one arm per operation and event, each one direct call of its meaning. -/
namespace Sys2Proof.Machine

/-- The meaning of each operation and event. -/
def exec (i : Instr) (s : State) : Host.Outcome State Fault Refusal :=
  match i with
  | .steer f => Sys2Proof.Machine.execSteer f s
  | .select f => Sys2Proof.Machine.execSelect f s
  | .wadv f => Sys2Proof.Machine.execWadv f s
  | .wset f => Sys2Proof.Machine.execWset f s
  | .mov f => Sys2Proof.Machine.execMov f s
  | .const f => Sys2Proof.Machine.execConst f s
  | .sink f => Sys2Proof.Machine.execSink f s
  | .gate f => Sys2Proof.Machine.execGate f s
  | .join three f => Sys2Proof.Machine.execJoin three f s
  | .idx f => Sys2Proof.Machine.execIdx f s
  | .spawn f => Sys2Proof.Machine.execSpawn f s
  | .send f => Sys2Proof.Machine.execSend f s
  | .tagof f => Sys2Proof.Machine.execTagof f s
  | .endt f => Sys2Proof.Machine.execEndt f s
  | .add f => Sys2Proof.Machine.execAdd f s
  | .sub f => Sys2Proof.Machine.execSub f s
  | .addc co f => Sys2Proof.Machine.execAddc co f s
  | .subb bo f => Sys2Proof.Machine.execSubb bo f s
  | .neg f => Sys2Proof.Machine.execNeg f s
  | .abs f => Sys2Proof.Machine.execAbs f s
  | .mul f => Sys2Proof.Machine.execMul f s
  | .mulh f => Sys2Proof.Machine.execMulh f s
  | .mulw odd f => Sys2Proof.Machine.execMulw odd f s
  | .mad f => Sys2Proof.Machine.execMad f s
  | .div f => Sys2Proof.Machine.execDiv f s
  | .rem f => Sys2Proof.Machine.execRem f s
  | .min f => Sys2Proof.Machine.execMin f s
  | .max f => Sys2Proof.Machine.execMax f s
  | .avg f => Sys2Proof.Machine.execAvg f s
  | .sad f => Sys2Proof.Machine.execSad f s
  | .and f => Sys2Proof.Machine.execAnd f s
  | .or f => Sys2Proof.Machine.execOr f s
  | .xor f => Sys2Proof.Machine.execXor f s
  | .andn f => Sys2Proof.Machine.execAndn f s
  | .not f => Sys2Proof.Machine.execNot f s
  | .shl f => Sys2Proof.Machine.execShl f s
  | .shr f => Sys2Proof.Machine.execShr f s
  | .sar f => Sys2Proof.Machine.execSar f s
  | .rot f => Sys2Proof.Machine.execRot f s
  | .shrp f => Sys2Proof.Machine.execShrp f s
  | .clz f => Sys2Proof.Machine.execClz f s
  | .ctz f => Sys2Proof.Machine.execCtz f s
  | .popc f => Sys2Proof.Machine.execPopc f s
  | .brev f => Sys2Proof.Machine.execBrev f s
  | .bext f => Sys2Proof.Machine.execBext f s
  | .bdep f => Sys2Proof.Machine.execBdep f s
  | .perm f => Sys2Proof.Machine.execPerm f s
  | .mix hi f => Sys2Proof.Machine.execMix hi f s
  | .bcast f => Sys2Proof.Machine.execBcast f s
  | .pack f => Sys2Proof.Machine.execPack f s
  | .unpk hi f => Sys2Proof.Machine.execUnpk hi f s
  | .cmp cc f => Sys2Proof.Machine.execCmp cc f s
  | .btst f => Sys2Proof.Machine.execBtst f s
  | .blend f => Sys2Proof.Machine.execBlend f s
  | .lea scale f => Sys2Proof.Machine.execLea scale f s
  | .fadd f => Sys2Proof.Machine.execFadd f s
  | .fsub f => Sys2Proof.Machine.execFsub f s
  | .fmul f => Sys2Proof.Machine.execFmul f s
  | .fma f => Sys2Proof.Machine.execFma f s
  | .fmin f => Sys2Proof.Machine.execFmin f s
  | .fmax f => Sys2Proof.Machine.execFmax f s
  | .fabs f => Sys2Proof.Machine.execFabs f s
  | .fneg f => Sys2Proof.Machine.execFneg f s
  | .fcmp cc f => Sys2Proof.Machine.execFcmp cc f s
  | .fclass f => Sys2Proof.Machine.execFclass f s
  | .frcp f => Sys2Proof.Machine.execFrcp f s
  | .frsq f => Sys2Proof.Machine.execFrsq f s
  | .fsqrt f => Sys2Proof.Machine.execFsqrt f s
  | .fdiv f => Sys2Proof.Machine.execFdiv f s
  | .fexp2 f => Sys2Proof.Machine.execFexp2 f s
  | .flog2 f => Sys2Proof.Machine.execFlog2 f s
  | .ftanh f => Sys2Proof.Machine.execFtanh f s
  | .fsin f => Sys2Proof.Machine.execFsin f s
  | .fcos f => Sys2Proof.Machine.execFcos f s
  | .fsig f => Sys2Proof.Machine.execFsig f s
  | .fround f => Sys2Proof.Machine.execFround f s
  | .fscl f => Sys2Proof.Machine.execFscl f s
  | .cvt d part mrg f => Sys2Proof.Machine.execCvt d part mrg f s
  | .famax f => Sys2Proof.Machine.execFamax f s
  | .fsum f => Sys2Proof.Machine.execFsum f s
  | .fdot2 f => Sys2Proof.Machine.execFdot2 f s
  | .mxscale f => Sys2Proof.Machine.execMxscale f s
  | .mxq part f => Sys2Proof.Machine.execMxq part f s
  | .mxdq part f => Sys2Proof.Machine.execMxdq part f s
  | .tpack part f => Sys2Proof.Machine.execTpack part f s
  | .tunpk part f => Sys2Proof.Machine.execTunpk part f s
  | .ld m => Sys2Proof.Machine.execLd m s
  | .ldAcq m => Sys2Proof.Machine.execLdAcq m s
  | .ldIo m => Sys2Proof.Machine.execLdIo m s
  | .ldnt m => Sys2Proof.Machine.execLdnt m s
  | .st m => Sys2Proof.Machine.execSt m s
  | .stRel m => Sys2Proof.Machine.execStRel m s
  | .stIo m => Sys2Proof.Machine.execStIo m s
  | .ldc m => Sys2Proof.Machine.execLdc m s
  | .stc m => Sys2Proof.Machine.execStc m s
  | .fillc m => Sys2Proof.Machine.execFillc m s
  | .relc m => Sys2Proof.Machine.execRelc m s
  | .cntq m => Sys2Proof.Machine.execCntq m s
  | .memnop m => Sys2Proof.Machine.execMemnop m s
  | .atomAdd m => Sys2Proof.Machine.execAtomAdd m s
  | .atomMin m => Sys2Proof.Machine.execAtomMin m s
  | .atomMax m => Sys2Proof.Machine.execAtomMax m s
  | .atomAnd m => Sys2Proof.Machine.execAtomAnd m s
  | .atomOr m => Sys2Proof.Machine.execAtomOr m s
  | .atomXor m => Sys2Proof.Machine.execAtomXor m s
  | .atomXchg m => Sys2Proof.Machine.execAtomXchg m s
  | .atomCas m => Sys2Proof.Machine.execAtomCas m s
  | .atomInc m => Sys2Proof.Machine.execAtomInc m s
  | .atomFadd m => Sys2Proof.Machine.execAtomFadd m s
  | .fence kind m => Sys2Proof.Machine.execFence kind m s
  | .pref m => Sys2Proof.Machine.execPref m s
  | .flush m => Sys2Proof.Machine.execFlush m s
  | .waitl m => Sys2Proof.Machine.execWaitl m s
  | .barinit m => Sys2Proof.Machine.execBarinit m s
  | .bararr m => Sys2Proof.Machine.execBararr m s
  | .barwait m => Sys2Proof.Machine.execBarwait m s
  | .tLd e => Sys2Proof.Machine.execTLd e s
  | .tSt e => Sys2Proof.Machine.execTSt e s
  | .tRel e => Sys2Proof.Machine.execTRel e s
  | .tZero e => Sys2Proof.Machine.execTZero e s
  | .tStat e => Sys2Proof.Machine.execTStat e s
  | .tTr e => Sys2Proof.Machine.execTTr e s
  | .mmTern bank clr e => Sys2Proof.Machine.execMmTern bank clr e s
  | .mmMx4 bank clr e => Sys2Proof.Machine.execMmMx4 bank clr e s
  | .mmD clr e => Sys2Proof.Machine.execMmD clr e s
  | .drain d e => Sys2Proof.Machine.execDrain d e s
  | .drainM d e => Sys2Proof.Machine.execDrainM d e s
  | .copy e => Sys2Proof.Machine.execCopy e s
  | .gath e => Sys2Proof.Machine.execGath e s
  | .nmcAxpy e => Sys2Proof.Machine.execNmcAxpy e s
  | .nmcSgd e => Sys2Proof.Machine.execNmcSgd e s
  | .nmcScal e => Sys2Proof.Machine.execNmcScal e s
  | .nmcFill e => Sys2Proof.Machine.execNmcFill e s
  | .nmcSum e => Sys2Proof.Machine.execNmcSum e s
  | .nmcFadd e => Sys2Proof.Machine.execNmcFadd e s
  | .collAllredSum e => Sys2Proof.Machine.execCollAllredSum e s
  | .collAllredMax e => Sys2Proof.Machine.execCollAllredMax e s
  | .collAllgat e => Sys2Proof.Machine.execCollAllgat e s
  | .collRedsc e => Sys2Proof.Machine.execCollRedsc e s
  | .collBcast e => Sys2Proof.Machine.execCollBcast e s
  | .collGbar e => Sys2Proof.Machine.execCollGbar e s
  | .rwr e => Sys2Proof.Machine.execRwr e s
  | .rrd e => Sys2Proof.Machine.execRrd e s
  | .trap f => Sys2Proof.Machine.execTrap f s
  | .temit f => Sys2Proof.Machine.execTemit f s
  | .brk e => Sys2Proof.Machine.execBrk e s
  | .srd reg f => Sys2Proof.Machine.execSrd reg f s
  | .swrEvsel n e => Sys2Proof.Machine.execSwrEvsel n e s
  | .swrEvc n e => Sys2Proof.Machine.execSwrEvc n e s
  | .swrBeat e => Sys2Proof.Machine.execSwrBeat e s
  | .swrQerr e => Sys2Proof.Machine.execSwrQerr e s
  | .swrQcons e => Sys2Proof.Machine.execSwrQcons e s
  | .launch e => Sys2Proof.Machine.execLaunch e s
  | .launchDisp e => Sys2Proof.Machine.execLaunchDisp e s
  | .launchRecfg e => Sys2Proof.Machine.execLaunchRecfg e s
  | .time f => Sys2Proof.Machine.execTime f s
  | .chk f => Sys2Proof.Machine.execChk f s
  | .bridgeLinkTraining failing => Sys2Proof.Machine.execBridgeLinkTraining failing s
  | .fretSelfTest defective => Sys2Proof.Machine.execFretSelfTest defective s
  | .hostLinkTrained rate width cxl => Sys2Proof.Machine.execHostLinkTrained rate width cxl s
  | .folgarPortTrained port mode => Sys2Proof.Machine.execFolgarPortTrained port mode s
  | .bridgeFlitCrcFail link retrainOk => Sys2Proof.Machine.execBridgeFlitCrcFail link retrainOk s
  | .folgarFlitReceive port vc flit => Sys2Proof.Machine.execFolgarFlitReceive port vc flit s
  | .ptpSync sync => Sys2Proof.Machine.execPtpSync sync s
  | .powerEvaluation watts => Sys2Proof.Machine.execPowerEvaluation watts s
  | .thermalThreshold sensor temp => Sys2Proof.Machine.execThermalThreshold sensor temp s
  | .thermalTrip sensor temp => Sys2Proof.Machine.execThermalTrip sensor temp s
  | .patrolScrubVisit channel line => Sys2Proof.Machine.execPatrolScrubVisit channel line s
  | .epurnReadCommand off => Sys2Proof.Machine.execEpurnReadCommand off s
  | .deviceIdWrite v => Sys2Proof.Machine.execDeviceIdWrite v s
  | .epPlimWrite v => Sys2Proof.Machine.execEpPlimWrite v s
  | .epResetWrite v => Sys2Proof.Machine.execEpResetWrite v s
  | .pldmFirmwareUpdate image => Sys2Proof.Machine.execPldmFirmwareUpdate image s
  | .spdmRequest msg => Sys2Proof.Machine.execSpdmRequest msg s
  | .registerWrite window off size v => Sys2Proof.Machine.execRegisterWrite window off size v s
  | .bar2Read fn off len => Sys2Proof.Machine.execBar2Read fn off len s
  | .bar2Write fn off bytes => Sys2Proof.Machine.execBar2Write fn off bytes s
  | .hfEvtClear fn v => Sys2Proof.Machine.execHfEvtClear fn v s
  | .queueEnable fn queue v => Sys2Proof.Machine.execQueueEnable fn queue v s
  | .queueDisable fn queue v => Sys2Proof.Machine.execQueueDisable fn queue v s
  | .workItemIssue task pl => Sys2Proof.Machine.execWorkItemIssue task pl s
  | .placementRelease task pl => Sys2Proof.Machine.execPlacementRelease task pl s
  | .fretMove src goal => Sys2Proof.Machine.execFretMove src goal s
  | .hostKill fn v => Sys2Proof.Machine.execHostKill fn v s
  | .gangHoldReceive gid at_ => Sys2Proof.Machine.execGangHoldReceive gid at_ s
  | .gangFreezeInstant gid => Sys2Proof.Machine.execGangFreezeInstant gid s
  | .gangReleaseReceive gid at_ => Sys2Proof.Machine.execGangReleaseReceive gid at_ s
  | .gangResumeInstant gid => Sys2Proof.Machine.execGangResumeInstant gid s
  | .flushMarkerArrival pf cluster => Sys2Proof.Machine.execFlushMarkerArrival pf cluster s
  | .earlyReadPerform task pl tag own => Sys2Proof.Machine.execEarlyReadPerform task pl tag own s
  | .waveCommit task pl tag => Sys2Proof.Machine.execWaveCommit task pl tag s
  | .heldOperationIssue task pl tag => Sys2Proof.Machine.execHeldOperationIssue task pl tag s
  | .endtTagReturn task pl tag => Sys2Proof.Machine.execEndtTagReturn task pl tag s
  | .tagUnitSpawn task pl => Sys2Proof.Machine.execTagUnitSpawn task pl s
  | .faultReportArrival task n => Sys2Proof.Machine.execFaultReportArrival task n s
  | .hlcClusterRead n exclusive => Sys2Proof.Machine.execHlcClusterRead n exclusive s
  | .accessQueueConsume v => Sys2Proof.Machine.execAccessQueueConsume v s
  | .invalidationStart fn v => Sys2Proof.Machine.execInvalidationStart fn v s
  | .hphyProbeStart ch v => Sys2Proof.Machine.execHphyProbeStart ch v s
  | .hphyProbeComplete ch pass spass => Sys2Proof.Machine.execHphyProbeComplete ch pass spass s
  | .hphySetChst ch v => Sys2Proof.Machine.execHphySetChst ch v s
  | .hphyPatternTestStart ch v => Sys2Proof.Machine.execHphyPatternTestStart ch v s
  | .hphyPatternTestComplete ch errcnt errdq => Sys2Proof.Machine.execHphyPatternTestComplete ch errcnt errdq s
  | .remoteWriteServe gid addr bytes poisoned => Sys2Proof.Machine.execRemoteWriteServe gid addr bytes poisoned s
  | .remoteReadServe gid addr len => Sys2Proof.Machine.execRemoteReadServe gid addr len s
  | .collEntry peer => Sys2Proof.Machine.execCollEntry peer s
  | .collTimeout cid => Sys2Proof.Machine.execCollTimeout cid s
  | .dbgStep v => Sys2Proof.Machine.execDbgStep v s
  | .cxlMemAccess write addr bytes => Sys2Proof.Machine.execCxlMemAccess write addr bytes s
  | .auxColdStart => Sys2Proof.Machine.execAuxColdStart s
  | .pwrEnAssert => Sys2Proof.Machine.execPwrEnAssert s
  | .pwrEnDeassert => Sys2Proof.Machine.execPwrEnDeassert s
  | .perstNAssert => Sys2Proof.Machine.execPerstNAssert s
  | .perstNDeassert => Sys2Proof.Machine.execPerstNDeassert s
  | .hubSecurityBoot => Sys2Proof.Machine.execHubSecurityBoot s
  | .hbmTrainingPhaseEnd => Sys2Proof.Machine.execHbmTrainingPhaseEnd s
  | .dispatcherStart => Sys2Proof.Machine.execDispatcherStart s
  | .phaseTimeout => Sys2Proof.Machine.execPhaseTimeout s
  | .configRequest => Sys2Proof.Machine.execConfigRequest s
  | .folgarTrainingTimeout => Sys2Proof.Machine.execFolgarTrainingTimeout s
  | .clockChange => Sys2Proof.Machine.execClockChange s
  | .cooldownExpiry => Sys2Proof.Machine.execCooldownExpiry s
  | .heartbeatWatchdog => Sys2Proof.Machine.execHeartbeatWatchdog s
  | .pldmPlatformMonitoring => Sys2Proof.Machine.execPldmPlatformMonitoring s
  | .dispatchPick => Sys2Proof.Machine.execDispatchPick s
  | .leaseWalkResume => Sys2Proof.Machine.execLeaseWalkResume s
  | .quotaAdmit => Sys2Proof.Machine.execQuotaAdmit s
  | .fretwaitService => Sys2Proof.Machine.execFretwaitService s
  | .drainVictimExpiry => Sys2Proof.Machine.execDrainVictimExpiry s
  | .fretLoad => Sys2Proof.Machine.execFretLoad s
  | .placementGrowth => Sys2Proof.Machine.execPlacementGrowth s
  | .fretScrubComplete => Sys2Proof.Machine.execFretScrubComplete s
  | .fretMoveComplete => Sys2Proof.Machine.execFretMoveComplete s
  | .taskEnd => Sys2Proof.Machine.execTaskEnd s
  | .taskDone => Sys2Proof.Machine.execTaskDone s
  | .checkpointStart => Sys2Proof.Machine.execCheckpointStart s
  | .checkpointWriteComplete => Sys2Proof.Machine.execCheckpointWriteComplete s
  | .checkpointTimeout => Sys2Proof.Machine.execCheckpointTimeout s
  | .taskResume => Sys2Proof.Machine.execTaskResume s
  | .taskKill => Sys2Proof.Machine.execTaskKill s
  | .killDrainTimeout => Sys2Proof.Machine.execKillDrainTimeout s
  | .pfFlr => Sys2Proof.Machine.execPfFlr s
  | .vfFlr => Sys2Proof.Machine.execVfFlr s
  | .flrDrainComplete => Sys2Proof.Machine.execFlrDrainComplete s
  | .flrDrainTimeout => Sys2Proof.Machine.execFlrDrainTimeout s
  | .hostLinkLoss => Sys2Proof.Machine.execHostLinkLoss s
  | .linkLossTimeout => Sys2Proof.Machine.execLinkLossTimeout s
  | .hostLinkRetrain => Sys2Proof.Machine.execHostLinkRetrain s
  | .sliceStart => Sys2Proof.Machine.execSliceStart s
  | .sliceEnd => Sys2Proof.Machine.execSliceEnd s
  | .tokenArrival => Sys2Proof.Machine.execTokenArrival s
  | .reconfigurationToken => Sys2Proof.Machine.execReconfigurationToken s
  | .reconfigRewriteComplete => Sys2Proof.Machine.execReconfigRewriteComplete s
  | .reconfigScrubExpiry => Sys2Proof.Machine.execReconfigScrubExpiry s
  | .wobEntryAdmit => Sys2Proof.Machine.execWobEntryAdmit s
  | .chainOperationArrival => Sys2Proof.Machine.execChainOperationArrival s
  | .readReply => Sys2Proof.Machine.execReadReply s
  | .storeAck => Sys2Proof.Machine.execStoreAck s
  | .faultFreezeComplete => Sys2Proof.Machine.execFaultFreezeComplete s
  | .homeReadMiss => Sys2Proof.Machine.execHomeReadMiss s
  | .homeWriteMiss => Sys2Proof.Machine.execHomeWriteMiss s
  | .homePerformedAccess => Sys2Proof.Machine.execHomePerformedAccess s
  | .cleanEvictionNotice => Sys2Proof.Machine.execCleanEvictionNotice s
  | .dirtyWriteBack => Sys2Proof.Machine.execDirtyWriteBack s
  | .invalidationReceive => Sys2Proof.Machine.execInvalidationReceive s
  | .forwardRecallReceive => Sys2Proof.Machine.execForwardRecallReceive s
  | .ackReceive => Sys2Proof.Machine.execAckReceive s
  | .hlcWrite => Sys2Proof.Machine.execHlcWrite s
  | .hostSnoopData => Sys2Proof.Machine.execHostSnoopData s
  | .hostSnoopInvalidate => Sys2Proof.Machine.execHostSnoopInvalidate s
  | .countedEstablishment => Sys2Proof.Machine.execCountedEstablishment s
  | .consumingRead => Sys2Proof.Machine.execConsumingRead s
  | .relcScan => Sys2Proof.Machine.execRelcScan s
  | .hfAcovfClear => Sys2Proof.Machine.execHfAcovfClear s
  | .invalidationComplete => Sys2Proof.Machine.execInvalidationComplete s
  | .migrationRecordConsume => Sys2Proof.Machine.execMigrationRecordConsume s
  | .migrationPieceCopy => Sys2Proof.Machine.execMigrationPieceCopy s
  | .migrationSwitchOver => Sys2Proof.Machine.execMigrationSwitchOver s
  | .barrierRequestServe => Sys2Proof.Machine.execBarrierRequestServe s
  | .barwaitResend => Sys2Proof.Machine.execBarwaitResend s
  | .waitlSlicePoll => Sys2Proof.Machine.execWaitlSlicePoll s
  | .waitlHostPoll => Sys2Proof.Machine.execWaitlHostPoll s
  | .prefComplete => Sys2Proof.Machine.execPrefComplete s
  | .engineCommandAccept => Sys2Proof.Machine.execEngineCommandAccept s
  | .engineCommandStart => Sys2Proof.Machine.execEngineCommandStart s
  | .engineCommandComplete => Sys2Proof.Machine.execEngineCommandComplete s
  | .remoteRequestTimeout => Sys2Proof.Machine.execRemoteRequestTimeout s
  | .traceMerge => Sys2Proof.Machine.execTraceMerge s
  | .clusterPowerGate => Sys2Proof.Machine.execClusterPowerGate s
  | .debugAttach => Sys2Proof.Machine.execDebugAttach s
  | .dbgHalt => Sys2Proof.Machine.execDbgHalt s
  | .dbgResume => Sys2Proof.Machine.execDbgResume s
  | .dbgEnd => Sys2Proof.Machine.execDbgEnd s
  | .dbgKill => Sys2Proof.Machine.execDbgKill s
  | .dbgDump => Sys2Proof.Machine.execDbgDump s
  | .killDrainComplete => Sys2Proof.Machine.execKillDrainComplete s
  | .checkpointSettleComplete => Sys2Proof.Machine.execCheckpointSettleComplete s

end Sys2Proof.Machine
end

