-- ==== Sys2Proof/Machine/Time.lean ====
section
/-!
DEFINITION. Machine/Time.lean: what the passing of cycles brings about by itself: output queues empty into the network (R108,
R109), returned tags reach the tag unit (R282), engines move their pieces (R360, R374), cycle classes and cycle events are counted
(R237, R239).
-/
namespace Sys2Proof.Machine

/-- A head item that may leave its queue now: ready, and not bound for a fret under a move (R89). -/
def OutItem.mayLeave (p : Placement) (now : Nat) : OutItem → Bool
  | .tok t => t.ready ≤ now && !nsHas p.moving t.dest.fret.toNat
  | x => x.ready ≤ now

/-- An item that leaves its element's queue: a token into the network with its destination resolved and its generation stamped
(R109), a chain operation toward its home WOB (R119), a spawn request toward the tag unit (R282), which lies where config-local fret 0 does
(log entry 86). -/
def State.leave (s : State) (p : Placement) (f velem pf pelem : Nat) : OutItem → State
  | .tok t =>
    let pf' := p.physFret t.dest.fret.toNat
    let e' := p.physElem t.dest.fret.toNat t.dest.velem.toNat
    let n := p.netTok t.dest t.tag t.wave t.data (clusterOf pf) s.clock.cycle (elemLat pf pelem pf' e')
    s.netSend n
  | .chain op _ =>
    let m : OpMsg := ⟨op, s.clock.cycle + 1 + fretLat pf (p.homePf op.tag), false, s.seqCtr⟩
    { s.bump with fab := { s.fab with ops := s.fab.ops ++ [m] } }
  | .spawn tag wave data slot ve ds _ work ord =>
    let r : SpawnReq := ⟨clusterOf pf, pf % 8, pelem, f, slot, ve, tag, wave, data, ds, work, ord,
      s.clock.cycle + 1 + fretLat pf (p.physFret 0)⟩
    let _ := velem
    s.modPlacement p.task p.idx (fun p => { p with spawns := p.spawns ++ [r] })

/-- One element's output queue in one cycle: at most n items leave, in order. -/
def State.drainElem (task pl f velem pf pelem : Nat) : Nat → State → State
  | 0, s => s
  | n + 1, s =>
    match s.placement? task pl, (s.elem pf pelem).outHead with
    | some p, some x =>
      if x.mayLeave p s.clock.cycle then
        State.drainElem task pl f velem pf pelem n
          ((s.modElem pf pelem (fun e => { e with outQ := e.outQ.erase x })).leave p f velem pf pelem x)
      else s
    | _, _ => s

/-- The class of a cycle in which an element neither fired nor was blocked (R237): CFGLOAD where every ready instance is held by
a rewrite or the fret is in LOAD, WAIT_OPND where entries wait and none is ready, IDLE otherwise. -/
def Elem.idleClass (e : Elem) (fr : Fret) (p : Placement) (pf velem pelem now : Nat) : Elem :=
  let ready := (fr.readyInsts p pf velem pelem now).filter (fun x => fr.resident velem pelem x)
  if fr.st = .load then { e with classes := { e.classes with cfgload := satInc e.classes.cfgload } }
  else if !ready.isEmpty then
    if ready.all (fun x => fr.holdsBack velem x.slot x.gen) then
      { e with classes := { e.classes with cfgload := satInc e.classes.cfgload } }
    else { e with classes := { e.classes with idle := satInc e.classes.idle } }
  else
    match minBy Entry.seq e.entries with
    | none => { e with classes := { e.classes with idle := satInc e.classes.idle } }
    | some w =>
      let lacking := match fr.slotInstr velem w.slot with
        | .ok i => (portsOf i).find? (fun port => (oldestAt e.entries w.slot w.tag w.wave w.gen port).isNone)
        | .error _ => none
      { e with classes := { e.classes with
          waitSlot := tabInc e.classes.waitSlot w.slot
          waitPort := match lacking with
            | some port => tabInc e.classes.waitPort port
            | none => e.classes.waitPort } }

/-- R115: spilled entries of instances that are ready otherwise brought back into the store, one after another, and how many entries were
spilled for them: one comes back as a token that completes its instance would come in. None gives how long it takes (log entry 14). -/
def Fret.bringBack (f : Fret) (p : Placement) (pf velem pelem now : Nat) : List Entry × Nat :=
  let back := (f.readyInsts p pf velem pelem now).flatMap (fun x =>
    match f.slotInstr velem x.slot with
    | .ok i => (instEntries (f.elem pelem).entries (portsOf i) x).filter Entry.spilled
    | .error _ => [])
  back.foldl (fun (es, n) e =>
    let come := fun (at_ : Nat) (es : List Entry) => es.map (fun x => if x.seq = e.seq then { x with spilled := false, arrival := at_ } else x)
    if !es.any (fun x => x.seq = e.seq && x.spilled) then (es, n)
    else if (es.filter (fun x => !x.spilled)).length < 64 then (come now es, n)
    else match spillVictim f p pf velem es e true with
      | some v => (come (now + 4) (es.map (fun x => if x.seq = v.seq then { x with spilled := true } else x)), n + 1)
      | none => (es, n)) ((f.elem pelem).entries, 0)

/-- An element's spilled entries brought back, with the spills that makes counted (R115, R239). -/
def State.bringBack (s : State) (p : Placement) (pf velem pelem : Nat) : State :=
  if !(s.elem pf pelem).entries.any Entry.spilled then s
  else
    let (es, n) := (s.fret pf).bringBack p pf velem pelem s.clock.cycle
    (s.modElem pf pelem (fun e => { e with entries := es })).countEvent (clusterOf pf) p.task 0x04 n

/-- One element in one cycle: its class (R237), its spilled entries, and its output queue. -/
def State.tickElem (task pl f pf : Nat) (s : State) (velem : Nat) : State :=
  match s.placement? task pl with
  | none => s
  | some p =>
    let pelem := p.physElem f velem
    let fr := s.fret pf
    let s :=
      if p.frozen || !(fr.st.fires || fr.st = .load) || (fr.elem pelem).lastTurn = some s.clock.cycle then s
      else s.modElem pf pelem (fun e => e.idleClass fr p pf velem pelem s.clock.cycle)
    let s := if p.frozen || !fr.st.fires then s else s.bringBack p pf velem pelem
    State.drainElem task pl f velem pf pelem 2 s

/-- Every element of a fret that a placement holds, in one cycle. -/
def State.tickFret (s : State) (pf : Nat) : State :=
  match (s.fret pf).owner with
  | none => s
  | some (key, f) => (List.range 8).foldl (State.tickElem (key / 64) (key % 64) f pf) s

/-- R282, third action: the tags that reach the tag unit in the present cycle are appended to the free list, in the order of their return
events (log entry 86). -/
def Placement.takeReturned (now : Nat) (p : Placement) : Placement :=
  { p with
    freeTags := p.freeTags ++ (p.returned.filter (fun r => r.2 ≤ now)).map Prod.fst
    returned := p.returned.filter (fun r => !(r.2 ≤ now)) }

/-- Counters that select event 0x01 (cycles while enabled), and 0x0B where an operation of the task waits for a WOB entry in
the cluster (R131, R239). -/
def State.cycleEvents (s : State) : State :=
  s.fab.evsel.foldl (fun s (k, sel) =>
    let task := sel.toNat / 2 ^ 32
    let waits : Bool := s.fab.ops.any (fun m => m.waiting && m.op.task = task &&
      match s.placement? m.op.task m.op.pl with
      | some p => p.homeCluster m.op.tag = k / 4
      | none => false)
    if evselHits sel task 0x01 || (evselHits sel task 0x0B && waits) then
      { s with fab := { s.fab with evc := tput s.fab.evc k (evcAdd (tgetD s.fab.evc k 0) 1) } }
    else s) s

/-- A frozen cycle: the commands that the engines of a cluster run take one cycle longer (R26). -/
def Cmd.heldUp (now : Nat) (c : Cmd) : Cmd :=
  let later := fun (n : Nat) => if now < n then n + 1 else n
  if c.running && c.inCluster then { c with busyEnd := later c.busyEnd, doneAt := later c.doneAt } else c

def State.holdEngines (s : State) : State := { s with eng := { s.eng with cmds := s.eng.cmds.map (Cmd.heldUp s.clock.cycle) } }

/-- One fabric cycle passes (R1, R386): none before phase 3. In a frozen cycle every cluster stands still, its elements, engines and tag units, and it
belongs to no class (R26). -/
def State.tick (s : State) : State :=
  if s.board.phase < 3 then s
  else
    let still := s.frozenNow
    let s := if still then s.holdEngines else (s.fab.frets.map Prod.fst).foldl State.tickFret s
    let s := (s.runEngines still).cycleEvents
    let now := s.clock.cycle
    let s := if still then s else { s with fab := { s.fab with
      placements := s.fab.placements.map (Prod.map id (Placement.takeReturned now)) } }
    let s := s.noteWindows.limitKeys
    { s with clock := { s.clock with cycle := now + 1 } }

/-- n cycles pass. -/
def State.ticks : Nat → State → State
  | 0, s => s
  | n + 1, s => State.ticks n s.tick

/-- A byte of host memory may be written by the host without a snoop: its line is not in the host-line cache (R155). -/
def State.hostMayWrite (s : State) (a : Nat) : Bool :=
  let base := bits (s.reg 0 0x108) 63 30 * 2 ^ 30
  !(base ≤ a && a < base + hostSize && (tget s.mem.hlc ((hostBase + (a - base)) / 128)).isSome)

/-- The waits at the host-line cache on a line that the host has written: the snoop that took the line re-checks them (R348). -/
def State.recheckHost (s : State) (line : Nat) : State := { s with mem := s.mem.recheck line (s.hostLine line) }

/-- Bytes that the host writes in its own memory (R177), seen by all at once. -/
def State.hostWrites (s : State) (bs : List (Nat × Byte)) : State :=
  let hit := fun (x : Post) => bs.any (fun q => s.hostAddr x.pa ≤ q.1 && q.1 < s.hostAddr x.pa + x.bytes.length)
  let s' := { s with mem := { s.mem with
      hostMem := bs.foldl (fun m q => if s.hostMayWrite q.1 then memPut m q.1 q.2 else m) s.mem.hostMem
      posts := s.mem.posts.filter (fun x => !hit x) } }
  ((s.mem.waits.filter (fun w => isHost (128 * w.place) && !w.polled)).map Wait.place).foldl State.recheckHost s'

/-- Errors that come about in backed HBM lines (R15): one DQ byte lane, or two, which is the most that the check bytes tell (log entry 76). -/
def State.addFlaws (s : State) (fs : List (Nat × Nat)) : State :=
  let add := fun (t : Tab Nat) (q : Nat × Nat) =>
    if q.2 = 0 || !s.hbmBacked (128 * q.1) then t else tput t q.1 (min 2 (tgetD t q.1 0 + q.2))
  { s with mem := { s.mem with flaws := fs.foldl add s.mem.flaws } }

/-- The dispatcher graph increments `BEAT` every 1 ms (R47), counted from its start, while it runs: not where the whole fabric stands still (log
entry 9). -/
def Board.beatOver (b : Board) (running : Bool) (now later : Nat) : Board :=
  let marks := fun (n : Nat) => (n - b.beatSince) / 1000000
  if running && b.phase = 8 && b.duty < 16 && marks now < marks later then
    { b with beat := b.beat + BitVec.ofNat 16 (marks later - marks now), beatSince := b.beatSince + marks later * 1000000 }
  else b

/-- Cycles and nanoseconds pass: PTP time goes on with the nanoseconds (R24), the dispatcher graph counts them, and in phase 4 hub firmware goes on
with the training (R40). -/
def State.passTime (s : State) (b : Beat) : State :=
  let s := State.ticks b.cycles s
  let s := if b.hostBytes.isEmpty then s else s.hostWrites b.hostBytes
  let s := if b.flaws.isEmpty then s else s.addFlaws b.flaws
  let s := { s with
    clock := { s.clock with ptpNs := s.clock.ptpNs + b.ns, ns := s.clock.ns + b.ns }
    board := s.board.beatOver s.sched.dispatching s.clock.ns (s.clock.ns + b.ns) }
  if s.board.phase = 4 then s.goTrain else s

end Sys2Proof.Machine
end

