-- ==== Sys2Proof/Machine/Load.lean ====
section
/-!
DEFINITION. Machine/Load.lean: a loaded record set up to be the next firing: what `withFetchWord` of Step.lean places (log entry 1).
-/
namespace Sys2Proof.Machine

/-- The bytes of an instruction numbered as the opcode table numbers them: the slot word first, little-endian (R2), and every
bit above nbits zero, up to the longest record of 24 bytes (R254). -/
def wordBytes (nbits w : Nat) : List Byte := leBytes 24 (w % 2 ^ nbits)

/-- A launch header for one work item of one field (R72): `WORKCNT` 1, width 1, pool word 0x422. -/
def loadHdr : List Byte :=
  leBytes 16 0 ++ leBytes 8 1 ++ leBytes 6 1 ++ leBytes 2 0 ++ leBytes 2 1 ++ leBytes 2 1 ++ leBytes 3 0 ++ leBytes 1 1
    ++ leBytes 4 0x422 ++ leBytes 212 0

/-- A running task of function 0 (R70), a service task where the form is privileged (R392). -/
def loadTask (svc : Bool) : Task where
  num := 1
  fn := 0
  asid := 0
  hdr := loadHdr
  rtag := 0
  cval := 0
  intr := false
  vec := 0
  child := false
  svc := svc
  st := .running
  accept := 0
  prio := 0
  tokens := 0
  cfgid := 0
  nf := 1
  nextItem := 1
  ended := 0
  nextPl := 1
  lastPl := 0
  quota := true
  walk := 0
  need := 1
  victim := none
  flags := Flags.none
  fault := none
  faultAt := 0
  nfault := 0
  reports := []
  freezing := false
  status := .done
  reason := 0
  faddr := 0
  frec := 0
  image := none
  nsave := 0
  start := 0
  endT := 0
  gang := none
  prefHeld := []
  settled := false
  stateSince := 0
  pair := none
  meas := false
  orderKill := false
  noLine := false
  ending := false
  slow := false
  loadErr := none
  learned := 0
  sliceFrom := 0

/-- Its placement 0: config-local fret 0 on physical fret pf; thread 0 holds the one work item. -/
def loadPlacement (pf : Nat) : Placement where
  task := 1
  idx := 0
  map := [(0, pf)]
  remap := []
  mapGen := []
  regen := []
  moving := []
  grants := [(pf / 8, ())]
  fresh := 1
  freeTags := []
  threads := [(0, ⟨0, 0, 0, 0, [], false, 1, 0⟩)]
  wob := []
  queue := []
  flags := Flags.none
  spawns := []
  returned := []
  holders := []
  frozen := false
  since := 0
  heldToks := []
  turns := []
  issues := []

/-- One token on each port the record expects. -/
def loadEntries (ports : List Nat) : List Entry := ports.map (fun p => ⟨0, p, 0, 0, false, 0, 0, p, false⟩)

/-- The fret that holds the record in slot 0 of element 0. -/
def loadFret (svc : Bool) (bytes : List Byte) (i : Instr) : Fret where
  st := if svc then .service else .live
  cfg := none
  owner := some (64, 0)
  gen := false
  slots := [(0, bytes)]
  swids := [(0, 0)]
  elems := [(0, { Elem.empty with entries := loadEntries (portsOf i) })]
  scratch := []
  bars := []
  window := none
  promised := none
  remap := []
  rewrote := none

/-- A state whose next step fires the record (log entry 1): user forms in cluster 1, privileged ones in the service cluster. -/
def State.loadRecord (s : State) (bytes : List Byte) (i : Instr) : State :=
  let svc := i.privileged
  let pf := if svc then 0 else 8
  { s with
    clock := { s.clock with cycle := max 8 s.clock.cycle }
    fab := { s.fab with
      frets := tput s.fab.frets pf (loadFret svc bytes i)
      placements := tput s.fab.placements 64 (loadPlacement pf) }
    sched := { s.sched with tasks := tput s.sched.tasks 1 (loadTask svc), lastTask := max 1 s.sched.lastTask }
    agenda := ⟨0, 0, [], [], .fire 1 0 0 0⟩ :: s.agenda }

end Sys2Proof.Machine
end

