-- ==== Sys2Proof/Machine/Step.lean ====
section
/-!
DEFINITION. Machine/Step.lean: one beat of the machine. The agenda says what comes next, since the manual leaves the order of
concurrent happenings and the doings of the outside world open (log entry 2); each rule decides whether that may come, and
what it does.
-/
namespace Sys2Proof.Machine

/-- One step: time passes, and then an event comes about or one element has its turn. With nothing on the agenda, nothing comes. -/
def step (s : State) : Host.Outcome State Fault Refusal :=
  match s.agenda with
  | [] => .next s
  | b :: rest =>
    match b.cue with
    | .event i n => exec i { (s.passTime b) with agenda := rest, subject := n, focus := none }
    | .fire task pl f velem =>
      match ({ (s.passTime b) with agenda := rest, focus := none } : State).turn task pl f velem with
      | .idle => .next { (s.passTime b) with agenda := rest, focus := none }
      | .block s' => .next s'
      | .fire i s' => exec i s'
      | .bad r => .fault (.badRecord r)

/-- The state in which the next step runs the instruction of a word of the opcode table. -/
def State.withFetchWord (s : State) (nbits w : Nat) : State :=
  match decodeTableWord nbits w with
  | none => s
  | some i => s.loadRecord (wordBytes nbits w) i

end Sys2Proof.Machine
end

