-- ==== Sys2Proof/Safety.lean ====
section
/-!
DEFINITION. Safety.lean: what counts as a safe run, and the vocabulary in which firings are stated: what a firing sends, what
it leaves alone, and what a form's result lanes are.
-/
namespace Sys2Proof.Machine

/-- A step that goes on: neither a stop nor a refusal. -/
def State.goesOn (s : State) : Prop := ∃ t, step s = .next t

/-- An instruction or event that comes about: it answers a next state, of which P holds. -/
def Happens (i : Instr) (s : State) (P : State → Prop) : Prop := ∃ t, exec i s = .next t ∧ P t

/-! ### Firings (R272) -/

/-- What a firing at `c` changes and leaves alone: `items` join its element's output queue, the flags `fl` join those of its
placement, and the latched instance is spent. Every other element, every fret's scratchpad, barriers, slots and state, every other placement,
and every other part of the machine (all of memory among them) stay as they are. -/
structure Fired (s t : State) (c : Focus) (items : List OutItem) (fl : Flags) : Prop where
  queue : t.elem c.pf c.pelem = { s.elem c.pf c.pelem with outQ := (s.elem c.pf c.pelem).outQ ++ items }
  otherElems : ∀ pf e, (pf, e) ≠ (c.pf, c.pelem) → t.elem pf e = s.elem pf e
  frets : ∀ pf, { t.fret pf with elems := [] } = { s.fret pf with elems := [] }
  flags : t.placement? c.task c.pl = (s.placement? c.task c.pl).map (fun p => { p with flags := p.flags.or fl })
  otherPlacements : ∀ k, k ≠ plKey c.task c.pl → tget t.fab.placements k = tget s.fab.placements k
  fab : t.fab = { s.fab with frets := t.fab.frets, placements := t.fab.placements }
  rest : t = { s with fab := t.fab, focus := none }

/-- The tokens of a firing, in record order, each `ready` X cycles after the present one: `res` for the words with `SIDE` 0, `side`
for those with `SIDE` 1, nothing where that output is missing or the word names the special sink. -/
def firedToks (s : State) (x tag wave : Nat) (ds : List Dest) (res side : Option Word) : List OutItem :=
  (ds.filter (fun d => d.port ≠ .sink && (if d.side then side else res).isSome)).map
    (fun d => .tok ⟨d, tag, wave, ((if d.side then side else res).getD 0), s.clock.cycle + x⟩)

/-- A Format A form that completes with one result word and flags, at extra latency X, wherever it is latched and not squashed. `post` says what
the result and the flags are. -/
def Produces (i : Instr) (f : FmtA) (x : Nat) (post : State → Focus → Word → Flags → Prop) : Prop :=
  ∀ s c, s.focus = some c → f.pmode.squashes c.aux = false →
    ∃ t v fl, exec i s = .next t ∧ Fired s t c (firedToks s x c.tag c.wave f.dests (some v) none) fl ∧ post s c v fl

/-- A form whose result lane i is an exact integer modulo 2^w, and which raises no flag. -/
def LaneInts (i : Instr) (f : FmtA) (x : Nat) (g : Word → Word → Word → Nat → Int) : Prop :=
  Produces i f x (fun _ c v fl => fl = Flags.none ∧
    ∀ j < f.ty.lanes, ((laneOf f.ty.width v j : Nat) : Int) = g (f.left c) (f.right c) c.aux j % 2 ^ f.ty.width)

/-- A form whose result lane i is a natural number below 2^w, and which raises no flag. -/
def LaneNats (i : Instr) (f : FmtA) (x n w : Nat) (g : Word → Word → Word → Nat → Nat) : Prop :=
  Produces i f x (fun _ c v fl => fl = Flags.none ∧ ∀ j < n, laneOf w v j = g (f.left c) (f.right c) c.aux j)

/-- A form whose result is a word, and which raises no flag. -/
def WordForm (i : Instr) (f : FmtA) (x : Nat) (g : Word → Word → Word → Word) : Prop :=
  Produces i f x (fun _ c v fl => fl = Flags.none ∧ v = g (f.left c) (f.right c) c.aux)

/-- A form whose exact lanes wrap or, under `SAT`, clamp to [MIN, MAX] of lanes of width w; `SAT` is raised exactly when some lane is clamped (R286, R298). -/
def SatLanes (i : Instr) (f : FmtA) (n w : Nat) (g : Word → Word → Nat → Int) : Prop :=
  Produces i f 0 (fun _ c v fl =>
    let e := g (f.left c) (f.right c)
    let lo := intMin f.ty.signed w
    let hi := intMax f.ty.signed w
    (∀ j < n, ((laneOf w v j : Nat) : Int) =
      (if f.sat then (if e j > hi then hi else if e j < lo then lo else e j) else e j) % 2 ^ w) ∧
    fl = (if f.sat = true ∧ ∃ j < n, e j > hi ∨ e j < lo then Flags.SAT else Flags.none))

/-- The firing of a chain form: one operation joins the output queue on its way to the home WOB, with the firing's operands, triple and place, and
its address; a squashed one too, marked so and counted as event 0x03 (R112). No token is sent. -/
def SendsChainOp (i : Instr) (pm : PMode) (s : State) (c : Focus) (ea : Nat) : Prop :=
  let sq := pm.squashes c.aux
  Happens i s (fun t => ∃ op : WobOp,
    Fired (if sq then s.countEvent (clusterOf c.pf) c.task 0x03 1 else s) t c [.chain op s.clock.cycle] Flags.none ∧
    op.instr = i ∧ op.task = c.task ∧ op.pl = c.pl ∧ op.tag = c.tag ∧ op.wave = c.wave ∧ op.gen = c.gen ∧ op.fret = c.fret ∧
    op.velem = c.velem ∧ op.slot = c.slot ∧ op.left = c.left ∧ op.right = c.right ∧ op.aux = c.aux ∧
    op.squashed = sq ∧ op.st = .entered ∧ op.ea = ea)

/-! ### Rounding and floating-point results (R197 to R206) -/

/-- The value of a finite code; 0 for a NaN or an infinity. -/
def FVal.rat : FVal → ℚ
  | .fin n m e => (if n then -1 else 1) * (m : ℚ) * (2 : ℚ) ^ e
  | _ => 0

/-- The largest finite value M of a format (R197). -/
def Fmt.maxVal (f : Fmt) : ℚ := (f.unpack f.maxMag).rat

/-- R205: whether the larger of two neighbouring magnitudes a and b is chosen, for a magnitude that lies the fraction `fr` of the way from a to b;
`odd` says that the lowest bit of a is 1. A representable magnitude (fr = 0) stays. -/
def ChoosesUp (rm : Rm) (neg odd : Bool) (rho : Nat) (fr : ℚ) (up : Bool) : Prop :=
  if fr = 0 then up = false
  else match rm with
    | .rne => up = true ↔ (fr > 1 / 2 ∨ (fr = 1 / 2 ∧ odd = true))
    | .rtz => up = false
    | .rdn => up = neg
    | .rup => up = !neg
    | .rna => up = true ↔ fr ≥ 1 / 2
    | .srd => up = true ↔ ⌊fr * 2 ^ 32⌋ > (rho : Int)

/-- The magnitude a rounded to a multiple y of 2^q (R205). -/
def RoundsAt (rm : Rm) (neg : Bool) (rho : Nat) (a : ℚ) (q : Int) (y : ℚ) : Prop :=
  let k := ⌊a / (2 : ℚ) ^ q⌋₊
  ∃ up, ChoosesUp rm neg (decide (k % 2 = 1)) rho (a / (2 : ℚ) ^ q - k) up ∧ y = (k + up.toNat : ℕ) * (2 : ℚ) ^ q

/-- R199, R205, R206: the exact value v rounded once into a format. The neighbours are those of the format's precision with the exponent unbounded
above (y), and, for tininess, with it unbounded below too (u). An exact zero has the sign `zneg`. -/
def Rounds (f : Fmt) (rm : Rm) (sat : Bool) (rho : Nat) (v : ℚ) (zneg : Bool) (r : Nat × Flags) : Prop :=
  if v = 0 then r = (f.withSign zneg 0, Flags.none)
  else
    let neg : Bool := decide (v < 0)
    let p := Int.log 2 |v| - f.fbits
    ∃ y u, RoundsAt rm neg rho |v| (max p (f.emin - f.fbits)) y ∧ RoundsAt rm neg rho |v| p u ∧
      (y > f.maxVal → r = f.overflow rm sat neg) ∧
      (y ≤ f.maxVal → ∃ code ≤ f.maxMag, (f.unpack code).rat = y ∧
        r = (f.withSign neg code,
          { Flags.none with nx := decide (y ≠ |v|), uf := decide (y ≠ |v|) && decide (u < (2 : ℚ) ^ f.emin) }))

/-- Neither a NaN nor an infinity. -/
def FVal.isFin : FVal → Bool
  | .fin _ _ _ => true
  | _ => false

/-- R198: the result when some operand is a NaN: the canonical NaN, with NV for a signalling one. -/
def NanResult (f : Fmt) (vs : List FVal) (r : Nat × Flags) : Prop :=
  r = (f.canonNan, Flags.when (vs.any FVal.isSnan) Flags.NV)

/-- R205, R307, R313: the sum of values that are no NaN: infinities of both signs are invalid, an infinity stays (or is clamped), and otherwise the exact
sum is rounded once; a zero sum is +0 but in RDN, and a sum of zeros of equal sign keeps that sign. -/
def SumResult (f : Fmt) (rm : Rm) (sat : Bool) (rho : Nat) (vs : List FVal) (r : Nat × Flags) : Prop :=
  (.inf true ∈ vs ∧ .inf false ∈ vs → r = (f.canonNan, Flags.NV)) ∧
  (∀ n, .inf n ∈ vs → .inf (!n) ∉ vs → r = f.infinite sat n) ∧
  (vs.all FVal.isFin = true → Rounds f rm sat rho (vs.map FVal.rat).sum
    (if vs.all FVal.isZero && (vs.all FVal.neg? || !vs.any FVal.neg?) then vs.all FVal.neg? else decide (rm = .rdn)) r)

/-- A form whose result lane j stands in relation p to the SRD value of lane j (R207) and the lanes' codes of L, R and A, and which raises every
flag that a lane raises (R199, R302). -/
def FloatLanes (i : Instr) (f : FmtA) (x : Nat) (p : Nat → Nat → Nat → Nat → Nat × Flags → Prop) : Prop :=
  Produces i f x (fun s c v fl => ∃ r : Nat → Nat × Flags,
    (∀ j < f.ty.lanes, laneOf f.ty.width v j = (r j).1 ∧
      p ((s.srdIn c).rho j) (laneOf f.ty.width (f.left c) j) (laneOf f.ty.width (f.right c) j) (laneOf f.ty.width c.aux j) (r j)) ∧
    fl = Flags.all ((List.range f.ty.lanes).map (fun j => (r j).2)))

/-- A value that is no NaN in the order of the extended line; zeros are equal. -/
def FVal.ext : FVal → WithBot (WithTop ℚ)
  | .inf true => ⊥
  | .inf false => ⊤
  | v => ((v.rat : WithTop ℚ) : WithBot (WithTop ℚ))

/-- R308: u lies below v, with -0 below +0. -/
def FVal.below (u v : FVal) : Prop := u.ext < v.ext ∨ (u.ext = v.ext ∧ u.neg? = true ∧ v.neg? = false)

/-- The product of two values that are no NaN and not 0 and infinity together. -/
def FVal.times (u v : FVal) : FVal :=
  match u, v with
  | .fin n m e, .fin n' m' e' => .fin (n ^^ n') (m * m') (e + e')
  | _, _ => .inf (u.neg? ^^ v.neg?)

/-- R198, R313: a sum of products and an addend: a NaN operand first, then 0 times infinity, then the sum. -/
def DotResult (f : Fmt) (rm : Rm) (sat : Bool) (rho : Nat) (ps : List (FVal × FVal)) (z : FVal) (r : Nat × Flags) : Prop :=
  if ps.any (fun p => p.1.isNan || p.2.isNan) || z.isNan then
    r = (f.canonNan, Flags.when (ps.any (fun p => p.1.isSnan || p.2.isSnan) || z.isSnan) Flags.NV)
  else if ps.any (fun p => (p.1.isZero && p.2.isInf) || (p.1.isInf && p.2.isZero)) then r = (f.canonNan, Flags.NV)
  else SumResult f rm sat rho (ps.map (fun p => p.1.times p.2) ++ [z]) r

/-- R205: the positive root of x rounded once to an IEEE format. k * 2^q is the format's neighbour below the root; the choice between it and the next is
said of squares. -/
def RootRounds (f : Fmt) (rm : Rm) (rho : Nat) (x : ℚ) (r : Nat × Flags) : Prop :=
  ∃ (q : ℤ) (k : ℕ) (up : Bool),
    let at' : ℚ → ℚ := fun d => (((k : ℚ) + d) * (2 : ℚ) ^ q) ^ 2
    f.emin - f.fbits ≤ q ∧ ((2 : ℚ) ^ (q + f.fbits)) ^ 2 ≤ x ∧ x < ((2 : ℚ) ^ (q + f.fbits + 1)) ^ 2 ∧
    at' 0 ≤ x ∧ x < at' 1 ∧
    (if x = at' 0 then up = false
      else match rm with
        | .rne => up = true ↔ (x > at' (1 / 2) ∨ (x = at' (1 / 2) ∧ k % 2 = 1))
        | .rtz => up = false
        | .rdn => up = false
        | .rup => up = true
        | .rna => up = true ↔ x ≥ at' (1 / 2)
        | .srd => up = true ↔ x ≥ at' (((rho : ℚ) + 1) / 2 ^ 32)) ∧
    (f.unpack r.1).isFin = true ∧ (f.unpack r.1).rat = ((k + up.toNat : ℕ) : ℚ) * (2 : ℚ) ^ q ∧
    r.2 = Flags.when (decide (x ≠ at' 0)) Flags.NX

/-- R317: an approximated result of sign `neg`: a magnitude of the format that `ok` admits, inexact, tiny where it is subnormal; or one past M, treated as an
overflow, where `big` holds. -/
def ApproxResult (f : Fmt) (rm : Rm) (sat neg : Bool) (ok : ℚ → Prop) (big : Prop) (r : Nat × Flags) : Prop :=
  (∃ mag ≤ f.maxMag, ok (f.unpack mag).rat ∧ r = (f.withSign neg mag, { Flags.none with nx := true, uf := decide (mag < 2 ^ f.fbits) })) ∨
  (big ∧ r = f.overflow rm sat neg)

/-- R317: the last place of the format at the positive value y. -/
def Fmt.ulpAt (f : Fmt) (y : ℚ) : ℚ := (2 : ℚ) ^ (max (Int.log 2 y) f.emin - f.fbits)

/-- R311: the class number of a value. -/
def FVal.classOf (f : Fmt) : FVal → Nat
  | .nan true => 0
  | .nan false => 1
  | .inf true => 2
  | .inf false => 9
  | .fin n m e =>
    if |(FVal.fin n m e).rat| = 0 then (if n then 5 else 6)
    else if |(FVal.fin n m e).rat| < (2 : ℚ) ^ f.emin then (if n then 4 else 7)
    else (if n then 3 else 8)

/-! ### Device events -/

/-- Everything that the main domain holds is gone (R32): dies, memories, links, tasks, engines. The host's own memory and what has been sent out stay. -/
def VolatileLost (s t : State) : Prop :=
  t.clock = { cycle := 0, ptpNs := 0, ns := s.clock.ns } ∧ t.sched = Sched.reset ∧ t.fab = Fab.reset ∧ t.eng = Eng.reset ∧ t.obs = Obs.reset ∧
  t.mem = { Mem.reset with hostMem := s.mem.hostMem, hostPoison := s.mem.hostPoison } ∧
  t.host = { HostSide.reset with msix := s.host.msix, replies := t.host.replies } ∧ t.focus = none

/-- Only the package's part of the state may differ. -/
def BoardOnly (s t : State) : Prop := t = { s with board := t.board }

/-- The fatal state (R31) with a cause. -/
def Fatal (t : State) (c : Cause) : Prop := t.board.fatal = true ∧ t.board.phase = 15 ∧ t.board.cause = c ∧ t.board.alert = true

/-- A request from outside is answered with r, and nothing else changes. -/
def Answers (s t : State) (r : HostReply) : Prop := t = { s with host := { s.host with replies := s.host.replies ++ [r] } }

/-- The task that an event names, which the table holds under its number. -/
def Named (s : State) (k : Task) : Prop := s.subject = k.num ∧ s.task? k.num = some k

/-- The table holds task n, of which p holds. -/
def TaskIs (t : State) (n : Nat) (p : Task → Prop) : Prop := ∃ k, t.task? n = some k ∧ p k

/-- The tokens that fret `pf` sends for a triple of a placement to the destination words given, none of which has the special sink (R109, R118). -/
def sentToks (p : Placement) (pf tag wave : Nat) (data : Word) (now : Nat) (ds : List Dest) : List NetTok :=
  (ds.filter (fun d => d.port ≠ .sink)).map (fun d =>
    p.netTok d tag wave data (clusterOf pf) now (fretLat pf (p.physFret d.fret.toNat)))

/-- Every clean copy of a line holds what lies below it: the L2's and the memory-side cache's of an HBM line, the host-line cache's of a host-tier line (R141,
R155). -/
def CopiesAgree (s : State) (line : Nat) : Prop :=
  (∀ x, tget s.mem.l2 line = some x → x.dirty = false → x.data = s.mem.below line) ∧
  (∀ x, tget s.mem.msc line = some x → x.dirty = false → x.data = s.mem.hbmLine line) ∧
  (∀ x, tget s.mem.hlc line = some x → x.st = .e ∨ x.st = .s → x.data = bytesLine (memBytes s.mem.hostMem (s.hostAddr (128 * line)) 128))

/-- Nothing changes of a line at its home as it is written there: no near-memory command works on it, and it lies in no page under migration. -/
def AtRest (s : State) (line : Nat) : Prop :=
  s.mem.quiet line = true ∧ s.busy line = false ∧ ∀ g ∈ s.mem.migs, 128 * line + 128 ≤ g.src ∨ g.src + pageBytes g.size ≤ 128 * line

/-- What a TLB drops for address spaces `sp` over the addresses from lo to hi, and what it takes again for the accesses that wait (R171, steps 1 and 2). -/
def TlbDropped (s t : State) (sp : Nat → Bool) (lo hi : Nat) : Prop :=
  let hit := fun (e : TlbEntry) => sp e.space && e.va < hi && lo < e.va + e.size
  (∃ again, t.mem.tlb = again ++ s.mem.tlb.filter (fun e => !hit e) ∧ (s.unsentOf sp = [] → s.mem.waits = [] → s.mem.ldcWait = [] → again = [])) ∧
  ∀ e ∈ s.mem.tlb, hit e = true → ∀ k, (e.space, e.va) ∉ tgetD t.mem.ctlb k [] ∧ (e.space, e.va) ∉ tgetD t.mem.dtlb k []

/-! ### Arithmetic of engines, collectives and atomics -/

/-- R205, R307: two values added and rounded once; a NaN operand decides first. -/
def AddResult (F : Fmt) (rm : Rm) (rho : Nat) (u v : FVal) (r : Nat × Flags) : Prop :=
  if u.isNan || v.isNan then NanResult F [u, v] r else SumResult F rm false rho [u, v] r

/-- R205, R307: two values multiplied and rounded once. -/
def ProductResult (F : Fmt) (rm : Rm) (rho : Nat) (u v : FVal) (r : Nat × Flags) : Prop :=
  if u.isNan || v.isNan then NanResult F [u, v] r
  else if (u.isZero && v.isInf) || (u.isInf && v.isZero) then r = (F.canonNan, Flags.NV)
  else if u.isInf || v.isInf then r = F.infinite false (u.neg? ^^ v.neg?)
  else Rounds F rm false rho (u.rat * v.rat) (u.neg? ^^ v.neg?) r

/-- R205, R307: a product and an addend with one rounding. -/
def FusedResult (F : Fmt) (rm : Rm) (rho : Nat) (u v w : FVal) (r : Nat × Flags) : Prop :=
  if u.isNan || v.isNan || w.isNan then NanResult F [u, v, w] r
  else if (u.isZero && v.isInf) || (u.isInf && v.isZero) then r = (F.canonNan, Flags.NV)
  else if u.isInf || v.isInf then SumResult F rm false rho [.inf (u.neg? ^^ v.neg?), w] r
  else if w.isInf then r = F.infinite false w.neg?
  else Rounds F rm false rho (u.rat * v.rat + w.rat) (if (u.neg? ^^ v.neg?) = w.neg? then w.neg? else decide (rm = .rdn)) r

/-- R208: a value converted to a format. -/
def ConvToFloat (D : Fmt) (rm : Rm) (sat : Bool) (rho : Nat) (v : FVal) (r : Nat × Flags) : Prop :=
  match v with
  | .nan s => r = (D.canonNan, Flags.when s Flags.NV)
  | .inf neg => r = D.infinite sat neg
  | .fin neg m e => Rounds D rm sat rho (FVal.fin neg m e).rat neg r

/-- R208: a value converted to a signed integer of w bits: beyond its range it is held at the end of the range, and a NaN becomes 0. -/
def ConvToInt (w : Nat) (rm : Rm) (rho : Nat) (v : FVal) (r : Nat × Flags) : Prop :=
  let hi : ℤ := 2 ^ (w - 1) - 1
  let lo : ℤ := -2 ^ (w - 1)
  match v with
  | .nan _ => r = (0, Flags.NV)
  | .inf neg => (r.1 : ℤ) = (if neg then lo else hi) % 2 ^ w ∧ r.2 = Flags.NV
  | .fin neg m e =>
    let x := (FVal.fin neg m e).rat
    ∃ y : ℕ, RoundsAt rm neg rho |x| 0 y ∧
      let n : ℤ := if neg then -(y : ℤ) else y
      (r.1 : ℤ) = (if n > hi then hi else if n < lo then lo else n) % 2 ^ w

/-- R216, R368: one element of an accumulator drained: brought to binary32, scaled by its row and by its group where there are scales, and brought to the
output format. -/
def DrainResult (f : TFmt) (rm : Rm) (sat : Bool) (rho : Nat) (kind : AccKind) (raw : BitVec 32) (row group : Option Nat) (r : Nat × Flags) : Prop :=
  let scaled := fun (v w : Nat × Flags) (x : Option Nat) => match x with
    | none => w = (v.1, Flags.none)
    | some x => ProductResult fmtF32 .rne 0 (fmtF32.unpack v.1) (fmtF32.unpack x) w
  ∃ a b c : Nat × Flags, (if kind = .int then Rounds fmtF32 .rne false 0 (raw.toInt : ℚ) false a else a = (raw.toNat, Flags.none)) ∧
    scaled a b row ∧ scaled b c group ∧
    match f with
    | .s8 => ConvToInt 8 rm rho (fmtF32.unpack c.1) r
    | .s32 => ConvToInt 32 rm rho (fmtF32.unpack c.1) r
    | f => ConvToFloat (tileNum f) rm sat rho (fmtF32.unpack c.1) r

/-- The exact products of n pairs of values none of which is a NaN, and none of which pairs 0 with infinity. -/
def Products (n : Nat) (x y : Nat → FVal) (ps : List FVal) : Prop :=
  ps.length = n ∧ ∀ (i : Nat) (p : FVal), ps[i]? = some p →
    if (x i).isInf || (y i).isInf then p = .inf ((x i).neg? ^^ (y i).neg?)
    else p.isFin = true ∧ p.rat = (x i).rat * (y i).rat ∧ p.neg? = ((x i).neg? ^^ (y i).neg?)

/-- R213, R214, R367: n groups added to an accumulator element, each group's sum rounded once to binary32 and then added with one rounding more. `bad g` says that
the group is a NaN with no sum. -/
def Accumulates (n width : Nat) (bad : Nat → Prop) (x y : Nat → Nat → FVal) (old new : BitVec 32) : Prop :=
  ∃ v : Nat → BitVec 32, v 0 = old ∧ v n = new ∧ ∀ g < n,
    ∃ q r : Nat × Flags, AddResult fmtF32 .rne 0 (fmtF32.unpack (v g).toNat) (fmtF32.unpack q.1) r ∧ v (g + 1) = BitVec.ofNat 32 r.1 ∧
      (bad g → q.1 = fmtF32.canonNan) ∧ (¬ bad g → ∃ ps, Products width (x g) (y g) ps ∧ SumResult fmtF32 .rne false 0 ps q)

/-- R383, R393: the sum of a collective over its ranks, of one element's values in the order of rank: one member's own value; integers that wrap; binary32 sums one
after another; bfloat16 values summed as binary32 and rounded once more. -/
def CollSum (g : Coll) (i : Nat) (vs : List Nat) (r : Nat) : Prop :=
  let rm := g.op.e.rm
  let rho := (g.srd i).rho
  let chain := fun (F : Nat → Nat) (out : Nat) => ∃ a : Nat → Nat, a 0 = F 0 ∧ a (vs.length - 1) = out ∧
    ∀ k, k + 1 < vs.length → ∃ fl, AddResult fmtF32 rm (rho (k + 1)) (fmtF32.unpack (a k)) (fmtF32.unpack (F (k + 1))) (a (k + 1), fl)
  (∀ v, vs = [v] → r = v) ∧
  (1 < vs.length → (g.op.fmt = .s32 → r = vs.sum % 2 ^ 32) ∧ (g.op.fmt = .f32 → chain (vs.getD · 0) r) ∧
    (g.op.fmt = .bf16 → ∃ (w : Nat → Nat) (out : Nat) (fl : Flags), (∀ k < vs.length, ∃ fk, ConvToFloat fmtF32 .rne false 0 (fmtBf16.unpack (vs.getD k 0)) (w k, fk)) ∧
      chain w out ∧ ConvToFloat fmtBf16 rm false (rho 0) (fmtF32.unpack out) (r, fl)))

/-- R308, R383: the maximum of a collective over its ranks, where no value is a NaN. -/
def CollMax (f : TFmt) (vs : List Nat) (r : Nat) : Prop :=
  (f = .s32 → r ∈ vs ∧ ∀ v ∈ vs, (BitVec.ofNat 32 v).toInt ≤ (BitVec.ofNat 32 r).toInt) ∧
  (f ≠ .s32 → (∀ v ∈ vs, ((tileNum f).unpack v).isNan = false) → r ∈ vs ∧ ∀ v ∈ vs, ((tileNum f).unpack v).ext ≤ ((tileNum f).unpack r).ext)

/-- A committed operation is performed: its entry is freed, and its result word goes out from its home WOB share (R128, R330), the placement having no
fret under a move. -/
def HeldDone (s t : State) (p : Placement) (op : WobOp) (v : Word) : Prop :=
  (∃ q, t.placement? op.task op.pl = some q ∧ q.queue = p.queue.filter (fun o => o.seq ≠ op.seq)) ∧
  t.fab.net = s.fab.net ++ sentToks p (p.homePf op.tag) op.tag op.wave v s.clock.cycle op.instr.dests

/-! ### Invariants -/

/-- HBM and the host's memory stand in canonical form: addresses rise, and no entry equals what an unlisted address reads as. -/
def MemoryCanonical (s : State) : Prop := Memory.wf s.mem.hbm = true ∧ Memory.wf s.mem.hostMem = true

/-- The package's registers hold legal values: a power-up phase of R30, or 15 exactly in the fatal state (R31); a clock step of R26, now and next; a
power limit that R46 admits; a duty fraction in sixteenths; and the two saturating loss counts (R46). -/
def BoardLegal (s : State) : Prop :=
  s.board.phase ∈ [0, 1, 2, 3, 4, 7, 8, 15] ∧ (s.board.fatal = true ↔ s.board.phase = 15) ∧
  (1200 ≤ s.board.clk ∧ s.board.clk ≤ 2700 ∧ s.board.clk % 50 = 0) ∧
  (∀ c, s.board.clkNext = some c → 1200 ≤ c ∧ c ≤ 2700 ∧ c % 50 = 0) ∧
  (1000 ≤ s.board.plim.toNat ∧ s.board.plim.toNat ≤ 3400) ∧ s.board.duty ≤ 16 ∧ s.board.lossEvents ≤ 0xFFFF ∧ s.board.lossLines ≤ 0xFFFF

end Sys2Proof.Machine
end

