-- ==== Sys2Proof/Certificates/Slice0/Obligations.lean ====
section
/-!
DEFINITION. Certificates/Slice0/Obligations.lean: what the provers are asked to prove of the machine. Each statement cites the rules of
the spec that it comes from; where one rests on a choice of the model, its docstring says so and names the log entry.
-/
open Sys2Proof Sys2Proof.Machine

/-! ### Integer forms (R285 to R290) -/

/-- R286 (`add`, `sub`, `neg`, `abs`): each lane is computed exactly and then wraps, or under `SAT` clamps to [MIN, MAX] and sets `SAT`. R287 (`addc`,
`addc.co`, `subb`, `subb.bo`): the 64-bit words as unsigned, with bit 0 of aux as carry or borrow in. -/
def Obligations.SaturatingAndCarryForms : Prop :=
  (
   ∀ f : FmtA,
    SatLanes (.add f) f f.ty.lanes f.ty.width (fun L R j => laneVal f.ty L j + laneVal f.ty R j) ∧
    SatLanes (.sub f) f f.ty.lanes f.ty.width (fun L R j => laneVal f.ty L j - laneVal f.ty R j) ∧
    SatLanes (.neg f) f f.ty.lanes f.ty.width (fun L _ j => -laneVal f.ty L j) ∧
    SatLanes (.abs f) f f.ty.lanes f.ty.width (fun L _ j => |laneVal f.ty L j|)) ∧
  (
   ∀ f : FmtA,
    WordForm (.addc false f) f 0 (fun L R A => BitVec.ofNat 64 ((L.toNat + R.toNat + A.toNat % 2) % 2 ^ 64)) ∧
    WordForm (.addc true f) f 0 (fun L R A => BitVec.ofNat 64 ((L.toNat + R.toNat + A.toNat % 2) / 2 ^ 64)) ∧
    WordForm (.subb false f) f 0 (fun L R A => BitVec.ofInt 64 ((L.toNat : Int) - R.toNat - ((A.toNat % 2 : Nat) : Int))) ∧
    WordForm (.subb true f) f 0 (fun L R A => if L.toNat < R.toNat + A.toNat % 2 then 1 else 0))

/-- R288 (`mul`, `mulh`, `mad`, `mulw`): exact products; a `mulw` product always fits in its lane of 2w bits. X is 2 (R275). R289 (`div`, `rem`): lane
by lane, truncating toward zero, with the edge results of R217 and no flag or fault; X by lane width (R275). -/
def Obligations.MultiplyAndDivideForms : Prop :=
  (
   ∀ f : FmtA,
    LaneInts (.mul f) f 2 (fun L R _ j => laneVal f.ty L j * laneVal f.ty R j) ∧
    LaneInts (.mulh f) f 2 (fun L R _ j => (laneVal f.ty L j * laneVal f.ty R j).fdiv (2 ^ f.ty.width)) ∧
    LaneInts (.mad f) f 2 (fun L R A j => laneVal f.ty L j * laneVal f.ty R j + laneVal f.ty A j) ∧
    (∀ odd, Produces (.mulw odd f) f 2 (fun _ c v fl => fl = Flags.none ∧ ∀ j < f.ty.lanes / 2,
      let p := laneVal f.ty (f.left c) (2 * j + odd.toNat) * laneVal f.ty (f.right c) (2 * j + odd.toNat)
      ((laneOf (2 * f.ty.width) v j : Nat) : Int) = p % 2 ^ (2 * f.ty.width) ∧
        intMin f.ty.signed (2 * f.ty.width) ≤ p ∧ p ≤ intMax f.ty.signed (2 * f.ty.width)))) ∧
  (
   ∀ f : FmtA,
    let x := if f.ty.width = 8 then 4 else if f.ty.width = 16 then 6 else if f.ty.width = 32 then 10 else 18
    LaneInts (.div f) f x (fun L R _ j =>
      if laneVal f.ty R j = 0 then (if f.ty.signed then -1 else intMax false f.ty.width)
      else if f.ty.signed ∧ laneVal f.ty L j = intMin true f.ty.width ∧ laneVal f.ty R j = -1 then intMin true f.ty.width
      else (laneVal f.ty L j).tdiv (laneVal f.ty R j)) ∧
    LaneInts (.rem f) f x (fun L R _ j =>
      if laneVal f.ty R j = 0 then laneVal f.ty L j
      else if f.ty.signed ∧ laneVal f.ty L j = intMin true f.ty.width ∧ laneVal f.ty R j = -1 then 0
      else laneVal f.ty L j - (laneVal f.ty L j).tdiv (laneVal f.ty R j) * laneVal f.ty R j))

/-- R290 (`min`, `max`, `avg`, `sad`): comparison by the type's signedness, an average that never wraps, and a scalar sum at most 2,040 for 8-bit
lanes and 262,140 for 16-bit lanes. -/
def Obligations.MinMaxAverage : Prop := ∀ f : FmtA,
  LaneInts (.min f) f 0 (fun L R _ j => if laneVal f.ty L j ≤ laneVal f.ty R j then laneVal f.ty L j else laneVal f.ty R j) ∧
  LaneInts (.max f) f 0 (fun L R _ j => if laneVal f.ty L j ≥ laneVal f.ty R j then laneVal f.ty L j else laneVal f.ty R j) ∧
  Produces (.avg f) f 0 (fun _ c v fl => fl = Flags.none ∧ ∀ j < f.ty.lanes,
    let e := (laneVal f.ty (f.left c) j + laneVal f.ty (f.right c) j + 1).fdiv 2
    ((laneOf f.ty.width v j : Nat) : Int) = e % 2 ^ f.ty.width ∧
      intMin f.ty.signed f.ty.width ≤ e ∧ e ≤ intMax f.ty.signed f.ty.width) ∧
  Produces (.sad f) f 0 (fun _ c v fl => fl = Flags.none ∧
    let n := ((List.range f.ty.lanes).map (fun j => (laneVal f.ty (f.left c) j - laneVal f.ty (f.right c) j).natAbs)).sum
    v = BitVec.ofNat 64 n ∧ (f.ty.width = 8 → n ≤ 2040) ∧ (f.ty.width = 16 → n ≤ 262140))

/-! ### Logic, shifts, bit fields, lanes, comparison, addresses (R291 to R300) -/

/-- R292 (`and`, `or`, `xor`, `andn`, `not`): bit by bit. R293 (`shl`, `shr`, `sar`, `rot`, `shrp`): the count of a lane is the lane of s, unsigned; a
count at or above the width gives 0, 0, sign fill, or a rotation by its remainder; `shrp` takes A[5:0] and gives lo for a count of 0. -/
def Obligations.LogicAndShiftForms : Prop :=
  (
   ∀ f : FmtA,
    let bits := fun (i : Instr) (g : Bool → Bool → Bool) => Produces i f 0 (fun _ c v fl => fl = Flags.none ∧
      ∀ b < 64, v.getLsbD b = g ((f.left c).getLsbD b) ((f.right c).getLsbD b))
    bits (.and f) (fun x y => x && y) ∧ bits (.or f) (fun x y => x || y) ∧ bits (.xor f) (fun x y => x ^^ y) ∧
    bits (.andn f) (fun x y => x && !y) ∧ bits (.not f) (fun x _ => !x)) ∧
  (
   ∀ f : FmtA,
    let w := f.ty.width
    LaneNats (.shl f) f 0 f.ty.lanes w (fun L R _ j =>
      if laneOf w R j < w then laneOf w L j * 2 ^ laneOf w R j % 2 ^ w else 0) ∧
    LaneNats (.shr f) f 0 f.ty.lanes w (fun L R _ j => if laneOf w R j < w then laneOf w L j / 2 ^ laneOf w R j else 0) ∧
    LaneInts (.sar f) f 0 (fun L R _ j =>
      (BitVec.ofNat w (laneOf w L j)).toInt.fdiv (2 ^ min (laneOf w R j) (w - 1))) ∧
    LaneNats (.rot f) f 0 f.ty.lanes w (fun L R _ j =>
      ((BitVec.ofNat w (laneOf w L j)).rotateLeft (laneOf w R j)).toNat) ∧
    Produces (.shrp f) f 0 (fun _ c v fl => fl = Flags.none ∧
      v.toNat = ((f.left c).toNat * 2 ^ 64 + (f.right c).toNat) / 2 ^ (c.aux.toNat % 64) % 2 ^ 64 ∧
      (c.aux.toNat % 64 = 0 → v = f.right c)))

/-- R294 (`clz`, `ctz`, `popc`, `brev`), each said of the lane's bits: k zeros above the highest one bit, k zeros below the lowest, the number of one
bits, and bit j moved to bit w - 1 - j. R294 (`bext`, `bdep`): the bit of L at the mask's n-th one bit goes to bit n, and bit n of L to the mask's
n-th one bit; every other bit of the result is 0. X is 1 (R275). -/
def Obligations.CountAndBitFieldForms : Prop :=
  (
   ∀ f : FmtA,
    let w := f.ty.width
    let lanes := fun (i : Instr) (p : Nat → Nat → Prop) => Produces i f 0 (fun _ c v fl => fl = Flags.none ∧
      ∀ j < f.ty.lanes, p (laneOf w (f.left c) j) (laneOf w v j))
    lanes (.clz f) (fun u k => (u = 0 → k = w) ∧ (u ≠ 0 → k < w ∧ 2 ^ (w - 1 - k) ≤ u ∧ u < 2 ^ (w - k))) ∧
    lanes (.ctz f) (fun u k => (u = 0 → k = w) ∧ (u ≠ 0 → u.testBit k = true ∧ ∀ b < k, u.testBit b = false)) ∧
    lanes (.popc f) (fun u k => k = ((List.range w).filter u.testBit).length) ∧
    lanes (.brev f) (fun u k => ∀ b < w, k.testBit (w - 1 - b) = u.testBit b)) ∧
  (
   ∀ f : FmtA,
    let rank := fun (m : Word) (b : Nat) => ((List.range b).filter m.getLsbD).length
    Produces (.bext f) f 1 (fun _ c v fl => fl = Flags.none ∧
      (∀ b < 64, (f.right c).getLsbD b = true → v.getLsbD (rank (f.right c) b) = (f.left c).getLsbD b) ∧
      (∀ n, rank (f.right c) 64 ≤ n → v.getLsbD n = false)) ∧
    Produces (.bdep f) f 1 (fun _ c v fl => fl = Flags.none ∧
      ∀ b < 64, v.getLsbD b = ((f.right c).getLsbD b && (f.left c).getLsbD (rank (f.right c) b))))

/-- R296, R297 (`perm`, `mix`, `bcast`): bytes selected by the low 32 bits of sel, lanes interleaved, and one lane in every lane; X of `perm` is 1
(R275). R298 (`pack`, `unpk`): 2n lanes of half the width, from a and then from b, clamped under `SAT`; and n/2 lanes of twice the width, extended by
the type's signedness. -/
def Obligations.LaneMoveAndPackForms : Prop :=
  (
   ∀ f : FmtA,
    let w := f.ty.width
    let n := f.ty.lanes
    LaneNats (.perm f) f 1 8 8 (fun L R A j =>
      let k := (R.extractLsb' (4 * j) 4).toNat
      if k < 8 then laneOf 8 L k else laneOf 8 A (k - 8)) ∧
    (∀ hi, Produces (.mix hi f) f 0 (fun _ c v fl => fl = Flags.none ∧ ∀ j < n / 2,
      let h := if hi then n / 2 else 0
      laneOf w v (2 * j) = laneOf w (f.left c) (h + j) ∧ laneOf w v (2 * j + 1) = laneOf w (f.right c) (h + j))) ∧
    LaneNats (.bcast f) f 0 n w (fun L R _ _ => laneOf w L (R.toNat % n))) ∧
  (
   ∀ f : FmtA,
    let n := f.ty.lanes
    SatLanes (.pack f) f (2 * n) (f.ty.width / 2) (fun L R j => if j < n then laneVal f.ty L j else laneVal f.ty R (j - n)) ∧
    (∀ hi, Produces (.unpk hi f) f 0 (fun _ c v fl => fl = Flags.none ∧ ∀ j < n / 2,
      ((laneOf (2 * f.ty.width) v j : Nat) : Int) =
        laneVal f.ty (f.left c) ((if hi then n / 2 else 0) + j) % 2 ^ (2 * f.ty.width))))

/-- R299 (`cmp`, `btst`, `blend`): all ones where the relation holds by the type's signedness, one bit, and lanes chosen by bit 0 of the mask's lanes.
R300 (`lea`): (L + R × 2^s) mod 2^64. -/
def Obligations.CompareAndAddressForms : Prop :=
  (
   ∀ f : FmtA,
    let w := f.ty.width
    let rel := fun (cc : ICmp) (p : Int → Int → Prop) => Produces (.cmp cc f) f 0 (fun _ c v fl => fl = Flags.none ∧
      ∀ j < f.ty.lanes, (p (laneVal f.ty (f.left c) j) (laneVal f.ty (f.right c) j) → laneOf w v j = 2 ^ w - 1) ∧
        (¬ p (laneVal f.ty (f.left c) j) (laneVal f.ty (f.right c) j) → laneOf w v j = 0))
    rel .eq (fun x y => x = y) ∧ rel .ne (fun x y => x ≠ y) ∧ rel .lt (fun x y => x < y) ∧ rel .le (fun x y => x ≤ y) ∧
    rel .gt (fun x y => x > y) ∧ rel .ge (fun x y => x ≥ y) ∧
    WordForm (.btst f) f 0 (fun L R _ => if L.getLsbD (R.toNat % 64) then 1 else 0) ∧
    LaneNats (.blend f) f 0 f.ty.lanes w (fun L R A j => if laneOf w A j % 2 = 1 then laneOf w L j else laneOf w R j)) ∧
  (
   ∀ (s : BitVec 2) (f : FmtA),
    WordForm (.lea s f) f 0 (fun L R _ => BitVec.ofNat 64 ((L.toNat + R.toNat * 2 ^ s.toNat) % 2 ^ 64)))

/-! ### Dataflow control and Format A system forms (R272, R276 to R283, R386, R388) -/

/-- R112, R272, R273 (every Format A form): a squashed firing sends nothing and changes nothing but the event counters that count code 0x03 for its
task in its cluster (R238, R239), each by one modulo 2^48, with `OVF` on a wrap. -/
def Obligations.SquashedFiring : Prop :=
  ∀ (i : Instr) (d : DescA) (s : State) (c : Focus), i.desc = .a d → s.focus = some c → d.f.pmode.squashes c.aux = true →
    (∃ t, exec i s = .next t ∧ (
      t = { s with fab := { s.fab with evc := t.fab.evc }, focus := none } ∧
      ∀ n < 4, ∀ cl,
        let sel := tgetD s.fab.evsel (4 * cl + n) 0
        let old := tgetD s.fab.evc (4 * cl + n) 0
        let new := tgetD t.fab.evc (4 * cl + n) 0
        if cl = clusterOf c.pf ∧ sel.toNat / 2 ^ 32 = c.task ∧ sel.getLsbD 16 = true ∧ sel.toNat % 256 = 0x03 then
          new.toNat % 2 ^ 48 = (old.toNat + 1) % 2 ^ 48 ∧
            new.getLsbD 63 = (old.getLsbD 63 || decide (old.toNat % 2 ^ 48 = 2 ^ 48 - 1))
        else new = old))

/-- R277 (`steer`, `select`): the side is chosen by bit 0 of p alone; each unsquashed firing counts as event 0x16 and adds its decision to the path
hash of its task's measured passes (R243). R279 (`mov`, `const`, `sink`, `gate`, `join`, `join.3`): results without a change of tag or wave. -/
def Obligations.SteerAndControlForms : Prop :=
  (
   ∀ (f : FmtA) (s : State) (c : Focus),
    s.focus = some c → f.pmode.squashes c.aux = false →
      let p := (f.left c).getLsbD 0
      let x := mix64 (s.workOf c ^^^
        (BitVec.ofNat 64 (c.wave + 2 ^ 24 * c.fret + 2 ^ 36 * c.velem + 2 ^ 39 * c.slot + 2 ^ 44 * p.toNat) * 0x9E3779B97F4A7C15))
      let noted : State := { s with
        fab := s.fab.countEvent (clusterOf c.pf) c.task 0x16 1
        obs := { s.obs with meas := s.obs.meas.map (fun m => if m.task = c.task ∧ m.refused = false then { m with hash := m.hash + x } else m) } }
      (∃ t, exec (.steer f) s = .next t ∧ (Fired noted t c
        (firedToks s 0 c.tag c.wave f.dests (if p then some (f.right c) else none) (if p then none else some (f.right c))) Flags.none)) ∧
      (∃ t, exec (.select f) s = .next t ∧ (Fired noted t c
        (firedToks s 0 c.tag c.wave f.dests (some (if p then f.right c else c.aux)) (some (if p then c.aux else f.right c))) Flags.none))) ∧
  (
   ∀ f : FmtA,
    WordForm (.mov f) f 0 (fun L _ _ => L) ∧ WordForm (.const f) f 0 (fun _ R _ => R) ∧
    WordForm (.gate f) f 0 (fun L _ _ => L) ∧ (∀ three, WordForm (.join three f) f 0 (fun _ _ _ => 0)) ∧
    ∀ (s : State) (c : Focus), s.focus = some c → f.pmode.squashes c.aux = false →
      exec (.sink f) s = .next { s with focus := none })

/-- R278, R281 (`wadv`, `wset`, `send`, `tagof`): the forms that renumber their token, and the one that reads its key. R74, R280 (`idx`), R282
(`spawn`), R283 (`endt`): a field of the thread's work identifier, 0 at or beyond the nonzero widths; one request bound for the tag unit; one notice
bound for the thread's home WOB, which can arrive after the latency of R118. -/
def Obligations.RenumberingAndThreadForms : Prop :=
  (
   ∀ (f : FmtA) (s : State) (c : Focus),
    s.focus = some c → f.pmode.squashes c.aux = false →
      (∃ t, exec (.wadv f) s = .next t ∧ (
        Fired s t c (firedToks s 0 c.tag ((c.wave + 1) % 2 ^ 24) f.dests (some (f.left c)) none) Flags.none)) ∧
      (∃ t, exec (.wset f) s = .next t ∧ (
        Fired s t c (firedToks s 0 c.tag ((f.right c).extractLsb' 0 24).toNat f.dests (some (f.left c)) none) Flags.none)) ∧
      (∃ t, exec (.send f) s = .next t ∧ (
        Fired s t c (firedToks s 0 ((f.right c).extractLsb' 24 14).toNat ((f.right c).extractLsb' 0 24).toNat f.dests
          (some (f.left c)) none) Flags.none)) ∧
      (∃ t, exec (.tagof f) s = .next t ∧ (
        Fired s t c (firedToks s 0 c.tag c.wave f.dests (some (BitVec.ofNat 64 (c.tag * 2 ^ 24 + c.wave))) none) Flags.none))) ∧
  (
   ∀ (f : FmtA) (s : State) (c : Focus) (p : Placement) (th : Thread) (k : Task),
    s.focus = some c → f.pmode.squashes c.aux = false → s.placement? c.task c.pl = some p → p.thread? c.tag = some th →
    s.task? c.task = some k →
      let n := (k.widths.takeWhile (· ≠ 0)).length
      let i := (f.right c).toNat
      ((k.widths.drop n).sum = 0 → (∃ t, exec (.idx f) s = .next t ∧ (Fired s t c (firedToks s 0 c.tag c.wave f.dests
        (some (BitVec.ofNat 64 (if i < n then
          th.work.toNat / 2 ^ (((k.widths.take n).drop (i + 1)).sum) % 2 ^ k.widths.getD i 0 else 0))) none) Flags.none))) ∧
      (∃ t, exec (.spawn f) s = .next t ∧ (
        Fired s t c [.spawn c.tag c.wave (f.left c) c.slot c.velem f.dests s.clock.cycle th.work th.ordinal] Flags.none)) ∧
      (∃ t, exec (.endt f) s = .next t ∧ (t = { s with
        fab := { s.fab with notices := s.fab.notices ++
          [⟨c.task, c.pl, c.tag, c.wave, s.clock.cycle + 1 + fretLat c.pf (p.physFret (p.home c.tag))⟩] }
        focus := none })))

/-- R386 (`chk` with c's bit 0 at 1, `time`, `temit`) and R388 (`srd`): what they send, and the trace record of a `temit` in a task with `TRC` (none
in any other, R235). What S.FLAGS shows of other elements is the model's reading (log entry 40). -/
def Obligations.SystemReads : Prop := ∀ (f : FmtA) (s : State) (c : Focus) (p : Placement) (k : Task),
  s.focus = some c → f.pmode.squashes c.aux = false → s.placement? c.task c.pl = some p → s.task? c.task = some k →
    let cl := clusterOf c.pf
    let gives := fun (i : Instr) (v : Word) =>
      (∃ t, exec i s = .next t ∧ (Fired s t c (firedToks s 0 c.tag c.wave f.dests (some v) none) Flags.none))
    ((f.left c).getLsbD 0 = true → gives (.chk f) (f.left c)) ∧
    gives (.time f) (BitVec.ofNat 64 s.clock.cycle) ∧
    (k.trc = false → exec (.temit f) s = .next { s with focus := none }) ∧
    (k.trc = true → (∃ t, exec (.temit f) s = .next t ∧ (
      (∃ r, tgetD t.fab.trFifo cl [] = tgetD s.fab.trFifo cl [] ++ [r] ∧ r.kind = 0 ∧ r.payload = f.left c ∧
        r.time = s.clock.ptpNs ∧ r.tag = c.tag ∧ r.wave = c.wave ∧ r.fret = c.fret ∧ r.velem = c.velem ∧ r.slot = c.slot ∧
        r.pl = c.pl ∧ r.task = c.task) ∧
      (∀ n ≠ cl, tgetD t.fab.trFifo n [] = tgetD s.fab.trFifo n []) ∧
      t = { s with fab := { s.fab with trFifo := t.fab.trFifo }, focus := none }))) ∧
    gives (.srd .time f) (BitVec.ofNat 64 s.clock.ptpNs) ∧
    gives (.srd .task f) (BitVec.ofNat 64 (c.task % 2 ^ 32)) ∧
    gives (.srd .place f) (BitVec.ofNat 64 c.pl) ∧
    gives (.srd .home f) (BitVec.ofNat 64 (p.home c.tag)) ∧
    gives (.srd .fret f) (BitVec.ofNat 64 (c.fret * 2 ^ 3 + c.pf % 8)) ∧
    gives (.srd .elem f) (BitVec.ofNat 64 (c.velem * 2 ^ 3 + c.pelem)) ∧
    gives (.srd .cls f) (BitVec.ofNat 64 (cl / 128 * 2 ^ 9 + cl)) ∧
    gives (.srd .flags f) p.flags.word ∧
    (∀ n, let sel := tgetD s.fab.evsel (4 * cl + n.toNat) 0
      gives (.srd (.evsel n) f) (if sel.toNat / 2 ^ 32 = c.task then sel else 0) ∧
      gives (.srd (.evc n) f) (if sel.toNat / 2 ^ 32 = c.task then tgetD s.fab.evc (4 * cl + n.toNat) 0 else 0)) ∧
    (k.svc = true → gives (.srd .beat f) (s.board.beat.zeroExtend 64) ∧ gives (.srd .qerr f) 0 ∧ gives (.srd .qcons f) 0)

/-- R133, R220, R386, R388 (`trap`; `chk` with c's bit 0 at 0; a user task's `srd` of a service register; `tunpk` of an illegal byte): a fault not
tied to a chain operation, found in the thread's oldest uncommitted wave, lands at once: the thread's uncommitted waves are discarded and its record
goes to the Farrier with the code and address of R220. Memory, the host side and every element stay as they are. Found in a younger wave, it waits
with its thread. It is counted with its task (R223), and nothing else changes. The STOP record's payload is no part of it (log entry 41). -/
def Obligations.FiringFaults : Prop :=
  ∀ (f : FmtA) (s : State) (c : Focus) (p : Placement) (th : Thread) (k : Task),
    s.focus = some c → f.pmode.squashes c.aux = false → s.placement? c.task c.pl = some p → p.thread? c.tag = some th →
    th.faults = [] → th.stopped = false → s.task? c.task = some k →
    let lands := fun (i : Instr) (code : FCode) (addr : Nat) =>
      (c.wave = th.oldest → (∃ t, exec i s = .next t ∧ (
        (∃ p', t.placement? c.task c.pl = some p' ∧
          p'.thread? c.tag = some { th with stopped := true, faults := [] } ∧
          p'.wob = p.wob.filter (fun o => o.tag ≠ c.tag) ∧ p' = { p with threads := p'.threads, wob := p'.wob }) ∧
        (∃ r at_, t.task? c.task = some { k with reports := k.reports ++ [(r, at_)], nfault := min 0x10000 (k.nfault + 1) } ∧ r.code = code ∧ r.addr = addr ∧
          r.kind = .notTied ∧ r.wave = c.wave ∧ r.tag = c.tag ∧ r.pl = c.pl ∧ r.fret = c.fret ∧ r.velem = c.velem ∧
          r.slot = c.slot ∧ r.work = th.work ∧ r.time = s.clock.ptpNs) ∧
        t = { s with fab := { s.fab with placements := t.fab.placements, trFifo := t.fab.trFifo }
                     sched := { s.sched with tasks := t.sched.tasks }, focus := none }))) ∧
      (c.wave ≠ th.oldest → waveCommitted c.wave th.oldest = false → (∃ t, exec i s = .next t ∧ (
        (∃ p' r, t.placement? c.task c.pl = some p' ∧ p'.thread? c.tag = some { th with faults := [r] } ∧ r.code = code ∧
          r.addr = addr ∧ p' = { p with threads := p'.threads }) ∧
        t.task? c.task = some { k with nfault := min 0x10000 (k.nfault + 1) } ∧
        t = { s with fab := { s.fab with placements := t.fab.placements }, sched := { s.sched with tasks := t.sched.tasks }, focus := none })))
    lands (.trap f) .trap 0 ∧
    ((f.left c).getLsbD 0 = false → lands (.chk f) .chk 0) ∧
    (k.svc = false → lands (.srd .beat f) .priv 0x20 ∧ lands (.srd .qerr f) .priv 0x21 ∧ lands (.srd .qcons f) .priv 0x22) ∧
    (∀ part, 243 ≤ laneOf 8 (f.left c) part.toNat → lands (.tunpk part f) .tritcode 0)

/-! ### Chain forms fire (R112, R328, R329, R354, R385) -/

/-- R112, R328, R329: every Format M form (`ld`, `ld.acq`, `ld.io`, `ldnt`, `st`, `st.rel`, `st.io`, `ldc`, `stc`, `fillc`, `relc`, `cntq`, `memnop`,
`atom.add`, `atom.min`, `atom.max`, `atom.and`, `atom.or`, `atom.xor`, `atom.xchg`, `atom.cas`, `atom.inc`, `atom.fadd`, `fence`, `pref`, `flush`,
`waitl`, `barinit`, `bararr`, `barwait`) sends its operation to the home WOB, with EA = (L + off) mod 2^64, the offset sign-extended from bit 19, or
from bit 43 where an extension word follows. Nothing is read or written yet. R112, R354, R385: every Format E form (`t.ld`, `t.st`, `t.rel`, `t.zero`,
`t.stat`, `t.tr`, `mm.tern`, `mm.mx4`, `mm.d`, `drain`, `drain.m`, `copy`, `gath`, `nmc.axpy`, `nmc.sgd`, `nmc.scal`, `nmc.fill`, `nmc.sum`,
`nmc.fadd`, `coll.allred.sum`, `coll.allred.max`, `coll.allgat`, `coll.redsc`, `coll.bcast`, `coll.gbar`, `rwr`, `rrd`, `brk`, `swr` of `evsel`n,
`evc`n, `beat`, `qerr` and `qcons`, `launch`, `launch.disp`, `launch.recfg`) sends its operation to the home WOB, with its left operand as its
address. Nothing is read or written yet. That the operation leaves through the output queue is the model's reading (log entry 10). -/
def Obligations.HeldFormsFire : Prop :=
  (
    ∀ (i : Instr) (d : DescM) (s : State) (c : Focus), i.desc = .m d → s.focus = some c →
      SendsChainOp i d.m.pmode s c
        (match d.m.offh with
          | none => (c.left.toNat + (d.m.off.signExtend 64).toNat) % 2 ^ 64
          | some h => (c.left.toNat + ((h ++ d.m.off).signExtend 64).toNat) % 2 ^ 64)) ∧
  (
    ∀ (i : Instr) (d : DescE) (s : State) (c : Focus), i.desc = .e d → s.focus = some c →
      SendsChainOp i d.e.pmode s c c.left.toNat)

/-! ### Rounding (R199, R205, R206) -/

/-- R199, R205, R206: in every rounding mode and every format of R197 that results are rounded into, a finite exact value m * 2^e is rounded once, to
one of its two neighbours as R205 chooses, beyond M as R206 says, and raises NX, UF and OF as R199 says; and R206's table beyond M, row by row with
the codes of R197 (M, infinity, E4M3's 448 and NaN), with what an infinite value becomes. -/
def Obligations.RoundingRule : Prop :=
  (∀ f ∈ [fmtF64, fmtF32, fmtBf16, fmtF16, fmtE5m2, fmtE4m3], ∀ (rm : Rm) (sat : Bool) (rho : Nat) (neg : Bool) (m : Nat) (e : Int),
    Rounds f rm sat rho ((FVal.fin neg m e).rat) neg (f.round rm sat rho ⟨neg, m, e, false⟩)) ∧
  (∀ x ∈ [(fmtF64, 2 ^ 63, 0x7FEFFFFFFFFFFFFF, 0x7FF0000000000000), (fmtF32, 2 ^ 31, 0x7F7FFFFF, 0x7F800000), (fmtBf16, 2 ^ 15, 0x7F7F, 0x7F80),
      (fmtF16, 2 ^ 15, 0x7BFF, 0x7C00), (fmtE5m2, 2 ^ 7, 0x7B, 0x7C)], ∀ (rm : Rm) (neg : Bool),
    let (f, sign, M, inf) := x
    let sg := if neg then sign else 0
    let staysM := rm = .rtz ∨ (rm = .rdn ∧ neg = false) ∨ (rm = .rup ∧ neg = true)
    f.overflow rm true neg = (sg + M, { Flags.none with ov := true, nx := true, sat := true }) ∧
    f.overflow rm false neg = (if staysM then sg + M else sg + inf, { Flags.none with ov := true, nx := true }) ∧
    f.infinite true neg = (sg + M, { Flags.none with sat := true }) ∧ f.infinite false neg = (sg + inf, Flags.none)) ∧
  (∀ (rm : Rm) (neg : Bool),
    let sg := if neg then 0x80 else 0
    let staysM := rm = .rtz ∨ (rm = .rdn ∧ neg = false) ∨ (rm = .rup ∧ neg = true)
    fmtE4m3.overflow rm true neg = (sg + 0x7E, { Flags.none with ov := true, nx := true, sat := true }) ∧
    fmtE4m3.overflow rm false neg = (if staysM then sg + 0x7E else 0x7F, { Flags.none with ov := true, nx := true }) ∧
    fmtE4m3.infinite true neg = (sg + 0x7E, { Flags.none with sat := true }) ∧ fmtE4m3.infinite false neg = (0x7F, { Flags.none with nv := true }))

/-! ### Floating-point arithmetic (R303, R307, R313) -/

/-- R307, with X of R303 (`fadd`, `fsub`, `fmul`, `fma`): a NaN operand decides first; then invalid and infinite operands; otherwise the exact value
is rounded once per lane, `fma` with one rounding for product and sum. -/
def Obligations.FloatArithmetic : Prop := ∀ f : FmtA, f.ty ∈ tyF →
  let F := ETy.fmt f.ty
  let x := if f.ty = .f64 then 3 else 2
  let y := if f.ty = .f64 then 4 else 3
  FloatLanes (.fadd f) f x (fun rho a b _ r =>
    if (F.unpack a).isNan || (F.unpack b).isNan then NanResult F [F.unpack a, F.unpack b] r
    else SumResult F f.rm f.sat rho [F.unpack a, F.unpack b] r) ∧
  FloatLanes (.fsub f) f x (fun rho a b _ r =>
    if (F.unpack a).isNan || (F.unpack b).isNan then NanResult F [F.unpack a, F.unpack b] r
    else SumResult F f.rm f.sat rho [F.unpack a, (F.unpack b).negate] r) ∧
  FloatLanes (.fmul f) f x (fun rho a b _ r =>
    let u := F.unpack a
    let v := F.unpack b
    if u.isNan || v.isNan then NanResult F [u, v] r
    else if (u.isZero && v.isInf) || (u.isInf && v.isZero) then r = (F.canonNan, Flags.NV)
    else if u.isInf || v.isInf then r = F.infinite f.sat (u.neg? ^^ v.neg?)
    else Rounds F f.rm f.sat rho (u.rat * v.rat) (u.neg? ^^ v.neg?) r) ∧
  FloatLanes (.fma f) f y (fun rho a b z r =>
    let u := F.unpack a
    let v := F.unpack b
    let w := F.unpack z
    if u.isNan || v.isNan || w.isNan then NanResult F [u, v, w] r
    else if (u.isZero && v.isInf) || (u.isInf && v.isZero) then r = (F.canonNan, Flags.NV)
    else if u.isInf || v.isInf then SumResult F f.rm f.sat rho [.inf (u.neg? ^^ v.neg?), w] r
    else if w.isInf then r = F.infinite f.sat w.neg?
    else Rounds F f.rm f.sat rho (u.rat * v.rat + w.rat)
      (if (u.neg? ^^ v.neg?) = w.neg? then w.neg? else decide (f.rm = .rdn)) r)

/-! ### Floating-point selection, sign, comparison and class (R308, R309, R311) -/

/-- R308, R309 (`fmin`, `fmax`, `fabs`, `fneg`): minimumNumber and maximumNumber, a bit copy of the chosen operand with -0 below +0; the sign bit
cleared or inverted and no flag raised. R311 (`fcmp`, `fclass`): all ones or zero per lane; the outcomes with a NaN and the NV each condition raises;
the ten classes, with no flag. -/
def Obligations.FloatSelectAndCompare : Prop :=
  (
   ∀ f : FmtA, f.ty ∈ tyE →
    let F := ETy.fmt f.ty
    let w := f.ty.width
    let pick := fun (lower : FVal → FVal → Prop) (a b : Nat) (r : Nat × Flags) =>
      let u := F.unpack a
      let v := F.unpack b
      r.2 = Flags.when (u.isSnan || v.isSnan) Flags.NV ∧
      (u.isNan = true → v.isNan = true → r.1 = F.canonNan) ∧ (u.isNan = true → v.isNan = false → r.1 = b) ∧
      (u.isNan = false → v.isNan = true → r.1 = a) ∧
      (u.isNan = false → v.isNan = false → (r.1 = a ∨ r.1 = b) ∧ (lower u v → r.1 = a) ∧ (lower v u → r.1 = b))
    FloatLanes (.fmin f) f 0 (fun _ a b _ r => pick FVal.below a b r) ∧
    FloatLanes (.fmax f) f 0 (fun _ a b _ r => pick (fun u v => FVal.below v u) a b r) ∧
    Produces (.fabs f) f 0 (fun _ c v fl => fl = Flags.none ∧ ∀ j < f.ty.lanes, ∀ b < w,
      (laneOf w v j).testBit b = (decide (b ≠ w - 1) && (laneOf w (f.left c) j).testBit b)) ∧
    Produces (.fneg f) f 0 (fun _ c v fl => fl = Flags.none ∧ ∀ j < f.ty.lanes, ∀ b < w,
      (laneOf w v j).testBit b = (decide (b = w - 1) ^^ (laneOf w (f.left c) j).testBit b))) ∧
  (
   ∀ f : FmtA, f.ty ∈ tyE →
    let F := ETy.fmt f.ty
    let w := f.ty.width
    let rel := fun (cc : FCmp) (onNan : Bool) (p : WithBot (WithTop ℚ) → WithBot (WithTop ℚ) → Prop) (ordered : Bool) =>
      FloatLanes (.fcmp cc f) f 0 (fun _ a b _ r =>
        let u := F.unpack a
        let v := F.unpack b
        let nan := u.isNan || v.isNan
        (nan = true → r.1 = if onNan then 2 ^ w - 1 else 0) ∧
        (nan = false → (p u.ext v.ext → r.1 = 2 ^ w - 1) ∧ (¬ p u.ext v.ext → r.1 = 0)) ∧
        r.2 = Flags.when (u.isSnan || v.isSnan || (ordered && nan)) Flags.NV)
    rel .eq false (fun x y => x = y) false ∧ rel .ne true (fun x y => x ≠ y) false ∧ rel .lt false (fun x y => x < y) true ∧
    rel .le false (fun x y => x ≤ y) true ∧ rel .gt false (fun x y => x > y) true ∧ rel .ge false (fun x y => x ≥ y) true ∧
    rel .un true (fun _ _ => False) false ∧
    LaneNats (.fclass f) f 0 f.ty.lanes w (fun L R _ j =>
      if R.getLsbD (FVal.classOf F (F.unpack (laneOf w L j))) then 2 ^ w - 1 else 0))

/-! ### Floating-point reductions, rounding to integers and scaling (R303, R313, R314) -/

/-- R303, R313 (`famax`, `fsum`, `fdot2`): the largest magnitude in every lane; the exact sum of all lanes rounded once into lane 0; per binary32 lane
the exact sum of the products and the addend, rounded once. R303, R314 (`fround`, `fscl`): each lane rounded to an integral value of its own sign, NX
exactly when it changes; each lane times 2^e, rounded once. -/
def Obligations.FloatReductionAndScaleForms : Prop :=
  (
   ∀ f : FmtA,
    let F := ETy.fmt f.ty
    let w := f.ty.width
    let n := f.ty.lanes
    let codes := fun c : Focus => (List.range n).map (laneOf w (f.left c)) ++ (List.range n).map (laneOf w (f.right c))
    (f.ty ∈ tyE → Produces (.famax f) f 0 (fun _ c v fl =>
      let vals := (codes c).map F.unpack
      if vals.any FVal.isNan then fl = Flags.when (vals.any FVal.isSnan) Flags.NV ∧ ∀ j < n, laneOf w v j = F.canonNan
      else fl = Flags.none ∧ ∀ j < n, (∃ a ∈ codes c, laneOf w v j = a % 2 ^ (w - 1)) ∧
        ∀ a ∈ codes c, (F.unpack a).abs.ext ≤ (F.unpack (laneOf w v j)).ext)) ∧
    (f.ty ∈ tyF → Produces (.fsum f) f (if f.ty = .f64 then 4 else 3) (fun s c v fl =>
      let vals := (codes c).map F.unpack
      let clash := vals.contains (.inf true) && vals.contains (.inf false)
      (∀ j < n, 0 < j → laneOf w v j = 0) ∧
      if vals.any FVal.isNan then laneOf w v 0 = F.canonNan ∧ fl = Flags.when (vals.any FVal.isSnan || clash) Flags.NV
      else SumResult F f.rm f.sat ((s.srdIn c).rho 0) vals (laneOf w v 0, fl))) ∧
    (f.ty ∈ [ETy.bf16x4, .f16x4, .e4m3x8, .e5m2x8] → Produces (.fdot2 f) f 3 (fun s c v fl => ∃ r : Nat → Nat × Flags,
      (∀ j < 2, laneOf 32 v j = (r j).1 ∧
        DotResult fmtF32 f.rm f.sat ((s.srdIn c).rho j)
          ((List.range (n / 2)).map (fun k => (F.unpack (laneOf w (f.left c) (n / 2 * j + k)), F.unpack (laneOf w (f.right c) (n / 2 * j + k)))))
          (fmtF32.unpack (laneOf 32 c.aux j)) (r j)) ∧
      fl = Flags.all [(r 0).2, (r 1).2]))) ∧
  (
   ∀ f : FmtA, f.ty ∈ tyF →
    let F := ETy.fmt f.ty
    FloatLanes (.fround f) f 1 (fun rho a _ _ r =>
      match F.unpack a with
      | .nan s => r = (F.canonNan, Flags.when s Flags.NV)
      | .inf _ => r = (a, Flags.none)
      | .fin neg m e => ∃ y : ℚ, RoundsAt f.rm neg rho |(FVal.fin neg m e).rat| 0 y ∧ (F.unpack r.1).isFin = true ∧ (F.unpack r.1).neg? = neg ∧
          |(F.unpack r.1).rat| = y ∧ r.2 = Flags.when (decide (y ≠ |(FVal.fin neg m e).rat|)) Flags.NX) ∧
    FloatLanes (.fscl f) f 1 (fun rho a b _ r =>
      match F.unpack a with
      | .nan s => r = (F.canonNan, Flags.when s Flags.NV)
      | .inf neg => r = F.infinite f.sat neg
      | .fin neg m e => Rounds F f.rm f.sat rho
          ((FVal.fin neg m e).rat * (2 : ℚ) ^ (if b ≥ 2 ^ (f.ty.width - 1) then (b : ℤ) - 2 ^ f.ty.width else b)) neg r))

/-! ### Division, roots and approximated functions (R303, R316, R317) -/

/-- R303, R316, R317 (`fdiv`, `fsqrt`): special operands as R316 lists them, and otherwise the quotient or the root, correctly rounded. R303, R316,
R317 (`frcp`, `frsq`): special operands as R316 lists them; correctly rounded in BF16 and binary16, and within one ulp of 1/x or 1/√x in binary32 and
binary64, where the choice is open (log entry 30). -/
def Obligations.FloatDivideAndRootForms : Prop :=
  (
   ∀ f : FmtA, f.ty ∈ tyF →
    let F := ETy.fmt f.ty
    let x := if f.ty = .f64 then 20 else if f.ty = .f32x2 then 10 else 6
    FloatLanes (.fdiv f) f x (fun rho a b _ r =>
      let u := F.unpack a
      let v := F.unpack b
      let neg := u.neg? ^^ v.neg?
      if u.isNan || v.isNan then NanResult F [u, v] r
      else if (u.isZero && v.isZero) || (u.isInf && v.isInf) then r = (F.canonNan, Flags.NV)
      else if u.isInf then r = F.infinite f.sat neg
      else if v.isInf then r = (F.withSign neg 0, Flags.none)
      else if v.isZero then r.1 = (F.infinite f.sat neg).1 ∧ r.2 = (F.infinite f.sat neg).2.or Flags.DZ
      else Rounds F f.rm f.sat rho (u.rat / v.rat) neg r) ∧
    FloatLanes (.fsqrt f) f x (fun rho a _ _ r =>
      match F.unpack a with
      | .nan s => r = (F.canonNan, Flags.when s Flags.NV)
      | .inf neg => r = if neg then (F.canonNan, Flags.NV) else F.infinite f.sat false
      | .fin neg m e =>
        if m = 0 then r = (a, Flags.none) else if neg then r = (F.canonNan, Flags.NV) else RootRounds F f.rm rho (FVal.fin neg m e).rat r)) ∧
  (
   ∀ f : FmtA, f.ty ∈ tyF →
    let F := ETy.fmt f.ty
    let x := if f.ty = .f64 then 8 else 4
    let narrow : Prop := f.ty = .bf16x4 ∨ f.ty = .f16x4
    let dz := fun neg : Bool => ((F.infinite f.sat neg).1, (F.infinite f.sat neg).2.or Flags.DZ)
    FloatLanes (.frcp f) f x (fun rho a _ _ r =>
      match F.unpack a with
      | .nan s => r = (F.canonNan, Flags.when s Flags.NV)
      | .inf neg => r = (F.withSign neg 0, Flags.none)
      | .fin neg m e =>
        let y := 1 / (FVal.fin neg m e).rat
        if m = 0 then r = dz neg
        else (narrow → Rounds F f.rm f.sat rho y neg r) ∧
          (¬ narrow → ApproxResult F f.rm f.sat neg (fun z => 0 < z ∧ |z - abs y| ≤ F.ulpAt (abs y)) (F.maxVal < |y| + F.ulpAt |y|) r)) ∧
    FloatLanes (.frsq f) f x (fun rho a _ _ r =>
      match F.unpack a with
      | .nan s => r = (F.canonNan, Flags.when s Flags.NV)
      | .inf neg => r = if neg then (F.canonNan, Flags.NV) else (0, Flags.none)
      | .fin neg m e =>
        let y2 := 1 / (FVal.fin neg m e).rat
        if m = 0 then r = dz neg
        else if neg then r = (F.canonNan, Flags.NV)
        else (narrow → RootRounds F f.rm rho y2 r) ∧
          (¬ narrow → ∃ q : ℤ, ((2 : ℚ) ^ (q + F.fbits)) ^ 2 ≤ y2 ∧ y2 < ((2 : ℚ) ^ (q + F.fbits + 1)) ^ 2 ∧
            ApproxResult F f.rm f.sat false (fun z => (2 : ℚ) ^ q < z ∧ (z - (2 : ℚ) ^ q) ^ 2 ≤ y2 ∧ y2 ≤ (z + (2 : ℚ) ^ q) ^ 2) False r)))

/-- R303, R316 and the ranges of R317 (`fexp2`, `flog2`, `ftanh`, `fsin`, `fcos`, `fsig`): every special input gives the result and the flags R316
lists; every other result raises NX and none of NV and DZ, has the sign of the function's value where the model fixes it, and stays in the function's
range. The value within R317's bound is open (log entry 30). -/
def Obligations.FloatFunctions : Prop := ∀ f : FmtA, f.ty ∈ tyF →
  let F := ETy.fmt f.ty
  let x := if f.ty = .f64 then 24 else 12
  let inexact := fun (r : Nat × Flags) => r.2.nx = true ∧ r.2.nv = false ∧ r.2.dz = false ∧ (F.unpack r.1).isNan = false
  let exactly := fun (q : ℚ) (r : Nat × Flags) => r.2 = Flags.none ∧ (F.unpack r.1).isFin = true ∧ (F.unpack r.1).rat = q
  let signed := fun (neg : Bool) (r : Nat × Flags) => (F.unpack r.1).neg? = neg
  let within1 := fun (r : Nat × Flags) => (F.unpack r.1).isFin = true ∧ |(F.unpack r.1).rat| ≤ 1
  let form := fun (i : Instr) (inf : Bool → Nat × Flags → Prop) (fin : Nat → ℚ → Bool → Nat × Flags → Prop) =>
    FloatLanes i f x (fun _ a _ _ r =>
      match F.unpack a with
      | .nan s => r = (F.canonNan, Flags.when s Flags.NV)
      | .inf neg => inf neg r
      | .fin neg m e => fin a (FVal.fin neg m e).rat neg r)
  form (.fexp2 f) (fun neg r => r = if neg then (0, Flags.none) else F.infinite f.sat false)
    (fun _ v _ r => (∀ n : ℤ, v = n → F.emin - F.fbits ≤ n → (2 : ℚ) ^ n ≤ F.maxVal → exactly ((2 : ℚ) ^ n) r) ∧
      ((∀ n : ℤ, v ≠ n) → inexact r ∧ signed false r ∧ ((F.emin : ℚ) - F.fbits ≤ v → r.1 ≠ 0))) ∧
  form (.flog2 f) (fun neg r => r = if neg then (F.canonNan, Flags.NV) else F.infinite f.sat false)
    (fun _ v _ r => if v = 0 then r = ((F.infinite f.sat true).1, (F.infinite f.sat true).2.or Flags.DZ)
      else if v < 0 then r = (F.canonNan, Flags.NV)
      else (∀ n : ℤ, v = (2 : ℚ) ^ n → exactly n r) ∧ ((∀ n : ℤ, v ≠ (2 : ℚ) ^ n) → inexact r ∧ signed (decide (v < 1)) r ∧ (F.unpack r.1).isZero = false)) ∧
  form (.ftanh f) (fun neg r => exactly (if neg then -1 else 1) r)
    (fun a v neg r => if v = 0 then r = (a, Flags.none) else inexact r ∧ within1 r ∧ signed neg r) ∧
  form (.fsin f) (fun _ r => r = (F.canonNan, Flags.NV)) (fun a v _ r => if v = 0 then r = (a, Flags.none) else inexact r ∧ within1 r) ∧
  form (.fcos f) (fun _ r => r = (F.canonNan, Flags.NV)) (fun _ v _ r => if v = 0 then exactly 1 r else inexact r ∧ within1 r) ∧
  form (.fsig f) (fun neg r => if neg then r = (0, Flags.none) else exactly 1 r)
    (fun _ v _ r => if v = 0 then exactly (1 / 2) r else inexact r ∧ within1 r ∧ signed false r)

/-! ### Conversion, MXFP4 and ternary packing (R208 to R210, R319 to R326) -/

/-- R208, R209, R303, R319, R320 (`cvt`): which lanes move, which base lanes a merge keeps, and each lane's conversion by the kinds of its types. -/
def Obligations.ConvertForm : Prop := ∀ (f : FmtA) (d : ETy) (part : BitVec 3) (mrg : Bool), f.ty ∈ tyI ++ tyE → cvtLegal f.ty d part mrg f.sat = true →
  let F := ETy.fmt f.ty
  let D := ETy.fmt d
  let ns := f.ty.lanes
  let nd := d.lanes
  let lo : ℤ := intMin d.signed d.width
  let hi : ℤ := intMax d.signed d.width
  let conv := fun (rho : Nat) (l : Word) (i : Nat) (r : Nat × Flags) =>
    if f.ty.isInt then Rounds D f.rm f.sat rho (laneVal f.ty l i) false r
    else match F.unpack (laneOf f.ty.width l i) with
      | .nan s => r = if d.isInt then (0, Flags.NV) else (D.canonNan, Flags.when s Flags.NV)
      | .inf neg => if d.isInt then (r.1 : ℤ) = (if neg then lo else hi) % 2 ^ d.width ∧ r.2 = Flags.NV else r = D.infinite f.sat neg
      | .fin neg m e =>
        let x := (FVal.fin neg m e).rat
        if d.isInt then ∃ y : ℕ, RoundsAt f.rm neg rho |x| 0 y ∧
          let n : ℤ := if neg then -(y : ℤ) else y
          (r.1 : ℤ) = (if n > hi then hi else if n < lo then lo else n) % 2 ^ d.width ∧
          r.2 = if n > hi ∨ n < lo then Flags.NV else Flags.when (decide ((y : ℚ) ≠ |x|)) Flags.NX
        else Rounds D f.rm f.sat rho x neg r
  Produces (.cvt d part mrg f) f 1 (fun s c v fl => ∃ r : Nat → Nat × Flags,
    (∀ j < nd, laneOf d.width v j = (r j).1 ∧
      if ns ≤ nd then
        (if part.toNat * ns ≤ j ∧ j < (part.toNat + 1) * ns then conv ((s.srdIn c).rho j) (f.left c) (j - part.toNat * ns) (r j)
          else r j = (if mrg then laneOf d.width (f.right c) j else 0, Flags.none))
      else conv ((s.srdIn c).rho j) (f.left c) (part.toNat * nd + j) (r j)) ∧
    fl = Flags.all ((List.range nd).map (fun j => (r j).2)))

/-- R200, R210, R303, R322, R323, R324 (`mxscale`, `mxq`, `mxdq`): the scale code of |lane 0|; the E2M1 codes of the lanes against a code, at their
part; the codes restored. That a NaN lane under code 0xFF raises nothing is the model's reading (log entry 22). -/
def Obligations.QuantiseForms : Prop := ∀ f : FmtA, f.ty = .f32x2 ∨ f.ty = .bf16x4 →
  let F := ETy.fmt f.ty
  let n := f.ty.lanes
  let w := f.ty.width
  Produces (.mxscale f) f 0 (fun _ c v fl =>
    match F.unpack (laneOf w (f.left c) 0) with
    | .fin neg m e =>
      let k : ℤ := Int.log 2 |(FVal.fin neg m e).rat| - 2 + 127
      if m = 0 then v = 0 ∧ fl = Flags.none
      else if k < 0 then v = 0 ∧ fl = Flags.SCALEFLOOR
      else (v.toNat : ℤ) = k ∧ k ≤ 252 ∧ fl = Flags.none
    | _ => v = 0xFF ∧ fl = Flags.none) ∧
  ∀ part : BitVec 3, part.toNat < 16 / n →
    Produces (.mxq part f) f 1 (fun s c v fl => ∃ r : Nat → Nat × Flags,
      let code := (f.right c).toNat % 256
      (∀ j < 16, laneOf 4 v j = if n * part.toNat ≤ j ∧ j < n * (part.toNat + 1) then (r (j - n * part.toNat)).1 else 0) ∧
      (∀ i < n, if code = 0xFF then r i = (0, Flags.none) else
        match F.unpack (laneOf w (f.left c) i) with
        | .nan _ => r i = (0, Flags.NV)
        | .inf neg => r i = (fmtE2m1.withSign neg 7, Flags.NX)
        | .fin neg m e => ∃ q : Nat × Flags,
            Rounds fmtE2m1 f.rm true ((s.srdIn c).rho i) ((FVal.fin neg m e).rat / (2 : ℚ) ^ ((code : ℤ) - 127)) neg q ∧
            r i = (q.1, Flags.when q.2.nx Flags.NX)) ∧
      fl = Flags.all ((List.range n).map (fun i => (r i).2))) ∧
    Produces (.mxdq part f) f 1 (fun _ c v fl => ∃ r : Nat → Nat × Flags,
      let code := (f.right c).toNat % 256
      (∀ i < n, laneOf w v i = (r i).1 ∧
        if code = 0xFF then r i = (F.canonNan, Flags.none)
        else let x := fmtE2m1.unpack (laneOf 4 (f.left c) (n * part.toNat + i))
          Rounds F .rne false 0 (x.rat * (2 : ℚ) ^ ((code : ℤ) - 127)) x.neg? (r i)) ∧
      fl = Flags.all ((List.range n).map (fun i => (r i).2)))

/-- R203, R303, R325, R326 (`tpack`; `tunpk` of a byte up to 242): five lanes as the base-three digits of byte q, with `SAT` where a lane lies outside
[-1, 1]; the digits of byte q as five lanes. -/
def Obligations.TernaryForms : Prop := ∀ (f : FmtA) (part : BitVec 3), f.ty = .s8x8 →
  let digit := fun x : ℤ => if x = 0 then 0 else if x > 0 then 1 else 2
  Produces (.tpack part f) f 0 (fun _ c v fl =>
    (∀ j < 8, laneOf 8 v j = if j = part.toNat then ((List.range 5).map (fun i => digit (laneVal .s8x8 (f.left c) i) * 3 ^ i)).sum else 0) ∧
    fl = Flags.when ((List.range 5).any (fun i => decide (laneVal .s8x8 (f.left c) i > 1 ∨ laneVal .s8x8 (f.left c) i < -1))) Flags.SAT) ∧
  ∀ s c, s.focus = some c → f.pmode.squashes c.aux = false → laneOf 8 (f.left c) part.toNat ≤ 242 →
    ∃ t v, exec (.tunpk part f) s = .next t ∧ Fired s t c (firedToks s 0 c.tag c.wave f.dests (some v) none) Flags.none ∧
      ∀ j < 8, laneOf 8 v j = if j < 5 then
        (let dg := laneOf 8 (f.left c) part.toNat / 3 ^ j % 3
         if dg = 0 then 0 else if dg = 1 then 1 else 0xFF) else 0

/-! ### The Epurn port and the training windows (R34, R36, R38, R39, R46) -/

/-- R27, R31, R32, R33, R45: what each reset leaves: auxiliary cold start; a power-on reset by PWR_EN, held while a thermal trip cools; power-down and
the lines it loses; a fundamental reset; a thermal trip; the reset that was held. Under conditions on the state and the operands alone it says that
exec answers a next state for: auxColdStart, pwrEnAssert, pwrEnDeassert, perstNAssert, perstNDeassert, thermalTrip, cooldownExpiry. What outlives
AUX_COLD_START, and what a power-on reset restarts or keeps beyond the rules, is the model's (log entries 4, 7, 65, 66 and 72). -/
def Obligations.ResetEvents : Prop := ∀ s : State,
  (∃ t, exec .auxColdStart s = .next t ∧ (t.clock = Clock.reset ∧ t.sched = Sched.reset ∧ t.fab = Fab.reset ∧ t.eng = Eng.reset ∧ t.obs = Obs.reset ∧
    t.board = { Board.reset with flash := s.board.flash, fuseVersion := s.board.fuseVersion, debugLock := s.board.debugLock, epAddr := s.board.epAddr, pps := s.board.pps } ∧
    t.mem = { Mem.reset with hostMem := s.mem.hostMem, hostPoison := s.mem.hostPoison })) ∧
  (s.board.aux = true → s.board.pwrEn = false → s.board.trip = false → (∃ t, exec .pwrEnAssert s = .next t ∧ (VolatileLost s t ∧
    t.board.phase = 1 ∧ t.board.phaseSince = s.clock.ns ∧ t.board.pwrEn = true ∧ t.board.pwrGood = false ∧ t.board.fatal = false ∧
    t.board.cause = s.board.cause ∧ t.board.devId = s.board.devId ∧ t.board.plim = s.board.plim ∧ t.board.lossLines = s.board.lossLines))) ∧
  (∀ a, s.board.aux = true → s.board.pwrEn = false → s.board.trip = true → s.board.tripAt = some a → s.clock.ns < a + 60000000000 →
    (∃ t, exec .pwrEnAssert s = .next t ∧ (t = { s with board := { s.board with pwrEn := true, resetHeld := true } }))) ∧
  (s.board.aux = true → s.board.pwrEn = true → s.board.pwrGood = true → (∃ t, exec .pwrEnDeassert s = .next t ∧ (VolatileLost s t ∧
    t.board.phase = 0 ∧ t.board.pwrEn = false ∧ t.board.pwrGood = false ∧ t.board.trip = s.board.trip ∧ t.board.cause = s.board.cause ∧
    t.board.lossLines = min 0xFFFF (s.board.lossLines + (s.mem.hlc.filter (fun r => r.2.st = .m || r.2.st = .o)).length)))) ∧
  (s.board.aux = true → s.board.perst = false → (∃ t, exec .perstNAssert s = .next t ∧ (t.board.perst = true ∧ t.board.hlink = false ∧
    t.board.modeSettled = false ∧ t.host.held = [] ∧ t.mem.hdm = [] ∧
    (s.board.pwrGood = true → t.mem.hlc = [] ∧
      t.board.lossLines = min 0xFFFF (s.board.lossLines + (s.mem.hlc.filter (fun r => r.2.st = .m || r.2.st = .o)).length))))) ∧
  (s.board.aux = true → s.board.perst = true → (∃ t, exec .perstNDeassert s = .next t ∧ (t = { s with board := { s.board with perst := false } }))) ∧
  (∀ sensor temp, s.board.pwrGood = true → sensor < 17 → 880 < temp → (∃ t, exec (.thermalTrip sensor temp) s = .next t ∧ (VolatileLost s t ∧
    Fatal t .thermtrip ∧ t.board.trip = true ∧ t.board.pwrGood = false ∧ t.board.tripAt = some s.clock.ns))) ∧
  (∀ a, s.board.resetHeld = true → s.board.tripAt = some a → a + 60000000000 ≤ s.clock.ns → s.board.hot = false →
    (∃ t, exec .cooldownExpiry s = .next t ∧ (VolatileLost s t ∧ t.board.phase = 1 ∧ t.board.trip = false))) ∧
  (∀ a, s.board.tripAt = some a → a + 60000000000 ≤ s.clock.ns → s.board.trip = true →
    let again := fun (t : State) => VolatileLost s t ∧ (if s.board.hot = true
      then Fatal t .thermtrip ∧ t.board.trip = true ∧ t.board.pwrGood = false ∧ t.board.tripAt = some s.clock.ns
      else t.board.phase = 1 ∧ t.board.phaseSince = s.clock.ns ∧ t.board.trip = false ∧ t.board.fatal = false)
    (s.board.aux = true → s.board.pwrEn = false → (∃ t, exec .pwrEnAssert s = .next t ∧ again t)) ∧ (s.board.resetHeld = true → (∃ t, exec .cooldownExpiry s = .next t ∧ again t)))

/-- R30, R34, R37, R40, R41, R61: each gating phase, what it records, the phase that follows, and the cause of the fatal state where it fails or takes
too long. Under conditions on the state and the operands alone it says that exec answers a next state for: hubSecurityBoot, bridgeLinkTraining,
fretSelfTest, hbmTrainingPhaseEnd, dispatcherStart, phaseTimeout, heartbeatWatchdog. Whether a signature verifies is open (log entry 8). -/
def Obligations.PowerUpEvents : Prop := ∀ s : State,
  let at' := fun (p limit : Nat) => s.board.phase = p ∧ s.clock.ns ≤ s.board.phaseSince + limit
  let next := fun (t : State) (p : Nat) => t.board.phase = p ∧ t.board.phaseSince = s.clock.ns
  (∀ f, at' 1 150000000 → s.board.pwrGood = false → s.board.flash = some f →
    (∃ t, exec .hubSecurityBoot s = .next t ∧ (BoardOnly s t ∧ t.board.pwrGood = true ∧
      (if sigHolds (shake256 f.body) f.sig = true ∧ s.board.fuseVersion ≤ f.secVersion then next t 2 ∧ t.board.booted = shake256 f.body
        else t.board.phase = 1 ∧ t.board.cause = .bootsig ∧ t.board.alert = true)))) ∧
  (∀ found : List (Nat × Nat × Nat), at' 2 20000000 → (∀ r ∈ found, r.1 < 8 ∧ r.2.1 < modulesOf r.1 ∧ r.2.2 ≤ 64) →
    let fails := fun (k : Nat) => ∃ m < modulesOf k, 2 < failedLanes found k m
    (∃ t, exec (.bridgeLinkTraining found) s = .next t ∧ (
      (∀ k < 8, ∃ b, tget t.board.bridges k = some b ∧ (b.trained = true ↔ ¬ fails k)) ∧
      ((∀ k < 8, ¬ fails k) → next t 3 ∧ t.clock.cycle = 0) ∧
      ((∃ k < 8, fails k) → Fatal t .bridge ∧ ∃ k < 8, fails k ∧ t.board.badLink = some k) ∧ t.mem = s.mem))) ∧
  (∀ defective : List Nat, at' 3 30000000 → (∀ pf ∈ defective, pf < 4096) → (∃ t, exec (.fretSelfTest defective) s = .next t ∧ (
    (∀ pf, nsHas t.board.defects pf = decide (pf ∈ defective)) ∧ (∀ pf ∈ defective, (t.fret pf).st = .defect) ∧
    (if (∀ pf ∈ defective, 8 ≤ pf) ∧ (List.range 384).all (fun ch => svcAccepted (s.board.trainingImage ch)) = true then
        next t 4 ∧ (s.fab = Fab.reset → s.sched = Sched.reset →
          t.mem.train.map Train.ch = [0, 32, 64, 96, 128, 160, 192, 224] ∧ t.mem.trainLeft.length = 376 ∧
          ∀ r ∈ t.mem.train, TaskIs t r.task (fun k => k.svc = true ∧ k.st = .loading))
      else Fatal t .svcfail ∧ t.mem = s.mem)))) ∧
  (at' 4 250000000 → s.mem.train = [] → s.mem.trainLeft = [] → (∃ t, exec .hbmTrainingPhaseEnd s = .next t ∧ (
    (∀ ch < 384, nsHas t.mem.withheld ch = decide ((s.phy ch).chst ≠ 1)) ∧ t.mem = { s.mem with withheld := t.mem.withheld } ∧
    if (List.range 4).any (fun d => s.mem.phy.all (fun r => r.1 / 96 ≠ d || r.2.chst ≠ 1)) then Fatal t .hbmall else next t 7 ∧ t.board.portsSince = some s.clock.ns))) ∧
  (at' 7 10000000 → (∃ t, exec .dispatcherStart s = .next t ∧ (t.mem = s.mem ∧ t.fab = s.fab ∧
    if svcAccepted s.board.dispatcherImage = true then next t 8 ∧ t.sched.dispatching = true else Fatal t .svcfail))) ∧
  (∀ p limit cause, [(1, 150000000, Cause.pwrfail), (2, 20000000, .bridge), (3, 30000000, .svcfail), (4, 250000000, .hbmall), (7, 10000000, .svcfail)].contains
      (p, limit, cause) = true → s.board.phase = p → s.board.phaseSince + limit ≤ s.clock.ns → (p = 1 → s.board.pwrGood = false) →
    (∃ t, exec .phaseTimeout s = .next t ∧ (Fatal t cause ∧ t.mem = s.mem))) ∧
  (s.board.phase = 8 → s.board.beatSince + 10000000 ≤ s.clock.ns → (∃ t, exec .heartbeatWatchdog s = .next t ∧ (t = { s with board := { s.board with alert := true } })))

/-- R15, R26, R27: the clock step chosen by the power manager and its taking effect, duty-cycling at the least clock, a hot sensor, and a line visited
by the patrol scrub. Under conditions on the state and the operands alone it says that exec answers a next state for: powerEvaluation, clockChange,
thermalThreshold, patrolScrubVisit. The size of a change at one evaluation is the model's (log entry 9). -/
def Obligations.PowerAndScrubEvents : Prop := ∀ s : State,
  (∀ watts : Nat, s.board.pwrGood = true → s.board.fatal = false → s.board.hot = false → watts ≤ s.board.plim.toNat → s.board.duty = 0 →
    1200 ≤ s.subject → s.subject ≤ 2700 → s.subject % 50 = 0 → s.board.clk ≤ s.subject →
    (∃ t, exec (.powerEvaluation watts) s = .next t ∧ (BoardOnly s t ∧ t.board.duty = 0 ∧
      t.board.clkNext = if s.subject = s.board.clk then none else some s.subject))) ∧
  (∀ watts : Nat, s.board.pwrGood = true → s.board.fatal = false → s.board.plim.toNat < watts → s.board.clk = 1200 → s.subject = 1200 → s.board.duty < 16 →
    (∃ t, exec (.powerEvaluation watts) s = .next t ∧ (BoardOnly s t ∧ t.board.duty = s.board.duty + 1 ∧ t.board.clkNext = none))) ∧
  (∀ watts : Nat, s.board.pwrGood = true → s.board.fatal = false → s.board.plim.toNat < watts → 1200 ≤ s.subject → s.subject < s.board.clk → s.subject ≤ 2700 →
    s.subject % 50 = 0 → (∃ t, exec (.powerEvaluation watts) s = .next t ∧ (BoardOnly s t ∧ t.board.duty = s.board.duty ∧ t.board.clkNext = some s.subject))) ∧
  (∀ watts : Nat, s.board.pwrGood = true → s.board.fatal = false → s.board.hot = false → watts ≤ s.board.plim.toNat → 0 < s.board.duty →
    1200 ≤ s.board.clk → s.board.clk ≤ 2700 → s.board.clk % 50 = 0 → s.subject = s.board.clk →
    (∃ t, exec (.powerEvaluation watts) s = .next t ∧ (BoardOnly s t ∧ t.board.duty = s.board.duty - 1 ∧ t.board.clkNext = none))) ∧
  (∀ c, s.board.clkNext = some c → (∃ t, exec .clockChange s = .next t ∧ (t = { s with board := { s.board with clk := c, clkNext := none } }))) ∧
  (∀ sensor temp, s.board.aux = true → sensor < 17 → temp ≤ 880 → (∃ t, exec (.thermalThreshold sensor temp) s = .next t ∧ (BoardOnly s t ∧
    (sensor < 5 → tget t.board.dieTemp sensor = some temp ∧ (800 < temp → 1200 < s.board.clk → t.board.clkNext = some (s.board.clk - 50))) ∧
    (5 ≤ sensor → tget t.board.stackTemp (sensor - 5) = some temp ∧ nsHas t.board.hotStacks (sensor - 5) = decide (760 < temp) ∧
      (760 < temp → 1200 < s.board.clk → t.board.clkNext = some (s.board.clk - 50)))))) ∧
  (∀ line : Nat, s.board.pwrGood = true → s.hbmBacked (128 * line) = true → (∃ t, exec (.patrolScrubVisit (channelOf (128 * line)) line) s = .next t ∧ (
    match tget s.mem.flaws line with
    | none => t = s
    | some n => if n ≤ 1 then t = { s with mem := { s.mem with flaws := tdel s.mem.flaws line, corrected := s.mem.corrected + 1 } }
      else nsHas t.mem.poison line = true ∧ t = { s with mem := { s.mem with flaws := tdel s.mem.flaws line, poison := t.mem.poison } })))

/-- R12, R17, R18, R21, R22, R23, R24, R30: the host link's training and settled mode; a bridge flit's retries, its one retraining, and what is fatal;
a Folgar port's mode, its timeout, and a flit received; the PTP lock; the device identifier. Under conditions on the state and the operands alone it
says that exec answers a next state for: hostLinkTrained, bridgeFlitCrcFail, folgarPortTrained, folgarTrainingTimeout, folgarFlitReceive, ptpSync,
deviceIdWrite. The layout of a flit is the model's (log entries 8 and 24), and so is how a second failure of a bridge link is told (log entry 67) and
how far a sync steers the clock (log entry 75). -/
def Obligations.LinkEvents : Prop := ∀ s : State,
  (∀ rate width cxl, s.board.pwrGood = true → s.board.fatal = false → s.board.perst = false → s.board.hlink = false → s.board.hostLoss = false →
    7 ≤ s.board.phase → rate ∈ [16, 32, 64, 128] → width ∈ [1, 4, 8, 16] → (cxl = true → rate ≤ 64) → (s.board.modeSettled = true → cxl = s.board.cxl) →
    (∃ t, exec (.hostLinkTrained rate width cxl) s = .next t ∧ (BoardOnly s t ∧ t.board.hlink = true ∧ t.board.linkRate = rate ∧ t.board.linkWidth = width ∧
      t.board.cxl = cxl ∧ t.board.modeSettled = true))) ∧
  (∀ (link : Nat) (b : Bridge) (ok : Bool), tget s.board.bridges link = some b → b.trained = true → s.board.pwrGood = true → s.board.fatal = false →
    (∃ t, exec (.bridgeFlitCrcFail link ok) s = .next t ∧ (
      if s.subject = 0 then BoardOnly s t ∧ tget t.board.bridges link = some { b with retries := 1, retrained := false }
      else if b.retries < 16 then BoardOnly s t ∧ tget t.board.bridges link = some { b with retries := b.retries + 1 }
      else if ok = true ∧ b.retrained = false then BoardOnly s t ∧ tget t.board.bridges link = some { b with retries := 0, retrained := true }
      else Fatal t .bridge ∧ t.board.badLink = some link))) ∧
  (∀ (port : Nat) mode (at' : Nat), s.board.pwrGood = true → s.board.fatal = false → s.board.portsSince.isSome = true → s.board.portFrom port = some at' → s.clock.ns ≤ at' + 500000000 → port < 24 →
    (s.board.port port).up = false → (s.board.port port).tried = false → (0xC0000 ≤ s.board.devId.toNat → s.board.devId = 0xFFFFF) →
    (∃ t, exec (.folgarPortTrained port mode) s = .next t ∧ (BoardOnly s t ∧ (t.board.port port).up = true ∧
      (t.board.port port).data = decide (s.board.devId.toNat < 0xC0000) ∧
      ((t.board.port port).lanes, (t.board.port port).rate) = (match mode with
        | .eight200 => (3, 200) | .eight100 => (3, 100) | .low4x200 => (1, 200) | .high4x200 => (2, 200) | .low4x100 => (1, 100) | .high4x100 => (2, 100))))) ∧
  (∀ at' : Nat, s.board.pwrGood = true → s.board.fatal = false → s.board.portsSince.isSome = true → s.board.portFrom s.subject = some at' → at' + 500000000 ≤ s.clock.ns → s.subject < 24 →
    (s.board.port s.subject).up = false → (s.board.port s.subject).tried = false →
    (∃ t, exec .folgarTrainingTimeout s = .next t ∧ (BoardOnly s t ∧ (t.board.port s.subject).up = false ∧ (t.board.port s.subject).tried = true))) ∧
  (∀ (port : Nat) (flit : List Byte), s.board.pwrGood = true → s.board.fatal = false → s.board.portsSince.isSome = true → port < 24 →
    flit.length = 256 → (s.board.port port).up = true → (s.board.port port).data = true →
    let expected := tgetD (s.board.port port).rx (flitVc flit) 0
    (∃ t, exec (.folgarFlitReceive port (flitVc flit) flit) s = .next t ∧ (BoardOnly s t ∧
      if flitSound flit = true ∧ flitVc flit < 8 ∧ flitSeq flit = expected then
        tgetD (t.board.port port).rx (flitVc flit) 0 = (expected + 1) % 2 ^ 24 ∧
        t.board.folgarIn = if s.board.takesFlit flit then s.board.folgarIn ++ [(port, flitVc flit, flit)] else s.board.folgarIn
      else t.board = { s.board with folgarRetry := s.board.folgarRetry + 1 }))) ∧
  (∀ offset steer : Int, s.board.pwrGood = true → s.board.fatal = false → s.board.portsSince.isSome = true → steer.natAbs ≤ offset.natAbs →
    (0 ≤ offset ∧ steer ≤ 0 ∨ offset ≤ 0 ∧ 0 ≤ steer) → (∃ t, exec (.ptpSync ⟨offset, steer⟩) s = .next t ∧ (
      t = { s with board := t.board, clock := { s.clock with ptpNs := ((s.clock.ptpNs : Int) + steer).toNat } } ∧
      t.board.ptpGood = (if offset.natAbs < 20 then min 16 (s.board.ptpGood + 1) else 0) ∧
      t.board.ptpLock = (if 50 < offset.natAbs then false else s.board.ptpLock || (decide (offset.natAbs < 20) && decide (15 ≤ s.board.ptpGood)))))) ∧
  (∀ v : BitVec 20, s.board.aux = true → (∃ t, exec (.deviceIdWrite v) s = .next t ∧ (BoardOnly s t ∧
    if s.board.ports.any (fun r => r.2.up && r.2.data) then t = s else t.board.devId = v)))

/-- R34, R36, R46: register reads, the power limit and the reset key, a firmware image that waits for the next power-on reset or is refused, the
sensors, and the certificate and measurements. Under conditions on the state and the operands alone it says that exec answers a next state for:
epurnReadCommand, epPlimWrite, epResetWrite, pldmFirmwareUpdate, pldmPlatformMonitoring, spdmRequest. The layouts behind measurements 2 to 4, the
bytes of the transcript and the 32 bytes of the sensors are the model's, and which bytes a certificate has is open (log entries 8 and 68). -/
def Obligations.EpurnEvents : Prop := ∀ s : State, s.board.aux = true →
  let reads := fun (off v : Nat) => (∃ t, exec (.epurnReadCommand off) s = .next t ∧ (Answers s t (.data (leBytes 4 v))))
  let bitsOf := fun (off n : Nat) (p : Nat → Bool) => (∃ t, exec (.epurnReadCommand off) s = .next t ∧ (∃ v, Answers s t (.data (leBytes 4 v)) ∧ v < 2 ^ n ∧
    ∀ k < n, v.testBit k = p k))
  reads 0x004 s.board.epStat ∧ reads 0x008 s.board.cause.num ∧ reads 0x00C s.board.devId.toNat ∧ reads 0x010 s.board.plim.toNat ∧ reads 0x014 s.board.clk ∧
  reads 0x018 0 ∧ reads 0x060 (s.board.lossEvents % 2 ^ 16 + 2 ^ 16 * (s.board.lossLines % 2 ^ 16)) ∧
  (∀ off, (∃ t, exec (.epurnReadCommand off) s = .next t ∧ (∃ v, Answers s t (.data (leBytes 4 v))))) ∧
  reads 0x000 (0x0009 * 2 ^ 16 + Config.siliconRev.toNat) ∧ (∀ k < 5, reads (0x020 + 4 * k) (tgetD s.board.dieTemp k 0)) ∧
  (∀ n temp, (n, temp) ∈ s.board.stackTemp → (∀ r ∈ s.board.stackTemp, r = (n, temp) ∨ r.2 < temp) → n < 16 → temp < 2 ^ 16 → reads 0x034 (n * 2 ^ 24 + temp)) ∧
  (s.board.linkRate < 2 ^ 8 → s.board.linkWidth < 2 ^ 5 →
    reads 0x040 (s.board.linkRate + 2 ^ 8 * s.board.linkWidth + 2 ^ 16 * s.board.cxl.toNat + 2 ^ 17 * s.board.hlink.toNat)) ∧
  bitsOf 0x044 24 (fun p => (s.board.port p).up) ∧
  (∀ p < 24, let x := s.board.port p; x.lanes < 4 → x.rate < 640 →
    reads (0x080 + 4 * p) (if x.up then 2 ^ 10 * x.data.toNat + 2 ^ 9 + 2 ^ 6 * x.lanes + x.rate / 10 else 0)) ∧
  (∀ d < 4, reads (0x048 + 4 * d) ((List.range 1024).filter (fun k => nsHas s.board.defects (1024 * d + k))).length) ∧
  (∀ k < 128, bitsOf (0x400 + 4 * k) 32 (fun b => nsHas s.board.defects (32 * k + b))) ∧
  (∀ k < 24, (∃ t, exec (.epurnReadCommand (0x600 + 4 * k)) s = .next t ∧ (∃ v, Answers s t (.data (leBytes 4 v)) ∧ v < 2 ^ 32 ∧
    ∀ j < 16, v / 4 ^ j % 4 = (s.phy (16 * k + j)).chst % 4))) ∧
  (∀ off, 0x660 ≤ off → reads off 0) ∧
  (∀ v : BitVec 32, (∃ t, exec (.epPlimWrite v) s = .next t ∧ (t = { s with board :=
    { s.board with plim := if 1000 ≤ v.toNat ∧ v.toNat ≤ 3400 then v else s.board.plim } }))) ∧
  (∀ v : BitVec 32, v.toNat % 256 ≠ 0xA5 ∨ s.board.pwrEn = false → (∃ t, exec (.epResetWrite v) s = .next t ∧ (t = s))) ∧
  (∀ v : BitVec 32, v.toNat % 256 = 0xA5 → s.board.pwrEn = true → s.board.trip = false →
    (∃ t, exec (.epResetWrite v) s = .next t ∧ (VolatileLost s t ∧ t.board.phase = 1))) ∧
  (∀ image : FwImage, (∃ t, exec (.pldmFirmwareUpdate image) s = .next t ∧ (
    if sigHolds (shake256 image.body) image.sig = true ∧ s.board.fuseVersion ≤ image.secVersion then
      t.board.staged = some image ∧ t.mem = s.mem ∧ t.fab = s.fab ∧ t.host.replies = s.host.replies ++ [.done]
    else Answers s t .unsupported))) ∧
  (∃ t, exec .pldmPlatformMonitoring s = .next t ∧ (∃ g trip link, reads 0x034 g ∧
      Answers s t (.data ((((List.range 5).map (fun k => tgetD s.board.dieTemp k 0)) ++ [g, trip, link]).flatMap (leBytes 4))) ∧
      (s.board.tripAt = none → trip = 0) ∧ (s.board.tripAt.isSome = true → trip = s.board.tripSensor + 1) ∧
      (s.board.badLink = none → link = 0) ∧ (∀ l, s.board.badLink = some l → link = l + 1))) ∧
  (∀ (req : SpdmReq) (inBand : Bool), (inBand = true → s.board.hlink = true ∧ s.board.hostLoss = false ∧ s.board.fatal = false ∧ s.board.phase = 8 ∧ (s.hostFn 0).flr = none) →
    let answers := fun (bytes : List Byte) => (∃ t, exec (.spdmRequest ⟨inBand, req⟩) s = .next t ∧ (t = { s with
      board := { s.board with transcript := s.board.transcript ++ spdmReqBytes req ++ bytes }, host := { s.host with replies := s.host.replies ++ [.data bytes] } }))
    match req with
    | .certificate slot => if slot = 0 then answers (Config.spdmBytes 0) else (∃ t, exec (.spdmRequest ⟨inBand, req⟩) s = .next t ∧ (Answers s t .unsupported))
    | .measurement index =>
      (index = 1 → answers s.board.booted) ∧ (index = 2 → s.board.svcDigests ≠ [] → answers (shake256 s.board.svcDigests)) ∧
      (index = 3 → answers (shake256 (leBytes 8 s.board.fuseVersion ++ leBytes 1 s.board.debugLock.toNat))) ∧
      (index = 4 → s.board.chstEnd ≠ [] → answers (shake256 s.board.chstEnd)) ∧
      (index = 0 ∨ 4 < index → (∃ t, exec (.spdmRequest ⟨inBand, req⟩) s = .next t ∧ (Answers s t .unsupported)))
    | .challenge nonce => answers (deviceSign (sha3 (s.board.transcript ++ spdmReqBytes (.challenge nonce)))))

/-- R38, R39, R40: a window's probe and pattern test begin and end, a `GO` while one runs is ignored, `CHST` is set to trained only after a clean
test, and a window whose channel state is 1 or 2 is read-only. In phase 4 the graphs of the service cluster make these writes: each is the issue of an
`st.io` of that value at that register. Under conditions on the state and the operands alone it says that exec answers a next state for:
hphyProbeStart, hphyProbeComplete, hphySetChst, hphyPatternTestStart, hphyPatternTestComplete. -/
def Obligations.TrainingWindowEvents : Prop := ∀ (s : State) (ch : Nat), ch < 384 →
  let p := s.phy ch
  let sets := fun (t : State) (q : Phy) => t.phy ch = q ∧ ∀ k, k ≠ ch → t.phy k = s.phy k
  let only := fun (t : State) (q : Phy) => sets t q ∧ t = { s with mem := { s.mem with phy := t.mem.phy } }
  let writes := fun (i : Instr) (off : Nat) (v : Word) (q : Phy) =>
    (s.board.phase ≠ 4 → (∃ t, exec i s = .next t ∧ (only t q))) ∧
    (∀ task pl tag k pp op bef, s.board.phase = 4 → s.ioStore (0xF_C000_0000 + 0x1000 * ch + off) v = some (task, pl, tag) → tag < 2 ^ 14 →
      s.frozenNow = false → s.heldReady task pl tag = some (k, pp, op, bef) → s.issueTurn pp tag = true → (∃ t, exec i s = .next t ∧ (sets t q)))
  (∀ v : Word, v.getLsbD 8 = true → p.chst = 0 → p.busy = false → p.testing = false → v.toNat / 2 ^ 18 % 4 = 0 →
    writes (.hphyProbeStart ch v) 0 v { p with busy := true, since := s.clock.cycle, dir := v.getLsbD 7, delay := v.extractLsb' 0 7 }) ∧
  (∀ v : Word, v.getLsbD 8 = true → p.busy = true ∨ p.testing = true → writes (.hphyProbeStart ch v) 0 v p) ∧
  (∀ (pass : Word) (spass : BitVec 2), p.busy = true → s.clock.cycle ≤ p.since + 2048 →
    (∃ t, exec (.hphyProbeComplete ch pass spass) s = .next t ∧ (∃ pres, only t { p with busy := false, spass := spass, pres := pres } ∧
      (p.repair.getLsbD 6 = false → p.repair.getLsbD 14 = false → pres = pass)))) ∧
  (∀ v : Word, v.getLsbD 8 = false → p.chst = 0 →
    let c := v.toNat / 2 ^ 18 % 4
    writes (.hphySetChst ch v) 0 v
      { p with chst := if c = 3 then 0 else if c = 1 then (if p.clean then 1 else 0) else c, dir := v.getLsbD 7, delay := v.extractLsb' 0 7 }) ∧
  (∀ v : Word, p.chst = 1 ∨ p.chst = 2 → writes (.hphySetChst ch v) 0 v p) ∧
  (∀ v : Word, v.getLsbD 40 = true → p.chst = 0 → p.busy = false → p.testing = false →
    writes (.hphyPatternTestStart ch v) 0x28 v
      { p with rounds := v.extractLsb' 32 8, seed := v.extractLsb' 0 32, done := decide (v.extractLsb' 32 8 = 0#8), testing := decide (v.extractLsb' 32 8 ≠ 0#8),
               clean := false }) ∧
  (∀ v : Word, v.getLsbD 40 = true → p.busy = true ∨ p.testing = true → writes (.hphyPatternTestStart ch v) 0x28 v p) ∧
  (∀ (errcnt : BitVec 16) (errdq : Word), p.testing = true → (errcnt = 0 ↔ errdq = 0) → (∃ t, exec (.hphyPatternTestComplete ch errcnt errdq) s = .next t ∧ (
    only t { p with testing := false, done := true, errcnt := errcnt, perr := errdq, clean := decide (errcnt = 0) })))

/-! ### Host accesses (R30, R42, R49 to R58, R61, R101, R175, R176) -/

/-- R42, R49, R53, R65, R67, R101, R175, R176: a register write outside BAR0's backed parts, a narrow or misaligned one, and one of a plain register;
a write of BAR4 outside its table, and of a vector's data; `HF_EVT` and `HF_ACOVF` cleared; entries of the access-counter queue consumed; a host kill
that matches no task; configuration requests before and in phase 8; and any of them while the function is not served. Under conditions on the state
and the operands alone it says that exec answers a next state for: registerWrite, hfEvtClear, hfAcovfClear, accessQueueConsume, hostKill,
configRequest. How a configuration request names what it writes is the model's (log entry 28). -/
def Obligations.HostRegisterEvents : Prop := ∀ (s : State) (fn : Nat),
  let others := fun (t : State) (off : Nat) => (∀ f o, (f, o) ≠ (fn, off) → t.reg f o = s.reg f o) ∧ t.board = s.board ∧ t.fab = s.fab ∧ t.sched = s.sched ∧
    t.mem.hbm = s.mem.hbm ∧ t.mem.l2 = s.mem.l2
  (s.reach fn = .unsupported → ∀ bar off size v, (∃ t, exec (.registerWrite ⟨bar, fn⟩ off size v) s = .next t ∧ (Answers s t .unsupported))) ∧
  (s.reach fn = .served → ∀ off size v, bar0Backed fn off = false → (∃ t, exec (.registerWrite ⟨0, fn⟩ off size v) s = .next t ∧ (Answers s t .unsupported))) ∧
  (s.reach fn = .served → ∀ off size v, bar0Backed fn off = true → size ≠ 8 ∨ off % 8 ≠ 0 → (∃ t, exec (.registerWrite ⟨0, fn⟩ off size v) s = .next t ∧ (t = s))) ∧
  (s.reach fn = .served → ∀ off size v, bar4Backed fn off = false → (∃ t, exec (.registerWrite ⟨4, fn⟩ off size v) s = .next t ∧ (Answers s t .unsupported))) ∧
  (s.reach fn = .served → ∀ vec v, vec < vecCount fn → (∃ t, exec (.registerWrite ⟨4, fn⟩ (16 * vec + 8) 4 v) s = .next t ∧ (
    t.msixVec fn vec = { s.msixVec fn vec with data := v.setWidth 32 } ∧ (∀ k, k ≠ vec → t.msixVec fn k = s.msixVec fn k) ∧
    t.mem = s.mem ∧ t.board = s.board ∧ t.fab = s.fab ∧ t.sched = s.sched))) ∧
  (s.reach fn = .served → ∀ v, (s.hostFn fn).kill = none → (∃ t, exec (.registerWrite ⟨0, fn⟩ 0x2C0 8 v) s = .next t ∧ (t.reg fn 0x2C0 = v ∧ others t 0x2C0))) ∧
  (s.reach fn = .served → fn = 0 → ∀ v, (∃ t, exec (.registerWrite ⟨0, 0⟩ 0x228 8 v) s = .next t ∧ (t.reg 0 0x228 = v ∧ others t 0x228))) ∧
  (s.reach fn = .served → ∀ v, (∃ t, exec (.hfEvtClear fn v) s = .next t ∧ (t.reg fn 0x010 = s.reg fn 0x010 &&& ~~~ v ∧ others t 0x010))) ∧
  (s.reach 0 = .served → fn = 0 → (∃ t, exec .hfAcovfClear s = .next t ∧ (t.reg 0 0x260 = 0 ∧ others t 0x260))) ∧
  (s.reach 0 = .served → fn = 0 → ∀ v, if (s.reg 0 0x250).toNat < v.toNat then (∃ t, exec (.accessQueueConsume v) s = .next t ∧ (t = s))
    else (∃ t, exec (.accessQueueConsume v) s = .next t ∧ (t.reg 0 0x258 = v ∧ t.mem.acQueued = s.mem.acQueued.filter (fun q => v.toNat ≤ q.2) ∧ others t 0x258))) ∧
  (s.reach fn = .served → ∀ v, v.getLsbD 0 = true → (s.hostFn fn).kill.isSome = true → (∃ t, exec (.hostKill fn v) s = .next t ∧ (t = s))) ∧
  (s.reach fn = .served → ∀ v, v.getLsbD 0 = true → (s.hostFn fn).kill = none → (∀ k ∈ s.tasks, k.matchedBy fn (s.reg fn 0x2C0) (v.getLsbD 1) = false) →
    (∃ t, exec (.hostKill fn v) s = .next t ∧ ((t.reg fn 0x2D0).toNat = v.toNat / 2 ^ 32 * 2 ^ 32 ∧ t.sched = s.sched ∧ t.fab = s.fab ∧ t.mem = s.mem))) ∧
  (s.board.hlink = true → s.board.hostLoss = false → s.board.fatal = true → (∃ t, exec .configRequest s = .next t ∧ (Answers s t .unsupported))) ∧
  (s.board.hlink = true → s.board.hostLoss = false → s.board.fatal = false → s.board.phase ≠ 8 → (∃ t, exec .configRequest s = .next t ∧ (Answers s t .retryStatus))) ∧
  (s.board.hlink = true → s.board.hostLoss = false → s.board.fatal = false → s.board.phase = 8 → (s.hostFn 0).flr = none → s.subject = 1 ∨ s.subject = 2 →
    (∃ t, exec .configRequest s = .next t ∧ (t.host.vfEnable = decide (s.subject = 1) ∧ t.host.replies = s.host.replies ++ [.done] ∧ t.host.fns = s.host.fns)))

/-- R56, R57, R58, R59, R61, R73, R78, R104, R143: a queue enabled with a legal ring, or turned down with BADCFG; disabled; the dispatcher's pick of
the queue that is next at the highest priority, and what it leaves where the record is taken, where no task can be accepted, and where the header is
not readable; the checks of R73 on the header of the task taken, row by row; a queue found in error. Under conditions on the state and the operands
alone it says that exec answers a next state for: queueEnable, queueDisable, dispatchPick. That a pick without room moves on, and that poisoned or
spent queue lines are read as they stand, is the model's reading (log entry 62). -/
def Obligations.QueueEvents : Prop := ∀ (s : State) (fn q : Nat),
  let x := s.queue fn q
  (∀ v : Word, s.reach fn = .served → q < 64 → v.getLsbD 0 = true →
    (∃ t, exec (.queueEnable fn q v) s = .next t ∧ (
      (s.queueValid fn x = true → t.queue fn q = { x with ctl := (v &&& 0x700) ||| 1, err := 0 } ∧ t.reg fn 0x010 = s.reg fn 0x010) ∧
      (s.queueValid fn x = false → t.queue fn q = { x with ctl := v &&& 0x700, err := 1 } ∧ (t.reg fn 0x010).getLsbD 0 = true) ∧ t.mem = s.mem ∧ t.sched = s.sched))) ∧
  (∀ v : Word, s.reach fn = .served → q < 64 → v.getLsbD 0 = false →
    (∃ t, exec (.queueDisable fn q v) s = .next t ∧ (t.queue fn q = { x with ctl := v &&& 0x700 } ∧ t.mem = s.mem ∧ t.sched = s.sched))) ∧
  (∀ (prio : Nat) (b : List Byte), s.sched.dispatching = true → s.board.phase = 8 → s.board.fatal = false → s.subject = 0 → fn < 64 → q < 64 →
    s.pickNext = some (64 * fn + q, prio, b) → s.pickQuiet fn q b = true →
    (∃ t, exec .dispatchPick s = .next t ∧ (match s.takeRecord fn q b with
      | .launched s' _ => (t.queue fn q).cons = (s'.queue fn q).cons + 1 ∧ tget t.host.served prio = some (64 * fn + q) ∧ t.sched = s'.sched
      | .noRoom => t = { s with host := { s.host with served := t.host.served } } ∧ tget t.host.served prio = some (64 * fn + q)
      | .hdrAddr => (t.queue fn q).err = 4 ∧ (t.queue fn q).ctl = x.ctl &&& ~~~ (1 : Word) ∧ t.sched = s.sched ∧ t.mem = s.mem))) ∧
  (∀ (prio : Nat) (b h : List Byte), s.sched.dispatching = true → s.board.phase = 8 → s.board.fatal = false → s.subject = 0 → fn < 64 → q < 64 →
    s.pickNext = some (64 * fn + q, prio, b) → s.pickQuiet fn q b = true → s.board.hostLoss = false → (s.reg 0 0x380).getLsbD 15 = false → s.paired fn q = false →
    let sp := 256 * fn + (lrecOf b).asid
    let f := field h
    s.spaceBytes sp (lrecOf b).hdr 256 = some h → f 56 8 % 2 ^ 52 % 64 = 0 → s.spaceWritable sp (f 56 8 % 2 ^ 52) = true → s.mayAccept fn = true →
    let ws := (List.range 6).map (fun k => f (24 + k) 1)
    let sum := ws.foldl (· + ·) 0
    let leases := (List.range (min 16 (f 38 1))).map (fun k => f (128 + 8 * k) 8)
    let early : List (Bool × Nat) := [
      (f 8 8 / 2 ^ 52 ≠ 0 || f 8 8 % 4096 ≠ 0 || f 30 1 / 2 ^ 5 ≠ 0 || f 31 1 / 2 ^ 5 ≠ 0 || f 36 1 / 2 ^ 3 ≠ 0 || f 37 1 / 2 ^ 4 ≠ 0 || f 56 8 / 2 ^ 52 ≠ 0 ||
        f 64 8 / 2 ^ 52 ≠ 0 || f 64 8 % 8 ≠ 0 || f 72 8 / 2 ^ 52 ≠ 0 || f 72 8 % 64 ≠ 0, 2),
      ((List.range 5).any (fun k => f (24 + k) 1 = 0 && f (25 + k) 1 ≠ 0) || f 24 1 = 0 || 64 < sum || f 16 8 = 0 || 2 ^ sum < f 16 8 ||
        (List.range 5).any (fun k => (f 30 1).testBit k && (ws.filter (fun w => w ≠ 0)).length ≤ k + 1), 3),
      (f 32 2 = 0 || 64 < f 32 2 || f 34 2 < f 32 2 || 64 < f 34 2 || f 39 1 = 0 || 4 < f 39 1, 4)]
    let late := fun (k : Task) (nf : Nat) => ([
      ((if fn = 0 then 4096 else (s.takeCap fn).vfFrets fn) < f 32 2 * nf || s.usableFrets < f 32 2 * nf, 4),
      (16 < f 38 1 || leases.any (fun w => w / 2 ^ 62 = 3 || w / 2 ^ 57 % 8 ≠ 0 || 2 ^ 52 < w / 2 ^ 12 % 2 ^ 40 * 2 ^ 12 + (w % 2 ^ 12 + 1) * 2 ^ (12 + w / 2 ^ 52 % 32)), 5),
      (f 40 4 / 2 ^ 12 ≠ 0 || f 40 4 % 16 + f 40 4 / 16 % 16 + f 40 4 / 256 % 16 ≠ 8, 6),
      (32 * nf < k.levels, 7),
      (262144 < f 44 4, 8),
      ((f 31 1).testBit 0 && match leases.filter (fun w => w.testBit 60) with
        | [w] => (w % 2 ^ 12 + 1) * 2 ^ (12 + w / 2 ^ 52 % 32) < 2 ^ 16 + f 34 2 * nf * 2 ^ 19 + f 44 4 * 144
        | _ => true, 10),
      (f 72 8 ≠ 0 && (!(f 31 1).testBit 0 || match s.spaceBytes sp (f 72 8 % 2 ^ 52) 64 with
        | none => true
        | some d => field d 0 4 = 0 || field d 16 4 < 100000 || field d 24 4 < 50000 || field d 16 4 < field d 20 4 + field d 24 4 || field d 28 1 / 2 ≠ 0 ||
          field d 29 35 ≠ 0), 11)] : List (Bool × Nat))
    (∃ t, exec .dispatchPick s = .next t ∧ (TaskIs t (s.freeNum s.sched.lastTask 4097) (fun k =>
      let fails := fun (reason faddr : Nat) => k.ending = true ∧ k.status = .rejected ∧ k.reason = reason ∧ k.faddr = faddr
      k.hdr = h ∧ k.fn = fn ∧ k.asid = (lrecOf b).asid ∧ k.rtag = (lrecOf b).rtag ∧ k.cval = (lrecOf b).cval ∧
      match early.find? Prod.fst, (s.cachedNf (BitVec.ofNat 64 (f 0 8))).or (s.headerNf sp (f 8 8 % 2 ^ 52)) with
      | some x, _ => fails x.2 0
      | none, none => fails 9 (f 8 8 % 2 ^ 52)
      | none, some nf => match (late k nf).find? Prod.fst with
        | some x => fails x.2 0
        | none => k.st = .reswait ∧ k.ending = false ∧ k.nf = nf ∧ k.need = f 32 2 * nf)))) ∧
  (∀ code : Nat, s.sched.dispatching = true → s.board.phase = 8 → s.board.fatal = false → fn < 64 → q < 64 → s.subject = 64 * fn + q + 1 →
    s.scanQueue fn q = .error code → s.mem.quiet (s.queueAddr fn x.line / 128) = true →
    (∃ t, exec .dispatchPick s = .next t ∧ ((t.queue fn q).err = BitVec.ofNat 64 code ∧ (t.queue fn q).ctl = x.ctl &&& ~~~ (1 : Word) ∧ t.sched = s.sched ∧ t.mem = s.mem)))

/-- R19, R52, R152: BAR2 and CXL.mem: a range that is not backed; a read of a poisoned or spent line, and of others; a write within one line at its
home; a write of a spent line, which is dropped. A line read through CXL.mem is the host's until a write of the device takes it back by a
back-invalidation (the model's reading of HDM-DB, log entry 69). Under conditions on the state and the operands alone it says that exec answers a next
state for: bar2Read, bar2Write, cxlMemAccess. That CXL.mem answers as BAR2 does, which lines the host may then hold, and how a line that it has
modified comes back, is the model's reading (log entry 69). -/
def Obligations.HostMemoryEvents : Prop := ∀ (s : State) (fn off : Nat),
  let reads := fun (i : Instr) (pa n : Nat) (cxl : Bool) =>
    (if (linesOf pa n).any (fun l => s.mem.isSpent l || s.poisoned l) then (∃ t, exec i s = .next t ∧ (
      t = { s with host := { s.host with replies := s.host.replies ++ [.poisoned] },
                   mem := { s.mem with hdm := t.mem.hdm, flaws := t.mem.flaws, corrected := t.mem.corrected, poison := t.mem.poison } } ∧
      (∀ l ∈ linesOf pa n, s.mem.isSpent l = false → s.poisoned l = true → nsHas t.mem.poison l = true) ∧ (cxl = false → t.mem.hdm = s.mem.hdm)))
    else (∃ t, exec i s = .next t ∧ (t.host.replies = s.host.replies ++ [.data (s.readBytes pa n)] ∧ t.board = s.board ∧ t.sched = s.sched ∧ t.fab = s.fab)))
  let writes := fun (i : Instr) (pa : Nat) (bs : List Byte) (cxl : Bool) =>
    (s.mem.isSpent (pa / 128) = true → tget s.mem.hdmMod (pa / 128) = none →
      (∃ t, exec i s = .next t ∧ (t = { s with mem := { s.mem with hdm := t.mem.hdm, hdmMod := t.mem.hdmMod } } ∧ (cxl = false → t = s)))) ∧
    (s.mem.isSpent (pa / 128) = false → s.busy (pa / 128) = false → s.mem.mirror pa = none → isHost pa = false →
      (tget s.mem.hdmMod (pa / 128) = none ∨ s.mem.l1Of (pa / 128) = []) → CopiesAgree s (pa / 128) →
      (∃ t, exec i s = .next t ∧ (t.mem.value (pa / 128) = lineWrite (s.mem.value (pa / 128)) (pa % 128) bs.length (leNat bs) ∧
        t.board = s.board ∧ t.sched = s.sched ∧ t.fab = s.fab ∧ t.host = s.host)))
  (s.reach fn = .served → ∀ n, s.bar2Range fn off n = none → (∃ t, exec (.bar2Read fn off n) s = .next t ∧ (Answers s t .unsupported))) ∧
  (s.reach fn = .served → ∀ bs, s.bar2Range fn off bs.length = none → (∃ t, exec (.bar2Write fn off bs) s = .next t ∧ (Answers s t .unsupported))) ∧
  (s.reach fn = .served → ∀ pa n, s.bar2Range fn off n = some pa → s.rangeQuiet pa n = true → reads (.bar2Read fn off n) pa n false) ∧
  (s.reach fn = .served → ∀ pa bs, s.bar2Range fn off bs.length = some pa → s.rangeQuiet pa bs.length = true → bs ≠ [] → pa % 128 + bs.length ≤ 128 →
    writes (.bar2Write fn off bs) pa bs false ∧
    (s.mem.isSpent (pa / 128) = false → s.busy (pa / 128) = false → s.mem.mirror pa = none → isHost pa = false → nsHas s.mem.hdm (pa / 128) = true →
      (∃ t, exec (.bar2Write fn off bs) s = .next t ∧ (t.mem.backInv = s.mem.backInv ++ [pa / 128] ∧ nsHas t.mem.hdm (pa / 128) = false)))) ∧
  (s.cxlReach = .served → ∀ write bs, s.hbmRange off bs.length = none → (∃ t, exec (.cxlMemAccess write off bs) s = .next t ∧ (Answers s t .unsupported))) ∧
  (s.cxlReach = .served → ∀ pa bs, s.hbmRange off bs.length = some pa → s.rangeQuiet pa bs.length = true → reads (.cxlMemAccess false off bs) pa bs.length true ∧
    (∃ t, exec (.cxlMemAccess false off bs) s = .next t ∧ (∀ l ∈ linesOf pa bs.length, s.mem.isSpent l = false → s.poisoned l = false → s.mem.counted l = false →
      s.busy l = false → nsHas t.mem.hdm l = true))) ∧
  (s.cxlReach = .served → ∀ pa bs, s.hbmRange off bs.length = some pa → s.rangeQuiet pa bs.length = true → bs ≠ [] → pa % 128 + bs.length ≤ 128 →
    (s.subject ≠ 1 → writes (.cxlMemAccess true off bs) pa bs true) ∧
    (s.subject = 1 → s.mayModify pa bs.length = true → CopiesAgree s (pa / 128) → (∃ t, exec (.cxlMemAccess true off bs) s = .next t ∧ (nsHas t.mem.hdm (pa / 128) = true ∧
      t.mem.value (pa / 128) = lineWrite (s.mem.value (pa / 128)) (pa % 128) bs.length (leNat bs) ∧ t.board = s.board ∧ t.fab = s.fab ∧ t.host = s.host))))

/-- R170 to R174: an invalidation begins, and the TLBs' entries that it names are gone; it is ignored while one is busy, and completes. A migration
record is taken: its first piece's L1 copies are reduced to S, or its status word says BADREQ or DEFERRED; a piece's bytes are copied, with their
poison; and the page is switched over: the leaf entries name the new frame, the translations are gone, and the status word says DONE. Under conditions
on the state and the operands alone it says that exec answers a next state for: invalidationStart, invalidationComplete, migrationRecordConsume,
migrationPieceCopy, migrationSwitchOver. The open cases of migration are the model's (log entry 70). -/
def Obligations.InvalidationAndMigrationEvents : Prop := ∀ s : State,
  (∀ (fn : Nat) (v : Word), s.reach fn = .served → (tget s.mem.invs fn).isSome = true ∨ v.toNat / 2 ^ 16 % 4 = 3 → (∃ t, exec (.invalidationStart fn v) s = .next t ∧ (t = s))) ∧
  (∀ (fn : Nat) (v : Word), s.reach fn = .served → tget s.mem.invs fn = none → v.toNat / 2 ^ 16 % 4 ≠ 3 →
    let r := (s.reg fn 0x200).toNat
    let n := 2 ^ (12 + min 40 (r % 64))
    let va := r / 2 ^ 12 % 2 ^ 40 * 2 ^ 12
    let sp := fun (x : Nat) => if v.toNat / 2 ^ 16 % 4 = 2 then decide (x / 256 = fn) else decide (x = 256 * fn + v.toNat % 256)
    (∃ t, exec (.invalidationStart fn v) s = .next t ∧ ((∃ k, tget t.mem.invs fn = some ⟨v, k⟩) ∧ (t.reg fn 0x210).getLsbD 0 = true ∧ t.mem.hbm = s.mem.hbm ∧ t.mem.l2 = s.mem.l2 ∧
      (v.toNat / 2 ^ 16 % 4 = 0 → va % n = 0 → TlbDropped s t sp va (va + n)) ∧ (v.toNat / 2 ^ 16 % 4 ≠ 0 → TlbDropped s t sp 0 (2 ^ 52))))) ∧
  (∀ v : Inval, tget s.mem.invs s.subject = some v → s.invDrained (invSpace s.subject v.cmd) v.before = true →
    (∃ t, exec .invalidationComplete s = .next t ∧ (tget t.mem.invs s.subject = none ∧ (t.reg s.subject 0x210).toNat = v.cmd.toNat / 2 ^ 32 * 2 ^ 32 ∧
      t.mem = { s.mem with invs := t.mem.invs } ∧ t.fab = s.fab ∧ t.sched = s.sched))) ∧
  (let a := s.migRecordAddr
   let b := s.readBytes a 64
   let g := migOf b
   (s.reg 0 0x220).getLsbD 8 = true → s.reg 0 0x228 ≠ s.reg 0 0x230 → s.hbmBacked a = true → s.board.phase = 8 → s.mem.migs.length < 16 →
   s.mem.quiet (a / 128) = true → s.mem.quiet (g.stat / 128) = true →
   ((s.migBad b = true ∨ s.mem.anyCounted (linesOf g.src (pageBytes g.size)) = true) → (∃ t, exec .migrationRecordConsume s = .next t ∧ (
      t.reg 0 0x230 = s.reg 0 0x230 + 1 ∧ t.mem.migs = s.mem.migs ∧ t.board = s.board ∧ t.sched = s.sched ∧
      (s.hbmBacked g.stat = true → g.stat % 8 = 0 → AtRest s (g.stat / 128) → t.readBytes g.stat 8 = leBytes 8 (if s.migBad b = true then 3 else 4))))) ∧
   (s.migBad b = false → s.mem.anyCounted (linesOf g.src (pageBytes g.size)) = false → s.mayRegister (g.piece 0) = true → (∃ t, exec .migrationRecordConsume s = .next t ∧ (
      t.reg 0 0x230 = s.reg 0 0x230 + 1 ∧ t.mem.migs = s.mem.migs ++ [g] ∧ t.board = s.board ∧ t.sched = s.sched ∧
      (∀ x ∈ t.mem.l1, x.line ∈ g.piece 0 → isHost (128 * x.line) = false → x.st = .s))))) ∧
  (∀ g : Mig, s.mem.migs[s.subject]? = some g → g.done < g.pieces → s.board.hostLoss = false →
    s.mayRegister (if g.done + 1 < g.pieces then g.piece (g.done + 1) else []) = true → (g.piece g.done).all s.mem.settled = true →
    (linesOf (g.dst + pieceBytes g.size * g.done) (pieceBytes g.size)).all s.mem.quiet = true → (∃ t, exec .migrationPieceCopy s = .next t ∧ (
      t.mem.migs = s.mem.migs.set s.subject { g with done := g.done + 1, copied := g.copied + pieceBytes g.size } ∧ t.board = s.board ∧ t.sched = s.sched ∧ t.fab = s.fab ∧
      (g.src % 4096 = 0 → g.dst % 4096 = 0 → g.src + pageBytes g.size ≤ g.dst ∨ g.dst + pageBytes g.size ≤ g.src → ∀ j < pieceBytes g.size / 128,
        let l := (g.src + pieceBytes g.size * g.done) / 128 + j
        let d := (g.dst + pieceBytes g.size * g.done) / 128 + j
        CopiesAgree s l → s.busy l = false → s.busy d = false →
          t.readBytes (128 * d) 128 = s.readBytes (128 * l) 128 ∧
          ((if isHost (128 * l) = true then nsHas s.mem.hostPoison l else s.poisoned l) = true →
            (if isHost (128 * d) = true then nsHas t.mem.hostPoison d else nsHas t.mem.poison d) = true))))) ∧
  (∀ g : Mig, s.mem.migs[s.subject]? = some g → g.done = g.pieces → s.pageDrained g = true → (pteAddrs g.ptea g.size).all (fun a => s.mem.quiet (a / 128)) = true →
    s.mem.quiet (g.stat / 128) = true → (∃ t, exec .migrationSwitchOver s = .next t ∧ (t.mem.migs = s.mem.migs.eraseIdx s.subject ∧ t.board = s.board ∧
      TlbDropped s t (fun x => decide (x = 256 * g.fn + g.asid)) g.va (g.va + pageBytes g.size) ∧
      (s.hbmBacked g.stat = true → g.stat % 8 = 0 → AtRest s (g.stat / 128) → t.readBytes g.stat 8 = leBytes 8 1) ∧
      (s.hbmBacked g.ptea = true → g.ptea % (if g.size = 1 then 128 else 8) = 0 → AtRest s (g.ptea / 128) → CopiesAgree s (g.ptea / 128) →
        g.stat < g.ptea ∨ g.ptea + 128 ≤ g.stat → g.stat % 8 = 0 → AtRest s (g.stat / 128) → g.dst % 4096 = 0 → g.dst < 2 ^ 52 →
        ∀ k < (if g.size = 1 then 16 else 1),
          let e := s.readNat (g.ptea + 8 * k) 8
          t.readNat (g.ptea + 8 * k) 8 = e - pteFrame e + (if g.fn = 0 ∨ isHost g.dst = true then g.dst else g.dst - s.vfBase g.fn)))))

/-! ### Scheduling (R73, R79 to R106) -/

/-- R44, R79, R80, R82, R84, R86, R88, R93, R94, R96: a lease walk that finds every page resident, or one outside backed memory, or a link loss for a
task with a host-tier lease; a SAVED task back in RESWAIT; the quota taken; frets given to the head of FRETWAIT; where no mapping is found, the
victims ordered, the tokens spent and the free frets reserved; a configuration loaded, or rejected; a placement added; a drain victim that has taken
too long. Under conditions on the state and the operands alone it says that exec answers a next state for: leaseWalkResume, quotaAdmit,
fretwaitService, fretLoad, placementGrowth, drainVictimExpiry. That a gang task takes its quota before its slice, and which frets count as coming, is
the model's reading (log entries 52 and 84). -/
def Obligations.AdmissionEvents : Prop := ∀ (s : State) (k : Task), Named s k → k.ending = false →
  let left := k.pages.drop k.walk
  let held := s.obs.dbg.haltPending || k.gang.any s.gangHeld
  (k.st = .reswait → k.prefsDone = true → s.board.hostLoss = false ∨ s.hostLeased k = false → (∀ va ∈ left, ∃ w, s.pageAt k va = .resident w) →
    (∃ t, exec .leaseWalkResume s = .next t ∧ (TaskIs t k.num (fun k' => k'.st = (if k.quota then .fretwait else .admitwait) ∧ k'.stateSince = s.clock.ns)))) ∧
  (k.st = .reswait → k.prefsDone = false → s.board.hostLoss = false ∨ s.hostLeased k = false → (∀ va ∈ left, ∃ w, s.pageAt k va = .resident w) →
    (∃ t, exec .leaseWalkResume s = .next t ∧ (TaskIs t k.num (fun k' => k' = { k with walk := k.walk + left.length })))) ∧
  (k.st = .reswait → s.board.hostLoss = false ∨ s.hostLeased k = false → (∃ va rest, left = va :: rest ∧ s.pageAt k va = .unbacked) →
    (∃ t, exec .leaseWalkResume s = .next t ∧ (TaskIs t k.num (fun k' => k'.ending = true ∧ k'.status = .rejected ∧ k'.reason = 1)))) ∧
  (k.st = .reswait → s.board.hostLoss = true → s.hostLeased k = true → (∃ t, exec .leaseWalkResume s = .next t ∧ (
    TaskIs t k.num (fun k' => k'.ending = true ∧ k'.status = .fault ∧ k'.fault = some (s.hostLinkFault k))))) ∧
  (k.st = .saved → k.gang = none → (∃ t, exec .leaseWalkResume s = .next t ∧ (TaskIs t k.num (fun k' => k'.st = .reswait ∧ k'.walk = 0)))) ∧
  (k.st = .admitwait → k.quota = false → s.quotaHeld + k.cquota ≤ 262144 → (∃ t, exec .quotaAdmit s = .next t ∧ (
    TaskIs t k.num (fun k' => k'.quota = true ∧ k'.st = (if k.gang.isNone then .fretwait else .admitwait))))) ∧
  (let c := s.takeCap k.fn
   let lower := fun (v : Task) => (v.st = .running ∨ v.st = .held) ∧ v.ending = false ∧ v.gang = none ∧ v.svc = false ∧ v.victim = none ∧
     (k.gang.isSome = true ∨ c.effPrio v < c.effPrio k)
   let classed := fun (v : Task) =>
     if v.st = .held then (if v.killable then some (VAction.kill, 4) else none)
     else if c.estimate v ≤ 20000 ∧ v.slow = false then some (.drain, 0)
     else if v.ckpt = true ∧ c.collOut v.num = false then some (.checkpoint, 1)
     else if v.killable then some (.kill, 4) else none
   (∀ m, s.fretwaitHead = some k → c.mapTask k (s.freeFor k.num) [] = some m → (∃ t, exec .fretwaitService s = .next t ∧ (
     TaskIs t k.num (fun k' => k'.st = .loading ∧ k'.nextPl = k.need / k.nf) ∧ (∀ ps ∈ m, ∀ q ∈ ps, (t.fret q.2).st ∈ [FretSt.live, .load]) ∧ t.mem = s.mem))) ∧
   (s.fretwaitHead = some k → c.mapTask k (s.freeFor k.num) [] = none → (∃ t, exec .fretwaitService s = .next t ∧ (t.mem = s.mem ∧ t.board = s.board ∧
     (∀ pf, t.fret pf = s.fret pf ∨ ((s.fret pf).st = .free ∧ t.fret pf = { s.fret pf with st := .reserved k.num })) ∧
     (∀ v, s.task? v.num = some v → TaskIs t v.num (fun v' => v'.st = v.st ∧ (v'.victim = v.victim ∨ ∃ u ∈ s.tasks, u.num = v.num ∧ lower u ∧
        ∃ a cost, classed u = some (a, cost) ∧ v'.victim = some ⟨a, s.clock.ns, k.num⟩))) ∧
     (∀ v a cost, s.task? v.num = some v → v.num ≠ k.num → lower v → (∀ u ∈ s.tasks, lower u → u = v) → classed v = some (a, cost) → k.gang = none →
        s.coming k.num = ([], []) →
        let enough := (c.mapTask k (withFrets (s.freeFor k.num) (s.fretsOf v.num)) [v.num]).isSome = true
        (cost ≤ k.tokens ∧ (enough ∨ a = .drain) →
          TaskIs t v.num (fun v' => v'.victim = some ⟨a, s.clock.ns, k.num⟩) ∧ TaskIs t k.num (fun k' => k'.tokens = k.tokens - cost)) ∧
        (k.tokens < cost ∨ (¬ enough ∧ a ≠ .drain) →
          TaskIs t v.num (fun v' => v'.victim = none) ∧ TaskIs t k.num (fun k' => k'.tokens = k.tokens))))))) ∧
  (k.st = .loading → s.placementsOf k.num ≠ [] → k.image = none → k.loadErr = none → held = false → (∃ t, exec .fretLoad s = .next t ∧ (
    TaskIs t k.num (fun k' => k'.st = .running) ∧ (∀ p ∈ s.placementsOf k.num, ∀ r ∈ p.map, (t.fret r.2).st ≠ .load) ∧ t.mem = s.mem))) ∧
  (∀ e, k.st ∈ [TState.loading, .running, .held] → k.loadErr = some e → (∃ t, exec .fretLoad s = .next t ∧ (
    TaskIs t k.num (fun k' => k'.ending = true ∧ k'.status = .rejected ∧ k'.reason = 9 ∧ k'.faddr = k.image_ + e.2) ∧
    (∀ pf ∈ s.fretsOf k.num, (t.fret pf).st = .scrub ∧ (t.fret pf).cfg = none ∧ (t.fret pf).owner = none) ∧ (∀ x ∈ t.fab.net, x.task ≠ k.num) ∧
    ∀ p ∈ t.placementsOf k.num, p.frozen = true))) ∧
  (∀ m, k.issues = true → k.victim = none → k.loadErr = none → (s.placementsOf k.num).length < k.fld 34 2 → (s.takeCap k.fn).mapGrowth k = some m →
    (∃ t, exec .placementGrowth s = .next t ∧ ((t.placement? k.num (s.freeIdx k.num)).isSome = true ∧ t.mem = s.mem))) ∧
  (∀ v, k.victim = some v → v.action = .drain → k.st.live = true → v.since + 80000 ≤ s.clock.ns → (∃ t, exec .drainVictimExpiry s = .next t ∧ (
    TaskIs t k.num (fun k' => k' = { k with victim := none, slow := true }) ∧ t = { s with sched := t.sched })))

/-- R85, R87 to R90: a placement released; a scrub that ends; the move of a fret to another cluster, or of two elements within a fret, begun; a move
carried out. Under conditions on the state and the operands alone it says that exec answers a next state for: placementRelease, fretScrubComplete,
fretMove, fretMoveComplete. When an element is moved within its fret is open (log entry 77). -/
def Obligations.PlacementEvents : Prop := ∀ s : State,
  (∀ (task pl : Nat) k p, s.task? task = some k → s.placement? task pl = some p → p.task = task → p.idx = pl → s.releasable k p = true →
    (∃ t, exec (.placementRelease task pl) s = .next t ∧ (t.placement? task pl = none ∧ ∀ pf ∈ s.fretsIn p, (t.fret pf).st = .scrub ∧ (t.fret pf).owner = none))) ∧
  ((s.fret s.subject).st = .scrub → (s.fret s.subject).window = none → (∃ t, exec .fretScrubComplete s = .next t ∧ (
    let f := t.fret s.subject
    f.owner = none ∧ f.elems = [] ∧ f.scratch = [] ∧ f.bars = [] ∧ (s.subject < 8 → f.st = .service) ∧ (8 ≤ s.subject → f.st = .free ∨ ∃ n, f.st = .reserved n) ∧
    t.board = s.board ∧ t.sched = s.sched))) ∧
  (∀ (src dst key f : Nat) k p, (s.fret src).owner = some (key, f) → s.task? (key / 64) = some k → s.placement? (key / 64) (key % 64) = some p →
    s.mayMove k p src dst = true → (∃ t, exec (.fretMove src (.fret dst)) s = .next t ∧ (
      t.fab.moves = s.fab.moves ++ [⟨p.task, p.idx, s.movePairs p src dst, none, s.clock.ns⟩] ∧
      (∀ q ∈ s.movePairs p src dst, (t.fret q.1).st = .move ∧ (t.fret q.2).st = .move) ∧ t.mem = s.mem ∧ t.sched = s.sched ∧
      ((s.fret src).hasEngine = true → ∃ p', t.placement? p.task p.idx = some p' ∧ nsHas p'.grants (clusterOf dst) = true)))) ∧
  (∀ (src key f : Nat) (e : Nat × Nat) k p, (s.fret src).owner = some (key, f) → s.task? (key / 64) = some k →
    s.placement? (key / 64) (key % 64) = some p → s.mayMoveElem k src e = true → (∃ t, exec (.fretMove src (.elements e.1 e.2)) s = .next t ∧ (
      t.fab.moves = s.fab.moves ++ [⟨p.task, p.idx, [(src, src)], some e, s.clock.ns⟩] ∧ (t.fret src).st = .move ∧ t.mem = s.mem ∧ t.sched = s.sched))) ∧
  (∀ m p, s.fab.moves.find? (fun m => m.pairs.any (fun q => q.1 = s.subject)) = some m → s.placement? m.task m.pl = some p → s.moveReady m = true →
    (∃ t, exec .fretMoveComplete s = .next t ∧ (m ∉ t.fab.moves ∧ t.board = s.board ∧ t.sched = s.sched ∧ (m.elem = none → t.mem.posts = []) ∧
      ∀ a b, m.elem = none → m.pairs = [(a, b)] → a ≠ b → (t.fret a).st = .scrub ∧ (t.fret b).st = .live)))

/-- R63 to R65, R97 to R100: a task done; the end carried out, with its completion record, its completion line and its interrupt; a checkpoint begun,
settled, written to the `SAVE` lease, with what it releases, and timed out; a resume with what it restores; a kill begun and its drain ended. Under
conditions on the state and the operands alone it says that exec answers a next state for: taskDone, taskEnd, checkpointStart,
checkpointSettleComplete, checkpointWriteComplete, checkpointTimeout, taskResume, taskKill, killDrainComplete, killDrainTimeout. What the end of a
task gives up is the model's reading (log entry 58). -/
def Obligations.TaskEndEvents : Prop := ∀ (s : State) (k : Task), Named s k →
  let held := s.obs.dbg.haltPending || k.gang.any s.gangHeld
  (k.st = .running ∨ k.st = .saving → k.ending = false → k.freezing = false → k.reports = [] → s.allDone k = true → (∃ t, exec .taskDone s = .next t ∧ (
    TaskIs t k.num (fun k' => k'.ending = true ∧ k'.status = .done) ∧ t.mem = s.mem))) ∧
  (s.endable k = true → s.mayComplete k = true → (∀ g ∈ s.obs.meas, g.task ≠ k.num) → (∃ t, exec .taskEnd s = .next t ∧ (
    TaskIs t k.num (fun k' => k'.st = (if k.status = .rejected then .rejected else .ended) ∧ k'.ending = false ∧ k'.quota = false) ∧
    (k.pair = none → s.board.hostLoss = false → (k.status = .killed → s.mem.countedBy k.num = []) →
      let ca := k.fld 56 8 % 2 ^ 52
      let la := k.fld 64 8 % 2 ^ 52
      let noLine := k.noLine || decide (la % 8 ≠ 0) || !((s.physOf k.space la).any (fun q => q.2))
      let f : Bool := k.status = .fault
      let r : Bool := k.status = .rejected
      (∀ pa, ca % 64 = 0 → s.physOf k.space ca = some (pa, true) → pa % 64 = 0 → isHost pa = false → AtRest s (pa / 128) →
        (∀ q, s.physOf k.space la = some q → q.1 / 128 ≠ pa / 128 ∧ q.1 % 8 = 0 ∧ AtRest s (q.1 / 128)) → TaskIs t k.num (fun k' => t.readBytes pa 64 =
          leBytes 8 k.rtag.toNat ++ leBytes 1 (match k.status with | .done => 0 | .fault => 1 | .killed => 2 | .rejected => 3) ++
          leBytes 1 (if f then (k.fault.map (fun x => x.code.num)).getD 0 else 0) ++ leBytes 1 (if f || r then k.reason else 0) ++ leBytes 1 0 ++
          leBytes 2 (k'.flags.word.toNat + 2 ^ 9 * noLine.toNat) ++ leBytes 2 (min 0xFFFF k.nsave) ++ leBytes 8 k.start ++ leBytes 8 s.clock.ptpNs ++
          leBytes 8 (if f || r then k.faddr else 0) ++ leBytes 8 (if f then (k.fault.map (fun x => x.work.toNat)).getD 0 else 0) ++
          leBytes 8 (if f then k.frec else 0) ++ leBytes 8 0)) ∧
      (∀ pa, noLine = false → s.physOf k.space la = some (pa, true) → pa % 8 = 0 → isHost pa = false → AtRest s (pa / 128) → CopiesAgree s (pa / 128) →
        (∀ q, s.physOf k.space ca = some q → q.1 / 128 ≠ pa / 128 ∧ q.1 % 64 = 0 ∧ AtRest s (q.1 / 128)) →
        t.readNat pa 8 = max (s.readNat pa 8) k.cval.toNat) ∧
      (k.intr = false → t.host.msix = s.host.msix) ∧
      (k.intr = true → (s.msixVec k.fn k.vec).masked = false → t.host.msix = s.host.msix ++ [(k.fn, k.vec)]) ∧
      (k.intr = true → (s.msixVec k.fn k.vec).masked = true → nsHas (t.hostFn k.fn).pending k.vec = true))))) ∧
  (∀ v, k.victim = some v → v.action = .checkpoint → k.st = .running → k.ending = false → k.freezing = false → s.hasWindow k.num = false →
    (∀ r ∈ s.fab.recfgs, r.task ≠ k.num) → (∀ m ∈ s.fab.moves, m.task ≠ k.num) → s.allLive k.num = true → (∃ t, exec .checkpointStart s = .next t ∧ (
      TaskIs t k.num (fun k' => k'.st = .saving ∧ k'.settled = false ∧ k'.stateSince = s.clock.ns) ∧ (∀ p ∈ t.placementsOf k.num, p.frozen = true) ∧ t.mem = s.mem))) ∧
  (s.saveGoesOn k = true → k.settled = false → s.saveSettled k = true → s.traceDrained k.num = true → s.saveLate k = false →
    (∃ t, exec .checkpointSettleComplete s = .next t ∧ (TaskIs t k.num (fun k' => k'.settled = true) ∧ t.mem = s.mem))) ∧
  (s.saveGoesOn k = true → k.settled = true → s.traceDrained k.num = true → s.saveSettled k = true →
    s.vaQuiet k.space k.saveBase ((s.imageOf k).bytes k).length = true → (∃ t, exec .checkpointWriteComplete s = .next t ∧ (
      let g := s.imageOf k
      let n := (g.bytes k).length
      TaskIs t k.num (fun k' => k'.st = .saved ∧ k'.image = some g ∧ k'.nsave = k.nsave + 1 ∧ k'.victim = none ∧ k'.quota = k.quota) ∧
      (g.bytes k).take 64 = leBytes 8 k.cfgid.toNat ++ leBytes 4 1 ++ leBytes 2 (s.placementsOf k.num).length ++ leBytes 2 k.nf ++ leBytes 8 k.nextItem ++ leBytes 8 n ++
        leBytes 2 (((s.placementsOf k.num).map Placement.flags).foldl Flags.or k.flags).word.toNat ++ leBytes 30 0 ∧
      (∀ pa, pa % 128 = 0 → (∀ j < n, s.physOf k.space (k.saveBase + j) = some (pa + j, true) ∧ isHost (pa + j) = false ∧ AtRest s ((pa + j) / 128) ∧
        (pa + j) / 128 ∉ s.mem.countedBy k.num) → t.readBytes pa n = g.bytes k) ∧
      (∀ pf ∈ s.fretsOf k.num, (t.fret pf).st = .scrub ∧ (t.fret pf).owner = none) ∧ (∀ p ∈ s.placementsOf k.num, t.placement? p.task p.idx = none) ∧
      t.mem.countedBy k.num = [] ∧ t.mem.spentBy k.num = []))) ∧
  (k.st = .saving → k.ending = false → k.freezing = false → k.orderKill = false → k.settled = false → s.saveLate k = true → held = false →
    (∃ t, exec .checkpointTimeout s = .next t ∧ (TaskIs t k.num (fun k' =>
      if k.killable then k' = { k with orderKill := true } else k'.st = .running ∧ k'.victim = none) ∧ t.mem = s.mem))) ∧
  (∀ g, k.image = some g → k.st = .loading → k.ending = false → k.loadErr = none → s.placementsOf k.num ≠ [] → s.allLive k.num = true →
    s.countedQuiet k (s.rereadImage k g) = true → s.vaQuiet k.space k.saveBase (g.bytes k).length = true → held = false →
    (∃ t, exec .taskResume s = .next t ∧ (
      let r := s.rereadImage k g
      let calm := (∀ o ∈ s.unsentOf (fun x => decide (x = k.space)), o.task ≠ k.num) ∧ ∀ p ∈ r.placements, ∀ o ∈ p.wob ++ p.queue, o.unsent = false
      TaskIs t k.num (fun k' => k'.st = .running ∧ k'.image = none ∧ k'.prefHeld = []) ∧ t.mem.posts = [] ∧
      (∀ was new, was ∈ r.placements → (∀ o ∈ r.placements, o.task = k.num ∧ (o.idx = was.idx → o = was)) → s.placement? k.num was.idx = some new → calm →
        ∃ p, t.placement? k.num was.idx = some p ∧ p.threads = was.threads ∧ p.freeTags = was.freeTags ∧ p.fresh = was.fresh ∧ p.map = new.map ∧
          p.wob.map WobOp.seq = was.wob.map WobOp.seq ∧ p.frozen = false) ∧
      (∀ pl f fr was new, (pl, f, fr) ∈ r.frets → r.placements.find? (fun p => p.idx = pl) = some was → s.placement? k.num pl = some new →
        (∀ o ∈ r.placements, o.task = k.num) → (∀ v < 8, ∀ u < 8, new.physElem f v = new.physElem f u → v = u) →
        (∀ y ∈ r.frets, y ≠ (pl, f, fr) → ∀ q, s.placement? k.num y.1 = some q → q.physFret y.2.1 ≠ new.physFret f) →
        (t.fret (new.physFret f)).scratch = fr.scratch ∧ ∀ v < 8, ((t.fret (new.physFret f)).elem (new.physElem f v)).entries =
          (fr.elem (was.physElem f v)).entries.map (fun e => { e with gen := (s.fret (new.physFret f)).gen })) ∧
      (∀ x pa w, r.counted = [x] → s.physOf k.space x.va = some (pa, w) → s.mem.ldcWait = [] → calm →
        ∃ l, tget t.mem.l2 (pa / 128) = some l ∧ l.count = x.count ∧ l.data = x.data ∧ l.owner = k.num)))) ∧
  (k.toKill = true → k.st ∈ [TState.loading, .running, .held, .saving] → k.ending = false → (∃ t, exec .taskKill s = .next t ∧ (
    TaskIs t k.num (fun k' => k'.st = .killing ∧ k'.stateSince = s.clock.ns) ∧ (∀ p ∈ t.placementsOf k.num, p.frozen = true) ∧ t.mem = s.mem))) ∧
  (let killed := fun (i : Instr) => (∃ t, exec i s = .next t ∧ (TaskIs t k.num (fun k' => k'.ending = true ∧ k'.status = .killed ∧ k'.quota = false ∧ k'.flags = Flags.none)))
   k.st = .killing → k.ending = false → (s.hostFn k.fn).flr = none →
     (s.killDrained k.num = true → killed .killDrainComplete) ∧ (k.stateSince + 300000 ≤ s.clock.ns → killed .killDrainTimeout))

/-- R42 to R45, R69: a function-level reset of the PF or of a VF begins, and its drain ends; the host link is lost, the loss lasts, and the link comes
back. Under conditions on the state and the operands alone it says that exec answers a next state for: pfFlr, vfFlr, flrDrainComplete,
flrDrainTimeout, hostLinkLoss, linkLossTimeout, hostLinkRetrain. That commands not begun run on too is the model's reading (log entry 59). -/
def Obligations.FunctionResetAndLinkLossEvents : Prop := ∀ s : State,
  (s.board.hlink = true → s.board.hostLoss = false → s.board.fatal = false → s.board.phase = 8 → (s.hostFn 0).flr = none → (∃ t, exec .pfFlr s = .next t ∧ (
    t.board = { s.board with flr := true } ∧ ∀ f < 64, (t.hostFn f).flr = some ⟨s.clock.ns, true⟩))) ∧
  (s.reach s.subject = .served → 1 ≤ s.subject → (∃ t, exec .vfFlr s = .next t ∧ (
    t.board = { s.board with flr := true } ∧ (t.hostFn s.subject).flr = some ⟨s.clock.ns, false⟩ ∧ ∀ f, f ≠ s.subject → t.hostFn f = s.hostFn f))) ∧
  (let over' := fun (i : Instr) => (∃ t, exec i s = .next t ∧ ((t.hostFn s.subject).flr = none ∧ (t.hostFn s.subject).regs = [] ∧ (t.hostFn s.subject).queues = [] ∧
     (∀ e ∈ t.mem.tlb, e.va < 2 ^ 52 → 0 < e.size → e.space / 256 ≠ s.subject) ∧
     (s.subject = 0 → t.host.vfEnable = false ∧ t.host.bar2Log = 40 ∧ t.host.caps = [])))
   ∀ f, s.flrLed s.subject = some f →
     ((∀ k ∈ s.tasksOf (flrFns s.subject), s.inFlight k.num = false) → over' .flrDrainComplete) ∧ (f.start + 300000 ≤ s.clock.ns → over' .flrDrainTimeout)) ∧
  (s.board.hlink = true → s.board.hostLoss = false → (∃ t, exec .hostLinkLoss s = .next t ∧ (t.board = { s.board with
    hlink := false, hostLoss := true, alert := true, lossEvents := min 0xFFFF (s.board.lossEvents + 1), lossAt := some s.clock.ns } ∧
    ∀ r ∈ t.mem.hlc, r.2.st = .m ∨ r.2.st = .o))) ∧
  (∀ a, s.board.hostLoss = true → s.board.lossAt = some a → a + 200000000 ≤ s.clock.ns → (∃ t, exec .linkLossTimeout s = .next t ∧ (
    let n := (s.mem.hlc.filter (fun r => r.2.st = .m || r.2.st = .o)).length
    t.mem.hlc = [] ∧ t.board = { s.board with lossLines := min 0xFFFF (s.board.lossLines + n), lossAt := none } ∧ t.host.held = .loss n :: s.host.held))) ∧
  (∀ rate width : Nat, s.board.hostLoss = true → s.board.perst = false → linkFits rate width s.board.cxl = true → s.lossDue = false →
    s.subject = 32 * rate + width → (∃ t, exec .hostLinkRetrain s = .next t ∧ (
      t.board = { s.board with hlink := true, hostLoss := false, lossAt := none, linkRate := rate, linkWidth := width } ∧
      (s.host.held = [] → t.mem.hlc = [] ∧ t.host.held = []))))

/-- R104 to R106, R232: a gang's slice begins and ends; a hold arrives and freezes the gang's tasks, whose collectives stand still; a release arrives
and resumes them. Under conditions on the state and the operands alone it says that exec answers a next state for: sliceStart, sliceEnd,
gangHoldReceive, gangFreezeInstant, gangReleaseReceive, gangResumeInstant. -/
def Obligations.SliceAndGangEvents : Prop := ∀ s : State,
  let freezes := fun (gid : BitVec 32) (t : State) => nsHas t.obs.gangFrozen gid.toNat = true ∧ tget t.obs.gangHold gid.toNat = none ∧
    ∀ k, s.task? k.num = some k → k.st.live = true → k.gang.map Gang.gid = some gid →
      (∀ c ∈ t.eng.colls, c.op.task = k.num → c.heldFor.isSome = true) ∧
      (k.st = .running → k.ending = false → k.freezing = false →
        TaskIs t k.num (fun k' => k'.st = .held) ∧ ∀ p ∈ t.placementsOf k.num, p.frozen = true)
  (∀ k g, Named s k → k.gang = some g → s.sliceOpens k g = true → k.st = .admitwait → k.quota = true → (∃ t, exec .sliceStart s = .next t ∧ (
    TaskIs t k.num (fun k' => k'.st = .fretwait ∧ k'.sliceFrom = s.clock.ptpNs) ∧ t.mem = s.mem))) ∧
  (∀ k g, Named s k → k.gang = some g → s.sliceOpens k g = true → k.st = .saved → (∃ t, exec .sliceStart s = .next t ∧ (
    TaskIs t k.num (fun k' => k'.st = .reswait ∧ k'.walk = 0 ∧ k'.sliceFrom = s.clock.ptpNs) ∧ (k.image = none → t.mem = s.mem)))) ∧
  (∀ k g, Named s k → k.gang = some g → k.st = .running → k.ending = false → k.victim = none → s.gangHeld g = false → g.nextEnd k.sliceFrom ≤ s.clock.ptpNs →
    (∃ t, exec .sliceEnd s = .next t ∧ (TaskIs t k.num (fun k' => k' = { k with victim := some ⟨.checkpoint, s.clock.ns, 0⟩ }) ∧ t.mem = s.mem))) ∧
  (∀ (gid : BitVec 32) (at' : Nat), s.board.carriesData = true → s.clock.ptpNs + 200 ≤ at' → (∃ t, exec (.gangHoldReceive gid at') s = .next t ∧ (
    tget t.obs.gangHold gid.toNat = some at' ∧ t.sched = s.sched ∧ t.mem = s.mem))) ∧
  (∀ (gid : BitVec 32) (at' : Nat), s.board.carriesData = true → at' < s.clock.ptpNs + 200 → (∃ t, exec (.gangHoldReceive gid at') s = .next t ∧ (freezes gid t))) ∧
  (∀ (gid : BitVec 32) (at' : Nat), tget s.obs.gangHold gid.toNat = some at' → at' ≤ s.clock.ptpNs → (∃ t, exec (.gangFreezeInstant gid) s = .next t ∧ (freezes gid t))) ∧
  (∀ (gid : BitVec 32) (at' : Nat), s.board.carriesData = true → (∃ t, exec (.gangReleaseReceive gid at') s = .next t ∧ (
    tget t.obs.gangRelease gid.toNat = some at' ∧ t.sched = s.sched ∧ t.mem = s.mem))) ∧
  (∀ (gid : BitVec 32) (at' : Nat), tget s.obs.gangRelease gid.toNat = some at' → at' ≤ s.clock.ptpNs → nsHas s.obs.gangFrozen (gangOrigin gid) = true →
    (∃ t, exec (.gangResumeInstant gid) s = .next t ∧ (tget t.obs.gangRelease gid.toNat = none ∧ t.obs.gangFrozen = s.obs.gangFrozen ∧ t.sched = s.sched ∧ t.fab = s.fab))) ∧
  (∀ (gid : BitVec 32) (at' : Nat), tget s.obs.gangRelease gid.toNat = some at' → at' ≤ s.clock.ptpNs → nsHas s.obs.gangFrozen (gangOrigin gid) = false →
    (∃ t, exec (.gangResumeInstant gid) s = .next t ∧ (nsHas t.obs.gangFrozen gid.toNat = false ∧ tget t.obs.gangRelease gid.toNat = none ∧ t.mem = s.mem ∧
      ∀ k, s.task? k.num = some k → k.gang.map Gang.gid = some gid → k.st = .held → k.fault = none → k.ending = false →
        TaskIs t k.num (fun k' => k'.st = .running ∧ k'.sliceFrom = s.clock.ptpNs) ∧ (∀ p ∈ t.placementsOf k.num, p.frozen = false) ∧
        ∀ c ∈ t.eng.colls, c.op.task = k.num → c.heldFor = none)))

/-- R137 to R139: a reconfiguration token opens the window, flips the fret's generation and gives the map its new one; flush markers are taken from
clusters that have taken it; the record is rewritten once they are all there and no old instance can fire; a window in a fret under scrub closes.
Under conditions on the state and the operands alone it says that exec answers a next state for: reconfigurationToken, flushMarkerArrival,
reconfigRewriteComplete, reconfigScrubExpiry. When each cluster takes the new map generation is open (log entry 48). -/
def Obligations.ReconfigurationEvents : Prop := ∀ (s : State) (w : Window),
  let pf := s.subject
  let fr := s.fret pf
  (∀ p, s.frozenNow = false → fr.window = some w → s.placement? w.task w.pl = some p → w.opened = false → p.task = w.task → p.idx = w.pl → (∃ t, exec .reconfigurationToken s = .next t ∧ (
    (t.fret pf).gen = !fr.gen ∧ (t.fret pf).window = some { w with opened := true, markers := p.clusters } ∧
    t.placement? w.task w.pl = some { p with
      mapGen := if fr.gen then nsDel p.mapGen w.fret else nsAdd p.mapGen w.fret
      regen := tput p.regen w.fret s.clock.cycle } ∧ t.mem = s.mem ∧ t.sched = s.sched))) ∧
  (∀ (pf cluster : Nat), s.frozenNow = false → (s.fret pf).window = some w → w.opened = true → nsHas w.markers cluster = true →
    (∀ p, s.placement? w.task w.pl = some p → p.mapTaken w.fret cluster s.clock.cycle = true) → (∀ x ∈ s.fab.net, x.src = cluster → x.pf ≠ pf) →
    (∃ t, exec (.flushMarkerArrival pf cluster) s = .next t ∧ ((t.fret pf).window = some { w with markers := nsDel w.markers cluster } ∧
      (∀ q, q ≠ pf → t.fret q = s.fret q) ∧ t.mem = s.mem ∧ t.sched = s.sched))) ∧
  (s.frozenNow = false → fr.window = some w → w.ready = true → w.opened = true → w.markers = [] → s.awaitsReply pf (fun g => g ≠ fr.gen) = false → s.oldReady pf w = false ∨ s.faultFrozen w = true →
    (∀ r ∈ s.fab.recfgs, r.task ≠ w.task) → (∃ t, exec .reconfigRewriteComplete s = .next t ∧ (
      tget (t.fret pf).slots (32 * w.velem + w.slot) = some w.bytes ∧ (t.fret pf).window = none ∧
      (t.fret pf).rewrote = some (32 * w.velem + w.slot, s.clock.cycle) ∧ t.mem = s.mem ∧ t.sched = s.sched))) ∧
  (fr.window = some w → fr.st = .scrub → w.since + 300000 ≤ s.clock.ns ∨ s.awaitsReply pf (fun _ => true) = false → (∃ t, exec .reconfigScrubExpiry s = .next t ∧ (
    (t.fret pf).window = none ∧ (∀ q, q ≠ pf → t.fret q = s.fret q) ∧ t.mem = s.mem ∧ t.sched = s.sched)))

/-! ### Tokens, threads and waves (R74, R110, R115, R120, R121, R126 to R138, R282, R283) -/

/-- R26, R74, R110, R115, R116, R120, R121, R138, R218, R282, R283: in a frozen cycle nothing happens in a cluster; otherwise a token is dropped for
its generation, or placed in its element's store, where a full one spills the entry that R115 chooses, or the token, or faults MATCHOVF, or keeps the
token waiting; a spawn is granted the tag at the head of the list, be it fresh or returned, or refused; a work item is issued; an ended thread's tag
is on its way back, and a notice of a free tag does nothing. Under conditions on the state and the operands alone it says that exec answers a next
state for: tagUnitSpawn, workItemIssue, endtTagReturn, chainOperationArrival, wobEntryAdmit, waveCommit, earlyReadPerform, readReply, storeAck,
heldOperationIssue, invalidationReceive, forwardRecallReceive, barrierRequestServe, reconfigurationToken, reconfigRewriteComplete, tokenArrival. What
the late notice of an ended thread acts on is said in log entry 43. -/
def Obligations.TokenAndThreadEvents : Prop := ∀ s : State,
  (s.frozenNow = true → ∀ (task pl : Nat) (tag : Tag) own, ∀ i ∈ [Instr.tokenArrival, .tagUnitSpawn task pl, .workItemIssue task pl, .endtTagReturn task pl tag,
    .chainOperationArrival, .wobEntryAdmit, .waveCommit task pl tag, .earlyReadPerform task pl tag own, .readReply, .storeAck, .heldOperationIssue task pl tag,
    .invalidationReceive, .forwardRecallReceive, .barrierRequestServe, .reconfigurationToken, .reconfigRewriteComplete], ∃ r, exec i s = .refused r) ∧
  (∀ t : NetTok, s.frozenNow = false → s.fab.net[s.subject]? = some t → t.earliest ≤ s.clock.cycle →
    (∀ x ∈ s.fab.net.take s.subject, ¬(x.src = t.src ∧ x.pf = t.pf ∧ x.pelem = t.pelem)) →
    let es := (s.elem t.pf t.pelem).entries
    let gone := fun (u : State) => u.fab.net = dropAt s.fab.net s.subject ∧ u.mem = s.mem ∧ u.sched = s.sched ∧
      ∀ q, s.placement? t.task t.pl = some q → u.placement? t.task t.pl = some { q with flags := q.flags.or t.flags }
    (t.gen ≠ (s.fret t.pf).gen → (s.fret t.pf).window = none → (∃ u, exec .tokenArrival s = .next u ∧ (gone u ∧
      u = { s with fab := { s.fab with net := u.fab.net, placements := u.fab.placements } }))) ∧
    (∀ p, t.gen = (s.fret t.pf).gen → s.placement? t.task t.pl = some p →
      let f := s.fret t.pf
      let x := Entry.ofTok t (s.clock.cycle - 1) s.seqCtr false
      let probe := if es.any (fun e => e.spilled && e.slot = t.slot) then 8 else 0
      let holds := fun (es' : List Entry) => (∃ u, exec .tokenArrival s = .next u ∧ (gone u ∧ u.elem t.pf t.pelem = { s.elem t.pf t.pelem with entries := es' }))
      let overflows := fun (e : Entry) =>
        (p.charged e.tag = true → (∃ u, exec .tokenArrival s = .next u ∧ (u = s))) ∧
        (∀ th k, p.thread? e.tag = some th → th.stopped = false → th.faults = [] → s.task? t.task = some k → (∃ u, exec .tokenArrival s = .next u ∧ (
          u.fab.net = s.fab.net ∧ u.mem = s.mem ∧ ∃ q, u.placement? t.task t.pl = some q ∧ q.queue = p.queue ∧
          (e.wave = th.oldest ∨ waveCommitted e.wave th.oldest = true →
            q.thread? e.tag = some { th with stopped := true } ∧ q.wob = p.wob.filter (fun o => o.tag ≠ e.tag) ∧
            TaskIs u t.task (fun k' => ∃ r at', k' = { k with nfault := min 0x10000 (k.nfault + 1), reports := k.reports ++ [(r, at')] } ∧
              r.code = .matchovf ∧ r.kind = .notTied ∧ r.tag = e.tag ∧ r.wave = e.wave)) ∧
          (¬(e.wave = th.oldest ∨ waveCommitted e.wave th.oldest = true) → q.wob = p.wob ∧
            ∃ r, q.thread? e.tag = some { th with faults := [r] } ∧ r.code = .matchovf ∧ r.kind = .notTied ∧ r.tag = e.tag ∧ r.wave = e.wave))))
      let completes := f.whole p t.pf t.velem (es ++ [x]) x
      let cand := fun (e : Entry) => e ∈ es ∧ e.spilled = false ∧ ¬(completes = true ∧ e.mate x = true) ∧ f.whole p t.pf t.velem es e = false
      let dist := fun (e : Entry) => waveDist e.wave (p.oldest e.tag)
      let room := s.partition t.task
      ((es.filter (fun e => !e.spilled)).length < 64 → holds (es ++ [Entry.ofTok t (s.clock.cycle - 1 + probe) s.seqCtr false])) ∧
      (64 ≤ (es.filter (fun e => !e.spilled)).length → (∀ e ∈ es, e.seq < 2 ^ 64) →
        (∀ v, cand v → (∀ e, cand e → e ≠ v → dist e < dist v ∨ (dist e = dist v ∧ e.seq < v.seq)) →
          (f.spilled < room → holds (es.map (fun e => if e.seq = v.seq then { e with spilled := true } else e) ++
            [Entry.ofTok t (s.clock.cycle - 1 + (probe + 4)) s.seqCtr false])) ∧ (room ≤ f.spilled → overflows v)) ∧
        ((∀ e, ¬ cand e) → (completes = true → (∃ u, exec .tokenArrival s = .next u ∧ (u = s))) ∧
          (completes = false → f.spilled < room → holds (es ++ [Entry.ofTok t (s.clock.cycle - 1 + (probe + 4)) s.seqCtr true])) ∧
          (completes = false → room ≤ f.spilled → overflows x))))) ∧
  (∀ (task pl : Nat) p r, s.frozenNow = false → s.placement? task pl = some p → p.task = task → p.idx = pl → p.spawns = [r] → r.earliest ≤ s.clock.cycle → p.moving = [] →
    s.obs.dbg.attached = none →
    (p.fresh < 16384 → (∃ u, exec (.tagUnitSpawn task pl) s = .next u ∧ (u.placement? task pl = some { p with
        spawns := [], fresh := p.fresh + 1, threads := tput p.threads p.fresh (newThread r.work r.childOrdinal s.clock.cycle s.seqCtr) } ∧
      u.fab.net = s.fab.net ++ sentToks p (p.physFret 0) p.fresh 0 r.data s.clock.cycle (r.dests.filter (fun d => !d.side)) ∧ u.mem = s.mem ∧ u.sched = s.sched))) ∧
    (∀ g gs, 16384 ≤ p.fresh → p.freeTags = g :: gs → (∃ u, exec (.tagUnitSpawn task pl) s = .next u ∧ (u.placement? task pl = some { p with
        spawns := [], freeTags := gs, threads := tput p.threads g (newThread r.work r.childOrdinal s.clock.cycle s.seqCtr) } ∧
      u.fab.net = s.fab.net ++ sentToks p (p.physFret 0) g 0 r.data s.clock.cycle (r.dests.filter (fun d => !d.side)) ∧ u.mem = s.mem ∧ u.sched = s.sched))) ∧
    (16384 ≤ p.fresh → p.freeTags = [] → (∃ u, exec (.tagUnitSpawn task pl) s = .next u ∧ (
      u.placement? task pl = some { p with spawns := [], flags := p.flags.or Flags.SPAWNREF } ∧
      u.fab.net = s.fab.net ++ sentToks p (p.physFret 0) r.tag r.wave r.data s.clock.cycle (r.dests.filter (fun d => d.side)) ∧ u.mem = s.mem ∧ u.sched = s.sched)))) ∧
  (∀ (task pl : Nat) p k, s.frozenNow = false → s.task? task = some k → k.num = task → s.placement? task pl = some p → p.task = task → p.idx = pl → k.issues = true →
    s.nextAsker k = some pl → p.fresh < 16384 → p.moving = [] → (∃ u, exec (.workItemIssue task pl) s = .next u ∧ (
      u.task? task = some { k with nextItem := k.nextItem + 1, lastPl := pl + 1 } ∧
      u.placement? task pl = some { p with
        fresh := p.fresh + 1, threads := tput p.threads p.fresh (newThread (BitVec.ofNat 64 k.nextItem) 0 s.clock.cycle s.seqCtr) } ∧
      u.fab.net = s.fab.net ++ k.entries.flatMap (fun e => sentToks p (p.physFret 0) p.fresh 0 e.2 s.clock.cycle [e.1]) ∧ u.mem = s.mem))) ∧
  (∀ (task pl : Nat) (tag : Tag) p n, s.frozenNow = false → s.placement? task pl = some p → p.task = task → p.idx = pl → s.noticeFor task pl tag.toNat p = some n →
    (p.thread? tag.toNat = none → (∃ u, exec (.endtTagReturn task pl tag) s = .next u ∧ (u = { s with fab := { s.fab with notices := dropAt s.fab.notices n } }))) ∧
    (∀ t, p.thread? tag.toNat = some t → (∃ u, exec (.endtTagReturn task pl tag) s = .next u ∧ (
      u.placement? task pl = some { p with
        threads := tdel p.threads tag.toNat, returned := p.returned ++ [(tag.toNat, s.clock.cycle + fretLat (p.homePf tag.toNat) (p.physFret 0))] } ∧
      u.fab.notices = dropAt s.fab.notices n ∧ u.fab.net = s.fab.net ∧ u.mem = s.mem ∧
      ∀ k, s.task? task = some k → u.task? task = some (if t.ordinal = 0 then { k with ended := k.ended + 1 } else k)))))

/-- R128, R131, R132, R133, R144, R168, R329, R334: a chain operation that enters its home share with its address translated, waits at its input, is
let in later, or fails its checks of privilege, alignment and lease; and a wave's commit. Under conditions on the state and the operands alone it says
that exec answers a next state for: chainOperationArrival, wobEntryAdmit, waveCommit. What holds a commit back is the model's reading (log entries 12
and 13). -/
def Obligations.WaveEvents : Prop := ∀ s : State, s.frozenNow = false →
  let private_ := fun (o : WobOp) => isIo o.instr = true ∧ 0xFF0000000 ≤ o.ea ∧ o.ea ≤ 0xFFFFFFFFF
  let scratch := fun (o : WobOp) => 0xFFFFFFFF00000 ≤ o.ea ∧ o.ea < 2 ^ 52
  let leased := fun (k : Task) (o : WobOp) => o.ea < 2 ^ 52 ∧ (isIo o.instr = true ∨
    if scratch o then isScratchForm o.instr = true ∧ o.ea - 0xFFFFFFFF00000 + o.size ≤ k.sunits * 16384
    else k.leased o.ea (isWriteForm o.instr) = true ∧
      ∃ pa w, s.physOf k.space o.ea = some (pa, w) ∧ (isWriteForm o.instr = true → w = true) ∧ (isCountedForm o.instr = true → isHost pa = false))
  let checked := fun (o : WobOp) => o.squashed = false ∧ hasAddr o.instr = true
  let placed := fun (k : Task) (o : WobOp) (pa : Nat) (sc h : Bool) =>
    if hasAddr o.instr = false ∨ isIo o.instr = true then pa = o.ea ∧ sc = o.scratch ∧ h = o.host
    else if scratch o then pa = o.ea - 0xFFFFFFFF00000 ∧ sc = true ∧ h = o.host
    else o.squashed = true ∨ (sc = o.scratch ∧ h = isHost pa ∧ ∃ w, s.physOf k.space o.ea = some (pa, w))
  let enters := fun (i : Instr) (m : OpMsg) (r : Bool) (p : Placement) =>
    let op := fun (pa : Nat) (sc h : Bool) => { m.op with seq := s.seqCtr, reserved := r, pa := pa, scratch := sc, host := h }
    ∀ k, p.task = m.op.task → p.idx = m.op.pl → s.task? m.op.task = some k → p.chkAtEntry m.op = false →
    (checked m.op → ¬ private_ m.op ∧ m.op.ea % m.op.size = 0 ∧ leased k m.op) →
    (∀ pa sc h ops, ops = ({ p with wob := p.wob ++ [op pa sc h] } : Placement).waveOps m.op.tag m.op.wave → chainComplete ops = false ∨ chainWhole ops = true) →
    (∃ u, exec i s = .next u ∧ ((∃ q pa sc h, u.placement? m.op.task m.op.pl = some q ∧ placed k m.op pa sc h ∧ q.wob = p.wob ++ [op pa sc h] ∧ q.queue = p.queue ∧
        q.threads = p.threads ∧ (r = true → tget q.holders (p.home m.op.tag) = some (m.op.tag, m.op.wave))) ∧
      u.fab.ops = dropAt s.fab.ops s.subject ∧ u.mem = { s.mem with tlb := u.mem.tlb, ctlb := u.mem.ctlb, dtlb := u.mem.dtlb } ∧ u.sched = s.sched ∧ u.fab.net = s.fab.net))
  (∀ (m : OpMsg) p, s.fab.ops[s.subject]? = some m → m.earliest ≤ s.clock.cycle → m.waiting = false → s.placement? m.op.task m.op.pl = some p →
    let h := p.home m.op.tag
    let ws := s.shareWaiting m.op.task m.op.pl h
    (ws = [] → p.openEntry h = true → enters .chainOperationArrival m false p) ∧
    (p.openEntry h = false → p.openReserve h m.op = true → (∀ w ∈ ws, p.isOldest w.op = false) → enters .chainOperationArrival m true p) ∧
    (p.openEntry h = false → p.openReserve h m.op = false → (∃ u, exec .chainOperationArrival s = .next u ∧ (
      u = { s with seqCtr := s.seqCtr + 1, fab := { s.fab with ops := setAt s.fab.ops s.subject { m with waiting := true, seq := s.seqCtr } } }))) ∧
    (∀ t k code, ws = [] → p.openEntry h = true → p.task = m.op.task → p.idx = m.op.pl → s.task? m.op.task = some k → p.thread? m.op.tag = some t →
      t.stopped = false → t.faults = [] → m.op.wave = t.oldest → p.chkAtEntry m.op = false → checked m.op →
      (private_ m.op ∧ code = .priv) ∨ (¬ private_ m.op ∧ m.op.ea % m.op.size ≠ 0 ∧ code = .align) ∨
        (¬ private_ m.op ∧ m.op.ea % m.op.size = 0 ∧ ¬ leased k m.op ∧ code = FCode.lease) → (∃ u, exec .chainOperationArrival s = .next u ∧ (
        (∃ q, u.placement? m.op.task m.op.pl = some q ∧ q.thread? m.op.tag = some { t with stopped := true } ∧ q.wob = p.wob.filter (fun o => o.tag ≠ m.op.tag) ∧
          q.queue = p.queue) ∧
        TaskIs u m.op.task (fun k' => ∃ f at', k' = { k with nfault := min 0x10000 (k.nfault + 1), reports := k.reports ++ [(f, at')] } ∧
          f.code = code ∧ f.addr = m.op.ea ∧ f.kind = .beforeCommit ∧ f.wave = m.op.wave ∧ f.tag = m.op.tag ∧ f.time = s.clock.ptpNs))))) ∧
  (∀ (m : OpMsg) p r, s.fab.ops[s.subject]? = some m → m.waiting = true → s.placement? m.op.task m.op.pl = some p → s.admitKind m = some r →
    enters .wobEntryAdmit m r p) ∧
  (∀ (task pl : Nat) (tag : Tag) p t, s.placement? task pl = some p → p.task = task → p.idx = pl → p.thread? tag.toNat = some t → p.frozen = false →
    t.stopped = false → t.faults = [] → s.obs.dbg.attached = none → s.commitTurn task pl tag.toNat = true →
    let ops := p.waveOps tag.toNat t.oldest
    chainWhole ops = true → (∀ o ∈ earlyOf (chainOf ops), o.st = .replied) → (∃ u, exec (.waveCommit task pl tag) s = .next u ∧ (
      (∃ q, u.placement? task pl = some q ∧ q.threads = tput p.threads tag.toNat { t with oldest := (t.oldest + 1) % 2 ^ 24 } ∧
        q.wob = p.wob.filter (fun o => !(o.tag = tag.toNat && o.wave = t.oldest)) ∧
        q.queue = p.queue ++ (heldOf (chainOf ops)).map (fun o => { o with st := .committed, serial := t.serial, value := t.work }) ∧ q.flags = p.flags) ∧
      u.mem = s.mem ∧ u.sched = s.sched ∧ u.fab.net = s.fab.net ∧ u.fab.frets = s.fab.frets)))

/-- R126, R127, R128, R144, R332: an early read that the thread's stores serve whole, the pool share, or a request to the home; a reply that reaches
its early read, and one that reaches a committed operation; and a store's acknowledgement. Under conditions on the state and the operands alone it
says that exec answers a next state for: earlyReadPerform, readReply, storeAck. -/
def Obligations.ReadAndAckEvents : Prop := ∀ s : State, s.frozenNow = false →
  (∀ (task pl : Nat) (tag : Tag) own t p op bef, s.earlyReady task pl tag.toNat own = some (t, p, op, bef) → s.placement? task pl = some p → op.task = task →
    op.pl = pl → forwards op.instr = true →
    let fw := fwdOf (p.queueOf op.serial ++ bef) op
    let op' := { op with st := WState.sent, fwd := fw, gen := (s.fret (p.homePf op.tag)).gen }
    let sent := fun (u : State) => u.placement? task pl = some (p.putOp op') ∧ u.fab.net = s.fab.net ∧ u.sched = s.sched ∧ u.mem.hbm = s.mem.hbm
    (fw.length = op.size → (∃ u, exec (.earlyReadPerform task pl tag own) s = .next u ∧ (sent u ∧ u.mem.replies = s.mem.replies ++ [⟨op', 0, none, none, op'.gen⟩] ∧
      u.mem.reqs = s.mem.reqs))) ∧
    (fw.length ≠ op.size → op.scratch = true → (∃ u, exec (.earlyReadPerform task pl tag own) s = .next u ∧ (sent u ∧ u.mem.reqs = s.mem.reqs ∧
      u.mem.replies = s.mem.replies ++ [⟨op', leNat (memBytes (s.fret (p.homePf op.tag)).scratch op.pa op.size), none, none, op'.gen⟩]))) ∧
    (fw.length ≠ op.size → op.scratch = false → op.host = false → s.mem.l1At (p.homeCluster op.tag) (op.pa / 128) = none →
      (∃ u, exec (.earlyReadPerform task pl tag own) s = .next u ∧ (sent u ∧ u.mem.replies = s.mem.replies ∧ u.mem.reqs = s.mem.reqs ++
        [⟨.read (match op.instr with | .ldnt _ => true | _ => false), op', p.homeCluster op.tag, op.pa / 128, s.seqCtr⟩]))) ∧
    (∀ x, fw.length ≠ op.size → op.scratch = false → (op.host = true → s.usesHlc t.fn = true) → s.mem.l1At (p.homeCluster op.tag) (op.pa / 128) = some x →
      (p.waysIn (p.homeCluster op.tag)).any (fun f => f = x.way / 2) = true → (∃ u, exec (.earlyReadPerform task pl tag own) s = .next u ∧ (sent u ∧
        u.mem.reqs = s.mem.reqs ∧ u.mem.replies = s.mem.replies ++ [if s.poisoned (op.pa / 128) then ⟨op', 0, none, some (.uecc, op.ea / 128 * 128), op'.gen⟩
          else ⟨op', lineRead x.data (op.pa % 128) op.size, none, none, op'.gen⟩]))) ∧
    (fw.length ≠ op.size → op.scratch = false → op.host = true → s.usesHlc t.fn = false → bits (s.reg 0 0x248) 15 0 = 0 → (∃ u, exec (.earlyReadPerform task pl tag own) s = .next u ∧ (
      u.placement? task pl = some (p.putOp op') ∧ u.fab.net = s.fab.net ∧ u.mem.reqs = s.mem.reqs ∧
      (s.board.hostLoss = true → u.mem.replies = s.mem.replies ++ [⟨op', 0, none, some (.hostlink, op.ea), op'.gen⟩]) ∧
      (s.board.hostLoss = false → nsHas s.mem.hostPoison (op.pa / 128) = true →
        u.mem.replies = s.mem.replies ++ [⟨op', 0, none, some (.uecc, op.ea / 128 * 128), op'.gen⟩]) ∧
      (s.board.hostLoss = false → nsHas s.mem.hostPoison (op.pa / 128) = false → s.mem.posts = [] → tget s.mem.hlc (op.pa / 128) = none →
        u.mem.replies = s.mem.replies ++ [⟨op', leNat (memBytes s.mem.hostMem (s.hostAddr op.pa) op.size), none, none, op'.gen⟩]))))) ∧
  (∀ (r : Reply) p, s.mem.replies[s.subject]? = some r → r.install = none → r.fault = none → s.placement? r.op.task r.op.pl = some p →
    r.gen = (s.fret (p.homePf r.op.tag)).gen → p.moving = [] →
    (∀ op, p.wobOp? r.op.seq = some op → op.task = r.op.task → op.pl = r.op.pl → (∃ u, exec .readReply s = .next u ∧ (
      u.placement? op.task op.pl = some (p.putOp { op with st := .replied }) ∧
      u.fab.net = s.fab.net ++ sentToks p (p.homePf op.tag) op.tag op.wave (readResult op r.raw) s.clock.cycle op.instr.dests ∧
      u.mem = { s.mem with replies := dropAt s.mem.replies s.subject } ∧ u.sched = s.sched))) ∧
    (∀ op, p.wobOp? r.op.seq = none → p.queueOp? r.op.seq = some op → op.task = r.op.task → op.pl = r.op.pl → (∃ u, exec .readReply s = .next u ∧ (
      HeldDone s u p op (readResult op r.raw) ∧ u.mem = { s.mem with replies := dropAt s.mem.replies s.subject } ∧ u.sched = s.sched)))) ∧
  (∀ (a : Ack) p, s.mem.acks[s.subject]? = some a → a.install = none → a.fault = none → s.placement? a.op.task a.op.pl = some p →
    a.op.gen = (s.fret (p.homePf a.op.tag)).gen → p.moving = [] → (∃ u, exec .storeAck s = .next u ∧ (HeldDone s u p a.op 0 ∧
      u.mem = { s.mem with acks := dropAt s.mem.acks s.subject, posts := u.mem.posts } ∧ u.sched = s.sched ∧
      u.mem.posts.Sublist s.mem.posts ∧ (∀ x ∈ u.mem.posts, x.seq ≠ a.op.seq) ∧ ((∀ x ∈ s.mem.posts, x.seq ≠ a.op.seq) → u.mem.posts = s.mem.posts) ∧
      ∀ (i j : Nat) (y x : Post), i < j → s.mem.posts[i]? = some y → s.mem.posts[j]? = some x → x.seq = a.op.seq →
        (y.task = x.task ∧ y.serial = x.serial ∧ y.wave = x.wave) ∨ y.meets x.pa x.bytes.length = true → y ∉ u.mem.posts)))

/-- R66, R67, R128, R134, R144, R156, R331, R332, R335, R341, R342, R347, R348, R354, R385 to R391: what the issue of a committed operation does, form
by form: what is performed there and then, in the pool share, in an L1 copy, on the uncached host path or in a register, and what is sent on to a
home, a barrier or an engine; a task accepted by `launch` or `launch.disp`; a reconfiguration begun, turned down or rejected; and what is found wrong
as the operation is performed. Under conditions on the state and the operands alone it says that exec answers a next state for: heldOperationIssue,
hlcWrite. When each cluster sees an uncached host store is open (log entry 80). -/
def Obligations.HeldOperationIssue : Prop := ∀ (s : State) (task pl : Nat) (tag : Tag) t p op bef, s.frozenNow = false →
  s.heldReady task pl tag.toNat = some (t, p, op, bef) → s.placement? task pl = some p → op.task = task → op.pl = pl → p.moving = [] → s.recfgHeld t op = false →
  s.issueTurn p tag.toNat = true →
  let op' := { op with st := WState.issued, fwd := if op.early then fwdOf bef op else [], gen := (s.fret (p.homePf op.tag)).gen }
  let p' := (p.noteIssue tag.toNat s.clock.cycle).putOp op'
  let s' := (s.modPlacement task pl (fun p => p.noteIssue tag.toNat s.clock.cycle)).putOp op'
  let line := op.pa / 128
  let c := p.homeCluster op.tag
  let hlc := op.host = true ∧ s.usesHlc t.fn = true
  let uncached := op.scratch = false ∧ op.host = true ∧ s.usesHlc t.fn = false ∧ bits (s.reg 0 0x248) 15 0 = 0
  let issues := fun (P : State → Prop) => (∃ t, exec (.heldOperationIssue task pl tag) s = .next t ∧ P t)
  let ends := fun (v : Word) (P : State → Prop) => issues (fun u => HeldDone s u p op v ∧ P u)
  let done := fun (v : Word) => ends v (fun u => u.mem = s.mem ∧ u.sched = s.sched ∧ u.board = s.board ∧ u.fab.frets = s.fab.frets)
  let asks := fun (k : ReqKind) => issues (fun u => u.placement? task pl = some p' ∧ u.fab.net = s.fab.net ∧
    u.mem = { s.mem with reqs := s.mem.reqs ++ [⟨k, op', c, line, s.seqCtr⟩] } ∧ u.sched = s.sched)
  let faults := fun (code : FCode) (reason addr : Nat) => ∀ k th, s.task? task = some k → p.thread? tag.toNat = some th → th.serial = op.serial →
    th.stopped = false → th.faults = [] → issues (fun u =>
      (∃ q, u.placement? task pl = some q ∧ q.thread? tag.toNat = some { th with stopped := true } ∧ q.wob = p.wob.filter (fun o => o.tag ≠ tag.toNat) ∧
        q.queue = p.queue.filter (fun o => o.seq ≠ op.seq)) ∧ u.fab.net = s.fab.net ∧
      TaskIs u task (fun k' => ∃ f at', k' = { k with nfault := min 0x10000 (k.nfault + 1), reports := k.reports ++ [(f, at')] } ∧
        f.code = code ∧ f.reason = reason ∧ f.addr = addr ∧ f.kind = .afterCommit ∧ f.wave = op.wave ∧ f.tag = tag.toNat))
  let stores :=
    (op.scratch = true → ends 0 (fun u => u.mem = s.mem ∧ u.sched = s.sched ∧
      ∀ a, memByte (u.fret (p.homePf op.tag)).scratch a =
        (if op.pa ≤ a ∧ a < op.pa + op.size then BitVec.ofNat 8 (op.right.toNat / 2 ^ (8 * (a - op.pa))) else memByte (s.fret (p.homePf op.tag)).scratch a))) ∧
    (op.scratch = false → op.host = false → s.mem.l1At c line = none → issues (fun u => u.fab.net = s.fab.net ∧ u.sched = s.sched ∧
      u.mem = { s.mem with reqs := s.mem.reqs ++ [⟨.write, op', c, line, s.seqCtr⟩] })) ∧
    (∀ x, op.scratch = false → op.host = false → s.mem.l1At c line = some x → (p.waysIn c).any (fun f => f = x.way / 2) = true → x.st ≠ .s →
      s.storeAtHome line = false → ends 0 (fun u => u.sched = s.sched ∧
        ∃ y, u.mem.l1At c line = some y ∧ y.st = .m ∧ y.data = lineWrite x.data (op.pa % 128) op.size op.right.toNat)) ∧
    (op.scratch = false → hlc → issues (fun u => u.fab.net = s.fab.net ∧ u.sched = s.sched ∧
      u.mem = { s.mem with reqs := s.mem.reqs ++ [⟨.hlcWrite, op', c, line, s.seqCtr⟩] })) ∧
    (uncached → s.board.hostLoss = true → ends 0 (fun u => u.mem = s.mem ∧ u.sched = s.sched)) ∧
    (uncached → s.board.hostLoss = false → s.mem.migAt op.pa = none → tget s.mem.hlc line = none → issues (fun u => u.fab.net = s.fab.net ∧ u.sched = s.sched ∧
      let bs := leBytes op.size op.right.toNat
      u.mem = { s.mem with
        acks := s.mem.acks ++ [⟨op', line, none, none⟩]
        hostMem := memPutBytes s.mem.hostMem (s.hostAddr op.pa) bs
        posts := s.mem.posts ++ [⟨op.seq, task, op.serial, op.wave, op.pa, bs, memBytes s.mem.hostMem (s.hostAddr op.pa) bs.length, s.clock.cycle⟩] }))
  match op.instr with
  | .fence _ _ | .brk _ => done 0
  | .st _ | .stRel _ => stores
  | .ldc _ => asks .consume
  | .relc _ => asks .relc
  | .stc _ => (op.aux ≠ 0 → asks .establish) ∧ (op.aux = 0 → stores)
  | .fillc _ => (op.right = 0 → done 0) ∧ (op.right ≠ 0 → asks .establish)
  | .flush _ => (op.host = false → asks .atHome) ∧ (op.host = true → s.usesHlc t.fn = false → done 0) ∧ (hlc → asks .hlcWrite)
  | .waitl _ => (op.host = false → asks .atHome) ∧ (hlc → asks .hlcRead) ∧
    (uncached → s.board.hostLoss = true → tget s.mem.hlc line = none → faults .hostlink 0 op.ea) ∧
    (uncached → s.board.hostLoss = false → nsHas s.mem.hostPoison line = true → tget s.mem.hlc line = none → faults .uecc 0 op.lineVa) ∧
    (uncached → s.board.hostLoss = false → nsHas s.mem.hostPoison line = false → tget s.mem.hlc line = none → s.mem.posts = [] →
      let v := leNat (memBytes s.mem.hostMem (s.hostAddr op.pa) 8)
      (op.right.toNat ≤ v → done (BitVec.ofNat 64 v)) ∧
      (v < op.right.toNat → issues (fun u => u.placement? task pl = some p' ∧ u.fab.net = s.fab.net ∧ u.sched = s.sched ∧
        u.mem = { s.mem with waits := s.mem.waits ++ [⟨op', line, true, s.clock.ns⟩] })))
  | .barinit _ | .bararr _ | .barwait _ => issues (fun u => u.placement? task pl = some p' ∧
      (∃ e, s.clock.cycle ≤ e ∧ u.fab.barQ = s.fab.barQ ++ [⟨op', e, false, s.seqCtr⟩]) ∧ u.mem = s.mem ∧ u.fab.net = s.fab.net ∧ u.sched = s.sched)
  | .stIo _ => (inPhy op.ea = false → done 0) ∧
    (inPhy op.ea = true → ends 0 (fun u => u.mem = { s.mem with phy := u.mem.phy } ∧ u.sched = s.sched ∧
      ∀ ch, u.phy ch = if ch = phyCh op.ea then (s.phy ch).write s.clock.cycle (phyOff op.ea) op.right else s.phy ch))
  | .pref _ => (∀ va ∈ prefPages t op, ∀ q, s.physOf t.space va = some q → isHost q.1 = false) → issues (fun u =>
      u.placement? task pl = some p' ∧ u.fab.net = s.fab.net ∧ u.mem = s.mem ∧ u.sched = s.sched)
  | .swrEvsel n _ => ends 0 (fun u => u.mem = s.mem ∧ u.sched = s.sched ∧
      (op.left.toNat ≤ 511 → tget u.fab.evsel (4 * op.left.toNat + n.toNat) = some (op.right &&& 0xFFFFFFFF000100FF)) ∧
      ∀ k, k ≠ 4 * op.left.toNat + n.toNat ∨ 511 < op.left.toNat → tget u.fab.evsel k = tget s.fab.evsel k)
  | .swrEvc n _ =>
    let k := 4 * op.left.toNat + n.toNat
    ends 0 (fun u => u.mem = s.mem ∧ u.sched = s.sched ∧ u.fab.evsel = s.fab.evsel ∧
      (op.left.toNat ≤ 511 → op.left.toNat ≠ c ∨ (tgetD s.fab.evsel k 0).toNat % 256 ≠ 0x0A → tget u.fab.evc k = some (op.right &&& 0x0000FFFFFFFFFFFF)) ∧
      ∀ j, j / 4 ≠ c → j ≠ k ∨ 511 < op.left.toNat → tget u.fab.evc j = tget s.fab.evc j)
  | .swrBeat _ => ends 0 (fun u => u.mem = s.mem ∧ u.board = { s.board with beat := s.board.beat + 1, beatSince := s.clock.ns })
  | .launch _ =>
    (op.left.toNat % 256 ≠ 0 → faults .lease 0 op.left.toNat) ∧
    (∀ x, op.left.toNat % 256 = 0 → s.firstBadVa t false op.left.toNat 256 = some x → faults .lease 0 x) ∧
    (op.left.toNat % 256 = 0 → s.firstBadVa t false op.left.toNat 256 = none →
      (s.mayAccept t.fn = false → done 0x8000000000000000) ∧
      (s.mayAccept t.fn = true → s.board.hostLoss = false →
        let n := s.freeNum s.sched.lastTask 4097
        let h := s.readVa t.space op.left.toNat 256
        ends (BitVec.ofNat 64 n) (fun u => u.mem = s.mem ∧ TaskIs u n (fun k => k.hdr = h ∧ k.fn = t.fn ∧ k.asid = t.asid ∧ k.child = true ∧
          k.rtag = BitVec.ofNat 64 n ∧ k.prio = min (s.effPrio t) (field h 36 1 % 8) ∧ (k.st = .reswait ∨ (k.ending = true ∧ k.status = .rejected))))))
  | .swrQerr _ =>
    let fn := bits op.right 13 8
    let q := bits op.right 5 0
    ends 0 (fun u => u.mem = s.mem ∧ u.sched = s.sched ∧ (u.reg fn 0x010).getLsbD 0 = true ∧
      u.queue fn q = { s.queue fn q with err := BitVec.ofNat 64 (bits op.right 23 16), ctl := (s.queue fn q).ctl &&& ~~~ (1 : Word) })
  | .swrQcons _ =>
    let fn := bits op.right 13 8
    let q := bits op.right 5 0
    ends 0 (fun u => u.mem = s.mem ∧ u.sched = s.sched ∧ u.queue fn q = { s.queue fn q with cons := (s.queue fn q).cons + 1 })
  | .launchDisp _ =>
    let fn := bits op.right 13 8
    let q := bits op.right 5 0
    match s'.takeRecord fn q (s'.readBytes op.left.toNat 128) with
    | .launched s2 n => ends (BitVec.ofNat 64 n) (fun u => u.queue fn q = { s2.queue fn q with cons := (s2.queue fn q).cons + 1 } ∧ u.sched = s2.sched ∧ u.mem = s2.mem)
    | .noRoom => done 0x8000000000000000
    | .hdrAddr => ends 0x8000000000000000 (fun u => u.mem = s.mem ∧ u.sched = s.sched ∧ ((s.queue fn q).err.toNat % 256 = 0 → (u.reg fn 0x010).getLsbD 0 = true) ∧
        u.queue fn q = { s.queue fn q with err := 4, ctl := (s.queue fn q).ctl &&& ~~~ (1 : Word) })
  | .launchRecfg _ => match s'.recfgOutcome t op.left.toNat with
    | .fault code a => faults code 0 a
    | .refused r => done (BitVec.ofNat 64 (2 ^ 63 + r))
    | .rejected target _ a => issues (fun u => (∃ v, HeldDone s u p op v) ∧ u.mem = s.mem ∧
        (∀ g, s.task? target = some g → g.ending = false → TaskIs u target (fun k => k.ending = true ∧ k.status = .rejected ∧ k.reason = 9 ∧ k.faddr = a)) ∧
        ∀ g, s.task? target = some g → ∀ q ∈ s'.placementsOf target, ∀ f < g.nf, (u.fret (q.physFret f)).cfg = none)
    | .waits => True
    | .go target slots cfgid _ => issues (fun u => u.mem = s.mem ∧ (∀ g, s.task? target = some g → TaskIs u target (fun k => k.cfgid = cfgid ∧ k.st = g.st ∧ k.nf = g.nf)) ∧
        ∀ q a b rest, s'.placementsOf target = [q] → s'.placement? target q.idx = some q → slots = (a, b) :: rest →
          (s.fret (q.physFret (a / 256))).window = none → (s.fret (q.physFret (a / 256))).st ≠ .scrub →
          (u.fret (q.physFret (a / 256))).window = some ⟨target, q.idx, a / 256, a % 256 / 32, a % 32, b, false, [], 0, false⟩ ∧
          (u.fret (q.physFret (a / 256))).cfg = none ∧ (∃ r ∈ u.fab.recfgs, r.task = target ∧ r.op = op') ∧ u.fab.net = s.fab.net)
  | i => if isAtom i then
      (op.scratch = true → ends (op.acc.extend (leNat (memBytes (s.fret (p.homePf op.tag)).scratch op.pa op.size))) (fun u => u.mem = s.mem ∧
        leNat (memBytes (u.fret (p.homePf op.tag)).scratch op.pa op.size) % 2 ^ (8 * op.size) =
          ((atomNew op (leNat (memBytes (s.fret (p.homePf op.tag)).scratch op.pa op.size))).1.getD
            (leNat (memBytes (s.fret (p.homePf op.tag)).scratch op.pa op.size))) % 2 ^ (8 * op.size))) ∧
      (op.scratch = false → op.host = false → asks .atHome) ∧
      (op.scratch = false → hlc → asks .hlcWrite) ∧
      (uncached → (s.hostFn t.fn).atomicOp = false → faults .lease 0 op.ea) ∧
      (uncached → (s.hostFn t.fn).atomicOp = true → tget s.mem.hlc line = none →
        (s.board.hostLoss = true → s.mem.posts = [] → faults .hostlink 0 op.ea) ∧
        (s.board.hostLoss = false → nsHas s.mem.hostPoison line = true → s.mem.posts = [] → faults .uecc 0 op.lineVa) ∧
        (s.board.hostLoss = false → nsHas s.mem.hostPoison line = false → isHost op.pa = true → s.mem.mirror op.pa = none →
          let old := leNat (memBytes s.mem.hostMem (s.hostAddr op.pa) op.size)
          ends (op.acc.extend old) (fun u => u.sched = s.sched ∧ (∀ x ∈ u.mem.posts, x.meets op.pa op.size = false) ∧
            leNat (memBytes u.mem.hostMem (s.hostAddr op.pa) op.size) % 2 ^ (8 * op.size) = ((atomNew op old).1.getD old) % 2 ^ (8 * op.size))))
    else if isNmc i then
      (∀ code reason addr, s.nmcFault t op = some (code, reason, addr) → faults code reason addr) ∧
      (s.nmcFault t op = none → issues (fun u =>
        u.placement? task pl = some ((p.noteIssue tag.toNat s.clock.cycle).putOp { op' with pa := ((s.physOf t.space op.left.toNat).map Prod.fst).getD 0 }) ∧
        u.fab.net = s.fab.net ∧ u.mem = s.mem ∧ u.sched = s.sched))
    else isEngine i = true → issues (fun u =>
      u.placement? task pl = some p' ∧ u.fab.net = s.fab.net ∧ u.mem = s.mem ∧ u.sched = s.sched)

/-! ### The home slices and coherence (R141 to R166) -/

/-- R15, R152, R156 to R158, R164, R165, R330, R341, R342: a read or a write miss as its home finds the line (spent, poisoned, counted, in no cluster,
shared, or owned); an access performed at the home: an `atom` on a line that no cluster holds, whatever its operation, and a `cntq`; what each of the
ten operations of `atom` makes of the old value and its operands, in integers of the access's width or as the one rounded sum; and how the value read
is extended. No task is measured (R245), and the host has modified no copy of the line (R19). Under conditions on the state and the operands alone it
says that exec answers a next state for: homeReadMiss, homeWriteMiss, homePerformedAccess, atomAdd, atomMin, atomMax, atomAnd, atomOr, atomXor,
atomXchg, atomCas, atomInc, atomFadd. -/
def Obligations.HomeEvents : Prop := ∀ (s : State) (r : Req), s.servable s.subject = some r →
  let rest := s.mem.reqs.filter (fun q => q.seq ≠ r.seq)
  let said := fun (x : Reply) => { s.mem with reqs := rest, replies := s.mem.replies ++ [x] }
  let counted := fun (u : State) => u.fab = { s.fab with evc := u.fab.evc } ∧ (r.op.early = false → u.fab = s.fab)
  let replies := fun (i : Instr) (x : Reply) => (∃ u, exec i s = .next u ∧ (u = { s with mem := said x, fab := u.fab } ∧ counted u))
  let fails := fun (i : Instr) (code : FCode) (a : Nat) => (∃ u, exec i s = .next u ∧ (u = { s with mem := said ⟨r.op, 0, none, some (code, a), r.op.gen⟩ }))
  let begins := fun (i : Instr) (ms : List CohMsg) => (∃ u, exec i s = .next u ∧ (u = { s with seqCtr := s.seqCtr + 1, mem := { s.mem with
    reqs := rest, txns := s.mem.txns ++ [⟨s.seqCtr, r.line, r, ms.length⟩], msgs := s.mem.msgs ++ ms } }))
  let wall := fun (d : Line) => lineRead d (r.op.pa % 128) r.op.size
  (∀ nt, r.kind = .read nt →
    (s.mem.isSpent r.line = true → fails .homeReadMiss .overread r.op.ea) ∧
    (s.mem.isSpent r.line = false → s.poisoned r.line = true → (∃ u, exec .homeReadMiss s = .next u ∧ (
      u = { s with mem := { said ⟨r.op, 0, none, some (.uecc, r.op.ea / 128 * 128), r.op.gen⟩ with
        flaws := u.mem.flaws, corrected := u.mem.corrected, poison := u.mem.poison } } ∧ nsHas u.mem.poison r.line = true))) ∧
    (s.mem.isSpent r.line = false → s.poisoned r.line = false → s.busy r.line = true → (∃ u, exec .homeReadMiss s = .next u ∧ (
      u = { s with fab := u.fab, mem := { said ⟨r.op, wall (s.mem.hbmLine r.line), none, none, r.op.gen⟩ with
        flaws := u.mem.flaws, corrected := u.mem.corrected } } ∧ counted u))) ∧
    (∀ x, tget s.mem.l2 r.line = some x → s.mem.isSpent r.line = false → s.poisoned r.line = false → s.busy r.line = false → tget s.mem.hdmMod r.line = none →
      let given := fun (st : L1St) (d : Dir) => (∃ u, exec .homeReadMiss s = .next u ∧ (
        u.mem.replies = s.mem.replies ++ [⟨r.op, wall x.data, some (r.line, st, x.data), none, r.op.gen⟩] ∧
        tget u.mem.l2 r.line = some { x with dir := d, used := s.seqCtr } ∧ (∀ l, l ≠ r.line → tget u.mem.l2 l = tget s.mem.l2 l) ∧
        u.mem.reqs = rest ∧ u.mem.l1 = s.mem.l1 ∧ u.mem.hbm = s.mem.hbm ∧ counted u ∧ u.sched = s.sched))
      (x.count ≠ 0 → replies .homeReadMiss ⟨r.op, wall x.data, none, none, r.op.gen⟩) ∧
      (x.count = 0 → nt = false → x.dir = .i → s.mem.migAt (128 * r.line) = none → nsHas s.mem.hdm r.line = false → given .e (.e r.cluster)) ∧
      (x.count = 0 → nt = false → ∀ ps, x.dir = .sp ps → given .s ((Dir.sp ps).share r.cluster)) ∧
      (x.count = 0 → ∀ y, x.dir = .e y → y ≠ r.cluster → begins .homeReadMiss [.forward s.seqCtr r.line y]))) ∧
  (r.kind = .write →
    (s.mem.isSpent r.line = true → (∃ u, exec .homeWriteMiss s = .next u ∧ (u = { s with mem := { s.mem with
      reqs := rest, acks := s.mem.acks ++ [⟨r.op, r.line, none, some (.overread, r.op.ea)⟩] } }))) ∧
    (∀ x, tget s.mem.l2 r.line = some x → s.mem.isSpent r.line = false → tget s.mem.hdmMod r.line = none →
      (s.storeAtHome r.line = false → x.dir = .i ∨ x.dir = .sp [r.cluster] → s.obs.meas = [] → (∃ u, exec .homeWriteMiss s = .next u ∧ (
        u.mem.acks = s.mem.acks ++ [⟨r.op, r.line, some x.data, none⟩] ∧ tget u.mem.l2 r.line = some { x with dir := .e r.cluster, used := s.seqCtr } ∧
        u.mem.reqs = rest ∧ u.mem.l1 = s.mem.l1 ∧ u.mem.hbm = s.mem.hbm ∧ u.fab = s.fab ∧ u.sched = s.sched))) ∧
      (∀ ps, x.dir = .sp ps → let others := ps.filter (fun c => s.storeAtHome r.line || c ≠ r.cluster)
        others ≠ [] → begins .homeWriteMiss (others.map (.inval s.seqCtr r.line))) ∧
      (∀ y, x.dir = .e y → begins .homeWriteMiss [.recall s.seqCtr r.line y]))) ∧
  (r.kind = .atHome →
    (s.mem.isSpent r.line = true → fails .homePerformedAccess .overread r.op.ea) ∧
    (∀ x, tget s.mem.l2 r.line = some x → x.dir = .i → s.mem.isSpent r.line = false →
      (isAtom r.op.instr = true → s.poisoned r.line = false → s.busy r.line = false → s.obs.meas = [] → r.op.pa / 128 = r.line → isHost r.op.pa = false →
        isHost (128 * r.line) = false → tget s.mem.hdmMod r.line = none → s.mem.inFlight r.line = none → s.mem.mirror r.op.pa = none → (∃ u, exec .homePerformedAccess s = .next u ∧ (
          let old := wall (s.mem.value r.line)
          ⟨r.op, old, none, none, r.op.gen⟩ ∈ u.mem.replies ∧
          u.mem.value r.line = (match (atomNew r.op old).1 with
            | some v => lineWrite (s.mem.value r.line) (r.op.pa % 128) r.op.size v
            | none => s.mem.value r.line) ∧
          (∀ p, s.placement? r.op.task r.op.pl = some p → ∃ q, u.placement? r.op.task r.op.pl = some q ∧ q.flags = p.flags.or (atomNew r.op old).2) ∧
          u.sched = s.sched)))) ∧
    (∀ f, r.op.instr = .cntq f → s.mem.isSpent r.line = false → replies .homePerformedAccess ⟨r.op, s.mem.countAt r.line, none, none, r.op.gen⟩)) ∧
  (let w := 8 * r.op.size
   let x := r.op.right.toNat % 2 ^ w
   let e := r.op.aux.toNat % 2 ^ w
   let signed := fun (v : Nat) => if r.op.acc.signed = true ∧ 2 ^ (w - 1) ≤ v then (v : Int) - 2 ^ w else (v : Int)
   let lesser := fun (a b : Nat) => if signed a < signed b then a else b
   let greater := fun (a b : Nat) => if signed a < signed b then b else a
   ∀ old < 2 ^ w, r.op.acc.extend old = BitVec.ofInt 64 (signed old) ∧
     let makes := fun (v : Nat) => atomNew r.op old = (some v, Flags.none)
     let sums := fun (F : Fmt) (q : Nat × Flags) =>
       if (F.unpack old).isNan || (F.unpack x).isNan then NanResult F [F.unpack old, F.unpack x] q
       else SumResult F .rne false 0 [F.unpack old, F.unpack x] q
     match r.op.instr with
     | .atomAdd _ => makes ((old + x) % 2 ^ w)
     | .atomMin _ => makes (lesser old x)
     | .atomMax _ => makes (greater old x)
     | .atomAnd _ => makes (old &&& x)
     | .atomOr _ => makes (old ||| x)
     | .atomXor _ => makes (old ^^^ x)
     | .atomXchg _ => makes x
     | .atomCas _ => (old = e → makes x) ∧ (old ≠ e → atomNew r.op old = (none, Flags.none))
     | .atomInc _ => makes ((old + 1) % 2 ^ w)
     | .atomFadd _ => ∃ v fl, atomNew r.op old = (some v, fl) ∧ (r.op.size = 4 → sums fmtF32 (v, fl)) ∧ (r.op.size = 8 → sums fmtF64 (v, fl))
     | _ => True)

/-- R162 to R166, R335 to R338: a counted line established, raised, or turned away; a consuming read of a counted line, of its last count, of a spent
line, and one that waits; and a `relc` over a range. No task is measured (R245). Under conditions on the state and the operands alone it says that
exec answers a next state for: countedEstablishment, consumingRead, relcScan. That a poisoned line keeps its count is the model's reading (log entry
44). -/
def Obligations.CountedLineEvents : Prop := ∀ s : State,
  (∀ r, s.servable s.subject = some r →
    let rest := s.mem.reqs.filter (fun q => q.seq ≠ r.seq)
    let fails := fun (i : Instr) (code : FCode) (a : Nat) => (∃ u, exec i s = .next u ∧ (
      u = { s with mem := { s.mem with reqs := rest, replies := s.mem.replies ++ [⟨r.op, 0, none, some (code, a), r.op.gen⟩] } }))
    let flagged := fun (u : State) (fl : Flags) => ∀ p, s.placement? r.op.task r.op.pl = some p →
      ∃ q, u.placement? r.op.task r.op.pl = some q ∧ q.flags = p.flags.or fl
    (∀ f, r.kind = .establish → r.op.instr = .fillc f → s.mem.migAt (128 * r.line) = none → s.busy r.line = false → s.obs.meas = [] →
      s.mem.dirOf r.line = .i → (∀ q ∈ s.mem.ldcWait, q.line ≠ r.line) →
      let big := decide (4095 < r.op.right.toNat)
      let turned := fun (code : FCode) (a : Nat) => (∃ u, exec .countedEstablishment s = .next u ∧ (
        u.mem = { s.mem with reqs := rest, replies := s.mem.replies ++ [⟨r.op, 0, none, some (code, a), r.op.gen⟩] } ∧ u.sched = s.sched ∧ flagged u (Flags.when big Flags.SAT)))
      (s.estPlace r = none → fails .countedEstablishment .lease r.op.ea) ∧
      (s.estPlace r = some r.op.pa → isHost r.op.pa = false →
        (s.mem.countAt r.line = 0 → s.noRoomToCount r = true → turned .countquota r.op.ea) ∧
        (s.mem.countAt r.line ≠ 0 ∨ s.noRoomToCount r = false → s.mem.isSpent r.line = true → turned .overread r.op.ea) ∧
        (∀ x, s.mem.isSpent r.line = false → tget s.mem.l2 r.line = some x → x.count ≠ 0 → (∃ u, exec .countedEstablishment s = .next u ∧ (
          tget u.mem.l2 r.line = some { x with count := min 4095 (x.count + min 4095 r.op.right.toNat) } ∧
          (⟨r.op, 0, none, none, r.op.gen⟩ : Reply) ∈ u.mem.replies ∧ u.mem.hbm = s.mem.hbm ∧
          flagged u (Flags.when (big || decide (4095 < x.count + min 4095 r.op.right.toNat)) Flags.SAT)))) ∧
        (∀ k, s.mem.isSpent r.line = false → s.mem.countAt r.line = 0 → s.noRoomToCount r = false → s.task? r.op.task = some k →
          (∃ u, exec .countedEstablishment s = .next u ∧ (
            (∃ y, tget u.mem.l2 r.line = some y ∧ y.count = min 4095 r.op.right.toNat ∧ y.owner = r.op.task ∧ y.space = k.space ∧ y.va = r.op.ea / 128 * 128 ∧
              y.dirty = true ∧ ∀ x, tget s.mem.l2 r.line = some x → x.dirty = true → s.mem.l1Of r.line = [] → tget s.mem.hdmMod r.line = none → y.data = x.data) ∧
            u.mem.l1Of r.line = [] ∧ (⟨r.op, 0, none, none, r.op.gen⟩ : Reply) ∈ u.mem.replies ∧ flagged u (Flags.when big Flags.SAT)))))) ∧
    (r.kind = .consume →
      (s.mem.isSpent r.line = true → fails .consumingRead .overread r.op.ea) ∧
      (∀ x, s.mem.isSpent r.line = false → tget s.mem.l2 r.line = some x → x.count ≠ 0 →
        (s.poisoned r.line = true → fails .consumingRead .uecc (r.op.ea / 128 * 128)) ∧
        (s.poisoned r.line = false → (∃ u, exec .consumingRead s = .next u ∧ (
          (⟨r.op, lineRead x.data (r.op.pa % 128) r.op.size, none, none, r.op.gen⟩ : Reply) ∈ u.mem.replies ∧ u.mem.reqs = rest ∧ u.mem.hbm = s.mem.hbm ∧
          (if x.count = 1 then tget u.mem.l2 r.line = none ∧ tget u.mem.spent r.line = some ⟨x.owner, x.space, x.va⟩
            else tget u.mem.l2 r.line = some { x with count := x.count - 1 } ∧ u.mem.spent = s.mem.spent) ∧
          (∀ l, l ≠ r.line → tget u.mem.l2 l = tget s.mem.l2 l ∧ tget u.mem.spent l = tget s.mem.spent l))))) ∧
      (s.mem.isSpent r.line = false → s.mem.counted r.line = false → (∃ u, exec .consumingRead s = .next u ∧ (
        u = { s with mem := { s.mem with reqs := rest, ldcWait := s.mem.ldcWait ++ [r] } }))))) ∧
  (∀ r t, s.mem.reqs[s.subject]? = some r → r.kind = .relc → s.task? r.op.task = some t → s.obs.meas = [] →
    (∀ l ∈ s.mem.countedOf t.space, ∀ x ∈ s.mem.txns, x.line ≠ l) →
    let rest := s.mem.reqs.filter (fun q => q.seq ≠ r.seq)
    let n := r.op.right.toNat
    let lo := r.op.ea / 128 * 128
    let answers := fun (v : Nat) (f : Option (FCode × Nat)) => (∃ u, exec .relcScan s = .next u ∧ (
      u.mem = { s.mem with reqs := rest, replies := s.mem.replies ++ [⟨r.op, v, none, f, r.op.gen⟩] } ∧ u.sched = s.sched ∧
      u.fab.placements = s.fab.placements))
    (n = 0 → answers 0 none) ∧
    (n ≠ 0 → 2 ^ 52 < r.op.ea + n → answers 0 (some (.lease, r.op.ea))) ∧
    (∀ a, n ≠ 0 → r.op.ea + n ≤ 2 ^ 52 → s.firstBadVa t true lo ((r.op.ea + n + 127) / 128 * 128 - lo) = some a → answers 0 (some (.lease, a))) ∧
    (n ≠ 0 → r.op.ea + n ≤ 2 ^ 52 → s.firstBadVa t true lo ((r.op.ea + n + 127) / 128 * 128 - lo) = none →
      let cs := s.linesInRange t r.op.ea n (s.mem.countedOf t.space)
      let ms := s.linesInRange t r.op.ea n (s.mem.spentOf t.space)
      (∃ u, exec .relcScan s = .next u ∧ (
        u.mem.replies = s.mem.replies ++ [⟨r.op, cs.length + 2 ^ 32 * ms.length, none, none, r.op.gen⟩] ∧ u.mem.reqs = rest ∧ u.mem.hbm = s.mem.hbm ∧
        (∀ l x, tget s.mem.l2 l = some x → tget u.mem.l2 l = some (if l ∈ cs then { x with count := 0, dirty := true } else x)) ∧
        (∀ l, tget u.mem.spent l = if l ∈ ms then none else tget s.mem.spent l) ∧
        ∀ p, s.placement? r.op.task r.op.pl = some p → ∃ q, u.placement? r.op.task r.op.pl = some q ∧
          q.flags = p.flags.or (Flags.when (!cs.isEmpty) Flags.UNDERREAD)))))

/-- R152, R153, R155: what a clean eviction notice, a dirty write-back, an invalidation, a forward or recall, and an acknowledgement do; and the
host-line cache: a cluster's read of a line that it holds or not, a write, and what the host asks for or takes away. Under conditions on the state and
the operands alone it says that exec answers a next state for: cleanEvictionNotice, dirtyWriteBack, invalidationReceive, forwardRecallReceive,
ackReceive, hlcClusterRead, hlcWrite, hostSnoopData, hostSnoopInvalidate. That a notice is ignored during a transaction is the model's reading (log
entry 45). -/
def Obligations.CoherenceEvents : Prop := ∀ (s : State) (line c : Nat),
  let msgs := dropAt s.mem.msgs s.subject
  let is := fun (m : CohMsg) => s.mem.msgs[s.subject]? = some m
  (is (.evict line c) → isHost (128 * line) = false → (∀ x ∈ s.mem.txns, x.line ≠ line) → ∀ x, tget s.mem.l2 line = some x → (∃ u, exec .cleanEvictionNotice s = .next u ∧ (
    tget u.mem.l2 line = some { x with dir := (match x.dir with
      | .sp ps => if ps.filter (fun p => p ≠ c) = [] then .i else .sp (ps.filter (fun p => p ≠ c))
      | .e y => if y = c then .i else .e y
      | d => d) } ∧ (∀ l, l ≠ line → tget u.mem.l2 l = tget s.mem.l2 l) ∧ u.mem.msgs = msgs ∧ u.mem.l1 = s.mem.l1 ∧ u.fab = s.fab))) ∧
  (is (.evict line c) → isHost (128 * line) = false → (∃ x ∈ s.mem.txns, x.line = line) → (∃ u, exec .cleanEvictionNotice s = .next u ∧ (
    u = { s with mem := { s.mem with msgs := msgs } }))) ∧
  (∀ d x, is (.writeBack line c d) → tget s.mem.l2 line = some x → s.mem.waits = [] → (∃ u, exec .dirtyWriteBack s = .next u ∧ (
    tget u.mem.l2 line = some { x with data := d, dirty := true, dir := if s.mem.txns.any (fun t => t.line = line) then x.dir else .i } ∧
    (∀ l, l ≠ line → tget u.mem.l2 l = tget s.mem.l2 l) ∧ u.mem.msgs = msgs ∧ u.mem.l1 = s.mem.l1 ∧ u.fab = s.fab))) ∧
  (let gone := fun (i : Instr) (id : Nat) => (∃ u, exec i s = .next u ∧ (u.mem.l1At c line = none ∧
      (∀ k l, (k, l) ≠ (c, line) → u.mem.l1At k l = s.mem.l1At k l) ∧
      u.mem.msgs = msgs ++ [.ack id line c ((s.mem.l1At c line).bind (fun x => if x.st = .m then some x.data else none))] ∧ u.mem.l2 = s.mem.l2 ∧ u.sched = s.sched))
   s.grantPending c line = false → s.frozenNow = false →
   (∀ id, is (.inval id line c) → gone .invalidationReceive id) ∧
   (∀ id, is (.recall id line c) → gone .forwardRecallReceive id) ∧
   (∀ id, is (.forward id line c) → (∃ u, exec .forwardRecallReceive s = .next u ∧ (
      u.mem.l1At c line = (s.mem.l1At c line).map (fun x => { x with st := .s }) ∧ (∀ k l, (k, l) ≠ (c, line) → u.mem.l1At k l = s.mem.l1At k l) ∧
      u.mem.msgs = msgs ++ [.ack id line c ((s.mem.l1At c line).bind (fun x => if x.st = .m then some x.data else none))] ∧ u.mem.l2 = s.mem.l2 ∧ u.sched = s.sched)))) ∧
  (∀ id d t x, is (.ack id line c d) → (∀ m ∈ s.mem.msgs.take s.subject, (∀ l k, m = .evict l k → (l, k) ≠ (line, c)) ∧ ∀ l k e, m = .writeBack l k e → (l, k) ≠ (line, c)) →
    s.mem.txns.find? (fun t => t.id = id) = some t → t.line = line → t.req.line = line → tget s.mem.l2 line = some x →
    let data := d.getD x.data
    (1 < t.awaited → (∃ u, exec .ackReceive s = .next u ∧ (
      tget u.mem.l2 line = some { x with data := data, dirty := x.dirty || d.isSome } ∧ u.mem.msgs = msgs ∧
      u.mem.txns = s.mem.txns.map (fun y => if y.id = id then { y with awaited := y.awaited - 1 } else y) ∧ u.mem.replies = s.mem.replies ∧ u.mem.acks = s.mem.acks))) ∧
    (t.awaited ≤ 1 → t.req.kind = .read false → (∃ u, exec .ackReceive s = .next u ∧ (
      tget u.mem.l2 line = some { x with data := data, dirty := x.dirty || d.isSome, dir := x.dir.share t.req.cluster } ∧ u.mem.msgs = msgs ∧
      u.mem.txns = s.mem.txns.filter (fun y => y.id ≠ id) ∧
      u.mem.replies = s.mem.replies ++ [⟨t.req.op, lineRead data (t.req.op.pa % 128) t.req.op.size, some (line, .s, data), none, t.req.op.gen⟩]))) ∧
    (t.awaited ≤ 1 → t.req.kind = .write → s.storeAtHome line = false → s.obs.meas = [] → tget s.mem.hdmMod line = none → (∃ u, exec .ackReceive s = .next u ∧ (
      tget u.mem.l2 line = some { x with data := data, dirty := x.dirty || d.isSome, dir := .e t.req.cluster, used := s.seqCtr } ∧ u.mem.msgs = msgs ∧
      u.mem.txns = s.mem.txns.filter (fun y => y.id ≠ id) ∧ u.mem.acks = s.mem.acks ++ [⟨t.req.op, line, some data, none⟩])))) ∧
  (∀ n exclusive r, s.servable n = some r → r.kind = .hlcRead →
    let rest := s.mem.reqs.filter (fun q => q.seq ≠ r.seq)
    (s.board.hostLoss = true → (∃ u, exec (.hlcClusterRead n exclusive) s = .next u ∧ (u = { s with mem := { s.mem with
      reqs := rest, replies := s.mem.replies ++ [⟨r.op, 0, none, some (.hostlink, r.op.ea), r.op.gen⟩] } }))) ∧
    (∀ f h, s.board.hostLoss = false → nsHas s.mem.hostPoison r.line = false → r.op.instr = .ld f → tget s.mem.hlc r.line = some h →
      (∃ u, exec (.hlcClusterRead n exclusive) s = .next u ∧ (
        tget u.mem.hlc r.line = some { h with st := if h.st = .m then .o else h.st, dir := h.dir.share r.cluster } ∧ u.mem.reqs = rest ∧ u.mem.hostMem = s.mem.hostMem ∧
        u.mem.replies = s.mem.replies ++ [⟨r.op, lineRead h.data (r.op.pa % 128) r.op.size, some (r.line, .s, h.data), none, r.op.gen⟩]))) ∧
    (∀ f, s.board.hostLoss = false → nsHas s.mem.hostPoison r.line = false → r.op.instr = .ld f → tget s.mem.hlc r.line = none → s.mem.hlc.length < 16 →
      (∃ u, exec (.hlcClusterRead n exclusive) s = .next u ∧ (let d := bytesLine (memBytes s.mem.hostMem (s.hostAddr (128 * r.line)) 128)
        tget u.mem.hlc r.line = some ⟨if exclusive then .e else .s, d, Dir.share r.cluster .i⟩ ∧ u.mem.reqs = rest ∧ u.mem.hostMem = s.mem.hostMem ∧
        u.mem.replies = s.mem.replies ++ [⟨r.op, lineRead d (r.op.pa % 128) r.op.size, some (r.line, .s, d), none, r.op.gen⟩])))) ∧
  (∀ r f, s.servable s.subject = some r → r.kind = .hlcWrite → r.op.instr = .flush f → s.mem.settled r.line = true → s.board.hostLoss = true → (∃ u, exec .hlcWrite s = .next u ∧ (
    u.mem = { s.mem with
      reqs := s.mem.reqs.filter (fun q => q.seq ≠ r.seq), replies := s.mem.replies ++ [⟨r.op, 0, none, none, r.op.gen⟩] } ∧ u.sched = s.sched))) ∧
  (∀ r f, s.servable s.subject = some r → r.kind = .hlcWrite → r.op.instr = .st f → s.mem.settled r.line = true → r.op.pa / 128 = r.line → isHost r.op.pa = true →
    (s.board.hostLoss = true → (∃ u, exec .hlcWrite s = .next u ∧ (u.mem = { s.mem with
      reqs := s.mem.reqs.filter (fun q => q.seq ≠ r.seq), acks := s.mem.acks ++ [⟨r.op, r.line, none, none⟩] } ∧ u.sched = s.sched))) ∧
    (s.board.hostLoss = false → s.board.cxl = true → s.mem.mirror r.op.pa = none → (tget s.mem.hlc r.line).isSome = true → (∃ u, exec .hlcWrite s = .next u ∧ (
      tget u.mem.hlc r.line = some ⟨.m, lineWrite (s.hostLine r.line) (r.op.pa % 128) r.op.size r.op.right.toNat, .i⟩ ∧ u.mem.l1Of r.line = [] ∧
      u.mem.acks = s.mem.acks ++ [⟨r.op, r.line, none, none⟩] ∧ u.mem.hostMem = s.mem.hostMem)))) ∧
  (s.board.cxl = true → s.board.hostLoss = false → s.mem.settled s.subject = true → s.mem.waits = [] →
    let line := s.subject
    (tget s.mem.hlc line = none → (∃ u, exec .hostSnoopData s = .next u ∧ (u = s)) ∧ (∃ u, exec .hostSnoopInvalidate s = .next u ∧ (u = s))) ∧
    (∀ x, tget s.mem.hlc line = some x →
      let told := fun (u : State) => u.host.replies = (if x.st = .m ∨ x.st = .o then s.host.replies ++ [.data (lineBytes x.data)] else s.host.replies) ∧
        (x.st ≠ .m → x.st ≠ .o → u.mem.hostMem = s.mem.hostMem)
      (∃ u, exec .hostSnoopData s = .next u ∧ (tget u.mem.hlc line = some { x with st := .s } ∧ u.mem.l1 = s.mem.l1 ∧ told u)) ∧
      (∃ u, exec .hostSnoopInvalidate s = .next u ∧ (tget u.mem.hlc line = none ∧ u.mem.l1Of line = [] ∧ told u))))

/-! ### Barriers, waits and prefetches (R134, R346, R348 to R352) -/

/-- R346, R348, R349 to R352: the three barrier forms at an invalid word, at a level barrier, at one in use, and in the ordinary case; a phase that
ends and the wait that it satisfies; a wait that finds no entry free and is sent again; polled line waits; and a prefetch that completes, of a task
that runs or of one in RESWAIT (R99). Under conditions on the state and the operands alone it says that exec answers a next state for:
barrierRequestServe, barwaitResend, waitlSlicePoll, waitlHostPoll, prefComplete. The status of an invalid word carries PHASE 0 by the model's reading
(log entry 20). -/
def Obligations.WaitAndBarrierEvents : Prop := ∀ s : State,
  (∀ (m : OpMsg) t p, let op := m.op
    s.frozenNow = false → s.fab.barQ[s.subject]? = some m → m.earliest ≤ s.clock.cycle → s.task? op.task = some t → t.num = op.task → s.placement? op.task op.pl = some p → p.moving = [] →
    let bar := barrierOf t op.pl p.nf op.left
    s.firstForBarrier s.subject m (bar.map (fun b => (op.task, b.1, b.2.1))) = true →
    let serves := fun (P : State → Prop) => (∃ u, exec .barrierRequestServe s = .next u ∧ (
      u.fab.barQ = dropAt s.fab.barQ s.subject ∧ u.mem = s.mem ∧ u.sched = s.sched ∧ P u))
    let done := fun (v : Nat) (P : State → Prop) => serves (fun u => HeldDone s u p op (BitVec.ofNat 64 v) ∧ P u)
    let same := fun (u : State) => u.fab.frets = s.fab.frets
    ((∃ f, op.instr = .barinit f ∨ op.instr = .bararr f ∨ op.instr = .barwait f) → bar = none → done (2 ^ 63) same) ∧
    (∀ pl n level, bar = some (pl, n, level) →
      let b := s.barrier op.task pl n
      let sets := fun (b' : Barrier) (u : State) => u.barrier op.task pl n = b'
      (∀ f, op.instr = .barinit f →
        (level = true ∨ op.left.getLsbD 20 = true ∨ b.arrived ≠ 0 ∨ b.waiters ≠ [] → done (2 ^ 63 + b.phase % 2 ^ 32) same) ∧
        (level = false → op.left.getLsbD 20 = false → b.arrived = 0 → b.waiters = [] →
          done (b.phase % 2 ^ 32) (sets { b with expect := op.right.toNat, arrived := 0 }))) ∧
      (∀ f, op.instr = .bararr f →
        (b.expect = 0 → done (2 ^ 63) same) ∧
        (b.expect ≠ 0 → (b.arrived + 1) % 2 ^ 64 ≠ b.expect → done (b.phase % 2 ^ 32) (sets { b with arrived := (b.arrived + 1) % 2 ^ 64 })) ∧
        (b.expect ≠ 0 → (b.arrived + 1) % 2 ^ 64 = b.expect →
          let next := { b with arrived := 0, phase := (b.phase + 1) % 2 ^ 32, waiters := [] }
          (b.waiters = [] → done (b.phase % 2 ^ 32) (sets next)) ∧
          (∀ w, b.waiters = [w] → w.task = op.task → w.pl = op.pl → serves (fun u => sets next u ∧
            u.fab.net = s.fab.net ++ sentToks p (p.homePf w.tag) w.tag w.wave (BitVec.ofNat 64 ((b.phase + 1) % 2 ^ 32)) s.clock.cycle w.instr.dests ++
              sentToks p (p.homePf op.tag) op.tag op.wave (BitVec.ofNat 64 (b.phase % 2 ^ 32)) s.clock.cycle op.instr.dests)))) ∧
      (∀ f, op.instr = .barwait f →
        (b.expect = 0 → done (2 ^ 63) same) ∧
        (b.expect ≠ 0 → b.phase ≠ op.right.toNat % 2 ^ 32 → done (b.phase % 2 ^ 32) same) ∧
        (b.expect ≠ 0 → b.phase = op.right.toNat % 2 ^ 32 →
          if (s.fret (s.barPf op.task pl n)).waitCount < 64 then
            serves (fun u => sets { b with waiters := b.waiters ++ [op] } u ∧ u.fab.net = s.fab.net ∧ u.placement? op.task op.pl = some p)
          else serves (fun u => same u ∧ u.fab.net = s.fab.net ∧
            u.placement? op.task op.pl = some (p.putOp { op with st := .sent, value := BitVec.ofNat 64 s.clock.cycle })))))) ∧
  (∀ op, s.frozenNow = false → s.turnedAway s.subject = some op → (s.task? op.task).isSome = true → (s.placement? op.task op.pl).isSome = true →
    op.value.toNat + 64 ≤ s.clock.cycle → (∃ u, exec .barwaitResend s = .next u ∧ (
    (∃ e, s.clock.cycle ≤ e ∧ u.fab.barQ = s.fab.barQ ++ [⟨{ op with st := .issued }, e, false, s.seqCtr⟩]) ∧ u.fab.frets = s.fab.frets ∧ u.fab.net = s.fab.net ∧ u.mem = s.mem ∧ u.sched = s.sched))) ∧
  (∀ w, s.mem.waits = [w] → w.polled = true → isHost (128 * w.place) = false → sliceOf (128 * w.place) = s.subject → w.last + 256 ≤ s.clock.cycle →
    isHost w.op.pa = false →
    let v := s.readNat w.op.pa 8
    let ends := fun (x : Reply) => (∃ u, exec .waitlSlicePoll s = .next u ∧ (u = { s with mem := { s.mem with waits := [], replies := s.mem.replies ++ [x] } }))
    (s.mem.isSpent (w.op.pa / 128) = true → ends ⟨w.op, 0, none, some (.overread, w.op.ea), w.op.gen⟩) ∧
    (s.mem.isSpent (w.op.pa / 128) = false → s.poisoned (w.op.pa / 128) = true → ends ⟨w.op, 0, none, some (.uecc, w.op.ea / 128 * 128), w.op.gen⟩) ∧
    (s.mem.isSpent (w.op.pa / 128) = false → s.poisoned (w.op.pa / 128) = false → w.op.right.toNat ≤ v → ends ⟨w.op, v, none, none, w.op.gen⟩) ∧
    (s.mem.isSpent (w.op.pa / 128) = false → s.poisoned (w.op.pa / 128) = false → v < w.op.right.toNat → (∃ u, exec .waitlSlicePoll s = .next u ∧ (
      u = { s with mem := { s.mem with waits := [{ w with last := s.clock.cycle }] } })))) ∧
  (∀ w, s.mem.waits[s.subject]? = some w → w.polled = true → isHost (128 * w.place) = true → w.last + 1000 ≤ s.clock.ns → isHost w.op.pa = true →
    bits (s.reg 0 0x248) 15 0 = 0 → tget s.mem.hlc (w.op.pa / 128) = none → s.mem.posts = [] →
    let rest := dropAt s.mem.waits s.subject
    let v := leNat (memBytes s.mem.hostMem (s.hostAddr w.op.pa) 8)
    let ends := fun (x : Reply) => (∃ u, exec .waitlHostPoll s = .next u ∧ (u = { s with mem := { s.mem with waits := rest, replies := s.mem.replies ++ [x] } }))
    (s.board.hostLoss = true → ends ⟨w.op, 0, none, some (.hostlink, w.op.ea), w.op.gen⟩) ∧
    (s.board.hostLoss = false → nsHas s.mem.hostPoison (w.op.pa / 128) = true → ends ⟨w.op, 0, none, some (.uecc, w.op.ea / 128 * 128), w.op.gen⟩) ∧
    (s.board.hostLoss = false → nsHas s.mem.hostPoison (w.op.pa / 128) = false → w.op.right.toNat ≤ v → ends ⟨w.op, v, none, none, w.op.gen⟩) ∧
    (s.board.hostLoss = false → nsHas s.mem.hostPoison (w.op.pa / 128) = false → v < w.op.right.toNat → (∃ u, exec .waitlHostPoll s = .next u ∧ (
      u = { s with mem := { s.mem with waits := rest ++ [{ w with last := s.clock.ns }] } })))) ∧
  (∀ t op, s.issuedPref s.subject = none → s.savedPref s.subject = some (t, op) → (∀ va ∈ prefPages t op, ∃ q, s.physOf t.space va = some q ∧ isHost q.1 = false) →
    (∃ u, exec .prefComplete s = .next u ∧ (u.task? t.num = some { t with prefHeld := t.prefHeld ++ [op] } ∧ u.fab = s.fab ∧ u.mem = s.mem ∧ u.board = s.board))) ∧
  (∀ op t p, s.frozenNow = false → s.issuedPref s.subject = some op → s.task? op.task = some t → t.num = op.task → s.placement? op.task op.pl = some p → p.moving = [] →
    t.st ≠ .saving → (∀ va ∈ prefPages t op, ∃ q, s.physOf t.space va = some q ∧ isHost q.1 = false) →
    (barrierOf t op.pl p.nf op.aux = none → (∃ u, exec .prefComplete s = .next u ∧ (HeldDone s u p op 0 ∧ u.fab.frets = s.fab.frets ∧ u.mem = s.mem))) ∧
    (∀ pl n level, barrierOf t op.pl p.nf op.aux = some (pl, n, level) →
      let b := s.barrier op.task pl n
      b.expect ≠ 0 → (b.arrived + 1) % 2 ^ 64 ≠ b.expect → (∃ u, exec .prefComplete s = .next u ∧ (
        HeldDone s u p op 0 ∧ u.barrier op.task pl n = { b with arrived := (b.arrived + 1) % 2 ^ 64 } ∧ u.mem = s.mem))))

/-! ### Engines and the fabric (R148, R149, R159, R202, R211 to R216, R354 to R383) -/

/-- R133, R148, R149, R218, R354 to R357, R360 to R364, R371, R373: a command accepted by its unit, with its consuming tile read, or a `copy` with its
descriptor; tile commands that start (`t.stat`, `t.rel`, `t.zero`, `t.tr`, `t.ld`, `t.st`), with a tile filled anew where it stood, or TILESPACE where
none has room, and one that its shape fails; and a command that completes, its tile READY and its flags on their way with its token, or that has
failed. Under conditions on the state and the operands alone it says that exec answers a next state for: engineCommandAccept, engineCommandStart, tLd,
tTr, engineCommandComplete. What a refused t.zero leaves, granules used again, and the order of a failing command's faults are the model's reading
(log entries 33, 34 and 36); that t.tr of a trit tile is refused follows R364 where R203 says otherwise (log entry 81). -/
def Obligations.EngineEvents : Prop := ∀ s : State,
  (∀ op k p, s.frozenNow = false → s.issuedEngine s.subject = some op → s.task? op.task = some k → s.placement? op.task op.pl = some p → s.acceptable k op = true →
    let takes := fun (P : State → Cmd → Prop) => (∃ u, exec .engineCommandAccept s = .next u ∧ (∃ c, u.eng.cmds = s.eng.cmds ++ [c] ∧ c.op = op ∧ c.running = false ∧
      c.unit = s.unitOf op ∧ c.cluster = s.engCluster op ∧ (∃ q, u.placement? op.task op.pl = some q ∧ q.queue = p.queue.filter (fun o => o.seq ≠ op.seq)) ∧
      u.fab.net = s.fab.net ∧ u.sched = s.sched ∧ P u c))
    let accepts := fun (P : State → Cmd → Prop) => takes (fun u c => c.fault = none ∧ u.mem = s.mem ∧ P u c)
    (∀ f, op.instr = .copy f → takes (fun _ c => match s.copyDesc k op.left.toNat with
      | .error e => c.fault = some e
      | .ok d => c.fault = none ∧ c.desc = d)) ∧
    (tileReads op = [] → (∀ f, op.instr ≠ .copy f) → accepts (fun u c => c.toRead = [] ∧ u.eng.tiles = s.eng.tiles)) ∧
    (∀ slot x, tileReads op = [slot] → s.tile? (s.engCluster op) op.task op.pl slot = some x → x.st = tReady →
      (x.count = 0 ∨ tileConsumes op.instr = false → accepts (fun u c => c.toRead = [slot] ∧ c.taken = [] ∧ u.eng.tiles = s.eng.tiles)) ∧
      (x.count ≠ 0 → tileConsumes op.instr = true → accepts (fun u c => c.toRead = [] ∧ c.taken = [(slot, x)] ∧
        u.tile? (s.engCluster op) op.task op.pl slot =
          some (if x.count = 1 then { x with count := 0, st := tSpent, gcnt := 0, data := [] } else { x with count := x.count - 1 }))))) ∧
  (∀ t p c, s.startable s.subject = some (t, p, c) → c.op.seq = s.subject → p.task = c.op.task → p.idx = c.op.pl → c.fault = none →
    (tileFills c.op).bind (s.fillerFault c) = none →
    (c.toRead = [] ∨ (c.taken = [] ∧ c.toRead = tileReads c.op ∧
      ∀ slot ∈ c.toRead, ∃ x, s.slotTile c slot = some x ∧ x.st = tReady ∧ (x.count = 0 ∨ tileConsumes c.op.instr = false))) →
    let now := s.clock.cycle
    let opnd := fun (slot : Nat) => if c.toRead = [] then c.tile? slot else s.slotTile c slot
    let starts := fun (P : State → Cmd → Prop) => (∃ u, exec .engineCommandStart s = .next u ∧ (u.fab.net = s.fab.net ∧ u.mem = s.mem ∧ u.sched = s.sched ∧
      ∃ c2, u.cmd? s.subject = some c2 ∧ c2.running = true ∧ P u c2))
    let fails := fun (reason addr : Nat) => starts (fun u c2 => c2.fault = some (.engine, reason, addr) ∧ u.eng.tiles = s.eng.tiles)
    let fills := fun (f : TFmt) (rows cols : Nat) (P : State → Cmd → Tile → Prop) =>
      let n := granules f rows cols
      let anew := fun (u : State) (x : Tile) => ∃ y, u.slotTile c c.op.ta = some y ∧ y = { x with
        st := tFilling, fmt := f, rows := rows, cols := cols, gcnt := n, count := 0, satf := false, gen := (s.fret x.pf).gen, data := y.data }
      (∀ x, s.slotTile c c.op.ta = some x → n ≤ x.gcnt → starts (fun u c2 => c2.fault = none ∧ anew u x ∧ ∀ y, u.slotTile c c.op.ta = some y → P u c2 y)) ∧
      (s.slotTile c c.op.ta = none →
        (∀ pf g, s.placeTile t p c.cluster n = some (pf, g) → starts (fun u c2 => c2.fault = none ∧ anew u ⟨0, f, 0, 0, g, n, 0, false, pf, false, []⟩ ∧
          ∀ y, u.slotTile c c.op.ta = some y → P u c2 y)) ∧
        (s.placeTile t p c.cluster n = none → (∀ f, c.op.instr ≠ .tLd f) → fails 4 c.op.ta))
    (∀ f, c.op.instr = .tStat f → starts (fun u c2 => c2.fault = none ∧ c2.result = tileStatus (s.slotTile c c.op.ta) ∧ u.eng.tiles = s.eng.tiles)) ∧
    (∀ f x, c.op.instr = .tRel f → s.slotTile c c.op.ta = some x → starts (fun u c2 => c2.fault = none ∧
      c2.flags = Flags.when (decide (x.st = tReady) && decide (x.count ≠ 0)) Flags.UNDERREAD ∧ u.slotTile c c.op.ta = none ∧ u.fab = s.fab)) ∧
    (∀ f, c.op.instr = .tZero f →
      (∀ r, shapeReason c.op.fmt c.op.left = some r → fails r c.op.ta) ∧
      (shapeReason c.op.fmt c.op.left = none → fills c.op.fmt (shapeRows c.op.left) (shapeCols c.op.left) (fun _ c2 y =>
        c2.doneAt = now + granules c.op.fmt (shapeRows c.op.left) (shapeCols c.op.left) ∧ y.data = []))) ∧
    (∀ f x, c.op.instr = .tTr f → opnd c.op.tb = some x →
      (x.fmt = .mx4 ∨ x.fmt = .trit → fails 6 c.op.tb) ∧
      (x.fmt ≠ .mx4 → x.fmt ≠ .trit → 4095 < x.cols → fails 7 c.op.ta) ∧
      (x.fmt ≠ .mx4 → x.fmt ≠ .trit → x.cols ≤ 4095 → fills x.fmt x.cols x.rows (fun _ c2 y =>
        c2.doneAt = now + (tileBytes x.fmt x.rows x.cols + 127) / 128 ∧
        ∀ i < x.rows, ∀ j < x.cols, memBytes y.data ((j * x.rows + i) * x.fmt.esize) x.fmt.esize = memBytes x.data ((i * x.cols + j) * x.fmt.esize) x.fmt.esize))) ∧
    (∀ f, c.op.instr = .tLd f → s.rowFault t c = none →
      (∀ r, shapeReason c.op.fmt c.op.right = some r → starts (fun _ c2 => c2.fault = some (.engine, r, c.op.ta))) ∧
      (shapeReason c.op.fmt c.op.right = none → pitchReason c.op.fmt c.op.left.toNat (shapePitch c.op.right) = none →
        fills c.op.fmt (shapeRows c.op.right) (shapeCols c.op.right) (fun _ c2 y =>
          c2.progress = c.progress ∧ c2.total = tileBytes c.op.fmt (shapeRows c.op.right) (shapeCols c.op.right) ∧ y.data = []))) ∧
    (∀ f x, c.op.instr = .tSt f → c.toRead ≠ [] → s.slotTile c c.op.ta = some x → pitchReason x.fmt c.op.left.toNat (bits c.op.right 31 0) = none → starts (fun u c2 =>
      c2.fault = none ∧ c2.total = tileBytes x.fmt x.rows x.cols ∧ u.slotTile c c.op.ta = some { x with st := tDraining }))) ∧
  (∀ c p, s.frozenNow = false → s.completable s.subject = some c → c.op.seq = s.subject → s.placement? c.op.task c.op.pl = some p → p.moving = [] →
    isNmc c.op.instr = false → s.collOf s.subject = none → (∀ r ∈ s.eng.remote, r.op.seq ≠ s.subject) → (∀ x ∈ s.eng.cmds, x.op.seq ≠ s.subject → x.toRead = []) →
    let gone := fun (u : State) => u.eng.cmds = s.eng.cmds.filter (fun x => x.op.seq ≠ s.subject) ∧ u.mem = s.mem
    let settled := fun (u : State) => (tileFills c.op = none → (∀ f, c.op.instr ≠ .tSt f) → u.eng.tiles = s.eng.tiles) ∧
      (∀ slot x, tileFills c.op = some slot → s.slotTile c slot = some x → x.st = tFilling → u.slotTile c slot =
        if c.fault.isSome then none else some { x with st := tReady, count := match c.op.instr with | .tLd _ => c.op.count | _ => 0 }) ∧
      (∀ f x, c.op.instr = .tSt f → s.slotTile c c.op.ta = some x → x.st = tDraining → u.slotTile c c.op.ta = some { x with st := tReady })
    (c.fault = none →
      let ds := match c.steer with
        | none => c.op.instr.dests
        | some k => (c.op.instr.dests.drop k).take 1
      (∃ u, exec .engineCommandComplete s = .next u ∧ (gone u ∧ settled u ∧ u.sched = s.sched ∧
        u.fab.net = s.fab.net ++ (sentToks p (p.homePf c.op.tag) c.op.tag c.op.wave c.result s.clock.cycle ds).map (fun x => { x with flags := c.flags }) ∧
        ∃ q, u.placement? c.op.task c.op.pl = some q ∧ q.flags = if ds.all (fun d => d.port = .sink) then p.flags.or c.flags else p.flags))) ∧
    (∀ code reason addr t k, c.fault = some (code, reason, addr) → p.thread? c.op.tag = some t → t.serial = c.op.serial → t.stopped = false → t.faults = [] →
      s.task? c.op.task = some k → (∃ u, exec .engineCommandComplete s = .next u ∧ (gone u ∧ settled u ∧ u.fab.net = s.fab.net ∧
        (∃ q, u.placement? c.op.task c.op.pl = some q ∧ q.thread? c.op.tag = some { t with stopped := true } ∧ q.wob = p.wob.filter (fun o => o.tag ≠ c.op.tag)) ∧
        TaskIs u c.op.task (fun k' => ∃ f at', k' = { k with nfault := min 0x10000 (k.nfault + 1), reports := k.reports ++ [(f, at')] } ∧
          f.code = code ∧ f.reason = reason ∧ f.addr = addr ∧ f.kind = .afterCommit ∧ f.wave = c.op.wave ∧ f.tag = c.op.tag)))))

/-- R202, R203, R211, R213 to R216, R365 to R370: what the matrix forms and the drains do to the accumulators as they start, element by element:
`mm.tern` a sum of integers, held after each group of five; `mm.mx4` and `mm.d` sums of exact groups, each rounded once and added with one rounding;
`drain` and `drain.m` the region converted, with its scales, into a tile or into the bytes that go to memory. Their operands are tiles that the
command has consumed, or that stand READY and uncounted. Under conditions on the state and the operands alone it says that exec answers a next state
for: engineCommandStart, mmMx4, mmD, drainM. -/
def Obligations.MatrixEvents : Prop := ∀ (s : State) t p c, s.startable s.subject = some (t, p, c) → c.op.seq = s.subject → p.task = c.op.task → p.idx = c.op.pl → c.fault = none →
  (tileFills c.op).bind (s.fillerFault c) = none →
  (c.toRead = [] ∨ (c.taken = [] ∧ c.toRead = tileReads c.op ∧ ∀ slot ∈ c.toRead, ∃ x, s.slotTile c slot = some x ∧ x.st = tReady ∧ x.count = 0)) →
  let now := s.clock.cycle
  let opnd := fun (slot : Nat) => if c.toRead = [] then c.tile? slot else s.slotTile c slot
  let starts := fun (P : State → Cmd → Prop) => (∃ u, exec .engineCommandStart s = .next u ∧ (u.fab.net = s.fab.net ∧ u.mem = s.mem ∧ u.sched = s.sched ∧
    ∃ c2, u.cmd? s.subject = some c2 ∧ c2.running = true ∧ P u c2))
  let runs := fun (sel : Nat) (clr : Bool) (a b : Tile) (w : Nat) (hand : Nat) (P : State → Cmd → Nat → Nat → BitVec 32 → BitVec 32 → Prop) => starts (fun u c2 =>
    let old := fun (k : Nat) => if clr then (0 : BitVec 32) else tgetD (s.accum c.cluster sel).elems k 0
    let new := fun (k : Nat) => tgetD (u.accum c.cluster sel).elems k 0
    c2.fault = none ∧ c2.doneAt = c2.busyEnd + hand ∧ u.eng.tiles = s.eng.tiles ∧ (∀ k, k ≠ sel → sel < 4 → k < 4 → u.accum c.cluster k = s.accum c.cluster k) ∧
    (∀ m n, m < a.rows → n < b.rows → P u c2 m n (old (w * m + n)) (new (w * m + n))) ∧
    (∀ m n, n < w → a.rows ≤ m ∨ b.rows ≤ n → new (w * m + n) = old (w * m + n)))
  (∀ bank clr f a b, c.op.instr = .mmTern bank clr f → opnd c.op.ta = some a → opnd c.op.tb = some b →
    let acc := s.accum c.cluster bank.toNat
    (a.fmt ≠ .s8 → starts (fun u c2 => c2.fault = some (.engine, 6, c.op.ta) ∧ u.eng.accs = s.eng.accs)) ∧
    (a.fmt = .s8 → b.fmt = .trit → a.cols = b.cols → a.cols % 5 = 0 → a.rows ≤ 192 → b.rows ≤ 192 → clr = true ∨ acc.kind = .none ∨ acc.kind = .int →
      let part := fun (m n g : Nat) => ∑ i ∈ Finset.range 5,
        (memByte a.data (m * a.cols + (5 * g + i))).toInt * ([0, 1, -1] : List ℤ).getD ((memByte b.data (n * (b.cols / 5) + g)).toNat / 3 ^ i % 3) 0
      runs bank.toNat clr a b 192 12 (fun u c2 m n old new => (u.accum c.cluster bank.toNat).kind = .int ∧ ∃ v : Nat → ℤ, v 0 = old.toInt ∧
        (∀ g < a.cols / 5, v (g + 1) = max (-(2 ^ 31 - 1)) (min (2 ^ 31 - 1) (v g + part m n g)) ∧
          (v (g + 1) ≠ v g + part m n g → c2.flags.sat = true ∧ (u.accum c.cluster bank.toNat).sat = true)) ∧ new = BitVec.ofInt 32 (v (a.cols / 5))))) ∧
  (∀ bank clr f a b, c.op.instr = .mmMx4 bank clr f → opnd c.op.ta = some a → opnd c.op.tb = some b →
    let acc := s.accum c.cluster bank.toNat
    a.fmt = .mx4 → b.fmt = .mx4 → a.cols = b.cols → a.cols % 32 = 0 → a.rows ≤ 192 → b.rows ≤ 192 → clr = true ∨ acc.kind = .none ∨ acc.kind = .fp →
    let scale := fun (x : Tile) (r j : Nat) => (memByte x.data (x.rows * x.cols / 2 + r * (x.cols / 32) + j)).toNat
    let code := fun (x : Tile) (r k : Nat) => (memByte x.data (r * (x.cols / 2) + k / 2)).toNat / 16 ^ (k % 2) % 16
    let val := fun (x : Tile) (r j i : Nat) (q : FVal) => q.isFin = true ∧ q.neg? = decide (8 ≤ code x r (32 * j + i)) ∧
      |q.rat| = ([0, 1 / 2, 1, 3 / 2, 2, 3, 4, 6] : List ℚ).getD (code x r (32 * j + i) % 8) 0 * (2 : ℚ) ^ ((scale x r j : ℤ) - 127)
    runs bank.toNat clr a b 192 12 (fun u c2 m n old new => (u.accum c.cluster bank.toNat).kind = .fp ∧ c2.busyEnd = now + 24 + a.cols ∧
      ∃ x y : Nat → Nat → FVal, (∀ j < a.cols / 32, scale a m j ≠ 0xFF → scale b n j ≠ 0xFF → ∀ i < 32, val a m j i (x j i) ∧ val b n j i (y j i)) ∧
        Accumulates (a.cols / 32) 32 (fun j => scale a m j = 0xFF ∨ scale b n j = 0xFF) x y old new)) ∧
  (∀ clr f a b, c.op.instr = .mmD clr f → opnd c.op.ta = some a → opnd c.op.tb = some b →
    let acc := s.accum c.cluster 2
    let narrow := fun (f : TFmt) => f = .e4m3 ∨ f = .e5m2
    a.fmt = c.op.fmt → (if narrow a.fmt then narrow b.fmt else b.fmt = a.fmt) → a.cols = b.cols → a.cols % 16 = 0 → a.rows ≤ 96 → b.rows ≤ 64 → clr = true ∨ acc.kind = .none ∨ acc.kind = .fp →
    let el := fun (x : Tile) (r : Nat) (g i : Nat) => (tileNum x.fmt).unpack (leNat (memBytes x.data ((r * x.cols + (16 * g + i)) * x.fmt.esize) x.fmt.esize))
    2 ≤ c.op.fmt.esize ∨ narrow a.fmt →
    runs 2 clr a b 64 8 (fun u c2 m n old new => (u.accum c.cluster 2).kind = .fp ∧ c2.busyEnd = now + 16 + a.cols / (if narrow a.fmt then 2 else 1) ∧
      Accumulates (a.cols / 16) 16 (fun g => ∃ i < 16, (el a m g i).isNan = true ∨ (el b n g i).isNan = true ∨
        ((el a m g i).isZero = true ∧ (el b n g i).isInf = true) ∨ ((el a m g i).isInf = true ∧ (el b n g i).isZero = true)) (el a m) (el b n) old new)) ∧
  (let drained := fun (d : DrainF) (w : Word) (bs : Nat → Nat → List Byte) (c2 : Cmd) =>
     let sel := d.acc.code
     let acc := s.accum c.cluster sel
     ∀ r < shapeRows w, ∀ k < shapeCols w, ∃ q, DrainResult c.op.fmt c.op.e.rm c.op.e.sat (c.op.srd.rho (r * shapeCols w + k)) acc.kind (tgetD acc.elems (accCols sel * r + k) 0)
       (if d.rowsc then (opnd c.op.ta).map (fun x => leNat (memBytes x.data (r * (4 * x.cols)) 4)) else none)
       (if d.gsel = .none then none else (opnd c.op.tb).map (fun x => leNat (memBytes x.data (k / gselCols d.gsel * 4) 4))) q ∧
       bs (r * shapeCols w + k) c.op.fmt.esize = leBytes c.op.fmt.esize q.1 ∧ (q.2.nx = true → c2.flags.nx = true)
   let legal := fun (d : DrainF) (w : Word) => shapeReason c.op.fmt w = none ∧ shapeRows w ≤ (if d.acc.code = 2 then 96 else 192) ∧ shapeCols w ≤ (if d.acc.code = 2 then 64 else 192) ∧
     (d.rowsc = true → ∃ x, opnd c.op.ta = some x ∧ x.fmt = .f32 ∧ shapeRows w ≤ x.rows ∧ 1 ≤ x.cols) ∧
     (d.gsel ≠ .none → ∃ x, opnd c.op.tb = some x ∧ x.fmt = .f32 ∧ 1 ≤ x.rows ∧ (shapeCols w + gselCols d.gsel - 1) / gselCols d.gsel ≤ x.cols)
   let left := fun (d : DrainF) (u : State) => u.accum c.cluster d.acc.code = if d.clr then Accum.zero else s.accum c.cluster d.acc.code
   (∀ d f, c.op.instr = .drain d f →
     let k := if 2 ≤ d.nout.toNat then c.op.aux.toNat % 4 else 0
     let slot := c.op.tc + k
     let w := c.op.left
     (2 ≤ d.nout.toNat → d.nout.toNat ≤ k → starts (fun u c2 => c2.fault = some (.engine, 7, slot) ∧ u.eng.accs = s.eng.accs ∧ u.eng.tiles = s.eng.tiles)) ∧
     (∀ y, (2 ≤ d.nout.toNat → k < d.nout.toNat) → legal d w → s.slotTile c slot = some y → granules c.op.fmt (shapeRows w) (shapeCols w) ≤ y.gcnt → starts (fun u c2 =>
       c2.fault = none ∧ c2.doneAt = now + 4 + shapeRows w ∧ c2.steer = (if 2 ≤ d.nout.toNat then some k else none) ∧ left d u ∧
       ∃ y2, u.slotTile c slot = some y2 ∧ y2.st = tFilling ∧ y2.fmt = c.op.fmt ∧ y2.rows = shapeRows w ∧ y2.cols = shapeCols w ∧ y2.count = 0 ∧
         ((s.accum c.cluster d.acc.code).sat = true → y2.satf = true) ∧ drained d w (fun i n => memBytes y2.data (i * n) n) c2))) ∧
   (∀ d f, c.op.instr = .drainM d f → legal d c.op.right → pitchReason c.op.fmt c.op.left.toNat (shapePitch c.op.right) = none → starts (fun u c2 =>
     c2.fault = none ∧ c2.total = shapeRows c.op.right * shapeCols c.op.right * c.op.fmt.esize ∧ c2.desc.length = c2.total ∧ left d u ∧ u.eng.tiles = s.eng.tiles ∧
     drained d c.op.right (fun i n => (c2.desc.drop (i * n)).take n) c2)))

/-- R157, R158, R159, R178, R202, R360, R361, R372, R374 to R379, R381: what the engines do to tiles and memory while they run. A cycle lets each
running command take its turn. In its turn a command that moves bytes (`t.ld`, `gath`, `t.st`, `drain.m`, `copy`, and `rwr` and `rrd` on this device)
moves what lies in one block: a fill puts the bytes of memory in its tile, the others write them at home, with the poison of what they were read from.
A near-memory command works one element, or stops at a poisoned line. The lines read stand in the L2, and their translations in the TLB; a line
written is in no migration. How many bytes a turn moves is the model's (log entry 31). -/
def Obligations.StreamEvents : Prop := ∀ (s : State) (c : Cmd), s.eng.cmds = [c] → c.running = true → c.fault = none → c.progress < c.total → c.busyEnd ≤ s.clock.cycle →
  (∀ b : Beat, b.cycles = 1 → b.hostBytes = [] → b.flaws = [] → 3 ≤ s.board.phase → s.board.phase ≠ 4 → s.frozenNow = false → ∃ s1 : State,
    s1 = { s with fab := s1.fab, seqCtr := s1.seqCtr } ∧ (s.passTime b).eng = (s1.runCmd c.op.seq).eng ∧
    (s.passTime b).mem = { (s1.runCmd c.op.seq).mem with pins := (s.passTime b).mem.pins }) ∧
  let u := s.runCmd c.op.seq
  let P := c.progress
  (∀ t, s.task? c.op.task = some t → t.st ≠ .saving →
    let readable := fun (a line : Nat) (y : L2Line) => s.mem.quiet line = true ∧ isHost (128 * line) = false ∧ s.busy line = false ∧ s.mem.isSpent line = false ∧
      tget s.mem.l2 line = some y ∧ s.mem.l1Of line = [] ∧ tget s.mem.hdmMod line = none ∧ (s.tlbHit t.space (a / 128 * 128)).isSome = true ∧
      ∀ o < 128, s.engAccess t (a / 128 * 128 + o) false = some (128 * line + o)
    let writable := fun (a line : Nat) => s.mem.quiet line = true ∧ isHost (128 * line) = false ∧ s.busy line = false ∧ s.mem.isSpent line = false ∧
      (∀ o < 128, s.mem.mirror (128 * line + o) = none) ∧ s.obs.meas = [] ∧ s.linePoison line = false ∧ (s.tlbHit t.space (a / 128 * 128)).isSome = true ∧ ∀ o < 128, s.engAccess t (a / 128 * 128 + o) true = some (128 * line + o)
    let block := fun (A : Nat → Nat) (key : Nat → Nat × Nat) (n : Nat) => 0 < n ∧ P + n ≤ c.total ∧ n ≤ 128 ∧ (∀ k < n, A (P + k) = A P + k ∧ key (P + k) = key P) ∧
      (n = 128 ∨ P + n = c.total ∨ key (P + n) ≠ key P)
    let lines := fun (A : Nat → Nat) (b : Nat) => (0, A b / 128)
    let fresh := fun (a : Nat) => ∀ w v, c.carry = some (w, v) → w ≠ a / 8
    let byteOf := fun (y : L2Line) (a : Nat) => (BitVec.ofNat 8 (lineRead y.data (a % 128) 1) : Byte)
    let moved := fun (n cycles : Nat) => ∃ k, u.cmd? c.op.seq = some { c with progress := P + n, busyEnd := s.clock.cycle + cycles, carry := k }
    let fillsBy := fun (A : Nat → Nat) (key : Nat → Nat × Nat) => ∀ (n line : Nat) (y : L2Line) (x : Tile), block A key n → readable (A P) line y → fresh (A P) → s.linePoison line = false →
      s.slotTile c c.op.ta = some x → (c.op.fmt = .trit → ∀ k < n, (byteOf y (A P + k)).toNat ≤ 242) →
      moved n 1 ∧ u.mem.hbm = s.mem.hbm ∧ ∃ d, u.slotTile c c.op.ta = some { x with data := d } ∧
        ∀ i, memByte d i = if P ≤ i ∧ i < P + n then byteOf y (A P + (i - P)) else memByte x.data i
    let puts := fun (A : Nat → Nat) (n cycles : Nat) (byte : Nat → Byte) => ∀ line, block A (lines A) n → writable (A P) line →
      moved n cycles ∧ u.mem.value line = lineWrite (s.mem.value line) (A P % 128) n (leNat ((List.range n).map byte))
    let copies := fun (S A : Nat → Nat) (cycles : Nat → Nat) => ∀ n from' y, (∀ k < n, S (P + k) = S P + k ∧ S (P + k) / 128 = S P / 128) → readable (S P) from' y → fresh (S P) →
      (s.linePoison from' = false → puts A n (cycles n) (fun k => byteOf y (S P + k))) ∧
      (∀ line, s.linePoison from' = true → block A (lines A) n → writable (A P) line → nsHas u.mem.poison line = true)
    let pitched := fun (f : TFmt) (cols pitch b : Nat) =>
      let rb := f.rowBytes cols
      (if f = .mx4 then c.op.left.toNat + b else c.op.left.toNat + (b / rb * (if pitch = 0 then rb else pitch) + b % rb)) % 2 ^ 64
    (∀ f, c.op.instr = .tLd f → let A := pitched c.op.fmt (shapeCols c.op.right) (shapePitch c.op.right)
      fillsBy A (lines A)) ∧
    (∀ f q idx rest, c.op.instr = .gath f → c.taken = (q, idx) :: rest → c.op.fmt ≠ .mx4 →
      let rb := c.op.fmt.rowBytes (shapeCols c.op.right)
      let pt := if shapePitch c.op.right = 0 then rb else shapePitch c.op.right
      let A := fun (b : Nat) =>
        let j := b / rb
        let i := (BitVec.ofNat 32 (idx.elemBits (j / idx.cols) (j % idx.cols))).toInt
        (((c.op.left.toNat : ℤ) + (i * pt + (b % rb : ℕ))) % 2 ^ 64).toNat
      0 < rb → fillsBy A (fun b => (b / rb, A b / 64))) ∧
    (∀ f x n, c.op.instr = .tSt f → s.slotTile c c.op.ta = some x →
      puts (pitched x.fmt x.cols (bits c.op.right 31 0)) n 1 (fun k => memByte x.data (P + k))) ∧
    (∀ d f n, c.op.instr = .drainM d f → puts (pitched c.op.fmt (shapeCols c.op.right) (shapePitch c.op.right)) n 1 (fun k => c.desc.getD (P + k) 0)) ∧
    (∀ f, c.op.instr = .copy f →
      let g := fun (off n : Nat) => field c.desc off n
      let sg := fun (off : Nat) => (BitVec.ofNat 64 (g off 8)).toInt
      let at' := fun (base py pz : ℤ) (b : Nat) => ((base + ((b / g 16 4 / g 20 4 : ℕ) * pz + (b / g 16 4 % g 20 4 : ℕ) * py + (b % g 16 4 : ℕ))) % 2 ^ 64).toNat
      copies (at' (g 0 8) (sg 32) (sg 40)) (at' (g 8 8) (sg 48) (sg 56)) (fun n => (n + 63) / 64)) ∧
    (∀ f, c.op.instr = .rwr f → copies (fun b => c.op.left.toNat + b) (fun b => c.op.right.toNat + b) (fun _ => 1)) ∧
    (∀ f, c.op.instr = .rrd f → copies (fun b => c.op.right.toNat + b) (fun b => c.op.left.toNat + b) (fun _ => 1))) ∧
  (isNmc c.op.instr = true →
    let ya := c.op.pa + 4 * P
    let xa := c.op.ea + 4 * P
    let F := fmtF32
    let y := F.unpack (leNat (memBytes s.mem.hbm ya 4))
    let x := F.unpack (leNat (memBytes s.mem.hbm xa 4))
    let a := c.op.aux.toNat % 2 ^ 32
    let rm := c.op.e.rm
    let rho := c.op.srd.rho
    let steps := ∃ c2, u.cmd? c.op.seq = some c2 ∧ c2.progress = P + 1 ∧ c2.busyEnd = s.clock.cycle + 1 ∧ c2.fault = none
    let writes := fun (Q : Nat → Prop) => steps ∧ (∃ v, Q v ∧ leNat (memBytes u.mem.hbm ya 4) = v % 2 ^ 32) ∧ ∀ k, k < ya ∨ ya + 4 ≤ k → memByte u.mem.hbm k = memByte s.mem.hbm k
    let sound := ya % 4 = 0 ∧ xa % 4 = 0 ∧ s.obs.meas = []
    let one := s.poisoned (ya / 128) = false
    let two := one ∧ s.poisoned (xa / 128) = false
    let stops := fun (from' : Word) => u.mem.hbm = s.mem.hbm ∧ ∃ c2, u.cmd? c.op.seq = some c2 ∧ c2.progress = c.total ∧
      c2.result = BitVec.ofNat 64 (2 ^ 63 + P % 2 ^ 10 * 2 ^ 52 + (from'.toNat + 4 * P) % 2 ^ 52)
    (∀ f, c.op.instr = .nmcAxpy f → sound → two → writes (fun v => ∃ fl, FusedResult F rm (rho P) (F.unpack a) x y (v, fl))) ∧
    (∀ f, c.op.instr = .nmcSgd f → sound → two → writes (fun v => ∃ w f1 fl, FusedResult F rm (rho (2 * P)) (F.unpack (c.op.aux.toNat / 2 ^ 32)) y x (w, f1) ∧
      FusedResult F rm (rho (2 * P + 1)) (F.unpack (a ^^^ 2 ^ 31)) (F.unpack w) y (v, fl))) ∧
    (∀ f, c.op.instr = .nmcScal f → sound → one → writes (fun v => ∃ fl, ProductResult F rm (rho P) (F.unpack a) y (v, fl))) ∧
    (∀ f, c.op.instr = .nmcFadd f → sound → two → writes (fun v => ∃ fl, AddResult F rm (rho P) y x (v, fl))) ∧
    (∀ f, c.op.instr = .nmcFill f → sound → writes (fun v => v = a)) ∧
    (∀ f, c.op.instr = .nmcSum f → sound → one → steps ∧ u.mem.hbm = s.mem.hbm ∧
      ∃ c2 v fl, u.cmd? c.op.seq = some c2 ∧ c2.result = BitVec.ofNat 64 v ∧ AddResult F rm (rho P) (F.unpack c.result.toNat) y (v, fl)) ∧
    (s.poisoned (ya / 128) = true → (∀ f, c.op.instr ≠ .nmcFill f) → stops c.op.left ∧ nsHas u.mem.poison (ya / 128) = true) ∧
    (∀ f, c.op.instr = .nmcAxpy f ∨ c.op.instr = .nmcSgd f ∨ c.op.instr = .nmcFadd f → one → s.poisoned (xa / 128) = true → stops c.op.right ∧ nsHas u.mem.poison (xa / 128) = true))

/-- R106, R380 to R383, R393: what peers ask of this device: a remote write and a remote read for a gang task that it holds or does not, whose range
fails or is sound; a request sent to a peer, and one that has had no reply; a `copy` or near-memory command as it starts; a collective's entries, a
member that did not come, and what every collective leaves at its destination once all have come. The bytes of an answer are the model's (log entry
24), and so are those of a poisoned write (log entry 28). Under conditions on the state and the operands alone it says that exec answers a next state
for: remoteWriteServe, remoteReadServe, engineCommandStart, remoteRequestTimeout, collEntry, collTimeout, engineCommandComplete. -/
def Obligations.FabricEvents : Prop := ∀ s : State,
  (s.board.carriesData = true → ∀ (gid : BitVec 32) (addr : Nat),
    let answers := fun (i : Instr) (bs : List Byte) => (∃ u, exec i s = .next u ∧ (u = s.sendFabric 0xFFFFF bs ∧ u.eng.fabricOut = s.eng.fabricOut ++ [(0xFFFFF, bs)]))
    let refuses := fun (i : Instr) (code reason a : Nat) => answers i (leBytes 1 code ++ leBytes 1 reason ++ leBytes 1 0 ++ leBytes 8 a)
    (s.gangTask gid = none → (∀ bytes poisoned, refuses (.remoteWriteServe gid addr bytes poisoned) 11 9 addr) ∧ ∀ len, refuses (.remoteReadServe gid addr len) 11 9 addr) ∧
    (∀ t, s.gangTask gid = some t →
      (∀ bytes poisoned code reason a, s.rangeFault t true addr bytes.length = some (code, reason, a) → refuses (.remoteWriteServe gid addr bytes poisoned) code.num reason a) ∧
      (∀ len code reason a, s.rangeFault t false addr len = some (code, reason, a) → refuses (.remoteReadServe gid addr len) code.num reason a) ∧
      (∀ len, s.rangeFault t false addr len = none → s.vaQuiet t.space addr len = true → (∃ u, exec (.remoteReadServe gid addr len) s = .next u ∧ (∃ poison : Nat,
        (∀ k < (len + 7) / 8, poison.testBit k = (match s.physOf t.space (addr + 8 * k) with
          | some (pa, _) => s.linePoison (pa / 128) || (isHost pa && s.board.hostLoss)
          | none => false)) ∧
        u.eng.fabricOut = s.eng.fabricOut ++ [(0xFFFFF, leBytes 1 0 ++ leBytes 1 0 ++
          poisonBytes poison (s.readVa t.space addr len).length ++ s.readVa t.space addr len)] ∧ u.sched = s.sched))) ∧
      (∀ bytes pa poisoned, s.rangeFault t true addr bytes.length = none → s.vaQuiet t.space addr bytes.length = true →
        s.pieces t.space addr (bytes.length / 128 + 2) bytes.length = [(pa, bytes.length)] → s.obs.meas = [] → isHost pa = false → s.busy (pa / 128) = false →
        s.mem.mirror pa = none → (∃ u, exec (.remoteWriteServe gid addr bytes poisoned) s = .next u ∧ (
          u.mem.value (pa / 128) = lineWrite (s.mem.value (pa / 128)) (pa % 128) bytes.length (leNat bytes) ∧
          (poisoned = true → s.subject % 2 ^ ((bytes.length + 7) / 8) ≠ 0 → nsHas u.mem.poison (pa / 128) = true) ∧
          u.eng.fabricOut = s.eng.fabricOut ++ [(0xFFFFF, leBytes 1 0 ++ leBytes 1 0 ++ leBytes 1 0)] ∧ u.fab = s.fab ∧ u.sched = s.sched))))) ∧
  (∀ t p c, s.startable s.subject = some (t, p, c) → c.op.seq = s.subject → c.fault = none → c.toRead = [] →
    let starts := fun (P : State → Cmd → Prop) => (∃ u, exec .engineCommandStart s = .next u ∧ (u.sched = s.sched ∧ ∃ c2, u.cmd? s.subject = some c2 ∧ c2.running = true ∧ P u c2))
    let d := devWord c.op.aux
    (∀ f, c.op.instr = .rwr f ∨ c.op.instr = .rrd f →
      (∀ e, s.remoteCheck t c.op = some e → starts (fun u c2 => c2.fault = some e ∧ u.mem = s.mem)) ∧
      (s.remoteCheck t c.op = none → d.1 = s.board.devId.toNat → starts (fun u c2 => c2.fault = none ∧ c2.total = d.2.2 ∧ u.mem = s.mem)) ∧
      (s.remoteCheck t c.op = none → d.1 ≠ s.board.devId.toNat → c.op.instr = .rrd f → starts (fun u c2 => c2.fault = none ∧ u.mem = s.mem ∧
        u.eng.remote = s.eng.remote ++ [⟨c.op, s.clock.ns⟩] ∧ u.eng.fabricOut = s.eng.fabricOut ++ [(d.1, remoteMsg 2 t.gid c.op d.2.2 0 [])]))) ∧
    (∀ f, c.op.instr = .copy f →
      let g := fun (off n : Nat) => field c.desc off n
      let ok := g 16 4 ≠ 0 ∧ g 16 4 ≤ 2 ^ 24 ∧ g 20 4 ≠ 0 ∧ g 20 4 ≤ 65536 ∧ g 24 4 ≠ 0 ∧ g 24 4 ≤ 65536 ∧ g 28 4 = 0 ∧ g 16 4 * g 20 4 * g 24 4 ≤ 2 ^ 32
      (ok → starts (fun u c2 => c2.fault = none ∧ c2.total = g 16 4 * g 20 4 * g 24 4 ∧ c2.result = BitVec.ofNat 64 (g 16 4 * g 20 4 * g 24 4) ∧ u.mem = s.mem)) ∧
      (¬ ok → s.rowFault t c = none → starts (fun u c2 => c2.fault = some (.engine, 8, c.op.left.toNat) ∧ u.mem = s.mem))) ∧
    (isNmc c.op.instr = true →
      (∀ e, s.nmcStartFault c = some e → starts (fun u c2 => c2.fault = some e ∧ u.mem = s.mem)) ∧
      (s.nmcStartFault c = none → starts (fun u c2 => c2.fault = none ∧ c2.total = c.op.count ∧
        ∀ l ∈ s.nmcLines c, nsHas u.eng.busyLines l = true ∧ tget u.mem.l2 l = none ∧ tget u.mem.msc l = none ∧ nsHas u.mem.hdm l = false)))) ∧
  (∀ r c t, s.eng.remote.find? (fun r => r.op.seq = s.subject) = some r → s.cmd? s.subject = some c → s.task? r.op.task = some t →
    r.since + t.ctmoNs ≤ s.clock.ns → s.remoteDone c = false → (∃ u, exec .remoteRequestTimeout s = .next u ∧ (
      u.cmd? s.subject = some { c with fault := some (.collpeer, 0, 0) } ∧ u.eng.remote = s.eng.remote.filter (fun x => x.op.seq ≠ s.subject) ∧
      u.mem = s.mem ∧ u.fab = s.fab ∧ u.sched = s.sched))) ∧
  (∀ peer : CollPeer, s.board.carriesData = true →
    let joined := { s with eng := { s.eng with peers := s.eng.peers ++ [(peer, s.clock.ns)] } }
    let mine := s.eng.colls.find? (fun g => g.cid = peer.cid && g.ordinal = peer.ordinal)
    (s.gangTask peer.gid = none → (∃ u, exec (.collEntry peer) s = .next u ∧ (
      u.eng.fabricOut = s.eng.fabricOut ++ [(0xFFFFF, leBytes 1 11 ++ leBytes 1 9 ++ leBytes 1 0 ++ leBytes 8 0)] ∧ u.eng.peers = s.eng.peers ∧ u.mem = s.mem ∧ u.fab = s.fab))) ∧
    ((s.gangTask peer.gid).isSome = true →
      (mine = none → (∃ u, exec (.collEntry peer) s = .next u ∧ (u = joined))) ∧
      (∀ g c, mine = some g → s.cmd? g.op.seq = some c →
        (g.agrees peer = true → (∃ u, exec (.collEntry peer) s = .next u ∧ (u = joined))) ∧
        (g.agrees peer = false → (∃ u, exec (.collEntry peer) s = .next u ∧ (u.eng.peers = s.eng.peers ++ [(peer, s.clock.ns)] ∧
          u.cmd? g.op.seq = some { c with fault := some (.engine, 10, c.op.left.toNat) } ∧ u.mem = s.mem ∧ u.fab = s.fab)))))) ∧
  (∀ g c t, s.eng.colls = [g] → s.collWhole g = false → g.heldFor = none → s.task? g.op.task = some t → g.since + t.ctmoNs ≤ s.clock.ns →
    s.cmd? g.op.seq = some c → (∃ u, exec (.collTimeout g.cid) s = .next u ∧ (u.eng.colls = [] ∧
      u.cmd? g.op.seq = some { c with fault := some (.collpeer, 0, 0) } ∧ u.mem = s.mem ∧ u.fab = s.fab ∧ u.sched = s.sched))) ∧
  (∀ c t g, s.frozenNow = false → s.completable s.subject = some c → c.op.seq = s.subject → s.task? c.op.task = some t → c.fault = none → isColl c.op.instr = true →
    s.collOf s.subject = some g → s.peerFault c = none → s.rangeFault t true g.dst g.dstLen = none → (∀ x ∈ s.eng.cmds, x.op.seq ≠ s.subject → x.toRead = []) →
    s.obs.meas = [] →
    let n := g.members.length
    let size := g.op.fmt.esize
    let src := fun (r : Nat) => if r = g.rank then g.src.map BitVec.toNat
      else (((s.eng.peers.map Prod.fst).find? (fun p => p.cid = g.cid && p.ordinal = g.ordinal && p.rank = r)).map (fun p => p.src.map BitVec.toNat)).getD []
    let leaves := fun (len : Nat) (Q : List Nat → Prop) => ∀ pa, s.pieces t.space g.dst (len / 128 + 2) len = [(pa, len)] → isHost pa = false → s.busy (pa / 128) = false → s.mem.mirror pa = none →
      (∃ u, exec .engineCommandComplete s = .next u ∧ (∃ vs, Q vs ∧ u.eng.cmds = s.eng.cmds.filter (fun x => x.op.seq ≠ s.subject) ∧
        u.mem.value (pa / 128) = lineWrite (s.mem.value (pa / 128)) (pa % 128) len (leNat (vs.flatMap (leBytes size)))))
    let each := fun (len : Nat) (Q : Nat → Nat → Prop) => leaves (size * len) (fun vs => vs.length = len ∧ ∀ i < len, Q i (vs.getD i 0))
    let column := fun (i : Nat) => (List.range n).map (fun r => (src r).getD i 0)
    (g.subop = 0 → each g.nelem (fun i v => CollSum g i (column i) v)) ∧
    (g.subop = 1 → 0 < n → each g.nelem (fun i v => CollMax g.op.fmt (column i) v)) ∧
    (g.subop = 2 → leaves (size * ((List.range n).flatMap src).length) (fun vs => vs = (List.range n).flatMap src)) ∧
    (g.subop = 3 → each (g.nelem / n) (fun k v => CollSum g (g.rank * (g.nelem / n) + k) (column (g.rank * (g.nelem / n) + k)) v)) ∧
    (g.subop = 4 → g.root < n → leaves (size * (src g.root).length) (fun vs => vs = src g.root)) ∧
    (g.subop = 5 → (∃ u, exec .engineCommandComplete s = .next u ∧ (u.mem = s.mem ∧ u.eng.cmds = s.eng.cmds.filter (fun x => x.op.seq ≠ s.subject)))))

/-! ### Faults, debugging and traces (R223 to R236) -/

/-- R223, R224, R225: a fault's report reaches the Farrier, as the first, as a further one (counted where it was found), or for a task that is ending;
and the frozen task ends or is held, with its fault record written where the function's ring is on and its base is backed. Under conditions on the
state and the operands alone it says that exec answers a next state for: faultReportArrival, faultFreezeComplete. -/
def Obligations.FaultEvents : Prop := ∀ s : State,
  (∀ (task n : Nat) t f, s.task? task = some t → t.num = task → s.nextReport t n = some f →
    let rest := dropAt t.reports n
    let becomes := fun (t' : Task) => (∃ u, exec (.faultReportArrival task n) s = .next u ∧ (u = { s with sched := u.sched } ∧ u.task? task = some t' ∧
      ∀ k, k ≠ task → u.task? k = s.task? k))
    (t.ending = true ∨ t.st = .killing ∨ t.st.live = false → becomes { t with reports := rest }) ∧
    (t.ending = false → t.st ≠ .killing → t.st.live = true →
      (t.fault = none → becomes { t with reports := rest, fault := some f, freezing := true, faultAt := s.clock.ns }) ∧
      (t.fault.isSome = true → becomes { t with reports := rest }))) ∧
  (∀ t f, Named s t → t.fault = some f → t.freezing = true → t.ending = false →
    let q := s.reg t.fn 0x280
    let a := bits q 51 15 * 2 ^ 15 + 512 * ((s.reg t.fn 0x288).toNat % 64)
    let rings := q.getLsbD 0 = true ∧ s.deviceBacked t.fn (bits q 51 15 * 2 ^ 15) = true
    let frec := if rings then a else 0
    let written := fun (u : State) => let bs := f.bytes (t.nfault - 1)
      u.reg t.fn 0x288 = (if rings then s.reg t.fn 0x288 + 1 else s.reg t.fn 0x288) ∧ (¬ rings → u.mem = s.mem) ∧
      ∀ pa, rings → s.fnAddr t.fn a = some pa → (∀ j < bs.length, isHost (pa + j) = false ∧ AtRest s ((pa + j) / 128)) → u.readBytes pa bs.length = bs
    (t.fpolHold = false → (∃ u, exec .faultFreezeComplete s = .next u ∧ (
      TaskIs u t.num (fun k => k = { t with frec := frec, freezing := false, ending := true, status := .fault, reason := f.reason, faddr := f.addr }) ∧
      (∀ p ∈ u.placementsOf t.num, p.frozen = true) ∧ written u))) ∧
    (t.fpolHold = true → t.gang = none → s.obs.dbg.attached ≠ some t.num → (∃ u, exec .faultFreezeComplete s = .next u ∧ (
      TaskIs u t.num (fun k => k = { t with frec := frec, freezing := false, st := .held, stateSince := s.clock.ns, victim := none, settled := false }) ∧
      (∀ p ∈ u.placementsOf t.num, p.frozen = true) ∧ written u))))

/-- R227 to R231: the debug block attaches; a command with no task attached, while busy, or that the task's state refuses; and HALT, RESUME, STEP,
END, KILL and DUMP in their ordinary cases, HALT while a step is in progress as well: the step ends, and the wave stays uncommitted. Under conditions
on the state and the operands alone it says that exec answers a next state for: debugAttach, dbgHalt, dbgResume, dbgStep, dbgEnd, dbgKill, dbgDump.
That HALT passes BUSY is the model's reading (log entry 60). -/
def Obligations.DebugEvents : Prop := ∀ s : State,
  let stat := s.reg 0 0x318
  let errs := fun (i : Instr) => (∃ u, exec i s = .next u ∧ (u.reg 0 0x318 = stat ||| 0x10 ∧ u.sched = s.sched ∧ u.fab = s.fab ∧ u.mem = s.mem ∧ u.board = s.board))
  let refuses := fun (i : Instr) => (∃ u, exec i s = .next u ∧ ((u.reg 0 0x318).getLsbD 4 = true ∧ u.sched = s.sched ∧ u.fab = s.fab ∧ u.mem = s.mem ∧ u.board = s.board))
  (∀ t, minBy Task.accept (s.tasks.filter s.attachable) = some t → (s.reg 0 0x308).getLsbD 1 = true → s.obs.dbg.attached = none →
    (∃ u, exec .debugAttach s = .next u ∧ (u.obs.dbg.attached = some t.num ∧ u.reg 0 0x308 = s.reg 0 0x308 &&& ~~~ (2 : Word) ∧ (u.reg 0 0x318).getLsbD 3 = true ∧
      (t.st = .held → (u.reg 0 0x318).getLsbD 2 = true ∧ bits (u.reg 0 0x318) 19 16 = 5) ∧ u.sched = s.sched ∧ u.fab = s.fab ∧ u.mem = s.mem))) ∧
  (s.reach 0 = .served → s.obs.dbg.attached.bind s.task? = none → stat.getLsbD 1 = false →
    errs .dbgHalt ∧ errs .dbgResume ∧ (∀ v, errs (.dbgStep v)) ∧ errs .dbgEnd ∧ errs .dbgKill ∧ errs .dbgDump) ∧
  (s.reach 0 = .served → stat.getLsbD 1 = true →
    (∃ u, exec .dbgResume s = .next u ∧ (u = s)) ∧ (∀ v, (∃ u, exec (.dbgStep v) s = .next u ∧ (u = s))) ∧ (∃ u, exec .dbgEnd s = .next u ∧ (u = s)) ∧ (∃ u, exec .dbgKill s = .next u ∧ (u = s))) ∧
  (∀ n t, s.reach 0 = .served → s.obs.dbg.attached = some n → s.task? n = some t → t.num = n → stat.getLsbD 1 = false →
    let stop := bits stat 19 16
    let nowSent := fun (s : State) (k : NetTok) => match s.placement? k.task k.pl with
      | none => k
      | some p => { k with pf := p.physFret k.fret, pelem := p.physElem k.fret k.velem, gen := p.genAt k.fret k.src s.clock.cycle, earliest := s.clock.cycle + 1 + routeLat k.src (clusterOf (p.physFret k.fret)) }
    let v' := fun (u : State) => u.reg 0 0x318
    (t.st ≠ .held → refuses .dbgResume ∧ (∀ v, refuses (.dbgStep v)) ∧ refuses .dbgEnd ∧ refuses .dbgDump) ∧
    (t.st = .held → stop = 5 → refuses .dbgResume ∧ ∀ v, refuses (.dbgStep v)) ∧
    (stop ≠ 5 → refuses .dbgEnd) ∧
    (t.st = .held → stop ≠ 5 → t.gang = none → (∃ u, exec .dbgResume s = .next u ∧ (
      TaskIs u n (fun k => k = { t with st := .running, stateSince := s.clock.ns }) ∧ (∀ p ∈ u.placementsOf n, p.frozen = false) ∧
      (v' u).getLsbD 1 = false ∧ (v' u).getLsbD 2 = false ∧ u.obs.dbg.heldToks = [] ∧ u.obs.dbg.steppedWaves = [] ∧ u.mem = s.mem ∧
      ((∀ k ∈ s.obs.dbg.heldToks, ∃ p, s.placement? k.task k.pl = some p ∧ nsHas p.moving k.fret = false) → u.fab.net = s.fab.net ++ s.obs.dbg.heldToks.map (nowSent s))))) ∧
    (∀ (v : Word) p th, t.st = .held → stop ≠ 5 → t.dbg = true → s.placement? n (bits v 9 4) = some p → p.thread? (bits v 29 16) = some th →
      (∃ u, exec (.dbgStep v) s = .next u ∧ (TaskIs u n (fun k => k = { t with st := .running, stateSince := s.clock.ns }) ∧ (∀ p ∈ u.placementsOf n, p.frozen = false) ∧
        (v' u).getLsbD 1 = true ∧ (v' u).getLsbD 2 = false ∧ u.obs.dbg.stepping = some (bits v 9 4, bits v 29 16, th.oldest) ∧ u.mem = s.mem))) ∧

    (∀ f, t.fault = some f → t.st = .held → stop = 5 → t.ending = false → (∃ u, exec .dbgEnd s = .next u ∧ (
      TaskIs u n (fun k => k = { t with ending := true, status := .fault, reason := f.reason, faddr := f.addr }) ∧ u.mem = s.mem ∧ u.fab = s.fab))) ∧
    (t.st ∈ [TState.loading, .running, .held, .saving] → t.ending = false → (∃ u, exec .dbgKill s = .next u ∧ (
      TaskIs u n (fun k => k = { t with orderKill := true }) ∧ u.mem = s.mem ∧ u.fab = s.fab))) ∧
    (t.st = .held → s.hbmBacked s.dumpAt = false → s.dumpQuiet = true → refuses .dbgDump) ∧
    (let b := (s.imageOf t).bytes t
     t.st = .held → s.hbmBacked s.dumpAt = true → s.dumpAt + b.length ≤ hbmSize → s.dumpQuiet = true → (∃ u, exec .dbgDump s = .next u ∧ (
      (v' u).getLsbD 4 = false ∧ u.sched = s.sched ∧ u.fab = s.fab ∧ u.eng = s.eng ∧ u.board = s.board ∧ TaskIs u n (fun k => k = t) ∧
      ((∀ j < b.length, AtRest s ((s.dumpAt + j) / 128)) → u.readBytes s.dumpAt b.length = b))))) ∧
  (∀ n t, s.reach 0 = .served → s.obs.dbg.attached = some n → s.task? n = some t → t.num = n → t.dbg = true → t.ending = false →
    (t.st = .running → t.freezing = false → t.gang = none → (∃ u, exec .dbgHalt s = .next u ∧ (
      let v := u.reg 0 0x318
      TaskIs u n (fun k => k.st = .held ∧ k.stateSince = s.clock.ns ∧ k.ending = false) ∧
      u.placementsOf n = (s.placementsOf n).map (fun p => { p with frozen := true }) ∧
      bits v 19 16 = 1 ∧ v.getLsbD 2 = true ∧ v.getLsbD 1 = false ∧ u.obs.dbg.stepping = none ∧ u.mem = s.mem ∧ u.fab.net = s.fab.net ∧
      ∀ w, s.obs.dbg.stepping = some w → bits (s.reg 0 0x308) 2 2 = 0 → w ∈ u.obs.dbg.steppedWaves))) ∧
    (t.st ∈ [TState.loading, .saving, .saved] → (∃ u, exec .dbgHalt s = .next u ∧ (u.obs.dbg.haltPending = true ∧ u.sched = s.sched ∧ u.fab = s.fab ∧ u.mem = s.mem))))

/-- R27, R233, R235, R236: a die's merger writes the LOST record that it owes as soon as the ring has room, before any other record; else it takes the
oldest record at the heads of its clusters' FIFOs, and writes it to its function's ring, or drops and counts it. A cluster is power-gated: the records
left in its FIFO are lost, and a LOST record counts them where the function's ring has room. Under conditions on the state and the operands alone it
says that exec answers a next state for: traceMerge, clusterPowerGate. When a cluster may be gated is the model's reading (log entries 55 and 61). -/
def Obligations.TraceEvents : Prop := ∀ s : State,
  (∀ fn base size, s.lostDue s.subject = some fn → s.traceRing fn = some (base, size) → s.ringQuiet fn 0 = true → (∃ u, exec .traceMerge s = .next u ∧ (
    tgetD s.fab.trLost (64 * s.subject + fn) 0 ≠ 0 ∧ tgetD u.fab.trLost (64 * s.subject + fn) 0 = 0 ∧ u.reg fn 0x298 = s.reg fn 0x298 + 1 ∧
    u.fab.trFifo = s.fab.trFifo ∧ u.sched = s.sched ∧
    u.mem = (s.writeFn fn (base + 32 * ((s.reg fn 0x298).toNat % size)) ((lostRec s.clock.ptpNs (tgetD s.fab.trLost (64 * s.subject + fn) 0) fn).head.take 32)).mem))) ∧
  (∀ c r, s.lostDue s.subject = none → s.oldestTrace s.subject = some (c, r) →
    let key := 64 * s.subject + r.fn
    let taken := fun (u : State) => tgetD u.fab.trFifo c [] = (tgetD s.fab.trFifo c []).drop 1 ∧ (∀ k, k ≠ c → tget u.fab.trFifo k = tget s.fab.trFifo k) ∧ u.sched = s.sched
    (s.traceRing r.fn = none → (∃ u, exec .traceMerge s = .next u ∧ (taken u ∧ tgetD u.fab.trLost key 0 = tgetD s.fab.trLost key 0 + r.size ∧ u.mem = s.mem ∧ u.host = s.host))) ∧
    (∀ base size, s.traceRing r.fn = some (base, size) → s.ringQuiet r.fn r.size = true → (∀ d < 4, tgetD s.fab.trLost (64 * d + r.fn) 0 = 0) →
      (s.traceRoom r.fn size < r.size → (∃ u, exec .traceMerge s = .next u ∧ (taken u ∧ tgetD u.fab.trLost key 0 = tgetD s.fab.trLost key 0 + r.size ∧ u.mem = s.mem ∧ u.host = s.host))) ∧
      (r.body = [] → s.traceRoom r.fn size ≠ 0 → (∃ u, exec .traceMerge s = .next u ∧ (taken u ∧ u.reg r.fn 0x298 = s.reg r.fn 0x298 + 1 ∧
        tgetD u.fab.trLost key 0 = tgetD s.fab.trLost key 0))))) ∧
  (s.subject < 512 → (∀ f < 8, (s.fret (8 * s.subject + f)).st ≠ .live ∧ (s.fret (8 * s.subject + f)).st ≠ .load ∧ (s.fret (8 * s.subject + f)).st ≠ .move ∧
      (s.fret (8 * s.subject + f)).st ≠ .service) → nsHas s.fab.gated s.subject = false →
    let fifo := tgetD s.fab.trFifo s.subject []
    ((∀ r ∈ fifo, r.time + 4000 ≤ s.clock.ptpNs) ∨ (∃ r ∈ s.board.dieTemp, 800 < r.2) ∨ s.board.hotStacks ≠ []) →
    let gates := fun (u : State) => nsHas u.fab.gated s.subject = true ∧ (∀ k, k ≠ s.subject → nsHas u.fab.gated k = nsHas s.fab.gated k) ∧
      tget u.fab.trFifo s.subject = none ∧ u.sched = s.sched ∧ u.fab.frets = s.fab.frets
    ((∀ r ∈ fifo, s.traceRing r.fn = none) → (∃ u, exec .clusterPowerGate s = .next u ∧ (gates u ∧ u.mem = s.mem ∧
      ∀ r, fifo = [r] → r.fn < 64 → tgetD u.fab.trLost (64 * dieOf s.subject + r.fn) 0 = tgetD s.fab.trLost (64 * dieOf s.subject + r.fn) 0 + r.size))) ∧
    ((∀ r ∈ fifo, r.fn < 64 ∧ s.ringQuiet r.fn 4 = true) → (∃ u, exec .clusterPowerGate s = .next u ∧ (gates u ∧
      ∀ r base size, fifo = [r] → s.traceRing r.fn = some (base, size) → s.traceRoom r.fn size ≠ 0 → (∀ d < 4, tgetD s.fab.trLost (64 * d + r.fn) 0 = 0) →
        u.reg r.fn 0x298 = s.reg r.fn 0x298 + 1 ∧ tgetD u.fab.trLost (64 * dieOf s.subject + r.fn) 0 = 0))))

/-! ### The machine as a whole -/

/-- R38, R46, R47, R53, R55, R56, R350: what the machine holds right after auxiliary cold start. That memory lists nothing is the model's choice for
contents that the manual leaves open (log entry 3), and so is 0 in every register of a function that no rule gives a value before the function's first
reset (log entry 4). -/
def Obligations.ResetState : Prop :=
  State.reset.board.epStat = 0 ∧ State.reset.board.cause = .none ∧ State.reset.board.devId = 0xFFFFF ∧ State.reset.board.plim = 3400 ∧
  State.reset.board.lossEvents = 0 ∧ State.reset.board.lossLines = 0 ∧
  (∀ ch off, (State.reset.phy ch).read off = if off = 0x010 ∨ off = 0x018 then 0x4040404040404040 else 0) ∧
  (∀ f off, State.reset.reg f off = 0) ∧
  (∀ f q, State.reset.queue f q = { base := 0, prod := 0, ctl := 0, cons := 0, err := 0 }) ∧
  (∀ pf n, tgetD (State.reset.fret pf).bars n Barrier.zero = Barrier.zero) ∧
  State.reset.tasks = [] ∧ State.reset.fab.placements = [] ∧ State.reset.mem.hbm = [] ∧ State.reset.mem.hostMem = [] ∧ State.reset.sched.dispatching = false

/-- The invariants of the two statements that follow hold after reset. -/
def Obligations.ResetInvariants : Prop := MemoryCanonical State.reset ∧ BoardLegal State.reset

/-- Every step keeps HBM and the host's memory in canonical form, so that equal memories are equal data. The form is the model's own (log entry 3). -/
def Obligations.StepKeepsMemoryCanonical : Prop := ∀ s t : State, MemoryCanonical s → step s = .next t → MemoryCanonical t

/-- R26, R30, R31, R46: every step keeps the phase, the fatal state, the clock, the power limit, the duty fraction and the loss counts legal. -/
def Obligations.StepKeepsBoardLegal : Prop := ∀ s t : State, BoardLegal s → step s = .next t → BoardLegal t

/-- R26, R108, R117, R272: a step runs what its beat names: an event, in the state to which time has passed; or, in a cycle that is not frozen, an
element's chosen instance, which is ready and of the smallest key of those resident, whose record is decoded, and whose operands are its oldest
tokens. Without room it fires nothing and keeps its tokens. Which beat comes is an input (log entry 2). -/
def Obligations.StepRunsDecoded : Prop := ∀ s : State,
  (s.agenda = [] → step s = .next s) ∧
  (∀ b rest i n, s.agenda = b :: rest → b.cue = .event i n → step s = exec i { (s.passTime b) with agenda := rest, subject := n, focus := none }) ∧
  (∀ b rest task pl f velem p x bytes i tail, s.agenda = b :: rest → b.cue = .fire task pl f velem →
    let n : State := { (s.passTime b) with agenda := rest, focus := none }
    let pf := p.physFret f
    let pe := p.physElem f velem
    let fr := n.fret pf
    n.placement? task pl = some p → p.frozen = false → n.board.fatal = false → n.frozenNow = false → fr.st = .live ∨ fr.st = .service → fr.owner = some (plKey task pl, f) →
    (fr.elem pe).lastTurn ≠ some n.clock.cycle → (∀ e ∈ (fr.elem pe).entries, ∃ j, fr.slotInstr velem e.slot = .ok j) →
    fr.choose p pf velem pe n.clock.cycle = some x → tget fr.slots (32 * velem + x.slot) = some bytes → decode bytes = .ok (i, tail) →
    let xs := instEntries (fr.elem pe).entries (portsOf i) x
    (x ∈ fr.readyInsts p pf velem pe n.clock.cycle ∧
      (∀ y ∈ fr.readyInsts p pf velem pe n.clock.cycle, fr.holdsBack velem y.slot y.gen = false →
        fr.rewrote ≠ some (32 * velem + y.slot, n.clock.cycle) → fr.resident velem pe y = true →
        x.key p n.clock.cycle ≤ y.key p n.clock.cycle)) ∧
    (n.hasRoom task pf pe i = true → ∃ t, step s = exec i t ∧
      t.focus = some ⟨p.task, p.idx, f, velem, pf, pe, x.slot, x.tag, x.wave, x.gen, portData xs 0, portData xs 1, portData xs 2⟩ ∧
      t.elem pf pe = (fr.elem pe).took xs n.clock.cycle ∧ t.mem = n.mem ∧ t.fab.placements = n.fab.placements) ∧
    (n.hasRoom task pf pe i = false → ∃ t, step s = .next t ∧ (t.elem pf pe).entries = (fr.elem pe).entries ∧ (t.elem pf pe).outQ = (fr.elem pe).outQ ∧ t.mem = n.mem ∧
      t.fab.placements = n.fab.placements))

/-- R2, R254 to R261: words written out from the encoding tables decode to the forms that they stand for: one of each format, with the destination
words and the extension word where the record has them. -/
def Obligations.DecodeWords : Prop :=
  let d : Dest := ⟨.left, 0, 1, 3, false⟩
  let rec' := fun (slot : Nat) (ds : List Nat) (ext : List Nat) => leBytes 8 slot ++ (ds.map (leBytes 4)).flatten ++ (ext.map (leBytes 4)).flatten
  decode (rec' 0x2040900000000001 [0x8C00, 0x8C00] []) = .ok (.add ⟨.s64, false, .rne, [d, d], .right, .none, 1, none⟩, []) ∧
  decode (rec' 0x0100800000000000 [0x8C00, 0x40009200] []) =
    .ok (.steer ⟨.b64, false, .rne, [d, ⟨.right, 0, 1, 4, true⟩], .none, .none, 0, none⟩, []) ∧
  decode (rec' 0x902041F800100000 [0x8C00] []) = .ok (.ld ⟨.n32, .thread, [d], .none, .edge, 0, .own 1, 0, none⟩, []) ∧
  decode (rec' 0x9D30600C20500010 [0x8C00] [7]) = .ok (.atomCas ⟨.n64, .thread, [d], .none, .own 3, 4, .own 5, 0x10, some 0⟩, []) ∧
  (∃ e : FmtE, e.ta = 4 ∧ e.tb = 5 ∧ e.ext = true ∧ e.tc = 8 ∧ e.tfmt = .s8 ∧ decode (rec' 0xC920A00818404050 [0x8C00, 0x8C00] [0x08000015]) = .ok (.drain ⟨.bank0, false, 2, true, .g1⟩ e, [])) ∧
  (∃ r, decode (rec' 0xFF00000000000000 [] []) = .error r) ∧ (∃ r, decode [0, 0] = .error r)

/-- Decoding the bytes of a well-formed instruction gives it back, with every operand, whatever bytes follow. -/
def Obligations.RoundTrip : Prop := ∀ i : Instr, i.wf = true → ∀ rest : List Byte, decode (encode i ++ rest) = .ok (i, rest)
end

