-- ==== Sys2Proof/Laws/Dispatch.lean ====
section
/-!
SUPPORT. Laws/Dispatch.lean: what `exec` calls for each constructor, so that no proof unfolds the whole dispatch.
-/
namespace Sys2Proof.Machine

variable (s : State)

@[simp] theorem exec_steer (f : FmtA) : exec (.steer f) s = execSteer f s := rfl
@[simp] theorem exec_select (f : FmtA) : exec (.select f) s = execSelect f s := rfl
@[simp] theorem exec_wadv (f : FmtA) : exec (.wadv f) s = execWadv f s := rfl
@[simp] theorem exec_wset (f : FmtA) : exec (.wset f) s = execWset f s := rfl
@[simp] theorem exec_mov (f : FmtA) : exec (.mov f) s = execMov f s := rfl
@[simp] theorem exec_const (f : FmtA) : exec (.const f) s = execConst f s := rfl
@[simp] theorem exec_sink (f : FmtA) : exec (.sink f) s = execSink f s := rfl
@[simp] theorem exec_gate (f : FmtA) : exec (.gate f) s = execGate f s := rfl
@[simp] theorem exec_join (three : Bool) (f : FmtA) : exec (.join three f) s = execJoin three f s := rfl
@[simp] theorem exec_idx (f : FmtA) : exec (.idx f) s = execIdx f s := rfl
@[simp] theorem exec_spawn (f : FmtA) : exec (.spawn f) s = execSpawn f s := rfl
@[simp] theorem exec_send (f : FmtA) : exec (.send f) s = execSend f s := rfl
@[simp] theorem exec_tagof (f : FmtA) : exec (.tagof f) s = execTagof f s := rfl
@[simp] theorem exec_endt (f : FmtA) : exec (.endt f) s = execEndt f s := rfl
@[simp] theorem exec_add (f : FmtA) : exec (.add f) s = execAdd f s := rfl
@[simp] theorem exec_sub (f : FmtA) : exec (.sub f) s = execSub f s := rfl
@[simp] theorem exec_addc (co : Bool) (f : FmtA) : exec (.addc co f) s = execAddc co f s := rfl
@[simp] theorem exec_subb (bo : Bool) (f : FmtA) : exec (.subb bo f) s = execSubb bo f s := rfl
@[simp] theorem exec_neg (f : FmtA) : exec (.neg f) s = execNeg f s := rfl
@[simp] theorem exec_abs (f : FmtA) : exec (.abs f) s = execAbs f s := rfl
@[simp] theorem exec_mul (f : FmtA) : exec (.mul f) s = execMul f s := rfl
@[simp] theorem exec_mulh (f : FmtA) : exec (.mulh f) s = execMulh f s := rfl
@[simp] theorem exec_mulw (odd : Bool) (f : FmtA) : exec (.mulw odd f) s = execMulw odd f s := rfl
@[simp] theorem exec_mad (f : FmtA) : exec (.mad f) s = execMad f s := rfl
@[simp] theorem exec_div (f : FmtA) : exec (.div f) s = execDiv f s := rfl
@[simp] theorem exec_rem (f : FmtA) : exec (.rem f) s = execRem f s := rfl
@[simp] theorem exec_min (f : FmtA) : exec (.min f) s = execMin f s := rfl
@[simp] theorem exec_max (f : FmtA) : exec (.max f) s = execMax f s := rfl
@[simp] theorem exec_avg (f : FmtA) : exec (.avg f) s = execAvg f s := rfl
@[simp] theorem exec_sad (f : FmtA) : exec (.sad f) s = execSad f s := rfl
@[simp] theorem exec_and (f : FmtA) : exec (.and f) s = execAnd f s := rfl
@[simp] theorem exec_or (f : FmtA) : exec (.or f) s = execOr f s := rfl
@[simp] theorem exec_xor (f : FmtA) : exec (.xor f) s = execXor f s := rfl
@[simp] theorem exec_andn (f : FmtA) : exec (.andn f) s = execAndn f s := rfl
@[simp] theorem exec_not (f : FmtA) : exec (.not f) s = execNot f s := rfl
@[simp] theorem exec_shl (f : FmtA) : exec (.shl f) s = execShl f s := rfl
@[simp] theorem exec_shr (f : FmtA) : exec (.shr f) s = execShr f s := rfl
@[simp] theorem exec_sar (f : FmtA) : exec (.sar f) s = execSar f s := rfl
@[simp] theorem exec_rot (f : FmtA) : exec (.rot f) s = execRot f s := rfl
@[simp] theorem exec_shrp (f : FmtA) : exec (.shrp f) s = execShrp f s := rfl
@[simp] theorem exec_clz (f : FmtA) : exec (.clz f) s = execClz f s := rfl
@[simp] theorem exec_ctz (f : FmtA) : exec (.ctz f) s = execCtz f s := rfl
@[simp] theorem exec_popc (f : FmtA) : exec (.popc f) s = execPopc f s := rfl
@[simp] theorem exec_brev (f : FmtA) : exec (.brev f) s = execBrev f s := rfl
@[simp] theorem exec_bext (f : FmtA) : exec (.bext f) s = execBext f s := rfl
@[simp] theorem exec_bdep (f : FmtA) : exec (.bdep f) s = execBdep f s := rfl
@[simp] theorem exec_perm (f : FmtA) : exec (.perm f) s = execPerm f s := rfl
@[simp] theorem exec_mix (hi : Bool) (f : FmtA) : exec (.mix hi f) s = execMix hi f s := rfl
@[simp] theorem exec_bcast (f : FmtA) : exec (.bcast f) s = execBcast f s := rfl
@[simp] theorem exec_pack (f : FmtA) : exec (.pack f) s = execPack f s := rfl
@[simp] theorem exec_unpk (hi : Bool) (f : FmtA) : exec (.unpk hi f) s = execUnpk hi f s := rfl
@[simp] theorem exec_cmp (cc : ICmp) (f : FmtA) : exec (.cmp cc f) s = execCmp cc f s := rfl
@[simp] theorem exec_btst (f : FmtA) : exec (.btst f) s = execBtst f s := rfl
@[simp] theorem exec_blend (f : FmtA) : exec (.blend f) s = execBlend f s := rfl
@[simp] theorem exec_lea (scale : BitVec 2) (f : FmtA) : exec (.lea scale f) s = execLea scale f s := rfl
@[simp] theorem exec_fadd (f : FmtA) : exec (.fadd f) s = execFadd f s := rfl
@[simp] theorem exec_fsub (f : FmtA) : exec (.fsub f) s = execFsub f s := rfl
@[simp] theorem exec_fmul (f : FmtA) : exec (.fmul f) s = execFmul f s := rfl
@[simp] theorem exec_fma (f : FmtA) : exec (.fma f) s = execFma f s := rfl
@[simp] theorem exec_fmin (f : FmtA) : exec (.fmin f) s = execFmin f s := rfl
@[simp] theorem exec_fmax (f : FmtA) : exec (.fmax f) s = execFmax f s := rfl
@[simp] theorem exec_fabs (f : FmtA) : exec (.fabs f) s = execFabs f s := rfl
@[simp] theorem exec_fneg (f : FmtA) : exec (.fneg f) s = execFneg f s := rfl
@[simp] theorem exec_fcmp (cc : FCmp) (f : FmtA) : exec (.fcmp cc f) s = execFcmp cc f s := rfl
@[simp] theorem exec_fclass (f : FmtA) : exec (.fclass f) s = execFclass f s := rfl
@[simp] theorem exec_frcp (f : FmtA) : exec (.frcp f) s = execFrcp f s := rfl
@[simp] theorem exec_frsq (f : FmtA) : exec (.frsq f) s = execFrsq f s := rfl
@[simp] theorem exec_fsqrt (f : FmtA) : exec (.fsqrt f) s = execFsqrt f s := rfl
@[simp] theorem exec_fdiv (f : FmtA) : exec (.fdiv f) s = execFdiv f s := rfl
@[simp] theorem exec_fexp2 (f : FmtA) : exec (.fexp2 f) s = execFexp2 f s := rfl
@[simp] theorem exec_flog2 (f : FmtA) : exec (.flog2 f) s = execFlog2 f s := rfl
@[simp] theorem exec_ftanh (f : FmtA) : exec (.ftanh f) s = execFtanh f s := rfl
@[simp] theorem exec_fsin (f : FmtA) : exec (.fsin f) s = execFsin f s := rfl
@[simp] theorem exec_fcos (f : FmtA) : exec (.fcos f) s = execFcos f s := rfl
@[simp] theorem exec_fsig (f : FmtA) : exec (.fsig f) s = execFsig f s := rfl
@[simp] theorem exec_fround (f : FmtA) : exec (.fround f) s = execFround f s := rfl
@[simp] theorem exec_fscl (f : FmtA) : exec (.fscl f) s = execFscl f s := rfl
@[simp] theorem exec_cvt (d : ETy) (part : BitVec 3) (mrg : Bool) (f : FmtA) : exec (.cvt d part mrg f) s = execCvt d part mrg f s := rfl
@[simp] theorem exec_famax (f : FmtA) : exec (.famax f) s = execFamax f s := rfl
@[simp] theorem exec_fsum (f : FmtA) : exec (.fsum f) s = execFsum f s := rfl
@[simp] theorem exec_fdot2 (f : FmtA) : exec (.fdot2 f) s = execFdot2 f s := rfl
@[simp] theorem exec_mxscale (f : FmtA) : exec (.mxscale f) s = execMxscale f s := rfl
@[simp] theorem exec_mxq (part : BitVec 3) (f : FmtA) : exec (.mxq part f) s = execMxq part f s := rfl
@[simp] theorem exec_mxdq (part : BitVec 3) (f : FmtA) : exec (.mxdq part f) s = execMxdq part f s := rfl
@[simp] theorem exec_tpack (part : BitVec 3) (f : FmtA) : exec (.tpack part f) s = execTpack part f s := rfl
@[simp] theorem exec_tunpk (part : BitVec 3) (f : FmtA) : exec (.tunpk part f) s = execTunpk part f s := rfl
@[simp] theorem exec_ld (m : FmtM) : exec (.ld m) s = execLd m s := rfl
@[simp] theorem exec_ldAcq (m : FmtM) : exec (.ldAcq m) s = execLdAcq m s := rfl
@[simp] theorem exec_ldIo (m : FmtM) : exec (.ldIo m) s = execLdIo m s := rfl
@[simp] theorem exec_ldnt (m : FmtM) : exec (.ldnt m) s = execLdnt m s := rfl
@[simp] theorem exec_st (m : FmtM) : exec (.st m) s = execSt m s := rfl
@[simp] theorem exec_stRel (m : FmtM) : exec (.stRel m) s = execStRel m s := rfl
@[simp] theorem exec_stIo (m : FmtM) : exec (.stIo m) s = execStIo m s := rfl
@[simp] theorem exec_ldc (m : FmtM) : exec (.ldc m) s = execLdc m s := rfl
@[simp] theorem exec_stc (m : FmtM) : exec (.stc m) s = execStc m s := rfl
@[simp] theorem exec_fillc (m : FmtM) : exec (.fillc m) s = execFillc m s := rfl
@[simp] theorem exec_relc (m : FmtM) : exec (.relc m) s = execRelc m s := rfl
@[simp] theorem exec_cntq (m : FmtM) : exec (.cntq m) s = execCntq m s := rfl
@[simp] theorem exec_memnop (m : FmtM) : exec (.memnop m) s = execMemnop m s := rfl
@[simp] theorem exec_atomAdd (m : FmtM) : exec (.atomAdd m) s = execAtomAdd m s := rfl
@[simp] theorem exec_atomMin (m : FmtM) : exec (.atomMin m) s = execAtomMin m s := rfl
@[simp] theorem exec_atomMax (m : FmtM) : exec (.atomMax m) s = execAtomMax m s := rfl
@[simp] theorem exec_atomAnd (m : FmtM) : exec (.atomAnd m) s = execAtomAnd m s := rfl
@[simp] theorem exec_atomOr (m : FmtM) : exec (.atomOr m) s = execAtomOr m s := rfl
@[simp] theorem exec_atomXor (m : FmtM) : exec (.atomXor m) s = execAtomXor m s := rfl
@[simp] theorem exec_atomXchg (m : FmtM) : exec (.atomXchg m) s = execAtomXchg m s := rfl
@[simp] theorem exec_atomCas (m : FmtM) : exec (.atomCas m) s = execAtomCas m s := rfl
@[simp] theorem exec_atomInc (m : FmtM) : exec (.atomInc m) s = execAtomInc m s := rfl
@[simp] theorem exec_atomFadd (m : FmtM) : exec (.atomFadd m) s = execAtomFadd m s := rfl
@[simp] theorem exec_fence (kind : FenceKind) (m : FmtM) : exec (.fence kind m) s = execFence kind m s := rfl
@[simp] theorem exec_pref (m : FmtM) : exec (.pref m) s = execPref m s := rfl
@[simp] theorem exec_flush (m : FmtM) : exec (.flush m) s = execFlush m s := rfl
@[simp] theorem exec_waitl (m : FmtM) : exec (.waitl m) s = execWaitl m s := rfl
@[simp] theorem exec_barinit (m : FmtM) : exec (.barinit m) s = execBarinit m s := rfl
@[simp] theorem exec_bararr (m : FmtM) : exec (.bararr m) s = execBararr m s := rfl
@[simp] theorem exec_barwait (m : FmtM) : exec (.barwait m) s = execBarwait m s := rfl
@[simp] theorem exec_tLd (e : FmtE) : exec (.tLd e) s = execTLd e s := rfl
@[simp] theorem exec_tSt (e : FmtE) : exec (.tSt e) s = execTSt e s := rfl
@[simp] theorem exec_tRel (e : FmtE) : exec (.tRel e) s = execTRel e s := rfl
@[simp] theorem exec_tZero (e : FmtE) : exec (.tZero e) s = execTZero e s := rfl
@[simp] theorem exec_tStat (e : FmtE) : exec (.tStat e) s = execTStat e s := rfl
@[simp] theorem exec_tTr (e : FmtE) : exec (.tTr e) s = execTTr e s := rfl
@[simp] theorem exec_mmTern (bank clr : Bool) (e : FmtE) : exec (.mmTern bank clr e) s = execMmTern bank clr e s := rfl
@[simp] theorem exec_mmMx4 (bank clr : Bool) (e : FmtE) : exec (.mmMx4 bank clr e) s = execMmMx4 bank clr e s := rfl
@[simp] theorem exec_mmD (clr : Bool) (e : FmtE) : exec (.mmD clr e) s = execMmD clr e s := rfl
@[simp] theorem exec_drain (d : DrainF) (e : FmtE) : exec (.drain d e) s = execDrain d e s := rfl
@[simp] theorem exec_drainM (d : DrainF) (e : FmtE) : exec (.drainM d e) s = execDrainM d e s := rfl
@[simp] theorem exec_copy (e : FmtE) : exec (.copy e) s = execCopy e s := rfl
@[simp] theorem exec_gath (e : FmtE) : exec (.gath e) s = execGath e s := rfl
@[simp] theorem exec_nmcAxpy (e : FmtE) : exec (.nmcAxpy e) s = execNmcAxpy e s := rfl
@[simp] theorem exec_nmcSgd (e : FmtE) : exec (.nmcSgd e) s = execNmcSgd e s := rfl
@[simp] theorem exec_nmcScal (e : FmtE) : exec (.nmcScal e) s = execNmcScal e s := rfl
@[simp] theorem exec_nmcFill (e : FmtE) : exec (.nmcFill e) s = execNmcFill e s := rfl
@[simp] theorem exec_nmcSum (e : FmtE) : exec (.nmcSum e) s = execNmcSum e s := rfl
@[simp] theorem exec_nmcFadd (e : FmtE) : exec (.nmcFadd e) s = execNmcFadd e s := rfl
@[simp] theorem exec_collAllredSum (e : FmtE) : exec (.collAllredSum e) s = execCollAllredSum e s := rfl
@[simp] theorem exec_collAllredMax (e : FmtE) : exec (.collAllredMax e) s = execCollAllredMax e s := rfl
@[simp] theorem exec_collAllgat (e : FmtE) : exec (.collAllgat e) s = execCollAllgat e s := rfl
@[simp] theorem exec_collRedsc (e : FmtE) : exec (.collRedsc e) s = execCollRedsc e s := rfl
@[simp] theorem exec_collBcast (e : FmtE) : exec (.collBcast e) s = execCollBcast e s := rfl
@[simp] theorem exec_collGbar (e : FmtE) : exec (.collGbar e) s = execCollGbar e s := rfl
@[simp] theorem exec_rwr (e : FmtE) : exec (.rwr e) s = execRwr e s := rfl
@[simp] theorem exec_rrd (e : FmtE) : exec (.rrd e) s = execRrd e s := rfl
@[simp] theorem exec_trap (f : FmtA) : exec (.trap f) s = execTrap f s := rfl
@[simp] theorem exec_temit (f : FmtA) : exec (.temit f) s = execTemit f s := rfl
@[simp] theorem exec_brk (e : FmtE) : exec (.brk e) s = execBrk e s := rfl
@[simp] theorem exec_srd (reg : SReg) (f : FmtA) : exec (.srd reg f) s = execSrd reg f s := rfl
@[simp] theorem exec_swrEvsel (n : BitVec 2) (e : FmtE) : exec (.swrEvsel n e) s = execSwrEvsel n e s := rfl
@[simp] theorem exec_swrEvc (n : BitVec 2) (e : FmtE) : exec (.swrEvc n e) s = execSwrEvc n e s := rfl
@[simp] theorem exec_swrBeat (e : FmtE) : exec (.swrBeat e) s = execSwrBeat e s := rfl
@[simp] theorem exec_swrQerr (e : FmtE) : exec (.swrQerr e) s = execSwrQerr e s := rfl
@[simp] theorem exec_swrQcons (e : FmtE) : exec (.swrQcons e) s = execSwrQcons e s := rfl
@[simp] theorem exec_launch (e : FmtE) : exec (.launch e) s = execLaunch e s := rfl
@[simp] theorem exec_launchDisp (e : FmtE) : exec (.launchDisp e) s = execLaunchDisp e s := rfl
@[simp] theorem exec_launchRecfg (e : FmtE) : exec (.launchRecfg e) s = execLaunchRecfg e s := rfl
@[simp] theorem exec_time (f : FmtA) : exec (.time f) s = execTime f s := rfl
@[simp] theorem exec_chk (f : FmtA) : exec (.chk f) s = execChk f s := rfl
@[simp] theorem exec_bridgeLinkTraining (failing : List (Nat × Nat × Nat)) : exec (.bridgeLinkTraining failing) s = execBridgeLinkTraining failing s := rfl
@[simp] theorem exec_fretSelfTest (defective : List Nat) : exec (.fretSelfTest defective) s = execFretSelfTest defective s := rfl
@[simp] theorem exec_hostLinkTrained (rate width : Nat) (cxl : Bool) : exec (.hostLinkTrained rate width cxl) s = execHostLinkTrained rate width cxl s := rfl
@[simp] theorem exec_folgarPortTrained (port : Nat) (mode : FolgarMode) : exec (.folgarPortTrained port mode) s = execFolgarPortTrained port mode s := rfl
@[simp] theorem exec_bridgeFlitCrcFail (link : Nat) (retrainOk : Bool) : exec (.bridgeFlitCrcFail link retrainOk) s = execBridgeFlitCrcFail link retrainOk s := rfl
@[simp] theorem exec_folgarFlitReceive (port vc : Nat) (flit : List Byte) : exec (.folgarFlitReceive port vc flit) s = execFolgarFlitReceive port vc flit s := rfl
@[simp] theorem exec_ptpSync (sync : PtpSync) : exec (.ptpSync sync) s = execPtpSync sync s := rfl
@[simp] theorem exec_powerEvaluation (watts : Nat) : exec (.powerEvaluation watts) s = execPowerEvaluation watts s := rfl
@[simp] theorem exec_thermalThreshold (sensor temp : Nat) : exec (.thermalThreshold sensor temp) s = execThermalThreshold sensor temp s := rfl
@[simp] theorem exec_thermalTrip (sensor temp : Nat) : exec (.thermalTrip sensor temp) s = execThermalTrip sensor temp s := rfl
@[simp] theorem exec_patrolScrubVisit (channel line : Nat) : exec (.patrolScrubVisit channel line) s = execPatrolScrubVisit channel line s := rfl
@[simp] theorem exec_epurnReadCommand (off : Nat) : exec (.epurnReadCommand off) s = execEpurnReadCommand off s := rfl
@[simp] theorem exec_deviceIdWrite (v : BitVec 20) : exec (.deviceIdWrite v) s = execDeviceIdWrite v s := rfl
@[simp] theorem exec_epPlimWrite (v : BitVec 32) : exec (.epPlimWrite v) s = execEpPlimWrite v s := rfl
@[simp] theorem exec_epResetWrite (v : BitVec 32) : exec (.epResetWrite v) s = execEpResetWrite v s := rfl
@[simp] theorem exec_pldmFirmwareUpdate (image : FwImage) : exec (.pldmFirmwareUpdate image) s = execPldmFirmwareUpdate image s := rfl
@[simp] theorem exec_spdmRequest (msg : SpdmMsg) : exec (.spdmRequest msg) s = execSpdmRequest msg s := rfl
@[simp] theorem exec_registerWrite (window : BarWindow) (off size : Nat) (v : Word) : exec (.registerWrite window off size v) s = execRegisterWrite window off size v s := rfl
@[simp] theorem exec_bar2Read (fn off len : Nat) : exec (.bar2Read fn off len) s = execBar2Read fn off len s := rfl
@[simp] theorem exec_bar2Write (fn off : Nat) (bytes : List Byte) : exec (.bar2Write fn off bytes) s = execBar2Write fn off bytes s := rfl
@[simp] theorem exec_hfEvtClear (fn : Nat) (v : Word) : exec (.hfEvtClear fn v) s = execHfEvtClear fn v s := rfl
@[simp] theorem exec_queueEnable (fn queue : Nat) (v : Word) : exec (.queueEnable fn queue v) s = execQueueEnable fn queue v s := rfl
@[simp] theorem exec_queueDisable (fn queue : Nat) (v : Word) : exec (.queueDisable fn queue v) s = execQueueDisable fn queue v s := rfl
@[simp] theorem exec_workItemIssue (task pl : Nat) : exec (.workItemIssue task pl) s = execWorkItemIssue task pl s := rfl
@[simp] theorem exec_placementRelease (task pl : Nat) : exec (.placementRelease task pl) s = execPlacementRelease task pl s := rfl
@[simp] theorem exec_fretMove (src : Nat) (goal : MoveGoal) : exec (.fretMove src goal) s = execFretMove src goal s := rfl
@[simp] theorem exec_hostKill (fn : Nat) (v : Word) : exec (.hostKill fn v) s = execHostKill fn v s := rfl
@[simp] theorem exec_gangHoldReceive (gid : BitVec 32) (at_ : Nat) : exec (.gangHoldReceive gid at_) s = execGangHoldReceive gid at_ s := rfl
@[simp] theorem exec_gangFreezeInstant (gid : BitVec 32) : exec (.gangFreezeInstant gid) s = execGangFreezeInstant gid s := rfl
@[simp] theorem exec_gangReleaseReceive (gid : BitVec 32) (at_ : Nat) : exec (.gangReleaseReceive gid at_) s = execGangReleaseReceive gid at_ s := rfl
@[simp] theorem exec_gangResumeInstant (gid : BitVec 32) : exec (.gangResumeInstant gid) s = execGangResumeInstant gid s := rfl
@[simp] theorem exec_flushMarkerArrival (pf cluster : Nat) : exec (.flushMarkerArrival pf cluster) s = execFlushMarkerArrival pf cluster s := rfl
@[simp] theorem exec_earlyReadPerform (task pl : Nat) (tag : Tag) (own : BitVec 6) : exec (.earlyReadPerform task pl tag own) s = execEarlyReadPerform task pl tag own s := rfl
@[simp] theorem exec_waveCommit (task pl : Nat) (tag : Tag) : exec (.waveCommit task pl tag) s = execWaveCommit task pl tag s := rfl
@[simp] theorem exec_heldOperationIssue (task pl : Nat) (tag : Tag) : exec (.heldOperationIssue task pl tag) s = execHeldOperationIssue task pl tag s := rfl
@[simp] theorem exec_endtTagReturn (task pl : Nat) (tag : Tag) : exec (.endtTagReturn task pl tag) s = execEndtTagReturn task pl tag s := rfl
@[simp] theorem exec_tagUnitSpawn (task pl : Nat) : exec (.tagUnitSpawn task pl) s = execTagUnitSpawn task pl s := rfl
@[simp] theorem exec_faultReportArrival (task n : Nat) : exec (.faultReportArrival task n) s = execFaultReportArrival task n s := rfl
@[simp] theorem exec_hlcClusterRead (n : Nat) (exclusive : Bool) : exec (.hlcClusterRead n exclusive) s = execHlcClusterRead n exclusive s := rfl
@[simp] theorem exec_accessQueueConsume (v : Word) : exec (.accessQueueConsume v) s = execAccessQueueConsume v s := rfl
@[simp] theorem exec_invalidationStart (fn : Nat) (v : Word) : exec (.invalidationStart fn v) s = execInvalidationStart fn v s := rfl
@[simp] theorem exec_hphyProbeStart (ch : Nat) (v : Word) : exec (.hphyProbeStart ch v) s = execHphyProbeStart ch v s := rfl
@[simp] theorem exec_hphyProbeComplete (ch : Nat) (pass : Word) (spass : BitVec 2) : exec (.hphyProbeComplete ch pass spass) s = execHphyProbeComplete ch pass spass s := rfl
@[simp] theorem exec_hphySetChst (ch : Nat) (v : Word) : exec (.hphySetChst ch v) s = execHphySetChst ch v s := rfl
@[simp] theorem exec_hphyPatternTestStart (ch : Nat) (v : Word) : exec (.hphyPatternTestStart ch v) s = execHphyPatternTestStart ch v s := rfl
@[simp] theorem exec_hphyPatternTestComplete (ch : Nat) (errcnt : BitVec 16) (errdq : Word) : exec (.hphyPatternTestComplete ch errcnt errdq) s = execHphyPatternTestComplete ch errcnt errdq s := rfl
@[simp] theorem exec_remoteWriteServe (gid : BitVec 32) (addr : Nat) (bytes : List Byte) (poisoned : Bool) : exec (.remoteWriteServe gid addr bytes poisoned) s = execRemoteWriteServe gid addr bytes poisoned s := rfl
@[simp] theorem exec_remoteReadServe (gid : BitVec 32) (addr len : Nat) : exec (.remoteReadServe gid addr len) s = execRemoteReadServe gid addr len s := rfl
@[simp] theorem exec_collEntry (peer : CollPeer) : exec (.collEntry peer) s = execCollEntry peer s := rfl
@[simp] theorem exec_collTimeout (cid : BitVec 32) : exec (.collTimeout cid) s = execCollTimeout cid s := rfl
@[simp] theorem exec_dbgStep (v : Word) : exec (.dbgStep v) s = execDbgStep v s := rfl
@[simp] theorem exec_cxlMemAccess (write : Bool) (addr : Nat) (bytes : List Byte) : exec (.cxlMemAccess write addr bytes) s = execCxlMemAccess write addr bytes s := rfl
@[simp] theorem exec_auxColdStart : exec .auxColdStart s = execAuxColdStart s := rfl
@[simp] theorem exec_pwrEnAssert : exec .pwrEnAssert s = execPwrEnAssert s := rfl
@[simp] theorem exec_pwrEnDeassert : exec .pwrEnDeassert s = execPwrEnDeassert s := rfl
@[simp] theorem exec_perstNAssert : exec .perstNAssert s = execPerstNAssert s := rfl
@[simp] theorem exec_perstNDeassert : exec .perstNDeassert s = execPerstNDeassert s := rfl
@[simp] theorem exec_hubSecurityBoot : exec .hubSecurityBoot s = execHubSecurityBoot s := rfl
@[simp] theorem exec_hbmTrainingPhaseEnd : exec .hbmTrainingPhaseEnd s = execHbmTrainingPhaseEnd s := rfl
@[simp] theorem exec_dispatcherStart : exec .dispatcherStart s = execDispatcherStart s := rfl
@[simp] theorem exec_phaseTimeout : exec .phaseTimeout s = execPhaseTimeout s := rfl
@[simp] theorem exec_configRequest : exec .configRequest s = execConfigRequest s := rfl
@[simp] theorem exec_folgarTrainingTimeout : exec .folgarTrainingTimeout s = execFolgarTrainingTimeout s := rfl
@[simp] theorem exec_clockChange : exec .clockChange s = execClockChange s := rfl
@[simp] theorem exec_cooldownExpiry : exec .cooldownExpiry s = execCooldownExpiry s := rfl
@[simp] theorem exec_heartbeatWatchdog : exec .heartbeatWatchdog s = execHeartbeatWatchdog s := rfl
@[simp] theorem exec_pldmPlatformMonitoring : exec .pldmPlatformMonitoring s = execPldmPlatformMonitoring s := rfl
@[simp] theorem exec_dispatchPick : exec .dispatchPick s = execDispatchPick s := rfl
@[simp] theorem exec_leaseWalkResume : exec .leaseWalkResume s = execLeaseWalkResume s := rfl
@[simp] theorem exec_quotaAdmit : exec .quotaAdmit s = execQuotaAdmit s := rfl
@[simp] theorem exec_fretwaitService : exec .fretwaitService s = execFretwaitService s := rfl
@[simp] theorem exec_drainVictimExpiry : exec .drainVictimExpiry s = execDrainVictimExpiry s := rfl
@[simp] theorem exec_fretLoad : exec .fretLoad s = execFretLoad s := rfl
@[simp] theorem exec_placementGrowth : exec .placementGrowth s = execPlacementGrowth s := rfl
@[simp] theorem exec_fretScrubComplete : exec .fretScrubComplete s = execFretScrubComplete s := rfl
@[simp] theorem exec_fretMoveComplete : exec .fretMoveComplete s = execFretMoveComplete s := rfl
@[simp] theorem exec_taskEnd : exec .taskEnd s = execTaskEnd s := rfl
@[simp] theorem exec_taskDone : exec .taskDone s = execTaskDone s := rfl
@[simp] theorem exec_checkpointStart : exec .checkpointStart s = execCheckpointStart s := rfl
@[simp] theorem exec_checkpointWriteComplete : exec .checkpointWriteComplete s = execCheckpointWriteComplete s := rfl
@[simp] theorem exec_checkpointTimeout : exec .checkpointTimeout s = execCheckpointTimeout s := rfl
@[simp] theorem exec_taskResume : exec .taskResume s = execTaskResume s := rfl
@[simp] theorem exec_taskKill : exec .taskKill s = execTaskKill s := rfl
@[simp] theorem exec_killDrainTimeout : exec .killDrainTimeout s = execKillDrainTimeout s := rfl
@[simp] theorem exec_pfFlr : exec .pfFlr s = execPfFlr s := rfl
@[simp] theorem exec_vfFlr : exec .vfFlr s = execVfFlr s := rfl
@[simp] theorem exec_flrDrainComplete : exec .flrDrainComplete s = execFlrDrainComplete s := rfl
@[simp] theorem exec_flrDrainTimeout : exec .flrDrainTimeout s = execFlrDrainTimeout s := rfl
@[simp] theorem exec_hostLinkLoss : exec .hostLinkLoss s = execHostLinkLoss s := rfl
@[simp] theorem exec_linkLossTimeout : exec .linkLossTimeout s = execLinkLossTimeout s := rfl
@[simp] theorem exec_hostLinkRetrain : exec .hostLinkRetrain s = execHostLinkRetrain s := rfl
@[simp] theorem exec_sliceStart : exec .sliceStart s = execSliceStart s := rfl
@[simp] theorem exec_sliceEnd : exec .sliceEnd s = execSliceEnd s := rfl
@[simp] theorem exec_tokenArrival : exec .tokenArrival s = execTokenArrival s := rfl
@[simp] theorem exec_reconfigurationToken : exec .reconfigurationToken s = execReconfigurationToken s := rfl
@[simp] theorem exec_reconfigRewriteComplete : exec .reconfigRewriteComplete s = execReconfigRewriteComplete s := rfl
@[simp] theorem exec_reconfigScrubExpiry : exec .reconfigScrubExpiry s = execReconfigScrubExpiry s := rfl
@[simp] theorem exec_wobEntryAdmit : exec .wobEntryAdmit s = execWobEntryAdmit s := rfl
@[simp] theorem exec_chainOperationArrival : exec .chainOperationArrival s = execChainOperationArrival s := rfl
@[simp] theorem exec_readReply : exec .readReply s = execReadReply s := rfl
@[simp] theorem exec_storeAck : exec .storeAck s = execStoreAck s := rfl
@[simp] theorem exec_faultFreezeComplete : exec .faultFreezeComplete s = execFaultFreezeComplete s := rfl
@[simp] theorem exec_homeReadMiss : exec .homeReadMiss s = execHomeReadMiss s := rfl
@[simp] theorem exec_homeWriteMiss : exec .homeWriteMiss s = execHomeWriteMiss s := rfl
@[simp] theorem exec_homePerformedAccess : exec .homePerformedAccess s = execHomePerformedAccess s := rfl
@[simp] theorem exec_cleanEvictionNotice : exec .cleanEvictionNotice s = execCleanEvictionNotice s := rfl
@[simp] theorem exec_dirtyWriteBack : exec .dirtyWriteBack s = execDirtyWriteBack s := rfl
@[simp] theorem exec_invalidationReceive : exec .invalidationReceive s = execInvalidationReceive s := rfl
@[simp] theorem exec_forwardRecallReceive : exec .forwardRecallReceive s = execForwardRecallReceive s := rfl
@[simp] theorem exec_ackReceive : exec .ackReceive s = execAckReceive s := rfl
@[simp] theorem exec_hlcWrite : exec .hlcWrite s = execHlcWrite s := rfl
@[simp] theorem exec_hostSnoopData : exec .hostSnoopData s = execHostSnoopData s := rfl
@[simp] theorem exec_hostSnoopInvalidate : exec .hostSnoopInvalidate s = execHostSnoopInvalidate s := rfl
@[simp] theorem exec_countedEstablishment : exec .countedEstablishment s = execCountedEstablishment s := rfl
@[simp] theorem exec_consumingRead : exec .consumingRead s = execConsumingRead s := rfl
@[simp] theorem exec_relcScan : exec .relcScan s = execRelcScan s := rfl
@[simp] theorem exec_hfAcovfClear : exec .hfAcovfClear s = execHfAcovfClear s := rfl
@[simp] theorem exec_invalidationComplete : exec .invalidationComplete s = execInvalidationComplete s := rfl
@[simp] theorem exec_migrationRecordConsume : exec .migrationRecordConsume s = execMigrationRecordConsume s := rfl
@[simp] theorem exec_migrationPieceCopy : exec .migrationPieceCopy s = execMigrationPieceCopy s := rfl
@[simp] theorem exec_migrationSwitchOver : exec .migrationSwitchOver s = execMigrationSwitchOver s := rfl
@[simp] theorem exec_barrierRequestServe : exec .barrierRequestServe s = execBarrierRequestServe s := rfl
@[simp] theorem exec_barwaitResend : exec .barwaitResend s = execBarwaitResend s := rfl
@[simp] theorem exec_waitlSlicePoll : exec .waitlSlicePoll s = execWaitlSlicePoll s := rfl
@[simp] theorem exec_waitlHostPoll : exec .waitlHostPoll s = execWaitlHostPoll s := rfl
@[simp] theorem exec_prefComplete : exec .prefComplete s = execPrefComplete s := rfl
@[simp] theorem exec_engineCommandAccept : exec .engineCommandAccept s = execEngineCommandAccept s := rfl
@[simp] theorem exec_engineCommandStart : exec .engineCommandStart s = execEngineCommandStart s := rfl
@[simp] theorem exec_engineCommandComplete : exec .engineCommandComplete s = execEngineCommandComplete s := rfl
@[simp] theorem exec_remoteRequestTimeout : exec .remoteRequestTimeout s = execRemoteRequestTimeout s := rfl
@[simp] theorem exec_traceMerge : exec .traceMerge s = execTraceMerge s := rfl
@[simp] theorem exec_clusterPowerGate : exec .clusterPowerGate s = execClusterPowerGate s := rfl
@[simp] theorem exec_debugAttach : exec .debugAttach s = execDebugAttach s := rfl
@[simp] theorem exec_dbgHalt : exec .dbgHalt s = execDbgHalt s := rfl
@[simp] theorem exec_dbgResume : exec .dbgResume s = execDbgResume s := rfl
@[simp] theorem exec_dbgEnd : exec .dbgEnd s = execDbgEnd s := rfl
@[simp] theorem exec_dbgKill : exec .dbgKill s = execDbgKill s := rfl
@[simp] theorem exec_dbgDump : exec .dbgDump s = execDbgDump s := rfl
@[simp] theorem exec_killDrainComplete : exec .killDrainComplete s = execKillDrainComplete s := rfl
@[simp] theorem exec_checkpointSettleComplete : exec .checkpointSettleComplete s = execCheckpointSettleComplete s := rfl

end Sys2Proof.Machine
end

