-- ==== Sys2Proof/Laws/Lanes.lean ====
section
/-!
SUPPORT. Laws/Lanes.lean: what the lane builders put into each lane, the flags they collect, and the sizes of the types.
-/
namespace Sys2Proof.Machine

theorem packLanes_lt (w : Nat) (vs : List Nat) : packLanes w vs < 2 ^ (w * vs.length) := by
  induction vs with
  | nil => simp [packLanes]
  | cons v vs ih =>
    have h : v % 2 ^ w < 2 ^ w := Nat.mod_lt _ (by positivity)
    have h2 : 2 ^ w * (packLanes w vs + 1) ≤ 2 ^ w * 2 ^ (w * vs.length) := Nat.mul_le_mul_left _ ih
    rw [packLanes, List.length_cons, Nat.mul_succ, Nat.pow_add, Nat.mul_comm (2 ^ (w * vs.length))]
    rw [Nat.mul_add, Nat.mul_one] at h2
    omega

/-- Lane i of a packed list. -/
theorem packLanes_lane (w : Nat) (vs : List Nat) (i : Nat) (h : i < vs.length) :
    packLanes w vs / 2 ^ (w * i) % 2 ^ w = vs[i] % 2 ^ w := by
  induction vs generalizing i with
  | nil => simp at h
  | cons v vs ih =>
    have hv : v % 2 ^ w < 2 ^ w := Nat.mod_lt _ (by positivity)
    cases i with
    | zero => simp [packLanes]
    | succ i =>
      have hdiv : packLanes w (v :: vs) / 2 ^ w = packLanes w vs := by
        rw [packLanes, Nat.add_mul_div_left _ _ (by positivity), Nat.div_eq_of_lt hv, Nat.zero_add]
      have : 2 ^ (w * (i + 1)) = 2 ^ w * 2 ^ (w * i) := by rw [← Nat.pow_add]; congr 1; ring
      rw [this, ← Nat.div_div_eq_div_mul, hdiv]
      simpa using ih i (by simpa using h)

theorem ofNat_packLanes_lane (w : Nat) (vs : List Nat) (i : Nat) (h : i < vs.length) (hw : w * vs.length ≤ 64) :
    laneOf w (BitVec.ofNat 64 (packLanes w vs)) i = vs[i] % 2 ^ w := by
  have hlt : packLanes w vs < 2 ^ 64 := lt_of_lt_of_le (packLanes_lt w vs) (Nat.pow_le_pow_right (by norm_num) hw)
  rw [laneOf, BitVec.toNat_ofNat, Nat.mod_eq_of_lt hlt, packLanes_lane w vs i h]

/-- Lane i of a word built lane by lane. -/
theorem laneOf_mapLanes (n w : Nat) (g : Nat → Nat) (i : Nat) (h : i < n) (hw : w * n ≤ 64) :
    laneOf w (mapLanes n w g) i = g i % 2 ^ w := by
  rw [mapLanes, ofNat_packLanes_lane w _ i (by simpa using h) (by simpa using hw)]; simp

theorem laneOf_mapLanesF (n w : Nat) (g : Nat → Nat × Flags) (i : Nat) (h : i < n) (hw : w * n ≤ 64) :
    laneOf w (mapLanesF n w g).1 i = (g i).1 % 2 ^ w := by
  rw [mapLanesF, ofNat_packLanes_lane w _ i (by simpa using h) (by simpa using hw)]; simp

/-- Every type fills the word. -/
theorem width_mul_lanes (t : ETy) : t.width * t.lanes = 64 := by cases t <;> rfl

theorem width_pos (t : ETy) : 0 < t.width := by cases t <;> decide

/-- Lane i of a word of integer lanes is the integer modulo 2^w. -/
theorem laneOf_mapInts (t : ETy) (g : Nat → Int) (i : Nat) (h : i < t.lanes) :
    ((laneOf t.width (mapInts t g) i : Nat) : Int) = g i % 2 ^ t.width := by
  rw [mapInts, laneOf_mapLanes _ _ _ _ h (width_mul_lanes t).le, wrapInt, Int.natCast_mod,
    Int.toNat_of_nonneg (Int.emod_nonneg _ (by positivity))]
  push_cast
  exact Int.emod_emod_of_dvd _ (dvd_refl _)

theorem wrapInt_mod (w : Nat) (v : Int) : (((wrapInt w v) % 2 ^ w : Nat) : Int) = v % 2 ^ w := by
  rw [wrapInt, Int.natCast_mod, Int.toNat_of_nonneg (Int.emod_nonneg _ (by positivity))]
  push_cast
  exact Int.emod_emod_of_dvd _ (dvd_refl _)

/-- A collected flag list: the union of lanes' flags is empty or one flag where every lane's is. -/
theorem Flags.or_none (f : Flags) : f.or Flags.none = f := by cases f; simp [Flags.or, Flags.none]

theorem Flags.none_or (f : Flags) : Flags.none.or f = f := by cases f; simp [Flags.or, Flags.none]

theorem Flags.or_self (f : Flags) : f.or f = f := by cases f; simp [Flags.or]

/-- The union of flags that are each one given flag or none. -/
theorem Flags.all_when (fl : Flags) (l : List Bool) :
    Flags.all (l.map (fun b => Flags.when b fl)) = Flags.when (l.any id) fl := by
  induction l with
  | nil => rfl
  | cons b l ih =>
    rw [List.map_cons, Flags.all, ih]
    cases b <;> cases h : l.any id <;> simp [Flags.when, h, Flags.or_none, Flags.none_or, Flags.or_self]

end Sys2Proof.Machine
end

