-- ==== Sys2Proof/Laws/State.lean ====
section
/-!
SUPPORT. Laws/State.lean: one lemma per field of the state for each named update, so that no proof unfolds a record update.
-/
namespace Sys2Proof.Machine

@[simp] theorem State.setFret_clock (s : State) (pf : Nat) (f : Fret) :
    (s.setFret pf f).clock = s.clock := rfl
@[simp] theorem State.setFret_board (s : State) (pf : Nat) (f : Fret) :
    (s.setFret pf f).board = s.board := rfl
@[simp] theorem State.setFret_host (s : State) (pf : Nat) (f : Fret) :
    (s.setFret pf f).host = s.host := rfl
@[simp] theorem State.setFret_mem (s : State) (pf : Nat) (f : Fret) :
    (s.setFret pf f).mem = s.mem := rfl
@[simp] theorem State.setFret_fab (s : State) (pf : Nat) (f : Fret) :
    (s.setFret pf f).fab = { s.fab with frets := tput s.fab.frets pf f } := rfl
@[simp] theorem State.setFret_sched (s : State) (pf : Nat) (f : Fret) :
    (s.setFret pf f).sched = s.sched := rfl
@[simp] theorem State.setFret_eng (s : State) (pf : Nat) (f : Fret) :
    (s.setFret pf f).eng = s.eng := rfl
@[simp] theorem State.setFret_obs (s : State) (pf : Nat) (f : Fret) :
    (s.setFret pf f).obs = s.obs := rfl
@[simp] theorem State.setFret_agenda (s : State) (pf : Nat) (f : Fret) :
    (s.setFret pf f).agenda = s.agenda := rfl
@[simp] theorem State.setFret_focus (s : State) (pf : Nat) (f : Fret) :
    (s.setFret pf f).focus = s.focus := rfl
@[simp] theorem State.setFret_subject (s : State) (pf : Nat) (f : Fret) :
    (s.setFret pf f).subject = s.subject := rfl
@[simp] theorem State.setFret_freeCtr (s : State) (pf : Nat) (f : Fret) :
    (s.setFret pf f).freeCtr = s.freeCtr := rfl
@[simp] theorem State.setFret_seqCtr (s : State) (pf : Nat) (f : Fret) :
    (s.setFret pf f).seqCtr = s.seqCtr := rfl

@[simp] theorem State.modFret_clock (s : State) (pf : Nat) (g : Fret → Fret) :
    (s.modFret pf g).clock = s.clock := rfl
@[simp] theorem State.modFret_board (s : State) (pf : Nat) (g : Fret → Fret) :
    (s.modFret pf g).board = s.board := rfl
@[simp] theorem State.modFret_host (s : State) (pf : Nat) (g : Fret → Fret) :
    (s.modFret pf g).host = s.host := rfl
@[simp] theorem State.modFret_mem (s : State) (pf : Nat) (g : Fret → Fret) :
    (s.modFret pf g).mem = s.mem := rfl
@[simp] theorem State.modFret_fab (s : State) (pf : Nat) (g : Fret → Fret) :
    (s.modFret pf g).fab = { s.fab with frets := tput s.fab.frets pf (g (s.fret pf)) } := rfl
@[simp] theorem State.modFret_sched (s : State) (pf : Nat) (g : Fret → Fret) :
    (s.modFret pf g).sched = s.sched := rfl
@[simp] theorem State.modFret_eng (s : State) (pf : Nat) (g : Fret → Fret) :
    (s.modFret pf g).eng = s.eng := rfl
@[simp] theorem State.modFret_obs (s : State) (pf : Nat) (g : Fret → Fret) :
    (s.modFret pf g).obs = s.obs := rfl
@[simp] theorem State.modFret_agenda (s : State) (pf : Nat) (g : Fret → Fret) :
    (s.modFret pf g).agenda = s.agenda := rfl
@[simp] theorem State.modFret_focus (s : State) (pf : Nat) (g : Fret → Fret) :
    (s.modFret pf g).focus = s.focus := rfl
@[simp] theorem State.modFret_subject (s : State) (pf : Nat) (g : Fret → Fret) :
    (s.modFret pf g).subject = s.subject := rfl
@[simp] theorem State.modFret_freeCtr (s : State) (pf : Nat) (g : Fret → Fret) :
    (s.modFret pf g).freeCtr = s.freeCtr := rfl
@[simp] theorem State.modFret_seqCtr (s : State) (pf : Nat) (g : Fret → Fret) :
    (s.modFret pf g).seqCtr = s.seqCtr := rfl

@[simp] theorem State.modElem_clock (s : State) (pf e : Nat) (g : Elem → Elem) :
    (s.modElem pf e g).clock = s.clock := rfl
@[simp] theorem State.modElem_board (s : State) (pf e : Nat) (g : Elem → Elem) :
    (s.modElem pf e g).board = s.board := rfl
@[simp] theorem State.modElem_host (s : State) (pf e : Nat) (g : Elem → Elem) :
    (s.modElem pf e g).host = s.host := rfl
@[simp] theorem State.modElem_mem (s : State) (pf e : Nat) (g : Elem → Elem) :
    (s.modElem pf e g).mem = s.mem := rfl
@[simp] theorem State.modElem_fab (s : State) (pf e : Nat) (g : Elem → Elem) :
    (s.modElem pf e g).fab = (s.modFret pf (fun f => f.setElem e (g (f.elem e)))).fab := rfl
@[simp] theorem State.modElem_sched (s : State) (pf e : Nat) (g : Elem → Elem) :
    (s.modElem pf e g).sched = s.sched := rfl
@[simp] theorem State.modElem_eng (s : State) (pf e : Nat) (g : Elem → Elem) :
    (s.modElem pf e g).eng = s.eng := rfl
@[simp] theorem State.modElem_obs (s : State) (pf e : Nat) (g : Elem → Elem) :
    (s.modElem pf e g).obs = s.obs := rfl
@[simp] theorem State.modElem_agenda (s : State) (pf e : Nat) (g : Elem → Elem) :
    (s.modElem pf e g).agenda = s.agenda := rfl
@[simp] theorem State.modElem_focus (s : State) (pf e : Nat) (g : Elem → Elem) :
    (s.modElem pf e g).focus = s.focus := rfl
@[simp] theorem State.modElem_subject (s : State) (pf e : Nat) (g : Elem → Elem) :
    (s.modElem pf e g).subject = s.subject := rfl
@[simp] theorem State.modElem_freeCtr (s : State) (pf e : Nat) (g : Elem → Elem) :
    (s.modElem pf e g).freeCtr = s.freeCtr := rfl
@[simp] theorem State.modElem_seqCtr (s : State) (pf e : Nat) (g : Elem → Elem) :
    (s.modElem pf e g).seqCtr = s.seqCtr := rfl

@[simp] theorem State.setPlacement_clock (s : State) (p : Placement) :
    (s.setPlacement p).clock = s.clock := rfl
@[simp] theorem State.setPlacement_board (s : State) (p : Placement) :
    (s.setPlacement p).board = s.board := rfl
@[simp] theorem State.setPlacement_host (s : State) (p : Placement) :
    (s.setPlacement p).host = s.host := rfl
@[simp] theorem State.setPlacement_mem (s : State) (p : Placement) :
    (s.setPlacement p).mem = s.mem := rfl
@[simp] theorem State.setPlacement_fab (s : State) (p : Placement) :
    (s.setPlacement p).fab = { s.fab with placements := tput s.fab.placements (plKey p.task p.idx) p } := rfl
@[simp] theorem State.setPlacement_sched (s : State) (p : Placement) :
    (s.setPlacement p).sched = s.sched := rfl
@[simp] theorem State.setPlacement_eng (s : State) (p : Placement) :
    (s.setPlacement p).eng = s.eng := rfl
@[simp] theorem State.setPlacement_obs (s : State) (p : Placement) :
    (s.setPlacement p).obs = s.obs := rfl
@[simp] theorem State.setPlacement_agenda (s : State) (p : Placement) :
    (s.setPlacement p).agenda = s.agenda := rfl
@[simp] theorem State.setPlacement_focus (s : State) (p : Placement) :
    (s.setPlacement p).focus = s.focus := rfl
@[simp] theorem State.setPlacement_subject (s : State) (p : Placement) :
    (s.setPlacement p).subject = s.subject := rfl
@[simp] theorem State.setPlacement_freeCtr (s : State) (p : Placement) :
    (s.setPlacement p).freeCtr = s.freeCtr := rfl
@[simp] theorem State.setPlacement_seqCtr (s : State) (p : Placement) :
    (s.setPlacement p).seqCtr = s.seqCtr := rfl

@[simp] theorem State.modPlacement_clock (s : State) (task pl : Nat) (g : Placement → Placement) :
    (s.modPlacement task pl g).clock = s.clock := rfl
@[simp] theorem State.modPlacement_board (s : State) (task pl : Nat) (g : Placement → Placement) :
    (s.modPlacement task pl g).board = s.board := rfl
@[simp] theorem State.modPlacement_host (s : State) (task pl : Nat) (g : Placement → Placement) :
    (s.modPlacement task pl g).host = s.host := rfl
@[simp] theorem State.modPlacement_mem (s : State) (task pl : Nat) (g : Placement → Placement) :
    (s.modPlacement task pl g).mem = s.mem := rfl
@[simp] theorem State.modPlacement_fab (s : State) (task pl : Nat) (g : Placement → Placement) :
    (s.modPlacement task pl g).fab = { s.fab with placements := tmod s.fab.placements (plKey task pl) g } := rfl
@[simp] theorem State.modPlacement_sched (s : State) (task pl : Nat) (g : Placement → Placement) :
    (s.modPlacement task pl g).sched = s.sched := rfl
@[simp] theorem State.modPlacement_eng (s : State) (task pl : Nat) (g : Placement → Placement) :
    (s.modPlacement task pl g).eng = s.eng := rfl
@[simp] theorem State.modPlacement_obs (s : State) (task pl : Nat) (g : Placement → Placement) :
    (s.modPlacement task pl g).obs = s.obs := rfl
@[simp] theorem State.modPlacement_agenda (s : State) (task pl : Nat) (g : Placement → Placement) :
    (s.modPlacement task pl g).agenda = s.agenda := rfl
@[simp] theorem State.modPlacement_focus (s : State) (task pl : Nat) (g : Placement → Placement) :
    (s.modPlacement task pl g).focus = s.focus := rfl
@[simp] theorem State.modPlacement_subject (s : State) (task pl : Nat) (g : Placement → Placement) :
    (s.modPlacement task pl g).subject = s.subject := rfl
@[simp] theorem State.modPlacement_freeCtr (s : State) (task pl : Nat) (g : Placement → Placement) :
    (s.modPlacement task pl g).freeCtr = s.freeCtr := rfl
@[simp] theorem State.modPlacement_seqCtr (s : State) (task pl : Nat) (g : Placement → Placement) :
    (s.modPlacement task pl g).seqCtr = s.seqCtr := rfl

@[simp] theorem State.setTask_clock (s : State) (t : Task) :
    (s.setTask t).clock = s.clock := rfl
@[simp] theorem State.setTask_board (s : State) (t : Task) :
    (s.setTask t).board = s.board := rfl
@[simp] theorem State.setTask_host (s : State) (t : Task) :
    (s.setTask t).host = s.host := rfl
@[simp] theorem State.setTask_mem (s : State) (t : Task) :
    (s.setTask t).mem = s.mem := rfl
@[simp] theorem State.setTask_fab (s : State) (t : Task) :
    (s.setTask t).fab = s.fab := rfl
@[simp] theorem State.setTask_sched (s : State) (t : Task) :
    (s.setTask t).sched = { s.sched with tasks := tput s.sched.tasks t.num t } := rfl
@[simp] theorem State.setTask_eng (s : State) (t : Task) :
    (s.setTask t).eng = s.eng := rfl
@[simp] theorem State.setTask_obs (s : State) (t : Task) :
    (s.setTask t).obs = s.obs := rfl
@[simp] theorem State.setTask_agenda (s : State) (t : Task) :
    (s.setTask t).agenda = s.agenda := rfl
@[simp] theorem State.setTask_focus (s : State) (t : Task) :
    (s.setTask t).focus = s.focus := rfl
@[simp] theorem State.setTask_subject (s : State) (t : Task) :
    (s.setTask t).subject = s.subject := rfl
@[simp] theorem State.setTask_freeCtr (s : State) (t : Task) :
    (s.setTask t).freeCtr = s.freeCtr := rfl
@[simp] theorem State.setTask_seqCtr (s : State) (t : Task) :
    (s.setTask t).seqCtr = s.seqCtr := rfl

@[simp] theorem State.modTask_clock (s : State) (t : Nat) (g : Task → Task) :
    (s.modTask t g).clock = s.clock := rfl
@[simp] theorem State.modTask_board (s : State) (t : Nat) (g : Task → Task) :
    (s.modTask t g).board = s.board := rfl
@[simp] theorem State.modTask_host (s : State) (t : Nat) (g : Task → Task) :
    (s.modTask t g).host = s.host := rfl
@[simp] theorem State.modTask_mem (s : State) (t : Nat) (g : Task → Task) :
    (s.modTask t g).mem = s.mem := rfl
@[simp] theorem State.modTask_fab (s : State) (t : Nat) (g : Task → Task) :
    (s.modTask t g).fab = s.fab := rfl
@[simp] theorem State.modTask_sched (s : State) (t : Nat) (g : Task → Task) :
    (s.modTask t g).sched = { s.sched with tasks := tmod s.sched.tasks t g } := rfl
@[simp] theorem State.modTask_eng (s : State) (t : Nat) (g : Task → Task) :
    (s.modTask t g).eng = s.eng := rfl
@[simp] theorem State.modTask_obs (s : State) (t : Nat) (g : Task → Task) :
    (s.modTask t g).obs = s.obs := rfl
@[simp] theorem State.modTask_agenda (s : State) (t : Nat) (g : Task → Task) :
    (s.modTask t g).agenda = s.agenda := rfl
@[simp] theorem State.modTask_focus (s : State) (t : Nat) (g : Task → Task) :
    (s.modTask t g).focus = s.focus := rfl
@[simp] theorem State.modTask_subject (s : State) (t : Nat) (g : Task → Task) :
    (s.modTask t g).subject = s.subject := rfl
@[simp] theorem State.modTask_freeCtr (s : State) (t : Nat) (g : Task → Task) :
    (s.modTask t g).freeCtr = s.freeCtr := rfl
@[simp] theorem State.modTask_seqCtr (s : State) (t : Nat) (g : Task → Task) :
    (s.modTask t g).seqCtr = s.seqCtr := rfl

@[simp] theorem State.bump_clock (s : State) :
    s.bump.clock = s.clock := rfl
@[simp] theorem State.bump_board (s : State) :
    s.bump.board = s.board := rfl
@[simp] theorem State.bump_host (s : State) :
    s.bump.host = s.host := rfl
@[simp] theorem State.bump_mem (s : State) :
    s.bump.mem = s.mem := rfl
@[simp] theorem State.bump_fab (s : State) :
    s.bump.fab = s.fab := rfl
@[simp] theorem State.bump_sched (s : State) :
    s.bump.sched = s.sched := rfl
@[simp] theorem State.bump_eng (s : State) :
    s.bump.eng = s.eng := rfl
@[simp] theorem State.bump_obs (s : State) :
    s.bump.obs = s.obs := rfl
@[simp] theorem State.bump_agenda (s : State) :
    s.bump.agenda = s.agenda := rfl
@[simp] theorem State.bump_focus (s : State) :
    s.bump.focus = s.focus := rfl
@[simp] theorem State.bump_subject (s : State) :
    s.bump.subject = s.subject := rfl
@[simp] theorem State.bump_freeCtr (s : State) :
    s.bump.freeCtr = s.freeCtr := rfl
@[simp] theorem State.bump_seqCtr (s : State) :
    s.bump.seqCtr = s.seqCtr + 1 := rfl

@[simp] theorem State.drawFree_clock (s : State) :
    s.drawFree.clock = s.clock := rfl
@[simp] theorem State.drawFree_board (s : State) :
    s.drawFree.board = s.board := rfl
@[simp] theorem State.drawFree_host (s : State) :
    s.drawFree.host = s.host := rfl
@[simp] theorem State.drawFree_mem (s : State) :
    s.drawFree.mem = s.mem := rfl
@[simp] theorem State.drawFree_fab (s : State) :
    s.drawFree.fab = s.fab := rfl
@[simp] theorem State.drawFree_sched (s : State) :
    s.drawFree.sched = s.sched := rfl
@[simp] theorem State.drawFree_eng (s : State) :
    s.drawFree.eng = s.eng := rfl
@[simp] theorem State.drawFree_obs (s : State) :
    s.drawFree.obs = s.obs := rfl
@[simp] theorem State.drawFree_agenda (s : State) :
    s.drawFree.agenda = s.agenda := rfl
@[simp] theorem State.drawFree_focus (s : State) :
    s.drawFree.focus = s.focus := rfl
@[simp] theorem State.drawFree_subject (s : State) :
    s.drawFree.subject = s.subject := rfl
@[simp] theorem State.drawFree_freeCtr (s : State) :
    s.drawFree.freeCtr = s.freeCtr + 1 := rfl
@[simp] theorem State.drawFree_seqCtr (s : State) :
    s.drawFree.seqCtr = s.seqCtr := rfl

@[simp] theorem State.countEvent_clock (s : State) (cluster task code n : Nat) :
    (s.countEvent cluster task code n).clock = s.clock := rfl
@[simp] theorem State.countEvent_board (s : State) (cluster task code n : Nat) :
    (s.countEvent cluster task code n).board = s.board := rfl
@[simp] theorem State.countEvent_host (s : State) (cluster task code n : Nat) :
    (s.countEvent cluster task code n).host = s.host := rfl
@[simp] theorem State.countEvent_mem (s : State) (cluster task code n : Nat) :
    (s.countEvent cluster task code n).mem = s.mem := rfl
@[simp] theorem State.countEvent_fab (s : State) (cluster task code n : Nat) :
    (s.countEvent cluster task code n).fab = s.fab.countEvent cluster task code n := rfl
@[simp] theorem State.countEvent_sched (s : State) (cluster task code n : Nat) :
    (s.countEvent cluster task code n).sched = s.sched := rfl
@[simp] theorem State.countEvent_eng (s : State) (cluster task code n : Nat) :
    (s.countEvent cluster task code n).eng = s.eng := rfl
@[simp] theorem State.countEvent_obs (s : State) (cluster task code n : Nat) :
    (s.countEvent cluster task code n).obs = s.obs := rfl
@[simp] theorem State.countEvent_agenda (s : State) (cluster task code n : Nat) :
    (s.countEvent cluster task code n).agenda = s.agenda := rfl
@[simp] theorem State.countEvent_focus (s : State) (cluster task code n : Nat) :
    (s.countEvent cluster task code n).focus = s.focus := rfl
@[simp] theorem State.countEvent_subject (s : State) (cluster task code n : Nat) :
    (s.countEvent cluster task code n).subject = s.subject := rfl
@[simp] theorem State.countEvent_freeCtr (s : State) (cluster task code n : Nat) :
    (s.countEvent cluster task code n).freeCtr = s.freeCtr := rfl
@[simp] theorem State.countEvent_seqCtr (s : State) (cluster task code n : Nat) :
    (s.countEvent cluster task code n).seqCtr = s.seqCtr := rfl

@[simp] theorem State.setFlags_clock (s : State) (task pl : Nat) (fl : Flags) :
    (s.setFlags task pl fl).clock = s.clock := rfl
@[simp] theorem State.setFlags_board (s : State) (task pl : Nat) (fl : Flags) :
    (s.setFlags task pl fl).board = s.board := rfl
@[simp] theorem State.setFlags_host (s : State) (task pl : Nat) (fl : Flags) :
    (s.setFlags task pl fl).host = s.host := rfl
@[simp] theorem State.setFlags_mem (s : State) (task pl : Nat) (fl : Flags) :
    (s.setFlags task pl fl).mem = s.mem := rfl
@[simp] theorem State.setFlags_fab (s : State) (task pl : Nat) (fl : Flags) :
    (s.setFlags task pl fl).fab = { s.fab with placements := tmod s.fab.placements (plKey task pl) (fun p => { p with flags := p.flags.or fl }) } := rfl
@[simp] theorem State.setFlags_sched (s : State) (task pl : Nat) (fl : Flags) :
    (s.setFlags task pl fl).sched = s.sched := rfl
@[simp] theorem State.setFlags_eng (s : State) (task pl : Nat) (fl : Flags) :
    (s.setFlags task pl fl).eng = s.eng := rfl
@[simp] theorem State.setFlags_obs (s : State) (task pl : Nat) (fl : Flags) :
    (s.setFlags task pl fl).obs = s.obs := rfl
@[simp] theorem State.setFlags_agenda (s : State) (task pl : Nat) (fl : Flags) :
    (s.setFlags task pl fl).agenda = s.agenda := rfl
@[simp] theorem State.setFlags_focus (s : State) (task pl : Nat) (fl : Flags) :
    (s.setFlags task pl fl).focus = s.focus := rfl
@[simp] theorem State.setFlags_subject (s : State) (task pl : Nat) (fl : Flags) :
    (s.setFlags task pl fl).subject = s.subject := rfl
@[simp] theorem State.setFlags_freeCtr (s : State) (task pl : Nat) (fl : Flags) :
    (s.setFlags task pl fl).freeCtr = s.freeCtr := rfl
@[simp] theorem State.setFlags_seqCtr (s : State) (task pl : Nat) (fl : Flags) :
    (s.setFlags task pl fl).seqCtr = s.seqCtr := rfl

@[simp] theorem State.putTrace_clock (s : State) (r : TrRec) :
    (s.putTrace r).clock = s.clock := rfl
@[simp] theorem State.putTrace_board (s : State) (r : TrRec) :
    (s.putTrace r).board = s.board := rfl
@[simp] theorem State.putTrace_host (s : State) (r : TrRec) :
    (s.putTrace r).host = s.host := rfl
@[simp] theorem State.putTrace_mem (s : State) (r : TrRec) :
    (s.putTrace r).mem = s.mem := rfl
@[simp] theorem State.putTrace_fab (s : State) (r : TrRec) :
    (s.putTrace r).fab = { s.fab with trFifo := tput s.fab.trFifo (clusterOf r.pf) (tgetD s.fab.trFifo (clusterOf r.pf) [] ++ [r]) } := rfl
@[simp] theorem State.putTrace_sched (s : State) (r : TrRec) :
    (s.putTrace r).sched = s.sched := rfl
@[simp] theorem State.putTrace_eng (s : State) (r : TrRec) :
    (s.putTrace r).eng = s.eng := rfl
@[simp] theorem State.putTrace_obs (s : State) (r : TrRec) :
    (s.putTrace r).obs = s.obs := rfl
@[simp] theorem State.putTrace_agenda (s : State) (r : TrRec) :
    (s.putTrace r).agenda = s.agenda := rfl
@[simp] theorem State.putTrace_focus (s : State) (r : TrRec) :
    (s.putTrace r).focus = s.focus := rfl
@[simp] theorem State.putTrace_subject (s : State) (r : TrRec) :
    (s.putTrace r).subject = s.subject := rfl
@[simp] theorem State.putTrace_freeCtr (s : State) (r : TrRec) :
    (s.putTrace r).freeCtr = s.freeCtr := rfl
@[simp] theorem State.putTrace_seqCtr (s : State) (r : TrRec) :
    (s.putTrace r).seqCtr = s.seqCtr := rfl

@[simp] theorem State.sendFabric_clock (s : State) (id : Nat) (msg : List Byte) :
    (s.sendFabric id msg).clock = s.clock := rfl
@[simp] theorem State.sendFabric_board (s : State) (id : Nat) (msg : List Byte) :
    (s.sendFabric id msg).board = s.board := rfl
@[simp] theorem State.sendFabric_host (s : State) (id : Nat) (msg : List Byte) :
    (s.sendFabric id msg).host = s.host := rfl
@[simp] theorem State.sendFabric_mem (s : State) (id : Nat) (msg : List Byte) :
    (s.sendFabric id msg).mem = s.mem := rfl
@[simp] theorem State.sendFabric_fab (s : State) (id : Nat) (msg : List Byte) :
    (s.sendFabric id msg).fab = s.fab := rfl
@[simp] theorem State.sendFabric_sched (s : State) (id : Nat) (msg : List Byte) :
    (s.sendFabric id msg).sched = s.sched := rfl
@[simp] theorem State.sendFabric_eng (s : State) (id : Nat) (msg : List Byte) :
    (s.sendFabric id msg).eng = s.eng.sendMsg s.board id msg := rfl
@[simp] theorem State.sendFabric_obs (s : State) (id : Nat) (msg : List Byte) :
    (s.sendFabric id msg).obs = s.obs := rfl
@[simp] theorem State.sendFabric_agenda (s : State) (id : Nat) (msg : List Byte) :
    (s.sendFabric id msg).agenda = s.agenda := rfl
@[simp] theorem State.sendFabric_focus (s : State) (id : Nat) (msg : List Byte) :
    (s.sendFabric id msg).focus = s.focus := rfl
@[simp] theorem State.sendFabric_subject (s : State) (id : Nat) (msg : List Byte) :
    (s.sendFabric id msg).subject = s.subject := rfl
@[simp] theorem State.sendFabric_freeCtr (s : State) (id : Nat) (msg : List Byte) :
    (s.sendFabric id msg).freeCtr = s.freeCtr := rfl
@[simp] theorem State.sendFabric_seqCtr (s : State) (id : Nat) (msg : List Byte) :
    (s.sendFabric id msg).seqCtr = s.seqCtr := rfl

@[simp] theorem State.pushOut_clock (s : State) (c : Focus) (items : List OutItem) :
    (s.pushOut c items).clock = s.clock := rfl
@[simp] theorem State.pushOut_board (s : State) (c : Focus) (items : List OutItem) :
    (s.pushOut c items).board = s.board := rfl
@[simp] theorem State.pushOut_host (s : State) (c : Focus) (items : List OutItem) :
    (s.pushOut c items).host = s.host := rfl
@[simp] theorem State.pushOut_mem (s : State) (c : Focus) (items : List OutItem) :
    (s.pushOut c items).mem = s.mem := rfl
@[simp] theorem State.pushOut_fab (s : State) (c : Focus) (items : List OutItem) :
    (s.pushOut c items).fab = (s.modElem c.pf c.pelem (fun e => { e with outQ := e.outQ ++ items })).fab := rfl
@[simp] theorem State.pushOut_sched (s : State) (c : Focus) (items : List OutItem) :
    (s.pushOut c items).sched = s.sched := rfl
@[simp] theorem State.pushOut_eng (s : State) (c : Focus) (items : List OutItem) :
    (s.pushOut c items).eng = s.eng := rfl
@[simp] theorem State.pushOut_obs (s : State) (c : Focus) (items : List OutItem) :
    (s.pushOut c items).obs = s.obs := rfl
@[simp] theorem State.pushOut_agenda (s : State) (c : Focus) (items : List OutItem) :
    (s.pushOut c items).agenda = s.agenda := rfl
@[simp] theorem State.pushOut_focus (s : State) (c : Focus) (items : List OutItem) :
    (s.pushOut c items).focus = s.focus := rfl
@[simp] theorem State.pushOut_subject (s : State) (c : Focus) (items : List OutItem) :
    (s.pushOut c items).subject = s.subject := rfl
@[simp] theorem State.pushOut_freeCtr (s : State) (c : Focus) (items : List OutItem) :
    (s.pushOut c items).freeCtr = s.freeCtr := rfl
@[simp] theorem State.pushOut_seqCtr (s : State) (c : Focus) (items : List OutItem) :
    (s.pushOut c items).seqCtr = s.seqCtr := rfl

@[simp] theorem State.unfocus_clock (s : State) :
    s.unfocus.clock = s.clock := rfl
@[simp] theorem State.unfocus_board (s : State) :
    s.unfocus.board = s.board := rfl
@[simp] theorem State.unfocus_host (s : State) :
    s.unfocus.host = s.host := rfl
@[simp] theorem State.unfocus_mem (s : State) :
    s.unfocus.mem = s.mem := rfl
@[simp] theorem State.unfocus_fab (s : State) :
    s.unfocus.fab = s.fab := rfl
@[simp] theorem State.unfocus_sched (s : State) :
    s.unfocus.sched = s.sched := rfl
@[simp] theorem State.unfocus_eng (s : State) :
    s.unfocus.eng = s.eng := rfl
@[simp] theorem State.unfocus_obs (s : State) :
    s.unfocus.obs = s.obs := rfl
@[simp] theorem State.unfocus_agenda (s : State) :
    s.unfocus.agenda = s.agenda := rfl
@[simp] theorem State.unfocus_focus (s : State) :
    s.unfocus.focus = none := rfl
@[simp] theorem State.unfocus_subject (s : State) :
    s.unfocus.subject = s.subject := rfl
@[simp] theorem State.unfocus_freeCtr (s : State) :
    s.unfocus.freeCtr = s.freeCtr := rfl
@[simp] theorem State.unfocus_seqCtr (s : State) :
    s.unfocus.seqCtr = s.seqCtr := rfl

end Sys2Proof.Machine
end

