-- ==== Sys2Proof/Laws/Tab.lean ====
section
/-!
SUPPORT. Laws/Tab.lean: reads after writes of tables and memories, and the canonical form that every memory write keeps.
-/
namespace Sys2Proof.Machine

variable {α : Type}

@[simp] theorem tget_tput_same (t : Tab α) (n : Nat) (v : α) : tget (tput t n v) n = some v := by
  induction t with
  | nil => simp [tput, tget]
  | cons r t ih =>
    obtain ⟨k, w⟩ := r
    simp only [tput]
    split
    · rename_i h; simp [tget, h]
    · split
      · simp [tget]
      · rename_i h1 h2; simp [tget, ih, Ne.symm h1, h2]

theorem tget_tput_ne (t : Tab α) (n m : Nat) (v : α) (h : m ≠ n) : tget (tput t n v) m = tget t m := by
  induction t with
  | nil => simp [tput, tget, Ne.symm h]
  | cons r t ih =>
    obtain ⟨k, w⟩ := r
    simp only [tput]
    split
    · rename_i hk; subst hk; simp [tget, Ne.symm h]
    · split
      · simp [tget, Ne.symm h]
      · simp only [tget, ih]

theorem tget_tput (t : Tab α) (n m : Nat) (v : α) : tget (tput t n v) m = if m = n then some v else tget t m := by
  split
  · subst m; simp
  · exact tget_tput_ne t n m v ‹_›

@[simp] theorem tgetD_tput_same (t : Tab α) (n : Nat) (v d : α) : tgetD (tput t n v) n d = v := by simp [tgetD]

theorem tgetD_tput_ne (t : Tab α) (n m : Nat) (v d : α) (h : m ≠ n) : tgetD (tput t n v) m d = tgetD t m d := by
  simp [tgetD, tget_tput_ne t n m v h]

theorem tget_tmod_same (t : Tab α) (n : Nat) (f : α → α) : tget (tmod t n f) n = (tget t n).map f := by
  unfold tmod; split <;> simp_all

theorem tget_tmod_ne (t : Tab α) (n m : Nat) (f : α → α) (h : m ≠ n) : tget (tmod t n f) m = tget t m := by
  unfold tmod; split
  · rfl
  · exact tget_tput_ne _ _ _ _ h

/-! ### Rising order -/

/-- Every row's number is above a bound. -/
def tabAbove (k : Nat) (t : Tab α) : Prop := ∀ c ∈ t, k < c.1

theorem tabRising_cons (k : Nat) (v : α) (t : Tab α) : tabRising ((k, v) :: t) = true ↔ tabAbove k t ∧ tabRising t = true := by
  induction t generalizing k v with
  | nil => simp [tabRising, tabAbove]
  | cons r t ih =>
    obtain ⟨b, y⟩ := r
    simp only [tabRising, Bool.and_eq_true, decide_eq_true_eq, tabAbove, List.mem_cons]
    constructor
    · rintro ⟨h1, h2⟩
      refine ⟨?_, h2⟩
      rintro c (rfl | hc)
      · exact h1
      · exact lt_trans h1 (((ih b y).1 h2).1 c hc)
    · rintro ⟨h1, h2⟩
      exact ⟨h1 (b, y) (Or.inl rfl), h2⟩

theorem mem_tput (t : Tab α) (n : Nat) (v : α) (c : Nat × α) (h : c ∈ tput t n v) : c = (n, v) ∨ c ∈ t := by
  induction t with
  | nil => simp [tput] at h; exact Or.inl h
  | cons r t ih =>
    obtain ⟨k, w⟩ := r
    simp only [tput] at h
    split at h
    · rename_i hk; subst hk
      rcases List.mem_cons.1 h with h | h
      · exact Or.inl h
      · exact Or.inr (List.mem_cons_of_mem _ h)
    · split at h
      · rcases List.mem_cons.1 h with h | h
        · exact Or.inl h
        · exact Or.inr h
      · rcases List.mem_cons.1 h with h | h
        · exact Or.inr (by simp [h])
        · rcases ih h with h | h
          · exact Or.inl h
          · exact Or.inr (List.mem_cons_of_mem _ h)

theorem mem_tdel (t : Tab α) (n : Nat) (c : Nat × α) (h : c ∈ tdel t n) : c ∈ t := by
  induction t with
  | nil => simp [tdel] at h
  | cons r t ih =>
    obtain ⟨k, w⟩ := r
    simp only [tdel] at h
    split at h
    · exact List.mem_cons_of_mem _ (ih h)
    · rcases List.mem_cons.1 h with h | h
      · simp [h]
      · exact List.mem_cons_of_mem _ (ih h)

theorem tput_rising (t : Tab α) (n : Nat) (v : α) (h : tabRising t = true) : tabRising (tput t n v) = true := by
  induction t with
  | nil => rfl
  | cons r t ih =>
    obtain ⟨k, w⟩ := r
    obtain ⟨ha, hr⟩ := (tabRising_cons k w t).1 h
    simp only [tput]
    split
    · exact (tabRising_cons _ _ _).2 ⟨ha, hr⟩
    · split
      · refine (tabRising_cons _ _ _).2 ⟨?_, h⟩
        intro c hc
        rcases List.mem_cons.1 hc with rfl | hc
        · assumption
        · exact lt_trans ‹n < k› (ha c hc)
      · refine (tabRising_cons _ _ _).2 ⟨?_, ih hr⟩
        intro c hc
        rcases mem_tput t n v c hc with rfl | hc
        · show k < n; omega
        · exact ha c hc

theorem tdel_rising (t : Tab α) (n : Nat) (h : tabRising t = true) : tabRising (tdel t n) = true := by
  induction t with
  | nil => rfl
  | cons r t ih =>
    obtain ⟨k, w⟩ := r
    obtain ⟨ha, hr⟩ := (tabRising_cons k w t).1 h
    simp only [tdel]
    split
    · exact ih hr
    · exact (tabRising_cons _ _ _).2 ⟨fun c hc => ha c (mem_tdel t n c hc), ih hr⟩

@[simp] theorem tget_tdel_same (t : Tab α) (n : Nat) : tget (tdel t n) n = none := by
  induction t with
  | nil => rfl
  | cons r t ih =>
    obtain ⟨k, w⟩ := r
    simp only [tdel]
    split
    · exact ih
    · rename_i h; simp [tget, Ne.symm h, ih]

theorem tget_tdel_ne (t : Tab α) (n m : Nat) (hm : m ≠ n) : tget (tdel t n) m = tget t m := by
  induction t with
  | nil => rfl
  | cons r t ih =>
    obtain ⟨k, w⟩ := r
    simp only [tdel]
    split
    · rename_i h; subst h; simp [tget, Ne.symm hm, ih]
    · simp only [tget, ih]

@[simp] theorem nsHas_nsAdd_same (s : NSet) (n : Nat) : nsHas (nsAdd s n) n = true := by simp [nsHas, nsAdd]
theorem nsHas_nsAdd_ne (s : NSet) (n m : Nat) (h : m ≠ n) : nsHas (nsAdd s n) m = nsHas s m := by simp [nsHas, nsAdd, tget_tput_ne _ _ _ _ h]
@[simp] theorem nsHas_nsDel_same (s : NSet) (n : Nat) : nsHas (nsDel s n) n = false := by simp [nsHas, nsDel]
theorem nsHas_nsDel_ne (s : NSet) (n m : Nat) (h : m ≠ n) : nsHas (nsDel s n) m = nsHas s m := by simp [nsHas, nsDel, tget_tdel_ne _ _ _ h]

/-! ### Memories -/

theorem Memory.wf_iff (m : Memory) : Memory.wf m = true ↔ tabRising m = true ∧ ∀ c ∈ m, c.2 ≠ unlistedByte := by
  simp [Memory.wf]

theorem memory_nil_wf : Memory.wf [] = true := rfl

/-- A byte written keeps the canonical form. -/
theorem memPut_wf (m : Memory) (a : Nat) (b : Byte) (h : Memory.wf m = true) : Memory.wf (memPut m a b) = true := by
  rw [Memory.wf_iff] at h ⊢
  unfold memPut
  split
  · exact ⟨tdel_rising m a h.1, fun c hc => h.2 c (mem_tdel m a c hc)⟩
  · refine ⟨tput_rising m a b h.1, fun c hc => ?_⟩
    rcases mem_tput m a b c hc with rfl | hc
    · assumption
    · exact h.2 c hc

/-- Bytes written keep the canonical form. -/
theorem memPutBytes_wf (m : Memory) (a : Nat) (bs : List Byte) (h : Memory.wf m = true) :
    Memory.wf (memPutBytes m a bs) = true := by
  induction bs generalizing m a with
  | nil => exact h
  | cons b bs ih => exact ih _ _ (memPut_wf m a b h)

/-- A read after a write of one byte. -/
theorem memByte_memPut (m : Memory) (a n : Nat) (b : Byte) : memByte (memPut m a b) n = if n = a then b else memByte m n := by
  unfold memPut memByte tgetD
  split
  · split
    · subst n; rw [tget_tdel_same]; simp [*]
    · rw [tget_tdel_ne m a n ‹_›]
  · split
    · subst n; simp
    · rw [tget_tput_ne m a n b ‹_›]

/-- A read after a write of several bytes. -/
theorem memByte_memPutBytes (m : Memory) (a n : Nat) (bs : List Byte) :
    memByte (memPutBytes m a bs) n = if a ≤ n ∧ n < a + bs.length then bs.getD (n - a) 0 else memByte m n := by
  induction bs generalizing m a with
  | nil => simp [memPutBytes]
  | cons b bs ih =>
    rw [memPutBytes, ih, memByte_memPut]
    by_cases h1 : n = a
    · subst h1; simp
    · by_cases h2 : a + 1 ≤ n ∧ n < a + 1 + bs.length
      · have h3 : a ≤ n ∧ n < a + (b :: bs).length := by simp; omega
        rw [if_pos h2, if_pos h3]
        have : n - a = (n - (a + 1)) + 1 := by omega
        rw [this]; simp
      · have h3 : ¬ (a ≤ n ∧ n < a + (b :: bs).length) := by simp; omega
        rw [if_neg h2, if_neg h3, if_neg h1]

end Sys2Proof.Machine
end

