-- ==== Sys2Proof/Laws/Fire.lean ====
section
/-!
SUPPORT. Laws/Fire.lean: everything a firing does, once per way in which a firing ends.
-/
namespace Sys2Proof.Machine

theorem Fret.elem_setElem (f : Fret) (e n : Nat) (x : Elem) :
    (f.setElem e x).elem n = if n = e then x else f.elem n := by
  simp only [Fret.elem, Fret.setElem, tgetD, tget_tput]; split <;> simp

theorem State.fret_modFret (s : State) (pf n : Nat) (g : Fret → Fret) :
    (s.modFret pf g).fret n = if n = pf then g (s.fret pf) else s.fret n := by
  simp only [State.fret, State.modFret_fab, tgetD, tget_tput]; split <;> simp

theorem State.elem_modElem (s : State) (pf e n m : Nat) (g : Elem → Elem) :
    (s.modElem pf e g).elem n m = if n = pf ∧ m = e then g (s.elem pf e) else s.elem n m := by
  simp only [State.elem, State.modElem, State.fret_modFret]
  by_cases h : n = pf
  · subst h; simp only [if_true, Fret.elem_setElem, true_and]
  · simp [h]

theorem State.placement?_modElem (s : State) (pf e t p : Nat) (g : Elem → Elem) :
    (s.modElem pf e g).placement? t p = s.placement? t p := rfl

theorem State.setFlags_none (s : State) (task pl : Nat) (k : Nat) :
    tget (s.setFlags task pl Flags.none).fab.placements k = tget s.fab.placements k := by
  rw [State.setFlags_fab]
  by_cases h : k = plKey task pl
  · subst h; rw [tget_tmod_same]; simp [Flags.or_none]
  · exact tget_tmod_ne _ _ _ _ h

@[simp] theorem State.unfocus_elem (s : State) (pf e : Nat) : s.unfocus.elem pf e = s.elem pf e := rfl
@[simp] theorem State.unfocus_fret (s : State) (pf : Nat) : s.unfocus.fret pf = s.fret pf := rfl
@[simp] theorem State.setFlags_elem (s : State) (task pl : Nat) (fl : Flags) (pf e : Nat) :
    (s.setFlags task pl fl).elem pf e = s.elem pf e := rfl
@[simp] theorem State.setFlags_fret (s : State) (task pl : Nat) (fl : Flags) (pf : Nat) :
    (s.setFlags task pl fl).fret pf = s.fret pf := rfl

theorem State.pushOut_elem (s : State) (c : Focus) (items : List OutItem) (pf e : Nat) :
    (s.pushOut c items).elem pf e =
      if pf = c.pf ∧ e = c.pelem then { s.elem pf e with outQ := (s.elem pf e).outQ ++ items } else s.elem pf e := by
  rw [State.pushOut, State.elem_modElem]
  split
  · rename_i h; obtain ⟨rfl, rfl⟩ := h; rfl
  · rfl

theorem State.pushOut_fret (s : State) (c : Focus) (items : List OutItem) (pf : Nat) :
    ({ (s.pushOut c items).fret pf with elems := [] } : Fret) = { s.fret pf with elems := [] } := by
  rw [State.pushOut, State.modElem, State.fret_modFret]
  split
  · subst pf; rfl
  · rfl

/-- The queue of an element extended, and flags set: the frame of a firing. -/
theorem fired_of (s : State) (c : Focus) (items : List OutItem) (fl : Flags) :
    Fired s (((s.setFlags c.task c.pl fl).pushOut c items).unfocus) c items fl where
  queue := by simp [State.pushOut_elem]
  otherElems := fun pf e h => by
    rw [State.unfocus_elem, State.pushOut_elem, if_neg (by simpa using h), State.setFlags_elem]
  frets := fun pf => by
    rw [State.unfocus_fret, State.pushOut_fret, State.setFlags_fret]
  flags := by
    show tget (tmod s.fab.placements _ _) _ = _
    rw [tget_tmod_same]; rfl
  otherPlacements := fun k hk => by
    show tget (tmod s.fab.placements _ _) k = _
    exact tget_tmod_ne _ _ _ _ hk
  fab := rfl
  rest := rfl

/-- The queue of an element extended, and no flag set. -/
theorem fired_plain (s : State) (c : Focus) (items : List OutItem) :
    Fired s ((s.pushOut c items).unfocus) c items Flags.none where
  queue := by simp [State.pushOut_elem]
  otherElems := fun pf e h => by rw [State.unfocus_elem, State.pushOut_elem, if_neg (by simpa using h)]
  frets := fun pf => by rw [State.unfocus_fret, State.pushOut_fret]
  flags := by
    show s.placement? c.task c.pl = _
    cases s.placement? c.task c.pl <;> simp [Flags.or_none]
  otherPlacements := fun _ _ => rfl
  fab := rfl
  rest := rfl

/-- The model's tokens are those of R272. -/
theorem outToks_eq (s : State) (x tag wave : Nat) (ds : List Dest) (res side : Option Word) :
    outToks s.clock.cycle x tag wave ds (fun d => if d.side then side else res) = firedToks s x tag wave ds res side := by
  induction ds with
  | nil => rfl
  | cons d ds ih =>
    rw [outToks] at ih
    rw [outToks, firedToks, List.filterMap_cons, ih, firedToks, List.filter_cons]
    cases hd : d.side <;> cases hs : side <;> cases hr : res <;> cases d.port <;> simp [hd]

theorem emit_eq (s : State) (c : Focus) (x tag wave : Nat) (ds : List Dest) (res side : Option Word) :
    s.emit c x tag wave ds res side = s.pushOut c (firedToks s x tag wave ds res side) := by
  rw [State.emit, outToks_eq]

/-- A Format A firing that is not squashed does what its form says, and the instance is spent. -/
theorem fireA_fires (f : FmtA) (s : State) (c : Focus) (g : Focus → Word → Word → Word → State → State)
    (hf : s.focus = some c) (hq : f.pmode.squashes c.aux = false) :
    fireA f s g = .next ((g c (f.left c) (f.right c) c.aux s).unfocus) := by
  simp [fireA, hf, hq]

/-- A squashed firing is counted, and nothing else. -/
theorem fireA_squashed (f : FmtA) (s : State) (c : Focus) (g : Focus → Word → Word → Word → State → State)
    (hf : s.focus = some c) (hq : f.pmode.squashes c.aux = true) :
    fireA f s g = .next ((s.countEvent (clusterOf c.pf) c.task 0x03 1).unfocus) := by
  simp [fireA, hf, hq]

theorem fireVal_squashed (f : FmtA) (x : Nat) (s : State) (c : Focus) (h : Word → Word → Word → Word)
    (hf : s.focus = some c) (hq : f.pmode.squashes c.aux = true) :
    fireVal f x s h = .next ((s.countEvent (clusterOf c.pf) c.task 0x03 1).unfocus) := fireA_squashed f s c _ hf hq

theorem fireFlg_squashed (f : FmtA) (x : Nat) (s : State) (c : Focus) (h : RCtx → Word → Word → Word → Word × Flags)
    (hf : s.focus = some c) (hq : f.pmode.squashes c.aux = true) :
    fireFlg f x s h = .next ((s.countEvent (clusterOf c.pf) c.task 0x03 1).unfocus) := fireA_squashed f s c _ hf hq

/-- A form with one result and no flag. -/
theorem fireVal_fires (f : FmtA) (x : Nat) (s : State) (c : Focus) (h : Word → Word → Word → Word)
    (hf : s.focus = some c) (hq : f.pmode.squashes c.aux = false) :
    ∃ t, fireVal f x s h = .next t ∧
      Fired s t c (firedToks s x c.tag c.wave f.dests (some (h (f.left c) (f.right c) c.aux)) none) Flags.none := by
  refine ⟨_, fireA_fires f s c _ hf hq, ?_⟩
  rw [emit_eq]; exact fired_plain _ _ _

/-- A form with one result and flags. -/
theorem fireFlg_fires (f : FmtA) (x : Nat) (s : State) (c : Focus) (h : RCtx → Word → Word → Word → Word × Flags)
    (hf : s.focus = some c) (hq : f.pmode.squashes c.aux = false) :
    ∃ t, fireFlg f x s h = .next t ∧
      Fired s t c (firedToks s x c.tag c.wave f.dests (some (h (s.rctx f c) (f.left c) (f.right c) c.aux).1) none)
        (h (s.rctx f c) (f.left c) (f.right c) c.aux).2 := by
  refine ⟨_, fireA_fires f s c _ hf hq, ?_⟩
  simp only [emit_eq]
  exact fired_of _ _ _ _

theorem produces_val {i : Instr} {f : FmtA} {x : Nat} {post : State → Focus → Word → Flags → Prop}
    {h : Word → Word → Word → Word} (hi : ∀ s, exec i s = fireVal f x s h)
    (hp : ∀ s c, post s c (h (f.left c) (f.right c) c.aux) Flags.none) : Produces i f x post := by
  intro s c hf hq
  obtain ⟨t, h1, h2⟩ := fireVal_fires f x s c h hf hq
  exact ⟨t, _, _, (hi s).trans h1, h2, hp s c⟩

theorem produces_flg {i : Instr} {f : FmtA} {x : Nat} {post : State → Focus → Word → Flags → Prop}
    {h : RCtx → Word → Word → Word → Word × Flags} (hi : ∀ s, exec i s = fireFlg f x s h)
    (hp : ∀ s c, post s c (h (s.rctx f c) (f.left c) (f.right c) c.aux).1 (h (s.rctx f c) (f.left c) (f.right c) c.aux).2) :
    Produces i f x post := by
  intro s c hf hq
  obtain ⟨t, h1, h2⟩ := fireFlg_fires f x s c h hf hq
  exact ⟨t, _, _, (hi s).trans h1, h2, hp s c⟩

/-- A chain form's operation enters the output queue. -/
theorem fireChain_fires (i : Instr) (pm : PMode) (ea : Focus → Nat) (s : State) (c : Focus) (hf : s.focus = some c)
    (hq : pm.squashes c.aux = false) :
    ∃ t, fireChain i pm ea s = .next t ∧ Fired s t c [.chain (c.chainOp i false (ea c)) s.clock.cycle] Flags.none := by
  refine ⟨_, ?_, fired_plain _ _ _⟩
  simp [fireChain, hf, hq]

end Sys2Proof.Machine
end

