-- ==== Sys2Proof/Laws/Firings.lean ====
section
/-!
SUPPORT. Laws/Firings.lean: the squashed firing of each form, and counters, threads and traces that a firing touches.
-/
namespace Sys2Proof.Machine

theorem evcAdd_one (w : Word) : (evcAdd w 1).toNat % 2 ^ 48 = (w.toNat + 1) % 2 ^ 48 ∧
    (evcAdd w 1).getLsbD 63 = (w.getLsbD 63 || decide (w.toNat % 2 ^ 48 = 2 ^ 48 - 1)) := by
  have hw := w.isLt
  have e63 : w.getLsbD 63 = decide (w.toNat / 2 ^ 63 = 1) := by
    rw [← BitVec.testBit_toNat, Nat.testBit_eq_decide_div_mod_eq]
    have : w.toNat / 2 ^ 63 < 2 := by omega
    rw [Nat.mod_eq_of_lt this]
  have key : (evcAdd w 1).toNat = (w.toNat % 2 ^ 48 + 1) % 2 ^ 48 + 2 ^ 63 * ((w.getLsbD 63) || decide (w.toNat % 2 ^ 48 = 2 ^ 48 - 1)).toNat := by
    simp only [evcAdd, one_ne_zero, if_false, BitVec.toNat_ofNat, e63]
    have : (decide (w.toNat % 2^48 + 1 ≥ 2^48)) = decide (w.toNat % 2 ^ 48 = 2 ^ 48 - 1) := by
      congr 1; simp only [eq_iff_iff]; omega
    rw [this]
    cases hb : (decide (w.toNat / 2 ^ 63 = 1) || decide (w.toNat % 2 ^ 48 = 2 ^ 48 - 1)) <;> simp <;> omega
  constructor
  · rw [key]
    cases ((w.getLsbD 63) || decide (w.toNat % 2 ^ 48 = 2 ^ 48 - 1)) <;> simp <;> omega
  · rw [← BitVec.testBit_toNat, key, Nat.testBit_eq_decide_div_mod_eq]
    cases ((w.getLsbD 63) || decide (w.toNat % 2 ^ 48 = 2 ^ 48 - 1)) <;> simp <;> omega

theorem countEvent_evc (f : Fab) (cl task code n : Nat) (k : Nat) :
    tgetD (f.countEvent cl task code n).evc k 0 =
      if k / 4 = cl ∧ evselHits (tgetD f.evsel k 0) task code = true then evcAdd (tgetD f.evc k 0) n else tgetD f.evc k 0 := by
  simp only [Fab.countEvent, List.range, List.range.loop, List.foldl_cons, List.foldl_nil]
  have go : ∀ (t : Tab Word) (j : Nat), tgetD (if evselHits (tgetD f.evsel (4 * cl + j) 0) task code = true then
        tput t (4 * cl + j) (evcAdd (tgetD t (4 * cl + j) 0) n) else t) k 0 =
      if k = 4 * cl + j ∧ evselHits (tgetD f.evsel k 0) task code = true then evcAdd (tgetD t k 0) n else tgetD t k 0 := by
    intro t j
    by_cases hk : k = 4 * cl + j
    · subst hk; split <;> simp_all
    · simp only [hk, false_and, if_false]
      split
      · exact tgetD_tput_ne _ _ _ _ _ hk
      · rfl
  rw [go, go, go, go]
  by_cases hh : evselHits (tgetD f.evsel k 0) task code = true
  · simp only [hh, and_true]
    split_ifs <;> first | omega | rfl
  · simp only [hh, and_false, if_false, Bool.false_eq_true]

-- GEN BEGIN

theorem exec_steer_squashed (f : FmtA) (s : State) (c : Focus) (hf : s.focus = some c) (hq : f.pmode.squashes c.aux = true) :
    exec (.steer f) s = .next ((s.countEvent (clusterOf c.pf) c.task 0x03 1).unfocus) := by
  rw [exec_steer, execSteer]; exact fireA_squashed f s c _ hf hq

theorem exec_select_squashed (f : FmtA) (s : State) (c : Focus) (hf : s.focus = some c) (hq : f.pmode.squashes c.aux = true) :
    exec (.select f) s = .next ((s.countEvent (clusterOf c.pf) c.task 0x03 1).unfocus) := by
  rw [exec_select, execSelect]; exact fireA_squashed f s c _ hf hq

theorem exec_wadv_squashed (f : FmtA) (s : State) (c : Focus) (hf : s.focus = some c) (hq : f.pmode.squashes c.aux = true) :
    exec (.wadv f) s = .next ((s.countEvent (clusterOf c.pf) c.task 0x03 1).unfocus) := by
  rw [exec_wadv, execWadv]; exact fireA_squashed f s c _ hf hq

theorem exec_wset_squashed (f : FmtA) (s : State) (c : Focus) (hf : s.focus = some c) (hq : f.pmode.squashes c.aux = true) :
    exec (.wset f) s = .next ((s.countEvent (clusterOf c.pf) c.task 0x03 1).unfocus) := by
  rw [exec_wset, execWset]; exact fireA_squashed f s c _ hf hq

theorem exec_mov_squashed (f : FmtA) (s : State) (c : Focus) (hf : s.focus = some c) (hq : f.pmode.squashes c.aux = true) :
    exec (.mov f) s = .next ((s.countEvent (clusterOf c.pf) c.task 0x03 1).unfocus) := by
  rw [exec_mov, execMov]; exact fireVal_squashed f _ s c _ hf hq

theorem exec_const_squashed (f : FmtA) (s : State) (c : Focus) (hf : s.focus = some c) (hq : f.pmode.squashes c.aux = true) :
    exec (.const f) s = .next ((s.countEvent (clusterOf c.pf) c.task 0x03 1).unfocus) := by
  rw [exec_const, execConst]; exact fireVal_squashed f _ s c _ hf hq

theorem exec_sink_squashed (f : FmtA) (s : State) (c : Focus) (hf : s.focus = some c) (hq : f.pmode.squashes c.aux = true) :
    exec (.sink f) s = .next ((s.countEvent (clusterOf c.pf) c.task 0x03 1).unfocus) := by
  rw [exec_sink, execSink]; exact fireA_squashed f s c _ hf hq

theorem exec_gate_squashed (f : FmtA) (s : State) (c : Focus) (hf : s.focus = some c) (hq : f.pmode.squashes c.aux = true) :
    exec (.gate f) s = .next ((s.countEvent (clusterOf c.pf) c.task 0x03 1).unfocus) := by
  rw [exec_gate, execGate]; exact fireVal_squashed f _ s c _ hf hq

theorem exec_join_squashed (three : Bool) (f : FmtA) (s : State) (c : Focus) (hf : s.focus = some c) (hq : f.pmode.squashes c.aux = true) :
    exec (.join three f) s = .next ((s.countEvent (clusterOf c.pf) c.task 0x03 1).unfocus) := by
  rw [exec_join, execJoin]; exact fireVal_squashed f _ s c _ hf hq

theorem exec_idx_squashed (f : FmtA) (s : State) (c : Focus) (hf : s.focus = some c) (hq : f.pmode.squashes c.aux = true) :
    exec (.idx f) s = .next ((s.countEvent (clusterOf c.pf) c.task 0x03 1).unfocus) := by
  rw [exec_idx, execIdx]; exact fireA_squashed f s c _ hf hq

theorem exec_spawn_squashed (f : FmtA) (s : State) (c : Focus) (hf : s.focus = some c) (hq : f.pmode.squashes c.aux = true) :
    exec (.spawn f) s = .next ((s.countEvent (clusterOf c.pf) c.task 0x03 1).unfocus) := by
  rw [exec_spawn, execSpawn]; exact fireA_squashed f s c _ hf hq

theorem exec_send_squashed (f : FmtA) (s : State) (c : Focus) (hf : s.focus = some c) (hq : f.pmode.squashes c.aux = true) :
    exec (.send f) s = .next ((s.countEvent (clusterOf c.pf) c.task 0x03 1).unfocus) := by
  rw [exec_send, execSend]; exact fireA_squashed f s c _ hf hq

theorem exec_tagof_squashed (f : FmtA) (s : State) (c : Focus) (hf : s.focus = some c) (hq : f.pmode.squashes c.aux = true) :
    exec (.tagof f) s = .next ((s.countEvent (clusterOf c.pf) c.task 0x03 1).unfocus) := by
  rw [exec_tagof, execTagof]; exact fireA_squashed f s c _ hf hq

theorem exec_endt_squashed (f : FmtA) (s : State) (c : Focus) (hf : s.focus = some c) (hq : f.pmode.squashes c.aux = true) :
    exec (.endt f) s = .next ((s.countEvent (clusterOf c.pf) c.task 0x03 1).unfocus) := by
  rw [exec_endt, execEndt]; exact fireA_squashed f s c _ hf hq

theorem exec_add_squashed (f : FmtA) (s : State) (c : Focus) (hf : s.focus = some c) (hq : f.pmode.squashes c.aux = true) :
    exec (.add f) s = .next ((s.countEvent (clusterOf c.pf) c.task 0x03 1).unfocus) := by
  rw [exec_add, execAdd]; exact fireFlg_squashed f _ s c _ hf hq

theorem exec_sub_squashed (f : FmtA) (s : State) (c : Focus) (hf : s.focus = some c) (hq : f.pmode.squashes c.aux = true) :
    exec (.sub f) s = .next ((s.countEvent (clusterOf c.pf) c.task 0x03 1).unfocus) := by
  rw [exec_sub, execSub]; exact fireFlg_squashed f _ s c _ hf hq

theorem exec_addc_squashed (co : Bool) (f : FmtA) (s : State) (c : Focus) (hf : s.focus = some c) (hq : f.pmode.squashes c.aux = true) :
    exec (.addc co f) s = .next ((s.countEvent (clusterOf c.pf) c.task 0x03 1).unfocus) := by
  rw [exec_addc, execAddc]; exact fireVal_squashed f _ s c _ hf hq

theorem exec_subb_squashed (bo : Bool) (f : FmtA) (s : State) (c : Focus) (hf : s.focus = some c) (hq : f.pmode.squashes c.aux = true) :
    exec (.subb bo f) s = .next ((s.countEvent (clusterOf c.pf) c.task 0x03 1).unfocus) := by
  rw [exec_subb, execSubb]; exact fireVal_squashed f _ s c _ hf hq

theorem exec_neg_squashed (f : FmtA) (s : State) (c : Focus) (hf : s.focus = some c) (hq : f.pmode.squashes c.aux = true) :
    exec (.neg f) s = .next ((s.countEvent (clusterOf c.pf) c.task 0x03 1).unfocus) := by
  rw [exec_neg, execNeg]; exact fireFlg_squashed f _ s c _ hf hq

theorem exec_abs_squashed (f : FmtA) (s : State) (c : Focus) (hf : s.focus = some c) (hq : f.pmode.squashes c.aux = true) :
    exec (.abs f) s = .next ((s.countEvent (clusterOf c.pf) c.task 0x03 1).unfocus) := by
  rw [exec_abs, execAbs]; exact fireFlg_squashed f _ s c _ hf hq

theorem exec_mul_squashed (f : FmtA) (s : State) (c : Focus) (hf : s.focus = some c) (hq : f.pmode.squashes c.aux = true) :
    exec (.mul f) s = .next ((s.countEvent (clusterOf c.pf) c.task 0x03 1).unfocus) := by
  rw [exec_mul, execMul]; exact fireVal_squashed f _ s c _ hf hq

theorem exec_mulh_squashed (f : FmtA) (s : State) (c : Focus) (hf : s.focus = some c) (hq : f.pmode.squashes c.aux = true) :
    exec (.mulh f) s = .next ((s.countEvent (clusterOf c.pf) c.task 0x03 1).unfocus) := by
  rw [exec_mulh, execMulh]; exact fireVal_squashed f _ s c _ hf hq

theorem exec_mulw_squashed (odd : Bool) (f : FmtA) (s : State) (c : Focus) (hf : s.focus = some c) (hq : f.pmode.squashes c.aux = true) :
    exec (.mulw odd f) s = .next ((s.countEvent (clusterOf c.pf) c.task 0x03 1).unfocus) := by
  rw [exec_mulw, execMulw]; exact fireVal_squashed f _ s c _ hf hq

theorem exec_mad_squashed (f : FmtA) (s : State) (c : Focus) (hf : s.focus = some c) (hq : f.pmode.squashes c.aux = true) :
    exec (.mad f) s = .next ((s.countEvent (clusterOf c.pf) c.task 0x03 1).unfocus) := by
  rw [exec_mad, execMad]; exact fireVal_squashed f _ s c _ hf hq

theorem exec_div_squashed (f : FmtA) (s : State) (c : Focus) (hf : s.focus = some c) (hq : f.pmode.squashes c.aux = true) :
    exec (.div f) s = .next ((s.countEvent (clusterOf c.pf) c.task 0x03 1).unfocus) := by
  rw [exec_div, execDiv]; exact fireVal_squashed f _ s c _ hf hq

theorem exec_rem_squashed (f : FmtA) (s : State) (c : Focus) (hf : s.focus = some c) (hq : f.pmode.squashes c.aux = true) :
    exec (.rem f) s = .next ((s.countEvent (clusterOf c.pf) c.task 0x03 1).unfocus) := by
  rw [exec_rem, execRem]; exact fireVal_squashed f _ s c _ hf hq

theorem exec_min_squashed (f : FmtA) (s : State) (c : Focus) (hf : s.focus = some c) (hq : f.pmode.squashes c.aux = true) :
    exec (.min f) s = .next ((s.countEvent (clusterOf c.pf) c.task 0x03 1).unfocus) := by
  rw [exec_min, execMin]; exact fireVal_squashed f _ s c _ hf hq

theorem exec_max_squashed (f : FmtA) (s : State) (c : Focus) (hf : s.focus = some c) (hq : f.pmode.squashes c.aux = true) :
    exec (.max f) s = .next ((s.countEvent (clusterOf c.pf) c.task 0x03 1).unfocus) := by
  rw [exec_max, execMax]; exact fireVal_squashed f _ s c _ hf hq

theorem exec_avg_squashed (f : FmtA) (s : State) (c : Focus) (hf : s.focus = some c) (hq : f.pmode.squashes c.aux = true) :
    exec (.avg f) s = .next ((s.countEvent (clusterOf c.pf) c.task 0x03 1).unfocus) := by
  rw [exec_avg, execAvg]; exact fireVal_squashed f _ s c _ hf hq

theorem exec_sad_squashed (f : FmtA) (s : State) (c : Focus) (hf : s.focus = some c) (hq : f.pmode.squashes c.aux = true) :
    exec (.sad f) s = .next ((s.countEvent (clusterOf c.pf) c.task 0x03 1).unfocus) := by
  rw [exec_sad, execSad]; exact fireVal_squashed f _ s c _ hf hq

theorem exec_and_squashed (f : FmtA) (s : State) (c : Focus) (hf : s.focus = some c) (hq : f.pmode.squashes c.aux = true) :
    exec (.and f) s = .next ((s.countEvent (clusterOf c.pf) c.task 0x03 1).unfocus) := by
  rw [exec_and, execAnd]; exact fireVal_squashed f _ s c _ hf hq

theorem exec_or_squashed (f : FmtA) (s : State) (c : Focus) (hf : s.focus = some c) (hq : f.pmode.squashes c.aux = true) :
    exec (.or f) s = .next ((s.countEvent (clusterOf c.pf) c.task 0x03 1).unfocus) := by
  rw [exec_or, execOr]; exact fireVal_squashed f _ s c _ hf hq

theorem exec_xor_squashed (f : FmtA) (s : State) (c : Focus) (hf : s.focus = some c) (hq : f.pmode.squashes c.aux = true) :
    exec (.xor f) s = .next ((s.countEvent (clusterOf c.pf) c.task 0x03 1).unfocus) := by
  rw [exec_xor, execXor]; exact fireVal_squashed f _ s c _ hf hq

theorem exec_andn_squashed (f : FmtA) (s : State) (c : Focus) (hf : s.focus = some c) (hq : f.pmode.squashes c.aux = true) :
    exec (.andn f) s = .next ((s.countEvent (clusterOf c.pf) c.task 0x03 1).unfocus) := by
  rw [exec_andn, execAndn]; exact fireVal_squashed f _ s c _ hf hq

theorem exec_not_squashed (f : FmtA) (s : State) (c : Focus) (hf : s.focus = some c) (hq : f.pmode.squashes c.aux = true) :
    exec (.not f) s = .next ((s.countEvent (clusterOf c.pf) c.task 0x03 1).unfocus) := by
  rw [exec_not, execNot]; exact fireVal_squashed f _ s c _ hf hq

theorem exec_shl_squashed (f : FmtA) (s : State) (c : Focus) (hf : s.focus = some c) (hq : f.pmode.squashes c.aux = true) :
    exec (.shl f) s = .next ((s.countEvent (clusterOf c.pf) c.task 0x03 1).unfocus) := by
  rw [exec_shl, execShl]; exact fireVal_squashed f _ s c _ hf hq

theorem exec_shr_squashed (f : FmtA) (s : State) (c : Focus) (hf : s.focus = some c) (hq : f.pmode.squashes c.aux = true) :
    exec (.shr f) s = .next ((s.countEvent (clusterOf c.pf) c.task 0x03 1).unfocus) := by
  rw [exec_shr, execShr]; exact fireVal_squashed f _ s c _ hf hq

theorem exec_sar_squashed (f : FmtA) (s : State) (c : Focus) (hf : s.focus = some c) (hq : f.pmode.squashes c.aux = true) :
    exec (.sar f) s = .next ((s.countEvent (clusterOf c.pf) c.task 0x03 1).unfocus) := by
  rw [exec_sar, execSar]; exact fireVal_squashed f _ s c _ hf hq

theorem exec_rot_squashed (f : FmtA) (s : State) (c : Focus) (hf : s.focus = some c) (hq : f.pmode.squashes c.aux = true) :
    exec (.rot f) s = .next ((s.countEvent (clusterOf c.pf) c.task 0x03 1).unfocus) := by
  rw [exec_rot, execRot]; exact fireVal_squashed f _ s c _ hf hq

theorem exec_shrp_squashed (f : FmtA) (s : State) (c : Focus) (hf : s.focus = some c) (hq : f.pmode.squashes c.aux = true) :
    exec (.shrp f) s = .next ((s.countEvent (clusterOf c.pf) c.task 0x03 1).unfocus) := by
  rw [exec_shrp, execShrp]; exact fireVal_squashed f _ s c _ hf hq

theorem exec_clz_squashed (f : FmtA) (s : State) (c : Focus) (hf : s.focus = some c) (hq : f.pmode.squashes c.aux = true) :
    exec (.clz f) s = .next ((s.countEvent (clusterOf c.pf) c.task 0x03 1).unfocus) := by
  rw [exec_clz, execClz]; exact fireVal_squashed f _ s c _ hf hq

theorem exec_ctz_squashed (f : FmtA) (s : State) (c : Focus) (hf : s.focus = some c) (hq : f.pmode.squashes c.aux = true) :
    exec (.ctz f) s = .next ((s.countEvent (clusterOf c.pf) c.task 0x03 1).unfocus) := by
  rw [exec_ctz, execCtz]; exact fireVal_squashed f _ s c _ hf hq

theorem exec_popc_squashed (f : FmtA) (s : State) (c : Focus) (hf : s.focus = some c) (hq : f.pmode.squashes c.aux = true) :
    exec (.popc f) s = .next ((s.countEvent (clusterOf c.pf) c.task 0x03 1).unfocus) := by
  rw [exec_popc, execPopc]; exact fireVal_squashed f _ s c _ hf hq

theorem exec_brev_squashed (f : FmtA) (s : State) (c : Focus) (hf : s.focus = some c) (hq : f.pmode.squashes c.aux = true) :
    exec (.brev f) s = .next ((s.countEvent (clusterOf c.pf) c.task 0x03 1).unfocus) := by
  rw [exec_brev, execBrev]; exact fireVal_squashed f _ s c _ hf hq

theorem exec_bext_squashed (f : FmtA) (s : State) (c : Focus) (hf : s.focus = some c) (hq : f.pmode.squashes c.aux = true) :
    exec (.bext f) s = .next ((s.countEvent (clusterOf c.pf) c.task 0x03 1).unfocus) := by
  rw [exec_bext, execBext]; exact fireVal_squashed f _ s c _ hf hq

theorem exec_bdep_squashed (f : FmtA) (s : State) (c : Focus) (hf : s.focus = some c) (hq : f.pmode.squashes c.aux = true) :
    exec (.bdep f) s = .next ((s.countEvent (clusterOf c.pf) c.task 0x03 1).unfocus) := by
  rw [exec_bdep, execBdep]; exact fireVal_squashed f _ s c _ hf hq

theorem exec_perm_squashed (f : FmtA) (s : State) (c : Focus) (hf : s.focus = some c) (hq : f.pmode.squashes c.aux = true) :
    exec (.perm f) s = .next ((s.countEvent (clusterOf c.pf) c.task 0x03 1).unfocus) := by
  rw [exec_perm, execPerm]; exact fireVal_squashed f _ s c _ hf hq

theorem exec_mix_squashed (hi : Bool) (f : FmtA) (s : State) (c : Focus) (hf : s.focus = some c) (hq : f.pmode.squashes c.aux = true) :
    exec (.mix hi f) s = .next ((s.countEvent (clusterOf c.pf) c.task 0x03 1).unfocus) := by
  rw [exec_mix, execMix]; exact fireVal_squashed f _ s c _ hf hq

theorem exec_bcast_squashed (f : FmtA) (s : State) (c : Focus) (hf : s.focus = some c) (hq : f.pmode.squashes c.aux = true) :
    exec (.bcast f) s = .next ((s.countEvent (clusterOf c.pf) c.task 0x03 1).unfocus) := by
  rw [exec_bcast, execBcast]; exact fireVal_squashed f _ s c _ hf hq

theorem exec_pack_squashed (f : FmtA) (s : State) (c : Focus) (hf : s.focus = some c) (hq : f.pmode.squashes c.aux = true) :
    exec (.pack f) s = .next ((s.countEvent (clusterOf c.pf) c.task 0x03 1).unfocus) := by
  rw [exec_pack, execPack]; exact fireFlg_squashed f _ s c _ hf hq

theorem exec_unpk_squashed (hi : Bool) (f : FmtA) (s : State) (c : Focus) (hf : s.focus = some c) (hq : f.pmode.squashes c.aux = true) :
    exec (.unpk hi f) s = .next ((s.countEvent (clusterOf c.pf) c.task 0x03 1).unfocus) := by
  rw [exec_unpk, execUnpk]; exact fireVal_squashed f _ s c _ hf hq

theorem exec_cmp_squashed (cc : ICmp) (f : FmtA) (s : State) (c : Focus) (hf : s.focus = some c) (hq : f.pmode.squashes c.aux = true) :
    exec (.cmp cc f) s = .next ((s.countEvent (clusterOf c.pf) c.task 0x03 1).unfocus) := by
  rw [exec_cmp, execCmp]; exact fireVal_squashed f _ s c _ hf hq

theorem exec_btst_squashed (f : FmtA) (s : State) (c : Focus) (hf : s.focus = some c) (hq : f.pmode.squashes c.aux = true) :
    exec (.btst f) s = .next ((s.countEvent (clusterOf c.pf) c.task 0x03 1).unfocus) := by
  rw [exec_btst, execBtst]; exact fireVal_squashed f _ s c _ hf hq

theorem exec_blend_squashed (f : FmtA) (s : State) (c : Focus) (hf : s.focus = some c) (hq : f.pmode.squashes c.aux = true) :
    exec (.blend f) s = .next ((s.countEvent (clusterOf c.pf) c.task 0x03 1).unfocus) := by
  rw [exec_blend, execBlend]; exact fireVal_squashed f _ s c _ hf hq

theorem exec_lea_squashed (scale : BitVec 2) (f : FmtA) (s : State) (c : Focus) (hf : s.focus = some c) (hq : f.pmode.squashes c.aux = true) :
    exec (.lea scale f) s = .next ((s.countEvent (clusterOf c.pf) c.task 0x03 1).unfocus) := by
  rw [exec_lea, execLea]; exact fireVal_squashed f _ s c _ hf hq

theorem exec_fadd_squashed (f : FmtA) (s : State) (c : Focus) (hf : s.focus = some c) (hq : f.pmode.squashes c.aux = true) :
    exec (.fadd f) s = .next ((s.countEvent (clusterOf c.pf) c.task 0x03 1).unfocus) := by
  rw [exec_fadd, execFadd]; exact fireFlg_squashed f _ s c _ hf hq

theorem exec_fsub_squashed (f : FmtA) (s : State) (c : Focus) (hf : s.focus = some c) (hq : f.pmode.squashes c.aux = true) :
    exec (.fsub f) s = .next ((s.countEvent (clusterOf c.pf) c.task 0x03 1).unfocus) := by
  rw [exec_fsub, execFsub]; exact fireFlg_squashed f _ s c _ hf hq

theorem exec_fmul_squashed (f : FmtA) (s : State) (c : Focus) (hf : s.focus = some c) (hq : f.pmode.squashes c.aux = true) :
    exec (.fmul f) s = .next ((s.countEvent (clusterOf c.pf) c.task 0x03 1).unfocus) := by
  rw [exec_fmul, execFmul]; exact fireFlg_squashed f _ s c _ hf hq

theorem exec_fma_squashed (f : FmtA) (s : State) (c : Focus) (hf : s.focus = some c) (hq : f.pmode.squashes c.aux = true) :
    exec (.fma f) s = .next ((s.countEvent (clusterOf c.pf) c.task 0x03 1).unfocus) := by
  rw [exec_fma, execFma]; exact fireFlg_squashed f _ s c _ hf hq

theorem exec_fmin_squashed (f : FmtA) (s : State) (c : Focus) (hf : s.focus = some c) (hq : f.pmode.squashes c.aux = true) :
    exec (.fmin f) s = .next ((s.countEvent (clusterOf c.pf) c.task 0x03 1).unfocus) := by
  rw [exec_fmin, execFmin]; exact fireFlg_squashed f _ s c _ hf hq

theorem exec_fmax_squashed (f : FmtA) (s : State) (c : Focus) (hf : s.focus = some c) (hq : f.pmode.squashes c.aux = true) :
    exec (.fmax f) s = .next ((s.countEvent (clusterOf c.pf) c.task 0x03 1).unfocus) := by
  rw [exec_fmax, execFmax]; exact fireFlg_squashed f _ s c _ hf hq

theorem exec_fabs_squashed (f : FmtA) (s : State) (c : Focus) (hf : s.focus = some c) (hq : f.pmode.squashes c.aux = true) :
    exec (.fabs f) s = .next ((s.countEvent (clusterOf c.pf) c.task 0x03 1).unfocus) := by
  rw [exec_fabs, execFabs]; exact fireVal_squashed f _ s c _ hf hq

theorem exec_fneg_squashed (f : FmtA) (s : State) (c : Focus) (hf : s.focus = some c) (hq : f.pmode.squashes c.aux = true) :
    exec (.fneg f) s = .next ((s.countEvent (clusterOf c.pf) c.task 0x03 1).unfocus) := by
  rw [exec_fneg, execFneg]; exact fireVal_squashed f _ s c _ hf hq

theorem exec_fcmp_squashed (cc : FCmp) (f : FmtA) (s : State) (c : Focus) (hf : s.focus = some c) (hq : f.pmode.squashes c.aux = true) :
    exec (.fcmp cc f) s = .next ((s.countEvent (clusterOf c.pf) c.task 0x03 1).unfocus) := by
  rw [exec_fcmp, execFcmp]; exact fireFlg_squashed f _ s c _ hf hq

theorem exec_fclass_squashed (f : FmtA) (s : State) (c : Focus) (hf : s.focus = some c) (hq : f.pmode.squashes c.aux = true) :
    exec (.fclass f) s = .next ((s.countEvent (clusterOf c.pf) c.task 0x03 1).unfocus) := by
  rw [exec_fclass, execFclass]; exact fireVal_squashed f _ s c _ hf hq

theorem exec_frcp_squashed (f : FmtA) (s : State) (c : Focus) (hf : s.focus = some c) (hq : f.pmode.squashes c.aux = true) :
    exec (.frcp f) s = .next ((s.countEvent (clusterOf c.pf) c.task 0x03 1).unfocus) := by
  rw [exec_frcp, execFrcp]; exact fireFlg_squashed f _ s c _ hf hq

theorem exec_frsq_squashed (f : FmtA) (s : State) (c : Focus) (hf : s.focus = some c) (hq : f.pmode.squashes c.aux = true) :
    exec (.frsq f) s = .next ((s.countEvent (clusterOf c.pf) c.task 0x03 1).unfocus) := by
  rw [exec_frsq, execFrsq]; exact fireFlg_squashed f _ s c _ hf hq

theorem exec_fsqrt_squashed (f : FmtA) (s : State) (c : Focus) (hf : s.focus = some c) (hq : f.pmode.squashes c.aux = true) :
    exec (.fsqrt f) s = .next ((s.countEvent (clusterOf c.pf) c.task 0x03 1).unfocus) := by
  rw [exec_fsqrt, execFsqrt]; exact fireFlg_squashed f _ s c _ hf hq

theorem exec_fdiv_squashed (f : FmtA) (s : State) (c : Focus) (hf : s.focus = some c) (hq : f.pmode.squashes c.aux = true) :
    exec (.fdiv f) s = .next ((s.countEvent (clusterOf c.pf) c.task 0x03 1).unfocus) := by
  rw [exec_fdiv, execFdiv]; exact fireFlg_squashed f _ s c _ hf hq

theorem exec_fexp2_squashed (f : FmtA) (s : State) (c : Focus) (hf : s.focus = some c) (hq : f.pmode.squashes c.aux = true) :
    exec (.fexp2 f) s = .next ((s.countEvent (clusterOf c.pf) c.task 0x03 1).unfocus) := by
  rw [exec_fexp2, execFexp2]; exact fireFlg_squashed f _ s c _ hf hq

theorem exec_flog2_squashed (f : FmtA) (s : State) (c : Focus) (hf : s.focus = some c) (hq : f.pmode.squashes c.aux = true) :
    exec (.flog2 f) s = .next ((s.countEvent (clusterOf c.pf) c.task 0x03 1).unfocus) := by
  rw [exec_flog2, execFlog2]; exact fireFlg_squashed f _ s c _ hf hq

theorem exec_ftanh_squashed (f : FmtA) (s : State) (c : Focus) (hf : s.focus = some c) (hq : f.pmode.squashes c.aux = true) :
    exec (.ftanh f) s = .next ((s.countEvent (clusterOf c.pf) c.task 0x03 1).unfocus) := by
  rw [exec_ftanh, execFtanh]; exact fireFlg_squashed f _ s c _ hf hq

theorem exec_fsin_squashed (f : FmtA) (s : State) (c : Focus) (hf : s.focus = some c) (hq : f.pmode.squashes c.aux = true) :
    exec (.fsin f) s = .next ((s.countEvent (clusterOf c.pf) c.task 0x03 1).unfocus) := by
  rw [exec_fsin, execFsin]; exact fireFlg_squashed f _ s c _ hf hq

theorem exec_fcos_squashed (f : FmtA) (s : State) (c : Focus) (hf : s.focus = some c) (hq : f.pmode.squashes c.aux = true) :
    exec (.fcos f) s = .next ((s.countEvent (clusterOf c.pf) c.task 0x03 1).unfocus) := by
  rw [exec_fcos, execFcos]; exact fireFlg_squashed f _ s c _ hf hq

theorem exec_fsig_squashed (f : FmtA) (s : State) (c : Focus) (hf : s.focus = some c) (hq : f.pmode.squashes c.aux = true) :
    exec (.fsig f) s = .next ((s.countEvent (clusterOf c.pf) c.task 0x03 1).unfocus) := by
  rw [exec_fsig, execFsig]; exact fireFlg_squashed f _ s c _ hf hq

theorem exec_fround_squashed (f : FmtA) (s : State) (c : Focus) (hf : s.focus = some c) (hq : f.pmode.squashes c.aux = true) :
    exec (.fround f) s = .next ((s.countEvent (clusterOf c.pf) c.task 0x03 1).unfocus) := by
  rw [exec_fround, execFround]; exact fireFlg_squashed f _ s c _ hf hq

theorem exec_fscl_squashed (f : FmtA) (s : State) (c : Focus) (hf : s.focus = some c) (hq : f.pmode.squashes c.aux = true) :
    exec (.fscl f) s = .next ((s.countEvent (clusterOf c.pf) c.task 0x03 1).unfocus) := by
  rw [exec_fscl, execFscl]; exact fireFlg_squashed f _ s c _ hf hq

theorem exec_cvt_squashed (d : ETy) (part : BitVec 3) (mrg : Bool) (f : FmtA) (s : State) (c : Focus) (hf : s.focus = some c) (hq : f.pmode.squashes c.aux = true) :
    exec (.cvt d part mrg f) s = .next ((s.countEvent (clusterOf c.pf) c.task 0x03 1).unfocus) := by
  rw [exec_cvt, execCvt]; exact fireFlg_squashed f _ s c _ hf hq

theorem exec_famax_squashed (f : FmtA) (s : State) (c : Focus) (hf : s.focus = some c) (hq : f.pmode.squashes c.aux = true) :
    exec (.famax f) s = .next ((s.countEvent (clusterOf c.pf) c.task 0x03 1).unfocus) := by
  rw [exec_famax, execFamax]; exact fireFlg_squashed f _ s c _ hf hq

theorem exec_fsum_squashed (f : FmtA) (s : State) (c : Focus) (hf : s.focus = some c) (hq : f.pmode.squashes c.aux = true) :
    exec (.fsum f) s = .next ((s.countEvent (clusterOf c.pf) c.task 0x03 1).unfocus) := by
  rw [exec_fsum, execFsum]; exact fireFlg_squashed f _ s c _ hf hq

theorem exec_fdot2_squashed (f : FmtA) (s : State) (c : Focus) (hf : s.focus = some c) (hq : f.pmode.squashes c.aux = true) :
    exec (.fdot2 f) s = .next ((s.countEvent (clusterOf c.pf) c.task 0x03 1).unfocus) := by
  rw [exec_fdot2, execFdot2]; exact fireFlg_squashed f _ s c _ hf hq

theorem exec_mxscale_squashed (f : FmtA) (s : State) (c : Focus) (hf : s.focus = some c) (hq : f.pmode.squashes c.aux = true) :
    exec (.mxscale f) s = .next ((s.countEvent (clusterOf c.pf) c.task 0x03 1).unfocus) := by
  rw [exec_mxscale, execMxscale]; exact fireFlg_squashed f _ s c _ hf hq

theorem exec_mxq_squashed (part : BitVec 3) (f : FmtA) (s : State) (c : Focus) (hf : s.focus = some c) (hq : f.pmode.squashes c.aux = true) :
    exec (.mxq part f) s = .next ((s.countEvent (clusterOf c.pf) c.task 0x03 1).unfocus) := by
  rw [exec_mxq, execMxq]; exact fireFlg_squashed f _ s c _ hf hq

theorem exec_mxdq_squashed (part : BitVec 3) (f : FmtA) (s : State) (c : Focus) (hf : s.focus = some c) (hq : f.pmode.squashes c.aux = true) :
    exec (.mxdq part f) s = .next ((s.countEvent (clusterOf c.pf) c.task 0x03 1).unfocus) := by
  rw [exec_mxdq, execMxdq]; exact fireFlg_squashed f _ s c _ hf hq

theorem exec_tpack_squashed (part : BitVec 3) (f : FmtA) (s : State) (c : Focus) (hf : s.focus = some c) (hq : f.pmode.squashes c.aux = true) :
    exec (.tpack part f) s = .next ((s.countEvent (clusterOf c.pf) c.task 0x03 1).unfocus) := by
  rw [exec_tpack, execTpack]; exact fireFlg_squashed f _ s c _ hf hq

theorem exec_tunpk_squashed (part : BitVec 3) (f : FmtA) (s : State) (c : Focus) (hf : s.focus = some c) (hq : f.pmode.squashes c.aux = true) :
    exec (.tunpk part f) s = .next ((s.countEvent (clusterOf c.pf) c.task 0x03 1).unfocus) := by
  rw [exec_tunpk, execTunpk]; exact fireA_squashed f s c _ hf hq

theorem exec_trap_squashed (f : FmtA) (s : State) (c : Focus) (hf : s.focus = some c) (hq : f.pmode.squashes c.aux = true) :
    exec (.trap f) s = .next ((s.countEvent (clusterOf c.pf) c.task 0x03 1).unfocus) := by
  rw [exec_trap, execTrap]; exact fireA_squashed f s c _ hf hq

theorem exec_temit_squashed (f : FmtA) (s : State) (c : Focus) (hf : s.focus = some c) (hq : f.pmode.squashes c.aux = true) :
    exec (.temit f) s = .next ((s.countEvent (clusterOf c.pf) c.task 0x03 1).unfocus) := by
  rw [exec_temit, execTemit]; exact fireA_squashed f s c _ hf hq

theorem exec_srd_squashed (reg : SReg) (f : FmtA) (s : State) (c : Focus) (hf : s.focus = some c) (hq : f.pmode.squashes c.aux = true) :
    exec (.srd reg f) s = .next ((s.countEvent (clusterOf c.pf) c.task 0x03 1).unfocus) := by
  rw [exec_srd, execSrd]; exact fireA_squashed f s c _ hf hq

theorem exec_time_squashed (f : FmtA) (s : State) (c : Focus) (hf : s.focus = some c) (hq : f.pmode.squashes c.aux = true) :
    exec (.time f) s = .next ((s.countEvent (clusterOf c.pf) c.task 0x03 1).unfocus) := by
  rw [exec_time, execTime]; exact fireA_squashed f s c _ hf hq

theorem exec_chk_squashed (f : FmtA) (s : State) (c : Focus) (hf : s.focus = some c) (hq : f.pmode.squashes c.aux = true) :
    exec (.chk f) s = .next ((s.countEvent (clusterOf c.pf) c.task 0x03 1).unfocus) := by
  rw [exec_chk, execChk]; exact fireA_squashed f s c _ hf hq
-- GEN END

theorem getLsbD0 (w : Word) : w.getLsbD 0 = decide (w.toNat % 2 = 1) := by
  rw [← BitVec.testBit_toNat, Nat.testBit_zero]

theorem wordForm_of {i : Instr} {f : FmtA} {x : Nat} (g : Word → Word → Word → Word)
    (hi : ∀ s, exec i s = fireVal f x s g) : WordForm i f x g :=
  produces_val hi (fun _ _ => ⟨rfl, rfl⟩)

theorem fired_emit (s : State) (c : Focus) (x tag wave : Nat) (ds : List Dest) (res side : Option Word) :
    Fired s (s.emit c x tag wave ds res side).unfocus c (firedToks s x tag wave ds res side) Flags.none := by
  rw [emit_eq]; exact fired_plain _ _ _

theorem thread_mod (p : Placement) (tag : Nat) (g : Thread → Thread) (th : Thread) (h : p.thread? tag = some th) :
    (p.modThread tag g).thread? tag = some (g th) := by
  simp only [Placement.thread?, Placement.modThread] at *
  rw [tget_tmod_same, h]; rfl

theorem placement_mod (s : State) (task pl : Nat) (g : Placement → Placement) (p : Placement) (h : s.placement? task pl = some p) :
    (s.modPlacement task pl g).placement? task pl = some (g p) := by
  show tget (tmod s.fab.placements (plKey task pl) g) (plKey task pl) = _
  rw [tget_tmod_same]
  simp only [State.placement?] at h; rw [h]; rfl

theorem traceStop_eq (s : State) (task swid tag wave fret velem slot pl pf stop code : Nat) :
    s.traceStop task swid tag wave fret velem slot pl pf stop code =
      { s with fab := { s.fab with trFifo := (s.traceStop task swid tag wave fret velem slot pl pf stop code).fab.trFifo } } := by
  unfold State.traceStop
  split
  · rfl
  · split <;> rfl

end Sys2Proof.Machine
end

