-- ==== Sys2Proof/Laws/Rounding.lean ====
section
/-!
SUPPORT. Laws/Rounding.lean: the codes of a format in order of value, and the one rounding of Fmt.round (R199, R205, R206).
-/
namespace Sys2Proof.Machine

/-! code values -/

def codeVal (F : Nat) (q0 : Int) (c : Nat) : ℚ :=
  if c < 2 ^ F then (c : ℚ) * 2 ^ q0 else ((2 ^ F + c % 2 ^ F : Nat) : ℚ) * 2 ^ (q0 + ((c / 2 ^ F : Nat) : Int) - 1)

theorem codeVal_mk (F : Nat) (q0 : Int) (j k : Nat) (hk : k ≤ 2 ^ (F + 1)) (hj : j = 0 ∨ 2 ^ F ≤ k) :
    codeVal F q0 (j * 2 ^ F + k) = k * 2 ^ (q0 + j) := by
  have h2 : (2:Nat) ^ (F + 1) = 2 * 2 ^ F := by rw [pow_succ]; ring
  have hp : 0 < 2 ^ F := by positivity
  unfold codeVal
  rcases Nat.lt_or_ge k (2 ^ F) with h | h
  · have : j = 0 := by omega
    subst this
    simp [h]
  · have h1 : ¬ (j * 2 ^ F + k < 2 ^ F) := by
      have : 0 ≤ j * 2 ^ F := Nat.zero_le _
      omega
    rw [if_neg h1]
    rcases Nat.lt_or_ge k (2 * 2 ^ F) with h3 | h3
    · obtain ⟨r, rfl⟩ : ∃ r, k = 2 ^ F + r := ⟨k - 2 ^ F, by omega⟩
      have hr : r < 2 ^ F := by omega
      have e1 : j * 2 ^ F + (2 ^ F + r) = r + 2 ^ F * (j + 1) := by ring
      rw [e1, Nat.add_mul_mod_self_left, Nat.mod_eq_of_lt hr, Nat.add_mul_div_left _ _ hp, Nat.div_eq_of_lt hr]
      congr 2; push_cast; ring
    · have : k = 2 * 2 ^ F := by omega
      subst this
      have e1 : j * 2 ^ F + 2 * 2 ^ F = 0 + 2 ^ F * (j + 2) := by ring
      rw [e1, Nat.add_mul_mod_self_left, Nat.mod_eq_of_lt hp, Nat.add_mul_div_left _ _ hp]
      have : (q0 + ((0 / 2 ^ F + (j + 2) : Nat) : Int) - 1) = (q0 + j) + 1 := by simp; ring
      rw [this, zpow_add_one₀ (by norm_num)]
      push_cast; ring

theorem codeVal_succ (F : Nat) (q0 : Int) (c : Nat) : codeVal F q0 c < codeVal F q0 (c + 1) := by
  have h2 : (2:Nat) ^ (F + 1) = 2 * 2 ^ F := by rw [pow_succ]; ring
  have hp : 0 < 2 ^ F := by positivity
  rcases Nat.lt_or_ge c (2 ^ F) with h | h
  · have a := codeVal_mk F q0 0 c (by omega) (Or.inl rfl)
    have b := codeVal_mk F q0 0 (c + 1) (by omega) (Or.inl rfl)
    simp only [Nat.zero_mul, Nat.zero_add] at a b
    rw [a, b]
    have : (0:ℚ) < 2 ^ (q0 + ((0:Nat):Int)) := by positivity
    generalize (2:ℚ) ^ (q0 + ((0:Nat):Int)) = z at *
    push_cast; nlinarith
  · set j := c / 2 ^ F - 1
    have hd : 1 ≤ c / 2 ^ F := Nat.div_pos h hp
    have hc : c = j * 2 ^ F + (2 ^ F + c % 2 ^ F) := by
      have := Nat.div_add_mod c (2 ^ F)
      have e : c / 2 ^ F = j + 1 := by omega
      rw [e] at this; nlinarith
    have hm : c % 2 ^ F < 2 ^ F := Nat.mod_lt _ hp
    have a := codeVal_mk F q0 j (2 ^ F + c % 2 ^ F) (by omega) (Or.inr (by omega))
    have b := codeVal_mk F q0 j (2 ^ F + c % 2 ^ F + 1) (by omega) (Or.inr (by omega))
    rw [← hc] at a
    have : j * 2 ^ F + (2 ^ F + c % 2 ^ F + 1) = c + 1 := by omega
    rw [this] at b
    rw [a, b]
    have : (0:ℚ) < 2 ^ (q0 + (j:Int)) := by positivity
    push_cast; nlinarith

theorem codeVal_mono (F : Nat) (q0 : Int) : StrictMono (codeVal F q0) := strictMono_nat_of_lt_succ (codeVal_succ F q0)

def fmts : List Fmt := [fmtF64, fmtF32, fmtBf16, fmtF16, fmtE5m2, fmtE4m3]

theorem unpack_code (f : Fmt) (hf : f ∈ fmts) (c : Nat) (hc : c ≤ f.maxMag) :
    (f.unpack c).rat = codeVal f.fbits (f.emin - f.fbits) c ∧ (∃ m e, f.unpack c = .fin false m e) := by
  have hw : c < 2 ^ (f.width - 1) ∧ c / 2 ^ f.fbits < 2 ^ f.ebits ∧ (f.kind = .ieee → c / 2 ^ f.fbits ≠ 2 ^ f.ebits - 1) ∧ ¬ (f.kind = .e4m3 ∧ c / 2 ^ f.fbits = 15 ∧ c % 2 ^ f.fbits = 7) := by
    simp only [fmts, List.mem_cons, List.not_mem_nil, or_false] at hf
    rcases hf with rfl | rfl | rfl | rfl | rfl | rfl <;> simp [Fmt.maxMag, fmtF64, fmtF32, fmtBf16, fmtF16, fmtE5m2, fmtE4m3, Fmt.width] at hc ⊢ <;> omega
  obtain ⟨h1, h2, h3, h4⟩ := hw
  unfold Fmt.unpack
  simp only [Nat.div_eq_of_lt h1, Nat.mod_eq_of_lt h2]
  have h5 : ¬ (f.kind = .ieee ∧ c / 2 ^ f.fbits = 2 ^ f.ebits - 1) := fun h => h3 h.1 h.2
  simp only [Bool.and_eq_true, decide_eq_true_eq, h5, if_false, and_assoc, h4]
  by_cases h0 : c / 2 ^ f.fbits = 0
  · simp only [h0, if_true]
    have hlt : c < 2 ^ f.fbits := by
      by_contra hh
      have := Nat.div_pos (not_lt.1 hh) (by positivity : 0 < 2 ^ f.fbits)
      omega
    refine ⟨?_, _, _, rfl⟩
    simp [FVal.rat, codeVal, hlt, Nat.mod_eq_of_lt hlt]
  · simp only [h0, if_false]
    have hge : ¬ c < 2 ^ f.fbits := fun h => h0 (Nat.div_eq_of_lt h)
    refine ⟨?_, _, _, rfl⟩
    have e : ((c / 2 ^ f.fbits : Nat) : Int) - (f.bias : Int) - (f.fbits : Int) = f.emin - f.fbits + ((c / 2 ^ f.fbits : Nat) : Int) - 1 := by
      simp only [Fmt.emin]; ring
    simp only [FVal.rat, codeVal, hge, if_false, Nat.zero_mod, e]
    simp

theorem chooses_of (rm : Rm) (neg : Bool) (rho k r d : Nat) (δ : ℚ) (h0 : 0 ≤ δ) (h1 : δ < 1) (hd : δ ≠ 0 → 33 ≤ d) :
    ChoosesUp rm neg (decide (k % 2 = 1)) rho ((r + δ) / 2 ^ d) (roundsUp rm neg rho k r d (decide (δ ≠ 0))) := by
  have hp : (0:ℚ) < 2 ^ d := by positivity
  have hc : ((2 ^ d : Nat) : ℚ) = (2:ℚ) ^ d := by push_cast; rfl
  have hr0 : (0:ℚ) ≤ r := by positivity
  unfold ChoosesUp roundsUp
  by_cases hz : (r:ℚ) + δ = 0
  · have hr : r = 0 := by exact_mod_cast (by linarith : (r:ℚ) = 0)
    have hδ : δ = 0 := by linarith
    subst hr; subst hδ; simp
  · have hne : ((r : ℚ) + δ) / 2 ^ d ≠ 0 := div_ne_zero hz hp.ne'
    have hor : (decide (r ≠ 0) || decide (δ ≠ 0)) = true := by
      by_contra hh
      simp only [Bool.not_eq_true, Bool.or_eq_false_iff, decide_eq_false_iff_not, not_not, ne_eq] at hh
      apply hz; rw [hh.1, hh.2]; simp
    rw [if_neg hne]
    simp only [hor, Bool.true_and]
    have half : ((2 ^ d : Nat) : ℚ) = 2 * ((2 ^ d / 2 : Nat) : ℚ) ∨ δ = 0 := by
      by_cases h : δ = 0
      · right; exact h
      · left
        obtain ⟨d', rfl⟩ : ∃ d', d = d' + 1 := ⟨d - 1, by have := hd h; omega⟩
        have : 2 ^ (d' + 1) / 2 = 2 ^ d' := by rw [pow_succ]; simp
        rw [this]; push_cast; rw [pow_succ]; ring
    -- comparison of 2r + 2δ with 2^d
    have ge_iff : ((2:ℚ) ^ d ≤ 2 * (r + δ)) ↔ 2 ^ d ≤ 2 * r := by
      rw [← hc]
      constructor
      · intro h
        by_contra hh
        have hlt : 2 * r + 1 ≤ 2 ^ d := by omega
        rcases half with hf | hf
        · have : 2 * r + 2 ≤ 2 ^ d := by
            have : r + 1 ≤ 2 ^ d / 2 := by
              have h3 : 2 ^ d = 2 * (2 ^ d / 2) := by exact_mod_cast hf
              omega
            have h3 : 2 ^ d = 2 * (2 ^ d / 2) := by exact_mod_cast hf
            omega
          have : ((2 * r + 2 : Nat) : ℚ) ≤ ((2 ^ d : Nat) : ℚ) := by exact_mod_cast this
          push_cast at this h; linarith
        · subst hf
          have : ((2 * r + 1 : Nat) : ℚ) ≤ ((2 ^ d : Nat) : ℚ) := by exact_mod_cast hlt
          push_cast at this h; linarith
      · intro h
        have : ((2 ^ d : Nat) : ℚ) ≤ ((2 * r : Nat) : ℚ) := by exact_mod_cast h
        push_cast at this ⊢; linarith
    have eq_iff : (2 * ((r:ℚ) + δ) = (2:ℚ) ^ d) ↔ (2 * r = 2 ^ d ∧ δ = 0) := by
      rw [← hc]
      constructor
      · intro h
        have h2 : 2 ^ d ≤ 2 * r := ge_iff.1 (by rw [← hc]; exact h.ge)
        have h2' : ((2 ^ d : Nat) : ℚ) ≤ ((2 * r : Nat) : ℚ) := by exact_mod_cast h2
        have hδ : δ = 0 := by push_cast at h2' h; linarith
        refine ⟨?_, hδ⟩
        subst hδ
        have : ((2 * r : Nat) : ℚ) = ((2 ^ d : Nat) : ℚ) := by push_cast at *; linarith
        exact_mod_cast this
      · rintro ⟨h, hδ⟩
        have : ((2 * r : Nat) : ℚ) = ((2 ^ d : Nat) : ℚ) := by exact_mod_cast h
        subst hδ; push_cast at *; linarith
    have ge2 : (((r:ℚ) + δ) / 2 ^ d ≥ 1 / 2) ↔ 2 * r ≥ 2 ^ d := by
      rw [ge_iff_le, div_le_div_iff₀ (by norm_num) hp, one_mul, mul_comm]; exact ge_iff
    have eq2 : (((r:ℚ) + δ) / 2 ^ d = 1 / 2) ↔ (2 * r = 2 ^ d ∧ δ = 0) := by
      rw [div_eq_div_iff hp.ne' (by norm_num), one_mul, mul_comm]; exact eq_iff
    have gt2 : (((r:ℚ) + δ) / 2 ^ d > 1 / 2) ↔ (2 * r > 2 ^ d ∨ (2 * r = 2 ^ d ∧ δ ≠ 0)) := by
      rw [gt_iff_lt, lt_iff_le_and_ne, ← ge_iff_le, ge2, ne_comm, ne_eq, eq2]
      constructor
      · rintro ⟨h, h'⟩
        rcases Nat.lt_or_ge (2 ^ d) (2 * r) with h3 | h3
        · left; exact h3
        · right; exact ⟨by omega, fun hz => h' ⟨by omega, hz⟩⟩
      · rintro (h | ⟨h, hz⟩)
        · exact ⟨by omega, fun h' => by omega⟩
        · exact ⟨by omega, fun h' => hz h'.2⟩
    cases rm
    · rw [gt2, eq2]
      by_cases hz : δ = 0 <;> simp [hz]
    · simp
    · simp
    · simp
    · rw [ge2]; simp
    · have hfl : ⌊((r:ℚ) + δ) / 2 ^ d * 2 ^ 32⌋ = ((r * 2 ^ 32 / 2 ^ d : Nat) : Int) := by
        by_cases hz : δ = 0
        · have e : ((r : ℚ) + δ) / 2 ^ d * 2 ^ 32 = ((r * 2 ^ 32 : Nat) : ℚ) / ((2 ^ d : Nat) : ℚ) := by rw [hz]; push_cast; ring
          rw [e, Rat.floor_natCast_div_natCast]; rfl
        · have h33 := hd hz
          obtain ⟨d', rfl⟩ : ∃ d', d = 32 + d' := ⟨d - 32, by omega⟩
          have e : ((r : ℚ) + δ) / 2 ^ (32 + d') * 2 ^ 32 = ((r : ℚ) + δ) / 2 ^ d' := by
            rw [pow_add]; field_simp
          have e2 : r * 2 ^ 32 / 2 ^ (32 + d') = r / 2 ^ d' := by
            rw [pow_add, Nat.mul_comm r, Nat.mul_div_mul_left _ _ (by positivity)]
          rw [e, e2, Int.floor_eq_iff]
          have hp' : (0:ℚ) < 2 ^ d' := by positivity
          have hdm := Nat.div_add_mod r (2 ^ d')
          have hmod : r % 2 ^ d' + 1 ≤ 2 ^ d' := Nat.mod_lt _ (by positivity)
          have hdm' : (2:ℚ) ^ d' * ((r / 2 ^ d' : Nat) : ℚ) + ((r % 2 ^ d' : Nat) : ℚ) = r := by exact_mod_cast hdm
          have hmod' : ((r % 2 ^ d' : Nat) : ℚ) + 1 ≤ (2:ℚ) ^ d' := by exact_mod_cast hmod
          have hm0 : (0:ℚ) ≤ ((r % 2 ^ d' : Nat) : ℚ) := by positivity
          constructor
          · rw [le_div_iff₀ hp', Int.cast_natCast]; nlinarith
          · rw [div_lt_iff₀ hp', Int.cast_natCast]; nlinarith
      simp only [hfl, decide_eq_true_eq, gt_iff_lt, Nat.cast_lt]

theorem roundAt_spec (rm : Rm) (rho : Nat) (neg : Bool) (m : Nat) (e q : Int) (hm : m ≠ 0) (δ : ℚ) (h0 : 0 ≤ δ) (h1 : δ < 1)
    (hδ : δ ≠ 0 → 33 ≤ (q - e).toNat) :
    RoundsAt rm neg rho ((m + δ : ℚ) * 2 ^ e) q (((roundAt rm rho ⟨neg, m, e, decide (δ ≠ 0)⟩ q).1 : ℚ) * 2 ^ q) ∧
    (roundAt rm rho ⟨neg, m, e, decide (δ ≠ 0)⟩ q).2 =
      decide (((roundAt rm rho ⟨neg, m, e, decide (δ ≠ 0)⟩ q).1 : ℚ) * 2 ^ q ≠ (m + δ : ℚ) * 2 ^ e) := by
  have hq : (0:ℚ) < 2 ^ q := by positivity
  have key : ∀ (k r d : Nat), (m + δ : ℚ) * 2 ^ e / 2 ^ q = k + (r + δ : ℚ) / 2 ^ d → r + 1 ≤ 2 ^ d → (δ ≠ 0 → 33 ≤ d) →
      RoundsAt rm neg rho ((m + δ : ℚ) * 2 ^ e) q (((k + (roundsUp rm neg rho k r d (decide (δ ≠ 0))).toNat : Nat) : ℚ) * 2 ^ q) ∧
      (decide (r ≠ 0) || decide (δ ≠ 0)) = decide ((((k + (roundsUp rm neg rho k r d (decide (δ ≠ 0))).toNat : Nat)) : ℚ) * 2 ^ q ≠ (m + δ : ℚ) * 2 ^ e) := by
    intro k r d hv hr h33
    have hpd : (0:ℚ) < 2 ^ d := by positivity
    have hr' : (r:ℚ) + 1 ≤ 2 ^ d := by exact_mod_cast hr
    have hf0 : (0:ℚ) ≤ (r + δ : ℚ) / 2 ^ d := by positivity
    have hf1 : (r + δ : ℚ) / 2 ^ d < 1 := by
      rw [div_lt_one hpd]; linarith
    have hfl : ⌊(m + δ : ℚ) * 2 ^ e / 2 ^ q⌋₊ = k := by
      rw [hv, Nat.floor_eq_iff (by positivity)]
      constructor <;> linarith
    have hch := chooses_of rm neg rho k r d δ h0 h1 h33
    constructor
    · refine ⟨roundsUp rm neg rho k r d (decide (δ ≠ 0)), ?_, ?_⟩
      · rw [hfl, hv]
        have : (k : ℚ) + (r + δ : ℚ) / 2 ^ d - k = (r + δ : ℚ) / 2 ^ d := by ring
        rw [this]; exact hch
      · rw [hfl]
    · have hmul : (m + δ : ℚ) * 2 ^ e = (k + (r + δ : ℚ) / 2 ^ d) * 2 ^ q := by
        rw [← hv]; field_simp
      have hor : (decide (r ≠ 0) || decide (δ ≠ 0)) = decide ((r + δ : ℚ) / 2 ^ d ≠ 0) := by
        rw [Bool.eq_iff_iff]
        simp only [Bool.or_eq_true, decide_eq_true_eq]
        rw [div_ne_zero_iff]
        have hr0 : (0:ℚ) ≤ r := by positivity
        constructor
        · rintro (h | h)
          · refine ⟨?_, hpd.ne'⟩
            have : (0:ℚ) < r := by exact_mod_cast Nat.pos_of_ne_zero h
            linarith
          · refine ⟨?_, hpd.ne'⟩
            have : 0 < δ := lt_of_le_of_ne h0 (Ne.symm h)
            linarith
        · rintro ⟨h, _⟩
          by_contra hh
          push_neg at hh
          apply h; rw [hh.1, hh.2]; simp
      rw [hor]
      congr 1
      rw [hmul]
      apply propext
      rw [not_iff_not]
      constructor
      · intro hz
        unfold ChoosesUp at hch
        rw [if_pos hz] at hch
        rw [hch, hz]; simp
      · intro h
        have h2 := mul_right_cancel₀ hq.ne' h
        have h3 : ((roundsUp rm neg rho k r d (decide (δ ≠ 0))).toNat : ℚ) = (r + δ : ℚ) / 2 ^ d := by push_cast at h2; linarith
        cases hu : roundsUp rm neg rho k r d (decide (δ ≠ 0))
        · rw [hu] at h3; simp only [Bool.toNat_false, Nat.cast_zero] at h3; exact h3.symm
        · rw [hu] at h3; simp only [Bool.toNat_true, Nat.cast_one] at h3; linarith
  unfold roundAt
  simp only
  set d := min (q - e).toNat (Nat.log2 m + 40) with hd
  have hml : m < 2 ^ (Nat.log2 m + 1) := Nat.lt_log2_self
  by_cases hcap : (q - e).toNat ≤ Nat.log2 m + 40
  · have hdd : d = (q - e).toNat := by omega
    have hr : m * 2 ^ (e - q).toNat % 2 ^ d < 2 ^ d := Nat.mod_lt _ (by positivity)
    have hv : (m + δ : ℚ) * 2 ^ e / 2 ^ q = ((m * 2 ^ (e - q).toNat / 2 ^ d : Nat) : ℚ) + (((m * 2 ^ (e - q).toNat % 2 ^ d : Nat) : ℚ) + δ) / 2 ^ d := by
      have h1 : ((m * 2 ^ (e - q).toNat : Nat) : ℚ) = ((m * 2 ^ (e - q).toNat / 2 ^ d : Nat) : ℚ) * 2 ^ d + ((m * 2 ^ (e - q).toNat % 2 ^ d : Nat) : ℚ) := by
        have := Nat.div_add_mod (m * 2 ^ (e - q).toNat) (2 ^ d)
        have h := congrArg (fun n : Nat => (n : ℚ)) this
        push_cast at h ⊢; linarith
      have h2 : (m + δ : ℚ) * 2 ^ e / 2 ^ q = (((m * 2 ^ (e - q).toNat : Nat) : ℚ) + δ) / 2 ^ d := by
        rw [hdd]
        push_cast
        rcases le_total q e with h | h
        · have a : (q - e).toNat = 0 := by omega
          have hz : δ = 0 := by
            by_contra hz; have := hδ hz; omega
          have b : (2:ℚ) ^ e = 2 ^ q * 2 ^ (e - q).toNat := by
            rw [← zpow_natCast, ← zpow_add₀ (by norm_num)]; congr 1; omega
          rw [a, b, hz]; field_simp; ring
        · have a : (e - q).toNat = 0 := by omega
          have b : (2:ℚ) ^ q = 2 ^ e * 2 ^ (q - e).toNat := by
            rw [← zpow_natCast, ← zpow_add₀ (by norm_num)]; congr 1; omega
          rw [a, b]; field_simp
      rw [h2, h1]; field_simp; ring
    exact key _ _ _ hv hr (by rw [hdd]; exact hδ)
  · have hdd : d = Nat.log2 m + 40 := by omega
    have hlt : m + 1 ≤ 2 ^ d := lt_of_lt_of_le hml (by rw [hdd]; exact Nat.pow_le_pow_right (by norm_num) (by omega))
    have hD : 0 ≤ q - e := by omega
    have a : (e - q).toNat = 0 := by omega
    have hv : (m + δ : ℚ) * 2 ^ e / 2 ^ q = ((0:Nat) : ℚ) + (m + δ : ℚ) / 2 ^ (q - e).toNat := by
      have b : (2:ℚ) ^ q = 2 ^ e * 2 ^ (q - e).toNat := by
        rw [← zpow_natCast, ← zpow_add₀ (by norm_num)]; congr 1; omega
      rw [b]; field_simp; push_cast; ring
    have hltD : m + 1 ≤ 2 ^ (q - e).toNat := le_trans hlt (Nat.pow_le_pow_right (by norm_num) (by omega))
    have hk := key 0 m (q - e).toNat hv hltD (fun _ => by omega)
    have hsame : ∀ st, roundsUp rm neg rho 0 m (q - e).toNat st = roundsUp rm neg rho 0 m d st := by
      intro st
      have c1 : ∀ D, Nat.log2 m + 40 ≤ D → 2 * m < 2 ^ D ∧ m * 2 ^ 32 / 2 ^ D = 0 := by
        intro D hD'
        have h1 : 2 ^ (Nat.log2 m + 40) ≤ 2 ^ D := Nat.pow_le_pow_right (by norm_num) hD'
        have h2 : 2 ^ (Nat.log2 m + 40) = 2 ^ (Nat.log2 m + 1) * 2 ^ 39 := by rw [← Nat.pow_add]
        constructor
        · omega
        · rw [Nat.div_eq_zero_iff]; right
          omega
      obtain ⟨x1, x2⟩ := c1 (q - e).toNat (by omega)
      obtain ⟨y1, y2⟩ := c1 d (by omega)
      unfold roundsUp
      cases rm <;> simp only
      · have p1 : ¬ (2 * m > 2 ^ (q - e).toNat) := by omega
        have p2 : ¬ (2 * m = 2 ^ (q - e).toNat) := by omega
        have p3 : ¬ (2 * m > 2 ^ d) := by omega
        have p4 : ¬ (2 * m = 2 ^ d) := by omega
        simp [p1, p2, p3, p4]
      · have p1 : ¬ (2 * m ≥ 2 ^ (q - e).toNat) := by omega
        have p3 : ¬ (2 * m ≥ 2 ^ d) := by omega
        simp [p1, p3]
      · rw [x2, y2]
    rw [hsame] at hk
    simp only [a, pow_zero, Nat.mul_one, Nat.div_eq_of_lt hlt, Nat.mod_eq_of_lt hlt]
    exact hk

theorem log_mag (m : Nat) (e : Int) (hm : m ≠ 0) (δ : ℚ) (h0 : 0 ≤ δ) (hδ1 : δ < 1) : Int.log 2 ((m + δ : ℚ) * 2 ^ e) = e + Nat.log2 m := by
  have hm0 : (0:ℚ) < m := by exact_mod_cast Nat.pos_of_ne_zero hm
  have hpos : (0:ℚ) < (m + δ : ℚ) * 2 ^ e := by positivity
  have h1 : 2 ^ Nat.log2 m ≤ m := Nat.log2_self_le hm
  have h2 : m + 1 ≤ 2 ^ (Nat.log2 m + 1) := Nat.lt_log2_self
  have h1' : (2:ℚ) ^ (Nat.log2 m) ≤ m := by exact_mod_cast h1
  have h2' : (m:ℚ) + 1 ≤ (2:ℚ) ^ (Nat.log2 m + 1) := by exact_mod_cast h2
  apply le_antisymm
  · have : Int.log 2 ((m + δ : ℚ) * 2 ^ e) < e + Nat.log2 m + 1 := by
      rw [← Int.lt_zpow_iff_log_lt (by norm_num) hpos]
      have : ((2:ℕ):ℚ) ^ (e + (Nat.log2 m : Int) + 1) = 2 ^ (Nat.log2 m + 1) * 2 ^ e := by
        rw [← zpow_natCast, ← zpow_add₀ (by norm_num)]; push_cast; congr 1; ring
      rw [this]
      exact mul_lt_mul_of_pos_right (by linarith) (by positivity)
    omega
  · rw [← Int.zpow_le_iff_le_log (by norm_num) hpos]
    have : ((2:ℕ):ℚ) ^ (e + (Nat.log2 m : Int)) = 2 ^ (Nat.log2 m) * 2 ^ e := by
      rw [← zpow_natCast, ← zpow_add₀ (by norm_num)]; push_cast; congr 1; ring
    rw [this]
    exact mul_le_mul_of_nonneg_right (by linarith) (by positivity)

/-- A rounded multiple's bounds. -/
theorem roundsAt_bounds (rm : Rm) (neg : Bool) (rho k : Nat) (a : ℚ) (q : Int) (h : RoundsAt rm neg rho a q ((k:ℚ) * 2 ^ q)) :
    ⌊a / (2:ℚ) ^ q⌋₊ ≤ k ∧ k ≤ ⌊a / (2:ℚ) ^ q⌋₊ + 1 := by
  obtain ⟨up, _, hy⟩ := h
  have hq : (2:ℚ) ^ q ≠ 0 := by positivity
  have := mul_right_cancel₀ hq hy
  have : k = ⌊a / (2:ℚ) ^ q⌋₊ + up.toNat := by exact_mod_cast this
  cases up <;> simp at this <;> omega

theorem round_spec (f : Fmt) (hf' : f ∈ fmts) (rm : Rm) (sat : Bool) (rho : Nat) (neg : Bool) (m : Nat) (e : Int) (hm : m ≠ 0) (δ : ℚ) (h0 : 0 ≤ δ) (h1 : δ < 1)
    (hδ : δ ≠ 0 → 33 + f.fbits ≤ Nat.log2 m) (v : ℚ) (hv0 : v ≠ 0) (habs : |v| = (m + δ : ℚ) * 2 ^ e) (hneg : decide (v < 0) = neg) (z : Bool) :
    Rounds f rm sat rho v z (f.round rm sat rho ⟨neg, m, e, decide (δ ≠ 0)⟩) := by
  have hm0 : (0:ℚ) < m := by exact_mod_cast Nat.pos_of_ne_zero hm
  have hpos : (0:ℚ) < (m + δ : ℚ) * 2 ^ e := by positivity
  unfold Rounds Fmt.round
  rw [if_neg hv0, if_neg hm]
  simp only [habs, hneg, log_mag m e hm δ h0 h1]
  set top : Int := e + (Nat.log2 m : Int) with htop
  have htopdef : (⟨neg, m, e, decide (δ ≠ 0)⟩ : Exact).top = top := rfl
  simp only [htopdef]
  set F := f.fbits with hF
  set q0 : Int := f.emin - (F : Int) with hq0
  have hqq : max (top - (F:Int)) q0 = max top f.emin - F := by omega
  rw [hqq]
  set q : Int := max top f.emin - F with hq
  obtain ⟨s1, s2⟩ := roundAt_spec rm rho neg m e q hm δ h0 h1 (fun h => by have := hδ h; omega)
  obtain ⟨u1, u2⟩ := roundAt_spec rm rho neg m e (top - F) hm δ h0 h1 (fun h => by have := hδ h; omega)
  generalize hk : roundAt rm rho ⟨neg, m, e, decide (δ ≠ 0)⟩ q = kr at *
  generalize hu : roundAt rm rho ⟨neg, m, e, decide (δ ≠ 0)⟩ (top - F) = ku at *
  obtain ⟨k, inx⟩ := kr
  obtain ⟨uk, uinx⟩ := ku
  simp only at s1 s2 u1 u2 ⊢
  refine ⟨(k:ℚ) * 2 ^ q, (uk:ℚ) * 2 ^ (top - F), s1, u1, ?_⟩
  -- bounds of |v|
  have hlo : (2:ℚ) ^ top ≤ (m + δ : ℚ) * 2 ^ e := by
    have := (Int.zpow_le_iff_le_log (b := 2) (by norm_num) hpos (x := top)).2 (log_mag m e hm δ h0 h1).ge
    exact_mod_cast this
  have hhi : (m + δ : ℚ) * 2 ^ e < (2:ℚ) ^ (top + 1) := by
    have := (Int.lt_zpow_iff_log_lt (b := 2) (by norm_num) hpos (x := top + 1)).2 (by rw [log_mag m e hm δ h0 h1]; omega)
    exact_mod_cast this
  have floor_hi : ∀ Q : Int, top - F ≤ Q → ⌊(m + δ : ℚ) * 2 ^ e / (2:ℚ) ^ Q⌋₊ < 2 ^ (F + 1) := by
    intro Q hQ
    rw [Nat.floor_lt (by positivity)]
    rw [div_lt_iff₀ (by positivity)]
    refine lt_of_lt_of_le hhi ?_
    have : ((2 ^ (F + 1) : Nat) : ℚ) * 2 ^ Q = (2:ℚ) ^ (Q + F + 1) := by
      push_cast; rw [← zpow_natCast, ← zpow_add₀ (by norm_num)]; congr 1; push_cast; ring
    rw [this]
    exact zpow_le_zpow_right₀ (by norm_num) (by omega)
  have floor_lo : 2 ^ F ≤ ⌊(m + δ : ℚ) * 2 ^ e / (2:ℚ) ^ (top - F)⌋₊ := by
    rw [Nat.le_floor_iff (by positivity), le_div_iff₀ (by positivity)]
    have : ((2 ^ F : Nat) : ℚ) * 2 ^ (top - F) = (2:ℚ) ^ top := by
      push_cast; rw [← zpow_natCast, ← zpow_add₀ (by norm_num)]; congr 1; push_cast; ring
    rw [this]; exact hlo
  obtain ⟨kb1, kb2⟩ := roundsAt_bounds _ _ _ _ _ _ s1
  obtain ⟨ub1, ub2⟩ := roundsAt_bounds _ _ _ _ _ _ u1
  have hqge : top - F ≤ q := by omega
  have hk_hi : k ≤ 2 ^ (F + 1) := by have := floor_hi q hqge; omega
  have huk_hi : uk ≤ 2 ^ (F + 1) := by have := floor_hi (top - F) le_rfl; omega
  have huk_lo : 2 ^ F ≤ uk := by omega
  have hj : (q - q0).toNat = 0 ∨ 2 ^ F ≤ k := by
    by_cases h : q = top - F
    · right; rw [h] at kb1; omega
    · left; omega
  have hval : codeVal F q0 ((q - q0).toNat * 2 ^ F + k) = (k:ℚ) * 2 ^ q := by
    rw [codeVal_mk F q0 _ k hk_hi hj]; congr 2; omega
  have hmax : f.maxVal = codeVal F q0 f.maxMag := (unpack_code f hf' f.maxMag le_rfl).1
  set mag := (q - q0).toNat * 2 ^ F + k with hmag
  have hcmp : (k:ℚ) * 2 ^ q > f.maxVal ↔ mag > f.maxMag := by
    rw [hmax, ← hval]; exact (codeVal_mono F q0).lt_iff_lt
  constructor
  · intro h
    rw [if_pos (hcmp.1 h)]
  · intro h
    have h' : ¬ mag > f.maxMag := fun hh => absurd (hcmp.2 hh) (not_lt.2 h)
    rw [if_neg h']
    refine ⟨mag, by omega, ?_, ?_⟩
    · rw [(unpack_code f hf' mag (by omega)).1]; exact hval
    · have ht : (decide (top < f.emin) && !(decide (top = f.emin - 1) && decide (uk ≥ 2 ^ (F + 1)))) = decide ((uk:ℚ) * 2 ^ (top - F) < (2:ℚ) ^ f.emin) := by
        have hz : (uk:ℚ) * 2 ^ (top - F) < (2:ℚ) ^ f.emin ↔ (uk : ℚ) < (2:ℚ) ^ (f.emin - (top - F)) := by
          rw [← lt_div_iff₀ (by positivity), ← zpow_sub₀ (by norm_num)]
        rw [Bool.eq_iff_iff]
        simp only [Bool.and_eq_true, Bool.not_eq_true', decide_eq_true_eq, Bool.and_eq_false_iff, decide_eq_false_iff_not]
        rw [hz]
        constructor
        · rintro ⟨h1, h2⟩
          have hle : ((uk : Nat) : ℚ) ≤ ((2 ^ (F+1) : Nat) : ℚ) := by exact_mod_cast huk_hi
          have hpw : ((2 ^ (F+1) : Nat) : ℚ) = (2:ℚ) ^ ((F:Int) + 1) := by push_cast; rw [← zpow_natCast]; congr 1
          rcases h2 with h2 | h2
          · have : (2:ℚ) ^ ((F:Int) + 1) < (2:ℚ) ^ (f.emin - (top - F)) := zpow_lt_zpow_right₀ (by norm_num) (by omega)
            linarith
          · have hlt : ((uk : Nat) : ℚ) < ((2 ^ (F+1) : Nat) : ℚ) := by exact_mod_cast (by omega : uk < 2 ^ (F+1))
            have : (2:ℚ) ^ ((F:Int) + 1) ≤ (2:ℚ) ^ (f.emin - (top - F)) := zpow_le_zpow_right₀ (by norm_num) (by omega)
            linarith
        · intro hlt
          have hlo2 : ((2 ^ F : Nat) : ℚ) ≤ ((uk : Nat) : ℚ) := by exact_mod_cast huk_lo
          have hpw : ((2 ^ F : Nat) : ℚ) = (2:ℚ) ^ (F:Int) := by push_cast; rw [zpow_natCast]
          have h1 : top < f.emin := by
            by_contra hge
            have : (2:ℚ) ^ (f.emin - (top - F)) ≤ (2:ℚ) ^ (F:Int) := zpow_le_zpow_right₀ (by norm_num) (by omega)
            linarith
          refine ⟨h1, ?_⟩
          by_cases h2 : top = f.emin - 1
          · right
            intro h3
            have h3' : ((2 ^ (F+1) : Nat) : ℚ) ≤ ((uk : Nat) : ℚ) := by exact_mod_cast h3
            have hpw : ((2 ^ (F+1) : Nat) : ℚ) = (2:ℚ) ^ ((F:Int) + 1) := by push_cast; rw [← zpow_natCast]; congr 1
            have : (f.emin - (top - F)) = (F:Int) + 1 := by omega
            rw [this] at hlt; linarith
          · left; exact h2
      simp only [s2, ht]

end Sys2Proof.Machine
end

