-- ==== Sys2Proof/Laws/Floats.lean ====
section
/-!
SUPPORT. Laws/Floats.lean: sums, products and fused products of floating-point values, their order, and the lanes of a float form.
-/
namespace Sys2Proof.Machine

theorem fmt_mem (t : ETy) : ETy.fmt t ∈ fmts := by cases t <;> simp [ETy.fmt, fmts]

theorem fmt_width (t : ETy) (h : t ∈ tyE) : (ETy.fmt t).width = t.width := by
  simp only [tyE, List.mem_cons, List.not_mem_nil, or_false] at h
  rcases h with rfl | rfl | rfl | rfl | rfl | rfl <;> rfl

theorem tyF_E (t : ETy) (h : t ∈ tyF) : t ∈ tyE := by
  simp only [tyF, tyE, List.mem_cons, List.not_mem_nil, or_false] at *; tauto

theorem code_lt (f : Fmt) (hf : f ∈ fmts) : f.maxMag < 2 ^ (f.width - 1) ∧ f.infMag < 2 ^ (f.width - 1) ∧ f.canonNan < 2 ^ f.width ∧ 0 < f.width := by
  simp only [fmts, List.mem_cons, List.not_mem_nil, or_false] at hf
  rcases hf with rfl | rfl | rfl | rfl | rfl | rfl <;> decide

theorem withSign_lt (f : Fmt) (hf : f ∈ fmts) (n : Bool) (c : Nat) (hc : c < 2 ^ (f.width - 1)) : f.withSign n c < 2 ^ f.width := by
  have h := (code_lt f hf).2.2.2
  have e : 2 ^ f.width = 2 * 2 ^ (f.width - 1) := by
    rw [← pow_succ']; congr 1; omega
  unfold Fmt.withSign
  cases n <;> simp <;> omega

theorem round_lt (f : Fmt) (hf : f ∈ fmts) (rm : Rm) (sat : Bool) (rho : Nat) (x : Exact) : (f.round rm sat rho x).1 < 2 ^ f.width := by
  obtain ⟨h1, h2, h3, h4⟩ := code_lt f hf
  unfold Fmt.round
  split
  · exact withSign_lt f hf _ _ (by positivity)
  · simp only
    split
    · unfold Fmt.overflow
      split
      · exact withSign_lt f hf _ _ h1
      · split
        · simp only; split
          · exact withSign_lt f hf _ _ h2
          · exact h3
        · exact withSign_lt f hf _ _ h1
    · exact withSign_lt f hf _ _ (by omega)

theorem infinite_lt (f : Fmt) (hf : f ∈ fmts) (sat neg : Bool) : (f.infinite sat neg).1 < 2 ^ f.width := by
  obtain ⟨h1, h2, h3, h4⟩ := code_lt f hf
  unfold Fmt.infinite
  split
  · exact withSign_lt f hf _ _ h1
  · split
    · exact withSign_lt f hf _ _ h2
    · exact h3

theorem finish_lt (f : Fmt) (hf : f ∈ fmts) (rm : Rm) (sat : Bool) (rho : Nat) (x : Res) : (f.finish rm sat rho x).1 < 2 ^ f.width := by
  cases x
  · exact (code_lt f hf).2.2.1
  · exact infinite_lt f hf _ _
  · exact round_lt f hf _ _ _ _

/-- An exact integer multiple rounds as its value does. -/
theorem round_int (f : Fmt) (hf : f ∈ fmts) (rm : Rm) (sat : Bool) (rho : Nat) (neg : Bool) (m : Nat) (e : Int) (v : ℚ)
    (hv : v = (FVal.fin neg m e).rat) (z : Bool) (hz : m = 0 → z = neg) : Rounds f rm sat rho v z (f.round rm sat rho ⟨neg, m, e, false⟩) := by
  by_cases hm : m = 0
  · subst hm; rw [hz rfl, hv]; unfold Rounds Fmt.round; simp [FVal.rat]
  have h := round_spec f hf rm sat rho neg m e hm 0 le_rfl (by norm_num) (by simp) v
    (by rw [hv]; simp only [FVal.rat]; cases neg <;> simp <;> exact ⟨hm, by positivity⟩)
    (by rw [hv]; simp only [FVal.rat]; cases neg <;> simp)
    (by
      rw [hv]; simp only [FVal.rat]; cases neg
      · simp; positivity
      · simp; positivity) z
  simpa using h

theorem minExp_none (vs : List FVal) (hf : vs.all FVal.isFin = true) : minExp vs = none ↔ vs.all FVal.isZero = true := by
  induction vs with
  | nil => simp [minExp]
  | cons v vs ih =>
    rw [List.all_cons, Bool.and_eq_true] at hf
    cases v with
    | nan s => simp [FVal.isFin] at hf
    | inf s => simp [FVal.isFin] at hf
    | fin n m e =>
      simp only [minExp, List.all_cons, FVal.isZero]
      by_cases hm : m = 0
      · simp [hm, ih hf.2]
      · simp only [hm, if_false, decide_false, Bool.false_and]
        cases minExp vs <;> simp

theorem minExp_le (vs : List FVal) (e0 : Int) (h : minExp vs = some e0) (n : Bool) (m : Nat) (e : Int) (hv : FVal.fin n m e ∈ vs) (hm : m ≠ 0) : e0 ≤ e := by
  induction vs generalizing e0 with
  | nil => simp at hv
  | cons v vs ih =>
    cases v with
    | nan s => simp only [minExp] at h; simp at hv; exact ih _ h hv
    | inf s => simp only [minExp] at h; simp at hv; exact ih _ h hv
    | fin n' m' e' =>
      simp only [minExp] at h
      by_cases hm' : m' = 0
      · simp only [hm', if_true] at h
        rcases List.mem_cons.1 hv with hv | hv
        · cases hv; exact absurd hm' hm
        · exact ih _ h hv
      · simp only [hm', if_false] at h
        rcases List.mem_cons.1 hv with hv | hv
        · cases hv
          cases hx : minExp vs with
          | none => rw [hx] at h; simp at h; omega
          | some y => rw [hx] at h; simp at h; omega
        · cases hx : minExp vs with
          | none =>
            rw [hx] at h
            exfalso
            -- some nonzero finite value is in vs
            clear ih h
            revert hx hv
            induction vs with
            | nil => simp
            | cons w ws ih2 =>
              intro hv hx
              cases w with
              | nan s => simp only [minExp] at hx; simp at hv; exact ih2 (by simp [hv]) hv hx
              | inf s => simp only [minExp] at hx; simp at hv; exact ih2 (by simp [hv]) hv hx
              | fin n2 m2 e2 =>
                simp only [minExp] at hx
                by_cases h2 : m2 = 0
                · simp only [h2, if_true] at hx
                  rcases List.mem_cons.1 hv with hv | hv
                  · cases hv; exact hm h2
                  · exact ih2 (by simp [hv]) hv hx
                · simp only [h2, if_false] at hx
                  split at hx <;> simp at hx
          | some y =>
            rw [hx] at h
            have := ih y hx hv
            simp at h; omega

theorem scaled_sum (e0 : Int) (vs : List FVal) (hf : vs.all FVal.isFin = true)
    (h : ∀ n m e, FVal.fin n m e ∈ vs → m ≠ 0 → e0 ≤ e) :
    (vs.map FVal.rat).sum = (((vs.map (FVal.scaled e0)).sum : Int) : ℚ) * 2 ^ e0 := by
  induction vs with
  | nil => simp
  | cons v vs ih =>
    rw [List.all_cons, Bool.and_eq_true] at hf
    rw [List.map_cons, List.sum_cons, List.map_cons, List.sum_cons, ih hf.2 (fun n m e hm => h n m e (by simp [hm]))]
    push_cast
    rw [add_mul]
    congr 1
    cases v with
    | nan s => simp [FVal.isFin] at hf
    | inf s => simp [FVal.isFin] at hf
    | fin n m e =>
      simp only [FVal.rat, FVal.scaled]
      by_cases hm : m = 0
      · subst hm; simp
      · have he := h n m e (by simp) hm
        have : (2:ℚ) ^ e = 2 ^ (e - e0).toNat * 2 ^ e0 := by
          rw [← zpow_natCast, ← zpow_add₀ (by norm_num)]; congr 1; omega
        rw [this]
        cases n <;> push_cast <;> ring

theorem foldl_add_sumI (l : List Int) (a : Int) : l.foldl (· + ·) a = a + l.sum := by
  induction l generalizing a with
  | nil => simp
  | cons x l ih => simp [ih]; ring

theorem sum_zero_of (vs : List FVal) (hf : vs.all FVal.isFin = true) (h : vs.all FVal.isZero = true) : (vs.map FVal.rat).sum = 0 := by
  induction vs with
  | nil => simp
  | cons v vs ih =>
    rw [List.all_cons, Bool.and_eq_true] at hf h
    rw [List.map_cons, List.sum_cons, ih hf.2 h.2]
    cases v with
    | nan s => simp [FVal.isFin] at hf
    | inf s => simp [FVal.isFin] at hf
    | fin n m e => simp [FVal.isZero] at h; simp [FVal.rat, h.1]

theorem finish_sum (f : Fmt) (hf : f ∈ fmts) (rm : Rm) (sat : Bool) (rho : Nat) (vs : List FVal) (hn : vs.any FVal.isNan = false) :
    SumResult f rm sat rho vs (f.finish rm sat rho (sumVals rm vs)) := by
  have hmem : ∀ n, .inf n ∈ vs ↔ .inf n ∈ vs.filter FVal.isInf := by
    intro n; simp [List.mem_filter, FVal.isInf]
  have hinf : ∀ v ∈ vs.filter FVal.isInf, v = .inf true ∨ v = .inf false := by
    intro v hv
    simp only [List.mem_filter] at hv
    cases v with
    | nan s => simp [FVal.isInf] at hv
    | inf s => cases s <;> simp
    | fin n m e => simp [FVal.isInf] at hv
  unfold sumVals
  rw [hn]
  simp only [Bool.false_eq_true, if_false]
  refine ⟨?_, ?_, ?_⟩
  · rintro ⟨h1, h2⟩
    rw [hmem] at h1 h2
    cases hl : vs.filter FVal.isInf with
    | nil => rw [hl] at h1; simp at h1
    | cons i t =>
      simp only
      have : ((i :: t).all (fun v => decide (v.neg? = i.neg?))) = false := by
        rw [← hl, Bool.eq_false_iff]
        intro hall
        rw [List.all_eq_true] at hall
        have a := hall _ h1
        have b := hall _ h2
        simp only [decide_eq_true_eq] at a b
        rw [← a] at b; simp [FVal.neg?] at b
      rw [this]
      simp [Fmt.finish, Flags.when]
  · intro n h1 h2
    rw [hmem] at h1 h2
    cases hl : vs.filter FVal.isInf with
    | nil => rw [hl] at h1; simp at h1
    | cons i t =>
      simp only
      rw [hl] at h1 h2 hinf
      have hall : ∀ v ∈ i :: t, v = .inf n := by
        intro v hv
        rcases hinf v hv with h | h <;> subst h <;> cases n <;> simp_all
      have hi := hall i (by simp)
      have : ((i :: t).all (fun v => decide (v.neg? = i.neg?))) = true := by
        rw [List.all_eq_true]; intro v hv; rw [hall v hv, hi]; simp
      rw [this, hi]; rfl
  · intro hfin
    have hnil : vs.filter FVal.isInf = [] := by
      rw [List.filter_eq_nil_iff]
      intro v hv
      rw [List.all_eq_true] at hfin
      have := hfin v hv
      cases v <;> simp_all [FVal.isFin, FVal.isInf]
    rw [hnil]
    simp only
    cases hme : minExp vs with
    | none =>
      have hz := (minExp_none vs hfin).1 hme
      simp only [Fmt.finish]
      refine round_int f hf _ _ _ _ 0 0 _ (by rw [sum_zero_of vs hfin hz]; simp [FVal.rat]) _ (fun _ => ?_)
      rw [hz]
      cases ha : vs.all FVal.neg? <;> cases hb : vs.any FVal.neg? <;> simp
    | some e0 =>
      have hz : vs.all FVal.isZero = false := by
        rw [Bool.eq_false_iff]; intro h; rw [(minExp_none vs hfin).2 h] at hme; simp at hme
      simp only [hz, Bool.false_and, Bool.false_eq_true, if_false]
      have hs := scaled_sum e0 vs hfin (fun n m e hv hm => minExp_le vs e0 hme n m e hv hm)
      have hfo : List.foldl (fun x1 x2 => x1 + x2) 0 (List.map (FVal.scaled e0) vs) = (vs.map (FVal.scaled e0)).sum := by
        rw [foldl_add_sumI]; simp
      rw [hfo]
      generalize (vs.map (FVal.scaled e0)).sum = S at *
      by_cases hS : S = 0
      · subst hS
        rw [if_pos rfl]
        exact round_int f hf _ _ _ _ 0 0 _ (by rw [hs]; simp [FVal.rat]) _ (fun _ => rfl)
      · rw [if_neg hS]
        refine round_int f hf _ _ _ _ S.natAbs e0 _ ?_ _ (fun h => by omega)
        rw [hs]
        simp only [FVal.rat]
        rcases lt_or_gt_of_ne hS with h | h
        · have : ((S.natAbs : Nat) : ℚ) = -((S : Int) : ℚ) := by
            have : ((S.natAbs : Nat) : Int) = -S := by omega
            rw [← Int.cast_natCast, this]; simp
          simp [h, this]
        · have h' : ¬ S < 0 := by omega
          have : ((S.natAbs : Nat) : ℚ) = ((S : Int) : ℚ) := by
            have : ((S.natAbs : Nat) : Int) = S := by omega
            rw [← Int.cast_natCast, this]
          simp [h', this]

theorem floatLanes_of {i : Instr} {f : FmtA} {x : Nat} {p : Nat → Nat → Nat → Nat → Nat × Flags → Prop}
    (g : RCtx → Word → Word → Word → Nat → Nat × Flags)
    (hi : ∀ s, exec i s = fireFlg f x s (fun c l r a => mapLanesF f.ty.lanes f.ty.width (g c l r a)))
    (hlt : ∀ c l r a j, (g c l r a j).1 < 2 ^ f.ty.width)
    (hp : ∀ (c : RCtx) l r a j, c.rm = f.rm → c.sat = f.sat → j < f.ty.lanes →
      p (c.srd.rho j) (laneOf f.ty.width l j) (laneOf f.ty.width r j) (laneOf f.ty.width a j) (g c l r a j)) :
    FloatLanes i f x p := by
  refine produces_flg hi (fun s c => ⟨fun j => g (s.rctx f c) (f.left c) (f.right c) c.aux j, fun j hj => ⟨?_, ?_⟩, ?_⟩)
  · rw [laneOf_mapLanesF _ _ _ _ hj (width_mul_lanes _).le, Nat.mod_eq_of_lt (hlt _ _ _ _ _)]
  · exact hp (s.rctx f c) _ _ _ j rfl rfl hj
  · simp [mapLanesF, List.map_map]; rfl

theorem nan_any2 (u v : FVal) : ([u, v].any FVal.isNan) = (u.isNan || v.isNan) := by simp

theorem isNan_negate (u : FVal) : u.negate.isNan = u.isNan := by cases u <;> rfl

theorem isSnan_negate (u : FVal) : u.negate.isSnan = u.isSnan := by cases u <;> rfl

theorem sum_or_nan (f : Fmt) (hf : f ∈ fmts) (rm : Rm) (sat : Bool) (rho : Nat) (u v : FVal) :
    if u.isNan || v.isNan then NanResult f [u, v] (f.finish rm sat rho (sumVals rm [u, v]))
    else SumResult f rm sat rho [u, v] (f.finish rm sat rho (sumVals rm [u, v])) := by
  split
  · rename_i h
    unfold sumVals NanResult
    rw [nan_any2, if_pos h]; rfl
  · rename_i h
    exact finish_sum f hf _ _ _ _ (by rw [nan_any2]; simpa using h)

theorem fin_mul (n n' : Bool) (m m' : Nat) (e e' : Int) :
    (FVal.fin (n ^^ n') (m * m') (e + e')).rat = (FVal.fin n m e).rat * (FVal.fin n' m' e').rat := by
  simp only [FVal.rat]
  rw [zpow_add₀ (by norm_num)]
  cases n <;> cases n' <;> push_cast <;> simp <;> ring

theorem mul_ok (F : Fmt) (hF : F ∈ fmts) (rm : Rm) (sat : Bool) (rho : Nat) (u v : FVal) :
    if u.isNan || v.isNan then NanResult F [u, v] (F.finish rm sat rho (mulRes u v))
    else if (u.isZero && v.isInf) || (u.isInf && v.isZero) then F.finish rm sat rho (mulRes u v) = (F.canonNan, Flags.NV)
    else if u.isInf || v.isInf then F.finish rm sat rho (mulRes u v) = F.infinite sat (u.neg? ^^ v.neg?)
    else Rounds F rm sat rho (u.rat * v.rat) (u.neg? ^^ v.neg?) (F.finish rm sat rho (mulRes u v)) := by
  unfold mulRes
  split
  · rename_i h; unfold NanResult; simp [Fmt.finish]
  · rename_i h
    cases u with
    | nan s => simp [FVal.isNan] at h
    | inf n =>
      cases v with
      | nan s => simp [FVal.isNan] at h
      | inf n' => simp [mulVals, FVal.isZero, FVal.isInf, FVal.neg?, FVal.res, Fmt.finish]
      | fin n' m' e' =>
        by_cases hm : m' = 0 <;> simp [mulVals, FVal.isZero, FVal.isInf, FVal.neg?, FVal.res, Fmt.finish, hm, Flags.when]
    | fin n m e =>
      cases v with
      | nan s => simp [FVal.isNan] at h
      | inf n' =>
        by_cases hm : m = 0 <;> simp [mulVals, FVal.isZero, FVal.isInf, FVal.neg?, FVal.res, Fmt.finish, hm, Flags.when]
      | fin n' m' e' =>
        simp only [mulVals, FVal.isZero, FVal.isInf, Bool.and_false, Bool.false_and, Bool.or_false, Bool.false_eq_true, if_false, FVal.res, Fmt.finish, FVal.neg?]
        exact round_int F hF _ _ _ _ _ _ _ (fin_mul ..).symm _ (fun _ => rfl)

theorem fma_ok (F : Fmt) (hF : F ∈ fmts) (rm : Rm) (sat : Bool) (rho : Nat) (u v w : FVal) :
    if u.isNan || v.isNan || w.isNan then NanResult F [u, v, w] (F.finish rm sat rho (fmaRes rm u v w))
    else if (u.isZero && v.isInf) || (u.isInf && v.isZero) then F.finish rm sat rho (fmaRes rm u v w) = (F.canonNan, Flags.NV)
    else if u.isInf || v.isInf then SumResult F rm sat rho [.inf (u.neg? ^^ v.neg?), w] (F.finish rm sat rho (fmaRes rm u v w))
    else if w.isInf then F.finish rm sat rho (fmaRes rm u v w) = F.infinite sat w.neg?
    else Rounds F rm sat rho (u.rat * v.rat + w.rat)
      (if (u.neg? ^^ v.neg?) = w.neg? then w.neg? else decide (rm = .rdn)) (F.finish rm sat rho (fmaRes rm u v w)) := by
  unfold fmaRes
  split
  · rename_i h; unfold NanResult; simp [Fmt.finish, Bool.or_assoc]
  · rename_i h
    simp only [Bool.or_eq_true, not_or, Bool.not_eq_true] at h
    obtain ⟨⟨hu, hv⟩, hw'⟩ := h
    have fs : ∀ p : FVal, p.isNan = false → SumResult F rm sat (rho) [p, w] (F.finish rm sat (rho) (sumVals rm [p, w])) :=
      fun p hp => finish_sum F hF _ _ _ _ (by simp [hp, hw'])
    cases u with
    | nan s => simp [FVal.isNan] at hu
    | inf n =>
      cases v with
      | nan s => simp [FVal.isNan] at hv
      | inf n' =>
        simp [mulVals, FVal.isZero, FVal.isInf, FVal.neg?]
        exact fs _ rfl
      | fin n' m' e' =>
        by_cases hm : m' = 0
        · simp [mulVals, FVal.isZero, FVal.isInf, FVal.neg?, Fmt.finish, hm, Flags.when]
        · simp [mulVals, FVal.isZero, FVal.isInf, FVal.neg?, hm]
          exact fs _ rfl
    | fin n m e =>
      cases v with
      | nan s => simp [FVal.isNan] at hv
      | inf n' =>
        by_cases hm : m = 0
        · simp [mulVals, FVal.isZero, FVal.isInf, FVal.neg?, Fmt.finish, hm, Flags.when]
        · simp [mulVals, FVal.isZero, FVal.isInf, FVal.neg?, hm]
          exact fs _ rfl
      | fin n' m' e' =>
        have h3 := fs (.fin (n ^^ n') (m * m') (e + e')) rfl
        simp only [mulVals, FVal.isZero, FVal.isInf, Bool.and_false, Bool.false_and, Bool.or_false, Bool.false_eq_true, if_false, FVal.neg?]
        cases w with
        | nan s => simp [FVal.isNan] at hw'
        | inf n'' =>
          simp only [if_true]
          exact h3.2.1 n'' (by simp) (by simp)
        | fin n'' m'' e'' =>
          simp only [Bool.false_eq_true, if_false]
          have h4 := h3.2.2 rfl
          simp only [List.map_cons, List.map_nil, List.sum_cons, List.sum_nil, add_zero, fin_mul] at h4
          unfold Rounds at h4 ⊢
          split
          · rename_i hz
            rw [if_pos hz] at h4
            rw [h4]
            congr 2
            simp [FVal.isZero, FVal.neg?]
            have hzz : (n ^^ n') = n'' → (m = 0 ∨ m' = 0) ∧ m'' = 0 := by
              intro hs
              rw [← fin_mul] at hz
              subst hs
              have hpos : (0:ℚ) < 2 ^ (e + e') := by positivity
              have hpos' : (0:ℚ) < 2 ^ e'' := by positivity
              have hsum : ((m * m' : Nat) : ℚ) * 2 ^ (e + e') + (m'' : ℚ) * 2 ^ e'' = 0 := by
                simp only [FVal.rat] at hz
                cases hx : (n ^^ n') <;> simp [hx] at hz ⊢ <;> linarith
              have g1 : ((m * m' : Nat) : ℚ) * 2 ^ (e + e') = 0 := by
                have : (0:ℚ) ≤ ((m * m' : Nat) : ℚ) * 2 ^ (e + e') := by positivity
                have : (0:ℚ) ≤ (m'' : ℚ) * 2 ^ e'' := by positivity
                linarith
              have g2 : (m'' : ℚ) * 2 ^ e'' = 0 := by linarith
              constructor
              · have := (mul_eq_zero.1 g1).resolve_right hpos.ne'
                have : m * m' = 0 := by exact_mod_cast this
                exact Nat.mul_eq_zero.1 this
              · have := (mul_eq_zero.1 g2).resolve_right hpos'.ne'
                exact_mod_cast this
            by_cases hs : (n ^^ n') = n''
            · obtain ⟨g1, g2⟩ := hzz hs
              rcases g1 with g1 | g1 <;> cases n <;> cases n' <;> cases n'' <;> simp_all
            · have : ∀ P Q : Prop, ¬ (( (n ^^ n') = true ∧ n'' = true) ∨ ((n ^^ n') = false ∧ n'' = false)) := by
                intro _ _ hh; rcases hh with ⟨a, b⟩ | ⟨a, b⟩ <;> exact hs (by rw [a, b])
              cases n <;> cases n' <;> cases n'' <;> simp_all
          · rename_i hz
            rw [if_neg hz] at h4; exact h4

theorem rat_scaled (e0 : Int) (n : Bool) (m : Nat) (e : Int) (h : m ≠ 0 → e0 ≤ e) :
    (FVal.fin n m e).rat = ((FVal.scaled e0 (.fin n m e) : Int) : ℚ) * 2 ^ e0 := by
  have := scaled_sum e0 [.fin n m e] rfl (by intro n' m' e' hm; simp at hm; obtain ⟨rfl, rfl, rfl⟩ := hm; exact h)
  simpa using this

theorem cmp_spec (u v : FVal) (hu : u.isNan = false) (hv : v.isNan = false) :
    (cmpVals u v < 0 ↔ u.ext < v.ext) ∧ (cmpVals u v = 0 ↔ u.ext = v.ext) := by
  cases u with
  | nan s => simp [FVal.isNan] at hu
  | inf a =>
    cases v with
    | nan s => simp [FVal.isNan] at hv
    | inf b => cases a <;> cases b <;> simp [cmpVals, FVal.ext]
    | fin n m e => cases a <;> simp [cmpVals, FVal.ext]
  | fin n m e =>
    cases v with
    | nan s => simp [FVal.isNan] at hv
    | inf b =>
      cases b
      · simp [cmpVals, FVal.ext]
        exact WithBot.coe_lt_coe.2 (WithTop.coe_lt_top _)
      · simp [cmpVals, FVal.ext]
    | fin n' m' e' =>
      have key : (cmpVals (.fin n m e) (.fin n' m' e') < 0 ↔ (FVal.fin n m e).rat < (FVal.fin n' m' e').rat) ∧
          (cmpVals (.fin n m e) (.fin n' m' e') = 0 ↔ (FVal.fin n m e).rat = (FVal.fin n' m' e').rat) := by
        simp only [cmpVals]
        cases hme : minExp [FVal.fin n m e, FVal.fin n' m' e'] with
        | none =>
          have hz := (minExp_none _ rfl).1 hme
          simp [FVal.isZero] at hz
          simp [hz, FVal.rat]
        | some e0 =>
          have h1 := rat_scaled e0 n m e (fun hm => minExp_le _ e0 hme n m e (by simp) hm)
          have h2 := rat_scaled e0 n' m' e' (fun hm => minExp_le _ e0 hme n' m' e' (by simp) hm)
          simp only
          rw [h1, h2]
          generalize FVal.scaled e0 (.fin n m e) = A
          generalize FVal.scaled e0 (.fin n' m' e') = B
          have hp : (0:ℚ) < 2 ^ e0 := by positivity
          rw [mul_lt_mul_iff_left₀ hp, mul_left_inj' hp.ne']
          rw [Int.sign_neg_iff, Int.sign_eq_zero_iff_zero]
          constructor
          · rw [Int.cast_lt]; omega
          · rw [Int.cast_inj]; omega
      simp only [FVal.ext]
      rw [WithBot.coe_lt_coe, WithTop.coe_lt_coe, WithBot.coe_inj, WithTop.coe_inj]
      exact key

theorem leTotal_spec (u v : FVal) (hu : u.isNan = false) (hv : v.isNan = false) :
    (u.below v → leTotal u v = true) ∧ (v.below u → leTotal u v = false) := by
  obtain ⟨h1, h2⟩ := cmp_spec u v hu hv
  unfold leTotal FVal.below
  simp only [Bool.or_eq_true, Bool.and_eq_true, decide_eq_true_eq, h1, h2]
  constructor
  · rintro (h | ⟨h, hn, hp⟩)
    · left; exact h
    · right; exact ⟨h, Or.inl hn⟩
  · intro h
    rw [Bool.eq_false_iff]
    simp only [ne_eq, Bool.or_eq_true, Bool.and_eq_true, decide_eq_true_eq, h1, h2, Bool.not_eq_true']
    rcases h with h | ⟨h, hn, hp⟩
    · rintro (h' | ⟨h', _⟩)
      · exact absurd h (not_lt.2 h'.le)
      · rw [h'] at h; exact lt_irrefl _ h
    · rintro (h' | ⟨h', h''⟩)
      · rw [h] at h'; exact lt_irrefl _ h'
      · rw [hn, hp] at h''; simp at h''

theorem minmax_lt (t : ETy) (ht : t ∈ tyE) (mx : Bool) (a b : Nat) (ha : a < 2 ^ t.width) (hb : b < 2 ^ t.width) :
    (minmaxLane (ETy.fmt t) mx a b).1 < 2 ^ t.width := by
  have hc := (code_lt _ (fmt_mem t)).2.2.1
  rw [fmt_width t ht] at hc
  unfold minmaxLane
  dsimp only
  split_ifs <;> first | exact hc | exact ha | exact hb

theorem and_pow (w u b : Nat) (hb : b < w) : (u % 2 ^ (w - 1)).testBit b = (decide (b ≠ w - 1) && u.testBit b) := by
  rw [Nat.testBit_mod_two_pow]
  by_cases h : b = w - 1
  · subst h; simp
  · have : b < w - 1 := by omega
    simp [h, this]

theorem flip_top (w u b : Nat) (hu : u < 2 ^ w) (hw : 0 < w) (hb : b < w) :
    ((u + 2 ^ (w - 1)) % 2 ^ w).testBit b = (decide (b = w - 1) ^^ u.testBit b) := by
  obtain ⟨n, rfl⟩ : ∃ n, w = n + 1 := ⟨w - 1, by omega⟩
  simp only [Nat.add_sub_cancel]
  have h2 : 2 ^ (n + 1) = 2 * 2 ^ n := by rw [pow_succ]; ring
  rw [h2] at hu
  rcases Nat.lt_or_ge u (2 ^ n) with h | h
  · have e1 : (u + 2 ^ n) % 2 ^ (n + 1) = 2 ^ n * 1 + u := by rw [h2, Nat.mod_eq_of_lt (by omega)]; ring
    rw [e1, Nat.testBit_two_pow_mul_add _ h]
    by_cases hb' : b = n
    · subst hb'; simp [Nat.testBit_lt_two_pow h]
    · have : b < n := by omega
      simp [this, hb']
  · have e1 : (u + 2 ^ n) % 2 ^ (n + 1) = u - 2 ^ n := by
      rw [Nat.mod_eq_sub_mod (by rw [h2]; omega), Nat.mod_eq_of_lt (by rw [h2]; omega)]; omega
    have e2 : u = 2 ^ n * 1 + (u - 2 ^ n) := by omega
    rw [e1]
    conv_rhs => rw [e2, Nat.testBit_two_pow_mul_add _ (by omega : u - 2 ^ n < 2 ^ n)]
    by_cases hb' : b = n
    · subst hb'; simp [Nat.testBit_lt_two_pow (by omega : u - 2 ^ b < 2 ^ b)]
    · have : b < n := by omega
      simp [this, hb']

theorem mask_lt (w : Nat) (c : Bool) : maskLane w c < 2 ^ w := by
  unfold maskLane; split
  · exact Nat.sub_lt (by positivity) (by norm_num)
  · positivity

end Sys2Proof.Machine
end

