-- ==== Sys2Proof/Laws/Forms.lean ====
section
/-!
SUPPORT. Laws/Forms.lean: every Format M and E form fires through `fireChain`.
-/
namespace Sys2Proof.Machine

/-- A Format M form sends its operation, with the effective address of R329. -/
theorem exec_formM (i : Instr) (d : DescM) (h : i.desc = .m d) (s : State) : exec i s = fireM i d.m s := by
  cases i <;> unfold Instr.desc at h <;> cases h
  case ld => rw [exec_ld, execLd]; rfl
  case ldAcq => rw [exec_ldAcq, execLdAcq]; rfl
  case ldIo => rw [exec_ldIo, execLdIo]; rfl
  case ldnt => rw [exec_ldnt, execLdnt]; rfl
  case st => rw [exec_st, execSt]; rfl
  case stRel => rw [exec_stRel, execStRel]; rfl
  case stIo => rw [exec_stIo, execStIo]; rfl
  case ldc => rw [exec_ldc, execLdc]; rfl
  case stc => rw [exec_stc, execStc]; rfl
  case fillc => rw [exec_fillc, execFillc]; rfl
  case relc => rw [exec_relc, execRelc]; rfl
  case cntq => rw [exec_cntq, execCntq]; rfl
  case memnop => rw [exec_memnop, execMemnop]; rfl
  case atomAdd => rw [exec_atomAdd, execAtomAdd]; rfl
  case atomMin => rw [exec_atomMin, execAtomMin]; rfl
  case atomMax => rw [exec_atomMax, execAtomMax]; rfl
  case atomAnd => rw [exec_atomAnd, execAtomAnd]; rfl
  case atomOr => rw [exec_atomOr, execAtomOr]; rfl
  case atomXor => rw [exec_atomXor, execAtomXor]; rfl
  case atomXchg => rw [exec_atomXchg, execAtomXchg]; rfl
  case atomCas => rw [exec_atomCas, execAtomCas]; rfl
  case atomInc => rw [exec_atomInc, execAtomInc]; rfl
  case atomFadd => rw [exec_atomFadd, execAtomFadd]; rfl
  case fence => rw [exec_fence, execFence]; rfl
  case pref => rw [exec_pref, execPref]; rfl
  case flush => rw [exec_flush, execFlush]; rfl
  case waitl => rw [exec_waitl, execWaitl]; rfl
  case barinit => rw [exec_barinit, execBarinit]; rfl
  case bararr => rw [exec_bararr, execBararr]; rfl
  case barwait => rw [exec_barwait, execBarwait]; rfl

/-- A Format E form sends its operation, with its left operand as address. -/
theorem exec_formE (i : Instr) (d : DescE) (h : i.desc = .e d) (s : State) : ∃ e, e.pmode = d.e.pmode ∧ exec i s = fireE i e s := by
  cases i <;> unfold Instr.desc at h <;> cases h
  case tLd e => exact ⟨e, rfl, by rw [exec_tLd, execTLd]⟩
  case tSt e => exact ⟨e, rfl, by rw [exec_tSt, execTSt]⟩
  case tRel e => exact ⟨e, rfl, by rw [exec_tRel, execTRel]⟩
  case tZero e => exact ⟨e, rfl, by rw [exec_tZero, execTZero]⟩
  case tStat e => exact ⟨e, rfl, by rw [exec_tStat, execTStat]⟩
  case tTr e => exact ⟨e, rfl, by rw [exec_tTr, execTTr]⟩
  case mmTern e => exact ⟨e, rfl, by rw [exec_mmTern, execMmTern]⟩
  case mmMx4 e => exact ⟨e, rfl, by rw [exec_mmMx4, execMmMx4]⟩
  case mmD e => exact ⟨e, rfl, by rw [exec_mmD, execMmD]⟩
  case drain e => exact ⟨e, rfl, by rw [exec_drain, execDrain]⟩
  case drainM e => exact ⟨e, rfl, by rw [exec_drainM, execDrainM]⟩
  case copy e => exact ⟨e, rfl, by rw [exec_copy, execCopy]⟩
  case gath e => exact ⟨e, rfl, by rw [exec_gath, execGath]⟩
  case nmcAxpy e => exact ⟨e, rfl, by rw [exec_nmcAxpy, execNmcAxpy]⟩
  case nmcSgd e => exact ⟨e, rfl, by rw [exec_nmcSgd, execNmcSgd]⟩
  case nmcScal e => exact ⟨e, rfl, by rw [exec_nmcScal, execNmcScal]⟩
  case nmcFill e => exact ⟨e, rfl, by rw [exec_nmcFill, execNmcFill]⟩
  case nmcSum e => exact ⟨e, rfl, by rw [exec_nmcSum, execNmcSum]⟩
  case nmcFadd e => exact ⟨e, rfl, by rw [exec_nmcFadd, execNmcFadd]⟩
  case collAllredSum e => exact ⟨e, rfl, by rw [exec_collAllredSum, execCollAllredSum]⟩
  case collAllredMax e => exact ⟨e, rfl, by rw [exec_collAllredMax, execCollAllredMax]⟩
  case collAllgat e => exact ⟨e, rfl, by rw [exec_collAllgat, execCollAllgat]⟩
  case collRedsc e => exact ⟨e, rfl, by rw [exec_collRedsc, execCollRedsc]⟩
  case collBcast e => exact ⟨e, rfl, by rw [exec_collBcast, execCollBcast]⟩
  case collGbar e => exact ⟨e, rfl, by rw [exec_collGbar, execCollGbar]⟩
  case rwr e => exact ⟨e, rfl, by rw [exec_rwr, execRwr]⟩
  case rrd e => exact ⟨e, rfl, by rw [exec_rrd, execRrd]⟩
  case brk e => exact ⟨e, rfl, by rw [exec_brk, execBrk]⟩
  case swrEvsel e => exact ⟨e, rfl, by rw [exec_swrEvsel, execSwrEvsel]⟩
  case swrEvc e => exact ⟨e, rfl, by rw [exec_swrEvc, execSwrEvc]⟩
  case swrBeat e => exact ⟨e, rfl, by rw [exec_swrBeat, execSwrBeat]⟩
  case swrQerr e => exact ⟨e, rfl, by rw [exec_swrQerr, execSwrQerr]⟩
  case swrQcons e => exact ⟨e, rfl, by rw [exec_swrQcons, execSwrQcons]⟩
  case launch e => exact ⟨e, rfl, by rw [exec_launch, execLaunch]⟩
  case launchDisp e => exact ⟨e, rfl, by rw [exec_launchDisp, execLaunchDisp]⟩
  case launchRecfg e => exact ⟨e, rfl, by rw [exec_launchRecfg, execLaunchRecfg]⟩

end Sys2Proof.Machine
end

