-- ==== Sys2Proof/Laws/Ints.lean ====
section
/-!
SUPPORT. Laws/Ints.lean: integer lanes: ranges, clamping, shifts, counts, bit gathering and scattering, and what a form made of them does.
-/
namespace Sys2Proof.Machine

theorem laneVal_range (t : ETy) (x : Word) (i : Nat) :
    intMin t.signed t.width ≤ laneVal t x i ∧ laneVal t x i ≤ intMax t.signed t.width := by
  have hlt : laneOf t.width x i < 2 ^ t.width := Nat.mod_lt _ (by positivity)
  have hw := width_pos t
  obtain ⟨n, hn⟩ : ∃ n, t.width = n + 1 := ⟨t.width - 1, by omega⟩
  unfold laneVal intMin intMax
  rw [hn] at hlt ⊢
  simp only [Nat.add_sub_cancel]
  generalize laneOf (n+1) x i = u at *
  rw [pow_succ] at hlt
  have h2 : (2:Int)^(n+1) = 2^n * 2 := pow_succ _ _
  have h3 : ((2^n : Nat) : Int) = (2:Int)^n := by push_cast; rfl
  cases t.signed <;> simp <;> [skip; split] <;> omega

theorem clampLane_fst (sg : Bool) (w : Nat) (sat : Bool) (e : Int) :
    (((clampLane sg w sat e).1 % 2 ^ w : Nat) : Int) =
      (if sat then (if e > intMax sg w then intMax sg w else if e < intMin sg w then intMin sg w else e) else e) % 2 ^ w := by
  unfold clampLane
  cases sat
  · simpa using wrapInt_mod w e
  · simp only [Bool.true_and, decide_eq_true_eq, if_true]
    by_cases h1 : e > intMax sg w
    · simp only [h1, if_true]; exact wrapInt_mod _ _
    · by_cases h2 : e < intMin sg w
      · simp only [h1, h2, if_true, if_false]; exact wrapInt_mod _ _
      · simp only [h1, h2, if_false]; exact wrapInt_mod _ _

theorem clampLane_snd (sg : Bool) (w : Nat) (sat : Bool) (e : Int) :
    (clampLane sg w sat e).2 = Flags.when (sat && decide (e > intMax sg w ∨ e < intMin sg w)) Flags.SAT := by
  unfold clampLane
  cases sat
  · simp [Flags.when]
  · by_cases h1 : e > intMax sg w
    · simp [h1, Flags.when]
    · by_cases h2 : e < intMin sg w
      · simp [h1, h2, Flags.when]
      · simp [h1, h2, Flags.when]

theorem satLanes_of {i : Instr} {f : FmtA} (n w : Nat) (g : Word → Word → Nat → Int) (hw : w * n ≤ 64)
    (hi : ∀ s, exec i s = fireFlg f 0 s (fun c l r _ => mapLanesF n w (fun j => clampLane f.ty.signed w c.sat (g l r j)))) :
    SatLanes i f n w g := by
  refine produces_flg hi ?_
  intro s c
  refine ⟨?_, ?_⟩
  · intro j hj
    rw [laneOf_mapLanesF n w _ j hj hw, clampLane_fst]; rfl
  · simp only [mapLanesF, State.rctx, List.map_map]
    have h : (Prod.snd ∘ fun j => clampLane f.ty.signed w f.sat (g (f.left c) (f.right c) j)) =
        (fun b => Flags.when b Flags.SAT) ∘ (fun j => f.sat && decide (g (f.left c) (f.right c) j > intMax f.ty.signed w ∨ g (f.left c) (f.right c) j < intMin f.ty.signed w)) :=
      funext fun j => clampLane_snd _ _ _ _
    rw [h, ← List.map_map, Flags.all_when]
    unfold Flags.when
    congr 1
    simp [List.any_map]
    constructor
    · rintro ⟨j, hj, hs, h⟩; exact ⟨hs, j, hj, h⟩
    · rintro ⟨hs, j, hj, h⟩; exact ⟨j, hj, hs, h⟩

theorem laneInts_of {i : Instr} {f : FmtA} {x : Nat} (g : Word → Word → Word → Nat → Int)
    (hi : ∀ s, exec i s = fireVal f x s (fun l r a => mapInts f.ty (g l r a))) : LaneInts i f x g :=
  produces_val hi (fun _ _ => ⟨rfl, fun j hj => laneOf_mapInts _ _ _ hj⟩)

theorem mul_range (sg : Bool) (n : Nat) (a b : Int) (ha : intMin sg (n+1) ≤ a ∧ a ≤ intMax sg (n+1)) (hb : intMin sg (n+1) ≤ b ∧ b ≤ intMax sg (n+1)) :
    intMin sg (2 * (n+1)) ≤ a * b ∧ a * b ≤ intMax sg (2 * (n+1)) := by
  have hp : (0:Int) < 2^n := by positivity
  have e1 : (2:Int)^(2*(n+1)-1) = 2 * (2^n * 2^n) := by
    rw [show 2*(n+1)-1 = 1 + (n + n) by omega, pow_add, pow_add]; norm_num
  have e2 : (2:Int)^(2*(n+1)) = 4 * (2^n * 2^n) := by
    rw [show 2*(n+1) = 2 + (n + n) by omega, pow_add, pow_add]; norm_num
  have e3 : (2:Int)^(n+1) = 2 * 2^n := by rw [pow_succ]; ring
  unfold intMin intMax at *
  simp only [Nat.add_sub_cancel] at *
  cases sg
  · simp at *; rw [e3] at *; rw [e2]
    obtain ⟨ha1, ha2⟩ := ha; obtain ⟨hb1, hb2⟩ := hb
    constructor
    · positivity
    · nlinarith [mul_le_mul (by omega : a ≤ 2*2^n-1) (by omega : b ≤ 2*2^n-1) hb1 (by omega : (0:Int) ≤ 2*2^n-1)]
  · simp at *; rw [e1]
    obtain ⟨ha1, ha2⟩ := ha; obtain ⟨hb1, hb2⟩ := hb
    generalize (2:Int)^n = q at *
    constructor <;> nlinarith [mul_nonneg (by omega : (0:Int) ≤ a + q) (by omega : (0:Int) ≤ b + q), mul_nonneg (by omega : (0:Int) ≤ q - a) (by omega : (0:Int) ≤ q - b), mul_nonneg (by omega : (0:Int) ≤ a + q) (by omega : (0:Int) ≤ q - b), mul_nonneg (by omega : (0:Int) ≤ q - a) (by omega : (0:Int) ≤ b + q)]

theorem foldl_add_sum (l : List Nat) (a : Nat) : l.foldl (· + ·) a = a + l.sum := by
  induction l generalizing a with
  | nil => simp
  | cons x l ih => simp [ih]; omega

theorem sum_le_mul (l : List Nat) (g : Nat → Nat) (b : Nat) (h : ∀ j, g j ≤ b) : (l.map g).sum ≤ l.length * b := by
  induction l with
  | nil => simp
  | cons x l ih => simp; have := h x; nlinarith

theorem laneOf_lt (w : Nat) (x : Word) (i : Nat) : laneOf w x i < 2 ^ w := Nat.mod_lt _ (by positivity)

theorem laneNats_of {i : Instr} {f : FmtA} {x n w : Nat} (hw : w * n ≤ 64) (g h : Word → Word → Word → Nat → Nat)
    (hi : ∀ s, exec i s = fireVal f x s (fun l r a => mapLanes n w (h l r a)))
    (hg : ∀ L R A, ∀ j < n, h L R A j % 2 ^ w = g L R A j) : LaneNats i f x n w g :=
  produces_val hi (fun s c => ⟨rfl, fun j hj => by rw [laneOf_mapLanes _ _ _ _ hj hw, hg _ _ _ j hj]⟩)

theorem sarLane_eq (w u k : Nat) (hw : 0 < w) (h : u < 2 ^ w) :
    ((sarLane w u k % 2 ^ w : Nat) : Int) = (BitVec.ofNat w u).toInt.fdiv (2 ^ min k (w - 1)) % 2 ^ w := by
  unfold sarLane
  rw [wrapInt_mod]
  congr 2
  rw [BitVec.toInt_eq_toNat_cond, BitVec.toNat_ofNat, Nat.mod_eq_of_lt h]
  obtain ⟨n, rfl⟩ : ∃ n, w = n + 1 := ⟨w - 1, by omega⟩
  simp only [Nat.add_sub_cancel]
  have h2 : (2:Nat)^(n+1) = 2^n * 2 := pow_succ _ _
  have h3 : (2:Int)^(n+1) = 2^n * 2 := pow_succ _ _
  have h4 : ((2^n : Nat) : Int) = (2:Int)^n := by push_cast; rfl
  push_cast
  split_ifs <;> omega

theorem rotLane_eq (w u k : Nat) (hw : 0 < w) (h : u < 2 ^ w) :
    rotLane w u k % 2 ^ w = ((BitVec.ofNat w u).rotateLeft k).toNat := by
  unfold rotLane
  rw [BitVec.toNat_rotateLeft]
  have hk : k % w < w := Nat.mod_lt _ hw
  rw [BitVec.toNat_ofNat, Nat.mod_eq_of_lt h, Nat.mod_mod]
  generalize k % w = r at *
  rw [Nat.shiftLeft_eq, Nat.shiftRight_eq_div_pow]
  have hd : u / 2 ^ (w - r) < 2 ^ r := by
    rw [Nat.div_lt_iff_lt_mul (by positivity), ← Nat.pow_add]
    rwa [show r + (w - r) = w by omega]
  have hm : u * 2 ^ r % 2 ^ w = (u % 2 ^ (w - r)) * 2 ^ r := by
    have : 2 ^ w = 2 ^ (w - r) * 2 ^ r := by rw [← Nat.pow_add]; congr 1; omega
    rw [this, Nat.mul_mod_mul_right]
  rw [Nat.add_mod, hm]
  have hlt : u % 2 ^ (w - r) * 2 ^ r + u / 2 ^ (w - r) < 2 ^ w := by
    have h1 : u % 2 ^ (w - r) < 2 ^ (w - r) := Nat.mod_lt _ (by positivity)
    have h2 : (u % 2 ^ (w - r) + 1) * 2 ^ r ≤ 2 ^ (w - r) * 2 ^ r := Nat.mul_le_mul_right _ h1
    rw [← Nat.pow_add, show w - r + r = w by omega] at h2
    rw [Nat.add_mul, Nat.one_mul] at h2
    omega
  have hdw : u / 2 ^ (w - r) % 2 ^ w = u / 2 ^ (w - r) := Nat.mod_eq_of_lt (by
    have : 2 ^ r ≤ 2 ^ w := Nat.pow_le_pow_right (by norm_num) hk.le
    omega)
  rw [hdw, Nat.add_comm, Nat.mod_eq_of_lt hlt]
  rw [← Nat.shiftLeft_eq, Nat.shiftLeft_add_eq_or_of_lt hd]

theorem clzNat_spec (w u : Nat) (hw : 0 < w) (h : u < 2 ^ w) :
    (u = 0 → clzNat w u = w) ∧ (u ≠ 0 → clzNat w u < w ∧ 2 ^ (w - 1 - clzNat w u) ≤ u ∧ u < 2 ^ (w - clzNat w u)) := by
  refine ⟨fun h0 => by simp [clzNat, h0], fun h0 => ?_⟩
  have hl : Nat.log2 u < w := (Nat.log2_lt h0).2 h
  simp only [clzNat, h0, if_false]
  refine ⟨by omega, ?_, ?_⟩
  · rw [show w - 1 - (w - 1 - Nat.log2 u) = Nat.log2 u by omega]; exact Nat.log2_self_le h0
  · rw [show w - (w - 1 - Nat.log2 u) = Nat.log2 u + 1 by omega]; exact Nat.lt_log2_self

theorem ctzNat_spec (w u : Nat) (h : u < 2 ^ w) :
    (u = 0 → ctzNat w u = w) ∧ (u ≠ 0 → u.testBit (ctzNat w u) = true ∧ ∀ b < ctzNat w u, u.testBit b = false) := by
  induction w generalizing u with
  | zero => simp [ctzNat]; omega
  | succ w ih =>
    obtain ⟨i1, i2⟩ := ih (u / 2) (by rw [pow_succ] at h; omega)
    simp only [ctzNat]
    split
    · rename_i hp
      refine ⟨fun h0 => by omega, fun _ => ⟨by simp [Nat.testBit_zero, hp], fun b hb => by omega⟩⟩
    · rename_i hp
      refine ⟨fun h0 => by rw [i1 (by omega)]; omega, fun h0 => ?_⟩
      obtain ⟨j1, j2⟩ := i2 (by omega)
      rw [Nat.add_comm 1, Nat.testBit_succ]
      refine ⟨j1, fun b hb => ?_⟩
      cases b with
      | zero => simp [Nat.testBit_zero]; omega
      | succ b => rw [Nat.testBit_succ]; exact j2 b (by omega)

theorem ctzNat_le (w u : Nat) : ctzNat w u ≤ w := by
  induction w generalizing u with
  | zero => simp [ctzNat]
  | succ w ih => simp only [ctzNat]; split <;> [omega; have := ih (u/2)] ; omega

theorem rank_succ (p : Nat → Bool) (b : Nat) :
    ((List.range (b + 1)).filter p).length = (p 0).toNat + ((List.range b).filter (fun i => p (i + 1))).length := by
  rw [List.range_succ_eq_map, List.filter_cons, List.filter_map]
  have : (p ∘ Nat.succ) = fun i => p (i + 1) := rfl
  rw [this]
  cases p 0 <;> simp <;> omega

theorem popNat_spec (w u : Nat) : popNat w u = ((List.range w).filter u.testBit).length := by
  induction w generalizing u with
  | zero => simp [popNat]
  | succ w ih =>
    rw [popNat, ih, rank_succ]
    have : (fun i => u.testBit (i + 1)) = (u / 2).testBit := funext fun i => Nat.testBit_succ ..
    rw [this, Nat.testBit_zero]
    rcases Nat.mod_two_eq_zero_or_one u with h | h <;> simp [h]

theorem popNat_le (w u : Nat) : popNat w u ≤ w := by
  induction w generalizing u with
  | zero => simp [popNat]
  | succ w ih => have := ih (u / 2); simp only [popNat]; omega

theorem revNat_lt (w u : Nat) : revNat w u < 2 ^ w := by
  induction w generalizing u with
  | zero => simp [revNat]
  | succ w ih =>
    have := ih (u / 2)
    have h : u % 2 ≤ 1 := by omega
    have : u % 2 * 2 ^ w ≤ 1 * 2 ^ w := Nat.mul_le_mul_right _ h
    rw [revNat, pow_succ]; omega

theorem revNat_spec (w u b : Nat) (hb : b < w) : (revNat w u).testBit (w - 1 - b) = u.testBit b := by
  induction w generalizing u b with
  | zero => omega
  | succ w ih =>
    rw [revNat, Nat.mul_comm, Nat.testBit_two_pow_mul_add _ (revNat_lt w _)]
    cases b with
    | zero => simp [Nat.testBit_zero]
    | succ b =>
      rw [if_pos (by omega), Nat.testBit_succ, ← ih (u / 2) b (by omega)]
      congr 1; omega

theorem count_mod (t : ETy) (k : Nat) (h : k ≤ t.width) : k % 2 ^ t.width = k :=
  Nat.mod_eq_of_lt (lt_of_le_of_lt h Nat.lt_two_pow_self)

def rankN (p : Nat → Bool) (b : Nat) : Nat := ((List.range b).filter p).length

theorem gather_bits (n l m : Nat) :
    (∀ b < n, m.testBit b = true → (gatherBits n l m).testBit (rankN m.testBit b) = l.testBit b) ∧
    (∀ k, rankN m.testBit n ≤ k → (gatherBits n l m).testBit k = false) := by
  induction n generalizing l m with
  | zero => simp [gatherBits]
  | succ n ih =>
    obtain ⟨i1, i2⟩ := ih (l / 2) (m / 2)
    have hs : ∀ b, rankN m.testBit (b + 1) = m % 2 + rankN (m / 2).testBit b := by
      intro b
      have : (fun i => m.testBit (i + 1)) = (m / 2).testBit := funext fun i => Nat.testBit_succ ..
      unfold rankN
      rw [rank_succ, this, Nat.testBit_zero]
      rcases Nat.mod_two_eq_zero_or_one m with h | h <;> simp [h]
    have h2 : ∀ k, (l % 2 + 2 * gatherBits n (l / 2) (m / 2)).testBit (k + 1) = (gatherBits n (l / 2) (m / 2)).testBit k := by
      intro k; rw [Nat.testBit_succ]; congr 1; omega
    simp only [gatherBits]
    split
    · rename_i h
      refine ⟨fun b hb hm => ?_, fun k hk => ?_⟩
      · cases b with
        | zero => simp [rankN, Nat.testBit_zero]
        | succ b =>
          rw [hs, h, Nat.add_comm 1, h2, Nat.testBit_succ]
          exact i1 b (by omega) (by rw [← Nat.testBit_succ]; exact hm)
      · rw [hs, h] at hk
        obtain ⟨k, rfl⟩ : ∃ k', k = k' + 1 := ⟨k - 1, by omega⟩
        rw [h2]; exact i2 k (by omega)
    · rename_i h
      have h0 : m % 2 = 0 := by omega
      refine ⟨fun b hb hm => ?_, fun k hk => ?_⟩
      · cases b with
        | zero => simp [Nat.testBit_zero] at hm; omega
        | succ b =>
          rw [hs, h0, Nat.zero_add, Nat.testBit_succ]
          exact i1 b (by omega) (by rw [← Nat.testBit_succ]; exact hm)
      · rw [hs, h0, Nat.zero_add] at hk; exact i2 k hk

theorem gatherBits_lt (n l m : Nat) : gatherBits n l m < 2 ^ n := by
  induction n generalizing l m with
  | zero => simp [gatherBits]
  | succ n ih => have := ih (l/2) (m/2); simp only [gatherBits, pow_succ]; split <;> omega

theorem scatterBits_lt (n l m : Nat) : scatterBits n l m < 2 ^ n := by
  induction n generalizing l m with
  | zero => simp [scatterBits]
  | succ n ih => have h1 := ih (l/2) (m/2); have h2 := ih l (m/2); simp only [scatterBits, pow_succ]; split <;> omega

theorem scatter_bits (n l m b : Nat) (hb : b < n) :
    (scatterBits n l m).testBit b = (m.testBit b && l.testBit (rankN m.testBit b)) := by
  induction n generalizing l m b with
  | zero => omega
  | succ n ih =>
    have hs : ∀ b, rankN m.testBit (b + 1) = m % 2 + rankN (m / 2).testBit b := by
      intro b
      have : (fun i => m.testBit (i + 1)) = (m / 2).testBit := funext fun i => Nat.testBit_succ ..
      unfold rankN
      rw [rank_succ, this, Nat.testBit_zero]
      rcases Nat.mod_two_eq_zero_or_one m with h | h <;> simp [h]
    simp only [scatterBits]
    cases b with
    | zero => split <;> simp [rankN, Nat.testBit_zero, *]
    | succ b =>
      rw [hs, Nat.testBit_succ m]
      split
      · rename_i h
        rw [h, Nat.add_comm 1, Nat.testBit_succ l, Nat.testBit_succ]
        rw [← ih _ _ b (by omega)]; congr 1; omega
      · rename_i h
        rw [show m % 2 = 0 by omega, Nat.zero_add, Nat.testBit_succ, ← ih _ _ b (by omega)]
        congr 1; omega

theorem half_lanes (t : ETy) : 2 * t.width * (t.lanes / 2) ≤ 64 := by
  have := width_mul_lanes t; have : t.lanes/2*2 ≤ t.lanes := Nat.div_mul_le_self _ _; nlinarith

end Sys2Proof.Machine
end

