-- ==== Sys2Proof/Tests/Slice0.lean ====
section
/-!
SUPPORT. Tests/Slice0.lean: words written out from the spec's encodings, records that each check refuses, worked examples of the spec, and, for every
statement, states that meet its hypotheses, with the instruction's or event's step that then goes on.
-/
namespace Sys2Proof.Tests
open Sys2Proof Sys2Proof.Machine

-- One theorem after another: each kernel check in its own thread would take too much memory at once.
set_option Elab.async false

/-! ### Helpers -/

/-- A record from its slot word, destination words and extension word. -/
def rec' (slot : Nat) (ds ext : List Nat) : List Byte := leBytes 8 slot ++ (ds.map (leBytes 4)).flatten ++ (ext.map (leBytes 4)).flatten
/-- The destination word of `left` at fret 0, element 1, slot 3. -/
def dst : Dest := ⟨.left, 0, 1, 3, false⟩
def fa (ty : ETy) : FmtA := ⟨ty, false, .rne, [dst], .none, .none, 0, none⟩
def fm (acc : Acc) : FmtM := ⟨acc, .thread, [dst], .none, .edge, 0, .edge, 0, none⟩
def fe (t : TFmt) : FmtE := ⟨t, false, .rne, [dst], .none, .edge, 0, .edge, 4, 5, false, 0, 0, 0⟩
/-- Whether an instruction or event goes on in a state. -/
def goes (i : Instr) (s : State) : Bool := match exec i s with | .next _ => true | _ => false

/-- The package after auxiliary cold start, changed. -/
def bd (b : Board) (ns : Nat := 0) : State := { State.reset with board := b, clock := ⟨0, 0, ns⟩ }
/-- The package in phase 8 with its host link. -/
def upB : Board := { Board.reset with pwrEn := true, pwrGood := true, perst := false, phase := 8, hlink := true, portsSince := some 0 }
def good : Phy := { Phy.zero with chst := 1 }
/-- A machine in phase 8 whose channels 0 to 15 are trained, with task 1 running in placement 0 on fret 8. -/
def lab : State :=
  { State.reset with
    board := upB
    clock := ⟨1000, 1000, 1000⟩
    mem := { Mem.reset with phy := (List.range 16).map (fun k => (k, good)), tlb := [⟨0, 0, 2 ^ 30, 0, true⟩] }
    sched := ⟨[(1, loadTask false)], 1, 1, true⟩
    fab := { Fab.reset with placements := [(64, loadPlacement 8)], frets := [(8, loadFret false [] (.mov (fa .b64)))] } }
/-- The focus of a firing in that placement. -/
def fo (left right aux : Word) : Focus := ⟨1, 0, 0, 0, 8, 0, 0, 0, 0, false, left, right, aux⟩
def firing (left right aux : Word) : State := { lab with focus := some (fo left right aux) }
/-- A chain operation of thread 0, wave 0. -/
def op (i : Instr) (left right : Word := 0) (aux : Word := 0) (st : WState := .committed) : WobOp :=
  ⟨i, 1, 0, 0, 0, 0, 0, 0, 8, 0, left, right, aux, false, left.toNat, left.toNat, false, false, st, 0, [], 50, false, false, 1⟩
def withPl (s : State) (p : Placement) : State := { s with fab := { s.fab with placements := [(64, p)] } }
def withTask (s : State) (t : Task) : State := { s with sched := { s.sched with tasks := [(1, t)] } }
def withMem (s : State) (m : Mem) : State := { s with mem := m }
def withBoard (s : State) (b : Board) : State := { s with board := b }
def withFret (s : State) (f : Fret) : State := { s with fab := { s.fab with frets := [(8, f)] } }
def on (s : State) (n : Nat) : State := { s with subject := n }
def pl0 : Placement := loadPlacement 8
def th0 : Thread := ⟨0, 0, 0, 0, [], false, 1, 0⟩
def tk : Task := loadTask false
/-- A task whose header has other bytes at the offsets given. -/
def setH (l : List (Nat × Byte)) (t : Task) : Task := { t with hdr := l.foldl (fun h p => h.set p.1 p.2) t.hdr }
def fr0 : Fret := loadFret false [] (.mov (fa .b64))

/-! ### Decoding (R2, R254 to R261) -/

theorem test_dec_mov : decode (rec' 0x0500800000000000 [0x8C00, 0x8C00] []) = .ok (.mov ⟨.b64, false, .rne, [dst, dst], .none, .none, 0, none⟩, []) := by
  decide +kernel
theorem test_dec_add : decode (rec' 0x2040900000000001 [0x8C00, 0x8C00] []) = .ok (.add ⟨.s64, false, .rne, [dst, dst], .right, .none, 1, none⟩, []) := by
  decide +kernel
theorem test_dec_add_sat : decode (rec' 0x2018700064646464 [0x8C00] [0x64646464]) =
    .ok (.add ⟨.s8x8, true, .rne, [dst], .right, .none, 0x64646464, some 0x64646464⟩, []) := by decide +kernel
theorem test_dec_fma : decode (rec' 0x6392400000000000 [0x8C00] []) = .ok (.fma ⟨.f32x2, false, .rdn, [dst], .none, .none, 0, none⟩, []) := by decide +kernel
theorem test_dec_cvt : decode (rec' 0x7698409C00000000 [0x8C00] []) = .ok (.cvt .e4m3x8 1 true ⟨.f32x2, true, .rne, [dst], .none, .none, 0, none⟩, []) := by
  decide +kernel
theorem test_dec_ld : decode (rec' 0x902041F800100000 [0x8C00] []) = .ok (.ld ⟨.n32, .thread, [dst], .none, .edge, 0, .own 1, 0, none⟩, []) := by decide +kernel
theorem test_dec_st : decode (rec' 0x942000000FE00000 [] []) = .ok (.st ⟨.n32, .thread, [], .none, .own 0, 1, .edge, 0, none⟩, []) := by decide +kernel
theorem test_dec_cas : decode (rec' 0x9D30600C20500010 [0x8C00] [7]) = .ok (.atomCas ⟨.n64, .thread, [dst], .none, .own 3, 4, .own 5, 0x10, some 0⟩, []) := by
  decide +kernel
theorem test_dec_fence : decode (rec' 0x9E3A00081FE00000 [] []) = .ok (.fence .full ⟨.n8, .device, [], .none, .own 2, 3, .edge, 0, none⟩, []) := by decide +kernel
theorem test_dec_drain : decode (rec' 0xC920A00818404050 [0x8C00, 0x8C00] [0x08000015]) =
    .ok (.drain ⟨.bank0, false, 2, true, .g1⟩ ⟨.s8, false, .rne, [dst, dst], .none, .own 2, 3, .own 4, 4, 5, true, 8, 0, 0⟩, []) := by decide +kernel
theorem test_dec_word : decodeTableWord 64 0x0E00000000000000 = some (.endt ⟨.b64, false, .rne, [], .none, .none, 0, none⟩) := by decide +kernel
theorem test_dec_opcode : decode (rec' 0xFF00000000000000 [] []) = .error .badOpcode := by decide +kernel
theorem test_dec_short : decode (leBytes 8 0x2040900000000001) = .error .truncated := by decide +kernel

/-! ### Records that each check refuses -/

theorem bad_noRecord : Instr.auxColdStart.bad = some .noRecord := by decide
theorem bad_type : (Instr.mul (fa .f64)).bad = some .badType := by decide
theorem bad_typeM : (Instr.memnop { fm .n16 with dests := [] }).bad = some .badType := by decide
theorem bad_typeE : (Instr.mmTern false false (fe .s8)).bad = some .badType := by decide
theorem bad_mod : (Instr.min { fa .s8x8 with sat := true }).bad = some .badMod := by decide
theorem bad_modE : (Instr.tRel { fe .mx4 with sat := true }).bad = some .badMod := by decide
theorem bad_sub : (Instr.srd (.evsel 0) { fa .s8x8 with imm32 := 1 }).wf = false := by decide
theorem bad_imm : (Instr.add { fa .s8x8 with imm32 := 1 }).bad = some .badImm := by decide
theorem bad_port : (Instr.gate { fa .b64 with pmode := .onTrue, immSel := .left }).wf = false := by decide
theorem bad_portM : (Instr.stc { fm .n8 with pmode := .onTrue }).bad = some .badPort := by decide
theorem bad_scope : (Instr.ld { fm .n8 with scope := .device }).bad = some .badScope := by decide
theorem bad_subM : (Instr.atomXor { fm .n64 with offh := none }).wf = false := by decide
theorem bad_offset : (Instr.barinit { fm .n8 with off := 1 }).bad = some .badOffset := by decide
theorem bad_ndest : (Instr.endt (fa .b64)).bad = some .badNdest := by decide
theorem bad_ndest4 : (Instr.mov { fa .b64 with dests := [dst, dst, dst, dst] }).bad = some .badNdest := by decide
theorem bad_ndestM : (Instr.memnop (fm .n8)).bad = some .badNdest := by decide
theorem bad_ndestE : (Instr.tStat { fe .mx4 with dests := [dst, dst, dst, dst], tb := 0 }).bad = some .badNdest := by decide
theorem bad_dest : (Instr.mov { fa .b64 with dests := [⟨.left, 0, 0, 0, true⟩] }).bad = some .badDest := by decide
theorem bad_dest_sink : (Instr.mov { fa .b64 with dests := [⟨.sink, 1, 0, 0, false⟩] }).bad = some .badDest := by decide
theorem bad_destM : (Instr.ld { fm .n8 with dests := [⟨.left, 0, 0, 0, true⟩] }).bad = some .badDest := by decide
theorem bad_field : (Instr.tStat (fe .mx4)).bad = some .badField := by decide
theorem wf_add : (Instr.add (fa .s8x8)).wf = true := by decide
theorem wf_ld : (Instr.ld (fm .n8)).wf = true := by decide
theorem wf_tRel : (Instr.tRel { fe .mx4 with tb := 0 }).wf = true := by decide

/-! ### Worked examples of the spec -/

/-- The word of a firing's first token. -/
def sent (i : Instr) (l r a : Word) : Option Word :=
  match exec i (firing l r a) with
  | .next t => match (t.elem 8 0).outQ with
    | .tok x :: _ => some x.data
    | _ => none
  | _ => none
/-- The flags of a firing's placement. -/
def raised (i : Instr) (l r a : Word) : Option Flags :=
  match exec i (firing l r a) with
  | .next t => (t.placement? 1 0).map Placement.flags
  | _ => none

/-- After R290: a saturating packed add. -/
theorem test_add_sat : sent (.add { fa .s8x8 with sat := true }) 0x7F10C0009C01803C 0x6464646464646464 0 = some 0x7F7424640065E47F := by decide +kernel
theorem test_add_wrap : sent (.add (fa .s8x8)) 0x7F10C0009C01803C 0x6464646464646464 0 = some 0xE37424640065E4A0 := by decide +kernel
theorem test_add_sat_flag : raised (.add { fa .s8x8 with sat := true }) 0x7F10C0009C01803C 0x6464646464646464 0 = some Flags.SAT := by decide +kernel
theorem test_pack_sat : sent (.pack { fa .s16x4 with sat := true }) 0x0005FF8001008000 0x000000007FFF0002 0 = some 0x00007F0205807F80 := by decide +kernel
/-- After R309: one fused multiply-add; lane 0 is 2^-25 exactly, lane 1 overflows to M under RDN. -/
theorem test_fma : sent (.fma { fa .f32x2 with rm := .rdn }) 0x7180000040400000 0x4E8000003EAAAAAB 0x00000000BF800000 = some 0x7F7FFFFF33000000 := by
  decide +kernel
/-- After R320: narrowing with merge. -/
theorem test_cvt : sent (.cvt .e4m3x8 1 true { fa .f32x2 with sat := true }) 0x43FA00003F800000 0x1111111111111111 0 = some 0x111111117E381111 := by
  decide +kernel
/-- After R324: one block quantised. -/
theorem test_mxscale : sent (.mxscale (fa .f32x2)) 0x4170000041700000 0 0 = some 0x80 := by decide +kernel
theorem test_mxq : sent (.mxq 1 (fa .f32x2)) 0x3C23D70A41700000 0x80 0 = some 0x0700 := by decide +kernel
/-- After R326: pack and unpack. -/
theorem test_tpack : sent (.tpack 3 (fa .s8x8)) 0x09090900030100FF 0 0 = some 0x26000000 := by decide +kernel
theorem test_tunpk : sent (.tunpk 3 (fa .s8x8)) 0x26000000 0 0 = some 0x010100FF := by decide +kernel
/-- R217's table: -7 / 2, and the least value over -1. -/
theorem test_div : sent (.div (fa .s64)) (-7) 2 0 = some (-3) := by decide +kernel
theorem test_rem : sent (.rem (fa .s64)) (-7) 2 0 = some (-1) := by decide +kernel
theorem test_div_min : sent (.div (fa .s64)) 0x8000000000000000 (-1) 0 = some 0x8000000000000000 := by decide +kernel
theorem test_steer : sent (.steer (fa .b64)) 1 7 0 = some 7 := by decide +kernel
theorem test_steer_off : sent (.steer (fa .b64)) 2 7 0 = none := by decide +kernel
/-- A step runs the record that stands where it fetches. -/
theorem test_step_mov : (match step (State.reset.withFetchWord 64 0x0500000000000000) with | .next t => t.agenda.isEmpty | _ => false) = true := by
  decide +kernel


/-! ### States that meet the hypotheses of the firing statements -/

/-- A record latched in that placement, not squashed, which then goes on. -/
def fires (f : FmtA) (i : FmtA → Instr) (l r a : Word) : Bool :=
  decide ((firing l r a).focus = some (fo l r a)) && !f.pmode.squashes a && goes (i f) (firing l r a)

theorem wit_SaturatingArithmetic : [Instr.add, .sub, .neg, .abs].all (fun i => fires { fa .s8x8 with sat := true } i 0x80 0x7F 0) = true := by decide +kernel
theorem wit_CarryForms : [Instr.addc false, .addc true, .subb false, .subb true].all (fun i => fires (fa .b64) i (-1) 1 1) = true := by decide +kernel
theorem wit_MultiplyAndDivideForms :
    [Instr.mul, .mulh, .mad, .mulw false, .mulw true, .div, .rem].all (fun i => fires (fa .s8x8) i 0x8000000000000080 0xFF 3) = true := by decide +kernel
theorem wit_MinMaxAverage : [Instr.min, .max, .avg, .sad].all (fun i => fires (fa .n8x8) i (-1) 0 0) = true := by decide +kernel
theorem wit_LogicAndShiftForms :
    [Instr.and, .or, .xor, .andn, .not, .shl, .shr, .sar, .rot, .shrp].all (fun i => fires (fa .s64) i 5 64 63) = true := by decide +kernel
theorem wit_CountAndBitFieldForms : [Instr.clz, .ctz, .popc, .brev, .bext, .bdep].all (fun i => fires (fa .n64) i 0 (-1) 0) = true := by decide +kernel
theorem wit_LaneMoveAndPackForms :
    [Instr.perm, .mix false, .mix true, .bcast, .pack, .unpk false, .unpk true].all (fun i => fires (fa .s16x4) i 7 0x76543210 1) = true := by decide +kernel
theorem wit_CompareAndAddressForms :
    ([ICmp.eq, .ne, .lt, .le, .gt, .ge].map Instr.cmp ++ [Instr.btst, Instr.blend, Instr.lea 3]).all (fun i => fires (fa .s8x8) i (-1) 1 1) = true := by decide +kernel
theorem wit_SquashedFiring :
    (match (Instr.add { fa .s64 with pmode := .onTrue }).desc with | .a d => d.f.pmode.squashes (fo 1 2 0).aux | _ => false) = true ∧
    (firing 1 2 0).focus = some (fo 1 2 0) ∧ goes (.add { fa .s64 with pmode := .onTrue }) (firing 1 2 0) = true := by
  decide +kernel
theorem wit_SteerAndControlForms :
    [Instr.steer, .select, .mov, .const, .sink, .gate, .join false, .join true].all (fun i => fires (fa .b64) i 1 2 3) = true := by decide +kernel
theorem wit_RenumberingForms : [Instr.wadv, .wset, .send, .tagof].all (fun i => fires (fa .b64) i 1 0xFFFFFF 0) = true := by decide +kernel

/-- The placement, the thread and the task that the system forms ask for. -/
theorem wit_ThreadForms : lab.placement? 1 0 = some pl0 ∧ pl0.thread? 0 = some th0 ∧ lab.task? 1 = some tk ∧
    (tk.widths.drop (tk.widths.takeWhile (· ≠ 0)).length).sum = 0 ∧
    [Instr.idx, .spawn, .endt].all (fun i => fires (fa .b64) i 1 0 0) = true := by decide +kernel
def svcLab : State := withTask lab { tk with svc := true }
def trcTask : Task := setH [(31, 0x10)] tk
theorem wit_SystemReads_trc : trcTask.trc = true ∧ goes (.temit (fa .b64)) { withTask lab trcTask with focus := some (fo 0 0 0) } = true := by decide +kernel
theorem wit_SystemReads : lab.placement? 1 0 = some pl0 ∧ lab.task? 1 = some tk ∧ tk.trc = false ∧
    [Instr.chk, .time, .temit, .srd .time, .srd .task, .srd .place, .srd .home, .srd .fret, .srd .elem, .srd .cls, .srd .flags, .srd (.evsel 3),
      .srd (.evc 3)].all (fun i => fires (fa .b64) i 1 0 0) = true := by decide +kernel
theorem wit_SystemReads_service : svcLab.task? 1 = some { tk with svc := true } ∧
    [Instr.srd .beat, .srd .qerr, .srd .qcons].all (fun i => goes (i (fa .b64)) { svcLab with focus := some (fo 0 0 0) }) = true := by decide +kernel
theorem wit_FiringFaults : th0.faults = [] ∧ th0.stopped = false ∧ (fo 0 0 0).wave = th0.oldest ∧ tk.svc = false ∧ 243 ≤ laneOf 8 (-1) 7 ∧
    [Instr.trap, .chk, .srd .beat, .srd .qerr, .srd .qcons].all (fun i => fires (fa .b64) i 0 0 0) = true ∧ fires (fa .s8x8) (.tunpk 7) (-1) 0 0 = true := by
  decide +kernel
theorem wit_FiringFaults_younger : waveCommitted 1 th0.oldest = false ∧
    goes (.trap (fa .b64)) { lab with focus := some { fo 0 0 0 with wave := 1 } } = true := by decide +kernel
theorem wit_HeldFormsFire : (match (Instr.ld (fm .n32)).desc with | .m _ => true | _ => false) = true ∧
    (match (Instr.tRel (fe .s8)).desc with | .e _ => true | _ => false) = true ∧ (firing 0 0 0).focus = some (fo 0 0 0) ∧
    goes (.ld (fm .n32)) (firing 0x1000 0 0) = true ∧ goes (.ld { fm .n32 with offh := some (-1) }) (firing 0x1000 0 0) = true ∧
    goes (.tRel (fe .s8)) (firing 0 0 0) = true ∧ goes (.st { fm .n8 with pmode := .onTrue }) (firing 0 0 0) = true := by decide +kernel

theorem wit_FloatArithmetic : [ETy.f32x2, .bf16x4, .f16x4, .f64].all (fun t => decide (t ∈ tyF) &&
    [Instr.fadd, .fsub, .fmul, .fma].all (fun i => fires (fa t) i 0x7F800000 (-1) 0x3F803C00)) = true := by decide +kernel
theorem wit_FloatSelectAndCompare : [ETy.e4m3x8, .e5m2x8].all (fun t => decide (t ∈ tyE) &&
    ([Instr.fmin, .fmax, .fabs, .fneg, .fclass] ++ [FCmp.eq, .ne, .lt, .le, .gt, .ge, .un].map Instr.fcmp).all (fun i => fires (fa t) i 0x7F80 (-1) 0)) = true := by
  decide +kernel
theorem wit_FloatReductionAndScaleForms : ETy.bf16x4 ∈ tyE ∧ ETy.bf16x4 ∈ tyF ∧ ETy.bf16x4 ∈ [ETy.bf16x4, .f16x4, .e4m3x8, .e5m2x8] ∧
    [Instr.famax, .fsum, .fdot2, .fround, .fscl].all (fun i => fires (fa .bf16x4) i 0x3F80 0x4000 0x3F800000) = true := by decide +kernel
theorem wit_FloatDivideAndRootForms : [ETy.f32x2, .bf16x4].all (fun t => decide (t ∈ tyF) &&
    [Instr.fdiv, .fsqrt, .frcp, .frsq].all (fun i => fires (fa t) i 0x40404040 0 0)) = true := by decide +kernel
theorem wit_FloatFunctions : [ETy.f32x2, .f16x4].all (fun t => decide (t ∈ tyF) &&
    [Instr.fexp2, .flog2, .ftanh, .fsin, .fcos, .fsig].all (fun i => fires (fa t) i 0x40404040 0 0)) = true := by decide +kernel
theorem wit_ConvertForm : ETy.f32x2 ∈ tyI ++ tyE ∧ cvtLegal .f32x2 .e4m3x8 3 true true = true ∧ cvtLegal .e4m3x8 .f32x2 3 false false = true ∧
    fires { fa .f32x2 with sat := true } (.cvt .e4m3x8 3 true) 0x7F800000 0 0 = true ∧ fires (fa .e4m3x8) (.cvt .f32x2 3 false) (-1) 0 0 = true := by decide +kernel
theorem wit_QuantiseForms : (3 : BitVec 3).toNat < 16 / ETy.bf16x4.lanes ∧
    [Instr.mxscale, .mxq 3, .mxdq 3].all (fun i => fires (fa .bf16x4) i 0x3F80 0x80 0) = true := by decide +kernel
theorem wit_TernaryForms : laneOf 8 0xF2 0 ≤ 242 ∧ [Instr.tpack 7, .tunpk 0].all (fun i => fires (fa .s8x8) i 0xF2 0 0) = true := by decide +kernel
theorem wit_RoundingRule : fmtE4m3 ∈ [fmtF64, fmtF32, fmtBf16, fmtF16, fmtE5m2, fmtE4m3] := by decide
theorem wit_RoundTrip : (Instr.drain ⟨.bank0, false, 2, true, .g1⟩
    ⟨.s8, false, .rne, [dst, dst], .none, .own 2, 3, .own 4, 4, 5, true, 8, 0, 0⟩).wf = true := by decide

/-! ### States that meet the hypotheses of the package's events -/

/-- A line's record in the host-line cache. -/
def hl (st : HSt) : HlcLine := ⟨st, bytesLine [], .i⟩
def pwrB : Board := { Board.reset with pwrEn := true, phase := 1, phaseSince := 10 }
def okB (p : Nat) : Board := { Board.reset with pwrEn := true, pwrGood := true, phase := p, phaseSince := 10 }

theorem wit_ResetEvents_on : State.reset.board.aux = true ∧ State.reset.board.pwrEn = false ∧ State.reset.board.trip = false ∧
    goes .pwrEnAssert State.reset = true ∧ goes .auxColdStart State.reset = true := by decide +kernel
def hotB : Board := { Board.reset with trip := true, tripAt := some 5, phase := 15, fatal := true }
theorem wit_ResetEvents_held : hotB.aux = true ∧ hotB.pwrEn = false ∧ hotB.trip = true ∧ hotB.tripAt = some 5 ∧
    (bd hotB 60000000004).clock.ns < 5 + 60000000000 ∧ goes .pwrEnAssert (bd hotB 60000000004) = true := by decide +kernel
theorem wit_ResetEvents_off : upB.aux = true ∧ upB.pwrEn = true ∧ upB.pwrGood = true ∧ goes .pwrEnDeassert (bd upB) = true := by decide +kernel
theorem wit_ResetEvents_perst : upB.perst = false ∧ upB.pwrGood = true ∧ upB.fatal = false ∧
    goes .perstNAssert { bd upB with mem := { Mem.reset with hlc := [(4, hl .m)] } } = true ∧
    State.reset.board.perst = true ∧ goes .perstNDeassert State.reset = true := by decide +kernel
theorem wit_ResetEvents_trip : (16 < 17 ∧ 880 < 881) ∧ goes (.thermalTrip 16 881) (bd upB) = true := by decide +kernel
def cooled : Board := { hotB with resetHeld := true, pwrEn := true }
theorem wit_ResetEvents_cooled : cooled.resetHeld = true ∧ cooled.tripAt = some 5 ∧ cooled.hot = false ∧
    goes .cooldownExpiry (bd cooled 60000000005) = true := by decide +kernel

theorem wit_PowerUpEvents_boot : { pwrB with flash := some ⟨[1], [2], 0, false, [], []⟩ }.pwrGood = false ∧
    goes .hubSecurityBoot (bd { pwrB with flash := some ⟨[1], [2], 0, false, [], []⟩ } 150000010) = true := by decide +kernel
theorem wit_PowerUpEvents_bridge : (okB 2).phase = 2 ∧ 20000010 ≤ (okB 2).phaseSince + 20000000 ∧
    modulesOf 0 ≠ 0 ∧
    goes (.bridgeLinkTraining []) (bd (okB 2) 20000010) = true ∧ goes (.bridgeLinkTraining [(7, 0, 64), (7, 0, 2)]) (bd (okB 2) 20000010) = true := by decide +kernel
theorem wit_PowerUpEvents_frets : (okB 3).phase = 3 ∧ goes (.fretSelfTest [7]) (bd (okB 3) 30000010) = true ∧
    goes (.fretSelfTest [4095, 8]) (bd (okB 3) 30000010) = true := by decide +kernel
def phyBoard (l : List (Nat × Phy)) : State := { bd (okB 4) 250000010 with mem := { Mem.reset with phy := l } }
theorem wit_PowerUpEvents_training : (phyBoard []).mem.train = [] ∧ (phyBoard []).mem.trainLeft = [] ∧
    goes .hbmTrainingPhaseEnd (phyBoard [(0, good), (96, good), (192, good), (383, good)]) = true ∧ goes .hbmTrainingPhaseEnd (phyBoard [(0, good)]) = true := by
  decide +kernel
theorem wit_PowerUpEvents_start : (okB 7).phase = 7 ∧ goes .dispatcherStart (bd (okB 7) 10000010) = true := by decide +kernel
theorem wit_PowerUpEvents_timeouts : pwrB.pwrGood = false ∧ goes .phaseTimeout (bd pwrB 150000010) = true ∧ goes .phaseTimeout (bd (okB 2) 20000010) = true ∧
    goes .phaseTimeout (bd (okB 3) 30000010) = true ∧ goes .phaseTimeout (bd (okB 4) 250000010) = true ∧ goes .phaseTimeout (bd (okB 7) 10000010) = true := by
  decide +kernel
theorem wit_PowerUpEvents_watchdog : upB.phase = 8 ∧ upB.beatSince + 10000000 ≤ 10000000 ∧ goes .heartbeatWatchdog (bd upB 10000000) = true := by decide +kernel

theorem wit_PowerAndScrubEvents_step : upB.hot = false ∧ 3400 ≤ upB.plim.toNat ∧ upB.duty = 0 ∧ (2700 % 50 = 0 ∧ upB.clk ≤ 2700) ∧
    goes (.powerEvaluation 3400) (on (bd upB) 2700) = true := by decide +kernel
def slow (d : Nat) : Board := { upB with clk := 1200, duty := d }
theorem wit_PowerAndScrubEvents_duty : (slow 15).plim.toNat < 3401 ∧ (slow 15).clk = 1200 ∧ (slow 15).duty < 16 ∧
    goes (.powerEvaluation 3401) (on (bd (slow 15)) 1200) = true := by decide +kernel
theorem wit_PowerAndScrubEvents_ease : (slow 1).hot = false ∧ 3400 ≤ (slow 1).plim.toNat ∧ 0 < (slow 1).duty ∧ 1200 % 50 = 0 ∧
    goes (.powerEvaluation 3400) (on (bd (slow 1)) 1200) = true := by decide +kernel
theorem wit_PowerAndScrubEvents_lower : upB.plim.toNat < 3401 ∧ 2650 < upB.clk ∧ goes (.powerEvaluation 3401) (on (bd upB) 2650) = true ∧
    goes (.powerEvaluation 3401) (on (bd upB) 1200) = true := by decide +kernel
theorem wit_PowerAndScrubEvents_change : goes .clockChange (bd { upB with clkNext := some 1200 }) = true := by decide +kernel
theorem wit_PowerAndScrubEvents_sensor : goes (.thermalThreshold 0 880) (bd upB) = true ∧ goes (.thermalThreshold 5 761) (bd upB) = true ∧
    goes (.thermalThreshold 16 760) (bd upB) = true := by decide +kernel
theorem wit_PowerAndScrubEvents_scrub : lab.hbmBacked (128 * 31) = true ∧ goes (.patrolScrubVisit (channelOf (128 * 31)) 31) lab = true ∧
    goes (.patrolScrubVisit (channelOf (128 * 31)) 31) (withMem lab { lab.mem with flaws := [(31, 1)] }) = true ∧
    goes (.patrolScrubVisit (channelOf (128 * 31)) 31) (withMem lab { lab.mem with flaws := [(31, 2)] }) = true := by decide +kernel

def noLinkB : Board := { upB with phase := 7, hlink := false }
theorem wit_LinkEvents_host : noLinkB.modeSettled = false ∧ noLinkB.hostLoss = false ∧ 7 ≤ noLinkB.phase ∧
    goes (.hostLinkTrained 64 16 true) (bd noLinkB) = true ∧ goes (.hostLinkTrained 128 1 false) (bd noLinkB) = true := by decide +kernel
def brB (r : Nat) (t : Bool) : Board := { upB with bridges := [(7, ⟨true, r, t, []⟩)] }
theorem wit_LinkEvents_bridge : tget (brB 15 false).bridges 7 = some ⟨true, 15, false, []⟩ ∧
    goes (.bridgeFlitCrcFail 7 false) (bd (brB 16 true)) = true ∧ goes (.bridgeFlitCrcFail 7 false) (on (bd (brB 15 false)) 1) = true ∧
    goes (.bridgeFlitCrcFail 7 true) (on (bd (brB 16 false)) 1) = true ∧ goes (.bridgeFlitCrcFail 7 true) (on (bd (brB 16 true)) 1) = true := by decide +kernel
theorem wit_LinkEvents_port : (upB.port 23).up = false ∧ (upB.port 23).tried = false ∧ upB.portsSince = some 0 ∧ upB.portFrom 23 = some 0 ∧ upB.devId = 0xFFFFF ∧
    goes (.folgarPortTrained 23 .high4x100) (bd upB 500000000) = true ∧
    goes (.folgarPortTrained 23 .eight200) (bd { upB with devId := 0xBFFFF } 0) = true := by decide +kernel
theorem wit_LinkEvents_timeout : upB.portFrom 23 = some 0 ∧ goes .folgarTrainingTimeout (on (bd upB 500000000) 23) = true := by decide +kernel
def dataB : Board := { upB with devId := 5, ports := [(0, ⟨true, true, 3, 200, false, none, []⟩)] }
theorem wit_LinkEvents_flit : (dataB.port 0).up = true ∧ (dataB.port 0).data = true ∧ (List.replicate 256 (0 : Byte)).length = 256 ∧
    goes (.folgarFlitReceive 0 0 (List.replicate 256 0)) (bd dataB) = true := by decide +kernel
theorem wit_LinkEvents_ptp : [(0, 0), (19, -19), (-20, 1), (50, -50), (-51, 51)].all (fun n => decide ((n.2 : Int).natAbs ≤ (n.1 : Int).natAbs) && goes (.ptpSync ⟨n.1, n.2⟩) (bd { upB with ptpGood := 15 })) = true := by decide +kernel
theorem wit_LinkEvents_devId : goes (.deviceIdWrite 0xBFFFF) (bd upB) = true ∧ goes (.deviceIdWrite 1) (bd dataB) = true := by decide +kernel

theorem wit_EpurnEvents_reads : upB.aux = true ∧ [0x004, 0x008, 0x00C, 0x010, 0x014, 0x018, 0x060, 0x7FF].all (fun o => goes (.epurnReadCommand o) (bd upB)) = true := by
  decide +kernel
theorem wit_EpurnEvents_writes : [999, 1000, 3400, 3401].all (fun v => goes (.epPlimWrite v) (bd upB)) = true ∧ goes (.epResetWrite 0xA4) (bd upB) = true ∧
    goes (.epResetWrite 0xA5) State.reset = true ∧ (upB.pwrEn = true ∧ upB.trip = false) ∧ goes (.epResetWrite 0xFFFFFFA5) (bd upB) = true := by decide +kernel
theorem wit_EpurnEvents_others : goes .pldmPlatformMonitoring (bd upB) = true ∧ goes (.pldmFirmwareUpdate ⟨[1], [2], 0, false, [], []⟩) (bd upB) = true := by
  decide +kernel
def bootB : Board := { upB with svcDigests := [1], chstEnd := [1] }
theorem wit_EpurnEvents_spdm : (bootB.hlink = true ∧ bootB.hostLoss = false ∧ bootB.fatal = false ∧ bootB.phase = 8 ∧ ((bd bootB).hostFn 0).flr = none) ∧
    bootB.svcDigests ≠ [] ∧ bootB.chstEnd ≠ [] ∧ [true, false].all (fun b => [SpdmReq.certificate 0, .certificate 1, .measurement 0, .measurement 1,
      .measurement 2, .measurement 3, .measurement 4, .measurement 5, .challenge [7]].all (fun q => goes (.spdmRequest ⟨b, q⟩) (bd bootB))) = true := by
  decide +kernel

def phyS (p : Phy) (ph : Nat := 8) : State :=
  { bd (okB ph) 20 with mem := { Mem.reset with phy := [(383, p)] }, clock := ⟨2049, 0, 20⟩ }
theorem wit_TrainingWindow_probe : (0x100 : Word).getLsbD 8 = true ∧ (phyS Phy.zero).phy 383 = Phy.zero ∧ goes (.hphyProbeStart 383 0x100) (phyS Phy.zero) = true ∧
    goes (.hphyProbeStart 383 0x100) (phyS { Phy.zero with busy := true }) = true := by decide +kernel
theorem wit_TrainingWindow_done : 2049 ≤ 1 + 2048 ∧ goes (.hphyProbeComplete 383 5 3) (phyS { Phy.zero with busy := true, since := 1 }) = true := by decide +kernel
theorem wit_TrainingWindow_chst : [0x00000, 0x40000, 0x80000, 0xC0000].all (fun v => goes (.hphySetChst 383 v) (phyS Phy.zero)) = true ∧
    goes (.hphySetChst 383 0) (phyS good) = true ∧ goes (.hphySetChst 383 0x100) (phyS { good with chst := 2 }) = true := by decide +kernel
theorem wit_TrainingWindow_test : goes (.hphyPatternTestStart 383 0x10000000000) (phyS Phy.zero) = true ∧
    goes (.hphyPatternTestStart 383 0x1FF00000001) (phyS Phy.zero) = true ∧ goes (.hphyPatternTestStart 383 0x10000000000) (phyS { Phy.zero with testing := true }) = true ∧
    goes (.hphyPatternTestComplete 383 0 0) (phyS { Phy.zero with testing := true }) = true ∧
    goes (.hphyPatternTestComplete 383 1 1) (phyS { Phy.zero with testing := true }) = true := by decide +kernel

/-! ### States that meet the hypotheses of the host's events -/

/-- The lab with function 0's registers and queues. -/
def hostLab (regs : List (Nat × Word)) (qs : List (Nat × Queue)) : State :=
  { lab with host := { HostSide.reset with fns := [(0, { HostFn.zero with regs := regs, queues := qs })] } }
theorem wit_HostRegisterEvents_unserved : (withBoard lab { upB with fatal := true }).reach 0 = .unsupported ∧
    goes (.registerWrite ⟨0, 0⟩ 0 8 0) (withBoard lab { upB with fatal := true }) = true := by decide +kernel
theorem wit_HostRegisterEvents_writes : lab.reach 0 = .served ∧ bar0Backed 0 0x1000 = false ∧ bar0Backed 0 0xFF8 = true ∧
    goes (.registerWrite ⟨0, 0⟩ 0x1000 8 0) lab = true ∧ goes (.registerWrite ⟨0, 0⟩ 0xFFC 4 0) lab = true ∧ bar4Backed 0 0x1000 = false ∧ goes (.registerWrite ⟨4, 0⟩ 0x1000 4 0) lab = true ∧
    255 < vecCount 0 ∧ goes (.registerWrite ⟨4, 0⟩ (16 * 255 + 8) 4 7) lab = true ∧ (lab.hostFn 0).kill = none ∧
    goes (.registerWrite ⟨0, 0⟩ 0x2C0 8 (-1)) lab = true ∧ goes (.registerWrite ⟨0, 0⟩ 0x228 8 1) lab = true := by decide +kernel
theorem wit_HostRegisterEvents_clears : goes (.hfEvtClear 0 5) lab = true ∧ goes .hfAcovfClear lab = true ∧
    (lab.reg 0 0x250).toNat < (1 : Word).toNat ∧ goes (.accessQueueConsume 1) lab = true ∧ goes (.accessQueueConsume 0) lab = true := by decide +kernel
def killing : State := { lab with host := { HostSide.reset with fns := [(0, { HostFn.zero with kill := some ⟨1, 0, [1]⟩ })] } }
theorem wit_HostRegisterEvents_kill : (killing.hostFn 0).kill.isSome = true ∧ goes (.hostKill 0 1) killing = true ∧
    (∀ k ∈ (on State.reset 0).tasks, k.matchedBy 0 0 false = false) ∧ goes (.hostKill 0 1) (withBoard State.reset upB) = true := by decide +kernel
theorem wit_HostRegisterEvents_config : upB.hlink = true ∧ upB.hostLoss = false ∧ goes .configRequest (withBoard lab { upB with fatal := true }) = true ∧
    goes .configRequest (withBoard lab { upB with phase := 7 }) = true ∧ goes .configRequest (on lab 1) = true ∧ goes .configRequest (on lab 2) = true := by
  decide +kernel

/-- Queue 0 of the PF with one record at 0x3000, its line at 0x4000, and a header at 0x5000. -/
def qLab (q : Queue) : State :=
  { hostLab [(0x018, 0x1000)] [(0, q)] with
    mem := { lab.mem with hbm := [(0x1000, 0x01), (0x1001, 0x20), (0x3001, 0x50), (0x4000, 0x01)] } }
def q0 : Queue := ⟨0x3000, 0x4000, 1, 0, 0⟩
theorem wit_QueueEvents_enable : lab.queueValid 0 q0 = true ∧ goes (.queueEnable 0 0 1) (qLab { q0 with ctl := 0 }) = true ∧
    lab.queueValid 0 { q0 with base := 0x300D } = false ∧ goes (.queueEnable 0 0 1) (qLab { q0 with base := 0x300D, ctl := 0 }) = true ∧
    goes (.queueDisable 0 63 0) (qLab q0) = true := by decide +kernel
/-- Whether a queue is the one picked, with its lines at rest, and the pick then goes on. -/
def picks (s : State) : Bool := match s.pickNext with
  | some (0, 0, b) => s.pickQuiet 0 0 b && goes .dispatchPick s
  | _ => false
theorem wit_QueueEvents_pick : (qLab q0).sched.dispatching = true ∧ picks (qLab q0) = true := by decide +kernel
theorem wit_QueueEvents_error : (on (qLab { q0 with cons := 0x100 }) 1).scanQueue 0 0 = .error 2 ∧ lab.mem.quiet (0x4000 / 128) = true ∧
    goes .dispatchPick (on (qLab { q0 with cons := 0x100 }) 1) = true := by decide +kernel

theorem wit_HostMemoryEvents_bar2 : lab.bar2Range 0 (2 ^ 40) 8 = none ∧ goes (.bar2Read 0 (2 ^ 40) 8) lab = true ∧ goes (.bar2Write 0 (2 ^ 40) [1]) lab = true ∧
    lab.bar2Range 0 0x7FFC 4 = some 0x7FFC ∧ lab.rangeQuiet 0x7FFC 4 = true ∧ goes (.bar2Read 0 0x7FFC 4) lab = true ∧
    0x7FFC % 128 + 4 ≤ 128 ∧ lab.mem.isSpent 255 = false ∧ lab.busy 255 = false ∧ lab.mem.mirror 0x7FFC = none ∧ isHost 0x7FFC = false ∧
    goes (.bar2Write 0 0x7FFC [1, 2, 3, 4]) lab = true := by decide +kernel
def spentLab : State := withMem lab { lab.mem with spent := [(255, ⟨1, 0, 0⟩)] }
theorem wit_HostMemoryEvents_spent : spentLab.mem.isSpent 255 = true ∧ goes (.bar2Read 0 0x7FFC 4) spentLab = true ∧
    goes (.bar2Write 0 0x7FFC [1]) spentLab = true := by decide +kernel
def hdmLab : State := withMem lab { lab.mem with hdm := nsAdd [] 255 }
theorem wit_HostMemoryEvents_hdm : nsHas hdmLab.mem.hdm 255 = true ∧ goes (.bar2Write 0 0x7FFC [1]) hdmLab = true := by decide +kernel
def cxlLab : State := withBoard lab { upB with cxl := true }
theorem wit_HostMemoryEvents_cxl : cxlLab.cxlReach = .served ∧ cxlLab.hbmRange (2 ^ 40) 1 = none ∧ cxlLab.hbmRange 0x7FFC 4 = some 0x7FFC ∧ goes (.cxlMemAccess true (2 ^ 40) [1]) cxlLab = true ∧
    goes (.cxlMemAccess false 0x7FFC [0, 0, 0, 0]) cxlLab = true ∧ goes (.cxlMemAccess true 0x7FFC [1, 2, 3, 4]) cxlLab = true := by decide +kernel

theorem wit_Invalidation : goes (.invalidationStart 0 0x30000) lab = true ∧ goes (.invalidationStart 0 0x20000) lab = true ∧
    goes (.invalidationStart 0 0) (withMem lab { lab.mem with invs := [(0, ⟨0x20000, 0⟩)] }) = true := by decide +kernel
def invLab : State := withMem lab { lab.mem with invs := [(0, ⟨0x20000, 5⟩)] }
theorem wit_Invalidation_done : tget invLab.mem.invs 0 = some ⟨0x20000, 5⟩ ∧ invLab.invDrained (invSpace 0 0x20000) 5 = true ∧
    goes .invalidationComplete invLab = true := by decide +kernel
/-- A migration ring at 0x6000 with one record: from 0x8000 to 0x9000, a 4 KiB page whose leaf is at 0xA000. -/
def migLab (size : Byte) : State :=
  { hostLab [(0x220, 0x6100), (0x228, 1)] [] with
    mem := { lab.mem with hbm := [(0x6001, 0x80), (0x6009, 0x90), (0x6011, 0xA0), (0x6019, 0x70)] ++ (if size = 0 then [] else [(0x6020, size)]) ++
      [(0x6029, 0xB0), (0xA000, 0x07), (0xA001, 0x80)] } }
theorem wit_Migration_bad : (migLab 4).migRecordAddr = 0x6000 ∧ (migLab 4).migBad ((migLab 4).readBytes 0x6000 64) = true ∧
    (migLab 4).hbmBacked 0x6000 = true ∧ goes .migrationRecordConsume (migLab 4) = true := by decide +kernel
theorem wit_Migration_take : (migLab 0).migBad ((migLab 0).readBytes 0x6000 64) = false ∧ (migLab 0).mem.anyCounted (linesOf 0x8000 4096) = false ∧
    (migLab 0).mayRegister ((migOf ((migLab 0).readBytes 0x6000 64)).piece 0) = true ∧ goes .migrationRecordConsume (migLab 0) = true := by decide +kernel
def g0 : Mig := ⟨0x8000, 0x9000, 0xA000, 0x7000, 0, 0, 0, 0, 0, 0xB000⟩
def moving' (d : Nat) : State := withMem (migLab 0) { (migLab 0).mem with migs := [{ g0 with done := d, copied := 4096 * d }] }
theorem wit_Migration_copy : (moving' 0).mem.migs[0]? = some g0 ∧ 0 < g0.pieces ∧ (moving' 0).mayRegister [] = true ∧ (g0.piece 0).all (moving' 0).mem.settled = true ∧
    (linesOf 0x9000 4096).all (moving' 0).mem.quiet = true ∧ goes .migrationPieceCopy (moving' 0) = true := by decide +kernel
theorem wit_Migration_switch : (moving' 1).mem.migs[0]? = some { g0 with done := 1, copied := 4096 } ∧ g0.pieces = 1 ∧ (moving' 1).pageDrained { g0 with done := 1, copied := 4096 } = true ∧
    (moving' 1).mem.quiet (0xA000 / 128) = true ∧ (moving' 1).mem.quiet (0xB000 / 128) = true ∧ goes .migrationSwitchOver (moving' 1) = true := by decide +kernel

/-! ### States that meet the hypotheses of the scheduling events -/

/-- Task 1 in another guise, named by the event. -/
def tl (k : Task) : State := on (withTask lab k) 1
def noPl (s : State) : State := { s with fab := { s.fab with placements := [], frets := [(8, { fr0 with st := .free, cfg := some ⟨0, 0, 1⟩, owner := none })] } }
/-- A space whose 1 GiB page 0 is mapped to itself, or, with another byte, to a frame that is not there. -/
def tables (far : Bool) : Memory :=
  [(0x1000, 0x01), (0x1001, 0x20), (0x2000, 0x01), (0x2001, 0xC0), (0xC000, 0x01), (0xC001, 0xD0), (0xD000, 0x07)] ++ (if far then [(0xD005, 0x10)] else [])
def leased (far : Bool) (k : Task) : State :=
  { tl (setH [(38, 1)] k) with
    host := { HostSide.reset with fns := [(0, { HostFn.zero with regs := [(0x018, 0x1000)] })] }
    mem := { lab.mem with hbm := tables far, tlb := [] } }
theorem wit_Named : (tl tk).subject = tk.num ∧ (tl tk).task? tk.num = some tk ∧ tk.ending = false := by decide +kernel
theorem wit_AdmissionEvents_granted : (setH [(38, 1)] tk).pages = [0] ∧ (leased false tk).pageAt (setH [(38, 1)] tk) 0 = .resident false ∧
    goes .leaseWalkResume (leased false { tk with st := .reswait }) = true := by decide +kernel
theorem wit_AdmissionEvents_unbacked : (leased true tk).pageAt (setH [(38, 1)] tk) 0 = .unbacked ∧
    goes .leaseWalkResume (leased true { tk with st := .reswait }) = true := by decide +kernel
theorem wit_AdmissionEvents_saved : goes .leaseWalkResume (tl { tk with st := .saved }) = true := by decide +kernel
def qt : Task := setH [(45, 0xFF), (46, 0x03)] { tk with st := .admitwait, quota := false }
theorem wit_AdmissionEvents_quota : (tl { qt with hdr := setH [(46, 0x04)] tk |>.hdr }).quotaHeld + (setH [(46, 0x04)] tk).cquota ≤ 262144 ∧
    goes .quotaAdmit (tl { qt with hdr := setH [(46, 0x04)] tk |>.hdr }) = true := by decide +kernel
def waits : Task := { tk with st := .fretwait }
theorem wit_AdmissionEvents_frets : (noPl (tl waits)).fretwaitHead = some waits ∧
    ((noPl (tl waits)).mapTask waits ((noPl (tl waits)).freeFor 1) []).isSome = true ∧ goes .fretwaitService (noPl (tl waits)) = true := by decide +kernel
def vfWaits : Task := { waits with fn := 1 }
theorem wit_AdmissionEvents_noFrets : (noPl (tl vfWaits)).fretwaitHead = some vfWaits ∧
    (noPl (tl vfWaits)).mapTask vfWaits ((noPl (tl vfWaits)).freeFor 1) [] = none ∧ goes .fretwaitService (noPl (tl vfWaits)) = true := by decide +kernel
def loads : Task := { tk with st := .loading }
def loadLab (e : Option (Nat × Nat)) : State := withFret (tl { loads with loadErr := e }) { fr0 with st := .load }
theorem wit_AdmissionEvents_load : (loadLab none).placementsOf 1 ≠ [] ∧ loads.image = none ∧ loads.loadErr = none ∧ (loadLab none).obs.dbg.haltPending = false ∧
    loads.gang = none ∧ goes .fretLoad (loadLab none) = true := by decide +kernel
theorem wit_AdmissionEvents_reject : goes .fretLoad (loadLab (some (3, 64))) = true := by decide +kernel
theorem wit_AdmissionEvents_lost : (withBoard (tl (setH [(38, 1), (135, 0x80)] { tk with st := .reswait })) { upB with hostLoss := true }).hostLeased
      (setH [(38, 1), (135, 0x80)] { tk with st := .reswait }) = true ∧
    goes .leaseWalkResume (withBoard (tl (setH [(38, 1), (135, 0x80)] { tk with st := .reswait })) { upB with hostLoss := true }) = true := by decide +kernel
def grows : Task := setH [(16, 9), (34, 2), (39, 0)] tk
def growLab : State := { tl grows with fab := { lab.fab with frets := [(8, { fr0 with cfg := some ⟨0, 0, 1⟩ }), (9, { fr0 with st := .free, cfg := some ⟨0, 0, 1⟩, owner := none })] } }
theorem wit_AdmissionEvents_growth : grows.issues = true ∧ (growLab.placementsOf 1).length < grows.fld 34 2 ∧ growLab.mapGrowth grows = some [(0, 9)] ∧
 grows.victim = none ∧ grows.loadErr = none ∧ goes .placementGrowth growLab = true := by decide +kernel
def drains : Task := { tk with victim := some ⟨.drain, 0, 2⟩ }
theorem wit_AdmissionEvents_drain : goes .drainVictimExpiry { tl drains with clock := ⟨0, 0, 80000⟩ } = true := by decide +kernel

def pl1 : Placement := { pl0 with idx := 1, map := [(0, 9)], threads := [], freeTags := [0] }
def twoPl (p : Placement) : State := { lab with fab := { lab.fab with
  placements := [(64, pl0), (65, p)], frets := [(8, fr0), (9, { fr0 with owner := some (65, 0) })] } }
theorem wit_PlacementEvents_release : (twoPl pl1).placement? 1 1 = some pl1 ∧ (twoPl pl1).releasable tk pl1 = true ∧
    goes (.placementRelease 1 1) (twoPl pl1) = true := by decide +kernel
theorem wit_PlacementEvents_scrub : goes .fretScrubComplete (on (withFret lab { fr0 with st := .scrub }) 8) = true := by decide +kernel
theorem wit_PlacementEvents_move : (lab.fret 8).owner = some (64, 0) ∧ lab.mayMove tk pl0 8 16 = true ∧ goes (.fretMove 8 (.fret 16)) lab = true ∧
    lab.mayMoveElem tk 8 (0, 3) = true ∧ goes (.fretMove 8 (.elements 0 3)) lab = true := by decide +kernel
def movePl : Placement := { pl0 with moving := [(0, ())] }
def moveLab : State := { on lab 8 with fab := { lab.fab with
  placements := [(64, movePl)], frets := [(8, { fr0 with st := .move }), (16, { Fret.fresh 16 with st := .move })], moves := [⟨1, 0, [(8, 16)], none, 0⟩] } }
theorem wit_PlacementEvents_moved : moveLab.moveReady ⟨1, 0, [(8, 16)], none, 0⟩ = true ∧ moveLab.placement? 1 0 = some movePl ∧ goes .fretMoveComplete moveLab = true := by decide +kernel

/-- Every thread of placement 0 has ended. -/
def donePl : Placement := { pl0 with threads := [], freeTags := [0] }
theorem wit_TaskEndEvents_done : (withPl (tl tk) donePl).allDone tk = true ∧ goes .taskDone (withPl (tl tk) donePl) = true := by decide +kernel
def ends : Task := { tk with ending := true }
theorem wit_TaskEndEvents_end : (withPl (tl ends) donePl).endable ends = true ∧ (withPl (tl ends) donePl).mayComplete ends = true ∧
    goes .taskEnd (withPl (tl ends) donePl) = true := by decide +kernel
def ckpt : Task := { tk with victim := some ⟨.checkpoint, 0, 2⟩ }
theorem wit_TaskEndEvents_checkpoint : (tl ckpt).hasWindow 1 = false ∧ goes .checkpointStart (tl ckpt) = true := by decide +kernel
def saves (settled : Bool) : Task := { ckpt with st := .saving, settled := settled }
theorem wit_TaskEndEvents_settle : (tl (saves false)).saveSettled (saves false) = true ∧ goes .checkpointSettleComplete (tl (saves false)) = true := by decide +kernel
theorem wit_TaskEndEvents_timeout : goes .checkpointTimeout { tl (saves false) with clock := ⟨0, 0, 1000000⟩ } = true ∧
    goes .checkpointTimeout { tl (setH [(31, 2)] (saves false)) with clock := ⟨0, 0, 1000000⟩ } = true := by decide +kernel
def saveLab : State := tl (setH [(38, 1), (135, 0x10)] (saves true))
theorem wit_TaskEndEvents_write : saveLab.traceDrained 1 = true ∧ saveLab.allDone (setH [(38, 1), (135, 0x10)] (saves true)) = false ∧ goes .checkpointWriteComplete saveLab = true := by decide +kernel
def resumes : Task := { tk with st := .loading, image := some ((withPl (tl tk) donePl).imageOf tk) }
theorem wit_TaskEndEvents_resume : (withPl (tl resumes) donePl).placementsOf 1 ≠ [] ∧ goes .taskResume (withPl (tl resumes) donePl) = true := by decide +kernel
def kills (k : Task) : Task := { k with st := .killing }
theorem wit_TaskEndEvents_kill : { tk with orderKill := true }.toKill = true ∧ goes .taskKill (tl { tk with orderKill := true }) = true ∧
    (tl (kills tk)).killDrained 1 = true ∧ goes .killDrainComplete (tl (kills tk)) = true ∧
    goes .killDrainTimeout { tl (kills tk) with clock := ⟨0, 0, 300000⟩ } = true := by decide +kernel

/-! ### States that meet the hypotheses of resets, gangs, reconfigurations, tokens, waves and held operations -/

theorem wit_FunctionReset_pf : (lab.hostFn 0).flr = none ∧ goes .pfFlr lab = true := by decide +kernel
def vfLab : State := { on lab 63 with host := { HostSide.reset with vfEnable := true } }
theorem wit_FunctionReset_vf : vfLab.reach 63 = .served ∧ goes .vfFlr vfLab = true := by decide +kernel
def flrLab : State := { on (withTask lab { tk with st := .killing }) 0 with
  clock := ⟨0, 0, 300000⟩, host := { HostSide.reset with fns := [(0, { HostFn.zero with flr := some ⟨0, true⟩ })] } }
theorem wit_FunctionReset_over : flrLab.flrLed 0 = some ⟨0, true⟩ ∧ (∀ k ∈ flrLab.tasksOf (flrFns 0), flrLab.inFlight k.num = false) ∧ goes .flrDrainComplete flrLab = true ∧ goes .flrDrainTimeout flrLab = true := by
  decide +kernel
theorem wit_LinkLoss : goes .hostLinkLoss lab = true := by decide +kernel
def lossB : Board := { upB with hlink := false, hostLoss := true, lossAt := some 5 }
theorem wit_LinkLoss_timeout : goes .linkLossTimeout { withMem (withBoard lab lossB) { lab.mem with hlc := [(4, hl .m)] } with clock := ⟨0, 0, 200000005⟩ } = true := by
  decide +kernel
theorem wit_LinkLoss_retrain : linkFits 64 16 false = true ∧ (withBoard lab lossB).lossDue = false ∧ lossB.perst = false ∧ goes .hostLinkRetrain (on (withBoard lab lossB) (32 * 64 + 16)) = true := by decide +kernel

def gang : Gang := ⟨7, 1000, 0, 10000, 0, 5000, true⟩
def gangTk : Task := { tk with gang := some gang }
def locked (k : Task) (ptp : Nat) : State := { withBoard (tl k) { dataB with ptpLock := true } with clock := ⟨0, ptp, 0⟩ }
theorem wit_Slices : (locked gangTk 10000).sliceOpens gangTk gang = true ∧ goes .sliceStart (locked { gangTk with st := .admitwait } 10000) = true ∧
    goes .sliceStart (locked { gangTk with st := .saved } 10000) = true ∧ (locked gangTk 5000).gangHeld gang = false ∧ gang.nextEnd 0 ≤ 5000 ∧
    goes .sliceEnd (locked gangTk 5000) = true := by decide +kernel
def gangObs (h r : Tab Nat) (f : NSet) : Obs := { Obs.reset with gangHold := h, gangRelease := r, gangFrozen := f }
theorem wit_Gangs : dataB.carriesData = true ∧ goes (.gangHoldReceive 7 5200) (locked gangTk 5000) = true ∧
    goes (.gangHoldReceive 9 5199) (locked gangTk 5000) = true ∧
    goes (.gangFreezeInstant 9) { locked gangTk 5000 with obs := gangObs [(9, 5000)] [] [] } = true ∧
    goes (.gangReleaseReceive 9 5000) (locked gangTk 5000) = true ∧ (locked gangTk 5000).gangTasks 9 = [] ∧
    goes (.gangResumeInstant 9) { locked gangTk 5000 with obs := gangObs [] [(9, 5000)] [(9, ())] } = true := by decide +kernel

def w0 (opened : Bool) (m : NSet) : Window := ⟨1, 0, 0, 0, 0, rec' 0x0500400000000000 [0x8C00] [], opened, m, 0, true⟩
def winLab (w : Window) : State := on (withFret lab { fr0 with window := some w, elems := [] }) 8
theorem wit_Reconfiguration_token : pl0.task = 1 ∧ pl0.idx = 0 ∧ goes .reconfigurationToken (winLab (w0 false [])) = true := by decide +kernel
theorem wit_Reconfiguration_marker : pl0.mapTaken 0 1 lab.clock.cycle = true ∧ nsHas (w0 true [(1, ())]).markers 1 = true ∧ goes (.flushMarkerArrival 8 1) (winLab (w0 true [(1, ())])) = true := by
  decide +kernel
theorem wit_Reconfiguration_rewrite : (winLab (w0 true [])).awaitsReply 8 (fun g => g ≠ false) = false ∧ (winLab (w0 true [])).oldReady 8 (w0 true []) = false ∧
    goes .reconfigRewriteComplete (winLab (w0 true [])) = true := by decide +kernel
theorem wit_Reconfiguration_scrub :
    goes .reconfigScrubExpiry { on (withFret lab { fr0 with st := .scrub, window := some (w0 true []) }) 8 with clock := ⟨0, 0, 300000⟩ } = true := by decide +kernel

/-- A token for element 0 of fret 8. -/
def tok0 : NetTok := ⟨1, 0, 8, 0, 0, 0, 0, 1, 0, 0, false, 9, 1, 1000, Flags.none⟩
def netLab (t : NetTok) : State := on { lab with fab := { lab.fab with net := [t] } } 0
theorem wit_Tokens : (netLab tok0).fab.net[0]? = some tok0 ∧ tok0.earliest ≤ (netLab tok0).clock.cycle ∧ tok0.gen = ((netLab tok0).fret 8).gen ∧
    goes .tokenArrival (netLab tok0) = true ∧ { tok0 with gen := true }.gen ≠ ((netLab tok0).fret 8).gen ∧ ((netLab tok0).fret 8).window = none ∧
    goes .tokenArrival (netLab { tok0 with gen := true }) = true := by decide +kernel
def sp0 : SpawnReq := ⟨1, 8, 0, 0, 0, 0, 0, 0, 7, [dst, { dst with side := true }], 0, 0, 1000⟩
theorem wit_Spawns : sp0.earliest ≤ lab.clock.cycle ∧ pl0.fresh < 16384 ∧ goes (.tagUnitSpawn 1 0) (withPl lab { pl0 with spawns := [sp0] }) = true ∧
    goes (.tagUnitSpawn 1 0) (withPl lab { pl0 with spawns := [sp0], fresh := 16384 }) = true := by decide +kernel
def issuing : State := withFret (withTask lab (setH [(16, 2)] tk)) { fr0 with slots := [(0, leBytes 8 0x0500000000000000)] }
theorem wit_Items : (setH [(16, 2)] tk).issues = true ∧ issuing.nextAsker (setH [(16, 2)] tk) = some 0 ∧ goes (.workItemIssue 1 0) issuing = true := by decide +kernel
def noticed (p : Placement) : State := { withPl lab p with fab := { (withPl lab p).fab with notices := [⟨1, 0, 0, 0, 0⟩] } }
theorem wit_Notices : (noticed donePl).noticeFor 1 0 0 donePl = some 0 ∧ donePl.thread? 0 = none ∧ goes (.endtTagReturn 1 0 0) (noticed donePl) = true ∧
    (noticed { pl0 with threads := [(0, { th0 with oldest := 1 })] }).noticeFor 1 0 0 { pl0 with threads := [(0, { th0 with oldest := 1 })] } = some 0 ∧
    goes (.endtTagReturn 1 0 0) (noticed { pl0 with threads := [(0, { th0 with oldest := 1 })] }) = true := by decide +kernel

/-! Waves -/

/-- A `memnop` alone in its chain, and loads and stores alone in theirs. -/
def nopI : Instr := .memnop { fm .n8 with dests := [] }
def ldI : Instr := .ld (fm .n64)
def stI : Instr := .st { fm .n64 with dests := [] }
def opLab (p : Placement) (m : OpMsg) : State := on { withPl lab p with fab := { (withPl lab p).fab with ops := [m] } } 0
def msg (i : Instr) (l : Word := 0) : OpMsg := ⟨op i l 0 0 .entered, 1000, false, 0⟩
theorem wit_Waves_enter : pl0.chkAtEntry (op nopI) = false ∧ hasAddr nopI = false ∧ (opLab pl0 (msg nopI)).shareWaiting 1 0 0 = [] ∧ pl0.openEntry 0 = true ∧
    (chainComplete [op nopI] = true ∧ chainWhole [op nopI] = true) ∧ goes .chainOperationArrival (opLab pl0 (msg nopI)) = true := by decide +kernel
/-- A share whose 64 unreserved entries are taken. -/
def fullPl : Placement := { pl0 with queue := List.replicate 64 (op stI) }
theorem wit_Waves_reserve : fullPl.openEntry 0 = false ∧ fullPl.openReserve 0 (op nopI) = true ∧ goes .chainOperationArrival (opLab fullPl (msg nopI)) = true := by
  decide +kernel
theorem wit_Waves_wait : fullPl.openReserve 0 { op nopI with wave := 1 } = false ∧
    goes .chainOperationArrival (opLab fullPl { msg nopI with op := { op nopI with wave := 1 } }) = true := by decide +kernel
theorem wit_Waves_align : isIo ldI = false ∧ (op ldI 4).ea % (op ldI 4).size ≠ 0 ∧ pl0.chkAtEntry (op ldI 4) = false ∧
    goes .chainOperationArrival (opLab pl0 (msg ldI 4)) = true := by decide +kernel
theorem wit_Waves_admit : (opLab pl0 { msg nopI with waiting := true }).admitKind { msg nopI with waiting := true } = some false ∧
    (opLab fullPl { msg nopI with waiting := true }).admitKind { msg nopI with waiting := true } = some true ∧
    goes .wobEntryAdmit (opLab pl0 { msg nopI with waiting := true }) = true ∧ goes .wobEntryAdmit (opLab fullPl { msg nopI with waiting := true }) = true := by
  decide +kernel
def commits : Placement := { pl0 with wob := [op stI 0 0 0 .entered] }
theorem wit_Waves_commit : chainWhole (commits.waveOps 0 0) = true ∧ (∀ o ∈ earlyOf (chainOf (commits.waveOps 0 0)), o.st = .replied) ∧
    (withPl lab commits).commitTurn 1 0 0 = true ∧ (withPl lab commits).frozenNow = false ∧
    goes (.waveCommit 1 0 0) (withPl lab commits) = true := by decide +kernel

/-! Reads -/

def leaseTk : Task := setH [(38, 1)] tk
def rdLab (o : WobOp) (q : List WobOp) (m : Mem := lab.mem) : State := withMem (withPl (withTask lab leaseTk) { pl0 with wob := [o], queue := q }) m
/-- Whether the early read 0 of thread 0 may be performed, with nothing of its chain before it, and then goes on. -/
def reads (s : State) (served : Bool) : Bool := match s.earlyReady 1 0 0 0 with
  | some (_, p, o, bef) => decide ((fwdOf (p.queueOf o.serial ++ bef) o).length = o.size) == served && goes (.earlyReadPerform 1 0 0 0) s
  | none => false
theorem wit_Reads : forwards ldI = true ∧ (withPl lab { pl0 with wob := [op ldI 0 0 0 .entered] }).mem.l1At 1 0 = none ∧
    reads (rdLab (op ldI 0 0 0 .entered) []) false = true ∧ reads (rdLab { op ldI 0 0 0 .entered with scratch := true } []) false = true ∧
    reads (rdLab (op ldI 0 0 0 .entered) [{ op stI 0 5 with seq := 49 }]) true = true := by decide +kernel
def reply0 (o : WobOp) : Reply := ⟨o, 5, none, none, false⟩
theorem wit_Replies : goes .readReply (on (rdLab (op ldI 0 0 0 .sent) [] { lab.mem with replies := [reply0 (op ldI 0 0 0 .sent)] }) 0) = true ∧
    goes .readReply (on (rdLab (op nopI) [op ldI 0 0 0 .issued] { lab.mem with replies := [reply0 (op ldI 0 0 0 .issued)] } |> fun s =>
      withPl s { pl0 with queue := [op ldI 0 0 0 .issued] }) 0) = true ∧
    goes .storeAck (on (rdLab (op nopI) [] { lab.mem with acks := [⟨op stI 0 0 0 .issued, 0, none, none⟩] } |> fun s =>
      withPl s { pl0 with queue := [op stI 0 0 0 .issued] }) 0) = true := by decide +kernel

/-! Held operations -/

def heldLab (o : WobOp) : State := withPl (withTask lab leaseTk) { pl0 with queue := [o] }
/-- Whether that operation is the one to be issued, and its issue goes on. -/
def held (s : State) : Bool := match s.heldReady 1 0 0 with
  | some (t, p, o, _) => !s.recfgHeld t o && s.issueTurn p 0 && goes (.heldOperationIssue 1 0 0) s
  | none => false
def fm0 : FmtM := { fm .n64 with dests := [] }
def fe0 : FmtE := fe .s8
theorem wit_Held_memory : [Instr.fence .full fm0, .st fm0, .stRel fm0, .ldc fm0, .relc fm0, .stc fm0, .fillc fm0, .flush fm0, .waitl fm0, .barinit fm0, .bararr fm0,
    .barwait fm0, .stIo fm0, .pref fm0].all (fun i => held (heldLab (op i 0 1 1))) = true ∧ held (heldLab { op (.st fm0) 0 1 with scratch := true }) = true ∧
    held (heldLab (op (.fillc fm0) 0 0)) = true := by decide +kernel
theorem wit_Held_atoms : [Instr.atomAdd fm0, .atomMin fm0, .atomMax fm0, .atomAnd fm0, .atomOr fm0, .atomXor fm0, .atomXchg fm0, .atomCas fm0, .atomInc fm0,
    .atomFadd { fm0 with acc := .s32 }].all (fun i => held (heldLab (op i 0 1 1)) && held (heldLab { op i 0 1 1 with scratch := true })) = true := by decide +kernel
theorem wit_Held_engines : [Instr.tLd fe0, .tSt fe0, .tRel fe0, .tZero fe0, .tStat fe0, .tTr fe0, .mmTern false false fe0, .mmMx4 false false fe0, .mmD false fe0,
    .drain ⟨.bank0, false, 0, false, .none⟩ fe0, .drainM ⟨.bank0, false, 0, false, .none⟩ fe0, .copy fe0, .gath fe0, .collAllredSum fe0, .collAllredMax fe0,
    .collAllgat fe0, .collRedsc fe0, .collBcast fe0, .collGbar fe0, .rwr fe0, .rrd fe0].all (fun i => !isNmc i && isEngine i && held (heldLab (op i))) = true := by
  decide +kernel
def nmcOp : WobOp := op (.nmcSum { fe0 with count := 1 }) 0x200 1
def nmcLab : State := heldLab nmcOp
theorem wit_Held_near : nmcLab.nmcFault leaseTk nmcOp = none ∧ isNmc nmcOp.instr = true ∧ held nmcLab = true := by decide +kernel
theorem wit_Held_system : [Instr.brk fe0, .swrEvsel 3 fe0, .swrEvc 0 fe0, .swrBeat fe0, .swrQerr fe0, .swrQcons fe0].all
    (fun i => held (heldLab (op i 511 1)) && held (heldLab (op i 512 1))) = true := by decide +kernel

/-! ### States that meet the hypotheses of the home, counted, coherence and barrier events -/

/-- Line 3 at its home, as it stands, and a request of cluster 1 for it. -/
def lin : L2Line := ⟨bytesLine [], false, .i, 0, 0, 0, 0, 0⟩
def rq (k : ReqKind) (i : Instr) (r a : Word := 0) : Req := ⟨k, op i 0x180 r a .issued, 1, 3, 50⟩
def homeLab (r : Req) (x : L2Line) : State := on (withMem (withTask lab (setH [(38, 1), (44, 4)] tk)) { lab.mem with reqs := [r], l2 := [(3, x)] }) 0
def withSpent (s : State) : State := withMem s { s.mem with spent := [(3, ⟨1, 0, 0⟩)], l2 := [] }
def withPoison (s : State) : State := withMem s { s.mem with poison := [(3, ())] }
def served (s : State) (i : Instr) : Bool := (s.servable 0).isSome && goes i s
theorem wit_HomeReads : [lin, { lin with count := 2 }, { lin with dir := .sp [2] }, { lin with dir := .e 2 }, { lin with dir := .e 1 }].all
    (fun x => served (homeLab (rq (.read false) ldI) x) .homeReadMiss && served (homeLab (rq (.read true) ldI) x) .homeReadMiss) = true := by decide +kernel
theorem wit_HomeReads_faults : (withSpent (homeLab (rq (.read false) ldI) lin)).mem.isSpent 3 = true ∧ served (withSpent (homeLab (rq (.read false) ldI) lin)) .homeReadMiss = true ∧
    (withPoison (homeLab (rq (.read false) ldI) lin)).poisoned 3 = true ∧ (withPoison (homeLab (rq (.read false) ldI) lin)).mem.isSpent 3 = false ∧
    served (withPoison (homeLab (rq (.read false) ldI) lin)) .homeReadMiss = true := by decide +kernel
def busyLab (r : Req) : State := { homeLab r lin with eng := { Eng.reset with busyLines := [(3, ())] } }
theorem wit_HomeReads_busy : (busyLab (rq (.read false) ldI)).busy 3 = true ∧ served (busyLab (rq (.read false) ldI)) .homeReadMiss = true := by decide +kernel
theorem wit_HomeWrites : (homeLab (rq .write stI) lin).storeAtHome 3 = false ∧ [lin, { lin with dir := .sp [1] }, { lin with dir := .sp [1, 2] },
    { lin with dir := .e 2 }].all (fun x => served (homeLab (rq .write stI) x) .homeWriteMiss) = true ∧ served (withSpent (homeLab (rq .write stI) lin)) .homeWriteMiss = true := by
  decide +kernel
def atomic (i : Instr) : State := homeLab (rq .atHome i 1 1) lin
theorem wit_HomeAccess : (atomic (.atomAdd fm0)).mem.mirror 0x180 = none ∧ (rq .atHome (.atomAdd fm0)).op.pa / 128 = 3 ∧
    [Instr.atomAdd fm0, .atomMin fm0, .atomMax fm0, .atomAnd fm0, .atomOr fm0, .atomXor fm0, .atomXchg fm0, .atomCas fm0, .atomInc fm0, .atomFadd fm0, .cntq fm0].all
      (fun i => served (atomic i) .homePerformedAccess) = true ∧ served (withSpent (atomic (.cntq fm0))) .homePerformedAccess = true := by decide +kernel

def est (n : Word) : Req := rq .establish (.fillc fm0) n
theorem wit_Establish : (homeLab (est 1) lin).noRoomToCount (est 1) = false ∧ (homeLab (est 1) lin).estPlace (est 1) = some 0x180 ∧ (homeLab (est 1) lin).obs.meas = [] ∧ (homeLab (est 1) lin).mem.migAt 384 = none ∧
    (homeLab (est 1) lin).mem.dirOf 3 = .i ∧ (homeLab (est 1) lin).mem.countAt 3 = 0 ∧ served (homeLab (est 1) lin) .countedEstablishment = true ∧
    served (homeLab (est 4096) { lin with count := 4095 }) .countedEstablishment = true ∧ served (withSpent (homeLab (est 1) lin)) .countedEstablishment = true ∧
    (withTask (homeLab (est 1) lin) tk).estPlace (est 1) = none ∧ served (withTask (homeLab (est 1) lin) tk) .countedEstablishment = true ∧
    (withTask (homeLab (est 1) lin) leaseTk).noRoomToCount (est 1) = true ∧ (withTask (homeLab (est 1) lin) leaseTk).estPlace (est 1) = some 0x180 ∧
    served (withTask (homeLab (est 1) lin) leaseTk) .countedEstablishment = true := by decide +kernel
def con : Req := rq .consume (.ldc fm0)
theorem wit_Consume : served (homeLab con { lin with count := 1 }) .consumingRead = true ∧ served (homeLab con { lin with count := 2 }) .consumingRead = true ∧
    served (homeLab con lin) .consumingRead = true ∧ served (withSpent (homeLab con lin)) .consumingRead = true ∧
    served (withPoison (homeLab con { lin with count := 2 })) .consumingRead = true := by decide +kernel
def rel (n : Word) : State := homeLab (rq .relc (.relc fm0) n) { lin with count := 2 }
theorem wit_Release : [0, 1, 0x1000 - 0x180, 0x1000, -1].all (fun n => goes .relcScan (rel n)) = true ∧
    (rel 0x1000).firstBadVa leaseTk true 0x180 0x1000 = some 0x1000 ∧ (rel 1).firstBadVa leaseTk true 0x180 0x80 = none := by decide +kernel

/-! Coherence -/

def cp (st : L1St) : L1Line := ⟨1, 3, st, bytesLine [], 0, 0, false⟩
def msgLab (m : CohMsg) (x : L2Line) (l1 : List L1Line) (txns : List Txn) : State :=
  on (withMem lab { lab.mem with msgs := [m], l2 := [(3, x)], l1 := l1, txns := txns }) 0
def tx (k : ReqKind) (n : Nat) : Txn := ⟨9, 3, { rq k ldI with cluster := 2 }, n⟩
theorem wit_Notices_home : [Dir.i, .sp [1], .sp [1, 2], .e 1, .e 2].all (fun d => goes .cleanEvictionNotice (msgLab (.evict 3 1) { lin with dir := d } [] [])) = true ∧
    goes .cleanEvictionNotice (msgLab (.evict 3 1) lin [] [tx .write 1]) = true ∧ goes .dirtyWriteBack (msgLab (.writeBack 3 1 (bytesLine [])) { lin with dir := .e 1 } [] []) = true ∧
    goes .dirtyWriteBack (msgLab (.writeBack 3 1 (bytesLine [])) { lin with dir := .e 1 } [] [tx .write 1]) = true := by decide +kernel
theorem wit_Copies : (msgLab (.inval 9 3 1) lin [cp .m] []).grantPending 1 3 = false ∧ [[], [cp .s], [cp .e], [cp .m]].all (fun l =>
    goes .invalidationReceive (msgLab (.inval 9 3 1) lin l []) && goes .forwardRecallReceive (msgLab (.recall 9 3 1) lin l []) &&
    goes .forwardRecallReceive (msgLab (.forward 9 3 1) lin l [])) = true := by decide +kernel
theorem wit_Acks : [none, some (bytesLine [])].all (fun d => [tx .write 2, tx .write 1, tx (.read false) 1].all (fun t =>
    goes .ackReceive (msgLab (.ack 9 3 1 d) { lin with dir := .e 1 } [] [t]))) = true := by decide +kernel
def hostLine0 : Nat := 2 ^ 51 / 128
def hreq (k : ReqKind) (i : Instr) : Req := ⟨k, { op i 0x180 7 with pa := 2 ^ 51, host := true }, 1, hostLine0, 50⟩
def hlcLab (k : ReqKind) (i : Instr) (h : List (Nat × HlcLine)) (b : Board) : State := on (withMem (withBoard lab b) { lab.mem with reqs := [hreq k i], hlc := h }) 0
def cxlB : Board := { upB with cxl := true }
theorem wit_HostLines : isHost (2 ^ 51) = true ∧ [[], [(hostLine0, hl .m)], [(hostLine0, hl .o)], [(hostLine0, hl .e)], [(hostLine0, hl .s)]].all (fun h =>
      served (hlcLab .hlcRead ldI h cxlB) (.hlcClusterRead 0 true) && goes (.hlcClusterRead 0 false) (hlcLab .hlcRead ldI h { cxlB with hostLoss := true })) = true ∧
    served (hlcLab .hlcWrite stI [(hostLine0, hl .e)] cxlB) .hlcWrite = true ∧ served (hlcLab .hlcWrite stI [] { cxlB with hostLoss := true }) .hlcWrite = true ∧
    [[], [(hostLine0, hl .m)], [(hostLine0, hl .s)]].all (fun h => goes .hostSnoopData (on (withMem (withBoard lab cxlB) { lab.mem with hlc := h }) hostLine0) &&
      goes .hostSnoopInvalidate (on (withMem (withBoard lab cxlB) { lab.mem with hlc := h }) hostLine0)) = true := by decide +kernel

/-! Barriers, waits, prefetches -/

def barOp (i : Instr) (word r : Word) : WobOp := op i word r 0 .issued
def barLab (o : WobOp) (b : Barrier) : State :=
  on { withFret (withPl lab { pl0 with queue := [o] }) { fr0 with bars := [(0, b)] } with fab := { (withFret (withPl lab { pl0 with queue := [o] }) { fr0 with bars := [(0, b)] }).fab with barQ := [⟨o, 1000, false, 0⟩] } } 0
def bar0 (e a p : Nat) : Barrier := ⟨e, a, p, []⟩
theorem wit_Barriers_words : barrierOf tk 0 1 32 = none ∧ barrierOf tk 0 1 31 = some (0, 31, false) ∧ (barLab (barOp (.barinit fm0) 32 1) (bar0 0 0 0)).firstForBarrier 0 ⟨barOp (.barinit fm0) 32 1, 1000, false, 0⟩ none = true ∧
    [Instr.barinit fm0, .bararr fm0, .barwait fm0].all (fun i => goes .barrierRequestServe (barLab (barOp i 32 1) (bar0 0 0 0))) = true := by decide +kernel
theorem wit_Barriers_init : goes .barrierRequestServe (barLab (barOp (.barinit fm0) 0 5) (bar0 0 0 9)) = true ∧
    goes .barrierRequestServe (barLab (barOp (.barinit fm0) 0 5) (bar0 2 1 9)) = true := by decide +kernel
theorem wit_Barriers_arrive : goes .barrierRequestServe (barLab (barOp (.bararr fm0) 0 0) (bar0 0 0 0)) = true ∧
    goes .barrierRequestServe (barLab (barOp (.bararr fm0) 0 0) (bar0 3 1 0)) = true ∧ goes .barrierRequestServe (barLab (barOp (.bararr fm0) 0 0) (bar0 2 1 (2 ^ 32 - 1))) = true ∧
    goes .barrierRequestServe (barLab (barOp (.bararr fm0) 0 0) { bar0 2 1 0 with waiters := [{ barOp (.barwait fm0) 0 0 with seq := 51 }] }) = true := by decide +kernel
theorem wit_Barriers_wait : goes .barrierRequestServe (barLab (barOp (.barwait fm0) 0 0) (bar0 0 0 0)) = true ∧
    goes .barrierRequestServe (barLab (barOp (.barwait fm0) 0 1) (bar0 2 1 0)) = true ∧ goes .barrierRequestServe (barLab (barOp (.barwait fm0) 0 0) (bar0 2 1 0)) = true ∧
    goes .barrierRequestServe (barLab (barOp (.barwait fm0) 0 0) { bar0 2 1 0 with waiters := List.replicate 64 (barOp (.barwait fm0) 0 0) }) = true := by decide +kernel
def sentOp : WobOp := { op (.barwait fm0) 0 0 0 .sent with value := 936 }
theorem wit_Barriers_resend : (on (withPl lab { pl0 with queue := [sentOp] }) 50).turnedAway 50 = some sentOp ∧ sentOp.value.toNat + 64 ≤ lab.clock.cycle ∧
    goes .barwaitResend (on (withPl lab { pl0 with queue := [sentOp] }) 50) = true := by decide +kernel
def wt (v : Word) (pa : Nat) : Wait := ⟨{ op (.waitl fm0) 0x180 v 0 .issued with pa := pa }, pa / 128, true, 0⟩
def waitLab (w : Wait) : State := on (withMem lab { lab.mem with waits := [w] }) (sliceOf (128 * w.place))
theorem wit_Waits_slice : goes .waitlSlicePoll (waitLab (wt 0 0x180)) = true ∧ goes .waitlSlicePoll (waitLab (wt 1 0x180)) = true ∧
    goes .waitlSlicePoll (on (withSpent (waitLab (wt 1 0x180))) (sliceOf 0x180)) = true := by decide +kernel
theorem wit_Waits_poison : (withPoison (waitLab (wt 1 0x180))).poisoned 3 = true ∧ goes .waitlSlicePoll (on (withPoison (waitLab (wt 1 0x180))) (sliceOf 0x180)) = true ∧
    goes .waitlHostPoll (on (withMem (waitLab (wt 1 (2 ^ 51))) { (waitLab (wt 1 (2 ^ 51))).mem with hostPoison := [(2 ^ 51 / 128, ())] }) 0) = true := by decide +kernel
theorem wit_Waits_host : bits (lab.reg 0 0x248) 15 0 = 0 ∧ goes .waitlHostPoll (on (waitLab (wt 0 (2 ^ 51))) 0) = true ∧ goes .waitlHostPoll (on (waitLab (wt 1 (2 ^ 51))) 0) = true ∧
    goes .waitlHostPoll (on (withBoard (waitLab (wt 0 (2 ^ 51))) lossB) 0) = true := by decide +kernel
def prefLab (b : Barrier) (word : Word) : State :=
  on (withFret (withPl (withTask lab leaseTk) { pl0 with queue := [op (.pref fm0) 0x180 8 word .issued] }) { fr0 with bars := [(0, b)] }) 50
theorem wit_Prefetch : ((prefLab (bar0 3 1 0) 0).issuedPref 50).isSome = true ∧ prefPages leaseTk (op (.pref fm0) 0x180 8) = [0] ∧
    ((prefLab (bar0 3 1 0) 0).physOf 0 0).map Prod.fst = some 0 ∧ goes .prefComplete (prefLab (bar0 3 1 0) 0) = true ∧ goes .prefComplete (prefLab (bar0 0 0 0) 32) = true := by
  decide +kernel

/-! ### States that meet the hypotheses of the engine, fabric, fault, debug and trace events -/

def eop (i : Instr) (l r : Word := 0) : WobOp := op i l r 0 .issued
def engLab (o : WobOp) (ts : List (Nat × Tile)) : State :=
  { on (withPl lab { pl0 with queue := [o] }) 50 with eng := { Eng.reset with tiles := ts.map (fun q => (tileKey 1 1 0 q.1, q.2)) } }
def tile0 (st count : Nat) : Tile := ⟨st, .s8, 1, 4, 0, 1, count, false, 8, false, []⟩
theorem wit_Engines_accept : (engLab (eop (.tRel fe0)) []).issuedEngine 50 = some (eop (.tRel fe0)) ∧ tileReads (eop (.tRel fe0)) = [] ∧
    tileReads (eop (.tSt fe0)) = [4] ∧ (engLab (eop (.tSt fe0)) [(4, tile0 tReady 0)]).tile? 1 1 0 4 = some (tile0 tReady 0) ∧ tileReads (eop (.tTr fe0)) = [5] ∧
    tileConsumes (.tTr fe0) = true ∧ [(Instr.tRel fe0, 4, 0), (.tSt fe0, 4, 0), (.tTr fe0, 5, 0), (.tTr fe0, 5, 1), (.tTr fe0, 5, 2)].all (fun q =>
      (engLab (eop q.1) [(q.2.1, tile0 tReady q.2.2)]).acceptable tk (eop q.1) && goes .engineCommandAccept (engLab (eop q.1) [(q.2.1, tile0 tReady q.2.2)])) = true := by
  decide +kernel
def copyLab (k : Task) : State := { withTask (engLab (eop (.copy fe0)) []) k with subject := 50 }
theorem wit_Engines_copy : ((copyLab leaseTk).copyDesc leaseTk 0 matches .ok _) = true ∧ ((copyLab tk).copyDesc tk 0 matches .error _) = true ∧
    (copyLab leaseTk).acceptable leaseTk (eop (.copy fe0)) = true ∧ goes .engineCommandAccept (copyLab leaseTk) = true ∧ goes .engineCommandAccept (copyLab tk) = true := by
  decide +kernel
def cmd0 (o : WobOp) : Cmd := ⟨o, 0, 1, [], [], [], false, 0, 0, 0, Flags.none, none, none, 0, 0, [], none⟩
def cmdLab (c : Cmd) (ts : List (Nat × Tile)) : State := { engLab (eop (.tRel fe0)) ts with eng := { (engLab (eop (.tRel fe0)) ts).eng with cmds := [c] } }
/-- Whether the one command may start, and then does. -/
def begins (c : Cmd) (ts : List (Nat × Tile)) : Bool := ((cmdLab c ts).startable 50).isSome && goes .engineCommandStart (cmdLab c ts)
theorem wit_Engines_start : begins (cmd0 (eop (.tStat fe0))) [] = true ∧ begins (cmd0 (eop (.tRel fe0))) [(4, tile0 tReady 1)] = true ∧
    shapeReason .s8 0x10000 = some 7 ∧ begins (cmd0 (eop (.tZero fe0) 0x10000)) [] = true ∧ shapeReason .s8 0x10001 = none ∧ granules .s8 1 1 ≤ 1 ∧
    ((cmdLab (cmd0 (eop (.tZero fe0) 0x10001)) [(4, tile0 tReady 0)]).slotTile (cmd0 (eop (.tZero fe0))) 4).isSome = true ∧
    begins (cmd0 (eop (.tZero fe0) 0x10001)) [(4, tile0 tReady 0)] = true := by decide +kernel
def trit0 (st : Nat) (f : TFmt) : Tile := ⟨st, f, 1, 5, 0, 1, 0, false, 8, false, []⟩
def mmCmd (clr : Bool) : Cmd := { cmd0 (eop (.mmTern false clr (fe .trit))) with taken := [(4, trit0 tReady .s8), (5, trit0 tReady .trit)] }
theorem wit_Engines_tern : (mmCmd true).tile? 4 = some (trit0 tReady .s8) ∧ (mmCmd true).tile? 5 = some (trit0 tReady .trit) ∧
    mmReason (mmCmd true).op (trit0 tReady .s8) (trit0 tReady .trit) AccKind.none = none ∧ begins (mmCmd true) [] = true ∧ begins (mmCmd false) [] = true := by decide +kernel
def runs (c : Cmd) : Cmd := { c with running := true }
theorem wit_Engines_complete : ((cmdLab (runs (cmd0 (eop (.tStat fe0)))) []).completable 50).isSome = true ∧ tileFills (eop (.tStat fe0)) = none ∧
    (cmdLab (runs (cmd0 (eop (.tStat fe0)))) []).collOf 50 = none ∧ goes .engineCommandComplete (cmdLab (runs (cmd0 (eop (.tStat fe0)))) []) = true ∧
    goes .engineCommandComplete (cmdLab { runs (cmd0 (eop (.tStat fe0))) with fault := some (.tilestate, 0, 4) } []) = true := by decide +kernel

/-! The fabric -/

def peerLab : State := locked (setH [(38, 1)] gangTk) 5000
theorem wit_Fabric_none : dataB.carriesData = true ∧ peerLab.gangTask 9 = none ∧ goes (.remoteWriteServe 9 0 [1] true) peerLab = true ∧
    goes (.remoteReadServe 9 0 8) peerLab = true := by decide +kernel
theorem wit_Fabric_range : (peerLab.gangTask 7).isSome = true ∧ (peerLab.rangeFault (setH [(38, 1)] gangTk) true 0xFFC 8).isSome = true ∧
    goes (.remoteWriteServe 7 0xFFC (leBytes 8 1) false) peerLab = true ∧ goes (.remoteReadServe 7 0xFFC 8) peerLab = true := by decide +kernel
theorem wit_Fabric_sound : peerLab.rangeFault (setH [(38, 1)] gangTk) true 0xFF8 8 = none ∧ peerLab.vaQuiet 0 0xFF8 8 = true ∧ peerLab.pieces 0 0xFF8 2 8 = [(0xFF8, 8)] ∧
    goes (.remoteWriteServe 7 0xFF8 (leBytes 8 1) false) peerLab = true ∧ goes (.remoteReadServe 7 0xFF8 8) peerLab = true := by decide +kernel
def rrdOp : WobOp := eop (.rrd fe0)
def remLab : State := { cmdLab (runs (cmd0 rrdOp)) [] with
  clock := ⟨1000, 0, 100000000⟩, eng := { Eng.reset with cmds := [runs (cmd0 rrdOp)], remote := [⟨rrdOp, 0⟩] } }
theorem wit_Fabric_timeout : remLab.remoteDone (runs (cmd0 rrdOp)) = false ∧ goes .remoteRequestTimeout remLab = true := by decide +kernel
def peer0 (n : Nat) : CollPeer := ⟨3, 1, 1, 0, .f32, n, 2, 0, [5, 6], [], 7⟩
def coll0 : Coll := ⟨eop (.collAllredSum fe0), 3, 1, 0, 8, 0, [5, 6], 0, 0, [], 0, none, 7⟩
def collLab : State := { withBoard (cmdLab (runs (cmd0 coll0.op)) []) dataB with
  clock := ⟨1000, 0, 100000000⟩, eng := { Eng.reset with cmds := [runs (cmd0 coll0.op)], colls := [coll0] } }
theorem wit_Fabric_colls : coll0.agrees (peer0 9) = false ∧ goes (.collEntry (peer0 8)) collLab = true ∧ goes (.collEntry (peer0 9)) collLab = true ∧
    goes (.collEntry { peer0 8 with cid := 4 }) collLab = true ∧ collLab.collWhole coll0 = false ∧ goes (.collTimeout 3) collLab = true := by decide +kernel

/-! Faults -/

def frec : FaultRec := ⟨.trap, 0, 0, .notTied, 0, 0, 0, 0, 0, 0, 0, 8, 0, 0, 0, [], [], 0, 0⟩
def faulty : Task := { tk with reports := [(frec, 1000)] }
theorem wit_Faults_report : (tl faulty).nextReport faulty 0 = some frec ∧ [faulty, { faulty with fault := some frec, nfault := 0xFFFF }, { faulty with ending := true },
    { faulty with st := .killing }].all (fun k => goes (.faultReportArrival 1 0) (tl k)) = true := by decide +kernel
def freezing : Task := { tk with fault := some frec, freezing := true }
theorem wit_Faults_freeze : goes .faultFreezeComplete (tl freezing) = true ∧ (setH [(31, 4)] freezing).fpolHold = true ∧
    goes .faultFreezeComplete (tl (setH [(31, 4)] freezing)) = true ∧
    goes .faultFreezeComplete { tl freezing with host := { HostSide.reset with fns := [(0, { HostFn.zero with regs := [(0x280, 1)] })] } } = true := by decide +kernel

/-! Debugging -/

def dbgTk : Task := setH [(31, 8)] tk
def dbgLab (k : Task) (att : Option Nat) (regs : List (Nat × Word)) : State :=
  { tl k with host := { HostSide.reset with fns := [(0, { HostFn.zero with regs := regs })] }
              obs := { Obs.reset with dbg := { Dbg.none with attached := att } } }
theorem wit_Debug_attach : (dbgLab dbgTk none [(0x308, 2)]).attachable dbgTk = true ∧ ((dbgLab dbgTk none [(0x308, 2)]).reg 0 0x308).getLsbD 1 = true ∧
    goes .debugAttach (dbgLab dbgTk none [(0x308, 2)]) = true ∧ goes .debugAttach (dbgLab { dbgTk with st := .held } none [(0x308, 2)]) = true := by decide +kernel
theorem wit_Debug_refused : (dbgLab dbgTk none []).reach 0 = .served ∧ ((dbgLab dbgTk none [(0x318, 2)]).reg 0 0x318).getLsbD 1 = true ∧
    [Instr.dbgHalt, .dbgResume, .dbgStep (-1), .dbgEnd, .dbgKill, .dbgDump].all (fun i => goes i (dbgLab dbgTk none []) && goes i (dbgLab dbgTk none [(0x318, 2)])) = true := by
  decide +kernel
def heldTk : Task := { dbgTk with st := .held, fault := some frec }
theorem wit_Debug_commands : (dbgLab heldTk (some 1) []).obs.dbg.attached = some 1 ∧ (dbgLab heldTk (some 1) []).placement? 1 (bits 0 9 4) = some pl0 ∧
    pl0.thread? (bits 0 29 16) = some th0 ∧ bits ((dbgLab heldTk (some 1) [(0x318, 0x5000C)]).reg 0 0x318) 19 16 = 5 ∧
    [Instr.dbgHalt, .dbgResume, .dbgStep 0, .dbgEnd, .dbgKill].all (fun i => goes i (dbgLab dbgTk (some 1) []) && goes i (dbgLab heldTk (some 1) [(0x318, 0x1000C)]) &&
      goes i (dbgLab heldTk (some 1) [(0x318, 0x5000C)])) = true := by decide +kernel
theorem wit_Debug_dump : goes .dbgDump (dbgLab dbgTk (some 1) []) = true ∧
    (withMem (dbgLab heldTk (some 1) []) Mem.reset).hbmBacked 0 = false ∧ (withMem (dbgLab heldTk (some 1) []) Mem.reset).dumpQuiet = true ∧
    goes .dbgDump (withMem (dbgLab heldTk (some 1) []) Mem.reset) = true := by decide +kernel

/-! Traces -/

def rec0 : TrRec := ⟨5, 7, 0, 0, 0, 0, 0, 0, 0, 0, 1, 0, 8, []⟩
def trLab (regs : List (Nat × Word)) : State :=
  { on (dbgLab tk none regs) 0 with fab := { lab.fab with trFifo := [(1, [rec0])] } }
theorem wit_Trace_merge : (trLab []).oldestTrace 0 = some (1, rec0) ∧ (trLab []).traceRing 0 = none ∧ goes .traceMerge (trLab []) = true ∧
    (trLab [(0x290, 0x100)]).traceRing 0 = some (0, 2048) ∧ (trLab [(0x290, 0x100)]).ringQuiet 0 1 = true ∧ (trLab [(0x290, 0x100)]).lostDue 0 = none ∧ goes .traceMerge (trLab [(0x290, 0x100)]) = true ∧
    (trLab [(0x290, 0x100), (0x298, 2048)]).traceRoom 0 2048 < rec0.size ∧ goes .traceMerge (trLab [(0x290, 0x100), (0x298, 2048)]) = true := by decide +kernel
def lostLab (l : List (Nat × Word)) : State := { trLab l with fab := { lab.fab with trFifo := [(1, [rec0])], trLost := [(0, 3)] } }
theorem wit_Trace_lost : (lostLab [(0x290, 0x100)]).lostDue 0 = some 0 ∧ (lostLab [(0x290, 0x100)]).ringQuiet 0 0 = true ∧ goes .traceMerge (lostLab [(0x290, 0x100)]) = true ∧
    (lostLab []).lostDue 0 = none ∧ goes .traceMerge (lostLab []) = true := by decide +kernel
theorem wit_Trace_gate_ring : (on (trLab [(0x290, 0x100)]) 2).ringQuiet 0 4 = true ∧
    goes .clusterPowerGate { on (trLab [(0x290, 0x100)]) 2 with clock := ⟨0, 4005, 0⟩, fab := { lab.fab with trFifo := [(2, [{ rec0 with pf := 16 }])] } } = true := by
  decide +kernel
theorem wit_Trace_gate : goes .clusterPowerGate (on lab 511) = true ∧
    goes .clusterPowerGate { on lab 2 with clock := ⟨0, 4005, 0⟩, fab := { lab.fab with trFifo := [(2, [{ rec0 with pf := 16 }])] } } = true := by decide +kernel

/-! The machine as a whole -/

theorem wit_StepRunsDecoded_event : step { State.reset with agenda := [⟨0, 5, [], [], .event .auxColdStart 0⟩] } =
    exec .auxColdStart { (State.reset.passTime ⟨0, 5, [], [], .event .auxColdStart 0⟩) with agenda := [], subject := 0, focus := none } := rfl
/-- A loaded record is chosen by its element, whose queue has room, and the step goes on. -/
def loadedAdd : State := State.reset.withFetchWord 96 (0x2040500000000001 + 2 ^ 64 * 0x8C00)
def chosen? (s : State) (room : Bool := true) : Bool := match s.agenda with
  | b :: rest =>
    let n : State := { (s.passTime b) with agenda := rest, focus := none }
    match n.placement? 1 0 with
    | some p => match (n.fret 8).choose p 8 0 0 n.clock.cycle with
      | some x => match (tget (n.fret 8).slots x.slot).map decode with
        | some (.ok (i, _)) => !n.frozenNow && !n.board.fatal && (n.elem 8 0).lastTurn ≠ some n.clock.cycle && n.hasRoom 1 8 0 i == room
        | _ => false
      | none => false
    | none => false
  | [] => false
theorem wit_StepRunsDecoded_fire : chosen? loadedAdd = true ∧ (match step loadedAdd with | .next _ => true | _ => false) = true := by decide +kernel
/-- The same element, its queue full of finished results. -/
def stalledAdd : State := withFret loadedAdd { loadedAdd.fret 8 with
  elems := tput (loadedAdd.fret 8).elems 0 { (loadedAdd.fret 8).elem 0 with outQ := List.replicate 8 (.chain (op nopI) 0) } }
theorem wit_StepRunsDecoded_stall : chosen? stalledAdd false = true ∧ (match step stalledAdd with | .next _ => true | _ => false) = true := by decide +kernel
theorem wit_invariants : Memory.wf State.reset.mem.hbm = true ∧ Memory.wf State.reset.mem.hostMem = true ∧ State.reset.board.phase ∈ [0, 1, 2, 3, 4, 7, 8, 15] ∧
    (match step loadedAdd with | .next _ => true | _ => false) = true := by decide +kernel

/-! ### States that meet the hypotheses of further clauses -/

theorem wit_ResetEvents_again : hotB.tripAt = some 5 ∧ hotB.trip = true ∧ hotB.hot = false ∧ goes .pwrEnAssert (bd hotB 60000000005) = true ∧
    { cooled with dieTemp := [(0, 881)] }.hot = true ∧ goes .cooldownExpiry (bd { cooled with dieTemp := [(0, 881)] } 60000000005) = true := by decide +kernel
/-- A training graph's `st.io` at an offset of the last window, in phase 4. -/
def io4 (off : Nat) (v : Word) (p : Phy) : State :=
  { withBoard (heldLab (op (.stIo fm0) (BitVec.ofNat 64 (0xFC0000000 + 0x1000 * 383 + off)) v)) (okB 4) with mem := { lab.mem with phy := [(383, p)] } }
def ioIssued (off : Nat) (v : Word) (p : Phy) (i : Instr) : Bool :=
  decide ((io4 off v p).ioStore (0xFC0000000 + 0x1000 * 383 + off) v = some (1, 0, 0)) && held (io4 off v p) && goes i (io4 off v p)
theorem wit_TrainingWindow_issued : ioIssued 0 0x100 Phy.zero (.hphyProbeStart 383 0x100) = true ∧ ioIssued 0 0x40000 Phy.zero (.hphySetChst 383 0x40000) = true ∧
    ioIssued 0 0x100 { Phy.zero with busy := true } (.hphyProbeStart 383 0x100) = true ∧ ioIssued 0 0 good (.hphySetChst 383 0) = true ∧
    ioIssued 0x28 0x1FF00000001 Phy.zero (.hphyPatternTestStart 383 0x1FF00000001) = true := by decide +kernel
theorem wit_HostMemoryEvents_modify : (on cxlLab 1).mayModify 0x7FFC 4 = true ∧ goes (.cxlMemAccess true 0x7FFC [1, 2, 3, 4]) (on cxlLab 1) = true := by decide +kernel
def heldSource : State := withMem (migLab 0) { (migLab 0).mem with l2 := [(256, { lin with count := 1, owner := 1 })] }
theorem wit_Migration_deferred : heldSource.migBad (heldSource.readBytes 0x6000 64) = false ∧ heldSource.mem.anyCounted (linesOf 0x8000 4096) = true ∧
    goes .migrationRecordConsume heldSource = true := by decide +kernel

/-! Admission, placement and the end of a task -/

/-- A VF that may hold one fret: its task 2 runs on it, and its task 1, of a higher priority, waits. -/
def rival : Task := { tk with num := 2, fn := 1, accept := 1 }
def wanting (tokens : Nat) : Task := { waits with fn := 1, prio := 7, tokens := tokens }
def victimLab (r : Task) (tokens : Nat) : State := { on lab 1 with
  sched := ⟨[(1, wanting tokens), (2, r)], 2, 2, true⟩
  host := { HostSide.reset with fns := [(0, { HostFn.zero with regs := [(0x2010, 0x70001)] })] }
  fab := { lab.fab with placements := [(128, { pl0 with task := 2 })], frets := [(8, { fr0 with owner := some (128, 0) })] } }
theorem wit_AdmissionEvents_victim : [rival, { setH [(31, 2)] rival with slow := true }].all (fun r => [0, 9].all (fun n =>
      let c := (victimLab r n).takeCap 1
      decide (c.vfFrets 1 = 1) && decide ((victimLab r n).fretwaitHead = some (wanting n)) && decide (c.mapTask (wanting n) ((victimLab r n).freeFor 1) [] = none) &&
      decide (c.effPrio r < c.effPrio (wanting n)) && decide ((victimLab r n).coming 1 = ([], [])) && goes .fretwaitService (victimLab r n))) = true := by decide +kernel
def engFret : Fret := { fr0 with slots := [(0, leBytes 8 (0xC0 * 2 ^ 56))] }
theorem wit_PlacementEvents_engine : engFret.hasEngine = true ∧ (withFret lab engFret).mayMove tk pl0 8 16 = true ∧ goes (.fretMove 8 (.fret 16)) (withFret lab engFret) = true := by
  decide +kernel
/-- A task that ends, with its completion record at 0x1000, its completion line at 0x2000, and an interrupt. -/
def reported (st : TStatus) : Task := setH [(38, 1), (57, 0x10), (65, 0x20)] { ends with intr := true, status := st, fault := some frec }
def masked (s : State) : State := { s with host := { HostSide.reset with fns := [(0, { HostFn.zero with vecs := [(0, ⟨0, 0, true⟩)] })] } }
theorem wit_TaskEndEvents_record : [TStatus.done, .fault, .killed, .rejected].all (fun st =>
      let s := withPl (tl (reported st)) donePl
      s.endable (reported st) && s.mayComplete (reported st) && decide ((reported st).fld 56 8 = 0x1000) && decide (s.physOf 0 0x1000 = some (0x1000, true)) &&
      decide (s.physOf 0 0x2000 = some (0x2000, true)) && goes .taskEnd s) = true := by decide +kernel
theorem wit_TaskEndEvents_written : let k := setH [(38, 1), (135, 0x10)] (saves true)
    (saveLab.saveGoesOn k) = true ∧ saveLab.vaQuiet k.space k.saveBase ((saveLab.imageOf k).bytes k).length = true ∧ saveLab.physOf k.space k.saveBase = some (0, true) := by
  decide +kernel
theorem wit_SliceAndGang_freeze : goes (.gangHoldReceive 7 5199) (locked gangTk 5000) = true ∧ (locked gangTk 5000).task? 1 = some gangTk ∧
    goes (.gangFreezeInstant 7) { locked gangTk 5000 with obs := gangObs [(7, 5000)] [] [] } = true ∧
    goes (.gangResumeInstant 7) { locked { gangTk with st := .held } 5000 with obs := gangObs [] [(7, 5000)] [(7, ())] } = true := by decide +kernel

/-! Tokens, waves, reads -/

theorem wit_Tokens_frozen : (withBoard lab { upB with duty := 16 }).frozenNow = true :=
  Bool.and_eq_true_iff.mpr ⟨rfl, decide_eq_true (Nat.mod_lt _ (by decide))⟩
/-- An element of the fret whose 64 entries are those given. -/
def fullNet (n : Nat) (e : Nat → Entry) (spilled : Nat) : State := netLab tok0 |> fun s => { s with
  fab := { s.fab with frets := [(8, { fr0 with elems := [(0, { Elem.empty with entries := (List.range n).map e }), (1, { Elem.empty with
    entries := List.replicate spilled ⟨0, 0, 1, 0, false, 0, 0, 0, true⟩ })] })] } }
def ent (k : Nat) : Entry := ⟨1, 0, 0, k + 1, false, 0, 0, k, false⟩
theorem wit_Tokens_store : tok0.gen = ((fullNet 63 ent 0).fret 8).gen ∧ goes .tokenArrival (fullNet 63 ent 0) = true ∧
    goes .tokenArrival (fullNet 64 ent 0) = true ∧ (fullNet 64 ent 0).partition 1 ≤ ((fullNet 64 ent 3072).fret 8).spilled ∧ goes .tokenArrival (fullNet 64 ent 3072) = true := by
  decide +kernel
theorem wit_Spawns_returned : goes (.tagUnitSpawn 1 0) (withPl lab { pl0 with spawns := [sp0], fresh := 16384, freeTags := [5, 6] }) = true := by decide +kernel
/-- An access whose address is not in a lease, one of `ld.io` in the private range, and a load that enters. -/
theorem wit_Waves_addresses : (withTask (opLab pl0 (msg ldI)) leaseTk).physOf 0 0x180 = some (0x180, true) ∧ leaseTk.leased 0x180 false = true ∧
    goes .chainOperationArrival (withTask (opLab pl0 (msg ldI 0x180)) leaseTk) = true ∧ tk.leased 0x180 false = false ∧ th0.oldest = (msg ldI).op.wave ∧
    goes .chainOperationArrival (opLab pl0 (msg ldI 0x180)) = true ∧ 0xFF0000000 ≤ (msg (.ldIo (fm .n64)) 0xFF0000000).op.ea ∧
    goes .chainOperationArrival (opLab pl0 (msg (.ldIo (fm .n64)) 0xFF0000000)) = true := by decide +kernel
def l1Line (st : L1St) (host : Bool) : L1Line := ⟨1, if host then hostLine0 else 3, st, bytesLine [], 0, 0, host⟩
def hostOp (i : Instr) (st : WState := .committed) : WobOp := { op i 0x180 1 1 st with pa := 2 ^ 51, host := true }
theorem wit_Reads_copy : (rdLab (op ldI 0x180 0 0 .entered) [] { lab.mem with l1 := [l1Line .e false] }).mem.l1At 1 3 = some (l1Line .e false) ∧
    (pl0.waysIn 1).any (fun f => f = (l1Line .e false).way / 2) = true ∧ reads (rdLab (op ldI 0x180 0 0 .entered) [] { lab.mem with l1 := [l1Line .e false] }) false = true := by
  decide +kernel
theorem wit_Reads_host : lab.usesHlc 0 = false ∧ [lab.mem, { lab.mem with hostPoison := [(hostLine0, ())] }].all (fun m =>
    reads (rdLab (hostOp ldI .entered) [] m) false) = true ∧ reads (withBoard (rdLab (hostOp ldI .entered) []) lossB) false = true := by decide +kernel

/-! Held operations -/

theorem wit_Held_copy : held (withMem (heldLab (op (.st fm0) 0x180 1)) { lab.mem with l1 := [l1Line .e false] }) = true ∧
    (withMem (heldLab (op (.st fm0) 0x180 1)) { lab.mem with l1 := [l1Line .e false] }).storeAtHome 3 = false := by decide +kernel
theorem wit_Held_host : [Instr.st fm0, .stc fm0, .flush fm0, .waitl fm0, .atomAdd fm0].all (fun i => held (heldLab { hostOp i with aux := 0 }) &&
    held (withBoard (heldLab { hostOp i with aux := 0 }) cxlB)) = true ∧ [Instr.st fm0, .waitl fm0, .atomAdd fm0].all (fun i => held (withBoard (heldLab (hostOp i)) lossB) &&
    held (withMem (heldLab (hostOp i)) { lab.mem with hostPoison := [(hostLine0, ())] })) = true ∧
    held { heldLab (hostOp (.atomAdd fm0)) with host := { HostSide.reset with fns := [(0, { HostFn.zero with atomicOp := true })] } } = true := by decide +kernel
theorem wit_Held_system2 : held (heldLab (op (.stIo fm0) 0xFC0000000 0x100)) = true ∧ inPhy 0xFC0000000 = true ∧ held (heldLab (op (.stc fm0) 0x180 1 0)) = true := by decide +kernel
theorem wit_Held_launch : (heldLab (op (.launch fe0) 0x1000)).firstBadVa leaseTk false 0x1000 256 = some 0x1000 ∧ held (heldLab (op (.launch fe0) 0x1000)) = true ∧
    held (heldLab (op (.launch fe0) 0x80)) = true ∧ (heldLab (op (.launch fe0) 0x100)).firstBadVa leaseTk false 0x100 256 = none ∧
    (heldLab (op (.launch fe0) 0x100)).mayAccept 0 = true ∧ held (heldLab (op (.launch fe0) 0x100)) = true := by decide +kernel
/-- What a queue's record and what a reconfiguration's descriptor at 0x100 come to, and that the issue goes on. -/
def taken (s : State) : Nat := match s.takeRecord 0 0 (s.readBytes 0x100 128) with
  | .launched _ _ => 0
  | .noRoom => 1
  | .hdrAddr => 2
def dispAt (l : List (Nat × Byte)) : State := heldLab (op (.launchDisp fe0) 0x100) |> fun s => withMem s { s.mem with hbm := l }
theorem wit_Held_dispatch : taken (dispAt []) = 0 ∧ held (dispAt []) = true ∧ taken (dispAt [(0x104, 1)]) = 2 ∧ held (dispAt [(0x104, 1)]) = true := by decide +kernel
def outcome (s : State) (a : Nat) : Nat := match s.recfgOutcome leaseTk a with
  | .fault _ _ => 0
  | .refused _ => 1
  | .waits => 2
  | .rejected _ _ _ => 3
  | .go _ _ _ _ => 4
def descAt (l : List (Nat × Byte)) : State := heldLab (op (.launchRecfg fe0) 0x180) |> fun s => withMem s { s.mem with hbm := l }
theorem wit_Held_recfg : outcome (descAt []) 0x1000 = 0 ∧ outcome (descAt []) 0x180 = 1 ∧ outcome (descAt [(0x189, 0x10), (0x194, 0x01)]) 0x180 = 3 ∧
    held (descAt []) = true ∧ held (descAt [(0x189, 0x10), (0x194, 0x01)]) = true := by decide +kernel

/-! Engines while they run, and the fabric -/

def ready (f : TFmt) (r c : Nat) : Tile := ⟨tReady, f, r, c, 0, 1, 0, false, 8, false, []⟩
def opCmd (i : Instr) (l r a : Word) (ts : List (Nat × Tile)) : Cmd := { cmd0 (op i l r a .issued) with taken := ts }
theorem wit_Matrix_products : begins (opCmd (.mmMx4 false true (fe .mx4)) 0 0 0 [(4, ready .mx4 1 32), (5, ready .mx4 1 32)]) [] = true ∧
    begins (opCmd (.mmD true (fe .bf16)) 0 0 0 [(4, ready .bf16 1 16), (5, ready .bf16 1 16)]) [] = true ∧
    begins { opCmd (.mmD false (fe .e4m3)) 0 0 0 [] with toRead := [4, 5] } [(4, ready .e4m3 1 16), (5, ready .e4m3 1 16)] = true := by decide +kernel
def drD : DrainF := ⟨.bank0, false, 0, false, .none⟩
theorem wit_Matrix_drains : begins (opCmd (.drain drD { fe .s8 with tc := 6 }) 0x10001 0 0 []) [(6, ready .s8 1 1)] = true ∧
    begins (opCmd (.drain { drD with rowsc := true, gsel := .g1 } { fe .s8 with tc := 6 }) 0x10001 0 0 [(4, ready .f32 1 1), (5, ready .f32 1 1)]) [(6, ready .s8 1 1)] = true ∧
    begins (opCmd (.drainM drD (fe .s8)) 0x100 0x10001 0 []) [] = true := by decide +kernel
theorem wit_Engines_fills : begins (opCmd (.tTr fe0) 0 0 0 [(5, ready .s8 2 2)]) [(4, ready .s8 1 1)] = true ∧ begins (opCmd (.tTr fe0) 0 0 0 [(5, ready .s8 2 2)]) [] = true ∧
    ((cmdLab (opCmd (.tLd fe0) 0x100 0x10001 0 []) [(4, ready .s8 1 1)]) |> fun s => (withTask s leaseTk).rowFault leaseTk (opCmd (.tLd fe0) 0x100 0x10001 0 [])) = none ∧
    goes .engineCommandStart (withTask (cmdLab (opCmd (.tLd fe0) 0x100 0x10001 0 []) [(4, ready .s8 1 1)]) leaseTk |> fun s => on s 50) = true := by decide +kernel
/-- A command that runs, with its tile, over memory whose line 2 stands in the L2. -/
def streams (i : Instr) (l r a : Word) (total : Nat) (ts : List (Nat × Tile)) : State :=
  let c : Cmd := { runs (opCmd i l r a []) with total := total, desc := leBytes 8 0x100 ++ leBytes 8 0x200 ++ leBytes 4 1 ++ leBytes 4 1 ++ leBytes 4 1 ++ leBytes 36 0 }
  withMem (withTask (cmdLab c ts) leaseTk) { lab.mem with l2 := [(2, lin)] }
/-- Whether the command's turn moves its progress on. -/
def moves (s : State) : Bool := match s.eng.cmds, (s.runCmd 50).cmd? 50 with
  | [c], some c2 => c.running && decide (c.progress < c.total) && decide (c.busyEnd ≤ s.clock.cycle) && decide (c.progress < c2.progress) && c2.fault.isNone
  | _, _ => false
theorem wit_Streams : moves (streams (.tLd fe0) 0x100 0x10001 0 1 [(4, { ready .s8 1 1 with st := tFilling })]) = true ∧
    moves (streams (.tSt fe0) 0x100 0 0 1 [(4, { ready .s8 1 1 with st := tDraining })]) = true ∧ moves (streams (.drainM drD fe0) 0x100 0x10001 0 1 []) = true ∧
    moves (streams (.copy fe0) 0x100 0 0 1 []) = true ∧ moves (streams (.rwr fe0) 0x100 0x200 0 1 []) = true ∧ moves (streams (.rrd fe0) 0x200 0x100 0 1 []) = true := by
  decide +kernel
def nmcAt (i : Instr) : State := streams i 0x100 0x200 0x3F800000 4 [] |> fun s => { s with eng := { s.eng with cmds := s.eng.cmds.map (fun c => { c with op := { c.op with pa := 0x100, ea := 0x200 } }) } }
theorem wit_Streams_near : [Instr.nmcAxpy fe0, .nmcSgd fe0, .nmcScal fe0, .nmcFadd fe0, .nmcFill fe0, .nmcSum fe0].all (fun i => moves (nmcAt i)) = true ∧
    (withMem (nmcAt (.nmcScal fe0)) { lab.mem with poison := [(2, ())] }).poisoned 2 = true ∧ moves (withMem (nmcAt (.nmcScal fe0)) { lab.mem with poison := [(2, ())] }) = true := by
  decide +kernel

/-! Faults and the debug block -/

def ringOn (s : State) : State := { s with host := { HostSide.reset with fns := [(0, { HostFn.zero with regs := [(0x280, 1)] })] } }
theorem wit_Faults_ring : (ringOn (tl freezing)).deviceBacked 0 0 = true ∧ (ringOn (tl freezing)).fnAddr 0 0 = some 0 ∧ goes .faultFreezeComplete (ringOn (tl freezing)) = true := by
  decide +kernel
def dumpLab : State := { dbgLab heldTk (some 1) [] with mem := lab.mem }
theorem wit_Debug_image : dumpLab.hbmBacked dumpLab.dumpAt = true ∧ dumpLab.dumpAt + ((dumpLab.imageOf heldTk).bytes heldTk).length ≤ hbmSize ∧ dumpLab.dumpQuiet = true ∧
    goes .dbgDump dumpLab = true := by decide +kernel
def stepLab : State := { dbgLab dbgTk (some 1) [(0x318, 2)] with obs := { Obs.reset with dbg := { Dbg.none with attached := some 1, stepping := some (0, 0, 0) } } }
theorem wit_Debug_halt : bits (stepLab.reg 0 0x308) 2 2 = 0 ∧ goes .dbgHalt stepLab = true ∧ [TState.loading, .saving, .saved].all (fun st =>
    goes .dbgHalt (dbgLab { dbgTk with st := st } (some 1) [])) = true := by decide +kernel

end Sys2Proof.Tests
end

section
/-!
PROOFS. The integer and dataflow control forms (R277, R279, R285 to R300): the result word of each form lane by lane, and the obligations
O1 to O7 and O9 assembled from these facts.
-/
namespace Sys2Proof.Machine

/-! ### Forms stated through an equal result -/

theorem wordForm_of_eq {i : Instr} {f : FmtA} {x : Nat} {h g : Word → Word → Word → Word}
    (hi : ∀ s, exec i s = fireVal f x s h) (heq : ∀ L R A, h L R A = g L R A) : WordForm i f x g :=
  produces_val hi fun _ _ => ⟨rfl, heq _ _ _⟩

theorem laneInts_of_eq {i : Instr} {f : FmtA} {x : Nat} {h g : Word → Word → Word → Nat → Int}
    (hi : ∀ s, exec i s = fireVal f x s (fun l r a => mapInts f.ty (h l r a)))
    (heq : ∀ L R A j, h L R A j = g L R A j) : LaneInts i f x g :=
  produces_val hi fun _ _ => ⟨rfl, fun j hj => by rw [laneOf_mapInts _ _ _ hj, heq]⟩

/-- A lane moved into a lane of the same width fits there. -/
theorem laneOf_mod (w : Nat) (x : Word) (i : Nat) : laneOf w x i % 2 ^ w = laneOf w x i :=
  Nat.mod_eq_of_lt (laneOf_lt w x i)

/-! ### Sums with carry, products, quotients (R286 to R289) -/

theorem aluAddc_sum (L R A : Word) :
    aluAddc false L R A = BitVec.ofNat 64 ((L.toNat + R.toNat + A.toNat % 2) % 2 ^ 64) :=
  BitVec.eq_of_toNat_eq (by simp [aluAddc])

theorem aluSubb_difference (L R A : Word) :
    aluSubb false L R A = BitVec.ofInt 64 ((L.toNat : Int) - R.toNat - ((A.toNat % 2 : Nat) : Int)) := by
  apply BitVec.eq_of_toNat_eq
  simp only [aluSubb, wrapInt, BitVec.toNat_ofNat, BitVec.toNat_ofInt, Bool.false_eq_true, if_false]
  omega

theorem aluSubb_borrow (L R A : Word) :
    aluSubb true L R A = if L.toNat < R.toNat + A.toNat % 2 then 1 else 0 := by
  simp only [aluSubb, if_true]
  exact if_congr (by omega) rfl rfl

/-- A product of two lanes fits in twice their width. -/
theorem laneVal_mul_range (t : ETy) (x y : Word) (i j : Nat) :
    intMin t.signed (2 * t.width) ≤ laneVal t x i * laneVal t y j ∧
      laneVal t x i * laneVal t y j ≤ intMax t.signed (2 * t.width) := by
  have hx := laneVal_range t x i
  have hy := laneVal_range t y j
  obtain ⟨n, hn⟩ := Nat.exists_eq_succ_of_ne_zero (width_pos t).ne'
  rw [hn] at hx hy ⊢
  exact mul_range t.signed n _ _ hx hy

/-- Quotient and remainder of a lane, with the edge results of R217 for a zero divisor and for MIN divided by -1. -/
theorem divLane_eq (t : ETy) (x y : Int) :
    divLane t x y =
      (if y = 0 then (if t.signed then -1 else intMax false t.width)
        else if t.signed ∧ x = intMin true t.width ∧ y = -1 then intMin true t.width else x.tdiv y,
      if y = 0 then x
        else if t.signed ∧ x = intMin true t.width ∧ y = -1 then 0 else x - x.tdiv y * y) := by
  by_cases hzero : y = 0
  · simp [divLane, hzero]
  by_cases hedge : t.signed ∧ x = intMin true t.width ∧ y = -1
  · simp [divLane, hedge]
  · simp [divLane, hzero, hedge, and_assoc, Int.mul_comm]

/-- Settles O1: the exact lanes of R286 are clamped or wrapped by `satLanes_of`, and the words of R287 are sums and differences. -/
theorem saturatingAndCarryForms : Obligations.SaturatingAndCarryForms := by
  refine ⟨fun f => ?_, fun f => ?_⟩
  · have hw : f.ty.width * f.ty.lanes ≤ 64 := (width_mul_lanes f.ty).le
    refine ⟨satLanes_of _ _ _ hw (exec_add · f), satLanes_of _ _ _ hw (exec_sub · f), satLanes_of _ _ _ hw (exec_neg · f),
      satLanes_of _ _ _ hw fun s => ?_⟩
    simp only [exec_abs, execAbs, aluSat, Int.natCast_natAbs]
  · exact ⟨wordForm_of_eq (exec_addc · false f) aluAddc_sum, wordForm_of _ (exec_addc · true f),
      wordForm_of_eq (exec_subb · false f) aluSubb_difference, wordForm_of_eq (exec_subb · true f) aluSubb_borrow⟩

/-- Settles O2: products and quotients are exact lane integers, and a widened product fits by `laneVal_mul_range`. -/
theorem multiplyAndDivideForms : Obligations.MultiplyAndDivideForms := by
  refine ⟨fun f => ⟨laneInts_of _ (exec_mul · f), laneInts_of _ (exec_mulh · f), laneInts_of _ (exec_mad · f), fun odd => ?_⟩,
    fun f => ⟨laneInts_of_eq (exec_div · f) fun _ _ _ _ => congrArg Prod.fst (divLane_eq ..),
      laneInts_of_eq (exec_rem · f) fun _ _ _ _ => congrArg Prod.snd (divLane_eq ..)⟩⟩
  refine produces_val (exec_mulw · odd f) fun s c => ⟨rfl, fun j hj => ⟨?_, laneVal_mul_range ..⟩⟩
  rw [aluMulw, laneOf_mapLanes _ _ _ _ hj (half_lanes f.ty), wrapInt_mod]

/-! ### Averages and absolute differences (R290) -/

/-- The rounded average of two lanes lies in the lanes' own range. -/
theorem laneVal_avg_range (t : ETy) (x y : Word) (i : Nat) :
    intMin t.signed t.width ≤ (laneVal t x i + laneVal t y i + 1).fdiv 2 ∧
      (laneVal t x i + laneVal t y i + 1).fdiv 2 ≤ intMax t.signed t.width := by
  have hx := laneVal_range t x i
  have hy := laneVal_range t y i
  rw [Int.fdiv_eq_ediv_of_nonneg _ (by decide)]
  omega

theorem intMax_sub_intMin (sg : Bool) (w : Nat) (hw : 0 < w) : intMax sg w - intMin sg w = 2 ^ w - 1 := by
  obtain ⟨n, rfl⟩ := Nat.exists_eq_succ_of_ne_zero hw.ne'
  cases sg
  · simp [intMax, intMin]
  · simp only [intMax, intMin, if_true, Nat.succ_sub_one, pow_succ]
    ring

theorem laneVal_sub_natAbs_le (t : ETy) (x y : Word) (i : Nat) :
    (laneVal t x i - laneVal t y i).natAbs ≤ 2 ^ t.width - 1 := by
  have hx := laneVal_range t x i
  have hy := laneVal_range t y i
  have hspan := intMax_sub_intMin t.signed t.width (width_pos t)
  have hpow : ((2 ^ t.width : Nat) : Int) = 2 ^ t.width := by push_cast; rfl
  omega

/-- The sum of absolute differences is at most the number of lanes times the largest lane. -/
theorem sad_le (t : ETy) (x y : Word) :
    ((List.range t.lanes).map (fun j => (laneVal t x j - laneVal t y j).natAbs)).sum ≤ t.lanes * (2 ^ t.width - 1) := by
  simpa using sum_le_mul (List.range t.lanes) _ _ (laneVal_sub_natAbs_le t x y)

/-- Settles O3: the selected, averaged and summed lanes, with their ranges from `laneVal_avg_range` and `sad_le`. -/
theorem minMaxAverage : Obligations.MinMaxAverage := fun f => by
  refine ⟨laneInts_of _ (exec_min · f), laneInts_of _ (exec_max · f),
    produces_val (exec_avg · f) fun s c => ⟨rfl, fun j hj => ⟨laneOf_mapInts _ _ _ hj, laneVal_avg_range ..⟩⟩,
    produces_val (exec_sad · f) fun s c => ⟨rfl, ?_, fun hw => ?_, fun hw => ?_⟩⟩
  · rw [aluSad, foldl_add_sum, Nat.zero_add]
  · exact (sad_le _ _ _).trans (by rw [ETy.lanes, hw]; decide)
  · exact (sad_le _ _ _).trans (by rw [ETy.lanes, hw]; decide)

/-! ### Shifts (R293) -/

theorem shlLane_mod (w u k : Nat) : shlLane w u k % 2 ^ w = if k < w then u * 2 ^ k % 2 ^ w else 0 := by
  by_cases hk : k < w <;> simp [shlLane, hk]

theorem shrLane_mod (w u k : Nat) (hu : u < 2 ^ w) : shrLane w u k % 2 ^ w = if k < w then u / 2 ^ k else 0 := by
  by_cases hk : k < w
  · simpa [shrLane, hk] using Nat.mod_eq_of_lt (lt_of_le_of_lt (Nat.div_le_self u (2 ^ k)) hu)
  · simp [shrLane, hk]

theorem aluShrp_zero (L R A : Word) (h : A.toNat % 64 = 0) : aluShrp L R A = R :=
  BitVec.eq_of_toNat_eq (by simp [aluShrp, h]; omega)

/-- Settles O4: bitwise forms bit by bit, shifts lane by lane. -/
theorem logicAndShiftForms : Obligations.LogicAndShiftForms := by
  refine ⟨fun f => ?_, fun f => ?_⟩
  · refine ⟨produces_val (exec_and · f) fun s c => ⟨rfl, fun b hb => BitVec.getLsbD_and⟩,
      produces_val (exec_or · f) fun s c => ⟨rfl, fun b hb => BitVec.getLsbD_or⟩,
      produces_val (exec_xor · f) fun s c => ⟨rfl, fun b hb => BitVec.getLsbD_xor⟩,
      produces_val (exec_andn · f) fun s c => ⟨rfl, fun b hb => ?_⟩,
      produces_val (exec_not · f) fun s c => ⟨rfl, fun b hb => ?_⟩⟩ <;> simp [hb]
  · have hw : f.ty.width * f.ty.lanes ≤ 64 := (width_mul_lanes f.ty).le
    have hpos := width_pos f.ty
    refine ⟨laneNats_of hw _ _ (exec_shl · f) fun L R A j hj => shlLane_mod ..,
      laneNats_of hw _ _ (exec_shr · f) fun L R A j hj => shrLane_mod _ _ _ (laneOf_lt ..),
      produces_val (exec_sar · f) fun s c => ⟨rfl, fun j hj => ?_⟩,
      laneNats_of hw _ _ (exec_rot · f) fun L R A j hj => rotLane_eq _ _ _ hpos (laneOf_lt ..),
      produces_val (exec_shrp · f) fun s c => ⟨rfl, BitVec.toNat_ofNat .., aluShrp_zero _ _ _⟩⟩
    rw [aluShift, laneOf_mapLanes _ _ _ _ hj hw, sarLane_eq _ _ _ hpos (laneOf_lt ..)]

/-! ### Counts and bit fields (R294) -/

/-- Lane j of a counting form is the count of the operand's lane, where the count fits in a lane. -/
theorem laneOf_aluCount (t : ETy) (g : Nat → Nat → Nat) (L : Word) (j : Nat) (hj : j < t.lanes)
    (hfit : ∀ u, g t.width u % 2 ^ t.width = g t.width u) :
    laneOf t.width (aluCount t g L) j = g t.width (laneOf t.width L j) := by
  rw [aluCount, laneOf_mapLanes _ _ _ _ hj (width_mul_lanes t).le, hfit]

theorem clzNat_le (w u : Nat) : clzNat w u ≤ w := by
  unfold clzNat; split <;> omega

theorem getLsbD_ofNat_of_lt (n k : Nat) (h : n < 2 ^ 64) : (BitVec.ofNat 64 n).getLsbD k = n.testBit k := by
  rw [← BitVec.testBit_toNat, BitVec.toNat_ofNat, Nat.mod_eq_of_lt h]

/-- Settles O5: the counts by their specifications over the lane's bits, the bit fields by induction over the mask's bits. -/
theorem countAndBitFieldForms : Obligations.CountAndBitFieldForms := by
  refine ⟨fun f => ?_, fun f => ?_⟩
  · refine ⟨produces_val (exec_clz · f) fun s c => ⟨rfl, fun j hj => ?_⟩,
      produces_val (exec_ctz · f) fun s c => ⟨rfl, fun j hj => ?_⟩,
      produces_val (exec_popc · f) fun s c => ⟨rfl, fun j hj => ?_⟩,
      produces_val (exec_brev · f) fun s c => ⟨rfl, fun j hj => ?_⟩⟩
    · rw [laneOf_aluCount _ _ _ _ hj fun u => count_mod _ _ (clzNat_le ..)]
      exact clzNat_spec _ _ (width_pos _) (laneOf_lt ..)
    · rw [laneOf_aluCount _ _ _ _ hj fun u => count_mod _ _ (ctzNat_le ..)]
      exact ctzNat_spec _ _ (laneOf_lt ..)
    · rw [laneOf_aluCount _ _ _ _ hj fun u => count_mod _ _ (popNat_le ..)]
      exact popNat_spec ..
    · rw [laneOf_aluCount _ _ _ _ hj fun u => Nat.mod_eq_of_lt (revNat_lt ..)]
      exact fun b hb => revNat_spec _ _ _ hb
  · refine ⟨produces_val (exec_bext · f) fun s c => ⟨rfl, fun b hb hm => ?_, fun n hn => ?_⟩,
      produces_val (exec_bdep · f) fun s c => ⟨rfl, fun b hb => ?_⟩⟩
    · rw [getLsbD_ofNat_of_lt _ _ (gatherBits_lt ..)]
      exact (gather_bits 64 (f.left c).toNat (f.right c).toNat).1 b hb hm
    · rw [getLsbD_ofNat_of_lt _ _ (gatherBits_lt ..)]
      exact (gather_bits 64 (f.left c).toNat (f.right c).toNat).2 n hn
    · rw [getLsbD_ofNat_of_lt _ _ (scatterBits_lt ..)]
      exact scatter_bits 64 (f.left c).toNat (f.right c).toNat b hb

/-! ### Lanes moved, packed and unpacked (R296 to R298) -/

theorem two_mul_half_width (t : ETy) : 2 * (t.width / 2) = t.width := by cases t <;> rfl

/-- Lane i of a `mix`: of the left word where i is even, of the right word where it is odd. -/
theorem laneOf_aluMix (t : ETy) (hi : Bool) (L R : Word) (i : Nat) (h : i < t.lanes) :
    laneOf t.width (aluMix t hi L R) i =
      laneOf t.width (if i % 2 = 0 then L else R) ((if hi then t.lanes / 2 else 0) + i / 2) := by
  rw [aluMix, laneOf_mapLanes _ _ _ _ h (width_mul_lanes t).le, laneOf_mod]

/-- The byte that `perm` selects for byte j: selector j of the low 32 bits of R. -/
theorem perm_selector (R : Word) (j : Nat) : (R.extractLsb' (4 * j) 4).toNat = R.toNat / 2 ^ (4 * j) % 16 := by
  rw [BitVec.extractLsb'_toNat, Nat.shiftRight_eq_div_pow]

/-- Settles O6: each result lane is a lane of an operand, narrowed or widened for `pack` and `unpk`. -/
theorem laneMoveAndPackForms : Obligations.LaneMoveAndPackForms := by
  refine ⟨fun f => ⟨?perm, fun hi => ?mix, ?bcast⟩, fun f => ⟨?pack, fun hi => ?unpk⟩⟩
  case perm =>
    refine laneNats_of (by norm_num) _ _ (exec_perm · f) fun L R A j hj => ?_
    simp only [perm_selector]
    split <;> exact laneOf_mod ..
  case mix =>
    refine produces_val (exec_mix · hi f) fun s c => ⟨rfl, fun j hj => ?_⟩
    rw [laneOf_aluMix _ _ _ _ _ (by omega), laneOf_aluMix _ _ _ _ _ (by omega)]
    have hodd : (2 * j + 1) / 2 = j := by omega
    simp [hodd, Nat.add_mod]
  case bcast =>
    exact laneNats_of (width_mul_lanes f.ty).le _ _ (exec_bcast · f) fun L R A j hj => laneOf_mod ..
  case pack =>
    refine satLanes_of _ _ _ ?_ (exec_pack · f)
    rw [← Nat.mul_assoc, Nat.mul_comm (f.ty.width / 2), two_mul_half_width, width_mul_lanes]
  case unpk =>
    refine produces_val (exec_unpk · hi f) fun s c => ⟨rfl, fun j hj => ?_⟩
    rw [aluUnpk, laneOf_mapLanes _ _ _ _ hj (half_lanes f.ty), wrapInt_mod]

/-! ### Comparisons and addresses (R299, R300) -/

theorem maskLane_mod (w : Nat) (b : Bool) : maskLane w b % 2 ^ w = if b then 2 ^ w - 1 else 0 := by
  have hpos : 0 < 2 ^ w := by positivity
  cases b
  · simp [maskLane]
  · exact Nat.mod_eq_of_lt (by simp only [maskLane, if_true]; omega)

/-- `cmp` for the relation p that its condition code stands for. -/
theorem produces_cmp (f : FmtA) (cc : ICmp) (p : Int → Int → Prop) (hp : ∀ x y, ICmp.holds cc x y = true ↔ p x y) :
    Produces (.cmp cc f) f 0 (fun _ c v fl => fl = Flags.none ∧
      ∀ j < f.ty.lanes,
        (p (laneVal f.ty (f.left c) j) (laneVal f.ty (f.right c) j) → laneOf f.ty.width v j = 2 ^ f.ty.width - 1) ∧
        (¬ p (laneVal f.ty (f.left c) j) (laneVal f.ty (f.right c) j) → laneOf f.ty.width v j = 0)) :=
  produces_val (exec_cmp · cc f) fun s c => ⟨rfl, fun j hj => by
    rw [aluCmp, laneOf_mapLanes _ _ _ _ hj (width_mul_lanes f.ty).le, maskLane_mod, ← hp]
    exact ⟨fun h => if_pos h, fun h => if_neg h⟩⟩

theorem aluBtst_eq (L R : Word) : aluBtst L R = if L.getLsbD (R.toNat % 64) then 1 else 0 := by
  rw [aluBtst, ← BitVec.testBit_toNat, Nat.testBit_eq_decide_div_mod_eq]
  rcases Nat.mod_two_eq_zero_or_one (L.toNat / 2 ^ (R.toNat % 64)) with h | h <;> simp [h]

theorem aluLea_eq (scale : BitVec 2) (L R : Word) :
    aluLea scale L R = BitVec.ofNat 64 ((L.toNat + R.toNat * 2 ^ scale.toNat) % 2 ^ 64) :=
  BitVec.eq_of_toNat_eq (by simp [aluLea, BitVec.toNat_add, BitVec.toNat_mul, Nat.add_mod, Nat.mul_mod])

/-- Settles O7: `cmp` once for all six relations, then the bit, the blend and the scaled sum. -/
theorem compareAndAddressForms : Obligations.CompareAndAddressForms := by
  refine ⟨fun f => ⟨?_, ?_, ?_, ?_, ?_, ?_, ?_, ?_⟩, fun scale f => ?_⟩
  case refine_7 => exact wordForm_of_eq (exec_btst · f) fun L R _ => aluBtst_eq L R
  case refine_8 =>
    refine laneNats_of (width_mul_lanes f.ty).le _ _ (exec_blend · f) fun L R A j hj => ?_
    rw [laneOf_mod]; split <;> rfl
  case refine_9 => exact wordForm_of_eq (exec_lea · scale f) fun L R _ => aluLea_eq scale L R
  all_goals exact produces_cmp f _ _ fun x y => decide_eq_true_iff

/-! ### Steering and plain control (R277, R279) -/

theorem mod_two_eq_bit0 (w : Word) : w.toNat % 2 = (w.getLsbD 0).toNat := by
  rw [getLsbD0]
  rcases Nat.mod_two_eq_zero_or_one w.toNat with h | h <;> simp [h]

/-- A decision is counted as event 0x16 and added to the path hash of the task's measured passes (R239, R243). -/
theorem noteDecision_eq (s : State) (c : Focus) (d : Nat) :
    s.noteDecision c d = { s with
      fab := s.fab.countEvent (clusterOf c.pf) c.task 0x16 1
      obs := { s.obs with meas := s.obs.meas.map (fun m =>
        if m.task = c.task ∧ m.refused = false then { m with hash := m.hash + pathTerm (s.srdIn c) d } else m) } } := by
  simp [State.noteDecision, addPath, State.countEvent]

/-- Settles O9: the side follows bit 0 of p after the decision is noted; the plain forms produce their word. -/
theorem steerAndControlForms : Obligations.SteerAndControlForms := by
  refine ⟨fun f s c hf hq => ⟨⟨_, (exec_steer s f).trans (fireA_fires f s c _ hf hq), ?_⟩,
    ⟨_, (exec_select s f).trans (fireA_fires f s c _ hf hq), ?_⟩⟩, fun f => ⟨?_, ?_, ?_, ?_, ?_⟩⟩
  · simp only [noteDecision_eq, mod_two_eq_bit0, Bool.toNat_eq_one]
    exact fired_emit ..
  · simp only [noteDecision_eq, mod_two_eq_bit0, Bool.toNat_eq_one]
    exact fired_emit ..
  · exact wordForm_of _ (exec_mov · f)
  · exact wordForm_of _ (exec_const · f)
  · exact wordForm_of _ (exec_gate · f)
  · exact fun three => wordForm_of _ (exec_join · three f)
  · exact fun s c hf hq => (exec_sink s f).trans (fireA_fires f s c _ hf hq)

end Sys2Proof.Machine
end

section
/-!
PROOFS. The floating-point arithmetic, selection, comparison, reduction, rounding and conversion forms (R303, R307 to R314, R319, R320).
-/
namespace Sys2Proof.Machine

/-! ### Lanes rounded once each (R302, R304) -/

/-- A rounded lane fits in the lane. -/
theorem finish_lt_lane {t : ETy} (ht : t ∈ tyE) (rm : Rm) (sat : Bool) (rho : Nat) (x : Res) :
    ((ETy.fmt t).finish rm sat rho x).1 < 2 ^ t.width :=
  fmt_width t ht ▸ finish_lt _ (fmt_mem t) rm sat rho x

theorem canonNan_lt_lane {t : ETy} (ht : t ∈ tyE) : (ETy.fmt t).canonNan < 2 ^ t.width :=
  finish_lt_lane ht .rne false 0 (.nan false)

/-- A form that rounds each lane's exact result once. -/
theorem floatLanes_mapRes {i : Instr} {f : FmtA} {x : Nat} {p : Nat → Nat → Nat → Nat → Nat × Flags → Prop} (ht : f.ty ∈ tyE)
    (g : RCtx → Word → Word → Word → Nat → Res) (hi : ∀ s, exec i s = fireFlg f x s fun c l r a => mapRes f.ty c (g c l r a))
    (hp : ∀ srd l r a j, p (srd.rho j) (laneOf f.ty.width l j) (laneOf f.ty.width r j) (laneOf f.ty.width a j)
      ((ETy.fmt f.ty).finish f.rm f.sat (srd.rho j) (g ⟨f.rm, f.sat, srd⟩ l r a j))) : FloatLanes i f x p := by
  refine floatLanes_of (fun c l r a j => (ETy.fmt f.ty).finish c.rm c.sat (c.srd.rho j) (g c l r a j)) hi
    (fun _ _ _ _ _ => finish_lt_lane ht ..) ?_
  rintro ⟨rm, sat, srd⟩ l r a j rfl rfl -
  exact hp srd l r a j

/-! ### Arithmetic (R307) -/

/-- A difference is the sum with the negated operand, whose NaNs are the operand's own. -/
theorem sub_or_nan (F : Fmt) (hF : F ∈ fmts) (rm : Rm) (sat : Bool) (rho : Nat) (u v : FVal) :
    if u.isNan || v.isNan then NanResult F [u, v] (F.finish rm sat rho (sumVals rm [u, v.negate]))
    else SumResult F rm sat rho [u, v.negate] (F.finish rm sat rho (sumVals rm [u, v.negate])) := by
  have h := sum_or_nan F hF rm sat rho u v.negate
  simpa only [NanResult, List.any_cons, List.any_nil, isNan_negate, isSnan_negate] using h

/-- Settles O15: each lane's exact sum, product or fused product is rounded once, after the NaN operands and the infinite ones. -/
theorem floatArithmetic : Obligations.FloatArithmetic := fun f hf => by
  have hE := tyF_E _ hf
  have hF := fmt_mem f.ty
  exact ⟨floatLanes_mapRes hE _ (exec_fadd · f) fun _ _ _ _ _ => sum_or_nan _ hF ..,
    floatLanes_mapRes hE _ (exec_fsub · f) fun _ _ _ _ _ => sub_or_nan _ hF ..,
    floatLanes_mapRes hE _ (exec_fmul · f) fun _ _ _ _ _ => mul_ok _ hF ..,
    floatLanes_mapRes hE _ (exec_fma · f) fun _ _ _ _ _ => fma_ok _ hF ..⟩

/-! ### Codes and their values (R197) -/

theorem abs_rat_fin (n : Bool) (m : Nat) (e : Int) : |(FVal.fin n m e).rat| = (m : ℚ) * 2 ^ e := by
  have hnonneg : (0 : ℚ) ≤ m * 2 ^ e := by positivity
  cases n <;> simp [FVal.rat, abs_of_nonneg hnonneg]

/-- A finite code's value: the sign is the top bit, and a significand without the leading one has the least exponent. -/
theorem unpack_fin (F : Fmt) {v : Nat} {n : Bool} {m : Nat} {e : Int} (h : F.unpack v = .fin n m e) :
    n = decide (v / 2 ^ (F.width - 1) % 2 = 1) ∧ m < 2 ^ (F.fbits + 1) ∧ F.emin - F.fbits ≤ e ∧
      (m < 2 ^ F.fbits → e = F.emin - F.fbits) := by
  have hfrac : v % 2 ^ F.fbits < 2 ^ F.fbits := Nat.mod_lt _ (by positivity)
  have hpow : 2 ^ (F.fbits + 1) = 2 ^ F.fbits + 2 ^ F.fbits := by rw [pow_succ, Nat.mul_two]
  have hemin : F.emin = 1 - (F.bias : Int) := rfl
  unfold Fmt.unpack at h
  dsimp only at h
  split_ifs at h <;> injection h with hn hm he <;> refine ⟨hn.symm, ?_, ?_, ?_⟩ <;> omega

/-- R311: the class read off a code is the class of its value. -/
theorem fclassOf_eq_classOf (F : Fmt) (v : Nat) : fclassOf F v = FVal.classOf F (F.unpack v) := by
  unfold fclassOf
  cases hv : F.unpack v with
  | nan s => cases s <;> rfl
  | inf n => cases n <;> rfl
  | fin n m e =>
    obtain ⟨-, -, hle, hsub⟩ := unpack_fin F hv
    have hzero : (m : ℚ) * 2 ^ e = 0 ↔ m = 0 := by simp [zpow_ne_zero]
    have hnormal : (2 : ℚ) ^ F.emin = 2 ^ F.fbits * 2 ^ (F.emin - F.fbits) := by
      rw [← zpow_natCast, ← zpow_add₀ (by norm_num)]; congr 1; ring
    have hsmall : (m : ℚ) * 2 ^ e < 2 ^ F.emin ↔ m < 2 ^ F.fbits := by
      rw [hnormal]
      constructor
      · intro h
        by_contra hge
        have hm : (2 : ℚ) ^ F.fbits ≤ m := by exact_mod_cast not_lt.1 hge
        have hpow : (2 : ℚ) ^ (F.emin - F.fbits) ≤ 2 ^ e := zpow_le_zpow_right₀ (by norm_num) hle
        exact absurd h (not_lt.2 (mul_le_mul hm hpow (by positivity) (by positivity)))
      · intro h
        rw [hsub h]
        exact mul_lt_mul_of_pos_right (by exact_mod_cast h) (by positivity)
    simp only [FVal.classOf, abs_rat_fin, hzero, hsmall]

/-! ### Selection and sign (R308, R309) -/

/-- One lane of `fmin` or `fmax`: a number is preferred to a NaN, and the order with -0 below +0 chooses between two numbers. -/
theorem minmaxLane_eq (F : Fmt) (isMax : Bool) (a b : Nat) :
    minmaxLane F isMax a b =
      (if (F.unpack a).isNan then (if (F.unpack b).isNan then F.canonNan else b)
        else if (F.unpack b).isNan then a else if leTotal (F.unpack a) (F.unpack b) = isMax then b else a,
      Flags.when ((F.unpack a).isSnan || (F.unpack b).isSnan) Flags.NV) := by
  unfold minmaxLane
  dsimp only
  cases (F.unpack a).isNan <;> cases (F.unpack b).isNan <;> simp
  cases isMax <;> cases leTotal (F.unpack a) (F.unpack b) <;> simp

/-- A form that selects lanes by `minmaxLane`, where `lower` orders two numbers. -/
theorem floatLanes_select {i : Instr} {f : FmtA} (isMax : Bool) {lower : FVal → FVal → Prop} (ht : f.ty ∈ tyE)
    (hi : ∀ s, exec i s = fireFlg f 0 s fun _ l r _ => fluMinMax f.ty isMax l r)
    (hlower : ∀ u v : FVal, u.isNan = false → v.isNan = false →
      (lower u v → leTotal u v = !isMax) ∧ (lower v u → leTotal u v = isMax)) :
    FloatLanes i f 0 fun _ a b _ r =>
      let u := (ETy.fmt f.ty).unpack a
      let v := (ETy.fmt f.ty).unpack b
      r.2 = Flags.when (u.isSnan || v.isSnan) Flags.NV ∧
      (u.isNan = true → v.isNan = true → r.1 = (ETy.fmt f.ty).canonNan) ∧ (u.isNan = true → v.isNan = false → r.1 = b) ∧
      (u.isNan = false → v.isNan = true → r.1 = a) ∧
      (u.isNan = false → v.isNan = false → (r.1 = a ∨ r.1 = b) ∧ (lower u v → r.1 = a) ∧ (lower v u → r.1 = b)) := by
  refine floatLanes_of (fun _ l r _ j => minmaxLane (ETy.fmt f.ty) isMax (laneOf f.ty.width l j) (laneOf f.ty.width r j)) hi
    (fun _ _ _ _ _ => minmax_lt _ ht _ _ _ (laneOf_lt ..) (laneOf_lt ..)) fun c l r a j _ _ _ => ?_
  simp only [minmaxLane_eq]
  refine ⟨trivial, fun hu hv => by simp [hu, hv], fun hu hv => by simp [hu, hv], fun hu hv => by simp [hu, hv], fun hu hv => ?_⟩
  obtain ⟨hfirst, hsecond⟩ := hlower _ _ hu hv
  simp only [hu, hv, Bool.false_eq_true, if_false]
  exact ⟨(ite_eq_or_eq _ _ _).symm, fun h => by simp [hfirst h], fun h => by simp [hsecond h]⟩

/-- Bit w - 1 of each lane is cleared. -/
theorem testBit_fluAbs (t : ETy) (L : Word) {j b : Nat} (hj : j < t.lanes) (hb : b < t.width) :
    (laneOf t.width (fluAbs t L) j).testBit b = (decide (b ≠ t.width - 1) && (laneOf t.width L j).testBit b) := by
  rw [fluAbs, laneOf_mapLanes _ _ _ _ hj (width_mul_lanes t).le, Nat.testBit_mod_two_pow, decide_eq_true hb, Bool.true_and,
    and_pow _ _ _ hb]

/-- Bit w - 1 of each lane is inverted. -/
theorem testBit_fluNeg (t : ETy) (L : Word) {j b : Nat} (hj : j < t.lanes) (hb : b < t.width) :
    (laneOf t.width (fluNeg t L) j).testBit b = (decide (b = t.width - 1) ^^ (laneOf t.width L j).testBit b) := by
  rw [fluNeg, laneOf_mapLanes _ _ _ _ hj (width_mul_lanes t).le, Nat.mod_mod, flip_top _ _ _ (laneOf_lt ..) (width_pos t) hb]

/-! ### Comparison and class (R311) -/

/-- The relation on numbers that a condition code stands for. -/
def fcmpRel : FCmp → WithBot (WithTop ℚ) → WithBot (WithTop ℚ) → Prop
  | .eq => fun x y => x = y
  | .ne => fun x y => x ≠ y
  | .lt => fun x y => x < y
  | .le => fun x y => x ≤ y
  | .gt => fun x y => x > y
  | .ge => fun x y => x ≥ y
  | .un => fun _ _ => False

/-- The outcome of a condition code when an operand is a NaN. -/
def fcmpOnNan : FCmp → Bool
  | .ne | .un => true
  | _ => false

/-- Whether a quiet NaN, too, is an invalid operand. -/
def fcmpOrdered : FCmp → Bool
  | .lt | .le | .gt | .ge => true
  | _ => false

theorem fcmpLane_nan (cc : FCmp) {u v : FVal} (h : (u.isNan || v.isNan) = true) : (fcmpLane cc u v).1 = fcmpOnNan cc := by
  cases cc <;> simp [fcmpLane, fcmpOnNan, h]

theorem fcmpLane_number (cc : FCmp) {u v : FVal} (h : (u.isNan || v.isNan) = false) :
    (fcmpLane cc u v).1 = true ↔ fcmpRel cc u.ext v.ext := by
  obtain ⟨hu, hv⟩ := Bool.or_eq_false_iff.1 h
  obtain ⟨hlt, heq⟩ := cmp_spec u v hu hv
  have hle : cmpVals u v ≤ 0 ↔ u.ext ≤ v.ext := by rw [le_iff_lt_or_eq, le_iff_lt_or_eq, hlt, heq]
  have hgt : 0 < cmpVals u v ↔ v.ext < u.ext := by rw [← not_le, ← not_le, hle]
  have hge : 0 ≤ cmpVals u v ↔ v.ext ≤ u.ext := by rw [← not_lt, ← not_lt, hlt]
  cases cc <;> simp [fcmpLane, fcmpRel, h, hlt, heq, hle, hgt, hge]

theorem isNan_of_isSnan {u : FVal} (h : u.isSnan = true) : u.isNan = true := by
  cases u <;> simp_all [FVal.isSnan, FVal.isNan]

theorem fcmpLane_flags (cc : FCmp) (u v : FVal) :
    (fcmpLane cc u v).2 = Flags.when (u.isSnan || v.isSnan || (fcmpOrdered cc && (u.isNan || v.isNan))) Flags.NV := by
  have habsorb : (u.isSnan || v.isSnan || (u.isNan || v.isNan)) = (u.isNan || v.isNan) := by
    cases hu : u.isSnan <;> cases hv : v.isSnan <;> simp [isNan_of_isSnan, hu, hv]
  cases cc <;> simp [fcmpLane, fcmpOrdered, habsorb]

/-- `fcmp`, once for every condition code. -/
theorem floatLanes_fcmp (f : FmtA) (cc : FCmp) : FloatLanes (.fcmp cc f) f 0 fun _ a b _ r =>
    let u := (ETy.fmt f.ty).unpack a
    let v := (ETy.fmt f.ty).unpack b
    let nan := u.isNan || v.isNan
    (nan = true → r.1 = if fcmpOnNan cc then 2 ^ f.ty.width - 1 else 0) ∧
    (nan = false → (fcmpRel cc u.ext v.ext → r.1 = 2 ^ f.ty.width - 1) ∧ (¬ fcmpRel cc u.ext v.ext → r.1 = 0)) ∧
    r.2 = Flags.when (u.isSnan || v.isSnan || (fcmpOrdered cc && nan)) Flags.NV := by
  refine floatLanes_of (fun _ l r _ j => (maskLane f.ty.width (fcmpLane cc (laneF f.ty l j) (laneF f.ty r j)).1,
    (fcmpLane cc (laneF f.ty l j) (laneF f.ty r j)).2)) (exec_fcmp · cc f) (fun _ _ _ _ _ => mask_lt ..) fun _ l r _ j _ _ _ => ?_
  refine ⟨fun hnan => ?_, fun hnum => ⟨fun h => ?_, fun h => ?_⟩, fcmpLane_flags ..⟩
  · exact congrArg (maskLane _) (fcmpLane_nan cc hnan)
  · exact if_pos ((fcmpLane_number cc hnum).2 h)
  · exact if_neg (mt (fcmpLane_number cc hnum).1 h)

/-- Settles O16: selections by the total order, signs bit by bit, comparisons once for all conditions, and the class of each value. -/
theorem floatSelectAndCompare : Obligations.FloatSelectAndCompare := by
  refine ⟨fun f hf => ⟨floatLanes_select false hf (exec_fmin · f) leTotal_spec,
    floatLanes_select true (lower := fun u v => v.below u) hf (exec_fmax · f) ?_,
    produces_val (exec_fabs · f) fun s c => ⟨rfl, fun j hj b hb => testBit_fluAbs _ _ hj hb⟩,
    produces_val (exec_fneg · f) fun s c => ⟨rfl, fun j hj b hb => testBit_fluNeg _ _ hj hb⟩⟩,
    fun f _ => ⟨floatLanes_fcmp f .eq, floatLanes_fcmp f .ne, floatLanes_fcmp f .lt, floatLanes_fcmp f .le, floatLanes_fcmp f .gt,
      floatLanes_fcmp f .ge, floatLanes_fcmp f .un, laneNats_of (width_mul_lanes f.ty).le _ _ (exec_fclass · f) ?_⟩⟩
  · exact fun u v hu hv => (leTotal_spec u v hu hv).symm
  · intro L R _ j _
    rw [maskLane_mod, fclassOf_eq_classOf, ← BitVec.testBit_toNat, Nat.testBit_eq_decide_div_mod_eq]

/-! ### Magnitudes in the order of their codes (R197, R313) -/

/-- Clearing the sign bit of a code takes the magnitude of its value. -/
theorem unpack_mod_sign (F : Fmt) (a : Nat) : F.unpack (a % 2 ^ (F.width - 1)) = (F.unpack a).abs := by
  have hwidth : F.width - 1 = F.fbits + F.ebits := by rw [Fmt.width]; omega
  have hsign : a % 2 ^ (F.fbits + F.ebits) / 2 ^ (F.fbits + F.ebits) = 0 := Nat.div_eq_of_lt (Nat.mod_lt _ (by positivity))
  have hexp : a % 2 ^ (F.fbits + F.ebits) / 2 ^ F.fbits % 2 ^ F.ebits = a / 2 ^ F.fbits % 2 ^ F.ebits := by
    rw [pow_add, Nat.mod_mul_right_div_self, Nat.mod_mod]
  have hfrac : a % 2 ^ (F.fbits + F.ebits) % 2 ^ F.fbits = a % 2 ^ F.fbits := Nat.mod_mod_of_dvd _ (pow_dvd_pow 2 (by omega))
  unfold Fmt.unpack
  simp only [hwidth, hsign, hexp, hfrac]
  split_ifs <;> rfl

theorem isNan_abs (u : FVal) : u.abs.isNan = u.isNan := by cases u <;> rfl

/-- A magnitude's code beyond M is infinity or a NaN. -/
theorem unpack_above_maxMag (F : Fmt) (hF : F ∈ fmts) {c : Nat} (hc : c < 2 ^ (F.width - 1)) (hM : F.maxMag < c)
    (hnum : (F.unpack c).isNan = false) : F.unpack c = .inf false := by
  have hkind : F.kind = .ieee ∨ F = fmtE4m3 := by
    simp only [fmts, List.mem_cons, List.not_mem_nil, or_false] at hF
    rcases hF with rfl | rfl | rfl | rfl | rfl | rfl <;> simp [fmtF64, fmtF32, fmtBf16, fmtF16, fmtE5m2]
  rcases hkind with hk | rfl
  · have hwidth : F.width - 1 = F.fbits + F.ebits := by rw [Fmt.width]; omega
    have hexp : c / 2 ^ F.fbits = 2 ^ F.ebits - 1 := by
      have hlow : (2 ^ F.ebits - 1) * 2 ^ F.fbits ≤ c := by simp only [Fmt.maxMag, hk] at hM; omega
      have hhigh : c < 2 ^ F.ebits * 2 ^ F.fbits := by rwa [hwidth, pow_add, Nat.mul_comm] at hc
      have hge := (Nat.le_div_iff_mul_le (by positivity)).2 hlow
      have hlt := (Nat.div_lt_iff_lt_mul (by positivity)).2 hhigh
      omega
    have htop : (2 ^ F.ebits - 1) % 2 ^ F.ebits = 2 ^ F.ebits - 1 := Nat.mod_eq_of_lt (Nat.sub_lt (by positivity) (by norm_num))
    have heq : F.unpack c = if c % 2 ^ F.fbits = 0 then .inf false else .nan (c % 2 ^ F.fbits / 2 ^ (F.fbits - 1) = 0) := by
      simp [Fmt.unpack, hk, hexp, htop, Nat.div_eq_of_lt hc]
    rw [heq] at hnum ⊢
    split_ifs at hnum ⊢ with hfrac
    · rfl
    · exact absurd hnum (by simp [FVal.isNan])
  · have hnan : c = 0x7F := by change c < 128 at hc; change 126 < c at hM; omega
    subst hnan
    exact absurd hnum (by decide)

/-- Magnitudes that are no NaN order as their codes do. -/
theorem unpack_ext_le (F : Fmt) (hF : F ∈ fmts) {c c' : Nat} (hle : c ≤ c') (hc' : c' < 2 ^ (F.width - 1))
    (hnum : (F.unpack c').isNan = false) : (F.unpack c).ext ≤ (F.unpack c').ext := by
  rcases Nat.lt_or_ge F.maxMag c' with hM | hM
  · rw [unpack_above_maxMag F hF hc' hM hnum]
    exact le_top
  · obtain ⟨hval, m, e, hfin⟩ := unpack_code F hF c (hle.trans hM)
    obtain ⟨hval', m', e', hfin'⟩ := unpack_code F hF c' hM
    rw [hfin] at hval ⊢
    rw [hfin'] at hval' ⊢
    simp only [FVal.ext, hval, hval', WithBot.coe_le_coe, WithTop.coe_le_coe]
    exact (codeVal_mono _ _).monotone hle

/-- The largest magnitude is one of the magnitudes, and none is larger. -/
theorem maxMagCode_spec (w : Nat) {vs : List Nat} (hne : vs ≠ []) :
    (∃ a ∈ vs, maxMagCode w vs = a % 2 ^ (w - 1)) ∧ ∀ a ∈ vs, a % 2 ^ (w - 1) ≤ maxMagCode w vs := by
  have hmax : (0 :: vs.map (· % 2 ^ (w - 1))).max? = some (maxMagCode w vs) := List.max?_cons'
  obtain ⟨hmem, hle⟩ := List.max?_eq_some_iff.1 hmax
  have hbound : ∀ a ∈ vs, a % 2 ^ (w - 1) ≤ maxMagCode w vs := fun a ha =>
    hle _ (List.mem_cons_of_mem _ (List.mem_map.2 ⟨a, ha, rfl⟩))
  refine ⟨?_, hbound⟩
  rcases List.mem_cons.1 hmem with hzero | hmem
  · obtain ⟨a, ha⟩ := List.exists_mem_of_ne_nil vs hne
    exact ⟨a, ha, by have := hbound a ha; omega⟩
  · obtain ⟨a, ha, heq⟩ := List.mem_map.1 hmem
    exact ⟨a, ha, heq.symm⟩

/-- Of codes that are no NaN, the largest magnitude's value is the largest absolute value. -/
theorem abs_ext_le_maxMagCode {t : ETy} (ht : t ∈ tyE) {vs : List Nat} (hnum : (vs.map (ETy.fmt t).unpack).any FVal.isNan = false)
    {b : Nat} (hb : b ∈ vs) : ((ETy.fmt t).unpack b).abs.ext ≤ ((ETy.fmt t).unpack (maxMagCode t.width vs)).ext := by
  obtain ⟨⟨a, ha, hmax⟩, hbound⟩ := maxMagCode_spec t.width (List.ne_nil_of_mem hb)
  have hle := hbound b hb
  have hnan : ((ETy.fmt t).unpack a).isNan = false :=
    Bool.eq_false_iff.2 (List.any_eq_false.1 hnum _ (List.mem_map_of_mem ha))
  rw [hmax, ← fmt_width t ht] at hle ⊢
  rw [← unpack_mod_sign]
  exact unpack_ext_le _ (fmt_mem t) hle (Nat.mod_lt _ (by positivity)) (by rw [unpack_mod_sign, isNan_abs, hnan])

/-- The codes of all lanes of both operands. -/
def laneCodes (t : ETy) (L R : Word) : List Nat :=
  (List.range t.lanes).map (laneOf t.width L) ++ (List.range t.lanes).map (laneOf t.width R)

theorem fluAmax_eq (t : ETy) (L R : Word) :
    fluAmax t L R = if ((laneCodes t L R).map (ETy.fmt t).unpack).any FVal.isNan then
        (mapLanes t.lanes t.width fun _ => (ETy.fmt t).canonNan,
          Flags.when (((laneCodes t L R).map (ETy.fmt t).unpack).any FVal.isSnan) Flags.NV)
      else (mapLanes t.lanes t.width fun _ => maxMagCode t.width (laneCodes t L R), Flags.none) := rfl

/-- `famax`: the largest magnitude in every lane. -/
theorem produces_famax (f : FmtA) (hf : f.ty ∈ tyE) : Produces (.famax f) f 0 fun _ c v fl =>
    let codes := laneCodes f.ty (f.left c) (f.right c)
    let vals := codes.map (ETy.fmt f.ty).unpack
    if vals.any FVal.isNan then fl = Flags.when (vals.any FVal.isSnan) Flags.NV ∧
      ∀ j < f.ty.lanes, laneOf f.ty.width v j = (ETy.fmt f.ty).canonNan
    else fl = Flags.none ∧ ∀ j < f.ty.lanes, (∃ a ∈ codes, laneOf f.ty.width v j = a % 2 ^ (f.ty.width - 1)) ∧
      ∀ a ∈ codes, ((ETy.fmt f.ty).unpack a).abs.ext ≤ ((ETy.fmt f.ty).unpack (laneOf f.ty.width v j)).ext := by
  refine produces_flg (exec_famax · f) fun s c => ?_
  have hfull := (width_mul_lanes f.ty).le
  simp only [fluAmax_eq]
  split_ifs with hnan
  · refine ⟨rfl, fun j hj => ?_⟩
    rw [laneOf_mapLanes _ _ _ _ hj hfull, Nat.mod_eq_of_lt (canonNan_lt_lane hf)]
  · refine ⟨rfl, fun j hj => ?_⟩
    have hne : laneCodes f.ty (f.left c) (f.right c) ≠ [] := List.append_ne_nil_of_left_ne_nil (by simp; omega) _
    obtain ⟨⟨a, ha, hmax⟩, -⟩ := maxMagCode_spec f.ty.width hne
    have hlt : maxMagCode f.ty.width (laneCodes f.ty (f.left c) (f.right c)) < 2 ^ f.ty.width :=
      hmax ▸ (Nat.mod_lt a (by positivity)).trans_le (Nat.pow_le_pow_right (by norm_num) (Nat.sub_le _ _))
    rw [laneOf_mapLanes _ _ _ _ hj hfull, Nat.mod_eq_of_lt hlt]
    exact ⟨⟨a, ha, hmax⟩, fun b hb => abs_ext_le_maxMagCode hf (Bool.eq_false_iff.2 hnan) hb⟩

/-! ### Sums of lanes and of products (R313) -/

/-- Lane 0 of a word that holds one lane, and the zero lanes beside it. -/
theorem laneOf_ofNat (t : ETy) {v : Nat} (hv : v < 2 ^ t.width) (j : Nat) :
    laneOf t.width (BitVec.ofNat 64 v) j = if j = 0 then v else 0 := by
  have hle : t.width ≤ 64 := by cases t <;> decide
  have hword : v < 2 ^ 64 := hv.trans_le (Nat.pow_le_pow_right (by norm_num) hle)
  rw [laneOf, BitVec.toNat_ofNat, Nat.mod_eq_of_lt hword]
  split_ifs with hj
  · simp [hj, Nat.mod_eq_of_lt hv]
  · have hpow : 2 ^ t.width ≤ 2 ^ (t.width * j) := Nat.pow_le_pow_right (by norm_num) (Nat.le_mul_of_pos_right _ (Nat.pos_of_ne_zero hj))
    rw [Nat.div_eq_of_lt (hv.trans_le hpow), Nat.zero_mod]

/-- The sum of all lanes with its flags: infinities of both signs raise NV beside a NaN, too. -/
theorem finish_sum_clash (F : Fmt) (hF : F ∈ fmts) (rm : Rm) (sat : Bool) (rho : Nat) (vals : List FVal) :
    let clash := vals.contains (.inf true) && vals.contains (.inf false)
    let r := F.finish rm sat rho (sumVals rm vals)
    let fl := if clash then r.2.or Flags.NV else r.2
    if vals.any FVal.isNan then r.1 = F.canonNan ∧ fl = Flags.when (vals.any FVal.isSnan || clash) Flags.NV
    else SumResult F rm sat rho vals (r.1, fl) := by
  intro clash r fl
  split_ifs with hnan
  · have hr : r = (F.canonNan, Flags.when (vals.any FVal.isSnan) Flags.NV) := by simp only [r, sumVals, hnan, if_true, Fmt.finish]
    refine ⟨congrArg Prod.fst hr, ?_⟩
    simp only [fl, hr]
    cases clash <;> cases vals.any FVal.isSnan <;> rfl
  · have hsum : SumResult F rm sat rho vals r := finish_sum F hF rm sat rho vals (by simpa using hnan)
    have hfl : fl = r.2 := by
      simp only [fl]
      split_ifs with hclash
      · have hmem : .inf true ∈ vals ∧ .inf false ∈ vals := by simpa [clash] using hclash
        rw [hsum.1 hmem]; rfl
      · rfl
    rw [hfl]
    exact hsum

theorem lanesF_append (t : ETy) (L R : Word) : lanesF t L ++ lanesF t R = (laneCodes t L R).map (ETy.fmt t).unpack := by
  rw [laneCodes, List.map_append, List.map_map, List.map_map]; rfl

/-- `fsum`: the exact sum of all lanes, rounded once into lane 0. -/
theorem produces_fsum (f : FmtA) (hf : f.ty ∈ tyF) : Produces (.fsum f) f (if f.ty = .f64 then 4 else 3) fun s c v fl =>
    let vals := (laneCodes f.ty (f.left c) (f.right c)).map (ETy.fmt f.ty).unpack
    let clash := vals.contains (.inf true) && vals.contains (.inf false)
    (∀ j < f.ty.lanes, 0 < j → laneOf f.ty.width v j = 0) ∧
    if vals.any FVal.isNan then
      laneOf f.ty.width v 0 = (ETy.fmt f.ty).canonNan ∧ fl = Flags.when (vals.any FVal.isSnan || clash) Flags.NV
    else SumResult (ETy.fmt f.ty) f.rm f.sat ((s.srdIn c).rho 0) vals (laneOf f.ty.width v 0, fl) := by
  refine produces_flg (exec_fsum · f) fun s c => ?_
  simp only [fluSum, State.rctx, lanesF_append, laneOf_ofNat f.ty (finish_lt_lane (tyF_E _ hf) ..)]
  exact ⟨fun j _ hj => if_neg hj.ne', finish_sum_clash _ (fmt_mem f.ty) ..⟩

theorem isNan_times (u v : FVal) : (u.times v).isNan = false := by cases u <;> cases v <;> rfl

/-- A product of numbers is invalid for 0 times infinity alone. -/
theorem mulVals_eq (u v : FVal) (hu : u.isNan = false) (hv : v.isNan = false) :
    mulVals u v = if (u.isZero && v.isInf) || (u.isInf && v.isZero) then none else some (u.times v) := by
  cases u <;> cases v <;> simp_all [mulVals, FVal.isZero, FVal.isInf, FVal.isNan, FVal.times]

theorem any_pairs (p : FVal → Bool) (ps : List (FVal × FVal)) (z : FVal) :
    (ps.map Prod.fst ++ ps.map Prod.snd ++ [z]).any p = (ps.any (fun q => p q.1 || p q.2) || p z) := by
  rw [Bool.eq_iff_iff]
  simp [and_or_left, exists_or, or_assoc]

/-- The result of `fdot2` before its rounding, by its pairs of operands. -/
theorem dotRes_pairs (rm : Rm) (ps : List (FVal × FVal)) (z : FVal) :
    dotRes rm (ps.map Prod.fst) (ps.map Prod.snd) z =
      if ps.any (fun p => p.1.isNan || p.2.isNan) || z.isNan then .nan (ps.any (fun p => p.1.isSnan || p.2.isSnan) || z.isSnan)
      else if ps.any (fun p => (p.1.isZero && p.2.isInf) || (p.1.isInf && p.2.isZero)) then .nan true
      else sumVals rm (ps.map (fun p => p.1.times p.2) ++ [z]) := by
  unfold dotRes
  rw [any_pairs, any_pairs, List.zipWith_map, List.zipWith_self]
  by_cases hnan : (ps.any (fun p => p.1.isNan || p.2.isNan) || z.isNan) = true
  · simp only [hnan, if_true]
  · have hnum : ∀ p ∈ ps, p.1.isNan = false ∧ p.2.isNan = false := by
      obtain ⟨hps, -⟩ := Bool.or_eq_false_iff.1 (Bool.eq_false_iff.2 hnan)
      exact fun p hp => Bool.or_eq_false_iff.1 (Bool.eq_false_iff.2 (List.any_eq_false.1 hps p hp))
    have hprod := fun p hp => mulVals_eq _ _ (hnum p hp).1 (hnum p hp).2
    rw [if_neg hnan, if_neg hnan]
    dsimp only
    cases hbad : ps.any (fun p => (p.1.isZero && p.2.isInf) || (p.1.isInf && p.2.isZero)) with
    | true =>
      obtain ⟨p, hp, hinvalid⟩ := List.any_eq_true.1 hbad
      have hmem : none ∈ ps.map (fun p => mulVals p.1 p.2) := List.mem_map.2 ⟨p, hp, (hprod p hp).trans (if_pos hinvalid)⟩
      rw [if_pos (List.any_eq_true.2 ⟨none, hmem, rfl⟩), if_pos rfl]
    | false =>
      have hsome : ps.map (fun p => mulVals p.1 p.2) = (ps.map fun p => p.1.times p.2).map some := by
        rw [List.map_map]
        exact List.map_congr_left fun p hp => (hprod p hp).trans (if_neg (List.any_eq_false.1 hbad p hp))
      rw [hsome]
      simp

/-- One lane of `fdot2`: the exact sum of the products and the addend, rounded once. -/
theorem finish_dotRes (F : Fmt) (hF : F ∈ fmts) (rm : Rm) (sat : Bool) (rho : Nat) (ps : List (FVal × FVal)) (z : FVal) :
    DotResult F rm sat rho ps z (F.finish rm sat rho (dotRes rm (ps.map Prod.fst) (ps.map Prod.snd) z)) := by
  unfold DotResult
  rw [dotRes_pairs]
  split_ifs with hnan hinv
  · rfl
  · rfl
  · refine finish_sum F hF _ _ _ _ ?_
    simp_all [isNan_times]

/-- The pairs of lanes whose products `fdot2` adds in lane j. -/
def dotPairs (t : ETy) (L R : Word) (j : Nat) : List (FVal × FVal) :=
  (List.range (t.lanes / 2)).map fun k => (laneF t L (t.lanes / 2 * j + k), laneF t R (t.lanes / 2 * j + k))

theorem fluDot2_eq (t : ETy) (c : RCtx) (L R A : Word) :
    fluDot2 t c L R A = mapLanesF 2 32 fun j => fmtF32.finish c.rm c.sat (c.srd.rho j)
      (dotRes c.rm ((dotPairs t L R j).map Prod.fst) ((dotPairs t L R j).map Prod.snd) (laneF .f32x2 A j)) := by
  simp only [fluDot2, dotPairs, List.map_map]; rfl

theorem mapLanesF_two_flags (w : Nat) (g : Nat → Nat × Flags) : (mapLanesF 2 w g).2 = Flags.all [(g 0).2, (g 1).2] := rfl

/-- `fdot2`: two binary32 lanes, each the exact sum of half the products and an addend. -/
theorem produces_fdot2 (f : FmtA) (hf : f.ty ≠ .f64) : Produces (.fdot2 f) f 3 fun s c v fl => ∃ r : Nat → Nat × Flags,
    (∀ j < 2, laneOf 32 v j = (r j).1 ∧ DotResult fmtF32 f.rm f.sat ((s.srdIn c).rho j)
      (dotPairs f.ty (f.left c) (f.right c) j) (laneF .f32x2 c.aux j) (r j)) ∧
    fl = Flags.all [(r 0).2, (r 1).2] := by
  have hF : fmtF32 ∈ fmts := fmt_mem .f32x2
  have hexec : ∀ s, exec (.fdot2 f) s = fireFlg f 3 s fun c l r a => fluDot2 f.ty c l r a := fun s => by
    rw [exec_fdot2, execFdot2, latF, if_neg hf]
  simp only [fluDot2_eq] at hexec
  refine produces_flg hexec fun s c => ⟨_, fun j hj => ⟨?_, finish_dotRes _ hF ..⟩, mapLanesF_two_flags ..⟩
  rw [laneOf_mapLanesF _ _ _ _ hj (by norm_num)]
  exact Nat.mod_eq_of_lt (finish_lt _ hF ..)

/-! ### Rounding to integers (R205, R314) -/

/-- A multiple of 2^q stays as it is. -/
theorem roundsAt_multiple (rm : Rm) (neg : Bool) (rho n : Nat) (q : Int) (y : ℚ) :
    RoundsAt rm neg rho (n * 2 ^ q) q y ↔ y = n * 2 ^ q := by
  have hpos : (0 : ℚ) < 2 ^ q := by positivity
  have hdiv : (n : ℚ) * 2 ^ q / 2 ^ q = n := by field_simp
  unfold RoundsAt ChoosesUp
  simp [hdiv]

/-- The magnitude m * 2^e rounded to a multiple of 2^q. -/
theorem roundAt_rounds (rm : Rm) (rho : Nat) (neg : Bool) {m : Nat} (hm : m ≠ 0) (e q : Int) :
    RoundsAt rm neg rho (m * 2 ^ e) q ((roundAt rm rho ⟨neg, m, e, false⟩ q).1 * 2 ^ q) ∧
      (roundAt rm rho ⟨neg, m, e, false⟩ q).2 = decide (((roundAt rm rho ⟨neg, m, e, false⟩ q).1 : ℚ) * 2 ^ q ≠ m * 2 ^ e) := by
  have h := roundAt_spec rm rho neg m e q hm 0 le_rfl one_pos (absurd rfl)
  simpa only [add_zero, ne_eq, not_true_eq_false, decide_false] using h

/-- A whole number is a multiple of every 2^q with q not above 0. -/
theorem natCast_eq_mul_zpow (k : Nat) {q : Int} (hq : q ≤ 0) : (k : ℚ) = ((k * 2 ^ (-q).toNat : Nat) : ℚ) * 2 ^ q := by
  have hinv : (2 : ℚ) ^ (-q).toNat * 2 ^ q = 1 := by
    rw [← zpow_natCast, ← zpow_add₀ (by norm_num), Int.toNat_of_nonneg (by omega)]; simp
  push_cast
  rw [mul_assoc, hinv, mul_one]

/-- A magnitude with an exponent not below 0 is a whole number. -/
theorem mul_zpow_eq_natCast (m : Nat) {e : Int} (he : 0 ≤ e) : (m : ℚ) * 2 ^ e = ((m * 2 ^ e.toNat : Nat) : ℚ) := by
  rw [← Int.toNat_of_nonneg he]
  push_cast
  rw [zpow_natCast]; rfl

/-- A whole number stays as it is at every place up to its own. -/
theorem roundsAt_whole (rm : Rm) (neg : Bool) (rho k : Nat) {q : Int} (hq : q ≤ 0) (y : ℚ) : RoundsAt rm neg rho k q y ↔ y = k := by
  rw [natCast_eq_mul_zpow k hq]
  exact roundsAt_multiple ..

/-- The weight of the leading bit is a whole number that every format holds. -/
theorem two_pow_fbits_le_maxVal (F : Fmt) (hF : F ∈ fmts) : F.emin ≤ F.fbits ∧ (2 : ℚ) ^ F.fbits ≤ F.maxVal := by
  have hcodes : F.emin ≤ F.fbits ∧ (F.fbits - F.emin).toNat * 2 ^ F.fbits + 2 ^ F.fbits ≤ F.maxMag := by
    simp only [fmts, List.mem_cons, List.not_mem_nil, or_false] at hF
    rcases hF with rfl | rfl | rfl | rfl | rfl | rfl <;> decide
  obtain ⟨hemin, hle⟩ := hcodes
  refine ⟨hemin, ?_⟩
  have hexp : F.emin - F.fbits + ((F.fbits - F.emin).toNat : Int) = 0 := by omega
  calc (2 : ℚ) ^ F.fbits = codeVal F.fbits (F.emin - F.fbits) ((F.fbits - F.emin).toNat * 2 ^ F.fbits + 2 ^ F.fbits) := by
        rw [codeVal_mk _ _ _ _ (Nat.pow_le_pow_right (by norm_num) (by omega)) (.inr le_rfl), hexp]
        simp
    _ ≤ codeVal F.fbits (F.emin - F.fbits) F.maxMag := (codeVal_mono _ _).monotone hle
    _ = F.maxVal := (unpack_code F hF _ le_rfl).1.symm

/-- A whole number up to the weight of the leading bit is held as it is. -/
theorem round_whole (F : Fmt) (hF : F ∈ fmts) (rm : Rm) (sat : Bool) (rho : Nat) (neg : Bool) {k : Nat} (hk : k ≤ 2 ^ F.fbits) :
    ∃ code ≤ F.maxMag, (F.unpack code).rat = k ∧ (F.round rm sat rho ⟨neg, k, 0, false⟩).1 = F.withSign neg code := by
  obtain ⟨hemin, hmax⟩ := two_pow_fbits_le_maxVal F hF
  by_cases hzero : k = 0
  · refine ⟨0, Nat.zero_le _, ?_, by simp [Fmt.round, hzero]⟩
    rw [(unpack_code F hF 0 (Nat.zero_le _)).1, hzero]
    simp [codeVal]
  · have hk' : (k : ℚ) ≤ 2 ^ F.fbits := by exact_mod_cast hk
    have habs : |(FVal.fin neg k 0).rat| = k := by simp [abs_rat_fin]
    have hne : (FVal.fin neg k 0).rat ≠ 0 := abs_ne_zero.1 (by simp [habs, hzero])
    have hneg : decide ((FVal.fin neg k 0).rat < 0) = neg := by
      have hpos : (0 : ℚ) < k := by exact_mod_cast Nat.pos_of_ne_zero hzero
      cases neg <;> simp [FVal.rat, hpos, hpos.le]
    have hr := round_int F hF rm sat rho neg k 0 _ rfl neg (fun _ => rfl)
    unfold Rounds at hr
    rw [if_neg hne] at hr
    simp only [habs, hneg] at hr
    obtain ⟨y, u, hy, -, -, hcode⟩ := hr
    have hlog : Int.log 2 (k : ℚ) ≤ F.fbits := by
      rw [Int.log_natCast]
      exact_mod_cast (Nat.log_mono_right hk).trans_eq (Nat.log_pow (by norm_num) _)
    have hexact : y = k := (roundsAt_whole _ _ _ _ (by omega) _).1 hy
    obtain ⟨code, hle, hval, hres⟩ := hcode (by rw [hexact]; exact hk'.trans hmax)
    exact ⟨code, hle, hval.trans hexact, congrArg Prod.fst hres⟩

/-- A magnitude's code with a sign has that sign and magnitude. -/
theorem unpack_withSign (F : Fmt) (hF : F ∈ fmts) (neg : Bool) {c : Nat} (hc : c ≤ F.maxMag) :
    ∃ m e, F.unpack c = .fin false m e ∧ F.unpack (F.withSign neg c) = .fin neg m e := by
  obtain ⟨-, m, e, hfin⟩ := unpack_code F hF c hc
  have hlt : c < 2 ^ (F.width - 1) := hc.trans_lt (code_lt F hF).1
  have habs : (F.unpack (F.withSign neg c)).abs = .fin false m e := by
    rw [← unpack_mod_sign, Fmt.withSign, Nat.mul_add_mod_self_right, Nat.mod_eq_of_lt hlt, hfin]
  refine ⟨m, e, hfin, ?_⟩
  cases hv : F.unpack (F.withSign neg c) with
  | nan s => rw [hv] at habs; cases habs
  | inf n => rw [hv] at habs; cases habs
  | fin n m' e' =>
    rw [hv] at habs
    obtain ⟨hn, -⟩ := unpack_fin F hv
    obtain ⟨rfl, rfl⟩ : m' = m ∧ e' = e := by simpa [FVal.abs] using habs
    rw [Fmt.withSign, Nat.add_comm, Nat.add_mul_div_right _ _ (by positivity), Nat.div_eq_of_lt hlt] at hn
    rw [hn]
    cases neg <;> rfl

/-! ### `fround` and `fscl` (R314) -/

/-- A significand with a fraction rounds to a whole number up to the weight of the leading bit. -/
theorem roundsAt_whole_le {rm : Rm} {neg : Bool} {rho F m k : Nat} {e : Int} (hm : m < 2 ^ (F + 1)) (he : e ≤ -1)
    (h : RoundsAt rm neg rho (m * 2 ^ e) 0 (k * 2 ^ (0 : Int))) : k ≤ 2 ^ F := by
  have hsmall : (m : ℚ) * 2 ^ e / 2 ^ (0 : Int) < (2 ^ F : Nat) := by
    have hm' : (m : ℚ) < 2 ^ (F + 1) := by exact_mod_cast hm
    have he' : (2 : ℚ) ^ e ≤ 2 ^ (-1 : Int) := zpow_le_zpow_right₀ (by norm_num) he
    calc (m : ℚ) * 2 ^ e / 2 ^ (0 : Int) ≤ m * 2 ^ (-1 : Int) := by
          simpa using mul_le_mul_of_nonneg_left he' (Nat.cast_nonneg m)
      _ < 2 ^ (F + 1) * 2 ^ (-1 : Int) := mul_lt_mul_of_pos_right hm' (by norm_num)
      _ = (2 ^ F : Nat) := by push_cast; rw [pow_succ, zpow_neg_one]; ring
  have hfloor := (Nat.floor_lt (by positivity)).2 hsmall
  have hbound := (roundsAt_bounds _ _ _ _ _ _ h).2
  omega

/-- A finite lane of `fround`: a whole magnitude of the lane's own sign, inexact where it is not the lane's own. -/
theorem froundLane_fin (F : Fmt) (hF : F ∈ fmts) (c : RCtx) (i : Nat) {v m : Nat} {neg : Bool} {e : Int} (hv : F.unpack v = .fin neg m e) :
    let x := |(FVal.fin neg m e).rat|
    let r := froundLane F c i v
    ∃ y : ℚ, RoundsAt c.rm neg (c.srd.rho i) x 0 y ∧ (F.unpack r.1).isFin = true ∧ (F.unpack r.1).neg? = neg ∧
      |(F.unpack r.1).rat| = y ∧ r.2 = Flags.when (decide (y ≠ x)) Flags.NX := by
  intro x r
  have hx : x = m * 2 ^ e := abs_rat_fin ..
  obtain ⟨-, hm, -, -⟩ := unpack_fin F hv
  by_cases hwhole : m = 0 ∨ 0 ≤ e
  · have hr : r = (v, Flags.none) := by simp [r, froundLane, hv, hwhole]
    have hnat : ∃ n : Nat, x = n := by
      rcases hwhole with rfl | he
      · exact ⟨0, by simp [hx]⟩
      · exact ⟨_, hx.trans (mul_zpow_eq_natCast m he)⟩
    obtain ⟨n, hn⟩ := hnat
    refine ⟨x, ?_, ?_⟩
    · rw [hn, roundsAt_whole _ _ _ _ le_rfl]
    · simp [hr, hv, FVal.isFin, FVal.neg?, x, Flags.when]
  · obtain ⟨hm0, he⟩ := not_or.1 hwhole
    obtain ⟨hround, hinexact⟩ := roundAt_rounds c.rm (c.srd.rho i) neg hm0 e 0
    have hr : r = ((F.round .rtz false 0 ⟨neg, (roundAt c.rm (c.srd.rho i) ⟨neg, m, e, false⟩ 0).1, 0, false⟩).1,
        Flags.when (roundAt c.rm (c.srd.rho i) ⟨neg, m, e, false⟩ 0).2 Flags.NX) := by
      simp [r, froundLane, hv, hm0, he]
    generalize roundAt c.rm (c.srd.rho i) ⟨neg, m, e, false⟩ 0 = kx at *
    have hk : kx.1 ≤ 2 ^ F.fbits := roundsAt_whole_le hm (by omega) hround
    obtain ⟨code, hle, hval, hcode⟩ := round_whole F hF .rtz false 0 neg hk
    obtain ⟨m', e', hfin, hsigned⟩ := unpack_withSign F hF neg hle
    rw [hr, hcode, hsigned, hx]
    refine ⟨_, hround, rfl, rfl, ?_, by rw [hinexact]⟩
    rw [abs_rat_fin, ← hval, hfin]
    simp [FVal.rat]

theorem froundLane_lt {t : ETy} (ht : t ∈ tyE) (c : RCtx) (i : Nat) {v : Nat} (hv : v < 2 ^ t.width) :
    (froundLane (ETy.fmt t) c i v).1 < 2 ^ t.width := by
  unfold froundLane
  split
  · exact canonNan_lt_lane ht
  · exact hv
  · split_ifs
    · exact hv
    · exact finish_lt_lane ht .rtz false 0 (.exact _)

/-- `fround`: each lane rounded to a whole number. -/
theorem floatLanes_fround (f : FmtA) (hf : f.ty ∈ tyE) : FloatLanes (.fround f) f 1 fun rho a _ _ r =>
    match (ETy.fmt f.ty).unpack a with
    | .nan s => r = ((ETy.fmt f.ty).canonNan, Flags.when s Flags.NV)
    | .inf _ => r = (a, Flags.none)
    | .fin neg m e => ∃ y : ℚ, RoundsAt f.rm neg rho |(FVal.fin neg m e).rat| 0 y ∧ ((ETy.fmt f.ty).unpack r.1).isFin = true ∧
        ((ETy.fmt f.ty).unpack r.1).neg? = neg ∧ |((ETy.fmt f.ty).unpack r.1).rat| = y ∧
        r.2 = Flags.when (decide (y ≠ |(FVal.fin neg m e).rat|)) Flags.NX := by
  refine floatLanes_of (fun c l _ _ j => froundLane (ETy.fmt f.ty) c j (laneOf f.ty.width l j)) (exec_fround · f)
    (fun c l _ _ j => froundLane_lt hf c j (laneOf_lt ..)) fun c l _ _ j hrm _ _ => ?_
  rw [← hrm]
  split
  next s hv => simp [froundLane, hv]
  next n hv => simp [froundLane, hv]
  next neg m e hv => exact froundLane_fin _ (fmt_mem f.ty) c j hv

theorem rat_mul_zpow (n : Bool) (m : Nat) (e k : Int) : (FVal.fin n m e).rat * 2 ^ k = (FVal.fin n m (e + k)).rat := by
  simp only [FVal.rat]
  rw [zpow_add₀ (by norm_num), mul_assoc]

/-- `fscl`: each lane times the power of two whose exponent is the signed lane beside it. -/
theorem floatLanes_fscl (f : FmtA) (hf : f.ty ∈ tyE) : FloatLanes (.fscl f) f 1 fun rho a b _ r =>
    match (ETy.fmt f.ty).unpack a with
    | .nan s => r = ((ETy.fmt f.ty).canonNan, Flags.when s Flags.NV)
    | .inf neg => r = (ETy.fmt f.ty).infinite f.sat neg
    | .fin neg m e => Rounds (ETy.fmt f.ty) f.rm f.sat rho
        ((FVal.fin neg m e).rat * (2 : ℚ) ^ (if b ≥ 2 ^ (f.ty.width - 1) then (b : ℤ) - 2 ^ f.ty.width else b)) neg r := by
  refine floatLanes_mapRes hf _ (exec_fscl · f) fun srd l r _ j => ?_
  dsimp only [laneF]
  split
  next s hv => simp only [hv]; rfl
  next n hv => simp only [hv]; rfl
  next neg m e hv =>
    simp only [hv]
    exact round_int _ (fmt_mem f.ty) _ _ _ _ _ _ _ (rat_mul_zpow ..) _ fun _ => rfl

/-- Settles O17: the reductions by their exact sums and largest magnitudes, then rounding to whole numbers and scaling. -/
theorem floatReductionAndScaleForms : Obligations.FloatReductionAndScaleForms := by
  refine ⟨fun f => ⟨produces_famax f, produces_fsum f, fun hf => produces_fdot2 f ?_⟩,
    fun f hf => ⟨floatLanes_fround f (tyF_E _ hf), floatLanes_fscl f (tyF_E _ hf)⟩⟩
  rintro h
  simp [h] at hf

/-! ### Conversions (R208, R209, R319, R320) -/

theorem wrapInt_coe (w : Nat) (v : Int) : ((wrapInt w v : Nat) : Int) = v % 2 ^ w :=
  Int.toNat_of_nonneg (Int.emod_nonneg _ (by positivity))

theorem wrapInt_lt (w : Nat) (v : Int) : wrapInt w v < 2 ^ w := by
  have hlt : v % 2 ^ w < 2 ^ w := Int.emod_lt_of_pos _ (by positivity)
  rw [← wrapInt_coe] at hlt
  exact_mod_cast hlt

/-- The magnitude m * 2^e rounded to a whole number, where places below its own are left alone. -/
theorem roundAt_max_whole (rm : Rm) (rho : Nat) (neg : Bool) {m : Nat} (hm : m ≠ 0) (e : Int) :
    let kx := roundAt rm rho ⟨neg, m, e, false⟩ (max e 0)
    let y : Nat := kx.1 * 2 ^ (max e 0).toNat
    RoundsAt rm neg rho (m * 2 ^ e) 0 y ∧ kx.2 = decide ((y : ℚ) ≠ m * 2 ^ e) := by
  obtain ⟨hround, hinexact⟩ := roundAt_rounds rm rho neg hm e (max e 0)
  generalize roundAt rm rho ⟨neg, m, e, false⟩ (max e 0) = kx at *
  intro kx y
  have hy : (y : ℚ) = kx.1 * 2 ^ max e 0 := (mul_zpow_eq_natCast _ (le_max_right e 0)).symm
  rw [hy]
  refine ⟨?_, hinexact⟩
  rcases le_total e 0 with he | he
  · rw [max_eq_right he, zpow_zero, mul_one] at hround ⊢
    exact hround
  · rw [max_eq_left he] at hround ⊢
    rw [(roundsAt_multiple ..).1 hround, mul_zpow_eq_natCast m he, roundsAt_whole _ _ _ _ le_rfl]

theorem zero_mem_intRange (sg : Bool) (w : Nat) : intMin sg w ≤ 0 ∧ 0 ≤ intMax sg w := by
  have hpow : ∀ n : Nat, (1 : Int) ≤ 2 ^ n := fun n => one_le_pow₀ (by norm_num)
  have hhalf := hpow (w - 1)
  have hfull := hpow w
  cases sg <;> simp only [intMin, intMax, if_true, Bool.false_eq_true, if_false] <;> omega

/-- A finite value to an integer of w bits: rounded to a whole number and then clamped. -/
theorem convFI_fin (F : Fmt) (sg : Bool) (w : Nat) (rm : Rm) (rho : Nat) {v m : Nat} {neg : Bool} {e : Int}
    (hv : F.unpack v = .fin neg m e) :
    let x := |(FVal.fin neg m e).rat|
    let r := convFI F sg w rm rho v
    ∃ y : Nat, RoundsAt rm neg rho x 0 y ∧
      let n : Int := if neg then -(y : Int) else y
      (r.1 : Int) = (if n > intMax sg w then intMax sg w else if n < intMin sg w then intMin sg w else n) % 2 ^ w ∧
      r.2 = if n > intMax sg w ∨ n < intMin sg w then Flags.NV else Flags.when (decide ((y : ℚ) ≠ x)) Flags.NX := by
  intro x r
  have hx : x = m * 2 ^ e := abs_rat_fin ..
  by_cases hm : m = 0
  · have hr : r = (0, Flags.none) := by simp [r, convFI, hv, hm]
    obtain ⟨hmin, hmax⟩ := zero_mem_intRange sg w
    refine ⟨0, ?_, ?_⟩
    · simpa [hx, hm] using roundsAt_whole rm neg rho 0 le_rfl 0
    · simp [hr, hx, hm, hmin.not_gt, hmax.not_gt, Flags.when]
  · obtain ⟨hround, hinexact⟩ := roundAt_max_whole rm rho neg hm e
    refine ⟨_, hx ▸ hround, ?_⟩
    have hsign : ∀ k : Int, (if neg then -1 else 1) * k = if neg then -k else k := by cases neg <;> simp
    simp only [hx, ← hinexact, r, convFI, hv, if_neg hm, hsign]
    generalize (if neg then _ else _ : Int) = n
    by_cases habove : n > intMax sg w
    · simp [habove, wrapInt_coe]
    · by_cases hbelow : n < intMin sg w <;> simp [habove, hbelow, wrapInt_coe]

theorem convFI_lt (F : Fmt) (sg : Bool) (w : Nat) (rm : Rm) (rho v : Nat) : (convFI F sg w rm rho v).1 < 2 ^ w := by
  cases hv : F.unpack v with
  | nan s => simp [convFI, hv]
  | inf neg => simp only [convFI, hv]; exact wrapInt_lt ..
  | fin neg m e =>
    obtain ⟨y, -, hval, -⟩ := convFI_fin F sg w rm rho hv
    have hlt : ((convFI F sg w rm rho v).1 : Int) < 2 ^ w := hval ▸ Int.emod_lt_of_pos _ (by positivity)
    exact_mod_cast hlt

/-- R320: the relation between a lane i of type t and its conversion to type d, by the kinds of the two types. -/
def ConvertsTo (t d : ETy) (rm : Rm) (sat : Bool) (rho : Nat) (l : Word) (i : Nat) (r : Nat × Flags) : Prop :=
  let lo : ℤ := intMin d.signed d.width
  let hi : ℤ := intMax d.signed d.width
  if t.isInt then Rounds (ETy.fmt d) rm sat rho (laneVal t l i) false r
  else match (ETy.fmt t).unpack (laneOf t.width l i) with
    | .nan s => r = if d.isInt then (0, Flags.NV) else ((ETy.fmt d).canonNan, Flags.when s Flags.NV)
    | .inf neg => if d.isInt then (r.1 : ℤ) = (if neg then lo else hi) % 2 ^ d.width ∧ r.2 = Flags.NV else r = (ETy.fmt d).infinite sat neg
    | .fin neg m e =>
      let x := (FVal.fin neg m e).rat
      if d.isInt then ∃ y : ℕ, RoundsAt rm neg rho |x| 0 y ∧
        let n : ℤ := if neg then -(y : ℤ) else y
        (r.1 : ℤ) = (if n > hi then hi else if n < lo then lo else n) % 2 ^ d.width ∧
        r.2 = if n > hi ∨ n < lo then Flags.NV else Flags.when (decide ((y : ℚ) ≠ |x|)) Flags.NX
      else Rounds (ETy.fmt d) rm sat rho x neg r

/-- An integer to floating point, rounded once. -/
theorem convIF_rounds (F : Fmt) (hF : F ∈ fmts) (rm : Rm) (sat : Bool) (rho : Nat) (v : Int) :
    Rounds F rm sat rho v false (convIF F rm sat rho v) := by
  refine round_int F hF rm sat rho _ _ _ _ ?_ _ fun hzero => ?_
  · rcases lt_or_ge v 0 with h | h
    · have habs : |(v : ℚ)| = -v := abs_of_neg (by exact_mod_cast h)
      simp [FVal.rat, h, habs]
    · have habs : |(v : ℚ)| = v := abs_of_nonneg (by exact_mod_cast h)
      simp [FVal.rat, h.not_gt, habs]
  · simp [Int.natAbs_eq_zero.1 hzero]

/-- One lane is converted by the first rule that applies. -/
theorem convLane_converts (t d : ETy) (c : RCtx) (lam : Nat) (L : Word) (i : Nat) :
    ConvertsTo t d c.rm c.sat (c.srd.rho lam) L i (convLane t d c lam L i) := by
  have hD := fmt_mem d
  unfold ConvertsTo convLane
  extract_lets lo hi
  by_cases ht : t.isInt = true
  · rw [if_pos ht, if_pos ht]
    exact convIF_rounds _ hD ..
  · rw [if_neg ht, if_neg ht]
    by_cases hd : d.isInt = true
    · simp only [hd, if_true]
      split
      next s hv => simp [convFI, hv]
      next neg hv => simp [convFI, hv, wrapInt_coe, lo, hi]
      next neg m e hv => exact convFI_fin _ _ _ _ _ hv
    · simp only [hd, Bool.false_eq_true, if_false, convFF]
      split
      next s hv => simp only [hv]; rfl
      next neg hv => simp only [hv]; rfl
      next neg m e hv => simp only [hv]; exact round_int _ hD _ _ _ _ _ _ _ rfl _ fun _ => rfl

theorem mem_tyE_of_not_isInt {t : ETy} (h : t ≠ .b64) (hi : t.isInt = false) : t ∈ tyE := by
  cases t <;> simp_all [tyE, ETy.isInt, ETy.code]

theorem convLane_lt {t d : ETy} (hd : d ≠ .b64) (hint : ¬ (t.isInt = true ∧ d.isInt = true)) (c : RCtx) (lam : Nat) (L : Word)
    (i : Nat) : (convLane t d c lam L i).1 < 2 ^ d.width := by
  unfold convLane
  split_ifs with ht hdi
  · exact finish_lt_lane (mem_tyE_of_not_isInt hd (by simpa [ht] using hint)) _ _ _ (.exact _)
  · exact convFI_lt ..
  · exact finish_lt_lane (mem_tyE_of_not_isInt hd (by simpa using hdi)) ..

/-- R319: lane j of a conversion: a lane converted, or a lane of the base kept. -/
def cvtLane (t d : ETy) (part : Nat) (base : Word) (c : RCtx) (L : Word) (j : Nat) : Nat × Flags :=
  if t.lanes ≤ d.lanes then
    (if part * t.lanes ≤ j ∧ j < (part + 1) * t.lanes then convLane t d c j L (j - part * t.lanes)
      else (laneOf d.width base j, Flags.none))
  else convLane t d c j L (part * d.lanes + j)

theorem fluCvt_eq (t d : ETy) (part : Nat) (base : Word) (c : RCtx) (L : Word) :
    fluCvt t d part base c L = mapLanesF d.lanes d.width (cvtLane t d part base c L) := by
  unfold fluCvt cvtLane
  by_cases h : t.lanes ≤ d.lanes <;> simp [h]

theorem cvtLane_lt {t d : ETy} (hd : d ≠ .b64) (hint : ¬ (t.isInt = true ∧ d.isInt = true)) (part : Nat) (base : Word) (c : RCtx)
    (L : Word) (j : Nat) : (cvtLane t d part base c L j).1 < 2 ^ d.width := by
  unfold cvtLane
  split_ifs
  · exact convLane_lt hd hint ..
  · exact laneOf_lt ..
  · exact convLane_lt hd hint ..

/-- Settles O20: the lanes moved as `cvtLane` says, each converted lane as `convLane_converts` says. -/
theorem convertForm : Obligations.ConvertForm := by
  intro f d part mrg _ hlegal
  have hd : d ≠ .b64 := by simp [cvtLegal] at hlegal; tauto
  have hint : ¬ (f.ty.isInt = true ∧ d.isInt = true) := by rintro ⟨h, h'⟩; simp [cvtLegal, h, h'] at hlegal
  refine produces_flg (exec_cvt · d part mrg f) fun s c => ?_
  simp only [fluCvt_eq]
  refine ⟨cvtLane f.ty d part.toNat (if mrg then f.right c else 0) (s.rctx f c) (f.left c), fun j hj => ⟨?_, ?_⟩, ?_⟩
  · rw [laneOf_mapLanesF _ _ _ _ hj (width_mul_lanes d).le]
    exact Nat.mod_eq_of_lt (cvtLane_lt hd hint ..)
  · by_cases hlanes : f.ty.lanes ≤ d.lanes
    · by_cases hmoved : part.toNat * f.ty.lanes ≤ j ∧ j < (part.toNat + 1) * f.ty.lanes
      · simp only [cvtLane, if_pos hlanes, if_pos hmoved]
        exact convLane_converts f.ty d (s.rctx f c) ..
      · simp only [cvtLane, if_pos hlanes, if_neg hmoved]
        cases mrg <;> simp [laneOf]
    · simp only [cvtLane, if_neg hlanes]
      exact convLane_converts f.ty d (s.rctx f c) ..
  · simp only [mapLanesF, List.map_map]; rfl

end Sys2Proof.Machine
end

section
/-!
PROOFS. The encoding (R2, R254 to R261): a record's words read back field by field, its bytes word by word, and obligation O60.
-/
namespace Sys2Proof

/-! ### Bytes (R2) -/

theorem takeLe_leBytes (k v : Nat) (rest : List Byte) : takeLe k (leBytes k v ++ rest) = some (v % 256 ^ k, rest) := by
  induction k generalizing v with
  | zero => simp [takeLe, leBytes, Nat.mod_one]
  | succ k ih =>
    simp only [leBytes, List.cons_append, takeLe, ih, BitVec.toNat_ofNat]
    rw [pow_succ' 256 k, Nat.mod_mul]

theorem takeLe_leBytes_of_lt {k v : Nat} (hv : v < 256 ^ k) (rest : List Byte) :
    takeLe k (leBytes k v ++ rest) = some (v, rest) := by
  rw [takeLe_leBytes, Nat.mod_eq_of_lt hv]

theorem takeDests_flatMap (ds : List Nat) (hds : ∀ d ∈ ds, d < 256 ^ 4) (rest : List Byte) :
    takeDests ds.length (ds.flatMap (leBytes 4) ++ rest) = some (ds, rest) := by
  induction ds with
  | nil => rfl
  | cons d ds ih =>
    obtain ⟨hd, htail⟩ := List.forall_mem_cons.1 hds
    simp only [List.length_cons, takeDests, List.flatMap_cons, List.append_assoc, takeLe_leBytes_of_lt hd, ih htail]

/-- A record's words fit their places, and its slot word counts the words after it (R254). -/
structure RawRec.Fits (r : RawRec) : Prop where
  slot : r.slot < 256 ^ 8
  dests : ∀ d ∈ r.dests, d < 256 ^ 4
  ext : ∀ x, r.ext = some x → x < 256 ^ 4
  ndest : ndestOf r.slot = r.dests.length
  hasExt : extOf r.slot = r.ext.isSome

theorem takeRec_bytes (r : RawRec) (h : r.Fits) (rest : List Byte) : takeRec (r.bytes ++ rest) = some (r, rest) := by
  obtain ⟨slot, dests, ext⟩ := r
  obtain ⟨hslot, hdests, hext, hndest, hasExt⟩ := h
  simp only [RawRec.bytes, List.append_assoc, takeRec, takeLe_leBytes_of_lt hslot, hndest, takeDests_flatMap dests hdests, hasExt]
  cases ext with
  | none => rfl
  | some x => simp [takeLe_leBytes_of_lt (hext x rfl)]

theorem bitsAt_zero (lo n : Nat) : bitsAt 0 lo n = 0 := by simp [bitsAt]

/-! ### Codes of the named fields -/

theorem ETy.ofCode_code (t : ETy) : ETy.ofCode t.code = some t := by cases t <;> rfl
theorem Rm.ofCode_code (m : Rm) : Rm.ofCode m.code = some m := by cases m <;> rfl
theorem DPort.ofCode_code (p : DPort) : DPort.ofCode p.code = p := by cases p <;> rfl
theorem ImmSel.ofCode_code (s : ImmSel) : ImmSel.ofCode s.code = some s := by cases s <;> rfl
theorem PMode.ofCode_code (m : PMode) : PMode.ofCode m.code = some m := by cases m <;> rfl
theorem Acc.ofCode_code (a : Acc) : Acc.ofCode a.code = some a := by cases a <;> rfl
theorem Scope.ofCode_code (s : Scope) : Scope.ofCode s.code = some s := by cases s <;> rfl
theorem TFmt.ofCode_code (t : TFmt) : TFmt.ofCode t.code = some t := by cases t <;> rfl
theorem ICmp.ofCode_code (c : ICmp) : ICmp.ofCode c.code = some c := by cases c <;> rfl
theorem FCmp.ofCode_code (c : FCmp) : FCmp.ofCode c.code = some c := by cases c <;> rfl
theorem AccSel.ofCode_code (a : AccSel) : AccSel.ofCode a.code = some a := by cases a <;> rfl
theorem GSel.ofCode_code (g : GSel) : GSel.ofCode g.code = g := by cases g <;> rfl

theorem SeqLink.ofCode_code (l : SeqLink) : SeqLink.ofCode l.code = some l := by
  cases l with
  | own n => simp [SeqLink.ofCode, SeqLink.code, n.isLt]
  | edge => rfl
  | unknown => rfl

theorem SeqLink.code_own (n : BitVec 6) : (SeqLink.own n).code = n.toNat := rfl

theorem SReg.ofCode_code (r : SReg) : SReg.ofCode r.code = some r := by
  cases r with
  | evsel n => revert n; decide
  | evc n => revert n; decide
  | _ => rfl

theorem ETy.code_lt (t : ETy) : t.code < 2 ^ 4 := by cases t <;> decide
theorem Rm.code_lt (m : Rm) : m.code < 2 ^ 3 := by cases m <;> decide
theorem DPort.code_lt (p : DPort) : p.code < 2 ^ 2 := by cases p <;> decide
theorem ImmSel.code_lt (s : ImmSel) : s.code < 2 ^ 2 := by cases s <;> decide
theorem PMode.code_lt (m : PMode) : m.code < 2 ^ 2 := by cases m <;> decide
theorem Acc.code_lt (a : Acc) : a.code < 2 ^ 4 := by cases a <;> decide
theorem Scope.code_lt (s : Scope) : s.code < 2 ^ 3 := by cases s <;> decide
theorem TFmt.code_lt (t : TFmt) : t.code < 2 ^ 4 := by cases t <;> decide
theorem SReg.code_lt (r : SReg) : r.code < 2 ^ 12 := by
  cases r with
  | evsel n => have := n.isLt; simp only [SReg.code]; omega
  | evc n => have := n.isLt; simp only [SReg.code]; omega
  | _ => decide
theorem SeqLink.code_lt (l : SeqLink) : l.code < 2 ^ 7 := by
  cases l with
  | own n => have := n.isLt; simp only [SeqLink.code]; omega
  | edge => decide
  | unknown => decide

/-! ### Destination words (R256) -/

theorem encodeDest_lt (d : Dest) : encodeDest d < 256 ^ 4 := by
  have h1 := d.port.code_lt
  have h2 := d.fret.isLt
  have h3 := d.velem.isLt
  have h4 := d.slot.isLt
  have h5 := Bool.toNat_lt d.side
  simp only [encodeDest]; omega

theorem decodeDest_encodeDest (d : Dest) : decodeDest (encodeDest d) = some d := by
  have h1 := d.port.code_lt
  have h2 := d.fret.isLt
  have h3 := d.velem.isLt
  have h4 := d.slot.isLt
  have h5 := Bool.toNat_lt d.side
  have e0 : bitsAt (encodeDest d) 0 9 = 0 := by simp only [bitsAt, encodeDest]; omega
  have e1 : bitsAt (encodeDest d) 30 2 = d.port.code := by simp only [bitsAt, encodeDest]; omega
  have e2 : bitsAt (encodeDest d) 18 12 = d.fret.toNat := by simp only [bitsAt, encodeDest]; omega
  have e3 : bitsAt (encodeDest d) 15 3 = d.velem.toNat := by simp only [bitsAt, encodeDest]; omega
  have e4 : bitsAt (encodeDest d) 10 5 = d.slot.toNat := by simp only [bitsAt, encodeDest]; omega
  have e5 : bitsAt (encodeDest d) 9 1 = d.side.toNat := by simp only [bitsAt, encodeDest]; omega
  simp [decodeDest, e0, e1, e2, e3, e4, e5, DPort.ofCode_code]

theorem decodeDests_map (ds : List Dest) : decodeDests (ds.map encodeDest) = some ds := by
  induction ds with
  | nil => rfl
  | cons d ds ih => simp [decodeDests, decodeDest_encodeDest, ih]

/-! ### Format A (R255, R257) -/

/-- A record whose words hold the fields of a Format A form (R255): each at its place. -/
structure RawRec.HoldsA (r : RawRec) (op sub : Nat) (f : FmtA) : Prop where
  fits : r.Fits
  op : bitsAt r.slot 56 8 = op
  ty : bitsAt r.slot 52 4 = f.ty.code
  sat : bitsAt r.slot 51 1 = f.sat.toNat
  rm : bitsAt r.slot 48 3 = f.rm.code
  immSel : bitsAt r.slot 43 2 = f.immSel.code
  pmode : bitsAt r.slot 41 2 = f.pmode.code
  sub : bitsAt r.slot 32 9 = sub
  imm32 : bitsAt r.slot 0 32 = f.imm32.toNat
  dests : r.dests = f.dests.map encodeDest
  ext : r.ext = f.immh.map BitVec.toNat

theorem dests_fit (ds : List Dest) : ∀ v ∈ ds.map encodeDest, v < 256 ^ 4 := by
  simp only [List.mem_map]
  rintro _ ⟨d, -, rfl⟩
  exact encodeDest_lt d

theorem encodeA_holds (op sub : Nat) (f : FmtA) (hop : op < 2 ^ 8) (hsub : sub < 2 ^ 9) (hn : f.dests.length ≤ 3) :
    (encodeA op sub f).HoldsA op sub f := by
  have h1 := f.ty.code_lt
  have h2 := Bool.toNat_lt f.sat
  have h3 := f.rm.code_lt
  have h4 := Bool.toNat_lt f.immh.isSome
  have h5 := f.immSel.code_lt
  have h6 := f.pmode.code_lt
  have h7 := f.imm32.isLt
  have hnd : bitsAt (encodeA op sub f).slot 46 2 = f.dests.length := by simp only [bitsAt, encodeA]; omega
  have hx : bitsAt (encodeA op sub f).slot 45 1 = f.immh.isSome.toNat := by simp only [bitsAt, encodeA]; omega
  refine ⟨⟨?_, dests_fit f.dests, ?_, ?_, ?_⟩, ?_, ?_, ?_, ?_, ?_, ?_, ?_, ?_, rfl, rfl⟩
  · simp only [encodeA]; omega
  · intro x h
    obtain ⟨y, -, rfl⟩ := Option.map_eq_some_iff.1 h
    exact y.isLt
  · rw [ndestOf, hnd, encodeA, List.length_map]
  · rw [extOf, hx, encodeA]; simp
  all_goals simp only [bitsAt, encodeA]; omega

theorem RawRec.HoldsA.decode {r : RawRec} {op sub : Nat} {f : FmtA} (h : r.HoldsA op sub f) : decodeA r = .ok (f, sub) := by
  obtain ⟨-, -, hty, hsat, hrm, him, hpm, hs, hi, hd, hx⟩ := h
  simp [decodeA, hty, hsat, hrm, him, hpm, hs, hi, hd, hx, decodeDests_map, ETy.ofCode_code, Rm.ofCode_code, ImmSel.ofCode_code,
    PMode.ofCode_code, Function.comp_def]

/-! ### Format M (R255, R257) -/

/-- A record whose words hold the fields of a Format M form (R255): each at its place. -/
structure RawRec.HoldsM (r : RawRec) (op acc sub : Nat) (m : FmtM) : Prop where
  fits : r.Fits
  op : bitsAt r.slot 56 8 = op
  acc : bitsAt r.slot 52 4 = acc
  scope : bitsAt r.slot 49 3 = m.scope.code
  zero48 : bitsAt r.slot 48 1 = 0
  zero43 : bitsAt r.slot 43 2 = 0
  pmode : bitsAt r.slot 41 2 = m.pmode.code
  pred : bitsAt r.slot 34 7 = m.pred.code
  own : bitsAt r.slot 27 7 = (SeqLink.own m.own).code
  succ : bitsAt r.slot 20 7 = m.succ.code
  off : bitsAt r.slot 0 20 = m.off.toNat
  dests : r.dests = m.dests.map encodeDest
  noExt : m.offh = none → r.ext = none
  ext : ∀ h, m.offh = some h → ∃ x, r.ext = some x ∧ bitsAt x 0 4 = sub ∧ bitsAt x 4 4 = 0 ∧ bitsAt x 8 24 = h.toNat

theorem encodeM_holds (op acc sub : Nat) (m : FmtM) (hop : op < 2 ^ 8) (hacc : acc < 2 ^ 4) (hsub : sub < 2 ^ 4) (hn : m.dests.length ≤ 3) :
    (encodeM op acc sub m).HoldsM op acc sub m := by
  have h1 := m.scope.code_lt
  have h2 := Bool.toNat_lt m.offh.isSome
  have h3 := m.pmode.code_lt
  have h4 := m.pred.code_lt
  have h5 := m.own.isLt
  have h6 := m.succ.code_lt
  have h7 := m.off.isLt
  have hnd : bitsAt (encodeM op acc sub m).slot 46 2 = m.dests.length := by simp only [bitsAt, encodeM]; omega
  have hx : bitsAt (encodeM op acc sub m).slot 45 1 = m.offh.isSome.toNat := by simp only [bitsAt, encodeM]; omega
  refine ⟨⟨?_, dests_fit m.dests, ?_, ?_, ?_⟩, ?_, ?_, ?_, ?_, ?_, ?_, ?_, ?_, ?_, ?_, rfl, ?_, ?_⟩
  · simp only [encodeM]; omega
  · intro x h
    obtain ⟨y, -, rfl⟩ := Option.map_eq_some_iff.1 h
    have := y.isLt
    omega
  · rw [ndestOf, hnd, encodeM, List.length_map]
  · rw [extOf, hx, encodeM]; simp
  on_goal 11 => intro h; rw [encodeM, h]; rfl
  on_goal 11 =>
    intro h hh
    have := h.isLt
    refine ⟨h.toNat * 2 ^ 8 + sub, by rw [encodeM, hh]; rfl, ?_, ?_, ?_⟩ <;> simp only [bitsAt] <;> omega
  all_goals simp only [bitsAt, encodeM, SeqLink.code_own]; omega

/-- A `fence` keeps its kind where the access code stands, and every other form its own access code. A sub-operation needs the extension word. -/
theorem RawRec.HoldsM.decode {r : RawRec} {op acc sub : Nat} {m : FmtM} (h : r.HoldsM op acc sub m)
    (hm : if op = 0x9E then m.acc = .n8 else acc = m.acc.code) (hsub : sub ≠ 0 → m.offh.isSome = true) : decodeM r = .ok (m, sub) := by
  obtain ⟨-, hop, hacc, hsc, h48, h43, hpm, hpred, hown, hsucc, hoff, hd, hnone, hext⟩ := h
  have haccess : Acc.ofCode (if bitsAt r.slot 56 8 = 0x9E then 0 else bitsAt r.slot 52 4) = some m.acc := by
    rw [hop, hacc]
    split at hm
    · rw [if_pos ‹_›, hm]; rfl
    · rw [if_neg ‹_›, hm, Acc.ofCode_code]
  obtain ⟨macc, scope, dests, pmode, pred, own, succ, off, offh⟩ := m
  cases offh with
  | none =>
    have hs : sub = 0 := by by_contra hs; simpa using hsub hs
    simp [decodeM, haccess, hsc, h48, h43, hpm, hpred, hown, hsucc, hoff, hd, hnone rfl, hs, decodeDests_map, Scope.ofCode_code,
      PMode.ofCode_code, SeqLink.ofCode_code]
  | some h =>
    obtain ⟨x, hx, hlow, hzero, hhigh⟩ := hext h rfl
    simp [decodeM, haccess, hsc, h48, h43, hpm, hpred, hown, hsucc, hoff, hd, hx, hlow, hzero, hhigh, decodeDests_map, Scope.ofCode_code,
      PMode.ofCode_code, SeqLink.ofCode_code]

/-! ### Format E (R255, R257) -/

/-- A record whose words hold the fields of a Format E form (R255): each at its place. -/
structure RawRec.HoldsE (r : RawRec) (op subop xf : Nat) (e : FmtE) : Prop where
  fits : r.Fits
  op : bitsAt r.slot 56 8 = op
  tfmt : bitsAt r.slot 52 4 = e.tfmt.code
  sat : bitsAt r.slot 51 1 = e.sat.toNat
  rm : bitsAt r.slot 48 3 = e.rm.code
  zero43 : bitsAt r.slot 43 2 = 0
  pmode : bitsAt r.slot 41 2 = e.pmode.code
  pred : bitsAt r.slot 34 7 = e.pred.code
  own : bitsAt r.slot 27 7 = (SeqLink.own e.own).code
  succ : bitsAt r.slot 20 7 = e.succ.code
  ta : bitsAt r.slot 12 8 = e.ta.toNat
  tb : bitsAt r.slot 4 8 = e.tb.toNat
  subop : bitsAt r.slot 0 4 = subop
  dests : r.dests = e.dests.map encodeDest
  noExt : e.ext = false → r.ext = none
  ext : e.ext = true → ∃ x, r.ext = some x ∧ bitsAt x 24 8 = e.tc.toNat ∧ bitsAt x 12 12 = e.count.toNat ∧ bitsAt x 0 12 = xf

theorem encodeE_holds (op subop xf : Nat) (e : FmtE) (hop : op < 2 ^ 8) (hsub : subop < 2 ^ 4) (hxf : xf < 2 ^ 12) (hn : e.dests.length ≤ 3) :
    (encodeE op subop xf e).HoldsE op subop xf e := by
  have h1 := e.tfmt.code_lt
  have h2 := Bool.toNat_lt e.sat
  have h3 := e.rm.code_lt
  have h4 := Bool.toNat_lt e.ext
  have h5 := e.pmode.code_lt
  have h6 := e.pred.code_lt
  have h7 := e.own.isLt
  have h8 := e.succ.code_lt
  have h9 := e.ta.isLt
  have h10 := e.tb.isLt
  have h11 := e.tc.isLt
  have h12 := e.count.isLt
  have hnd : bitsAt (encodeE op subop xf e).slot 46 2 = e.dests.length := by simp only [bitsAt, encodeE]; omega
  have hx : bitsAt (encodeE op subop xf e).slot 45 1 = e.ext.toNat := by simp only [bitsAt, encodeE]; omega
  refine ⟨⟨?_, dests_fit e.dests, ?_, ?_, ?_⟩, ?_, ?_, ?_, ?_, ?_, ?_, ?_, ?_, ?_, ?_, ?_, ?_, rfl, ?_, ?_⟩
  · simp only [encodeE]; omega
  · intro x h
    simp only [encodeE, Option.ite_none_right_eq_some, Option.some.injEq] at h
    omega
  · rw [ndestOf, hnd, encodeE, List.length_map]
  · rw [extOf, hx, encodeE]; cases e.ext <;> rfl
  on_goal 13 => intro h; rw [encodeE, h]; rfl
  on_goal 13 =>
    intro h
    refine ⟨_, by rw [encodeE, h]; rfl, ?_, ?_, ?_⟩ <;> simp only [bitsAt] <;> omega
  all_goals simp only [bitsAt, encodeE, SeqLink.code_own]; omega

/-- Without an extension word its fields are all zero. -/
theorem RawRec.HoldsE.decode {r : RawRec} {op subop xf : Nat} {e : FmtE} (h : r.HoldsE op subop xf e) (hz : e.xf = 0)
    (hx : e.ext = false → e.tc = 0 ∧ e.count = 0 ∧ xf = 0) : decodeE r = .ok (e, subop, xf) := by
  obtain ⟨-, -, htf, hsat, hrm, h43, hpm, hpred, hown, hsucc, hta, htb, hso, hd, hnone, hext⟩ := h
  obtain ⟨tfmt, sat, rm, dests, pmode, pred, own, succ, ta, tb, ext, tc, count, xf'⟩ := e
  subst hz
  cases ext with
  | false =>
    obtain ⟨rfl, rfl, rfl⟩ := hx rfl
    simp [decodeE, htf, hsat, hrm, h43, hpm, hpred, hown, hsucc, hta, htb, hso, hd, hnone rfl, bitsAt_zero, decodeDests_map, TFmt.ofCode_code,
      Rm.ofCode_code, PMode.ofCode_code, SeqLink.ofCode_code]
  | true =>
    obtain ⟨x, hx, htc, hcount, hxf⟩ := hext rfl
    simp [decodeE, htf, hsat, hrm, h43, hpm, hpred, hown, hsucc, hta, htb, hso, hd, hx, htc, hcount, hxf, decodeDests_map, TFmt.ofCode_code,
      Rm.ofCode_code, PMode.ofCode_code, SeqLink.ofCode_code]

/-! ### From opcodes to forms (R260, R261) -/

theorem firstBad_cons (ok : Bool) (r : Reject) (t : List (Bool × Reject)) :
    firstBad ((ok, r) :: t) = none ↔ ok = true ∧ firstBad t = none := by
  cases ok <;> simp [firstBad]

theorem pickPart_code (part : BitVec 3) (i : BitVec 3 → Instr) : pickPart (16 * part.toNat) i = .ok (i part) := by
  have h := part.isLt
  have h1 : 16 * part.toNat % 16 = 0 := by omega
  have h2 : 16 * part.toNat / 128 = 0 := by omega
  have h3 : 16 * part.toNat / 16 = part.toNat := by omega
  simp [pickPart, h1, h2, h3]

/-- The opcodes that parseRec reads as Format A (R261). -/
def opIsA (op : Nat) : Bool := op < 0x90 || (0xF0 ≤ op && op < 0x100 && op ≠ 0xF2 && op ≠ 0xF4 && op ≠ 0xF5)

theorem buildA_desc (i : Instr) (d : DescA) (h : i.desc = .a d) (hc : d.check = none) :
    opIsA d.op = true ∧ d.sub < 2 ^ 9 ∧ buildA d.op d.sub d.f = .ok i := by
  cases i <;> cases h
  case join three f => cases three <;> exact ⟨rfl, of_decide_eq_true rfl, rfl⟩
  case addc co f => cases co <;> exact ⟨rfl, of_decide_eq_true rfl, rfl⟩
  case subb bo f => cases bo <;> exact ⟨rfl, of_decide_eq_true rfl, rfl⟩
  case mulw odd f => cases odd <;> exact ⟨rfl, of_decide_eq_true rfl, rfl⟩
  case mix hi f => cases hi <;> exact ⟨rfl, of_decide_eq_true rfl, rfl⟩
  case unpk hi f => cases hi <;> exact ⟨rfl, of_decide_eq_true rfl, rfl⟩
  case cmp cc f => cases cc <;> exact ⟨rfl, of_decide_eq_true rfl, rfl⟩
  case fcmp cc f => cases cc <;> exact ⟨rfl, of_decide_eq_true rfl, rfl⟩
  case lea scale f =>
    have hs := scale.isLt
    have h1 : 16 * scale.toNat % 16 = 0 := by omega
    have h2 : 16 * scale.toNat / 64 = 0 := by omega
    have h3 : 16 * scale.toNat / 16 = scale.toNat := by omega
    exact ⟨rfl, by show 16 * scale.toNat < _; omega, by simp [buildA, h1, h2, h3]⟩
  case cvt d part mrg f =>
    have hd := d.code_lt
    have hp := part.isLt
    have hm := Bool.toNat_lt mrg
    have h1 : (d.code + 16 * part.toNat + 128 * mrg.toNat) % 16 = d.code := by omega
    have h2 : (d.code + 16 * part.toNat + 128 * mrg.toNat) / 256 = 0 := by omega
    have h3 : (d.code + 16 * part.toNat + 128 * mrg.toNat) / 16 % 2 ^ 3 = part.toNat := by omega
    have h4 : (d.code + 16 * part.toNat + 128 * mrg.toNat) / 128 % 2 = mrg.toNat := by omega
    have h5 : BitVec.ofNat 3 ((d.code + 16 * part.toNat + 128 * mrg.toNat) / 16) = part := BitVec.eq_of_toNat_eq h3
    exact ⟨rfl, by show d.code + 16 * part.toNat + 128 * mrg.toNat < _; omega, by simp [buildA, h1, h2, h4, h5, ETy.ofCode_code]⟩
  case mxq part f => exact ⟨rfl, by have := part.isLt; show 16 * part.toNat < _; omega, pickPart_code part (.mxq · f)⟩
  case mxdq part f => exact ⟨rfl, by have := part.isLt; show 16 * part.toNat < _; omega, pickPart_code part (.mxdq · f)⟩
  case tpack part f => exact ⟨rfl, by have := part.isLt; show 16 * part.toNat < _; omega, pickPart_code part (.tpack · f)⟩
  case tunpk part f => exact ⟨rfl, by have := part.isLt; show 16 * part.toNat < _; omega, pickPart_code part (.tunpk · f)⟩
  case srd reg f =>
    obtain ⟨ty, sat, rm, dests, immSel, pmode, imm32, immh⟩ := f
    simp only [DescA.check, firstBad_cons, Bool.and_eq_true, decide_eq_true_eq] at hc
    obtain ⟨-, -, ⟨rfl, -⟩, -⟩ := hc
    have hcode : (BitVec.ofNat 32 reg.code).toNat = reg.code := by
      have := reg.code_lt
      simp only [BitVec.toNat_ofNat]; omega
    refine ⟨rfl, of_decide_eq_true rfl, ?_⟩
    show (match SReg.ofCode (BitVec.ofNat 32 reg.code).toNat with | some reg => _ | none => _) = _
    rw [hcode, SReg.ofCode_code]; rfl
  all_goals exact ⟨rfl, of_decide_eq_true rfl, rfl⟩

theorem buildM_desc (i : Instr) (d : DescM) (h : i.desc = .m d) (hc : d.check = none) :
    (0x90 ≤ d.op ∧ d.op ≤ 0xA4) ∧ d.accCode < 2 ^ 4 ∧ d.sub < 2 ^ 4 ∧ (if d.op = 0x9E then d.m.acc = .n8 else d.accCode = d.m.acc.code) ∧
      d.needExt = decide (d.sub ≠ 0) ∧ buildM d.op d.accCode d.sub d.m = .ok i := by
  cases i <;> cases h
  case fence kind m =>
    simp only [DescM.check, firstBad_cons] at hc
    obtain ⟨hacc, -⟩ := hc
    cases kind <;> exact ⟨of_decide_eq_true rfl, of_decide_eq_true rfl, of_decide_eq_true rfl, by simpa [rowM] using hacc, rfl, rfl⟩
  all_goals exact ⟨of_decide_eq_true rfl, Acc.code_lt _, of_decide_eq_true rfl, rfl, rfl, rfl⟩

theorem pickBank_mmSubop (bank clr : Bool) (i : Bool → Bool → Instr) : pickBank (mmSubop bank clr) 0 i = .ok (i bank clr) := by
  cases bank <;> cases clr <;> rfl

theorem decodeDrain_codes (d : DrainF) : decodeDrain d.subop d.xf = some d := by
  obtain ⟨acc, clr, nout, rowsc, gsel⟩ := d
  have hg : gsel.code < 4 := by cases gsel <;> decide
  have ha : acc.code < 3 := by cases acc <;> decide
  have hn := nout.isLt
  have hc := Bool.toNat_lt clr
  have hr := Bool.toNat_lt rowsc
  have e1 : (acc.code + 4 * clr.toNat) % 4 = acc.code := by omega
  have e2 : (acc.code + 4 * clr.toNat) / 8 = 0 := by omega
  have e3 : (acc.code + 4 * clr.toNat) / 4 % 2 = clr.toNat := by omega
  have e4 : (gsel.code + 4 * rowsc.toNat + 8 * nout.toNat) / 32 = 0 := by omega
  have e5 : (gsel.code + 4 * rowsc.toNat + 8 * nout.toNat) / 8 = nout.toNat := by omega
  have e6 : (gsel.code + 4 * rowsc.toNat + 8 * nout.toNat) / 4 % 2 = rowsc.toNat := by omega
  have e7 : (gsel.code + 4 * rowsc.toNat + 8 * nout.toNat) % 4 = gsel.code := by omega
  simp [decodeDrain, DrainF.subop, DrainF.xf, e1, e2, e3, e4, e5, e6, e7, AccSel.ofCode_code, GSel.ofCode_code]

theorem DrainF.subop_lt (d : DrainF) : d.subop < 2 ^ 4 := by
  have hc := Bool.toNat_lt d.clr
  have ha : d.acc.code < 3 := by cases d.acc <;> decide
  simp only [DrainF.subop]; omega

theorem DrainF.xf_lt (d : DrainF) : d.xf < 2 ^ 12 := by
  have hg : d.gsel.code < 4 := by cases d.gsel <;> decide
  have hn := d.nout.isLt
  have hr := Bool.toNat_lt d.rowsc
  simp only [DrainF.xf]; omega

theorem mmSubop_lt (bank clr : Bool) : mmSubop bank clr < 2 ^ 4 := by cases bank <;> cases clr <;> decide

/-- The opcodes that parseRec reads as Format E (R261). -/
def opIsE (op : Nat) : Bool := (0xC0 ≤ op && op ≤ 0xD0) || op = 0xF2 || op = 0xF4 || op = 0xF5

theorem buildE_desc (i : Instr) (d : DescE) (h : i.desc = .e d) :
    opIsE d.op = true ∧ d.subop < 2 ^ 4 ∧ d.xf < 2 ^ 12 ∧ buildE d.op d.subop d.xf d.e = .ok i := by
  cases i <;> cases h
  case mmTern bank clr e => exact ⟨rfl, mmSubop_lt bank clr, of_decide_eq_true rfl, pickBank_mmSubop bank clr (.mmTern · · e)⟩
  case mmMx4 bank clr e => exact ⟨rfl, mmSubop_lt bank clr, of_decide_eq_true rfl, pickBank_mmSubop bank clr (.mmMx4 · · e)⟩
  case mmD clr e => cases clr <;> exact ⟨rfl, of_decide_eq_true rfl, of_decide_eq_true rfl, by simp [buildE, rowE]⟩
  case drain d e => exact ⟨rfl, d.subop_lt, d.xf_lt, by simp [buildE, rowE, decodeDrain_codes]⟩
  case drainM d e => exact ⟨rfl, d.subop_lt, d.xf_lt, by simp [buildE, rowE, decodeDrain_codes]⟩
  case swrEvsel n e =>
    have hx := (SReg.evsel n).code_lt
    exact ⟨rfl, of_decide_eq_true rfl, hx, by simp [buildE, buildSwr, rowE, show SReg.ofCode (0x10 + n.toNat) = _ from SReg.ofCode_code (.evsel n)]⟩
  case swrEvc n e =>
    have hx := (SReg.evc n).code_lt
    exact ⟨rfl, of_decide_eq_true rfl, hx, by simp [buildE, buildSwr, rowE, show SReg.ofCode (0x14 + n.toNat) = _ from SReg.ofCode_code (.evc n)]⟩
  all_goals exact ⟨rfl, of_decide_eq_true rfl, of_decide_eq_true rfl, rfl⟩

/-! ### Whole records -/

theorem RawRec.HoldsA.parse {r : RawRec} {op sub : Nat} {f : FmtA} (h : r.HoldsA op sub f) (hop : opIsA op = true) :
    parseRec r = buildA op sub f := by
  have hM : ¬ (0x90 ≤ op ∧ op ≤ 0xA4) := by simp [opIsA] at hop; omega
  have hE : ¬ (((0xC0 ≤ op ∧ op ≤ 0xD0) ∨ op = 0xF2) ∨ op = 0xF4) ∧ op ≠ 0xF5 := by simp [opIsA] at hop; omega
  simp [parseRec, h.op, h.decode, hM, hE]

theorem RawRec.HoldsM.parse {r : RawRec} {op acc sub : Nat} {m : FmtM} (h : r.HoldsM op acc sub m) (hop : 0x90 ≤ op ∧ op ≤ 0xA4)
    (hm : if op = 0x9E then m.acc = .n8 else acc = m.acc.code) (hsub : sub ≠ 0 → m.offh.isSome = true) :
    parseRec r = buildM op acc sub m := by
  simp [parseRec, h.op, h.acc, h.decode hm hsub, hop]

theorem RawRec.HoldsE.parse {r : RawRec} {op subop xf : Nat} {e : FmtE} (h : r.HoldsE op subop xf e) (hop : opIsE op = true) (hz : e.xf = 0)
    (hx : e.ext = false → e.tc = 0 ∧ e.count = 0 ∧ xf = 0) : parseRec r = buildE op subop xf e := by
  have hM : ¬ (0x90 ≤ op ∧ op ≤ 0xA4) := by simp [opIsE] at hop; omega
  have hE : ((0xC0 ≤ op && op ≤ 0xD0) || op = 0xF2 || op = 0xF4 || op = 0xF5) = true := hop
  simp only [parseRec, h.op, h.decode hz hx, Bool.and_eq_true, decide_eq_true_eq, hM, hE, if_true, if_false]

/-- The words of a well-formed instruction's record fit their places and parse to it, format by format. -/
theorem raw_fits_and_parses (i : Instr) (hwf : i.wf = true) : i.raw.Fits ∧ parseRec i.raw = .ok i := by
  have hc : i.desc.check = none := Option.isNone_iff_eq_none.1 hwf
  unfold Instr.raw
  cases hd : i.desc with
  | a d =>
    rw [hd] at hc
    obtain ⟨hop, hsub, hb⟩ := buildA_desc i d hd hc
    simp only [Desc.check, DescA.check, firstBad_cons, Bool.and_eq_true, decide_eq_true_eq] at hc
    obtain ⟨-, -, -, -, -, ⟨hn, -⟩, -⟩ := hc
    have h := encodeA_holds d.op d.sub d.f (by simp [opIsA] at hop; omega) hsub hn
    exact ⟨h.fits, (h.parse hop).trans hb⟩
  | m d =>
    rw [hd] at hc
    obtain ⟨hop, hacc, hsub, hm, hext, hb⟩ := buildM_desc i d hd hc
    simp only [Desc.check, DescM.check, firstBad_cons, Bool.and_eq_true, decide_eq_true_eq] at hc
    obtain ⟨-, -, hneed, -, -, ⟨hn, -⟩, -⟩ := hc
    have h := encodeM_holds d.op d.accCode d.sub d.m (by omega) hacc hsub hn
    exact ⟨h.fits, (h.parse hop hm (fun hs => by simpa [hext, hs] using hneed)).trans hb⟩
  | e d =>
    rw [hd] at hc
    obtain ⟨hop, hsub, hxf, hb⟩ := buildE_desc i d hd
    simp only [Desc.check, DescE.check, firstBad_cons, Bool.and_eq_true, Bool.or_eq_true, decide_eq_true_eq] at hc
    obtain ⟨-, -, -, -, ⟨⟨-, hz⟩, hx⟩, hn, -⟩ := hc
    have h := encodeE_holds d.op d.subop d.xf d.e (by simp [opIsE] at hop; omega) hsub hxf hn
    exact ⟨h.fits, (h.parse hop hz (fun he => by simpa [he, and_assoc] using hx)).trans hb⟩
  | event => simp [hd, Desc.check] at hc

/-- Settles O60: the words of a well-formed instruction are read back field by field, and its bytes word by word. -/
theorem roundTrip : Obligations.RoundTrip := by
  intro i hwf rest
  obtain ⟨hfits, hparse⟩ := raw_fits_and_parses i hwf
  have hbad : i.bad = none := Option.isNone_iff_eq_none.1 hwf
  rw [decode, encode, takeRec_bytes i.raw hfits]
  simp [decodeRec, hparse, hbad]

end Sys2Proof
end

section
/-!
PROOFS. Firings by format: a squashed firing of a Format A form (R112, R238, R239), obligation O8, and the firing of a chain
form (R328, R329, R354, R385), obligation O13.
-/
namespace Sys2Proof.Machine

/-- Every form whose record is of Format A fires through `fireA`, so a squashed firing is counted and nothing else. -/
theorem exec_squashed_of_desc {i : Instr} {d : DescA} {s : State} {c : Focus} (hd : i.desc = .a d) (hf : s.focus = some c)
    (hq : d.f.pmode.squashes c.aux = true) :
    exec i s = .next (s.countEvent (clusterOf c.pf) c.task 0x03 1).unfocus := by
  cases i <;> cases hd <;> delta exec
  case steer | select | wadv | wset | sink | idx | spawn | send | tagof | endt | tunpk | trap | temit | srd | time | chk =>
    exact fireA_squashed _ s c _ hf hq
  case mov | const | gate | join | addc | subb | mul | mulh | mulw | mad | div | rem | min | max | avg | sad | and | or | xor
    | andn | not | shl | shr | sar | rot | shrp | clz | ctz | popc | brev | bext | bdep | perm | mix | bcast | unpk | cmp
    | btst | blend | lea | fabs | fneg | fclass =>
    exact fireVal_squashed _ _ s c _ hf hq
  case add | sub | neg | abs | pack | fadd | fsub | fmul | fma | fmin | fmax | fcmp | frcp | frsq | fsqrt | fdiv | fexp2 |
    flog2 | ftanh | fsin | fcos | fsig | fround | fscl | cvt | famax | fsum | fdot2 | mxscale | mxq | mxdq | tpack =>
    exact fireFlg_squashed _ _ s c _ hf hq

/-- Every form whose record is of Format E fires through `fireE`. -/
theorem exec_eq_fireE_of_desc {i : Instr} {d : DescE} (hd : i.desc = .e d) (s : State) : exec i s = fireE i d.e s := by
  cases i <;> cases hd <;> rfl

theorem evselHits_iff (sel : Word) (task code : Nat) :
    evselHits sel task code = true ↔ sel.toNat / 2 ^ 32 = task ∧ sel.getLsbD 16 = true ∧ sel.toNat % 256 = code := by
  have hbit : sel.getLsbD 16 = decide (sel.toNat / 2 ^ 16 % 2 = 1) := by
    rw [← BitVec.testBit_toNat, Nat.testBit_eq_decide_div_mod_eq]
  simp only [evselHits, hbit, Bool.and_eq_true, decide_eq_true_eq, and_assoc]

/-- What one more event does to a counter of a cluster (R238, R239). -/
theorem countEvent_one_counter (f : Fab) (cl task code k : Nat) :
    let sel := tgetD f.evsel k 0
    let old := tgetD f.evc k 0
    let new := tgetD (f.countEvent cl task code 1).evc k 0
    if k / 4 = cl ∧ sel.toNat / 2 ^ 32 = task ∧ sel.getLsbD 16 = true ∧ sel.toNat % 256 = code then
      new.toNat % 2 ^ 48 = (old.toNat + 1) % 2 ^ 48 ∧ new.getLsbD 63 = (old.getLsbD 63 || decide (old.toNat % 2 ^ 48 = 2 ^ 48 - 1))
    else new = old := by
  simp only [countEvent_evc, evselHits_iff]
  split
  · exact evcAdd_one _
  · rfl

/-- Settles O8: the one thing that a squashed firing does is `countEvent`, whose effect on a counter is said above. -/
theorem squashedFiring : Obligations.SquashedFiring := by
  intro i d s c hd hf hq
  refine ⟨_, exec_squashed_of_desc hd hf hq, rfl, fun n hn cl => ?_⟩
  have hcl : (4 * cl + n) / 4 = cl := by omega
  have h := countEvent_one_counter s.fab (clusterOf c.pf) c.task 0x03 (4 * cl + n)
  rw [hcl] at h
  exact h

/-- A chain form's operation enters the output queue, squashed or not; a squashed one is counted first (R112, R273). -/
theorem fireChain_sends {i : Instr} {pm : PMode} {ea : Focus → Nat} {s : State} {c : Focus} (hf : s.focus = some c)
    (hi : exec i s = fireChain i pm ea s) : SendsChainOp i pm s c (ea c) := by
  refine ⟨_, hi.trans (by simp only [fireChain, hf]; rfl), c.chainOp i (pm.squashes c.aux) (ea c), ?_,
    rfl, rfl, rfl, rfl, rfl, rfl, rfl, rfl, rfl, rfl, rfl, rfl, rfl, rfl, rfl⟩
  have hclock : (if pm.squashes c.aux then s.countEvent (clusterOf c.pf) c.task 0x03 1 else s).clock = s.clock := by
    split <;> rfl
  rw [← congrArg Clock.cycle hclock]
  exact fired_plain _ _ _

/-- Two words side by side are the number that the model reads from them. -/
theorem ofNat_eq_append {m n : Nat} (h : BitVec m) (l : BitVec n) : BitVec.ofNat (m + n) (h.toNat * 2 ^ n + l.toNat) = h ++ l := by
  apply BitVec.eq_of_toNat_eq
  have hlt : h.toNat * 2 ^ n + l.toNat < 2 ^ (m + n) := by
    rw [pow_add]; nlinarith [h.isLt, l.isLt, Nat.two_pow_pos n]
  rw [BitVec.toNat_ofNat, Nat.mod_eq_of_lt hlt, BitVec.toNat_append, Nat.shiftLeft_eq, Nat.mul_comm,
    Nat.two_pow_add_eq_or_of_lt l.isLt]

theorem FmtM.ea_toNat (m : FmtM) (left : Word) : (m.ea left).toNat =
    match m.offh with
    | none => (left.toNat + (m.off.signExtend 64).toNat) % 2 ^ 64
    | some h => (left.toNat + ((h ++ m.off).signExtend 64).toNat) % 2 ^ 64 := by
  simp only [FmtM.ea, FmtM.offset, BitVec.toNat_add]
  cases m.offh with
  | none => rfl
  | some h => exact congrArg (fun o => (left.toNat + (BitVec.signExtend 64 o).toNat) % 2 ^ 64) (ofNat_eq_append h m.off)

/-- Settles O13: every form of Format M or E fires through `fireChain`. -/
theorem heldFormsFire : Obligations.HeldFormsFire := by
  refine ⟨fun i d s c hd hf => ?_, fun i d s c hd hf => fireChain_sends hf (exec_eq_fireE_of_desc hd s)⟩
  have h := fireChain_sends hf (exec_formM i d hd s)
  rw [FmtM.ea_toNat] at h
  exact h

end Sys2Proof.Machine
end

section
/-!
PROOFS. Rounding (R199, R205, R206): obligation O14, from the one rounding of `Fmt.round` and the two results beyond M.
-/
namespace Sys2Proof.Machine

/-- The modes and signs in which a value beyond M stays at M, as R206 lists them. -/
theorem overflowsToInf_eq_false_iff (rm : Rm) (neg : Bool) :
    overflowsToInf rm neg = false ↔ rm = .rtz ∨ (rm = .rdn ∧ neg = false) ∨ (rm = .rup ∧ neg = true) := by
  cases rm <;> simp [overflowsToInf]

theorem withSign_eq (f : Fmt) (neg : Bool) (mag : Nat) :
    f.withSign neg mag = (if neg then 2 ^ (f.width - 1) else 0) + mag := by
  cases neg <;> simp [Fmt.withSign]

theorem overflow_saturating (f : Fmt) (rm : Rm) (neg : Bool) :
    f.overflow rm true neg = (f.withSign neg f.maxMag, { Flags.none with ov := true, nx := true, sat := true }) := rfl

/-- R206 without saturation: M where the mode stays at M, and otherwise infinity, or the NaN of a format that has none. -/
theorem overflow_wrapping (f : Fmt) (rm : Rm) (neg : Bool) :
    f.overflow rm false neg = (if rm = .rtz ∨ (rm = .rdn ∧ neg = false) ∨ (rm = .rup ∧ neg = true) then f.withSign neg f.maxMag
      else if f.kind = .ieee then f.withSign neg f.infMag else f.canonNan, { Flags.none with ov := true, nx := true }) := by
  simp only [Fmt.overflow, ← overflowsToInf_eq_false_iff, Bool.false_eq_true, if_false]
  cases overflowsToInf rm neg <;> rfl

/-- Settles O14: `round_int` is the rounding, and the table beyond M is read off `Fmt.overflow` and `Fmt.infinite`. -/
theorem roundingRule : Obligations.RoundingRule := by
  refine ⟨fun f hf rm sat rho neg m e => round_int f hf rm sat rho neg m e _ rfl neg fun _ => rfl, fun x hx rm neg => ?_, fun rm neg => ?_⟩
  · simp only [List.mem_cons, List.not_mem_nil, or_false] at hx
    simp only [overflow_saturating, overflow_wrapping]
    obtain rfl | rfl | rfl | rfl | rfl := hx <;> cases neg <;> exact ⟨rfl, rfl, rfl, rfl⟩
  · simp only [overflow_saturating, overflow_wrapping]
    cases neg <;> exact ⟨rfl, rfl, rfl, rfl⟩

end Sys2Proof.Machine
end

section
/-!
PROOFS. The machine as a whole: reset (O54, O55), fixed words (O59), and what a step runs (R26, R108, R117, R272): O58.
-/
namespace Sys2Proof.Machine

/-! ### Reset -/

theorem phy_zero_read (off : Nat) : Phy.zero.read off = if off = 0x010 ∨ off = 0x018 then 0x4040404040404040 else 0 := by
  unfold Phy.read
  split_ifs <;> simp_all <;> rfl

/-- Settles O54: every part of the reset state is written out in the model. -/
theorem resetState : Obligations.ResetState :=
  ⟨rfl, rfl, rfl, rfl, rfl, rfl, fun ch off => by
    exact phy_zero_read off, fun _ _ => rfl, fun _ _ => rfl, fun _ _ => rfl, rfl, rfl, rfl, rfl, rfl⟩

/-- Settles O55: memory lists nothing, and the board's registers hold their first values. -/
theorem resetInvariants : Obligations.ResetInvariants := by
  unfold Obligations.ResetInvariants MemoryCanonical BoardLegal
  decide

/-! ### What a step runs -/

theorem step_idle {s : State} (h : s.agenda = []) : step s = .next s := by
  simp only [step, h]

theorem step_event {s : State} {b : Beat} {rest : List Beat} {i : Instr} {n : Nat} (h : s.agenda = b :: rest) (hc : b.cue = .event i n) :
    step s = exec i { (s.passTime b) with agenda := rest, subject := n, focus := none } := by
  simp only [step, h, hc]

/-- The state in which an element has its turn: time has passed, and the beat is spent. -/
def State.atTurn (s : State) (b : Beat) (rest : List Beat) : State := { (s.passTime b) with agenda := rest, focus := none }

theorem step_fires {s s' : State} {b : Beat} {rest : List Beat} {task pl f velem : Nat} {i : Instr} (h : s.agenda = b :: rest)
    (hc : b.cue = .fire task pl f velem) (ht : (s.atTurn b rest).turn task pl f velem = .fire i s') : step s = exec i s' := by
  rw [State.atTurn] at ht
  simp only [step, h, hc, ht]

theorem step_blocks {s s' : State} {b : Beat} {rest : List Beat} {task pl f velem : Nat} (h : s.agenda = b :: rest)
    (hc : b.cue = .fire task pl f velem) (ht : (s.atTurn b rest).turn task pl f velem = .block s') : step s = .next s' := by
  rw [State.atTurn] at ht
  simp only [step, h, hc, ht]

/-! ### The chosen candidate (R117) -/

theorem minBy_spec {α : Type} (key : α → Nat) {l : List α} {x : α} (h : minBy key l = some x) : x ∈ l ∧ ∀ y ∈ l, key x ≤ key y := by
  induction l generalizing x with
  | nil => simp [minBy] at h
  | cons a t ih =>
    simp only [minBy] at h
    cases ht : minBy key t with
    | none =>
      have hnil : t = [] := by
        cases t with
        | nil => rfl
        | cons b u => simp only [minBy] at ht; split at ht <;> (try split at ht) <;> simp at ht
      subst hnil
      simp_all [minBy]
    | some y =>
      obtain ⟨hy, hmin⟩ := ih ht
      simp only [ht] at h
      split at h <;> obtain rfl := Option.some.inj h
      next hle => exact ⟨List.mem_cons_self, List.forall_mem_cons.2 ⟨le_rfl, fun z hz => hle.trans (hmin z hz)⟩⟩
      next hle => exact ⟨List.mem_cons_of_mem _ hy, List.forall_mem_cons.2 ⟨by omega, hmin⟩⟩

/-- The chosen candidate is ready, and no candidate that could be chosen has a smaller key. -/
theorem choose_spec {fr : Fret} {p : Placement} {pf velem pe now : Nat} {x : Inst} (h : fr.choose p pf velem pe now = some x) :
    x ∈ fr.readyInsts p pf velem pe now ∧ ∀ y ∈ fr.readyInsts p pf velem pe now, fr.holdsBack velem y.slot y.gen = false →
      fr.rewrote ≠ some (32 * velem + y.slot, now) → fr.resident velem pe y = true → x.key p now ≤ y.key p now := by
  obtain ⟨hx, hmin⟩ := minBy_spec _ h
  refine ⟨(List.mem_filter.1 hx).1, fun y hy hback hrw hres => hmin y (List.mem_filter.2 ⟨hy, ?_⟩)⟩
  simp [hback, hrw, hres]

/-! ### The turn of an element (R26, R108, R272) -/

theorem FretSt.fires_iff (st : FretSt) : st.fires = true ↔ st = .live ∨ st = .service := by
  cases st <;> simp [FretSt.fires]

theorem Fret.slotInstr_of_decode {fr : Fret} {velem slot : Nat} {bytes tail : List Byte} {i : Instr}
    (hb : tget fr.slots (32 * velem + slot) = some bytes) (hd : decode bytes = .ok (i, tail)) : fr.slotInstr velem slot = .ok i := by
  simp only [Fret.slotInstr, tgetD, hb, Option.getD_some, hd]

/-- The turn of an element that may fire, and whose slots are all well: its chosen candidate is latched, where there is room. -/
theorem turn_chosen {n : State} {p : Placement} {task pl f velem : Nat} {x : Inst} {i : Instr}
    (hp : n.placement? task pl = some p) (hfz : p.frozen = false) (hfatal : n.board.fatal = false) (hnow : n.frozenNow = false)
    (hst : (n.fret (p.physFret f)).st = .live ∨ (n.fret (p.physFret f)).st = .service)
    (hown : (n.fret (p.physFret f)).owner = some (plKey task pl, f))
    (hturn : ((n.fret (p.physFret f)).elem (p.physElem f velem)).lastTurn ≠ some n.clock.cycle)
    (hslots : ∀ e ∈ ((n.fret (p.physFret f)).elem (p.physElem f velem)).entries, ∃ j, (n.fret (p.physFret f)).slotInstr velem e.slot = .ok j)
    (hx : (n.fret (p.physFret f)).choose p (p.physFret f) velem (p.physElem f velem) n.clock.cycle = some x)
    (hi : (n.fret (p.physFret f)).slotInstr velem x.slot = .ok i) :
    n.turn task pl f velem =
      if n.hasRoom task (p.physFret f) (p.physElem f velem) i
      then .fire i (n.latch p f velem (p.physFret f) (p.physElem f velem) i x)
      else .block (n.modElem (p.physFret f) (p.physElem f velem) (fun e =>
        e.blocked ((e.outHead.map (routeClass p (p.physFret f) (p.physElem f velem))).getD 0) n.clock.cycle)) := by
  simp only [State.turn, hp, hfz, hfatal, hnow, (FretSt.fires_iff _).2 hst, hown, ne_eq, not_true_eq_false, decide_false, hturn,
    Bool.not_true, Bool.or_self, Bool.false_eq_true, if_false]
  rw [List.findSome?_eq_none_iff.2 fun e he => by obtain ⟨j, hj⟩ := hslots e he; simp only [hj]]
  simp only [hx, hi]

/-- What the latching of a candidate leaves (R272): its focus, its element's tokens taken, and memory and placements as they were. -/
theorem latch_spec (n : State) (p : Placement) (f velem pf pe : Nat) (i : Instr) (x : Inst) :
    let xs := instEntries (n.elem pf pe).entries (portsOf i) x
    (n.latch p f velem pf pe i x).focus =
      some ⟨p.task, p.idx, f, velem, pf, pe, x.slot, x.tag, x.wave, x.gen, portData xs 0, portData xs 1, portData xs 2⟩ ∧
    (n.latch p f velem pf pe i x).elem pf pe = (n.elem pf pe).took xs n.clock.cycle ∧
    (n.latch p f velem pf pe i x).mem = n.mem ∧ (n.latch p f velem pf pe i x).fab.placements = n.fab.placements := by
  have hel : (n.modElem pf pe (fun e => e.took (instEntries (n.elem pf pe).entries (portsOf i) x) n.clock.cycle)).elem pf pe =
      (n.elem pf pe).took (instEntries (n.elem pf pe).entries (portsOf i) x) n.clock.cycle := by
    rw [State.elem_modElem, if_pos ⟨rfl, rfl⟩]
  refine ⟨rfl, ?_, ?_, ?_⟩ <;> simp only [State.latch] <;> split
  · exact hel
  · exact hel
  all_goals rfl

theorem blocked_spec (n : State) (pf pe cls now : Nat) :
    let t := n.modElem pf pe (fun e => e.blocked cls now)
    (t.elem pf pe).entries = (n.elem pf pe).entries ∧ (t.elem pf pe).outQ = (n.elem pf pe).outQ ∧ t.mem = n.mem ∧
      t.fab.placements = n.fab.placements := by
  simp only [State.elem_modElem, and_self, if_true]
  exact ⟨rfl, rfl, rfl, rfl⟩

/-- Settles O58: the two kinds of beat, the turn's chosen candidate, and what its latching or its blocking leaves. -/
theorem stepRunsDecoded : Obligations.StepRunsDecoded := by
  refine fun s => ⟨step_idle, fun b rest i n => step_event, ?_⟩
  intro b rest task pl f velem p x bytes i tail h hc n pf pe fr hp hfz hfatal hnow hst hown hturn hslots hx hb hd xs
  have hrun := turn_chosen (n := s.atTurn b rest) hp hfz hfatal hnow hst hown hturn hslots hx (Fret.slotInstr_of_decode hb hd)
  refine ⟨choose_spec hx, fun hroom => ⟨_, step_fires h hc (hrun.trans (if_pos hroom)), latch_spec n p f velem pf pe i x⟩,
    fun hroom => ⟨_, step_blocks h hc (hrun.trans (if_neg (Bool.eq_false_iff.1 hroom))), blocked_spec n pf pe _ _⟩⟩

/-! ### Fixed words -/

/-- Settles O59: the words decoded one by one. -/
theorem decodeWords : Obligations.DecodeWords := by
  refine ⟨by decide, by decide, by decide, by decide, ?_, ⟨_, by rfl⟩, ⟨_, by rfl⟩⟩
  refine ⟨⟨.s8, false, .rne, [⟨.left, 0, 1, 3, false⟩, ⟨.left, 0, 1, 3, false⟩], .none, .own 2, 3, .own 4, 4, 5, true, 8, 0, 0⟩,
    rfl, rfl, rfl, rfl, rfl, ?_⟩
  decide

end Sys2Proof.Machine
end

section
/-!
PROOFS. Looking up tasks, placements and threads after each operation that changes one, and what a fault does that is found as a
form fires (R133, R223).
-/
namespace Sys2Proof.Machine

/-! ### Lookups -/

theorem State.task?_modTask (s : State) (n m : Nat) (g : Task → Task) :
    (s.modTask n g).task? m = if m = n then (s.task? n).map g else s.task? m := by
  simp only [State.task?, State.modTask]
  split
  next h => rw [h, tget_tmod_same]
  next h => exact tget_tmod_ne _ _ _ _ h

@[simp] theorem State.task?_modTask_same (s : State) (n : Nat) (g : Task → Task) : (s.modTask n g).task? n = (s.task? n).map g := by
  rw [State.task?_modTask, if_pos rfl]

@[simp] theorem State.task?_modPlacement (s : State) (task pl n : Nat) (g : Placement → Placement) :
    (s.modPlacement task pl g).task? n = s.task? n := rfl

@[simp] theorem State.task?_putTrace (s : State) (r : TrRec) (n : Nat) : (s.putTrace r).task? n = s.task? n := rfl

@[simp] theorem State.placement?_modTask (s : State) (n task pl : Nat) (g : Task → Task) :
    (s.modTask n g).placement? task pl = s.placement? task pl := rfl

@[simp] theorem State.placement?_putTrace (s : State) (r : TrRec) (task pl : Nat) :
    (s.putTrace r).placement? task pl = s.placement? task pl := rfl

@[simp] theorem Placement.thread?_modThread_same (p : Placement) (tag : Nat) (g : Thread → Thread) :
    (p.modThread tag g).thread? tag = (p.thread? tag).map g := by
  simp only [Placement.thread?, Placement.modThread, tget_tmod_same]

/-- A STOP record is a trace record or nothing: it leaves what a trace record leaves. -/
theorem State.traceStop_placement? (s : State) (a b c d e f g h i j k task pl : Nat) :
    (s.traceStop a b c d e f g h i j k).placement? task pl = s.placement? task pl := by
  rw [traceStop_eq]; rfl

theorem State.traceStop_task? (s : State) (a b c d e f g h i j k n : Nat) :
    (s.traceStop a b c d e f g h i j k).task? n = s.task? n := by
  rw [traceStop_eq]; rfl

/-! ### Faults -/

/-- What a fault's report does: its record, stamped, and the cycle of its arrival join the task's reports, and nothing else changes but the
trace (R223). -/
theorem reportFault_spec {s : State} {task : Nat} {k : Task} (f : FaultRec) (hk : s.task? task = some k) :
    (∃ at_, (s.reportFault task f).task? task = some { k with reports := k.reports ++ [(s.stampFault f, at_)] }) ∧
    (∀ t pl, (s.reportFault task f).placement? t pl = s.placement? t pl) ∧
    s.reportFault task f = { s with
      fab := { s.fab with trFifo := (s.reportFault task f).fab.trFifo }
      sched := { s.sched with tasks := (s.reportFault task f).sched.tasks } } := by
  refine ⟨?_, fun t pl => ?_, ?_⟩
  · simp only [State.reportFault, State.task?_modTask_same, State.traceStop_task?, hk, Option.map_some]
    exact ⟨_, rfl⟩
  · simp only [State.reportFault, State.placement?_modTask, State.traceStop_placement?]
  · simp only [State.reportFault]
    rw [traceStop_eq]
    rfl

/-- A fault counted leaves its task with one fault more. -/
theorem countFault_task? {s : State} {task : Nat} {k : Task} (hk : s.task? task = some k) :
    (s.countFault task).task? task = some { k with nfault := min 0x10000 (k.nfault + 1) } := by
  simp only [State.countFault, State.task?_modTask_same, hk, Option.map_some]

/-- A fault found of a thread that exists: it is counted, joins those that wait with the thread, and lands where it can. -/
theorem findFault_of_thread {s : State} {f : FaultRec} {task : Nat} {p : Placement} {th : Thread} (hp : s.placement? task f.pl = some p)
    (hth : p.thread? f.tag = some th) :
    s.findFault f task = ((s.countFault task).modPlacement task f.pl (fun p => p.modThread f.tag
      (fun t => { t with faults := t.faults ++ [f] }))).landIfDue task f.pl f.tag := by
  have hp' : (s.countFault task).placement? task f.pl = some p := hp
  simp only [State.findFault, hp', hth]

/-- The thread's first fault that can land is the only one that it has. -/
theorem landing?_single {p : Placement} {tag : Nat} {th : Thread} {f : FaultRec} (hth : p.thread? tag = some th)
    (hstop : th.stopped = false) (hf : th.faults = [f]) : p.landing? tag = if faultLands th.oldest f then some f else none := by
  simp only [Placement.landing?, hth, hstop, hf, List.find?_cons, List.find?_nil, Bool.false_eq_true, if_false]
  cases faultLands th.oldest f <;> rfl

/-- A fault not tied to a chain operation, found in a wave that is neither the oldest nor committed, waits with its thread (R133). -/
theorem findFault_waits {s : State} {f : FaultRec} {task : Nat} {p : Placement} {th : Thread} {k : Task}
    (hp : s.placement? task f.pl = some p) (hth : p.thread? f.tag = some th) (hnone : th.faults = []) (hstop : th.stopped = false)
    (hk : s.task? task = some k) (hlands : faultLands th.oldest f = false) :
    let t := s.findFault f task
    (∃ p', t.placement? task f.pl = some p' ∧ p'.thread? f.tag = some { th with faults := [f] } ∧ p' = { p with threads := p'.threads }) ∧
    t.task? task = some { k with nfault := min 0x10000 (k.nfault + 1) } ∧
    t = { s with fab := { s.fab with placements := t.fab.placements }, sched := { s.sched with tasks := t.sched.tasks } } := by
  have hput := placement_mod (s.countFault task) task f.pl (fun p => p.modThread f.tag (fun t => { t with faults := t.faults ++ [f] })) p hp
  have hth' := thread_mod p f.tag (fun t => { t with faults := t.faults ++ [f] }) th hth
  simp only [hnone, List.nil_append] at hth'
  have hland := landing?_single hth' hstop rfl
  simp only [hlands, Bool.false_eq_true, if_false] at hland
  rw [findFault_of_thread hp hth, State.landIfDue]
  simp only [hput, hland]
  exact ⟨⟨_, rfl, hth', rfl⟩, countFault_task? hk, rfl⟩

/-- A fault that can land at once: the thread's uncommitted waves are discarded, and its record, seated and stamped, is reported (R133). -/
theorem findFault_lands {s : State} {f : FaultRec} {task : Nat} {p : Placement} {th : Thread} {k : Task}
    (hp : s.placement? task f.pl = some p) (hth : p.thread? f.tag = some th) (hnone : th.faults = []) (hstop : th.stopped = false)
    (hk : s.task? task = some k) (hlands : faultLands th.oldest f = true) :
    let t := s.findFault f task
    (∃ p', t.placement? task f.pl = some p' ∧ p'.thread? f.tag = some { th with stopped := true, faults := [] } ∧
      p'.wob = p.wob.filter (fun o => o.tag ≠ f.tag) ∧ p' = { p with threads := p'.threads, wob := p'.wob }) ∧
    (∃ r at_, t.task? task = some { k with reports := k.reports ++ [(r, at_)], nfault := min 0x10000 (k.nfault + 1) } ∧
      r = { f with pf := r.pf, pelem := r.pelem, time := s.clock.ptpNs, waiting := r.waiting }) ∧
    t = { s with fab := { s.fab with placements := t.fab.placements, trFifo := t.fab.trFifo }
                 sched := { s.sched with tasks := t.sched.tasks } } := by
  have hput := placement_mod (s.countFault task) task f.pl (fun p => p.modThread f.tag (fun t => { t with faults := t.faults ++ [f] })) p hp
  have hth' := thread_mod p f.tag (fun t => { t with faults := t.faults ++ [f] }) th hth
  simp only [hnone, List.nil_append] at hth'
  have hland := landing?_single hth' hstop rfl
  simp only [hlands, if_true] at hland
  have hfind : s.findFault f task = ((s.countFault task).modPlacement task f.pl (fun p => p.modThread f.tag
      (fun t => { t with faults := t.faults ++ [f] }))).landFault task f.pl f.tag f := by
    rw [findFault_of_thread hp hth, State.landIfDue]
    simp only [hput, hland]
  simp only [hfind, State.landFault]
  generalize hs : (s.countFault task).modPlacement task f.pl (fun p => p.modThread f.tag (fun t => { t with faults := t.faults ++ [f] })) = s1 at hput
  have hdisc := placement_mod s1 task f.pl (fun p => p.discard f.tag) _ hput
  have hk1 : (s1.modPlacement task f.pl (fun p => p.discard f.tag)).task? task = some { k with nfault := min 0x10000 (k.nfault + 1) } := by
    rw [← hs]; exact countFault_task? hk
  obtain ⟨⟨at_, htask⟩, hpl, hrest⟩ := reportFault_spec (s1.stampFault (s1.seatFault task f)) hk1
  refine ⟨⟨_, (hpl _ _).trans hdisc, ?_, rfl, rfl⟩, ⟨_, at_, htask, ?_⟩, ?_⟩
  · exact (thread_mod _ f.tag _ _ hth').trans rfl
  · have hseat : s1.seatFault task f = { f with pf := (s1.seatFault task f).pf, pelem := (s1.seatFault task f).pelem } := by
      unfold State.seatFault; split <;> rfl
    simp only [State.stampFault]
    rw [hseat, ← hs]
    rfl
  · rw [hrest, ← hs]
    rfl

end Sys2Proof.Machine
end

section
/-!
PROOFS. Format A forms that renumber, read or fault: obligations O10 (R74, R278, R280 to R283), O11 (R386, R388) and O12 (R133).
-/
namespace Sys2Proof.Machine

/-- A form whose firing sends one result. -/
theorem fireA_emits {i : Instr} {f : FmtA} {s : State} {c : Focus} {g : Focus → Word → Word → Word → State → State} {x tag wave : Nat}
    {res side : Option Word} (hf : s.focus = some c) (hq : f.pmode.squashes c.aux = false) (hi : exec i s = fireA f s g)
    (hg : g c (f.left c) (f.right c) c.aux s = s.emit c x tag wave f.dests res side) :
    ∃ t, exec i s = .next t ∧ Fired s t c (firedToks s x tag wave f.dests res side) Flags.none :=
  ⟨_, (hi.trans (fireA_fires f s c g hf hq)).trans (congrArg (fun t => Host.Outcome.next (State.unfocus t)) hg),
    fired_emit s c x tag wave f.dests res side⟩

theorem workOf_eq {s : State} {c : Focus} {p : Placement} {th : Thread} (hp : s.placement? c.task c.pl = some p)
    (hth : p.thread? c.tag = some th) : s.workOf c = th.work := by
  simp only [State.workOf, hp, hth, Option.map_some, Option.getD_some]

theorem ordinalOf_eq {s : State} {c : Focus} {p : Placement} {th : Thread} (hp : s.placement? c.task c.pl = some p)
    (hth : p.thread? c.tag = some th) : s.ordinalOf c = th.ordinal := by
  simp only [State.ordinalOf, hp, hth, Option.map_some, Option.getD_some]

/-! ### Renumbering and threads -/

/-- R74, R280: where no width follows the first 0, a field's place is told by the widths before it alone. -/
theorem workField_eq (ws : List Nat) (work i : Nat) (h : (ws.drop (ws.takeWhile (· ≠ 0)).length).sum = 0) :
    workField ws work i = if i < (ws.takeWhile (· ≠ 0)).length then
      work / 2 ^ (((ws.take (ws.takeWhile (· ≠ 0)).length).drop (i + 1)).sum) % 2 ^ ws.getD i 0 else 0 := by
  rw [workField]
  split
  next hi =>
    generalize (ws.takeWhile (· ≠ 0)).length = n at h hi
    have hsplit : ws.drop (i + 1) = (ws.take n).drop (i + 1) ++ ws.drop n := by
      by_cases hn : n ≤ ws.length
      · conv_lhs => rw [← List.take_append_drop n ws]
        rw [List.drop_append_of_le_length (by rw [List.length_take]; omega)]
      · rw [List.take_of_length_le (by omega), List.drop_eq_nil_of_le (as := ws) (i := n) (by omega), List.append_nil]
    rw [hsplit, List.sum_append, h, Nat.add_zero]
  next => rfl

/-- Settles O10: each form sends one item, whose parts are read off its definition. -/
theorem renumberingAndThreadForms : Obligations.RenumberingAndThreadForms := by
  constructor
  · intro f s c hf hq
    refine ⟨fireA_emits hf hq (exec_wadv _ _) rfl, fireA_emits hf hq (exec_wset _ _) ?_, fireA_emits hf hq (exec_send _ _) ?_,
      fireA_emits hf hq (exec_tagof _ _) rfl⟩ <;> simp [Nat.shiftRight_eq_div_pow]
  intro f s c p th k hf hq hp hth hk n i
  refine ⟨fun hsum => fireA_emits hf hq (exec_idx _ _) ?_, ?_, ?_⟩
  · have hws : ((s.task? c.task).map Task.widths).getD [] = k.widths := by rw [hk]; rfl
    simp only [workOf_eq hp hth, hws, workField_eq _ _ _ hsum]
    rfl
  · refine ⟨_, (exec_spawn _ _).trans (fireA_fires f s c _ hf hq), ?_⟩
    simp only [workOf_eq hp hth, ordinalOf_eq hp hth]
    exact fired_plain _ _ _
  · refine ⟨_, (exec_endt _ _).trans (fireA_fires f s c _ hf hq), ?_⟩
    simp only [hp]
    rfl

/-! ### Reads of the system -/

/-- `srd` of a register that its task may read. -/
theorem srd_emits {reg : SReg} {f : FmtA} {s : State} {c : Focus} {v : Word} (hf : s.focus = some c)
    (hq : f.pmode.squashes c.aux = false) (hv : s.sregRead c reg = some v) :
    ∃ t, exec (.srd reg f) s = .next t ∧ Fired s t c (firedToks s 0 c.tag c.wave f.dests (some v) none) Flags.none := by
  refine fireA_emits hf hq (exec_srd _ _ _) ?_
  simp only [hv]

/-- Settles O11: the value of each read, and the one trace record of a `temit`. -/
theorem systemReads : Obligations.SystemReads := by
  intro f s c p k hf hq hp hk cl gives
  have hread : ∀ {reg v}, s.sregRead c reg = some v → gives (.srd reg f) v := srd_emits hf hq
  have hplace : s.placement? c.task c.pl = some p := hp
  have htemit := fireA_fires f s c (fun c l _ _ s =>
    match s.task? c.task with
    | some t => if t.trc then s.putTrace (s.temitRec c l t.fn) else s
    | none => s) hf hq
  simp only [hk] at htemit
  refine ⟨fun hbit => fireA_emits hf hq (exec_chk _ _) ?_, fireA_emits hf hq (exec_time _ _) rfl, fun htrc => ?_, fun htrc => ⟨(s.putTrace (s.temitRec c (f.left c) k.fn)).unfocus, ?_, ⟨s.temitRec c (f.left c) k.fn, ?_, rfl, rfl, rfl, rfl, rfl, rfl, rfl, rfl, rfl, rfl⟩, ?_, rfl⟩,
    hread rfl, hread rfl, hread rfl, hread ?_, hread rfl, hread rfl, hread rfl, hread ?_, fun n => ⟨hread rfl, hread rfl⟩,
    fun hsvc => ⟨hread ?_, hread ?_, hread ?_⟩⟩
  · rw [getLsbD0, decide_eq_true_eq] at hbit
    exact if_pos hbit
  · rw [htrc] at htemit
    exact htemit
  · rw [htrc] at htemit
    exact htemit
  · exact tgetD_tput_same _ _ _ _
  · exact fun n hn => tgetD_tput_ne _ _ _ _ _ hn
  · simp only [State.sregRead, hp, Option.map_some, Option.getD_some]
  · simp only [State.sregRead, hp, Option.map_some, Option.getD_some]
  all_goals simp only [State.sregRead, hk, Option.map_some, Option.getD_some, hsvc, if_true]

/-! ### Faults found as a form fires -/

/-- A form that finds a fault in the oldest uncommitted wave of its thread: it lands. -/
theorem fireA_fault_lands {f : FmtA} {s : State} {c : Focus} {g : Focus → Word → Word → Word → State → State} {p : Placement} {th : Thread}
    {k : Task} {code : FCode} {addr : Nat} (hf : s.focus = some c) (hq : f.pmode.squashes c.aux = false)
    (hp : s.placement? c.task c.pl = some p) (hth : p.thread? c.tag = some th) (hnone : th.faults = []) (hstop : th.stopped = false)
    (hk : s.task? c.task = some k) (hwave : c.wave = th.oldest)
    (hg : g c (f.left c) (f.right c) c.aux s = s.findFault (s.firingFault c code addr) c.task) :
    ∃ t, fireA f s g = .next t ∧
      (∃ p', t.placement? c.task c.pl = some p' ∧ p'.thread? c.tag = some { th with stopped := true, faults := [] } ∧
        p'.wob = p.wob.filter (fun o => o.tag ≠ c.tag) ∧ p' = { p with threads := p'.threads, wob := p'.wob }) ∧
      (∃ r at_, t.task? c.task = some { k with reports := k.reports ++ [(r, at_)], nfault := min 0x10000 (k.nfault + 1) } ∧ r.code = code ∧ r.addr = addr ∧
        r.kind = .notTied ∧ r.wave = c.wave ∧ r.tag = c.tag ∧ r.pl = c.pl ∧ r.fret = c.fret ∧ r.velem = c.velem ∧
        r.slot = c.slot ∧ r.work = th.work ∧ r.time = s.clock.ptpNs) ∧
      t = { s with fab := { s.fab with placements := t.fab.placements, trFifo := t.fab.trFifo }
                   sched := { s.sched with tasks := t.sched.tasks }, focus := none } := by
  have hlands : faultLands th.oldest (s.firingFault c code addr) = true := by
    simp [faultLands, State.firingFault, hwave]
  obtain ⟨hpl, ⟨r, at_, htask, hr⟩, hrest⟩ := findFault_lands (f := s.firingFault c code addr) hp hth hnone hstop hk hlands
  have hwork : (s.firingFault c code addr).work = th.work := workOf_eq hp hth
  refine ⟨_, (fireA_fires f s c g hf hq).trans (congrArg (fun t => Host.Outcome.next (State.unfocus t)) hg), hpl, ⟨r, at_, htask, ?_⟩, ?_⟩
  · rw [hr]
    exact ⟨rfl, rfl, rfl, rfl, rfl, rfl, rfl, rfl, rfl, hwork, rfl⟩
  · exact congrArg State.unfocus hrest

/-- A form that finds a fault in a younger wave of its thread: it waits with the thread. -/
theorem fireA_fault_waits {f : FmtA} {s : State} {c : Focus} {g : Focus → Word → Word → Word → State → State} {p : Placement} {th : Thread}
    {k : Task} {code : FCode} {addr : Nat} (hf : s.focus = some c) (hq : f.pmode.squashes c.aux = false)
    (hp : s.placement? c.task c.pl = some p) (hth : p.thread? c.tag = some th) (hnone : th.faults = []) (hstop : th.stopped = false)
    (hk : s.task? c.task = some k) (hwave : c.wave ≠ th.oldest) (hcom : waveCommitted c.wave th.oldest = false)
    (hg : g c (f.left c) (f.right c) c.aux s = s.findFault (s.firingFault c code addr) c.task) :
    ∃ t, fireA f s g = .next t ∧
      (∃ p' r, t.placement? c.task c.pl = some p' ∧ p'.thread? c.tag = some { th with faults := [r] } ∧ r.code = code ∧
        r.addr = addr ∧ p' = { p with threads := p'.threads }) ∧
      t.task? c.task = some { k with nfault := min 0x10000 (k.nfault + 1) } ∧
      t = { s with fab := { s.fab with placements := t.fab.placements }, sched := { s.sched with tasks := t.sched.tasks }, focus := none } := by
  have hlands : faultLands th.oldest (s.firingFault c code addr) = false := by
    simp [faultLands, State.firingFault, hwave, hcom]
  obtain ⟨⟨p', hpl, hthr, heq⟩, htask, hrest⟩ := findFault_waits (f := s.firingFault c code addr) hp hth hnone hstop hk hlands
  refine ⟨_, (fireA_fires f s c g hf hq).trans (congrArg (fun t => Host.Outcome.next (State.unfocus t)) hg), ⟨p', _, hpl, hthr, rfl, rfl, heq⟩, htask, ?_⟩
  exact congrArg State.unfocus hrest

/-- Settles O12: each of the four forms finds its fault, which lands in the oldest wave and waits in a younger one. -/
theorem firingFaults : Obligations.FiringFaults := by
  intro f s c p th k hf hq hp hth hnone hstop hk lands
  have hof : ∀ {i : Instr} {g : Focus → Word → Word → Word → State → State} {code : FCode} {addr : Nat}, exec i s = fireA f s g →
      g c (f.left c) (f.right c) c.aux s = s.findFault (s.firingFault c code addr) c.task → lands i code addr := by
    intro i g code addr hi hg
    refine ⟨fun hwave => ?_, fun hwave hcom => ?_⟩ <;> rw [hi]
    · exact fireA_fault_lands hf hq hp hth hnone hstop hk hwave hg
    · exact fireA_fault_waits hf hq hp hth hnone hstop hk hwave hcom hg
  have hsrd : ∀ {reg : SReg}, s.sregRead c reg = none → lands (.srd reg f) .priv reg.code := fun hnone => by
    refine hof (exec_srd _ _ _) ?_
    simp only [hnone]
  refine ⟨hof (exec_trap _ _) rfl, fun hbit => hof (exec_chk _ _) ?_, fun hsvc => ⟨hsrd ?_, hsrd ?_, hsrd ?_⟩,
    fun part hpart => hof (exec_tunpk _ _ _) ?_⟩
  · rw [getLsbD0, decide_eq_false_iff_not] at hbit
    exact if_neg hbit
  · simp only [State.sregRead, hk, Option.map_some, Option.getD_some, hsvc, Bool.false_eq_true, if_false]
  · simp only [State.sregRead, hk, Option.map_some, Option.getD_some, hsvc, Bool.false_eq_true, if_false]
  · simp only [State.sregRead, hk, Option.map_some, Option.getD_some, hsvc, Bool.false_eq_true, if_false]
  · have hbad : fluTunpk part.toNat (f.left c) = none := if_pos hpart
    simp only [hbad]

end Sys2Proof.Machine
end

section
/-!
PROOFS. Quantisation and ternary packing: obligations O22 (R203, R325, R326) and O21 (R200, R210, R322 to R324).
-/
namespace Sys2Proof.Machine

/-! ### A group of lanes at a part of the word -/

/-- The lanes of a group of n lanes, placed at part p of an otherwise empty word. -/
theorem laneOf_part (w n p j V : Nat) (hV : V < 2 ^ (w * n)) (hfit : w * (n * (p + 1)) ≤ 64) :
    laneOf w (BitVec.ofNat 64 (V * 2 ^ (w * n * p))) j = if n * p ≤ j ∧ j < n * (p + 1) then V / 2 ^ (w * (j - n * p)) % 2 ^ w else 0 := by
  have hsize : V * 2 ^ (w * n * p) < 2 ^ 64 := by
    calc V * 2 ^ (w * n * p) < 2 ^ (w * n) * 2 ^ (w * n * p) := by gcongr
      _ = 2 ^ (w * (n * (p + 1))) := by rw [← pow_add]; congr 1; ring
      _ ≤ 2 ^ 64 := Nat.pow_le_pow_right (by norm_num) hfit
  rw [laneOf, BitVec.toNat_ofNat, Nat.mod_eq_of_lt hsize]
  by_cases hlow : n * p ≤ j
  · obtain ⟨i, rfl⟩ := Nat.exists_eq_add_of_le hlow
    have hshift : V * 2 ^ (w * n * p) / 2 ^ (w * (n * p + i)) = V / 2 ^ (w * i) := by
      rw [show w * (n * p + i) = w * i + w * n * p by ring, pow_add, Nat.mul_div_mul_right _ _ (by positivity)]
    rw [hshift, Nat.add_sub_cancel_left]
    split
    next => rfl
    next hout =>
      have hi : n ≤ i := by
        by_contra hlt
        exact hout ⟨hlow, by rw [Nat.mul_succ]; omega⟩
      rw [Nat.div_eq_of_lt (hV.trans_le (Nat.pow_le_pow_right (by norm_num) (Nat.mul_le_mul_left w hi))), Nat.zero_mod]
  · obtain ⟨i, hi⟩ := Nat.exists_eq_add_of_lt (not_le.1 hlow)
    have hshift : V * 2 ^ (w * n * p) / 2 ^ (w * j) = V * 2 ^ (w * i) * 2 ^ w := by
      rw [show w * n * p = w * i + w + w * j by rw [mul_assoc, hi]; ring, pow_add, ← mul_assoc, Nat.mul_div_cancel _ (by positivity),
        pow_add, ← mul_assoc]
    rw [hshift, Nat.mul_mod_left, if_neg (fun h => hlow h.1)]

/-! ### Trit bytes (R203, R325, R326) -/

theorem tritDigit_lt (x : Int) : tritDigit x < 3 := by
  unfold tritDigit; split_ifs <;> omega

/-- Five trits, the first the lowest. -/
def tritByte (d : Nat → Nat) : Nat := ((List.range 5).map (fun i => d i * 3 ^ i)).sum

theorem tritByte_lt {d : Nat → Nat} (h : ∀ i, d i < 3) : tritByte d < 2 ^ 8 := by
  have h0 := h 0; have h1 := h 1; have h2 := h 2; have h3 := h 3; have h4 := h 4
  simp only [tritByte, List.range, List.range.loop, List.map_cons, List.map_nil, List.sum_cons, List.sum_nil]
  omega

theorem fluTpack_eq (part : Nat) (L : Word) : fluTpack part L =
    (BitVec.ofNat 64 (tritByte (fun i => tritDigit (laneVal .s8x8 L i)) * 2 ^ (8 * part)),
      Flags.when ((List.range 5).any (fun i => decide (laneVal .s8x8 L i > 1 ∨ laneVal .s8x8 L i < -1))) Flags.SAT) := by
  simp only [fluTpack, tritByte, List.range, List.range.loop, List.map_cons, List.map_nil, List.foldr_cons, List.foldr_nil,
    List.sum_cons, List.sum_nil, List.any_cons, List.any_nil, Bool.decide_or]
  congr 3
  ring

theorem fluTunpk_legal {part : Nat} {L : Word} (h : laneOf 8 L part ≤ 242) :
    fluTunpk part L = some (mapLanes 8 8 (fun i => if i < 5 then tritLane (laneOf 8 L part / 3 ^ i % 3) else 0)) :=
  if_neg (by omega)

theorem tritLane_lt (d : Nat) : tritLane d < 2 ^ 8 := by
  unfold tritLane; split_ifs <;> norm_num

/-- Settles O22: the byte of five trits at its part, and the trits of a legal byte as lanes. -/
theorem ternaryForms : Obligations.TernaryForms := by
  intro f part _ digit
  refine ⟨produces_flg (fun s => exec_tpack s _ _) fun s c => ?_, fun s c hf hq hlegal => ?_⟩
  · rw [fluTpack_eq]
    refine ⟨fun j _ => ?_, rfl⟩
    have hlane := laneOf_part 8 1 part.toNat j _ (tritByte_lt (fun i => tritDigit_lt (laneVal .s8x8 (f.left c) i))) (by omega)
    refine hlane.trans ?_
    by_cases hj : j = part.toNat
    · rw [if_pos (by omega), if_pos hj, show j - 1 * part.toNat = 0 by omega, Nat.mul_zero, pow_zero, Nat.div_one,
        Nat.mod_eq_of_lt (tritByte_lt fun i => tritDigit_lt _)]
      rfl
    · rw [if_neg (by omega), if_neg hj]
  · obtain ⟨t, ht, hfired⟩ := fireA_emits (i := .tunpk part f) hf hq (exec_tunpk _ _ _) (by simp only [fluTunpk_legal hlegal]; rfl)
    refine ⟨t, _, ht, hfired, fun j hj => ?_⟩
    rw [laneOf_mapLanes 8 8 _ j hj (by norm_num), Nat.mod_eq_of_lt]
    · rfl
    · split
      · exact tritLane_lt _
      · norm_num

/-! ### Rounding into E2M1 (R200, R205) -/

theorem unpack_e2m1_code {c : Nat} (hc : c ≤ 7) : (fmtE2m1.unpack c).rat = codeVal 1 (-1) c := by
  interval_cases c <;> simp [Fmt.unpack, fmtE2m1, Fmt.width, Fmt.emin, Fmt.bias, FVal.rat, codeVal]

theorem unpack_e2m1_fin (c : Nat) : ∃ neg m e, fmtE2m1.unpack c = .fin neg m e := by
  simp only [Fmt.unpack, fmtE2m1]
  split_ifs <;> simp_all

/-- A nonzero magnitude below 2^(top + 1) that is rounded to a multiple of 2^q becomes at most 4 of them, and where q = top - 1 at least 2. -/
theorem e2m1_multiple_bounds {rm : Rm} {neg : Bool} {rho m k : Nat} {e q : Int} (hm : m ≠ 0)
    (hq : e + Nat.log2 m - 1 ≤ q) (h : RoundsAt rm neg rho ((m : ℚ) * 2 ^ e) q ((k : ℚ) * 2 ^ q)) :
    k ≤ 4 ∧ (q = e + Nat.log2 m - 1 → 2 ≤ k) := by
  have hlog : Int.log 2 ((m : ℚ) * 2 ^ e) = e + Nat.log2 m := by simpa using log_mag m e hm 0 le_rfl one_pos
  have hpos : (0 : ℚ) < (m : ℚ) * 2 ^ e := by
    have : (0 : ℚ) < m := by exact_mod_cast Nat.pos_of_ne_zero hm
    positivity
  have hhi : (m : ℚ) * 2 ^ e < 2 ^ (e + Nat.log2 m + 1) := by
    have := (Int.lt_zpow_iff_log_lt (b := 2) (by norm_num) hpos (x := e + Nat.log2 m + 1)).2 (by rw [hlog]; omega)
    exact_mod_cast this
  have hlo : (2 : ℚ) ^ (e + Nat.log2 m) ≤ (m : ℚ) * 2 ^ e := by
    have := (Int.zpow_le_iff_le_log (b := 2) (by norm_num) hpos (x := e + Nat.log2 m)).2 hlog.ge
    exact_mod_cast this
  obtain ⟨hk_lo, hk_hi⟩ := roundsAt_bounds _ _ _ _ _ _ h
  have hfour : ⌊(m : ℚ) * 2 ^ e / 2 ^ q⌋₊ < 4 := by
    rw [Nat.floor_lt (by positivity), div_lt_iff₀ (by positivity)]
    calc (m : ℚ) * 2 ^ e < 2 ^ (e + Nat.log2 m + 1) := hhi
      _ ≤ 2 ^ (2 + q) := zpow_le_zpow_right₀ (by norm_num) (by omega)
      _ = ((4 : Nat) : ℚ) * 2 ^ q := by rw [zpow_add₀ (by norm_num)]; norm_num
  refine ⟨by omega, fun heq => le_trans ?_ hk_lo⟩
  rw [Nat.le_floor_iff (by positivity), le_div_iff₀ (by positivity)]
  calc ((2 : Nat) : ℚ) * 2 ^ q = 2 ^ (1 + q) := by rw [zpow_add₀ (by norm_num)]; norm_num
    _ = 2 ^ (e + Nat.log2 m) := by rw [heq]; congr 1; omega
    _ ≤ _ := hlo

/-- The code and the inexact flag of the one rounding into E2M1 are those of R205; a quantisation keeps no more of it. -/
theorem e2m1_round_spec (rm : Rm) (rho : Nat) (neg : Bool) (m : Nat) (e : Int) : ∃ r : Nat × Flags,
    Rounds fmtE2m1 rm true rho (FVal.fin neg m e).rat neg r ∧ r.1 < 2 ^ 4 ∧
    r.1 = (fmtE2m1.round rm true rho ⟨neg, m, e, false⟩).1 ∧ r.2.nx = (fmtE2m1.round rm true rho ⟨neg, m, e, false⟩).2.nx := by
  by_cases hm : m = 0
  · refine ⟨_, ?_, ?_, rfl, rfl⟩ <;> simp only [hm, Fmt.round, if_true]
    · simp [Rounds, FVal.rat]
    · cases neg <;> decide
  have hpos : (0 : ℚ) < (m : ℚ) * 2 ^ e := by
    have : (0 : ℚ) < m := by exact_mod_cast Nat.pos_of_ne_zero hm
    positivity
  have habs : |(FVal.fin neg m e).rat| = (m : ℚ) * 2 ^ e := by
    cases neg <;> simp [FVal.rat, abs_of_pos hpos]
  have hne : (FVal.fin neg m e).rat ≠ 0 := fun h => by rw [h, abs_zero] at habs; exact hpos.ne habs
  have hsign : decide ((FVal.fin neg m e).rat < 0) = neg := by
    cases neg
    · simpa [FVal.rat] using hpos.le
    · simpa [FVal.rat] using hpos
  have hlog : Int.log 2 ((m : ℚ) * 2 ^ e) = e + Nat.log2 m := by simpa using log_mag m e hm 0 le_rfl one_pos
  set top : Int := e + (Nat.log2 m : Int) with htop
  have hxtop : (⟨neg, m, e, false⟩ : Exact).top = top := rfl
  obtain ⟨s1, s2⟩ := roundAt_spec rm rho neg m e (max top 0 - 1) hm 0 le_rfl one_pos (by simp)
  obtain ⟨u1, -⟩ := roundAt_spec rm rho neg m e (top - 1) hm 0 le_rfl one_pos (by simp)
  simp only [add_zero, ne_eq, not_true_eq_false, decide_false] at s1 s2 u1
  have hround : fmtE2m1.round rm true rho ⟨neg, m, e, false⟩ =
      let kr := roundAt rm rho ⟨neg, m, e, false⟩ (max top 0 - 1)
      let mag := (max top 0).toNat * 2 + kr.1
      if mag > 7 then fmtE2m1.overflow rm true neg
      else (fmtE2m1.withSign neg mag, { Flags.none with nx := kr.2, uf := kr.2 && (decide (top < 0) &&
        !(decide (top = -1) && decide ((roundAt rm rho ⟨neg, m, e, false⟩ (top - 1)).1 ≥ 4))) }) := by
    rw [Fmt.round, if_neg hm]
    simp only [hxtop]
    norm_num [fmtE2m1, Fmt.emin, Fmt.bias, Fmt.maxMag]
  rw [hround]
  generalize roundAt rm rho ⟨neg, m, e, false⟩ (max top 0 - 1) = kr at s1 s2
  generalize roundAt rm rho ⟨neg, m, e, false⟩ (top - 1) = ku at u1
  obtain ⟨hk, hk2⟩ := e2m1_multiple_bounds hm (by omega) s1
  set mag := (max top 0).toNat * 2 + kr.1 with hmag
  have hval : codeVal 1 (-1) mag = (kr.1 : ℚ) * 2 ^ (max top 0 - 1) := by
    have hmk := codeVal_mk 1 (-1) (max top 0).toNat kr.1 (by omega) (by
      by_cases htop0 : top ≤ 0
      · left; omega
      · right; have := hk2 (by omega); omega)
    rw [pow_one, ← hmag] at hmk
    rw [hmk]
    congr 2
    omega
  have hmax : fmtE2m1.maxVal = codeVal 1 (-1) 7 := unpack_e2m1_code le_rfl
  have hcmp : (kr.1 : ℚ) * 2 ^ (max top 0 - 1) > fmtE2m1.maxVal ↔ mag > 7 := by
    rw [hmax, ← hval]; exact (codeVal_mono 1 (-1)).lt_iff_lt
  refine ⟨if mag > 7 then fmtE2m1.overflow rm true neg else (fmtE2m1.withSign neg mag, { Flags.none with
    nx := kr.2, uf := kr.2 && decide ((ku.1 : ℚ) * 2 ^ (top - 1) < 2 ^ fmtE2m1.emin) }), ?_, ?_, ?_, ?_⟩
  · rw [Rounds, if_neg hne]
    have hstep : max (top - (fmtE2m1.fbits : Int)) (fmtE2m1.emin - fmtE2m1.fbits) = max top 0 - 1 := by
      have hemin : fmtE2m1.emin = 0 := rfl
      have hfbits : fmtE2m1.fbits = 1 := rfl
      omega
    simp only [habs, hsign, hlog, hstep]
    refine ⟨_, _, s1, u1, fun hbig => if_pos (hcmp.1 hbig), fun hfit => ?_⟩
    have hsmall : ¬ mag > 7 := fun h => (hcmp.2 h).not_ge hfit
    refine ⟨mag, not_lt.1 hsmall, (unpack_e2m1_code (not_lt.1 hsmall)).trans hval, ?_⟩
    rw [if_neg hsmall, s2]
  · split
    next => rw [overflow_saturating]; cases neg <;> decide
    next hsmall => rw [withSign_eq]; cases neg <;> simp [fmtE2m1, Fmt.width] <;> omega
  all_goals simp only; split <;> rfl

/-! ### MXFP4 (R210, R322 to R324) -/

theorem mxElement_fin (neg : Bool) (m : Nat) (e : Int) {code : Nat} (rm : Rm) (rho : Nat) (hcode : code ≠ 0xFF) :
    ∃ q : Nat × Flags, Rounds fmtE2m1 rm true rho ((FVal.fin neg m e).rat / (2 : ℚ) ^ ((code : ℤ) - 127)) neg q ∧ q.1 < 2 ^ 4 ∧
      mxElement (.fin neg m e) code rm rho = (q.1, Flags.when q.2.nx Flags.NX) := by
  obtain ⟨q, hq, hlt, hcode1, hnx⟩ := e2m1_round_spec rm rho neg m (e - ((code : Int) - 127))
  have hrat : (FVal.fin neg m (e - ((code : Int) - 127))).rat = (FVal.fin neg m e).rat / (2 : ℚ) ^ ((code : ℤ) - 127) := by
    simp only [FVal.rat, zpow_sub₀ (two_ne_zero (α := ℚ)), mul_div_assoc]
  refine ⟨q, hrat ▸ hq, hlt, ?_⟩
  simp only [mxElement, if_neg hcode, hcode1, hnx]
  cases (fmtE2m1.round rm true rho ⟨neg, m, e - ((code : Int) - 127), false⟩).2.nx <;> rfl

theorem mxElement_lt (x : FVal) (code : Nat) (rm : Rm) (rho : Nat) : (mxElement x code rm rho).1 < 2 ^ 4 := by
  by_cases hcode : code = 0xFF
  · simp [mxElement, hcode]
  cases x with
  | nan s => simp [mxElement, hcode]
  | inf neg => simp only [mxElement, if_neg hcode]; cases neg <;> decide
  | fin neg m e =>
    obtain ⟨q, -, hlt, heq⟩ := mxElement_fin neg m e rm rho hcode
    rw [heq]
    exact hlt

theorem mxValue_of_code {code4 code : Nat} (hcode : code ≠ 0xFF) : ∃ neg m e,
    fmtE2m1.unpack code4 = .fin neg m e ∧ mxValue code4 code = .fin neg m (e + ((code : Int) - 127)) := by
  obtain ⟨neg, m, e, h⟩ := unpack_e2m1_fin code4
  exact ⟨neg, m, e, h, by simp only [mxValue, if_neg hcode, h]⟩

/-- R324: a restored element is the code's value times the scale, rounded once. -/
theorem mxValue_rounds (F : Fmt) (hF : F ∈ fmts) {code4 code : Nat} (hcode : code ≠ 0xFF) :
    Rounds F .rne false 0 ((fmtE2m1.unpack code4).rat * (2 : ℚ) ^ ((code : ℤ) - 127)) (fmtE2m1.unpack code4).neg?
      (F.finish .rne false 0 (mxValue code4 code).res) := by
  obtain ⟨neg, m, e, h, hv⟩ := mxValue_of_code (code4 := code4) hcode
  rw [hv, h]
  refine round_int F hF .rne false 0 neg m _ _ ?_ neg fun _ => rfl
  simp only [FVal.rat, zpow_add₀ (two_ne_zero (α := ℚ)), mul_assoc]

/-- A finite nonzero binary32 or BF16 value lies below 2^128. -/
theorem unpack_top_le {F : Fmt} (hk : F.kind = .ieee) (he : F.ebits = 8) {v : Nat} {neg : Bool} {m : Nat} {e : Int}
    (h : F.unpack v = .fin neg m e) (hm : m ≠ 0) : e + Nat.log2 m ≤ 127 := by
  have hbias : F.bias = 127 := by rw [Fmt.bias, he]; rfl
  have hemin : F.emin = -126 := by rw [Fmt.emin, hbias]; rfl
  simp only [Fmt.unpack, hk, he, hemin, hbias, decide_true, Bool.true_and, decide_eq_true_eq] at h
  have hfr : v % 2 ^ F.fbits < 2 ^ F.fbits := Nat.mod_lt _ (by positivity)
  have hex : v / 2 ^ F.fbits % 2 ^ 8 < 256 := Nat.mod_lt _ (by norm_num)
  generalize v / 2 ^ F.fbits % 2 ^ 8 = ex at h hex
  generalize v % 2 ^ F.fbits = fr at h hfr
  split_ifs at h with hinf hfr0 h0 <;> simp at h
  · obtain ⟨-, rfl, rfl⟩ := h
    have := (Nat.log2_lt hm).2 hfr
    omega
  · obtain ⟨-, rfl, rfl⟩ := h
    have : Nat.log2 (2 ^ F.fbits + fr) < F.fbits + 1 := (Nat.log2_lt hm).2 (by rw [pow_succ]; omega)
    omega

/-- R322: the scale code of a finite magnitude. -/
theorem mxCode_fin {neg : Bool} {m : Nat} {e : Int} (htop : m ≠ 0 → e + Nat.log2 m ≤ 127) :
    let r := mxCode (FVal.fin neg m e).abs
    let k : ℤ := Int.log 2 |(FVal.fin neg m e).rat| - 2 + 127
    if m = 0 then r = (0, Flags.none) else if k < 0 then r = (0, Flags.SCALEFLOOR)
    else (r.1 : ℤ) = k ∧ k ≤ 252 ∧ r.2 = Flags.none := by
  by_cases hm : m = 0
  · simp [mxCode, FVal.abs, hm]
  have hpos : (0 : ℚ) < (m : ℚ) * 2 ^ e := by
    have : (0 : ℚ) < m := by exact_mod_cast Nat.pos_of_ne_zero hm
    positivity
  have habs : |(FVal.fin neg m e).rat| = (m : ℚ) * 2 ^ e := by cases neg <;> simp [FVal.rat, abs_of_pos hpos]
  have hlog : Int.log 2 ((m : ℚ) * 2 ^ e) = e + Nat.log2 m := by simpa using log_mag m e hm 0 le_rfl one_pos
  have hle := htop hm
  simp only [habs, hlog, if_neg hm, mxCode, FVal.abs]
  split
  · rfl
  · rw [if_neg (by omega)]
    exact ⟨by simp only; omega, by omega, rfl⟩

/-- Settles O21: the code of lane 0, the codes of the lanes, and the values restored, each by its rule above. -/
theorem quantiseForms : Obligations.QuantiseForms := by
  intro f hty F n w
  have hF : F ∈ fmts := fmt_mem f.ty
  have hkind : F.kind = .ieee ∧ F.ebits = 8 := by
    obtain h | h := hty <;> simp only [F, h] <;> exact ⟨rfl, rfl⟩
  have hn : n = 2 ∨ n = 4 := by
    obtain h | h := hty <;> simp [n, h] <;> decide
  refine ⟨produces_flg (fun s => exec_mxscale s _) fun s c => ?_, fun part hpart => ⟨?_, ?_⟩⟩
  · have hval : fluMxscale f.ty (f.left c) = (BitVec.ofNat 64 (mxCode (F.unpack (laneOf w (f.left c) 0)).abs).1,
      { Flags.none with scaleFloor := (mxCode (F.unpack (laneOf w (f.left c) 0)).abs).2.scaleFloor }) := rfl
    rw [hval]
    cases hx : F.unpack (laneOf w (f.left c) 0) with
    | nan b => exact ⟨rfl, rfl⟩
    | inf neg => exact ⟨rfl, rfl⟩
    | fin neg m e =>
      have hspec := mxCode_fin (neg := neg) (unpack_top_le hkind.1 hkind.2 hx)
      generalize mxCode (FVal.fin neg m e).abs = r at hspec
      simp only at hspec ⊢
      split_ifs at hspec ⊢
      · rw [hspec]; exact ⟨rfl, rfl⟩
      · rw [hspec]; exact ⟨rfl, rfl⟩
      · obtain ⟨hcode, hle, hflags⟩ := hspec
        refine ⟨?_, hle, by rw [hflags]⟩
        rw [BitVec.toNat_ofNat, Nat.mod_eq_of_lt (by omega), hcode]
  · refine produces_flg (fun s => exec_mxq s _ _) fun s c =>
      ⟨fun i => mxElement (laneF f.ty (f.left c) i) ((f.right c).toNat % 256) f.rm ((s.srdIn c).rho i), fun j hj => ?_, fun i hi => ?_, ?_⟩
    · have hfit : 4 * (n * (part.toNat + 1)) ≤ 64 := by
        obtain h | h := hn <;> rw [h] at hpart ⊢ <;> omega
      simp only [fluMxq, List.map_map]
      generalize hV : packLanes 4 (List.map _ (List.range f.ty.lanes)) = V
      have hlt : V < 2 ^ (4 * n) := hV ▸ (packLanes_lt 4 _).trans_eq (by rw [List.length_map, List.length_range])
      rw [laneOf_part 4 n part.toNat j V hlt hfit]
      split
      next hin =>
        have hi : j - n * part.toNat < n := by rw [Nat.mul_succ] at hin; omega
        rw [← hV, packLanes_lane 4 _ _ (by simpa using hi)]
        simp only [List.getElem_map, List.getElem_range, Function.comp_apply]
        exact Nat.mod_eq_of_lt (mxElement_lt ..)
      next => rfl
    · beta_reduce
      by_cases hcode : (f.right c).toNat % 256 = 0xFF
      · simp only [mxElement, if_pos hcode]
      rw [if_neg hcode, laneF]
      cases hx : F.unpack (laneOf w (f.left c) i) with
      | nan b => simp only [mxElement, if_neg hcode]
      | inf neg => simp only [mxElement, if_neg hcode]
      | fin neg m e =>
        obtain ⟨q, hq, -, heq⟩ := mxElement_fin neg m e f.rm ((s.srdIn c).rho i) hcode
        exact ⟨q, hq, heq⟩
    · simp only [fluMxq, List.map_map]; rfl
  · refine produces_flg (fun s => exec_mxdq s _ _) fun s c =>
      ⟨fun i => F.finish .rne false 0 (mxValue (laneOf 4 (f.left c) (n * part.toNat + i)) ((f.right c).toNat % 256)).res, fun i hi => ⟨?_, ?_⟩, ?_⟩
    · exact (laneOf_mapLanesF _ _ _ _ hi (width_mul_lanes _).le).trans (Nat.mod_eq_of_lt ((finish_lt F hF ..).trans_eq (by
        rw [fmt_width _ (by obtain h | h := hty <;> simp [h, tyE])])))
    · split
      next hcode => simp only [hcode, mxValue, if_true]; rfl
      next hcode => exact mxValue_rounds F hF hcode
    · simp only [fluMxdq, mapLanesF, List.map_map]; rfl

end Sys2Proof.Machine
end

section
/-!
PROOFS. What each operation on the state keeps: the registers of the package as they were or legal, and both memories in canonical
form. One lemma per operation, in the order of their definitions; O56 and O57 follow from them.
-/
namespace Sys2Proof.Machine

/-! ### Legal states -/

/-- A board whose registers are legal (R26, R30, R31, R46). -/
def Board.Legal (b : Board) : Prop :=
  b.phase ∈ [0, 1, 2, 3, 4, 7, 8, 15] ∧ (b.fatal = true ↔ b.phase = 15) ∧
  (1200 ≤ b.clk ∧ b.clk ≤ 2700 ∧ b.clk % 50 = 0) ∧
  (∀ c, b.clkNext = some c → 1200 ≤ c ∧ c ≤ 2700 ∧ c % 50 = 0) ∧
  (1000 ≤ b.plim.toNat ∧ b.plim.toNat ≤ 3400) ∧ b.duty ≤ 16 ∧ b.lossEvents ≤ 0xFFFF ∧ b.lossLines ≤ 0xFFFF

/-- A state that follows another keeps its registers legal, and each of its memories in canonical form. -/
def State.Follows (s t : State) : Prop :=
  (s.board.Legal → t.board.Legal) ∧ (Memory.wf s.mem.hbm = true → Memory.wf t.mem.hbm = true) ∧
    (Memory.wf s.mem.hostMem = true → Memory.wf t.mem.hostMem = true)

/-- An outcome that leads only to states that follow the one in which it comes about. -/
def Outcome.Keeps (s : State) (o : Out) : Prop := ∀ t, o = .next t → s.Follows t

@[simp] theorem keeps_next (s t : State) : Outcome.Keeps s (.next t) ↔ s.Follows t := by simp [Outcome.Keeps]
@[simp] theorem keeps_fault (s : State) (f : Fault) : Outcome.Keeps s (.fault f) := by simp [Outcome.Keeps]
@[simp] theorem keeps_refused (s : State) (r : Refusal) : Outcome.Keeps s (.refused r) := by simp [Outcome.Keeps]

theorem State.Follows.refl (s : State) : s.Follows s := ⟨id, id, id⟩

theorem State.Follows.trans {s t u : State} (h : s.Follows t) (h' : t.Follows u) : s.Follows u := by
  obtain ⟨hb, hm, hh⟩ := h
  obtain ⟨hb', hm', hh'⟩ := h'
  exact ⟨hb' ∘ hb, hm' ∘ hm, hh' ∘ hh⟩

/-! ### Folds and branches -/

/-- A premise of a simp lemma. Where rewriting by definitional equations alone proves a premise, simp cannot assign the proof: the step through
this name is one that has a proof of its own. -/
def Everywhere (p : Prop) : Prop := p

@[simp] theorem everywhere_iff (p : Prop) : Everywhere p ↔ p := by
  unfold Everywhere
  exact ⟨fun h => h, fun h => h⟩

@[simp] theorem foldl_board {α : Type} (g : State → α → State) (l : List α) (s : State) (h : Everywhere (∀ s x, (g s x).board = s.board)) :
    (l.foldl g s).board = s.board := by
  induction l generalizing s with
  | nil => rfl
  | cons x l ih => rw [List.foldl_cons, ih]; exact h s x

@[simp] theorem foldl_mem {α : Type} (g : State → α → State) (l : List α) (s : State) (h : Everywhere (∀ s x, (g s x).mem = s.mem)) :
    (l.foldl g s).mem = s.mem := by
  induction l generalizing s with
  | nil => rfl
  | cons x l ih => rw [List.foldl_cons, ih]; exact h s x

@[simp] theorem foldl_fst_board {α β : Type} (g : State × β → α → State × β) (l : List α) (a : State × β)
    (h : Everywhere (∀ a x, (g a x).1.board = a.1.board)) : (l.foldl g a).1.board = a.1.board := by
  induction l generalizing a with
  | nil => rfl
  | cons x l ih => rw [List.foldl_cons, ih]; exact h a x

@[simp] theorem foldl_fst_mem {α β : Type} (g : State × β → α → State × β) (l : List α) (a : State × β)
    (h : Everywhere (∀ a x, (g a x).1.mem = a.1.mem)) : (l.foldl g a).1.mem = a.1.mem := by
  induction l generalizing a with
  | nil => rfl
  | cons x l ih => rw [List.foldl_cons, ih]; exact h a x

/-- What every step of a fold keeps, the fold keeps. -/
theorem foldl_induct {α β : Type} {P : β → Prop} {g : β → α → β} (h : ∀ b x, P b → P (g b x)) (l : List α) {b : β} (hb : P b) : P (l.foldl g b) := by
  induction l generalizing b with
  | nil => exact hb
  | cons x l ih => exact ih (h b x hb)

@[simp] theorem foldl_hbm_wf {α : Type} (g : State → α → State) (l : List α) (s : State)
    (h : Everywhere (∀ s x, Memory.wf s.mem.hbm = true → Memory.wf (g s x).mem.hbm = true)) (hs : Memory.wf s.mem.hbm = true) :
    Memory.wf (l.foldl g s).mem.hbm = true :=
  foldl_induct (P := fun s : State => Memory.wf s.mem.hbm = true) ((everywhere_iff _).1 h) l hs

@[simp] theorem foldl_hostMem_wf {α : Type} (g : State → α → State) (l : List α) (s : State)
    (h : Everywhere (∀ s x, Memory.wf s.mem.hostMem = true → Memory.wf (g s x).mem.hostMem = true)) (hs : Memory.wf s.mem.hostMem = true) :
    Memory.wf (l.foldl g s).mem.hostMem = true :=
  foldl_induct (P := fun s : State => Memory.wf s.mem.hostMem = true) ((everywhere_iff _).1 h) l hs

@[simp] theorem foldl_fst_hbm_wf {α β : Type} (g : State × β → α → State × β) (l : List α) (a : State × β)
    (h : Everywhere (∀ a x, Memory.wf a.1.mem.hbm = true → Memory.wf (g a x).1.mem.hbm = true)) (hs : Memory.wf a.1.mem.hbm = true) :
    Memory.wf (l.foldl g a).1.mem.hbm = true :=
  foldl_induct (P := fun a : State × β => Memory.wf a.1.mem.hbm = true) ((everywhere_iff _).1 h) l hs

@[simp] theorem foldl_fst_hostMem_wf {α β : Type} (g : State × β → α → State × β) (l : List α) (a : State × β)
    (h : Everywhere (∀ a x, Memory.wf a.1.mem.hostMem = true → Memory.wf (g a x).1.mem.hostMem = true)) (hs : Memory.wf a.1.mem.hostMem = true) :
    Memory.wf (l.foldl g a).1.mem.hostMem = true :=
  foldl_induct (P := fun a : State × β => Memory.wf a.1.mem.hostMem = true) ((everywhere_iff _).1 h) l hs

@[simp] theorem foldl_mem_hbm_wf {α : Type} (g : Mem → α → Mem) (l : List α) (m : Mem)
    (h : Everywhere (∀ m x, Memory.wf m.hbm = true → Memory.wf (g m x).hbm = true)) (hm : Memory.wf m.hbm = true) :
    Memory.wf (l.foldl g m).hbm = true :=
  foldl_induct (P := fun m : Mem => Memory.wf m.hbm = true) ((everywhere_iff _).1 h) l hm

@[simp] theorem foldl_mem_hostMem_wf {α : Type} (g : Mem → α → Mem) (l : List α) (m : Mem)
    (h : Everywhere (∀ m x, Memory.wf m.hostMem = true → Memory.wf (g m x).hostMem = true)) (hm : Memory.wf m.hostMem = true) :
    Memory.wf (l.foldl g m).hostMem = true :=
  foldl_induct (P := fun m : Mem => Memory.wf m.hostMem = true) ((everywhere_iff _).1 h) l hm

@[simp] theorem foldl_board_legal {α : Type} (g : State → α → State) (l : List α) (s : State)
    (h : Everywhere (∀ s x, s.board.Legal → (g s x).board.Legal)) (hs : s.board.Legal) : (l.foldl g s).board.Legal :=
  foldl_induct (P := fun s : State => s.board.Legal) ((everywhere_iff _).1 h) l hs

@[simp] theorem memPut_canonical (m : Memory) (a : Nat) (b : Byte) (h : Memory.wf m = true) : Memory.wf (memPut m a b) = true := memPut_wf m a b h
@[simp] theorem memPutBytes_canonical (m : Memory) (a : Nat) (bs : List Byte) (h : Memory.wf m = true) : Memory.wf (memPutBytes m a bs) = true :=
  memPutBytes_wf m a bs h
@[simp] theorem memory_nil_canonical : Memory.wf [] = true := memory_nil_wf

@[simp] theorem ite_board (c : Prop) [Decidable c] (s t : State) : (if c then s else t).board = if c then s.board else t.board := apply_ite State.board c s t
@[simp] theorem ite_mem (c : Prop) [Decidable c] (s t : State) : (if c then s else t).mem = if c then s.mem else t.mem := apply_ite State.mem c s t

@[simp] theorem settleCounters_board (s b : State) : (s.settleCounters b).board = s.board := rfl
@[simp] theorem settleCounters_hbm (s b : State) : (s.settleCounters b).mem.hbm = s.mem.hbm := rfl
@[simp] theorem settleCounters_hostMem (s b : State) : (s.settleCounters b).mem.hostMem = s.mem.hostMem := rfl
@[simp] theorem giveHdm_board (s b : State) (pa n : Nat) : (s.giveHdm b pa n).board = s.board := rfl
@[simp] theorem giveHdm_hbm (s b : State) (pa n : Nat) : (s.giveHdm b pa n).mem.hbm = s.mem.hbm := rfl
@[simp] theorem giveHdm_hostMem (s b : State) (pa n : Nat) : (s.giveHdm b pa n).mem.hostMem = s.mem.hostMem := rfl

@[simp] theorem setBoard_board (s : State) (g : Board → Board) : (s.setBoard g).board = g s.board := rfl
@[simp] theorem setBoard_mem (s : State) (g : Board → Board) : (s.setBoard g).mem = s.mem := rfl

@[simp] theorem toPhase_board (s : State) (n : Nat) : (s.toPhase n).board = { s.board with phase := n, phaseSince := s.clock.ns } := rfl
@[simp] theorem toPhase_mem (s : State) (n : Nat) : (s.toPhase n).mem = s.mem := rfl

@[simp] theorem legal_beat (b : Board) (x : BitVec 16) (n : Nat) : Board.Legal { b with beat := x, beatSince := n } ↔ b.Legal := Iff.rfl

@[simp] theorem event_keeps (s : State) (mn : String) (ok : Bool) (t : State) (h : ok = true → s.Follows t) : Outcome.Keeps s (event mn ok t) := by
  unfold event
  split
  next hok => exact (keeps_next _ _).2 (h hok)
  next => exact keeps_refused _ _
@[simp] theorem inCycle_keeps (s : State) (mn : String) (o : Out) (h : Outcome.Keeps s o) : Outcome.Keeps s (s.inCycle mn o) := by
  unfold State.inCycle
  split
  · exact keeps_refused _ _
  · exact h
@[simp] theorem hostAccess_keeps (s t : State) (mn : String) (fn : Nat) (ok : Bool) (h : s.Follows t) : Outcome.Keeps s (s.hostAccess mn fn ok t) := by
  unfold State.hostAccess
  split
  · exact keeps_refused _ _
  · exact (keeps_next _ _).2 (State.Follows.refl s)
  · exact event_keeps _ _ _ _ fun _ => h

/-- A phase reached in order is a legal one: no fatal state has been entered. -/
theorem inPhase_toPhase_legal {s : State} {k n : Nat} {b : Board} (hb : b.Legal) (hin : s.inPhase k = true) (hk : k ≠ 15)
    (hn : n ∈ [0, 1, 2, 3, 4, 7, 8]) (hphase : b.phase = s.board.phase := by rfl) : Board.Legal { b with phase := n } := by
  obtain ⟨-, hf, hc, hnext, hl, hd, he, hll⟩ := hb
  have hpk : b.phase = k := by
    simp only [State.inPhase, Bool.and_eq_true, decide_eq_true_eq] at hin
    exact hphase.trans hin.1
  have hfatal : b.fatal ≠ true := fun h => hk (hpk.symm.trans (hf.1 h))
  refine ⟨?_, ?_, hc, hnext, hl, hd, he, hll⟩
  · simp only [List.mem_cons, List.not_mem_nil, or_false] at hn ⊢
    omega
  · simp only [List.mem_cons, List.not_mem_nil, or_false] at hn
    exact ⟨fun h => absurd h hfatal, fun (h : n = 15) => by omega⟩

/-! ### The operations -/

@[simp] theorem Board.afterPower_keeps (b : Board) :
    (b.Legal → (b.afterPower).Legal) := by
  intro h
  obtain ⟨-, -, -, -, hplim, -, hev, hlines⟩ := h
  refine ⟨?_, ?_, ?_, ?_, hplim, ?_, hev, hlines⟩ <;> simp [Board.afterPower, Board.reset]

@[simp] theorem Board.beatOver_keeps (b : Board) (running : Bool) (now : ℕ) (later : ℕ) :
    (b.Legal → (b.beatOver running now later).Legal) := by
  simp only [Board.beatOver]
  (repeat' split) <;> simp

@[simp] theorem Board.loadSvc_keeps (b : Board) (image : List Byte) :
    (b.Legal → (b.loadSvc image).Legal) := fun h => h

@[simp] theorem Board.sense_keeps (b : Board) (sensor : ℕ) (temp : ℕ) :
    (b.Legal → (b.sense sensor temp).Legal) := by
  intro h
  unfold Board.sense
  split <;> exact h

@[simp] theorem Board.setPort_keeps (b : Board) (p : ℕ) (x : Port) :
    (b.Legal → (b.setPort p x).Legal) := fun h => h

@[simp] theorem Board.writeDevId_keeps (b : Board) (v : BitVec 20) (now : ℕ) :
    (b.Legal → (b.writeDevId v now).Legal) := by
  intro h
  unfold Board.writeDevId
  split_ifs <;> exact h

@[simp] theorem Mem.putHbmLine_keeps (m : Mem) (line : ℕ) (d : Line) :
    (Memory.wf m.hbm = true → Memory.wf (m.putHbmLine line d).hbm = true) ∧ (Memory.wf m.hostMem = true → Memory.wf (m.putHbmLine line d).hostMem = true) := by
  simp +contextual [Mem.putHbmLine]

@[simp] theorem Mem.mscFlush_keeps (m : Mem) (line : ℕ) :
    (Memory.wf m.hbm = true → Memory.wf (m.mscFlush line).hbm = true) ∧ (Memory.wf m.hostMem = true → Memory.wf (m.mscFlush line).hostMem = true) := by
  unfold Mem.mscFlush
  (repeat' split) <;> simp +contextual

@[simp] theorem Mem.putMsc_keeps (m : Mem) (line : ℕ) (x : MscLine) :
    (Memory.wf m.hbm = true → Memory.wf (m.putMsc line x).hbm = true) ∧ (Memory.wf m.hostMem = true → Memory.wf (m.putMsc line x).hostMem = true) := by
  simp only [Mem.putMsc]
  (repeat' split) <;> simp +contextual

@[simp] theorem Mem.toMsc_keeps (m : Mem) (line : ℕ) (d : Line) :
    (Memory.wf m.hbm = true → Memory.wf (m.toMsc line d).hbm = true) ∧ (Memory.wf m.hostMem = true → Memory.wf (m.toMsc line d).hostMem = true) := by
  simp +contextual [Mem.toMsc]

@[simp] theorem Mem.endHdm_keeps (m : Mem) (line : ℕ) :
    (Memory.wf m.hbm = true → Memory.wf (m.endHdm line).hbm = true) ∧ (Memory.wf m.hostMem = true → Memory.wf (m.endHdm line).hostMem = true) := by
  unfold Mem.endHdm
  (repeat' split) <;> simp +contextual

@[simp] theorem Mem.backInvalidate_keeps (m : Mem) (line : ℕ) :
    (Memory.wf m.hbm = true → Memory.wf (m.backInvalidate line).hbm = true) ∧ (Memory.wf m.hostMem = true → Memory.wf (m.backInvalidate line).hostMem = true) := by
  unfold Mem.backInvalidate
  split <;> simp +contextual

@[simp] theorem Mem.checkHbm_keeps (m : Mem) (line : ℕ) :
    (Memory.wf m.hbm = true → Memory.wf (m.checkHbm line).hbm = true) ∧ (Memory.wf m.hostMem = true → Memory.wf (m.checkHbm line).hostMem = true) := by
  unfold Mem.checkHbm
  (repeat' split) <;> simp

@[simp] theorem Mem.checkRead_keeps (m : Mem) (line : ℕ) :
    (Memory.wf m.hbm = true → Memory.wf (m.checkRead line).hbm = true) ∧ (Memory.wf m.hostMem = true → Memory.wf (m.checkRead line).hostMem = true) := by
  unfold Mem.checkRead
  split <;> simp +contextual

@[simp] theorem Mem.dropL1At_keeps (m : Mem) (cluster : ℕ) (line : ℕ) :
    (Memory.wf m.hbm = true → Memory.wf (m.dropL1At cluster line).hbm = true) ∧ (Memory.wf m.hostMem = true → Memory.wf (m.dropL1At cluster line).hostMem = true) := ⟨fun h => h, fun h => h⟩

@[simp] theorem Mem.recallAll_keeps (m : Mem) (line : ℕ) :
    (Memory.wf m.hbm = true → Memory.wf (m.recallAll line).hbm = true) ∧ (Memory.wf m.hostMem = true → Memory.wf (m.recallAll line).hostMem = true) := ⟨fun h => h, fun h => h⟩

@[simp] theorem Mem.evictL2_keeps (m : Mem) (line : ℕ) :
    (Memory.wf m.hbm = true → Memory.wf (m.evictL2 line).hbm = true) ∧ (Memory.wf m.hostMem = true → Memory.wf (m.evictL2 line).hostMem = true) := by
  simp only [Mem.evictL2]
  (repeat' split) <;> simp +contextual

@[simp] theorem Mem.emptyPages_keeps (m : Mem) (pages : NSet) :
    (Memory.wf m.hbm = true → Memory.wf (m.emptyPages pages).hbm = true) ∧ (Memory.wf m.hostMem = true → Memory.wf (m.emptyPages pages).hostMem = true) := by
  simp only [Mem.emptyPages]
  simp +contextual (disch := simp +contextual [*])

@[simp] theorem Mem.ensureL2_keeps (m : Mem) (line : ℕ) (used : ℕ) :
    (Memory.wf m.hbm = true → Memory.wf (m.ensureL2 line used).hbm = true) ∧ (Memory.wf m.hostMem = true → Memory.wf (m.ensureL2 line used).hostMem = true) := by
  simp only [Mem.ensureL2]
  (repeat' split) <;> simp +contextual (disch := simp +contextual [*])

@[simp] theorem Mem.fetchHdm_keeps (m : Mem) (line : ℕ) :
    (Memory.wf m.hbm = true → Memory.wf (m.fetchHdm line).hbm = true) ∧ (Memory.wf m.hostMem = true → Memory.wf (m.fetchHdm line).hostMem = true) := by
  unfold Mem.fetchHdm
  split <;> simp +contextual

@[simp] theorem Mem.share_keeps (m : Mem) (line : ℕ) :
    (Memory.wf m.hbm = true → Memory.wf (m.share line).hbm = true) ∧ (Memory.wf m.hostMem = true → Memory.wf (m.share line).hostMem = true) := ⟨fun h => h, fun h => h⟩

@[simp] theorem Mem.homeRead_keeps (m : Mem) (line : ℕ) (used : ℕ) :
    (Memory.wf m.hbm = true → Memory.wf (m.homeRead line used).hbm = true) ∧ (Memory.wf m.hostMem = true → Memory.wf (m.homeRead line used).hostMem = true) := by
  simp only [Mem.homeRead]
  simp +contextual (disch := simp +contextual [*])

@[simp] theorem Mem.recheck_keeps (m : Mem) (line : ℕ) (d : Line) :
    (Memory.wf m.hbm = true → Memory.wf (m.recheck line d).hbm = true) ∧ (Memory.wf m.hostMem = true → Memory.wf (m.recheck line d).hostMem = true) := ⟨fun h => h, fun h => h⟩

@[simp] theorem Mem.homeWrite_keeps (m : Mem) (line : ℕ) (off : ℕ) (n : ℕ) (v : ℕ) (used : ℕ) :
    (Memory.wf m.hbm = true → Memory.wf (m.homeWrite line off n v used).hbm = true) ∧ (Memory.wf m.hostMem = true → Memory.wf (m.homeWrite line off n v used).hostMem = true) := by
  refine ⟨fun h => ?_, fun h => ?_⟩ <;> simp only [Mem.homeWrite] <;> (repeat' split) <;> simp (disch := simp (disch := simp [*]) [*]) [*]

@[simp] theorem Mem.patchHbm_keeps (m : Mem) (line : ℕ) (off : ℕ) (n : ℕ) (v : ℕ) :
    (Memory.wf m.hbm = true → Memory.wf (m.patchHbm line off n v).hbm = true) ∧ (Memory.wf m.hostMem = true → Memory.wf (m.patchHbm line off n v).hostMem = true) := by
  simp +contextual [Mem.patchHbm]

@[simp] theorem Mem.poisonHost_keeps (m : Mem) (pa : ℕ) (n : ℕ) :
    (Memory.wf m.hbm = true → Memory.wf (m.poisonHost pa n).hbm = true) ∧ (Memory.wf m.hostMem = true → Memory.wf (m.poisonHost pa n).hostMem = true) := by
  unfold Mem.poisonHost
  split <;> simp

@[simp] theorem Mem.release_keeps (m : Mem) (line : ℕ) :
    (Memory.wf m.hbm = true → Memory.wf (m.release line).hbm = true) ∧ (Memory.wf m.hostMem = true → Memory.wf (m.release line).hostMem = true) := ⟨fun h => h, fun h => h⟩

@[simp] theorem Mem.setDir_keeps (m : Mem) (line : ℕ) (d : Dir) :
    (Memory.wf m.hbm = true → Memory.wf (m.setDir line d).hbm = true) ∧ (Memory.wf m.hostMem = true → Memory.wf (m.setDir line d).hostMem = true) := ⟨fun h => h, fun h => h⟩

@[simp] theorem Mem.settlePosts_keeps (m : Mem) (hit : Post → Bool) :
    (Memory.wf m.hbm = true → Memory.wf (m.settlePosts hit).hbm = true) ∧ (Memory.wf m.hostMem = true → Memory.wf (m.settlePosts hit).hostMem = true) := by
  unfold Mem.settlePosts
  split <;> simp

@[simp] theorem Mem.settlePost_keeps (m : Mem) (op : WobOp) :
    (Memory.wf m.hbm = true → Memory.wf (m.settlePost op).hbm = true) ∧ (Memory.wf m.hostMem = true → Memory.wf (m.settlePost op).hostMem = true) := by
  simp +contextual [Mem.settlePost]

@[simp] theorem Mem.takeData_keeps (m : Mem) (line : ℕ) (x2 : Option Line) :
    (Memory.wf m.hbm = true → Memory.wf (m.takeData line x2).hbm = true) ∧ (Memory.wf m.hostMem = true → Memory.wf (m.takeData line x2).hostMem = true) := by
  unfold Mem.takeData
  split <;> simp

@[simp] theorem Mem.tlbDrop_keeps (m : Mem) (space : ℕ → Bool) (lo : ℕ) (hi : ℕ) :
    (Memory.wf m.hbm = true → Memory.wf (m.tlbDrop space lo hi).hbm = true) ∧ (Memory.wf m.hostMem = true → Memory.wf (m.tlbDrop space lo hi).hostMem = true) := ⟨fun h => h, fun h => h⟩

@[simp] theorem Mem.toS_keeps (m : Mem) (cluster : ℕ) (line : ℕ) :
    (Memory.wf m.hbm = true → Memory.wf (m.toS cluster line).hbm = true) ∧ (Memory.wf m.hostMem = true → Memory.wf (m.toS cluster line).hostMem = true) := ⟨fun h => h, fun h => h⟩

@[simp] theorem Mem.waitsOverread_keeps (m : Mem) (line : ℕ) :
    (Memory.wf m.hbm = true → Memory.wf (m.waitsOverread line).hbm = true) ∧ (Memory.wf m.hostMem = true → Memory.wf (m.waitsOverread line).hostMem = true) := ⟨fun h => h, fun h => h⟩

@[simp] theorem State.drawFree_keeps (s : State) :
    (s.drawFree).board = s.board ∧ (s.drawFree).mem = s.mem := ⟨rfl, rfl⟩

@[simp] theorem State.bump_keeps (s : State) :
    (s.bump).board = s.board ∧ (s.bump).mem = s.mem := ⟨rfl, rfl⟩

@[simp] theorem State.hlcEvict_keeps (s : State) (line : ℕ) :
    (s.hlcEvict line).board = s.board ∧ (Memory.wf s.mem.hbm = true → Memory.wf (s.hlcEvict line).mem.hbm = true) ∧ (Memory.wf s.mem.hostMem = true → Memory.wf (s.hlcEvict line).mem.hostMem = true) := by
  unfold State.hlcEvict
  (repeat' split) <;> simp +contextual

@[simp] theorem State.hlcInsert_keeps (s : State) (line : ℕ) (x : HlcLine) :
    (s.hlcInsert line x).board = s.board ∧ (Memory.wf s.mem.hbm = true → Memory.wf (s.hlcInsert line x).mem.hbm = true) ∧ (Memory.wf s.mem.hostMem = true → Memory.wf (s.hlcInsert line x).mem.hostMem = true) := by
  simp only [State.hlcInsert]
  (repeat' split) <;> simp +contextual

@[simp] theorem State.hlcPut_keeps (s : State) (line : ℕ) (d : Line) :
    (s.hlcPut line d).board = s.board ∧ (Memory.wf s.mem.hbm = true → Memory.wf (s.hlcPut line d).mem.hbm = true) ∧ (Memory.wf s.mem.hostMem = true → Memory.wf (s.hlcPut line d).mem.hostMem = true) := by
  simp +contextual [State.hlcPut]

@[simp] theorem State.settleRange_keeps (s : State) (pa : ℕ) (n : ℕ) :
    (s.settleRange pa n).board = s.board ∧ (Memory.wf s.mem.hbm = true → Memory.wf (s.settleRange pa n).mem.hbm = true) ∧ (Memory.wf s.mem.hostMem = true → Memory.wf (s.settleRange pa n).mem.hostMem = true) := by
  simp +contextual [State.settleRange]

@[simp] theorem State.hlcYield_keeps (s : State) (line : ℕ) :
    (s.hlcYield line).board = s.board ∧ (Memory.wf s.mem.hbm = true → Memory.wf (s.hlcYield line).mem.hbm = true) ∧ (Memory.wf s.mem.hostMem = true → Memory.wf (s.hlcYield line).mem.hostMem = true) := by
  unfold State.hlcYield
  split <;> simp +contextual

@[simp] theorem State.hostWrite_keeps (s : State) (pa : ℕ) (bs : List Byte) :
    (s.hostWrite pa bs).board = s.board ∧ (Memory.wf s.mem.hbm = true → Memory.wf (s.hostWrite pa bs).mem.hbm = true) ∧ (Memory.wf s.mem.hostMem = true → Memory.wf (s.hostWrite pa bs).mem.hostMem = true) := by
  refine ⟨?_, fun h => ?_, fun h => ?_⟩ <;> simp only [State.hostWrite] <;> (repeat' split) <;> simp (disch := simp (disch := simp [*]) [*]) [*]

@[simp] theorem State.writeAt_keeps (s : State) (fn : ℕ) (pa : ℕ) (n : ℕ) (v : ℕ) :
    (s.writeAt fn pa n v).board = s.board ∧ (Memory.wf s.mem.hbm = true → Memory.wf (s.writeAt fn pa n v).mem.hbm = true) ∧ (Memory.wf s.mem.hostMem = true → Memory.wf (s.writeAt fn pa n v).mem.hostMem = true) := by
  unfold State.writeAt
  (repeat' split) <;> simp +contextual

@[simp] theorem State.writePiece_keeps (s : State) (fn : ℕ) (pa : ℕ) (n : ℕ) (v : ℕ) :
    (s.writePiece fn pa n v).board = s.board ∧ (Memory.wf s.mem.hbm = true → Memory.wf (s.writePiece fn pa n v).mem.hbm = true) ∧ (Memory.wf s.mem.hostMem = true → Memory.wf (s.writePiece fn pa n v).mem.hostMem = true) := by
  unfold State.writePiece
  split <;> simp +contextual

@[simp] theorem State.writeLines_keeps (s : State) (fn : ℕ) (pa : ℕ) (bs : List Byte) (n : ℕ) :
    (s.writeLines fn pa bs n).board = s.board ∧ (Memory.wf s.mem.hbm = true → Memory.wf (s.writeLines fn pa bs n).mem.hbm = true) ∧ (Memory.wf s.mem.hostMem = true → Memory.wf (s.writeLines fn pa bs n).mem.hostMem = true) := by
  induction n generalizing s pa bs with
  | zero => simp [State.writeLines]
  | succ n ih =>
    simp only [State.writeLines]
    split_ifs <;> simp +contextual [ih]

@[simp] theorem State.writeBytes_keeps (s : State) (fn : ℕ) (pa : ℕ) (bs : List Byte) :
    (s.writeBytes fn pa bs).board = s.board ∧ (Memory.wf s.mem.hbm = true → Memory.wf (s.writeBytes fn pa bs).mem.hbm = true) ∧ (Memory.wf s.mem.hostMem = true → Memory.wf (s.writeBytes fn pa bs).mem.hostMem = true) := by
  simp +contextual [State.writeBytes]

@[simp] theorem State.openPage_keeps (s : State) (pa : ℕ) (n : ℕ) :
    (s.openPage pa n).board = s.board ∧ (Memory.wf s.mem.hbm = true → Memory.wf (s.openPage pa n).mem.hbm = true) ∧ (Memory.wf s.mem.hostMem = true → Memory.wf (s.openPage pa n).mem.hostMem = true) := by
  induction n generalizing s with
  | zero => simp [State.openPage]
  | succ n ih =>
    simp only [State.openPage]
    simp +contextual [ih]

@[simp] theorem State.migStatus_keeps (s : State) (g : Mig) (code : ℕ) :
    (s.migStatus g code).board = s.board ∧ (Memory.wf s.mem.hbm = true → Memory.wf (s.migStatus g code).mem.hbm = true) ∧ (Memory.wf s.mem.hostMem = true → Memory.wf (s.migStatus g code).mem.hostMem = true) := by
  unfold State.migStatus
  split <;> simp +contextual

@[simp] theorem State.abandonMig_keeps (reset : Bool) (s : State) (g : Mig) :
    (State.abandonMig reset s g).board = s.board ∧ (Memory.wf s.mem.hbm = true → Memory.wf (State.abandonMig reset s g).mem.hbm = true) ∧ (Memory.wf s.mem.hostMem = true → Memory.wf (State.abandonMig reset s g).mem.hostMem = true) := by
  simp only [State.abandonMig]
  (repeat' split) <;> simp +contextual (disch := simp +contextual [*])

@[simp] theorem State.abandonMigs_keeps (s : State) (reset : Bool) (test : Mig → Bool) :
    (s.abandonMigs reset test).board = s.board ∧ (Memory.wf s.mem.hbm = true → Memory.wf (s.abandonMigs reset test).mem.hbm = true) ∧ (Memory.wf s.mem.hostMem = true → Memory.wf (s.abandonMigs reset test).mem.hostMem = true) := by
  simp +contextual [State.abandonMigs]

@[simp] theorem State.setCount_keeps (s : State) (key : ℕ) (v : ℕ) :
    (s.setCount key v).board = s.board ∧ (Memory.wf s.mem.hbm = true → Memory.wf (s.setCount key v).mem.hbm = true) ∧ (Memory.wf s.mem.hostMem = true → Memory.wf (s.setCount key v).mem.hostMem = true) := ⟨rfl, fun h => h, fun h => h⟩

@[simp] theorem State.modFn_keeps (s : State) (fn : ℕ) (g : HostFn → HostFn) :
    (s.modFn fn g).board = s.board ∧ (s.modFn fn g).mem = s.mem := ⟨rfl, rfl⟩

@[simp] theorem State.setReg_keeps (s : State) (fn : ℕ) (off : ℕ) (v : Word) :
    (s.setReg fn off v).board = s.board ∧ (s.setReg fn off v).mem = s.mem := ⟨rfl, rfl⟩

@[simp] theorem State.acPost_keeps (s : State) (key : ℕ) (kind : ℕ) :
    (s.acPost key kind).board = s.board ∧ (Memory.wf s.mem.hbm = true → Memory.wf (s.acPost key kind).mem.hbm = true) ∧ (Memory.wf s.mem.hostMem = true → Memory.wf (s.acPost key kind).mem.hostMem = true) := by
  simp only [State.acPost]
  (repeat' split) <;> simp +contextual

@[simp] theorem State.acReach_keeps (s : State) (key : ℕ) (kind : ℕ) :
    (s.acReach key kind).board = s.board ∧ (Memory.wf s.mem.hbm = true → Memory.wf (s.acReach key kind).mem.hbm = true) ∧ (Memory.wf s.mem.hostMem = true → Memory.wf (s.acReach key kind).mem.hostMem = true) := by
  simp only [State.acReach]
  (repeat' split) <;> simp +contextual

@[simp] theorem State.acCountAccess_keeps (s : State) (fn : ℕ) (pa : ℕ) :
    (s.acCountAccess fn pa).board = s.board ∧ (Memory.wf s.mem.hbm = true → Memory.wf (s.acCountAccess fn pa).mem.hbm = true) ∧ (Memory.wf s.mem.hostMem = true → Memory.wf (s.acCountAccess fn pa).mem.hostMem = true) := by
  simp only [State.acCountAccess]
  (repeat' split) <;> simp +contextual

@[simp] theorem State.takeCap_keeps (s : State) (fn : ℕ) :
    (s.takeCap fn).board = s.board ∧ (s.takeCap fn).mem = s.mem := by
  simp [State.takeCap]

@[simp] theorem State.setTask_keeps (s : State) (t : Task) :
    (s.setTask t).board = s.board ∧ (s.setTask t).mem = s.mem := ⟨rfl, rfl⟩

@[simp] theorem State.writeFn_keeps (s : State) (fn : ℕ) (a : ℕ) (bs : List Byte) :
    (s.writeFn fn a bs).board = s.board ∧ (Memory.wf s.mem.hbm = true → Memory.wf (s.writeFn fn a bs).mem.hbm = true) ∧ (Memory.wf s.mem.hostMem = true → Memory.wf (s.writeFn fn a bs).mem.hostMem = true) := by
  unfold State.writeFn
  split <;> simp +contextual

@[simp] theorem State.writeFaultRec_keeps (s : State) (t : Task) (f : FaultRec) :
    (s.writeFaultRec t f).1.board = s.board ∧ (Memory.wf s.mem.hbm = true → Memory.wf (s.writeFaultRec t f).1.mem.hbm = true) ∧ (Memory.wf s.mem.hostMem = true → Memory.wf (s.writeFaultRec t f).1.mem.hostMem = true) := by
  simp only [State.writeFaultRec]
  (repeat' split) <;> simp +contextual

@[simp] theorem State.putTrace_keeps (s : State) (r : TrRec) :
    (s.putTrace r).board = s.board ∧ (s.putTrace r).mem = s.mem := ⟨rfl, rfl⟩

@[simp] theorem State.traceStop_keeps (s : State) (task : ℕ) (swid : ℕ) (tag : ℕ) (wave : ℕ) (fret : ℕ) (velem : ℕ) (slot : ℕ) (pl : ℕ) (pf : ℕ) (stop : ℕ) (code : ℕ) :
    (s.traceStop task swid tag wave fret velem slot pl pf stop code).board = s.board ∧ (s.traceStop task swid tag wave fret velem slot pl pf stop code).mem = s.mem := by
  unfold State.traceStop
  split <;> simp

@[simp] theorem State.traceFault_keeps (s : State) (task : ℕ) (f : FaultRec) :
    (s.traceFault task f).board = s.board ∧ (s.traceFault task f).mem = s.mem := by
  simp [State.traceFault]

@[simp] theorem State.modTask_keeps (s : State) (t : ℕ) (g : Task → Task) :
    (s.modTask t g).board = s.board ∧ (s.modTask t g).mem = s.mem := ⟨rfl, rfl⟩

@[simp] theorem State.decideEnd_keeps (s : State) (n : ℕ) (status : TStatus) (reason : ℕ) (faddr : ℕ) :
    (s.decideEnd n status reason faddr).board = s.board ∧ (s.decideEnd n status reason faddr).mem = s.mem := ⟨rfl, rfl⟩

@[simp] theorem State.endHostLink_keeps (s : State) (t : Task) :
    (s.endHostLink t).board = s.board ∧ (Memory.wf s.mem.hbm = true → Memory.wf (s.endHostLink t).mem.hbm = true) ∧ (Memory.wf s.mem.hostMem = true → Memory.wf (s.endHostLink t).mem.hostMem = true) := by
  simp +contextual [State.endHostLink]

@[simp] theorem State.noteCfgErr_keeps (s : State) (t : Task) (die : ℕ) (code : ℕ) (addr : ℕ) :
    (s.noteCfgErr t die code addr).board = s.board ∧ (s.noteCfgErr t die code addr).mem = s.mem := by
  simp [State.noteCfgErr]

@[simp] theorem State.runCheck_keeps (s : State) (t : Task) :
    (s.runCheck t).board = s.board ∧ (Memory.wf s.mem.hbm = true → Memory.wf (s.runCheck t).mem.hbm = true) ∧ (Memory.wf s.mem.hostMem = true → Memory.wf (s.runCheck t).mem.hostMem = true) := by
  simp only [State.runCheck]
  (repeat' split) <;> simp +contextual

@[simp] theorem State.accept_keeps (s : State) (mk : ℕ → ℕ → ℕ → Task) :
    (s.accept mk).1.board = s.board ∧ (Memory.wf s.mem.hbm = true → Memory.wf (s.accept mk).1.mem.hbm = true) ∧ (Memory.wf s.mem.hostMem = true → Memory.wf (s.accept mk).1.mem.hostMem = true) := by
  simp +contextual [State.accept]

@[simp] theorem State.acceptChild_keeps (s : State) (parent : Task) (hdr : List Byte) :
    (s.acceptChild parent hdr).1.board = s.board ∧ (Memory.wf s.mem.hbm = true → Memory.wf (s.acceptChild parent hdr).1.mem.hbm = true) ∧ (Memory.wf s.mem.hostMem = true → Memory.wf (s.acceptChild parent hdr).1.mem.hostMem = true) := by
  simp +contextual [State.acceptChild]

@[simp] theorem State.hlcShare_keeps (s : State) (line : ℕ) :
    (s.hlcShare line).board = s.board ∧ (Memory.wf s.mem.hbm = true → Memory.wf (s.hlcShare line).mem.hbm = true) ∧ (Memory.wf s.mem.hostMem = true → Memory.wf (s.hlcShare line).mem.hostMem = true) := by
  unfold State.hlcShare
  (repeat' split) <;> simp +contextual

@[simp] theorem State.hlcFetch_keeps (s : State) (line : ℕ) (x : ℕ) (exclusive : Bool) (copy : Bool) :
    (s.hlcFetch line x exclusive copy).board = s.board ∧ (Memory.wf s.mem.hbm = true → Memory.wf (s.hlcFetch line x exclusive copy).mem.hbm = true) ∧ (Memory.wf s.mem.hostMem = true → Memory.wf (s.hlcFetch line x exclusive copy).mem.hostMem = true) := by
  unfold State.hlcFetch
  (repeat' split) <;> simp +contextual

@[simp] theorem State.readLines_keeps (s : State) (ls : List ℕ) :
    (s.readLines ls).board = s.board ∧ (Memory.wf s.mem.hbm = true → Memory.wf (s.readLines ls).mem.hbm = true) ∧ (Memory.wf s.mem.hostMem = true → Memory.wf (s.readLines ls).mem.hostMem = true) := by
  simp +contextual [State.readLines]

@[simp] theorem State.engTouch_keeps (s : State) (t : Task) (pa : ℕ) :
    (s.engTouch t pa).board = s.board ∧ (Memory.wf s.mem.hbm = true → Memory.wf (s.engTouch t pa).mem.hbm = true) ∧ (Memory.wf s.mem.hostMem = true → Memory.wf (s.engTouch t pa).mem.hostMem = true) := by
  unfold State.engTouch
  (repeat' split) <;> simp +contextual

@[simp] theorem State.touchVa_keeps (s : State) (t : Task) (va : ℕ) (n : ℕ) :
    (s.touchVa t va n).board = s.board ∧ (Memory.wf s.mem.hbm = true → Memory.wf (s.touchVa t va n).mem.hbm = true) ∧ (Memory.wf s.mem.hostMem = true → Memory.wf (s.touchVa t va n).mem.hostMem = true) := by
  unfold State.touchVa
  refine ⟨foldl_board _ _ _ ((everywhere_iff _).2 fun s x => ?_), foldl_hbm_wf _ _ _ ((everywhere_iff _).2 fun s x h => ?_), foldl_hostMem_wf _ _ _ ((everywhere_iff _).2 fun s x h => ?_)⟩ <;> (repeat' split) <;> simp (disch := simp [*]) [*]

@[simp] theorem State.acceptDesc_keeps (s : State) (t : Task) (c : Cmd) :
    (s.acceptDesc t c).1.board = s.board ∧ (Memory.wf s.mem.hbm = true → Memory.wf (s.acceptDesc t c).1.mem.hbm = true) ∧ (Memory.wf s.mem.hostMem = true → Memory.wf (s.acceptDesc t c).1.mem.hostMem = true) := by
  simp only [State.acceptDesc]
  (repeat' split) <;> simp +contextual

@[simp] theorem State.acceptRecord_keeps (s : State) (fn : ℕ) (q : ℕ) (asid : ℕ) (r : LRec) (hdr : List Byte) (pair : Option PairCopy) :
    (s.acceptRecord fn q asid r hdr pair).1.board = s.board ∧ (Memory.wf s.mem.hbm = true → Memory.wf (s.acceptRecord fn q asid r hdr pair).1.mem.hbm = true) ∧ (Memory.wf s.mem.hostMem = true → Memory.wf (s.acceptRecord fn q asid r hdr pair).1.mem.hostMem = true) := by
  simp +contextual [State.acceptRecord]

@[simp] theorem State.modPlacement_keeps (s : State) (task : ℕ) (pl : ℕ) (g : Placement → Placement) :
    (s.modPlacement task pl g).board = s.board ∧ (s.modPlacement task pl g).mem = s.mem := ⟨rfl, rfl⟩

@[simp] theorem State.setFlags_keeps (s : State) (task : ℕ) (pl : ℕ) (fl : Flags) :
    (s.setFlags task pl fl).board = s.board ∧ (s.setFlags task pl fl).mem = s.mem := ⟨rfl, rfl⟩

@[simp] theorem State.addCount_keeps (s : State) (r : Req) (c : ℕ) :
    (s.addCount r c).board = s.board ∧ (Memory.wf s.mem.hbm = true → Memory.wf (s.addCount r c).mem.hbm = true) ∧ (Memory.wf s.mem.hostMem = true → Memory.wf (s.addCount r c).mem.hostMem = true) := ⟨rfl, fun h => h, fun h => h⟩

@[simp] theorem State.addFlaws_keeps (s : State) (fs : List (ℕ × ℕ)) :
    (s.addFlaws fs).board = s.board ∧ (Memory.wf s.mem.hbm = true → Memory.wf (s.addFlaws fs).mem.hbm = true) ∧ (Memory.wf s.mem.hostMem = true → Memory.wf (s.addFlaws fs).mem.hostMem = true) := ⟨rfl, fun h => h, fun h => h⟩

@[simp] theorem State.setPlacement_keeps (s : State) (p : Placement) :
    (s.setPlacement p).board = s.board ∧ (s.setPlacement p).mem = s.mem := ⟨rfl, rfl⟩

@[simp] theorem State.countFault_keeps (s : State) (task : ℕ) :
    (s.countFault task).board = s.board ∧ (s.countFault task).mem = s.mem := ⟨rfl, rfl⟩

@[simp] theorem State.reportFault_keeps (s : State) (task : ℕ) (f : FaultRec) :
    (s.reportFault task f).board = s.board ∧ (s.reportFault task f).mem = s.mem := by
  simp [State.reportFault]

@[simp] theorem State.landFault_keeps (s : State) (task : ℕ) (pl : ℕ) (tag : ℕ) (f : FaultRec) :
    (s.landFault task pl tag f).board = s.board ∧ (s.landFault task pl tag f).mem = s.mem := by
  simp [State.landFault]

@[simp] theorem State.landIfDue_keeps (s : State) (task : ℕ) (pl : ℕ) (tag : ℕ) :
    (s.landIfDue task pl tag).board = s.board ∧ (s.landIfDue task pl tag).mem = s.mem := by
  unfold State.landIfDue
  (repeat' split) <;> simp

@[simp] theorem State.findFault_keeps (s : State) (f : FaultRec) (task : ℕ) :
    (s.findFault f task).board = s.board ∧ (s.findFault f task).mem = s.mem := by
  simp only [State.findFault]
  (repeat' split) <;> simp

@[simp] theorem State.faultOp_keeps (s : State) (op : WobOp) (kind : FKindAt) (code : FCode) (reason : ℕ) (addr : ℕ) (own : optParam ℕ 0) :
    (s.faultOp op kind code reason addr own).board = s.board ∧ (s.faultOp op kind code reason addr own).mem = s.mem := by
  simp [State.faultOp]

@[simp] theorem State.tlbFill_keeps (s : State) (space : ℕ) (va : ℕ) :
    (s.tlbFill space va).board = s.board ∧ (Memory.wf s.mem.hbm = true → Memory.wf (s.tlbFill space va).mem.hbm = true) ∧ (Memory.wf s.mem.hostMem = true → Memory.wf (s.tlbFill space va).mem.hostMem = true) := by
  unfold State.tlbFill
  (repeat' split) <;> simp

@[simp] theorem State.countEvent_keeps (s : State) (cluster : ℕ) (task : ℕ) (code : ℕ) (n : ℕ) :
    (s.countEvent cluster task code n).board = s.board ∧ (s.countEvent cluster task code n).mem = s.mem := ⟨rfl, rfl⟩

@[simp] theorem State.tlbUse_keeps (s : State) (cluster : ℕ) (task : ℕ) (space : ℕ) (va : ℕ) :
    (s.tlbUse cluster task space va).board = s.board ∧ (Memory.wf s.mem.hbm = true → Memory.wf (s.tlbUse cluster task space va).mem.hbm = true) ∧ (Memory.wf s.mem.hostMem = true → Memory.wf (s.tlbUse cluster task space va).mem.hostMem = true) := by
  simp only [State.tlbUse]
  (repeat' split) <;> simp +contextual

@[simp] theorem State.enterWob_keeps (s : State) (op : WobOp) :
    (s.enterWob op).board = s.board ∧ (s.enterWob op).mem = s.mem := by
  simp only [State.enterWob]
  (repeat' split) <;> simp

@[simp] theorem State.admitOp_keeps (s : State) (op : WobOp) (reserved : Bool) :
    (s.admitOp op reserved).board = s.board ∧ (Memory.wf s.mem.hbm = true → Memory.wf (s.admitOp op reserved).mem.hbm = true) ∧ (Memory.wf s.mem.hostMem = true → Memory.wf (s.admitOp op reserved).mem.hostMem = true) := by
  simp only [State.admitOp]
  (repeat' split) <;> simp +contextual

@[simp] theorem State.setFret_keeps (s : State) (pf : ℕ) (f : Fret) :
    (s.setFret pf f).board = s.board ∧ (s.setFret pf f).mem = s.mem := ⟨rfl, rfl⟩

@[simp] theorem State.modFret_keeps (s : State) (pf : ℕ) (g : Fret → Fret) :
    (s.modFret pf g).board = s.board ∧ (s.modFret pf g).mem = s.mem := ⟨rfl, rfl⟩

@[simp] theorem State.startRewrites_keeps (s : State) (ws : List Window) :
    (s.startRewrites ws).1.board = s.board ∧ (s.startRewrites ws).1.mem = s.mem := by
  unfold State.startRewrites
  refine ⟨foldl_fst_board _ _ _ ((everywhere_iff _).2 fun s x => ?_), foldl_fst_mem _ _ _ ((everywhere_iff _).2 fun s x => ?_)⟩ <;> simp only <;> split <;> (try split) <;> simp

@[simp] theorem State.freeOp_keeps (s : State) (op : WobOp) :
    (s.freeOp op).board = s.board ∧ (s.freeOp op).mem = s.mem := ⟨rfl, rfl⟩

@[simp] theorem State.netSend_keeps (s : State) (t : NetTok) :
    (s.netSend t).board = s.board ∧ (s.netSend t).mem = s.mem := by
  simp [State.netSend]

@[simp] theorem State.sendFrom_keeps (s : State) (pf : ℕ) (task : ℕ) (pl : ℕ) (tag : ℕ) (wave : ℕ) (data : Word) (d : Dest) (fl : optParam Flags Flags.none) :
    (s.sendFrom pf task pl tag wave data d fl).board = s.board ∧ (s.sendFrom pf task pl tag wave data d fl).mem = s.mem := by
  unfold State.sendFrom
  (repeat' split) <;> simp

@[simp] theorem State.sendAll_keeps (s : State) (pf : ℕ) (task : ℕ) (pl : ℕ) (tag : ℕ) (wave : ℕ) (data : Word) (ds : List Dest) (fl : optParam Flags Flags.none) :
    (s.sendAll pf task pl tag wave data ds fl).board = s.board ∧ (s.sendAll pf task pl tag wave data ds fl).mem = s.mem := by
  simp [State.sendAll]

@[simp] theorem State.sendResult_keeps (s : State) (op : WobOp) (data : Word) :
    (s.sendResult op data).board = s.board ∧ (s.sendResult op data).mem = s.mem := by
  unfold State.sendResult
  split <;> simp

@[simp] theorem State.answerHeld_keeps (s : State) (op : WobOp) (data : Word) :
    (s.answerHeld op data).board = s.board ∧ (s.answerHeld op data).mem = s.mem := by
  simp [State.answerHeld]

@[simp] theorem State.countOp_keeps (s : State) (op : WobOp) (code : ℕ) :
    (s.countOp op code).board = s.board ∧ (s.countOp op code).mem = s.mem := ⟨rfl, rfl⟩

@[simp] theorem State.finishHeld_keeps (s : State) (op : WobOp) (data : Word) :
    (s.finishHeld op data).board = s.board ∧ (s.finishHeld op data).mem = s.mem := by
  simp [State.finishHeld]

@[simp] theorem State.advanceRecfg_keeps (s : State) (r : Recfg) :
    (s.advanceRecfg r).board = s.board ∧ (s.advanceRecfg r).mem = s.mem := by
  simp [State.advanceRecfg]

@[simp] theorem State.advanceTask_keeps (s : State) (task : ℕ) :
    (s.advanceTask task).board = s.board ∧ (s.advanceTask task).mem = s.mem := by
  unfold State.advanceTask
  split <;> simp

@[simp] theorem State.toState_keeps (s : State) (task : ℕ) (st : TState) :
    (s.toState task st).board = s.board ∧ (s.toState task st).mem = s.mem := ⟨rfl, rfl⟩

@[simp] theorem State.holdColls_keeps (s : State) (task : ℕ) :
    (s.holdColls task).board = s.board ∧ (s.holdColls task).mem = s.mem := ⟨rfl, rfl⟩

@[simp] theorem State.sendFabric_keeps (s : State) (id : ℕ) (msg : List Byte) :
    (s.sendFabric id msg).board = s.board ∧ (s.sendFabric id msg).mem = s.mem := ⟨rfl, rfl⟩

@[simp] theorem State.gangMsg_keeps (s : State) (kind : ℕ) (gid : BitVec 32) (at_ : ℕ) :
    (s.gangMsg kind gid at_).board = s.board ∧ (s.gangMsg kind gid at_).mem = s.mem := ⟨rfl, rfl⟩

@[simp] theorem State.gangStop_keeps (s : State) (task : ℕ) :
    (s.gangStop task).board = s.board ∧ (s.gangStop task).mem = s.mem := by
  unfold State.gangStop
  split <;> simp

@[simp] theorem State.endStep_keeps (s : State) :
    (s.endStep).board = s.board ∧ (s.endStep).mem = s.mem := ⟨rfl, rfl⟩

@[simp] theorem State.raiseVec_keeps (s : State) (fn : ℕ) (vec : ℕ) :
    (s.raiseVec fn vec).board = s.board ∧ (s.raiseVec fn vec).mem = s.mem := by
  simp [State.raiseVec]

@[simp] theorem State.dbgStopped_keeps (s : State) (task : ℕ) (stop : ℕ) (swid : ℕ) (code : ℕ) :
    (s.dbgStopped task stop swid code).board = s.board ∧ (s.dbgStopped task stop swid code).mem = s.mem := by
  simp [State.dbgStopped]

@[simp] theorem State.afterFault_keeps (s : State) (t : Task) (f : FaultRec) (frec : ℕ) :
    (s.afterFault t f frec).board = s.board ∧ (s.afterFault t f frec).mem = s.mem := by
  simp [State.afterFault]

@[simp] theorem State.answerPeer_keeps (s : State) (f : Option CmdFault) (poison : ℕ) (bs : List Byte) :
    (s.answerPeer f poison bs).board = s.board ∧ (s.answerPeer f poison bs).mem = s.mem := by
  unfold State.answerPeer
  split <;> simp

@[simp] theorem State.setBarrier_keeps (s : State) (task : ℕ) (pl : ℕ) (n : ℕ) (b : Barrier) :
    (s.setBarrier task pl n b).board = s.board ∧ (s.setBarrier task pl n b).mem = s.mem := ⟨rfl, rfl⟩

@[simp] theorem State.arrive_keeps (s : State) (task : ℕ) (pl : ℕ) (n : ℕ) :
    (s.arrive task pl n).board = s.board ∧ (s.arrive task pl n).mem = s.mem := by
  simp [State.arrive]

@[simp] theorem State.prefArrive_keeps (s : State) (t : Task) (pl : ℕ) (word : Word) :
    (s.prefArrive t pl word).board = s.board ∧ (s.prefArrive t pl word).mem = s.mem := by
  unfold State.prefArrive
  (repeat' split) <;> simp

@[simp] theorem State.applyPrefs_keeps (s : State) (t : Task) :
    (s.applyPrefs t).board = s.board ∧ (s.applyPrefs t).mem = s.mem := by
  simp [State.applyPrefs]

@[simp] theorem State.pushReply_keeps (s : State) (op : WobOp) (raw : ℕ) (fault : Option (FCode × ℕ)) :
    (s.pushReply op raw fault).board = s.board ∧ (Memory.wf s.mem.hbm = true → Memory.wf (s.pushReply op raw fault).mem.hbm = true) ∧ (Memory.wf s.mem.hostMem = true → Memory.wf (s.pushReply op raw fault).mem.hostMem = true) := ⟨rfl, fun h => h, fun h => h⟩

@[simp] theorem State.readFault_keeps (s : State) (r : Req) (code : FCode) (addr : ℕ) :
    (s.readFault r code addr).board = s.board ∧ (Memory.wf s.mem.hbm = true → Memory.wf (s.readFault r code addr).mem.hbm = true) ∧ (Memory.wf s.mem.hostMem = true → Memory.wf (s.readFault r code addr).mem.hostMem = true) := ⟨rfl, fun h => h, fun h => h⟩

@[simp] theorem State.snapshot_keeps (s : State) (task : ℕ) (pa : ℕ) :
    (s.snapshot task pa).board = s.board ∧ (Memory.wf s.mem.hbm = true → Memory.wf (s.snapshot task pa).mem.hbm = true) ∧ (Memory.wf s.mem.hostMem = true → Memory.wf (s.snapshot task pa).mem.hostMem = true) := by
  simp only [State.snapshot]
  (repeat' split) <;> simp +contextual

@[simp] theorem State.noteWrite_keeps (s : State) (op : WobOp) (data : ℕ) :
    (s.noteWrite op data).board = s.board ∧ (s.noteWrite op data).mem = s.mem := ⟨rfl, rfl⟩

@[simp] theorem State.noteAtom_keeps (s : State) (op : WobOp) (new : Option ℕ) (fl : Flags) :
    (s.noteAtom op new fl).board = s.board ∧ (s.noteAtom op new fl).mem = s.mem := by
  unfold State.noteAtom
  split <;> simp

@[simp] theorem State.atomHome_keeps (s : State) (r : Req) :
    (s.atomHome r).board = s.board ∧ (Memory.wf s.mem.hbm = true → Memory.wf (s.atomHome r).mem.hbm = true) ∧ (Memory.wf s.mem.hostMem = true → Memory.wf (s.atomHome r).mem.hostMem = true) := by
  refine ⟨?_, fun h => ?_, fun h => ?_⟩ <;> simp only [State.atomHome] <;> split_ifs <;> (repeat' split) <;> simp +contextual (disch := simp +contextual (disch := simp +contextual (disch := simp +contextual [*]) [*]) [*]) [*]

@[simp] theorem State.atomScratch_keeps (s : State) (p : Placement) (op : WobOp) :
    (s.atomScratch p op).board = s.board ∧ (s.atomScratch p op).mem = s.mem := by
  simp only [State.atomScratch]
  (repeat' split) <;> simp

@[simp] theorem State.faultAfter_keeps (s : State) (op : WobOp) (code : FCode) (reason : ℕ) (addr : ℕ) :
    (s.faultAfter op code reason addr).board = s.board ∧ (s.faultAfter op code reason addr).mem = s.mem := by
  simp [State.faultAfter]

@[simp] theorem State.failHeld_keeps (s : State) (op : WobOp) (code : FCode) (reason : ℕ) (addr : ℕ) :
    (s.failHeld op code reason addr).board = s.board ∧ (s.failHeld op code reason addr).mem = s.mem := by
  simp [State.failHeld]

@[simp] theorem State.atomUncached_keeps (s : State) (t : Task) (op : WobOp) :
    (s.atomUncached t op).board = s.board ∧ (Memory.wf s.mem.hbm = true → Memory.wf (s.atomUncached t op).mem.hbm = true) ∧ (Memory.wf s.mem.hostMem = true → Memory.wf (s.atomUncached t op).mem.hostMem = true) := by
  refine ⟨?_, fun h => ?_, fun h => ?_⟩ <;> simp only [State.atomUncached] <;> (repeat' split) <;> simp (disch := simp (disch := simp [*]) [*]) [*]

@[simp] theorem State.attach_keeps (s : State) (t : Task) :
    (s.attach t).board = s.board ∧ (s.attach t).mem = s.mem := ⟨rfl, rfl⟩

@[simp] theorem State.bararr_keeps (s : State) (t : Task) (op : WobOp) (bar : Option (ℕ × ℕ × Bool)) :
    (s.bararr t op bar).board = s.board ∧ (s.bararr t op bar).mem = s.mem := by
  unfold State.bararr
  split <;> simp

@[simp] theorem State.barinit_keeps (s : State) (t : Task) (op : WobOp) (bar : Option (ℕ × ℕ × Bool)) :
    (s.barinit t op bar).board = s.board ∧ (s.barinit t op bar).mem = s.mem := by
  unfold State.barinit
  split <;> simp

@[simp] theorem State.putOp_keeps (s : State) (op : WobOp) :
    (s.putOp op).board = s.board ∧ (s.putOp op).mem = s.mem := ⟨rfl, rfl⟩

@[simp] theorem State.barwait_keeps (s : State) (t : Task) (op : WobOp) (bar : Option (ℕ × ℕ × Bool)) :
    (s.barwait t op bar).board = s.board ∧ (s.barwait t op bar).mem = s.mem := by
  unfold State.barwait
  split <;> simp

@[simp] theorem State.beforeWrite_keeps (s : State) (t : Task) (pa : ℕ) :
    (s.beforeWrite t pa).board = s.board ∧ (Memory.wf s.mem.hbm = true → Memory.wf (s.beforeWrite t pa).mem.hbm = true) ∧ (Memory.wf s.mem.hostMem = true → Memory.wf (s.beforeWrite t pa).mem.hostMem = true) := by
  simp only [State.beforeWrite]
  (repeat' split) <;> simp +contextual

@[simp] theorem State.setTile_keeps (s : State) (cluster : ℕ) (task : ℕ) (pl : ℕ) (t : ℕ) (x : Tile) :
    (s.setTile cluster task pl t x).board = s.board ∧ (s.setTile cluster task pl t x).mem = s.mem := ⟨rfl, rfl⟩

@[simp] theorem State.dropTile_keeps (s : State) (cluster : ℕ) (task : ℕ) (pl : ℕ) (t : ℕ) :
    (s.dropTile cluster task pl t).board = s.board ∧ (s.dropTile cluster task pl t).mem = s.mem := ⟨rfl, rfl⟩

@[simp] theorem State.fillTile_keeps (s : State) (t : Task) (p : Placement) (cluster : ℕ) (slot : ℕ) (f : TFmt) (rows : ℕ) (cols : ℕ) :
    (s.fillTile t p cluster slot f rows cols).1.board = s.board ∧ (s.fillTile t p cluster slot f rows cols).1.mem = s.mem := by
  simp only [State.fillTile]
  (repeat' split) <;> simp

@[simp] theorem State.beginFill_keeps (s : State) (t : Task) (p : Placement) (c : Cmd) (slot : ℕ) (f : TFmt) (rows : ℕ) (cols : ℕ) :
    (s.beginFill t p c slot f rows cols).1.board = s.board ∧ (s.beginFill t p c slot f rows cols).1.mem = s.mem := by
  have hfill := State.fillTile_keeps s t p c.cluster slot f rows cols
  unfold State.beginFill
  split <;> rename_i heq <;> rw [heq] at hfill <;> exact hfill

@[simp] theorem State.gangFree_keeps (s : State) (task : ℕ) :
    (s.gangFree task).board = s.board ∧ (s.gangFree task).mem = s.mem := by
  unfold State.gangFree
  split <;> simp

@[simp] theorem State.flipGens_keeps (s : State) (task : ℕ) :
    (s.flipGens task).board = s.board ∧ (s.flipGens task).mem = s.mem := by
  simp [State.flipGens]

@[simp] theorem State.freezeTask_keeps (s : State) (task : ℕ) :
    (s.freezeTask task).board = s.board ∧ (s.freezeTask task).mem = s.mem := ⟨rfl, rfl⟩

@[simp] theorem State.flrTask_keeps (s : State) (t : Task) :
    (s.flrTask t).board = s.board ∧ (s.flrTask t).mem = s.mem := by
  simp [State.flrTask]

@[simp] theorem State.beginFlr_keeps (s : State) (fn : ℕ) :
    (s.board.Legal → (s.beginFlr fn).board.Legal) ∧ (s.beginFlr fn).mem = s.mem := by
  refine ⟨fun h => ?_, ?_⟩
  · have hb : (s.beginFlr fn).board = { s.board with flr := true } := by
      simp [State.beginFlr]
    rw [hb]
    exact h
  · simp [State.beginFlr]

@[simp] theorem State.takeReq_keeps (s : State) (r : Req) :
    (s.takeReq r).board = s.board ∧ (Memory.wf s.mem.hbm = true → Memory.wf (s.takeReq r).mem.hbm = true) ∧ (Memory.wf s.mem.hostMem = true → Memory.wf (s.takeReq r).mem.hostMem = true) := ⟨rfl, fun h => h, fun h => h⟩

@[simp] theorem State.beginTxn_keeps (s : State) (r : Req) (targets : List ℕ) (mk : ℕ → ℕ → ℕ → CohMsg) :
    (s.beginTxn r targets mk).board = s.board ∧ (Memory.wf s.mem.hbm = true → Memory.wf (s.beginTxn r targets mk).mem.hbm = true) ∧ (Memory.wf s.mem.hostMem = true → Memory.wf (s.beginTxn r targets mk).mem.hostMem = true) := ⟨rfl, fun h => h, fun h => h⟩

@[simp] theorem State.beginInval_keeps (s : State) (r : Req) (targets : List ℕ) :
    (s.beginInval r targets).board = s.board ∧ (Memory.wf s.mem.hbm = true → Memory.wf (s.beginInval r targets).mem.hbm = true) ∧ (Memory.wf s.mem.hostMem = true → Memory.wf (s.beginInval r targets).mem.hostMem = true) := by
  unfold State.beginInval
  split <;> simp +contextual

@[simp] theorem State.retranslate_keeps (s : State) (op : WobOp) :
    (s.retranslate op).board = s.board ∧ (Memory.wf s.mem.hbm = true → Memory.wf (s.retranslate op).mem.hbm = true) ∧ (Memory.wf s.mem.hostMem = true → Memory.wf (s.retranslate op).mem.hostMem = true) := by
  simp only [State.retranslate]
  (repeat' split) <;> simp +contextual

@[simp] theorem State.invalidate_keeps (s : State) (space : ℕ → Bool) (lo : ℕ) (hi : ℕ) :
    (s.invalidate space lo hi).board = s.board ∧ (Memory.wf s.mem.hbm = true → Memory.wf (s.invalidate space lo hi).mem.hbm = true) ∧ (Memory.wf s.mem.hostMem = true → Memory.wf (s.invalidate space lo hi).mem.hostMem = true) := by
  simp +contextual [State.invalidate]

@[simp] theorem State.beginInvalidation_keeps (s : State) (fn : ℕ) (v : Word) :
    (s.beginInvalidation fn v).board = s.board ∧ (Memory.wf s.mem.hbm = true → Memory.wf (s.beginInvalidation fn v).mem.hbm = true) ∧ (Memory.wf s.mem.hostMem = true → Memory.wf (s.beginInvalidation fn v).mem.hostMem = true) := by
  simp +contextual [State.beginInvalidation]

@[simp] theorem State.discardCounted_keeps (s : State) (task : ℕ) :
    (s.discardCounted task).board = s.board ∧ (Memory.wf s.mem.hbm = true → Memory.wf (s.discardCounted task).mem.hbm = true) ∧ (Memory.wf s.mem.hostMem = true → Memory.wf (s.discardCounted task).mem.hostMem = true) := ⟨rfl, fun h => h, fun h => h⟩

@[simp] theorem State.killMatched_keeps (s : State) (t : Task) :
    (s.killMatched t).board = s.board ∧ (Memory.wf s.mem.hbm = true → Memory.wf (s.killMatched t).mem.hbm = true) ∧ (Memory.wf s.mem.hostMem = true → Memory.wf (s.killMatched t).mem.hostMem = true) := by
  unfold State.killMatched
  (repeat' split) <;> simp +contextual

@[simp] theorem State.beginKill_keeps (s : State) (fn : ℕ) (v : Word) :
    (s.beginKill fn v).board = s.board ∧ (Memory.wf s.mem.hbm = true → Memory.wf (s.beginKill fn v).mem.hbm = true) ∧ (Memory.wf s.mem.hostMem = true → Memory.wf (s.beginKill fn v).mem.hostMem = true) := by
  simp only [State.beginKill]
  (repeat' split) <;> simp +contextual

@[simp] theorem State.beginMove_keeps (s : State) (p : Placement) (pairs : List (ℕ × ℕ)) (elem : Option (ℕ × ℕ)) :
    (s.beginMove p pairs elem).board = s.board ∧ (s.beginMove p pairs elem).mem = s.mem := by
  simp [State.beginMove]

@[simp] theorem State.uncache_keeps (s : State) (target : ℕ) (frets : List ℕ) :
    (s.uncache target frets).board = s.board ∧ (s.uncache target frets).mem = s.mem := by
  simp [State.uncache]

@[simp] theorem State.beginRecfg_keeps (s : State) (op : WobOp) (target : ℕ) (slots : List (ℕ × List Byte)) (ncfgid : Word) (nimage : ℕ) :
    (s.beginRecfg op target slots ncfgid nimage).board = s.board ∧ (s.beginRecfg op target slots ncfgid nimage).mem = s.mem := by
  simp [State.beginRecfg]

@[simp] theorem State.beginThread_keeps (s : State) (p : Placement) (tag : ℕ) (work : Word) (ordinal : Word) :
    (s.beginThread p tag work ordinal).board = s.board ∧ (s.beginThread p tag work ordinal).mem = s.mem := ⟨rfl, rfl⟩

@[simp] theorem State.selectCounters_keeps (s : State) (g : Meas) (cluster : ℕ) :
    (s.selectCounters g cluster).board = s.board ∧ (s.selectCounters g cluster).mem = s.mem := by
  simp [State.selectCounters]

@[simp] theorem State.selectFor_keeps (s : State) (p : Placement) :
    (s.selectFor p).board = s.board ∧ (s.selectFor p).mem = s.mem := by
  unfold State.selectFor
  split <;> simp

@[simp] theorem State.makePlacement_keeps (s : State) (t : Task) (img : Option Img) (engines : List Bool) (idx : ℕ) (m : List (ℕ × ℕ)) :
    (s.makePlacement t img engines idx m).board = s.board ∧ (s.makePlacement t img engines idx m).mem = s.mem := by
  simp [State.makePlacement]

@[simp] theorem State.launchTrain_keeps (s : State) (ch : ℕ) (pf : ℕ) :
    (s.board.Legal → (s.launchTrain ch pf).board.Legal) ∧ (Memory.wf s.mem.hbm = true → Memory.wf (s.launchTrain ch pf).mem.hbm = true) ∧ (Memory.wf s.mem.hostMem = true → Memory.wf (s.launchTrain ch pf).mem.hostMem = true) := by
  simp only [State.launchTrain]
  (repeat' split) <;> simp +contextual

@[simp] theorem State.launchTrains_keeps (n : ℕ) (s : State) :
    (s.board.Legal → (State.launchTrains n s).board.Legal) ∧ (Memory.wf s.mem.hbm = true → Memory.wf (State.launchTrains n s).mem.hbm = true) ∧ (Memory.wf s.mem.hostMem = true → Memory.wf (State.launchTrains n s).mem.hostMem = true) := by
  induction n generalizing s with
  | zero => simp [State.launchTrains]
  | succ n ih =>
    simp only [State.launchTrains]
    split <;> simp +contextual [ih]

@[simp] theorem State.beginTraining_keeps (s : State) :
    (s.board.Legal → (s.beginTraining).board.Legal) ∧ (Memory.wf s.mem.hbm = true → Memory.wf (s.beginTraining).mem.hbm = true) ∧ (Memory.wf s.mem.hostMem = true → Memory.wf (s.beginTraining).mem.hostMem = true) := by
  simp +contextual [State.beginTraining]

@[simp] theorem State.modElem_keeps (s : State) (pf : ℕ) (e : ℕ) (g : Elem → Elem) :
    (s.modElem pf e g).board = s.board ∧ (s.modElem pf e g).mem = s.mem := ⟨rfl, rfl⟩

@[simp] theorem State.bringBack_keeps (s : State) (p : Placement) (pf : ℕ) (velem : ℕ) (pelem : ℕ) :
    (s.bringBack p pf velem pelem).board = s.board ∧ (s.bringBack p pf velem pelem).mem = s.mem := by
  simp [State.bringBack]

@[simp] theorem State.cfgWrite_keeps (s : State) (x1 : CfgWrite) :
    (s.cfgWrite x1).board = s.board ∧ (s.cfgWrite x1).mem = s.mem := by
  unfold State.cfgWrite
  split <;> simp

@[simp] theorem State.clearAccums_keeps (s : State) (cluster : ℕ) :
    (s.clearAccums cluster).board = s.board ∧ (s.clearAccums cluster).mem = s.mem := ⟨rfl, rfl⟩

@[simp] theorem State.clearCounters_keeps (s : State) (task : ℕ) :
    (s.clearCounters task).board = s.board ∧ (s.clearCounters task).mem = s.mem := ⟨rfl, rfl⟩

@[simp] theorem State.evictL1_keeps (s : State) (x : L1Line) :
    (s.evictL1 x).board = s.board ∧ (Memory.wf s.mem.hbm = true → Memory.wf (s.evictL1 x).mem.hbm = true) ∧ (Memory.wf s.mem.hostMem = true → Memory.wf (s.evictL1 x).mem.hostMem = true) := by
  simp +contextual [State.evictL1]

@[simp] theorem State.clearOthers_keeps (s : State) (cluster : ℕ) (line : ℕ) :
    (s.clearOthers cluster line).board = s.board ∧ (Memory.wf s.mem.hbm = true → Memory.wf (s.clearOthers cluster line).mem.hbm = true) ∧ (Memory.wf s.mem.hostMem = true → Memory.wf (s.clearOthers cluster line).mem.hostMem = true) := by
  unfold State.clearOthers
  split <;> simp +contextual

@[simp] theorem State.closePass_keeps (s : State) (t : Task) (g : Meas) :
    (s.closePass t g).1.board = s.board ∧ (Memory.wf s.mem.hbm = true → Memory.wf (s.closePass t g).1.mem.hbm = true) ∧ (Memory.wf s.mem.hostMem = true → Memory.wf (s.closePass t g).1.mem.hostMem = true) := by
  unfold State.closePass
  split <;> simp +contextual

@[simp] theorem State.releaseCounted_keeps (s : State) (task : ℕ) :
    (s.releaseCounted task).1.board = s.board ∧ (Memory.wf s.mem.hbm = true → Memory.wf (s.releaseCounted task).1.mem.hbm = true) ∧ (Memory.wf s.mem.hostMem = true → Memory.wf (s.releaseCounted task).1.mem.hostMem = true) := by
  simp only [State.releaseCounted]
  simp +contextual (disch := simp +contextual [*])

@[simp] theorem State.readCounters_keeps (s : State) (task : ℕ) (cluster : ℕ) :
    (s.readCounters task cluster).board = s.board ∧ (s.readCounters task cluster).mem = s.mem := by
  simp [State.readCounters]

@[simp] theorem State.endInterval_keeps (s : State) (p : Placement) (profile : Bool) :
    (s.endInterval p profile).board = s.board ∧ (s.endInterval p profile).mem = s.mem := by
  unfold State.endInterval
  split <;> simp

@[simp] theorem State.purgeTiles_keeps (s : State) (task : ℕ) (pl : ℕ) :
    (s.purgeTiles task pl).board = s.board ∧ (s.purgeTiles task pl).mem = s.mem := ⟨rfl, rfl⟩

@[simp] theorem State.purgeWaits_keeps (s : State) (task : ℕ) (pl : ℕ) :
    (s.purgeWaits task pl).board = s.board ∧ (Memory.wf s.mem.hbm = true → Memory.wf (s.purgeWaits task pl).mem.hbm = true) ∧ (Memory.wf s.mem.hostMem = true → Memory.wf (s.purgeWaits task pl).mem.hostMem = true) := ⟨rfl, fun h => h, fun h => h⟩

@[simp] theorem State.purgeFabric_keeps (s : State) (task : ℕ) (pl : ℕ) :
    (s.purgeFabric task pl).board = s.board ∧ (s.purgeFabric task pl).mem = s.mem := ⟨rfl, rfl⟩

@[simp] theorem State.endGrants_keeps (s : State) (p : Placement) :
    (s.endGrants p).board = s.board ∧ (s.endGrants p).mem = s.mem := by
  simp [State.endGrants]

@[simp] theorem State.releaseFret_keeps (s : State) (task : ℕ) (pf : ℕ) :
    (s.releaseFret task pf).board = s.board ∧ (s.releaseFret task pf).mem = s.mem := ⟨rfl, rfl⟩

@[simp] theorem State.releasePlacement_keeps (s : State) (p : Placement) :
    (s.releasePlacement p).board = s.board ∧ (Memory.wf s.mem.hbm = true → Memory.wf (s.releasePlacement p).mem.hbm = true) ∧ (Memory.wf s.mem.hostMem = true → Memory.wf (s.releasePlacement p).mem.hostMem = true) := by
  simp +contextual [State.releasePlacement]

@[simp] theorem State.releaseAll_keeps (s : State) (task : ℕ) :
    (s.releaseAll task).board = s.board ∧ (Memory.wf s.mem.hbm = true → Memory.wf (s.releaseAll task).mem.hbm = true) ∧ (Memory.wf s.mem.hostMem = true → Memory.wf (s.releaseAll task).mem.hostMem = true) := by
  simp +contextual [State.releaseAll]

@[simp] theorem State.dropCmds_keeps (s : State) (task : ℕ) :
    (s.dropCmds task).board = s.board ∧ (s.dropCmds task).mem = s.mem := ⟨rfl, rfl⟩

@[simp] theorem State.closeTask_keeps (s : State) (t : Task) :
    (s.closeTask t).board = s.board ∧ (Memory.wf s.mem.hbm = true → Memory.wf (s.closeTask t).mem.hbm = true) ∧ (Memory.wf s.mem.hostMem = true → Memory.wf (s.closeTask t).mem.hostMem = true) := by
  simp only [State.closeTask]
  (repeat' split) <;> simp +contextual

@[simp] theorem State.putRecord_keeps (s : State) (fn : ℕ) (pa : ℕ) (bs : List Byte) :
    (s.putRecord fn pa bs).board = s.board ∧ (Memory.wf s.mem.hbm = true → Memory.wf (s.putRecord fn pa bs).mem.hbm = true) ∧ (Memory.wf s.mem.hostMem = true → Memory.wf (s.putRecord fn pa bs).mem.hostMem = true) := by
  unfold State.putRecord
  split <;> simp +contextual

@[simp] theorem State.maxWord_keeps (s : State) (fn : ℕ) (pa : ℕ) (v : Word) :
    (s.maxWord fn pa v).board = s.board ∧ (Memory.wf s.mem.hbm = true → Memory.wf (s.maxWord fn pa v).mem.hbm = true) ∧ (Memory.wf s.mem.hostMem = true → Memory.wf (s.maxWord fn pa v).mem.hostMem = true) := by
  simp +contextual [State.maxWord]

@[simp] theorem State.putLine_keeps (s : State) (fn : ℕ) (pa : ℕ) (v : Word) :
    (s.putLine fn pa v).board = s.board ∧ (Memory.wf s.mem.hbm = true → Memory.wf (s.putLine fn pa v).mem.hbm = true) ∧ (Memory.wf s.mem.hostMem = true → Memory.wf (s.putLine fn pa v).mem.hostMem = true) := by
  unfold State.putLine
  (repeat' split) <;> simp +contextual

@[simp] theorem State.complete_keeps (s : State) (t : Task) :
    (s.complete t).board = s.board ∧ (Memory.wf s.mem.hbm = true → Memory.wf (s.complete t).mem.hbm = true) ∧ (Memory.wf s.mem.hostMem = true → Memory.wf (s.complete t).mem.hostMem = true) := by
  simp only [State.complete]
  (repeat' split) <;> simp +contextual

@[simp] theorem State.countRead_keeps (s : State) (op : WobOp) :
    (s.countRead op).board = s.board ∧ (s.countRead op).mem = s.mem := by
  simp [State.countRead]

@[simp] theorem State.flushHome_keeps (s : State) (r : Req) :
    (s.flushHome r).board = s.board ∧ (Memory.wf s.mem.hbm = true → Memory.wf (s.flushHome r).mem.hbm = true) ∧ (Memory.wf s.mem.hostMem = true → Memory.wf (s.flushHome r).mem.hostMem = true) := by
  refine ⟨?_, fun h => ?_, fun h => ?_⟩ <;> simp only [State.flushHome] <;> (repeat' split) <;> simp (disch := simp (disch := simp [*]) [*]) [*]

@[simp] theorem State.waitHome_keeps (s : State) (r : Req) :
    (s.waitHome r).board = s.board ∧ (Memory.wf s.mem.hbm = true → Memory.wf (s.waitHome r).mem.hbm = true) ∧ (Memory.wf s.mem.hostMem = true → Memory.wf (s.waitHome r).mem.hostMem = true) := by
  simp only [State.waitHome]
  (repeat' split) <;> simp +contextual (disch := simp +contextual [*])

@[simp] theorem State.completeAtHome_keeps (s : State) (r : Req) :
    (s.completeAtHome r).board = s.board ∧ (Memory.wf s.mem.hbm = true → Memory.wf (s.completeAtHome r).mem.hbm = true) ∧ (Memory.wf s.mem.hostMem = true → Memory.wf (s.completeAtHome r).mem.hostMem = true) := by
  unfold State.completeAtHome
  split <;> simp +contextual

@[simp] theorem State.pin_keeps (s : State) (r : Req) (c : ℕ) :
    (s.pin r c).board = s.board ∧ (Memory.wf s.mem.hbm = true → Memory.wf (s.pin r c).mem.hbm = true) ∧ (Memory.wf s.mem.hostMem = true → Memory.wf (s.pin r c).mem.hostMem = true) := by
  refine ⟨?_, fun h => ?_, fun h => ?_⟩ <;> simp only [State.pin] <;> (repeat' split) <;> simp (disch := simp (disch := simp [*]) [*]) [*]

@[simp] theorem State.consume_keeps (s : State) (r : Req) :
    (s.consume r).board = s.board ∧ (Memory.wf s.mem.hbm = true → Memory.wf (s.consume r).mem.hbm = true) ∧ (Memory.wf s.mem.hostMem = true → Memory.wf (s.consume r).mem.hostMem = true) := by
  unfold State.consume
  (repeat' split) <;> simp +contextual

@[simp] theorem State.serveWaiting_keeps (s : State) (line : ℕ) :
    (s.serveWaiting line).board = s.board ∧ (Memory.wf s.mem.hbm = true → Memory.wf (s.serveWaiting line).mem.hbm = true) ∧ (Memory.wf s.mem.hostMem = true → Memory.wf (s.serveWaiting line).mem.hostMem = true) := by
  simp +contextual [State.serveWaiting]

@[simp] theorem State.estStore_keeps (s : State) (r : Req) :
    (s.estStore r).board = s.board ∧ (Memory.wf s.mem.hbm = true → Memory.wf (s.estStore r).mem.hbm = true) ∧ (Memory.wf s.mem.hostMem = true → Memory.wf (s.estStore r).mem.hostMem = true) := by
  unfold State.estStore
  split <;> simp +contextual

@[simp] theorem State.completeEstablish_keeps (s : State) (r : Req) :
    (s.completeEstablish r).board = s.board ∧ (Memory.wf s.mem.hbm = true → Memory.wf (s.completeEstablish r).mem.hbm = true) ∧ (Memory.wf s.mem.hostMem = true → Memory.wf (s.completeEstablish r).mem.hostMem = true) := by
  simp only [State.completeEstablish]
  split_ifs <;> refine ⟨?_, fun h => ?_, fun h => ?_⟩ <;> simp +contextual (disch := simp +contextual (disch := simp +contextual (disch := simp +contextual [*]) [*]) [*]) [*]

@[simp] theorem State.pushAck_keeps (s : State) (op : WobOp) (line : ℕ) (install : Option Line) (fault : Option (FCode × ℕ)) :
    (s.pushAck op line install fault).board = s.board ∧ (Memory.wf s.mem.hbm = true → Memory.wf (s.pushAck op line install fault).mem.hbm = true) ∧ (Memory.wf s.mem.hostMem = true → Memory.wf (s.pushAck op line install fault).mem.hostMem = true) := ⟨rfl, fun h => h, fun h => h⟩

@[simp] theorem State.completeWrite_keeps (s : State) (r : Req) :
    (s.completeWrite r).board = s.board ∧ (Memory.wf s.mem.hbm = true → Memory.wf (s.completeWrite r).mem.hbm = true) ∧ (Memory.wf s.mem.hostMem = true → Memory.wf (s.completeWrite r).mem.hostMem = true) := by
  refine ⟨?_, fun h => ?_, fun h => ?_⟩ <;> simp only [State.completeWrite] <;> split_ifs <;> simp +contextual (disch := simp +contextual (disch := simp +contextual (disch := simp +contextual [*]) [*]) [*]) [*]

@[simp] theorem State.consumeAc_keeps (s : State) (v : Word) :
    (s.consumeAc v).board = s.board ∧ (Memory.wf s.mem.hbm = true → Memory.wf (s.consumeAc v).mem.hbm = true) ∧ (Memory.wf s.mem.hostMem = true → Memory.wf (s.consumeAc v).mem.hostMem = true) := ⟨rfl, fun h => h, fun h => h⟩

@[simp] theorem State.consumeSlot_keeps (s : State) (c : Cmd) (slot : ℕ) :
    (s.consumeSlot c slot).1.board = s.board ∧ (s.consumeSlot c slot).1.mem = s.mem := by
  simp only [State.consumeSlot]
  (repeat' split) <;> simp

@[simp] theorem State.consumeCmd_keeps (s : State) (c : Cmd) :
    (s.consumeCmd c).1.board = s.board ∧ (s.consumeCmd c).1.mem = s.mem := by
  unfold State.consumeCmd
  split_ifs
  · simp
  · refine ⟨foldl_fst_board _ _ _ ((everywhere_iff _).2 fun s x => ?_), foldl_fst_mem _ _ _ ((everywhere_iff _).2 fun s x => ?_)⟩ <;> split_ifs <;> simp

@[simp] theorem State.consumeAll_keeps (s : State) :
    (s.consumeAll).board = s.board ∧ (s.consumeAll).mem = s.mem := by
  simp [State.consumeAll]

@[simp] theorem State.copyLine_keeps (g : Mig) (s : State) (line : ℕ) :
    (State.copyLine g s line).board = s.board ∧ (Memory.wf s.mem.hbm = true → Memory.wf (State.copyLine g s line).mem.hbm = true) ∧ (Memory.wf s.mem.hostMem = true → Memory.wf (State.copyLine g s line).mem.hostMem = true) := by
  simp only [State.copyLine]
  (repeat' split) <;> simp +contextual

@[simp] theorem State.countFetch_keeps (s : State) (c : Cmd) (h : Hop) :
    (s.countFetch c h).board = s.board ∧ (s.countFetch c h).mem = s.mem := by
  unfold State.countFetch
  split <;> simp

@[simp] theorem State.countSpill_keeps (s : State) (t : NetTok) (code : ℕ) (n : ℕ) :
    (s.countSpill t code n).board = s.board ∧ (s.countSpill t code n).mem = s.mem := ⟨rfl, rfl⟩

@[simp] theorem State.setPoison_keeps (s : State) (line : ℕ) (on : Bool) :
    (s.setPoison line on).board = s.board ∧ (Memory.wf s.mem.hbm = true → Memory.wf (s.setPoison line on).mem.hbm = true) ∧ (Memory.wf s.mem.hostMem = true → Memory.wf (s.setPoison line on).mem.hostMem = true) := by
  unfold State.setPoison
  (repeat' split) <;> simp

@[simp] theorem State.coverLine_keeps (s : State) (c : Cmd) (pa : ℕ) (n : ℕ) (poisoned : Bool) :
    (s.coverLine c pa n poisoned).1.board = s.board ∧ (Memory.wf s.mem.hbm = true → Memory.wf (s.coverLine c pa n poisoned).1.mem.hbm = true) ∧ (Memory.wf s.mem.hostMem = true → Memory.wf (s.coverLine c pa n poisoned).1.mem.hostMem = true) := by
  simp only [State.coverLine]
  (repeat' split) <;> simp +contextual

@[simp] theorem State.cycleEvents_keeps (s : State) :
    (s.cycleEvents).board = s.board ∧ (s.cycleEvents).mem = s.mem := by
  simp [State.cycleEvents]

@[simp] theorem State.dbgRefuse_keeps (s : State) :
    (s.dbgRefuse).board = s.board ∧ (s.dbgRefuse).mem = s.mem := ⟨rfl, rfl⟩

@[simp] theorem State.dbgTake_keeps (s : State) :
    (s.dbgTake).board = s.board ∧ (s.dbgTake).mem = s.mem := ⟨rfl, rfl⟩

@[simp] theorem State.debugStop_keeps (s : State) (task : ℕ) (cause : ℕ) (swid : ℕ) (tag : ℕ) (wave : ℕ) (pl : ℕ) (pf : ℕ) :
    (s.debugStop task cause swid tag wave pl pf).board = s.board ∧ (s.debugStop task cause swid tag wave pl pf).mem = s.mem := by
  simp [State.debugStop]

@[simp] theorem State.replyEarly_keeps (s : State) (op : WobOp) (r : Reply) :
    (s.replyEarly op r).board = s.board ∧ (s.replyEarly op r).mem = s.mem := by
  unfold State.replyEarly
  split <;> simp

@[simp] theorem State.replyHeld_keeps (s : State) (op : WobOp) (r : Reply) :
    (s.replyHeld op r).board = s.board ∧ (s.replyHeld op r).mem = s.mem := by
  unfold State.replyHeld
  split <;> simp

@[simp] theorem State.deliverReply_keeps (s : State) (r : Reply) :
    (s.deliverReply r).board = s.board ∧ (s.deliverReply r).mem = s.mem := by
  unfold State.deliverReply
  (repeat' split) <;> simp

@[simp] theorem State.detach_keeps (s : State) (task : ℕ) :
    (s.detach task).board = s.board ∧ (s.detach task).mem = s.mem := by
  simp [State.detach]

@[simp] theorem State.setQueue_keeps (s : State) (fn : ℕ) (q : ℕ) (x : Queue) :
    (s.setQueue fn q x).board = s.board ∧ (s.setQueue fn q x).mem = s.mem := ⟨rfl, rfl⟩

@[simp] theorem State.disableQueue_keeps (s : State) (fn : ℕ) (q : ℕ) (code : ℕ) :
    (s.disableQueue fn q code).board = s.board ∧ (s.disableQueue fn q code).mem = s.mem := ⟨rfl, rfl⟩

@[simp] theorem State.leave_keeps (s : State) (p : Placement) (f : ℕ) (velem : ℕ) (pf : ℕ) (pelem : ℕ) (x6 : OutItem) :
    (s.leave p f velem pf pelem x6).board = s.board ∧ (s.leave p f velem pf pelem x6).mem = s.mem := by
  unfold State.leave
  split <;> simp

@[simp] theorem State.drainElem_keeps (task : ℕ) (pl : ℕ) (f : ℕ) (velem : ℕ) (pf : ℕ) (pelem : ℕ) (n : ℕ) (s : State) :
    (State.drainElem task pl f velem pf pelem n s).board = s.board ∧ (State.drainElem task pl f velem pf pelem n s).mem = s.mem := by
  induction n generalizing s with
  | zero => simp [State.drainElem]
  | succ n ih =>
    simp only [State.drainElem]
    split <;> (try split) <;> simp [ih]

@[simp] theorem State.setAccum_keeps (s : State) (cluster : ℕ) (sel : ℕ) (a : Accum) :
    (s.setAccum cluster sel a).board = s.board ∧ (s.setAccum cluster sel a).mem = s.mem := ⟨rfl, rfl⟩

@[simp] theorem State.drained_keeps (s : State) (c : Cmd) (d : DrainF) (rows : ℕ) (cols : ℕ) (sc : Scales) :
    (s.drained c d rows cols sc).1.board = s.board ∧ (s.drained c d rows cols sc).1.mem = s.mem := by
  simp [State.drained]

@[simp] theorem State.dropCleanHlc_keeps (s : State) :
    (s.dropCleanHlc).board = s.board ∧ (Memory.wf s.mem.hbm = true → Memory.wf (s.dropCleanHlc).mem.hbm = true) ∧ (Memory.wf s.mem.hostMem = true → Memory.wf (s.dropCleanHlc).mem.hostMem = true) := ⟨rfl, fun h => h, fun h => h⟩

@[simp] theorem State.dropCmd_keeps (s : State) (seq : ℕ) :
    (s.dropCmd seq).board = s.board ∧ (s.dropCmd seq).mem = s.mem := ⟨rfl, rfl⟩

@[simp] theorem State.dropEgress_keeps (s : State) (task : ℕ) :
    (s.dropEgress task).board = s.board ∧ (Memory.wf s.mem.hbm = true → Memory.wf (s.dropEgress task).mem.hbm = true) ∧ (Memory.wf s.mem.hostMem = true → Memory.wf (s.dropEgress task).mem.hostMem = true) := ⟨rfl, fun h => h, fun h => h⟩

@[simp] theorem State.dropHlc_keeps (s : State) :
    (s.board.Legal → (s.dropHlc).board.Legal) ∧ (Memory.wf s.mem.hbm = true → Memory.wf (s.dropHlc).mem.hbm = true) ∧ (Memory.wf s.mem.hostMem = true → Memory.wf (s.dropHlc).mem.hostMem = true) := by
  refine ⟨fun h => ?_, fun h => h, fun h => h⟩
  obtain ⟨hp, hf, hc, hn, hl, hd, he, -⟩ := h
  exact ⟨hp, hf, hc, hn, hl, hd, he, Nat.min_le_left _ _⟩

@[simp] theorem State.dropOp_keeps (s : State) (n : ℕ) :
    (s.dropOp n).board = s.board ∧ (s.dropOp n).mem = s.mem := ⟨rfl, rfl⟩

@[simp] theorem State.dropSelections_keeps (s : State) (task : ℕ) :
    (s.dropSelections task).board = s.board ∧ (s.dropSelections task).mem = s.mem := ⟨rfl, rfl⟩

@[simp] theorem State.releaseHeld_keeps (s : State) (p : Placement) (t : NetTok) :
    (s.releaseHeld p t).board = s.board ∧ (s.releaseHeld p t).mem = s.mem := by
  simp [State.releaseHeld]

@[simp] theorem State.sendStepped_keeps (s : State) :
    (s.sendStepped).board = s.board ∧ (s.sendStepped).mem = s.mem := by
  unfold State.sendStepped
  refine ⟨foldl_board _ _ _ ((everywhere_iff _).2 fun s x => ?_), foldl_mem _ _ _ ((everywhere_iff _).2 fun s x => ?_)⟩ <;> (repeat' split) <;> simp (disch := simp [*]) [*]

@[simp] theorem State.dropStepped_keeps (s : State) :
    (s.dropStepped).board = s.board ∧ (s.dropStepped).mem = s.mem := by
  simp [State.dropStepped]

@[simp] theorem State.dropWork_keeps (s : State) (task : ℕ) :
    (s.dropWork task).board = s.board ∧ (Memory.wf s.mem.hbm = true → Memory.wf (s.dropWork task).mem.hbm = true) ∧ (Memory.wf s.mem.hostMem = true → Memory.wf (s.dropWork task).mem.hostMem = true) := ⟨rfl, fun h => h, fun h => h⟩

@[simp] theorem State.dropTask_keeps (s : State) (t : Task) :
    (s.dropTask t).board = s.board ∧ (Memory.wf s.mem.hbm = true → Memory.wf (s.dropTask t).mem.hbm = true) ∧ (Memory.wf s.mem.hostMem = true → Memory.wf (s.dropTask t).mem.hostMem = true) := by
  refine ⟨?_, fun h => ?_, fun h => ?_⟩ <;> simp only [State.dropTask] <;> (repeat' split) <;> simp (disch := simp (disch := simp [*]) [*]) [*]

@[simp] theorem State.dropTok_keeps (s : State) (n : ℕ) :
    (s.dropTok n).board = s.board ∧ (s.dropTok n).mem = s.mem := ⟨rfl, rfl⟩

@[simp] theorem State.pushOut_keeps (s : State) (c : Focus) (items : List OutItem) :
    (s.pushOut c items).board = s.board ∧ (s.pushOut c items).mem = s.mem := ⟨rfl, rfl⟩

@[simp] theorem State.emit_keeps (s : State) (c : Focus) (x : ℕ) (tag : ℕ) (wave : ℕ) (ds : List Dest) (res : Option Word) (side : Option Word) :
    (s.emit c x tag wave ds res side).board = s.board ∧ (s.emit c x tag wave ds res side).mem = s.mem := ⟨rfl, rfl⟩

@[simp] theorem State.loseTrace_keeps (s : State) (die : ℕ) (fn : ℕ) (n : ℕ) :
    (s.loseTrace die fn n).board = s.board ∧ (s.loseTrace die fn n).mem = s.mem := ⟨rfl, rfl⟩

@[simp] theorem State.ringWrite_keeps (fn : ℕ) (base : ℕ) (size : ℕ) (n : ℕ) (bs : List Byte) (s : State) :
    (State.ringWrite fn base size n bs s).board = s.board ∧ (Memory.wf s.mem.hbm = true → Memory.wf (State.ringWrite fn base size n bs s).mem.hbm = true) ∧ (Memory.wf s.mem.hostMem = true → Memory.wf (State.ringWrite fn base size n bs s).mem.hostMem = true) := by
  induction n generalizing s bs with
  | zero => simp [State.ringWrite]
  | succ n ih =>
    simp only [State.ringWrite]
    simp +contextual [ih]

@[simp] theorem State.writeLost_keeps (fn : ℕ) (s : State) (die : ℕ) :
    (State.writeLost fn s die).board = s.board ∧ (Memory.wf s.mem.hbm = true → Memory.wf (State.writeLost fn s die).mem.hbm = true) ∧ (Memory.wf s.mem.hostMem = true → Memory.wf (State.writeLost fn s die).mem.hostMem = true) := by
  simp only [State.writeLost]
  (repeat' split) <;> simp +contextual

@[simp] theorem State.flushLost_keeps (s : State) (fn : ℕ) :
    (s.flushLost fn).board = s.board ∧ (Memory.wf s.mem.hbm = true → Memory.wf (s.flushLost fn).mem.hbm = true) ∧ (Memory.wf s.mem.hostMem = true → Memory.wf (s.flushLost fn).mem.hostMem = true) := by
  simp +contextual [State.flushLost]

@[simp] theorem State.emitTrace_keeps (s : State) (die : ℕ) (r : TrRec) :
    (s.emitTrace die r).board = s.board ∧ (Memory.wf s.mem.hbm = true → Memory.wf (s.emitTrace die r).mem.hbm = true) ∧ (Memory.wf s.mem.hostMem = true → Memory.wf (s.emitTrace die r).mem.hostMem = true) := by
  simp only [State.emitTrace]
  (repeat' split) <;> simp +contextual

@[simp] theorem State.emptyFailed_keeps (s : State) (c : Cmd) :
    (s.emptyFailed c).board = s.board ∧ (s.emptyFailed c).mem = s.mem := by
  unfold State.emptyFailed
  split <;> simp

@[simp] theorem State.notePair_keeps (s : State) (t : Task) :
    (s.notePair t).board = s.board ∧ (Memory.wf s.mem.hbm = true → Memory.wf (s.notePair t).mem.hbm = true) ∧ (Memory.wf s.mem.hostMem = true → Memory.wf (s.notePair t).mem.hostMem = true) := by
  simp +contextual [State.notePair]

@[simp] theorem State.noteKilled_keeps (s : State) (t : Task) :
    (s.noteKilled t).board = s.board ∧ (s.noteKilled t).mem = s.mem := by
  unfold State.noteKilled
  split <;> simp

@[simp] theorem State.finishTask_keeps (s : State) (t : Task) :
    (s.finishTask t).board = s.board ∧ (Memory.wf s.mem.hbm = true → Memory.wf (s.finishTask t).mem.hbm = true) ∧ (Memory.wf s.mem.hostMem = true → Memory.wf (s.finishTask t).mem.hostMem = true) := by
  simp +contextual [State.finishTask]

@[simp] theorem State.restorePages_keeps (s : State) (g : Meas) :
    (s.restorePages g).board = s.board ∧ (Memory.wf s.mem.hbm = true → Memory.wf (s.restorePages g).mem.hbm = true) ∧ (Memory.wf s.mem.hostMem = true → Memory.wf (s.restorePages g).mem.hostMem = true) := by
  simp +contextual [State.restorePages]

@[simp] theorem State.nextPass_keeps (s : State) (t : Task) (g : Meas) :
    (s.nextPass t g).board = s.board ∧ (Memory.wf s.mem.hbm = true → Memory.wf (s.nextPass t g).mem.hbm = true) ∧ (Memory.wf s.mem.hostMem = true → Memory.wf (s.nextPass t g).mem.hostMem = true) := by
  refine ⟨?_, fun h => ?_, fun h => ?_⟩ <;> simp only [State.nextPass] <;> (repeat' split) <;> simp (disch := simp (disch := simp [*]) [*]) [*]

@[simp] theorem State.writeMeasHeader_keeps (s : State) (g : Meas) (status : ℕ) (passes : ℕ) :
    (s.writeMeasHeader g status passes).board = s.board ∧ (Memory.wf s.mem.hbm = true → Memory.wf (s.writeMeasHeader g status passes).mem.hbm = true) ∧ (Memory.wf s.mem.hostMem = true → Memory.wf (s.writeMeasHeader g status passes).mem.hostMem = true) := by
  unfold State.writeMeasHeader
  split <;> simp +contextual

@[simp] theorem State.measResult_keeps (s : State) (t : Task) (g : Meas) :
    (s.measResult t g).board = s.board ∧ (Memory.wf s.mem.hbm = true → Memory.wf (s.measResult t g).mem.hbm = true) ∧ (Memory.wf s.mem.hostMem = true → Memory.wf (s.measResult t g).mem.hostMem = true) := by
  simp +contextual [State.measResult]

@[simp] theorem State.endTask_keeps (s : State) (t : Task) :
    (s.endTask t).board = s.board ∧ (Memory.wf s.mem.hbm = true → Memory.wf (s.endTask t).mem.hbm = true) ∧ (Memory.wf s.mem.hostMem = true → Memory.wf (s.endTask t).mem.hostMem = true) := by
  refine ⟨?_, fun h => ?_, fun h => ?_⟩ <;> simp only [State.endTask] <;> (repeat' split) <;> simp (disch := simp (disch := simp [*]) [*]) [*]

@[simp] theorem State.endTraining_keeps (s : State) :
    (s.board.Legal → (s.endTraining).board.Legal) ∧ (Memory.wf s.mem.hbm = true → Memory.wf (s.endTraining).mem.hbm = true) ∧ (Memory.wf s.mem.hostMem = true → Memory.wf (s.endTraining).mem.hostMem = true) := ⟨fun h => h, fun h => h, fun h => h⟩

@[simp] theorem State.engFail_keeps (s : State) (c : Cmd) (reason : ℕ) (slots : List ℕ) :
    (s.engFail c reason slots).1.board = s.board ∧ (s.engFail c reason slots).1.mem = s.mem := by
  unfold State.engFail
  split <;> simp

@[simp] theorem State.engWrite_keeps (s : State) (t : Task) (c : Cmd) (pa : ℕ) (bs : List Byte) (poisoned : Bool) :
    (s.engWrite t c pa bs poisoned).1.board = s.board ∧ (Memory.wf s.mem.hbm = true → Memory.wf (s.engWrite t c pa bs poisoned).1.mem.hbm = true) ∧ (Memory.wf s.mem.hostMem = true → Memory.wf (s.engWrite t c pa bs poisoned).1.mem.hostMem = true) := by
  refine ⟨?_, fun h => ?_, fun h => ?_⟩ <;> simp only [State.engWrite] <;> (repeat' split) <;> simp (disch := simp (disch := simp [*]) [*]) [*]

@[simp] theorem State.writePieces_keeps (s : State) (fn : ℕ) (ps : List (ℕ × ℕ)) (bs : List Byte) :
    (s.writePieces fn ps bs).board = s.board ∧ (Memory.wf s.mem.hbm = true → Memory.wf (s.writePieces fn ps bs).mem.hbm = true) ∧ (Memory.wf s.mem.hostMem = true → Memory.wf (s.writePieces fn ps bs).mem.hostMem = true) := by
  induction ps generalizing s bs with
  | nil => simp [State.writePieces]
  | cons p ps ih =>
    simp only [State.writePieces]
    simp +contextual [ih]

@[simp] theorem State.fabricWrite_keeps (s : State) (t : Task) (va : ℕ) (bs : List Byte) (poison : ℕ) (clears : Bool) :
    (s.fabricWrite t va bs poison clears).board = s.board ∧ (Memory.wf s.mem.hbm = true → Memory.wf (s.fabricWrite t va bs poison clears).mem.hbm = true) ∧ (Memory.wf s.mem.hostMem = true → Memory.wf (s.fabricWrite t va bs poison clears).mem.hostMem = true) := by
  simp only [State.fabricWrite]
  refine ⟨?_, fun h => ?_, fun h => ?_⟩
  · rw [foldl_fst_board _ _ _ ((everywhere_iff _).2 fun a q => ?_)]
    · simp
    · split_ifs <;> simp
  · refine foldl_fst_hbm_wf _ _ _ ((everywhere_iff _).2 fun a q h => ?_) ?_
    · split_ifs <;> simp [h]
    · simp +contextual (disch := simp +contextual (disch := simp +contextual [*]) [*]) [*]
  · refine foldl_fst_hostMem_wf _ _ _ ((everywhere_iff _).2 fun a q h => ?_) ?_
    · split_ifs <;> simp [h]
    · simp +contextual (disch := simp +contextual (disch := simp +contextual [*]) [*]) [*]

@[simp] theorem State.failCmd_keeps (s : State) (op : WobOp) (f : CmdFault) :
    (s.failCmd op f).board = s.board ∧ (s.failCmd op f).mem = s.mem := by
  simp [State.failCmd]

@[simp] theorem State.fillL1_keeps (s : State) (p : Placement) (cluster : ℕ) (line : ℕ) (st : L1St) (data : Line) :
    (s.fillL1 p cluster line st data).board = s.board ∧ (Memory.wf s.mem.hbm = true → Memory.wf (s.fillL1 p cluster line st data).mem.hbm = true) ∧ (Memory.wf s.mem.hostMem = true → Memory.wf (s.fillL1 p cluster line st data).mem.hostMem = true) := by
  unfold State.fillL1
  (repeat' split) <;> simp +contextual

@[simp] theorem State.finishCmd_keeps (s : State) (c : Cmd) :
    (s.finishCmd c).board = s.board ∧ (s.finishCmd c).mem = s.mem := by
  simp only [State.finishCmd]
  (repeat' split) <;> simp

@[simp] theorem State.finishColl_keeps (s : State) (t : Task) (c : Cmd) (g : Coll) :
    (s.finishColl t c g).1.board = s.board ∧ (Memory.wf s.mem.hbm = true → Memory.wf (s.finishColl t c g).1.mem.hbm = true) ∧ (Memory.wf s.mem.hostMem = true → Memory.wf (s.finishColl t c g).1.mem.hostMem = true) := by
  simp only [State.finishColl]
  (repeat' split) <;> simp +contextual

@[simp] theorem State.resetFn_keeps (s : State) (fn : ℕ) :
    (s.resetFn fn).board = s.board ∧ (Memory.wf s.mem.hbm = true → Memory.wf (s.resetFn fn).mem.hbm = true) ∧ (Memory.wf s.mem.hostMem = true → Memory.wf (s.resetFn fn).mem.hostMem = true) := by
  simp +contextual [State.resetFn]

@[simp] theorem State.finishFlr_keeps (s : State) (fn : ℕ) :
    (s.board.Legal → (s.finishFlr fn).board.Legal) ∧ (Memory.wf s.mem.hbm = true → Memory.wf (s.finishFlr fn).mem.hbm = true) ∧ (Memory.wf s.mem.hostMem = true → Memory.wf (s.finishFlr fn).mem.hostMem = true) := by
  have hboard : (s.finishFlr fn).board = { s.board with flr := (s.finishFlr fn).board.flr } := by
    simp only [State.finishFlr]
    split_ifs <;> simp
  refine ⟨fun h => ?_, fun h => ?_, fun h => ?_⟩
  · rw [hboard]
    exact h
  all_goals simp only [State.finishFlr] <;> split_ifs <;> simp +contextual (disch := simp +contextual (disch := simp +contextual [*]) [*]) [*]

@[simp] theorem State.finishKill_keeps (s : State) (t : Task) :
    (s.finishKill t).board = s.board ∧ (Memory.wf s.mem.hbm = true → Memory.wf (s.finishKill t).mem.hbm = true) ∧ (Memory.wf s.mem.hostMem = true → Memory.wf (s.finishKill t).mem.hostMem = true) := by
  simp only [State.finishKill]
  (repeat' split) <;> simp +contextual

@[simp] theorem State.settleAll_keeps (s : State) :
    (s.settleAll).board = s.board ∧ (Memory.wf s.mem.hbm = true → Memory.wf (s.settleAll).mem.hbm = true) ∧ (Memory.wf s.mem.hostMem = true → Memory.wf (s.settleAll).mem.hostMem = true) := ⟨rfl, fun h => h, fun h => h⟩

@[simp] theorem State.flushWays_keeps (s : State) (pf : ℕ) :
    (s.flushWays pf).board = s.board ∧ (Memory.wf s.mem.hbm = true → Memory.wf (s.flushWays pf).mem.hbm = true) ∧ (Memory.wf s.mem.hostMem = true → Memory.wf (s.flushWays pf).mem.hostMem = true) := by
  simp +contextual [State.flushWays]

@[simp] theorem State.moveEngine_keeps (s : State) (p : Placement) (pairs : List (ℕ × ℕ)) (c : ℕ) (c' : ℕ) :
    (s.moveEngine p pairs c c').board = s.board ∧ (s.moveEngine p pairs c c').mem = s.mem := ⟨rfl, rfl⟩

@[simp] theorem State.moveFrets_keeps (s : State) (p : Placement) (m : Move) :
    (s.moveFrets p m).board = s.board ∧ (Memory.wf s.mem.hbm = true → Memory.wf (s.moveFrets p m).mem.hbm = true) ∧ (Memory.wf s.mem.hostMem = true → Memory.wf (s.moveFrets p m).mem.hostMem = true) := by
  simp +contextual [State.moveFrets]

@[simp] theorem State.moveElem_keeps (s : State) (pf : ℕ) (e : ℕ × ℕ) :
    (s.moveElem pf e).board = s.board ∧ (Memory.wf s.mem.hbm = true → Memory.wf (s.moveElem pf e).mem.hbm = true) ∧ (Memory.wf s.mem.hostMem = true → Memory.wf (s.moveElem pf e).mem.hostMem = true) := by
  simp +contextual [State.moveElem]

@[simp] theorem State.finishMove_keeps (s : State) (p : Placement) (m : Move) :
    (s.finishMove p m).board = s.board ∧ (Memory.wf s.mem.hbm = true → Memory.wf (s.finishMove p m).mem.hbm = true) ∧ (Memory.wf s.mem.hostMem = true → Memory.wf (s.finishMove p m).mem.hostMem = true) := by
  unfold State.finishMove
  split <;> simp +contextual

@[simp] theorem State.takeReply_keeps (s : State) (seq : ℕ) :
    (s.board.Legal → (s.takeReply seq).board.Legal) ∧ (s.takeReply seq).mem = s.mem := ⟨fun h => h, rfl⟩

@[simp] theorem State.finishRemote_keeps (s : State) (t : Task) (c : Cmd) :
    (s.board.Legal → (s.finishRemote t c).1.board.Legal) ∧ (Memory.wf s.mem.hbm = true → Memory.wf (s.finishRemote t c).1.mem.hbm = true) ∧ (Memory.wf s.mem.hostMem = true → Memory.wf (s.finishRemote t c).1.mem.hostMem = true) := by
  simp only [State.finishRemote]
  (repeat' split) <;> simp +contextual

@[simp] theorem State.sendData_keeps (s : State) (r : Req) (install : Option L1St) :
    (s.sendData r install).board = s.board ∧ (Memory.wf s.mem.hbm = true → Memory.wf (s.sendData r install).mem.hbm = true) ∧ (Memory.wf s.mem.hostMem = true → Memory.wf (s.sendData r install).mem.hostMem = true) := by
  simp [State.sendData]

@[simp] theorem State.setDir_keeps (s : State) (line : ℕ) (d : Dir) :
    (s.setDir line d).board = s.board ∧ (Memory.wf s.mem.hbm = true → Memory.wf (s.setDir line d).mem.hbm = true) ∧ (Memory.wf s.mem.hostMem = true → Memory.wf (s.setDir line d).mem.hostMem = true) := ⟨rfl, fun h => h, fun h => h⟩

@[simp] theorem State.finishTxn_keeps (s : State) (r : Req) :
    (s.finishTxn r).board = s.board ∧ (Memory.wf s.mem.hbm = true → Memory.wf (s.finishTxn r).mem.hbm = true) ∧ (Memory.wf s.mem.hostMem = true → Memory.wf (s.finishTxn r).mem.hostMem = true) := by
  unfold State.finishTxn
  (repeat' split) <;> simp +contextual

@[simp] theorem State.gangFreezeTask_keeps (s : State) (t : Task) :
    (s.gangFreezeTask t).board = s.board ∧ (s.gangFreezeTask t).mem = s.mem := by
  simp [State.gangFreezeTask]

@[simp] theorem State.gangFreeze_keeps (s : State) (gid : BitVec 32) :
    (s.gangFreeze gid).board = s.board ∧ (s.gangFreeze gid).mem = s.mem := by
  simp [State.gangFreeze]

@[simp] theorem State.thawTask_keeps (s : State) (task : ℕ) :
    (s.thawTask task).board = s.board ∧ (s.thawTask task).mem = s.mem := ⟨rfl, rfl⟩

@[simp] theorem State.leaveHeld_keeps (s : State) (task : ℕ) :
    (s.leaveHeld task).board = s.board ∧ (s.leaveHeld task).mem = s.mem := by
  simp [State.leaveHeld]

@[simp] theorem State.resumeColls_keeps (s : State) (task : ℕ) :
    (s.resumeColls task).board = s.board ∧ (s.resumeColls task).mem = s.mem := ⟨rfl, rfl⟩

@[simp] theorem State.gangResumeTask_keeps (s : State) (t : Task) :
    (s.gangResumeTask t).board = s.board ∧ (s.gangResumeTask t).mem = s.mem := by
  simp [State.gangResumeTask]

@[simp] theorem State.mapPlacements_keeps (s : State) (t : Task) (m : List (ℕ × List (ℕ × ℕ))) :
    (s.mapPlacements t m).board = s.board ∧ (s.mapPlacements t m).mem = s.mem := by
  simp [State.mapPlacements]

@[simp] theorem State.giveFrets_keeps (s : State) (t : Task) (m : List (List (ℕ × ℕ))) :
    (s.giveFrets t m).board = s.board ∧ (s.giveFrets t m).mem = s.mem := by
  simp [State.giveFrets]

@[simp] theorem State.giveHost_keeps (s : State) (line : ℕ) (d : Line) :
    (s.giveHost line d).board = s.board ∧ (Memory.wf s.mem.hbm = true → Memory.wf (s.giveHost line d).mem.hbm = true) ∧ (Memory.wf s.mem.hostMem = true → Memory.wf (s.giveHost line d).mem.hostMem = true) := by
  simp +contextual [State.giveHost]

@[simp] theorem State.reply_keeps (s : State) (r : HostReply) :
    (s.reply r).board = s.board ∧ (s.reply r).mem = s.mem := ⟨rfl, rfl⟩

@[simp] theorem State.goFatal_keeps (s : State) (c : Cause) :
    (s.board.Legal → (s.goFatal c).board.Legal) ∧ (s.goFatal c).mem = s.mem := by
  refine ⟨fun h => ?_, ?_⟩ <;> simp only [State.goFatal] <;> split_ifs <;> simp
  all_goals
    obtain ⟨-, -, hc, hn, hl, hd, he, hll⟩ := h
    exact ⟨by simp, by simp, hc, hn, hl, hd, he, hll⟩

@[simp] theorem State.goTrain_keeps (s : State) :
    (s.board.Legal → (s.goTrain).board.Legal) ∧ (Memory.wf s.mem.hbm = true → Memory.wf (s.goTrain).mem.hbm = true) ∧ (Memory.wf s.mem.hostMem = true → Memory.wf (s.goTrain).mem.hostMem = true) := by
  simp +contextual [State.goTrain]

@[simp] theorem State.measLeases_keeps (s : State) (t : Task) :
    (s.measLeases t).board = s.board ∧ (Memory.wf s.mem.hbm = true → Memory.wf (s.measLeases t).mem.hbm = true) ∧ (Memory.wf s.mem.hostMem = true → Memory.wf (s.measLeases t).mem.hostMem = true) := by
  simp only [State.measLeases]
  (repeat' split) <;> simp +contextual

@[simp] theorem State.grantLeases_keeps (s : State) (t : Task) :
    (s.grantLeases t).board = s.board ∧ (Memory.wf s.mem.hbm = true → Memory.wf (s.grantLeases t).mem.hbm = true) ∧ (Memory.wf s.mem.hostMem = true → Memory.wf (s.grantLeases t).mem.hostMem = true) := by
  simp +contextual [State.grantLeases]

@[simp] theorem State.hlcFlush_keeps (s : State) (line : ℕ) :
    (s.hlcFlush line).board = s.board ∧ (Memory.wf s.mem.hbm = true → Memory.wf (s.hlcFlush line).mem.hbm = true) ∧ (Memory.wf s.mem.hostMem = true → Memory.wf (s.hlcFlush line).mem.hostMem = true) := by
  simp +contextual [State.hlcFlush]

@[simp] theorem State.holdEngines_keeps (s : State) :
    (s.holdEngines).board = s.board ∧ (s.holdEngines).mem = s.mem := ⟨rfl, rfl⟩

@[simp] theorem State.holdPref_keeps (s : State) (t : Task) (op : WobOp) :
    (s.holdPref t op).board = s.board ∧ (s.holdPref t op).mem = s.mem := ⟨rfl, rfl⟩

@[simp] theorem State.takeAtHome_keeps (s : State) (line : ℕ) :
    (s.takeAtHome line).board = s.board ∧ (Memory.wf s.mem.hbm = true → Memory.wf (s.takeAtHome line).mem.hbm = true) ∧ (Memory.wf s.mem.hostMem = true → Memory.wf (s.takeAtHome line).mem.hostMem = true) := by
  unfold State.takeAtHome
  split <;> simp +contextual

@[simp] theorem State.hostModify_keeps (s : State) (pa : ℕ) (bs : List Byte) (n : ℕ) :
    (s.hostModify pa bs n).board = s.board ∧ (Memory.wf s.mem.hbm = true → Memory.wf (s.hostModify pa bs n).mem.hbm = true) ∧ (Memory.wf s.mem.hostMem = true → Memory.wf (s.hostModify pa bs n).mem.hostMem = true) := by
  induction n generalizing s pa bs with
  | zero => simp [State.hostModify]
  | succ n ih =>
    simp only [State.hostModify]
    split_ifs <;> refine ⟨?_, fun h => ?_, fun h => ?_⟩ <;> simp (disch := simp (disch := simp [*]) [*]) [*]

@[simp] theorem State.hostPost_keeps (s : State) (op : WobOp) (bs : List Byte) :
    (s.hostPost op bs).board = s.board ∧ (Memory.wf s.mem.hbm = true → Memory.wf (s.hostPost op bs).mem.hbm = true) ∧ (Memory.wf s.mem.hostMem = true → Memory.wf (s.hostPost op bs).mem.hostMem = true) := by
  simp +contextual [State.hostPost]

@[simp] theorem State.hostPut_keeps (s : State) (pa : ℕ) (bs : List Byte) (n : ℕ) :
    (s.hostPut pa bs n).board = s.board ∧ (Memory.wf s.mem.hbm = true → Memory.wf (s.hostPut pa bs n).mem.hbm = true) ∧ (Memory.wf s.mem.hostMem = true → Memory.wf (s.hostPut pa bs n).mem.hostMem = true) := by
  induction n generalizing s pa bs with
  | zero => simp [State.hostPut]
  | succ n ih =>
    simp only [State.hostPut]
    split_ifs <;> simp +contextual [ih]

@[simp] theorem State.hostRead_keeps (s : State) (pa : ℕ) (n : ℕ) :
    (s.hostRead pa n).board = s.board ∧ (Memory.wf s.mem.hbm = true → Memory.wf (s.hostRead pa n).mem.hbm = true) ∧ (Memory.wf s.mem.hostMem = true → Memory.wf (s.hostRead pa n).mem.hostMem = true) := by
  simp only [State.hostRead]
  (repeat' split) <;> simp +contextual

@[simp] theorem State.recheckHost_keeps (s : State) (line : ℕ) :
    (s.recheckHost line).board = s.board ∧ (Memory.wf s.mem.hbm = true → Memory.wf (s.recheckHost line).mem.hbm = true) ∧ (Memory.wf s.mem.hostMem = true → Memory.wf (s.recheckHost line).mem.hostMem = true) := ⟨rfl, fun h => h, fun h => h⟩

@[simp] theorem State.hostWrites_keeps (s : State) (bs : List (ℕ × Byte)) :
    (s.hostWrites bs).board = s.board ∧ (Memory.wf s.mem.hbm = true → Memory.wf (s.hostWrites bs).mem.hbm = true) ∧ (Memory.wf s.mem.hostMem = true → Memory.wf (s.hostWrites bs).mem.hostMem = true) := by
  unfold State.hostWrites
  refine ⟨?_, fun h => ?_, fun h => ?_⟩
  · exact foldl_board _ _ _ ((everywhere_iff _).2 fun s x => by simp)
  · exact foldl_hbm_wf _ _ _ ((everywhere_iff _).2 fun s x h => by simp [h]) h
  · refine foldl_hostMem_wf _ _ _ ((everywhere_iff _).2 fun s x h => by simp [h]) (foldl_induct (P := fun m : Memory => Memory.wf m = true) (fun m q hm => ?_) bs h)
    split
    · exact memPut_wf _ _ _ hm
    · exact hm

@[simp] theorem State.installAck_keeps (s : State) (a : Ack) :
    (s.installAck a).board = s.board ∧ (Memory.wf s.mem.hbm = true → Memory.wf (s.installAck a).mem.hbm = true) ∧ (Memory.wf s.mem.hostMem = true → Memory.wf (s.installAck a).mem.hostMem = true) := by
  unfold State.installAck
  split <;> simp +contextual

@[simp] theorem State.installReply_keeps (s : State) (op : WobOp) (x2 : Option (ℕ × L1St × Line)) :
    (s.installReply op x2).board = s.board ∧ (Memory.wf s.mem.hbm = true → Memory.wf (s.installReply op x2).mem.hbm = true) ∧ (Memory.wf s.mem.hostMem = true → Memory.wf (s.installReply op x2).mem.hostMem = true) := by
  unfold State.installReply
  (repeat' split) <;> simp +contextual

@[simp] theorem State.setPhy_keeps (s : State) (ch : ℕ) (p : Phy) :
    (s.setPhy ch p).board = s.board ∧ (Memory.wf s.mem.hbm = true → Memory.wf (s.setPhy ch p).mem.hbm = true) ∧ (Memory.wf s.mem.hostMem = true → Memory.wf (s.setPhy ch p).mem.hostMem = true) := ⟨rfl, fun h => h, fun h => h⟩

@[simp] theorem State.ioWrite_keeps (s : State) (a : ℕ) (v : Word) :
    (s.ioWrite a v).board = s.board ∧ (Memory.wf s.mem.hbm = true → Memory.wf (s.ioWrite a v).mem.hbm = true) ∧ (Memory.wf s.mem.hostMem = true → Memory.wf (s.ioWrite a v).mem.hostMem = true) := by
  unfold State.ioWrite
  split <;> simp +contextual

@[simp] theorem State.storeUncached_keeps (s : State) (t : Task) (op : WobOp) :
    (s.storeUncached t op).board = s.board ∧ (Memory.wf s.mem.hbm = true → Memory.wf (s.storeUncached t op).mem.hbm = true) ∧ (Memory.wf s.mem.hostMem = true → Memory.wf (s.storeUncached t op).mem.hostMem = true) := by
  simp only [State.storeUncached]
  (repeat' split) <;> simp +contextual (disch := simp +contextual [*])

@[simp] theorem State.pushReq_keeps (s : State) (kind : ReqKind) (op : WobOp) (line : ℕ) :
    (s.pushReq kind op line).board = s.board ∧ (Memory.wf s.mem.hbm = true → Memory.wf (s.pushReq kind op line).mem.hbm = true) ∧ (Memory.wf s.mem.hostMem = true → Memory.wf (s.pushReq kind op line).mem.hostMem = true) := ⟨rfl, fun h => h, fun h => h⟩

@[simp] theorem State.issueStore_keeps (s : State) (t : Task) (p : Placement) (op : WobOp) :
    (s.issueStore t p op).board = s.board ∧ (Memory.wf s.mem.hbm = true → Memory.wf (s.issueStore t p op).mem.hbm = true) ∧ (Memory.wf s.mem.hostMem = true → Memory.wf (s.issueStore t p op).mem.hostMem = true) := by
  simp only [State.issueStore]
  (repeat' split) <;> simp +contextual

@[simp] theorem State.issueEstablish_keeps (s : State) (t : Task) (p : Placement) (op : WobOp) :
    (s.issueEstablish t p op).board = s.board ∧ (Memory.wf s.mem.hbm = true → Memory.wf (s.issueEstablish t p op).mem.hbm = true) ∧ (Memory.wf s.mem.hostMem = true → Memory.wf (s.issueEstablish t p op).mem.hostMem = true) := by
  unfold State.issueEstablish
  (repeat' split) <;> simp +contextual

@[simp] theorem State.prefPost_keeps (s : State) (t : Task) (op : WobOp) :
    (s.prefPost t op).board = s.board ∧ (Memory.wf s.mem.hbm = true → Memory.wf (s.prefPost t op).mem.hbm = true) ∧ (Memory.wf s.mem.hostMem = true → Memory.wf (s.prefPost t op).mem.hostMem = true) := by
  simp +contextual [State.prefPost]

@[simp] theorem State.issueFlush_keeps (s : State) (t : Task) (op : WobOp) :
    (s.issueFlush t op).board = s.board ∧ (Memory.wf s.mem.hbm = true → Memory.wf (s.issueFlush t op).mem.hbm = true) ∧ (Memory.wf s.mem.hostMem = true → Memory.wf (s.issueFlush t op).mem.hostMem = true) := by
  unfold State.issueFlush
  split <;> simp +contextual

@[simp] theorem State.issueWaitl_keeps (s : State) (t : Task) (op : WobOp) :
    (s.issueWaitl t op).board = s.board ∧ (Memory.wf s.mem.hbm = true → Memory.wf (s.issueWaitl t op).mem.hbm = true) ∧ (Memory.wf s.mem.hostMem = true → Memory.wf (s.issueWaitl t op).mem.hostMem = true) := by
  simp only [State.issueWaitl]
  (repeat' split) <;> simp +contextual

@[simp] theorem State.sendBarrier_keeps (s : State) (t : Task) (p : Placement) (op : WobOp) :
    (s.sendBarrier t p op).board = s.board ∧ (s.sendBarrier t p op).mem = s.mem := ⟨rfl, rfl⟩

@[simp] theorem State.swrCluster_keeps (s : State) (op : WobOp) (sel : Bool) (n : ℕ) :
    (s.swrCluster op sel n).board = s.board ∧ (s.swrCluster op sel n).mem = s.mem := by
  simp [State.swrCluster]

@[simp] theorem State.setEvt_keeps (s : State) (fn : ℕ) (b : ℕ) :
    (s.setEvt fn b).board = s.board ∧ (s.setEvt fn b).mem = s.mem := by
  simp [State.setEvt]

@[simp] theorem State.queueNext_keeps (s : State) (fn : ℕ) (q : ℕ) :
    (s.queueNext fn q).board = s.board ∧ (s.queueNext fn q).mem = s.mem := ⟨rfl, rfl⟩

@[simp] theorem State.issueLaunch_keeps (s : State) (t : Task) (op : WobOp) :
    (s.issueLaunch t op).board = s.board ∧ (Memory.wf s.mem.hbm = true → Memory.wf (s.issueLaunch t op).mem.hbm = true) ∧ (Memory.wf s.mem.hostMem = true → Memory.wf (s.issueLaunch t op).mem.hostMem = true) := by
  simp only [State.issueLaunch]
  (repeat' split) <;> simp +contextual

@[simp] theorem State.measure_keeps (s : State) (fn : ℕ) (q : ℕ) (n : ℕ) :
    (s.measure fn q n).board = s.board ∧ (Memory.wf s.mem.hbm = true → Memory.wf (s.measure fn q n).mem.hbm = true) ∧ (Memory.wf s.mem.hostMem = true → Memory.wf (s.measure fn q n).mem.hostMem = true) := by
  simp only [State.measure]
  (repeat' split) <;> simp +contextual

@[simp] theorem State.queueError_keeps (s : State) (fn : ℕ) (q : ℕ) (code : ℕ) :
    (s.queueError fn q code).board = s.board ∧ (s.queueError fn q code).mem = s.mem := by
  simp [State.queueError]

/-- A record taken leaves the registers as they were, and the memories in canonical form. -/
theorem takeRecord_keeps {s s' : State} {fn q n : Nat} {b : List Byte} (h : s.takeRecord fn q b = .launched s' n) :
    s'.board = s.board ∧ (Memory.wf s.mem.hbm = true → Memory.wf s'.mem.hbm = true) ∧
    (Memory.wf s.mem.hostMem = true → Memory.wf s'.mem.hostMem = true) := by
  simp only [State.takeRecord] at h
  split at h
  · cases h
  split_ifs at h <;> cases h <;> simp +contextual (disch := simp +contextual [*]) [*]

@[simp] theorem State.issueLaunchDisp_keeps (s : State) (op : WobOp) :
    (s.issueLaunchDisp op).board = s.board ∧ (Memory.wf s.mem.hbm = true → Memory.wf (s.issueLaunchDisp op).mem.hbm = true) ∧ (Memory.wf s.mem.hostMem = true → Memory.wf (s.issueLaunchDisp op).mem.hostMem = true) := by
  simp only [State.issueLaunchDisp]
  split
  next heq =>
    obtain ⟨hboard, hhbm, hhost⟩ := takeRecord_keeps heq
    simp +contextual [hboard, hhbm, hhost]
  all_goals simp

@[simp] theorem State.uncacheAll_keeps (s : State) (target : ℕ) :
    (s.uncacheAll target).board = s.board ∧ (s.uncacheAll target).mem = s.mem := by
  simp [State.uncacheAll]

@[simp] theorem State.issueRecfg_keeps (s : State) (t : Task) (op : WobOp) :
    (s.issueRecfg t op).board = s.board ∧ (s.issueRecfg t op).mem = s.mem := by
  unfold State.issueRecfg
  (repeat' split) <;> simp

@[simp] theorem State.issueAtom_keeps (s : State) (t : Task) (p : Placement) (op : WobOp) :
    (s.issueAtom t p op).board = s.board ∧ (Memory.wf s.mem.hbm = true → Memory.wf (s.issueAtom t p op).mem.hbm = true) ∧ (Memory.wf s.mem.hostMem = true → Memory.wf (s.issueAtom t p op).mem.hostMem = true) := by
  unfold State.issueAtom
  (repeat' split) <;> simp +contextual

@[simp] theorem State.issueEngine_keeps (s : State) (t : Task) (op : WobOp) :
    (s.issueEngine t op).board = s.board ∧ (s.issueEngine t op).mem = s.mem := by
  unfold State.issueEngine
  (repeat' split) <;> simp

@[simp] theorem State.readUncached_keeps (s : State) (t : Task) (op : WobOp) :
    (s.readUncached t op).board = s.board ∧ (Memory.wf s.mem.hbm = true → Memory.wf (s.readUncached t op).mem.hbm = true) ∧ (Memory.wf s.mem.hostMem = true → Memory.wf (s.readUncached t op).mem.hostMem = true) := by
  simp only [State.readUncached]
  (repeat' split) <;> simp +contextual (disch := simp +contextual [*])

@[simp] theorem State.touchL1_keeps (s : State) (x : L1Line) :
    (s.touchL1 x).board = s.board ∧ (Memory.wf s.mem.hbm = true → Memory.wf (s.touchL1 x).mem.hbm = true) ∧ (Memory.wf s.mem.hostMem = true → Memory.wf (s.touchL1 x).mem.hostMem = true) := ⟨rfl, fun h => h, fun h => h⟩

@[simp] theorem State.readCached_keeps (s : State) (p : Placement) (op : WobOp) :
    (s.readCached p op).board = s.board ∧ (Memory.wf s.mem.hbm = true → Memory.wf (s.readCached p op).mem.hbm = true) ∧ (Memory.wf s.mem.hostMem = true → Memory.wf (s.readCached p op).mem.hostMem = true) := by
  simp only [State.readCached]
  (repeat' split) <;> simp +contextual

@[simp] theorem State.performRead_keeps (s : State) (t : Task) (p : Placement) (op : WobOp) :
    (s.performRead t p op).board = s.board ∧ (Memory.wf s.mem.hbm = true → Memory.wf (s.performRead t p op).mem.hbm = true) ∧ (Memory.wf s.mem.hostMem = true → Memory.wf (s.performRead t p op).mem.hostMem = true) := by
  unfold State.performRead
  (repeat' split) <;> simp +contextual

@[simp] theorem State.issue_keeps (s : State) (t : Task) (p : Placement) (op : WobOp) :
    (s.board.Legal → (s.issue t p op).board.Legal) ∧ (Memory.wf s.mem.hbm = true → Memory.wf (s.issue t p op).mem.hbm = true) ∧ (Memory.wf s.mem.hostMem = true → Memory.wf (s.issue t p op).mem.hostMem = true) := by
  unfold State.issue
  (repeat' split) <;> simp +contextual

@[simp] theorem State.lastWork_keeps (s : State) (c : Cmd) :
    (s.board.Legal → (s.lastWork c).1.board.Legal) ∧ (Memory.wf s.mem.hbm = true → Memory.wf (s.lastWork c).1.mem.hbm = true) ∧ (Memory.wf s.mem.hostMem = true → Memory.wf (s.lastWork c).1.mem.hostMem = true) := by
  unfold State.lastWork
  (repeat' split) <;> simp +contextual

@[simp] theorem State.latch_keeps (s : State) (p : Placement) (f : ℕ) (velem : ℕ) (pf : ℕ) (pelem : ℕ) (i : Instr) (x : Inst) :
    (s.latch p f velem pf pelem i x).board = s.board ∧ (s.latch p f velem pf pelem i x).mem = s.mem := by
  simp only [State.latch]
  (repeat' split) <;> simp

@[simp] theorem State.stopAt_keeps (s : State) (task : ℕ) (cause : ℕ) :
    (s.stopAt task cause).board = s.board ∧ (s.stopAt task cause).mem = s.mem := by
  simp [State.stopAt]

@[simp] theorem State.lateHalt_keeps (s : State) (task : ℕ) :
    (s.lateHalt task).board = s.board ∧ (s.lateHalt task).mem = s.mem := by
  simp [State.lateHalt]

@[simp] theorem State.limitKeys_keeps (s : State) :
    (s.limitKeys).board = s.board ∧ (s.limitKeys).mem = s.mem := by
  simp [State.limitKeys]

@[simp] theorem State.linkEnd_keeps (s : State) (t : Task) :
    (s.linkEnd t).board = s.board ∧ (Memory.wf s.mem.hbm = true → Memory.wf (s.linkEnd t).mem.hbm = true) ∧ (Memory.wf s.mem.hostMem = true → Memory.wf (s.linkEnd t).mem.hostMem = true) := by
  unfold State.linkEnd
  (repeat' split) <;> simp +contextual

@[simp] theorem State.loadFrets_keeps (s : State) (t : Task) :
    (s.loadFrets t).board = s.board ∧ (s.loadFrets t).mem = s.mem := by
  simp [State.loadFrets]

@[simp] theorem State.loadRecord_keeps (s : State) (bytes : List Byte) (i : Instr) :
    (s.loadRecord bytes i).board = s.board ∧ (s.loadRecord bytes i).mem = s.mem := ⟨rfl, rfl⟩

@[simp] theorem State.loseVolatile_keeps (s : State) :
    (s.loseVolatile).board = s.board ∧ (Memory.wf s.mem.hbm = true → Memory.wf (s.loseVolatile).mem.hbm = true) ∧ (Memory.wf s.mem.hostMem = true → Memory.wf (s.loseVolatile).mem.hostMem = true) := ⟨rfl, fun _ => memory_nil_wf, fun h => h⟩

@[simp] theorem State.setVec_keeps (s : State) (fn : ℕ) (vec : ℕ) (x : MsixVec) :
    (s.setVec fn vec x).board = s.board ∧ (s.setVec fn vec x).mem = s.mem := ⟨rfl, rfl⟩

@[simp] theorem State.maskVec_keeps (s : State) (fn : ℕ) (vec : ℕ) (v : Bool) :
    (s.maskVec fn vec v).board = s.board ∧ (s.maskVec fn vec v).mem = s.mem := by
  simp [State.maskVec]

@[simp] theorem State.pinLine_keeps (s : State) (c : Cmd) (pa : ℕ) :
    (s.pinLine c pa).board = s.board ∧ (Memory.wf s.mem.hbm = true → Memory.wf (s.pinLine c pa).mem.hbm = true) ∧ (Memory.wf s.mem.hostMem = true → Memory.wf (s.pinLine c pa).mem.hostMem = true) := by
  unfold State.pinLine
  (repeat' split) <;> simp

@[simp] theorem State.pieceRead_keeps (s : State) (t : Task) (c : Cmd) (hs : List Hop) :
    (s.pieceRead t c hs).board = s.board ∧ (Memory.wf s.mem.hbm = true → Memory.wf (s.pieceRead t c hs).mem.hbm = true) ∧ (Memory.wf s.mem.hostMem = true → Memory.wf (s.pieceRead t c hs).mem.hostMem = true) := by
  unfold State.pieceRead
  refine ⟨foldl_board _ _ _ ((everywhere_iff _).2 fun s x => ?_), foldl_hbm_wf _ _ _ ((everywhere_iff _).2 fun s x h => ?_), foldl_hostMem_wf _ _ _ ((everywhere_iff _).2 fun s x h => ?_)⟩ <;> (repeat' split) <;> simp (disch := simp [*]) [*]

@[simp] theorem State.tileWrite_keeps (s : State) (c : Cmd) (slot : ℕ) (bs : List (ℕ × Byte)) :
    (s.tileWrite c slot bs).board = s.board ∧ (s.tileWrite c slot bs).mem = s.mem := by
  unfold State.tileWrite
  split <;> simp

@[simp] theorem State.pieceWrite_keeps (s : State) (t : Task) (c : Cmd) (hs : List Hop) (bs : List Byte) :
    (s.pieceWrite t c hs bs).1.board = s.board ∧ (Memory.wf s.mem.hbm = true → Memory.wf (s.pieceWrite t c hs bs).1.mem.hbm = true) ∧ (Memory.wf s.mem.hostMem = true → Memory.wf (s.pieceWrite t c hs bs).1.mem.hostMem = true) := by
  simp +contextual [State.pieceWrite]

@[simp] theorem State.movePiece_keeps (s : State) (t : Task) (c : Cmd) (hs : List Hop) :
    (s.movePiece t c hs).1.board = s.board ∧ (Memory.wf s.mem.hbm = true → Memory.wf (s.movePiece t c hs).1.mem.hbm = true) ∧ (Memory.wf s.mem.hostMem = true → Memory.wf (s.movePiece t c hs).1.mem.hostMem = true) := by
  unfold State.movePiece
  (repeat' split) <;> simp +contextual

@[simp] theorem State.nmcStep_keeps (s : State) (c : Cmd) :
    (s.nmcStep c).1.board = s.board ∧ (Memory.wf s.mem.hbm = true → Memory.wf (s.nmcStep c).1.mem.hbm = true) ∧ (Memory.wf s.mem.hostMem = true → Memory.wf (s.nmcStep c).1.mem.hostMem = true) := by
  refine ⟨?_, fun h => ?_, fun h => ?_⟩ <;> simp only [State.nmcStep] <;> split_ifs <;> (repeat' split) <;> simp +contextual (disch := simp +contextual (disch := simp +contextual (disch := simp +contextual [*]) [*]) [*]) [*]

@[simp] theorem State.noteDecision_keeps (s : State) (c : Focus) (d : ℕ) :
    (s.noteDecision c d).board = s.board ∧ (s.noteDecision c d).mem = s.mem := ⟨rfl, rfl⟩

@[simp] theorem State.noteEnd_keeps (s : State) (task : ℕ) (t : Thread) (whole : Bool) :
    (s.noteEnd task t whole).board = s.board ∧ (s.noteEnd task t whole).mem = s.mem := by
  simp [State.noteEnd]

@[simp] theorem State.noteStep_keeps (s : State) (task : ℕ) (pl : ℕ) (tag : ℕ) (wave : ℕ) :
    (s.noteStep task pl tag wave).board = s.board ∧ (s.noteStep task pl tag wave).mem = s.mem := by
  simp [State.noteStep]

@[simp] theorem State.noteWindows_keeps (s : State) :
    (s.noteWindows).board = s.board ∧ (s.noteWindows).mem = s.mem := by
  simp [State.noteWindows]

@[simp] theorem State.orderVictims_keeps (s : State) (n : Task) (w : Walked) :
    (s.orderVictims n w).board = s.board ∧ (s.orderVictims n w).mem = s.mem := by
  simp [State.orderVictims]

@[simp] theorem State.tickElem_keeps (task : ℕ) (pl : ℕ) (f : ℕ) (pf : ℕ) (s : State) (velem : ℕ) :
    (State.tickElem task pl f pf s velem).board = s.board ∧ (State.tickElem task pl f pf s velem).mem = s.mem := by
  unfold State.tickElem
  split <;> simp

@[simp] theorem State.tickFret_keeps (s : State) (pf : ℕ) :
    (s.tickFret pf).board = s.board ∧ (s.tickFret pf).mem = s.mem := by
  unfold State.tickFret
  split <;> simp

@[simp] theorem State.unpin_keeps (s : State) :
    (s.unpin).board = s.board ∧ (Memory.wf s.mem.hbm = true → Memory.wf (s.unpin).mem.hbm = true) ∧ (Memory.wf s.mem.hostMem = true → Memory.wf (s.unpin).mem.hostMem = true) := by
  unfold State.unpin
  split <;> simp

@[simp] theorem State.pieceTlb_keeps (s : State) (t : Task) (c : Cmd) (hs : List Hop) :
    (s.pieceTlb t c hs).board = s.board ∧ (Memory.wf s.mem.hbm = true → Memory.wf (s.pieceTlb t c hs).mem.hbm = true) ∧ (Memory.wf s.mem.hostMem = true → Memory.wf (s.pieceTlb t c hs).mem.hostMem = true) := by
  unfold State.pieceTlb
  refine ⟨foldl_board _ _ _ ((everywhere_iff _).2 fun s x => ?_), foldl_hbm_wf _ _ _ ((everywhere_iff _).2 fun s x h => ?_), foldl_hostMem_wf _ _ _ ((everywhere_iff _).2 fun s x h => ?_)⟩ <;> (repeat' split) <;> simp (disch := simp [*]) [*]

@[simp] theorem State.streamStep_keeps (s : State) (t : Task) (c : Cmd) :
    (s.streamStep t c).1.board = s.board ∧ (Memory.wf s.mem.hbm = true → Memory.wf (s.streamStep t c).1.mem.hbm = true) ∧ (Memory.wf s.mem.hostMem = true → Memory.wf (s.streamStep t c).1.mem.hostMem = true) := by
  simp only [State.streamStep]
  (repeat' split) <;> simp +contextual

@[simp] theorem State.putCmd_keeps (s : State) (c : Cmd) :
    (s.putCmd c).board = s.board ∧ (s.putCmd c).mem = s.mem := ⟨rfl, rfl⟩

@[simp] theorem State.runCmd_keeps (s : State) (seq : ℕ) :
    (s.runCmd seq).board = s.board ∧ (Memory.wf s.mem.hbm = true → Memory.wf (s.runCmd seq).mem.hbm = true) ∧ (Memory.wf s.mem.hostMem = true → Memory.wf (s.runCmd seq).mem.hostMem = true) := by
  simp only [State.runCmd]
  (repeat' split) <;> simp +contextual

@[simp] theorem State.runEngines_keeps (s : State) (still : Bool) :
    (s.runEngines still).board = s.board ∧ (Memory.wf s.mem.hbm = true → Memory.wf (s.runEngines still).mem.hbm = true) ∧ (Memory.wf s.mem.hostMem = true → Memory.wf (s.runEngines still).mem.hostMem = true) := by
  simp only [State.runEngines]
  simp +contextual (disch := simp +contextual [*])

@[simp] theorem State.tick_keeps (s : State) :
    (s.tick).board = s.board ∧ (Memory.wf s.mem.hbm = true → Memory.wf (s.tick).mem.hbm = true) ∧ (Memory.wf s.mem.hostMem = true → Memory.wf (s.tick).mem.hostMem = true) := by
  simp only [State.tick]
  (repeat' split) <;> simp +contextual

@[simp] theorem State.ticks_keeps (n : ℕ) (s : State) :
    (State.ticks n s).board = s.board ∧ (Memory.wf s.mem.hbm = true → Memory.wf (State.ticks n s).mem.hbm = true) ∧ (Memory.wf s.mem.hostMem = true → Memory.wf (State.ticks n s).mem.hostMem = true) := by
  induction n generalizing s with
  | zero => simp [State.ticks]
  | succ n ih =>
    simp only [State.ticks]
    simp +contextual [ih]

@[simp] theorem State.passTime_keeps (s : State) (b : Beat) :
    (s.board.Legal → (s.passTime b).board.Legal) ∧ (Memory.wf s.mem.hbm = true → Memory.wf (s.passTime b).mem.hbm = true) ∧ (Memory.wf s.mem.hostMem = true → Memory.wf (s.passTime b).mem.hostMem = true) := by
  refine ⟨fun h => ?_, fun h => ?_, fun h => ?_⟩ <;> simp only [State.passTime] <;> (repeat' split) <;> simp (disch := simp (disch := simp [*]) [*]) [*]

@[simp] theorem State.startTld_keeps (s : State) (t : Task) (p : Placement) (c : Cmd) :
    (s.startTld t p c).1.board = s.board ∧ (s.startTld t p c).1.mem = s.mem := by
  simp only [State.startTld]
  (repeat' split) <;> simp

@[simp] theorem State.startTst_keeps (s : State) (c : Cmd) :
    (s.startTst c).1.board = s.board ∧ (s.startTst c).1.mem = s.mem := by
  unfold State.startTst
  (repeat' split) <;> simp

@[simp] theorem State.startTrel_keeps (s : State) (c : Cmd) :
    (s.startTrel c).1.board = s.board ∧ (s.startTrel c).1.mem = s.mem := by
  unfold State.startTrel
  split <;> simp

@[simp] theorem State.startTzero_keeps (s : State) (t : Task) (p : Placement) (c : Cmd) :
    (s.startTzero t p c).1.board = s.board ∧ (s.startTzero t p c).1.mem = s.mem := by
  simp only [State.startTzero]
  (repeat' split) <;> simp

@[simp] theorem State.putTileData_keeps (s : State) (c : Cmd) (slot : ℕ) (bs : List Byte) (satf : Bool) :
    (s.putTileData c slot bs satf).board = s.board ∧ (s.putTileData c slot bs satf).mem = s.mem := by
  unfold State.putTileData
  split <;> simp

@[simp] theorem State.startTtr_keeps (s : State) (t : Task) (p : Placement) (c : Cmd) :
    (s.startTtr t p c).1.board = s.board ∧ (s.startTtr t p c).1.mem = s.mem := by
  simp only [State.startTtr]
  (repeat' split) <;> simp

@[simp] theorem State.startMm_keeps (s : State) (c : Cmd) :
    (s.startMm c).1.board = s.board ∧ (s.startMm c).1.mem = s.mem := by
  simp only [State.startMm]
  (repeat' split) <;> simp

@[simp] theorem State.startDrain_keeps (s : State) (t : Task) (p : Placement) (c : Cmd) (d : DrainF) :
    (s.startDrain t p c d).1.board = s.board ∧ (s.startDrain t p c d).1.mem = s.mem := by
  simp only [State.startDrain]
  (repeat' split) <;> simp

@[simp] theorem State.startDrainM_keeps (s : State) (c : Cmd) (d : DrainF) :
    (s.startDrainM c d).1.board = s.board ∧ (s.startDrainM c d).1.mem = s.mem := by
  simp only [State.startDrainM]
  (repeat' split) <;> simp

@[simp] theorem State.startCopy_keeps (s : State) (c : Cmd) :
    (s.startCopy c).1.board = s.board ∧ (s.startCopy c).1.mem = s.mem := by
  simp only [State.startCopy]
  (repeat' split) <;> simp

@[simp] theorem State.startGath_keeps (s : State) (t : Task) (p : Placement) (c : Cmd) :
    (s.startGath t p c).1.board = s.board ∧ (s.startGath t p c).1.mem = s.mem := by
  simp only [State.startGath]
  (repeat' split) <;> simp

@[simp] theorem State.startRemote_keeps (s : State) (t : Task) (c : Cmd) :
    (s.startRemote t c).1.board = s.board ∧ (Memory.wf s.mem.hbm = true → Memory.wf (s.startRemote t c).1.mem.hbm = true) ∧ (Memory.wf s.mem.hostMem = true → Memory.wf (s.startRemote t c).1.mem.hostMem = true) := by
  simp only [State.startRemote]
  (repeat' split) <;> simp +contextual

@[simp] theorem State.startNmc_keeps (s : State) (c : Cmd) :
    (s.startNmc c).1.board = s.board ∧ (Memory.wf s.mem.hbm = true → Memory.wf (s.startNmc c).1.mem.hbm = true) ∧ (Memory.wf s.mem.hostMem = true → Memory.wf (s.startNmc c).1.mem.hostMem = true) := by
  unfold State.startNmc
  split
  · simp
  · refine ⟨rfl, foldl_mem_hbm_wf _ _ _ ((everywhere_iff _).2 fun m l h => ?_), foldl_mem_hostMem_wf _ _ _ ((everywhere_iff _).2 fun m l h => ?_)⟩ <;> simp (disch := simp (disch := simp [*]) [*]) [*]

@[simp] theorem State.startColl_keeps (s : State) (t : Task) (c : Cmd) :
    (s.startColl t c).1.board = s.board ∧ (Memory.wf s.mem.hbm = true → Memory.wf (s.startColl t c).1.mem.hbm = true) ∧ (Memory.wf s.mem.hostMem = true → Memory.wf (s.startColl t c).1.mem.hostMem = true) := by
  unfold State.startColl
  split <;> simp +contextual

@[simp] theorem State.performCmd_keeps (s : State) (t : Task) (p : Placement) (c : Cmd) :
    (s.performCmd t p c).1.board = s.board ∧ (Memory.wf s.mem.hbm = true → Memory.wf (s.performCmd t p c).1.mem.hbm = true) ∧ (Memory.wf s.mem.hostMem = true → Memory.wf (s.performCmd t p c).1.mem.hostMem = true) := by
  unfold State.performCmd
  (repeat' split) <;> simp +contextual

@[simp] theorem State.pick_keeps (s : State) (k : ℕ) (prio : ℕ) (b : List Byte) :
    (s.pick k prio b).board = s.board ∧ (Memory.wf s.mem.hbm = true → Memory.wf (s.pick k prio b).mem.hbm = true) ∧ (Memory.wf s.mem.hostMem = true → Memory.wf (s.pick k prio b).mem.hostMem = true) := by
  simp only [State.pick]
  split
  next heq =>
    obtain ⟨hboard, hhbm, hhost⟩ := takeRecord_keeps heq
    simp +contextual [hboard, hhbm, hhost]
  all_goals simp

@[simp] theorem State.poisonFlight_keeps (s : State) :
    (s.poisonFlight).board = s.board ∧ (Memory.wf s.mem.hbm = true → Memory.wf (s.poisonFlight).mem.hbm = true) ∧ (Memory.wf s.mem.hostMem = true → Memory.wf (s.poisonFlight).mem.hostMem = true) := by
  simp +contextual [State.poisonFlight]

@[simp] theorem State.pollWait_keeps (s : State) (w : Wait) (now : ℕ) :
    (s.pollWait w now).board = s.board ∧ (Memory.wf s.mem.hbm = true → Memory.wf (s.pollWait w now).mem.hbm = true) ∧ (Memory.wf s.mem.hostMem = true → Memory.wf (s.pollWait w now).mem.hostMem = true) := by
  simp only [State.pollWait]
  (repeat' split) <;> simp +contextual

@[simp] theorem State.postLeases_keeps (s : State) (t : Task) :
    (s.postLeases t).board = s.board ∧ (Memory.wf s.mem.hbm = true → Memory.wf (s.postLeases t).mem.hbm = true) ∧ (Memory.wf s.mem.hostMem = true → Memory.wf (s.postLeases t).mem.hostMem = true) := by
  simp +contextual [State.postLeases]

@[simp] theorem State.tripNow_keeps (s : State) (sensor : ℕ) :
    (s.board.Legal → (s.tripNow sensor).board.Legal) ∧ (Memory.wf s.mem.hbm = true → Memory.wf (s.tripNow sensor).mem.hbm = true) ∧ (Memory.wf s.mem.hostMem = true → Memory.wf (s.tripNow sensor).mem.hostMem = true) := by
  refine ⟨fun h => ?_, fun h => ?_, fun h => ?_⟩ <;> simp only [State.tripNow]
  · exact (State.goFatal_keeps _ _).1 (Board.afterPower_keeps s.board h)
  · simp [h]
  · simp [h]

@[simp] theorem State.powerOn_keeps (s : State) :
    (s.board.Legal → (s.powerOn).board.Legal) ∧ (Memory.wf s.mem.hbm = true → Memory.wf (s.powerOn).mem.hbm = true) ∧ (Memory.wf s.mem.hostMem = true → Memory.wf (s.powerOn).mem.hostMem = true) := by
  refine ⟨fun h => ?_, fun h => ?_, fun h => ?_⟩ <;> simp only [State.powerOn]
  · have hon : ∀ now, Board.Legal { s.board.afterPower with
        phase := 1, phaseSince := now, pwrEn := true, alert := false, flash := s.board.staged.or s.board.flash, staged := none } := fun now => by
      obtain ⟨-, -, hclk, hnext, hplim, hduty, hev, hlines⟩ := Board.afterPower_keeps s.board h
      exact ⟨by simp, by simp [Board.afterPower, Board.reset], hclk, hnext, hplim, hduty, hev, hlines⟩
    split_ifs
    · exact (State.tripNow_keeps _ _).1 (hon _)
    · exact hon _
  · split_ifs <;> simp [h]
  · split_ifs <;> simp [h]

@[simp] theorem State.preempt_keeps (s : State) (n : Task) :
    (s.preempt n).board = s.board ∧ (s.preempt n).mem = s.mem := by
  simp [State.preempt]

@[simp] theorem State.pushMsg_keeps (s : State) (m : CohMsg) :
    (s.pushMsg m).board = s.board ∧ (Memory.wf s.mem.hbm = true → Memory.wf (s.pushMsg m).mem.hbm = true) ∧ (Memory.wf s.mem.hostMem = true → Memory.wf (s.pushMsg m).mem.hostMem = true) := ⟨rfl, fun h => h, fun h => h⟩

@[simp] theorem State.readShared_keeps (s : State) (r : Req) (nt : Bool) :
    (s.readShared r nt).board = s.board ∧ (Memory.wf s.mem.hbm = true → Memory.wf (s.readShared r nt).mem.hbm = true) ∧ (Memory.wf s.mem.hostMem = true → Memory.wf (s.readShared r nt).mem.hostMem = true) := by
  refine ⟨?_, fun h => ?_, fun h => ?_⟩ <;> simp only [State.readShared] <;> (repeat' split) <;> simp (disch := simp (disch := simp [*]) [*]) [*]

@[simp] theorem State.readTiles_keeps (s : State) (c : Cmd) :
    (s.readTiles c).1.board = s.board ∧ (s.readTiles c).1.mem = s.mem := by
  simp only [State.readTiles]
  (repeat' split) <;> simp

@[simp] theorem State.recount_keeps (s : State) (t : Task) (x : SavedLine) :
    (s.recount t x).board = s.board ∧ (Memory.wf s.mem.hbm = true → Memory.wf (s.recount t x).mem.hbm = true) ∧ (Memory.wf s.mem.hostMem = true → Memory.wf (s.recount t x).mem.hostMem = true) := by
  refine ⟨?_, fun h => ?_, fun h => ?_⟩ <;> simp only [State.recount] <;> (repeat' split) <;> simp (disch := simp (disch := simp [*]) [*]) [*]

@[simp] theorem State.reenter_keeps (s : State) (t : Task) :
    (s.reenter t).board = s.board ∧ (Memory.wf s.mem.hbm = true → Memory.wf (s.reenter t).mem.hbm = true) ∧ (Memory.wf s.mem.hostMem = true → Memory.wf (s.reenter t).mem.hostMem = true) := by
  unfold State.reenter
  split <;> simp +contextual

@[simp] theorem State.registerLines_keeps (s : State) (lines : List ℕ) :
    (s.registerLines lines).board = s.board ∧ (Memory.wf s.mem.hbm = true → Memory.wf (s.registerLines lines).mem.hbm = true) ∧ (Memory.wf s.mem.hostMem = true → Memory.wf (s.registerLines lines).mem.hostMem = true) := by
  refine ⟨rfl, foldl_mem_hbm_wf _ _ _ ((everywhere_iff _).2 fun m l h => ?_), foldl_mem_hostMem_wf _ _ _ ((everywhere_iff _).2 fun m l h => ?_)⟩ <;> split <;> simp (disch := simp [*]) [*]

@[simp] theorem State.rejectConfig_keeps (s : State) (t : Task) (e : ImgErr) :
    (s.rejectConfig t e).board = s.board ∧ (s.rejectConfig t e).mem = s.mem := by
  simp [State.rejectConfig]

@[simp] theorem State.relcOn_keeps (s : State) (op : WobOp) (cs : List ℕ) (ms : List ℕ) :
    (s.relcOn op cs ms).board = s.board ∧ (Memory.wf s.mem.hbm = true → Memory.wf (s.relcOn op cs ms).mem.hbm = true) ∧ (Memory.wf s.mem.hostMem = true → Memory.wf (s.relcOn op cs ms).mem.hostMem = true) := by
  refine ⟨?_, fun h => ?_, fun h => ?_⟩ <;> simp only [State.relcOn] <;> simp +contextual (disch := simp +contextual (disch := simp +contextual [*]) [*]) [*]

@[simp] theorem State.relc_keeps (s : State) (t : Task) (op : WobOp) :
    (s.relc t op).board = s.board ∧ (Memory.wf s.mem.hbm = true → Memory.wf (s.relc t op).mem.hbm = true) ∧ (Memory.wf s.mem.hostMem = true → Memory.wf (s.relc t op).mem.hostMem = true) := by
  simp only [State.relc]
  (repeat' split) <;> simp +contextual

@[simp] theorem State.releaseHeldEntry_keeps (s : State) (h : Held) :
    (s.releaseHeldEntry h).board = s.board ∧ (Memory.wf s.mem.hbm = true → Memory.wf (s.releaseHeldEntry h).mem.hbm = true) ∧ (Memory.wf s.mem.hostMem = true → Memory.wf (s.releaseHeldEntry h).mem.hostMem = true) := by
  unfold State.releaseHeldEntry
  split <;> simp +contextual

@[simp] theorem State.releaseSpawned_keeps (s : State) (task : ℕ) :
    (s.releaseSpawned task).board = s.board ∧ (s.releaseSpawned task).mem = s.mem := by
  simp [State.releaseSpawned]

@[simp] theorem State.relinkFret_keeps (s : State) (was : Placement) (p : Placement) (f : ℕ) (old : Fret) :
    (s.relinkFret was p f old).board = s.board ∧ (s.relinkFret was p f old).mem = s.mem := ⟨rfl, rfl⟩

@[simp] theorem State.relinkAll_keeps (s : State) (t : Task) (g : Image) :
    (s.relinkAll t g).board = s.board ∧ (s.relinkAll t g).mem = s.mem := by
  unfold State.relinkAll
  refine ⟨?_, ?_⟩
  · rw [foldl_board _ _ _ ((everywhere_iff _).2 fun s x => ?_), foldl_board _ _ _ ((everywhere_iff _).2 fun s x => ?_)] <;> split <;> simp
  · rw [foldl_mem _ _ _ ((everywhere_iff _).2 fun s x => ?_), foldl_mem _ _ _ ((everywhere_iff _).2 fun s x => ?_)] <;> split <;> simp

@[simp] theorem State.requestPower_keeps (s : State) :
    (s.board.Legal → (s.requestPower).board.Legal) ∧ (Memory.wf s.mem.hbm = true → Memory.wf (s.requestPower).mem.hbm = true) ∧ (Memory.wf s.mem.hostMem = true → Memory.wf (s.requestPower).mem.hostMem = true) := by
  refine ⟨fun h => ?_, fun h => ?_, fun h => ?_⟩ <;> simp only [State.requestPower] <;> split_ifs <;> simp [h]
  all_goals exact h

@[simp] theorem State.reserveFree_keeps (s : State) (t : Task) :
    (s.reserveFree t).board = s.board ∧ (s.reserveFree t).mem = s.mem := by
  simp [State.reserveFree]

@[simp] theorem State.restoreCmds_keeps (s : State) (t : Task) (g : Image) :
    (s.restoreCmds t g).board = s.board ∧ (s.restoreCmds t g).mem = s.mem := ⟨rfl, rfl⟩

@[simp] theorem State.restoreCounted_keeps (s : State) (t : Task) (g : Image) :
    (s.restoreCounted t g).board = s.board ∧ (Memory.wf s.mem.hbm = true → Memory.wf (s.restoreCounted t g).mem.hbm = true) ∧ (Memory.wf s.mem.hostMem = true → Memory.wf (s.restoreCounted t g).mem.hostMem = true) := by
  unfold State.restoreCounted
  refine ⟨?_, fun h => ?_, fun h => ?_⟩
  · rw [foldl_board _ _ _ ((everywhere_iff _).2 fun s x => ?_), foldl_board _ _ _ ((everywhere_iff _).2 fun s x => ?_)]
    · simp
    · split <;> simp
  · refine foldl_hbm_wf _ _ _ ((everywhere_iff _).2 fun s x h => ?_) (foldl_hbm_wf _ _ _ ((everywhere_iff _).2 fun s x h => by simp [h]) h)
    split <;> simp [h]
  · refine foldl_hostMem_wf _ _ _ ((everywhere_iff _).2 fun s x h => ?_) (foldl_hostMem_wf _ _ _ ((everywhere_iff _).2 fun s x h => by simp [h]) h)
    split <;> simp [h]

@[simp] theorem State.restoreTiles_keeps (s : State) (t : Task) (g : Image) :
    (s.restoreTiles t g).board = s.board ∧ (s.restoreTiles t g).mem = s.mem := by
  unfold State.restoreTiles
  refine ⟨?_, ?_⟩
  · rw [foldl_board _ _ _ ((everywhere_iff _).2 fun s x => ?_), foldl_board _ _ _ ((everywhere_iff _).2 fun s x => ?_)] <;> split <;> simp
  · rw [foldl_mem _ _ _ ((everywhere_iff _).2 fun s x => ?_), foldl_mem _ _ _ ((everywhere_iff _).2 fun s x => ?_)] <;> split <;> simp

@[simp] theorem State.retranslateAll_keeps (s : State) (t : Task) :
    (s.retranslateAll t).board = s.board ∧ (Memory.wf s.mem.hbm = true → Memory.wf (s.retranslateAll t).mem.hbm = true) ∧ (Memory.wf s.mem.hostMem = true → Memory.wf (s.retranslateAll t).mem.hostMem = true) := by
  simp +contextual [State.retranslateAll]

@[simp] theorem State.startRunning_keeps (s : State) (task : ℕ) :
    (s.startRunning task).board = s.board ∧ (s.startRunning task).mem = s.mem := by
  simp only [State.startRunning]
  (repeat' split) <;> simp

@[simp] theorem State.resumeTask_keeps (s : State) (t : Task) (g : Image) :
    (s.resumeTask t g).board = s.board ∧ (Memory.wf s.mem.hbm = true → Memory.wf (s.resumeTask t g).mem.hbm = true) ∧ (Memory.wf s.mem.hostMem = true → Memory.wf (s.resumeTask t g).mem.hostMem = true) := by
  simp only [State.resumeTask]
  simp +contextual (disch := simp +contextual [*])

@[simp] theorem State.returnTag_keeps (s : State) (p : Placement) (tag : ℕ) (t : Thread) :
    (s.returnTag p tag t).board = s.board ∧ (s.returnTag p tag t).mem = s.mem := by
  simp [State.returnTag]

@[simp] theorem State.rewritePtes_keeps (s : State) (g : Mig) :
    (s.rewritePtes g).board = s.board ∧ (Memory.wf s.mem.hbm = true → Memory.wf (s.rewritePtes g).mem.hbm = true) ∧ (Memory.wf s.mem.hostMem = true → Memory.wf (s.rewritePtes g).mem.hostMem = true) := by
  simp +contextual [State.rewritePtes]

@[simp] theorem State.writeVa_keeps (s : State) (space : ℕ) (va : ℕ) (bs : List Byte) :
    (s.writeVa space va bs).board = s.board ∧ (Memory.wf s.mem.hbm = true → Memory.wf (s.writeVa space va bs).mem.hbm = true) ∧ (Memory.wf s.mem.hostMem = true → Memory.wf (s.writeVa space va bs).mem.hostMem = true) := by
  simp +contextual [State.writeVa]

@[simp] theorem State.saveTask_keeps (s : State) (t : Task) :
    (s.saveTask t).board = s.board ∧ (Memory.wf s.mem.hbm = true → Memory.wf (s.saveTask t).mem.hbm = true) ∧ (Memory.wf s.mem.hostMem = true → Memory.wf (s.saveTask t).mem.hostMem = true) := by
  simp only [State.saveTask]
  simp +contextual (disch := simp +contextual [*])

@[simp] theorem State.serveAtHome_keeps (s : State) (r : Req) :
    (s.serveAtHome r).board = s.board ∧ (Memory.wf s.mem.hbm = true → Memory.wf (s.serveAtHome r).mem.hbm = true) ∧ (Memory.wf s.mem.hostMem = true → Memory.wf (s.serveAtHome r).mem.hostMem = true) := by
  simp only [State.serveAtHome]
  (repeat' split) <;> simp +contextual

@[simp] theorem State.serveEstablish_keeps (s : State) (r : Req) :
    (s.serveEstablish r).board = s.board ∧ (Memory.wf s.mem.hbm = true → Memory.wf (s.serveEstablish r).mem.hbm = true) ∧ (Memory.wf s.mem.hostMem = true → Memory.wf (s.serveEstablish r).mem.hostMem = true) := by
  simp only [State.serveEstablish]
  (repeat' split) <;> simp +contextual

@[simp] theorem State.serveHlcWrite_keeps (s : State) (r : Req) :
    (s.serveHlcWrite r).board = s.board ∧ (Memory.wf s.mem.hbm = true → Memory.wf (s.serveHlcWrite r).mem.hbm = true) ∧ (Memory.wf s.mem.hostMem = true → Memory.wf (s.serveHlcWrite r).mem.hostMem = true) := by
  simp only [State.serveHlcWrite]
  (repeat' split) <;> simp +contextual

@[simp] theorem State.serveRead_keeps (s : State) (r : Req) (nt : Bool) :
    (s.serveRead r nt).board = s.board ∧ (Memory.wf s.mem.hbm = true → Memory.wf (s.serveRead r nt).mem.hbm = true) ∧ (Memory.wf s.mem.hostMem = true → Memory.wf (s.serveRead r nt).mem.hostMem = true) := by
  refine ⟨?_, fun h => ?_, fun h => ?_⟩ <;> simp only [State.serveRead] <;> (repeat' split) <;> simp (disch := simp (disch := simp [*]) [*]) [*]

@[simp] theorem State.tagSend_keeps (s : State) (p : Placement) (r : SpawnReq) (tag : ℕ) (wave : ℕ) (ds : List Dest) :
    (s.tagSend p r tag wave ds).board = s.board ∧ (s.tagSend p r tag wave ds).mem = s.mem := by
  simp [State.tagSend]

@[simp] theorem State.serveSpawn_keeps (task : ℕ) (pl : ℕ) (s : State) (r : SpawnReq) :
    (State.serveSpawn task pl s r).board = s.board ∧ (State.serveSpawn task pl s r).mem = s.mem := by
  unfold State.serveSpawn
  (repeat' split) <;> simp

@[simp] theorem State.serveWrite_keeps (s : State) (r : Req) :
    (s.serveWrite r).board = s.board ∧ (Memory.wf s.mem.hbm = true → Memory.wf (s.serveWrite r).mem.hbm = true) ∧ (Memory.wf s.mem.hostMem = true → Memory.wf (s.serveWrite r).mem.hostMem = true) := by
  simp only [State.serveWrite]
  (repeat' split) <;> simp +contextual

@[simp] theorem State.setLevels_keeps (s : State) (t : Task) :
    (s.setLevels t).board = s.board ∧ (s.setLevels t).mem = s.mem := by
  simp [State.setLevels]

@[simp] theorem State.settleTile_keeps (s : State) (c : Cmd) :
    (s.settleTile c).board = s.board ∧ (s.settleTile c).mem = s.mem := by
  simp only [State.settleTile]
  (repeat' split) <;> simp

@[simp] theorem State.snoopRecheck_keeps (s : State) (line : ℕ) (d : Line) :
    (s.snoopRecheck line d).board = s.board ∧ (Memory.wf s.mem.hbm = true → Memory.wf (s.snoopRecheck line d).mem.hbm = true) ∧ (Memory.wf s.mem.hostMem = true → Memory.wf (s.snoopRecheck line d).mem.hostMem = true) := ⟨rfl, fun h => h, fun h => h⟩

@[simp] theorem State.startCmd_keeps (s : State) (t : Task) (p : Placement) (c : Cmd) :
    (s.startCmd t p c).1.board = s.board ∧ (Memory.wf s.mem.hbm = true → Memory.wf (s.startCmd t p c).1.mem.hbm = true) ∧ (Memory.wf s.mem.hostMem = true → Memory.wf (s.startCmd t p c).1.mem.hostMem = true) := by
  simp only [State.startCmd]
  (repeat' split) <;> simp +contextual

@[simp] theorem State.storeTok_keeps (s : State) (t : NetTok) (probe : Bool) (a : Arrival) :
    (s.storeTok t probe a).board = s.board ∧ (s.storeTok t probe a).mem = s.mem := by
  unfold State.storeTok
  split <;> simp

@[simp] theorem State.takeHdm_keeps (s : State) (pa : ℕ) (n : ℕ) :
    (s.takeHdm pa n).board = s.board ∧ (Memory.wf s.mem.hbm = true → Memory.wf (s.takeHdm pa n).mem.hbm = true) ∧ (Memory.wf s.mem.hostMem = true → Memory.wf (s.takeHdm pa n).mem.hostMem = true) := by
  simp +contextual [State.takeHdm]

@[simp] theorem State.takeMig_keeps (s : State) (b : List Byte) :
    (s.takeMig b).board = s.board ∧ (Memory.wf s.mem.hbm = true → Memory.wf (s.takeMig b).mem.hbm = true) ∧ (Memory.wf s.mem.hostMem = true → Memory.wf (s.takeMig b).mem.hostMem = true) := by
  simp only [State.takeMig]
  (repeat' split) <;> simp +contextual

@[simp] theorem State.takeMsg_keeps (s : State) (n : ℕ) :
    (s.takeMsg n).board = s.board ∧ (Memory.wf s.mem.hbm = true → Memory.wf (s.takeMsg n).mem.hbm = true) ∧ (Memory.wf s.mem.hostMem = true → Memory.wf (s.takeMsg n).mem.hostMem = true) := ⟨rfl, fun h => h, fun h => h⟩

@[simp] theorem State.tlbFillRange_keeps (s : State) (space : ℕ) (va : ℕ) (n : ℕ) :
    (s.tlbFillRange space va n).board = s.board ∧ (Memory.wf s.mem.hbm = true → Memory.wf (s.tlbFillRange space va n).mem.hbm = true) ∧ (Memory.wf s.mem.hostMem = true → Memory.wf (s.tlbFillRange space va n).mem.hostMem = true) := by
  unfold State.tlbFillRange
  split <;> simp +contextual

@[simp] theorem State.unbusy_keeps (s : State) (c : Cmd) :
    (s.unbusy c).board = s.board ∧ (s.unbusy c).mem = s.mem := by
  simp [State.unbusy]

@[simp] theorem State.unfocus_keeps (s : State) :
    (s.unfocus).board = s.board ∧ (s.unfocus).mem = s.mem := ⟨rfl, rfl⟩

@[simp] theorem State.unsave_keeps (s : State) (t : Task) :
    (s.unsave t).board = s.board ∧ (s.unsave t).mem = s.mem := by
  simp [State.unsave]

@[simp] theorem State.withFetchWord_keeps (s : State) (nbits : ℕ) (w : ℕ) :
    (s.withFetchWord nbits w).board = s.board ∧ (s.withFetchWord nbits w).mem = s.mem := by
  unfold State.withFetchWord
  split <;> simp

@[simp] theorem State.writeMsix_keeps (s : State) (fn : ℕ) (off : ℕ) (v : ℕ) :
    (s.writeMsix fn off v).board = s.board ∧ (s.writeMsix fn off v).mem = s.mem := by
  simp [State.writeMsix]

@[simp] theorem State.writeBar4_keeps (s : State) (fn : ℕ) (off : ℕ) (size : ℕ) (v : Word) :
    (s.writeBar4 fn off size v).board = s.board ∧ (s.writeBar4 fn off size v).mem = s.mem := by
  simp [State.writeBar4]

@[simp] theorem State.writeQueueReg_keeps (s : State) (fn : ℕ) (q : ℕ) (r : ℕ) (v : Word) :
    (s.writeQueueReg fn q r v).board = s.board ∧ (s.writeQueueReg fn q r v).mem = s.mem := by
  simp [State.writeQueueReg]

@[simp] theorem State.writeVfReg_keeps (s : State) (off : ℕ) (r : ℕ) (v : Word) :
    (s.writeVfReg off r v).board = s.board ∧ (s.writeVfReg off r v).mem = s.mem := by
  simp [State.writeVfReg]

@[simp] theorem State.writeReg_keeps (s : State) (fn : ℕ) (off : ℕ) (v : Word) :
    (s.writeReg fn off v).board = s.board ∧ (s.writeReg fn off v).mem = s.mem := by
  unfold State.writeReg
  (repeat' split) <;> simp

@[simp] theorem dumpTask_keeps (t : Task) (s : State) :
    (dumpTask t s).board = s.board ∧ (Memory.wf s.mem.hbm = true → Memory.wf (dumpTask t s).mem.hbm = true) ∧ (Memory.wf s.mem.hostMem = true → Memory.wf (dumpTask t s).mem.hostMem = true) := by
  simp only [dumpTask]
  (repeat' split) <;> simp +contextual

@[simp] theorem endHeld_keeps (t : Task) (s : State) :
    (endHeld t s).board = s.board ∧ (endHeld t s).mem = s.mem := by
  unfold endHeld
  split <;> simp

@[simp] theorem haltTask_keeps (t : Task) (s : State) :
    (haltTask t s).board = s.board ∧ (haltTask t s).mem = s.mem := by
  unfold haltTask
  (repeat' split) <;> simp

@[simp] theorem resumeHeld_keeps (t : Task) (s : State) :
    (resumeHeld t s).board = s.board ∧ (resumeHeld t s).mem = s.mem := by
  simp [resumeHeld]

@[simp] theorem stepHeld1_keeps (v : Word) (t : Task) (s : State) :
    (stepHeld1 v t s).board = s.board ∧ (stepHeld1 v t s).mem = s.mem := by
  simp only [stepHeld1]
  (repeat' split) <;> simp

theorem follows_of_goFatal {s t : State} {c : Cause} (h : s.Follows t) : s.Follows (t.goFatal c) := by
  obtain ⟨hb, hm⟩ := State.goFatal_keeps t c
  exact h.trans ⟨hb, by simp [hm], by simp [hm]⟩

theorem follows_foldl {α : Type} {g : State → α → State} (h : ∀ (s : State) x, s.Follows (g s x)) (l : List α) {s : State} : s.Follows (l.foldl g s) := by
  induction l generalizing s with
  | nil => exact State.Follows.refl s
  | cons x l ih => exact (h s x).trans ih

theorem linkEnd_follows (s : State) (t : Task) : s.Follows (s.linkEnd t) := by
  obtain ⟨hb, hm⟩ := State.linkEnd_keeps s t
  exact ⟨fun h => hb ▸ h, hm⟩

end Sys2Proof.Machine
end

section
/-!
PROOFS. Every instruction and every event keeps memory in canonical form and the package's registers legal: obligations O56 and O57.
-/
namespace Sys2Proof.Machine

/-! ### Events -/

@[simp] theorem execHeldOperationIssue_keeps (task : ℕ) (pl : ℕ) (tag : Tag) (s : State) :
    Outcome.Keeps s (execHeldOperationIssue task pl tag s) := by
  simp only [execHeldOperationIssue]
  (repeat' split) <;> simp +contextual [State.Follows]

@[simp] theorem State.phyWrite_keeps (s : State) (mn : String) (ch : ℕ) (off : ℕ) (v : Word) (ok : Bool) :
    Outcome.Keeps s (State.phyWrite s mn ch off v ok) := by
  simp only [State.phyWrite]
  (repeat' split) <;> (try refine event_keeps _ _ _ _ fun _ => ?_) <;> (repeat' split) <;> simp +contextual (disch := simp +contextual (disch := simp +contextual [*]) [*]) [State.Follows]

@[simp] theorem execAccessQueueConsume_keeps (v : Word) (s : State) :
    Outcome.Keeps s (execAccessQueueConsume v s) := by
  simp only [execAccessQueueConsume]
  refine hostAccess_keeps _ _ _ _ _ ?_
  (repeat' split) <;> simp +contextual (disch := simp +contextual (disch := simp +contextual [*]) [*]) [State.Follows]

@[simp] theorem execAckReceive_keeps (s : State) :
    Outcome.Keeps s (execAckReceive s) := by
  simp only [execAckReceive]
  (repeat' split) <;> simp +contextual (disch := simp +contextual (disch := simp +contextual [*]) [*]) [State.Follows]

@[simp] theorem execAuxColdStart_keeps (s : State) :
    Outcome.Keeps s (execAuxColdStart s) := by
  refine (keeps_next _ _).2 ⟨fun _ => ?_, fun _ => memory_nil_wf, id⟩
  simp [Board.Legal, State.reset, Board.reset]

@[simp] theorem execBar2Read_keeps (fn : ℕ) (off : ℕ) (len : ℕ) (s : State) :
    Outcome.Keeps s (execBar2Read fn off len s) := by
  simp only [execBar2Read]
  (repeat' split) <;> refine hostAccess_keeps _ _ _ _ _ ?_ <;> (repeat' split) <;> simp +contextual (disch := simp +contextual (disch := simp +contextual [*]) [*]) [State.Follows]

@[simp] theorem execBar2Write_keeps (fn : ℕ) (off : ℕ) (bytes : List Byte) (s : State) :
    Outcome.Keeps s (execBar2Write fn off bytes s) := by
  simp only [execBar2Write]
  (repeat' split) <;> refine hostAccess_keeps _ _ _ _ _ ?_ <;> (repeat' split) <;> simp +contextual (disch := simp +contextual (disch := simp +contextual [*]) [*]) [State.Follows]

@[simp] theorem execBarrierRequestServe_keeps (s : State) :
    Outcome.Keeps s (execBarrierRequestServe s) := by
  simp only [execBarrierRequestServe]
  (repeat' split) <;> simp +contextual [State.Follows]

@[simp] theorem execBarwaitResend_keeps (s : State) :
    Outcome.Keeps s (execBarwaitResend s) := by
  refine inCycle_keeps _ _ _ ?_
  split
  · exact keeps_refused _ _
  split
  · refine event_keeps _ _ _ _ fun _ => ?_
    simp +contextual [State.Follows]
  · exact keeps_refused _ _

@[simp] theorem execBridgeFlitCrcFail_keeps (link : ℕ) (retrainOk : Bool) (s : State) :
    Outcome.Keeps s (execBridgeFlitCrcFail link retrainOk s) := by
  unfold execBridgeFlitCrcFail
  split
  · exact keeps_refused _ _
  next x _ =>
    refine event_keeps _ _ _ _ fun _ => ?_
    dsimp only
    generalize (if s.subject = 0 then { x with retries := 0, retrained := false } else x) = y
    split
    · exact ⟨id, id, id⟩
    · split
      · exact ⟨id, id, id⟩
      · exact follows_of_goFatal ⟨id, id, id⟩

@[simp] theorem execBridgeLinkTraining_keeps (found : List (ℕ × ℕ × ℕ)) (s : State) :
    Outcome.Keeps s (execBridgeLinkTraining found s) := by
  refine event_keeps _ _ _ _ fun hok => ?_
  simp only
  split
  · exact ⟨fun hb => inPhase_toPhase_legal (b := s.board) hb ((Bool.and_eq_true _ _).mp hok).1 (by norm_num) (by simp), id, id⟩
  · exact follows_of_goFatal ⟨id, id, id⟩

@[simp] theorem execChainOperationArrival_keeps (s : State) :
    Outcome.Keeps s (execChainOperationArrival s) := by
  refine inCycle_keeps _ _ _ ?_
  unfold execChainOperationArrival.notEnabled
  split
  · exact keeps_refused _ _
  split
  · exact keeps_refused _ _
  dsimp only
  split_ifs <;> simp +contextual (disch := simp +contextual (disch := simp +contextual [*]) [*]) [State.Follows]

@[simp] theorem execCheckpointSettleComplete_keeps (s : State) :
    Outcome.Keeps s (execCheckpointSettleComplete s) := by
  simp only [execCheckpointSettleComplete]
  (repeat' split) <;> (try refine event_keeps _ _ _ _ fun _ => ?_) <;> (repeat' split) <;> simp +contextual (disch := simp +contextual (disch := simp +contextual [*]) [*]) [State.Follows]

@[simp] theorem execCheckpointStart_keeps (s : State) :
    Outcome.Keeps s (execCheckpointStart s) := by
  simp only [execCheckpointStart]
  (repeat' split) <;> (try refine event_keeps _ _ _ _ fun _ => ?_) <;> (repeat' split) <;> simp +contextual (disch := simp +contextual (disch := simp +contextual [*]) [*]) [State.Follows]

@[simp] theorem execCheckpointTimeout_keeps (s : State) :
    Outcome.Keeps s (execCheckpointTimeout s) := by
  simp only [execCheckpointTimeout]
  (repeat' split) <;> (try refine event_keeps _ _ _ _ fun _ => ?_) <;> (repeat' split) <;> simp +contextual (disch := simp +contextual (disch := simp +contextual [*]) [*]) [State.Follows]

@[simp] theorem execCheckpointWriteComplete_keeps (s : State) :
    Outcome.Keeps s (execCheckpointWriteComplete s) := by
  simp only [execCheckpointWriteComplete]
  (repeat' split) <;> (try refine event_keeps _ _ _ _ fun _ => ?_) <;> (repeat' split) <;> simp +contextual (disch := simp +contextual (disch := simp +contextual [*]) [*]) [State.Follows]

@[simp] theorem execCleanEvictionNotice_keeps (s : State) :
    Outcome.Keeps s (execCleanEvictionNotice s) := by
  simp only [execCleanEvictionNotice]
  (repeat' split) <;> simp +contextual [State.Follows]

@[simp] theorem execClockChange_keeps (s : State) :
    Outcome.Keeps s (execClockChange s) := by
  unfold execClockChange
  split
  · exact keeps_refused _ _
  next c hc =>
    refine (keeps_next _ _).2 ⟨fun ⟨hp, hf, _, hn, hl, hd, he, hll⟩ => ?_, id, id⟩
    exact ⟨hp, hf, hn c hc, by simp, hl, hd, he, hll⟩

@[simp] theorem execClusterPowerGate_keeps (s : State) :
    Outcome.Keeps s (execClusterPowerGate s) := by
  simp only [execClusterPowerGate]
  refine event_keeps _ _ _ _ fun _ => ?_
  (repeat' split) <;> simp +contextual (disch := simp +contextual (disch := simp +contextual [*]) [*]) [State.Follows]

@[simp] theorem execCollEntry_keeps (peer : CollPeer) (s : State) :
    Outcome.Keeps s (execCollEntry peer s) := by
  simp only [execCollEntry]
  refine event_keeps _ _ _ _ fun _ => ?_
  (repeat' split) <;> simp +contextual (disch := simp +contextual (disch := simp +contextual [*]) [*]) [State.Follows]

@[simp] theorem execCollTimeout_keeps (cid : BitVec 32) (s : State) :
    Outcome.Keeps s (execCollTimeout cid s) := by
  simp only [execCollTimeout]
  (repeat' split) <;> simp +contextual [State.Follows]

@[simp] theorem execConfigRequest_keeps (s : State) :
    Outcome.Keeps s (execConfigRequest s) := by
  simp only [execConfigRequest]
  (repeat' split) <;> simp +contextual [State.Follows]

@[simp] theorem execConsumingRead_keeps (s : State) :
    Outcome.Keeps s (execConsumingRead s) := by
  simp only [execConsumingRead]
  (repeat' split) <;> simp +contextual [State.Follows]

@[simp] theorem execCooldownExpiry_keeps (s : State) :
    Outcome.Keeps s (execCooldownExpiry s) := by
  simp only [execCooldownExpiry]
  (repeat' split) <;> (try refine event_keeps _ _ _ _ fun _ => ?_) <;> (repeat' split) <;> simp +contextual (disch := simp +contextual (disch := simp +contextual [*]) [*]) [State.Follows]

@[simp] theorem execCountedEstablishment_keeps (s : State) :
    Outcome.Keeps s (execCountedEstablishment s) := by
  simp only [execCountedEstablishment]
  (repeat' split) <;> simp +contextual [State.Follows]

@[simp] theorem execCxlMemAccess_keeps (write : Bool) (addr : ℕ) (bytes : List Byte) (s : State) :
    Outcome.Keeps s (execCxlMemAccess write addr bytes s) := by
  simp only [execCxlMemAccess]
  (repeat' split) <;> (try refine event_keeps _ _ _ _ fun _ => ?_) <;> (repeat' split) <;> simp +contextual (disch := simp +contextual (disch := simp +contextual [*]) [*]) [State.Follows]

@[simp] theorem execDebugAttach_keeps (s : State) :
    Outcome.Keeps s (execDebugAttach s) := by
  simp only [execDebugAttach]
  (repeat' split) <;> (try refine event_keeps _ _ _ _ fun _ => ?_) <;> (repeat' split) <;> simp +contextual (disch := simp +contextual (disch := simp +contextual [*]) [*]) [State.Follows]

@[simp] theorem execDeviceIdWrite_keeps (v : BitVec 20) (s : State) :
    Outcome.Keeps s (execDeviceIdWrite v s) := by
  simp only [execDeviceIdWrite]
  refine event_keeps _ _ _ _ fun _ => ?_
  (repeat' split) <;> simp +contextual (disch := simp +contextual (disch := simp +contextual [*]) [*]) [State.Follows]

@[simp] theorem execDirtyWriteBack_keeps (s : State) :
    Outcome.Keeps s (execDirtyWriteBack s) := by
  simp only [execDirtyWriteBack]
  (repeat' split) <;> simp +contextual (disch := simp +contextual (disch := simp +contextual [*]) [*]) [State.Follows]

@[simp] theorem execDispatchPick_keeps (s : State) :
    Outcome.Keeps s (execDispatchPick s) := by
  simp only [execDispatchPick]
  (repeat' split) <;> (try refine event_keeps _ _ _ _ fun _ => ?_) <;> (repeat' split) <;> simp +contextual (disch := simp +contextual (disch := simp +contextual [*]) [*]) [State.Follows]

@[simp] theorem execDispatcherStart_keeps (s : State) :
    Outcome.Keeps s (execDispatcherStart s) := by
  refine event_keeps _ _ _ _ fun hok => ?_
  simp only
  split
  · exact ⟨fun hb => inPhase_toPhase_legal (b := s.board) (n := 8) hb hok (by norm_num) (by simp), id, id⟩
  · exact follows_of_goFatal ⟨id, id, id⟩

@[simp] theorem execDrainVictimExpiry_keeps (s : State) :
    Outcome.Keeps s (execDrainVictimExpiry s) := by
  simp only [execDrainVictimExpiry]
  (repeat' split) <;> (try refine event_keeps _ _ _ _ fun _ => ?_) <;> (repeat' split) <;> simp +contextual (disch := simp +contextual (disch := simp +contextual [*]) [*]) [State.Follows]

@[simp] theorem execEarlyReadPerform_keeps (task : ℕ) (pl : ℕ) (tag : Tag) (own : BitVec 6) (s : State) :
    Outcome.Keeps s (execEarlyReadPerform task pl tag own s) := by
  simp only [execEarlyReadPerform]
  (repeat' split) <;> simp +contextual [State.Follows]

@[simp] theorem execEndtTagReturn_keeps (task : ℕ) (pl : ℕ) (tag : Tag) (s : State) :
    Outcome.Keeps s (execEndtTagReturn task pl tag s) := by
  simp only [execEndtTagReturn]
  (repeat' split) <;> simp +contextual [State.Follows]

@[simp] theorem execEngineCommandAccept_keeps (s : State) :
    Outcome.Keeps s (execEngineCommandAccept s) := by
  simp only [execEngineCommandAccept]
  (repeat' split) <;> simp +contextual [State.Follows]

@[simp] theorem execEngineCommandComplete_keeps (s : State) :
    Outcome.Keeps s (execEngineCommandComplete s) := by
  simp only [execEngineCommandComplete]
  (repeat' split) <;> simp +contextual [State.Follows]

@[simp] theorem execEngineCommandStart_keeps (s : State) :
    Outcome.Keeps s (execEngineCommandStart s) := by
  simp only [execEngineCommandStart]
  (repeat' split) <;> simp +contextual [State.Follows]

@[simp] theorem execEpPlimWrite_keeps (v : BitVec 32) (s : State) :
    Outcome.Keeps s (execEpPlimWrite v s) := by
  refine event_keeps _ _ _ _ fun _ => ?_
  split
  next hv =>
    refine ⟨fun ⟨hp, hf, hc, hn, _, hd, he, hll⟩ => ?_, id, id⟩
    exact ⟨hp, hf, hc, hn, by simpa using hv, hd, he, hll⟩
  · exact ⟨id, id, id⟩

@[simp] theorem execEpResetWrite_keeps (v : BitVec 32) (s : State) :
    Outcome.Keeps s (execEpResetWrite v s) := by
  simp only [execEpResetWrite]
  refine event_keeps _ _ _ _ fun _ => ?_
  (repeat' split) <;> simp +contextual (disch := simp +contextual (disch := simp +contextual [*]) [*]) [State.Follows]

@[simp] theorem execEpurnReadCommand_keeps (off : ℕ) (s : State) :
    Outcome.Keeps s (execEpurnReadCommand off s) := by
  simp only [execEpurnReadCommand]
  refine event_keeps _ _ _ _ fun _ => ?_
  (repeat' split) <;> simp +contextual (disch := simp +contextual (disch := simp +contextual [*]) [*]) [State.Follows]

@[simp] theorem execFaultFreezeComplete_keeps (s : State) :
    Outcome.Keeps s (execFaultFreezeComplete s) := by
  simp only [execFaultFreezeComplete]
  (repeat' split) <;> simp +contextual [State.Follows]

@[simp] theorem execFaultReportArrival_keeps (task : ℕ) (n : ℕ) (s : State) :
    Outcome.Keeps s (execFaultReportArrival task n s) := by
  simp only [execFaultReportArrival]
  (repeat' split) <;> simp +contextual [State.Follows]

@[simp] theorem execFlrDrainComplete_keeps (s : State) :
    Outcome.Keeps s (execFlrDrainComplete s) := by
  simp only [execFlrDrainComplete]
  (repeat' split) <;> (try refine event_keeps _ _ _ _ fun _ => ?_) <;> (repeat' split) <;> simp +contextual (disch := simp +contextual (disch := simp +contextual [*]) [*]) [State.Follows]

@[simp] theorem execFlrDrainTimeout_keeps (s : State) :
    Outcome.Keeps s (execFlrDrainTimeout s) := by
  simp only [execFlrDrainTimeout]
  (repeat' split) <;> (try refine event_keeps _ _ _ _ fun _ => ?_) <;> (repeat' split) <;> simp +contextual (disch := simp +contextual (disch := simp +contextual [*]) [*]) [State.Follows]

@[simp] theorem execFlushMarkerArrival_keeps (pf : ℕ) (cluster : ℕ) (s : State) :
    Outcome.Keeps s (execFlushMarkerArrival pf cluster s) := by
  simp only [execFlushMarkerArrival]
  (repeat' split) <;> simp +contextual [State.Follows]

@[simp] theorem execFolgarFlitReceive_keeps (port : ℕ) (vc : ℕ) (flit : List Byte) (s : State) :
    Outcome.Keeps s (execFolgarFlitReceive port vc flit s) := by
  refine event_keeps _ _ _ _ fun _ => ?_
  dsimp only
  split <;> exact ⟨id, id, id⟩

@[simp] theorem execFolgarPortTrained_keeps (port : ℕ) (mode : FolgarMode) (s : State) :
    Outcome.Keeps s (execFolgarPortTrained port mode s) := by
  simp only [execFolgarPortTrained]
  refine event_keeps _ _ _ _ fun _ => ?_
  (repeat' split) <;> simp +contextual (disch := simp +contextual (disch := simp +contextual [*]) [*]) [State.Follows]

@[simp] theorem execFolgarTrainingTimeout_keeps (s : State) :
    Outcome.Keeps s (execFolgarTrainingTimeout s) := by
  simp only [execFolgarTrainingTimeout]
  refine event_keeps _ _ _ _ fun _ => ?_
  (repeat' split) <;> simp +contextual (disch := simp +contextual (disch := simp +contextual [*]) [*]) [State.Follows]

@[simp] theorem execForwardRecallReceive_keeps (s : State) :
    Outcome.Keeps s (execForwardRecallReceive s) := by
  simp only [execForwardRecallReceive]
  refine inCycle_keeps _ _ _ ?_
  (repeat' split) <;> simp +contextual (disch := simp +contextual (disch := simp +contextual [*]) [*]) [State.Follows]

@[simp] theorem execFretLoad_keeps (s : State) :
    Outcome.Keeps s (execFretLoad s) := by
  simp only [execFretLoad]
  (repeat' split) <;> (try refine event_keeps _ _ _ _ fun _ => ?_) <;> (repeat' split) <;> simp +contextual (disch := simp +contextual (disch := simp +contextual [*]) [*]) [State.Follows]

@[simp] theorem execFretMove_keeps (src : ℕ) (goal : MoveGoal) (s : State) :
    Outcome.Keeps s (execFretMove src goal s) := by
  simp only [execFretMove]
  (repeat' split) <;> (try refine event_keeps _ _ _ _ fun _ => ?_) <;> (repeat' split) <;> simp +contextual (disch := simp +contextual (disch := simp +contextual [*]) [*]) [State.Follows]

@[simp] theorem execFretMoveComplete_keeps (s : State) :
    Outcome.Keeps s (execFretMoveComplete s) := by
  simp only [execFretMoveComplete]
  (repeat' split) <;> (try refine event_keeps _ _ _ _ fun _ => ?_) <;> (repeat' split) <;> simp +contextual (disch := simp +contextual (disch := simp +contextual [*]) [*]) [State.Follows]

@[simp] theorem execFretScrubComplete_keeps (s : State) :
    Outcome.Keeps s (execFretScrubComplete s) := by
  simp only [execFretScrubComplete]
  refine event_keeps _ _ _ _ fun _ => ?_
  (repeat' split) <;> simp +contextual (disch := simp +contextual (disch := simp +contextual [*]) [*]) [State.Follows]

@[simp] theorem execFretSelfTest_keeps (defective : List ℕ) (s : State) :
    Outcome.Keeps s (execFretSelfTest defective s) := by
  refine event_keeps _ _ _ _ fun hok => ?_
  simp only [Bool.and_eq_true] at hok
  split
  · refine ⟨fun hb => (State.beginTraining_keeps _).1 ?_, by simp +contextual, by simp +contextual⟩
    rw [toPhase_board, foldl_board _ _ _ ((everywhere_iff _).2 fun s x => by simp)]
    exact inPhase_toPhase_legal (b := s.board) hb hok.1 (by norm_num) (by simp)
  · refine follows_of_goFatal ⟨fun hb => ?_, by simp +contextual, by simp +contextual⟩
    rw [foldl_board _ _ _ ((everywhere_iff _).2 fun s x => by simp)]
    exact hb

@[simp] theorem execFretwaitService_keeps (s : State) :
    Outcome.Keeps s (execFretwaitService s) := by
  simp only [execFretwaitService]
  (repeat' split) <;> simp +contextual [State.Follows]

@[simp] theorem execGangFreezeInstant_keeps (gid : BitVec 32) (s : State) :
    Outcome.Keeps s (execGangFreezeInstant gid s) := by
  simp only [execGangFreezeInstant]
  (repeat' split) <;> (try refine event_keeps _ _ _ _ fun _ => ?_) <;> (repeat' split) <;> simp +contextual (disch := simp +contextual (disch := simp +contextual [*]) [*]) [State.Follows]

@[simp] theorem execGangHoldReceive_keeps (gid : BitVec 32) (at_ : ℕ) (s : State) :
    Outcome.Keeps s (execGangHoldReceive gid at_ s) := by
  simp only [execGangHoldReceive]
  refine event_keeps _ _ _ _ fun _ => ?_
  (repeat' split) <;> simp +contextual (disch := simp +contextual (disch := simp +contextual [*]) [*]) [State.Follows]

@[simp] theorem execGangReleaseReceive_keeps (gid : BitVec 32) (at_ : ℕ) (s : State) :
    Outcome.Keeps s (execGangReleaseReceive gid at_ s) := by
  simp only [execGangReleaseReceive]
  refine event_keeps _ _ _ _ fun _ => ?_
  (repeat' split) <;> simp +contextual (disch := simp +contextual (disch := simp +contextual [*]) [*]) [State.Follows]

@[simp] theorem execGangResumeInstant_keeps (gid : BitVec 32) (s : State) :
    Outcome.Keeps s (execGangResumeInstant gid s) := by
  simp only [execGangResumeInstant]
  (repeat' split) <;> (try refine event_keeps _ _ _ _ fun _ => ?_) <;> (repeat' split) <;> simp +contextual (disch := simp +contextual (disch := simp +contextual [*]) [*]) [State.Follows]

@[simp] theorem execHbmTrainingPhaseEnd_keeps (s : State) :
    Outcome.Keeps s (execHbmTrainingPhaseEnd s) := by
  refine event_keeps _ _ _ _ fun hok => ?_
  split
  · exact follows_of_goFatal ⟨id, id, id⟩
  · simp only [Bool.and_eq_true] at hok
    exact ⟨fun hb => inPhase_toPhase_legal (b := s.board) hb hok.1.1 (by norm_num) (by simp), id, id⟩

@[simp] theorem execHeartbeatWatchdog_keeps (s : State) :
    Outcome.Keeps s (execHeartbeatWatchdog s) := event_keeps _ _ _ _ fun _ => ⟨id, id, id⟩

@[simp] theorem execHfAcovfClear_keeps (s : State) :
    Outcome.Keeps s (execHfAcovfClear s) := by
  simp only [execHfAcovfClear]
  refine hostAccess_keeps _ _ _ _ _ ?_
  (repeat' split) <;> simp +contextual (disch := simp +contextual (disch := simp +contextual [*]) [*]) [State.Follows]

@[simp] theorem execHfEvtClear_keeps (fn : ℕ) (v : Word) (s : State) :
    Outcome.Keeps s (execHfEvtClear fn v s) := by
  simp only [execHfEvtClear]
  refine hostAccess_keeps _ _ _ _ _ ?_
  (repeat' split) <;> simp +contextual (disch := simp +contextual (disch := simp +contextual [*]) [*]) [State.Follows]

@[simp] theorem execHlcClusterRead_keeps (n : ℕ) (exclusive : Bool) (s : State) :
    Outcome.Keeps s (execHlcClusterRead n exclusive s) := by
  simp only [execHlcClusterRead]
  (repeat' split) <;> simp +contextual (disch := simp +contextual (disch := simp +contextual [*]) [*]) [State.Follows]

@[simp] theorem execHlcWrite_keeps (s : State) :
    Outcome.Keeps s (execHlcWrite s) := by
  simp only [execHlcWrite]
  (repeat' split) <;> simp +contextual [State.Follows]

@[simp] theorem execHomePerformedAccess_keeps (s : State) :
    Outcome.Keeps s (execHomePerformedAccess s) := by
  simp only [execHomePerformedAccess]
  (repeat' split) <;> simp +contextual [State.Follows]

@[simp] theorem execHomeReadMiss_keeps (s : State) :
    Outcome.Keeps s (execHomeReadMiss s) := by
  simp only [execHomeReadMiss]
  (repeat' split) <;> simp +contextual [State.Follows]

@[simp] theorem execHomeWriteMiss_keeps (s : State) :
    Outcome.Keeps s (execHomeWriteMiss s) := by
  simp only [execHomeWriteMiss]
  (repeat' split) <;> simp +contextual [State.Follows]

@[simp] theorem execHostKill_keeps (fn : ℕ) (v : Word) (s : State) :
    Outcome.Keeps s (execHostKill fn v s) := by
  simp only [execHostKill]
  refine hostAccess_keeps _ _ _ _ _ ?_
  (repeat' split) <;> simp +contextual (disch := simp +contextual (disch := simp +contextual [*]) [*]) [State.Follows]

@[simp] theorem execHostLinkLoss_keeps (s : State) :
    Outcome.Keeps s (execHostLinkLoss s) := by
  refine event_keeps _ _ _ _ fun _ => ?_
  have hlost : s.Follows { s with
      board := { s.board with hlink := false, hostLoss := true, alert := true, lossEvents := min 0xFFFF (s.board.lossEvents + 1), lossAt := some s.clock.ns }
      mem := { s.mem with hdm := [], hdmMod := [] } } :=
    ⟨fun ⟨hp, hf, hc, hn, hl, hd, _, hll⟩ => ⟨hp, hf, hc, hn, hl, hd, Nat.min_le_left _ _, hll⟩, id, id⟩
  refine (hlost.trans (follows_foldl linkEnd_follows (s.tasks.filter s.endsWithLink))).trans ?_
  simp +contextual (disch := simp +contextual (disch := simp +contextual [*]) [*]) [State.Follows]

@[simp] theorem execHostLinkRetrain_keeps (s : State) :
    Outcome.Keeps s (execHostLinkRetrain s) := by
  refine event_keeps _ _ _ _ fun _ => State.Follows.trans (t := { s with
    board := { s.board with hlink := true, hostLoss := false, lossAt := none, linkRate := s.subject / 32, linkWidth := s.subject % 32 }
    host := { s.host with held := [] } }) ⟨id, id, id⟩ ?_
  simp +contextual (disch := simp +contextual (disch := simp +contextual [*]) [*]) [State.Follows]

@[simp] theorem execHostLinkTrained_keeps (rate : ℕ) (width : ℕ) (cxl : Bool) (s : State) :
    Outcome.Keeps s (execHostLinkTrained rate width cxl s) := event_keeps _ _ _ _ fun _ => ⟨id, id, id⟩

@[simp] theorem execHostSnoopData_keeps (s : State) :
    Outcome.Keeps s (execHostSnoopData s) := by
  simp only [execHostSnoopData]
  (repeat' split) <;> simp +contextual [State.Follows]

@[simp] theorem execHostSnoopInvalidate_keeps (s : State) :
    Outcome.Keeps s (execHostSnoopInvalidate s) := by
  simp only [execHostSnoopInvalidate]
  (repeat' split) <;> simp +contextual [State.Follows]

@[simp] theorem execHphyPatternTestComplete_keeps (ch : ℕ) (errcnt : BitVec 16) (errdq : Word) (s : State) :
    Outcome.Keeps s (execHphyPatternTestComplete ch errcnt errdq s) := by
  simp only [execHphyPatternTestComplete]
  refine event_keeps _ _ _ _ fun _ => ?_
  (repeat' split) <;> simp +contextual (disch := simp +contextual (disch := simp +contextual [*]) [*]) [State.Follows]

@[simp] theorem execHphyPatternTestStart_keeps (ch : ℕ) (v : Word) (s : State) :
    Outcome.Keeps s (execHphyPatternTestStart ch v s) := by
  simp +contextual [execHphyPatternTestStart, State.Follows]

@[simp] theorem execHphyProbeComplete_keeps (ch : ℕ) (pass : Word) (spass : BitVec 2) (s : State) :
    Outcome.Keeps s (execHphyProbeComplete ch pass spass s) := by
  simp only [execHphyProbeComplete]
  refine event_keeps _ _ _ _ fun _ => ?_
  (repeat' split) <;> simp +contextual (disch := simp +contextual (disch := simp +contextual [*]) [*]) [State.Follows]

@[simp] theorem execHphyProbeStart_keeps (ch : ℕ) (v : Word) (s : State) :
    Outcome.Keeps s (execHphyProbeStart ch v s) := by
  simp +contextual [execHphyProbeStart, State.Follows]

@[simp] theorem execHphySetChst_keeps (ch : ℕ) (v : Word) (s : State) :
    Outcome.Keeps s (execHphySetChst ch v s) := by
  simp +contextual [execHphySetChst, State.Follows]

@[simp] theorem execHubSecurityBoot_keeps (s : State) :
    Outcome.Keeps s (execHubSecurityBoot s) := by
  refine event_keeps _ _ _ _ fun hok => ?_
  split
  · exact ⟨id, id, id⟩
  split
  · exact ⟨fun hb => inPhase_toPhase_legal (b := s.board) hb ((Bool.and_eq_true _ _).mp hok).1 (by norm_num) (by simp), id, id⟩
  · exact ⟨id, id, id⟩

@[simp] theorem execInvalidationComplete_keeps (s : State) :
    Outcome.Keeps s (execInvalidationComplete s) := by
  simp only [execInvalidationComplete]
  (repeat' split) <;> (try refine event_keeps _ _ _ _ fun _ => ?_) <;> (repeat' split) <;> simp +contextual (disch := simp +contextual (disch := simp +contextual [*]) [*]) [State.Follows]

@[simp] theorem execInvalidationReceive_keeps (s : State) :
    Outcome.Keeps s (execInvalidationReceive s) := by
  simp only [execInvalidationReceive]
  refine inCycle_keeps _ _ _ ?_
  (repeat' split) <;> simp +contextual (disch := simp +contextual (disch := simp +contextual [*]) [*]) [State.Follows]

@[simp] theorem execInvalidationStart_keeps (fn : ℕ) (v : Word) (s : State) :
    Outcome.Keeps s (execInvalidationStart fn v s) := by
  simp only [execInvalidationStart]
  refine hostAccess_keeps _ _ _ _ _ ?_
  (repeat' split) <;> simp +contextual (disch := simp +contextual (disch := simp +contextual [*]) [*]) [State.Follows]

@[simp] theorem execKillDrainComplete_keeps (s : State) :
    Outcome.Keeps s (execKillDrainComplete s) := by
  simp only [execKillDrainComplete]
  (repeat' split) <;> (try refine event_keeps _ _ _ _ fun _ => ?_) <;> (repeat' split) <;> simp +contextual (disch := simp +contextual (disch := simp +contextual [*]) [*]) [State.Follows]

@[simp] theorem execKillDrainTimeout_keeps (s : State) :
    Outcome.Keeps s (execKillDrainTimeout s) := by
  simp only [execKillDrainTimeout]
  (repeat' split) <;> (try refine event_keeps _ _ _ _ fun _ => ?_) <;> (repeat' split) <;> simp +contextual (disch := simp +contextual (disch := simp +contextual [*]) [*]) [State.Follows]

@[simp] theorem execLeaseWalkResume_keeps (s : State) :
    Outcome.Keeps s (execLeaseWalkResume s) := by
  simp only [execLeaseWalkResume]
  (repeat' split) <;> simp +contextual [State.Follows]

@[simp] theorem execLinkLossTimeout_keeps (s : State) :
    Outcome.Keeps s (execLinkLossTimeout s) := event_keeps _ _ _ _ fun _ => ⟨(State.dropHlc_keeps s).1, id, id⟩

@[simp] theorem execMigrationPieceCopy_keeps (s : State) :
    Outcome.Keeps s (execMigrationPieceCopy s) := by
  simp only [execMigrationPieceCopy]
  (repeat' split) <;> (try refine event_keeps _ _ _ _ fun _ => ?_) <;> (repeat' split) <;> simp +contextual (disch := simp +contextual (disch := simp +contextual [*]) [*]) [State.Follows]

@[simp] theorem execMigrationRecordConsume_keeps (s : State) :
    Outcome.Keeps s (execMigrationRecordConsume s) := by
  simp only [execMigrationRecordConsume]
  refine event_keeps _ _ _ _ fun _ => ?_
  (repeat' split) <;> simp +contextual (disch := simp +contextual (disch := simp +contextual [*]) [*]) [State.Follows]

@[simp] theorem execMigrationSwitchOver_keeps (s : State) :
    Outcome.Keeps s (execMigrationSwitchOver s) := by
  simp only [execMigrationSwitchOver]
  (repeat' split) <;> (try refine event_keeps _ _ _ _ fun _ => ?_) <;> (repeat' split) <;> simp +contextual (disch := simp +contextual (disch := simp +contextual [*]) [*]) [State.Follows]

@[simp] theorem execPatrolScrubVisit_keeps (channel : ℕ) (line : ℕ) (s : State) :
    Outcome.Keeps s (execPatrolScrubVisit channel line s) := by
  simp only [execPatrolScrubVisit]
  refine event_keeps _ _ _ _ fun _ => ?_
  (repeat' split) <;> simp +contextual (disch := simp +contextual (disch := simp +contextual [*]) [*]) [State.Follows]

@[simp] theorem execPerstNAssert_keeps (s : State) :
    Outcome.Keeps s (execPerstNAssert s) := by
  refine event_keeps _ _ _ _ fun _ => ?_
  split
  · exact ⟨fun hb => (State.beginFlr_keeps _ _).1 ((State.dropHlc_keeps s).1 hb), by simp +contextual, by simp +contextual⟩
  · exact ⟨id, id, id⟩

@[simp] theorem execPerstNDeassert_keeps (s : State) :
    Outcome.Keeps s (execPerstNDeassert s) := event_keeps _ _ _ _ fun _ => ⟨id, id, id⟩

@[simp] theorem execPfFlr_keeps (s : State) :
    Outcome.Keeps s (execPfFlr s) := by
  simp only [execPfFlr]
  refine event_keeps _ _ _ _ fun _ => ?_
  (repeat' split) <;> simp +contextual (disch := simp +contextual (disch := simp +contextual [*]) [*]) [State.Follows]

@[simp] theorem execPhaseTimeout_keeps (s : State) :
    Outcome.Keeps s (execPhaseTimeout s) := by
  simp only [execPhaseTimeout]
  (repeat' split) <;> (try refine event_keeps _ _ _ _ fun _ => ?_) <;> (repeat' split) <;> simp +contextual (disch := simp +contextual (disch := simp +contextual [*]) [*]) [State.Follows]

@[simp] theorem execPlacementGrowth_keeps (s : State) :
    Outcome.Keeps s (execPlacementGrowth s) := by
  simp only [execPlacementGrowth]
  (repeat' split) <;> simp +contextual [State.Follows]

@[simp] theorem execPlacementRelease_keeps (task : ℕ) (pl : ℕ) (s : State) :
    Outcome.Keeps s (execPlacementRelease task pl s) := by
  simp only [execPlacementRelease]
  (repeat' split) <;> (try refine event_keeps _ _ _ _ fun _ => ?_) <;> (repeat' split) <;> simp +contextual (disch := simp +contextual (disch := simp +contextual [*]) [*]) [State.Follows]

@[simp] theorem execPldmFirmwareUpdate_keeps (image : FwImage) (s : State) :
    Outcome.Keeps s (execPldmFirmwareUpdate image s) := by
  refine event_keeps _ _ _ _ fun _ => ?_
  split <;> exact ⟨id, id, id⟩

@[simp] theorem execPldmPlatformMonitoring_keeps (s : State) :
    Outcome.Keeps s (execPldmPlatformMonitoring s) := by
  simp only [execPldmPlatformMonitoring]
  refine event_keeps _ _ _ _ fun _ => ?_
  (repeat' split) <;> simp +contextual (disch := simp +contextual (disch := simp +contextual [*]) [*]) [State.Follows]

@[simp] theorem execPowerEvaluation_keeps (watts : ℕ) (s : State) :
    Outcome.Keeps s (execPowerEvaluation watts s) := by
  refine event_keeps _ _ _ _ fun hok => ?_
  simp only [Bool.and_eq_true, clockStep, decide_eq_true_eq] at hok
  refine ⟨fun ⟨hp, hf, hc, hn, hl, hd, he, hll⟩ => ⟨hp, hf, hc, fun c h => ?_, hl, ?_, he, hll⟩, id, id⟩
  · simp only [State.setBoard] at h
    split_ifs at h
    obtain rfl := Option.some.inj h
    omega
  · simp only [State.setBoard]
    split_ifs <;> omega

@[simp] theorem execPrefComplete_keeps (s : State) :
    Outcome.Keeps s (execPrefComplete s) := by
  unfold execPrefComplete
  split
  · split
    · exact keeps_refused _ _
    · refine event_keeps _ _ _ _ fun _ => ?_
      simp +contextual (disch := simp +contextual (disch := simp +contextual [*]) [*]) [State.Follows]
  · split
    · exact keeps_refused _ _
    · refine inCycle_keeps _ _ _ (event_keeps _ _ _ _ fun _ => ?_)
      simp +contextual (disch := simp +contextual (disch := simp +contextual [*]) [*]) [State.Follows]

@[simp] theorem execPtpSync_keeps (sync : PtpSync) (s : State) :
    Outcome.Keeps s (execPtpSync sync s) := event_keeps _ _ _ _ fun _ => ⟨id, id, id⟩

@[simp] theorem execPwrEnAssert_keeps (s : State) :
    Outcome.Keeps s (execPwrEnAssert s) := by
  simp only [execPwrEnAssert]
  refine event_keeps _ _ _ _ fun _ => ?_
  (repeat' split) <;> simp +contextual (disch := simp +contextual (disch := simp +contextual [*]) [*]) [State.Follows]

@[simp] theorem execPwrEnDeassert_keeps (s : State) :
    Outcome.Keeps s (execPwrEnDeassert s) := by
  refine event_keeps _ _ _ _ fun _ => ?_
  split
  · refine ⟨fun hb => ?_, fun _ => memory_nil_wf, id⟩
    obtain ⟨hp, hf, hc, hn, hl, hd, he, -⟩ := Board.afterPower_keeps s.board hb
    exact ⟨hp, hf, hc, hn, hl, hd, he, Nat.min_le_left _ _⟩
  · refine ⟨fun ⟨hp, hf, hc, hn, hl, hd, he, hll⟩ => ⟨?_, ?_, hc, hn, hl, hd, he, hll⟩, id, id⟩ <;> simp only [State.setBoard] <;> split_ifs <;> simp_all

@[simp] theorem execQueueDisable_keeps (fn : ℕ) (queue : ℕ) (v : Word) (s : State) :
    Outcome.Keeps s (execQueueDisable fn queue v s) := by
  simp only [execQueueDisable]
  refine hostAccess_keeps _ _ _ _ _ ?_
  (repeat' split) <;> simp +contextual (disch := simp +contextual (disch := simp +contextual [*]) [*]) [State.Follows]

@[simp] theorem execQueueEnable_keeps (fn : ℕ) (queue : ℕ) (v : Word) (s : State) :
    Outcome.Keeps s (execQueueEnable fn queue v s) := by
  simp only [execQueueEnable]
  refine hostAccess_keeps _ _ _ _ _ ?_
  (repeat' split) <;> simp +contextual (disch := simp +contextual (disch := simp +contextual [*]) [*]) [State.Follows]

@[simp] theorem execQuotaAdmit_keeps (s : State) :
    Outcome.Keeps s (execQuotaAdmit s) := by
  simp only [execQuotaAdmit]
  (repeat' split) <;> (try refine event_keeps _ _ _ _ fun _ => ?_) <;> (repeat' split) <;> simp +contextual (disch := simp +contextual (disch := simp +contextual [*]) [*]) [State.Follows]

@[simp] theorem execReadReply_keeps (s : State) :
    Outcome.Keeps s (execReadReply s) := by
  simp only [execReadReply]
  (repeat' split) <;> simp +contextual [State.Follows]

@[simp] theorem execReconfigRewriteComplete_keeps (s : State) :
    Outcome.Keeps s (execReconfigRewriteComplete s) := by
  simp only [execReconfigRewriteComplete]
  (repeat' split) <;> simp +contextual [State.Follows]

@[simp] theorem execReconfigScrubExpiry_keeps (s : State) :
    Outcome.Keeps s (execReconfigScrubExpiry s) := by
  simp only [execReconfigScrubExpiry]
  (repeat' split) <;> (try refine event_keeps _ _ _ _ fun _ => ?_) <;> (repeat' split) <;> simp +contextual (disch := simp +contextual (disch := simp +contextual [*]) [*]) [State.Follows]

@[simp] theorem execReconfigurationToken_keeps (s : State) :
    Outcome.Keeps s (execReconfigurationToken s) := by
  simp only [execReconfigurationToken]
  (repeat' split) <;> simp +contextual [State.Follows]

@[simp] theorem execRegisterWrite_keeps (window : BarWindow) (off : ℕ) (size : ℕ) (v : Word) (s : State) :
    Outcome.Keeps s (execRegisterWrite window off size v s) := by
  simp only [execRegisterWrite]
  (repeat' split) <;> refine hostAccess_keeps _ _ _ _ _ ?_ <;> (repeat' split) <;> simp +contextual (disch := simp +contextual (disch := simp +contextual [*]) [*]) [State.Follows]

@[simp] theorem execRelcScan_keeps (s : State) :
    Outcome.Keeps s (execRelcScan s) := by
  simp only [execRelcScan]
  (repeat' split) <;> simp +contextual [State.Follows]

@[simp] theorem execRemoteReadServe_keeps (gid : BitVec 32) (addr : ℕ) (len : ℕ) (s : State) :
    Outcome.Keeps s (execRemoteReadServe gid addr len s) := by
  simp only [execRemoteReadServe]
  (repeat' split) <;> (try refine event_keeps _ _ _ _ fun _ => ?_) <;> (repeat' split) <;> simp +contextual (disch := simp +contextual (disch := simp +contextual [*]) [*]) [State.Follows]

@[simp] theorem execRemoteRequestTimeout_keeps (s : State) :
    Outcome.Keeps s (execRemoteRequestTimeout s) := by
  simp only [execRemoteRequestTimeout]
  (repeat' split) <;> (try refine event_keeps _ _ _ _ fun _ => ?_) <;> (repeat' split) <;> simp +contextual (disch := simp +contextual (disch := simp +contextual [*]) [*]) [State.Follows]

@[simp] theorem execRemoteWriteServe_keeps (gid : BitVec 32) (addr : ℕ) (bytes : List Byte) (poisoned : Bool) (s : State) :
    Outcome.Keeps s (execRemoteWriteServe gid addr bytes poisoned s) := by
  simp only [execRemoteWriteServe]
  (repeat' split) <;> (try refine event_keeps _ _ _ _ fun _ => ?_) <;> (repeat' split) <;> simp +contextual (disch := simp +contextual (disch := simp +contextual [*]) [*]) [State.Follows]

@[simp] theorem execSliceEnd_keeps (s : State) :
    Outcome.Keeps s (execSliceEnd s) := by
  simp only [execSliceEnd]
  (repeat' split) <;> (try refine event_keeps _ _ _ _ fun _ => ?_) <;> (repeat' split) <;> simp +contextual (disch := simp +contextual (disch := simp +contextual [*]) [*]) [State.Follows]

@[simp] theorem execSliceStart_keeps (s : State) :
    Outcome.Keeps s (execSliceStart s) := by
  simp only [execSliceStart]
  (repeat' split) <;> (try refine event_keeps _ _ _ _ fun _ => ?_) <;> (repeat' split) <;> simp +contextual (disch := simp +contextual (disch := simp +contextual [*]) [*]) [State.Follows]

@[simp] theorem execSpdmRequest_keeps (msg : SpdmMsg) (s : State) :
    Outcome.Keeps s (execSpdmRequest msg s) := by
  simp only [execSpdmRequest]
  split_ifs
  · refine event_keeps _ _ _ _ fun _ => ?_
    split <;> exact ⟨id, id, id⟩
  · exact keeps_refused _ _
  · exact (keeps_next _ _).2 ⟨id, id, id⟩
  · exact (keeps_next _ _).2 ⟨id, id, id⟩
  · refine (keeps_next _ _).2 ?_
    split <;> exact ⟨id, id, id⟩

@[simp] theorem execStoreAck_keeps (s : State) :
    Outcome.Keeps s (execStoreAck s) := by
  simp only [execStoreAck]
  refine inCycle_keeps _ _ _ ?_
  (repeat' split) <;> simp +contextual [State.Follows]

@[simp] theorem execTagUnitSpawn_keeps (task : ℕ) (pl : ℕ) (s : State) :
    Outcome.Keeps s (execTagUnitSpawn task pl s) := by
  simp only [execTagUnitSpawn]
  (repeat' split) <;> simp +contextual [State.Follows]

@[simp] theorem execTaskDone_keeps (s : State) :
    Outcome.Keeps s (execTaskDone s) := by
  simp only [execTaskDone]
  (repeat' split) <;> (try refine event_keeps _ _ _ _ fun _ => ?_) <;> (repeat' split) <;> simp +contextual (disch := simp +contextual (disch := simp +contextual [*]) [*]) [State.Follows]

@[simp] theorem execTaskEnd_keeps (s : State) :
    Outcome.Keeps s (execTaskEnd s) := by
  simp only [execTaskEnd]
  (repeat' split) <;> (try refine event_keeps _ _ _ _ fun _ => ?_) <;> (repeat' split) <;> simp +contextual (disch := simp +contextual (disch := simp +contextual [*]) [*]) [State.Follows]

@[simp] theorem execTaskKill_keeps (s : State) :
    Outcome.Keeps s (execTaskKill s) := by
  simp only [execTaskKill]
  (repeat' split) <;> (try refine event_keeps _ _ _ _ fun _ => ?_) <;> (repeat' split) <;> simp +contextual (disch := simp +contextual (disch := simp +contextual [*]) [*]) [State.Follows]

@[simp] theorem execTaskResume_keeps (s : State) :
    Outcome.Keeps s (execTaskResume s) := by
  simp only [execTaskResume]
  (repeat' split) <;> (try refine event_keeps _ _ _ _ fun _ => ?_) <;> (repeat' split) <;> simp +contextual (disch := simp +contextual (disch := simp +contextual [*]) [*]) [State.Follows]

@[simp] theorem execThermalThreshold_keeps (sensor : ℕ) (temp : ℕ) (s : State) :
    Outcome.Keeps s (execThermalThreshold sensor temp s) := by
  refine event_keeps _ _ _ _ fun _ => ?_
  refine ⟨fun hb => ?_, id, id⟩
  have hs := Board.sense_keeps s.board sensor temp hb
  dsimp only
  split
  next hhot =>
    obtain ⟨hp, hf, hc, hn, hl, hd, he, hll⟩ := hs
    refine ⟨hp, hf, hc, fun c h => ?_, hl, hd, he, hll⟩
    simp only [Bool.and_eq_true, decide_eq_true_eq] at hhot
    obtain rfl := Option.some.inj h
    omega
  · exact hs

@[simp] theorem execThermalTrip_keeps (sensor : ℕ) (temp : ℕ) (s : State) :
    Outcome.Keeps s (execThermalTrip sensor temp s) := event_keeps _ _ _ _ fun _ => State.Follows.trans
  (t := s.setBoard (fun b => b.sense sensor temp)) ⟨Board.sense_keeps _ _ _, id, id⟩ (State.tripNow_keeps _ _)

@[simp] theorem execTokenArrival_keeps (s : State) :
    Outcome.Keeps s (execTokenArrival s) := by
  simp only [execTokenArrival]
  (repeat' split) <;> simp +contextual [State.Follows]

@[simp] theorem execTraceMerge_keeps (s : State) :
    Outcome.Keeps s (execTraceMerge s) := by
  simp only [execTraceMerge]
  (repeat' split) <;> (try refine event_keeps _ _ _ _ fun _ => ?_) <;> (repeat' split) <;> simp +contextual (disch := simp +contextual (disch := simp +contextual [*]) [*]) [State.Follows]

@[simp] theorem execVfFlr_keeps (s : State) :
    Outcome.Keeps s (execVfFlr s) := by
  simp only [execVfFlr]
  refine event_keeps _ _ _ _ fun _ => ?_
  (repeat' split) <;> simp +contextual (disch := simp +contextual (disch := simp +contextual [*]) [*]) [State.Follows]

@[simp] theorem execWaitlHostPoll_keeps (s : State) :
    Outcome.Keeps s (execWaitlHostPoll s) := by
  simp only [execWaitlHostPoll]
  (repeat' split) <;> (try refine event_keeps _ _ _ _ fun _ => ?_) <;> (repeat' split) <;> simp +contextual (disch := simp +contextual (disch := simp +contextual [*]) [*]) [State.Follows]

@[simp] theorem execWaitlSlicePoll_keeps (s : State) :
    Outcome.Keeps s (execWaitlSlicePoll s) := by
  simp only [execWaitlSlicePoll]
  refine event_keeps _ _ _ _ fun _ => ?_
  (repeat' split) <;> simp +contextual (disch := simp +contextual (disch := simp +contextual [*]) [*]) [State.Follows]

@[simp] theorem execWaveCommit_keeps (task : ℕ) (pl : ℕ) (tag : Tag) (s : State) :
    Outcome.Keeps s (execWaveCommit task pl tag s) := by
  simp only [execWaveCommit]
  (repeat' split) <;> simp +contextual [State.Follows]

@[simp] theorem execWobEntryAdmit_keeps (s : State) :
    Outcome.Keeps s (execWobEntryAdmit s) := by
  simp only [execWobEntryAdmit]
  (repeat' split) <;> simp +contextual [State.Follows]

@[simp] theorem execWorkItemIssue_keeps (task : ℕ) (pl : ℕ) (s : State) :
    Outcome.Keeps s (execWorkItemIssue task pl s) := by
  simp only [execWorkItemIssue]
  (repeat' split) <;> simp +contextual [State.Follows]

/-! ### Firings -/

theorem fireA_keeps {f : FmtA} {s : State} {g : Focus → Word → Word → Word → State → State} (hg : ∀ c l r a, s.Follows (g c l r a s)) :
    Outcome.Keeps s (fireA f s g) := by
  unfold fireA
  split
  · exact keeps_refused _ _
  · split
    · exact (keeps_next _ _).2 (State.Follows.refl s)
    · exact (keeps_next _ _).2 (hg _ _ _ _)

theorem fireVal_keeps {f : FmtA} {x : Nat} {s : State} {h : Word → Word → Word → Word} : Outcome.Keeps s (fireVal f x s h) :=
  fireA_keeps fun _ _ _ _ => State.Follows.refl s

theorem fireFlg_keeps {f : FmtA} {x : Nat} {s : State} {h : RCtx → Word → Word → Word → Word × Flags} : Outcome.Keeps s (fireFlg f x s h) :=
  fireA_keeps fun _ _ _ _ => State.Follows.refl s

theorem fireChain_keeps {i : Instr} {pm : PMode} {ea : Focus → Nat} {s : State} : Outcome.Keeps s (fireChain i pm ea s) := by
  unfold fireChain
  split
  · exact keeps_refused _ _
  · refine (keeps_next _ _).2 ?_
    split <;> exact State.Follows.refl s

/-- What a Format A form's firing changes, its fault included, is neither a register of the package nor memory. -/
theorem exec_keeps_of_descA {i : Instr} {d : DescA} {s : State} (hd : i.desc = .a d) : Outcome.Keeps s (exec i s) := by
  cases i <;> cases hd <;> delta exec
  case mov | const | gate | join | addc | subb | mul | mulh | mulw | mad | div | rem | min | max | avg | sad | and | or | xor
    | andn | not | shl | shr | sar | rot | shrp | clz | ctz | popc | brev | bext | bdep | perm | mix | bcast | unpk | cmp
    | btst | blend | lea | fabs | fneg | fclass =>
    exact fireVal_keeps
  case add | sub | neg | abs | pack | fadd | fsub | fmul | fma | fmin | fmax | fcmp | frcp | frsq | fsqrt | fdiv | fexp2 |
    flog2 | ftanh | fsin | fcos | fsig | fround | fscl | cvt | famax | fsum | fdot2 | mxscale | mxq | mxdq | tpack =>
    exact fireFlg_keeps
  case steer | select | wadv | wset | sink | idx | spawn | send | tagof | endt | time =>
    exact fireA_keeps fun _ _ _ _ => State.Follows.refl s
  all_goals
    refine fireA_keeps fun c l r a => ?_
    (repeat' split) <;> simp +contextual [State.Follows]

/-! ### The debug block -/

theorem dbgCommand_keeps {s : State} {mn : String} {v : Word} {halts : Bool} {act : Task → State → State}
    (hact : ∀ t u, s.Follows u → s.Follows (act t u)) : Outcome.Keeps s (s.dbgCommand mn v halts act) := by
  refine hostAccess_keeps _ _ _ _ _ ?_
  (repeat' split)
  · exact State.Follows.refl s
  · exact State.Follows.refl s
  · exact hact _ _ (State.Follows.refl s)

@[simp] theorem execDbgDump_keeps (s : State) : Outcome.Keeps s (execDbgDump s) := by
  unfold execDbgDump
  split
  · exact dbgCommand_keeps fun t u ⟨hb, hm, hh⟩ => by simp +contextual [State.Follows, *]
  · exact keeps_refused _ _

@[simp] theorem execDbgEnd_keeps (s : State) : Outcome.Keeps s (execDbgEnd s) :=
  dbgCommand_keeps fun t u ⟨hb, hm, hh⟩ => by simp +contextual [State.Follows, *]

@[simp] theorem execDbgHalt_keeps (s : State) : Outcome.Keeps s (execDbgHalt s) :=
  dbgCommand_keeps fun t u ⟨hb, hm, hh⟩ => by simp +contextual [State.Follows, *]

@[simp] theorem execDbgKill_keeps (s : State) : Outcome.Keeps s (execDbgKill s) :=
  dbgCommand_keeps fun t u ⟨hb, hm, hh⟩ => by simp +contextual [State.Follows, *]

@[simp] theorem execDbgResume_keeps (s : State) : Outcome.Keeps s (execDbgResume s) :=
  dbgCommand_keeps fun t u ⟨hb, hm, hh⟩ => by simp +contextual [State.Follows, *]

@[simp] theorem execDbgStep_keeps (v : Word) (s : State) : Outcome.Keeps s (execDbgStep v s) :=
  dbgCommand_keeps fun t u ⟨hb, hm, hh⟩ => by simp +contextual [State.Follows, *]

/-! ### Steps -/

theorem exec_keeps_of_event {i : Instr} {s : State} (hd : i.desc = .event) : Outcome.Keeps s (exec i s) := by
  cases i <;> cases hd <;> simp

/-- Every instruction and every event leads to states that follow the one in which it runs. -/
theorem exec_keeps (i : Instr) (s : State) : Outcome.Keeps s (exec i s) := by
  cases hd : i.desc with
  | a d => exact exec_keeps_of_descA hd
  | m d => rw [exec_formM i d hd]; exact fireChain_keeps
  | e d => rw [exec_eq_fireE_of_desc hd]; exact fireChain_keeps
  | event => exact exec_keeps_of_event hd

theorem State.Follows.of_eq {s t : State} (hb : t.board = s.board) (hm : t.mem = s.mem) : s.Follows t := by
  rw [State.Follows, hb, hm]
  exact ⟨id, id, id⟩

/-- What an element's turn can come to. -/
theorem turn_cases (s : State) (task pl f velem : Nat) : (∃ r, s.turn task pl f velem = .bad r) ∨ s.turn task pl f velem = .idle ∨
    (∃ i p pf e x, s.turn task pl f velem = .fire i (s.latch p f velem pf e i x)) ∨
    ∃ pf e g, s.turn task pl f velem = .block (s.modElem pf e g) := by
  unfold State.turn
  split
  · simp
  dsimp only
  split_ifs
  · simp
  split
  · simp
  split
  · simp
  split
  · simp
  split_ifs
  · exact .inr (.inr (.inl ⟨_, _, _, _, _, rfl⟩))
  · exact .inr (.inr (.inr ⟨_, _, _, rfl⟩))

theorem turn_blocks_follows {s s' : State} {task pl f velem : Nat} (h : s.turn task pl f velem = .block s') : s.Follows s' := by
  obtain ⟨r, h'⟩ | h' | ⟨i, p, pf, e, x, h'⟩ | ⟨pf, e, g, h'⟩ := turn_cases s task pl f velem <;> cases h'.symm.trans h
  exact .of_eq (by simp) (by simp)

theorem turn_fires_follows {s s' : State} {i : Instr} {task pl f velem : Nat} (h : s.turn task pl f velem = .fire i s') : s.Follows s' := by
  obtain ⟨r, h'⟩ | h' | ⟨i, p, pf, e, x, h'⟩ | ⟨pf, e, g, h'⟩ := turn_cases s task pl f velem <;> cases h'.symm.trans h
  exact .of_eq (by simp) (by simp)

theorem passTime_follows (s : State) (b : Beat) : s.Follows (s.passTime b) := by
  obtain ⟨hb, hm, hh⟩ := State.passTime_keeps s b
  exact ⟨hb, hm, hh⟩

/-- A step leads to a state that follows: time passes, and then what the beat brings is done. -/
theorem step_follows {s t : State} (h : step s = .next t) : s.Follows t := by
  unfold step at h
  split at h
  · obtain rfl := Host.Outcome.next.inj h
    exact .refl s
  next b rest _ =>
    split at h
    next i n _ =>
      have hpass : s.Follows { (s.passTime b) with agenda := rest, subject := n, focus := none } := passTime_follows s b
      exact hpass.trans (exec_keeps _ _ t h)
    next task pl f velem _ =>
      have hpass : s.Follows { (s.passTime b) with agenda := rest, focus := none } := passTime_follows s b
      split at h
      · obtain rfl := Host.Outcome.next.inj h
        exact hpass
      next s' hturn =>
        obtain rfl := Host.Outcome.next.inj h
        exact hpass.trans (turn_blocks_follows hturn)
      next i s' hturn => exact (hpass.trans (turn_fires_follows hturn)).trans (exec_keeps i s' t h)
      · cases h

/-- Settles O56: memory is changed by writing bytes alone, and both memories keep their form through every operation. -/
theorem stepKeepsMemoryCanonical : Obligations.StepKeepsMemoryCanonical := by
  rintro s t ⟨hm, hh⟩ hstep
  obtain ⟨-, km, kh⟩ := step_follows hstep
  exact ⟨km hm, kh hh⟩

/-- Settles O57: every operation that writes a register of the package writes a legal value. -/
theorem stepKeepsBoardLegal : Obligations.StepKeepsBoardLegal :=
  fun _ _ hs hstep => (step_follows hstep).1 hs

end Sys2Proof.Machine
end

section
/-!
PROOFS. What the statements on device events share: an event that comes about, facts of tables, and what operations leave as it was.
-/
namespace Sys2Proof.Machine

/-! ### Events that come about -/

theorem event_next {mn : String} {ok : Bool} {t : State} (h : ok = true) : event mn ok t = .next t := by
  rw [event, if_pos h]

theorem hostAccess_next {s t : State} {mn : String} {fn : Nat} {ok : Bool} (hr : s.reach fn = .served) (h : ok = true) :
    s.hostAccess mn fn ok t = .next t := by
  rw [State.hostAccess, hr]
  exact event_next h

theorem hostAccess_unsupported {s t : State} {mn : String} {fn : Nat} {ok : Bool} (hr : s.reach fn = .unsupported) :
    s.hostAccess mn fn ok t = .next (s.reply .unsupported) := by
  rw [State.hostAccess, hr]

theorem inCycle_next {s : State} {mn : String} {o : Out} (h : s.frozenNow = false) : s.inCycle mn o = o := by
  rw [State.inCycle, h]
  rfl

/-! ### Tables -/

theorem tget_map_pair {α : Type} (l : List Nat) (g : Nat → α) (n : Nat) : tget (l.map fun k => (k, g k)) n = if n ∈ l then some (g n) else none := by
  induction l with
  | nil => rfl
  | cons k l ih =>
    rw [List.map_cons, tget, ih]
    by_cases h : k = n
    · subst h; simp
    · simp [h, Ne.symm h]

theorem nsHas_map (l : List Nat) (n : Nat) : nsHas (l.map fun k => (k, ())) n = decide (n ∈ l) := by
  rw [nsHas, tget_map_pair]
  by_cases h : n ∈ l <;> simp [h]

theorem nsHas_nsAdd (u : NSet) (k n : Nat) : nsHas (nsAdd u k) n = (nsHas u n || decide (n = k)) := by
  by_cases h : n = k
  · subst h; simp
  · simp [nsHas_nsAdd_ne _ _ _ h, h]

theorem nsHas_foldl_nsAdd (l : List Nat) (u : NSet) (n : Nat) : nsHas (l.foldl nsAdd u) n = (nsHas u n || decide (n ∈ l)) := by
  induction l generalizing u with
  | nil => simp
  | cons k l ih => rw [List.foldl_cons, ih, nsHas_nsAdd]; simp [Bool.or_assoc]

/-! ### Tasks and frets -/

theorem task?_setTask (s : State) (t : Task) (n : Nat) : (s.setTask t).task? n = if n = t.num then some t else s.task? n :=
  tget_tput _ _ _ _

/-- A task written that has the property leaves every task with it that had it before. -/
theorem taskIs_setTask {s : State} {t : Task} {n : Nat} {p : Task → Prop} (ht : p t) (h : n = t.num ∨ TaskIs s n p) : TaskIs (s.setTask t) n p := by
  by_cases hn : n = t.num
  · exact ⟨t, by rw [task?_setTask, if_pos hn], ht⟩
  · obtain ⟨k, hk, hp⟩ := h.resolve_left hn
    exact ⟨k, by rw [task?_setTask, if_neg hn, hk], hp⟩

theorem taskIs_of_sched {s t : State} (h : t.sched = s.sched) {n : Nat} {p : Task → Prop} : TaskIs t n p ↔ TaskIs s n p := by
  rw [TaskIs, TaskIs, State.task?, State.task?, h]

end Sys2Proof.Machine
end

section
/-!
PROOFS. What operations leave as it was, beyond the registers of the package and memory: one lemma per operation, in the order of their definitions.
-/
namespace Sys2Proof.Machine

/-- What every step of a fold leaves as it was, the fold leaves. -/
theorem foldl_same {α β γ : Type} (π : β → γ) {g : β → α → β} (h : Everywhere (∀ b x, π (g b x) = π b)) (l : List α) (b : β) : π (l.foldl g b) = π b := by
  induction l generalizing b with
  | nil => rfl
  | cons x l ih => rw [List.foldl_cons, ih]; exact h b x

@[simp] theorem foldl_clock {α : Type} (g : State → α → State) (l : List α) (s : State) (h : Everywhere (∀ s x, (g s x).clock = s.clock)) :
    (l.foldl g s).clock = s.clock :=
  foldl_same (fun s => s.clock) h l s

@[simp] theorem foldl_fst_clock {α β : Type} (g : State × β → α → State × β) (l : List α) (a : State × β)
    (h : Everywhere (∀ a x, (g a x).1.clock = a.1.clock)) : (l.foldl g a).1.clock = a.1.clock :=
  foldl_same (fun a => a.1.clock) h l a

@[simp] theorem ite_clock (c : Prop) [Decidable c] (s t : State) : (if c then s else t).clock = if c then s.clock else t.clock :=
  apply_ite (fun s => s.clock) c s t

@[simp] theorem foldl_fab_frets {α : Type} (g : State → α → State) (l : List α) (s : State) (h : Everywhere (∀ s x, (g s x).fab.frets = s.fab.frets)) :
    (l.foldl g s).fab.frets = s.fab.frets :=
  foldl_same (fun s => s.fab.frets) h l s

@[simp] theorem foldl_fst_fab_frets {α β : Type} (g : State × β → α → State × β) (l : List α) (a : State × β)
    (h : Everywhere (∀ a x, (g a x).1.fab.frets = a.1.fab.frets)) : (l.foldl g a).1.fab.frets = a.1.fab.frets :=
  foldl_same (fun a => a.1.fab.frets) h l a

@[simp] theorem ite_fab_frets (c : Prop) [Decidable c] (s t : State) : (if c then s else t).fab.frets = if c then s.fab.frets else t.fab.frets :=
  apply_ite (fun s => s.fab.frets) c s t

@[simp] theorem foldl_sched {α : Type} (g : State → α → State) (l : List α) (s : State) (h : Everywhere (∀ s x, (g s x).sched = s.sched)) :
    (l.foldl g s).sched = s.sched :=
  foldl_same (fun s => s.sched) h l s

@[simp] theorem foldl_fst_sched {α β : Type} (g : State × β → α → State × β) (l : List α) (a : State × β)
    (h : Everywhere (∀ a x, (g a x).1.sched = a.1.sched)) : (l.foldl g a).1.sched = a.1.sched :=
  foldl_same (fun a => a.1.sched) h l a

@[simp] theorem ite_sched (c : Prop) [Decidable c] (s t : State) : (if c then s else t).sched = if c then s.sched else t.sched :=
  apply_ite (fun s => s.sched) c s t

@[simp] theorem State.selectCounters_rest (s : State) (g : Meas) (cluster : ℕ) :
    (s.selectCounters g cluster).clock = s.clock ∧ (s.selectCounters g cluster).fab.frets = s.fab.frets ∧ (s.selectCounters g cluster).sched = s.sched := by
  simp [State.selectCounters]

@[simp] theorem State.selectFor_rest (s : State) (p : Placement) :
    (s.selectFor p).clock = s.clock ∧ (s.selectFor p).fab.frets = s.fab.frets ∧ (s.selectFor p).sched = s.sched := by
  unfold State.selectFor
  split <;> simp

@[simp] theorem State.makePlacement_rest (s : State) (t : Task) (img : Option Img) (engines : List Bool) (idx : ℕ) (m : List (ℕ × ℕ)) :
    (s.makePlacement t img engines idx m).clock = s.clock ∧ (s.makePlacement t img engines idx m).sched = s.sched := by
  simp [State.makePlacement]

end Sys2Proof.Machine
end

section
/-!
PROOFS. Events of the package: what a device event answers where its condition holds, and what resets, the power-up order and the power manager leave
(R15, R26, R27, R30 to R33, R45).
-/
namespace Sys2Proof.Machine

/-! ### Resets (R27, R31, R32, R33, R45) -/

theorem goFatal_board (s : State) (c : Cause) : (s.goFatal c).board = { s.board with fatal := true, phase := 15, cause := c, alert := true } := by
  unfold State.goFatal
  dsimp only
  split <;> rfl

theorem goFatal_fatal (s : State) (c : Cause) : Fatal (s.goFatal c) c := by
  rw [Fatal, goFatal_board]
  exact ⟨rfl, rfl, rfl, rfl⟩

/-- The fatal state is entered with an answer to the host at most. -/
theorem volatileLost_goFatal {s t : State} {c : Cause} (h : VolatileLost s t) : VolatileLost s (t.goFatal c) := by
  obtain ⟨hc, hs, hf, he, ho, hm, hh, hx⟩ := h
  unfold State.goFatal
  dsimp only
  split
  · refine ⟨hc, hs, hf, he, ho, hm, ?_, hx⟩
    exact congrArg (fun h : HostSide => { h with replies := t.host.replies ++ [HostReply.internalError] }) hh
  · exact ⟨hc, hs, hf, he, ho, hm, hh, hx⟩

theorem volatileLost_loseVolatile (s : State) (g : Board → Board) : VolatileLost s (s.loseVolatile.setBoard g) :=
  ⟨rfl, rfl, rfl, rfl, rfl, rfl, rfl, rfl⟩

theorem volatileLost_again {s u t : State} (h : VolatileLost s u) (h' : VolatileLost u t) : VolatileLost s t := by
  obtain ⟨hc, -, -, -, -, hm, hh, -⟩ := h
  obtain ⟨hc', hs', hf', he', ho', hm', hh', hx'⟩ := h'
  refine ⟨?_, hs', hf', he', ho', ?_, ?_, hx'⟩
  · rw [hc', hc]
  · rw [hm', hm]
  · rw [hh', hh]

/-- A thermal trip leaves the device without power, in the fatal state. -/
def TripLeaves (s t : State) : Prop :=
  VolatileLost s t ∧ Fatal t .thermtrip ∧ t.board.trip = true ∧ t.board.pwrGood = false ∧ t.board.tripAt = some s.clock.ns

theorem tripNow_spec (s : State) (sensor : Nat) : TripLeaves s (s.tripNow sensor) := by
  refine ⟨volatileLost_goFatal ?_, goFatal_fatal _ _, ?_⟩
  · exact volatileLost_loseVolatile s fun b => { b.afterPower with trip := true, tripAt := some s.clock.ns, tripSensor := sensor }
  · rw [State.tripNow, goFatal_board]
    exact ⟨rfl, rfl, rfl⟩

/-- The board as the power-up order begins (R30, R32, R46). -/
def Board.powered (b : Board) (now : Nat) : Board :=
  { b.afterPower with phase := 1, phaseSince := now, pwrEn := true, alert := false, flash := b.staged.or b.flash, staged := none }

theorem powerOn_eq (s : State) : s.powerOn = if s.board.trip && s.board.hot
    then (s.loseVolatile.setBoard fun b => b.powered s.clock.ns).tripNow s.board.tripSensor
    else s.loseVolatile.setBoard fun b => b.powered s.clock.ns := rfl

/-- A power-on reset with no sensor still too hot begins the power-up order. -/
theorem powerOn_cool {s : State} (h : (s.board.trip && s.board.hot) = false) :
    s.powerOn = s.loseVolatile.setBoard fun b => b.powered s.clock.ns := by
  rw [powerOn_eq, h]
  rfl

theorem powerOn_hot {s : State} (h : (s.board.trip && s.board.hot) = true) : TripLeaves s s.powerOn := by
  rw [powerOn_eq, if_pos h]
  obtain ⟨hv, hf, ht, hg, ha⟩ := tripNow_spec (s.loseVolatile.setBoard fun b => b.powered s.clock.ns) s.board.tripSensor
  exact ⟨volatileLost_again (volatileLost_loseVolatile s _) hv, hf, ht, hg, ha⟩

/-- What follows a trip once it has cooled for long enough: the power-up order, or another trip (R27). -/
theorem powerOn_after_trip {s : State} (h : s.board.trip = true) : VolatileLost s s.powerOn ∧ (if s.board.hot = true
    then Fatal s.powerOn .thermtrip ∧ s.powerOn.board.trip = true ∧ s.powerOn.board.pwrGood = false ∧ s.powerOn.board.tripAt = some s.clock.ns
    else s.powerOn.board.phase = 1 ∧ s.powerOn.board.phaseSince = s.clock.ns ∧ s.powerOn.board.trip = false ∧ s.powerOn.board.fatal = false) := by
  split
  next hot =>
    obtain ⟨hv, hrest⟩ := powerOn_hot (s := s) (by rw [h, hot]; rfl)
    exact ⟨hv, hrest⟩
  next hot =>
    rw [powerOn_cool (s := s) (by simp [hot])]
    exact ⟨volatileLost_loseVolatile s _, rfl, rfl, rfl, rfl⟩

theorem beginFlr_board (s : State) (fn : Nat) : (s.beginFlr fn).board = { s.board with flr := true } := by
  simp [State.beginFlr]

theorem auxColdStart_leaves (s : State) : ∃ t, exec .auxColdStart s = .next t ∧
    (t.clock = Clock.reset ∧ t.sched = Sched.reset ∧ t.fab = Fab.reset ∧ t.eng = Eng.reset ∧ t.obs = Obs.reset ∧
    t.board = { Board.reset with flash := s.board.flash, fuseVersion := s.board.fuseVersion, debugLock := s.board.debugLock, epAddr := s.board.epAddr, pps := s.board.pps } ∧
    t.mem = { Mem.reset with hostMem := s.mem.hostMem, hostPoison := s.mem.hostPoison }) :=
  ⟨_, (exec_auxColdStart _).trans (execAuxColdStart.eq_1 s), by simp [State.reset]⟩

theorem pwrEnAssert_next {s : State} (ha : s.board.aux = true) (hp : s.board.pwrEn = false) : exec .pwrEnAssert s = .next s.requestPower :=
  (exec_pwrEnAssert _).trans (event_next (by rw [ha, hp]; rfl))

/-- Past the cooling time, or with no trip, power is not kept waiting. -/
theorem requestPower_now {s : State} (h : s.board.trip = false ∨ ∃ a, s.board.tripAt = some a ∧ a + 60000000000 ≤ s.clock.ns) :
    s.requestPower = s.powerOn := by
  have hw : (s.board.trip && (s.board.tripAt.map (fun a => decide (s.clock.ns < a + 60000000000))).getD false) = false := by
    obtain h | ⟨a, ha, hle⟩ := h
    · rw [h, Bool.false_and]
    · rw [ha, Option.map_some, Option.getD_some, decide_eq_false (not_lt.2 hle), Bool.and_false]
  rw [State.requestPower, hw]
  exact if_neg Bool.false_ne_true

theorem requestPower_waits {s : State} {a : Nat} (ht : s.board.trip = true) (ha : s.board.tripAt = some a) (hlt : s.clock.ns < a + 60000000000) :
    s.requestPower = { s with board := { s.board with pwrEn := true, resetHeld := true } } := by
  rw [State.requestPower, ht, ha, Option.map_some, Option.getD_some, decide_eq_true hlt]
  rfl

theorem cooldownExpiry_next {s : State} {a : Nat} (hr : s.board.resetHeld = true) (ha : s.board.tripAt = some a) (hle : a + 60000000000 ≤ s.clock.ns) :
    exec .cooldownExpiry s = .next s.powerOn := by
  refine (exec_cooldownExpiry _).trans ?_
  rw [execCooldownExpiry, ha]
  exact event_next (by simp [hr, hle])

theorem perstNAssert_next {s : State} (ha : s.board.aux = true) (hp : s.board.perst = false) : ∃ t, exec .perstNAssert s = .next t ∧
    (t.board.perst = true ∧ t.board.hlink = false ∧ t.board.modeSettled = false ∧ t.host.held = [] ∧ t.mem.hdm = [] ∧
    (s.board.pwrGood = true → t.mem.hlc = [] ∧
      t.board.lossLines = min 0xFFFF (s.board.lossLines + (s.mem.hlc.filter (fun r => r.2.st = .m || r.2.st = .o)).length))) := by
  refine ⟨_, (exec_perstNAssert _).trans (event_next (by rw [ha, hp]; rfl)), rfl, rfl, rfl, rfl, rfl, fun hg => ?_⟩
  simp only [hg, if_true, setBoard_mem, setBoard_board, (State.beginFlr_keeps _ _).2, beginFlr_board]
  exact ⟨rfl, rfl⟩

/-- Settles O23: each reset, from the board and the parts of the state that it keeps. -/
theorem resetEvents : Obligations.ResetEvents := by
  intro s
  refine ⟨auxColdStart_leaves s, fun ha hp ht => ?_, fun a ha hp ht hat hlt => ?_, fun ha hp hg => ?_, perstNAssert_next, fun ha hp => ?_,
    fun sensor temp hg hs ht => ?_, fun a hr hat hle hot => ?_, fun a hat hle ht => ⟨fun ha hp => ?_, fun hr => ?_⟩⟩
  · refine ⟨_, pwrEnAssert_next ha hp, ?_⟩
    rw [requestPower_now (.inl ht), powerOn_cool (by rw [ht]; rfl)]
    exact ⟨volatileLost_loseVolatile s _, rfl, rfl, rfl, rfl, rfl, rfl, rfl, rfl, rfl⟩
  · exact ⟨_, pwrEnAssert_next ha hp, requestPower_waits ht hat hlt⟩
  · refine ⟨_, (exec_pwrEnDeassert _).trans (event_next (by rw [ha, hp]; rfl)), ?_⟩
    rw [if_pos hg]
    exact ⟨volatileLost_loseVolatile s _, rfl, rfl, rfl, rfl, rfl, rfl⟩
  · exact ⟨_, (exec_perstNDeassert _).trans (event_next (by rw [ha, hp]; rfl)), rfl⟩
  · refine ⟨_, (exec_thermalTrip _ _ _).trans (event_next (by simp [hg, hs, ht])), ?_⟩
    exact tripNow_spec (s.setBoard fun b => b.sense sensor temp) sensor
  · refine ⟨_, cooldownExpiry_next hr hat hle, ?_⟩
    rw [powerOn_cool (by rw [hot, Bool.and_false])]
    exact ⟨volatileLost_loseVolatile s _, rfl, rfl⟩
  · refine ⟨_, pwrEnAssert_next ha hp, ?_⟩
    rw [requestPower_now (.inr ⟨a, hat, hle⟩)]
    exact powerOn_after_trip ht
  · exact ⟨_, cooldownExpiry_next hr hat hle, powerOn_after_trip ht⟩

end Sys2Proof.Machine
end

section
/-!
PROOFS. The power-up order (R30, R34, R37, R40, R41, R61): obligation O24.
-/
namespace Sys2Proof.Machine

theorem inPhase_of {s : State} {k n : Nat} {c : Cause} (hl : phaseLimit k = some (n, c)) (h : s.board.phase = k ∧ s.clock.ns ≤ s.board.phaseSince + n) :
    s.inPhase k = true := by
  rw [State.inPhase, hl, decide_eq_true h.1]
  exact decide_eq_true h.2

/-- Phase p begins at this time. -/
def Enters (s t : State) (p : Nat) : Prop := t.board.phase = p ∧ t.board.phaseSince = s.clock.ns

/-! ### The fatal state -/

theorem goFatal_mem (s : State) (c : Cause) : (s.goFatal c).mem = s.mem := (State.goFatal_keeps s c).2

theorem goFatal_fab (s : State) (c : Cause) : (s.goFatal c).fab = s.fab := by
  unfold State.goFatal
  dsimp only
  split <;> rfl

theorem goFatal_fret (s : State) (c : Cause) (pf : Nat) : (s.goFatal c).fret pf = s.fret pf := by
  rw [State.fret, goFatal_fab, State.fret]

/-! ### Bridge links -/

theorem trainBridge_trained (found : List (Nat × Nat × Nat)) (k : Nat) :
    (trainBridge found k).trained = true ↔ ¬ ∃ m < modulesOf k, 2 < failedLanes found k m := by
  simp [trainBridge]

theorem bridgeLinkTraining_next {s : State} {found : List (Nat × Nat × Nat)} (h : s.inPhase 2 = true)
    (hf : ∀ r ∈ found, r.1 < 8 ∧ r.2.1 < modulesOf r.1 ∧ r.2.2 ≤ 64) :
    let fails := fun (k : Nat) => ∃ m < modulesOf k, 2 < failedLanes found k m
    ∃ t, exec (.bridgeLinkTraining found) s = .next t ∧ (
      (∀ k < 8, ∃ b, tget t.board.bridges k = some b ∧ (b.trained = true ↔ ¬ fails k)) ∧
      ((∀ k < 8, ¬ fails k) → Enters s t 3 ∧ t.clock.cycle = 0) ∧
      ((∃ k < 8, fails k) → Fatal t .bridge ∧ ∃ k < 8, fails k ∧ t.board.badLink = some k) ∧ t.mem = s.mem) := by
  intro fails
  have hlinks : ∀ k < 8, ∃ b, tget ((List.range 8).map fun k => (k, trainBridge found k)) k = some b ∧ (b.trained = true ↔ ¬ fails k) := fun k hk =>
    ⟨_, by rw [tget_map_pair, if_pos (List.mem_range.2 hk)], trainBridge_trained found k⟩
  refine ⟨_, (exec_bridgeLinkTraining _ _).trans (event_next ?_), ?_⟩
  · simpa [h, and_assoc] using hf
  cases hx : ((List.range 8).map fun k => (k, trainBridge found k)).find? fun r => !r.2.trained with
  | none =>
    have hall : ∀ k < 8, ¬ fails k := by simpa [List.find?_eq_none, trainBridge_trained, fails] using hx
    exact ⟨hlinks, fun _ => ⟨⟨rfl, rfl⟩, rfl⟩, fun ⟨k, hk, h⟩ => absurd h (hall k hk), rfl⟩
  | some r =>
    obtain ⟨k, hk, rfl⟩ := List.mem_map.1 (List.mem_of_find?_eq_some hx)
    have hfails : fails k := by
      have := List.find?_some hx
      rw [Bool.not_eq_true'] at this
      exact not_not.1 fun h => Bool.false_ne_true (this.symm.trans ((trainBridge_trained found k).2 h))
    refine ⟨?_, fun h => absurd hfails (h k (List.mem_range.1 hk)), fun _ => ⟨goFatal_fatal _ _, k, List.mem_range.1 hk, hfails, ?_⟩, goFatal_mem _ _⟩
    · rw [goFatal_board]
      exact hlinks
    · rw [goFatal_board]
      rfl

/-! ### Training instances (R40) -/

/-- The channels left once the copies on the first k stacks run. -/
def leftAfter (k : Nat) : List Nat := trainOrder.filter fun x => decide (x % 32 ≠ 0 ∨ k ≤ x / 32)

theorem leftAfter_next {k : Nat} (hk : k < 8) :
    (leftAfter k).find? (fun ch => !((List.range k).map (32 * ·)).any fun x => x / 32 = ch / 32) = some (32 * k) ∧
    (leftAfter k).filter (fun x => x ≠ 32 * k) = leftAfter (k + 1) := by
  interval_cases k <;> exact ⟨by decide +kernel, by decide +kernel⟩

theorem leftAfter_eight : (leftAfter 8).length = 376 := by decide +kernel

/-- The launch of the first k copies: each has its channel, the service frets from k on are idle, and each copy's task is loading. -/
structure TrainsBegun (s : State) (k : Nat) : Prop where
  channels : s.mem.train.map Train.ch = (List.range k).map (32 * ·)
  left : s.mem.trainLeft = leftAfter k
  idle : ∀ pf < 8, k ≤ pf → (s.fret pf).st = .service ∧ (s.fret pf).owner = none
  loading : ∀ r ∈ s.mem.train, TaskIs s r.task fun t => t.svc = true ∧ t.st = .loading

theorem selectFor_fret (s : State) (p : Placement) (pf : Nat) : (s.selectFor p).fret pf = s.fret pf := by
  simp [State.fret]

theorem makePlacement_fret_ne {s : State} {t : Task} {img : Option Img} {es : List Bool} {i f pf n : Nat} (h : n ≠ pf) :
    (s.makePlacement t img es i [(f, pf)]).fret n = s.fret n := by
  rw [State.makePlacement, selectFor_fret]
  exact (State.fret_modFret s pf n fun fr => fr.make img (plKey t.num i) f (s.caches t.cfgid f pf)).trans (if_neg h)

/-- The next copy goes to a fret of the service cluster. -/
theorem nextTrain_fret {s : State} {ch pf : Nat} (h : s.nextTrain = some (ch, pf)) : pf < 8 := by
  unfold State.nextTrain at h
  split at h
  · cases h
  · split at h
    next hpf _ =>
      cases h
      exact List.mem_range.1 (List.mem_of_find?_eq_some hpf)
    next => cases h

theorem nextTrain_spec {s : State} {k : Nat} (hk : k < 8) (h : TrainsBegun s k) : ∃ pf ≤ k, s.nextTrain = some (32 * k, pf) := by
  have hlen : s.mem.train.length = k := by simpa using congrArg List.length h.channels
  have hch : (s.mem.trainLeft.find? fun ch => !s.mem.train.any fun t => decide (t.ch / 32 = ch / 32)) = some (32 * k) := by
    have hany : ∀ ch, (s.mem.train.any fun t => decide (t.ch / 32 = ch / 32)) = (s.mem.train.map Train.ch).any fun x => decide (x / 32 = ch / 32) :=
      fun ch => by rw [List.any_map]; rfl
    simp only [hany, h.channels, h.left]
    exact (leftAfter_next hk).1
  obtain ⟨hst, hown⟩ := h.idle k hk le_rfl
  cases hpf : (List.range 8).find? fun pf => decide ((s.fret pf).st = .service) && (s.fret pf).owner.isNone with
  | none => simpa [hst, hown] using List.find?_eq_none.1 hpf k (List.mem_range.2 hk)
  | some pf =>
    refine ⟨pf, not_lt.1 fun hlt => ?_, ?_⟩
    · have hfirst := List.find?_range_eq_some.1 hpf
      simpa [hst, hown] using hfirst.2.2 k hlt
    · simp only [State.nextTrain, hlen, not_le.2 hk, if_false, hpf, hch]

theorem makePlacement_sched (s : State) (t : Task) (img : Option Img) (es : List Bool) (i : Nat) (m : List (Nat × Nat)) :
    (s.makePlacement t img es i m).sched = s.sched := by simp

theorem launchTrain_mem (s : State) (ch pf : Nat) : (s.launchTrain ch pf).mem = { s.mem with
    train := s.mem.train ++ [⟨ch, s.freeNum s.sched.lastTask 4097⟩], trainLeft := s.mem.trainLeft.filter fun x => x ≠ ch } := by
  unfold State.launchTrain
  dsimp only
  split <;> simp

theorem launchTrain_fret_ne {s : State} {ch pf n : Nat} (h : n ≠ pf) : (s.launchTrain ch pf).fret n = s.fret n := by
  unfold State.launchTrain
  dsimp only
  split
  · rfl
  · rw [makePlacement_fret_ne h]
    rfl

theorem launchTrain_board (s : State) (ch pf : Nat) : ∃ d, (s.launchTrain ch pf).board = { s.board with svcDigests := d } := by
  unfold State.launchTrain
  dsimp only
  split
  · exact ⟨_, rfl⟩
  · exact ⟨_, (State.makePlacement_keeps _ _ _ _ _ _).1⟩

theorem launchTrain_taskIs {s : State} {ch pf n : Nat} (h : n = s.freeNum s.sched.lastTask 4097 ∨ TaskIs s n fun t => t.svc = true ∧ t.st = .loading) :
    TaskIs (s.launchTrain ch pf) n fun t => t.svc = true ∧ t.st = .loading := by
  unfold State.launchTrain
  dsimp only
  split
  · exact taskIs_setTask ⟨rfl, rfl⟩ h
  · rw [taskIs_of_sched (makePlacement_sched _ _ _ _ _ _)]
    exact taskIs_setTask ⟨rfl, rfl⟩ h

theorem trainsBegun_launchTrain {s : State} {k pf : Nat} (hk : k < 8) (hpf : pf ≤ k) (h : TrainsBegun s k) :
    TrainsBegun (s.launchTrain (32 * k) pf) (k + 1) where
  channels := by rw [launchTrain_mem, List.map_append, h.channels, List.range_succ, List.map_append]; rfl
  left := by rw [launchTrain_mem, h.left]; exact (leftAfter_next hk).2
  idle n hn hle := by rw [launchTrain_fret_ne (by omega)]; exact h.idle n hn (by omega)
  loading r hr := by
    rw [launchTrain_mem] at hr
    obtain hr | rfl := by simpa using hr
    · exact launchTrain_taskIs (.inr (h.loading r hr))
    · exact launchTrain_taskIs (.inl rfl)

theorem trainsBegun_launchTrains {s : State} {k : Nat} (n : Nat) (hk : k + n = 8) (h : TrainsBegun s k) : TrainsBegun (s.launchTrains n) 8 := by
  induction n generalizing s k with
  | zero => obtain rfl : k = 8 := hk; exact h
  | succ n ih =>
    obtain ⟨pf, hpf, hnext⟩ := nextTrain_spec (by omega) h
    rw [State.launchTrains, hnext]
    exact ih (by omega) (trainsBegun_launchTrain (by omega) hpf h)

/-- Launches leave the board but for the digests, and every fret beyond the service cluster. -/
theorem launchTrains_leaves (s : State) (n : Nat) :
    (∃ d, (s.launchTrains n).board = { s.board with svcDigests := d }) ∧ ∀ pf, 8 ≤ pf → (s.launchTrains n).fret pf = s.fret pf := by
  induction n generalizing s with
  | zero => exact ⟨⟨_, rfl⟩, fun _ _ => rfl⟩
  | succ n ih =>
    rw [State.launchTrains]
    split
    next ch pf hnext =>
      obtain ⟨⟨d, hd⟩, hfr⟩ := ih (s.launchTrain ch pf)
      obtain ⟨e, he⟩ := launchTrain_board s ch pf
      refine ⟨⟨d, by rw [hd, he]⟩, fun n hn => ?_⟩
      rw [hfr n hn, launchTrain_fret_ne]
      have := nextTrain_fret hnext
      omega
    next => exact ⟨⟨_, rfl⟩, fun _ _ => rfl⟩

/-! ### The phases -/

theorem hubSecurityBoot_next {s : State} {f : FwImage} (h : s.inPhase 1 = true) (hg : s.board.pwrGood = false) (hf : s.board.flash = some f) :
    ∃ t, exec .hubSecurityBoot s = .next t ∧ (BoardOnly s t ∧ t.board.pwrGood = true ∧
      (if sigHolds (shake256 f.body) f.sig = true ∧ s.board.fuseVersion ≤ f.secVersion then Enters s t 2 ∧ t.board.booted = shake256 f.body
        else t.board.phase = 1 ∧ t.board.cause = .bootsig ∧ t.board.alert = true)) := by
  refine ⟨_, (exec_hubSecurityBoot _).trans (event_next (by rw [h, hg]; rfl)), ?_⟩
  have hphase : s.board.phase = 1 := by
    simp only [State.inPhase, Bool.and_eq_true, decide_eq_true_eq] at h
    exact h.1
  rw [hf]
  dsimp only
  by_cases hok : sigHolds (shake256 f.body) f.sig = true ∧ s.board.fuseVersion ≤ f.secVersion
  · rw [if_pos (show fwAccepted f s.board.fuseVersion = true by simp [fwAccepted, hok]), if_pos hok]
    exact ⟨rfl, rfl, ⟨rfl, rfl⟩, rfl⟩
  · rw [if_neg (show ¬ fwAccepted f s.board.fuseVersion = true by simpa [fwAccepted] using hok), if_neg hok]
    exact ⟨rfl, rfl, hphase, rfl, rfl⟩

/-- The state of the machine after a self-test that found these frets defective. -/
def State.tested (s : State) (defective : List Nat) : State :=
  defective.foldl (fun s pf => s.modFret pf fun f => { f with st := .defect }) (s.setBoard fun b => { b with defects := defective.foldl nsAdd [] })

theorem tested_board (s : State) (defective : List Nat) : (s.tested defective).board = { s.board with defects := defective.foldl nsAdd [] } := by
  simp [State.tested]

theorem tested_mem (s : State) (defective : List Nat) : (s.tested defective).mem = s.mem := by
  simp [State.tested]

theorem tested_clock (s : State) (defective : List Nat) : (s.tested defective).clock = s.clock := by
  simp [State.tested, State.setBoard]

theorem foldl_defect_fret (l : List Nat) (s : State) (n : Nat) :
    (l.foldl (fun s pf => s.modFret pf fun f => { f with st := .defect }) s).fret n =
      if n ∈ l then { s.fret n with st := .defect } else s.fret n := by
  induction l generalizing s with
  | nil => rfl
  | cons k l ih =>
    rw [List.foldl_cons, ih, State.fret_modFret]
    by_cases hk : n = k
    · subst hk; simp
    · simp [hk]

theorem tested_fret (s : State) (defective : List Nat) (n : Nat) :
    (s.tested defective).fret n = if n ∈ defective then { s.fret n with st := .defect } else s.fret n :=
  foldl_defect_fret defective _ n

/-- No copy runs, and these channels' are to be launched. -/
def State.withTrains (s : State) (left : List Nat) : State := { s with mem := { s.mem with train := [], trainLeft := left } }

theorem beginTraining_eq (s : State) : s.beginTraining = State.launchTrains 8 (s.withTrains trainOrder) := rfl

theorem leftAfter_zero : leftAfter 0 = trainOrder := List.filter_eq_self.2 fun x _ => by simp

theorem fretSelfTest_next {s : State} {defective : List Nat} (h : s.inPhase 3 = true) (hd : ∀ pf ∈ defective, pf < 4096) :
    ∃ t, exec (.fretSelfTest defective) s = .next t ∧ (
    (∀ pf, nsHas t.board.defects pf = decide (pf ∈ defective)) ∧ (∀ pf ∈ defective, (t.fret pf).st = .defect) ∧
    (if (∀ pf ∈ defective, 8 ≤ pf) ∧ (List.range 384).all (fun ch => svcAccepted (s.board.trainingImage ch)) = true then
        Enters s t 4 ∧ (s.fab = Fab.reset → s.sched = Sched.reset →
          t.mem.train.map Train.ch = [0, 32, 64, 96, 128, 160, 192, 224] ∧ t.mem.trainLeft.length = 376 ∧
          ∀ r ∈ t.mem.train, TaskIs t r.task (fun k => k.svc = true ∧ k.st = .loading))
      else Fatal t .svcfail ∧ t.mem = s.mem)) := by
  have hrun : exec (.fretSelfTest defective) s = .next (if defective.all (fun pf => 8 ≤ pf) && s.board.trainingAccepted
      then ((s.tested defective).toPhase 4).beginTraining else (s.tested defective).goFatal .svcfail) :=
    (exec_fretSelfTest _ _).trans (event_next (by simpa [h] using hd))
  have hok : (defective.all (fun pf => 8 ≤ pf) && s.board.trainingAccepted) = true ↔
      (∀ pf ∈ defective, 8 ≤ pf) ∧ (List.range 384).all (fun ch => svcAccepted (s.board.trainingImage ch)) = true := by
    rw [Bool.and_eq_true, List.all_eq_true, Board.trainingAccepted]
    simp only [decide_eq_true_eq]
  have hdefects : ∀ pf, nsHas (defective.foldl nsAdd []) pf = decide (pf ∈ defective) := fun pf => by
    rw [nsHas_foldl_nsAdd]
    rfl
  refine ⟨_, hrun, ?_⟩
  split
  next hgo =>
    replace hgo := hok.1 hgo
    rw [if_pos hgo]
    obtain ⟨⟨d, hboard⟩, hfar⟩ := launchTrains_leaves (((s.tested defective).toPhase 4).withTrains trainOrder) 8
    refine ⟨fun pf => ?_, fun pf hpf => ?_, ⟨?_, ?_⟩, fun hfab _ => ?_⟩
    · rw [beginTraining_eq, hboard]
      exact (congrArg (fun b => nsHas b.defects pf) (tested_board s defective)).trans (hdefects pf)
    · rw [beginTraining_eq, hfar pf (hgo.1 pf hpf)]
      exact (congrArg Fret.st (tested_fret s defective pf)).trans (by rw [if_pos hpf])
    · rw [beginTraining_eq, hboard]
      rfl
    · rw [beginTraining_eq, hboard]
      exact congrArg Clock.ns (tested_clock s defective)
    · have hbegun : TrainsBegun (((s.tested defective).toPhase 4).withTrains trainOrder) 0 := by
        refine ⟨rfl, leftAfter_zero.symm, fun pf hpf _ => ?_, fun r hr => absurd hr List.not_mem_nil⟩
        have hnot : pf ∉ defective := fun hm => absurd (hgo.1 pf hm) (by omega)
        change ((s.tested defective).fret pf).st = .service ∧ ((s.tested defective).fret pf).owner = none
        rw [tested_fret, if_neg hnot, State.fret, hfab]
        simp [Fab.reset, tgetD, tget, Fret.fresh, hpf]
      obtain ⟨hch, hleft, -, hload⟩ := trainsBegun_launchTrains 8 rfl hbegun
      rw [beginTraining_eq]
      exact ⟨hch, hleft ▸ leftAfter_eight, hload⟩
  next hgo =>
    rw [if_neg (mt hok.2 hgo)]
    refine ⟨?_, fun pf hpf => ?_, goFatal_fatal _ _, ?_⟩
    · rw [goFatal_board, tested_board]; exact hdefects
    · rw [goFatal_fret, tested_fret, if_pos hpf]
    · rw [goFatal_mem, tested_mem]

theorem endTraining_eq (s : State) : s.endTraining = { s with
    board := { s.board with chstEnd := s.endTraining.board.chstEnd }
    mem := { s.mem with withheld := ((List.range 384).filter fun ch => decide ((s.phy ch).chst ≠ 1)).map fun ch => (ch, ()) } } := rfl

theorem trainedOn_eq_zero (s : State) (d : Nat) : s.trainedOn d = 0 ↔ s.mem.phy.all (fun r => r.1 / 96 ≠ d || r.2.chst ≠ 1) = true := by
  simp only [State.trainedOn, List.length_eq_zero_iff, List.filter_eq_nil_iff, List.all_eq_true]
  simp [or_comm, imp_iff_not_or]

theorem hbmTrainingPhaseEnd_next {s : State} (h : s.inPhase 4 = true) (ht : s.mem.train = []) (hl : s.mem.trainLeft = []) :
    ∃ t, exec .hbmTrainingPhaseEnd s = .next t ∧ (
    (∀ ch < 384, nsHas t.mem.withheld ch = decide ((s.phy ch).chst ≠ 1)) ∧ t.mem = { s.mem with withheld := t.mem.withheld } ∧
    if (List.range 4).any (fun d => s.mem.phy.all (fun r => r.1 / 96 ≠ d || r.2.chst ≠ 1)) then Fatal t .hbmall
    else Enters s t 7 ∧ t.board.portsSince = some s.clock.ns) := by
  have hrun : exec .hbmTrainingPhaseEnd s = .next (if (List.range 4).any (fun d => s.trainedOn d = 0) then s.endTraining.goFatal .hbmall
      else (s.endTraining.toPhase 7).setBoard fun b => { b with portsSince := some s.clock.ns }) :=
    (exec_hbmTrainingPhaseEnd _).trans (event_next (by rw [h, ht, hl]; rfl))
  have hnone : (List.range 4).any (fun d => s.trainedOn d = 0) = (List.range 4).any fun d => s.mem.phy.all fun r => r.1 / 96 ≠ d || r.2.chst ≠ 1 := by
    congr 1
    funext d
    rw [Bool.eq_iff_iff, decide_eq_true_eq, trainedOn_eq_zero]
  have hheld : ∀ ch < 384, nsHas s.endTraining.mem.withheld ch = decide ((s.phy ch).chst ≠ 1) := fun ch hch => by
    rw [endTraining_eq, nsHas_map]
    simp [hch]
  refine ⟨_, hrun, ?_⟩
  rw [← hnone]
  split
  · rw [goFatal_mem]
    exact ⟨hheld, rfl, goFatal_fatal _ _⟩
  · exact ⟨hheld, rfl, ⟨rfl, rfl⟩, rfl⟩

theorem dispatcherStart_next {s : State} (h : s.inPhase 7 = true) : ∃ t, exec .dispatcherStart s = .next t ∧ (t.mem = s.mem ∧ t.fab = s.fab ∧
    if svcAccepted s.board.dispatcherImage = true then Enters s t 8 ∧ t.sched.dispatching = true else Fatal t .svcfail) := by
  refine ⟨_, (exec_dispatcherStart _).trans (event_next h), ?_⟩
  split
  · exact ⟨rfl, rfl, ⟨rfl, rfl⟩, rfl⟩
  · exact ⟨goFatal_mem _ _, goFatal_fab _ _, goFatal_fatal _ _⟩

theorem phaseTimeout_next {s : State} {p limit : Nat} {c : Cause} (hl : phaseLimit p = some (limit, c)) (hp : s.board.phase = p)
    (ht : s.board.phaseSince + limit ≤ s.clock.ns) (h1 : p = 1 → s.board.pwrGood = false) :
    ∃ t, exec .phaseTimeout s = .next t ∧ (Fatal t c ∧ t.mem = s.mem) := by
  have hrun : exec .phaseTimeout s = .next (s.goFatal c) := by
    refine (exec_phaseTimeout _).trans ?_
    rw [execPhaseTimeout, hp, hl]
    refine event_next ?_
    rw [decide_eq_true ht]
    by_cases hp1 : p = 1
    · simp [h1 hp1]
    · simp [hp1]
  exact ⟨_, hrun, goFatal_fatal _ _, goFatal_mem _ _⟩

/-- Settles O24: one lemma for each gating phase. -/
theorem powerUpEvents : Obligations.PowerUpEvents := by
  intro s
  refine ⟨fun f h hg hf => hubSecurityBoot_next (inPhase_of rfl h) hg hf, fun found h hf => bridgeLinkTraining_next (inPhase_of rfl h) hf,
    fun d h hd => fretSelfTest_next (inPhase_of rfl h) hd, fun h ht hl => hbmTrainingPhaseEnd_next (inPhase_of rfl h) ht hl,
    fun h => dispatcherStart_next (inPhase_of rfl h), fun p limit cause hc hp ht h1 => ?_, fun hp ht => ?_⟩
  · refine phaseTimeout_next ?_ hp ht h1
    simp only [List.contains_iff_mem, List.mem_cons, List.not_mem_nil, or_false, Prod.mk.injEq] at hc
    obtain ⟨rfl, rfl, rfl⟩ | ⟨rfl, rfl, rfl⟩ | ⟨rfl, rfl, rfl⟩ | ⟨rfl, rfl, rfl⟩ | ⟨rfl, rfl, rfl⟩ := hc <;> rfl
  · exact ⟨_, (exec_heartbeatWatchdog _).trans (event_next (by rw [hp, decide_eq_true ht]; rfl)), rfl⟩

end Sys2Proof.Machine
end

section
/-!
PROOFS. The power manager, the thermal sensors, the patrol scrub, the links and the device identifier (R12, R15, R17, R18, R21 to R24, R26, R27, R30):
obligations O25 and O26.
-/
namespace Sys2Proof.Machine

/-! ### Clock steps and sensors (R26, R27) -/

theorem clockStep_of {c : Nat} (hlo : 1200 ≤ c) (hhi : c ≤ 2700) (hm : c % 50 = 0) : clockStep c = true := by
  simp [clockStep, hlo, hhi, hm]

theorem any_of_tget {α : Type} {t : Tab α} {n : Nat} {v : α} {p : Nat × α → Bool} (h : tget t n = some v) (hp : p (n, v) = true) : t.any p = true := by
  induction t with
  | nil => cases h
  | cons r t ih =>
    obtain ⟨k, w⟩ := r
    rw [tget] at h
    rw [List.any_cons]
    split at h
    next hk =>
      subst hk
      obtain rfl := Option.some.inj h
      rw [hp, Bool.true_or]
    next => rw [ih h, Bool.or_true]

theorem hot_of_die {b : Board} {sensor temp : Nat} (hs : sensor < 5) (ht : 800 < temp) : (b.sense sensor temp).hot = true := by
  rw [Board.sense, if_pos hs, Board.hot, any_of_tget (tget_tput_same b.dieTemp sensor temp) (decide_eq_true ht), Bool.true_or]

theorem hot_of_stack {b : Board} {sensor temp : Nat} (hs : 5 ≤ sensor) (ht : 760 < temp) : (b.sense sensor temp).hot = true := by
  rw [Board.sense, if_neg (not_lt.2 hs), Board.hot]
  exact Bool.or_eq_true_iff.2 (.inr (any_of_tget (tget_tput_same b.stackTemp (sensor - 5) temp) (decide_eq_true ht)))

theorem sense_clk (b : Board) (sensor temp : Nat) : (b.sense sensor temp).clk = b.clk := by
  unfold Board.sense
  split <;> rfl

/-- The board after a sensor crosses a threshold: a hot sensor asks for a lower clock. -/
def Board.warned (b : Board) (now : Nat) : Board :=
  if b.hot && 1200 < b.clk then { b with clkNext := some (b.clk - 50), clkSince := now } else b

theorem warned_sensors (b : Board) (now : Nat) :
    (b.warned now).dieTemp = b.dieTemp ∧ (b.warned now).stackTemp = b.stackTemp ∧ (b.warned now).hotStacks = b.hotStacks := by
  unfold Board.warned
  split <;> exact ⟨rfl, rfl, rfl⟩

theorem warned_clkNext {b : Board} {now : Nat} (hot : b.hot = true) (hclk : 1200 < b.clk) : (b.warned now).clkNext = some (b.clk - 50) := by
  rw [Board.warned, if_pos (by rw [hot, decide_eq_true hclk]; rfl)]

theorem thermalThreshold_next {s : State} {sensor temp : Nat} (ha : s.board.aux = true) (hs : sensor < 17) (ht : temp ≤ 880) :
    ∃ t, exec (.thermalThreshold sensor temp) s = .next t ∧ (BoardOnly s t ∧
    (sensor < 5 → tget t.board.dieTemp sensor = some temp ∧ (800 < temp → 1200 < s.board.clk → t.board.clkNext = some (s.board.clk - 50))) ∧
    (5 ≤ sensor → tget t.board.stackTemp (sensor - 5) = some temp ∧ nsHas t.board.hotStacks (sensor - 5) = decide (760 < temp) ∧
      (760 < temp → 1200 < s.board.clk → t.board.clkNext = some (s.board.clk - 50)))) := by
  have hrun : exec (.thermalThreshold sensor temp) s = .next { s with board := (s.board.sense sensor temp).warned s.clock.ns } :=
    (exec_thermalThreshold _ _ _).trans (event_next (by simp [ha, hs, ht]))
  obtain ⟨hdie, hstack, hhot⟩ := warned_sensors (s.board.sense sensor temp) s.clock.ns
  refine ⟨_, hrun, rfl, fun h5 => ⟨?_, fun h8 hclk => ?_⟩, fun h5 => ⟨?_, ?_, fun h7 hclk => ?_⟩⟩ <;> dsimp only
  · rw [hdie, Board.sense, if_pos h5]; exact tget_tput_same _ _ _
  · rw [warned_clkNext (hot_of_die h5 h8) (by rwa [sense_clk]), sense_clk]
  · rw [hstack, Board.sense, if_neg (not_lt.2 h5)]; exact tget_tput_same _ _ _
  · rw [hhot, Board.sense, if_neg (not_lt.2 h5)]
    by_cases h7 : 760 < temp <;> simp [h7]
  · rw [warned_clkNext (hot_of_stack h5 h7) (by rwa [sense_clk]), sense_clk]

/-- Settles O25: the power manager's cases, a hot sensor, and a line visited. -/
theorem powerAndScrubEvents : Obligations.PowerAndScrubEvents := by
  intro s
  refine ⟨fun w hg hf hh hw hd hlo hhi hm hle => ?_, fun w hg hf hw hc hs hd => ?_, fun w hg hf hw hlo hlt hhi hm => ?_,
    fun w hg hf hh hw hd hlo hhi hm hs => ?_, fun c hc => ?_, fun sensor temp => thermalThreshold_next, fun line hg hb => ?_⟩
  · refine ⟨_, (exec_powerEvaluation _ _).trans (event_next ?_), rfl, ?_, rfl⟩
    · simp [hg, hf, hh, not_lt.2 hw, hd, clockStep_of hlo hhi hm, hle]
    · simp [State.setBoard, not_lt.2 hw, hd]
  · refine ⟨_, (exec_powerEvaluation _ _).trans (event_next ?_), rfl, ?_, ?_⟩
    · simp [hg, hf, hw, hc, hs, clockStep]
    · simp [State.setBoard, hw, hc, Nat.succ_le_of_lt hd]
    · simp [State.setBoard, hc, hs]
  · have hclk : 1200 < s.board.clk := hlo.trans_lt hlt
    refine ⟨_, (exec_powerEvaluation _ _).trans (event_next ?_), rfl, ?_, ?_⟩
    · simp [hg, hf, hw, hclk, hlt, clockStep_of hlo hhi hm]
    · simp [State.setBoard, hw, hclk.ne']
    · simp [State.setBoard, hlt.ne]
  · refine ⟨_, (exec_powerEvaluation _ _).trans (event_next ?_), rfl, ?_, ?_⟩
    · simp [hg, hf, hh, not_lt.2 hw, hd, hs, clockStep_of hlo hhi hm]
    · simp [State.setBoard, not_lt.2 hw]
    · simp [State.setBoard, hs]
  · exact ⟨_, (exec_clockChange _).trans (by rw [execClockChange, hc]; rfl), rfl⟩
  · refine ⟨_, (exec_patrolScrubVisit _ _ _).trans (event_next (by rw [hg, hb, decide_eq_true rfl]; rfl)), ?_⟩
    cases hfl : tget s.mem.flaws line with
    | none => simp [Mem.checkHbm, hfl]
    | some n =>
      by_cases h1 : n ≤ 1
      · simp [Mem.checkHbm, hfl, h1]
      · simp [Mem.checkHbm, hfl, h1]

/-! ### Links (R12, R17, R18, R21 to R24, R30) -/

theorem portsOn_of {b : Board} (hg : b.pwrGood = true) (hf : b.fatal = false) (hp : b.portsSince.isSome = true) : b.portsOn = true := by
  rw [Board.portsOn, hg, hf, hp]; rfl

theorem writeDevId_spec (b : Board) (v : BitVec 20) (now : Nat) :
    if b.ports.any (fun r => r.2.up && r.2.data) then b.writeDevId v now = b else (b.writeDevId v now).devId = v := by
  unfold Board.writeDevId
  split
  · rfl
  · split_ifs with h
    · exact h.symm
    all_goals rfl

theorem bridgeFlit_next {s : State} {link : Nat} {b : Bridge} {ok : Bool} (hb : tget s.board.bridges link = some b) (ht : b.trained = true)
    (hg : s.board.pwrGood = true) (hf : s.board.fatal = false) : ∃ t, exec (.bridgeFlitCrcFail link ok) s = .next t ∧ (
      if s.subject = 0 then BoardOnly s t ∧ tget t.board.bridges link = some { b with retries := 1, retrained := false }
      else if b.retries < 16 then BoardOnly s t ∧ tget t.board.bridges link = some { b with retries := b.retries + 1 }
      else if ok = true ∧ b.retrained = false then BoardOnly s t ∧ tget t.board.bridges link = some { b with retries := 0, retrained := true }
      else Fatal t .bridge ∧ t.board.badLink = some link) := by
  have hrun := exec_bridgeFlitCrcFail s link ok
  rw [execBridgeFlitCrcFail, hb] at hrun
  split
  next h0 =>
    simp only [h0, if_true] at hrun
    exact ⟨_, hrun.trans (event_next (by rw [ht, hg, hf]; rfl)), rfl, tget_tput_same _ _ _⟩
  next h0 =>
    simp only [h0, if_false] at hrun
    refine ⟨_, hrun.trans (event_next (by rw [ht, hg, hf]; rfl)), ?_⟩
    by_cases hlt : b.retries < 16
    · rw [if_pos hlt, if_pos (Nat.succ_le_of_lt hlt)]
      exact ⟨rfl, tget_tput_same _ _ _⟩
    · rw [if_neg hlt, if_neg (mt Nat.lt_of_succ_le hlt)]
      by_cases hok : ok = true ∧ b.retrained = false
      · rw [if_pos hok, if_pos (by rw [hok.1, hok.2]; rfl)]
        exact ⟨rfl, tget_tput_same _ _ _⟩
      · rw [if_neg hok, if_neg (by simpa using hok)]
        exact ⟨goFatal_fatal _ _, by rw [goFatal_board]; rfl⟩

theorem folgarFlit_next {s : State} {port : Nat} {flit : List Byte} (hp : s.board.portsOn = true) (h24 : port < 24) (hlen : flit.length = 256)
    (hup : (s.board.port port).up = true) (hdata : (s.board.port port).data = true) :
    let expected := tgetD (s.board.port port).rx (flitVc flit) 0
    ∃ t, exec (.folgarFlitReceive port (flitVc flit) flit) s = .next t ∧ (BoardOnly s t ∧
      if flitSound flit = true ∧ flitVc flit < 8 ∧ flitSeq flit = expected then
        tgetD (t.board.port port).rx (flitVc flit) 0 = (expected + 1) % 2 ^ 24 ∧
        t.board.folgarIn = if s.board.takesFlit flit then s.board.folgarIn ++ [(port, flitVc flit, flit)] else s.board.folgarIn
      else t.board = { s.board with folgarRetry := s.board.folgarRetry + 1 }) := by
  intro expected
  refine ⟨_, (exec_folgarFlitReceive _ _ _ _).trans (event_next ?_), ?_⟩
  · simp [hp, h24, hlen, hup, hdata]
  split
  next hdue =>
    rw [if_pos (by simpa [and_assoc] using hdue)]
    refine ⟨rfl, ?_, rfl⟩
    simp [State.setBoard, Board.port, Board.setPort, expected]
  next hdue =>
    rw [if_neg (by simpa [and_assoc] using hdue)]
    exact ⟨rfl, rfl⟩

theorem ptpSync_next {s : State} {offset steer : Int} (hp : s.board.portsOn = true) (hsize : steer.natAbs ≤ offset.natAbs)
    (hdir : 0 ≤ offset ∧ steer ≤ 0 ∨ offset ≤ 0 ∧ 0 ≤ steer) : ∃ t, exec (.ptpSync ⟨offset, steer⟩) s = .next t ∧ (
      t = { s with board := t.board, clock := { s.clock with ptpNs := ((s.clock.ptpNs : Int) + steer).toNat } } ∧
      t.board.ptpGood = (if offset.natAbs < 20 then min 16 (s.board.ptpGood + 1) else 0) ∧
      t.board.ptpLock = (if 50 < offset.natAbs then false else s.board.ptpLock || (decide (offset.natAbs < 20) && decide (15 ≤ s.board.ptpGood)))) := by
  refine ⟨_, (exec_ptpSync _ _).trans (event_next (by simpa [hp, hsize] using hdir)), rfl, ?_, ?_⟩
  · by_cases h : offset.natAbs < 20 <;> simp [h]
  · by_cases h : offset.natAbs < 20 <;> simp [h]

/-- Settles O26: the host link, the bridge links, the Folgar ports, the PTP lock and the device identifier in turn. -/
theorem linkEvents : Obligations.LinkEvents := by
  intro s
  refine ⟨fun rate width cxl hg hf hpe hh hl h7 hr hw hc hm => ?_, fun link b ok => bridgeFlit_next, fun port mode a hg hf hp ha hle h24 hup htr hid => ?_,
    fun a hg hf hp ha hle h24 hup htr => ?_, fun port flit hg hf hp => folgarFlit_next (portsOn_of hg hf hp),
    fun offset steer hg hf hp => ptpSync_next (portsOn_of hg hf hp), fun v ha => ?_⟩
  · refine ⟨_, (exec_hostLinkTrained _ _ _ _).trans (event_next ?_), rfl, rfl, rfl, rfl, rfl, rfl⟩
    have hfit : linkFits rate width cxl = true := by
      cases cxl with
      | false => simp [linkFits, List.contains_iff_mem, hr, hw]
      | true => simp [linkFits, List.contains_iff_mem, hr, hw, hc rfl]
    have hmode : (!s.board.modeSettled || decide (cxl = s.board.cxl)) = true := by
      cases hset : s.board.modeSettled with
      | false => rfl
      | true => simp [hm hset]
    simp [hg, hf, hpe, hh, hl, h7, hfit, hmode]
  · have hres : reservedId s.board.devId.toNat = false := by
      by_contra h
      simp only [reservedId, Bool.not_eq_false, Bool.and_eq_true, decide_eq_true_eq] at h
      have := congrArg BitVec.toNat (hid h.1)
      simp at this
      omega
    refine ⟨_, (exec_folgarPortTrained _ _ _).trans (event_next ?_), rfl, ?_⟩
    · rw [portsOn_of hg hf hp, ha, hup, htr, hres, decide_eq_true h24, Option.map_some, Option.getD_some, decide_eq_true hle]; rfl
    · cases mode <;> simp [State.setBoard, Board.port, Board.setPort, assignable, portMode]
  · refine ⟨_, (exec_folgarTrainingTimeout _).trans (event_next ?_), rfl, ?_⟩
    · rw [portsOn_of hg hf hp, ha, hup, htr, decide_eq_true h24, Option.map_some, Option.getD_some, decide_eq_true hle]; rfl
    · simp [State.setBoard, Board.port, Board.setPort, Port.down]
  · refine ⟨_, (exec_deviceIdWrite _ _).trans (event_next ha), rfl, ?_⟩
    have h := writeDevId_spec s.board v s.clock.ns
    split
    next hany =>
      rw [if_pos hany] at h
      exact congrArg (fun b => { s with board := b }) h
    next hany =>
      rw [if_neg hany] at h
      exact h

end Sys2Proof.Machine
end

section
/-!
PROOFS. The Epurn port (R34, R36, R46): obligation O27.
-/
namespace Sys2Proof.Machine

/-! ### Words made of digits -/

/-- The sum of n digits to base b. -/
def digitSum (b : Nat) (d : Nat → Nat) (n : Nat) : Nat := ((List.range n).map fun k => b ^ k * d k).foldl (· + ·) 0

theorem digitSum_succ (b : Nat) (d : Nat → Nat) (n : Nat) : digitSum b d (n + 1) = digitSum b d n + b ^ n * d n := by
  simp [digitSum, List.range_succ]

theorem digitSum_spec {b : Nat} {d : Nat → Nat} (hd : ∀ k, d k < b) (n : Nat) : digitSum b d n < b ^ n ∧ ∀ k < n, digitSum b d n / b ^ k % b = d k := by
  have hb : 0 < b := (Nat.zero_le _).trans_lt (hd 0)
  induction n with
  | zero => exact ⟨by simp [digitSum], fun k hk => absurd hk (Nat.not_lt_zero k)⟩
  | succ n ih =>
    obtain ⟨hlt, hdig⟩ := ih
    rw [digitSum_succ]
    refine ⟨?_, fun k hk => ?_⟩
    · calc digitSum b d n + b ^ n * d n < b ^ n + b ^ n * d n := Nat.add_lt_add_right hlt _
        _ = b ^ n * (d n + 1) := by ring
        _ ≤ b ^ n * b := Nat.mul_le_mul_left _ (hd n)
        _ = b ^ (n + 1) := (pow_succ b n).symm
    · obtain hk | rfl := Nat.lt_succ_iff_lt_or_eq.1 hk
      · obtain ⟨m, rfl⟩ := Nat.exists_eq_add_of_lt hk
        rw [show b ^ (k + m + 1) * d (k + m + 1) = b ^ k * (b * (b ^ m * d (k + m + 1))) by ring, Nat.add_mul_div_left _ _ (Nat.pow_pos hb),
          Nat.add_mul_mod_self_left]
        exact hdig k hk
      · rw [Nat.add_mul_div_left _ _ (Nat.pow_pos hb), Nat.div_eq_of_lt hlt, Nat.zero_add, Nat.mod_eq_of_lt (hd k)]

/-- The word whose bit k is p k. -/
theorem bitSum_spec (p : Nat → Bool) (n : Nat) :
    let v := ((List.range n).map fun k => if p k then 2 ^ k else 0).foldl (· + ·) 0
    v < 2 ^ n ∧ ∀ k < n, v.testBit k = p k := by
  intro v
  have hv : v = digitSum 2 (fun k => (p k).toNat) n := by
    simp only [v, digitSum]
    congr 1
    refine List.map_congr_left fun k _ => ?_
    cases p k <;> simp
  obtain ⟨hlt, hdig⟩ := digitSum_spec (b := 2) (d := fun k => (p k).toNat) (fun k => Bool.toNat_lt _) n
  rw [hv]
  refine ⟨hlt, fun k hk => ?_⟩
  rw [Nat.testBit_eq_decide_div_mod_eq, hdig k hk]
  cases p k <;> rfl

/-! ### Registers of the Epurn window (R46) -/

theorem epurnRead_next {s : State} (ha : s.board.aux = true) (off : Nat) :
    ∃ t, exec (.epurnReadCommand off) s = .next t ∧ Answers s t (.data (leBytes 4 (s.epReg off))) :=
  ⟨_, (exec_epurnReadCommand _ _).trans (event_next ha), rfl⟩

theorem epurnRead_value {s : State} (ha : s.board.aux = true) {off v : Nat} (hv : s.epReg off = v) :
    ∃ t, exec (.epurnReadCommand off) s = .next t ∧ Answers s t (.data (leBytes 4 v)) :=
  hv ▸ epurnRead_next ha off

theorem epReg_die (s : State) {k : Nat} (hk : k < 5) : s.epReg (0x020 + 4 * k) = tgetD s.board.dieTemp k 0 := by
  interval_cases k <;> simp [State.epReg]

theorem epReg_fport (s : State) {p : Nat} (hp : p < 24) : s.epReg (0x080 + 4 * p) = s.board.fport p := by
  interval_cases p <;> simp [State.epReg]

theorem epReg_defects (s : State) {d : Nat} (hd : d < 4) : s.epReg (0x048 + 4 * d) = s.defects d := by
  interval_cases d <;> simp [State.epReg]

theorem epReg_defectWord (s : State) {off : Nat} (hlo : 0x400 ≤ off) (hhi : off < 0x600) (h4 : off % 4 = 0) :
    s.epReg off = s.board.defectWord (8 * (off - 0x400)) := by
  have hne : ∀ n < 0x400, ¬ off = n := by omega
  have hnle : ∀ n < 0x400, ¬ off ≤ n := by omega
  simp [State.epReg, hne, hnle, hlo, hhi, h4]

theorem epReg_chstWord (s : State) {off : Nat} (hlo : 0x600 ≤ off) (hhi : off < 0x660) (h4 : off % 4 = 0) :
    s.epReg off = s.chstWord (4 * (off - 0x600)) := by
  have hne : ∀ n < 0x600, ¬ off = n := by omega
  have hnle : ∀ n < 0x600, ¬ off ≤ n := by omega
  simp [State.epReg, hne, hnle, not_lt.2 hlo, hlo, hhi, h4]

theorem epReg_beyond (s : State) {off : Nat} (h : 0x660 ≤ off) : s.epReg off = 0 := by
  have hne : ∀ n < 0x660, ¬ off = n := by omega
  have hnle : ∀ n < 0x660, ¬ off ≤ n := by omega
  have hnlt : ∀ n ≤ 0x660, ¬ off < n := by omega
  simp [State.epReg, hne, hnle, hnlt]

theorem minBy_none {α : Type} {key : α → Nat} {l : List α} (h : minBy key l = none) : l = [] := by
  cases l with
  | nil => rfl
  | cons x t =>
    rw [minBy] at h
    split at h
    · cases h
    · split at h <;> cases h

/-- The one stack that is hotter than every other is the hottest. -/
theorem hottest_of_max {b : Board} {n temp : Nat} (hm : (n, temp) ∈ b.stackTemp) (hmax : ∀ r ∈ b.stackTemp, r = (n, temp) ∨ r.2 < temp)
    (ht : temp < 2 ^ 16) : b.hottest = (n, temp) := by
  rw [Board.hottest]
  cases hx : minBy (fun r : Nat × Nat => 2 ^ 16 - r.2) b.stackTemp with
  | none => rw [minBy_none hx] at hm; cases hm
  | some r =>
    obtain ⟨hr, hmin⟩ := minBy_spec _ hx
    obtain rfl | hlt := hmax r hr
    · rfl
    · have := hmin _ hm
      dsimp only at this
      omega

theorem port_up (b : Board) (p : Nat) : (tget b.ports p).any Port.up = (b.port p).up := by
  rw [Board.port, tgetD]
  cases tget b.ports p <;> rfl

theorem fport_eq {b : Board} {p : Nat} (hl : (b.port p).lanes < 4) (hr : (b.port p).rate < 640) : b.fport p =
    if (b.port p).up then 2 ^ 10 * (b.port p).data.toNat + 2 ^ 9 + 2 ^ 6 * (b.port p).lanes + (b.port p).rate / 10 else 0 := by
  rw [Board.port, tgetD] at *
  rw [Board.fport]
  cases h : tget b.ports p with
  | none => rfl
  | some x =>
    rw [h] at hl hr
    rw [Option.getD_some] at *
    dsimp only
    rw [Nat.mod_eq_of_lt hl, Nat.mod_eq_of_lt (show x.rate / 10 < 64 by omega)]

theorem epLink_eq {b : Board} (hr : b.linkRate < 2 ^ 8) (hw : b.linkWidth < 2 ^ 5) :
    b.epLink = b.linkRate + 2 ^ 8 * b.linkWidth + 2 ^ 16 * b.cxl.toNat + 2 ^ 17 * b.hlink.toNat := by
  rw [Board.epLink, Nat.mod_eq_of_lt (show b.linkRate < 256 from hr), Nat.mod_eq_of_lt (show b.linkWidth < 32 from hw)]

theorem epurn_folgTrained {s : State} (ha : s.board.aux = true) : ∃ t, exec (.epurnReadCommand 0x044) s = .next t ∧
    ∃ v, Answers s t (.data (leBytes 4 v)) ∧ v < 2 ^ 24 ∧ ∀ k < 24, v.testBit k = (s.board.port k).up := by
  obtain ⟨t, ht, hans⟩ := epurnRead_next ha 0x044
  obtain ⟨hlt, hbit⟩ := bitSum_spec (fun p => (tget s.board.ports p).any Port.up) 24
  exact ⟨t, ht, _, hans, hlt, fun k hk => (hbit k hk).trans (port_up _ _)⟩

theorem epurn_defectWord {s : State} (ha : s.board.aux = true) {k : Nat} (hk : k < 128) : ∃ t, exec (.epurnReadCommand (0x400 + 4 * k)) s = .next t ∧
    ∃ v, Answers s t (.data (leBytes 4 v)) ∧ v < 2 ^ 32 ∧ ∀ b < 32, v.testBit b = nsHas s.board.defects (32 * k + b) := by
  obtain ⟨t, ht, hans⟩ := epurnRead_value ha (epReg_defectWord s (off := 0x400 + 4 * k) (by omega) (by omega) (by omega))
  rw [show 8 * (0x400 + 4 * k - 0x400) = 32 * k by omega] at hans
  obtain ⟨hlt, hbit⟩ := bitSum_spec (fun b => nsHas s.board.defects (32 * k + b)) 32
  exact ⟨t, ht, _, hans, hlt, hbit⟩

theorem epurn_chstWord {s : State} (ha : s.board.aux = true) {k : Nat} (hk : k < 24) : ∃ t, exec (.epurnReadCommand (0x600 + 4 * k)) s = .next t ∧
    ∃ v, Answers s t (.data (leBytes 4 v)) ∧ v < 2 ^ 32 ∧ ∀ j < 16, v / 4 ^ j % 4 = (s.phy (16 * k + j)).chst % 4 := by
  obtain ⟨t, ht, hans⟩ := epurnRead_value ha (epReg_chstWord s (off := 0x600 + 4 * k) (by omega) (by omega) (by omega))
  rw [show 4 * (0x600 + 4 * k - 0x600) = 16 * k by omega] at hans
  obtain ⟨hlt, hdig⟩ := digitSum_spec (b := 4) (d := fun j => (s.phy (16 * k + j)).chst % 4) (fun j => Nat.mod_lt _ (by norm_num)) 16
  exact ⟨t, ht, _, hans, hlt, hdig⟩

/-! ### Writes, firmware and sensors (R34, R46) -/

theorem epResetWrite_next {s : State} (ha : s.board.aux = true) (v : BitVec 32) :
    exec (.epResetWrite v) s = .next (if v.toNat % 256 = 0xA5 && s.board.pwrEn then s.requestPower else s) :=
  (exec_epResetWrite _ _).trans (event_next ha)

theorem pldmFirmwareUpdate_next {s : State} (ha : s.board.aux = true) (image : FwImage) : ∃ t, exec (.pldmFirmwareUpdate image) s = .next t ∧ (
    if sigHolds (shake256 image.body) image.sig = true ∧ s.board.fuseVersion ≤ image.secVersion then
      t.board.staged = some image ∧ t.mem = s.mem ∧ t.fab = s.fab ∧ t.host.replies = s.host.replies ++ [.done]
    else Answers s t .unsupported) := by
  refine ⟨_, (exec_pldmFirmwareUpdate _ _).trans (event_next ha), ?_⟩
  have hiff : fwAccepted image s.board.fuseVersion = true ↔ sigHolds (shake256 image.body) image.sig = true ∧ s.board.fuseVersion ≤ image.secVersion := by
    rw [fwAccepted, Bool.and_eq_true, decide_eq_true_eq]
  split
  next h =>
    rw [if_pos (hiff.2 h)]
    exact ⟨rfl, rfl, rfl, rfl⟩
  next h =>
    rw [if_neg (mt hiff.1 h)]
    exact rfl

theorem pldmPlatformMonitoring_next {s : State} (ha : s.board.aux = true) : ∃ t, exec .pldmPlatformMonitoring s = .next t ∧ (∃ g trip link,
      (∃ t, exec (.epurnReadCommand 0x034) s = .next t ∧ (Answers s t (.data (leBytes 4 g)))) ∧
      Answers s t (.data ((((List.range 5).map (fun k => tgetD s.board.dieTemp k 0)) ++ [g, trip, link]).flatMap (leBytes 4))) ∧
      (s.board.tripAt = none → trip = 0) ∧ (s.board.tripAt.isSome = true → trip = s.board.tripSensor + 1) ∧
      (s.board.badLink = none → link = 0) ∧ (∀ l, s.board.badLink = some l → link = l + 1)) := by
  refine ⟨_, (exec_pldmPlatformMonitoring _).trans (event_next ha), s.epReg 0x034, named (s.board.tripAt.map fun _ => s.board.tripSensor),
    named s.board.badLink, epurnRead_next ha _, ?_, fun h => by rw [h]; rfl, fun h => ?_, fun h => by rw [h]; rfl, fun l h => by rw [h]; rfl⟩
  · rfl
  · obtain ⟨a, ha⟩ := Option.isSome_iff_exists.1 h
    rw [ha]
    rfl

/-! ### SPDM (R36) -/

/-- A request that is taken: over the Epurn port, or in band where the PF answers. -/
theorem spdmRequest_next {s : State} (ha : s.board.aux = true) {inBand : Bool} (req : SpdmReq)
    (hb : inBand = true → s.board.hlink = true ∧ s.board.hostLoss = false ∧ s.board.fatal = false ∧ s.board.phase = 8 ∧ (s.hostFn 0).flr = none) :
    exec (.spdmRequest ⟨inBand, req⟩) s = .next (match s.spdmAnswer req with
      | some bs => (s.setBoard fun b => { b with transcript := b.transcript ++ spdmReqBytes req ++ bs }).reply (.data bs)
      | none => s.reply .unsupported) := by
  refine (exec_spdmRequest _ _).trans ?_
  cases inBand with
  | false => exact event_next ha
  | true =>
    obtain ⟨hl, hh, hf, hp, hflr⟩ := hb rfl
    simp only [execSpdmRequest, hl, hh, hf, hp, hflr]
    rfl

/-- Settles O27: the registers by their offsets, and the port's requests. -/
theorem epurnEvents : Obligations.EpurnEvents := by
  intro s ha reads bitsOf
  have read : ∀ off v, s.epReg off = v → reads off v := fun off v hv => epurnRead_value ha hv
  refine ⟨read _ _ rfl, read _ _ rfl, read _ _ rfl, read _ _ rfl, read _ _ rfl, read _ _ rfl, read _ _ rfl, fun off => ?_, read _ _ rfl,
    fun k hk => read _ _ (epReg_die s hk), fun n temp hm hmax hn ht => read _ _ ?_, fun hr hw => read _ _ (epLink_eq hr hw), epurn_folgTrained ha,
    fun p hp hl hr => read _ _ ((epReg_fport s hp).trans (fport_eq hl hr)), fun d hd => read _ _ (epReg_defects s hd),
    fun k hk => epurn_defectWord ha hk, fun k hk => epurn_chstWord ha hk, fun off h => read _ _ (epReg_beyond s h), fun v => ?_, fun v hv => ?_,
    fun v hv hp ht => ?_, pldmFirmwareUpdate_next ha, pldmPlatformMonitoring_next ha, fun req inBand hb => ?_⟩
  · obtain ⟨t, ht, hans⟩ := epurnRead_next ha off
    exact ⟨t, ht, _, hans⟩
  · change s.board.hottest.1 % 16 * 2 ^ 24 + s.board.hottest.2 % 2 ^ 16 = _
    rw [hottest_of_max hm hmax ht, Nat.mod_eq_of_lt hn, Nat.mod_eq_of_lt ht]
  · refine ⟨_, (exec_epPlimWrite _ _).trans (event_next ha), ?_⟩
    by_cases h : 1000 ≤ v.toNat ∧ v.toNat ≤ 3400
    · rw [if_pos (by simpa using h), if_pos h]; rfl
    · rw [if_neg (by simpa using h), if_neg h]
  · refine ⟨_, epResetWrite_next ha v, if_neg ?_⟩
    obtain h | h := hv <;> simp [h]
  · refine ⟨_, epResetWrite_next ha v, ?_⟩
    rw [if_pos (by simp [hv, hp]), requestPower_now (.inl ht), powerOn_cool (by rw [ht]; rfl)]
    exact ⟨volatileLost_loseVolatile s _, rfl⟩
  · have hrun := spdmRequest_next ha req hb
    cases req with
    | certificate slot =>
      dsimp only
      split
      next h => exact ⟨_, hrun, by rw [State.spdmAnswer, if_pos h]; rfl⟩
      next h => exact ⟨_, hrun, by rw [State.spdmAnswer, if_neg h]; rfl⟩
    | measurement index =>
      refine ⟨fun h => ⟨_, hrun, ?_⟩, fun h hne => ⟨_, hrun, ?_⟩, fun h => ⟨_, hrun, ?_⟩, fun h hne => ⟨_, hrun, ?_⟩, fun h => ⟨_, hrun, ?_⟩⟩
      · subst h; rfl
      · subst h
        simp [State.spdmAnswer, State.measurement, hne, State.reply, State.setBoard]
      · subst h; rfl
      · subst h
        simp [State.spdmAnswer, State.measurement, hne, State.reply, State.setBoard]
      · have hnone : s.spdmAnswer (.measurement index) = none := by
          simp only [State.spdmAnswer, State.measurement]
          rw [if_neg (by omega), if_neg (by omega), if_neg (by omega), if_neg (by omega)]
        rw [hnone]
        rfl
    | challenge nonce => exact ⟨_, hrun, rfl⟩

end Sys2Proof.Machine
end

section
/-!
PROOFS. The training windows (R38, R39, R40): obligation O28.
-/
namespace Sys2Proof.Machine

/-! ### A held operation issued (R331) -/

/-- The state in which an operation is issued: its entry says so, and its share notes whom it served. -/
def State.atIssue (s : State) (task pl tag : Nat) (op : WobOp) : State :=
  (s.modPlacement task pl fun p => p.noteIssue tag s.clock.cycle).putOp op

/-- The operation as it is issued. -/
def State.issued (s : State) (op : WobOp) (bef : List WobOp) : WobOp :=
  s.stampGen { op with st := .issued, fwd := if op.early then fwdOf bef op else [] }

theorem heldOperationIssue_next {s : State} {task pl : Nat} {tag : Tag} {k : Task} {p : Placement} {op : WobOp} {bef : List WobOp}
    (hz : s.frozenNow = false) (hr : s.heldReady task pl tag.toNat = some (k, p, op, bef)) (hrec : s.recfgHeld k op = false)
    (hturn : s.issueTurn p tag.toNat = true) :
    execHeldOperationIssue task pl tag s = .next ((s.atIssue task pl tag.toNat (s.issued op bef)).issue k p (s.issued op bef)) := by
  rw [execHeldOperationIssue, inCycle_next hz, hr]
  dsimp only
  rw [hrec, hturn]
  rfl

/-! ### Windows -/

theorem setPhy_phy (s : State) (ch k : Nat) (q : Phy) : (s.setPhy ch q).phy k = if k = ch then q else s.phy k := by
  rw [State.phy, State.phy, tgetD, tgetD]
  change (tget (tput s.mem.phy ch q) k).getD Phy.zero = _
  rw [tget_tput]
  split <;> rfl

/-- A window's registers change, and no other window's. -/
def SetsPhy (s t : State) (ch : Nat) (q : Phy) : Prop := t.phy ch = q ∧ ∀ k, k ≠ ch → t.phy k = s.phy k

theorem setsPhy_setPhy (s : State) (ch : Nat) (q : Phy) : SetsPhy s (s.setPhy ch q) ch q :=
  ⟨by rw [setPhy_phy, if_pos rfl], fun k hk => by rw [setPhy_phy, if_neg hk]⟩

theorem setsPhy_of_mem {s u t : State} {ch : Nat} {q : Phy} (h : SetsPhy s u ch q) (hm : t.mem = u.mem) : SetsPhy s t ch q := by
  obtain ⟨hch, hother⟩ := h
  exact ⟨by rw [State.phy, hm]; exact hch, fun k hk => by rw [State.phy, hm]; exact hother k hk⟩

/-- The `st.io` that a thread's next held operation is. -/
theorem ioStore_spec {s : State} {a task pl tag : Nat} {v : Word} (h : s.ioStore a v = some (task, pl, tag)) :
    ∃ k p op bef, s.heldReady task pl tag = some (k, p, op, bef) ∧ isStIo op.instr = true ∧ op.ea = a ∧ op.right = v := by
  obtain ⟨r, -, hr⟩ := List.exists_of_findSome?_eq_some h
  obtain ⟨o, -, ho⟩ := List.exists_of_findSome?_eq_some hr
  split at ho
  next k p op bef hready =>
    split at ho
    next hop =>
      cases ho
      simp only [Bool.and_eq_true, decide_eq_true_eq] at hop
      obtain ⟨⟨hi, hea⟩, hv⟩ := hop
      exact ⟨k, p, op, bef, hready, hi, hea, hv⟩
    next => cases ho
  next => cases ho

theorem ioWrite_window (s : State) {ch off : Nat} (hch : ch < 384) (hoff : off < 0x1000) (v : Word) :
    s.ioWrite (0xF_C000_0000 + 0x1000 * ch + off) v = s.setPhy ch ((s.phy ch).write s.clock.cycle off v) := by
  have hin : inPhy (0xF_C000_0000 + 0x1000 * ch + off) = true := by
    rw [inPhy, phyBase, Bool.and_eq_true, decide_eq_true_eq, decide_eq_true_eq]
    omega
  have hc : phyCh (0xF_C000_0000 + 0x1000 * ch + off) = ch := by
    simp only [phyCh, phyBase]
    omega
  have ho : phyOff (0xF_C000_0000 + 0x1000 * ch + off) = off := by
    simp only [phyOff, phyBase]
    omega
  rw [State.ioWrite, if_pos hin, hc, ho]

/-- A window's register written, in phase 4 by an `st.io` and outside it by the event itself. -/
theorem phyWrite_next {s : State} {mn : String} {ch off : Nat} {v : Word} {q : Phy} (hch : ch < 384) (hoff : off < 0x1000)
    (hq : (s.phy ch).write s.clock.cycle off v = q) {ok : Bool} (hok : ok = true) {i : Instr} (hi : exec i s = s.phyWrite mn ch off v ok) :
    (s.board.phase ≠ 4 → ∃ t, exec i s = .next t ∧ (SetsPhy s t ch q ∧ t = { s with mem := { s.mem with phy := t.mem.phy } })) ∧
    (∀ task pl tag k pp op bef, s.board.phase = 4 → s.ioStore (0xF_C000_0000 + 0x1000 * ch + off) v = some (task, pl, tag) → tag < 2 ^ 14 →
      s.frozenNow = false → s.heldReady task pl tag = some (k, pp, op, bef) → s.issueTurn pp tag = true → ∃ t, exec i s = .next t ∧ SetsPhy s t ch q) := by
  refine ⟨fun hp => ⟨_, hi.trans ?_, setsPhy_setPhy s ch q, rfl⟩, fun task pl tag k pp op bef hp hio htag hz hr hturn => ?_⟩
  · rw [State.phyWrite, if_neg hp, hq]
    exact event_next hok
  · obtain ⟨k', p', op', bef', hr', hst, hea, hv⟩ := ioStore_spec hio
    cases hr.symm.trans hr'
    have htoNat : (BitVec.ofNat 14 tag).toNat = tag := by rw [BitVec.toNat_ofNat, Nat.mod_eq_of_lt htag]
    have hrun : exec i s = execHeldOperationIssue task pl (BitVec.ofNat 14 tag) s := by
      rw [hi, State.phyWrite, if_pos hp]
      change (match s.ioStore (0xF_C000_0000 + 0x1000 * ch + off) v with | some (task, pl, tag) => _ | none => _) = _
      rw [hio]
      exact if_pos hok
    obtain ⟨m, hm⟩ : ∃ m, op.instr = .stIo m := by
      revert hst
      cases op.instr <;> simp [isStIo]
    have hrec : s.recfgHeld k op = false := by rw [State.recfgHeld, hm]
    refine ⟨_, hrun.trans (heldOperationIssue_next hz (by rwa [htoNat]) hrec (by rwa [htoNat])), ?_⟩
    have hissue : ∀ u : State, u.issue k pp (s.issued op bef) = (u.ioWrite op.ea op.right).finishHeld (s.issued op bef) 0 := fun u => by
      rw [State.issue, show (s.issued op bef).instr = .stIo m from hm]
      rfl
    rw [hissue, hea, hv, ioWrite_window _ hch hoff]
    refine setsPhy_of_mem (setsPhy_setPhy s ch q) ?_
    rw [(State.finishHeld_keeps _ _ _).2, ← hq]
    rfl

/-! ### What a write does to a window (R38, R39) -/

theorem bits_chst (v : Word) : bits v 19 18 = v.toNat / 2 ^ 18 % 4 := rfl

theorem write_running {p : Phy} (h : p.busy = true ∨ p.testing = true) {now off : Nat} {v : Word}
    (hv : off = 0 ∧ v.getLsbD 8 = true ∨ off = 0x28 ∧ v.getLsbD 40 = true) : p.write now off v = p := by
  have hrun : p.running = true := by
    rw [Phy.running, Bool.or_eq_true]
    exact h
  obtain ⟨rfl, hgo⟩ | ⟨rfl, hgo⟩ := hv
  · simp [Phy.write, Phy.writeCtl, hgo, hrun]
  · simp [Phy.write, Phy.writePat, hgo, hrun]

theorem write_readOnly {p : Phy} (h : p.chst = 1 ∨ p.chst = 2) (now off : Nat) (v : Word) : p.write now off v = p := by
  rw [Phy.write, if_pos (by omega)]

theorem repairBits_plain {p : Phy} (h6 : p.repair.getLsbD 6 = false) (h14 : p.repair.getLsbD 14 = false) (pass : Word) (spass : BitVec 2) :
    p.repairBits pass spass = pass := by
  simp only [Phy.repairBits, h6, h14, Bool.false_eq_true, if_false]

/-- Settles O28: each event is a window's write or the end of a probe or a test. -/
theorem trainingWindowEvents : Obligations.TrainingWindowEvents := by
  intro s ch hch p sets only writes
  have hwrites : ∀ (i : Instr) (mn : String) (off : Nat) (v : Word) (q : Phy) (ok : Bool), off < 0x1000 → exec i s = s.phyWrite mn ch off v ok → ok = true →
      p.write s.clock.cycle off v = q → writes i off v q := fun i mn off v q ok hoff hi hok hq => phyWrite_next hch hoff hq hok hi
  have hsets : ∀ q, only (s.setPhy ch q) q := fun q => ⟨setsPhy_setPhy s ch q, rfl⟩
  refine ⟨fun v hgo hc hb ht hch0 => ?_, fun v hgo hrun => ?_, fun pass spass hb hle => ?_, fun v hgo hc => ?_, fun v hc => ?_, fun v hgo hc hb ht => ?_,
    fun v hgo hrun => ?_, fun errcnt errdq ht hiff => ?_⟩
  · refine hwrites _ _ _ _ _ _ (by norm_num) (exec_hphyProbeStart _ _ _) (by simp [hch, hgo]) ?_
    have hnew : p.newChst (bits v 19 18) = p.chst := by rw [Phy.newChst, bits_chst, hch0, hc]; rfl
    simp [Phy.write, Phy.writeCtl, Phy.running, hnew, hc, hb, ht, hgo]
  · exact hwrites _ _ _ _ _ _ (by norm_num) (exec_hphyProbeStart _ _ _) (by simp [hch, hgo]) (write_running hrun (.inl ⟨rfl, hgo⟩))
  · refine ⟨_, (exec_hphyProbeComplete _ _ _ _).trans (event_next ?_), _, hsets _, fun h6 h14 => repairBits_plain h6 h14 pass spass⟩
    simp only [Bool.and_eq_true, decide_eq_true_eq]
    exact ⟨⟨hch, hb⟩, hle⟩
  · refine hwrites _ _ _ _ _ _ (by norm_num) (exec_hphySetChst _ _ _) (by simp [hch]) ?_
    have hnew : p.newChst (bits v 19 18) = if v.toNat / 2 ^ 18 % 4 = 3 then 0 else if v.toNat / 2 ^ 18 % 4 = 1 then (if p.clean then 1 else 0)
        else v.toNat / 2 ^ 18 % 4 := by rw [Phy.newChst, bits_chst, hc]
    simp only [Phy.write, Phy.writeCtl, hnew, hc, hgo, ne_eq, not_true_eq_false, Bool.false_and, Bool.false_eq_true, if_false, Bool.or_false, if_true]
  · exact hwrites _ _ _ _ _ _ (by norm_num) (exec_hphySetChst _ _ _) (by simp [hch]) (write_readOnly hc _ _ _)
  · refine hwrites _ _ _ _ _ _ (by norm_num) (exec_hphyPatternTestStart _ _ _) (by simp [hch, hgo]) ?_
    simp [Phy.write, Phy.writePat, Phy.running, hc, hb, ht, hgo]
  · exact hwrites _ _ _ _ _ _ (by norm_num) (exec_hphyPatternTestStart _ _ _) (by simp [hch, hgo]) (write_running hrun (.inr ⟨rfl, hgo⟩))
  · refine ⟨_, (exec_hphyPatternTestComplete _ _ _ _).trans (event_next ?_), hsets _⟩
    simp only [Bool.and_eq_true, decide_eq_true_eq]
    exact ⟨⟨hch, ht⟩, decide_eq_decide.2 hiff⟩

end Sys2Proof.Machine
end

section
/-!
PROOFS. The registers of the host (R42, R49, R53, R65, R67, R101, R175, R176): obligation O29.
-/
namespace Sys2Proof.Machine

/-! ### Registers of a function -/

theorem hostFn_modFn (s : State) (fn f : Nat) (g : HostFn → HostFn) : (s.modFn fn g).hostFn f = if f = fn then g (s.hostFn fn) else s.hostFn f := by
  rw [State.hostFn, State.hostFn, tgetD, tgetD]
  change (tget (tput s.host.fns fn (g (s.hostFn fn))) f).getD HostFn.zero = _
  rw [tget_tput]
  split <;> rfl

theorem reg_setReg (s : State) (fn off f o : Nat) (v : Word) : (s.setReg fn off v).reg f o = if f = fn ∧ o = off then v else s.reg f o := by
  rw [State.reg, State.setReg, hostFn_modFn]
  by_cases hf : f = fn
  · subst hf
    rw [if_pos rfl]
    dsimp only
    rw [tgetD, tget_tput]
    by_cases ho : o = off
    · simp [ho]
    · simp [ho, State.reg, tgetD]
  · simp [hf, State.reg]

theorem msixVec_setVec (s : State) (fn vec k : Nat) (x : MsixVec) : (s.setVec fn vec x).msixVec fn k = if k = vec then x else s.msixVec fn k := by
  rw [State.msixVec, State.setVec, hostFn_modFn, if_pos rfl]
  dsimp only
  rw [tgetD, tget_tput]
  split <;> rfl

/-- Only register `off` of a function changes, and nothing of the fabric, the schedule, HBM or the L2. -/
def OnlyReg (s t : State) (fn off : Nat) : Prop :=
  (∀ f o, (f, o) ≠ (fn, off) → t.reg f o = s.reg f o) ∧ t.board = s.board ∧ t.fab = s.fab ∧ t.sched = s.sched ∧ t.mem.hbm = s.mem.hbm ∧
    t.mem.l2 = s.mem.l2

theorem setReg_only (s : State) (fn off : Nat) (v : Word) : (s.setReg fn off v).reg fn off = v ∧ OnlyReg s (s.setReg fn off v) fn off := by
  refine ⟨by rw [reg_setReg, if_pos ⟨rfl, rfl⟩], fun f o h => ?_, rfl, rfl, rfl, rfl, rfl⟩
  rw [reg_setReg, if_neg fun ⟨hf, ho⟩ => h (Prod.ext hf ho)]

/-! ### Register writes (R49, R53, R65) -/

theorem registerWrite_unsupported {s : State} {fn : Nat} (hr : s.reach fn = .unsupported) (bar off size : Nat) (v : Word) :
    exec (.registerWrite ⟨bar, fn⟩ off size v) s = .next (s.reply .unsupported) := by
  refine (exec_registerWrite _ _ _ _ _).trans ?_
  unfold execRegisterWrite
  dsimp only
  split_ifs <;> exact hostAccess_unsupported hr

/-- A register of BAR0 whose write is no event of its own. -/
theorem registerWrite_plain {s : State} {fn off : Nat} (hr : s.reach fn = .served) (hb : bar0Backed fn off = true) (h8 : off % 8 = 0) {v : Word}
    (hown : ownEvent fn off v = false) : exec (.registerWrite ⟨0, fn⟩ off 8 v) s = .next ((s.writeReg fn off v).settleCounters s) := by
  refine (exec_registerWrite _ _ _ _ _).trans ?_
  simp only [execRegisterWrite, hb, h8]
  exact hostAccess_next hr (by rw [hown]; rfl)

/-- A plain register whose fields are all writable. -/
theorem writeReg_whole {s : State} {fn off : Nat} {v : Word} (hpf : fn = 0 ∨ pfOnly off = false) (hq : queueReg off = none) (hvf : vfReg off = none)
    (hi : s.regIgnores fn off v = false) (h220 : off ≠ 0x220) (h290 : off ≠ 0x290) (hm : regMask off = 0xFFFFFFFFFFFFFFFF) :
    s.writeReg fn off v = s.setReg fn off v := by
  have hmask : v &&& (0xFFFFFFFFFFFFFFFF : Word) = v := BitVec.and_allOnes
  have hnot : ¬ (fn ≠ 0 && pfOnly off) = true := by
    obtain h | h := hpf <;> simp [h]
  rw [State.writeReg, if_neg hnot, hq, hvf]
  dsimp only
  rw [hi, if_neg Bool.false_ne_true, if_neg h220, if_neg h290, hm, if_neg (by decide), hmask]

theorem beginKill_none {s : State} {fn : Nat} {v : Word} (h : ∀ k ∈ s.tasks, k.matchedBy fn (s.reg fn 0x2C0) (v.getLsbD 1) = false) :
    s.beginKill fn v = (s.setReg fn 0x2C8 (BitVec.ofNat 64 (bits v 63 32 * 2 ^ 32 + 2 * (v.getLsbD 1).toNat))).setReg fn 0x2D0
      (BitVec.ofNat 64 (bits v 63 32 * 2 ^ 32)) := by
  have hnil : s.tasks.filter (fun t => t.matchedBy fn (s.reg fn 0x2C0) (v.getLsbD 1)) = [] :=
    List.filter_eq_nil_iff.2 fun k hk => by rw [h k hk]; exact Bool.false_ne_true
  rw [State.beginKill, hnil]
  rfl

theorem seq_toNat (v : Word) : (BitVec.ofNat 64 (bits v 63 32 * 2 ^ 32)).toNat = v.toNat / 2 ^ 32 * 2 ^ 32 := by
  have hv := v.isLt
  have hb : bits v 63 32 = v.toNat / 2 ^ 32 := by
    rw [bits]
    omega
  rw [hb, BitVec.toNat_ofNat]
  omega

theorem hostKill_next {s : State} {fn : Nat} {v : Word} (hr : s.reach fn = .served) (h0 : v.getLsbD 0 = true) :
    exec (.hostKill fn v) s = .next (if (s.hostFn fn).kill.isSome then s else s.beginKill fn v) :=
  (exec_hostKill _ _ _).trans (hostAccess_next hr h0)

/-! ### Vectors and configuration requests (R30, R31, R42, R65) -/

theorem registerWrite_vecData {s : State} {fn vec : Nat} (hr : s.reach fn = .served) (hv : vec < vecCount fn) (v : Word) :
    ∃ t, exec (.registerWrite ⟨4, fn⟩ (16 * vec + 8) 4 v) s = .next t ∧ (
    t.msixVec fn vec = { s.msixVec fn vec with data := v.setWidth 32 } ∧ (∀ k, k ≠ vec → t.msixVec fn k = s.msixVec fn k) ∧
    t.mem = s.mem ∧ t.board = s.board ∧ t.fab = s.fab ∧ t.sched = s.sched) := by
  have hcount : vecCount fn ≤ 256 := by
    unfold vecCount
    split <;> omega
  have hback : bar4Backed fn (16 * vec + 8) = true := by
    rw [bar4Backed, decide_eq_true (show 16 * vec + 8 < 16 * vecCount fn by omega), Bool.true_or]
  have hword : s.writeBar4 fn (16 * vec + 8) 4 v = s.setVec fn vec { s.msixVec fn vec with data := v.setWidth 32 } := by
    rw [State.writeBar4, if_pos (by simp; omega), State.writeMsix]
    dsimp only
    rw [if_neg (by omega), if_neg (by omega), if_neg (by omega), if_pos (by omega), show (16 * vec + 8) / 16 = vec by omega]
    congr 2
  have hrun : exec (.registerWrite ⟨4, fn⟩ (16 * vec + 8) 4 v) s = .next (s.setVec fn vec { s.msixVec fn vec with data := v.setWidth 32 }) := by
    refine (exec_registerWrite _ _ _ _ _).trans ?_
    simp only [execRegisterWrite, hback, hword]
    exact hostAccess_next hr rfl
  exact ⟨_, hrun, by rw [msixVec_setVec, if_pos rfl], fun k hk => by rw [msixVec_setVec, if_neg hk], rfl, rfl, rfl, rfl⟩

theorem configRequest_next {s : State} (hl : s.board.hlink = true) (hh : s.board.hostLoss = false) :
    exec .configRequest s = if s.board.fatal then .next (s.reply .unsupported)
      else if s.board.phase ≠ 8 || (s.hostFn (cfgWriteOf s.subject).fn).flr.isSome then .next (s.reply .retryStatus)
      else .next ((s.cfgWrite (cfgWriteOf s.subject)).reply .done) := by
  refine (exec_configRequest _).trans ?_
  rw [execConfigRequest, hl, hh]
  rfl

/-- Settles O29: each register with a write of its own, and the requests that a function turns away. -/
theorem hostRegisterEvents : Obligations.HostRegisterEvents := by
  intro s fn others
  refine ⟨fun hr bar off size v => ⟨_, registerWrite_unsupported hr bar off size v, rfl⟩, fun hr off size v hb => ?_, fun hr off size v hb hs => ?_,
    fun hr off size v hb => ?_, fun hr vec v hv => registerWrite_vecData hr hv v, fun hr v hk => ?_, fun hr h0 v => ?_, fun hr v => ?_, fun hr h0 => ?_,
    fun hr h0 v => ?_, fun hr v h0 hk => ?_, fun hr v h0 hk hm => ?_, fun hl hh hf => ?_, fun hl hh hf hp => ?_, fun hl hh hf hp hflr hs => ?_⟩
  · refine ⟨_, (exec_registerWrite _ _ _ _ _).trans ?_, rfl⟩
    simp only [execRegisterWrite, hb]
    exact hostAccess_next hr rfl
  · refine ⟨_, (exec_registerWrite _ _ _ _ _).trans ?_, rfl⟩
    have hs' : (decide (size ≠ 8) || decide (off % 8 ≠ 0)) = true := by simpa using hs
    simp only [execRegisterWrite, hb, hs']
    exact hostAccess_next hr rfl
  · refine ⟨_, (exec_registerWrite _ _ _ _ _).trans ?_, rfl⟩
    simp only [execRegisterWrite, hb]
    exact hostAccess_next hr rfl
  · refine ⟨_, registerWrite_plain hr rfl rfl ?_, ?_⟩
    · simp [ownEvent, queueReg]
    · rw [writeReg_whole (.inr rfl) rfl rfl (by simp [State.regIgnores, hk]) (by decide) (by decide) rfl]
      obtain ⟨hv, honly⟩ := setReg_only s fn 0x2C0 v
      exact ⟨hv, honly⟩
  · subst h0
    refine ⟨_, registerWrite_plain hr rfl rfl (by simp [ownEvent, queueReg]), ?_⟩
    rw [writeReg_whole (.inl rfl) rfl rfl rfl (by decide) (by decide) rfl]
    obtain ⟨hv, honly⟩ := setReg_only s 0 0x228 v
    exact ⟨hv, honly⟩
  · obtain ⟨hv, honly⟩ := setReg_only s fn 0x010 (s.reg fn 0x010 &&& ~~~ v)
    exact ⟨_, (exec_hfEvtClear _ _ _).trans (hostAccess_next hr rfl), hv, honly⟩
  · subst h0
    obtain ⟨hv, honly⟩ := setReg_only s 0 0x260 0
    exact ⟨_, (exec_hfAcovfClear _).trans (hostAccess_next hr rfl), hv, honly⟩
  · subst h0
    have hrun : exec (.accessQueueConsume v) s = .next (if (s.reg 0 0x250).toNat < v.toNat then s else s.consumeAc v) :=
      (exec_accessQueueConsume _ _).trans (hostAccess_next hr rfl)
    split
    next h => exact ⟨_, hrun, if_pos h⟩
    next h =>
      obtain ⟨hv, honly⟩ := setReg_only s 0 0x258 v
      rw [if_neg h] at hrun
      exact ⟨_, hrun, hv, rfl, honly⟩
  · exact ⟨_, hostKill_next hr h0, if_pos hk⟩
  · refine ⟨_, hostKill_next hr h0, ?_⟩
    rw [hk, Option.isSome_none, if_neg Bool.false_ne_true, beginKill_none hm]
    exact ⟨by rw [reg_setReg, if_pos ⟨rfl, rfl⟩, seq_toNat], rfl, rfl, rfl⟩
  · exact ⟨_, (configRequest_next hl hh).trans (if_pos hf), rfl⟩
  · refine ⟨_, (configRequest_next hl hh).trans ?_, rfl⟩
    rw [hf, if_neg Bool.false_ne_true, if_pos (by simp [hp])]
    rfl
  · have hw : cfgWriteOf s.subject = .vfEnable (decide (s.subject = 1)) := by
      obtain h | h := hs <;> rw [h] <;> rfl
    have hrun : exec .configRequest s = .next ((s.cfgWrite (cfgWriteOf s.subject)).reply .done) := by
      rw [configRequest_next hl hh, hf, if_neg Bool.false_ne_true, if_neg (by simp [hp, hw, CfgWrite.fn, hflr])]
    rw [hw] at hrun
    exact ⟨_, hrun, rfl, rfl, rfl⟩

end Sys2Proof.Machine
end

section
/-!
PROOFS. Launch queues and the checks of a launch header (R56 to R61, R73, R78, R104, R143): obligation O30.
-/
namespace Sys2Proof.Machine

/-! ### Reads that depend on memory alone -/

/-- Two states in which every read of memory and every translation comes out alike. -/
def ReadsAlike (s t : State) : Prop := t.mem = s.mem ∧ t.board = s.board ∧ t.host.fns = s.host.fns ∧ t.eng = s.eng

theorem imgByte_congr {s t : State} (h : ReadsAlike s t) : t.imgByte = s.imgByte := by
  obtain ⟨hm, hb, hf, he⟩ := h
  obtain ⟨c, b, h, m, f, sc, en, o, a, fo, su, fc, sq⟩ := s
  obtain ⟨c', b', h', m', f', sc', e', o', a', fo', su', fc', sq'⟩ := t
  obtain ⟨fns, v, b2, se, ms, re, he, ca⟩ := h
  obtain ⟨fns', v', b2', se', ms', re', he', ca'⟩ := h'
  dsimp only at hm hb hf he
  subst hm hb hf he
  rfl

theorem imgRead_congr {s t : State} (h : ReadsAlike s t) (space base off n : Nat) : t.imgRead space base off n = s.imgRead space base off n := by
  induction n generalizing off with
  | zero => rfl
  | succ n ih => rw [State.imgRead, State.imgRead, ih, imgByte_congr h]

theorem headerNf_congr {s t : State} (h : ReadsAlike s t) (space image : Nat) : t.headerNf space image = s.headerNf space image := by
  rw [State.headerNf, State.headerNf, imgRead_congr h]

theorem spaceBytes_congr {s t : State} (h : ReadsAlike s t) (space va n : Nat) : t.spaceBytes space va n = s.spaceBytes space va n := by
  rw [State.spaceBytes, State.spaceBytes, imgRead_congr h]

theorem takeCap_readsAlike (s : State) (fn : Nat) : ReadsAlike s (s.takeCap fn) := by
  unfold State.takeCap
  split <;> exact ⟨rfl, rfl, rfl, rfl⟩

/-! ### Queues -/

theorem queue_setQueue (s : State) (fn q : Nat) (x : Queue) : (s.setQueue fn q x).queue fn q = x := by
  rw [State.queue, State.setQueue, hostFn_modFn, if_pos rfl]
  exact tgetD_tput_same _ _ _ _

theorem setQueue_reg (s : State) (fn q f o : Nat) (x : Queue) : (s.setQueue fn q x).reg f o = s.reg f o := by
  rw [State.reg, State.setQueue, hostFn_modFn]
  split
  next h => rw [h, State.reg]
  next => rfl

theorem setReg_queue (s : State) (fn off f q : Nat) (v : Word) : (s.setReg fn off v).queue f q = s.queue f q := by
  rw [State.queue, State.setReg, hostFn_modFn]
  split
  next h => rw [h, State.queue]
  next => rfl

/-- An interrupt raised leaves every register and every queue. -/
theorem raiseVec_hostFn (s : State) (fn vec f : Nat) :
    ((s.raiseVec fn vec).hostFn f).regs = (s.hostFn f).regs ∧ ((s.raiseVec fn vec).hostFn f).queues = (s.hostFn f).queues := by
  unfold State.raiseVec
  split
  · exact ⟨rfl, rfl⟩
  split
  · rw [hostFn_modFn]
    split
    next h => rw [h]; exact ⟨rfl, rfl⟩
    next => exact ⟨rfl, rfl⟩
  · exact ⟨rfl, rfl⟩

theorem raiseVec_reg (s : State) (fn vec f o : Nat) : (s.raiseVec fn vec).reg f o = s.reg f o := by
  rw [State.reg, (raiseVec_hostFn s fn vec f).1, State.reg]

theorem raiseVec_queue (s : State) (fn vec f q : Nat) : (s.raiseVec fn vec).queue f q = s.queue f q := by
  rw [State.queue, (raiseVec_hostFn s fn vec f).2, State.queue]

theorem raiseVec_rest (s : State) (fn vec : Nat) : (s.raiseVec fn vec).mem = s.mem ∧ (s.raiseVec fn vec).sched = s.sched := by
  unfold State.raiseVec
  split
  · exact ⟨rfl, rfl⟩
  split <;> exact ⟨rfl, rfl⟩

/-- An event bit set: the bit stands, queues and memory are as they were. -/
theorem setEvt_spec (s : State) (fn f q : Nat) :
    ((s.setEvt fn 0).reg fn 0x010).getLsbD 0 = true ∧ (s.setEvt fn 0).queue f q = s.queue f q ∧ (s.setEvt fn 0).mem = s.mem ∧
      (s.setEvt fn 0).sched = s.sched := by
  unfold State.setEvt
  dsimp only
  split
  next h => exact ⟨h, rfl, rfl, rfl⟩
  next h =>
    obtain ⟨hm, hs⟩ := raiseVec_rest (s.setReg fn 0x010 (s.reg fn 0x010 ||| BitVec.ofNat 64 (2 ^ 0))) fn 0
    refine ⟨?_, by rw [raiseVec_queue, setReg_queue], hm, hs⟩
    rw [raiseVec_reg, reg_setReg, if_pos ⟨rfl, rfl⟩]
    simp

theorem disableQueue_queue (s : State) (fn q code : Nat) :
    (s.disableQueue fn q code).queue fn q = { s.queue fn q with err := BitVec.ofNat 64 code, ctl := (s.queue fn q).ctl &&& ~~~ (1 : Word) } :=
  queue_setQueue _ _ _ _

/-- A queue in error is disabled, and nothing else of the schedule or of memory changes. -/
theorem queueError_spec (s : State) (fn q code : Nat) :
    ((s.queueError fn q code).queue fn q).err = BitVec.ofNat 64 code ∧ ((s.queueError fn q code).queue fn q).ctl = (s.queue fn q).ctl &&& ~~~ (1 : Word) ∧
      (s.queueError fn q code).sched = s.sched ∧ (s.queueError fn q code).mem = s.mem := by
  unfold State.queueError
  dsimp only
  split
  · obtain ⟨-, hq, hm, hs⟩ := setEvt_spec (s.disableQueue fn q code) fn fn q
    rw [hq, disableQueue_queue, hm, hs]
    exact ⟨rfl, rfl, rfl, rfl⟩
  · rw [disableQueue_queue]
    exact ⟨rfl, rfl, rfl, rfl⟩

theorem queueEnable_next {s : State} {fn q : Nat} {v : Word} (hr : s.reach fn = .served) (hq : q < 64) (h0 : v.getLsbD 0 = true) :
    ∃ t, exec (.queueEnable fn q v) s = .next t ∧ (
      (s.queueValid fn (s.queue fn q) = true → t.queue fn q = { s.queue fn q with ctl := (v &&& 0x700) ||| 1, err := 0 } ∧ t.reg fn 0x010 = s.reg fn 0x010) ∧
      (s.queueValid fn (s.queue fn q) = false → t.queue fn q = { s.queue fn q with ctl := v &&& 0x700, err := 1 } ∧ (t.reg fn 0x010).getLsbD 0 = true) ∧
      t.mem = s.mem ∧ t.sched = s.sched) := by
  refine ⟨_, (exec_queueEnable _ _ _ _).trans (hostAccess_next hr (by simp [hq, h0])), ?_⟩
  cases hv : s.queueValid fn (s.queue fn q) with
  | true =>
    refine ⟨fun _ => ⟨queue_setQueue _ _ _ _, setQueue_reg _ _ _ _ _ _⟩, fun h => absurd h (by decide), rfl, rfl⟩
  | false =>
    obtain ⟨hevt, hqueue, hm, hs⟩ := setEvt_spec (s.setQueue fn q { s.queue fn q with ctl := (v &&& 0x700) ||| 0, err := 1 }) fn fn q
    refine ⟨fun h => absurd h (by decide), fun _ => ⟨?_, hevt⟩, hm, hs⟩
    refine (hqueue.trans (queue_setQueue _ _ _ _)).trans ?_
    rw [show (v &&& 0x700) ||| 0 = v &&& 0x700 from BitVec.or_zero]

theorem queueDisable_next {s : State} {fn q : Nat} {v : Word} (hr : s.reach fn = .served) (hq : q < 64) (h0 : v.getLsbD 0 = false) :
    ∃ t, exec (.queueDisable fn q v) s = .next t ∧ (t.queue fn q = { s.queue fn q with ctl := v &&& 0x700 } ∧ t.mem = s.mem ∧ t.sched = s.sched) :=
  ⟨_, (exec_queueDisable _ _ _ _).trans (hostAccess_next hr (by rw [decide_eq_true hq, h0]; rfl)), queue_setQueue _ _ _ _, rfl, rfl⟩

/-! ### The dispatcher's pick (R61) -/

theorem dispatchPick_next {s : State} {fn q prio : Nat} {b : List Byte} (hd : s.sched.dispatching = true) (hp : s.board.phase = 8)
    (hf : s.board.fatal = false) (h0 : s.subject = 0) (hq : q < 64) (hn : s.pickNext = some (64 * fn + q, prio, b)) (hquiet : s.pickQuiet fn q b = true) :
    exec .dispatchPick s = .next (s.pick (64 * fn + q) prio b) := by
  refine (exec_dispatchPick _).trans ?_
  have hk : (64 * fn + q) / 64 = fn := by omega
  have hm : (64 * fn + q) % 64 = q := by omega
  simp only [execDispatchPick, hd, hp, hf, h0, hn, hk, hm]
  exact event_next hquiet

/-- The state in which a record is consumed: its queue goes on, and is the one last served at its priority. -/
def State.served (s : State) (prio k : Nat) : State := { s with host := { s.host with served := tput s.host.served prio k } }

theorem pick_eq (s : State) {fn q : Nat} (hq : q < 64) (prio : Nat) (b : List Byte) : s.pick (64 * fn + q) prio b = match s.takeRecord fn q b with
    | .launched t _ => (t.queueNext fn q).served prio (64 * fn + q)
    | .noRoom => s.served prio (64 * fn + q)
    | .hdrAddr => s.queueError fn q 4 := by
  have hk : (64 * fn + q) / 64 = fn := by omega
  have hm : (64 * fn + q) % 64 = q := by omega
  rw [State.pick, hk, hm]
  cases s.takeRecord fn q b <;> rfl

theorem dispatchPick_takes {s : State} {fn q prio : Nat} {b : List Byte} (hd : s.sched.dispatching = true) (hp : s.board.phase = 8)
    (hf : s.board.fatal = false) (h0 : s.subject = 0) (hq : q < 64) (hn : s.pickNext = some (64 * fn + q, prio, b)) (hquiet : s.pickQuiet fn q b = true) :
    ∃ t, exec .dispatchPick s = .next t ∧ (match s.takeRecord fn q b with
      | .launched s' _ => (t.queue fn q).cons = (s'.queue fn q).cons + 1 ∧ tget t.host.served prio = some (64 * fn + q) ∧ t.sched = s'.sched
      | .noRoom => t = { s with host := { s.host with served := t.host.served } } ∧ tget t.host.served prio = some (64 * fn + q)
      | .hdrAddr => (t.queue fn q).err = 4 ∧ (t.queue fn q).ctl = (s.queue fn q).ctl &&& ~~~ (1 : Word) ∧ t.sched = s.sched ∧ t.mem = s.mem) := by
  refine ⟨_, dispatchPick_next hd hp hf h0 hq hn hquiet, ?_⟩
  rw [pick_eq s hq]
  cases s.takeRecord fn q b with
  | launched t n =>
    refine ⟨?_, tget_tput_same _ _ _, rfl⟩
    exact congrArg Queue.cons (queue_setQueue t fn q { t.queue fn q with cons := (t.queue fn q).cons + 1 })
  | noRoom => exact ⟨rfl, tget_tput_same _ _ _⟩
  | hdrAddr => exact queueError_spec s fn q 4

theorem dispatchPick_error {s : State} {fn q code : Nat} (hd : s.sched.dispatching = true) (hp : s.board.phase = 8) (hf : s.board.fatal = false)
    (hq : q < 64) (hs : s.subject = 64 * fn + q + 1) (hscan : s.scanQueue fn q = .error code)
    (hquiet : s.mem.quiet (s.queueAddr fn (s.queue fn q).line / 128) = true) : exec .dispatchPick s = .next (s.queueError fn q code) := by
  refine (exec_dispatchPick _).trans ?_
  have hk : (64 * fn + q + 1 - 1) / 64 = fn := by omega
  have hm : (64 * fn + q + 1 - 1) % 64 = q := by omega
  simp only [execDispatchPick, hd, hp, hf, hs, hk, hm, hscan]
  exact event_next hquiet

end Sys2Proof.Machine
end

section
/-!
PROOFS. The checks of a launch header (R61, R73, R78, R104, R143): the rest of obligation O30.
-/
namespace Sys2Proof.Machine

/-! ### CHECK as a list of rows (R73) -/

/-- The rows that need no Nf, with their reasons. -/
def Task.earlyRows (t : Task) : List (Bool × Nat) := [(t.hdrRes, 2), (t.badFields, 3), (t.badPlace, 4)]

/-- The rows that follow once Nf is known, with their reasons. -/
def State.lateRows (s : State) (t : Task) : List (Bool × Nat) :=
  [(s.fretCap t.fn < t.need || s.usableFrets < t.need, 4), (t.badLease, 5), (t.badPool, 6), (32 * t.nf < t.levels, 7), (262144 < t.cquota, 8),
    (t.badSave, 10), (t.fld 72 8 ≠ 0 && ((s.readGang t).isNone || !t.ckpt), 11)]

/-- A task whose Nf is known. -/
def Task.withNf (t : Task) (nf : Nat) : Task := { t with nf := nf, need := t.fld 32 2 * nf }

theorem need_bind {α : Type} (bad : Bool) (r : Nat) (k : Unit → Except (Nat × Nat) α) :
    ((if bad then .error (r, 0) else .ok () : Except (Nat × Nat) Unit) >>= k) = if bad then .error (r, 0) else k () := by
  cases bad <;> rfl

/-- The first row that is bad rejects; else what follows is done. -/
def rejectBy {α : Type} (rows : List (Bool × Nat)) (k : Except (Nat × Nat) α) : Except (Nat × Nat) α :=
  rows.foldr (fun r rest => if r.1 then .error (r.2, 0) else rest) k

theorem rejectBy_eq {α : Type} (rows : List (Bool × Nat)) (k : Except (Nat × Nat) α) : rejectBy rows k = match rows.find? Prod.fst with
    | some r => .error (r.2, 0)
    | none => k := by
  induction rows with
  | nil => rfl
  | cons r rows ih =>
    obtain ⟨b, n⟩ := r
    cases b with
    | true => rfl
    | false => exact ih

/-- A task that has passed CHECK, with the gang descriptor that it names. -/
def State.passed (s : State) (t : Task) : Task := { t with st := .reswait, gang := if t.fld 72 8 = 0 then t.gang else s.readGang t }

/-- The checks that follow once Nf is known, in order. -/
def State.checkLate (s : State) (u : Task) : Except (Nat × Nat) Task :=
  if s.fretCap u.fn < u.need || s.usableFrets < u.need then .error (4, 0)
  else if u.badLease then .error (5, 0)
  else if u.badPool then .error (6, 0)
  else if decide (32 * u.nf < u.levels) then .error (7, 0)
  else if decide (262144 < u.cquota) then .error (8, 0)
  else if u.badSave then .error (10, 0)
  else if u.fld 72 8 = 0 then .ok { u with st := .reswait }
  else match s.readGang u with
    | none => .error (11, 0)
    | some g => if u.ckpt then .ok { u with st := .reswait, gang := some g } else .error (11, 0)

theorem checkTask_eq (s : State) (t : Task) : s.checkTask t = rejectBy t.earlyRows (match (s.cachedNf t.cfgid).or (s.headerNf t.space t.image_) with
    | none => .error (9, t.image_)
    | some nf => rejectBy (s.lateRows (t.withNf nf)) (.ok (s.passed (t.withNf nf)))) := by
  have hgang : ∀ u : Task, (if u.fld 72 8 = 0 then .ok { u with st := .reswait } else match s.readGang u with
      | none => .error (11, 0)
      | some g => if u.ckpt then .ok { u with st := .reswait, gang := some g } else .error (11, 0) : Except (Nat × Nat) Task) =
      if u.fld 72 8 ≠ 0 && ((s.readGang u).isNone || !u.ckpt) then .error (11, 0) else .ok (s.passed u) := fun u => by
    by_cases h72 : u.fld 72 8 = 0
    · simp [h72, State.passed]
    · cases hg : s.readGang u <;> cases hc : u.ckpt <;> simp [h72, hg, State.passed]
  have hlate : ∀ nf, (s.checkLate (t.withNf nf)) = rejectBy (s.lateRows (t.withNf nf)) (.ok (s.passed (t.withNf nf))) := fun nf => by
    simp only [State.checkLate, rejectBy, State.lateRows, List.foldr_cons, List.foldr_nil, hgang]
  simp only [State.checkTask, need_bind]
  cases hc : s.cachedNf t.cfgid with
  | some n =>
    dsimp only [Option.some_or]
    rw [← hlate]
    rfl
  | none =>
    cases hh : s.headerNf t.space t.image_ with
    | none => rfl
    | some n =>
      dsimp only [Option.none_or]
      rw [← hlate]
      rfl

/-! ### The rows said of the header's bytes -/

section Rows
variable (t : Task)

theorem hdrRes_eq : t.hdrRes = (t.fld 8 8 / 2 ^ 52 ≠ 0 || t.fld 8 8 % 4096 ≠ 0 || t.fld 30 1 / 2 ^ 5 ≠ 0 ||
    t.fld 31 1 / 2 ^ 5 ≠ 0 || t.fld 36 1 / 2 ^ 3 ≠ 0 || t.fld 37 1 / 2 ^ 4 ≠ 0 || t.fld 56 8 / 2 ^ 52 ≠ 0 || t.fld 64 8 / 2 ^ 52 ≠ 0 ||
    t.fld 64 8 % 8 ≠ 0 || t.fld 72 8 / 2 ^ 52 ≠ 0 || t.fld 72 8 % 64 ≠ 0) := by
  rw [Bool.eq_iff_iff]
  simp only [Task.hdrRes, hdrReserved, firstNonzero, reservedLow, reservedHigh, Option.isSome_map, List.find?_isSome, List.cons_append, List.nil_append,
    List.mem_cons, List.not_mem_nil, or_false, Bool.or_eq_true, decide_eq_true_eq, exists_eq_or_imp, exists_eq_left, Task.fld]
  grind

theorem range_five : List.range 5 = [0, 1, 2, 3, 4] := rfl
theorem range_six : List.range 6 = [0, 1, 2, 3, 4, 5] := rfl

theorem badFields_eq : t.badFields = ((List.range 5).any (fun k => t.fld (24 + k) 1 = 0 && t.fld (25 + k) 1 ≠ 0) || t.fld 24 1 = 0 || 64 < t.wsum ||
    t.fld 16 8 = 0 || 2 ^ t.wsum < t.fld 16 8 || (List.range 5).any (fun k => (t.fld 30 1).testBit k && t.nfields ≤ k + 1)) := by
  have hsum : t.wsum = t.fld 24 1 + t.fld 25 1 + t.fld 26 1 + t.fld 27 1 + t.fld 28 1 + t.fld 29 1 := by
    simp [Task.wsum, Task.widths, Task.width, range_six]
  rw [Bool.eq_iff_iff]
  simp only [Task.badFields, Bool.or_eq_true]
  generalize ((List.range 5).any fun k => (t.fld 30 1).testBit k && decide (t.nfields ≤ k + 1)) = levels
  have hcnt : t.workCnt = t.fld 16 8 := rfl
  generalize 2 ^ t.wsum = count
  simp only [Task.widths, Task.width, range_five, range_six, List.map_cons, List.map_nil, List.any_cons, List.any_nil, List.all_cons, List.all_nil,
    List.getD_cons_zero, List.getD_cons_succ, Nat.reduceAdd, Bool.or_eq_true, Bool.and_eq_true, decide_eq_true_eq, Bool.or_false, Bool.and_true, hsum, or_false]
  cases levels <;> simp only [Bool.false_eq_true, or_false, or_true]
  omega

theorem badPlace_eq : t.badPlace = (t.fld 32 2 = 0 || 64 < t.fld 32 2 || t.fld 34 2 < t.fld 32 2 || 64 < t.fld 34 2 || t.fld 39 1 = 0 || 4 < t.fld 39 1) := rfl

theorem badPool_eq : t.badPool = (t.fld 40 4 / 2 ^ 12 ≠ 0 || t.fld 40 4 % 16 + t.fld 40 4 / 16 % 16 + t.fld 40 4 / 256 % 16 ≠ 8) := by
  have h : (2 ^ 12 ≤ t.fld 40 4) ↔ t.fld 40 4 / 2 ^ 12 ≠ 0 := by omega
  rw [Task.badPool, Task.pool, Task.munits, Task.sunits, Task.tunits, Task.pool, decide_eq_decide.2 h]

theorem badLease_eq : t.badLease = (16 < t.fld 38 1 || ((List.range (min 16 (t.fld 38 1))).map fun k => t.fld (128 + 8 * k) 8).any fun w =>
    w / 2 ^ 62 = 3 || w / 2 ^ 57 % 8 ≠ 0 || 2 ^ 52 < w / 2 ^ 12 % 2 ^ 40 * 2 ^ 12 + (w % 2 ^ 12 + 1) * 2 ^ (12 + w / 2 ^ 52 % 32)) := rfl

theorem badSave_eq : t.badSave = ((t.fld 31 1).testBit 0 &&
    match ((List.range (min 16 (t.fld 38 1))).map fun k => t.fld (128 + 8 * k) 8).filter (fun w => w.testBit 60) with
    | [w] => (w % 2 ^ 12 + 1) * 2 ^ (12 + w / 2 ^ 52 % 32) < 2 ^ 16 + t.fld 34 2 * t.nf * 2 ^ 19 + t.fld 44 4 * 144
    | _ => true) := rfl

theorem readGang_isNone (s : State) : (s.readGang t).isNone = match s.spaceBytes t.space (t.fld 72 8 % 2 ^ 52) 64 with
    | none => true
    | some d => field d 0 4 = 0 || field d 16 4 < 100000 || field d 24 4 < 50000 || field d 16 4 < field d 20 4 + field d 24 4 || field d 28 1 / 2 ≠ 0 ||
        field d 29 35 ≠ 0 := by
  rw [State.readGang, State.spaceBytes]
  cases h : s.imgRead t.space (t.fld 72 8 % 2 ^ 52) 0 64 with
  | error e => rfl
  | ok d =>
    dsimp only
    split
    next hbad => rw [hbad]; rfl
    next hgood => rw [(Bool.not_eq_true _).mp hgood]; rfl

end Rows

/-! ### A record's task accepted and checked (R61, R70, R73) -/

/-- What CHECK leaves of a task. -/
def State.afterCheck (s : State) (t : Task) : Task := match s.checkTask t with
  | .ok k => k
  | .error (reason, addr) => t.endAs .rejected reason addr

theorem modFn_reg {s : State} {fn : Nat} {g : HostFn → HostFn} (hg : (g (s.hostFn fn)).regs = (s.hostFn fn).regs) (f o : Nat) :
    (s.modFn fn g).reg f o = s.reg f o := by
  rw [State.reg, hostFn_modFn]
  split
  next h => rw [hg, h, State.reg]
  next => rfl

theorem noteCfgErr_reg (s : State) (t : Task) (die code addr f o : Nat) (h : o ≠ 0x2B0) (h' : o ≠ 0x2B8) :
    (s.noteCfgErr t die code addr).reg f o = s.reg f o := by
  rw [State.noteCfgErr]
  dsimp only
  split
  · split
    · rfl
    · rw [reg_setReg, if_neg (by tauto), reg_setReg, if_neg (by tauto), modFn_reg rfl]
  · rw [if_neg Bool.false_ne_true, reg_setReg, if_neg (by tauto), reg_setReg, if_neg (by tauto), modFn_reg rfl]

theorem takeCap_reg (s : State) (fn f o : Nat) : (s.takeCap fn).reg f o = s.reg f o := by
  unfold State.takeCap
  split <;> rfl

/-- CHECK on a task of the host, with no link lost: the task as it stands then joins the table. -/
theorem runCheck_spec {s : State} {t : Task} (hc : t.child = false) (hl : s.board.hostLoss = false) :
    ∃ v : State, s.runCheck t = v.setTask ((s.takeCap t.fn).afterCheck { t with noLine := t.fld 64 8 % 8 ≠ 0 }) ∧ v.reg 0 0x380 = s.reg 0 0x380 := by
  have hl' : (s.takeCap t.fn).board.hostLoss = false := by rw [(takeCap_readsAlike s t.fn).2.1, hl]
  rw [State.runCheck, State.afterCheck]
  dsimp only
  rw [if_neg (by simp [hc])]
  cases (s.takeCap t.fn).checkTask { t with noLine := t.fld 64 8 % 8 ≠ 0 } with
  | ok k =>
    refine ⟨s.takeCap t.fn, ?_, takeCap_reg _ _ _ _⟩
    dsimp only
    rw [State.setTask_board, hl', Bool.false_and, if_neg Bool.false_ne_true]
  | error e =>
    obtain ⟨reason, addr⟩ := e
    dsimp only
    by_cases h9 : reason = 9
    · rw [if_pos h9]
      exact ⟨_, rfl, by rw [noteCfgErr_reg _ _ _ _ _ _ _ (by decide) (by decide), takeCap_reg]⟩
    · rw [if_neg h9]
      exact ⟨_, rfl, takeCap_reg _ _ _ _⟩

/-- The task that a record makes, as it comes to CHECK. -/
def State.recordTask (s : State) (fn q : Nat) (r : LRec) (h : List Byte) : Task :=
  { newTask (s.freeNum s.sched.lastTask 4097) fn r.asid h r.rtag r.cval (r.intr && (none : Option PairCopy) ≠ some .b) r.vec false
      (bits (s.queue fn q).ctl 10 8) s.sched.acceptCtr s.clock.ns with
    pair := none, learned := s.clock.ptpNs, noLine := field h 64 8 % 8 ≠ 0 }

/-- The state in which a task is accepted: its number is taken. -/
def State.numbered (s : State) : State :=
  { s with sched := { s.sched with lastTask := s.freeNum s.sched.lastTask 4097, acceptCtr := s.sched.acceptCtr + 1 } }

theorem acceptRecord_spec {s : State} (hl : s.board.hostLoss = false) (fn q : Nat) (r : LRec) (h : List Byte) :
    (s.acceptRecord fn q r.asid r h none).2 = s.freeNum s.sched.lastTask 4097 ∧
    ∃ v : State, (s.acceptRecord fn q r.asid r h none).1 = v.setTask ((s.numbered.takeCap fn).afterCheck (s.recordTask fn q r h)) ∧
      v.reg 0 0x380 = s.reg 0 0x380 :=
  ⟨rfl, runCheck_spec (s := s.numbered) (t := { newTask (s.freeNum s.sched.lastTask 4097) fn r.asid h r.rtag r.cval
      (r.intr && (none : Option PairCopy) ≠ some .b) r.vec false (bits (s.queue fn q).ctl 10 8) s.sched.acceptCtr s.clock.ns with
    pair := none, learned := s.clock.ptpNs }) rfl hl⟩

theorem State.setTask_reg (s : State) (t : Task) (f o : Nat) : (s.setTask t).reg f o = s.reg f o := rfl

theorem measure_idle {s : State} (h : (s.reg 0 0x380).getLsbD 15 = false) (fn q n : Nat) : s.measure fn q n = s := by
  simp only [State.measure, h, Bool.false_and]
  rfl

theorem takeRecord_accepts {s : State} {fn q : Nat} {b h : List Byte} (hs : s.spaceBytes (256 * fn + (lrecOf b).asid) (lrecOf b).hdr 256 = some h)
    (h64 : field h 56 8 % 2 ^ 52 % 64 = 0) (hw : s.spaceWritable (256 * fn + (lrecOf b).asid) (field h 56 8 % 2 ^ 52) = true)
    (hm : s.mayAccept fn = true) (hp : s.paired fn q = false) : s.takeRecord fn q b =
      .launched ((s.acceptRecord fn q (lrecOf b).asid (lrecOf b) h none).1.measure fn q (s.acceptRecord fn q (lrecOf b).asid (lrecOf b) h none).2)
        (s.acceptRecord fn q (lrecOf b).asid (lrecOf b) h none).2 := by
  simp only [State.takeRecord, hs, h64, hw, hm, hp]
  rfl

theorem afterCheck_eq (s : State) (t : Task) : s.afterCheck t =
    match t.earlyRows.find? Prod.fst, (s.cachedNf t.cfgid).or (s.headerNf t.space t.image_) with
    | some x, _ => t.endAs .rejected x.2 0
    | none, none => t.endAs .rejected 9 t.image_
    | none, some nf => match (s.lateRows (t.withNf nf)).find? Prod.fst with
      | some x => t.endAs .rejected x.2 0
      | none => s.passed (t.withNf nf) := by
  rw [State.afterCheck, checkTask_eq, rejectBy_eq]
  cases t.earlyRows.find? Prod.fst with
  | some x => rfl
  | none =>
    cases (s.cachedNf t.cfgid).or (s.headerNf t.space t.image_) with
    | none => rfl
    | some nf =>
      dsimp only
      rw [rejectBy_eq]
      cases (s.lateRows (t.withNf nf)).find? Prod.fst <;> rfl

/-- A rejected task: what its completion record will say. -/
def Task.Rejected (k : Task) (reason faddr : Nat) : Prop := k.ending = true ∧ k.status = .rejected ∧ k.reason = reason ∧ k.faddr = faddr

theorem endAs_rejected {t : Task} (h : t.ending = false) (reason faddr : Nat) : (t.endAs .rejected reason faddr).Rejected reason faddr := by
  rw [Task.endAs, h]
  exact ⟨rfl, rfl, rfl, rfl⟩

/-- What CHECK leaves as it was: who launched the task, and with what header. -/
theorem afterCheck_keeps (s : State) (t : Task) : let k := s.afterCheck t
    k.num = t.num ∧ k.hdr = t.hdr ∧ k.fn = t.fn ∧ k.asid = t.asid ∧ k.rtag = t.rtag ∧ k.cval = t.cval := by
  have hend : ∀ reason faddr, let k := t.endAs .rejected reason faddr
      k.num = t.num ∧ k.hdr = t.hdr ∧ k.fn = t.fn ∧ k.asid = t.asid ∧ k.rtag = t.rtag ∧ k.cval = t.cval := fun reason faddr => by
    rw [Task.endAs]
    split <;> exact ⟨rfl, rfl, rfl, rfl, rfl, rfl⟩
  dsimp only
  rw [afterCheck_eq]
  split
  · exact hend _ _
  · exact hend _ _
  · split
    · exact hend _ _
    · exact ⟨rfl, rfl, rfl, rfl, rfl, rfl⟩

theorem levels_congr {k t : Task} (h : k.hdr = t.hdr) : k.levels = t.levels := by
  have hfld : ∀ off len, k.fld off len = t.fld off len := fun off len => by rw [Task.fld, Task.fld, h]
  have hw : k.widths = t.widths := List.map_congr_left fun _ _ => hfld _ _
  have hbelow : ∀ j, k.below j = t.below j := fun j => by rw [Task.below, Task.below, Task.wsum, Task.wsum, hw]
  have hcount : k.levelCount = t.levelCount := funext fun j => by
    rw [Task.levelCount, Task.levelCount, Task.workCnt, Task.workCnt, hfld, hfld, hbelow]
  rw [Task.levels, Task.levels, Task.levelBase, Task.levelBase, hcount]

/-- A record picked makes a task, checked as it joins the table. -/
theorem dispatchPick_accepts {s : State} {fn q prio : Nat} {b h : List Byte} (hd : s.sched.dispatching = true) (hp : s.board.phase = 8)
    (hf : s.board.fatal = false) (h0 : s.subject = 0) (hq : q < 64) (hn : s.pickNext = some (64 * fn + q, prio, b)) (hquiet : s.pickQuiet fn q b = true)
    (hl : s.board.hostLoss = false) (hmeas : (s.reg 0 0x380).getLsbD 15 = false) (hpair : s.paired fn q = false)
    (hs : s.spaceBytes (256 * fn + (lrecOf b).asid) (lrecOf b).hdr 256 = some h) (h64 : field h 56 8 % 2 ^ 52 % 64 = 0)
    (hw : s.spaceWritable (256 * fn + (lrecOf b).asid) (field h 56 8 % 2 ^ 52) = true) (hm : s.mayAccept fn = true) :
    ∃ t, exec .dispatchPick s = .next t ∧
      t.task? (s.freeNum s.sched.lastTask 4097) = some ((s.numbered.takeCap fn).afterCheck (s.recordTask fn q (lrecOf b) h)) := by
  obtain ⟨hnum, v, hv, hreg⟩ := acceptRecord_spec hl fn q (lrecOf b) h
  refine ⟨_, dispatchPick_next hd hp hf h0 hq hn hquiet, ?_⟩
  rw [pick_eq s hq, takeRecord_accepts hs h64 hw hm hpair, hv, measure_idle (by rw [State.setTask_reg, hreg, hmeas])]
  refine (task?_setTask v _ _).trans (if_pos ?_)
  exact ((afterCheck_keeps (s.numbered.takeCap fn) (s.recordTask fn q (lrecOf b) h)).1).symm

theorem numbered_readsAlike (s : State) (fn : Nat) : ReadsAlike s (s.numbered.takeCap fn) := takeCap_readsAlike s.numbered fn

theorem takeCap_fab (s : State) (fn : Nat) : (s.takeCap fn).fab = s.fab := by
  unfold State.takeCap
  split <;> rfl

theorem takeCap_vfFrets (s : State) (fn : Nat) : (s.numbered.takeCap fn).vfFrets fn = (s.takeCap fn).vfFrets fn := by
  unfold State.takeCap
  split <;> rfl

theorem takeCap_usableFrets (s : State) (fn : Nat) : (s.numbered.takeCap fn).usableFrets = s.usableFrets := by
  rw [State.usableFrets, takeCap_fab, State.usableFrets]
  rfl

theorem takeCap_cachedNf (s : State) (fn : Nat) (cfgid : Word) : (s.numbered.takeCap fn).cachedNf cfgid = s.cachedNf cfgid := by
  rw [State.cachedNf, takeCap_fab, State.cachedNf]
  rfl

/-- Settles O30: queues enabled, disabled and in error, the pick, and the header's rows. -/
theorem queueEvents : Obligations.QueueEvents := by
  intro s fn q x
  refine ⟨fun v hr hq h0 => queueEnable_next hr hq h0, fun v hr hq h0 => queueDisable_next hr hq h0,
    fun prio b hd hp hf h0 _ hq hn hquiet => dispatchPick_takes hd hp hf h0 hq hn hquiet, ?_, fun code hd hp hf _ hq hs hscan hquiet =>
      ⟨_, dispatchPick_error hd hp hf hq hs hscan hquiet, queueError_spec s fn q code⟩⟩
  intro prio b h hd hp hf h0 _ hq hn hquiet hl hmeas hpair sp f hs h64 hw hm ws sum leases early late
  obtain ⟨t, hrun, htask⟩ := dispatchPick_accepts hd hp hf h0 hq hn hquiet hl hmeas hpair hs h64 hw hm
  obtain ⟨-, hhdr, hfn, hasid, hrtag, hcval⟩ := afterCheck_keeps (s.numbered.takeCap fn) (s.recordTask fn q (lrecOf b) h)
  refine ⟨t, hrun, _, htask, hhdr, hfn, hasid, hrtag, hcval, ?_⟩
  generalize hk : (s.numbered.takeCap fn).afterCheck (s.recordTask fn q (lrecOf b) h) = k at hhdr ⊢
  generalize hT : s.recordTask fn q (lrecOf b) h = T at hk hhdr
  have hTh : T.hdr = h := by rw [← hT]; rfl
  have hTh : T.hdr = h := by rw [← hT]; rfl
  have hfld : ∀ off len, T.fld off len = f off len := fun off len => by rw [Task.fld, hTh]
  have hTfn : T.fn = fn := by rw [← hT]; rfl
  have hspace : T.space = sp := by rw [← hT]; rfl
  have hcfg : T.cfgid = BitVec.ofNat 64 (f 0 8) := by rw [← hT]; rfl
  have hend : T.ending = false := by rw [← hT]; rfl
  have himg : T.image_ = f 8 8 % 2 ^ 52 := by rw [Task.image_, hfld]
  have hws : T.widths = ws := List.map_congr_left fun _ _ => hfld _ _
  have hearly : T.earlyRows = early := by
    simp only [Task.earlyRows, hdrRes_eq, badFields_eq, badPlace_eq, Task.wsum, Task.nfields, hws, hfld]
    rfl
  have hlate : ∀ nf, (s.numbered.takeCap fn).lateRows (T.withNf nf) = late k nf := fun nf => by
    have hN : ∀ off len, (T.withNf nf).fld off len = f off len := hfld
    have hlev : (T.withNf nf).levels = k.levels := levels_congr hhdr.symm
    have hwfn : (T.withNf nf).fn = fn := hTfn
    have hneed : (T.withNf nf).need = f 32 2 * nf := congrArg (· * nf) (hfld _ _)
    have hwnf : (T.withNf nf).nf = nf := rfl
    have hwsp : (T.withNf nf).space = sp := hspace
    simp only [State.lateRows, badLease_eq, badPool_eq, badSave_eq, readGang_isNone, Task.ckpt, Task.hdrFlag, Task.cquota, hN, hlev, State.fretCap,
      takeCap_usableFrets, takeCap_vfFrets, spaceBytes_congr (numbered_readsAlike s fn), hwfn, hneed, hwnf, hwsp, Bool.or_comm _ (!(f 31 1).testBit 0)]
    rfl
  have hnf : ((s.numbered.takeCap fn).cachedNf T.cfgid).or ((s.numbered.takeCap fn).headerNf T.space T.image_) =
      (s.cachedNf (BitVec.ofNat 64 (f 0 8))).or (s.headerNf sp (f 8 8 % 2 ^ 52)) := by
    rw [takeCap_cachedNf, headerNf_congr (numbered_readsAlike s fn), hcfg, hspace, himg]
  rw [afterCheck_eq, hearly, hnf, himg] at hk
  cases hx : early.find? Prod.fst with
  | some x =>
    rw [hx] at hk
    exact hk ▸ endAs_rejected hend _ _
  | none =>
    rw [hx] at hk
    cases hy : (s.cachedNf (BitVec.ofNat 64 (f 0 8))).or (s.headerNf sp (f 8 8 % 2 ^ 52)) with
    | none =>
      rw [hy] at hk
      exact hk ▸ endAs_rejected hend _ _
    | some nf =>
      rw [hy] at hk
      dsimp only at hk ⊢
      rw [hlate] at hk
      cases hz : (late k nf).find? Prod.fst with
      | some x =>
        rw [hz] at hk
        exact hk ▸ endAs_rejected hend _ _
      | none =>
        rw [hz] at hk
        dsimp only at hk ⊢
        rw [← hk]
        exact ⟨rfl, hend, rfl, congrArg (· * nf) (hfld _ _)⟩

end Sys2Proof.Machine
end

section
/-!
PROOFS. What accesses of memory leave as it was: one lemma per operation, in the order of their definitions.
-/
namespace Sys2Proof.Machine

@[simp] theorem foldl_agenda {α : Type} (g : State → α → State) (l : List α) (s : State) (h : Everywhere (∀ s x, (g s x).agenda = s.agenda)) :
    (l.foldl g s).agenda = s.agenda :=
  foldl_same (fun s => s.agenda) h l s

@[simp] theorem foldl_fst_agenda {α β : Type} (g : State × β → α → State × β) (l : List α) (a : State × β)
    (h : Everywhere (∀ a x, (g a x).1.agenda = a.1.agenda)) : (l.foldl g a).1.agenda = a.1.agenda :=
  foldl_same (fun a => a.1.agenda) h l a

@[simp] theorem ite_agenda (c : Prop) [Decidable c] (s t : State) : (if c then s else t).agenda = if c then s.agenda else t.agenda :=
  apply_ite (fun s => s.agenda) c s t

@[simp] theorem foldl_eng {α : Type} (g : State → α → State) (l : List α) (s : State) (h : Everywhere (∀ s x, (g s x).eng = s.eng)) :
    (l.foldl g s).eng = s.eng :=
  foldl_same (fun s => s.eng) h l s

@[simp] theorem foldl_fst_eng {α β : Type} (g : State × β → α → State × β) (l : List α) (a : State × β)
    (h : Everywhere (∀ a x, (g a x).1.eng = a.1.eng)) : (l.foldl g a).1.eng = a.1.eng :=
  foldl_same (fun a => a.1.eng) h l a

@[simp] theorem ite_eng (c : Prop) [Decidable c] (s t : State) : (if c then s else t).eng = if c then s.eng else t.eng :=
  apply_ite (fun s => s.eng) c s t

@[simp] theorem foldl_fab {α : Type} (g : State → α → State) (l : List α) (s : State) (h : Everywhere (∀ s x, (g s x).fab = s.fab)) :
    (l.foldl g s).fab = s.fab :=
  foldl_same (fun s => s.fab) h l s

@[simp] theorem foldl_fst_fab {α β : Type} (g : State × β → α → State × β) (l : List α) (a : State × β)
    (h : Everywhere (∀ a x, (g a x).1.fab = a.1.fab)) : (l.foldl g a).1.fab = a.1.fab :=
  foldl_same (fun a => a.1.fab) h l a

@[simp] theorem ite_fab (c : Prop) [Decidable c] (s t : State) : (if c then s else t).fab = if c then s.fab else t.fab :=
  apply_ite (fun s => s.fab) c s t

@[simp] theorem foldl_focus {α : Type} (g : State → α → State) (l : List α) (s : State) (h : Everywhere (∀ s x, (g s x).focus = s.focus)) :
    (l.foldl g s).focus = s.focus :=
  foldl_same (fun s => s.focus) h l s

@[simp] theorem foldl_fst_focus {α β : Type} (g : State × β → α → State × β) (l : List α) (a : State × β)
    (h : Everywhere (∀ a x, (g a x).1.focus = a.1.focus)) : (l.foldl g a).1.focus = a.1.focus :=
  foldl_same (fun a => a.1.focus) h l a

@[simp] theorem ite_focus (c : Prop) [Decidable c] (s t : State) : (if c then s else t).focus = if c then s.focus else t.focus :=
  apply_ite (fun s => s.focus) c s t

@[simp] theorem foldl_host {α : Type} (g : State → α → State) (l : List α) (s : State) (h : Everywhere (∀ s x, (g s x).host = s.host)) :
    (l.foldl g s).host = s.host :=
  foldl_same (fun s => s.host) h l s

@[simp] theorem foldl_fst_host {α β : Type} (g : State × β → α → State × β) (l : List α) (a : State × β)
    (h : Everywhere (∀ a x, (g a x).1.host = a.1.host)) : (l.foldl g a).1.host = a.1.host :=
  foldl_same (fun a => a.1.host) h l a

@[simp] theorem ite_host (c : Prop) [Decidable c] (s t : State) : (if c then s else t).host = if c then s.host else t.host :=
  apply_ite (fun s => s.host) c s t

@[simp] theorem foldl_mem_acks {α : Type} (g : State → α → State) (l : List α) (s : State) (h : Everywhere (∀ s x, (g s x).mem.acks = s.mem.acks)) :
    (l.foldl g s).mem.acks = s.mem.acks :=
  foldl_same (fun s => s.mem.acks) h l s

@[simp] theorem foldl_fst_mem_acks {α β : Type} (g : State × β → α → State × β) (l : List α) (a : State × β)
    (h : Everywhere (∀ a x, (g a x).1.mem.acks = a.1.mem.acks)) : (l.foldl g a).1.mem.acks = a.1.mem.acks :=
  foldl_same (fun a => a.1.mem.acks) h l a

@[simp] theorem foldl_mem_acks' {α : Type} (g : Mem → α → Mem) (l : List α) (m : Mem) (h : Everywhere (∀ m x, (g m x).acks = m.acks)) :
    (l.foldl g m).acks = m.acks :=
  foldl_same (fun m => m.acks) h l m

@[simp] theorem ite_mem_acks (c : Prop) [Decidable c] (s t : State) : (if c then s else t).mem.acks = if c then s.mem.acks else t.mem.acks :=
  apply_ite (fun s => s.mem.acks) c s t

@[simp] theorem foldl_mem_backInv {α : Type} (g : State → α → State) (l : List α) (s : State) (h : Everywhere (∀ s x, (g s x).mem.backInv = s.mem.backInv)) :
    (l.foldl g s).mem.backInv = s.mem.backInv :=
  foldl_same (fun s => s.mem.backInv) h l s

@[simp] theorem foldl_fst_mem_backInv {α β : Type} (g : State × β → α → State × β) (l : List α) (a : State × β)
    (h : Everywhere (∀ a x, (g a x).1.mem.backInv = a.1.mem.backInv)) : (l.foldl g a).1.mem.backInv = a.1.mem.backInv :=
  foldl_same (fun a => a.1.mem.backInv) h l a

@[simp] theorem foldl_mem_backInv' {α : Type} (g : Mem → α → Mem) (l : List α) (m : Mem) (h : Everywhere (∀ m x, (g m x).backInv = m.backInv)) :
    (l.foldl g m).backInv = m.backInv :=
  foldl_same (fun m => m.backInv) h l m

@[simp] theorem ite_mem_backInv (c : Prop) [Decidable c] (s t : State) : (if c then s else t).mem.backInv = if c then s.mem.backInv else t.mem.backInv :=
  apply_ite (fun s => s.mem.backInv) c s t

@[simp] theorem foldl_mem_ctlb {α : Type} (g : State → α → State) (l : List α) (s : State) (h : Everywhere (∀ s x, (g s x).mem.ctlb = s.mem.ctlb)) :
    (l.foldl g s).mem.ctlb = s.mem.ctlb :=
  foldl_same (fun s => s.mem.ctlb) h l s

@[simp] theorem foldl_fst_mem_ctlb {α β : Type} (g : State × β → α → State × β) (l : List α) (a : State × β)
    (h : Everywhere (∀ a x, (g a x).1.mem.ctlb = a.1.mem.ctlb)) : (l.foldl g a).1.mem.ctlb = a.1.mem.ctlb :=
  foldl_same (fun a => a.1.mem.ctlb) h l a

@[simp] theorem foldl_mem_ctlb' {α : Type} (g : Mem → α → Mem) (l : List α) (m : Mem) (h : Everywhere (∀ m x, (g m x).ctlb = m.ctlb)) :
    (l.foldl g m).ctlb = m.ctlb :=
  foldl_same (fun m => m.ctlb) h l m

@[simp] theorem ite_mem_ctlb (c : Prop) [Decidable c] (s t : State) : (if c then s else t).mem.ctlb = if c then s.mem.ctlb else t.mem.ctlb :=
  apply_ite (fun s => s.mem.ctlb) c s t

@[simp] theorem foldl_mem_dtlb {α : Type} (g : State → α → State) (l : List α) (s : State) (h : Everywhere (∀ s x, (g s x).mem.dtlb = s.mem.dtlb)) :
    (l.foldl g s).mem.dtlb = s.mem.dtlb :=
  foldl_same (fun s => s.mem.dtlb) h l s

@[simp] theorem foldl_fst_mem_dtlb {α β : Type} (g : State × β → α → State × β) (l : List α) (a : State × β)
    (h : Everywhere (∀ a x, (g a x).1.mem.dtlb = a.1.mem.dtlb)) : (l.foldl g a).1.mem.dtlb = a.1.mem.dtlb :=
  foldl_same (fun a => a.1.mem.dtlb) h l a

@[simp] theorem foldl_mem_dtlb' {α : Type} (g : Mem → α → Mem) (l : List α) (m : Mem) (h : Everywhere (∀ m x, (g m x).dtlb = m.dtlb)) :
    (l.foldl g m).dtlb = m.dtlb :=
  foldl_same (fun m => m.dtlb) h l m

@[simp] theorem ite_mem_dtlb (c : Prop) [Decidable c] (s t : State) : (if c then s else t).mem.dtlb = if c then s.mem.dtlb else t.mem.dtlb :=
  apply_ite (fun s => s.mem.dtlb) c s t

@[simp] theorem foldl_mem_hdm {α : Type} (g : State → α → State) (l : List α) (s : State) (h : Everywhere (∀ s x, (g s x).mem.hdm = s.mem.hdm)) :
    (l.foldl g s).mem.hdm = s.mem.hdm :=
  foldl_same (fun s => s.mem.hdm) h l s

@[simp] theorem foldl_fst_mem_hdm {α β : Type} (g : State × β → α → State × β) (l : List α) (a : State × β)
    (h : Everywhere (∀ a x, (g a x).1.mem.hdm = a.1.mem.hdm)) : (l.foldl g a).1.mem.hdm = a.1.mem.hdm :=
  foldl_same (fun a => a.1.mem.hdm) h l a

@[simp] theorem foldl_mem_hdm' {α : Type} (g : Mem → α → Mem) (l : List α) (m : Mem) (h : Everywhere (∀ m x, (g m x).hdm = m.hdm)) :
    (l.foldl g m).hdm = m.hdm :=
  foldl_same (fun m => m.hdm) h l m

@[simp] theorem ite_mem_hdm (c : Prop) [Decidable c] (s t : State) : (if c then s else t).mem.hdm = if c then s.mem.hdm else t.mem.hdm :=
  apply_ite (fun s => s.mem.hdm) c s t

@[simp] theorem foldl_mem_hdmMod {α : Type} (g : State → α → State) (l : List α) (s : State) (h : Everywhere (∀ s x, (g s x).mem.hdmMod = s.mem.hdmMod)) :
    (l.foldl g s).mem.hdmMod = s.mem.hdmMod :=
  foldl_same (fun s => s.mem.hdmMod) h l s

@[simp] theorem foldl_fst_mem_hdmMod {α β : Type} (g : State × β → α → State × β) (l : List α) (a : State × β)
    (h : Everywhere (∀ a x, (g a x).1.mem.hdmMod = a.1.mem.hdmMod)) : (l.foldl g a).1.mem.hdmMod = a.1.mem.hdmMod :=
  foldl_same (fun a => a.1.mem.hdmMod) h l a

@[simp] theorem foldl_mem_hdmMod' {α : Type} (g : Mem → α → Mem) (l : List α) (m : Mem) (h : Everywhere (∀ m x, (g m x).hdmMod = m.hdmMod)) :
    (l.foldl g m).hdmMod = m.hdmMod :=
  foldl_same (fun m => m.hdmMod) h l m

@[simp] theorem ite_mem_hdmMod (c : Prop) [Decidable c] (s t : State) : (if c then s else t).mem.hdmMod = if c then s.mem.hdmMod else t.mem.hdmMod :=
  apply_ite (fun s => s.mem.hdmMod) c s t

@[simp] theorem foldl_mem_hlc {α : Type} (g : State → α → State) (l : List α) (s : State) (h : Everywhere (∀ s x, (g s x).mem.hlc = s.mem.hlc)) :
    (l.foldl g s).mem.hlc = s.mem.hlc :=
  foldl_same (fun s => s.mem.hlc) h l s

@[simp] theorem foldl_fst_mem_hlc {α β : Type} (g : State × β → α → State × β) (l : List α) (a : State × β)
    (h : Everywhere (∀ a x, (g a x).1.mem.hlc = a.1.mem.hlc)) : (l.foldl g a).1.mem.hlc = a.1.mem.hlc :=
  foldl_same (fun a => a.1.mem.hlc) h l a

@[simp] theorem foldl_mem_hlc' {α : Type} (g : Mem → α → Mem) (l : List α) (m : Mem) (h : Everywhere (∀ m x, (g m x).hlc = m.hlc)) :
    (l.foldl g m).hlc = m.hlc :=
  foldl_same (fun m => m.hlc) h l m

@[simp] theorem ite_mem_hlc (c : Prop) [Decidable c] (s t : State) : (if c then s else t).mem.hlc = if c then s.mem.hlc else t.mem.hlc :=
  apply_ite (fun s => s.mem.hlc) c s t

@[simp] theorem foldl_mem_hostMem {α : Type} (g : State → α → State) (l : List α) (s : State) (h : Everywhere (∀ s x, (g s x).mem.hostMem = s.mem.hostMem)) :
    (l.foldl g s).mem.hostMem = s.mem.hostMem :=
  foldl_same (fun s => s.mem.hostMem) h l s

@[simp] theorem foldl_fst_mem_hostMem {α β : Type} (g : State × β → α → State × β) (l : List α) (a : State × β)
    (h : Everywhere (∀ a x, (g a x).1.mem.hostMem = a.1.mem.hostMem)) : (l.foldl g a).1.mem.hostMem = a.1.mem.hostMem :=
  foldl_same (fun a => a.1.mem.hostMem) h l a

@[simp] theorem foldl_mem_hostMem' {α : Type} (g : Mem → α → Mem) (l : List α) (m : Mem) (h : Everywhere (∀ m x, (g m x).hostMem = m.hostMem)) :
    (l.foldl g m).hostMem = m.hostMem :=
  foldl_same (fun m => m.hostMem) h l m

@[simp] theorem ite_mem_hostMem (c : Prop) [Decidable c] (s t : State) : (if c then s else t).mem.hostMem = if c then s.mem.hostMem else t.mem.hostMem :=
  apply_ite (fun s => s.mem.hostMem) c s t

@[simp] theorem foldl_mem_hostPoison {α : Type} (g : State → α → State) (l : List α) (s : State) (h : Everywhere (∀ s x, (g s x).mem.hostPoison = s.mem.hostPoison)) :
    (l.foldl g s).mem.hostPoison = s.mem.hostPoison :=
  foldl_same (fun s => s.mem.hostPoison) h l s

@[simp] theorem foldl_fst_mem_hostPoison {α β : Type} (g : State × β → α → State × β) (l : List α) (a : State × β)
    (h : Everywhere (∀ a x, (g a x).1.mem.hostPoison = a.1.mem.hostPoison)) : (l.foldl g a).1.mem.hostPoison = a.1.mem.hostPoison :=
  foldl_same (fun a => a.1.mem.hostPoison) h l a

@[simp] theorem foldl_mem_hostPoison' {α : Type} (g : Mem → α → Mem) (l : List α) (m : Mem) (h : Everywhere (∀ m x, (g m x).hostPoison = m.hostPoison)) :
    (l.foldl g m).hostPoison = m.hostPoison :=
  foldl_same (fun m => m.hostPoison) h l m

@[simp] theorem ite_mem_hostPoison (c : Prop) [Decidable c] (s t : State) : (if c then s else t).mem.hostPoison = if c then s.mem.hostPoison else t.mem.hostPoison :=
  apply_ite (fun s => s.mem.hostPoison) c s t

@[simp] theorem foldl_mem_invs {α : Type} (g : State → α → State) (l : List α) (s : State) (h : Everywhere (∀ s x, (g s x).mem.invs = s.mem.invs)) :
    (l.foldl g s).mem.invs = s.mem.invs :=
  foldl_same (fun s => s.mem.invs) h l s

@[simp] theorem foldl_fst_mem_invs {α β : Type} (g : State × β → α → State × β) (l : List α) (a : State × β)
    (h : Everywhere (∀ a x, (g a x).1.mem.invs = a.1.mem.invs)) : (l.foldl g a).1.mem.invs = a.1.mem.invs :=
  foldl_same (fun a => a.1.mem.invs) h l a

@[simp] theorem foldl_mem_invs' {α : Type} (g : Mem → α → Mem) (l : List α) (m : Mem) (h : Everywhere (∀ m x, (g m x).invs = m.invs)) :
    (l.foldl g m).invs = m.invs :=
  foldl_same (fun m => m.invs) h l m

@[simp] theorem ite_mem_invs (c : Prop) [Decidable c] (s t : State) : (if c then s else t).mem.invs = if c then s.mem.invs else t.mem.invs :=
  apply_ite (fun s => s.mem.invs) c s t

@[simp] theorem foldl_mem_ldcWait {α : Type} (g : State → α → State) (l : List α) (s : State) (h : Everywhere (∀ s x, (g s x).mem.ldcWait = s.mem.ldcWait)) :
    (l.foldl g s).mem.ldcWait = s.mem.ldcWait :=
  foldl_same (fun s => s.mem.ldcWait) h l s

@[simp] theorem foldl_fst_mem_ldcWait {α β : Type} (g : State × β → α → State × β) (l : List α) (a : State × β)
    (h : Everywhere (∀ a x, (g a x).1.mem.ldcWait = a.1.mem.ldcWait)) : (l.foldl g a).1.mem.ldcWait = a.1.mem.ldcWait :=
  foldl_same (fun a => a.1.mem.ldcWait) h l a

@[simp] theorem foldl_mem_ldcWait' {α : Type} (g : Mem → α → Mem) (l : List α) (m : Mem) (h : Everywhere (∀ m x, (g m x).ldcWait = m.ldcWait)) :
    (l.foldl g m).ldcWait = m.ldcWait :=
  foldl_same (fun m => m.ldcWait) h l m

@[simp] theorem ite_mem_ldcWait (c : Prop) [Decidable c] (s t : State) : (if c then s else t).mem.ldcWait = if c then s.mem.ldcWait else t.mem.ldcWait :=
  apply_ite (fun s => s.mem.ldcWait) c s t

@[simp] theorem foldl_mem_migs {α : Type} (g : State → α → State) (l : List α) (s : State) (h : Everywhere (∀ s x, (g s x).mem.migs = s.mem.migs)) :
    (l.foldl g s).mem.migs = s.mem.migs :=
  foldl_same (fun s => s.mem.migs) h l s

@[simp] theorem foldl_fst_mem_migs {α β : Type} (g : State × β → α → State × β) (l : List α) (a : State × β)
    (h : Everywhere (∀ a x, (g a x).1.mem.migs = a.1.mem.migs)) : (l.foldl g a).1.mem.migs = a.1.mem.migs :=
  foldl_same (fun a => a.1.mem.migs) h l a

@[simp] theorem foldl_mem_migs' {α : Type} (g : Mem → α → Mem) (l : List α) (m : Mem) (h : Everywhere (∀ m x, (g m x).migs = m.migs)) :
    (l.foldl g m).migs = m.migs :=
  foldl_same (fun m => m.migs) h l m

@[simp] theorem ite_mem_migs (c : Prop) [Decidable c] (s t : State) : (if c then s else t).mem.migs = if c then s.mem.migs else t.mem.migs :=
  apply_ite (fun s => s.mem.migs) c s t

@[simp] theorem foldl_mem_msgs {α : Type} (g : State → α → State) (l : List α) (s : State) (h : Everywhere (∀ s x, (g s x).mem.msgs = s.mem.msgs)) :
    (l.foldl g s).mem.msgs = s.mem.msgs :=
  foldl_same (fun s => s.mem.msgs) h l s

@[simp] theorem foldl_fst_mem_msgs {α β : Type} (g : State × β → α → State × β) (l : List α) (a : State × β)
    (h : Everywhere (∀ a x, (g a x).1.mem.msgs = a.1.mem.msgs)) : (l.foldl g a).1.mem.msgs = a.1.mem.msgs :=
  foldl_same (fun a => a.1.mem.msgs) h l a

@[simp] theorem foldl_mem_msgs' {α : Type} (g : Mem → α → Mem) (l : List α) (m : Mem) (h : Everywhere (∀ m x, (g m x).msgs = m.msgs)) :
    (l.foldl g m).msgs = m.msgs :=
  foldl_same (fun m => m.msgs) h l m

@[simp] theorem ite_mem_msgs (c : Prop) [Decidable c] (s t : State) : (if c then s else t).mem.msgs = if c then s.mem.msgs else t.mem.msgs :=
  apply_ite (fun s => s.mem.msgs) c s t

@[simp] theorem foldl_mem_phy {α : Type} (g : State → α → State) (l : List α) (s : State) (h : Everywhere (∀ s x, (g s x).mem.phy = s.mem.phy)) :
    (l.foldl g s).mem.phy = s.mem.phy :=
  foldl_same (fun s => s.mem.phy) h l s

@[simp] theorem foldl_fst_mem_phy {α β : Type} (g : State × β → α → State × β) (l : List α) (a : State × β)
    (h : Everywhere (∀ a x, (g a x).1.mem.phy = a.1.mem.phy)) : (l.foldl g a).1.mem.phy = a.1.mem.phy :=
  foldl_same (fun a => a.1.mem.phy) h l a

@[simp] theorem foldl_mem_phy' {α : Type} (g : Mem → α → Mem) (l : List α) (m : Mem) (h : Everywhere (∀ m x, (g m x).phy = m.phy)) :
    (l.foldl g m).phy = m.phy :=
  foldl_same (fun m => m.phy) h l m

@[simp] theorem ite_mem_phy (c : Prop) [Decidable c] (s t : State) : (if c then s else t).mem.phy = if c then s.mem.phy else t.mem.phy :=
  apply_ite (fun s => s.mem.phy) c s t

@[simp] theorem foldl_mem_posts {α : Type} (g : State → α → State) (l : List α) (s : State) (h : Everywhere (∀ s x, (g s x).mem.posts = s.mem.posts)) :
    (l.foldl g s).mem.posts = s.mem.posts :=
  foldl_same (fun s => s.mem.posts) h l s

@[simp] theorem foldl_fst_mem_posts {α β : Type} (g : State × β → α → State × β) (l : List α) (a : State × β)
    (h : Everywhere (∀ a x, (g a x).1.mem.posts = a.1.mem.posts)) : (l.foldl g a).1.mem.posts = a.1.mem.posts :=
  foldl_same (fun a => a.1.mem.posts) h l a

@[simp] theorem foldl_mem_posts' {α : Type} (g : Mem → α → Mem) (l : List α) (m : Mem) (h : Everywhere (∀ m x, (g m x).posts = m.posts)) :
    (l.foldl g m).posts = m.posts :=
  foldl_same (fun m => m.posts) h l m

@[simp] theorem ite_mem_posts (c : Prop) [Decidable c] (s t : State) : (if c then s else t).mem.posts = if c then s.mem.posts else t.mem.posts :=
  apply_ite (fun s => s.mem.posts) c s t

@[simp] theorem foldl_mem_reqs {α : Type} (g : State → α → State) (l : List α) (s : State) (h : Everywhere (∀ s x, (g s x).mem.reqs = s.mem.reqs)) :
    (l.foldl g s).mem.reqs = s.mem.reqs :=
  foldl_same (fun s => s.mem.reqs) h l s

@[simp] theorem foldl_fst_mem_reqs {α β : Type} (g : State × β → α → State × β) (l : List α) (a : State × β)
    (h : Everywhere (∀ a x, (g a x).1.mem.reqs = a.1.mem.reqs)) : (l.foldl g a).1.mem.reqs = a.1.mem.reqs :=
  foldl_same (fun a => a.1.mem.reqs) h l a

@[simp] theorem foldl_mem_reqs' {α : Type} (g : Mem → α → Mem) (l : List α) (m : Mem) (h : Everywhere (∀ m x, (g m x).reqs = m.reqs)) :
    (l.foldl g m).reqs = m.reqs :=
  foldl_same (fun m => m.reqs) h l m

@[simp] theorem ite_mem_reqs (c : Prop) [Decidable c] (s t : State) : (if c then s else t).mem.reqs = if c then s.mem.reqs else t.mem.reqs :=
  apply_ite (fun s => s.mem.reqs) c s t

@[simp] theorem foldl_mem_spent {α : Type} (g : State → α → State) (l : List α) (s : State) (h : Everywhere (∀ s x, (g s x).mem.spent = s.mem.spent)) :
    (l.foldl g s).mem.spent = s.mem.spent :=
  foldl_same (fun s => s.mem.spent) h l s

@[simp] theorem foldl_fst_mem_spent {α β : Type} (g : State × β → α → State × β) (l : List α) (a : State × β)
    (h : Everywhere (∀ a x, (g a x).1.mem.spent = a.1.mem.spent)) : (l.foldl g a).1.mem.spent = a.1.mem.spent :=
  foldl_same (fun a => a.1.mem.spent) h l a

@[simp] theorem foldl_mem_spent' {α : Type} (g : Mem → α → Mem) (l : List α) (m : Mem) (h : Everywhere (∀ m x, (g m x).spent = m.spent)) :
    (l.foldl g m).spent = m.spent :=
  foldl_same (fun m => m.spent) h l m

@[simp] theorem ite_mem_spent (c : Prop) [Decidable c] (s t : State) : (if c then s else t).mem.spent = if c then s.mem.spent else t.mem.spent :=
  apply_ite (fun s => s.mem.spent) c s t

@[simp] theorem foldl_mem_tlb {α : Type} (g : State → α → State) (l : List α) (s : State) (h : Everywhere (∀ s x, (g s x).mem.tlb = s.mem.tlb)) :
    (l.foldl g s).mem.tlb = s.mem.tlb :=
  foldl_same (fun s => s.mem.tlb) h l s

@[simp] theorem foldl_fst_mem_tlb {α β : Type} (g : State × β → α → State × β) (l : List α) (a : State × β)
    (h : Everywhere (∀ a x, (g a x).1.mem.tlb = a.1.mem.tlb)) : (l.foldl g a).1.mem.tlb = a.1.mem.tlb :=
  foldl_same (fun a => a.1.mem.tlb) h l a

@[simp] theorem foldl_mem_tlb' {α : Type} (g : Mem → α → Mem) (l : List α) (m : Mem) (h : Everywhere (∀ m x, (g m x).tlb = m.tlb)) :
    (l.foldl g m).tlb = m.tlb :=
  foldl_same (fun m => m.tlb) h l m

@[simp] theorem ite_mem_tlb (c : Prop) [Decidable c] (s t : State) : (if c then s else t).mem.tlb = if c then s.mem.tlb else t.mem.tlb :=
  apply_ite (fun s => s.mem.tlb) c s t

@[simp] theorem foldl_mem_txns {α : Type} (g : State → α → State) (l : List α) (s : State) (h : Everywhere (∀ s x, (g s x).mem.txns = s.mem.txns)) :
    (l.foldl g s).mem.txns = s.mem.txns :=
  foldl_same (fun s => s.mem.txns) h l s

@[simp] theorem foldl_fst_mem_txns {α β : Type} (g : State × β → α → State × β) (l : List α) (a : State × β)
    (h : Everywhere (∀ a x, (g a x).1.mem.txns = a.1.mem.txns)) : (l.foldl g a).1.mem.txns = a.1.mem.txns :=
  foldl_same (fun a => a.1.mem.txns) h l a

@[simp] theorem foldl_mem_txns' {α : Type} (g : Mem → α → Mem) (l : List α) (m : Mem) (h : Everywhere (∀ m x, (g m x).txns = m.txns)) :
    (l.foldl g m).txns = m.txns :=
  foldl_same (fun m => m.txns) h l m

@[simp] theorem ite_mem_txns (c : Prop) [Decidable c] (s t : State) : (if c then s else t).mem.txns = if c then s.mem.txns else t.mem.txns :=
  apply_ite (fun s => s.mem.txns) c s t

@[simp] theorem foldl_mem_withheld {α : Type} (g : State → α → State) (l : List α) (s : State) (h : Everywhere (∀ s x, (g s x).mem.withheld = s.mem.withheld)) :
    (l.foldl g s).mem.withheld = s.mem.withheld :=
  foldl_same (fun s => s.mem.withheld) h l s

@[simp] theorem foldl_fst_mem_withheld {α β : Type} (g : State × β → α → State × β) (l : List α) (a : State × β)
    (h : Everywhere (∀ a x, (g a x).1.mem.withheld = a.1.mem.withheld)) : (l.foldl g a).1.mem.withheld = a.1.mem.withheld :=
  foldl_same (fun a => a.1.mem.withheld) h l a

@[simp] theorem foldl_mem_withheld' {α : Type} (g : Mem → α → Mem) (l : List α) (m : Mem) (h : Everywhere (∀ m x, (g m x).withheld = m.withheld)) :
    (l.foldl g m).withheld = m.withheld :=
  foldl_same (fun m => m.withheld) h l m

@[simp] theorem ite_mem_withheld (c : Prop) [Decidable c] (s t : State) : (if c then s else t).mem.withheld = if c then s.mem.withheld else t.mem.withheld :=
  apply_ite (fun s => s.mem.withheld) c s t

@[simp] theorem foldl_obs {α : Type} (g : State → α → State) (l : List α) (s : State) (h : Everywhere (∀ s x, (g s x).obs = s.obs)) :
    (l.foldl g s).obs = s.obs :=
  foldl_same (fun s => s.obs) h l s

@[simp] theorem foldl_fst_obs {α β : Type} (g : State × β → α → State × β) (l : List α) (a : State × β)
    (h : Everywhere (∀ a x, (g a x).1.obs = a.1.obs)) : (l.foldl g a).1.obs = a.1.obs :=
  foldl_same (fun a => a.1.obs) h l a

@[simp] theorem ite_obs (c : Prop) [Decidable c] (s t : State) : (if c then s else t).obs = if c then s.obs else t.obs :=
  apply_ite (fun s => s.obs) c s t

@[simp] theorem foldl_subject {α : Type} (g : State → α → State) (l : List α) (s : State) (h : Everywhere (∀ s x, (g s x).subject = s.subject)) :
    (l.foldl g s).subject = s.subject :=
  foldl_same (fun s => s.subject) h l s

@[simp] theorem foldl_fst_subject {α β : Type} (g : State × β → α → State × β) (l : List α) (a : State × β)
    (h : Everywhere (∀ a x, (g a x).1.subject = a.1.subject)) : (l.foldl g a).1.subject = a.1.subject :=
  foldl_same (fun a => a.1.subject) h l a

@[simp] theorem ite_subject (c : Prop) [Decidable c] (s t : State) : (if c then s else t).subject = if c then s.subject else t.subject :=
  apply_ite (fun s => s.subject) c s t

@[simp] theorem Mem.putHbmLine_leaves (m : Mem) (line : ℕ) (d : Line) :
    (m.putHbmLine line d).acks = m.acks ∧ (m.putHbmLine line d).backInv = m.backInv ∧ (m.putHbmLine line d).ctlb = m.ctlb ∧
    (m.putHbmLine line d).dtlb = m.dtlb ∧ (m.putHbmLine line d).hdm = m.hdm ∧ (m.putHbmLine line d).hdmMod = m.hdmMod ∧
    (m.putHbmLine line d).hlc = m.hlc ∧ (m.putHbmLine line d).hostMem = m.hostMem ∧ (m.putHbmLine line d).hostPoison = m.hostPoison ∧
    (m.putHbmLine line d).invs = m.invs ∧ (m.putHbmLine line d).ldcWait = m.ldcWait ∧ (m.putHbmLine line d).migs = m.migs ∧
    (m.putHbmLine line d).msgs = m.msgs ∧ (m.putHbmLine line d).phy = m.phy ∧ (m.putHbmLine line d).posts = m.posts ∧
    (m.putHbmLine line d).reqs = m.reqs ∧ (m.putHbmLine line d).spent = m.spent ∧ (m.putHbmLine line d).tlb = m.tlb ∧
    (m.putHbmLine line d).txns = m.txns ∧ (m.putHbmLine line d).withheld = m.withheld := ⟨rfl, rfl, rfl, rfl, rfl, rfl, rfl, rfl, rfl, rfl, rfl, rfl, rfl, rfl, rfl, rfl, rfl, rfl, rfl, rfl⟩

@[simp] theorem Mem.mscFlush_leaves (m : Mem) (line : ℕ) :
    (m.mscFlush line).acks = m.acks ∧ (m.mscFlush line).backInv = m.backInv ∧ (m.mscFlush line).ctlb = m.ctlb ∧ (m.mscFlush line).dtlb = m.dtlb ∧
    (m.mscFlush line).hdm = m.hdm ∧ (m.mscFlush line).hdmMod = m.hdmMod ∧ (m.mscFlush line).hlc = m.hlc ∧ (m.mscFlush line).hostMem = m.hostMem ∧
    (m.mscFlush line).hostPoison = m.hostPoison ∧ (m.mscFlush line).invs = m.invs ∧ (m.mscFlush line).ldcWait = m.ldcWait ∧
    (m.mscFlush line).migs = m.migs ∧ (m.mscFlush line).msgs = m.msgs ∧ (m.mscFlush line).phy = m.phy ∧ (m.mscFlush line).posts = m.posts ∧
    (m.mscFlush line).reqs = m.reqs ∧ (m.mscFlush line).spent = m.spent ∧ (m.mscFlush line).tlb = m.tlb ∧ (m.mscFlush line).txns = m.txns ∧
    (m.mscFlush line).withheld = m.withheld := by
  unfold Mem.mscFlush
  (repeat' split) <;> simp

@[simp] theorem Mem.putMsc_leaves (m : Mem) (line : ℕ) (x : MscLine) :
    (m.putMsc line x).acks = m.acks ∧ (m.putMsc line x).backInv = m.backInv ∧ (m.putMsc line x).ctlb = m.ctlb ∧ (m.putMsc line x).dtlb = m.dtlb ∧
    (m.putMsc line x).hdm = m.hdm ∧ (m.putMsc line x).hdmMod = m.hdmMod ∧ (m.putMsc line x).hlc = m.hlc ∧ (m.putMsc line x).hostMem = m.hostMem ∧
    (m.putMsc line x).hostPoison = m.hostPoison ∧ (m.putMsc line x).invs = m.invs ∧ (m.putMsc line x).ldcWait = m.ldcWait ∧
    (m.putMsc line x).migs = m.migs ∧ (m.putMsc line x).msgs = m.msgs ∧ (m.putMsc line x).phy = m.phy ∧ (m.putMsc line x).posts = m.posts ∧
    (m.putMsc line x).reqs = m.reqs ∧ (m.putMsc line x).spent = m.spent ∧ (m.putMsc line x).tlb = m.tlb ∧ (m.putMsc line x).txns = m.txns ∧
    (m.putMsc line x).withheld = m.withheld := by
  simp only [Mem.putMsc]
  (repeat' split) <;> simp

@[simp] theorem Mem.toMsc_leaves (m : Mem) (line : ℕ) (d : Line) :
    (m.toMsc line d).acks = m.acks ∧ (m.toMsc line d).backInv = m.backInv ∧ (m.toMsc line d).ctlb = m.ctlb ∧ (m.toMsc line d).dtlb = m.dtlb ∧
    (m.toMsc line d).hdm = m.hdm ∧ (m.toMsc line d).hdmMod = m.hdmMod ∧ (m.toMsc line d).hlc = m.hlc ∧ (m.toMsc line d).hostMem = m.hostMem ∧
    (m.toMsc line d).hostPoison = m.hostPoison ∧ (m.toMsc line d).invs = m.invs ∧ (m.toMsc line d).ldcWait = m.ldcWait ∧
    (m.toMsc line d).migs = m.migs ∧ (m.toMsc line d).msgs = m.msgs ∧ (m.toMsc line d).phy = m.phy ∧ (m.toMsc line d).posts = m.posts ∧
    (m.toMsc line d).reqs = m.reqs ∧ (m.toMsc line d).spent = m.spent ∧ (m.toMsc line d).tlb = m.tlb ∧ (m.toMsc line d).txns = m.txns ∧
    (m.toMsc line d).withheld = m.withheld := by
  simp [Mem.toMsc]

@[simp] theorem Mem.endHdm_leaves (m : Mem) (line : ℕ) :
    (m.endHdm line).acks = m.acks ∧ (m.endHdm line).ctlb = m.ctlb ∧ (m.endHdm line).dtlb = m.dtlb ∧ (m.endHdm line).hlc = m.hlc ∧
    (m.endHdm line).hostMem = m.hostMem ∧ (m.endHdm line).hostPoison = m.hostPoison ∧ (m.endHdm line).invs = m.invs ∧
    (m.endHdm line).ldcWait = m.ldcWait ∧ (m.endHdm line).migs = m.migs ∧ (m.endHdm line).msgs = m.msgs ∧ (m.endHdm line).phy = m.phy ∧
    (m.endHdm line).posts = m.posts ∧ (m.endHdm line).reqs = m.reqs ∧ (m.endHdm line).spent = m.spent ∧ (m.endHdm line).tlb = m.tlb ∧
    (m.endHdm line).txns = m.txns ∧ (m.endHdm line).withheld = m.withheld := by
  unfold Mem.endHdm
  (repeat' split) <;> simp

@[simp] theorem Mem.backInvalidate_leaves (m : Mem) (line : ℕ) :
    (m.backInvalidate line).acks = m.acks ∧ (m.backInvalidate line).ctlb = m.ctlb ∧ (m.backInvalidate line).dtlb = m.dtlb ∧
    (m.backInvalidate line).hlc = m.hlc ∧ (m.backInvalidate line).hostMem = m.hostMem ∧ (m.backInvalidate line).hostPoison = m.hostPoison ∧
    (m.backInvalidate line).invs = m.invs ∧ (m.backInvalidate line).ldcWait = m.ldcWait ∧ (m.backInvalidate line).migs = m.migs ∧
    (m.backInvalidate line).msgs = m.msgs ∧ (m.backInvalidate line).phy = m.phy ∧ (m.backInvalidate line).posts = m.posts ∧
    (m.backInvalidate line).reqs = m.reqs ∧ (m.backInvalidate line).spent = m.spent ∧ (m.backInvalidate line).tlb = m.tlb ∧
    (m.backInvalidate line).txns = m.txns ∧ (m.backInvalidate line).withheld = m.withheld := by
  unfold Mem.backInvalidate
  split <;> simp

@[simp] theorem Mem.checkHbm_leaves (m : Mem) (line : ℕ) :
    (m.checkHbm line).acks = m.acks ∧ (m.checkHbm line).backInv = m.backInv ∧ (m.checkHbm line).ctlb = m.ctlb ∧ (m.checkHbm line).dtlb = m.dtlb ∧
    (m.checkHbm line).hdm = m.hdm ∧ (m.checkHbm line).hdmMod = m.hdmMod ∧ (m.checkHbm line).hlc = m.hlc ∧ (m.checkHbm line).hostMem = m.hostMem ∧
    (m.checkHbm line).hostPoison = m.hostPoison ∧ (m.checkHbm line).invs = m.invs ∧ (m.checkHbm line).ldcWait = m.ldcWait ∧
    (m.checkHbm line).migs = m.migs ∧ (m.checkHbm line).msgs = m.msgs ∧ (m.checkHbm line).phy = m.phy ∧ (m.checkHbm line).posts = m.posts ∧
    (m.checkHbm line).reqs = m.reqs ∧ (m.checkHbm line).spent = m.spent ∧ (m.checkHbm line).tlb = m.tlb ∧ (m.checkHbm line).txns = m.txns ∧
    (m.checkHbm line).withheld = m.withheld := by
  unfold Mem.checkHbm
  (repeat' split) <;> simp

@[simp] theorem Mem.checkRead_leaves (m : Mem) (line : ℕ) :
    (m.checkRead line).acks = m.acks ∧ (m.checkRead line).ctlb = m.ctlb ∧ (m.checkRead line).dtlb = m.dtlb ∧ (m.checkRead line).hlc = m.hlc ∧
    (m.checkRead line).hostMem = m.hostMem ∧ (m.checkRead line).hostPoison = m.hostPoison ∧ (m.checkRead line).invs = m.invs ∧
    (m.checkRead line).ldcWait = m.ldcWait ∧ (m.checkRead line).migs = m.migs ∧ (m.checkRead line).msgs = m.msgs ∧ (m.checkRead line).phy = m.phy ∧
    (m.checkRead line).posts = m.posts ∧ (m.checkRead line).reqs = m.reqs ∧ (m.checkRead line).spent = m.spent ∧ (m.checkRead line).tlb = m.tlb ∧
    (m.checkRead line).txns = m.txns ∧ (m.checkRead line).withheld = m.withheld := by
  unfold Mem.checkRead
  split <;> simp

@[simp] theorem Mem.recallAll_leaves (m : Mem) (line : ℕ) :
    (m.recallAll line).acks = m.acks ∧ (m.recallAll line).backInv = m.backInv ∧ (m.recallAll line).ctlb = m.ctlb ∧ (m.recallAll line).dtlb = m.dtlb ∧
    (m.recallAll line).hdm = m.hdm ∧ (m.recallAll line).hdmMod = m.hdmMod ∧ (m.recallAll line).hlc = m.hlc ∧ (m.recallAll line).hostMem = m.hostMem ∧
    (m.recallAll line).hostPoison = m.hostPoison ∧ (m.recallAll line).invs = m.invs ∧ (m.recallAll line).ldcWait = m.ldcWait ∧
    (m.recallAll line).migs = m.migs ∧ (m.recallAll line).msgs = m.msgs ∧ (m.recallAll line).phy = m.phy ∧ (m.recallAll line).posts = m.posts ∧
    (m.recallAll line).reqs = m.reqs ∧ (m.recallAll line).spent = m.spent ∧ (m.recallAll line).tlb = m.tlb ∧ (m.recallAll line).txns = m.txns ∧
    (m.recallAll line).withheld = m.withheld := ⟨rfl, rfl, rfl, rfl, rfl, rfl, rfl, rfl, rfl, rfl, rfl, rfl, rfl, rfl, rfl, rfl, rfl, rfl, rfl, rfl⟩

@[simp] theorem Mem.evictL2_leaves (m : Mem) (line : ℕ) :
    (m.evictL2 line).acks = m.acks ∧ (m.evictL2 line).backInv = m.backInv ∧ (m.evictL2 line).ctlb = m.ctlb ∧ (m.evictL2 line).dtlb = m.dtlb ∧
    (m.evictL2 line).hdm = m.hdm ∧ (m.evictL2 line).hdmMod = m.hdmMod ∧ (m.evictL2 line).hlc = m.hlc ∧ (m.evictL2 line).hostMem = m.hostMem ∧
    (m.evictL2 line).hostPoison = m.hostPoison ∧ (m.evictL2 line).invs = m.invs ∧ (m.evictL2 line).ldcWait = m.ldcWait ∧
    (m.evictL2 line).migs = m.migs ∧ (m.evictL2 line).msgs = m.msgs ∧ (m.evictL2 line).phy = m.phy ∧ (m.evictL2 line).posts = m.posts ∧
    (m.evictL2 line).reqs = m.reqs ∧ (m.evictL2 line).spent = m.spent ∧ (m.evictL2 line).tlb = m.tlb ∧ (m.evictL2 line).txns = m.txns ∧
    (m.evictL2 line).withheld = m.withheld := by
  simp only [Mem.evictL2]
  (repeat' split) <;> simp

@[simp] theorem Mem.ensureL2_leaves (m : Mem) (line : ℕ) (used : ℕ) :
    (m.ensureL2 line used).acks = m.acks ∧ (m.ensureL2 line used).backInv = m.backInv ∧ (m.ensureL2 line used).ctlb = m.ctlb ∧
    (m.ensureL2 line used).dtlb = m.dtlb ∧ (m.ensureL2 line used).hdm = m.hdm ∧ (m.ensureL2 line used).hdmMod = m.hdmMod ∧
    (m.ensureL2 line used).hlc = m.hlc ∧ (m.ensureL2 line used).hostMem = m.hostMem ∧ (m.ensureL2 line used).hostPoison = m.hostPoison ∧
    (m.ensureL2 line used).invs = m.invs ∧ (m.ensureL2 line used).ldcWait = m.ldcWait ∧ (m.ensureL2 line used).migs = m.migs ∧
    (m.ensureL2 line used).msgs = m.msgs ∧ (m.ensureL2 line used).phy = m.phy ∧ (m.ensureL2 line used).posts = m.posts ∧
    (m.ensureL2 line used).reqs = m.reqs ∧ (m.ensureL2 line used).spent = m.spent ∧ (m.ensureL2 line used).tlb = m.tlb ∧
    (m.ensureL2 line used).txns = m.txns ∧ (m.ensureL2 line used).withheld = m.withheld := by
  simp only [Mem.ensureL2]
  (repeat' split) <;> simp

@[simp] theorem Mem.fetchHdm_leaves (m : Mem) (line : ℕ) :
    (m.fetchHdm line).acks = m.acks ∧ (m.fetchHdm line).ctlb = m.ctlb ∧ (m.fetchHdm line).dtlb = m.dtlb ∧ (m.fetchHdm line).hlc = m.hlc ∧
    (m.fetchHdm line).hostMem = m.hostMem ∧ (m.fetchHdm line).hostPoison = m.hostPoison ∧ (m.fetchHdm line).invs = m.invs ∧
    (m.fetchHdm line).ldcWait = m.ldcWait ∧ (m.fetchHdm line).migs = m.migs ∧ (m.fetchHdm line).msgs = m.msgs ∧ (m.fetchHdm line).phy = m.phy ∧
    (m.fetchHdm line).posts = m.posts ∧ (m.fetchHdm line).reqs = m.reqs ∧ (m.fetchHdm line).spent = m.spent ∧ (m.fetchHdm line).tlb = m.tlb ∧
    (m.fetchHdm line).txns = m.txns ∧ (m.fetchHdm line).withheld = m.withheld := by
  unfold Mem.fetchHdm
  split <;> simp

@[simp] theorem Mem.share_leaves (m : Mem) (line : ℕ) :
    (m.share line).acks = m.acks ∧ (m.share line).backInv = m.backInv ∧ (m.share line).ctlb = m.ctlb ∧ (m.share line).dtlb = m.dtlb ∧
    (m.share line).hdm = m.hdm ∧ (m.share line).hdmMod = m.hdmMod ∧ (m.share line).hlc = m.hlc ∧ (m.share line).hostMem = m.hostMem ∧
    (m.share line).hostPoison = m.hostPoison ∧ (m.share line).invs = m.invs ∧ (m.share line).ldcWait = m.ldcWait ∧ (m.share line).migs = m.migs ∧
    (m.share line).msgs = m.msgs ∧ (m.share line).phy = m.phy ∧ (m.share line).posts = m.posts ∧ (m.share line).reqs = m.reqs ∧
    (m.share line).spent = m.spent ∧ (m.share line).tlb = m.tlb ∧ (m.share line).txns = m.txns ∧ (m.share line).withheld = m.withheld := ⟨rfl, rfl, rfl, rfl, rfl, rfl, rfl, rfl, rfl, rfl, rfl, rfl, rfl, rfl, rfl, rfl, rfl, rfl, rfl, rfl⟩

@[simp] theorem Mem.homeRead_leaves (m : Mem) (line : ℕ) (used : ℕ) :
    (m.homeRead line used).acks = m.acks ∧ (m.homeRead line used).ctlb = m.ctlb ∧ (m.homeRead line used).dtlb = m.dtlb ∧
    (m.homeRead line used).hlc = m.hlc ∧ (m.homeRead line used).hostMem = m.hostMem ∧ (m.homeRead line used).hostPoison = m.hostPoison ∧
    (m.homeRead line used).invs = m.invs ∧ (m.homeRead line used).ldcWait = m.ldcWait ∧ (m.homeRead line used).migs = m.migs ∧
    (m.homeRead line used).msgs = m.msgs ∧ (m.homeRead line used).phy = m.phy ∧ (m.homeRead line used).posts = m.posts ∧
    (m.homeRead line used).reqs = m.reqs ∧ (m.homeRead line used).spent = m.spent ∧ (m.homeRead line used).tlb = m.tlb ∧
    (m.homeRead line used).txns = m.txns ∧ (m.homeRead line used).withheld = m.withheld := by
  simp [Mem.homeRead]

@[simp] theorem Mem.recheck_leaves (m : Mem) (line : ℕ) (d : Line) :
    (m.recheck line d).acks = m.acks ∧ (m.recheck line d).backInv = m.backInv ∧ (m.recheck line d).ctlb = m.ctlb ∧ (m.recheck line d).dtlb = m.dtlb ∧
    (m.recheck line d).hdm = m.hdm ∧ (m.recheck line d).hdmMod = m.hdmMod ∧ (m.recheck line d).hlc = m.hlc ∧ (m.recheck line d).hostMem = m.hostMem ∧
    (m.recheck line d).hostPoison = m.hostPoison ∧ (m.recheck line d).invs = m.invs ∧ (m.recheck line d).ldcWait = m.ldcWait ∧
    (m.recheck line d).migs = m.migs ∧ (m.recheck line d).msgs = m.msgs ∧ (m.recheck line d).phy = m.phy ∧ (m.recheck line d).posts = m.posts ∧
    (m.recheck line d).reqs = m.reqs ∧ (m.recheck line d).spent = m.spent ∧ (m.recheck line d).tlb = m.tlb ∧ (m.recheck line d).txns = m.txns ∧
    (m.recheck line d).withheld = m.withheld := ⟨rfl, rfl, rfl, rfl, rfl, rfl, rfl, rfl, rfl, rfl, rfl, rfl, rfl, rfl, rfl, rfl, rfl, rfl, rfl, rfl⟩

@[simp] theorem Mem.homeWrite_leaves (m : Mem) (line : ℕ) (off : ℕ) (n : ℕ) (v : ℕ) (used : ℕ) :
    (m.homeWrite line off n v used).acks = m.acks ∧ (m.homeWrite line off n v used).ctlb = m.ctlb ∧ (m.homeWrite line off n v used).dtlb = m.dtlb ∧
    (m.homeWrite line off n v used).hlc = m.hlc ∧ (m.homeWrite line off n v used).hostMem = m.hostMem ∧
    (m.homeWrite line off n v used).hostPoison = m.hostPoison ∧ (m.homeWrite line off n v used).invs = m.invs ∧
    (m.homeWrite line off n v used).ldcWait = m.ldcWait ∧ (m.homeWrite line off n v used).migs = m.migs ∧
    (m.homeWrite line off n v used).msgs = m.msgs ∧ (m.homeWrite line off n v used).phy = m.phy ∧ (m.homeWrite line off n v used).posts = m.posts ∧
    (m.homeWrite line off n v used).reqs = m.reqs ∧ (m.homeWrite line off n v used).spent = m.spent ∧ (m.homeWrite line off n v used).tlb = m.tlb ∧
    (m.homeWrite line off n v used).txns = m.txns ∧ (m.homeWrite line off n v used).withheld = m.withheld := by
  simp [Mem.homeWrite]

@[simp] theorem Mem.patchHbm_leaves (m : Mem) (line : ℕ) (off : ℕ) (n : ℕ) (v : ℕ) :
    (m.patchHbm line off n v).acks = m.acks ∧ (m.patchHbm line off n v).ctlb = m.ctlb ∧ (m.patchHbm line off n v).dtlb = m.dtlb ∧
    (m.patchHbm line off n v).hlc = m.hlc ∧ (m.patchHbm line off n v).hostMem = m.hostMem ∧ (m.patchHbm line off n v).hostPoison = m.hostPoison ∧
    (m.patchHbm line off n v).invs = m.invs ∧ (m.patchHbm line off n v).ldcWait = m.ldcWait ∧ (m.patchHbm line off n v).migs = m.migs ∧
    (m.patchHbm line off n v).msgs = m.msgs ∧ (m.patchHbm line off n v).phy = m.phy ∧ (m.patchHbm line off n v).posts = m.posts ∧
    (m.patchHbm line off n v).reqs = m.reqs ∧ (m.patchHbm line off n v).spent = m.spent ∧ (m.patchHbm line off n v).tlb = m.tlb ∧
    (m.patchHbm line off n v).txns = m.txns ∧ (m.patchHbm line off n v).withheld = m.withheld := by
  simp [Mem.patchHbm]

@[simp] theorem Mem.settlePosts_leaves (m : Mem) (hit : Post → Bool) :
    (m.settlePosts hit).acks = m.acks ∧ (m.settlePosts hit).ctlb = m.ctlb ∧ (m.settlePosts hit).dtlb = m.dtlb ∧
    (m.settlePosts hit).hostPoison = m.hostPoison ∧ (m.settlePosts hit).invs = m.invs ∧ (m.settlePosts hit).ldcWait = m.ldcWait ∧
    (m.settlePosts hit).migs = m.migs ∧ (m.settlePosts hit).msgs = m.msgs ∧ (m.settlePosts hit).phy = m.phy ∧ (m.settlePosts hit).reqs = m.reqs ∧
    (m.settlePosts hit).spent = m.spent ∧ (m.settlePosts hit).tlb = m.tlb ∧ (m.settlePosts hit).txns = m.txns ∧
    (m.settlePosts hit).withheld = m.withheld := by
  unfold Mem.settlePosts
  split <;> simp

@[simp] theorem State.drawFree_leaves (s : State) :
    (s.drawFree).mem.acks = s.mem.acks ∧ (s.drawFree).mem.ctlb = s.mem.ctlb ∧ (s.drawFree).mem.dtlb = s.mem.dtlb ∧
    (s.drawFree).mem.hostPoison = s.mem.hostPoison ∧ (s.drawFree).mem.invs = s.mem.invs ∧ (s.drawFree).mem.ldcWait = s.mem.ldcWait ∧
    (s.drawFree).mem.migs = s.mem.migs ∧ (s.drawFree).mem.msgs = s.mem.msgs ∧ (s.drawFree).mem.phy = s.mem.phy ∧ (s.drawFree).mem.reqs = s.mem.reqs ∧
    (s.drawFree).mem.spent = s.mem.spent ∧ (s.drawFree).mem.tlb = s.mem.tlb ∧ (s.drawFree).mem.txns = s.mem.txns ∧
    (s.drawFree).mem.withheld = s.mem.withheld := ⟨rfl, rfl, rfl, rfl, rfl, rfl, rfl, rfl, rfl, rfl, rfl, rfl, rfl, rfl⟩

@[simp] theorem State.bump_leaves (s : State) :
    (s.bump).mem.acks = s.mem.acks ∧ (s.bump).mem.ctlb = s.mem.ctlb ∧ (s.bump).mem.dtlb = s.mem.dtlb ∧ (s.bump).mem.hostPoison = s.mem.hostPoison ∧
    (s.bump).mem.invs = s.mem.invs ∧ (s.bump).mem.ldcWait = s.mem.ldcWait ∧ (s.bump).mem.migs = s.mem.migs ∧ (s.bump).mem.msgs = s.mem.msgs ∧
    (s.bump).mem.phy = s.mem.phy ∧ (s.bump).mem.reqs = s.mem.reqs ∧ (s.bump).mem.spent = s.mem.spent ∧ (s.bump).mem.tlb = s.mem.tlb ∧
    (s.bump).mem.txns = s.mem.txns ∧ (s.bump).mem.withheld = s.mem.withheld := ⟨rfl, rfl, rfl, rfl, rfl, rfl, rfl, rfl, rfl, rfl, rfl, rfl, rfl, rfl⟩

@[simp] theorem State.hlcEvict_leaves (s : State) (line : ℕ) :
    (s.hlcEvict line).clock = s.clock ∧ (s.hlcEvict line).host = s.host ∧ (s.hlcEvict line).mem.acks = s.mem.acks ∧
    (s.hlcEvict line).mem.ctlb = s.mem.ctlb ∧ (s.hlcEvict line).mem.dtlb = s.mem.dtlb ∧ (s.hlcEvict line).mem.hostPoison = s.mem.hostPoison ∧
    (s.hlcEvict line).mem.invs = s.mem.invs ∧ (s.hlcEvict line).mem.ldcWait = s.mem.ldcWait ∧ (s.hlcEvict line).mem.migs = s.mem.migs ∧
    (s.hlcEvict line).mem.msgs = s.mem.msgs ∧ (s.hlcEvict line).mem.phy = s.mem.phy ∧ (s.hlcEvict line).mem.reqs = s.mem.reqs ∧
    (s.hlcEvict line).mem.spent = s.mem.spent ∧ (s.hlcEvict line).mem.tlb = s.mem.tlb ∧ (s.hlcEvict line).mem.txns = s.mem.txns ∧
    (s.hlcEvict line).mem.withheld = s.mem.withheld ∧ (s.hlcEvict line).fab = s.fab ∧ (s.hlcEvict line).sched = s.sched ∧
    (s.hlcEvict line).eng = s.eng ∧ (s.hlcEvict line).obs = s.obs ∧ (s.hlcEvict line).agenda = s.agenda ∧ (s.hlcEvict line).focus = s.focus ∧
    (s.hlcEvict line).subject = s.subject := by
  unfold State.hlcEvict
  (repeat' split) <;> simp

@[simp] theorem State.hlcInsert_leaves (s : State) (line : ℕ) (x : HlcLine) :
    (s.hlcInsert line x).clock = s.clock ∧ (s.hlcInsert line x).host = s.host ∧ (s.hlcInsert line x).mem.acks = s.mem.acks ∧
    (s.hlcInsert line x).mem.ctlb = s.mem.ctlb ∧ (s.hlcInsert line x).mem.dtlb = s.mem.dtlb ∧
    (s.hlcInsert line x).mem.hostPoison = s.mem.hostPoison ∧ (s.hlcInsert line x).mem.invs = s.mem.invs ∧
    (s.hlcInsert line x).mem.ldcWait = s.mem.ldcWait ∧ (s.hlcInsert line x).mem.migs = s.mem.migs ∧ (s.hlcInsert line x).mem.msgs = s.mem.msgs ∧
    (s.hlcInsert line x).mem.phy = s.mem.phy ∧ (s.hlcInsert line x).mem.reqs = s.mem.reqs ∧ (s.hlcInsert line x).mem.spent = s.mem.spent ∧
    (s.hlcInsert line x).mem.tlb = s.mem.tlb ∧ (s.hlcInsert line x).mem.txns = s.mem.txns ∧ (s.hlcInsert line x).mem.withheld = s.mem.withheld ∧
    (s.hlcInsert line x).fab = s.fab ∧ (s.hlcInsert line x).sched = s.sched ∧ (s.hlcInsert line x).eng = s.eng ∧ (s.hlcInsert line x).obs = s.obs ∧
    (s.hlcInsert line x).agenda = s.agenda ∧ (s.hlcInsert line x).focus = s.focus ∧ (s.hlcInsert line x).subject = s.subject := by
  simp only [State.hlcInsert]
  (repeat' split) <;> simp

@[simp] theorem State.hlcPut_leaves (s : State) (line : ℕ) (d : Line) :
    (s.hlcPut line d).clock = s.clock ∧ (s.hlcPut line d).host = s.host ∧ (s.hlcPut line d).mem.acks = s.mem.acks ∧
    (s.hlcPut line d).mem.ctlb = s.mem.ctlb ∧ (s.hlcPut line d).mem.dtlb = s.mem.dtlb ∧ (s.hlcPut line d).mem.hostPoison = s.mem.hostPoison ∧
    (s.hlcPut line d).mem.invs = s.mem.invs ∧ (s.hlcPut line d).mem.ldcWait = s.mem.ldcWait ∧ (s.hlcPut line d).mem.migs = s.mem.migs ∧
    (s.hlcPut line d).mem.msgs = s.mem.msgs ∧ (s.hlcPut line d).mem.phy = s.mem.phy ∧ (s.hlcPut line d).mem.reqs = s.mem.reqs ∧
    (s.hlcPut line d).mem.spent = s.mem.spent ∧ (s.hlcPut line d).mem.tlb = s.mem.tlb ∧ (s.hlcPut line d).mem.txns = s.mem.txns ∧
    (s.hlcPut line d).mem.withheld = s.mem.withheld ∧ (s.hlcPut line d).fab = s.fab ∧ (s.hlcPut line d).sched = s.sched ∧
    (s.hlcPut line d).eng = s.eng ∧ (s.hlcPut line d).obs = s.obs ∧ (s.hlcPut line d).agenda = s.agenda ∧ (s.hlcPut line d).focus = s.focus ∧
    (s.hlcPut line d).subject = s.subject := by
  simp [State.hlcPut]

@[simp] theorem State.settleRange_leaves (s : State) (pa : ℕ) (n : ℕ) :
    (s.settleRange pa n).clock = s.clock ∧ (s.settleRange pa n).host = s.host ∧ (s.settleRange pa n).mem.acks = s.mem.acks ∧
    (s.settleRange pa n).mem.ctlb = s.mem.ctlb ∧ (s.settleRange pa n).mem.dtlb = s.mem.dtlb ∧
    (s.settleRange pa n).mem.hostPoison = s.mem.hostPoison ∧ (s.settleRange pa n).mem.invs = s.mem.invs ∧
    (s.settleRange pa n).mem.ldcWait = s.mem.ldcWait ∧ (s.settleRange pa n).mem.migs = s.mem.migs ∧ (s.settleRange pa n).mem.msgs = s.mem.msgs ∧
    (s.settleRange pa n).mem.phy = s.mem.phy ∧ (s.settleRange pa n).mem.reqs = s.mem.reqs ∧ (s.settleRange pa n).mem.spent = s.mem.spent ∧
    (s.settleRange pa n).mem.tlb = s.mem.tlb ∧ (s.settleRange pa n).mem.txns = s.mem.txns ∧ (s.settleRange pa n).mem.withheld = s.mem.withheld ∧
    (s.settleRange pa n).fab = s.fab ∧ (s.settleRange pa n).sched = s.sched ∧ (s.settleRange pa n).eng = s.eng ∧ (s.settleRange pa n).obs = s.obs ∧
    (s.settleRange pa n).agenda = s.agenda ∧ (s.settleRange pa n).focus = s.focus ∧ (s.settleRange pa n).subject = s.subject := by
  simp [State.settleRange]

@[simp] theorem State.hlcYield_leaves (s : State) (line : ℕ) :
    (s.hlcYield line).clock = s.clock ∧ (s.hlcYield line).host = s.host ∧ (s.hlcYield line).mem.acks = s.mem.acks ∧
    (s.hlcYield line).mem.ctlb = s.mem.ctlb ∧ (s.hlcYield line).mem.dtlb = s.mem.dtlb ∧ (s.hlcYield line).mem.hostPoison = s.mem.hostPoison ∧
    (s.hlcYield line).mem.invs = s.mem.invs ∧ (s.hlcYield line).mem.ldcWait = s.mem.ldcWait ∧ (s.hlcYield line).mem.migs = s.mem.migs ∧
    (s.hlcYield line).mem.msgs = s.mem.msgs ∧ (s.hlcYield line).mem.phy = s.mem.phy ∧ (s.hlcYield line).mem.reqs = s.mem.reqs ∧
    (s.hlcYield line).mem.spent = s.mem.spent ∧ (s.hlcYield line).mem.tlb = s.mem.tlb ∧ (s.hlcYield line).mem.txns = s.mem.txns ∧
    (s.hlcYield line).mem.withheld = s.mem.withheld ∧ (s.hlcYield line).fab = s.fab ∧ (s.hlcYield line).sched = s.sched ∧
    (s.hlcYield line).eng = s.eng ∧ (s.hlcYield line).obs = s.obs ∧ (s.hlcYield line).agenda = s.agenda ∧ (s.hlcYield line).focus = s.focus ∧
    (s.hlcYield line).subject = s.subject := by
  unfold State.hlcYield
  split <;> simp

@[simp] theorem State.hostWrite_leaves (s : State) (pa : ℕ) (bs : List Byte) :
    (s.hostWrite pa bs).clock = s.clock ∧ (s.hostWrite pa bs).host = s.host ∧ (s.hostWrite pa bs).mem.acks = s.mem.acks ∧
    (s.hostWrite pa bs).mem.ctlb = s.mem.ctlb ∧ (s.hostWrite pa bs).mem.dtlb = s.mem.dtlb ∧ (s.hostWrite pa bs).mem.hostPoison = s.mem.hostPoison ∧
    (s.hostWrite pa bs).mem.invs = s.mem.invs ∧ (s.hostWrite pa bs).mem.ldcWait = s.mem.ldcWait ∧ (s.hostWrite pa bs).mem.migs = s.mem.migs ∧
    (s.hostWrite pa bs).mem.msgs = s.mem.msgs ∧ (s.hostWrite pa bs).mem.phy = s.mem.phy ∧ (s.hostWrite pa bs).mem.reqs = s.mem.reqs ∧
    (s.hostWrite pa bs).mem.spent = s.mem.spent ∧ (s.hostWrite pa bs).mem.tlb = s.mem.tlb ∧ (s.hostWrite pa bs).mem.txns = s.mem.txns ∧
    (s.hostWrite pa bs).mem.withheld = s.mem.withheld ∧ (s.hostWrite pa bs).fab = s.fab ∧ (s.hostWrite pa bs).sched = s.sched ∧
    (s.hostWrite pa bs).eng = s.eng ∧ (s.hostWrite pa bs).obs = s.obs ∧ (s.hostWrite pa bs).agenda = s.agenda ∧ (s.hostWrite pa bs).focus = s.focus ∧
    (s.hostWrite pa bs).subject = s.subject := by
  simp [State.hostWrite]

@[simp] theorem State.writeAt_leaves (s : State) (fn : ℕ) (pa : ℕ) (n : ℕ) (v : ℕ) :
    (s.writeAt fn pa n v).clock = s.clock ∧ (s.writeAt fn pa n v).host = s.host ∧ (s.writeAt fn pa n v).mem.acks = s.mem.acks ∧
    (s.writeAt fn pa n v).mem.ctlb = s.mem.ctlb ∧ (s.writeAt fn pa n v).mem.dtlb = s.mem.dtlb ∧
    (s.writeAt fn pa n v).mem.hostPoison = s.mem.hostPoison ∧ (s.writeAt fn pa n v).mem.invs = s.mem.invs ∧
    (s.writeAt fn pa n v).mem.ldcWait = s.mem.ldcWait ∧ (s.writeAt fn pa n v).mem.migs = s.mem.migs ∧ (s.writeAt fn pa n v).mem.msgs = s.mem.msgs ∧
    (s.writeAt fn pa n v).mem.phy = s.mem.phy ∧ (s.writeAt fn pa n v).mem.reqs = s.mem.reqs ∧ (s.writeAt fn pa n v).mem.spent = s.mem.spent ∧
    (s.writeAt fn pa n v).mem.tlb = s.mem.tlb ∧ (s.writeAt fn pa n v).mem.txns = s.mem.txns ∧ (s.writeAt fn pa n v).mem.withheld = s.mem.withheld ∧
    (s.writeAt fn pa n v).fab = s.fab ∧ (s.writeAt fn pa n v).sched = s.sched ∧ (s.writeAt fn pa n v).eng = s.eng ∧
    (s.writeAt fn pa n v).obs = s.obs ∧ (s.writeAt fn pa n v).agenda = s.agenda ∧ (s.writeAt fn pa n v).focus = s.focus ∧
    (s.writeAt fn pa n v).subject = s.subject := by
  unfold State.writeAt
  (repeat' split) <;> simp

@[simp] theorem State.writePiece_leaves (s : State) (fn : ℕ) (pa : ℕ) (n : ℕ) (v : ℕ) :
    (s.writePiece fn pa n v).clock = s.clock ∧ (s.writePiece fn pa n v).host = s.host ∧ (s.writePiece fn pa n v).mem.acks = s.mem.acks ∧
    (s.writePiece fn pa n v).mem.ctlb = s.mem.ctlb ∧ (s.writePiece fn pa n v).mem.dtlb = s.mem.dtlb ∧
    (s.writePiece fn pa n v).mem.hostPoison = s.mem.hostPoison ∧ (s.writePiece fn pa n v).mem.invs = s.mem.invs ∧
    (s.writePiece fn pa n v).mem.ldcWait = s.mem.ldcWait ∧ (s.writePiece fn pa n v).mem.migs = s.mem.migs ∧
    (s.writePiece fn pa n v).mem.msgs = s.mem.msgs ∧ (s.writePiece fn pa n v).mem.phy = s.mem.phy ∧ (s.writePiece fn pa n v).mem.reqs = s.mem.reqs ∧
    (s.writePiece fn pa n v).mem.spent = s.mem.spent ∧ (s.writePiece fn pa n v).mem.tlb = s.mem.tlb ∧
    (s.writePiece fn pa n v).mem.txns = s.mem.txns ∧ (s.writePiece fn pa n v).mem.withheld = s.mem.withheld ∧ (s.writePiece fn pa n v).fab = s.fab ∧
    (s.writePiece fn pa n v).sched = s.sched ∧ (s.writePiece fn pa n v).eng = s.eng ∧ (s.writePiece fn pa n v).obs = s.obs ∧
    (s.writePiece fn pa n v).agenda = s.agenda ∧ (s.writePiece fn pa n v).focus = s.focus ∧ (s.writePiece fn pa n v).subject = s.subject := by
  unfold State.writePiece
  split <;> simp

@[simp] theorem State.writeLines_leaves (s : State) (fn : ℕ) (pa : ℕ) (bs : List Byte) (n : ℕ) :
    (s.writeLines fn pa bs n).clock = s.clock ∧ (s.writeLines fn pa bs n).host = s.host ∧ (s.writeLines fn pa bs n).mem.acks = s.mem.acks ∧
    (s.writeLines fn pa bs n).mem.ctlb = s.mem.ctlb ∧ (s.writeLines fn pa bs n).mem.dtlb = s.mem.dtlb ∧
    (s.writeLines fn pa bs n).mem.hostPoison = s.mem.hostPoison ∧ (s.writeLines fn pa bs n).mem.invs = s.mem.invs ∧
    (s.writeLines fn pa bs n).mem.ldcWait = s.mem.ldcWait ∧ (s.writeLines fn pa bs n).mem.migs = s.mem.migs ∧
    (s.writeLines fn pa bs n).mem.msgs = s.mem.msgs ∧ (s.writeLines fn pa bs n).mem.phy = s.mem.phy ∧
    (s.writeLines fn pa bs n).mem.reqs = s.mem.reqs ∧ (s.writeLines fn pa bs n).mem.spent = s.mem.spent ∧
    (s.writeLines fn pa bs n).mem.tlb = s.mem.tlb ∧ (s.writeLines fn pa bs n).mem.txns = s.mem.txns ∧
    (s.writeLines fn pa bs n).mem.withheld = s.mem.withheld ∧ (s.writeLines fn pa bs n).fab = s.fab ∧ (s.writeLines fn pa bs n).sched = s.sched ∧
    (s.writeLines fn pa bs n).eng = s.eng ∧ (s.writeLines fn pa bs n).obs = s.obs ∧ (s.writeLines fn pa bs n).agenda = s.agenda ∧
    (s.writeLines fn pa bs n).focus = s.focus ∧ (s.writeLines fn pa bs n).subject = s.subject := by
  induction n generalizing s pa bs with
  | zero => simp [State.writeLines]
  | succ n ih =>
    simp only [State.writeLines]
    split_ifs <;> simp [ih]

@[simp] theorem State.writeBytes_leaves (s : State) (fn : ℕ) (pa : ℕ) (bs : List Byte) :
    (s.writeBytes fn pa bs).clock = s.clock ∧ (s.writeBytes fn pa bs).host = s.host ∧ (s.writeBytes fn pa bs).mem.acks = s.mem.acks ∧
    (s.writeBytes fn pa bs).mem.ctlb = s.mem.ctlb ∧ (s.writeBytes fn pa bs).mem.dtlb = s.mem.dtlb ∧
    (s.writeBytes fn pa bs).mem.hostPoison = s.mem.hostPoison ∧ (s.writeBytes fn pa bs).mem.invs = s.mem.invs ∧
    (s.writeBytes fn pa bs).mem.ldcWait = s.mem.ldcWait ∧ (s.writeBytes fn pa bs).mem.migs = s.mem.migs ∧
    (s.writeBytes fn pa bs).mem.msgs = s.mem.msgs ∧ (s.writeBytes fn pa bs).mem.phy = s.mem.phy ∧ (s.writeBytes fn pa bs).mem.reqs = s.mem.reqs ∧
    (s.writeBytes fn pa bs).mem.spent = s.mem.spent ∧ (s.writeBytes fn pa bs).mem.tlb = s.mem.tlb ∧ (s.writeBytes fn pa bs).mem.txns = s.mem.txns ∧
    (s.writeBytes fn pa bs).mem.withheld = s.mem.withheld ∧ (s.writeBytes fn pa bs).fab = s.fab ∧ (s.writeBytes fn pa bs).sched = s.sched ∧
    (s.writeBytes fn pa bs).eng = s.eng ∧ (s.writeBytes fn pa bs).obs = s.obs ∧ (s.writeBytes fn pa bs).agenda = s.agenda ∧
    (s.writeBytes fn pa bs).focus = s.focus ∧ (s.writeBytes fn pa bs).subject = s.subject := by
  simp [State.writeBytes]

@[simp] theorem State.readLines_leaves (s : State) (ls : List ℕ) :
    (s.readLines ls).clock = s.clock ∧ (s.readLines ls).host = s.host ∧ (s.readLines ls).mem.acks = s.mem.acks ∧
    (s.readLines ls).mem.ctlb = s.mem.ctlb ∧ (s.readLines ls).mem.dtlb = s.mem.dtlb ∧ (s.readLines ls).mem.hostPoison = s.mem.hostPoison ∧
    (s.readLines ls).mem.invs = s.mem.invs ∧ (s.readLines ls).mem.ldcWait = s.mem.ldcWait ∧ (s.readLines ls).mem.migs = s.mem.migs ∧
    (s.readLines ls).mem.msgs = s.mem.msgs ∧ (s.readLines ls).mem.phy = s.mem.phy ∧ (s.readLines ls).mem.reqs = s.mem.reqs ∧
    (s.readLines ls).mem.spent = s.mem.spent ∧ (s.readLines ls).mem.tlb = s.mem.tlb ∧ (s.readLines ls).mem.txns = s.mem.txns ∧
    (s.readLines ls).mem.withheld = s.mem.withheld ∧ (s.readLines ls).fab = s.fab ∧ (s.readLines ls).sched = s.sched ∧ (s.readLines ls).eng = s.eng ∧
    (s.readLines ls).obs = s.obs ∧ (s.readLines ls).agenda = s.agenda ∧ (s.readLines ls).focus = s.focus ∧ (s.readLines ls).subject = s.subject := by
  simp [State.readLines]

@[simp] theorem State.takeAtHome_leaves (s : State) (line : ℕ) :
    (s.takeAtHome line).clock = s.clock ∧ (s.takeAtHome line).host = s.host ∧ (s.takeAtHome line).mem.acks = s.mem.acks ∧
    (s.takeAtHome line).mem.ctlb = s.mem.ctlb ∧ (s.takeAtHome line).mem.dtlb = s.mem.dtlb ∧ (s.takeAtHome line).mem.hostPoison = s.mem.hostPoison ∧
    (s.takeAtHome line).mem.invs = s.mem.invs ∧ (s.takeAtHome line).mem.ldcWait = s.mem.ldcWait ∧ (s.takeAtHome line).mem.migs = s.mem.migs ∧
    (s.takeAtHome line).mem.msgs = s.mem.msgs ∧ (s.takeAtHome line).mem.phy = s.mem.phy ∧ (s.takeAtHome line).mem.reqs = s.mem.reqs ∧
    (s.takeAtHome line).mem.spent = s.mem.spent ∧ (s.takeAtHome line).mem.tlb = s.mem.tlb ∧ (s.takeAtHome line).mem.txns = s.mem.txns ∧
    (s.takeAtHome line).mem.withheld = s.mem.withheld ∧ (s.takeAtHome line).fab = s.fab ∧ (s.takeAtHome line).sched = s.sched ∧
    (s.takeAtHome line).eng = s.eng ∧ (s.takeAtHome line).obs = s.obs ∧ (s.takeAtHome line).agenda = s.agenda ∧ (s.takeAtHome line).focus = s.focus ∧
    (s.takeAtHome line).subject = s.subject := by
  unfold State.takeAtHome
  split <;> simp

@[simp] theorem State.hostModify_leaves (s : State) (pa : ℕ) (bs : List Byte) (n : ℕ) :
    (s.hostModify pa bs n).clock = s.clock ∧ (s.hostModify pa bs n).host = s.host ∧ (s.hostModify pa bs n).mem.acks = s.mem.acks ∧
    (s.hostModify pa bs n).mem.ctlb = s.mem.ctlb ∧ (s.hostModify pa bs n).mem.dtlb = s.mem.dtlb ∧
    (s.hostModify pa bs n).mem.hostPoison = s.mem.hostPoison ∧ (s.hostModify pa bs n).mem.invs = s.mem.invs ∧
    (s.hostModify pa bs n).mem.ldcWait = s.mem.ldcWait ∧ (s.hostModify pa bs n).mem.migs = s.mem.migs ∧
    (s.hostModify pa bs n).mem.msgs = s.mem.msgs ∧ (s.hostModify pa bs n).mem.phy = s.mem.phy ∧ (s.hostModify pa bs n).mem.reqs = s.mem.reqs ∧
    (s.hostModify pa bs n).mem.spent = s.mem.spent ∧ (s.hostModify pa bs n).mem.tlb = s.mem.tlb ∧ (s.hostModify pa bs n).mem.txns = s.mem.txns ∧
    (s.hostModify pa bs n).mem.withheld = s.mem.withheld ∧ (s.hostModify pa bs n).fab = s.fab ∧ (s.hostModify pa bs n).sched = s.sched ∧
    (s.hostModify pa bs n).eng = s.eng ∧ (s.hostModify pa bs n).obs = s.obs ∧ (s.hostModify pa bs n).agenda = s.agenda ∧
    (s.hostModify pa bs n).focus = s.focus ∧ (s.hostModify pa bs n).subject = s.subject := by
  induction n generalizing s pa bs with
  | zero => simp [State.hostModify]
  | succ n ih =>
    simp only [State.hostModify]
    split_ifs <;> simp [ih]

@[simp] theorem State.hostPut_leaves (s : State) (pa : ℕ) (bs : List Byte) (n : ℕ) :
    (s.hostPut pa bs n).clock = s.clock ∧ (s.hostPut pa bs n).host = s.host ∧ (s.hostPut pa bs n).mem.acks = s.mem.acks ∧
    (s.hostPut pa bs n).mem.ctlb = s.mem.ctlb ∧ (s.hostPut pa bs n).mem.dtlb = s.mem.dtlb ∧ (s.hostPut pa bs n).mem.hostPoison = s.mem.hostPoison ∧
    (s.hostPut pa bs n).mem.invs = s.mem.invs ∧ (s.hostPut pa bs n).mem.ldcWait = s.mem.ldcWait ∧ (s.hostPut pa bs n).mem.migs = s.mem.migs ∧
    (s.hostPut pa bs n).mem.msgs = s.mem.msgs ∧ (s.hostPut pa bs n).mem.phy = s.mem.phy ∧ (s.hostPut pa bs n).mem.reqs = s.mem.reqs ∧
    (s.hostPut pa bs n).mem.spent = s.mem.spent ∧ (s.hostPut pa bs n).mem.tlb = s.mem.tlb ∧ (s.hostPut pa bs n).mem.txns = s.mem.txns ∧
    (s.hostPut pa bs n).mem.withheld = s.mem.withheld ∧ (s.hostPut pa bs n).fab = s.fab ∧ (s.hostPut pa bs n).sched = s.sched ∧
    (s.hostPut pa bs n).eng = s.eng ∧ (s.hostPut pa bs n).obs = s.obs ∧ (s.hostPut pa bs n).agenda = s.agenda ∧ (s.hostPut pa bs n).focus = s.focus ∧
    (s.hostPut pa bs n).subject = s.subject := by
  induction n generalizing s pa bs with
  | zero => simp [State.hostPut]
  | succ n ih =>
    simp only [State.hostPut]
    split_ifs <;> simp [ih]

end Sys2Proof.Machine
end

section
/-!
PROOFS. The value of a line of device memory (R141, R152, R154): what each operation of the caches makes of it, at that line and at others.
-/
namespace Sys2Proof.Machine

/-! ### Bytes, lines and HBM -/

@[simp] theorem leBytes_length (k v : Nat) : (leBytes k v).length = k := by
  induction k generalizing v with
  | zero => rfl
  | succ k ih => simp [leBytes, ih]

theorem leNat_leBytes (k v : Nat) : leNat (leBytes k v) = v % 256 ^ k := by
  induction k generalizing v with
  | zero => simp [leBytes, leNat, Nat.mod_one]
  | succ k ih =>
    rw [leBytes, leNat, ih, BitVec.toNat_ofNat, pow_succ' 256 k]
    exact (Nat.mod_mul (a := 256) (b := 256 ^ k) (x := v)).symm

theorem bytesLine_lineBytes (d : Line) : bytesLine (lineBytes d) = d := by
  have h : (256 : Nat) ^ 128 = 2 ^ 1024 := (pow_mul 2 8 128).symm
  apply BitVec.eq_of_toNat_eq
  rw [bytesLine, lineBytes, leNat_leBytes, BitVec.toNat_ofNat, h, Nat.mod_mod, Nat.mod_eq_of_lt d.isLt]

theorem memBytes_congr {m m' : Memory} {a n : Nat} (h : ∀ j < n, memByte m (a + j) = memByte m' (a + j)) : memBytes m a n = memBytes m' a n := by
  induction n generalizing a with
  | zero => rfl
  | succ n ih =>
    rw [memBytes, memBytes, ih fun j hj => by have := h (j + 1) (by omega); rwa [← Nat.add_assoc, Nat.add_right_comm] at this]
    congr 1
    exact h 0 (by omega)

theorem memBytes_eq_map (m : Memory) (a n : Nat) : memBytes m a n = (List.range n).map fun j => memByte m (a + j) := by
  induction n generalizing a with
  | zero => rfl
  | succ n ih => rw [memBytes, ih, List.range_succ_eq_map, List.map_cons, List.map_map]; simp [Function.comp_def, Nat.add_assoc, Nat.add_comm 1]

theorem memBytes_memPutBytes_same (m : Memory) (a : Nat) (bs : List Byte) : memBytes (memPutBytes m a bs) a bs.length = bs := by
  rw [memBytes_eq_map]
  refine List.ext_getElem (by simp) fun j hj _ => ?_
  have hj : j < bs.length := by simpa using hj
  simp [memByte_memPutBytes, hj]

theorem memBytes_memPutBytes_ne (m : Memory) {a n a' : Nat} {bs : List Byte} (h : a' + bs.length ≤ a ∨ a + n ≤ a') :
    memBytes (memPutBytes m a' bs) a n = memBytes m a n :=
  memBytes_congr fun j hj => by rw [memByte_memPutBytes, if_neg (by omega)]

theorem hbmLine_putHbmLine (m : Mem) (k l : Nat) (d : Line) : (m.putHbmLine k d).hbmLine l = if l = k then d else m.hbmLine l := by
  rw [Mem.hbmLine, Mem.putHbmLine]
  have hlen : (lineBytes d).length = 128 := leBytes_length _ _
  by_cases h : l = k
  · subst h
    rw [if_pos rfl, ← hlen, memBytes_memPutBytes_same, bytesLine_lineBytes]
  · rw [if_neg h, memBytes_memPutBytes_ne _ (by rw [hlen]; omega)]
    rfl

theorem Mem.hbmLine_of_hbm {m m' : Mem} (h : m'.hbm = m.hbm) : m'.hbmLine = m.hbmLine := by
  funext l
  rw [Mem.hbmLine, Mem.hbmLine, h]

@[simp] theorem hbmLine_checkHbm (m : Mem) (k : Nat) : (m.checkHbm k).hbmLine = m.hbmLine := by
  unfold Mem.checkHbm
  split
  · rfl
  · split <;> rfl

/-! ### A line as its copies give it -/

/-- Two states of memory hold the same copies of a line. -/
structure Mem.Alike (m m' : Mem) (l : Nat) : Prop where
  mod : tget m'.hdmMod l = tget m.hdmMod l
  l1 : m'.l1Of l = m.l1Of l
  l2 : tget m'.l2 l = tget m.l2 l
  msc : tget m'.msc l = tget m.msc l
  hbm : m'.hbmLine l = m.hbmLine l

/-- A line's clean copies hold what lies below them, as far as they may still give the line its value. -/
structure Mem.Sound (m : Mem) (l : Nat) : Prop where
  l2 : tget m.hdmMod l = none → ∀ x, tget m.l2 l = some x → x.dirty = false → x.data = m.below l
  msc : (∀ x, tget m.l2 l = some x → x.dirty = false) → ∀ x, tget m.msc l = some x → x.dirty = false → x.data = m.hbmLine l

/-- A line has the value it had, and its copies still agree. -/
structure Mem.SameLine (m m' : Mem) (l : Nat) : Prop where
  mod : tget m'.hdmMod l = tget m.hdmMod l
  value : m'.value l = m.value l
  sound : m'.Sound l

theorem CopiesAgree.sound {s : State} {l : Nat} (h : CopiesAgree s l) : s.mem.Sound l := ⟨fun _ => h.1, fun _ => h.2.1⟩

theorem Mem.Alike.below {m m' : Mem} {l : Nat} (h : m.Alike m' l) : m'.below l = m.below l := by rw [Mem.below, Mem.below, h.msc, h.hbm]

theorem Mem.Alike.value {m m' : Mem} {l : Nat} (h : m.Alike m' l) : m'.value l = m.value l := by
  rw [Mem.value, Mem.value, h.mod, h.l1, h.l2, h.below]

theorem Mem.Alike.sound {m m' : Mem} {l : Nat} (h : m.Alike m' l) (hs : m.Sound l) : m'.Sound l :=
  ⟨by rw [h.mod, h.l2, h.below]; exact hs.l2, by rw [h.l2, h.msc, h.hbm]; exact hs.msc⟩

theorem Mem.Alike.same {m m' : Mem} {l : Nat} (h : m.Alike m' l) (hs : m.Sound l) : m.SameLine m' l := ⟨h.mod, h.value, h.sound hs⟩

theorem Mem.Alike.trans {m m' m'' : Mem} {l : Nat} (h : m.Alike m' l) (h' : m'.Alike m'' l) : m.Alike m'' l :=
  ⟨h'.mod.trans h.mod, h'.l1.trans h.l1, h'.l2.trans h.l2, h'.msc.trans h.msc, h'.hbm.trans h.hbm⟩

theorem Mem.Alike.refl (m : Mem) (l : Nat) : m.Alike m l := ⟨rfl, rfl, rfl, rfl, rfl⟩

theorem Mem.SameLine.refl {m : Mem} {l : Nat} (h : m.Sound l) : m.SameLine m l := ⟨rfl, rfl, h⟩

theorem Mem.SameLine.trans {m m' m'' : Mem} {l : Nat} (h : m.SameLine m' l) (h' : m'.SameLine m'' l) : m.SameLine m'' l :=
  ⟨h'.mod.trans h.mod, h'.value.trans h.value, h'.sound⟩

theorem Mem.value_of_mod {m : Mem} {l : Nat} {d : Line} (h : tget m.hdmMod l = some d) : m.value l = d := by rw [Mem.value, h]

/-- Without a modified copy in the host or in an L1, the L2 gives the value. -/
theorem Mem.value_of_l2 {m : Mem} {l : Nat} {x : L2Line} (hm : tget m.hdmMod l = none) (h1 : m.l1Of l = []) (h2 : tget m.l2 l = some x) :
    m.value l = x.data := by
  rw [Mem.value, hm, h1, h2]
  rfl

theorem Mem.value_of_below {m : Mem} {l : Nat} (hm : tget m.hdmMod l = none) (h1 : m.l1Of l = []) (h2 : tget m.l2 l = none) :
    m.value l = m.below l := by
  rw [Mem.value, hm, h1, h2]
  rfl

/-! ### The memory-side cache -/

theorem Mem.checkHbm_alike (m : Mem) (k l : Nat) : m.Alike (m.checkHbm k) l := by
  unfold Mem.checkHbm
  split
  · exact .refl m l
  · split <;> exact ⟨rfl, rfl, rfl, rfl, rfl⟩

/-- What a flush of a line's copy in the memory-side cache changes. -/
theorem Mem.mscFlush_fields (m : Mem) (k : Nat) :
    (m.mscFlush k).hdmMod = m.hdmMod ∧ (m.mscFlush k).l1 = m.l1 ∧ (m.mscFlush k).l2 = m.l2 ∧ tget (m.mscFlush k).msc k = none := by
  unfold Mem.mscFlush
  split
  · simp [*]
  · split <;> simp [Mem.putHbmLine]

theorem Mem.mscFlush_other (m : Mem) {k l : Nat} (h : l ≠ k) : m.Alike (m.mscFlush k) l := by
  unfold Mem.mscFlush
  split
  · exact .refl m l
  · split
    next x _ _ =>
      refine ⟨rfl, rfl, rfl, tget_tdel_ne _ _ _ h, (congrFun (Mem.hbmLine_of_hbm (m := m.putHbmLine k x.data) rfl) l).trans ?_⟩
      rw [hbmLine_putHbmLine, if_neg h]
    · exact ⟨rfl, rfl, rfl, tget_tdel_ne _ _ _ h, congrFun (Mem.hbmLine_of_hbm rfl) l⟩

theorem Mem.mscFlush_self {m : Mem} {k : Nat} (h : m.Sound k) : m.SameLine (m.mscFlush k) k := by
  cases hx : tget m.msc k with
  | none => rw [Mem.mscFlush, hx]; exact .refl h
  | some x =>
    obtain ⟨hmod, h1, h2, h3⟩ := m.mscFlush_fields k
    have hone : m.l1Of k = (m.mscFlush k).l1Of k := by rw [Mem.l1Of, Mem.l1Of, h1]
    have hline : (∀ y, tget m.l2 k = some y → y.dirty = false) → (m.mscFlush k).hbmLine k = x.data := by
      intro hc
      rw [Mem.mscFlush, hx]
      cases hd : x.dirty with
      | true =>
        refine (congrFun (Mem.hbmLine_of_hbm (m := m.putHbmLine k x.data) (by simp [hd])) k).trans ?_
        rw [hbmLine_putHbmLine, if_pos rfl]
      | false => exact (congrFun (Mem.hbmLine_of_hbm (m := m) (by simp [hd])) k).trans (h.msc hc x hx hd).symm
    have hbelow : (∀ y, tget m.l2 k = some y → y.dirty = false) → (m.mscFlush k).below k = m.below k := by
      intro hc
      rw [Mem.below, Mem.below, h3, hx]
      exact hline hc
    refine ⟨by rw [hmod], ?_, fun hm y hy hd => ?_, fun _ y hy => by rw [h3] at hy; cases hy⟩
    · rw [Mem.value, Mem.value, hmod, h2, hone]
      split
      · rfl
      · rfl
      · cases hl : tget m.l2 k with
        | some y => rfl
        | none => exact hbelow (by simp [hl])
    · rw [h2] at hy
      rw [hbelow (by rintro z hz; rw [hy] at hz; cases hz; exact hd)]
      exact h.l2 (by rw [← hmod]; exact hm) y hy hd

theorem Mem.mscFlush_same {m : Mem} {k l : Nat} (h : m.Sound l) : m.SameLine (m.mscFlush k) l := by
  by_cases hk : l = k
  · subst hk; exact mscFlush_self h
  · exact (m.mscFlush_other hk).same h

/-- The memory-side cache with room for a line. -/
def Mem.mscRoom (m : Mem) (k : Nat) : Mem :=
  let rivals := if m.msc.length < 8 || (tget m.msc k).isSome then [] else m.mscRivals k
  if rivals.length < 8 then m
  else match rivals[Config.mscVictim k % rivals.length]? with
    | some v => m.mscFlush v.1
    | none => m

/-- Room is made by a flush of another line, if at all. -/
theorem Mem.mscRoom_cases (m : Mem) (k : Nat) : m.mscRoom k = m ∨ ∃ v, v ≠ k ∧ m.mscRoom k = m.mscFlush v := by
  have hriv : ∀ r ∈ if m.msc.length < 8 || (tget m.msc k).isSome then [] else m.mscRivals k, r.1 ≠ k := by
    intro r hr
    split at hr
    · cases hr
    · rw [Mem.mscRivals, List.mem_filter] at hr
      have := hr.2
      simp only [Bool.and_eq_true, decide_eq_true_eq] at this
      exact this.1.1
  unfold Mem.mscRoom
  generalize (if m.msc.length < 8 || (tget m.msc k).isSome then [] else m.mscRivals k) = rivals at hriv
  dsimp only
  split
  · exact .inl rfl
  · split
    next v hv => exact .inr ⟨v.1, hriv v (List.mem_of_getElem? hv), rfl⟩
    next => exact .inl rfl

theorem Mem.mscRoom_fields (m : Mem) (k : Nat) :
    (m.mscRoom k).hdmMod = m.hdmMod ∧ (m.mscRoom k).l1 = m.l1 ∧ (m.mscRoom k).l2 = m.l2 ∧ (m.mscRoom k).hbmLine k = m.hbmLine k := by
  obtain h | ⟨v, hv, h⟩ := m.mscRoom_cases k
  · simp [h]
  · obtain ⟨h1, h2, h3, -⟩ := m.mscFlush_fields v
    rw [h]
    exact ⟨h1, h2, h3, (m.mscFlush_other (Ne.symm hv)).hbm⟩

theorem Mem.putMsc_fields (m : Mem) (k : Nat) (x : MscLine) :
    (m.putMsc k x).hdmMod = m.hdmMod ∧ (m.putMsc k x).l1 = m.l1 ∧ (m.putMsc k x).l2 = m.l2 ∧ (m.putMsc k x).hbmLine k = m.hbmLine k ∧
    tget (m.putMsc k x).msc k = some x := by
  obtain ⟨h1, h2, h3, h4⟩ := m.mscRoom_fields k
  exact ⟨h1, h2, h3, h4, tget_tput_same _ _ _⟩

theorem Mem.putMsc_below (m : Mem) (k : Nat) (x : MscLine) : (m.putMsc k x).below k = x.data := by
  rw [Mem.below, (m.putMsc_fields k x).2.2.2.2]

theorem Mem.putMsc_other {m : Mem} {k l : Nat} (x : MscLine) (hl : l ≠ k) (h : m.Sound l) : m.SameLine (m.putMsc k x) l := by
  have hput : (m.mscRoom k).Alike (m.putMsc k x) l := ⟨rfl, rfl, rfl, tget_tput_ne _ _ _ _ hl, rfl⟩
  obtain hr | ⟨v, -, hr⟩ := m.mscRoom_cases k
  · rw [hr] at hput; exact hput.same h
  · rw [hr] at hput
    have hf := mscFlush_same (k := v) h
    exact hf.trans (hput.same hf.sound)

/-! ### The L2 -/

@[simp] theorem Mem.l1Of_recallAll (m : Mem) (k l : Nat) : (m.recallAll k).l1Of l = if l = k then [] else m.l1Of l := by
  rw [Mem.l1Of, Mem.recallAll, Mem.l1Of, List.filter_filter]
  split
  next h => subst h; simp
  next h => exact List.filter_congr fun x _ => by by_cases hx : x.line = l <;> simp [hx, h]

theorem Mem.recallAll_fields (m : Mem) (k : Nat) :
    (m.recallAll k).hdmMod = m.hdmMod ∧ (m.recallAll k).msc = m.msc ∧ (m.recallAll k).hbmLine = m.hbmLine ∧
    tget (m.recallAll k).l2 k =
      (tget m.l2 k).map fun x => { x with data := m.value k, dirty := x.dirty || (m.l1Of k).any (fun x => x.st = .m), dir := .i } :=
  ⟨rfl, rfl, rfl, tget_tmod_same _ _ _⟩

theorem Mem.recallAll_other (m : Mem) {k l : Nat} (h : l ≠ k) : m.Alike (m.recallAll k) l :=
  ⟨rfl, by simp [h], tget_tmod_ne _ _ _ _ h, rfl, rfl⟩

/-- No L1 holds the line modified. -/
theorem Mem.value_of_clean {m : Mem} {l : Nat} {x : L2Line} (hm : tget m.hdmMod l = none) (h1 : (m.l1Of l).any (fun x => x.st = .m) = false)
    (h2 : tget m.l2 l = some x) : m.value l = x.data := by
  have : (m.l1Of l).find? (fun x => x.st = .m) = none := by
    rw [List.find?_eq_none]; exact List.any_eq_false.1 h1
  rw [Mem.value, hm, this, h2]

theorem Mem.recallAll_self {m : Mem} {k : Nat} (h : m.Sound k) (h2 : (tget m.l2 k).isSome = true) : m.SameLine (m.recallAll k) k := by
  obtain ⟨x, hx⟩ := Option.isSome_iff_exists.1 h2
  obtain ⟨hmod, hmsc, hbm, hl2⟩ := m.recallAll_fields k
  rw [hx, Option.map_some] at hl2
  have hone : (m.recallAll k).l1Of k = [] := by simp
  have hbelow : (m.recallAll k).below k = m.below k := by rw [Mem.below, Mem.below, hmsc, hbm]
  refine ⟨by rw [hmod], ?_, fun hm y hy hd => ?_, fun hc => ?_⟩
  · cases hd : tget m.hdmMod k with
    | some d => rw [value_of_mod (by rw [hmod]; exact hd), value_of_mod hd]
    | none => exact value_of_l2 (by rw [hmod]; exact hd) hone hl2
  · rw [hl2] at hy
    cases hy
    obtain ⟨hxd, hany⟩ := Bool.or_eq_false_iff.1 hd
    rw [hbelow, ← h.l2 (by rw [← hmod]; exact hm) x hx hxd]
    exact value_of_clean (by rw [← hmod]; exact hm) hany hx
  · rw [hmsc, hbm]
    refine h.msc fun y hy => ?_
    rw [hx] at hy
    cases hy
    exact (Bool.or_eq_false_iff.1 (hc _ hl2)).1

theorem Mem.recallAll_same {m : Mem} {k l : Nat} (h : m.Sound l) (h2 : (tget m.l2 k).isSome = true) : m.SameLine (m.recallAll k) l := by
  by_cases hk : l = k
  · subst hk; exact recallAll_self h h2
  · exact (m.recallAll_other hk).same h

theorem Mem.evictL2_self {m : Mem} {k : Nat} (h : m.Sound k) (h2 : (tget m.l2 k).isSome = true) : m.SameLine (m.evictL2 k) k := by
  have hr := recallAll_self h h2
  obtain ⟨x, hx⟩ := Option.isSome_iff_exists.1 h2
  have hl2 := (m.recallAll_fields k).2.2.2
  rw [hx, Option.map_some] at hl2
  have hone : (m.recallAll k).l1Of k = [] := by simp
  generalize hm' : m.recallAll k = m' at hr hl2 hone
  rw [Mem.evictL2, hm', hl2]
  generalize hy : ({ x with data := m.value k, dirty := x.dirty || (m.l1Of k).any (fun x => x.st = .m), dir := .i } : L2Line) = y at hl2
  refine hr.trans ?_
  cases hd : y.dirty with
  | true =>
    obtain ⟨hmod, h1, -, -, hmsc⟩ := m'.putMsc_fields k ⟨y.data, true⟩
    simp only [hd, if_true]
    refine ⟨congrArg (tget · k) hmod, ?_, fun _ z hz => by simp at hz, fun _ z hz => ?_⟩
    · cases hk : tget m'.hdmMod k with
      | some d => rw [value_of_mod hk]; exact value_of_mod ((congrArg (tget · k) hmod).trans hk)
      | none =>
        rw [value_of_l2 hk hone hl2, value_of_below]
        · exact m'.putMsc_below k ⟨y.data, true⟩
        · exact (congrArg (tget · k) hmod).trans hk
        · rw [Mem.l1Of]
          exact (congrArg (fun l : List L1Line => l.filter (fun x : L1Line => x.line = k)) h1).trans hone
        · exact tget_tdel_same _ _
    · rw [show tget (m'.toMsc k y.data).msc k = _ from hmsc] at hz
      cases hz
      simp
  | false =>
    simp only [hd, Bool.false_eq_true, if_false]
    refine ⟨rfl, ?_, fun _ z hz => by simp at hz, fun _ => ?_⟩
    · cases hk : tget m'.hdmMod k with
      | some d => rw [value_of_mod hk]; exact value_of_mod hk
      | none =>
        rw [value_of_l2 hk hone hl2, hr.sound.l2 hk y hl2 hd]
        exact value_of_below hk hone (tget_tdel_same _ _)
    · exact hr.sound.msc fun z hz => by rw [hl2] at hz; cases hz; exact hd

theorem Mem.evictL2_other {m : Mem} {k l : Nat} (hl : l ≠ k) (h : m.Sound l) : m.SameLine (m.evictL2 k) l := by
  have hr := (m.recallAll_other hl).same h
  refine hr.trans ?_
  rw [Mem.evictL2]
  dsimp only
  split
  · exact .refl hr.sound
  next x hx =>
    have hdel (m' : Mem) : m'.Alike { m' with l2 := tdel m'.l2 k } l := ⟨rfl, rfl, tget_tdel_ne _ _ _ hl, rfl, rfl⟩
    split
    · have hp := putMsc_other ⟨x.data, true⟩ hl hr.sound
      have h2 : ((m.recallAll k).toMsc k x.data).l2 = (m.recallAll k).l2 := ((m.recallAll k).putMsc_fields k _).2.2.1
      refine hp.trans ?_
      rw [← h2]
      exact (hdel _).same hp.sound
    · exact (hdel _).same hr.sound

theorem Mem.evictL2_same {m : Mem} {k l : Nat} (h : m.Sound l) (h2 : (tget m.l2 k).isSome = true) : m.SameLine (m.evictL2 k) l := by
  by_cases hk : l = k
  · subst hk; exact evictL2_self h h2
  · exact evictL2_other hk h

theorem Mem.evictL2_get {m : Mem} {k l : Nat} (hl : l ≠ k) : tget (m.evictL2 k).l2 l = tget m.l2 l := by
  have hrec : tget (m.recallAll k).l2 l = tget m.l2 l := (m.recallAll_other hl).l2
  rw [Mem.evictL2]
  dsimp only
  split
  · exact hrec
  · exact (tget_tdel_ne _ _ _ hl).trans hrec

/-- Any row of a table makes its number known to it. -/
theorem tget_isSome_of_mem {α : Type} {t : Tab α} {r : Nat × α} (h : r ∈ t) : (tget t r.1).isSome = true := by
  induction t with
  | nil => cases h
  | cons c t ih =>
    obtain ⟨k, v⟩ := c
    rw [tget]
    split
    · rfl
    next hk =>
      obtain rfl | h := List.mem_cons.1 h
      · exact absurd rfl hk
      · exact ih h

theorem Mem.l2Victim_spec {m : Mem} {k v : Nat} (h : m.l2Victim k = some v) : v ≠ k ∧ (tget m.l2 v).isSome = true := by
  have hriv (m' : Mem) (r : Nat × L2Line) (hr : r ∈ m'.l2Rivals k) : r ∈ m'.l2 ∧ r.1 ≠ k := by
    rw [Mem.l2Rivals, List.mem_filter] at hr
    obtain ⟨hm, hc⟩ := hr
    simp only [Bool.and_eq_true, decide_eq_true_eq] at hc
    exact ⟨hm, hc.1.1.2⟩
  rw [Mem.l2Victim] at h
  split at h
  · cases h
  · obtain ⟨r, hr, rfl⟩ := Option.map_eq_some_iff.1 h
    have hmem := (minBy_spec _ hr).1
    obtain ⟨hm, hne⟩ : r ∈ m.l2 ∧ r.1 ≠ k := by
      split at hmem
      · exact hriv { m with pins := [] } r hmem
      · exact hriv m r hmem
    exact ⟨hne, tget_isSome_of_mem hm⟩

/-- The L2 with room for a line. -/
def Mem.l2Room (m : Mem) (k : Nat) : Mem :=
  match m.l2Victim k with
  | some v => m.evictL2 v
  | none => m

theorem Mem.l2Room_same {m : Mem} {l : Nat} (k : Nat) (h : m.Sound l) : m.SameLine (m.l2Room k) l := by
  rw [Mem.l2Room]
  split
  next v hv => exact evictL2_same h (l2Victim_spec hv).2
  next => exact .refl h

theorem Mem.l2Room_get (m : Mem) (k : Nat) : tget (m.l2Room k).l2 k = tget m.l2 k := by
  rw [Mem.l2Room]
  split
  next v hv => exact evictL2_get (l2Victim_spec hv).1.symm
  next => rfl

/-- A line read from below into the memory-side cache, where that has it not. -/
def Mem.mscFill (m : Mem) (k : Nat) : Mem := if (tget m.msc k).isSome then m else (m.checkHbm k).putMsc k ⟨m.below k, false⟩

theorem Mem.mscFill_l2 (m : Mem) (k : Nat) : (m.mscFill k).l2 = m.l2 := by
  rw [Mem.mscFill]
  split
  · rfl
  · refine ((m.checkHbm k).putMsc_fields k _).2.2.1.trans ?_
    rw [Mem.checkHbm]
    split
    · rfl
    · split <;> rfl

theorem Mem.mscFill_below (m : Mem) (k : Nat) : (m.mscFill k).below k = m.below k := by
  rw [Mem.mscFill]
  split
  · rfl
  · exact Mem.putMsc_below _ _ _

theorem Mem.mscFill_same {m : Mem} {l : Nat} (k : Nat) (h : m.Sound l) (hk : tget m.l2 k = none) : m.SameLine (m.mscFill k) l := by
  cases hmsc : tget m.msc k with
  | some x => rw [Mem.mscFill, hmsc]; exact .refl h
  | none =>
    have hc := (m.checkHbm_alike k l).same h
    by_cases hl : l = k
    · subst hl
      have hl2 : (m.mscFill l).l2 = m.l2 := m.mscFill_l2 l
      have hbelow := m.mscFill_below l
      have hdef : m.mscFill l = (m.checkHbm l).putMsc l ⟨m.below l, false⟩ := by rw [Mem.mscFill, hmsc]; rfl
      obtain ⟨hmod, h1, -, hline, hget⟩ := (m.checkHbm l).putMsc_fields l ⟨m.below l, false⟩
      rw [← hdef] at hmod h1 hline hget
      have hone : (m.mscFill l).l1Of l = m.l1Of l := by
        rw [Mem.l1Of, h1]; exact (m.checkHbm_alike l l).l1
      refine ⟨by rw [hmod]; exact hc.mod, ?_, fun _ y hy => (by rw [hl2, hk] at hy; cases hy), fun _ y hy _ => ?_⟩
      · rw [Mem.value, Mem.value, hone, hl2, hk, hbelow, hmod, hc.mod]
      · rw [hget] at hy
        cases hy
        rw [hline, hbmLine_checkHbm]
        exact show m.below l = m.hbmLine l by rw [Mem.below, hmsc]
    · have hp := putMsc_other ⟨m.below k, false⟩ hl hc.sound
      rw [Mem.mscFill, hmsc]
      exact hc.trans hp

theorem Mem.ensureL2_present {m : Mem} {k u : Nat} {x : L2Line} (h : tget m.l2 k = some x) :
    m.ensureL2 k u = { m with l2 := tput m.l2 k { x with used := u } } := by
  rw [Mem.ensureL2, h]

theorem Mem.ensureL2_absent {m : Mem} {k u : Nat} (h : tget m.l2 k = none) :
    m.ensureL2 k u =
      { (m.l2Room k).mscFill k with l2 := tput ((m.l2Room k).mscFill k).l2 k ⟨(m.l2Room k).below k, false, .i, 0, 0, 0, 0, u⟩ } := by
  rw [Mem.ensureL2, h]
  rfl

theorem Mem.ensureL2_get (m : Mem) (k u : Nat) : (tget (m.ensureL2 k u).l2 k).isSome = true := by
  cases h : tget m.l2 k with
  | some x => rw [ensureL2_present h]; simp
  | none => rw [ensureL2_absent h]; simp

theorem Mem.ensureL2_same {m : Mem} {l : Nat} (k u : Nat) (h : m.Sound l) : m.SameLine (m.ensureL2 k u) l := by
  cases hk : tget m.l2 k with
  | some x =>
    rw [ensureL2_present hk]
    by_cases hl : l = k
    · subst hl
      refine ⟨rfl, ?_, fun hm y hy hd => ?_, fun hc => ?_⟩
      · rw [Mem.value, Mem.value, hk, tget_tput_same]
        rfl
      · rw [tget_tput_same] at hy
        cases hy
        exact h.l2 hm x hk hd
      · refine h.msc fun y hy => ?_
        rw [hk] at hy
        cases hy
        exact hc { x with used := u } (tget_tput_same _ _ _)
    · exact Alike.same ⟨rfl, rfl, tget_tput_ne _ _ _ _ hl, rfl, rfl⟩ h
  | none =>
    rw [ensureL2_absent hk]
    have hroom := l2Room_same k h
    have hget : tget (m.l2Room k).l2 k = none := (m.l2Room_get k).trans hk
    have hfill := mscFill_same k hroom.sound hget
    refine (hroom.trans hfill).trans ?_
    by_cases hl : l = k
    · subst hl
      have hbelow := (m.l2Room l).mscFill_below l
      rw [← (m.l2Room l).mscFill_l2 l] at hget
      generalize (m.l2Room l).below l = d at hbelow
      generalize (m.l2Room l).mscFill l = m' at *
      refine ⟨rfl, ?_, fun _ y hy _ => ?_, fun _ => hfill.sound.msc (by simp [hget])⟩
      · rw [Mem.value, Mem.value, hget, tget_tput_same, hbelow]
        rfl
      · rw [tget_tput_same] at hy
        cases hy
        exact hbelow.symm
    · exact Alike.same ⟨rfl, rfl, tget_tput_ne _ _ _ _ hl, rfl, rfl⟩ hfill.sound

/-! ### Copies reduced and taken back -/

theorem Mem.share_other (m : Mem) {k l : Nat} (h : l ≠ k) : m.Alike (m.share k) l := by
  refine ⟨rfl, ?_, tget_tmod_ne _ _ _ _ h, rfl, rfl⟩
  rw [Mem.l1Of, Mem.l1Of, Mem.share, List.filter_map]
  have hline (x : L1Line) : (if x.line = k then { x with st := .s, data := m.value k } else x).line = x.line := by split <;> rfl
  simp only [Function.comp_def, hline]
  refine (List.map_congr_left fun x hx => ?_).trans (List.map_id _)
  have := (List.mem_filter.1 hx).2
  rw [if_neg (by simp at this; omega)]
  rfl

/-- No copy of a shared line is modified in an L1. -/
theorem Mem.share_l1 (m : Mem) (k : Nat) : ((m.share k).l1Of k).any (fun x => x.st = .m) = false := by
  rw [List.any_eq_false]
  intro x hx
  rw [Mem.l1Of, Mem.share, List.mem_filter] at hx
  obtain ⟨hx, hk⟩ := hx
  obtain ⟨y, -, rfl⟩ := List.mem_map.1 hx
  split
  · simp
  next h => simp [h] at hk

theorem Mem.share_self {m : Mem} {k : Nat} (h : m.Sound k) (h2 : (tget m.l2 k).isSome = true) : m.SameLine (m.share k) k := by
  obtain ⟨x, hx⟩ := Option.isSome_iff_exists.1 h2
  have hl2 : tget (m.share k).l2 k = some { x with
      data := m.value k, dirty := x.dirty || (m.l1Of k).any (fun x => x.st = .m), dir := match x.dir with | .e y => .sp [y] | d => d } := by
    refine (tget_tmod_same _ _ _).trans ?_
    rw [hx]
    rfl
  refine ⟨rfl, ?_, fun hm y hy hd => ?_, fun hc => ?_⟩
  · cases hd : tget m.hdmMod k with
    | some d => rw [value_of_mod hd]; exact value_of_mod hd
    | none => exact value_of_clean (m := m.share k) hd (m.share_l1 k) hl2
  · rw [hl2] at hy
    cases hy
    obtain ⟨hxd, hany⟩ := Bool.or_eq_false_iff.1 hd
    exact (value_of_clean (m := m) hm hany hx).trans (h.l2 hm x hx hxd)
  · refine h.msc fun y hy => ?_
    rw [hx] at hy
    cases hy
    exact (Bool.or_eq_false_iff.1 (hc _ hl2)).1

theorem Mem.share_same {m : Mem} {k l : Nat} (h : m.Sound l) (h2 : (tget m.l2 k).isSome = true) : m.SameLine (m.share k) l := by
  by_cases hk : l = k
  · subst hk; exact share_self h h2
  · exact (m.share_other hk).same h

theorem Mem.endHdm_mod (m : Mem) (k : Nat) : (m.endHdm k).hdmMod = tdel m.hdmMod k := by
  rw [Mem.endHdm]
  split
  · rfl
  · split
    · rfl
    · exact (Mem.putMsc_fields _ k _).1

theorem Mem.endHdm_l1 (m : Mem) (k : Nat) : (m.endHdm k).l1 = m.l1 := by
  rw [Mem.endHdm]
  split
  · rfl
  · split
    · rfl
    · exact (Mem.putMsc_fields _ k _).2.1

theorem Mem.endHdm_other {m : Mem} {k l : Nat} (hl : l ≠ k) (h : m.Sound l) : m.SameLine (m.endHdm k) l := by
  have h0 : m.Alike { m with hdm := nsDel m.hdm k, hdmMod := tdel m.hdmMod k } l := ⟨tget_tdel_ne _ _ _ hl, rfl, rfl, rfl, rfl⟩
  rw [Mem.endHdm]
  split
  · exact h0.same h
  · split
    · exact Alike.same ⟨tget_tdel_ne _ _ _ hl, rfl, tget_tmod_ne _ _ _ _ hl, rfl, rfl⟩ h
    · exact (h0.same h).trans (putMsc_other _ hl (h0.sound h))

/-- A line taken back from the host keeps its value where the host's copy was the only modified one. -/
theorem Mem.endHdm_self {m : Mem} {k : Nat} (h : m.Sound k) (h1 : tget m.hdmMod k = none ∨ m.l1Of k = []) :
    (m.endHdm k).value k = m.value k ∧ (m.endHdm k).Sound k := by
  have hone : (m.endHdm k).l1Of k = m.l1Of k := by rw [Mem.l1Of, m.endHdm_l1, Mem.l1Of]
  have hmod : tget (m.endHdm k).hdmMod k = none := by rw [m.endHdm_mod]; exact tget_tdel_same _ _
  cases hd : tget m.hdmMod k with
  | none =>
    have ha : m.Alike (m.endHdm k) k := by
      rw [Mem.endHdm, hd]
      exact ⟨(tget_tdel_same _ _).trans hd.symm, rfl, rfl, rfl, rfl⟩
    exact ⟨ha.value, ha.sound h⟩
  | some d =>
    have h1 : m.l1Of k = [] := h1.resolve_left (by rw [hd]; simp)
    rw [value_of_mod hd]
    cases hx : tget m.l2 k with
    | some x =>
      have hl2 : tget (m.endHdm k).l2 k = some { x with data := d, dirty := true } := by
        rw [Mem.endHdm, hd, hx]
        exact (tget_tmod_same _ _ _).trans (by rw [hx]; rfl)
      refine ⟨value_of_l2 hmod (hone.trans h1) hl2, fun _ y hy hc => ?_, fun hc => ?_⟩
      · rw [hl2] at hy; cases hy; cases hc
      · cases hc _ hl2
    | none =>
      have hdef : m.endHdm k = ({ m with hdm := nsDel m.hdm k, hdmMod := tdel m.hdmMod k } : Mem).putMsc k ⟨d, true⟩ := by
        rw [Mem.endHdm, hd, hx]
        rfl
      obtain ⟨-, -, hl2, -, hmsc⟩ := ({ m with hdm := nsDel m.hdm k, hdmMod := tdel m.hdmMod k } : Mem).putMsc_fields k ⟨d, true⟩
      rw [← hdef] at hl2 hmsc
      refine ⟨(value_of_below hmod (hone.trans h1) (by rw [hl2]; exact hx)).trans ?_, fun _ y hy => ?_, fun _ y hy hc => ?_⟩
      · rw [hdef]; exact Mem.putMsc_below _ _ _
      · rw [hl2] at hy; exact absurd (hx.symm.trans hy) (by simp)
      · rw [hmsc] at hy; cases hy; cases hc

/-- No copy of a line taken back stays modified in the host. -/
theorem Mem.backInvalidate_mod (m : Mem) (k : Nat) : tget (m.backInvalidate k).hdmMod k = none := by
  rw [Mem.backInvalidate]
  split
  · exact (congrArg (tget · k) (m.endHdm_mod k)).trans (tget_tdel_same _ _)
  next h => simpa using (Bool.or_eq_false_iff.1 (Bool.eq_false_iff.2 h)).2

theorem Mem.backInvalidate_l1 (m : Mem) (k : Nat) : (m.backInvalidate k).l1 = m.l1 := by
  rw [Mem.backInvalidate]
  split
  · exact m.endHdm_l1 k
  · rfl

theorem Mem.backInvalidate_other {m : Mem} {k l : Nat} (hl : l ≠ k) (h : m.Sound l) : m.SameLine (m.backInvalidate k) l := by
  rw [Mem.backInvalidate]
  split
  · have he := endHdm_other hl h
    exact he.trans (Alike.same ⟨rfl, rfl, rfl, rfl, rfl⟩ he.sound)
  · exact .refl h

theorem Mem.backInvalidate_self {m : Mem} {k : Nat} (h : m.Sound k) (h1 : tget m.hdmMod k = none ∨ m.l1Of k = []) :
    (m.backInvalidate k).value k = m.value k ∧ (m.backInvalidate k).Sound k := by
  rw [Mem.backInvalidate]
  split
  · obtain ⟨hv, hs⟩ := endHdm_self h h1
    have ha : (m.endHdm k).Alike { m.endHdm k with backInv := m.backInv ++ [k] } k := ⟨rfl, rfl, rfl, rfl, rfl⟩
    exact ⟨ha.value.trans hv, ha.sound hs⟩
  · exact ⟨rfl, h⟩

/-! ### Reads and writes at home -/

theorem Mem.recheck_alike (m : Mem) (k l : Nat) (d : Line) : m.Alike (m.recheck k d) l := ⟨rfl, rfl, rfl, rfl, rfl⟩

/-- The line that a write at home finds in the L2, with every other copy taken. -/
def Mem.gathered (m : Mem) (k u : Nat) : Mem := ((m.backInvalidate k).ensureL2 k u).recallAll k

theorem Mem.gathered_other {m : Mem} {k l : Nat} (u : Nat) (hl : l ≠ k) (h : m.Sound l) : m.SameLine (m.gathered k u) l := by
  have hb := backInvalidate_other hl h
  have he := ensureL2_same k u hb.sound
  exact (hb.trans he).trans (recallAll_same he.sound ((m.backInvalidate k).ensureL2_get k u))

theorem Mem.evictL2_mod (m : Mem) (v : Nat) : (m.evictL2 v).hdmMod = m.hdmMod := by
  rw [Mem.evictL2]
  dsimp only
  split
  · rfl
  next x _ =>
    split
    · exact ((m.recallAll v).putMsc_fields v ⟨x.data, true⟩).1
    · rfl

theorem Mem.checkHbm_mod (m : Mem) (k : Nat) : (m.checkHbm k).hdmMod = m.hdmMod := by
  rw [Mem.checkHbm]
  split
  · rfl
  · split <;> rfl

theorem Mem.ensureL2_mod (m : Mem) (k u : Nat) : (m.ensureL2 k u).hdmMod = m.hdmMod := by
  cases hk : tget m.l2 k with
  | some x => rw [ensureL2_present hk]
  | none =>
    rw [ensureL2_absent hk]
    have hroom : (m.l2Room k).hdmMod = m.hdmMod := by
      rw [Mem.l2Room]
      split
      · exact m.evictL2_mod _
      · rfl
    refine Eq.trans ?_ hroom
    change ((m.l2Room k).mscFill k).hdmMod = _
    rw [Mem.mscFill]
    split
    · rfl
    · exact (Mem.putMsc_fields _ _ _).1.trans (Mem.checkHbm_mod _ _)

/-- The gathered line stands in the L2, and nowhere above it. -/
theorem Mem.gathered_self (m : Mem) (k u : Nat) :
    tget (m.gathered k u).hdmMod k = none ∧ (m.gathered k u).l1Of k = [] ∧ (tget (m.gathered k u).l2 k).isSome = true := by
  refine ⟨?_, by rw [Mem.gathered]; simp, ?_⟩
  · refine Eq.trans ?_ (m.backInvalidate_mod k)
    exact congrArg (tget · k) ((m.backInvalidate k).ensureL2_mod k u)
  · rw [Mem.gathered, (Mem.recallAll_fields _ k).2.2.2, Option.isSome_map]
    exact Mem.ensureL2_get _ _ _

theorem Mem.gathered_value {m : Mem} {k : Nat} (u : Nat) (h : m.Sound k) (h1 : tget m.hdmMod k = none ∨ m.l1Of k = []) :
    (m.gathered k u).value k = m.value k := by
  obtain ⟨hv, hs⟩ := backInvalidate_self h h1
  have he := ensureL2_same k u hs
  exact ((recallAll_same he.sound ((m.backInvalidate k).ensureL2_get k u)).value.trans he.value).trans hv

/-- What a write at home leaves of the line: the gathered value with the bytes merged, in the L2 alone. -/
theorem Mem.homeWrite_self (m : Mem) (k off n v u : Nat) :
    (m.homeWrite k off n v u).value k = lineWrite ((m.gathered k u).value k) off n v ∧ tget (m.homeWrite k off n v u).hdmMod k = none ∧
    (m.homeWrite k off n v u).l1Of k = [] ∧ (m.homeWrite k off n v u).Sound k := by
  obtain ⟨hmod, h1, h2⟩ := m.gathered_self k u
  obtain ⟨x, hx⟩ := Option.isSome_iff_exists.1 h2
  have hdef : m.homeWrite k off n v u = Mem.recheck { m.gathered k u with
      l2 := tmod (m.gathered k u).l2 k (fun x => { x with data := lineWrite ((m.gathered k u).value k) off n v, dirty := true }) } k
        (lineWrite ((m.gathered k u).value k) off n v) := by
    rw [value_of_l2 hmod h1 hx, Mem.homeWrite]
    dsimp only
    rw [← Mem.gathered, hx]
    rfl
  have hl2 : tget (m.homeWrite k off n v u).l2 k =
      some { x with data := lineWrite ((m.gathered k u).value k) off n v, dirty := true } := by
    rw [hdef]
    exact (tget_tmod_same _ _ _).trans (by rw [hx]; rfl)
  have hmod' : tget (m.homeWrite k off n v u).hdmMod k = none := by rw [hdef]; exact hmod
  have h1' : (m.homeWrite k off n v u).l1Of k = [] := by rw [hdef]; exact h1
  refine ⟨value_of_l2 hmod' h1' hl2, hmod', h1', fun _ y hy hd => ?_, fun hc => ?_⟩
  · rw [hl2] at hy; cases hy; cases hd
  · cases hc _ hl2

theorem Mem.homeWrite_value {m : Mem} {k : Nat} (off n v u : Nat) (h : m.Sound k) (h1 : tget m.hdmMod k = none ∨ m.l1Of k = []) :
    (m.homeWrite k off n v u).value k = lineWrite (m.value k) off n v := by
  rw [(m.homeWrite_self k off n v u).1, gathered_value u h h1]

theorem Mem.homeWrite_other {m : Mem} {k l : Nat} (off n v u : Nat) (hl : l ≠ k) (h : m.Sound l) : m.SameLine (m.homeWrite k off n v u) l := by
  have hg := gathered_other u hl h
  exact hg.trans (Alike.same ⟨rfl, rfl, tget_tmod_ne _ _ _ _ hl, rfl, rfl⟩ hg.sound)

theorem Mem.homeRead_self {m : Mem} {k : Nat} (u : Nat) (h : m.Sound k) (h1 : tget m.hdmMod k = none ∨ m.l1Of k = []) :
    (m.homeRead k u).value k = m.value k ∧ (m.homeRead k u).Sound k := by
  have hf : (m.fetchHdm k).value k = m.value k ∧ (m.fetchHdm k).Sound k := by
    rw [Mem.fetchHdm]
    split
    · exact backInvalidate_self h h1
    · exact ⟨rfl, h⟩
  have he := ensureL2_same k u hf.2
  have hs := share_same he.sound ((m.fetchHdm k).ensureL2_get k u)
  exact ⟨(hs.value.trans he.value).trans hf.1, hs.sound⟩

theorem Mem.patchHbm_other {m : Mem} {k l : Nat} (off n v : Nat) (hl : l ≠ k) : m.Alike (m.patchHbm k off n v) l := by
  refine (m.checkHbm_alike k l).trans ⟨rfl, rfl, rfl, rfl, ?_⟩
  rw [Mem.patchHbm, hbmLine_putHbmLine, if_neg hl]

end Sys2Proof.Machine
end

section
/-!
PROOFS. Coherent reads and writes of device memory: the bytes that a write leaves, and the bytes of other addresses.
-/
namespace Sys2Proof.Machine

/-! ### Bytes of a line -/

theorem testBit_lineRead (d : Line) (off n i : Nat) : (lineRead d off n).testBit i = (decide (i < 8 * n) && d.toNat.testBit (8 * off + i)) := by
  rw [lineRead, Nat.testBit_mod_two_pow, Nat.testBit_div_two_pow, Nat.add_comm i]

/-- A line with its bytes from `off` on, n of them, replaced. -/
theorem testBit_lineWrite {d : Line} {off n v i : Nat} (h : off + n ≤ 128) :
    (lineWrite d off n v).toNat.testBit i = if 8 * off ≤ i ∧ i < 8 * (off + n) then v.testBit (i - 8 * off) else d.toNat.testBit i := by
  have hsub : d.toNat - lineRead d off n * 2 ^ (8 * off) =
      2 ^ (8 * (off + n)) * (d.toNat / 2 ^ (8 * (off + n))) + d.toNat % 2 ^ (8 * off) := by
    have h1 := Nat.div_add_mod d.toNat (2 ^ (8 * off))
    have h2 := Nat.div_add_mod (d.toNat / 2 ^ (8 * off)) (2 ^ (8 * n))
    rw [Nat.div_div_eq_div_mul, ← Nat.pow_add, ← Nat.mul_add] at h2
    rw [lineRead]
    have h3 : 2 ^ (8 * (off + n)) = 2 ^ (8 * off) * 2 ^ (8 * n) := by rw [← Nat.pow_add, ← Nat.mul_add]
    generalize d.toNat / 2 ^ (8 * off) % 2 ^ (8 * n) = r at *
    generalize d.toNat / 2 ^ (8 * (off + n)) = q at *
    rw [h3]
    rw [← h2] at h1
    have : 2 ^ (8 * off) * (2 ^ (8 * n) * q + r) = 2 ^ (8 * off) * 2 ^ (8 * n) * q + r * 2 ^ (8 * off) := by ring
    omega
  have hlow : d.toNat % 2 ^ (8 * off) + v % 2 ^ (8 * n) * 2 ^ (8 * off) < 2 ^ (8 * (off + n)) := by
    have h1 : d.toNat % 2 ^ (8 * off) < 2 ^ (8 * off) := Nat.mod_lt _ (by positivity)
    have h2 : v % 2 ^ (8 * n) < 2 ^ (8 * n) := Nat.mod_lt _ (by positivity)
    calc d.toNat % 2 ^ (8 * off) + v % 2 ^ (8 * n) * 2 ^ (8 * off) < 2 ^ (8 * off) + v % 2 ^ (8 * n) * 2 ^ (8 * off) := by omega
      _ = (v % 2 ^ (8 * n) + 1) * 2 ^ (8 * off) := by ring
      _ ≤ 2 ^ (8 * n) * 2 ^ (8 * off) := Nat.mul_le_mul_right _ h2
      _ = 2 ^ (8 * (off + n)) := by rw [← Nat.pow_add]; congr 1; omega
  have hcut (j : Nat) (hj : 1024 ≤ j) : d.toNat.testBit j = false :=
    Nat.testBit_lt_two_pow (lt_of_lt_of_le d.isLt (Nat.pow_le_pow_right (by decide) hj))
  rw [lineWrite, BitVec.toNat_ofNat, Nat.testBit_mod_two_pow, hsub, Nat.add_assoc, Nat.testBit_two_pow_mul_add _ hlow]
  by_cases hi : i < 8 * (off + n)
  · rw [if_pos hi, decide_eq_true (by omega), Bool.true_and, Nat.add_comm, Nat.mul_comm,
      Nat.testBit_two_pow_mul_add _ (Nat.mod_lt _ (by positivity))]
    by_cases ho : i < 8 * off
    · rw [if_pos ho, if_neg (by omega), Nat.testBit_mod_two_pow, decide_eq_true ho, Bool.true_and]
    · rw [if_neg ho, if_pos (by omega), Nat.testBit_mod_two_pow, decide_eq_true (by omega), Bool.true_and]
  · rw [if_neg hi, if_neg (by omega), Nat.testBit_div_two_pow, Nat.sub_add_cancel (by omega)]
    by_cases hc : i < 1024
    · rw [decide_eq_true hc, Bool.true_and]
    · rw [decide_eq_false hc, Bool.false_and, hcut i (by omega)]

/-- A range of a line as it was before a write elsewhere in the line. -/
theorem lineRead_lineWrite_other {d : Line} {off n v o k : Nat} (h : off + n ≤ 128) (ho : o + k ≤ off ∨ off + n ≤ o) :
    lineRead (lineWrite d off n v) o k = lineRead d o k := by
  refine Nat.eq_of_testBit_eq fun i => ?_
  rw [testBit_lineRead, testBit_lineRead, testBit_lineWrite h]
  by_cases hi : i < 8 * k
  · rw [if_neg (by omega)]
  · simp [hi]

/-- A range of a line that a write has covered. -/
theorem lineRead_lineWrite_within {d : Line} {off n v o k : Nat} (h : off + n ≤ 128) (h1 : off ≤ o) (h2 : o + k ≤ off + n) :
    lineRead (lineWrite d off n v) o k = v / 2 ^ (8 * (o - off)) % 2 ^ (8 * k) := by
  refine Nat.eq_of_testBit_eq fun i => ?_
  rw [testBit_lineRead, testBit_lineWrite h, Nat.testBit_mod_two_pow, Nat.testBit_div_two_pow]
  by_cases hi : i < 8 * k
  · rw [if_pos (by omega), show 8 * o + i - 8 * off = i + 8 * (o - off) by omega]
  · simp [hi]

theorem leNat_byte (bs : List Byte) (j : Nat) : leNat bs / 2 ^ (8 * j) % 2 ^ 8 = (bs.getD j 0).toNat := by
  induction bs generalizing j with
  | nil => simp [leNat]
  | cons b bs ih =>
    have hb := b.isLt
    cases j with
    | zero => simp [leNat]; omega
    | succ j =>
      have : leNat (b :: bs) / 2 ^ 8 = leNat bs := by rw [leNat]; omega
      rw [Nat.mul_add, Nat.add_comm, Nat.pow_add, ← Nat.div_div_eq_div_mul, this, ih]
      rfl

/-! ### A byte as a coherent read sees it -/

/-- The byte of an address as a coherent read sees it. -/
def State.byteAt (s : State) (a : Nat) : Byte := BitVec.ofNat 8 (lineRead (s.lineValue (a / 128)) (a % 128) 1)

theorem readBytes_eq_map (s : State) (pa n : Nat) : s.readBytes pa n = (List.range n).map fun j => s.byteAt (pa + j) := by
  induction n generalizing pa with
  | zero => rfl
  | succ n ih => rw [State.readBytes, ih, List.range_succ_eq_map, List.map_cons, List.map_map]; simp [State.byteAt, Function.comp_def, Nat.add_assoc, Nat.add_comm 1]

@[simp] theorem readBytes_length (s : State) (pa n : Nat) : (s.readBytes pa n).length = n := by simp [readBytes_eq_map]

theorem readBytes_congr {s t : State} {pa n : Nat} (h : ∀ l, pa / 128 ≤ l → l ≤ (pa + n - 1) / 128 → t.lineValue l = s.lineValue l) :
    t.readBytes pa n = s.readBytes pa n := by
  rw [readBytes_eq_map, readBytes_eq_map]
  refine List.map_congr_left fun j hj => ?_
  have hj := List.mem_range.1 hj
  rw [State.byteAt, State.byteAt, h _ (Nat.div_le_div_right (by omega)) (Nat.div_le_div_right (by omega))]

theorem readBytes_eq_of_byteAt {s : State} {pa : Nat} {bs : List Byte} (h : ∀ j < bs.length, s.byteAt (pa + j) = bs.getD j 0) :
    s.readBytes pa bs.length = bs := by
  rw [readBytes_eq_map]
  refine List.ext_getElem (by simp) fun j hj _ => ?_
  have hj : j < bs.length := by simpa using hj
  simp [h j hj, hj]

/-- A line of device memory that is read at its home's caches: no near-memory command works on it, and none of its data is on its way. -/
structure State.Plain (s : State) (l : Nat) : Prop where
  hbm : isHost (128 * l) = false
  busy : s.busy l = false
  still : s.mem.inFlight l = none

theorem State.Plain.lineValue {s : State} {l : Nat} (h : s.Plain l) : s.lineValue l = s.mem.value l := by
  rw [State.lineValue, h.hbm, h.busy, h.still]
  rfl

theorem inFlight_of_settled {m : Mem} {l : Nat} (h : m.settled l = true) : m.inFlight l = none := by
  simp only [Mem.settled, Bool.and_eq_true] at h
  have hm := h.2
  simp only [Bool.not_eq_true', List.any_eq_false] at hm
  rw [Mem.inFlight, List.findSome?_eq_none_iff]
  intro x hx
  have := hm x hx
  cases x with
  | writeBack k c d => simpa using this
  | ack c k y d => cases d <;> simp_all
  | _ => rfl

theorem settled_of_quiet {m : Mem} {l : Nat} (h : m.quiet l = true) : m.settled l = true := by
  simp only [Mem.quiet, Bool.and_eq_true] at h
  exact h.1.1

/-- What a line at home is read by stays the same where the messages and the engines' lines do. -/
theorem State.Plain.of_same {s t : State} {l : Nat} (h : s.Plain l) (hm : t.mem.msgs = s.mem.msgs) (he : t.eng = s.eng) : t.Plain l :=
  ⟨h.hbm, by rw [State.busy, he]; exact h.busy, by rw [Mem.inFlight, hm]; exact h.still⟩

theorem isHost_line {pa : Nat} (h : isHost pa = false) : isHost (128 * (pa / 128)) = false := by
  rw [isHost, hostBase, hostSize] at *
  simp only [Bool.and_eq_false_iff, decide_eq_false_iff_not] at *
  omega

theorem isHost_of_line {pa : Nat} (h : isHost (128 * (pa / 128)) = false) : isHost pa = false := by
  rw [isHost, hostBase, hostSize] at *
  simp only [Bool.and_eq_false_iff, decide_eq_false_iff_not] at *
  omega

theorem AtRest.plain {s : State} {l : Nat} (h : AtRest s l) (hh : isHost (128 * l) = false) : s.Plain l :=
  ⟨hh, h.2.1, inFlight_of_settled (settled_of_quiet h.1)⟩

/-- A byte of a line in no page under migration has no mirror. -/
theorem mirror_none {m : Mem} {pa : Nat} (h : ∀ g ∈ m.migs, 128 * (pa / 128) + 128 ≤ g.src ∨ g.src + pageBytes g.size ≤ 128 * (pa / 128)) :
    m.mirror pa = none := by
  have : m.migAt pa = none := by
    rw [Mem.migAt, List.find?_eq_none]
    intro g hg
    have := h g hg
    rw [Bool.and_eq_true, decide_eq_true_eq, decide_eq_true_eq]
    omega
  rw [Mem.mirror, this]

/-! ### A write within a line -/

/-- A write at the home of one line takes no new copy of another into an L1. -/
theorem homeWrite_l1_nil (m : Mem) {l : Nat} (k off n v u : Nat) (h : m.l1Of l = []) : (m.homeWrite k off n v u).l1Of l = [] := by
  have hfil (m' : Mem) (hsub : ∀ x ∈ m'.l1, x ∈ m.l1) : m'.l1Of l = [] := by
    rw [Mem.l1Of, List.filter_eq_nil_iff] at *
    exact fun x hx => h x (hsub x hx)
  refine hfil _ fun x hx => ?_
  have hrec (m' : Mem) (j : Nat) (y : L1Line) (hy : y ∈ (m'.recallAll j).l1) : y ∈ m'.l1 := (List.mem_filter.1 hy).1
  have hput (m' : Mem) (j : Nat) (y : MscLine) : (m'.putMsc j y).l1 = m'.l1 := (m'.putMsc_fields j y).2.1
  have hevict (m' : Mem) (j : Nat) (y : L1Line) (hy : y ∈ (m'.evictL2 j).l1) : y ∈ m'.l1 := by
    rw [Mem.evictL2] at hy
    refine hrec m' j y ?_
    dsimp only at hy
    split at hy
    · exact hy
    next z _ =>
      split at hy
      · rw [← hput (m'.recallAll j) j ⟨z.data, true⟩]; exact hy
      · exact hy
  have hcheck (m' : Mem) : (m'.checkHbm k).l1 = m'.l1 := by
    unfold Mem.checkHbm
    split
    · rfl
    · split <;> rfl
  have hens (m' : Mem) (y : L1Line) (hy : y ∈ (m'.ensureL2 k u).l1) : y ∈ m'.l1 := by
    cases hk : tget m'.l2 k with
    | some z => rw [Mem.ensureL2_present hk] at hy; exact hy
    | none =>
      rw [Mem.ensureL2_absent hk] at hy
      have hy : y ∈ (m'.l2Room k).l1 := by
        change y ∈ ((m'.l2Room k).mscFill k).l1 at hy
        rw [Mem.mscFill] at hy
        split at hy
        · exact hy
        · rwa [hput, hcheck] at hy
      rw [Mem.l2Room] at hy
      split at hy
      · exact hevict _ _ _ hy
      · exact hy
  rw [← m.backInvalidate_l1 k]
  exact hens _ x (hrec _ k x hx)

theorem writeAt_home {s : State} {fn pa n v : Nat} (hh : isHost pa = false) (hb : s.busy (pa / 128) = false) :
    s.writeAt fn pa n v = { s.bump with mem := s.mem.homeWrite (pa / 128) (pa % 128) n v s.seqCtr } := by
  rw [State.writeAt, hh, hb]
  rfl

theorem writePiece_plain {s : State} {fn pa n v : Nat} (hm : s.mem.mirror pa = none) : s.writePiece fn pa n v = s.writeAt fn pa n v := by
  rw [State.writePiece, hm]

/-- A write of device memory leaves other lines as they are. -/
theorem writeAt_other {s : State} {fn pa n v l : Nat} (hh : isHost pa = false) (hl : l ≠ pa / 128) (hs : s.mem.Sound l) :
    s.mem.SameLine (s.writeAt fn pa n v).mem l := by
  cases hb : s.busy (pa / 128) with
  | false => rw [writeAt_home hh hb]; exact Mem.homeWrite_other _ _ _ _ hl hs
  | true =>
    rw [State.writeAt, hh, hb]
    exact Mem.Alike.same (Mem.Alike.trans (Mem.patchHbm_other _ _ _ hl) (Mem.recheck_alike _ _ _ _)) hs

/-- What may be said of a line that writes of a range of device memory reach: it is read at its home, and it lies in no page under migration. -/
structure State.Writable (s : State) (l : Nat) : Prop extends s.Plain l where
  free : ∀ g ∈ s.mem.migs, 128 * l + 128 ≤ g.src ∨ g.src + pageBytes g.size ≤ 128 * l

theorem AtRest.writable {s : State} {l : Nat} (h : AtRest s l) (hh : isHost (128 * l) = false) : s.Writable l := ⟨h.plain hh, h.2.2⟩

theorem State.Writable.of_same {s t : State} {l : Nat} (h : s.Writable l) (hm : t.mem.msgs = s.mem.msgs) (hg : t.mem.migs = s.mem.migs) (he : t.eng = s.eng) :
    t.Writable l :=
  ⟨h.toPlain.of_same hm he, by rw [hg]; exact h.free⟩

theorem State.Writable.writePiece {s : State} {fn pa n v l : Nat} (h : s.Writable l) : (s.writePiece fn pa n v).Writable l :=
  h.of_same (by simp) (by simp) (by simp)

/-- A piece written to a line at its home, as the line then reads. -/
theorem writePiece_self {s : State} {fn pa n v : Nat} (h : s.Writable (pa / 128)) :
    ∃ d, (s.writePiece fn pa n v).mem.value (pa / 128) = lineWrite d (pa % 128) n v ∧
      (s.mem.Sound (pa / 128) → tget s.mem.hdmMod (pa / 128) = none ∨ s.mem.l1Of (pa / 128) = [] → d = s.mem.value (pa / 128)) ∧
      (s.writePiece fn pa n v).mem.Sound (pa / 128) ∧ tget (s.writePiece fn pa n v).mem.hdmMod (pa / 128) = none := by
  rw [writePiece_plain (mirror_none h.free), writeAt_home (isHost_of_line h.hbm) h.busy]
  obtain ⟨hv, hm, -, hs⟩ := s.mem.homeWrite_self (pa / 128) (pa % 128) n v s.seqCtr
  exact ⟨_, hv, fun h1 h2 => Mem.gathered_value _ h1 h2, hs, hm⟩

theorem writePiece_other {s : State} {fn pa n v l : Nat} (h : s.Writable (pa / 128)) (hl : l ≠ pa / 128) (hs : s.mem.Sound l) :
    s.mem.SameLine (s.writePiece fn pa n v).mem l := by
  rw [writePiece_plain (mirror_none h.free)]
  exact writeAt_other (isHost_of_line h.hbm) hl hs

theorem byteAt_of_value {s t : State} {a : Nat} (hs : s.Plain (a / 128)) (ht : t.Plain (a / 128)) (h : t.mem.value (a / 128) = s.mem.value (a / 128)) :
    t.byteAt a = s.byteAt a := by
  rw [State.byteAt, State.byteAt, hs.lineValue, ht.lineValue, h]

/-- A byte within a written piece. -/
theorem writePiece_byte_in {s : State} {fn pa k a : Nat} {bs : List Byte} (h : s.Writable (pa / 128)) (hk : pa % 128 + k ≤ 128)
    (h1 : pa ≤ a) (h2 : a < pa + k) :
    (s.writePiece fn pa k (leNat (bs.take k))).byteAt a = bs.getD (a - pa) 0 := by
  obtain ⟨d, hd, -⟩ := writePiece_self (fn := fn) (n := k) (v := leNat (bs.take k)) h
  have ha : a / 128 = pa / 128 := by omega
  rw [State.byteAt, ha, (State.Writable.writePiece h).lineValue, hd, lineRead_lineWrite_within hk (by omega) (by omega),
    show a % 128 - pa % 128 = a - pa by omega, leNat_byte, BitVec.ofNat_toNat, BitVec.setWidth_eq, List.getD_eq_getElem?_getD, List.getD_eq_getElem?_getD,
    List.getElem?_take_of_lt (by omega)]

/-- A byte outside a written piece, on the same line or on another. -/
theorem writePiece_byte_out {s : State} {fn pa k v a : Nat} (h : s.Writable (pa / 128)) (hk : pa % 128 + k ≤ 128) (ho : a < pa ∨ pa + k ≤ a)
    (hp : s.Plain (a / 128)) (hs : s.mem.Sound (a / 128)) (hm : a / 128 = pa / 128 → tget s.mem.hdmMod (a / 128) = none ∨ s.mem.l1Of (a / 128) = []) :
    (s.writePiece fn pa k v).byteAt a = s.byteAt a := by
  by_cases ha : a / 128 = pa / 128
  · obtain ⟨d, hd, heq, -⟩ := writePiece_self (fn := fn) (n := k) (v := v) h
    rw [heq (ha ▸ hs) (ha ▸ hm ha)] at hd
    rw [State.byteAt, State.byteAt, ha, (State.Writable.writePiece h).lineValue, hd, h.lineValue, lineRead_lineWrite_other hk (by omega)]
  · exact byteAt_of_value hp (hp.of_same (by simp) (by simp)) (writePiece_other h ha hs).value

/-- The copies of a line agree after a piece has been written, wherever it was. -/
theorem writePiece_sound {s : State} {fn pa k v l : Nat} (h : s.Writable (pa / 128)) (hs : l = pa / 128 ∨ s.mem.Sound l) :
    (s.writePiece fn pa k v).mem.Sound l := by
  by_cases ha : l = pa / 128
  · obtain ⟨d, -, -, hs, -⟩ := writePiece_self (fn := fn) (n := k) (v := v) h
    rw [ha]; exact hs
  · exact (writePiece_other h ha (hs.resolve_left ha)).sound

/-! ### A write of many bytes -/

/-- A write of n bytes from `pa` on has been carried out: those bytes are there, the lines written agree, and every other byte that could be read is as
it was. -/
structure Wrote (s t : State) (pa : Nat) (bs : List Byte) : Prop where
  bytes : ∀ j < bs.length, t.byteAt (pa + j) = bs.getD j 0
  lines : ∀ j < bs.length, t.mem.Sound ((pa + j) / 128)
  sound : ∀ l, s.mem.Sound l → t.mem.Sound l
  other : ∀ a, a < pa ∨ pa + bs.length ≤ a → s.Plain (a / 128) → s.mem.Sound (a / 128) →
    ((∃ j < bs.length, (pa + j) / 128 = a / 128) → tget s.mem.hdmMod (a / 128) = none ∨ s.mem.l1Of (a / 128) = []) → t.byteAt a = s.byteAt a

theorem Wrote.nil (s : State) (pa : Nat) : Wrote s s pa [] :=
  ⟨fun _ h => by simp at h, fun _ h => by simp at h, fun _ h => h, fun _ _ _ _ _ => rfl⟩

/-- A piece written, and after it the bytes from the next line on. -/
theorem Wrote.cons {s t : State} {fn pa k : Nat} {bs : List Byte} (hk : pa % 128 + k ≤ 128) (hb : k ≤ bs.length) (h0 : 0 < k)
    (hend : pa % 128 + k = 128 ∨ k = bs.length) (hw : s.Writable (pa / 128)) (hp : ∀ j < bs.length, s.Plain ((pa + j) / 128))
    (ht : Wrote (s.writePiece fn pa k (leNat (bs.take k))) t (pa + k) (bs.drop k)) : Wrote s t pa bs := by
  have hlen : (bs.drop k).length = bs.length - k := List.length_drop
  have hself {l : Nat} (hl : l = pa / 128 ∨ s.mem.Sound l) : (s.writePiece fn pa k (leNat (bs.take k))).mem.Sound l := writePiece_sound hw hl
  have hfar (j : Nat) (hj : j < (bs.drop k).length) : (pa + k + j) / 128 ≠ pa / 128 := by rw [hlen] at hj; omega
  have hplain {l : Nat} (h : s.Plain l) : (s.writePiece fn pa k (leNat (bs.take k))).Plain l := h.of_same (by simp) (by simp)
  refine ⟨fun j hj => ?_, fun j hj => ?_, fun l hl => ht.sound l (hself (.inr hl)), fun a ha hpa hs hm => ?_⟩
  · by_cases hjk : j < k
    · have hline : (pa + j) / 128 = pa / 128 := by omega
      rw [ht.other (pa + j) (.inl (by omega)) (hplain (hp j hj)) (hself (.inl hline)) fun ⟨i, hi, he⟩ => absurd (he.trans hline) (hfar i hi),
        writePiece_byte_in hw hk (by omega) (by omega)]
      congr 1
      omega
    · have := ht.bytes (j - k) (by omega)
      rw [show pa + k + (j - k) = pa + j by omega] at this
      rw [this, List.getD_eq_getElem?_getD, List.getElem?_drop, List.getD_eq_getElem?_getD]
      congr 2
      omega
  · by_cases hjk : j < k
    · exact ht.sound _ (hself (.inl (by omega)))
    · have := ht.lines (j - k) (by omega)
      rwa [show pa + k + (j - k) = pa + j by omega] at this
  · have hmod (he : a / 128 = pa / 128) : tget s.mem.hdmMod (a / 128) = none ∨ s.mem.l1Of (a / 128) = [] := hm ⟨0, by omega, he.symm⟩
    rw [ht.other a (by omega) (hplain hpa) (hself (.inr hs)) fun ⟨i, hi, he⟩ => ?_, writePiece_byte_out hw hk (by omega) hpa hs hmod]
    have hne : a / 128 ≠ pa / 128 := he ▸ hfar i hi
    have hsame := writePiece_other (fn := fn) (n := k) (v := leNat (bs.take k)) hw hne hs
    obtain h | h := hm ⟨k + i, by omega, by rw [← he]; congr 1; omega⟩
    · exact .inl (hsame.mod.trans h)
    · rw [writePiece_plain (mirror_none hw.free), writeAt_home (isHost_of_line hw.hbm) hw.busy]
      exact .inr (homeWrite_l1_nil _ _ _ _ _ _ h)

theorem writeLines_wrote {fn n pa : Nat} {bs : List Byte} {s : State} (hn : bs.length = 0 ∨ pa % 128 + bs.length ≤ 128 * n)
    (hw : ∀ j < bs.length, s.Writable ((pa + j) / 128)) : Wrote s (s.writeLines fn pa bs n) pa bs := by
  induction n generalizing s pa bs with
  | zero =>
    obtain rfl : bs = [] := List.eq_nil_of_length_eq_zero (by omega)
    exact Wrote.nil s pa
  | succ n ih =>
    rw [State.writeLines]
    by_cases hk : min (128 - pa % 128) bs.length = 0
    · obtain rfl : bs = [] := List.eq_nil_of_length_eq_zero (by omega)
      simp only [List.length_nil, Nat.min_zero, if_true]
      exact Wrote.nil s pa
    · rw [if_neg hk]
      have hlen : (bs.drop (min (128 - pa % 128) bs.length)).length = bs.length - min (128 - pa % 128) bs.length := List.length_drop
      refine Wrote.cons (fn := fn) (k := min (128 - pa % 128) bs.length) (by omega) (by omega) (by omega) (by omega) (hw 0 (by omega))
        (fun j hj => (hw j hj).toPlain) ?_
      refine ih (by omega) fun j hj => State.Writable.writePiece ?_
      rw [Nat.add_assoc]
      exact hw (min (128 - pa % 128) bs.length + j) (by omega)

/-- Bytes written to device memory at rest are read back, and others stay. -/
theorem writeBytes_wrote {s : State} {fn pa : Nat} {bs : List Byte} (hw : ∀ j < bs.length, s.Writable ((pa + j) / 128)) :
    Wrote s (s.writeBytes fn pa bs) pa bs :=
  writeLines_wrote (.inr (by omega)) hw

theorem Wrote.read {s t : State} {pa : Nat} {bs : List Byte} (h : Wrote s t pa bs) : t.readBytes pa bs.length = bs := readBytes_eq_of_byteAt h.bytes

end Sys2Proof.Machine
end

section
/-!
PROOFS. Device memory as the host reaches it (R19, R52, R152): obligation O31.
-/
namespace Sys2Proof.Machine

/-! ### Lines read out of HBM (R15) -/

/-- Memory after reads of HBM: check bytes have been looked at, and nothing else has changed. -/
def Mem.Checked (m m' : Mem) : Prop := m' = { m with flaws := m'.flaws, corrected := m'.corrected, poison := m'.poison }

theorem Mem.Checked.trans {m m' m'' : Mem} (h : m.Checked m') (h' : m'.Checked m'') : m.Checked m'' := by
  rw [Mem.Checked] at *
  rw [h'] at *
  rw [h]

theorem Mem.checkRead_checked (m : Mem) (l : Nat) : m.Checked (m.checkRead l) := by
  unfold Mem.checkRead Mem.checkHbm
  split
  · split
    · rfl
    · split <;> rfl
  · rfl

theorem Mem.Checked.poisoned {m m' : Mem} (h : m.Checked m') : m'.l2 = m.l2 ∧ m'.msc = m.msc := by
  rw [h]
  exact ⟨rfl, rfl⟩

/-- A look at a line's check bytes changes no answer to whether a line is poisoned (R15). -/
theorem Mem.checkRead_poison (m : Mem) (k l : Nat) :
    (nsHas (m.checkRead k).poison l || (m.checkRead k).flawed l) = (nsHas m.poison l || m.flawed l) := by
  unfold Mem.checkRead
  split
  next hc =>
    rw [Mem.checkHbm]
    split
    next => rfl
    next n hn =>
      simp only [Bool.and_eq_true] at hc
      have hflaw (j : Nat) : tgetD (tdel m.flaws k) j 0 = if j = k then 0 else tgetD m.flaws j 0 := by
        rw [tgetD, tgetD]
        by_cases hj : j = k
        · subst hj; simp
        · rw [tget_tdel_ne _ _ _ hj, if_neg hj]
      have hk : tgetD m.flaws k 0 = n := by rw [tgetD, hn]; rfl
      by_cases hl : l = k
      · subst hl
        split
        next h1 => simp [Mem.flawed, hflaw, hk, Nat.not_lt.2 h1]
        next h1 => simp [Mem.flawed, hflaw, hk, nsHas_nsAdd, Nat.lt_of_not_le h1, hc.1, hc.2]
      · split <;> simp [Mem.flawed, hflaw, nsHas_nsAdd, hl]
  · rfl

/-- A line with an error that cannot be corrected is poisoned as it is read. -/
theorem Mem.checkRead_marks {m : Mem} {l : Nat} (h : (nsHas m.poison l || m.flawed l) = true) : nsHas (m.checkRead l).poison l = true := by
  have h' := (m.checkRead_poison l l).trans h
  have hnot : (m.checkRead l).flawed l = false := by
    unfold Mem.checkRead
    split
    · unfold Mem.checkHbm
      split
      next hn => simp [Mem.flawed, tgetD, hn]
      next n hn => split <;> simp [Mem.flawed, tgetD]
    next hc =>
      rw [Mem.flawed, Bool.and_assoc, Bool.eq_false_iff.2 hc, Bool.and_false]
  rwa [hnot, Bool.or_false] at h'

theorem Mem.checkRead_poison_mono {m : Mem} (k : Nat) {l : Nat} (h : nsHas m.poison l = true) : nsHas (m.checkRead k).poison l = true := by
  unfold Mem.checkRead Mem.checkHbm
  split
  · split
    · exact h
    · split
      · exact h
      · simp [nsHas_nsAdd, h]
  · exact h

theorem readLines_checked (s : State) (ls : List Nat) : s.mem.Checked (s.readLines ls).mem := by
  change s.mem.Checked (ls.foldl Mem.checkRead s.mem)
  induction ls generalizing s with
  | nil => rfl
  | cons l ls ih => exact (s.mem.checkRead_checked l).trans (ih { s with mem := s.mem.checkRead l })

@[simp] theorem readLines_poisoned (s : State) (ls : List Nat) (l : Nat) : (s.readLines ls).poisoned l = s.poisoned l := by
  induction ls generalizing s with
  | nil => rfl
  | cons k ls ih => exact (ih { s with mem := s.mem.checkRead k }).trans (s.mem.checkRead_poison k l)

theorem readLines_marks {s : State} {ls : List Nat} {l : Nat} (hl : l ∈ ls) (h : s.poisoned l = true) : nsHas (s.readLines ls).mem.poison l = true := by
  have hmono (s : State) (ls : List Nat) (h : nsHas s.mem.poison l = true) : nsHas (s.readLines ls).mem.poison l = true := by
    induction ls generalizing s with
    | nil => exact h
    | cons k ls ih => exact ih { s with mem := s.mem.checkRead k } (Mem.checkRead_poison_mono k h)
  induction ls generalizing s with
  | nil => cases hl
  | cons k ls ih =>
    obtain rfl | hl := List.mem_cons.1 hl
    · exact hmono { s with mem := s.mem.checkRead l } ls (Mem.checkRead_marks h)
    · exact ih (s := { s with mem := s.mem.checkRead k }) hl ((s.mem.checkRead_poison k l).trans h)

@[simp] theorem readLines_isSpent (s : State) (ls : List Nat) (l : Nat) : (s.readLines ls).mem.isSpent l = s.mem.isSpent l := by
  rw [Mem.isSpent, readLines_checked s ls]
  rfl

theorem readLines_eq (s : State) (ls : List Nat) : s.readLines ls = { s with mem := (s.readLines ls).mem } := rfl

@[simp] theorem readLines_lineValue (s : State) (ls : List Nat) (l : Nat) : (s.readLines ls).lineValue l = s.lineValue l := by
  have h := readLines_checked s ls
  rw [readLines_eq, h]
  rfl

@[simp] theorem readLines_readBytes (s : State) (ls : List Nat) (pa n : Nat) : (s.readLines ls).readBytes pa n = s.readBytes pa n :=
  readBytes_congr fun l _ _ => readLines_lineValue s ls l

/-! ### Reads (R52) -/

theorem hostRead_bad {s : State} {pa n : Nat} (h : (linesOf pa n).any (fun l => s.mem.isSpent l || s.poisoned l) = true) :
    s.hostRead pa n = (s.readLines ((linesOf pa n).filter (fun l => !s.mem.isSpent l))).reply .poisoned := by
  rw [State.hostRead]
  simp only [readLines_isSpent, readLines_poisoned, h, if_true]

theorem hostRead_good {s : State} {pa n : Nat} (h : (linesOf pa n).any (fun l => s.mem.isSpent l || s.poisoned l) = false) :
    s.hostRead pa n =
      ((linesOf pa n).foldl State.takeAtHome (s.readLines ((linesOf pa n).filter (fun l => !s.mem.isSpent l)))).reply (.data (s.readBytes pa n)) := by
  rw [State.hostRead]
  simp only [readLines_isSpent, readLines_poisoned, readLines_readBytes, h, Bool.false_eq_true, if_false]

/-- What a read of a poisoned or spent line comes to. -/
theorem hostRead_poisons {s : State} {pa n : Nat} (h : (linesOf pa n).any (fun l => s.mem.isSpent l || s.poisoned l) = true) :
    let t := s.hostRead pa n
    t = { s with host := { s.host with replies := s.host.replies ++ [.poisoned] },
                 mem := { s.mem with flaws := t.mem.flaws, corrected := t.mem.corrected, poison := t.mem.poison } } ∧
      ∀ l ∈ linesOf pa n, s.mem.isSpent l = false → s.poisoned l = true → nsHas t.mem.poison l = true := by
  dsimp only
  rw [hostRead_bad h]
  refine ⟨?_, fun l hl hs hp => readLines_marks (List.mem_filter.2 ⟨hl, by simp [hs]⟩) hp⟩
  have hc := readLines_checked s ((linesOf pa n).filter (fun l => !s.mem.isSpent l))
  rw [State.reply]
  dsimp only
  rw [← hc]
  rfl

/-- What a read of other lines comes to. -/
theorem hostRead_answers {s : State} {pa n : Nat} (h : (linesOf pa n).any (fun l => s.mem.isSpent l || s.poisoned l) = false) :
    (s.hostRead pa n).host.replies = s.host.replies ++ [.data (s.readBytes pa n)] ∧ (s.hostRead pa n).board = s.board ∧
      (s.hostRead pa n).sched = s.sched ∧ (s.hostRead pa n).fab = s.fab := by
  rw [hostRead_good h]
  simp [State.reply]

/-! ### Writes within a line (R52) -/

theorem linesOf_within {pa n : Nat} (h0 : 0 < n) (h : pa % 128 + n ≤ 128) : linesOf pa n = [pa / 128] := by
  rw [linesOf, if_neg (by omega), show (pa + n - 1) / 128 - pa / 128 + 1 = 1 by omega]
  simp

theorem hostPut_within {s : State} {pa n : Nat} {bs : List Byte} (h0 : bs ≠ []) (h : pa % 128 + bs.length ≤ 128) :
    s.hostPut pa bs (n + 2) = if s.mem.isSpent (pa / 128) then s else s.writePiece 0 pa bs.length (leNat bs) := by
  have hlen : 0 < bs.length := List.length_pos_iff.2 h0
  have hk : min (128 - pa % 128) bs.length = bs.length := by omega
  rw [State.hostPut]
  simp only [hk, if_neg (Nat.ne_of_gt hlen), List.take_length, List.drop_length]
  rw [State.hostPut]
  simp

/-- A write at its home that the host carries out. -/
theorem hostPut_home {s : State} {pa n : Nat} {bs : List Byte} (h0 : bs ≠ []) (h : pa % 128 + bs.length ≤ 128) (hs : s.mem.isSpent (pa / 128) = false)
    (hb : s.busy (pa / 128) = false) (hm : s.mem.mirror pa = none) (hh : isHost pa = false) :
    s.hostPut pa bs (n + 2) = { s.bump with mem := s.mem.homeWrite (pa / 128) (pa % 128) bs.length (leNat bs) s.seqCtr } := by
  rw [hostPut_within h0 h, hs, if_neg (by simp), writePiece_plain hm, writeAt_home hh hb]

theorem homeWrite_hdm (m : Mem) (k off n v u : Nat) :
    (m.homeWrite k off n v u).hdm = (m.backInvalidate k).hdm ∧ (m.homeWrite k off n v u).backInv = (m.backInvalidate k).backInv := by
  simp [Mem.homeWrite]

theorem endHdm_hdm (m : Mem) (k : Nat) : (m.endHdm k).hdm = nsDel m.hdm k := by
  rw [Mem.endHdm]
  split
  · rfl
  · split <;> simp [Mem.toMsc]

/-- A line that the host held is taken back by a write of the device. -/
theorem homeWrite_takes_back {m : Mem} {k : Nat} (off n v u : Nat) (h : nsHas m.hdm k = true) :
    (m.homeWrite k off n v u).backInv = m.backInv ++ [k] ∧ nsHas (m.homeWrite k off n v u).hdm k = false := by
  obtain ⟨h1, h2⟩ := homeWrite_hdm m k off n v u
  rw [h1, h2, Mem.backInvalidate, h, Bool.true_or, if_pos rfl]
  refine ⟨rfl, ?_⟩
  change nsHas (m.endHdm k).hdm k = false
  rw [endHdm_hdm]
  simp

theorem takeHdm_within {s : State} {pa n : Nat} (h0 : 0 < n) (h : pa % 128 + n ≤ 128) :
    s.takeHdm pa n = { s with mem := s.mem.endHdm (pa / 128) } := by
  rw [State.takeHdm, linesOf_within h0 h]
  rfl

/-! ### Lines that the host takes to write in them (R19) -/

theorem homeRead_get (m : Mem) (k u : Nat) : (tget (m.homeRead k u).l2 k).isSome = true := by
  have h : tget (m.homeRead k u).l2 k = _ := tget_tmod_same ((m.fetchHdm k).ensureL2 k u).l2 k _
  rw [h, Option.isSome_map]
  exact Mem.ensureL2_get _ _ _

/-- The line of which the host takes every copy. -/
def State.taken (s : State) (l : Nat) : State :=
  if (tget s.mem.hdmMod l).isSome then s else { s.takeAtHome l with mem := (s.takeAtHome l).mem.recallAll l }

theorem hostModify_within {s : State} {pa n : Nat} {bs : List Byte} (h0 : bs ≠ []) (h : pa % 128 + bs.length ≤ 128) :
    s.hostModify pa bs (n + 2) =
      let u := s.taken (pa / 128)
      let d := lineWrite (u.lineValue (pa / 128)) (pa % 128) bs.length (leNat bs)
      { u with mem := ({ u.mem with hdm := nsAdd u.mem.hdm (pa / 128), hdmMod := tput u.mem.hdmMod (pa / 128) d } : Mem).recheck (pa / 128) d } := by
  have hlen : 0 < bs.length := List.length_pos_iff.2 h0
  have hk : min (128 - pa % 128) bs.length = bs.length := by omega
  rw [State.hostModify]
  simp only [hk, if_neg (Nat.ne_of_gt hlen), List.take_length, List.drop_length]
  rw [State.hostModify]
  simp [State.taken]

/-- The data that the host takes is the line's value. -/
theorem taken_lineValue {s : State} {l : Nat} (hp : s.Plain l) (hs : s.mem.Sound l) (hc : s.mem.counted l = false) :
    (s.taken l).lineValue l = s.mem.value l := by
  have hkeep : (s.taken l).mem.msgs = s.mem.msgs ∧ (s.taken l).eng = s.eng := by
    unfold State.taken
    split
    · exact ⟨rfl, rfl⟩
    · refine ⟨Eq.trans (b := (s.takeAtHome l).mem.msgs) rfl (by simp), Eq.trans (b := (s.takeAtHome l).eng) rfl (by simp)⟩
  rw [(hp.of_same hkeep.1 hkeep.2).lineValue, State.taken]
  split
  · rfl
  next hm =>
    have hm : tget s.mem.hdmMod l = none := by simpa using hm
    obtain ⟨hv, hso⟩ := Mem.homeRead_self s.seqCtr hs (.inl hm)
    have ht : (s.takeAtHome l).mem = s.mem.homeRead l s.seqCtr := by rw [State.takeAtHome, hp.busy, hc]; rfl
    change ((s.takeAtHome l).mem.recallAll l).value l = _
    rw [ht]
    exact (Mem.recallAll_same hso (homeRead_get s.mem l s.seqCtr)).value.trans hv

/-- The host writes in a line that it has taken. -/
theorem hostModify_spec {s : State} {pa n : Nat} {bs : List Byte} (h0 : bs ≠ []) (h : pa % 128 + bs.length ≤ 128) (hp : s.Plain (pa / 128))
    (hs : s.mem.Sound (pa / 128)) (hc : s.mem.counted (pa / 128) = false) :
    nsHas (s.hostModify pa bs (n + 2)).mem.hdm (pa / 128) = true ∧
      (s.hostModify pa bs (n + 2)).mem.value (pa / 128) = lineWrite (s.mem.value (pa / 128)) (pa % 128) bs.length (leNat bs) := by
  rw [hostModify_within h0 h]
  dsimp only
  rw [taken_lineValue hp hs hc]
  exact ⟨nsHas_nsAdd_same _ _, Mem.value_of_mod (tget_tput_same _ _ _)⟩

theorem hbmRange_some {s : State} {off n pa : Nat} (h : s.hbmRange off n = some pa) : pa = off ∧ (0 < n → isHost off = false) := by
  rw [State.hbmRange] at h
  split at h
  next hall =>
    cases h
    refine ⟨rfl, fun h0 => ?_⟩
    have hmem : off / 128 ∈ linesOf off n := by
      rw [linesOf, if_neg (by omega)]
      exact List.mem_map.2 ⟨0, by simp, by simp⟩
    have hb := List.all_eq_true.1 hall _ hmem
    rw [Nat.max_eq_left (Nat.mul_div_le off 128), State.hbmBacked] at hb
    simp only [Bool.and_eq_true, decide_eq_true_eq] at hb
    have hlt := hb.1.1
    rw [hbmSize] at hlt
    rw [isHost, hostBase, Bool.and_eq_false_iff]
    exact .inl (decide_eq_false (by omega))
  · cases h

/-! ### The accesses (R52, R19) -/

theorem exec_cxlMemAccess_served {s : State} {write : Bool} {off pa : Nat} {bs : List Byte} (hr : s.cxlReach = .served)
    (hb : s.hbmRange off bs.length = some pa) (hq : s.rangeQuiet pa bs.length = true) (hm : write = false ∨ s.subject ≠ 1 ∨ s.mayModify pa bs.length = true) :
    exec (.cxlMemAccess write off bs) s = .next (if !write then (s.hostRead pa bs.length).giveHdm s pa bs.length
      else if s.subject = 1 then s.hostModify pa bs (bs.length / 128 + 2) else (s.takeHdm pa bs.length).hostPut pa bs (bs.length / 128 + 2)) := by
  rw [exec_cxlMemAccess, execCxlMemAccess, hr]
  dsimp only
  rw [hb]
  refine event_next ?_
  rw [hq]
  obtain h | h | h := hm <;> simp [h]

/-- The reads of O31, for a state that differs from the outcome of the read in the lines that the host holds. -/
theorem reads_of_hostRead {s : State} {i : Instr} {pa n : Nat} {cxl : Bool} {g : NSet} (hg : cxl = false → g = (s.hostRead pa n).mem.hdm)
    (hrun : exec i s = .next { s.hostRead pa n with mem := { (s.hostRead pa n).mem with hdm := g } }) :
    if (linesOf pa n).any (fun l => s.mem.isSpent l || s.poisoned l) then (∃ t, exec i s = .next t ∧ (
      t = { s with host := { s.host with replies := s.host.replies ++ [.poisoned] },
                   mem := { s.mem with hdm := t.mem.hdm, flaws := t.mem.flaws, corrected := t.mem.corrected, poison := t.mem.poison } } ∧
      (∀ l ∈ linesOf pa n, s.mem.isSpent l = false → s.poisoned l = true → nsHas t.mem.poison l = true) ∧ (cxl = false → t.mem.hdm = s.mem.hdm)))
    else (∃ t, exec i s = .next t ∧ (t.host.replies = s.host.replies ++ [.data (s.readBytes pa n)] ∧ t.board = s.board ∧ t.sched = s.sched ∧ t.fab = s.fab)) := by
  split
  next hbad =>
    obtain ⟨heq, hmark⟩ := hostRead_poisons hbad
    refine ⟨_, hrun, ?_, hmark, fun hc => ?_⟩
    · conv_lhs => rw [heq]
    · exact (hg hc).trans (by rw [heq])
  next hgood =>
    obtain ⟨h1, h2, h3, h4⟩ := hostRead_answers (Bool.eq_false_iff.2 hgood)
    exact ⟨_, hrun, h1, h2, h3, h4⟩

/-- Settles O31: reads leave what they do not look at, and a write is one write at the line's home, whose value `Mem.homeWrite_value` gives. -/
theorem hostMemoryEvents : Obligations.HostMemoryEvents := by
  unfold Obligations.HostMemoryEvents
  intro s fn off
  dsimp only
  refine ⟨fun hr n hn => ?_, fun hr bs hn => ?_, fun hr pa n hpa hq => ?_, fun hr pa bs hpa hq h0 hin => ?_, fun hr write bs hn => ?_,
    fun hr pa bs hpa hq => ?_, fun hr pa bs hpa hq h0 hin => ?_⟩
  · refine ⟨s.reply .unsupported, ?_, rfl⟩
    rw [exec_bar2Read, execBar2Read, hn]
    exact hostAccess_next hr rfl
  · refine ⟨s.reply .unsupported, ?_, rfl⟩
    rw [exec_bar2Write, execBar2Write, hn]
    exact hostAccess_next hr rfl
  · refine reads_of_hostRead (cxl := false) (fun _ => rfl) ?_
    rw [exec_bar2Read, execBar2Read, hpa]
    exact hostAccess_next hr hq
  · have hrun : exec (.bar2Write fn off bs) s = .next (s.hostPut pa bs (bs.length / 128 + 2)) := by
      rw [exec_bar2Write, execBar2Write, hpa]
      exact hostAccess_next hr hq
    refine ⟨⟨fun hs _ => ⟨s, ?_, rfl, fun _ => rfl⟩, fun hs hb hm hh hmod hc => ?_⟩, fun hs hb hm hh hd => ?_⟩
    · rw [hrun, hostPut_within h0 hin, hs]
      rfl
    · rw [hostPut_home h0 hin hs hb hm hh] at hrun
      exact ⟨_, hrun, Mem.homeWrite_value _ _ _ _ hc.sound hmod, rfl, rfl, rfl, rfl⟩
    · rw [hostPut_home h0 hin hs hb hm hh] at hrun
      exact ⟨_, hrun, homeWrite_takes_back _ _ _ _ hd⟩
  · refine ⟨s.reply .unsupported, ?_, rfl⟩
    rw [exec_cxlMemAccess, execCxlMemAccess, hr]
    dsimp only
    rw [hn]
  · have hrun := exec_cxlMemAccess_served (write := false) hr hpa hq (.inl rfl)
    refine ⟨reads_of_hostRead (cxl := true) (by simp) hrun, _, hrun, fun l hl h1 h2 h3 h4 => ?_⟩
    change nsHas (((linesOf pa bs.length).filter _).foldl nsAdd _) l = true
    rw [nsHas_foldl_nsAdd, Bool.or_eq_true, decide_eq_true_eq]
    exact .inr (List.mem_filter.2 ⟨hl, by simp [h1, h2, h3, h4]⟩)
  · have hlen : 0 < bs.length := List.length_pos_iff.2 h0
    refine ⟨fun hsub => ?_, fun hsub hmay hc => ?_⟩
    · have hrun := exec_cxlMemAccess_served (write := true) hr hpa hq (.inr (.inl hsub))
      rw [if_neg (by simp), if_neg hsub, takeHdm_within hlen hin] at hrun
      have hmigs : (s.mem.endHdm (pa / 128)).migs = s.mem.migs ∧ (s.mem.endHdm (pa / 128)).spent = s.mem.spent := by simp
      refine ⟨fun hs hmod => ?_, fun hs hb hm hh hmod hcopy => ?_⟩
      · rw [hostPut_within h0 hin, Mem.isSpent, hmigs.2, ← Mem.isSpent, hs, if_pos rfl] at hrun
        refine ⟨_, hrun, ?_, by simp⟩
        rw [Mem.endHdm, hmod]
      · have hm' : (s.mem.endHdm (pa / 128)).mirror pa = none := by rw [Mem.mirror, Mem.migAt, hmigs.1]; exact hm
        rw [hostPut_home (s := { s with mem := s.mem.endHdm (pa / 128) }) h0 hin (by rw [Mem.isSpent, hmigs.2]; exact hs) hb hm' hh] at hrun
        obtain ⟨hv, hso⟩ := Mem.endHdm_self hcopy.sound hmod
        refine ⟨_, hrun, ?_, rfl, rfl, rfl, rfl⟩
        exact (Mem.homeWrite_value _ _ _ _ hso (.inl (by rw [Mem.endHdm_mod]; exact tget_tdel_same _ _))).trans (by rw [hv])
    · have hrun := exec_cxlMemAccess_served (write := true) hr hpa hq (.inr (.inr hmay))
      rw [if_neg (by simp), if_pos hsub] at hrun
      rw [State.rangeQuiet, linesOf_within hlen hin] at hq
      rw [State.mayModify, linesOf_within hlen hin] at hmay
      simp only [List.all_cons, List.all_nil, Bool.and_true, Bool.and_eq_true, Bool.not_eq_true'] at hq hmay
      obtain ⟨rfl, hh⟩ := hbmRange_some hpa
      have hp : s.Plain (pa / 128) := ⟨isHost_line (hh hlen), hmay.1.2, inFlight_of_settled (settled_of_quiet hq)⟩
      obtain ⟨hd, hv⟩ := hostModify_spec (n := bs.length / 128) h0 hin hp hc.sound hmay.1.1.1.2
      exact ⟨_, hrun, hd, hv, by simp, by simp, by simp⟩

end Sys2Proof.Machine
end

section
/-!
PROOFS. Page migration (R172 to R174): obligation O32 fails for a page table that the host and an L1 both hold modified.
-/
namespace Sys2Proof.Machine

/-! ### A page table with two modified copies -/

/-- A page of 64 KiB of the PF whose pieces have all been copied; its leaf entries stand in line 0. -/
def copiedPage : Mig := ⟨2 ^ 20, 2 ^ 21, 0, 0, 1, 0, 0, 1, 2 ^ 16, 4096⟩

/-- The host holds line 0 modified, every byte of it 0; so does the L1 of cluster 0, where the second entry is 1. -/
def twoModified : State :=
  { State.reset with mem := { Mem.reset with
      phy := [(0, { Phy.zero with chst := 1 })], migs := [copiedPage], hdmMod := [(0, 0)], l1 := [⟨0, 0, .m, BitVec.ofNat 1024 (2 ^ 64), 0, 0, false⟩] } }

/-- The second leaf entry as it is read after the switch-over. -/
def secondEntry (o : Out) : Option Nat := match o with
  | .next t => some (t.readNat 8 8)
  | _ => none

/-- The back-invalidation takes the host's copy into the L2, and the recall then puts the L1's over it: the second entry comes from the L1. -/
theorem secondEntry_twoModified : secondEntry (exec .migrationSwitchOver twoModified) = some (2 ^ 21 + 1) := by decide +kernel

theorem atRest_twoModified (l : Nat) (hq : twoModified.mem.quiet l = true) (hl : 128 * l + 128 ≤ 2 ^ 20) : AtRest twoModified l := by
  refine ⟨hq, rfl, fun g hg => ?_⟩
  obtain rfl : g = copiedPage := List.mem_singleton.1 hg
  exact .inl hl

theorem copiesAgree_twoModified : CopiesAgree twoModified 0 := by
  refine ⟨fun x hx => ?_, fun x hx => ?_, fun x hx => ?_⟩ <;> cases hx

/-- Refutes O32: of a page table's line that the host and an L1 both hold modified, a coherent read sees the host's copy, and the rewriting of the leaf
entries goes on from the L1's. -/
theorem not_invalidationAndMigrationEvents : ¬ Obligations.InvalidationAndMigrationEvents := by
  unfold Obligations.InvalidationAndMigrationEvents
  intro h
  obtain ⟨-, -, -, -, -, hswitch⟩ := h twoModified
  obtain ⟨t, ht, -, -, -, -, hentries⟩ := hswitch copiedPage rfl (by decide +kernel) (by decide +kernel) (by decide +kernel) (by decide +kernel)
  have hstat : AtRest twoModified (copiedPage.stat / 128) := atRest_twoModified _ (by decide +kernel) (by decide)
  have hptea : AtRest twoModified (copiedPage.ptea / 128) := atRest_twoModified _ (by decide +kernel) (by decide)
  have hentry := hentries (by decide +kernel) (by decide) hptea copiesAgree_twoModified (by decide) (by decide) hstat (by decide) (by decide) 1 (by decide)
  have hsecond := secondEntry_twoModified
  rw [ht] at hsecond
  have hread : t.readNat 8 8 = 2 ^ 21 + 1 := Option.some.inj hsecond
  have hexpect : t.readNat 8 8 = 2 ^ 21 := hentry.trans (by decide +kernel)
  omega

end Sys2Proof.Machine
end

section
/-!
PROOFS. What operations on tasks, frets and placements leave as it was: one lemma per operation, in the order of their definitions.
-/
namespace Sys2Proof.Machine

/-- Counting an event changes the counters alone. -/
@[simp] theorem Fab.countEvent_stays (f : Fab) (cluster task code n : ℕ) :
    (f.countEvent cluster task code n).frets = f.frets ∧ (f.countEvent cluster task code n).placements = f.placements ∧
    (f.countEvent cluster task code n).net = f.net ∧ (f.countEvent cluster task code n).ops = f.ops ∧
    (f.countEvent cluster task code n).notices = f.notices ∧ (f.countEvent cluster task code n).barQ = f.barQ ∧
    (f.countEvent cluster task code n).moves = f.moves ∧ (f.countEvent cluster task code n).recfgs = f.recfgs ∧
    (f.countEvent cluster task code n).evsel = f.evsel ∧ (f.countEvent cluster task code n).trFifo = f.trFifo ∧
    (f.countEvent cluster task code n).trLost = f.trLost ∧ (f.countEvent cluster task code n).gated = f.gated := by
  simp [Fab.countEvent]

@[simp] theorem foldl_fab_moves {α : Type} (g : State → α → State) (l : List α) (s : State) (h : Everywhere (∀ s x, (g s x).fab.moves = s.fab.moves)) :
    (l.foldl g s).fab.moves = s.fab.moves :=
  foldl_same (fun s => s.fab.moves) h l s

@[simp] theorem foldl_fst_fab_moves {α β : Type} (g : State × β → α → State × β) (l : List α) (a : State × β)
    (h : Everywhere (∀ a x, (g a x).1.fab.moves = a.1.fab.moves)) : (l.foldl g a).1.fab.moves = a.1.fab.moves :=
  foldl_same (fun a => a.1.fab.moves) h l a

@[simp] theorem ite_fab_moves (c : Prop) [Decidable c] (s t : State) : (if c then s else t).fab.moves = if c then s.fab.moves else t.fab.moves :=
  apply_ite (fun s => s.fab.moves) c s t

@[simp] theorem foldl_fab_net {α : Type} (g : State → α → State) (l : List α) (s : State) (h : Everywhere (∀ s x, (g s x).fab.net = s.fab.net)) :
    (l.foldl g s).fab.net = s.fab.net :=
  foldl_same (fun s => s.fab.net) h l s

@[simp] theorem foldl_fst_fab_net {α β : Type} (g : State × β → α → State × β) (l : List α) (a : State × β)
    (h : Everywhere (∀ a x, (g a x).1.fab.net = a.1.fab.net)) : (l.foldl g a).1.fab.net = a.1.fab.net :=
  foldl_same (fun a => a.1.fab.net) h l a

@[simp] theorem ite_fab_net (c : Prop) [Decidable c] (s t : State) : (if c then s else t).fab.net = if c then s.fab.net else t.fab.net :=
  apply_ite (fun s => s.fab.net) c s t

@[simp] theorem foldl_fab_placements {α : Type} (g : State → α → State) (l : List α) (s : State) (h : Everywhere (∀ s x, (g s x).fab.placements = s.fab.placements)) :
    (l.foldl g s).fab.placements = s.fab.placements :=
  foldl_same (fun s => s.fab.placements) h l s

@[simp] theorem foldl_fst_fab_placements {α β : Type} (g : State × β → α → State × β) (l : List α) (a : State × β)
    (h : Everywhere (∀ a x, (g a x).1.fab.placements = a.1.fab.placements)) : (l.foldl g a).1.fab.placements = a.1.fab.placements :=
  foldl_same (fun a => a.1.fab.placements) h l a

@[simp] theorem ite_fab_placements (c : Prop) [Decidable c] (s t : State) : (if c then s else t).fab.placements = if c then s.fab.placements else t.fab.placements :=
  apply_ite (fun s => s.fab.placements) c s t

@[simp] theorem State.setCount_stays (s : State) (key : ℕ) (v : ℕ) :
    (s.setCount key v).clock = s.clock ∧ (s.setCount key v).sched = s.sched := ⟨rfl, rfl⟩

@[simp] theorem State.modFn_stays (s : State) (fn : ℕ) (g : HostFn → HostFn) :
    (s.modFn fn g).clock = s.clock ∧ (s.modFn fn g).fab = s.fab ∧ (s.modFn fn g).sched = s.sched := ⟨rfl, rfl, rfl⟩

@[simp] theorem State.setReg_stays (s : State) (fn : ℕ) (off : ℕ) (v : Word) :
    (s.setReg fn off v).clock = s.clock ∧ (s.setReg fn off v).fab = s.fab ∧ (s.setReg fn off v).sched = s.sched := ⟨rfl, rfl, rfl⟩

@[simp] theorem State.acPost_stays (s : State) (key : ℕ) (kind : ℕ) :
    (s.acPost key kind).clock = s.clock ∧ (s.acPost key kind).sched = s.sched := by
  simp [State.acPost]

@[simp] theorem State.acReach_stays (s : State) (key : ℕ) (kind : ℕ) :
    (s.acReach key kind).clock = s.clock ∧ (s.acReach key kind).sched = s.sched := by
  simp [State.acReach]

@[simp] theorem State.writeFn_stays (s : State) (fn : ℕ) (a : ℕ) (bs : List Byte) :
    (s.writeFn fn a bs).clock = s.clock ∧ (s.writeFn fn a bs).sched = s.sched := by
  unfold State.writeFn
  split <;> simp

@[simp] theorem State.putTrace_stays (s : State) (r : TrRec) :
    (s.putTrace r).fab.frets = s.fab.frets := rfl

@[simp] theorem State.traceStop_stays (s : State) (task : ℕ) (swid : ℕ) (tag : ℕ) (wave : ℕ) (fret : ℕ) (velem : ℕ) (slot : ℕ) (pl : ℕ) (pf : ℕ) (stop : ℕ) (code : ℕ) :
    (s.traceStop task swid tag wave fret velem slot pl pf stop code).clock = s.clock ∧
    (s.traceStop task swid tag wave fret velem slot pl pf stop code).sched = s.sched := by
  unfold State.traceStop
  split <;> simp

@[simp] theorem State.traceFault_stays (s : State) (task : ℕ) (f : FaultRec) :
    (s.traceFault task f).clock = s.clock ∧ (s.traceFault task f).sched = s.sched := by
  simp [State.traceFault]

@[simp] theorem State.noteCfgErr_stays (s : State) (t : Task) (die : ℕ) (code : ℕ) (addr : ℕ) :
    (s.noteCfgErr t die code addr).clock = s.clock ∧ (s.noteCfgErr t die code addr).fab = s.fab ∧ (s.noteCfgErr t die code addr).sched = s.sched := by
  simp [State.noteCfgErr]

@[simp] theorem State.modPlacement_stays (s : State) (task : ℕ) (pl : ℕ) (g : Placement → Placement) :
    (s.modPlacement task pl g).mem.posts = s.mem.posts ∧ (s.modPlacement task pl g).fab.frets = s.fab.frets ∧
    (s.modPlacement task pl g).fab.moves = s.fab.moves := ⟨rfl, rfl, rfl⟩

@[simp] theorem State.countEvent_stays (s : State) (cluster : ℕ) (task : ℕ) (code : ℕ) (n : ℕ) :
    (s.countEvent cluster task code n).mem.posts = s.mem.posts ∧ (s.countEvent cluster task code n).fab.frets = s.fab.frets ∧
    (s.countEvent cluster task code n).fab.moves = s.fab.moves ∧ (s.countEvent cluster task code n).fab.net = s.fab.net ∧
    (s.countEvent cluster task code n).fab.placements = s.fab.placements := ⟨rfl, rfl, rfl, rfl, rfl⟩

@[simp] theorem State.netSend_stays (s : State) (t : NetTok) :
    (s.netSend t).clock = s.clock ∧ (s.netSend t).mem.posts = s.mem.posts ∧ (s.netSend t).fab.frets = s.fab.frets ∧
    (s.netSend t).fab.moves = s.fab.moves ∧ (s.netSend t).sched = s.sched := by
  unfold State.netSend
  split <;> simp

@[simp] theorem State.setBarrier_stays (s : State) (task : ℕ) (pl : ℕ) (n : ℕ) (b : Barrier) :
    (s.setBarrier task pl n b).clock = s.clock ∧ (s.setBarrier task pl n b).sched = s.sched ∧ (s.setBarrier task pl n b).obs = s.obs := ⟨rfl, rfl, rfl⟩

@[simp] theorem State.beginMove_stays (s : State) (p : Placement) (pairs : List (ℕ × ℕ)) (elem : Option (ℕ × ℕ)) :
    (s.beginMove p pairs elem).sched = s.sched := by
  simp [State.beginMove]

@[simp] theorem State.clearAccums_stays (s : State) (cluster : ℕ) :
    (s.clearAccums cluster).clock = s.clock ∧ (s.clearAccums cluster).fab = s.fab ∧ (s.clearAccums cluster).fab.frets = s.fab.frets ∧
    (s.clearAccums cluster).fab.placements = s.fab.placements ∧ (s.clearAccums cluster).sched = s.sched := ⟨rfl, rfl, rfl, rfl, rfl⟩

@[simp] theorem State.clearCounters_stays (s : State) (task : ℕ) :
    (s.clearCounters task).clock = s.clock ∧ (s.clearCounters task).sched = s.sched := ⟨rfl, rfl⟩

@[simp] theorem State.evictL1_stays (s : State) (x : L1Line) :
    (s.evictL1 x).clock = s.clock ∧ (s.evictL1 x).fab.frets = s.fab.frets ∧ (s.evictL1 x).fab.moves = s.fab.moves ∧
    (s.evictL1 x).fab.net = s.fab.net ∧ (s.evictL1 x).fab.placements = s.fab.placements ∧ (s.evictL1 x).sched = s.sched ∧ (s.evictL1 x).eng = s.eng := by
  unfold State.evictL1
  split <;> simp

@[simp] theorem State.readCounters_stays (s : State) (task : ℕ) (cluster : ℕ) :
    (s.readCounters task cluster).clock = s.clock ∧ (s.readCounters task cluster).fab.frets = s.fab.frets ∧
    (s.readCounters task cluster).sched = s.sched := by
  unfold State.readCounters
  split <;> simp

@[simp] theorem State.endInterval_stays (s : State) (p : Placement) (profile : Bool) :
    (s.endInterval p profile).clock = s.clock ∧ (s.endInterval p profile).sched = s.sched := by
  unfold State.endInterval
  split <;> simp

@[simp] theorem State.purgeTiles_stays (s : State) (task : ℕ) (pl : ℕ) :
    (s.purgeTiles task pl).clock = s.clock ∧ (s.purgeTiles task pl).fab.frets = s.fab.frets ∧
    (s.purgeTiles task pl).fab.placements = s.fab.placements ∧ (s.purgeTiles task pl).sched = s.sched := ⟨rfl, rfl, rfl, rfl⟩

@[simp] theorem State.purgeWaits_stays (s : State) (task : ℕ) (pl : ℕ) :
    (s.purgeWaits task pl).clock = s.clock ∧ (s.purgeWaits task pl).fab.frets = s.fab.frets ∧
    (s.purgeWaits task pl).fab.placements = s.fab.placements ∧ (s.purgeWaits task pl).sched = s.sched := ⟨rfl, rfl, rfl, rfl⟩

@[simp] theorem State.purgeFabric_stays (s : State) (task : ℕ) (pl : ℕ) :
    (s.purgeFabric task pl).sched = s.sched := rfl

@[simp] theorem State.endGrants_stays (s : State) (p : Placement) :
    (s.endGrants p).clock = s.clock ∧ (s.endGrants p).fab.frets = s.fab.frets ∧ (s.endGrants p).fab.placements = s.fab.placements ∧
    (s.endGrants p).sched = s.sched := by
  simp [State.endGrants]

@[simp] theorem State.releaseHeld_stays (s : State) (p : Placement) (t : NetTok) :
    (s.releaseHeld p t).clock = s.clock ∧ (s.releaseHeld p t).mem.posts = s.mem.posts ∧ (s.releaseHeld p t).fab.frets = s.fab.frets ∧
    (s.releaseHeld p t).fab.moves = s.fab.moves ∧ (s.releaseHeld p t).sched = s.sched := by
  unfold State.releaseHeld
  split <;> simp

@[simp] theorem State.writeMeasHeader_stays (s : State) (g : Meas) (status : ℕ) (passes : ℕ) :
    (s.writeMeasHeader g status passes).clock = s.clock ∧ (s.writeMeasHeader g status passes).sched = s.sched := by
  simp [State.writeMeasHeader]

@[simp] theorem State.settleAll_stays (s : State) :
    (s.settleAll).clock = s.clock ∧ (s.settleAll).sched = s.sched := ⟨rfl, rfl⟩

@[simp] theorem State.flushWays_stays (s : State) (pf : ℕ) :
    (s.flushWays pf).clock = s.clock ∧ (s.flushWays pf).fab.frets = s.fab.frets ∧ (s.flushWays pf).fab.moves = s.fab.moves ∧
    (s.flushWays pf).fab.net = s.fab.net ∧ (s.flushWays pf).fab.placements = s.fab.placements ∧ (s.flushWays pf).sched = s.sched ∧
    (s.flushWays pf).eng = s.eng := by
  simp [State.flushWays]

@[simp] theorem State.moveEngine_stays (s : State) (p : Placement) (pairs : List (ℕ × ℕ)) (c : ℕ) (c' : ℕ) :
    (s.moveEngine p pairs c c').clock = s.clock ∧ (s.moveEngine p pairs c c').fab = s.fab ∧ (s.moveEngine p pairs c c').sched = s.sched := ⟨rfl, rfl, rfl⟩

@[simp] theorem State.moveFrets_stays (s : State) (p : Placement) (m : Move) :
    (s.moveFrets p m).sched = s.sched := by
  simp [State.moveFrets]

@[simp] theorem State.moveElem_stays (s : State) (pf : ℕ) (e : ℕ × ℕ) :
    (s.moveElem pf e).sched = s.sched := by
  simp [State.moveElem]

@[simp] theorem State.finishMove_stays (s : State) (p : Placement) (m : Move) :
    (s.finishMove p m).sched = s.sched := by
  unfold State.finishMove
  split <;> simp

@[simp] theorem State.prefPost_stays (s : State) (t : Task) (op : WobOp) :
    (s.prefPost t op).clock = s.clock ∧ (s.prefPost t op).sched = s.sched := by
  simp [State.prefPost]

@[simp] theorem State.loadFrets_stays (s : State) (t : Task) :
    (s.loadFrets t).clock = s.clock ∧ (s.loadFrets t).sched = s.sched ∧ (s.loadFrets t).obs = s.obs := by
  simp [State.loadFrets]

@[simp] theorem State.postLeases_stays (s : State) (t : Task) :
    (s.postLeases t).clock = s.clock ∧ (s.postLeases t).sched = s.sched := by
  simp [State.postLeases]

@[simp] theorem State.setLevels_stays (s : State) (t : Task) :
    (s.setLevels t).clock = s.clock ∧ (s.setLevels t).sched = s.sched ∧ (s.setLevels t).obs = s.obs := by
  simp [State.setLevels]

end Sys2Proof.Machine
end

section
/-!
PROOFS. Placements released, frets scrubbed and moved (R85, R87 to R90): obligation O34.
-/
namespace Sys2Proof.Machine

/-! ### Frets written one after another -/

theorem fret_setFret (s : State) (pf n : Nat) (f : Fret) : (s.setFret pf f).fret n = if n = pf then f else s.fret n := by
  simp only [State.fret, State.setFret, tgetD, tget_tput]
  split <;> simp

theorem fret_of_frets {s t : State} (h : t.fab.frets = s.fab.frets) (pf : Nat) : t.fret pf = s.fret pf := by rw [State.fret, h, State.fret]

/-- Frets of which each write gives P have P after all the writes, whatever was written in between. -/
theorem foldl_modFret_forall {α : Type} {key : α → Nat} {g : State → α → Fret → Fret} {P : Fret → Prop} (hP : ∀ s x f, P (g s x f)) (l : List α)
    (s : State) : ∀ x ∈ l, P ((l.foldl (fun s x => s.modFret (key x) (g s x)) s).fret (key x)) := by
  have hgen (l : List α) (s : State) (pf : Nat) (h : P (s.fret pf) ∨ pf ∈ l.map key) :
      P ((l.foldl (fun s x => s.modFret (key x) (g s x)) s).fret pf) := by
    induction l generalizing s with
    | nil => simpa using h
    | cons x l ih =>
      refine ih _ ?_
      rw [State.fret_modFret]
      by_cases hx : pf = key x
      · rw [if_pos hx]; exact .inl (hP _ _ _)
      · rw [if_neg hx]
        simpa [hx] using h
  exact fun x hx => hgen l s (key x) (.inr (List.mem_map.2 ⟨x, hx, rfl⟩))

theorem modElem_owner (s : State) (pf e n : Nat) (g : Elem → Elem) : ((s.modElem pf e g).fret n).owner = (s.fret n).owner := by
  rw [State.modElem, State.fret_modFret]
  split
  next h => subst h; rfl
  next => rfl

/-! ### A placement released (R88) -/

theorem fretsIn_congr {s t : State} (h : ∀ pf, (t.fret pf).owner = (s.fret pf).owner) (p : Placement) : t.fretsIn p = s.fretsIn p := by
  rw [State.fretsIn, State.fretsIn]
  simp only [h]

theorem endInterval_owner (s : State) (p : Placement) (b : Bool) (pf : Nat) : ((s.endInterval p b).fret pf).owner = (s.fret pf).owner := by
  rw [State.endInterval]
  split
  · rfl
  next t _ =>
    have helems (l : List (Nat × Nat × Nat × Nat)) (u : State) :
        ((l.foldl (fun s e => s.modElem e.2.2.1 e.2.2.2 (fun x => { x with classes := Classes.zero })) u).fret pf).owner = (u.fret pf).owner :=
      foldl_same (fun s => (s.fret pf).owner) (fun s _ => modElem_owner s _ _ _ _) l u
    dsimp only
    rw [helems, fret_of_frets (s := s)]
    split <;> simp

theorem releasePlacement_frets (s : State) (p : Placement) : ∀ pf ∈ s.fretsIn p, ((s.releasePlacement p).fret pf).st = .scrub ∧
    ((s.releasePlacement p).fret pf).owner = none := by
  let u := ((((s.modTask p.task (fun t => { t with flags := t.flags.or p.flags })).purgeFabric p.task p.idx).purgeWaits p.task p.idx).purgeTiles
    p.task p.idx).endGrants p
  have hu : u.fab.frets = s.fab.frets := by
    change (State.endGrants _ p).fab.frets = _
    rw [(State.endGrants_stays _ p).2.1]
    rfl
  have hin : u.fretsIn p = s.fretsIn p := fretsIn_congr (fun pf => by rw [fret_of_frets hu]) p
  have h := foldl_modFret_forall (key := fun pf : Nat => pf) (g := fun s _ f => f.release (s.heir p.task)) (P := fun f => f.st = .scrub ∧ f.owner = none)
    (fun _ _ _ => ⟨rfl, rfl⟩) (u.fretsIn p) u
  rw [hin] at h
  exact fun pf hpf => by rw [← hin] at h hpf; exact h pf hpf

/-! ### Moves (R89) -/

theorem headD_movePairs (s : State) (p : Placement) (src dst : Nat) : (src, dst) ∈ s.movePairs p src dst := by
  have hg : ∃ l, s.moveGroup p src = src :: l := by
    rw [State.moveGroup]
    dsimp only
    split
    · exact ⟨_, rfl⟩
    · exact ⟨_, rfl⟩
  obtain ⟨l, hl⟩ := hg
  rw [State.movePairs, hl, State.freeIn, List.zip_cons_cons]
  exact List.mem_cons_self

/-- Every fret of a move that has begun is under the move. -/
theorem beginMove_frets (s : State) (p : Placement) (pairs : List (Nat × Nat)) (e : Option (Nat × Nat)) :
    ∀ q ∈ pairs, ((s.beginMove p pairs e).fret q.1).st = .move ∧ ((s.beginMove p pairs e).fret q.2).st = .move := by
  have hgen (l : List (Nat × Nat)) (u : State) (pf : Nat) (h : (u.fret pf).st = .move ∨ ∃ q ∈ l, pf = q.1 ∨ pf = q.2) :
      ((l.foldl (fun s q => (s.modFret q.1 (fun f => { f with st := .move })).modFret q.2 (fun f => { f with st := .move })) u).fret pf).st = .move := by
    induction l generalizing u with
    | nil => simpa using h
    | cons q l ih =>
      refine ih _ ?_
      rw [State.fret_modFret, State.fret_modFret, State.fret_modFret]
      by_cases h2 : pf = q.2
      · rw [if_pos h2]; exact .inl rfl
      · rw [if_neg h2]
        by_cases h1 : pf = q.1
        · rw [if_pos h1]; exact .inl rfl
        · rw [if_neg h1]
          simpa [h1, h2] using h
  exact fun q hq => ⟨hgen pairs _ q.1 (.inr ⟨q, hq, .inl rfl⟩), hgen pairs _ q.2 (.inr ⟨q, hq, .inr rfl⟩)⟩

theorem beginMove_placements (s : State) (p : Placement) (pairs : List (Nat × Nat)) (e : Option (Nat × Nat)) :
    (s.beginMove p pairs e).placement? p.task p.idx = some (s.markMoving p pairs) ∧
      (s.beginMove p pairs e).fab.moves = s.fab.moves ++ [⟨p.task, p.idx, pairs, e, s.clock.ns⟩] ∧ (s.beginMove p pairs e).mem = s.mem := by
  have hfold {β : Type} (π : State → β)
      (hπ : ∀ (s : State) (q : Nat × Nat), π ((s.modFret q.1 (fun f => { f with st := .move })).modFret q.2 (fun f => { f with st := .move })) = π s) :
      π (pairs.foldl (fun s q => (s.modFret q.1 (fun f => { f with st := .move })).modFret q.2 (fun f => { f with st := .move }))
        (s.setPlacement (s.markMoving p pairs))) = π (s.setPlacement (s.markMoving p pairs)) := foldl_same π hπ pairs _
  have h1 := hfold (fun s => s.fab.placements) fun _ _ => rfl
  have h2 := hfold (fun s => s.fab.moves) fun _ _ => rfl
  have h3 := hfold (fun s => s.mem) fun _ _ => rfl
  have h4 := hfold (fun s => s.clock) fun _ _ => rfl
  refine ⟨?_, ?_, h3⟩
  · rw [State.placement?]
    exact (congrArg (tget · _) h1).trans (tget_tput_same _ _ _)
  · rw [State.beginMove]
    dsimp only
    rw [h2, h4]
    rfl

/-- The cluster that an engine fret goes to is granted. -/
theorem markMoving_grants {s : State} {p : Placement} {pairs : List (Nat × Nat)} {q : Nat × Nat} (hq : q ∈ pairs) (he : (s.fret q.1).hasEngine = true) :
    nsHas (s.markMoving p pairs).grants (clusterOf q.2) = true := by
  have hfold (l : List (Nat × Nat)) (u : NSet) : l.foldl (fun u q => nsAdd u (clusterOf q.2)) u = (l.map (fun q => clusterOf q.2)).foldl nsAdd u := by
    rw [List.foldl_map]
  change nsHas ((pairs.filter (fun q => (s.fret q.1).hasEngine)).foldl (fun u q => nsAdd u (clusterOf q.2)) p.grants) _ = true
  rw [hfold, nsHas_foldl_nsAdd]
  simp only [Bool.or_eq_true, decide_eq_true_eq]
  exact .inr (List.mem_map.2 ⟨q, List.mem_filter.2 ⟨hq, he⟩, rfl⟩)

/-- A move of one fret carried out: its source is under scrub, and its goal is live. -/
theorem moveFrets_pair {s : State} {p : Placement} {m : Move} {a b : Nat} (hm : m.pairs = [(a, b)]) (hab : a ≠ b) :
    ((s.moveFrets p m).fret a).st = .scrub ∧ ((s.moveFrets p m).fret b).st = .live := by
  let u := (s.flushWays a).setFret b (((s.flushWays a).fret a).copyTo ((s.flushWays a).fret b))
  let v := u.modFret a (fun f => { f.release none with window := none })
  have hv : (v.fret a).st = .scrub ∧ (v.fret b).st = .live := by
    constructor
    · rw [State.fret_modFret, if_pos rfl]
      rfl
    · rw [State.fret_modFret, if_neg (Ne.symm hab), fret_setFret, if_pos rfl]
      rfl
  rw [State.moveFrets, hm]
  dsimp only [List.foldl]
  split
  · have hf (pf : Nat) : (v.moveEngine p [(a, b)] (clusterOf ((([(a, b)] : List (Nat × Nat)).map Prod.fst).headD 0))
        (clusterOf ((([(a, b)] : List (Nat × Nat)).map Prod.snd).headD 0))).fret pf = v.fret pf := fret_of_frets (by simp) pf
    exact ⟨(congrArg Fret.st (hf a)).trans hv.1, (congrArg Fret.st (hf b)).trans hv.2⟩
  · exact hv

/-- What the end of a move leaves in the list of moves, and what the tokens sent on leave as the frets' contents were carried over. -/
theorem finishMove_spec (s : State) (p : Placement) (m : Move) :
    m ∉ (s.finishMove p m).fab.moves ∧ (m.elem = none → (s.finishMove p m).mem.posts = [] ∧
      ∀ pf, (s.finishMove p m).fret pf = (s.moveFrets p m).fret pf) := by
  rw [State.finishMove]
  refine ⟨?_, fun hm => ⟨?_, fun pf => ?_⟩⟩
  · simp
  · simp [hm, State.settleAll, State.setPlacement]
  · refine fret_of_frets ?_ pf
    simp [hm, State.settleAll, State.setPlacement]

/-- Settles O34: each event's own writes, and what the operations after them leave as it was. -/
theorem placementEvents : Obligations.PlacementEvents := by
  unfold Obligations.PlacementEvents
  intro s
  refine ⟨fun task pl k p hk hp htask hidx hrel => ?_, fun hst hw => ?_, fun src dst key f k p ho hk hp hmay => ?_,
    fun src key f e k p ho hk hp hmay => ?_, fun m p hm hp hready => ?_⟩
  · subst htask hidx
    refine ⟨(s.endInterval p true).releasePlacement p, ?_, tget_tdel_same _ _, fun pf hpf => ?_⟩
    · rw [exec_placementRelease, execPlacementRelease, hk, hp]
      exact event_next hrel
    · exact releasePlacement_frets _ p pf (by rw [fretsIn_congr (endInterval_owner s p true)]; exact hpf)
  · refine ⟨_, (exec_fretScrubComplete s).trans (event_next ?_), ?_⟩
    · rw [hst, hw]; rfl
    · dsimp only
      rw [State.fret_modFret, if_pos rfl]
      refine ⟨rfl, rfl, rfl, rfl, fun h => ?_, fun h => ?_, by simp, by simp⟩
      · exact if_pos h
      · change (State.afterScrub _ _ _ = _) ∨ ∃ n, State.afterScrub _ _ _ = _
        rw [State.afterScrub, if_neg (by omega)]
        split
        · exact .inl rfl
        next n _ =>
          split
          · split
            · exact .inr ⟨n, rfl⟩
            · exact .inl rfl
          · exact .inl rfl
  · obtain ⟨hpl, hmoves, hmem⟩ := beginMove_placements s p (s.movePairs p src dst) none
    refine ⟨s.beginMove p (s.movePairs p src dst) none, ?_, hmoves, beginMove_frets _ _ _ _, hmem, by simp,
      fun he => ⟨_, hpl, markMoving_grants (headD_movePairs s p src dst) he⟩⟩
    rw [exec_fretMove, execFretMove, ho]
    dsimp only
    rw [hk, hp]
    exact event_next hmay
  · obtain ⟨-, hmoves, hmem⟩ := beginMove_placements s p [(src, src)] (some e)
    refine ⟨s.beginMove p [(src, src)] (some e), ?_, hmoves, (beginMove_frets _ _ _ _ (src, src) (by simp)).1, hmem, by simp⟩
    rw [exec_fretMove, execFretMove, ho]
    dsimp only
    rw [hk, hp]
    exact event_next hmay
  · obtain ⟨hgone, hcarried⟩ := finishMove_spec s p m
    refine ⟨s.finishMove p m, ?_, hgone, by simp, by simp, fun he => (hcarried he).1, fun a b he hpairs hab => ?_⟩
    · rw [exec_fretMoveComplete, execFretMoveComplete, hm]
      dsimp only
      rw [hp]
      exact event_next hready
    · rw [(hcarried he).2, (hcarried he).2]
      exact moveFrets_pair hpairs hab

end Sys2Proof.Machine
end

section
/-!
PROOFS. What decisions of admission leave as it was: one lemma per operation, in the order of their definitions.
-/
namespace Sys2Proof.Machine

@[simp] theorem State.takeCap_keepsOwn (s : State) (fn : ℕ) :
    (s.takeCap fn).clock = s.clock ∧ (s.takeCap fn).fab = s.fab ∧ (s.takeCap fn).sched = s.sched ∧ (s.takeCap fn).eng = s.eng ∧
    (s.takeCap fn).obs = s.obs := by
  simp [State.takeCap]

@[simp] theorem State.decideEnd_keepsOwn (s : State) (n : ℕ) (status : TStatus) (reason : ℕ) (faddr : ℕ) :
    (s.decideEnd n status reason faddr).clock = s.clock ∧ (s.decideEnd n status reason faddr).fab = s.fab := ⟨rfl, rfl⟩

@[simp] theorem State.selectCounters_keepsOwn (s : State) (g : Meas) (cluster : ℕ) :
    (s.selectCounters g cluster).fab.placements = s.fab.placements := by
  simp only [State.selectCounters]
  (repeat' split) <;> simp

@[simp] theorem State.selectFor_keepsOwn (s : State) (p : Placement) :
    (s.selectFor p).fab.placements = s.fab.placements := by
  unfold State.selectFor
  split <;> simp

@[simp] theorem State.mapPlacements_keepsOwn (s : State) (t : Task) (m : List (ℕ × List (ℕ × ℕ))) :
    (s.mapPlacements t m).clock = s.clock := by
  simp [State.mapPlacements]

@[simp] theorem State.orderVictims_keepsOwn (s : State) (n : Task) (w : Walked) :
    (s.orderVictims n w).clock = s.clock ∧ (s.orderVictims n w).fab = s.fab := by
  simp [State.orderVictims]

@[simp] theorem State.preempt_keepsOwn (s : State) (n : Task) :
    (s.preempt n).clock = s.clock ∧ (s.preempt n).fab = s.fab := by
  simp [State.preempt]

@[simp] theorem State.reserveFree_keepsOwn (s : State) (t : Task) :
    (s.reserveFree t).clock = s.clock ∧ (s.reserveFree t).sched = s.sched := by
  simp [State.reserveFree]

end Sys2Proof.Machine
end

section
/-!
PROOFS. Pre-emption for the head of FRETWAIT (R93 to R96): which victims are ordered, and what it costs.
-/
namespace Sys2Proof.Machine

/-! ### Tasks written one after another -/

theorem taskIs_modTask {s : State} {n : Nat} {k : Task} {g : Task → Task} {p : Task → Prop} (h : s.task? n = some k) (hp : p (g k)) :
    TaskIs (s.modTask n g) n p := ⟨g k, by simp [h], hp⟩

theorem taskIs_mono {s : State} {n : Nat} {p q : Task → Prop} (h : TaskIs s n p) (hq : ∀ k, p k → q k) : TaskIs s n q := by
  obtain ⟨k, hk, hp⟩ := h
  exact ⟨k, hk, hq k hp⟩

theorem task?_of_sched {s t : State} (h : t.sched = s.sched) (n : Nat) : t.task? n = s.task? n := by rw [State.task?, h, State.task?]

/-- A property of a task that no write of it ends. -/
theorem foldl_modTask_keep {α : Type} {key : α → Nat} {g : State → α → Task → Task} {m : Nat} {P : Task → Prop} {c : Clock} {l : List α} {s : State}
    (hc : s.clock = c) (h : ∀ u x v, u.clock = c → x ∈ l → key x = m → P v → P (g u x v)) (hp : TaskIs s m P) :
    TaskIs (l.foldl (fun s x => s.modTask (key x) (g s x)) s) m P := by
  induction l generalizing s with
  | nil => exact hp
  | cons x l ih =>
    refine ih (s := s.modTask (key x) (g s x)) hc (fun u y v hu hy => h u y v hu (List.mem_cons_of_mem _ hy)) ?_
    obtain ⟨v, hv, hpv⟩ := hp
    by_cases hx : key x = m
    · exact ⟨g s x v, by simp [← hx, show s.task? (key x) = some v from hx ▸ hv], h s x v hc List.mem_cons_self hx hpv⟩
    · exact ⟨v, by rw [State.task?_modTask, if_neg (Ne.symm hx), hv], hpv⟩

/-- A property of a task that every write of it brings about, of which there is one. -/
theorem foldl_modTask_set {α : Type} {key : α → Nat} {g : State → α → Task → Task} {m : Nat} {P Q : Task → Prop} {c : Clock} {l : List α} {s : State}
    (hc : s.clock = c) (hP : ∀ u x v, u.clock = c → x ∈ l → key x = m → Q v → P (g u x v) ∧ Q (g u x v)) (hx : ∃ x ∈ l, key x = m)
    (hq : TaskIs s m Q) : TaskIs (l.foldl (fun s x => s.modTask (key x) (g s x)) s) m P := by
  induction l generalizing s with
  | nil => obtain ⟨x, hx, -⟩ := hx; cases hx
  | cons x l ih =>
    obtain ⟨v, hv, hqv⟩ := hq
    by_cases hk : key x = m
    · have hstep : (s.modTask (key x) (g s x)).task? m = some (g s x v) := by
        rw [State.task?_modTask, if_pos hk.symm, hk, hv]
        rfl
      obtain ⟨hpx, hqx⟩ := hP s x v hc List.mem_cons_self hk hqv
      refine taskIs_mono (foldl_modTask_keep (P := fun v => P v ∧ Q v) (s := s.modTask (key x) (g s x)) hc (fun u y v hu hy he hv => ?_)
        ⟨_, hstep, hpx, hqx⟩) fun _ h => h.1
      exact hP u y v hu (List.mem_cons_of_mem _ hy) he hv.2
    · refine ih (s := s.modTask (key x) (g s x)) hc (fun u y v hu hy => hP u y v hu (List.mem_cons_of_mem _ hy)) ?_
        ⟨v, by rw [State.task?_modTask, if_neg (Ne.symm hk), hv], hqv⟩
      obtain ⟨y, hy, he⟩ := hx
      obtain rfl | hy := List.mem_cons.1 hy
      · exact absurd he hk
      · exact ⟨y, hy, he⟩

/-! ### The candidates (R93) -/

theorem mem_insertBy {α : Type} (key : α → Nat) (x y : α) (l : List α) : y ∈ insertBy key x l ↔ y = x ∨ y ∈ l := by
  induction l with
  | nil => simp [insertBy]
  | cons z l ih =>
    rw [insertBy]
    split
    · simp
    · simp only [List.mem_cons, ih]
      tauto

theorem mem_sortBy {α : Type} (key : α → Nat) (y : α) (l : List α) : y ∈ sortBy key l ↔ y ∈ l := by
  induction l with
  | nil => simp [sortBy]
  | cons x l ih => rw [sortBy, mem_insertBy, ih, List.mem_cons]

/-- A task that a newcomer may class as a victim. -/
theorem mayBeVictim_iff (s : State) (n v : Task) : s.mayBeVictim n v = true ↔
    (v.st = .running ∨ v.st = .held) ∧ v.ending = false ∧ v.gang = none ∧ v.svc = false ∧ v.victim = none ∧ (n.gang.isSome = true ∨ s.effPrio v < s.effPrio n) := by
  simp [State.mayBeVictim, and_assoc]

/-- What a candidate is: a task that may be a victim, with its action, and its cost where the newcomer is of no gang. -/
theorem mem_candidates {s : State} {n v : Task} {a : VAction} {cost : Nat} (hg : n.gang = none) :
    (v, a, cost) ∈ s.victimOrder (s.candidates n) ↔ v ∈ s.tasks ∧ s.mayBeVictim n v = true ∧ s.classify v = some (a, cost) := by
  rw [State.victimOrder, mem_sortBy, State.candidates]
  simp only [List.mem_filterMap, List.mem_filter, Option.map_eq_some_iff, hg, Option.isSome_none, Bool.false_eq_true, if_false, Prod.mk.injEq, Prod.exists]
  constructor
  · rintro ⟨u, ⟨hu, hm⟩, b, d, hc, rfl, rfl, rfl⟩
    exact ⟨hu, hm, hc⟩
  · rintro ⟨hu, hm, hc⟩
    exact ⟨v, ⟨hu, hm⟩, a, cost, hc, rfl, rfl, rfl⟩

theorem mem_candidates_weak {s : State} {n : Task} {x : Task × VAction × Nat} (h : x ∈ s.victimOrder (s.candidates n)) :
    x.1 ∈ s.tasks ∧ s.mayBeVictim n x.1 = true ∧ ∃ cost, s.classify x.1 = some (x.2.1, cost) := by
  rw [State.victimOrder, mem_sortBy, State.candidates, List.mem_filterMap] at h
  obtain ⟨u, hu, h⟩ := h
  obtain ⟨⟨a, cost⟩, hc, rfl⟩ := Option.map_eq_some_iff.1 h
  obtain ⟨hu, hm⟩ := List.mem_filter.1 hu
  exact ⟨hu, hm, cost, hc⟩

/-- A drain costs nothing (R93). -/
theorem classify_drain {s : State} {v : Task} {cost : Nat} (h : s.classify v = some (.drain, cost)) : cost = 0 := by
  unfold State.classify at h
  grind

/-! ### The walk (R94) -/

theorem walkVictims_reached {s : State} {n : Task} {w : Walked} (h : w.reached = true) (l : List (Task × VAction × Nat)) : s.walkVictims n w l = w := by
  cases l with
  | nil => rfl
  | cons x l => rw [State.walkVictims, if_pos h]

theorem walkVictims_skip {s : State} {n : Task} {w : Walked} {l : List (Task × VAction × Nat)} (h : ∀ x ∈ l, w.tokens < x.2.2) : s.walkVictims n w l = w := by
  induction l with
  | nil => rfl
  | cons x l ih =>
    rw [State.walkVictims, if_pos (h x List.mem_cons_self), ih fun y hy => h y (List.mem_cons_of_mem _ hy), ite_self]

/-- The walk with one more victim. -/
def State.takeVictim (s : State) (n : Task) (w : Walked) (x : Task × VAction × Nat) : Walked :=
  ⟨withFrets w.avail (s.fretsOf x.1.num), x.1.num :: w.gone, w.tokens - x.2.2, w.orders ++ [(x.1.num, x.2.1, x.2.2)],
    (s.mapTask n (withFrets w.avail (s.fretsOf x.1.num)) (x.1.num :: w.gone)).isSome⟩

theorem walkVictims_cons {s : State} {n : Task} {w : Walked} {x : Task × VAction × Nat} {l : List (Task × VAction × Nat)} (hr : w.reached = false)
    (ht : x.2.2 ≤ w.tokens) : s.walkVictims n w (x :: l) = s.walkVictims n (s.takeVictim n w x) l := by
  rw [State.walkVictims, if_neg (by simp [hr]), if_neg (Nat.not_lt.2 ht)]
  rfl

/-- What holds of the walk so far, and goes on to hold with each further victim, holds of the whole walk. -/
theorem walkVictims_induct {s : State} {n : Task} {P : Walked → Prop} {l : List (Task × VAction × Nat)} {w : Walked} (h0 : P w)
    (hstep : ∀ w x, P w → x ∈ l → w.reached = false → x.2.2 ≤ w.tokens → P (s.takeVictim n w x)) : P (s.walkVictims n w l) := by
  induction l generalizing w with
  | nil => exact h0
  | cons x l ih =>
    have hrest : ∀ w y, P w → y ∈ l → w.reached = false → y.2.2 ≤ w.tokens → P (s.takeVictim n w y) :=
      fun w y hw hy => hstep w y hw (List.mem_cons_of_mem _ hy)
    cases hr : w.reached with
    | true => rw [walkVictims_reached hr]; exact h0
    | false =>
      by_cases ht : w.tokens < x.2.2
      · rw [State.walkVictims, if_neg (by simp [hr]), if_pos ht]
        exact ih h0 hrest
      · rw [walkVictims_cons hr (Nat.not_lt.1 ht)]
        exact ih (hstep w x h0 List.mem_cons_self hr (Nat.not_lt.1 ht)) hrest

/-- Every order is that of a candidate. -/
theorem walkVictims_orders {s : State} {n : Task} {w : Walked} {l : List (Task × VAction × Nat)} (h0 : w.orders = []) :
    ∀ o ∈ (s.walkVictims n w l).orders, ∃ x ∈ l, o = (x.1.num, x.2.1, x.2.2) := by
  refine walkVictims_induct (P := fun w => ∀ o ∈ w.orders, ∃ x ∈ l, o = (x.1.num, x.2.1, x.2.2)) (by simp [h0]) fun w x hw hx _ _ o ho => ?_
  rw [State.takeVictim, List.mem_append, List.mem_singleton] at ho
  obtain ho | rfl := ho
  · exact hw o ho
  · exact ⟨x, hx, rfl⟩

/-! ### The walk over one candidate -/

theorem freeFor_withFrets (s : State) (n : Nat) : withFrets (s.freeFor n) [] = s.freeFor n := by
  rw [withFrets, State.freeFor]
  refine List.filter_congr fun pf hpf => ?_
  have hmem : pf ∈ (List.range 4088).map (· + 8) := hpf
  simp only [List.contains_nil, Bool.or_false, List.contains_eq_mem, List.mem_filter, hmem, true_and, Bool.decide_eq_true, List.not_mem_nil, decide_false, Bool.or_false]

theorem withFrets_idem (a b : List Nat) : withFrets (withFrets a b) b = withFrets a b := by
  refine List.filter_congr fun pf hpf => ?_
  rw [withFrets, List.contains_eq_mem (as := List.filter _ _), List.contains_eq_mem, List.contains_eq_mem]
  have hmem : pf ∈ (List.range 4088).map (· + 8) := hpf
  simp only [List.mem_filter, hmem, true_and, List.contains_eq_mem, Bool.or_eq_true, decide_eq_true_eq]
  by_cases h1 : pf ∈ a <;> by_cases h2 : pf ∈ b <;> simp [h1, h2]

/-- Only which tasks count as released matters to a mapping, not how often they are named. -/
theorem mapTask_gone {s : State} {n : Task} {avail g g' : List Nat} (h : ∀ x, g.contains x = g'.contains x) : s.mapTask n avail g = s.mapTask n avail g' := by
  have hg : (fun x => g.contains x) = fun x => g'.contains x := funext h
  have hheld (fn : Nat) : s.fretsHeld fn g = s.fretsHeld fn g' := by
    rw [State.fretsHeld, State.fretsHeld]
    simp only [h]
  have hwish : s.wish n g = s.wish n g' := by
    rw [State.wish, State.wish]
    simp only [h]
  rw [State.mapTask, State.mapTask, hheld, hwish]

section
variable {s : State} {n v : Task} {a : VAction} {cost : Nat} {l : List (Task × VAction × Nat)} (hl : ∀ x ∈ l, x = (v, a, cost))
include hl

/-- A victim that is not enough is not enough however often it is named. -/
theorem walkVictims_not_enough (hno : (s.mapTask n (withFrets (s.freeFor n.num) (s.fretsOf v.num)) [v.num]).isSome = false) :
    (s.walkVictims n ⟨s.freeFor n.num, [], n.tokens, [], false⟩ l).reached = false := by
  generalize s.freeFor n.num = free at *
  refine (walkVictims_induct (P := fun w => w.reached = false ∧ ((w.avail = free ∧ w.gone = []) ∨
    (w.avail = withFrets free (s.fretsOf v.num) ∧ ∀ x ∈ w.gone, x = v.num))) ⟨rfl, .inl ⟨rfl, rfl⟩⟩ fun w x hw hx _ _ => ?_).1
  obtain rfl := hl x hx
  have havail : withFrets w.avail (s.fretsOf v.num) = withFrets free (s.fretsOf v.num) := by
    obtain ⟨-, ⟨h, -⟩ | ⟨h, -⟩⟩ := hw
    · rw [h]
    · rw [h, withFrets_idem]
  have hgone : ∀ y ∈ v.num :: w.gone, y = v.num := by
    obtain ⟨-, ⟨-, h⟩ | ⟨-, h⟩⟩ := hw
    · simp [h]
    · simpa using h
  rw [State.takeVictim]
  dsimp only
  refine ⟨?_, .inr ⟨havail, hgone⟩⟩
  rw [havail, mapTask_gone (g' := [v.num]), hno]
  intro x
  simp only [List.contains_eq_mem, List.mem_singleton, decide_eq_decide]
  exact ⟨hgone x, fun h => h ▸ List.mem_cons_self⟩

/-- The orders that are carried out for the one candidate: none, or at least one, whose costs sum up to one cost. -/
theorem walkVictims_one (hne : l ≠ []) (hdrain : a = .drain → cost = 0) :
    let w := s.walkVictims n ⟨s.freeFor n.num, [], n.tokens, [], false⟩ l
    let os := w.orders.filter (fun o => w.reached || o.2.1 = .drain)
    let enough := (s.mapTask n (withFrets (s.freeFor n.num) (s.fretsOf v.num)) [v.num]).isSome = true
    (cost ≤ n.tokens ∧ (enough ∨ a = .drain) → (∃ o ∈ os, o.1 = v.num) ∧ (∀ o ∈ os, o = (v.num, a, cost)) ∧ (os.map (fun o => o.2.2)).foldl (· + ·) 0 = cost) ∧
    (n.tokens < cost ∨ (¬ enough ∧ a ≠ .drain) → os = []) := by
  obtain ⟨x, l', rfl⟩ := List.exists_cons_of_ne_nil hne
  obtain rfl := hl x List.mem_cons_self
  have horders := walkVictims_orders (s := s) (n := n) (w := ⟨s.freeFor n.num, [], n.tokens, [], false⟩) (l := (v, a, cost) :: l') rfl
  have horder : ∀ o ∈ (s.walkVictims n ⟨s.freeFor n.num, [], n.tokens, [], false⟩ ((v, a, cost) :: l')).orders, o = (v.num, a, cost) := by
    intro o ho
    obtain ⟨y, hy, rfl⟩ := horders o ho
    rw [hl y hy]
  have hnot := walkVictims_not_enough (s := s) (n := n) hl
  generalize s.freeFor n.num = free at *
  dsimp only
  refine ⟨fun ⟨hcost, h⟩ => ?_, fun h => ?_⟩
  · have hcons := walkVictims_cons (s := s) (n := n) (w := ⟨free, [], n.tokens, [], false⟩) (x := (v, a, cost)) (l := l') rfl hcost
    by_cases hen : (s.mapTask n (withFrets free (s.fretsOf v.num)) [v.num]).isSome = true
    · rw [hcons, walkVictims_reached hen]
      simp [State.takeVictim, hen]
    · obtain rfl := h.resolve_left hen
      obtain rfl := hdrain rfl
      have hmem : (v.num, VAction.drain, 0) ∈ (s.walkVictims n ⟨free, [], n.tokens, [], false⟩ ((v, .drain, 0) :: l')).orders := by
        rw [hcons]
        exact walkVictims_induct (P := fun w => (v.num, VAction.drain, 0) ∈ w.orders) (by simp [State.takeVictim])
          fun w x hw _ _ _ => by simp [State.takeVictim, hw]
      generalize s.walkVictims n ⟨free, [], n.tokens, [], false⟩ ((v, .drain, 0) :: l') = w at horder hmem
      refine ⟨⟨_, List.mem_filter.2 ⟨hmem, by simp⟩, rfl⟩, fun o ho => horder o (List.mem_filter.1 ho).1, ?_⟩
      rw [← List.sum_eq_foldl, List.sum_eq_zero]
      rintro x hx
      obtain ⟨o, ho, rfl⟩ := List.mem_map.1 hx
      rw [horder o (List.mem_filter.1 ho).1]
  · obtain h | ⟨hen, ha⟩ := h
    · rw [walkVictims_skip fun y hy => by rw [hl y hy]; exact h]
      rfl
    · have hr := hnot (Bool.eq_false_iff.2 hen)
      rw [hr, List.filter_eq_nil_iff]
      intro o ho
      rw [horder o ho]
      simpa using ha

end

end Sys2Proof.Machine
end

section
/-!
PROOFS. From RESWAIT to RUNNING (R44, R79 to R88, R93 to R96): obligation O33.
-/
namespace Sys2Proof.Machine

/-! ### The decision for the head of FRETWAIT (R93, R94) -/

/-- The walk of a decision. -/
def State.victimWalk (s : State) (n : Task) : Walked :=
  s.walkVictims n ⟨withFrets (s.freeFor n.num) (s.coming n.num).1, (s.coming n.num).2, n.tokens, [], false⟩ (s.victimOrder (s.candidates n))

/-- The orders of a walk that are carried out. -/
def Walked.carried (w : Walked) : List (Nat × VAction × Nat) := w.orders.filter (fun o => w.reached || o.2.1 = .drain)

theorem preempt_eq (s : State) (n : Task) : s.preempt n =
    if (s.mapTask n (withFrets (s.freeFor n.num) (s.coming n.num).1) (s.coming n.num).2).isSome then s
    else (s.tasks.filter (s.mayBeVictim n)).foldl (fun s v => s.modTask v.num (fun v => { v with slow := false }))
      (s.orderVictims n (s.victimWalk n)) := rfl

theorem orderVictims_eq (s : State) (n : Task) (w : Walked) : s.orderVictims n w =
    w.carried.foldl (fun s o => s.modTask o.1 (fun v => { v with victim := some ⟨o.2.1, s.clock.ns, n.num⟩ }))
      (s.modTask n.num (fun t => { t with tokens := t.tokens - (w.carried.map (fun o => o.2.2)).foldl (· + ·) 0 })) := rfl

/-- A property that the orders keep, and that says nothing of `slow`, is kept by the decision. -/
theorem preempt_keep {s : State} {n : Task} {m : Nat} {P : Task → Prop} (hslow : ∀ v, P v → P { v with slow := false })
    (h : TaskIs (s.orderVictims n (s.victimWalk n)) m P) (h0 : TaskIs s m P) : TaskIs (s.preempt n) m P := by
  rw [preempt_eq]
  split
  · exact h0
  · exact foldl_modTask_keep (c := s.clock) (by simp) (fun _ _ v _ _ _ hv => hslow v hv) h

/-- Every task keeps its state, and a task is ordered as a victim only as one that might be. -/
theorem preempt_tasks {s : State} {n v : Task} (hv : s.task? v.num = some v) : TaskIs (s.preempt n) v.num (fun v' => v'.st = v.st ∧
    (v'.victim = v.victim ∨ ∃ u ∈ s.tasks, u.num = v.num ∧ s.mayBeVictim n u = true ∧
      ∃ a cost, s.classify u = some (a, cost) ∧ v'.victim = some ⟨a, s.clock.ns, n.num⟩)) := by
  refine preempt_keep (fun _ h => h) ?_ ⟨v, hv, rfl, .inl rfl⟩
  rw [orderVictims_eq]
  refine foldl_modTask_keep (c := s.clock) rfl (fun u o x hu ho hm hx => ?_) ?_
  · obtain ⟨y, hy, rfl⟩ := walkVictims_orders rfl o (List.mem_filter.1 ho).1
    obtain ⟨hmem, hmay, cost, hc⟩ := mem_candidates_weak hy
    exact ⟨hx.1, .inr ⟨y.1, hmem, hm, hmay, y.2.1, cost, hc, by rw [hu]⟩⟩
  · by_cases hn : v.num = n.num
    · exact hn ▸ taskIs_modTask (hn ▸ hv) ⟨rfl, .inl rfl⟩
    · exact ⟨v, by rw [State.task?_modTask, if_neg hn, hv], rfl, .inl rfl⟩

theorem mem_of_tget {α : Type} {t : Tab α} {n : Nat} {v : α} (h : tget t n = some v) : (n, v) ∈ t := by
  induction t with
  | nil => cases h
  | cons r t ih =>
    obtain ⟨k, w⟩ := r
    rw [tget] at h
    split at h
    next hk => subst hk; cases h; exact List.mem_cons_self
    next => exact List.mem_cons_of_mem _ (ih h)

/-- What the decision comes to where there is one candidate, and nothing is coming. -/
theorem preempt_one {s : State} {n v : Task} {a : VAction} {cost : Nat} (hn : s.task? n.num = some n) (hv : s.task? v.num = some v) (hne : v.num ≠ n.num)
    (hmay : s.mayBeVictim n v = true) (honly : ∀ u ∈ s.tasks, s.mayBeVictim n u = true → u = v) (hc : s.classify v = some (a, cost)) (hg : n.gang = none)
    (hcoming : s.coming n.num = ([], [])) (hmap : s.mapTask n (s.freeFor n.num) [] = none) :
    let enough := (s.mapTask n (withFrets (s.freeFor n.num) (s.fretsOf v.num)) [v.num]).isSome = true
    (cost ≤ n.tokens ∧ (enough ∨ a = .drain) →
      TaskIs (s.preempt n) v.num (fun v' => v'.victim = some ⟨a, s.clock.ns, n.num⟩) ∧ TaskIs (s.preempt n) n.num (fun k' => k'.tokens = n.tokens - cost)) ∧
    (n.tokens < cost ∨ (¬ enough ∧ a ≠ .drain) →
      TaskIs (s.preempt n) v.num (fun v' => v'.victim = none) ∧ TaskIs (s.preempt n) n.num (fun k' => k'.tokens = n.tokens)) := by
  have hmem : v ∈ s.tasks := by
    have := mem_of_tget hv
    exact List.mem_map.2 ⟨_, this, rfl⟩
  have hall : ∀ x ∈ s.victimOrder (s.candidates n), x = (v, a, cost) := by
    rintro ⟨u, b, d⟩ hx
    obtain ⟨hu, hm, hd⟩ := (mem_candidates hg).1 hx
    obtain rfl := honly u hu hm
    rw [hc] at hd
    cases hd
    rfl
  have hhas : s.victimOrder (s.candidates n) ≠ [] := List.ne_nil_of_mem ((mem_candidates hg).2 ⟨hmem, hmay, hc⟩)
  have hwalk : s.victimWalk n = s.walkVictims n ⟨s.freeFor n.num, [], n.tokens, [], false⟩ (s.victimOrder (s.candidates n)) := by
    rw [State.victimWalk, hcoming, freeFor_withFrets]
  have hdo : s.preempt n = (s.tasks.filter (s.mayBeVictim n)).foldl (fun s v => s.modTask v.num (fun v => { v with slow := false }))
      (s.orderVictims n (s.victimWalk n)) := by
    rw [preempt_eq, hcoming, freeFor_withFrets, hmap]
    rfl
  have hkeep {m : Nat} {P : Task → Prop} (hslow : ∀ v, P v → P { v with slow := false }) (h : TaskIs (s.orderVictims n (s.victimWalk n)) m P) :
      TaskIs (s.preempt n) m P := by
    rw [hdo]
    exact foldl_modTask_keep (c := s.clock) (by simp) (fun _ _ v _ _ _ hv => hslow v hv) h
  have hvictim : v.victim = none := ((mayBeVictim_iff s n v).1 hmay).2.2.2.2.1
  obtain ⟨hyes, hno⟩ := walkVictims_one (s := s) (n := n) hall hhas (fun ha => classify_drain (ha ▸ hc))
  rw [← hwalk] at hyes hno
  have htok (spent : Nat) : (s.modTask n.num (fun t => { t with tokens := t.tokens - spent })).task? v.num = some v := by
    rw [State.task?_modTask, if_neg hne, hv]
  refine ⟨fun h => ?_, fun h => ?_⟩
  · obtain ⟨hex, hos, hsum⟩ := hyes h
    change (∃ o ∈ (s.victimWalk n).carried, o.1 = v.num) at hex
    change ∀ o ∈ (s.victimWalk n).carried, _ at hos
    change ((s.victimWalk n).carried.map (fun o => o.2.2)).foldl (· + ·) 0 = cost at hsum
    refine ⟨hkeep (fun _ h => h) ?_, hkeep (fun _ h => h) ?_⟩
    · rw [orderVictims_eq, hsum]
      exact foldl_modTask_set (c := s.clock) (Q := fun _ => True) rfl (fun u o x hu ho _ _ => ⟨by rw [hos o ho, hu], trivial⟩) hex ⟨v, htok cost, trivial⟩
    · rw [orderVictims_eq, hsum]
      exact foldl_modTask_keep (c := s.clock) rfl (fun _ _ _ _ _ _ hx => hx) (taskIs_modTask hn rfl)
  · have hnil : (s.victimWalk n).carried = [] := hno h
    refine ⟨hkeep (fun _ h => h) ?_, hkeep (fun _ h => h) ?_⟩ <;> rw [orderVictims_eq, hnil]
    · exact ⟨v, htok _, hvictim⟩
    · exact taskIs_modTask hn rfl

/-- Free frets kept for a task are reserved for it, and no others change. -/
theorem reserveFree_fret (s : State) (n : Task) (pf : Nat) : (s.reserveFree n).fret pf = s.fret pf ∨
    ((s.fret pf).st = .free ∧ (s.reserveFree n).fret pf = { s.fret pf with st := .reserved n.num }) := by
  rw [State.reserveFree]
  split
  · exact .inl rfl
  · have hfree : ∀ x ∈ ((s.freeFor n.num).filter (fun pf => (s.fret pf).st = .free)).take (n.need - s.securedFor n.num), (s.fret x).st = .free :=
      fun x hx => by simpa using (List.mem_filter.1 (List.mem_of_mem_take hx)).2
    dsimp only
    generalize ((s.freeFor n.num).filter (fun pf => (s.fret pf).st = .free)).take (n.need - s.securedFor n.num) = l at hfree
    have hgen (l : List Nat) (u : State) (hl : ∀ x ∈ l, (s.fret x).st = .free)
        (hu : u.fret pf = s.fret pf ∨ ((s.fret pf).st = .free ∧ u.fret pf = { s.fret pf with st := .reserved n.num })) :
        (l.foldl (fun s pf => s.modFret pf (fun f => { f with st := .reserved n.num })) u).fret pf = s.fret pf ∨ ((s.fret pf).st = .free ∧
          (l.foldl (fun s pf => s.modFret pf (fun f => { f with st := .reserved n.num })) u).fret pf = { s.fret pf with st := .reserved n.num }) := by
      induction l generalizing u with
      | nil => exact hu
      | cons x l ih =>
        refine ih _ (fun y hy => hl y (List.mem_cons_of_mem _ hy)) ?_
        rw [State.fret_modFret]
        by_cases hx : pf = x
        · subst hx
          rw [if_pos rfl]
          refine .inr ⟨hl pf List.mem_cons_self, ?_⟩
          obtain h | ⟨-, h⟩ := hu <;> rw [h]
        · rw [if_neg hx]
          exact hu
    exact hgen l s hfree (.inl rfl)

/-! ### Frets given (R84, R86) -/

theorem nearOrDie_mem {chosen avail cands : List Nat} {pf : Nat} (h : nearOrDie chosen avail cands = some pf) : pf ∈ cands := by
  rw [nearOrDie] at h
  split at h
  next x hx =>
    cases h
    exact (List.mem_filter.1 (minBy_spec _ hx).1).1
  next => exact (minBy_spec _ h).1

theorem chooseFret_mem {s : State} {w : Wish} {chosen avail : List Nat} {f pf : Nat} (h : s.chooseFret w chosen avail f = some pf) : pf ∈ avail := by
  rw [State.chooseFret] at h
  split at h
  next x hx =>
    cases h
    exact (List.mem_filter.1 (List.mem_of_find?_eq_some hx)).1
  next =>
    split at h
    next x hx =>
      cases h
      exact (List.mem_filter.1 (List.mem_filter.1 (nearOrDie_mem hx)).1).1
    next => exact (List.mem_filter.1 (nearOrDie_mem h)).1

theorem mapOne_mem {s : State} {w : Wish} {avail : List Nat} {n : Nat} {m : List (Nat × Nat)} {left : List Nat} (h : s.mapOne w avail n = some (m, left)) :
    (∀ q ∈ m, q.2 ∈ avail) ∧ ∀ pf ∈ left, pf ∈ avail := by
  induction n generalizing m left with
  | zero =>
    cases h
    exact ⟨by simp, fun _ h => h⟩
  | succ n ih =>
    rw [State.mapOne] at h
    split at h
    · cases h
    next m' left' h' =>
      obtain ⟨ih1, ih2⟩ := ih h'
      split at h
      · cases h
      next pf hpf =>
        cases h
        refine ⟨fun q hq => ?_, fun x hx => ih2 x (List.mem_filter.1 hx).1⟩
        obtain hq | hq := List.mem_append.1 hq
        · exact ih1 q hq
        · obtain rfl := List.mem_singleton.1 hq
          exact ih2 pf (chooseFret_mem hpf)

theorem mapMany_mem {s : State} {w : Wish} {nf n : Nat} {avail : List Nat} {m : List (List (Nat × Nat))} (h : s.mapMany w nf avail n = some m) :
    ∀ ps ∈ m, ∀ q ∈ ps, q.2 ∈ avail := by
  induction n generalizing w avail m with
  | zero => cases h; simp
  | succ n ih =>
    rw [State.mapMany] at h
    split at h
    · cases h
    next m' left h' =>
      obtain ⟨h1, h2⟩ := mapOne_mem h'
      obtain ⟨ms, hms, rfl⟩ := Option.map_eq_some_iff.1 h
      intro ps hps q hq
      obtain rfl | hps := List.mem_cons.1 hps
      · exact h1 q hq
      · exact h2 _ (ih hms ps hps q hq)

theorem mapTask_mem {s : State} {n : Task} {avail gone : List Nat} {m : List (List (Nat × Nat))} (h : s.mapTask n avail gone = some m) :
    ∀ ps ∈ m, ∀ q ∈ ps, q.2 ∈ avail := by
  rw [State.mapTask] at h
  split at h
  · cases h
  · exact mapMany_mem h

theorem make_st {f : Fret} (img : Option Img) (key i : Nat) (b : Bool) (h : f.st ≠ .service) : (f.make img key i b).st ∈ [FretSt.live, .load] := by
  unfold Fret.make
  cases b <;> cases img <;> simp [h]

/-- Mapping a fret that is not of the service cluster leaves it live or in LOAD; others of that kind stay as they are. -/
theorem makePlacement_st {s : State} {t : Task} {img : Option Img} {es : List Bool} {i pf : Nat} {m : List (Nat × Nat)}
    (hs : (s.fret pf).st ≠ .service) : ((s.makePlacement t img es i m).fret pf).st ≠ .service ∧
      ((s.fret pf).st ∈ [FretSt.live, .load] ∨ pf ∈ m.map Prod.snd → ((s.makePlacement t img es i m).fret pf).st ∈ [FretSt.live, .load]) := by
  have hgen (key : Nat) (l : List (Nat × Nat)) (u : State) (hu : (u.fret pf).st ≠ .service) :
      let v := l.foldl (fun s r => s.modFret r.2 (fun fr => fr.make img key r.1 (s.caches t.cfgid r.1 r.2))) u
      (v.fret pf).st ≠ .service ∧ ((u.fret pf).st ∈ [FretSt.live, .load] ∨ pf ∈ l.map Prod.snd → (v.fret pf).st ∈ [FretSt.live, .load]) := by
    induction l generalizing u with
    | nil => exact ⟨hu, fun h => by simpa using h⟩
    | cons r l ih =>
      have hstep : ((u.modFret r.2 (fun fr => fr.make img key r.1 (u.caches t.cfgid r.1 r.2))).fret pf).st ≠ .service ∧
          ((u.fret pf).st ∈ [FretSt.live, .load] ∨ pf = r.2 →
            ((u.modFret r.2 (fun fr => fr.make img key r.1 (u.caches t.cfgid r.1 r.2))).fret pf).st ∈ [FretSt.live, .load]) := by
        rw [State.fret_modFret]
        by_cases hr : pf = r.2
        · subst hr
          rw [if_pos rfl]
          have := make_st img key r.1 (u.caches t.cfgid r.1 r.2) hu
          exact ⟨fun he => by rw [he] at this; simp at this, fun _ => this⟩
        · rw [if_neg hr]
          exact ⟨hu, fun h => h.resolve_right hr⟩
      obtain ⟨h1, h2⟩ := ih _ hstep.1
      refine ⟨h1, fun h => h2 ?_⟩
      simp only [List.map_cons, List.mem_cons] at h
      obtain h | rfl | h := h
      · exact .inl (hstep.2 (.inl (by simpa using h)))
      · exact .inl (hstep.2 (.inr rfl))
      · exact .inr h
  have hmk : (s.makePlacement t img es i m).fret pf =
      (m.foldl (fun s r => s.modFret r.2 (fun fr => fr.make img (plKey t.num i) r.1 (s.caches t.cfgid r.1 r.2))) s).fret pf := by
    rw [State.makePlacement, selectFor_fret]
    rfl
  rw [hmk]
  exact hgen _ m s hs

theorem tget_map_keyed {α : Type} (l : Tab α) (g : Nat × α → Nat × α) (hg : ∀ r, (g r).1 = r.1) (n : Nat) :
    tget (l.map g) n = (tget l n).map (fun a => (g (n, a)).2) := by
  induction l with
  | nil => rfl
  | cons r l ih =>
    obtain ⟨k, a⟩ := r
    rw [List.map_cons, ← Prod.mk.eta (p := g (k, a)), tget, tget, hg]
    by_cases hk : k = n
    · subst hk; simp
    · rw [if_neg hk, if_neg hk, ih]

/-- The frets as they are given: those reserved for the task are free, and none is of the service cluster that was not. -/
theorem giveFrets_st {s : State} {k : Task} {m : List (List (Nat × Nat))} (hm : ∀ ps ∈ m, ∀ q ∈ ps, (s.fret q.2).st ≠ .service) :
    ∀ ps ∈ m, ∀ q ∈ ps, ((s.giveFrets k m).fret q.2).st ∈ [FretSt.live, .load] := by
  intro ps hps q hq
  let drop := fun (r : Nat × Fret) =>
    if r.2.st = .reserved k.num then (r.1, { r.2 with st := FretSt.free })
    else if r.2.promised = some k.num then (r.1, { r.2 with promised := none }) else r
  let idx := fun (j : Nat) => ((k.image.bind (fun g => g.placements[j]?)).map Placement.idx).getD j
  let s1 : State := { s with fab := { s.fab with frets := s.fab.frets.map drop } }
  have hs1 : (s1.fret q.2).st ≠ .service := by
    have hkey : ∀ r, (drop r).1 = r.1 := fun r => by
      change (if _ then _ else if _ then _ else _ : Nat × Fret).1 = _
      split
      · rfl
      · split <;> rfl
    have h := hm ps hps q hq
    rw [State.fret, tgetD] at h ⊢
    change ((tget (s.fab.frets.map drop) q.2).getD (Fret.fresh q.2)).st ≠ .service
    rw [tget_map_keyed _ _ hkey]
    cases hf : tget s.fab.frets q.2 with
    | none => rw [hf] at h; exact h
    | some f =>
      rw [hf] at h
      change ((if _ then _ else if _ then _ else _ : Nat × Fret).2).st ≠ .service
      split
      · simp
      · split
        · exact h
        · exact h
  let s2 := if k.image.isNone then s1.clearCounters k.num else s1
  have hs2 (pf : Nat) : s2.fret pf = s1.fret pf := by
    change (if _ then _ else _ : State).fret pf = _
    split
    · rfl
    · rfl
  have hgen (img : Option Img) (es : List Bool) (l : List (Nat × List (Nat × Nat))) (u : State) (hu : (u.fret q.2).st ≠ .service)
      (hl : (u.fret q.2).st ∈ [FretSt.live, .load] ∨ ∃ x ∈ l, q ∈ x.2) :
      ((l.foldl (fun s q => s.makePlacement k img es q.1 q.2) u).fret q.2).st ∈ [FretSt.live, .load] := by
    induction l generalizing u with
    | nil => simpa using hl
    | cons x l ih =>
      obtain ⟨h1, h2⟩ := makePlacement_st (t := k) (img := img) (es := es) (i := x.1) (m := x.2) hu
      refine ih _ h1 ?_
      obtain h | ⟨y, hy, hqy⟩ := hl
      · exact .inl (h2 (.inl h))
      · obtain rfl | hy := List.mem_cons.1 hy
        · exact .inl (h2 (.inr (List.mem_map.2 ⟨q, hqy, rfl⟩)))
        · exact .inr ⟨y, hy, hqy⟩
  have hin : ∃ x ∈ (m.zipIdx).map (fun r => (idx r.2, r.1)), q ∈ x.2 := by
    obtain ⟨j, hj, rfl⟩ := List.mem_iff_getElem.1 hps
    exact ⟨_, List.mem_map.2 ⟨(m[j], j), List.mem_zipIdx_iff_getElem?.2 (by simp [hj]), rfl⟩, hq⟩
  exact hgen _ _ _ (s2.toState k.num .loading) (by change (s2.fret q.2).st ≠ _; rw [hs2]; exact hs1) (.inr hin)

theorem mapPlacements_task {s : State} {t v : Task} (h : s.task? t.num = some v) (m : List (Nat × List (Nat × Nat))) :
    ∃ e, (s.mapPlacements t m).task? t.num = some { v with loadErr := e } := by
  rw [State.mapPlacements]
  dsimp only
  rw [State.task?_modTask_same, task?_of_sched (s := s) (by simp), h]
  exact ⟨_, rfl⟩

theorem giveFrets_task {s : State} {k : Task} (hk : s.task? k.num = some k) (m : List (List (Nat × Nat))) :
    TaskIs (s.giveFrets k m) k.num (fun k' => k'.st = .loading ∧ k'.nextPl = k.need / k.nf) := by
  rw [State.giveFrets]
  dsimp only
  generalize hd : (fun (r : Nat × Fret) => if r.2.st = .reserved k.num then (r.1, { r.2 with st := FretSt.free })
    else if r.2.promised = some k.num then (r.1, { r.2 with promised := none }) else r) = drop
  have hclear : (if k.image.isNone then State.clearCounters { s with fab := { s.fab with frets := s.fab.frets.map drop } } k.num
      else { s with fab := { s.fab with frets := s.fab.frets.map drop } }).sched = s.sched := by split <;> simp
  generalize (if k.image.isNone then State.clearCounters { s with fab := { s.fab with frets := s.fab.frets.map drop } } k.num
      else { s with fab := { s.fab with frets := s.fab.frets.map drop } }) = u at hclear
  have hu : (u.toState k.num .loading).task? k.num = some { k with st := .loading, stateSince := u.clock.ns } := by
    rw [State.toState, State.task?_modTask_same, task?_of_sched hclear, hk]
    rfl
  obtain ⟨e, he⟩ := mapPlacements_task hu ((m.zipIdx).map (fun r => (((k.image.bind (fun g => g.placements[r.2]?)).map Placement.idx).getD r.2, r.1)))
  exact taskIs_modTask he ⟨rfl, rfl⟩

end Sys2Proof.Machine
end

section
/-!
PROOFS. From RESWAIT to RUNNING (R44, R79 to R88, R96): what each event does to its task, and obligation O33.
-/
namespace Sys2Proof.Machine

/-! ### Leases (R44, R80) -/

theorem findIdx1_none {α : Type} {p : α → Bool} {l : List α} (h : ∀ x ∈ l, p x = false) : findIdx1 p l = none := by
  induction l with
  | nil => rfl
  | cons x l ih => rw [findIdx1, if_neg (by simp [h x List.mem_cons_self]), ih fun y hy => h y (List.mem_cons_of_mem _ hy)]; rfl

theorem measLeases_task {s : State} {t v : Task} (h : s.task? t.num = some v) :
    ∃ m, (s.measLeases t).task? t.num = some { v with meas := m } ∧ (s.measLeases t).clock = s.clock := by
  rw [State.measLeases]
  split
  · exact ⟨v.meas, h, rfl⟩
  next g _ =>
    dsimp only
    split
    · refine ⟨false, ?_, by simp⟩
      rw [State.task?_modTask_same, task?_of_sched (s := s) (by simp), h]
      rfl
    · exact ⟨v.meas, h, rfl⟩

theorem grantLeases_task {s : State} {k : Task} (h : s.task? k.num = some k) : TaskIs (s.grantLeases k) k.num
    (fun k' => k'.st = (if k.quota then .fretwait else .admitwait) ∧ k'.stateSince = s.clock.ns) := by
  obtain ⟨m, hm, hc⟩ := measLeases_task h
  exact taskIs_modTask hm ⟨rfl, by rw [hc]⟩

theorem reenter_task {s : State} {k : Task} (h : s.task? k.num = some k) : TaskIs (s.reenter k) k.num (fun k' => k'.st = .reswait ∧ k'.walk = 0) := by
  have hmod : TaskIs (s.modTask k.num (fun t => { t with st := .reswait, stateSince := s.clock.ns, walk := 0 })) k.num
      (fun k' => k'.st = .reswait ∧ k'.walk = 0) := taskIs_modTask h ⟨rfl, rfl⟩
  rw [State.reenter]
  split
  · exact hmod
  · rwa [taskIs_of_sched]
    simp

theorem writeFaultRec_sched (s : State) (t : Task) (f : FaultRec) : (s.writeFaultRec t f).1.sched = s.sched := by
  rw [State.writeFaultRec]
  split <;> simp

theorem endHostLink_task {s : State} {k : Task} (h : s.task? k.num = some k) (he : k.ending = false) : TaskIs (s.endHostLink k) k.num
    (fun k' => k'.ending = true ∧ k'.status = .fault ∧ k'.fault = some (s.hostLinkFault k)) := by
  rw [State.endHostLink]
  dsimp only
  have hu : ((s.traceFault k.num (s.hostLinkFault k)).writeFaultRec k (s.hostLinkFault k)).1.task? k.num = some k := by
    rw [task?_of_sched (s := s) (by rw [writeFaultRec_sched]; simp), h]
  generalize (s.traceFault k.num (s.hostLinkFault k)).writeFaultRec k (s.hostLinkFault k) = u at hu
  refine taskIs_modTask (k := { k with fault := some (s.hostLinkFault k), frec := u.2, freezing := false }) ?_ ?_
  · rw [State.task?_modTask_same, hu]
    rfl
  · simp [Task.endAs, he]

/-! ### Frets loaded, or their configuration rejected (R86) -/

theorem loaded_st (f : Fret) (t : Task) (i : Nat) : (f.loaded t i).st ≠ .load := by
  unfold Fret.loaded
  split
  · simp
  · assumption

/-- Every fret that a placement of the task names is out of LOAD once its frets are loaded. -/
theorem loadFrets_st {s : State} {k : Task} : ∀ p ∈ s.placementsOf k.num, ∀ r ∈ p.map, ((s.loadFrets k).fret r.2).st ≠ .load := by
  have hflat (ps : List Placement) (u : State) : ps.foldl (fun s p => p.map.foldl (fun s r => s.modFret r.2 (fun f => f.loaded k r.1)) s) u =
      (ps.flatMap Placement.map).foldl (fun s r => s.modFret r.2 (fun f => f.loaded k r.1)) u := by
    rw [List.foldl_flatMap]
  intro p hp r hr
  rw [State.loadFrets, hflat]
  exact foldl_modFret_forall (key := fun r : Nat × Nat => r.2) (g := fun _ r f => f.loaded k r.1) (P := fun f => f.st ≠ .load)
    (fun _ r f => loaded_st f k r.1) _ s r (List.mem_flatMap.2 ⟨p, hp, hr⟩)

theorem setLevels_st (s : State) (t : Task) (pf : Nat) : ((s.setLevels t).fret pf).st = (s.fret pf).st := by
  rw [State.setLevels]
  refine foldl_same (fun u : State => (u.fret pf).st) (fun u q => ?_) _ s
  change ((u.modFret _ _).fret pf).st = _
  rw [State.fret_modFret]
  split
  next h => subst h; rfl
  next => rfl

theorem startRunning_plain {s : State} {n : Nat} {k : Task} (hk : s.task? n = some k) (hh : s.obs.dbg.haltPending = false)
    (hg : k.gang.any s.gangHeld = false) : s.startRunning n = s.toState n .running := by
  have hlate : (s.toState n .running).lateHalt n = s.toState n .running := by
    rw [State.lateHalt, if_neg]
    rw [Bool.and_eq_true]
    exact fun h => Bool.false_ne_true (hh.symm.trans h.1)
  rw [State.startRunning, hlate, State.toState, State.task?_modTask_same, hk]
  exact if_neg (Bool.eq_false_iff.1 hg)

theorem rejectConfig_spec (s : State) (k : Task) (e : ImgErr) :
    (∀ pf ∈ s.fretsOf k.num, ((s.rejectConfig k e).fret pf).st = .scrub ∧ ((s.rejectConfig k e).fret pf).cfg = none ∧
      ((s.rejectConfig k e).fret pf).owner = none) ∧
    (∀ x ∈ (s.rejectConfig k e).fab.net, x.task ≠ k.num) ∧ (∀ p ∈ (s.rejectConfig k e).placementsOf k.num, p.frozen = true) ∧
    (s.task? k.num = some k → k.ending = false → TaskIs (s.rejectConfig k e) k.num (fun k' =>
      k'.ending = true ∧ k'.status = .rejected ∧ k'.reason = 9 ∧ k'.faddr = k.image_ + e.2)) := by
  let clear := fun (s : State) (pf : Nat) => s.modFret pf (fun f => { f.release (s.heir k.num) with cfg := none })
  let u := (s.fretsOf k.num).foldl clear s
  have hu : u.sched = s.sched := foldl_same (fun s : State => s.sched) (g := clear) (fun _ _ => rfl) (s.fretsOf k.num) s
  have hfab : (s.rejectConfig k e).fab =
      { (u.freezeTask k.num).fab with net := u.fab.net.filter (fun x => x.task ≠ k.num) } := by
    rw [State.rejectConfig]
    dsimp only
    rw [(State.decideEnd_keepsOwn _ _ _ _ _).2, (State.noteCfgErr_stays _ _ _ _ _).2.1]
    rfl
  refine ⟨fun pf hpf => ?_, fun x hx => ?_, fun p hp => ?_, fun hk he => ?_⟩
  · have h := foldl_modFret_forall (key := fun pf : Nat => pf) (g := fun s _ f => { f.release (s.heir k.num) with cfg := none })
      (P := fun f => f.st = .scrub ∧ f.cfg = none ∧ f.owner = none) (fun _ _ _ => ⟨rfl, rfl, rfl⟩) (s.fretsOf k.num) s pf hpf
    have hf : (s.rejectConfig k e).fret pf = u.fret pf := fret_of_frets (by rw [hfab]; rfl) pf
    rw [hf]
    exact h
  · rw [hfab] at hx
    simpa using (List.mem_filter.1 hx).2
  · rw [State.placementsOf, hfab, List.mem_filter] at hp
    obtain ⟨hp, htask⟩ := hp
    change p ∈ (u.fab.placements.map (Prod.map id (Placement.freezeFor k.num))).map Prod.snd at hp
    obtain ⟨r, hr, rfl⟩ := List.mem_map.1 hp
    obtain ⟨q, -, rfl⟩ := List.mem_map.1 hr
    change (Placement.freezeFor k.num q.2).frozen = true
    have htask : (Placement.freezeFor k.num q.2).task = k.num := by simpa using htask
    rw [Placement.freezeFor] at htask ⊢
    split
    · rfl
    next h => rw [if_neg h] at htask; exact absurd htask h
  · rw [State.rejectConfig]
    dsimp only
    refine taskIs_modTask (k := k) ?_ ?_
    · rw [task?_of_sched (s := s) ?_, hk]
      rw [(State.noteCfgErr_stays _ _ _ _ _).2.2]
      exact hu
    · simp [Task.endAs, he]

/-! ### Growth (R88) -/

theorem makePlacement_placement? (s : State) (t : Task) (img : Option Img) (es : List Bool) (i : Nat) (m : List (Nat × Nat)) :
    ((s.makePlacement t img es i m).placement? t.num i).isSome = true := by
  rw [State.makePlacement]
  dsimp only
  rw [State.placement?, (State.selectFor_keepsOwn _ _)]
  exact Option.isSome_iff_exists.2 ⟨_, tget_tput_same _ _ _⟩

/-! ### The events -/

section
variable {s : State} {k : Task} (hsk : s.task? s.subject = some k) (hk : s.task? k.num = some k) (hend : k.ending = false)
include hsk hk hend

theorem leaseWalkResume_walks (hst : k.st = .reswait) (hloss : s.board.hostLoss = false ∨ s.hostLeased k = false) : exec .leaseWalkResume s =
    match findIdx1 (fun va => match s.pageAt k va with | .resident _ => false | _ => true) (k.pages.drop k.walk) with
    | none => if k.prefsDone then .next (s.grantLeases k)
      else .next (s.modTask k.num (fun t => { t with walk := t.walk + (k.pages.drop k.walk).length }))
    | some j => if s.pageAt k ((k.pages.drop k.walk).getD j 0) = .unbacked then .next (s.decideEnd k.num .rejected 1 0)
      else .next (s.modTask k.num (fun t => { t with walk := t.walk + j })) := by
  have hno : (s.board.hostLoss && s.hostLeased k) = false := by obtain h | h := hloss <;> simp [h]
  rw [exec_leaseWalkResume, execLeaseWalkResume, hsk]
  dsimp only
  rw [hend, hst, hno]
  rfl

theorem leaseWalkResume_done (hst : k.st = .reswait) (hloss : s.board.hostLoss = false ∨ s.hostLeased k = false)
    (hres : ∀ va ∈ k.pages.drop k.walk, ∃ w, s.pageAt k va = .resident w) : exec .leaseWalkResume s =
      if k.prefsDone then .next (s.grantLeases k) else .next (s.modTask k.num (fun t => { t with walk := t.walk + (k.pages.drop k.walk).length })) := by
  rw [leaseWalkResume_walks hsk hk hend hst hloss, findIdx1_none]
  intro va hva
  obtain ⟨w, hw⟩ := hres va hva
  rw [hw]

theorem leaseWalkResume_unbacked (hst : k.st = .reswait) (hloss : s.board.hostLoss = false ∨ s.hostLeased k = false) {va : Nat} {rest : List Nat}
    (hl : k.pages.drop k.walk = va :: rest) (hun : s.pageAt k va = .unbacked) : exec .leaseWalkResume s = .next (s.decideEnd k.num .rejected 1 0) := by
  rw [leaseWalkResume_walks hsk hk hend hst hloss, hl, findIdx1, hun]
  simp [hun]

theorem leaseWalkResume_lost (hst : k.st = .reswait) (hloss : s.board.hostLoss = true) (hlease : s.hostLeased k = true) :
    exec .leaseWalkResume s = .next (s.endHostLink k) := by
  rw [exec_leaseWalkResume, execLeaseWalkResume, hsk]
  dsimp only
  rw [hend, hst, hloss, hlease]
  rfl

theorem leaseWalkResume_saved (hst : k.st = .saved) (hg : k.gang = none) : exec .leaseWalkResume s = .next (s.reenter k) := by
  rw [exec_leaseWalkResume, execLeaseWalkResume, hsk]
  dsimp only
  rw [hend, hst, hg]
  rfl

theorem quotaAdmit_runs (hst : k.st = .admitwait) (hq : k.quota = false) (hroom : s.quotaHeld + k.cquota ≤ 262144) :
    ∃ t, exec .quotaAdmit s = .next t ∧ TaskIs t k.num (fun k' => k'.quota = true ∧ k'.st = (if k.gang.isNone then .fretwait else .admitwait)) := by
  have hu : (s.postLeases k).task? k.num = some k := (task?_of_sched (by simp) _).trans hk
  refine ⟨(s.postLeases k).modTask k.num (fun t =>
    { t with quota := true, st := if t.gang.isNone then .fretwait else .admitwait, stateSince := s.clock.ns }), ?_, taskIs_modTask hu ⟨rfl, rfl⟩⟩
  rw [exec_quotaAdmit, execQuotaAdmit, hsk]
  dsimp only
  have hok : (decide (k.st = .admitwait) && !k.quota && !k.ending && decide (s.quotaHeld + k.cquota ≤ 262144)) = true := by
    rw [Bool.and_eq_true, decide_eq_true_eq]
    exact ⟨by rw [hst, hq, hend]; rfl, hroom⟩
  exact event_next hok

theorem fretLoad_loads (hst : k.st = .loading) (hpl : s.placementsOf k.num ≠ []) (himg : k.image = none) (herr : k.loadErr = none)
    (hheld : (s.obs.dbg.haltPending || k.gang.any s.gangHeld) = false) : ∃ t, exec .fretLoad s = .next t ∧
      TaskIs t k.num (fun k' => k'.st = .running) ∧ (∀ p ∈ s.placementsOf k.num, ∀ r ∈ p.map, (t.fret r.2).st ≠ .load) ∧ t.mem = s.mem := by
  obtain ⟨hhalt, hgang⟩ := Bool.or_eq_false_iff.1 hheld
  have hu : ((s.loadFrets k).setLevels k).task? k.num = some k := (task?_of_sched (by simp) _).trans hk
  have hobs : ((s.loadFrets k).setLevels k).obs = s.obs := by simp
  have hgang' : k.gang.any (State.gangHeld ((s.loadFrets k).setLevels k)) = false := by
    have : State.gangHeld ((s.loadFrets k).setLevels k) = s.gangHeld := by funext g; rw [State.gangHeld, hobs, State.gangHeld]
    rw [this, hgang]
  have hplain := startRunning_plain hu (by rw [hobs]; exact hhalt) hgang'
  have hfirst : (decide (k.st = .loading) && k.image.isNone && !(s.placementsOf k.num).isEmpty) = true := by
    rw [hst, himg]; simpa using hpl
  refine ⟨((s.loadFrets k).setLevels k).toState k.num .running, ?_, taskIs_modTask hu rfl, fun p hp r hr => ?_, by simp [State.toState]⟩
  · rw [exec_fretLoad, execFretLoad, hsk]
    dsimp only
    rw [herr, hfirst, if_pos rfl, hplain]
    exact event_next (by rw [hend]; rfl)
  · change (((s.loadFrets k).setLevels k).fret r.2).st ≠ .load
    rw [setLevels_st]
    exact loadFrets_st p hp r hr

theorem fretLoad_rejects {e : ImgErr} (hst : k.st ∈ [TState.loading, .running, .held]) (herr : k.loadErr = some e) :
    exec .fretLoad s = .next (s.rejectConfig k e) := by
  rw [exec_fretLoad, execFretLoad, hsk]
  dsimp only
  rw [herr]
  refine event_next ?_
  rw [hend, State.mustLoad, herr]
  simp only [List.mem_cons, List.not_mem_nil, or_false] at hst
  obtain h | h | h := hst <;> simp [h]

theorem placementGrowth_grows {m : List (Nat × Nat)} (hiss : k.issues = true) (hv : k.victim = none) (herr : k.loadErr = none)
    (hlen : (s.placementsOf k.num).length < k.fld 34 2) (hm : (s.takeCap k.fn).mapGrowth k = some m) :
    ∃ t, exec .placementGrowth s = .next t ∧ (t.placement? k.num (s.freeIdx k.num)).isSome = true ∧ t.mem = s.mem := by
  have hidx : (s.takeCap k.fn).freeIdx k.num = s.freeIdx k.num := by rw [State.freeIdx, State.freeIdx]; simp [State.placement?]
  refine ⟨(s.takeCap k.fn).mapPlacements { k with image := none } [(s.freeIdx k.num, m)], ?_, ?_, by simp⟩
  · rw [exec_placementGrowth, execPlacementGrowth, hsk]
    dsimp only
    rw [hiss, hv, herr, decide_eq_true hlen, if_pos (by simp), hm]
    dsimp only
    rw [hidx]
  · rw [State.mapPlacements]
    dsimp only [List.foldl]
    exact makePlacement_placement? _ _ _ _ _ _

theorem drainVictimExpiry_runs {v : Victim} (hv : k.victim = some v) (ha : v.action = .drain) (hlive : k.st.live = true)
    (hsince : v.since + 80000 ≤ s.clock.ns) : exec .drainVictimExpiry s = .next (s.modTask k.num (fun t => { t with victim := none, slow := true })) := by
  rw [exec_drainVictimExpiry, execDrainVictimExpiry, hsk]
  dsimp only
  rw [hv]
  refine event_next ?_
  rw [ha, hlive, hend, decide_eq_true hsince]
  rfl

end

/-! ### The head of FRETWAIT -/

/-- What the choice of frets looks at is not changed by the cap that takes effect. -/
theorem takeCap_looks (s : State) (fn : Nat) : (s.takeCap fn).freeFor = s.freeFor ∧ (s.takeCap fn).fretsOf = s.fretsOf ∧
    (s.takeCap fn).tasks = s.tasks ∧ (s.takeCap fn).coming = s.coming ∧ (s.takeCap fn).task? = s.task? := by
  obtain ⟨-, hfab, hsched, -, -⟩ := State.takeCap_keepsOwn s fn
  have hfret : (s.takeCap fn).fret = s.fret := by funext pf; rw [State.fret, hfab, State.fret]
  have hin : (s.takeCap fn).fretsIn = s.fretsIn := by funext p; rw [State.fretsIn, State.fretsIn, hfret]
  have hof : (s.takeCap fn).fretsOf = s.fretsOf := by
    funext n
    rw [State.fretsOf, State.fretsOf, State.placementsOf, State.placementsOf, hfab, hin]
  have htasks : (s.takeCap fn).tasks = s.tasks := by rw [State.tasks, State.tasks, hsched]
  refine ⟨?_, hof, htasks, ?_, ?_⟩
  · funext n; rw [State.freeFor, State.freeFor, hfret]
  · funext n; rw [State.coming, State.coming, htasks, hfab, hof]
  · funext n; exact task?_of_sched hsched n

theorem fretwaitService_maps {s : State} {k : Task} {m : List (List (Nat × Nat))} (hk : s.task? k.num = some k) (hhead : s.fretwaitHead = some k)
    (hm : (s.takeCap k.fn).mapTask k (s.freeFor k.num) [] = some m) : ∃ t, exec .fretwaitService s = .next t ∧
      TaskIs t k.num (fun k' => k'.st = .loading ∧ k'.nextPl = k.need / k.nf) ∧ (∀ ps ∈ m, ∀ q ∈ ps, (t.fret q.2).st ∈ [FretSt.live, .load]) ∧
      t.mem = s.mem := by
  obtain ⟨hfree, -, -, -, htask⟩ := takeCap_looks s k.fn
  refine ⟨(s.takeCap k.fn).giveFrets k m, ?_, giveFrets_task (by rw [htask]; exact hk) m, giveFrets_st fun ps hps q hq => ?_, by simp⟩
  · rw [exec_fretwaitService, execFretwaitService, hhead]
    dsimp only
    rw [hfree, hm]
  · have hin := mapTask_mem hm ps hps q hq
    rw [State.freeFor, List.mem_filter] at hin
    rw [fret_of_frets (s := s) (by simp)]
    intro hsvc
    rw [hsvc] at hin
    simp at hin

theorem fretwaitService_preempts {s : State} {k : Task} (hhead : s.fretwaitHead = some k)
    (hm : (s.takeCap k.fn).mapTask k (s.freeFor k.num) [] = none) :
    exec .fretwaitService s = .next (((s.takeCap k.fn).preempt k).reserveFree k) := by
  rw [exec_fretwaitService, execFretwaitService, hhead]
  dsimp only
  rw [(takeCap_looks s k.fn).1, hm]

/-- Settles O33: each event's own writes to its task and its frets, and for the pre-emption the walk over the candidates. -/
theorem admissionEvents : Obligations.AdmissionEvents := by
  unfold Obligations.AdmissionEvents
  intro s k ⟨hsub, hk⟩ hend
  dsimp only
  have hsk : s.task? s.subject = some k := by rw [hsub]; exact hk
  refine ⟨fun hst hpre hloss hres => ?_, fun hst hpre hloss hres => ?_, fun hst hloss ⟨va, rest, hl, hun⟩ => ?_, fun hst hloss hlease => ?_,
    fun hst hg => ?_, fun hst hq hroom => ?_, ⟨fun m hhead hm => ?_, fun hhead hm => ?_⟩, fun hst hpl himg herr hheld => ?_, fun e hst herr => ?_,
    fun m hiss hv herr hlen hm => ?_, fun v hv ha hlive hsince => ?_⟩
  · exact ⟨_, (leaseWalkResume_done hsk hk hend hst hloss hres).trans (if_pos hpre), grantLeases_task hk⟩
  · exact ⟨_, (leaseWalkResume_done hsk hk hend hst hloss hres).trans (if_neg (by simp [hpre])), taskIs_modTask hk rfl⟩
  · exact ⟨_, leaseWalkResume_unbacked hsk hk hend hst hloss hl hun, taskIs_modTask hk (by simp [Task.endAs, hend])⟩
  · exact ⟨_, leaseWalkResume_lost hsk hk hend hst hloss hlease, endHostLink_task hk hend⟩
  · exact ⟨_, leaseWalkResume_saved hsk hk hend hst hg, reenter_task hk⟩
  · exact quotaAdmit_runs hsk hk hend hst hq hroom
  · exact fretwaitService_maps hk hhead hm
  · obtain ⟨hfree, hof, htasks, hcoming, htask⟩ := takeCap_looks s k.fn
    have hclock : (s.takeCap k.fn).clock = s.clock := by simp
    have hsched {n : Nat} {P : Task → Prop} (h : TaskIs ((s.takeCap k.fn).preempt k) n P) :
        TaskIs (((s.takeCap k.fn).preempt k).reserveFree k) n P := (taskIs_of_sched (by simp)).2 h
    have hclass (v : Task) : (s.takeCap k.fn).classify v =
        if v.st = .held then (if v.killable then some (VAction.kill, 4) else none)
        else if (s.takeCap k.fn).estimate v ≤ 20000 ∧ v.slow = false then some (.drain, 0)
        else if v.ckpt = true ∧ (s.takeCap k.fn).collOut v.num = false then some (.checkpoint, 1)
        else if v.killable then some (.kill, 4) else none := by simp [State.classify]
    refine ⟨_, fretwaitService_preempts hhead hm, by simp, by simp, fun pf => ?_, fun v hv => ?_, fun v a cost hv hne hlow honly hcl hg hco => ?_⟩
    · have h := reserveFree_fret ((s.takeCap k.fn).preempt k) k pf
      rwa [fret_of_frets (s := s) (t := (s.takeCap k.fn).preempt k) (by simp)] at h
    · refine taskIs_mono (hsched (preempt_tasks (by rw [htask]; exact hv))) fun v' ⟨h1, h2⟩ => ⟨h1, h2.imp id ?_⟩
      rintro ⟨u, hu, hn, hmay, a, cost, hc, hvic⟩
      rw [htasks] at hu
      rw [hclock] at hvic
      rw [hclass] at hc
      exact ⟨u, hu, hn, (mayBeVictim_iff _ _ _).1 hmay, a, cost, hc, hvic⟩
    · have h := preempt_one (s := s.takeCap k.fn) (n := k) (v := v) (a := a) (cost := cost) (by rw [htask]; exact hk) (by rw [htask]; exact hv) hne
        ((mayBeVictim_iff _ _ _).2 hlow) (fun u hu hmay => honly u (htasks ▸ hu) ((mayBeVictim_iff _ _ _).1 hmay)) ((hclass v).trans hcl) hg
        (by rw [hcoming]; exact hco) (by rw [hfree]; exact hm)
      rw [hfree, hof, hclock] at h
      exact ⟨fun hc => ⟨hsched (h.1 hc).1, hsched (h.1 hc).2⟩, fun hc => ⟨hsched (h.2 hc).1, hsched (h.2 hc).2⟩⟩
  · exact fretLoad_loads hsk hk hend hst hpl himg herr hheld
  · obtain ⟨hfrets, hnet, hfrozen, htask⟩ := rejectConfig_spec s k e
    exact ⟨_, fretLoad_rejects hsk hk hend hst herr, htask hk hend, hfrets, hnet, hfrozen⟩
  · exact placementGrowth_grows hsk hk hend hiss hv herr hlen hm
  · exact ⟨_, drainVictimExpiry_runs hsk hk hend hv ha hlive hsince, taskIs_modTask hk rfl, rfl⟩

end Sys2Proof.Machine
end


section
/-!
PROOFS. The end of a task (R63 to R65): obligation O35 fails where the pair result of the Farrier's area lies on the completion record.
-/
namespace Sys2Proof.Machine

/-! ### A machine to refute with -/

/-- The package in phase 8, its host link up. -/
def servedBoard : Board := { Board.reset with pwrEn := true, pwrGood := true, perst := false, phase := 8, hlink := true, portsSince := some 0 }

/-- Sixteen trained channels, and one translation: 1 GiB at 0 onto itself, writable. -/
def identityMem : Mem := { Mem.reset with phy := (List.range 16).map (fun c => (c, { Phy.zero with chst := 1 })), tlb := [⟨0, 0, 2 ^ 30, 0, true⟩] }

/-- Task 1, on placement 0 at fret 8, is what the beat names. -/
def bench (k : Task) (p : Placement) : State :=
  { State.reset with
    board := servedBoard, clock := ⟨1000, 1000, 1000⟩, mem := identityMem, subject := 1, sched := ⟨[(1, k)], 1, 1, true⟩
    fab := { Fab.reset with placements := [(64, p)] } }

/-! ### A completion record at the place of a pair's result -/

/-- A task that has ended well, its completion record at 0x4000 and its completion line at 0x2000. -/
def endsAtPairArea : Task :=
  let k := loadTask false
  { k with ending := true, hdr := ((k.hdr.set 38 1).set 57 0x40).set 65 0x20 }

/-- A comparison of task 1 with task 99, which has ended. Task 1 itself names no pair. -/
def strayPair : Pair := ⟨0xFF, 1, 99, none, some (.done, 0), [], [], false, 0, []⟩

/-- The task is about to end, and the results of pairs are written to 0x4000. -/
def pairOverRecord : State :=
  let s := bench endsAtPairArea { loadPlacement 8 with threads := [], freeTags := [0] }
  { s with
    host := { HostSide.reset with fns := [(0, { HostFn.zero with regs := [(0x398, 0x4000)] })] }
    obs := { s.obs with pairs := [strayPair] } }

/-- The first byte at 0x4000 after an instruction. -/
def byteAtRecord (o : Out) : Option (List Byte) := match o with
  | .next t => some (t.readBytes 0x4000 1)
  | _ => none

/-- The pair's result is written after the completion record, over it. -/
theorem byteAtRecord_pairOverRecord : byteAtRecord (exec .taskEnd pairOverRecord) = some [0xFF] := by decide +kernel

theorem atRest_pairOverRecord (l : Nat) (hq : pairOverRecord.mem.quiet l = true) (hb : pairOverRecord.busy l = false) : AtRest pairOverRecord l :=
  ⟨hq, hb, fun g hg => by cases hg⟩

/-- Refutes O35: a task of no pair ends, and the result of a pair that lists it goes to the place of its completion record, after that record. -/
theorem not_taskEndEvents : ¬ Obligations.TaskEndEvents := by
  unfold Obligations.TaskEndEvents
  intro h
  obtain ⟨-, hend, -⟩ := h pairOverRecord endsAtPairArea ⟨rfl, rfl⟩
  obtain ⟨t, ht, -, hreport⟩ := hend (by decide +kernel) (by decide +kernel) (fun g hg => by cases hg)
  obtain ⟨hrecord, -⟩ := hreport rfl rfl (by decide +kernel)
  have hline : ∀ q, pairOverRecord.physOf endsAtPairArea.space (endsAtPairArea.fld 64 8 % 2 ^ 52) = some q →
      q.1 / 128 ≠ 0x4000 / 128 ∧ q.1 % 8 = 0 ∧ AtRest pairOverRecord (q.1 / 128) := by
    intro q hq
    have hla : pairOverRecord.physOf endsAtPairArea.space (endsAtPairArea.fld 64 8 % 2 ^ 52) = some (0x2000, true) := by decide +kernel
    obtain rfl : (0x2000, true) = q := Option.some.inj (hla.symm.trans hq)
    exact ⟨by decide, by decide, atRest_pairOverRecord _ (by decide +kernel) (by decide +kernel)⟩
  obtain ⟨k', -, hbytes⟩ := hrecord 0x4000 (by decide +kernel) (by decide +kernel) (by decide) (by decide +kernel)
    (atRest_pairOverRecord _ (by decide +kernel) (by decide +kernel)) hline
  have hone := byteAtRecord_pairOverRecord
  rw [ht] at hone
  have hfirst : t.readBytes 0x4000 1 = [0xFF] := Option.some.inj hone
  have hcut : t.readBytes 0x4000 1 = (t.readBytes 0x4000 64).take 1 := by rw [readBytes_eq_map, readBytes_eq_map]; rfl
  rw [hcut, hbytes] at hfirst
  exact absurd hfirst (by simp [leBytes, endsAtPairArea, loadTask])

end Sys2Proof.Machine
end

section
/-!
PROOFS. Function-level reset and loss of the host link (R42 to R45, R69): obligation O36.
-/
namespace Sys2Proof.Machine

@[simp] theorem Mem.poisonHost_survives (m : Mem) (pa : ℕ) (n : ℕ) :
    (m.poisonHost pa n).hlc = m.hlc ∧ (m.poisonHost pa n).tlb = m.tlb := by
  unfold Mem.poisonHost
  split <;> simp

@[simp] theorem Mem.settlePosts_survives (m : Mem) (hit : Post → Bool) :
    (m.settlePosts hit).hlc = m.hlc := by
  unfold Mem.settlePosts
  split <;> simp

@[simp] theorem State.settleRange_survives (s : State) (pa : ℕ) (n : ℕ) :
    (s.settleRange pa n).mem.hlc = s.mem.hlc := by
  simp [State.settleRange]

@[simp] theorem State.openPage_survives (s : State) (pa : ℕ) (n : ℕ) :
    (s.openPage pa n).host = s.host ∧ (s.openPage pa n).mem.tlb = s.mem.tlb := by
  induction n generalizing s with
  | zero => simp [State.openPage]
  | succ n ih =>
    simp only [State.openPage]
    simp [ih]

@[simp] theorem State.migStatus_survives (s : State) (g : Mig) (code : ℕ) :
    (s.migStatus g code).host = s.host ∧ (s.migStatus g code).mem.tlb = s.mem.tlb := by
  unfold State.migStatus
  split <;> simp

@[simp] theorem State.abandonMig_survives (reset : Bool) (s : State) (g : Mig) :
    (State.abandonMig reset s g).host = s.host ∧ (State.abandonMig reset s g).mem.tlb = s.mem.tlb := by
  unfold State.abandonMig
  split <;> simp

@[simp] theorem State.abandonMigs_survives (s : State) (reset : Bool) (test : Mig → Bool) :
    (s.abandonMigs reset test).host = s.host ∧ (s.abandonMigs reset test).mem.tlb = s.mem.tlb := by
  have hmig {β} (π : State → β) (hπ : ∀ s g, π (State.abandonMig reset s g) = π s) := foldl_same π hπ (s.mem.migs.filter test) s
  exact ⟨hmig State.host fun s g => (State.abandonMig_survives reset s g).1, hmig (fun t => t.mem.tlb) fun s g => (State.abandonMig_survives reset s g).2⟩

@[simp] theorem State.toState_survives (s : State) (task : ℕ) (st : TState) :
    (s.toState task st).host = s.host ∧ (s.toState task st).clock = s.clock := ⟨rfl, rfl⟩

@[simp] theorem State.gangMsg_survives (s : State) (kind : ℕ) (gid : BitVec 32) (at_ : ℕ) :
    (s.gangMsg kind gid at_).host = s.host ∧ (s.gangMsg kind gid at_).clock = s.clock := ⟨rfl, rfl⟩

@[simp] theorem State.gangFree_survives (s : State) (task : ℕ) :
    (s.gangFree task).host = s.host ∧ (s.gangFree task).clock = s.clock := by
  unfold State.gangFree
  split <;> simp

@[simp] theorem State.flipGens_survives (s : State) (task : ℕ) :
    (s.flipGens task).host = s.host ∧ (s.flipGens task).clock = s.clock := by
  simp [State.flipGens]

@[simp] theorem State.freezeTask_survives (s : State) (task : ℕ) :
    (s.freezeTask task).host = s.host ∧ (s.freezeTask task).clock = s.clock := ⟨rfl, rfl⟩

@[simp] theorem State.flrTask_survives (s : State) (t : Task) :
    (s.flrTask t).host = s.host ∧ (s.flrTask t).clock = s.clock := by
  simp [State.flrTask]

/-! ### Rows of the host-line cache after writes -/

/-- Every line of the host-line cache is modified or owned. -/
def State.AllDirty (s : State) : Prop := ∀ r ∈ s.mem.hlc, r.2.st = .m ∨ r.2.st = .o

theorem State.AllDirty.of_subset {s t : State} (h : s.AllDirty) (hsub : ∀ r ∈ t.mem.hlc, r ∈ s.mem.hlc) : t.AllDirty := fun r hr => h r (hsub r hr)

theorem State.AllDirty.congr {s t : State} (h : s.AllDirty) (heq : t.mem.hlc = s.mem.hlc) : t.AllDirty := h.of_subset fun _ hr => heq ▸ hr

theorem hlcEvict_subset (s : State) (line : Nat) (r : Nat × HlcLine) (hr : r ∈ (s.hlcEvict line).mem.hlc) : r ∈ s.mem.hlc := by
  rw [State.hlcEvict] at hr
  split at hr
  · exact hr
  · dsimp only at hr
    split at hr <;> exact mem_tdel _ _ _ hr

theorem mem_hlcInsert (s : State) (line : Nat) (x : HlcLine) (r : Nat × HlcLine) (hr : r ∈ (s.hlcInsert line x).mem.hlc) :
    r = (line, x) ∨ r ∈ s.mem.hlc := by
  simp only [State.hlcInsert] at hr
  refine (mem_tput _ _ _ _ hr).imp_right fun h => ?_
  generalize (if s.mem.hlc.length < 16 || (tget s.mem.hlc line).isSome then [] else s.hlcSet line) = set at h
  split at h
  · exact h
  · split at h
    · exact hlcEvict_subset s _ _ h
    · exact h

theorem State.AllDirty.hlcPut {s : State} (h : s.AllDirty) (line : Nat) (d : Line) : (s.hlcPut line d).AllDirty := by
  intro r hr
  rcases mem_hlcInsert _ line ⟨.m, d, .i⟩ r hr with rfl | hr
  · exact .inl rfl
  · exact h r hr

theorem State.AllDirty.hostWrite {s : State} (h : s.AllDirty) (pa : Nat) (bs : List Byte) : (s.hostWrite pa bs).AllDirty := by
  refine h.of_subset fun r hr => ?_
  have hyield : r ∈ (s.hlcYield (pa / 128)).mem.hlc := by simpa [State.hostWrite] using hr
  rw [State.hlcYield] at hyield
  split at hyield
  · exact hyield
  · exact hlcEvict_subset _ _ _ hyield

theorem State.AllDirty.writeAt {s : State} (h : s.AllDirty) (fn pa n v : Nat) : (s.writeAt fn pa n v).AllDirty := by
  rw [State.writeAt]
  split
  · split
    · exact h.hlcPut _ _
    · exact h.hostWrite _ _
  · split <;> exact h.congr (by simp)

theorem State.AllDirty.writeBytes {s : State} (h : s.AllDirty) (fn pa : Nat) (bs : List Byte) : (s.writeBytes fn pa bs).AllDirty := by
  rw [State.writeBytes]
  generalize bs.length / 128 + 2 = n
  induction n generalizing s pa bs with
  | zero => exact h
  | succ n ih =>
    simp only [State.writeLines]
    split
    · exact h
    · refine ih ?_ _ _
      rw [State.writePiece]
      split
      · exact h.writeAt _ _ _ _
      · exact (h.writeAt _ _ _ _).writeAt _ _ _ _

theorem State.AllDirty.abandonMigs {s : State} (h : s.AllDirty) (test : Mig → Bool) : (s.abandonMigs false test).AllDirty := by
  have hstep : ∀ (u : State) (g : Mig), u.AllDirty → (State.abandonMig false u g).AllDirty := by
    intro u g hu
    rw [State.abandonMig, if_neg Bool.false_ne_true, State.migStatus]
    split
    · exact State.AllDirty.writeBytes (hu.congr (by simp)) _ _ _
    · exact hu.congr (by simp)
  exact State.AllDirty.congr (foldl_induct (P := State.AllDirty) hstep (s.mem.migs.filter test) h) rfl

theorem allDirty_dropCleanHlc (s : State) : s.dropCleanHlc.AllDirty := by
  intro r hr
  have hdirty := (List.mem_filter.1 hr).2
  simpa using hdirty

/-! ### Function-level resets (R42, R43) -/

theorem mem_flrFns (fn f : Nat) : f ∈ flrFns fn ↔ if fn = 0 then f < 64 else f = fn := by
  unfold flrFns
  split <;> simp [*]

theorem foldl_modFn_hostFn (fns : List Nat) (g : HostFn → HostFn) (hidem : ∀ x, g (g x) = g x) (s : State) (f : Nat) :
    (fns.foldl (fun s f => s.modFn f g) s).hostFn f = if f ∈ fns then g (s.hostFn f) else s.hostFn f := by
  induction fns generalizing s with
  | nil => rfl
  | cons x l ih =>
    rw [List.foldl_cons, ih, hostFn_modFn]
    by_cases hx : f = x
    · subst hx
      simp [hidem]
    · simp [hx]

theorem beginFlr_hostFn (s : State) (fn f : Nat) :
    (s.beginFlr fn).hostFn f = if f ∈ flrFns fn then { s.hostFn f with flr := some ⟨s.clock.ns, fn = 0⟩ } else s.hostFn f := by
  have htasks {β} (π : State → β) (hπ : ∀ s k, π (State.flrTask s k) = π s) := foldl_same π hπ (s.tasksOf (flrFns fn)) s
  have hhost := htasks State.host fun s k => (State.flrTask_survives s k).1
  have hclock := htasks State.clock fun s k => (State.flrTask_survives s k).2
  refine (foldl_modFn_hostFn (flrFns fn) (fun x => { x with flr := some ⟨_, fn = 0⟩ }) (fun _ => rfl) _ f).trans ?_
  rw [State.hostFn, State.hostFn, hhost, hclock]

/-- A function that has been reset: its record is empty, and no translation of its spaces is held. -/
def State.FnReset (s : State) (fn : Nat) : Prop := s.hostFn fn = HostFn.zero ∧ ∀ e ∈ s.mem.tlb, e.va < 2 ^ 52 → 0 < e.size → e.space / 256 ≠ fn

theorem resetFn_hostFn (s : State) (fn f : Nat) : (s.resetFn fn).hostFn f = if f = fn then HostFn.zero else s.hostFn f := by
  rw [State.hostFn, tgetD, State.resetFn]
  dsimp only
  rw [tget_tput, (State.abandonMigs_survives _ _ _).1]
  split <;> rfl

theorem resetFn_tlb (s : State) (fn : Nat) (e : TlbEntry) (he : e ∈ (s.resetFn fn).mem.tlb) :
    e ∈ s.mem.tlb ∧ (e.va < 2 ^ 52 → 0 < e.size → e.space / 256 ≠ fn) := by
  have hdrop : e ∈ ((s.abandonMigs true (fun g => g.fn = fn)).mem.tlbDrop (fun x => x / 256 = fn) 0 (2 ^ 52)).tlb := he
  rw [Mem.tlbDrop, (State.abandonMigs_survives _ _ _).2] at hdrop
  obtain ⟨hmem, hkept⟩ := List.mem_filter.1 hdrop
  refine ⟨hmem, fun hva hsize hfn => ?_⟩
  have hgone : e ∈ s.mem.tlb.filter (fun e => decide (e.space / 256 = fn) && decide (e.va < 2 ^ 52) && decide (0 < e.va + e.size)) :=
    List.mem_filter.2 ⟨hmem, by simp [hfn, hva]; omega⟩
  simp only [Bool.not_eq_true', List.any_eq_false, decide_eq_true_eq] at hkept
  exact hkept e hgone rfl

theorem resetFn_same (s : State) (fn : Nat) : (s.resetFn fn).FnReset fn :=
  ⟨by rw [resetFn_hostFn, if_pos rfl], fun e he => (resetFn_tlb s fn e he).2⟩

theorem State.FnReset.resetFn {s : State} {f : Nat} (h : s.FnReset f) (fn : Nat) : (s.resetFn fn).FnReset f := by
  refine ⟨?_, fun e he => h.2 e (resetFn_tlb s fn e he).1⟩
  rw [resetFn_hostFn]
  split
  · rfl
  · exact h.1

theorem foldl_resetFn (fns : List Nat) (s : State) (f : Nat) (hf : f ∈ fns) : (fns.foldl State.resetFn s).FnReset f := by
  induction fns generalizing s with
  | nil => cases hf
  | cons x l ih =>
    rw [List.foldl_cons]
    rcases List.mem_cons.1 hf with rfl | hf
    · exact foldl_induct (P := fun t : State => t.FnReset f) (fun t fn (ht : t.FnReset f) => ht.resetFn fn) l (resetFn_same s f)
    · exact ih _ hf

theorem mem_flrFns_self {fn : Nat} : fn ∈ flrFns fn := by
  rw [mem_flrFns]
  split <;> omega

theorem finishFlr_spec (s : State) (fn : Nat) :
    (s.finishFlr fn).FnReset fn ∧ (fn = 0 → (s.finishFlr fn).host.vfEnable = false ∧ (s.finishFlr fn).host.bar2Log = 40 ∧ (s.finishFlr fn).host.caps = []) := by
  have hreset := foldl_resetFn (flrFns fn) ((s.tasksOf (flrFns fn)).foldl State.dropTask s) fn mem_flrFns_self
  rw [State.finishFlr]
  dsimp only
  split
  · exact ⟨hreset, fun _ => ⟨rfl, rfl, rfl⟩⟩
  · exact ⟨hreset, fun h => absurd h ‹_›⟩

/-! ### Loss and return of the host link (R44, R45) -/

theorem tget_hlcEvict_self (s : State) (line : Nat) : tget (s.hlcEvict line).mem.hlc line = none := by
  rw [State.hlcEvict]
  split
  · assumption
  · dsimp only
    split <;> exact tget_tdel_same _ _

theorem foldl_hlcEvict (ls : List Nat) (s : State) :
    (ls.foldl State.hlcEvict s).host = s.host ∧ ∀ r ∈ (ls.foldl State.hlcEvict s).mem.hlc, r ∈ s.mem.hlc ∧ r.1 ∉ ls := by
  induction ls generalizing s with
  | nil => exact ⟨rfl, fun r hr => ⟨hr, List.not_mem_nil⟩⟩
  | cons l ls ih =>
    rw [List.foldl_cons]
    obtain ⟨hhost, hrows⟩ := ih (s.hlcEvict l)
    refine ⟨hhost.trans (by simp), fun r hr => ?_⟩
    obtain ⟨hin, hnot⟩ := hrows r hr
    refine ⟨hlcEvict_subset s l r hin, fun hmem => ?_⟩
    rcases List.mem_cons.1 hmem with rfl | hmem
    · exact absurd (tget_isSome_of_mem hin) (by simp [tget_hlcEvict_self])
    · exact hnot hmem

/-- Every line of the host-line cache written back: nothing is left of it. -/
theorem hlcEvict_all (s : State) : ((s.mem.hlc.map Prod.fst).foldl State.hlcEvict s).mem.hlc = [] := by
  obtain ⟨-, hrows⟩ := foldl_hlcEvict (s.mem.hlc.map Prod.fst) s
  refine List.eq_nil_iff_forall_not_mem.2 fun r hr => ?_
  obtain ⟨hin, hnot⟩ := hrows r hr
  exact hnot (List.mem_map_of_mem hin)

theorem lossDue_of {s : State} {a : Nat} (hloss : s.board.hostLoss = true) (hat : s.board.lossAt = some a) (hlate : a + 200000000 ≤ s.clock.ns) :
    s.lossDue = true := by
  simp only [State.lossDue, hat, hloss, Bool.true_and, decide_eq_true_eq]
  exact hlate

theorem hostLinkLoss_next (s : State) (hlink : s.board.hlink = true) (hloss : s.board.hostLoss = false) :
    ∃ t, exec .hostLinkLoss s = .next t ∧ t.board = { s.board with
      hlink := false, hostLoss := true, alert := true, lossEvents := min 0xFFFF (s.board.lossEvents + 1), lossAt := some s.clock.ns } ∧ t.AllDirty := by
  refine ⟨_, event_next (by simp [hlink, hloss]), ?_, (allDirty_dropCleanHlc _).abandonMigs _⟩
  rw [(State.abandonMigs_keeps _ _ _).1, (State.dropCleanHlc_keeps _).1, (State.poisonFlight_keeps _).1]
  exact foldl_same State.board (fun s k => (State.linkEnd_keeps s k).1) _ _

/-- The return of the link: the registers, and, where nothing was held, the host-line cache. -/
theorem hostLinkRetrain_next (s : State) (rate width : Nat) (hloss : s.board.hostLoss = true) (hperst : s.board.perst = false)
    (hfits : linkFits rate width s.board.cxl = true) (hdue : s.lossDue = false) (hsub : s.subject = 32 * rate + width) :
    ∃ t, exec .hostLinkRetrain s = .next t ∧
      t.board = { s.board with hlink := true, hostLoss := false, lossAt := none, linkRate := rate, linkWidth := width } ∧
      (s.host.held = [] → t.mem.hlc = [] ∧ t.host.held = []) := by
  have hwidth : width < 32 := by
    simp only [linkFits, Bool.and_eq_true, List.contains_iff_mem, List.mem_cons, List.not_mem_nil, or_false] at hfits
    omega
  have hrate : s.subject / 32 = rate := by omega
  have hw : s.subject % 32 = width := by omega
  rw [exec_hostLinkRetrain, execHostLinkRetrain, hrate, hw]
  refine ⟨_, event_next (by simp [hloss, hperst, hfits, hdue]), ?_, fun hheld => ?_⟩
  · have hsame {α} (g : State → α → State) (hg : ∀ s x, (g s x).board = s.board) (l : List α) (u : State) : (l.foldl g u).board = u.board :=
      foldl_same State.board hg l u
    dsimp only
    rw [hsame _ (fun s x => (State.releaseHeldEntry_keeps s x).1), hsame _ (fun s x => by simp), hsame _ (fun s x => (State.releaseHeldEntry_keeps s x).1),
      hsame _ (fun s x => (State.hlcEvict_keeps s x).1)]
  · have hfns : (List.range 64).filter (fun _ => false) = [] := List.filter_eq_nil_iff.2 fun _ _ => Bool.false_ne_true
    simp only [hheld, List.filter_nil, List.foldl_nil, List.any_nil, hfns]
    exact ⟨hlcEvict_all { s with board := _, host := _ }, congrArg HostSide.held (foldl_hlcEvict _ _).1⟩

/-- Settles O36: a reset clears its functions one after another and none of them again, and no line of the host-line cache stays clean when the link is lost. -/
theorem functionResetAndLinkLossEvents : Obligations.FunctionResetAndLinkLossEvents := by
  unfold Obligations.FunctionResetAndLinkLossEvents
  intro s
  refine ⟨fun hlink hloss hfatal hphase hflr => ?_, fun hreach hvf => ?_, ?_, fun hlink hloss => hostLinkLoss_next s hlink hloss,
    fun a hloss hat hlate => ?_, fun rate width hloss hperst hfits hdue hsub => hostLinkRetrain_next s rate width hloss hperst hfits hdue hsub⟩
  · refine ⟨_, event_next (by simp [hlink, hloss, hfatal, hphase, hflr]), beginFlr_board s 0, fun f hf => ?_⟩
    rw [beginFlr_hostFn, if_pos ((mem_flrFns 0 f).2 hf)]
    rfl
  · have hne : s.subject ≠ 0 := by omega
    refine ⟨_, event_next (by simp [hreach, hvf]), beginFlr_board s _, ?_, fun f hf => ?_⟩
    · rw [beginFlr_hostFn, if_pos mem_flrFns_self]
      simp [hne]
    · rw [beginFlr_hostFn, if_neg fun h => hf (by simpa [mem_flrFns, hne] using h)]
  · intro ends f hled
    obtain ⟨⟨hzero, htlb⟩, hpf⟩ := finishFlr_spec s s.subject
    have hends : ∀ i, exec i s = .next (s.finishFlr s.subject) → ends i := fun i hi =>
      ⟨_, hi, by rw [hzero]; rfl, by rw [hzero]; rfl, by rw [hzero]; rfl, htlb, hpf⟩
    refine ⟨fun hdrained => hends _ ?_, fun hlate => hends _ ?_⟩
    · rw [exec_flrDrainComplete, execFlrDrainComplete, hled]
      exact event_next (List.all_eq_true.2 fun k hk => by simp [hdrained k hk])
    · rw [exec_flrDrainTimeout, execFlrDrainTimeout, hled]
      exact event_next (by simpa using hlate)
  · exact ⟨_, event_next (lossDue_of hloss hat hlate), rfl, rfl, rfl⟩

end Sys2Proof.Machine
end

section
/-!
PROOFS. Gang slices, holds and releases (R104 to R106, R232): obligation O37.
-/
namespace Sys2Proof.Machine

@[simp] theorem State.modFn_heeds (s : State) (fn : ℕ) (g : HostFn → HostFn) :
    (s.modFn fn g).fab.placements = s.fab.placements ∧ (s.modFn fn g).eng = s.eng := ⟨rfl, rfl⟩

@[simp] theorem State.setReg_heeds (s : State) (fn : ℕ) (off : ℕ) (v : Word) :
    (s.setReg fn off v).fab.placements = s.fab.placements ∧ (s.setReg fn off v).eng = s.eng := ⟨rfl, rfl⟩

@[simp] theorem State.putTrace_heeds (s : State) (r : TrRec) :
    (s.putTrace r).fab.placements = s.fab.placements := rfl

@[simp] theorem State.traceStop_heeds (s : State) (task : ℕ) (swid : ℕ) (tag : ℕ) (wave : ℕ) (fret : ℕ) (velem : ℕ) (slot : ℕ) (pl : ℕ) (pf : ℕ) (stop : ℕ) (code : ℕ) :
    (s.traceStop task swid tag wave fret velem slot pl pf stop code).fab.placements = s.fab.placements ∧
    (s.traceStop task swid tag wave fret velem slot pl pf stop code).eng = s.eng := by
  unfold State.traceStop
  (repeat' split) <;> simp

@[simp] theorem State.endStep_heeds (s : State) :
    (s.endStep).clock = s.clock ∧ (s.endStep).fab.placements = s.fab.placements ∧ (s.endStep).sched = s.sched ∧ (s.endStep).eng = s.eng := ⟨rfl, rfl, rfl, rfl⟩

@[simp] theorem State.raiseVec_heeds (s : State) (fn : ℕ) (vec : ℕ) :
    (s.raiseVec fn vec).clock = s.clock ∧ (s.raiseVec fn vec).fab.placements = s.fab.placements ∧ (s.raiseVec fn vec).sched = s.sched ∧
    (s.raiseVec fn vec).eng = s.eng := by
  simp [State.raiseVec]

@[simp] theorem State.dbgStopped_heeds (s : State) (task : ℕ) (stop : ℕ) (swid : ℕ) (code : ℕ) :
    (s.dbgStopped task stop swid code).clock = s.clock ∧ (s.dbgStopped task stop swid code).fab.placements = s.fab.placements ∧
    (s.dbgStopped task stop swid code).sched = s.sched ∧ (s.dbgStopped task stop swid code).eng = s.eng := by
  simp only [State.dbgStopped]
  (repeat' split) <;> simp

/-! ### A property that one step of a fold brings about and every step keeps -/

theorem foldl_reaches {α β : Type} {I P : β → Prop} {g : β → α → β} {l : List α} {x : α} (hx : x ∈ l) (hI : ∀ b y, I b → I (g b y))
    (hP : ∀ b y, I b → P b → P (g b y)) (hset : ∀ b, I b → P (g b x)) {b : β} (hb : I b) : P (l.foldl g b) := by
  induction l generalizing b with
  | nil => cases hx
  | cons y l ih =>
    rw [List.foldl_cons]
    rcases List.mem_cons.1 hx with rfl | hx
    · exact (foldl_induct (P := fun b => I b ∧ P b) (fun b z h => ⟨hI b z h.1, hP b z h.1 h.2⟩) l ⟨hI b x hb, hset b hb⟩).2
    · exact ih hx (hI b y hb)

/-! ### What holds of one task, of its placements and of its collectives -/

/-- Every placement of a task has a property. -/
def State.EachPlacement (s : State) (n : Nat) (P : Placement → Prop) : Prop := ∀ r ∈ s.fab.placements, r.2.task = n → P r.2

/-- Every collective entry of a task has a property. -/
def State.EachColl (s : State) (n : Nat) (P : Coll → Prop) : Prop := ∀ c ∈ s.eng.colls, c.op.task = n → P c

theorem eachPlacement_iff {s : State} {n : Nat} {P : Placement → Prop} : s.EachPlacement n P ↔ ∀ p ∈ s.placementsOf n, P p := by
  simp only [State.EachPlacement, State.placementsOf, List.mem_filter, List.mem_map, decide_eq_true_eq]
  exact ⟨fun h p ⟨⟨r, hr, hp⟩, hn⟩ => hp ▸ h r hr (hp ▸ hn), fun h r hr hn => h r.2 ⟨⟨r, hr, rfl⟩, hn⟩⟩

theorem State.EachPlacement.congr {s t : State} {n : Nat} {P : Placement → Prop} (h : s.EachPlacement n P) (heq : t.fab.placements = s.fab.placements) :
    t.EachPlacement n P := by rwa [State.EachPlacement, heq]

theorem State.EachColl.congr {s t : State} {n : Nat} {P : Coll → Prop} (h : s.EachColl n P) (heq : t.eng = s.eng) : t.EachColl n P := by
  rwa [State.EachColl, heq]

theorem State.EachPlacement.map {s t : State} {n : Nat} {P Q : Placement → Prop} {g : Placement → Placement} (h : s.EachPlacement n P)
    (heq : t.fab.placements = s.fab.placements.map (Prod.map id g)) (htask : ∀ p, (g p).task = p.task) (hg : ∀ p, p.task = n → P p → Q (g p)) :
    t.EachPlacement n Q := by
  intro r hr hn
  rw [heq] at hr
  obtain ⟨r', hr', rfl⟩ := List.mem_map.1 hr
  have hn' : r'.2.task = n := (htask r'.2).symm.trans hn
  exact hg r'.2 hn' (h r' hr' hn')

theorem State.EachColl.map {s t : State} {n : Nat} {P Q : Coll → Prop} {g : Coll → Coll} (h : s.EachColl n P) (heq : t.eng.colls = s.eng.colls.map g)
    (hop : ∀ c, (g c).op = c.op) (hg : ∀ c, c.op.task = n → P c → Q (g c)) : t.EachColl n Q := by
  intro c hc hn
  rw [heq] at hc
  obtain ⟨c', hc', rfl⟩ := List.mem_map.1 hc
  rw [hop] at hn
  exact hg c' hn (h c' hc' hn)

theorem taskIs_toState {s : State} {n m : Nat} {st : TState} {P Q : Task → Prop} (h : TaskIs s n P) (hne : m ≠ n → ∀ k, P k → Q k)
    (hsame : m = n → ∀ k, P k → Q { k with st := st, stateSince := s.clock.ns }) : TaskIs (s.toState m st) n Q := by
  obtain ⟨k, hk, hp⟩ := h
  by_cases hm : m = n
  · subst hm
    exact taskIs_modTask hk (hsame rfl k hp)
  · exact ⟨k, by rw [State.toState, State.task?_modTask, if_neg (Ne.symm hm), hk], hne hm k hp⟩

/-! ### A gang's task at a freeze (R232) -/

/-- Whether a freeze of its gang stops a task. -/
def Task.stopsAtFreeze (k : Task) : Bool := k.st = .running && !k.ending && !k.freezing

/-- What a freeze does to a collective entry. -/
def Coll.holdAt (task now : Nat) (c : Coll) : Coll := if c.op.task = task && c.heldFor.isNone then { c with heldFor := some now } else c

theorem Coll.holdAt_op (task now : Nat) (c : Coll) : (c.holdAt task now).op = c.op := by
  unfold Coll.holdAt
  split <;> rfl

theorem Coll.holdAt_heldFor (task now : Nat) (c : Coll) (h : c.op.task = task ∨ c.heldFor.isSome = true) : (c.holdAt task now).heldFor.isSome = true := by
  unfold Coll.holdAt
  split
  · rfl
  · rename_i hno
    cases hc : c.heldFor with
    | some _ => rfl
    | none => simp_all

theorem gangFreezeTask_colls (s : State) (k : Task) : (s.gangFreezeTask k).eng.colls = s.eng.colls.map (Coll.holdAt k.num s.clock.ns) := by
  rw [State.gangFreezeTask]
  split
  · rw [(State.dbgStopped_heeds _ _ _ _ _).2.2.2, (State.traceStop_heeds _ _ _ _ _ _ _ _ _ _ _ _).2]
    rfl
  · rfl

theorem gangFreezeTask_placements (s : State) (k : Task) : (s.gangFreezeTask k).fab.placements =
    if k.stopsAtFreeze then s.fab.placements.map (Prod.map id (Placement.freezeFor k.num)) else s.fab.placements := by
  rw [State.gangFreezeTask, Task.stopsAtFreeze]
  split
  · rw [(State.dbgStopped_heeds _ _ _ _ _).2.1, (State.traceStop_heeds _ _ _ _ _ _ _ _ _ _ _ _).1]
    rfl
  · rfl

theorem gangFreezeTask_sched (s : State) (k : Task) :
    (s.gangFreezeTask k).sched = if k.stopsAtFreeze then (s.toState k.num .held).sched else s.sched := by
  rw [State.gangFreezeTask, Task.stopsAtFreeze]
  split
  · rw [(State.dbgStopped_heeds _ _ _ _ _).2.2.1, (State.traceStop_stays _ _ _ _ _ _ _ _ _ _ _ _).2]
    rfl
  · rfl

theorem gangFreezeTask_task {s : State} {n : Nat} {P Q : Task → Prop} (k : Task) (h : TaskIs s n P) (hsame : ∀ x, P x → Q x)
    (hheld : k.num = n → ∀ x, P x → Q { x with st := .held, stateSince := s.clock.ns }) :
    TaskIs (s.gangFreezeTask k) n Q := by
  have hsched := gangFreezeTask_sched s k
  split at hsched
  · exact (taskIs_of_sched hsched).2 (taskIs_toState h (fun _ => hsame) hheld)
  · exact (taskIs_of_sched hsched).2 (taskIs_mono h hsame)

/-! ### A gang's freeze (R232) -/

theorem mem_gangTasks {s : State} {k : Task} {gid : BitVec 32} (hk : s.task? k.num = some k) (hlive : k.st.live = true) (hgid : k.gang.map Gang.gid = some gid) :
    k ∈ s.gangTasks gid :=
  List.mem_filter.2 ⟨List.mem_map.2 ⟨_, mem_of_tget hk, rfl⟩, by simp [hlive, hgid]⟩

theorem gangFreeze_colls {s : State} {k : Task} {gid : BitVec 32} (hk : k ∈ s.gangTasks gid) :
    (s.gangFreeze gid).EachColl k.num fun c => c.heldFor.isSome = true := by
  refine State.EachColl.congr (foldl_reaches (I := fun _ => True) (P := fun u : State => u.EachColl k.num fun c => c.heldFor.isSome = true) hk
    (fun _ _ _ => trivial) (fun u x _ h => h.map (gangFreezeTask_colls u x) (Coll.holdAt_op _ _) fun c _ hc => Coll.holdAt_heldFor _ _ c (.inr hc))
    (fun u _ => ?_) (b := s) trivial) rfl
  exact State.EachColl.map (P := fun _ => True) (fun _ _ _ => trivial) (gangFreezeTask_colls u k) (Coll.holdAt_op _ _) fun c hc _ =>
    Coll.holdAt_heldFor _ _ c (.inl hc)

theorem freezeFor_task (n : Nat) (p : Placement) : (p.freezeFor n).task = p.task := by
  unfold Placement.freezeFor
  split <;> rfl

theorem freezeFor_frozen {n : Nat} {p : Placement} (h : p.task = n ∨ p.frozen = true) : (p.freezeFor n).frozen = true := by
  unfold Placement.freezeFor
  split
  · rfl
  · exact h.resolve_left ‹_›

theorem gangFreeze_placements {s : State} {k : Task} {gid : BitVec 32} (hk : k ∈ s.gangTasks gid) (hstops : k.stopsAtFreeze = true) :
    (s.gangFreeze gid).EachPlacement k.num fun p => p.frozen = true := by
  refine State.EachPlacement.congr (foldl_reaches (I := fun _ => True) (P := fun u : State => u.EachPlacement k.num fun p => p.frozen = true) hk
    (fun _ _ _ => trivial) (fun u x _ h => ?_) (fun u _ => ?_) (b := s) trivial) rfl
  · have hpl := gangFreezeTask_placements u x
    split at hpl
    · exact h.map hpl (freezeFor_task _) fun p _ hp => freezeFor_frozen (.inr hp)
    · exact h.congr hpl
  · have hpl := gangFreezeTask_placements u k
    rw [if_pos hstops] at hpl
    exact State.EachPlacement.map (P := fun _ => True) (fun _ _ _ => trivial) hpl (freezeFor_task _) fun p hp _ => freezeFor_frozen (.inl hp)

theorem gangFreeze_task {s : State} {k : Task} {gid : BitVec 32} (hk : k ∈ s.gangTasks gid) (hnum : s.task? k.num = some k) (hstops : k.stopsAtFreeze = true) :
    TaskIs (s.gangFreeze gid) k.num fun k' => k'.st = .held := by
  refine (taskIs_of_sched rfl).1 (foldl_reaches (I := fun u : State => TaskIs u k.num fun _ => True)
    (P := fun u : State => TaskIs u k.num fun k' => k'.st = .held) hk (fun u x h => gangFreezeTask_task x h (fun _ _ => trivial) (fun _ _ _ => trivial))
    (fun u x _ h => gangFreezeTask_task x h (fun _ h => h) (fun _ _ _ => rfl)) (fun u h => ?_) (b := s) ⟨k, hnum, trivial⟩)
  have hsched := gangFreezeTask_sched u k
  rw [if_pos hstops] at hsched
  exact (taskIs_of_sched hsched).2 (taskIs_toState h (fun hne => absurd rfl hne) fun _ _ _ => rfl)

/-! ### A gang's task at a release (R232) -/

/-- Whether the release of its gang lets a held task run on. -/
def Task.wakesAtRelease (k : Task) : Bool := k.st = .held && k.fault.isNone && !k.ending

/-- What a release does to a collective entry. -/
def Coll.resumeAt (task now : Nat) (c : Coll) : Coll := match c.heldFor with
  | some n => if c.op.task = task then { c with heldFor := none, since := c.since + (now - n) } else c
  | none => c

theorem Coll.resumeAt_op (task now : Nat) (c : Coll) : (c.resumeAt task now).op = c.op := by
  unfold Coll.resumeAt
  split
  · split <;> rfl
  · rfl

theorem Coll.resumeAt_heldFor (task now : Nat) (c : Coll) (h : c.op.task = task ∨ c.heldFor = none) : (c.resumeAt task now).heldFor = none := by
  unfold Coll.resumeAt
  split
  · rename_i n hn
    rw [if_pos (h.resolve_right (by simp [hn]))]
  · assumption

theorem thawFor_task (n : Nat) (p : Placement) : (p.thawFor n).task = p.task := by
  unfold Placement.thawFor
  split <;> rfl

theorem thawFor_frozen {n : Nat} {p : Placement} (h : p.task = n ∨ p.frozen = false) : (p.thawFor n).frozen = false := by
  unfold Placement.thawFor
  split
  · rfl
  · exact h.resolve_left ‹_›

/-- A gang's task with its slice taken from the release's instant. -/
def State.sliceAnew (s : State) (n : Nat) : State := s.modTask n (fun k => { k with sliceFrom := s.clock.ptpNs })

theorem gangResumeTask_of_wakes {s : State} {k : Task} (h : k.wakesAtRelease = true) :
    s.gangResumeTask k = ((s.sliceAnew k.num).resumeColls k.num).leaveHeld k.num := if_pos h

theorem gangResumeTask_of_not_wakes {s : State} {k : Task} (h : k.wakesAtRelease = false) :
    s.gangResumeTask k = if k.st = .running then (s.sliceAnew k.num).resumeColls k.num else s.sliceAnew k.num :=
  if_neg fun hw => Bool.false_ne_true (h.symm.trans hw)

theorem leaveHeld_parts (s : State) (n : Nat) :
    (s.leaveHeld n).mem = s.mem ∧ (s.leaveHeld n).obs = s.obs ∧ (s.leaveHeld n).clock = s.clock ∧ (s.leaveHeld n).eng = s.eng ∧
      (s.leaveHeld n).fab.placements = s.fab.placements.map (Prod.map id (Placement.thawFor n)) ∧ (s.leaveHeld n).sched = (s.toState n .running).sched := by
  rw [State.leaveHeld]
  split <;> exact ⟨rfl, rfl, rfl, rfl, rfl, rfl⟩

/-- What the resumption of a task leaves alone. -/
theorem gangResumeTask_leaves (s : State) (k : Task) :
    (s.gangResumeTask k).mem = s.mem ∧ (s.gangResumeTask k).obs = s.obs ∧ (s.gangResumeTask k).clock = s.clock := by
  cases hw : k.wakesAtRelease
  · rw [gangResumeTask_of_not_wakes hw]
    split <;> exact ⟨rfl, rfl, rfl⟩
  · rw [gangResumeTask_of_wakes hw]
    obtain ⟨hmem, hobs, hclock, -⟩ := leaveHeld_parts ((s.sliceAnew k.num).resumeColls k.num) k.num
    exact ⟨hmem, hobs, hclock⟩

theorem gangResumeTask_colls (s : State) (k : Task) : (s.gangResumeTask k).eng.colls =
    if k.wakesAtRelease = true ∨ k.st = .running then s.eng.colls.map (Coll.resumeAt k.num s.clock.ns) else s.eng.colls := by
  cases hw : k.wakesAtRelease
  · rw [gangResumeTask_of_not_wakes hw]
    by_cases hst : k.st = .running
    · rw [if_pos hst, if_pos (.inr hst)]
      rfl
    · rw [if_neg hst, if_neg (by simp [hst])]
      rfl
  · rw [gangResumeTask_of_wakes hw, (leaveHeld_parts _ _).2.2.2.1, if_pos (.inl rfl)]
    rfl

theorem gangResumeTask_placements (s : State) (k : Task) : (s.gangResumeTask k).fab.placements =
    if k.wakesAtRelease then s.fab.placements.map (Prod.map id (Placement.thawFor k.num)) else s.fab.placements := by
  cases hw : k.wakesAtRelease
  · rw [gangResumeTask_of_not_wakes hw]
    split <;> rfl
  · rw [gangResumeTask_of_wakes hw, (leaveHeld_parts _ _).2.2.2.2.1]
    rfl

theorem gangResumeTask_sched (s : State) (k : Task) :
    (s.gangResumeTask k).sched = if k.wakesAtRelease then ((s.sliceAnew k.num).toState k.num .running).sched else (s.sliceAnew k.num).sched := by
  cases hw : k.wakesAtRelease
  · rw [gangResumeTask_of_not_wakes hw]
    split <;> rfl
  · rw [gangResumeTask_of_wakes hw, (leaveHeld_parts _ _).2.2.2.2.2]
    rfl

theorem sliceAnew_task {s : State} {n m : Nat} {P : Task → Prop} (h : TaskIs s n P) (hP : m = n → ∀ x, P x → P { x with sliceFrom := s.clock.ptpNs }) :
    TaskIs (s.sliceAnew m) n P := by
  obtain ⟨x, hx, hp⟩ := h
  by_cases hm : m = n
  · subst hm
    exact taskIs_modTask hx (hP rfl x hp)
  · exact ⟨x, by rw [State.sliceAnew, State.task?_modTask, if_neg (Ne.symm hm), hx], hp⟩

/-- The task runs on, with its slice from the instant of the release. -/
def RunsFrom (now : Nat) (k : Task) : Prop := k.st = .running ∧ k.sliceFrom = now

theorem gangResumeTask_exists {s : State} {n : Nat} (k : Task) (h : TaskIs s n fun _ => True) : TaskIs (s.gangResumeTask k) n fun _ => True := by
  have hslice : TaskIs (s.sliceAnew k.num) n fun _ => True := sliceAnew_task h fun _ _ _ => trivial
  have hsched := gangResumeTask_sched s k
  split at hsched
  · exact (taskIs_of_sched hsched).2 (taskIs_toState hslice (fun _ _ h => h) fun _ _ _ => trivial)
  · exact (taskIs_of_sched hsched).2 hslice

theorem gangResumeTask_keeps {s : State} {n : Nat} (k : Task) (h : TaskIs s n (RunsFrom s.clock.ptpNs)) :
    TaskIs (s.gangResumeTask k) n (RunsFrom s.clock.ptpNs) := by
  have hslice : TaskIs (s.sliceAnew k.num) n (RunsFrom s.clock.ptpNs) := sliceAnew_task h fun _ x hx => ⟨hx.1, rfl⟩
  have hsched := gangResumeTask_sched s k
  split at hsched
  · exact (taskIs_of_sched hsched).2 (taskIs_toState hslice (fun _ _ h => h) fun _ x hx => ⟨rfl, hx.2⟩)
  · exact (taskIs_of_sched hsched).2 hslice

theorem gangResumeTask_wakes {s : State} {k : Task} (hw : k.wakesAtRelease = true) (h : TaskIs s k.num fun _ => True) :
    TaskIs (s.gangResumeTask k) k.num (RunsFrom s.clock.ptpNs) := by
  obtain ⟨x, hx, -⟩ := h
  have hslice : TaskIs (s.sliceAnew k.num) k.num fun x => x.sliceFrom = s.clock.ptpNs := taskIs_modTask hx rfl
  have hsched := gangResumeTask_sched s k
  rw [if_pos hw] at hsched
  exact (taskIs_of_sched hsched).2 (taskIs_toState hslice (fun hne => absurd rfl hne) fun _ x hx => ⟨rfl, hx⟩)

/-! ### A gang's resumption (R232) -/

/-- A release taken, and its gang no longer held. -/
def State.dropHold (s : State) (gid : BitVec 32) : State :=
  { s with obs := { s.obs with gangRelease := tdel s.obs.gangRelease gid.toNat, gangFrozen := nsDel s.obs.gangFrozen gid.toNat } }

/-- The tasks of a gang resumed one after another. -/
def State.resumeGang (s : State) (ks : List Task) : State := ks.foldl State.gangResumeTask s

theorem resumeGang_leaves (s : State) (ks : List Task) :
    (s.resumeGang ks).mem = s.mem ∧ (s.resumeGang ks).obs = s.obs ∧ (s.resumeGang ks).clock = s.clock :=
  ⟨foldl_same State.mem (fun u k => (gangResumeTask_leaves u k).1) ks s, foldl_same State.obs (fun u k => (gangResumeTask_leaves u k).2.1) ks s,
    foldl_same State.clock (fun u k => (gangResumeTask_leaves u k).2.2) ks s⟩

theorem resumeGang_task {s : State} {ks : List Task} {k : Task} (hk : k ∈ ks) (hw : k.wakesAtRelease = true) (h : TaskIs s k.num fun _ => True) :
    TaskIs (s.resumeGang ks) k.num (RunsFrom s.clock.ptpNs) := by
  refine foldl_reaches (I := fun u : State => u.clock = s.clock ∧ TaskIs u k.num fun _ => True)
    (P := fun u : State => TaskIs u k.num (RunsFrom s.clock.ptpNs)) hk
    (fun u x hu => ⟨(gangResumeTask_leaves u x).2.2.trans hu.1, gangResumeTask_exists x hu.2⟩) (fun u x hu hP => ?_) (fun u hu => ?_) ⟨rfl, h⟩
  · rw [← hu.1] at hP ⊢
    exact gangResumeTask_keeps x hP
  · rw [← hu.1]
    exact gangResumeTask_wakes hw hu.2

theorem resumeGang_placements {s : State} {ks : List Task} {k : Task} (hk : k ∈ ks) (hw : k.wakesAtRelease = true) :
    (s.resumeGang ks).EachPlacement k.num fun p => p.frozen = false := by
  refine foldl_reaches (I := fun _ => True) (P := fun u : State => u.EachPlacement k.num fun p => p.frozen = false) hk
    (fun _ _ _ => trivial) (fun u x _ h => ?_) (fun u _ => ?_) trivial
  · have hpl := gangResumeTask_placements u x
    split at hpl
    · exact h.map hpl (thawFor_task _) fun p _ hp => thawFor_frozen (.inr hp)
    · exact h.congr hpl
  · have hpl := gangResumeTask_placements u k
    rw [if_pos hw] at hpl
    exact State.EachPlacement.map (P := fun _ => True) (fun _ _ _ => trivial) hpl (thawFor_task _) fun p hp _ => thawFor_frozen (.inl hp)

theorem resumeGang_colls {s : State} {ks : List Task} {k : Task} (hk : k ∈ ks) (hw : k.wakesAtRelease = true) :
    (s.resumeGang ks).EachColl k.num fun c => c.heldFor = none := by
  refine foldl_reaches (I := fun _ => True) (P := fun u : State => u.EachColl k.num fun c => c.heldFor = none) hk
    (fun _ _ _ => trivial) (fun u x _ h => ?_) (fun u _ => ?_) trivial
  · have hcolls := gangResumeTask_colls u x
    split at hcolls
    · exact h.map hcolls (Coll.resumeAt_op _ _) fun c _ hc => Coll.resumeAt_heldFor _ _ c (.inr hc)
    · exact fun c hc hn => h c (hcolls ▸ hc) hn
  · have hcolls := gangResumeTask_colls u k
    rw [if_pos (.inl hw)] at hcolls
    exact State.EachColl.map (P := fun _ => True) (fun _ _ _ => trivial) hcolls (Coll.resumeAt_op _ _) fun c hc _ => Coll.resumeAt_heldFor _ _ c (.inl hc)

/-! ### A gang's slice begins (R105) -/

theorem reenter_sched (s : State) (k : Task) :
    (s.reenter k).sched = (s.modTask k.num (fun x => { x with st := .reswait, stateSince := s.clock.ns, walk := 0 })).sched := by
  rw [State.reenter]
  split
  · rfl
  · exact foldl_same State.sched (fun u op => by simp) _ _

theorem sliceStart_admit {s : State} {k : Task} {g : Gang} (hk : Named s k) (hg : k.gang = some g) (hopen : s.sliceOpens k g = true)
    (hst : k.st = .admitwait) (hquota : k.quota = true) : exec .sliceStart s = .next ((s.sliceAnew k.num).toState k.num .fretwait) := by
  obtain ⟨hsub, htask⟩ := hk
  rw [exec_sliceStart, execSliceStart, hsub, htask]
  simp only [hg, hopen, hst, hquota, Bool.not_true, Bool.false_eq_true, if_false]
  exact event_next rfl

theorem sliceStart_saved {s : State} {k : Task} {g : Gang} (hk : Named s k) (hg : k.gang = some g) (hopen : s.sliceOpens k g = true)
    (hst : k.st = .saved) : exec .sliceStart s = .next ((s.sliceAnew k.num).reenter { k with sliceFrom := s.clock.ptpNs }) := by
  obtain ⟨hsub, htask⟩ := hk
  rw [exec_sliceStart, execSliceStart, hsub, htask]
  simp only [hg, hopen, hst, Bool.not_true, Bool.false_eq_true, if_false]
  rfl

theorem sliceEnd_next {s : State} {k : Task} {g : Gang} (hk : Named s k) (hg : k.gang = some g) (hst : k.st = .running) (hend : k.ending = false)
    (hvictim : k.victim = none) (hheld : s.gangHeld g = false) (hdue : g.nextEnd k.sliceFrom ≤ s.clock.ptpNs) :
    exec .sliceEnd s = .next (s.modTask k.num fun k => { k with victim := some ⟨.checkpoint, s.clock.ns, 0⟩ }) := by
  obtain ⟨hsub, htask⟩ := hk
  rw [exec_sliceEnd, execSliceEnd, hsub, htask]
  simp only [hg]
  exact event_next (by simp [hst, hend, hvictim, hheld, hdue])

/-- Settles O37: a freeze and a release go through the gang's tasks one after another, and none undoes what another did. -/
theorem sliceAndGangEvents : Obligations.SliceAndGangEvents := by
  unfold Obligations.SliceAndGangEvents
  intro s freezes
  have hfreezes : ∀ gid, freezes gid (s.gangFreeze gid) := by
    refine fun gid => ⟨nsHas_nsAdd_same _ _, tget_tdel_same _ _, fun k hk hlive hgid => ?_⟩
    have hmem := mem_gangTasks hk hlive hgid
    refine ⟨gangFreeze_colls hmem, fun hst hend hfr => ?_⟩
    have hstops : k.stopsAtFreeze = true := by simp [Task.stopsAtFreeze, hst, hend, hfr]
    exact ⟨gangFreeze_task hmem hk hstops, eachPlacement_iff.1 (gangFreeze_placements hmem hstops)⟩
  refine ⟨fun k g hk hg hopen hst hquota => ?_, fun k g hk hg hopen hst => ?_, fun k g hk hg hst hend hvictim hheld hdue => ?_,
    fun gid at' hdata hfar => ?_, fun gid at' hdata hnear => ?_, fun gid at' hhold hcome => ?_, fun gid at' hdata => ?_,
    fun gid at' hrel hcome hown => ?_, fun gid at' hrel hcome hown => ?_⟩
  · refine ⟨_, sliceStart_admit hk hg hopen hst hquota, ?_, rfl⟩
    have hslice : TaskIs (s.sliceAnew k.num) k.num fun x => x.sliceFrom = s.clock.ptpNs := taskIs_modTask hk.2 rfl
    exact taskIs_toState hslice (fun hne => absurd rfl hne) fun _ x hx => ⟨rfl, hx⟩
  · refine ⟨_, sliceStart_saved hk hg hopen hst, ?_, fun himage => ?_⟩
    · exact (taskIs_of_sched (reenter_sched _ _)).2 (taskIs_modTask (k := { k with sliceFrom := s.clock.ptpNs })
        (by rw [State.sliceAnew, State.task?_modTask_same, hk.2]; rfl) ⟨rfl, rfl, rfl⟩)
    · rw [State.reenter]
      dsimp only
      rw [himage]
      rfl
  · exact ⟨_, sliceEnd_next hk hg hst hend hvictim hheld hdue, taskIs_modTask hk.2 rfl, rfl⟩
  · refine ⟨_, event_next hdata, ?_⟩
    rw [if_neg (by omega)]
    exact ⟨tget_tput_same _ _ _, rfl, rfl⟩
  · refine ⟨_, event_next hdata, ?_⟩
    rw [if_pos hnear]
    exact hfreezes gid
  · refine ⟨s.gangFreeze gid, ?_, hfreezes gid⟩
    rw [exec_gangFreezeInstant, execGangFreezeInstant, hhold]
    exact event_next (by simpa using hcome)
  · exact ⟨_, event_next hdata, tget_tput_same _ _ _, rfl, rfl⟩
  · rw [exec_gangResumeInstant, execGangResumeInstant, hrel]
    refine ⟨_, event_next (by simpa using hcome), ?_⟩
    rw [if_pos hown]
    exact ⟨tget_tdel_same _ _, rfl, rfl, rfl⟩
  · rw [exec_gangResumeInstant, execGangResumeInstant, hrel]
    refine ⟨_, event_next (by simpa using hcome), ?_⟩
    rw [if_neg (by simp [hown])]
    obtain ⟨hmem, hobs, -⟩ := resumeGang_leaves (s.dropHold gid) (s.gangTasks gid)
    refine ⟨(congrArg (fun o : Obs => nsHas o.gangFrozen gid.toNat) hobs).trans (nsHas_nsDel_same _ _),
      (congrArg (fun o : Obs => tget o.gangRelease gid.toNat) hobs).trans (tget_tdel_same _ _), hmem, fun k hk hgid hst hfault hend => ?_⟩
    have hks : k ∈ s.gangTasks gid := mem_gangTasks hk (by rw [hst]; rfl) hgid
    have hw : k.wakesAtRelease = true := by simp [Task.wakesAtRelease, hst, hfault, hend]
    exact ⟨resumeGang_task hks hw ⟨k, hk, trivial⟩, eachPlacement_iff.1 (resumeGang_placements hks hw), resumeGang_colls hks hw⟩

end Sys2Proof.Machine
end


section
/-!
PROOFS. The window of a reconfiguration (R137 to R139): obligation O38.
-/
namespace Sys2Proof.Machine

theorem fret_setFret_same (s : State) (pf : Nat) (f : Fret) : (s.setFret pf f).fret pf = f := by
  rw [fret_setFret, if_pos rfl]

theorem fret_setFret_ne {s : State} {pf q : Nat} {f : Fret} (h : q ≠ pf) : (s.setFret pf f).fret q = s.fret q := by
  rw [fret_setFret, if_neg h]

theorem advanceTask_of_none {s : State} {task : Nat} (h : ∀ r ∈ s.fab.recfgs, r.task ≠ task) : s.advanceTask task = s := by
  rw [State.advanceTask, List.find?_eq_none.2 fun r hr => by simpa using h r hr]

/-- What all that a rewrite waits for comes to (R137, step 5). -/
theorem rewriteDue_of {s : State} {pf : Nat} {w : Window} (hopen : w.opened = true) (hmark : w.markers = [])
    (hreply : s.awaitsReply pf (fun g => g ≠ (s.fret pf).gen) = false) (hold : s.oldReady pf w = false ∨ s.faultFrozen w = true) :
    s.rewriteDue pf w = true := by
  rw [State.rewriteDue, hopen, hmark, hreply]
  rcases hold with h | h <;> simp [h]

/-- Settles O38. -/
theorem reconfigurationEvents : Obligations.ReconfigurationEvents := by
  unfold Obligations.ReconfigurationEvents
  intro s w pf fr
  refine ⟨fun p hcyc hwin hp hclosed htask hidx => ?_, fun pf cluster hcyc hwin hopen hmark htaken hnet => ?_,
    fun hcyc hwin hready hopen hmark hreply hold hrec => ?_, fun hwin hst hdue => ?_⟩
  · rw [exec_reconfigurationToken, execReconfigurationToken, inCycle_next hcyc, hwin]
    simp only [hp, hclosed, Bool.false_eq_true, if_false]
    refine ⟨_, rfl, congrArg Fret.gen (fret_setFret_same s pf _), congrArg Fret.window (fret_setFret_same s pf _), ?_, rfl, rfl⟩
    rw [State.placement?, State.setPlacement]
    dsimp only
    rw [htask, hidx, tget_tput_same]
    cases hg : (s.fret pf).gen <;> simp [fr, hg]
  · rw [exec_flushMarkerArrival, execFlushMarkerArrival, inCycle_next hcyc, hwin]
    dsimp only
    rw [if_pos ?_]
    · exact ⟨_, rfl, congrArg Fret.window (fret_setFret_same s pf _), fun q hq => fret_setFret_ne hq, rfl, rfl⟩
    · have hall : (s.placement? w.task w.pl).all (fun p => p.mapTaken w.fret cluster s.clock.cycle) = true := by
        cases hp : s.placement? w.task w.pl with
        | none => rfl
        | some p => exact htaken p hp
      have hany : ∀ x ∈ s.fab.net, ¬ (x.src = cluster ∧ x.pf = pf) := fun x hx h => hnet x hx h.1 h.2
      simp only [hopen, hmark, hall, Bool.true_and, Bool.not_eq_true', List.any_eq_false]
      exact fun x hx h => hany x hx (by simp at h; exact h.1.1)
  · rw [exec_reconfigRewriteComplete, execReconfigRewriteComplete, inCycle_next hcyc, hwin]
    dsimp only
    rw [if_pos (by simp only [hready, Bool.true_and]; exact rewriteDue_of hopen hmark hreply hold), advanceTask_of_none (by exact hrec)]
    have hfret := fret_setFret_same (s.modPlacement w.task w.pl fun p => { p with regen := tdel p.regen w.fret }) s.subject
    exact ⟨_, rfl, (congrArg (fun f => tget (Fret.slots f) _) (hfret _)).trans (tget_tput_same _ _ _), congrArg Fret.window (hfret _),
      congrArg Fret.rewrote (hfret _), rfl, rfl⟩
  · rw [exec_reconfigScrubExpiry, execReconfigScrubExpiry, hwin]
    exact ⟨_, event_next (by
      change (decide (fr.st = .scrub) && _) = true
      rcases hdue with h | h <;> simp [hst, h, pf]), congrArg Fret.window (fret_setFret_same s pf _), fun q hq => fret_setFret_ne hq, rfl, rfl⟩

end Sys2Proof.Machine
end


section
/-!
PROOFS. Tokens sent into the network (R110): what `sendAll` adds to it.
-/
namespace Sys2Proof.Machine

theorem netSend_net (s : State) (t : NetTok) :
    s.netSend t = { s with fab := { s.fab with net := s.fab.net ++ [t], evc := (s.netSend t).fab.evc } } := by
  rw [State.netSend]
  dsimp only
  split <;> rfl

/-- The tokens of a result, with the flags that travel with them. -/
def flaggedToks (p : Placement) (pf tag wave : Nat) (data : Word) (now : Nat) (ds : List Dest) (fl : Flags) : List NetTok :=
  (sentToks p pf tag wave data now ds).map (fun x => { x with flags := fl })

theorem flaggedToks_none (p : Placement) (pf tag wave : Nat) (data : Word) (now : Nat) (ds : List Dest) :
    flaggedToks p pf tag wave data now ds Flags.none = sentToks p pf tag wave data now ds := by
  simp only [flaggedToks, sentToks, List.map_map]
  rfl

theorem sentToks_cons (p : Placement) (pf tag wave : Nat) (data : Word) (now : Nat) (d : Dest) (ds : List Dest) :
    sentToks p pf tag wave data now (d :: ds) = sentToks p pf tag wave data now [d] ++ sentToks p pf tag wave data now ds := by
  by_cases h : d.port = .sink <;> simp [sentToks, h]

/-- A token sent from a placement of which no fret is moving joins the network; the bridges that it crosses are counted. -/
theorem sendFrom_net {s : State} {p : Placement} {task pl : Nat} (hp : s.placement? task pl = some p) (hmov : p.moving = []) (pf tag wave : Nat)
    (data : Word) (d : Dest) (fl : Flags) :
    s.sendFrom pf task pl tag wave data d fl = { s with fab := { s.fab with
      net := s.fab.net ++ flaggedToks p pf tag wave data s.clock.cycle [d] fl, evc := (s.sendFrom pf task pl tag wave data d fl).fab.evc } } := by
  have hstay : nsHas p.moving d.fret.toNat = false := by
    rw [hmov]
    rfl
  rw [State.sendFrom]
  by_cases hsink : d.port = .sink
  · simp [flaggedToks, sentToks, hsink]
  · simp only [hsink, if_false, hp, hstay, Bool.false_eq_true]
    rw [netSend_net]
    simp [flaggedToks, sentToks, hsink]

/-- What sending to several destinations adds to the network, and that nothing else but the event counters changes. -/
theorem sendAll_net {s : State} {p : Placement} {task pl : Nat} (hp : s.placement? task pl = some p) (hmov : p.moving = []) (pf tag wave : Nat)
    (data : Word) (ds : List Dest) (fl : Flags) :
    s.sendAll pf task pl tag wave data ds fl = { s with fab := { s.fab with
      net := s.fab.net ++ flaggedToks p pf tag wave data s.clock.cycle ds fl, evc := (s.sendAll pf task pl tag wave data ds fl).fab.evc } } := by
  rw [State.sendAll]
  induction ds generalizing s with
  | nil => simp [flaggedToks, sentToks]
  | cons d ds ih =>
    have hone := sendFrom_net hp hmov pf tag wave data d fl
    generalize hu : s.sendFrom pf task pl tag wave data d fl = u at hone
    have hpu : u.placement? task pl = some p := by
      rw [hone]
      exact hp
    have hmany := ih hpu
    have hclock : u.clock = s.clock := by rw [hone]
    have hnet : u.fab.net = s.fab.net ++ flaggedToks p pf tag wave data s.clock.cycle [d] fl := by rw [hone]
    rw [List.foldl_cons, hu]
    generalize ds.foldl (fun s d => s.sendFrom pf task pl tag wave data d fl) u = v at hmany ⊢
    rw [hmany, hclock, hnet, List.append_assoc]
    rw [flaggedToks, flaggedToks, flaggedToks, ← List.map_append, ← sentToks_cons, hone]

end Sys2Proof.Machine
end


section
/-!
PROOFS. Tokens and threads (R74, R110, R115, R116, R120, R121, R282, R283): obligation O39.
-/
namespace Sys2Proof.Machine

/-! ### Frozen cycles (R26) -/

theorem inCycle_frozen {s : State} {mn : String} {o : Out} (h : s.frozenNow = true) : s.inCycle mn o = .refused (.notEnabled mn) := by
  rw [State.inCycle, h]
  rfl

/-- The instructions that happen in a cluster's cycle. -/
theorem refused_of_frozen {s : State} (h : s.frozenNow = true) (task pl : Nat) (tag : Tag) (own : BitVec 6) :
    ∀ i ∈ [Instr.tokenArrival, .tagUnitSpawn task pl, .workItemIssue task pl, .endtTagReturn task pl tag, .chainOperationArrival, .wobEntryAdmit,
      .waveCommit task pl tag, .earlyReadPerform task pl tag own, .readReply, .storeAck, .heldOperationIssue task pl tag, .invalidationReceive,
      .forwardRecallReceive, .barrierRequestServe, .reconfigurationToken, .reconfigRewriteComplete], ∃ r, exec i s = .refused r := by
  simp only [List.forall_mem_cons, List.not_mem_nil, IsEmpty.forall_iff, implies_true, and_true]
  exact ⟨⟨_, inCycle_frozen h⟩, ⟨_, inCycle_frozen h⟩, ⟨_, inCycle_frozen h⟩, ⟨_, inCycle_frozen h⟩, ⟨_, inCycle_frozen h⟩, ⟨_, inCycle_frozen h⟩,
    ⟨_, inCycle_frozen h⟩, ⟨_, inCycle_frozen h⟩, ⟨_, inCycle_frozen h⟩, ⟨_, inCycle_frozen h⟩, ⟨_, inCycle_frozen h⟩, ⟨_, inCycle_frozen h⟩,
    ⟨_, inCycle_frozen h⟩, ⟨_, inCycle_frozen h⟩, ⟨_, inCycle_frozen h⟩, ⟨_, inCycle_frozen h⟩⟩

/-! ### An arriving token (R110, R115, R116, R138) -/

section
variable {s : State} {t : NetTok}

theorem arrivingTok_of (hnet : s.fab.net[s.subject]? = some t) (hdue : t.earliest ≤ s.clock.cycle)
    (hfirst : ∀ x ∈ s.fab.net.take s.subject, ¬(x.src = t.src ∧ x.pf = t.pf ∧ x.pelem = t.pelem)) : s.arrivingTok s.subject = some t := by
  rw [State.arrivingTok, hnet]
  have hany : (s.fab.net.take s.subject).any (fun x => decide (x.src = t.src) && decide (x.pf = t.pf) && decide (x.pelem = t.pelem)) = false :=
    List.any_eq_false.2 fun x hx h => hfirst x hx (by simpa [and_assoc] using h)
  simp only [hdue, hany, decide_true, Bool.not_false, Bool.and_true, if_true]

/-- An arriving token that is not accepted is gone, its flags with its placement. -/
theorem tokenArrival_drops (hcyc : s.frozenNow = false) (harr : s.arrivingTok s.subject = some t) (hno : (s.fret t.pf).accepts t.gen = false) :
    exec .tokenArrival s = .next ((s.dropTok s.subject).setFlags t.task t.pl t.flags) := by
  rw [exec_tokenArrival, execTokenArrival, inCycle_next hcyc, harr]
  simp only [hno, Bool.not_false, if_true]

variable {p : Placement}

/-- Whether another operand of the token's instances lies in the matching partition. -/
def State.probes (s : State) (t : NetTok) : Bool := (s.elem t.pf t.pelem).entries.any (fun e => e.spilled && e.slot = t.slot)

/-- The entry that an arriving token asks room for. -/
def State.entryOf (s : State) (t : NetTok) : Entry := Entry.ofTok t (s.clock.cycle - 1) s.seqCtr false

/-- What becomes of an arriving token of a placement. -/
def State.arrivalOf (s : State) (t : NetTok) (p : Placement) : Arrival :=
  (s.fret t.pf).arrival p t.pf t.velem t.pelem (s.partition t.task) (s.entryOf t)

/-- The state with an accepted token's flags with its placement, and its probe of the partition counted. -/
def State.noteTok (s : State) (t : NetTok) : State := (if s.probes t then s.countSpill t 0x05 1 else s).setFlags t.task t.pl t.flags

theorem noteTok_eq (s : State) (t : NetTok) : s.noteTok t = { s with fab := { s.fab with
    evc := (s.noteTok t).fab.evc, placements := tmod s.fab.placements (plKey t.task t.pl) fun q => { q with flags := q.flags.or t.flags } } } := by
  rw [State.noteTok]
  split <;> rfl

theorem tokenArrival_accepted (hcyc : s.frozenNow = false) (harr : s.arrivingTok s.subject = some t) (hgen : t.gen = (s.fret t.pf).gen)
    (hp : s.placement? t.task t.pl = some p) :
    exec .tokenArrival s = match s.arrivalOf t p with
      | .waits => .next s
      | .overflow e => if p.charged e.tag then .next s else .next (s.findFault (s.storeFault t e) t.task)
      | a => .next (((s.noteTok t).dropTok (s.noteTok t).subject).storeTok t (s.probes t) a) := by
  have hacc : (s.fret t.pf).accepts t.gen = true := by simp [Fret.accepts, hgen]
  rw [exec_tokenArrival, execTokenArrival, inCycle_next hcyc, harr]
  simp only [hacc, Bool.not_true, Bool.false_eq_true, if_false, hp]
  rfl

/-- A token that leaves the network leaves its flags with its placement. -/
def State.TokGone (s : State) (t : NetTok) (u : State) : Prop := u.fab.net = dropAt s.fab.net s.subject ∧ u.mem = s.mem ∧ u.sched = s.sched ∧
  ∀ q, s.placement? t.task t.pl = some q → u.placement? t.task t.pl = some { q with flags := q.flags.or t.flags }

theorem tokGone_of {u : State} (hnet : u.fab.net = dropAt s.fab.net s.subject) (hmem : u.mem = s.mem) (hsched : u.sched = s.sched)
    (hpl : u.fab.placements = tmod s.fab.placements (plKey t.task t.pl) fun q => { q with flags := q.flags.or t.flags }) : s.TokGone t u := by
  refine ⟨hnet, hmem, hsched, fun q hq => ?_⟩
  rw [State.placement?, hpl, tget_tmod_same, ← State.placement?, hq]
  rfl

theorem storeTok_gone (a : Arrival) : s.TokGone t (((s.noteTok t).dropTok (s.noteTok t).subject).storeTok t (s.probes t) a) := by
  rw [noteTok_eq]
  cases a <;> exact tokGone_of rfl rfl rfl rfl

/-- What an arrival makes of the entries that stand in its element. -/
def Arrival.leaves (a : Arrival) (es : List Entry) : List Entry := match a with
  | .spills seq => es.map (fun e => if e.seq = seq then { e with spilled := true } else e)
  | _ => es

/-- The entries of the token's element once it is placed. -/
theorem storeTok_elem (a : Arrival) :
    (((s.noteTok t).dropTok (s.noteTok t).subject).storeTok t (s.probes t) a).elem t.pf t.pelem =
      { s.elem t.pf t.pelem with entries := a.leaves (s.elem t.pf t.pelem).entries ++ [Entry.ofTok t (s.clock.cycle - 1 + a.cycles (s.probes t)) s.seqCtr (decide (a = .spilled))] } := by
  have helem : ((s.noteTok t).dropTok (s.noteTok t).subject).elem t.pf t.pelem = s.elem t.pf t.pelem := by rw [noteTok_eq]; rfl
  have hclock : ((s.noteTok t).dropTok (s.noteTok t).subject).clock = s.clock := by rw [noteTok_eq]; rfl
  have hseq : ((s.noteTok t).dropTok (s.noteTok t).subject).seqCtr = s.seqCtr := by rw [noteTok_eq]; rfl
  generalize (s.noteTok t).dropTok (s.noteTok t).subject = u at helem hclock hseq
  have hput : ∀ (v : State) (x : Entry), (v.bump.modElem t.pf t.pelem (fun e => { e with entries := e.entries ++ [x] })).elem t.pf t.pelem =
      { v.elem t.pf t.pelem with entries := (v.elem t.pf t.pelem).entries ++ [x] } := fun v x => by
    rw [State.elem_modElem, if_pos ⟨rfl, rfl⟩]
    rfl
  have hmark : ∀ g : Elem → Elem, (u.modElem t.pf t.pelem g).elem t.pf t.pelem = g (u.elem t.pf t.pelem) := fun g => by
    rw [State.elem_modElem, if_pos ⟨rfl, rfl⟩]
  cases a with
  | spills seq => exact (hput _ _).trans (by rw [hmark, helem, hclock, hseq]; rfl)
  | spilled => exact (hput _ _).trans (by rw [helem, hclock, hseq]; rfl)
  | enters | overflow | waits => exact (hput _ _).trans (by rw [helem, hclock, hseq]; rfl)

/-! ### Which entry is spilled (R115) -/

theorem minBy_eq_none {α : Type} {key : α → Nat} {l : List α} (h : minBy key l = none) : l = [] := by
  cases l with
  | nil => rfl
  | cons x l =>
    rw [minBy] at h
    split at h
    · cases h
    · split at h <;> cases h

/-- The element whose key lies below every other's. -/
theorem minBy_of_least {α : Type} {key : α → Nat} {l : List α} {v : α} (hv : v ∈ l) (hleast : ∀ e ∈ l, e ≠ v → key v < key e) : minBy key l = some v := by
  cases hmin : minBy key l with
  | none => rw [minBy_eq_none hmin] at hv; cases hv
  | some x =>
    obtain ⟨hx, hle⟩ := minBy_spec key hmin
    by_cases h : x = v
    · rw [h]
    · exact absurd (hle v hv) (Nat.not_le.2 (hleast x hx h))

theorem waveDist_lt (w o : Nat) : waveDist w o < 2 ^ 24 := Nat.mod_lt _ (by decide)

/-- The entries that a full store may spill as a token comes (R115). -/
def Fret.spillable (f : Fret) (p : Placement) (pf velem : Nat) (es : List Entry) (x e : Entry) : Prop :=
  e ∈ es ∧ e.spilled = false ∧ ¬(f.whole p pf velem (es ++ [x]) x = true ∧ e.mate x = true) ∧ f.whole p pf velem es e = false

theorem spillVictim_some {f : Fret} {pf velem : Nat} {es : List Entry} {x v : Entry} (hseq : ∀ e ∈ es, e.seq < 2 ^ 64)
    (hv : f.spillable p pf velem es x v)
    (hmax : ∀ e, f.spillable p pf velem es x e → e ≠ v → waveDist e.wave (p.oldest e.tag) < waveDist v.wave (p.oldest v.tag) ∨
      (waveDist e.wave (p.oldest e.tag) = waveDist v.wave (p.oldest v.tag) ∧ e.seq < v.seq)) :
    spillVictim f p pf velem es x (f.whole p pf velem (es ++ [x]) x) = some v := by
  have hiff : ∀ e, e ∈ es.filter (fun e => !e.spilled && !(f.whole p pf velem (es ++ [x]) x && e.mate x) && !f.whole p pf velem es e) ↔
      f.spillable p pf velem es x e := fun e => by
    cases hc : f.whole p pf velem (es ++ [x]) x <;> simp [Fret.spillable, hc, and_assoc]
  refine minBy_of_least ((hiff v).2 hv) fun e he hne => ?_
  have hbound := waveDist_lt v.wave (p.oldest v.tag)
  have hes := hseq e ((hiff e).1 he).1
  rcases hmax e ((hiff e).1 he) hne with h | ⟨h, h'⟩ <;> omega

theorem spillVictim_none {f : Fret} {pf velem : Nat} {es : List Entry} {x : Entry} (h : ∀ e, ¬ f.spillable p pf velem es x e) :
    spillVictim f p pf velem es x (f.whole p pf velem (es ++ [x]) x) = none := by
  have hnil : es.filter (fun e => !e.spilled && !(f.whole p pf velem (es ++ [x]) x && e.mate x) && !f.whole p pf velem es e) = [] :=
    List.filter_eq_nil_iff.2 fun e he hk => h e (by cases hc : f.whole p pf velem (es ++ [x]) x <;> simpa [Fret.spillable, hc, he, and_assoc] using hk)
  rw [spillVictim, hnil]
  rfl

/-! ### A spill that finds no room (R116, R133) -/

theorem storeFault_findFault {e : Entry} {th : Thread} {k : Task} (hp : s.placement? t.task t.pl = some p) (hth : p.thread? e.tag = some th)
    (hstop : th.stopped = false) (hnone : th.faults = []) (hk : s.task? t.task = some k) :
    let u := s.findFault (s.storeFault t e) t.task
    u.fab.net = s.fab.net ∧ u.mem = s.mem ∧ ∃ q, u.placement? t.task t.pl = some q ∧ q.queue = p.queue ∧
      (e.wave = th.oldest ∨ waveCommitted e.wave th.oldest = true →
        q.thread? e.tag = some { th with stopped := true } ∧ q.wob = p.wob.filter (fun o => o.tag ≠ e.tag) ∧
        TaskIs u t.task (fun k' => ∃ r at', k' = { k with nfault := min 0x10000 (k.nfault + 1), reports := k.reports ++ [(r, at')] } ∧
          r.code = .matchovf ∧ r.kind = .notTied ∧ r.tag = e.tag ∧ r.wave = e.wave)) ∧
      (¬(e.wave = th.oldest ∨ waveCommitted e.wave th.oldest = true) → q.wob = p.wob ∧
        ∃ r, q.thread? e.tag = some { th with faults := [r] } ∧ r.code = .matchovf ∧ r.kind = .notTied ∧ r.tag = e.tag ∧ r.wave = e.wave) := by
  intro u
  have hlands : faultLands th.oldest (s.storeFault t e) = true ↔ e.wave = th.oldest ∨ waveCommitted e.wave th.oldest = true := by
    simp [faultLands, State.storeFault]
  cases hf : faultLands th.oldest (s.storeFault t e)
  · have hyoung : ¬(e.wave = th.oldest ∨ waveCommitted e.wave th.oldest = true) := fun h => by simp [hlands.2 h] at hf
    obtain ⟨⟨q, hq, hqt, hqp⟩, -, hu⟩ := findFault_waits (f := s.storeFault t e) hp hth hnone hstop hk hf
    refine ⟨(congrArg (fun v : State => v.fab.net) hu).trans rfl, (congrArg State.mem hu).trans rfl, q, hq, (congrArg Placement.queue hqp).trans rfl, fun h => absurd h hyoung,
      fun _ => ⟨(congrArg Placement.wob hqp).trans rfl, _, hqt, rfl, rfl, rfl, rfl⟩⟩
  · obtain ⟨⟨q, hq, hqt, hqw, hqp⟩, ⟨r, at', hr, hrec⟩, hu⟩ := findFault_lands (f := s.storeFault t e) hp hth hnone hstop hk hf
    have hthread : ({ th with stopped := true, faults := [] } : Thread) = { th with stopped := true } := by rw [hnone]
    refine ⟨(congrArg (fun v : State => v.fab.net) hu).trans rfl, (congrArg State.mem hu).trans rfl, q, hq, (congrArg Placement.queue hqp).trans rfl,
      fun _ => ⟨hqt.trans (congrArg some hthread), hqw, _, hr, r, at', rfl, ?_⟩, fun h => absurd (hlands.1 hf) h⟩
    exact ⟨(congrArg FaultRec.code hrec).trans rfl, (congrArg FaultRec.kind hrec).trans rfl, (congrArg FaultRec.tag hrec).trans rfl,
      (congrArg FaultRec.wave hrec).trans rfl⟩

/-! ### The token unit's clauses assembled (R115) -/

theorem tokenArrival_placed {a : Arrival} (hcyc : s.frozenNow = false) (harr : s.arrivingTok s.subject = some t) (hgen : t.gen = (s.fret t.pf).gen)
    (hp : s.placement? t.task t.pl = some p) (ha : s.arrivalOf t p = a) (hw : a ≠ .waits) (ho : ∀ e, a ≠ .overflow e) :
    ∃ u, exec .tokenArrival s = .next u ∧ s.TokGone t u ∧ u.elem t.pf t.pelem = { s.elem t.pf t.pelem with entries := a.leaves (s.elem t.pf t.pelem).entries ++ [Entry.ofTok t (s.clock.cycle - 1 + a.cycles (s.probes t)) s.seqCtr (decide (a = .spilled))] } := by
  refine ⟨_, ?_, storeTok_gone a, storeTok_elem a⟩
  rw [tokenArrival_accepted hcyc harr hgen hp, ha]
  cases a with
  | waits => exact absurd rfl hw
  | overflow e => exact absurd rfl (ho e)
  | enters | spills | spilled => rfl

theorem tokenArrival_overflows {e : Entry} (hcyc : s.frozenNow = false) (harr : s.arrivingTok s.subject = some t) (hgen : t.gen = (s.fret t.pf).gen)
    (hp : s.placement? t.task t.pl = some p) (ha : s.arrivalOf t p = .overflow e) :
    exec .tokenArrival s = if p.charged e.tag then .next s else .next (s.findFault (s.storeFault t e) t.task) := by
  rw [tokenArrival_accepted hcyc harr hgen hp, ha]

theorem tokenArrival_waits (hcyc : s.frozenNow = false) (harr : s.arrivingTok s.subject = some t) (hgen : t.gen = (s.fret t.pf).gen)
    (hp : s.placement? t.task t.pl = some p) (ha : s.arrivalOf t p = .waits) : exec .tokenArrival s = .next s := by
  rw [tokenArrival_accepted hcyc harr hgen hp, ha]

theorem not_charged {th : Thread} {tag : Nat} (hth : p.thread? tag = some th) (hstop : th.stopped = false) (hnone : th.faults = []) :
    p.charged tag = false := by
  simp [Placement.charged, hth, hstop, hnone]

theorem arrivalOf_enters (h : ((s.elem t.pf t.pelem).entries.filter (fun e => !e.spilled)).length < 64) : s.arrivalOf t p = .enters := if_pos h

/-- The entry that a full store spills as the token comes, if there is one. -/
def State.victimOf (s : State) (t : NetTok) (p : Placement) : Option Entry :=
  let es := (s.elem t.pf t.pelem).entries
  spillVictim (s.fret t.pf) p t.pf t.velem es (s.entryOf t) ((s.fret t.pf).whole p t.pf t.velem (es ++ [s.entryOf t]) (s.entryOf t))

theorem arrivalOf_victim {v : Entry} (hfull : 64 ≤ ((s.elem t.pf t.pelem).entries.filter (fun e => !e.spilled)).length) (hv : s.victimOf t p = some v) :
    s.arrivalOf t p = if (s.fret t.pf).spilled < s.partition t.task then .spills v.seq else .overflow v := by
  refine (if_neg (Nat.not_lt.2 hfull)).trans ?_
  rw [State.victimOf, State.elem] at hv
  rw [hv]

theorem arrivalOf_no_victim (hfull : 64 ≤ ((s.elem t.pf t.pelem).entries.filter (fun e => !e.spilled)).length) (hv : s.victimOf t p = none) :
    s.arrivalOf t p = if (s.fret t.pf).whole p t.pf t.velem ((s.elem t.pf t.pelem).entries ++ [s.entryOf t]) (s.entryOf t) then .waits
      else if (s.fret t.pf).spilled < s.partition t.task then .spilled else .overflow (s.entryOf t) := by
  refine (if_neg (Nat.not_lt.2 hfull)).trans ?_
  rw [State.victimOf, State.elem] at hv
  rw [hv]
  rfl

end

/-! ### The tag unit and work items (R74, R120, R282) -/

section
variable {s : State} {task pl : Nat} {p : Placement}

theorem placement?_setPlacement (q : Placement) (htask : q.task = task) (hidx : q.idx = pl) (u : State) : (u.setPlacement q).placement? task pl = some q := by
  rw [State.placement?, State.setPlacement]
  dsimp only
  rw [htask, hidx, tget_tput_same]

/-- A request alone at the tag unit. -/
theorem tagUnitSpawn_eq {r : SpawnReq} (hcyc : s.frozenNow = false) (hp : s.placement? task pl = some p) (hreq : p.spawns = [r])
    (hdue : r.earliest ≤ s.clock.cycle) : exec (.tagUnitSpawn task pl) s = .next (State.serveSpawn task pl (s.setPlacement { p with spawns := [] }) r) := by
  rw [exec_tagUnitSpawn, execTagUnitSpawn, inCycle_next hcyc, hp]
  simp [hreq, hdue, sortBy, insertBy]

/-- The tokens of a request that no debugger holds. -/
theorem tagSend_net {u : State} {q p' : Placement} {r : SpawnReq} {ds : List Dest} {tag wave : Nat} (hdbg : u.obs.dbg.attached = none)
    (hq : u.placement? p'.task p'.idx = some q) (hmov : q.moving = []) :
    u.tagSend p' r tag wave ds = { u with fab := { u.fab with
      net := u.fab.net ++ sentToks q (p'.physFret 0) tag wave r.data u.clock.cycle ds, evc := (u.tagSend p' r tag wave ds).fab.evc } } := by
  have hfree : u.spawnHeld p' r = false := by simp [State.spawnHeld, hdbg]
  rw [State.tagSend, hfree]
  simp only [Bool.false_eq_true, if_false]
  rw [← flaggedToks_none]
  exact sendAll_net hq hmov _ _ _ _ _ _

/-- A thread begun with a tag, and the tokens sent for it. -/
theorem beginThread_send {u : State} {q : Placement} {r : SpawnReq} {tag : Nat} {ds : List Dest} (htask : q.task = task) (hidx : q.idx = pl)
    (hmov : q.moving = []) (hdbg : u.obs.dbg.attached = none) :
    let v := (u.beginThread q tag r.work r.childOrdinal).tagSend q r tag 0 ds
    v.placement? task pl = some { q with threads := tput q.threads tag (newThread r.work r.childOrdinal u.clock.cycle u.seqCtr) } ∧
      v.fab.net = u.fab.net ++ sentToks q (q.physFret 0) tag 0 r.data u.clock.cycle ds ∧ v.mem = u.mem ∧ v.sched = u.sched := by
  intro v
  have hq := placement?_setPlacement { q with threads := tput q.threads tag (newThread r.work r.childOrdinal u.clock.cycle u.seqCtr) } htask hidx u.bump
  have hnet := tagSend_net (u := u.beginThread q tag r.work r.childOrdinal) (p' := q) (r := r) (ds := ds) (tag := tag) (wave := 0) hdbg
    (by rw [htask, hidx]; exact hq) (by exact hmov)
  have hv : v = _ := hnet
  rw [hv]
  exact ⟨hq, rfl, rfl, rfl⟩

theorem tagUnitSpawn_granted {r : SpawnReq} {tag : Nat} {p' : Placement} (hcyc : s.frozenNow = false) (hp : s.placement? task pl = some p)
    (htask : p.task = task) (hidx : p.idx = pl) (hreq : p.spawns = [r]) (hdue : r.earliest ≤ s.clock.cycle) (hmov : p.moving = [])
    (hdbg : s.obs.dbg.attached = none) (htake : ({ p with spawns := [] } : Placement).takeTag = some (tag, p'))
    (hp' : p' = { p with spawns := [], fresh := p'.fresh, freeTags := p'.freeTags }) :
    ∃ u, exec (.tagUnitSpawn task pl) s = .next u ∧
      u.placement? task pl = some { p' with threads := tput p.threads tag (newThread r.work r.childOrdinal s.clock.cycle s.seqCtr) } ∧
      u.fab.net = s.fab.net ++ sentToks p (p.physFret 0) tag 0 r.data s.clock.cycle (r.dests.filter (fun d => !d.side)) ∧ u.mem = s.mem ∧ u.sched = s.sched := by
  have hserve : State.serveSpawn task pl (s.setPlacement { p with spawns := [] }) r =
      ((s.setPlacement { p with spawns := [] }).beginThread p' tag r.work r.childOrdinal).tagSend p' r tag 0 (r.dests.filter (fun d => !d.side)) := by
    rw [State.serveSpawn, placement?_setPlacement { p with spawns := [] } htask hidx]
    dsimp only
    rw [htake]
  rw [tagUnitSpawn_eq hcyc hp hreq hdue, hserve]
  obtain ⟨hpl, hnet, hmem, hsched⟩ := beginThread_send (task := task) (pl := pl) (u := s.setPlacement { p with spawns := [] }) (q := p') (r := r) (tag := tag)
    (ds := r.dests.filter (fun d => !d.side)) (by rw [hp']; exact htask) (by rw [hp']; exact hidx) (by rw [hp']; exact hmov) hdbg
  refine ⟨_, rfl, hpl.trans (by rw [hp']; rfl), hnet.trans (by rw [hp']; rfl), hmem, hsched⟩

theorem tagUnitSpawn_refused {r : SpawnReq} (hcyc : s.frozenNow = false) (hp : s.placement? task pl = some p)
    (htask : p.task = task) (hidx : p.idx = pl) (hreq : p.spawns = [r]) (hdue : r.earliest ≤ s.clock.cycle) (hmov : p.moving = [])
    (hdbg : s.obs.dbg.attached = none) (hfresh : 16384 ≤ p.fresh) (hfree : p.freeTags = []) :
    ∃ u, exec (.tagUnitSpawn task pl) s = .next u ∧
      u.placement? task pl = some { p with spawns := [], flags := p.flags.or Flags.SPAWNREF } ∧
      u.fab.net = s.fab.net ++ sentToks p (p.physFret 0) r.tag r.wave r.data s.clock.cycle (r.dests.filter (fun d => d.side)) ∧ u.mem = s.mem ∧ u.sched = s.sched := by
  subst htask hidx
  have hserve : State.serveSpawn p.task p.idx (s.setPlacement { p with spawns := [] }) r =
      ((s.setPlacement { p with spawns := [] }).setFlags p.task p.idx Flags.SPAWNREF).tagSend { p with spawns := [] } r r.tag r.wave (r.dests.filter (fun d => d.side)) := by
    rw [State.serveSpawn, placement?_setPlacement { p with spawns := [] } rfl rfl]
    dsimp only
    rw [Placement.takeTag, if_neg (by exact Nat.not_lt.2 hfresh)]
    dsimp only
    rw [hfree]
  have hflag : ((s.setPlacement { p with spawns := [] }).setFlags p.task p.idx Flags.SPAWNREF).placement? p.task p.idx =
      some { p with spawns := [], flags := p.flags.or Flags.SPAWNREF } := by
    have hset := placement?_setPlacement { p with spawns := [] } rfl rfl s
    rw [State.placement?] at hset
    rw [State.placement?, State.setFlags_fab]
    dsimp only
    rw [tget_tmod_same, hset]
    rfl
  have hnet := tagSend_net (u := (s.setPlacement { p with spawns := [] }).setFlags p.task p.idx Flags.SPAWNREF) (p' := { p with spawns := [] }) (r := r)
    (ds := r.dests.filter (fun d => d.side)) (tag := r.tag) (wave := r.wave) (q := { p with spawns := [], flags := p.flags.or Flags.SPAWNREF }) hdbg
    hflag hmov
  rw [tagUnitSpawn_eq hcyc hp hreq hdue, hserve, hnet]
  exact ⟨_, rfl, hflag, rfl, rfl, rfl⟩

/-- The tokens of a work item, one entry after another. -/
theorem foldl_sendFrom {u : State} (hp : u.placement? task pl = some p) (hmov : p.moving = []) (pf tag : Nat) (es : List (Dest × Word)) :
    es.foldl (fun s e => s.sendFrom pf task pl tag 0 e.2 e.1) u = { u with fab := { u.fab with
      net := u.fab.net ++ es.flatMap (fun e => sentToks p pf tag 0 e.2 u.clock.cycle [e.1])
      evc := (es.foldl (fun s e => s.sendFrom pf task pl tag 0 e.2 e.1) u).fab.evc } } := by
  induction es generalizing u with
  | nil => simp
  | cons e es ih =>
    have hone := sendFrom_net hp hmov pf tag 0 e.2 e.1 Flags.none
    rw [flaggedToks_none] at hone
    rw [List.foldl_cons]
    generalize u.sendFrom pf task pl tag 0 e.2 e.1 = v at hone ⊢
    have hpv : v.placement? task pl = some p := by
      rw [hone]
      exact hp
    have hmany := ih hpv
    have hclock : v.clock = u.clock := by rw [hone]
    have hnet : v.fab.net = u.fab.net ++ sentToks p pf tag 0 e.2 u.clock.cycle [e.1] := by rw [hone]
    generalize es.foldl (fun s e => s.sendFrom pf task pl tag 0 e.2 e.1) v = w at hmany ⊢
    rw [hmany, hclock, hnet, List.append_assoc, List.flatMap_cons, hone]

/-- A placement in which the next fresh tag begins a work item. -/
def Placement.itemBegun (p : Placement) (item now serial : Nat) : Placement :=
  { p with fresh := p.fresh + 1, threads := tput p.threads p.fresh (newThread (BitVec.ofNat 64 item) 0 now serial) }

theorem workItemIssue_next {k : Task} (hcyc : s.frozenNow = false) (hk : s.task? task = some k) (hnum : k.num = task)
    (hp : s.placement? task pl = some p) (htask : p.task = task) (hidx : p.idx = pl) (hissues : k.issues = true) (hnext : s.nextAsker k = some pl)
    (hfresh : p.fresh < 16384) (hmov : p.moving = []) :
    ∃ u, exec (.workItemIssue task pl) s = .next u ∧ u.task? task = some { k with nextItem := k.nextItem + 1, lastPl := pl + 1 } ∧
      u.placement? task pl = some (p.itemBegun k.nextItem s.clock.cycle s.seqCtr) ∧
      u.fab.net = s.fab.net ++ k.entries.flatMap (fun e => sentToks p (p.physFret 0) p.fresh 0 e.2 s.clock.cycle [e.1]) ∧ u.mem = s.mem := by
  have htake : p.takeTag = some (p.fresh, { p with fresh := p.fresh + 1 }) := if_pos hfresh
  rw [exec_workItemIssue, execWorkItemIssue, inCycle_next hcyc, hk, hp]
  simp only [htake, hissues, hnext, Bool.true_and, decide_true, if_true]
  have hpl := placement?_setPlacement (p.itemBegun k.nextItem s.clock.cycle s.seqCtr) htask hidx s.bump
  have hsends := foldl_sendFrom (u := (s.bump.setPlacement (p.itemBegun k.nextItem s.clock.cycle s.seqCtr)).setTask
    { k with nextItem := k.nextItem + 1, lastPl := pl + 1 }) hpl hmov (p.physFret 0) p.fresh k.entries
  refine ⟨_, congrArg Host.Outcome.next hsends, ?_, hpl, rfl, rfl⟩
  rw [← hnum]
  exact tget_tput_same _ _ _

/-! ### The return of a tag (R121, R283) -/

theorem limitKeys_obs (s : State) : s.limitKeys = { s with obs := s.limitKeys.obs } := by
  rw [State.limitKeys]
  dsimp only
  split <;> rfl

theorem noteEnd_obs (s : State) (task : Nat) (th : Thread) (whole : Bool) : s.noteEnd task th whole = { s with obs := (s.noteEnd task th whole).obs } := by
  rw [State.noteEnd, limitKeys_obs]

/-- A placement of which a tag is on its way back. -/
def Placement.tagBack (p : Placement) (tag now : Nat) : Placement :=
  { p with threads := tdel p.threads tag, returned := p.returned ++ [(tag, now + fretLat (p.homePf tag) (p.physFret 0))] }

theorem returnTag_spec {tag : Nat} {th : Thread} (htask : p.task = task) (hidx : p.idx = pl) :
    let u := s.returnTag p tag th
    u.placement? task pl = some (p.tagBack tag s.clock.cycle) ∧
    u.fab.notices = s.fab.notices ∧ u.fab.net = s.fab.net ∧ u.mem = s.mem ∧
    ∀ k, s.task? task = some k → u.task? task = some (if th.ordinal = 0 then { k with ended := k.ended + 1 } else k) := by
  intro u
  have hu : u = _ := noteEnd_obs _ _ _ _
  rw [hu]
  refine ⟨placement?_setPlacement (p.tagBack tag s.clock.cycle) htask hidx s, rfl, rfl, rfl, fun k hk => ?_⟩
  subst htask
  refine (State.task?_modTask_same (s.setPlacement _) p.task _).trans ?_
  rw [show (s.setPlacement _).task? p.task = some k from hk]
  rfl

end

/-- Settles O39. Of the entries that a full store may spill, R115's order names one where its maximum is strict. -/
theorem tokenAndThreadEvents : Obligations.TokenAndThreadEvents := by
  unfold Obligations.TokenAndThreadEvents
  intro s
  refine ⟨fun hfrozen task pl tag own => refused_of_frozen hfrozen task pl tag own, fun t hcyc hnet hdue hfirst => ?_, ?_, ?_, ?_⟩
  · have harr := arrivingTok_of hnet hdue hfirst
    intro es gone
    refine ⟨fun hgen hwin => ?_, fun p hgen hp => ?_⟩
    · have hno : (s.fret t.pf).accepts t.gen = false := by simp [Fret.accepts, hgen, hwin]
      exact ⟨_, tokenArrival_drops hcyc harr hno, tokGone_of rfl rfl rfl rfl, rfl⟩
    intro f x probe holds overflows completes cand dist room
    have hover : ∀ e, s.arrivalOf t p = .overflow e → overflows e := fun e he => by
      have hexec := tokenArrival_overflows hcyc harr hgen hp he
      refine ⟨fun hcharged => ⟨s, by rw [hexec, if_pos hcharged], rfl⟩, fun th k hth hstop hnone hk => ?_⟩
      exact ⟨_, by rw [hexec, not_charged hth hstop hnone]; rfl, storeFault_findFault hp hth hstop hnone hk⟩
    have hholds : ∀ a es', s.arrivalOf t p = a → a ≠ .waits → (∀ e, a ≠ .overflow e) →
        a.leaves es ++ [Entry.ofTok t (s.clock.cycle - 1 + a.cycles (s.probes t)) s.seqCtr (decide (a = .spilled))] = es' → holds es' :=
      fun a es' ha hw ho hes => by
        obtain ⟨u, hu, hg, he⟩ := tokenArrival_placed hcyc harr hgen hp ha hw ho
        exact ⟨u, hu, hg, by rw [← hes]; exact he⟩
    refine ⟨fun hroom => ?_, fun hfull hseq => ⟨fun v hv hmax => ?_, fun hnocand => ?_⟩⟩
    · exact hholds .enters _ (arrivalOf_enters hroom) (by simp) (by simp) rfl
    · have hvictim := spillVictim_some (f := f) (x := x) hseq hv hmax
      have harrival : s.arrivalOf t p = if f.spilled < room then .spills v.seq else .overflow v :=
        arrivalOf_victim hfull hvictim
      refine ⟨fun hroom => ?_, fun hroom => hover v (by rw [harrival, if_neg (Nat.not_lt.2 hroom)])⟩
      exact hholds (.spills v.seq) _ (by rw [harrival, if_pos hroom]) (by simp) (by simp) rfl
    · have hvictim := spillVictim_none (f := f) (x := x) hnocand
      have harrival : s.arrivalOf t p = if completes then .waits else if f.spilled < room then .spilled else .overflow x :=
        arrivalOf_no_victim hfull hvictim
      refine ⟨fun hc => ⟨s, tokenArrival_waits hcyc harr hgen hp (by rw [harrival, if_pos hc]), rfl⟩, fun hc hroom => ?_, fun hc hroom => hover x ?_⟩
      · exact hholds .spilled _ (by rw [harrival, hc, if_neg Bool.false_ne_true, if_pos hroom]) (by simp) (by simp) rfl
      · rw [harrival, hc, if_neg Bool.false_ne_true, if_neg (Nat.not_lt.2 hroom)]
  · exact fun task pl p r hcyc hp htask hidx hreq hdue hmov hdbg => ⟨fun hfresh => tagUnitSpawn_granted hcyc hp htask hidx hreq hdue hmov hdbg
      (p' := { p with spawns := [], fresh := p.fresh + 1 }) (if_pos hfresh) rfl, fun g gs hfresh hfree => tagUnitSpawn_granted hcyc hp htask hidx hreq hdue hmov hdbg
      (p' := { p with spawns := [], freeTags := gs }) (by rw [Placement.takeTag, if_neg (by exact Nat.not_lt.2 hfresh)]; dsimp only; rw [hfree]) rfl,
      fun hfresh hfree => tagUnitSpawn_refused hcyc hp htask hidx hreq hdue hmov hdbg hfresh hfree⟩
  · exact fun task pl p k hcyc hk hnum hp htask hidx hissues hnext hfresh hmov => workItemIssue_next hcyc hk hnum hp htask hidx hissues hnext hfresh hmov
  · intro task pl tag p n hcyc hp htask hidx hnotice
    refine ⟨fun hth => ?_, fun th hth => ?_⟩
    · rw [exec_endtTagReturn, execEndtTagReturn, inCycle_next hcyc, hp]
      simp only [hnotice, hth]
      exact ⟨_, rfl, rfl⟩
    · rw [exec_endtTagReturn, execEndtTagReturn, inCycle_next hcyc, hp]
      simp only [hnotice, hth]
      exact ⟨_, rfl, returnTag_spec htask hidx⟩

end Sys2Proof.Machine
end


section
/-!
PROOFS. The wave-order buffer (R128, R131 to R133, R169, R329): obligation O40.
-/
namespace Sys2Proof.Machine

/-! ### Translations in use (R169) -/

/-- A translation that covers an address of a space. -/
def TlbEntry.covers (e : TlbEntry) (space va : Nat) : Prop := e.space = space ∧ e.va ≤ va ∧ va < e.va + e.size

theorem covers_page (space va sz frame : Nat) (w : Bool) (h : 0 < sz) : (TlbEntry.mk space (va / sz * sz) sz frame w).covers space va :=
  ⟨rfl, Nat.div_mul_le_self va sz, by
    have hmod := Nat.mod_lt va h
    have hdiv := Nat.div_add_mod va sz
    have hcomm := Nat.mul_comm sz (va / sz)
    dsimp only
    omega⟩

/-- A walk ends in a leaf that covers the address it was made for. -/
theorem walk_covers {s : State} {fn space va level table : Nat} {e : TlbEntry} {a : Nat} (h : s.walk fn space va level table = .leaf e a) :
    e.covers space va := by
  have hleaf : ∀ sz frame w b, 0 < sz → Walk.leaf ⟨space, va / sz * sz, sz, frame, w⟩ b = .leaf e a → e.covers space va := fun sz frame w b hsz he => by
    obtain ⟨rfl, -⟩ := Walk.leaf.inj he
    exact covers_page space va sz frame w hsz
  induction level generalizing table with
  | zero =>
    simp only [State.walk] at h
    split at h
    · cases h
    · split at h
      · cases h
      · split at h
        · split at h
          · exact hleaf _ _ _ _ (by decide) h
          · cases h
        · exact hleaf _ _ _ _ (by decide) h
  | succ level ih =>
    simp only [State.walk] at h
    split at h
    · cases h
    · split at h
      · cases h
      · split at h
        · refine hleaf _ _ _ _ ?_ h
          unfold leafSize
          split
          · decide
          · split <;> decide
        · exact ih h

theorem walkSpace_covers {s : State} {space va : Nat} {e : TlbEntry} {a : Nat} (h : s.walkSpace space va = .leaf e a) : e.covers space va := by
  rw [State.walkSpace] at h
  split at h
  · cases h
  · split at h
    · exact walk_covers h
    · cases h

/-- A state with other translations held, and other counts of events. -/
def State.heldAs (s : State) (evc : Tab Word) (tlb : List TlbEntry) (ctlb dtlb : Tab TlbHeld) : State :=
  { s with fab := { s.fab with evc := evc }, mem := { s.mem with tlb := tlb, ctlb := ctlb, dtlb := dtlb } }

theorem tlbFill_held (s : State) (space va : Nat) : s.tlbFill space va = s.heldAs s.fab.evc (s.tlbFill space va).mem.tlb s.mem.ctlb s.mem.dtlb := by
  rw [State.tlbFill]
  split
  · rfl
  · split <;> rfl

theorem tlbUse_held (s : State) (cluster task space va : Nat) : ∃ evc ctlb dtlb,
    s.tlbUse cluster task space va = s.heldAs evc (s.tlbFill space va).mem.tlb ctlb dtlb := by
  rw [State.tlbUse, tlbFill_held]
  generalize (s.tlbFill space va).mem.tlb = l
  dsimp only
  split
  · exact ⟨_, _, _, rfl⟩
  · split <;> exact ⟨_, _, _, rfl⟩

/-- A covering translation that is held is the one in force. -/
theorem physOf_of_hit {s : State} {space va : Nat} {e : TlbEntry} (h : s.tlbHit space va = some e) :
    s.physOf space va = (s.fnAddr (space / 256) (e.frame + (va - e.va))).map fun pa => (pa, e.w) := by
  rw [State.physOf, State.xlate, h]

theorem tlbHit_held {s : State} {evc : Tab Word} {tlb : List TlbEntry} {ctlb dtlb : Tab TlbHeld} {space va : Nat} {e : TlbEntry}
    (h : (s.heldAs evc tlb ctlb dtlb).tlbHit space va = some e) : (s.heldAs evc tlb ctlb dtlb).physOf space va =
      (s.fnAddr (space / 256) (e.frame + (va - e.va))).map fun pa => (pa, e.w) := physOf_of_hit h

/-- A translation that is kept stays in force. -/
theorem tlbUse_physOf (s : State) (cluster task space va : Nat) : (s.tlbUse cluster task space va).physOf space va = s.physOf space va := by
  obtain ⟨evc, ctlb, dtlb, hu⟩ := tlbUse_held s cluster task space va
  cases hhit : s.tlbHit space va with
  | some e =>
    have hfill : s.tlbFill space va = s := by rw [State.tlbFill, hhit]
    rw [hu, hfill, physOf_of_hit hhit]
    exact tlbHit_held hhit
  | none =>
    cases hwalk : s.walkSpace space va with
    | leaf e a =>
      obtain ⟨hspace, hlo, hhi⟩ := walkSpace_covers hwalk
      have hfill : (s.tlbFill space va).mem.tlb = e :: s.mem.tlb := by rw [State.tlbFill, hhit, hwalk]
      have hfound : s.physOf space va = (s.fnAddr (space / 256) (e.frame + (va - e.va))).map fun pa => (pa, e.w) := by
        rw [State.physOf, State.xlate, hhit, hwalk]
      rw [hu, hfill, hfound]
      refine tlbHit_held ?_
      exact List.find?_cons_of_pos (by simp [hspace, hlo, hhi])
    | invalid =>
      have hfill : s.tlbFill space va = s := by rw [State.tlbFill, hhit, hwalk]
      have huse : s.tlbUse cluster task space va = s.countEvent cluster task 0x0D 1 := by
        rw [State.tlbUse, hfill]
        dsimp only
        rw [hhit]
      rw [huse]
      rfl

/-! ### Checks at entry (R144, R329, R334) -/

/-- An I/O access of the security window. -/
def WobOp.PrivateIo (o : WobOp) : Prop := isIo o.instr = true ∧ 0xFF0000000 ≤ o.ea ∧ o.ea ≤ 0xFFFFFFFFF

/-- R329's LEASE row and the translation that follows it, passed. -/
def State.LeasedFor (s : State) (k : Task) (o : WobOp) : Prop := o.ea < 2 ^ 52 ∧ (isIo o.instr = true ∨
  if 0xFFFFFFFF00000 ≤ o.ea ∧ o.ea < 2 ^ 52 then isScratchForm o.instr = true ∧ o.ea - 0xFFFFFFFF00000 + o.size ≤ k.sunits * 16384
  else k.leased o.ea (isWriteForm o.instr) = true ∧
    ∃ pa w, s.physOf k.space o.ea = some (pa, w) ∧ (isWriteForm o.instr = true → w = true) ∧ (isCountedForm o.instr = true → isHost pa = false))

theorem inScratch_iff (o : WobOp) : inScratch o.ea = true ↔ 0xFFFFFFFF00000 ≤ o.ea ∧ o.ea < 2 ^ 52 := by
  rw [inScratch, scratchBase, Bool.and_eq_true, decide_eq_true_eq, decide_eq_true_eq]

theorem access_eq_some {s : State} {k : Task} {va pa : Nat} {wr : Bool} :
    s.access k va wr = some pa ↔ k.leased va wr = true ∧ ∃ w, s.physOf k.space va = some (pa, w) ∧ (wr = true → w = true) := by
  rw [State.access]
  cases k.leased va wr
  · simp
  · cases hpa : s.physOf k.space va with
    | none => simp
    | some q =>
      obtain ⟨a, w⟩ := q
      cases wr <;> cases w <;> simp

theorem leaseFails_eq_false {s : State} {k : Task} {o : WobOp} : s.leaseFails k o.instr o.ea o.size = false ↔ s.LeasedFor k o := by
  rw [State.leaseFails, State.LeasedFor, Bool.or_eq_false_iff]
  refine and_congr (by simp) ?_
  cases hio : isIo o.instr
  · rw [if_neg Bool.false_ne_true]
    by_cases hwin : 0xFFFFFFFF00000 ≤ o.ea ∧ o.ea < 2 ^ 52
    · rw [if_pos ((inScratch_iff o).2 hwin), if_pos hwin]
      rw [scratchOk, scratchBase, Bool.not_eq_false', Bool.and_eq_true, decide_eq_true_eq]
      simp only [Bool.false_eq_true, false_or]
    · rw [if_neg fun h => hwin ((inScratch_iff o).1 h), if_neg hwin]
      cases hacc : s.access k o.ea (isWriteForm o.instr) with
      | none =>
        simp only [Bool.true_eq_false, Bool.false_eq_true, false_or, false_iff, not_and, not_exists]
        exact fun hl pa w hpa hw _ => by simp [access_eq_some.2 ⟨hl, w, hpa, hw⟩] at hacc
      | some pa =>
        obtain ⟨hl, w, hpa, hw⟩ := access_eq_some.1 hacc
        simp only [hl, hpa, Bool.false_eq_true, false_or, true_and, Bool.and_eq_false_imp]
        refine ⟨fun h => ⟨pa, w, rfl, hw, h⟩, ?_⟩
        rintro ⟨pa', w', heq, -, hhost⟩
        obtain ⟨rfl, -⟩ := Prod.mk.inj (Option.some.inj heq)
        exact hhost
  · simp

theorem LeasedFor.congr {s u : State} {k : Task} {o : WobOp} (h : u.physOf k.space o.ea = s.physOf k.space o.ea) : u.LeasedFor k o ↔ s.LeasedFor k o := by
  rw [State.LeasedFor, State.LeasedFor, h]

/-- An operation that is checked: it is performed, and has an address. -/
def WobOp.Checked (o : WobOp) : Prop := o.squashed = false ∧ hasAddr o.instr = true

theorem inSecurity_iff (o : WobOp) : (isIo o.instr && inSecurity o.ea) = true ↔ o.PrivateIo := by
  simp [inSecurity, WobOp.PrivateIo]

theorem entryFault_none {s : State} {k : Task} {o : WobOp} (h : o.Checked → ¬ o.PrivateIo ∧ o.ea % o.size = 0 ∧ s.LeasedFor k o) :
    s.entryFault k o = none := by
  rw [State.entryFault]
  by_cases hc : o.Checked
  · obtain ⟨hpriv, halign, hlease⟩ := h hc
    rw [if_neg (by simp [hc.1, hc.2]), if_neg fun hp => hpriv ((inSecurity_iff o).1 hp), if_neg (by simpa using halign),
      if_neg (by simp [leaseFails_eq_false.2 hlease])]
  · rw [if_pos]
    simpa [WobOp.Checked, imp_iff_not_or] using hc

/-- The first of R329's rows that a checked operation fails. -/
theorem entryFault_some {s : State} {k : Task} {o : WobOp} {code : FCode} (hc : o.Checked)
    (h : (o.PrivateIo ∧ code = .priv) ∨ (¬ o.PrivateIo ∧ o.ea % o.size ≠ 0 ∧ code = .align) ∨
      (¬ o.PrivateIo ∧ o.ea % o.size = 0 ∧ ¬ s.LeasedFor k o ∧ code = FCode.lease)) : s.entryFault k o = some code := by
  rw [State.entryFault, if_neg (by simp [hc.1, hc.2])]
  rcases h with ⟨hpriv, rfl⟩ | ⟨hpriv, halign, rfl⟩ | ⟨hpriv, halign, hlease, rfl⟩
  · rw [if_pos ((inSecurity_iff o).2 hpriv)]
  · rw [if_neg fun hp => hpriv ((inSecurity_iff o).1 hp), if_pos halign]
  · rw [if_neg fun hp => hpriv ((inSecurity_iff o).1 hp), if_neg (by simpa using halign), if_pos]
    exact Bool.eq_true_of_not_eq_false fun hf => hlease (leaseFails_eq_false.1 hf)

/-- Where an operation's address lies, as far as its space gives it one. -/
theorem placeOp_eq (s : State) (k : Task) (o : WobOp) : ∃ pa sc h, s.placeOp k o = { o with pa := pa, scratch := sc, host := h } ∧
    (if hasAddr o.instr = false ∨ isIo o.instr = true then pa = o.ea ∧ sc = o.scratch ∧ h = o.host
     else if 0xFFFFFFFF00000 ≤ o.ea ∧ o.ea < 2 ^ 52 then pa = o.ea - 0xFFFFFFFF00000 ∧ sc = true ∧ h = o.host
     else s.physOf k.space o.ea = none ∨ (sc = o.scratch ∧ h = isHost pa ∧ ∃ w, s.physOf k.space o.ea = some (pa, w))) := by
  rw [State.placeOp]
  by_cases hno : hasAddr o.instr = false ∨ isIo o.instr = true
  · refine ⟨o.ea, o.scratch, o.host, ?_, by rw [if_pos hno]; exact ⟨rfl, rfl, rfl⟩⟩
    rw [if_pos (by simpa using hno)]
  · simp only [if_neg hno]
    rw [if_neg (by simpa using hno)]
    by_cases hwin : 0xFFFFFFFF00000 ≤ o.ea ∧ o.ea < 2 ^ 52
    · refine ⟨o.ea - 0xFFFFFFFF00000, true, o.host, ?_, by rw [if_pos hwin]; exact ⟨rfl, rfl, rfl⟩⟩
      rw [if_pos ((inScratch_iff o).2 hwin)]
      rfl
    · simp only [if_neg hwin]
      rw [if_neg fun h => hwin ((inScratch_iff o).1 h)]
      cases hpa : s.physOf k.space o.ea with
      | none => exact ⟨o.pa, o.scratch, o.host, rfl, .inl rfl⟩
      | some q => exact ⟨q.1, o.scratch, isHost q.1, rfl, .inr ⟨rfl, rfl, q.2, rfl⟩⟩

/-! ### Admission to a share (R131, R132) -/

/-- Where an operation lies that has entered its share. -/
def State.PlacedAt (s : State) (k : Task) (o : WobOp) (pa : Nat) (sc h : Bool) : Prop :=
  if hasAddr o.instr = false ∨ isIo o.instr = true then pa = o.ea ∧ sc = o.scratch ∧ h = o.host
  else if 0xFFFFFFFF00000 ≤ o.ea ∧ o.ea < 2 ^ 52 then pa = o.ea - 0xFFFFFFFF00000 ∧ sc = true ∧ h = o.host
  else o.squashed = true ∨ (sc = o.scratch ∧ h = isHost pa ∧ ∃ w, s.physOf k.space o.ea = some (pa, w))

theorem placeOp_placed {s : State} {k : Task} {o : WobOp} (hleased : o.Checked → s.LeasedFor k o) :
    ∃ pa sc h, s.placeOp k o = { o with pa := pa, scratch := sc, host := h } ∧ s.PlacedAt k o pa sc h := by
  obtain ⟨pa, sc, h, heq, hplace⟩ := placeOp_eq s k o
  refine ⟨pa, sc, h, heq, ?_⟩
  rw [State.PlacedAt]
  by_cases hno : hasAddr o.instr = false ∨ isIo o.instr = true
  · rwa [if_pos hno] at hplace ⊢
  by_cases hwin : 0xFFFFFFFF00000 ≤ o.ea ∧ o.ea < 2 ^ 52
  · rwa [if_neg hno, if_pos hwin] at hplace ⊢
  rw [if_neg hno, if_neg hwin] at hplace ⊢
  refine hplace.imp_left fun hnone => ?_
  obtain ⟨haddr, hio⟩ := not_or.1 hno
  by_contra hsq
  obtain ⟨-, hl⟩ := hleased ⟨by simpa using hsq, by simpa using haddr⟩
  rcases hl with hl | hl
  · exact hio hl
  · rw [if_neg hwin] at hl
    obtain ⟨-, pa', w, hpa, -⟩ := hl
    rw [hnone] at hpa
    cases hpa

/-- The share's holder noted with an operation that enters the reserve. -/
def Placement.hold (p : Placement) (o : WobOp) (reserved : Bool) : Placement :=
  if reserved then { p with holders := tput p.holders (p.home o.tag) (o.tag, o.wave) } else p

/-- The state in which an operation is checked: its number drawn, the reserve noted, and its translation looked up. -/
def State.readied (s : State) (o : WobOp) (reserved : Bool) (p : Placement) (k : Task) : State :=
  let u := (if reserved then s.setPlacement { p with holders := tput p.holders (p.home o.tag) (o.tag, o.wave) } else s).bump
  if o.translated && k.leased o.ea false then u.tlbUse (p.homeCluster o.tag) o.task k.space o.ea else u

/-- The operation as its share holds it. -/
def WobOp.numbered (o : WobOp) (seq : Nat) (reserved : Bool) : WobOp := { o with seq := seq, reserved := reserved }

section
variable {s : State} {o : WobOp} {r : Bool} {p : Placement} {k : Task}

/-- What readying an operation leaves of its state. -/
theorem readied_held (s : State) (o : WobOp) (r : Bool) (p : Placement) (k : Task) : ∃ evc tlb ctlb dtlb,
    s.readied o r p k = ((if r then s.setPlacement (p.hold o r) else s).bump).heldAs evc tlb ctlb dtlb := by
  rw [State.readied, Placement.hold]
  cases r
  · split
    · obtain ⟨evc, ctlb, dtlb, h⟩ := tlbUse_held (s.bump) (p.homeCluster o.tag) o.task k.space o.ea
      exact ⟨_, _, _, _, h⟩
    · exact ⟨_, _, _, _, rfl⟩
  · split
    · obtain ⟨evc, ctlb, dtlb, h⟩ := tlbUse_held ((s.setPlacement { p with holders := tput p.holders (p.home o.tag) (o.tag, o.wave) }).bump)
        (p.homeCluster o.tag) o.task k.space o.ea
      exact ⟨_, _, _, _, h⟩
    · exact ⟨_, _, _, _, rfl⟩

theorem readied_physOf (s : State) (o : WobOp) (r : Bool) (p : Placement) (k : Task) :
    (s.readied o r p k).physOf k.space o.ea = s.physOf k.space o.ea := by
  rw [State.readied]
  split
  · rw [tlbUse_physOf]
    cases r <;> rfl
  · cases r <;> rfl

theorem admitOp_eq (hp : s.placement? o.task o.pl = some p) (hk : s.task? o.task = some k) (hchk : p.chkAtEntry o = false) :
    s.admitOp o r = match (s.readied o r p k).entryFault k o with
      | some code => (s.readied o r p k).faultOp (o.numbered s.seqCtr r) .beforeCommit code 0 o.ea
      | none => (s.readied o r p k).enterWob ((s.readied o r p k).placeOp k (o.numbered s.seqCtr r)) := by
  have hchk' : p.chkAtEntry (o.numbered s.seqCtr r) = false := hchk
  rw [State.admitOp, hp, hk]
  dsimp only
  cases r
  · simp only [Bool.false_eq_true, if_false]
    exact (if_neg fun h => Bool.false_ne_true (hchk'.symm.trans h)).trans rfl
  · simp only [if_true]
    exact (if_neg fun h => Bool.false_ne_true (hchk'.symm.trans h)).trans rfl

theorem readied_placement (hp : s.placement? o.task o.pl = some p) (htask : p.task = o.task) (hidx : p.idx = o.pl) :
    (s.readied o r p k).placement? o.task o.pl = some (p.hold o r) := by
  obtain ⟨evc, tlb, ctlb, dtlb, h⟩ := readied_held s o r p k
  rw [h]
  cases r
  · exact hp
  · exact placement?_setPlacement (p.hold o true) htask hidx s

/-- An operation that enters leaves its share with one operation more. -/
theorem enterWob_enters {u : State} {x : WobOp} {q : Placement} (hq : u.placement? x.task x.pl = some q)
    (hwhole : chainComplete (({ q with wob := q.wob ++ [x] } : Placement).waveOps x.tag x.wave) = false ∨
      chainWhole (({ q with wob := q.wob ++ [x] } : Placement).waveOps x.tag x.wave) = true) :
    u.enterWob x = u.modPlacement x.task x.pl (fun p => { p with wob := p.wob ++ [x] }) := by
  have hmod := placement_mod u x.task x.pl (fun p => { p with wob := p.wob ++ [x] }) q hq
  rw [State.enterWob, hmod]
  dsimp only
  rw [if_neg]
  rcases hwhole with h | h <;> simp [h]

theorem hold_fields (p : Placement) (o : WobOp) (r : Bool) : p.hold o r = { p with holders := (p.hold o r).holders } := by
  cases r <;> rfl

/-- An operation that passes its checks is in its share, and only its share and the translations held change. -/
theorem admitOp_enters (hp : s.placement? o.task o.pl = some p) (htask : p.task = o.task) (hidx : p.idx = o.pl) (hk : s.task? o.task = some k)
    (hchk : p.chkAtEntry o = false) (hpass : o.Checked → ¬ o.PrivateIo ∧ o.ea % o.size = 0 ∧ s.LeasedFor k o)
    (hwhole : ∀ pa sc h ops, ops = ({ p with wob := p.wob ++ [{ o.numbered s.seqCtr r with pa := pa, scratch := sc, host := h }] } : Placement).waveOps o.tag o.wave →
      chainComplete ops = false ∨ chainWhole ops = true) :
    let u := s.admitOp o r
    (∃ q pa sc h, u.placement? o.task o.pl = some q ∧ s.PlacedAt k o pa sc h ∧
        q.wob = p.wob ++ [{ o.numbered s.seqCtr r with pa := pa, scratch := sc, host := h }] ∧ q.queue = p.queue ∧
        q.threads = p.threads ∧ (r = true → tget q.holders (p.home o.tag) = some (o.tag, o.wave))) ∧
      u.fab.ops = s.fab.ops ∧ u.mem = { s.mem with tlb := u.mem.tlb, ctlb := u.mem.ctlb, dtlb := u.mem.dtlb } ∧ u.sched = s.sched ∧ u.fab.net = s.fab.net := by
  intro u
  have hphys := readied_physOf s o r p k
  have hleased : (s.readied o r p k).entryFault k o = none := entryFault_none fun hc => by
    obtain ⟨hpriv, halign, hl⟩ := hpass hc
    exact ⟨hpriv, halign, (LeasedFor.congr hphys).2 hl⟩
  obtain ⟨pa, sc, h, hplace, hat⟩ := placeOp_placed (s := s.readied o r p k) (k := k) (o := o.numbered s.seqCtr r)
    fun hc => (LeasedFor.congr hphys).2 (hpass hc).2.2
  have hq := readied_placement (r := r) (k := k) hp htask hidx
  have henter : u = (s.readied o r p k).modPlacement o.task o.pl
      (fun q => { q with wob := q.wob ++ [{ o.numbered s.seqCtr r with pa := pa, scratch := sc, host := h }] }) := by
    have hadmit : u = _ := admitOp_eq hp hk hchk
    rw [hadmit, hleased]
    dsimp only
    rw [hplace]
    refine enterWob_enters hq ?_
    rw [hold_fields]
    exact hwhole pa sc h _ rfl
  have hput := placement_mod (s.readied o r p k) o.task o.pl
    (fun q => { q with wob := q.wob ++ [{ o.numbered s.seqCtr r with pa := pa, scratch := sc, host := h }] }) _ hq
  obtain ⟨evc, tlb, ctlb, dtlb, hheld⟩ := readied_held s o r p k
  refine ⟨⟨_, pa, sc, h, by rw [henter]; exact hput, ?_, by rw [hold_fields], by rw [hold_fields], by rw [hold_fields], ?_⟩, ?_⟩
  · rw [State.PlacedAt] at hat ⊢
    rw [← hphys]
    exact hat
  · rintro rfl
    exact tget_tput_same _ _ _
  · rw [henter, hheld]
    cases r <;> exact ⟨rfl, rfl, rfl, rfl⟩

/-- An operation of its thread's oldest wave that fails a check stops its thread at once, and is not in its share. -/
theorem admitOp_faults {th : Thread} {code : FCode} (hp : s.placement? o.task o.pl = some p) (htask : p.task = o.task) (hidx : p.idx = o.pl)
    (hk : s.task? o.task = some k) (hth : p.thread? o.tag = some th) (hstop : th.stopped = false) (hnone : th.faults = []) (hold : o.wave = th.oldest)
    (hchk : p.chkAtEntry o = false) (hc : o.Checked)
    (hcode : (o.PrivateIo ∧ code = .priv) ∨ (¬ o.PrivateIo ∧ o.ea % o.size ≠ 0 ∧ code = .align) ∨
      (¬ o.PrivateIo ∧ o.ea % o.size = 0 ∧ ¬ s.LeasedFor k o ∧ code = FCode.lease)) :
    let u := s.admitOp o false
    (∃ q, u.placement? o.task o.pl = some q ∧ q.thread? o.tag = some { th with stopped := true } ∧ q.wob = p.wob.filter (fun x => x.tag ≠ o.tag) ∧
      q.queue = p.queue) ∧
    TaskIs u o.task (fun k' => ∃ f at', k' = { k with nfault := min 0x10000 (k.nfault + 1), reports := k.reports ++ [(f, at')] } ∧
      f.code = code ∧ f.addr = o.ea ∧ f.kind = .beforeCommit ∧ f.wave = o.wave ∧ f.tag = o.tag ∧ f.time = s.clock.ptpNs) := by
  intro u
  have hphys := readied_physOf s o false p k
  have hfault : (s.readied o false p k).entryFault k o = some code := by
    refine entryFault_some hc ?_
    rwa [LeasedFor.congr hphys]
  have hq : (s.readied o false p k).placement? o.task o.pl = some p := readied_placement hp htask hidx
  obtain ⟨evc, tlb, ctlb, dtlb, hheld⟩ := readied_held s o false p k
  have hk' : (s.readied o false p k).task? o.task = some k := by
    rw [hheld]
    exact hk
  have hclock : (s.readied o false p k).clock = s.clock := by
    rw [hheld]
    rfl
  have hu : u = (s.readied o false p k).faultOp (o.numbered s.seqCtr false) .beforeCommit code 0 o.ea := by
    have hadmit : u = _ := admitOp_eq hp hk hchk
    rw [hadmit, hfault]
  rw [State.faultOp] at hu
  generalize hf : (s.readied o false p k).opFault (o.numbered s.seqCtr false) .beforeCommit code 0 o.ea = f at hu
  have hlands : faultLands th.oldest f = true := by
    rw [← hf]
    simp [faultLands, State.opFault, WobOp.numbered, hold]
  have hpl : f.pl = o.pl := by rw [← hf]; rfl
  have htag : f.tag = o.tag := by rw [← hf]; rfl
  obtain ⟨⟨q, hqp, hqt, hqw, hqq⟩, ⟨r, at', hr, hrec⟩, -⟩ := findFault_lands (task := o.task) (by rw [hpl]; exact hq) (by rw [htag]; exact hth)
    hnone hstop hk' hlands
  rw [hu]
  refine ⟨⟨q, by rw [← hpl]; exact hqp, by rw [← htag, hqt, hnone], by rw [hqw, htag], (congrArg Placement.queue hqq).trans rfl⟩,
    ⟨_, hr, r, at', rfl, ?_⟩⟩
  rw [hrec, ← hf, ← hclock]
  exact ⟨rfl, rfl, rfl, rfl, rfl, rfl⟩

end

/-! ### Commit (R128) -/

section
variable {s : State} {task pl tag : Nat} {p : Placement} {th : Thread}

theorem commitOk_of_turn (hp : s.placement? task pl = some p) (htask : p.task = task) (hidx : p.idx = pl) (hturn : s.commitTurn task pl tag = true) :
    s.commitOk task pl tag = true := by
  rw [State.commitTurn, hp] at hturn
  obtain ⟨hmem, -⟩ := minBy_spec _ (of_decide_eq_true hturn)
  have hok := (List.mem_filter.1 hmem).2
  rw [Bool.and_eq_true, htask, hidx] at hok
  exact hok.2

/-- A commit that no debugger stops and no fault waits for. -/
theorem waveCommit_eq {tag : Tag} (hcyc : s.frozenNow = false) (hp : s.placement? task pl = some p) (htask : p.task = task) (hidx : p.idx = pl)
    (hth : p.thread? tag.toNat = some th) (hnone : th.faults = []) (hdbg : s.obs.dbg.attached = none) (hturn : s.commitTurn task pl tag.toNat = true) :
    exec (.waveCommit task pl tag) s = .next ((s.setPlacement (p.commit tag.toNat)).countEvent (p.homeCluster tag.toNat) task 0x09 1) := by
  have hok := commitOk_of_turn hp htask hidx hturn
  have hcause : ∀ ops, s.stopCause task tag.toNat ops = none := fun ops => by
    rw [State.stopCause, State.debuggable, hdbg]
    rfl
  have hstep : ∀ w, s.noteStep task pl tag.toNat w = s := fun w => by
    rw [State.noteStep, hdbg]
    rfl
  have hthread : (p.commit tag.toNat).thread? tag.toNat = some { th with oldest := (th.oldest + 1) % 2 ^ 24 } := by
    rw [Placement.commit, hth]
    exact thread_mod p tag.toNat (fun t => { t with oldest := (t.oldest + 1) % 2 ^ 24 }) th hth
  have hcommit : (p.commit tag.toNat).task = task ∧ (p.commit tag.toNat).idx = pl := by
    rw [Placement.commit, hth]
    exact ⟨htask, hidx⟩
  have hpl := placement?_setPlacement (p.commit tag.toNat) hcommit.1 hcommit.2 s
  have hland : (p.commit tag.toNat).landing? tag.toNat = none := by
    rw [Placement.landing?, hthread]
    simp [hnone]
  have hdue : ((s.setPlacement (p.commit tag.toNat)).countEvent (p.homeCluster tag.toNat) task 0x09 1).landIfDue task pl tag.toNat =
      (s.setPlacement (p.commit tag.toNat)).countEvent (p.homeCluster tag.toNat) task 0x09 1 := by
    have hpl' : ((s.setPlacement (p.commit tag.toNat)).countEvent (p.homeCluster tag.toNat) task 0x09 1).placement? task pl = some (p.commit tag.toNat) := hpl
    rw [State.landIfDue, hpl']
    dsimp only
    rw [hland]
  rw [exec_waveCommit, execWaveCommit, inCycle_next hcyc, hok, hturn, hp]
  simp only [Bool.and_self, hcause, hstep, hdue]

end

/-- Settles O40: an operation's translation, once looked up, stays the one in force, and the checks at entry meet it. -/
theorem waveEvents : Obligations.WaveEvents := by
  unfold Obligations.WaveEvents
  intro s hcyc private_ scratch leased checked placed enters
  have henters : ∀ i (m : OpMsg) r p, exec i s = .next ((s.dropOp s.subject).admitOp m.op r) → s.placement? m.op.task m.op.pl = some p → enters i m r p := by
    intro i m r p hi hp k htask hidx hk hchk hpass hwhole
    exact ⟨_, hi, admitOp_enters (s := s.dropOp s.subject) hp htask hidx hk hchk hpass hwhole⟩
  refine ⟨fun m p hm hdue hnew hp => ?_, fun m p r hm hwait hp hadmit => henters _ m r p ?_ hp, fun task pl tag p th hp htask hidx hth hfrozen hstop hnone hdbg hturn => ?_⟩
  · intro h ws
    have harr : s.arrivingOp = some m := by simp [State.arrivingOp, hm, hdue, hnew, hp]
    have hexec : exec .chainOperationArrival s = if ws.isEmpty && p.openEntry h then .next ((s.dropOp s.subject).admitOp m.op false)
        else if p.openReserve h m.op && !ws.any (fun w => p.isOldest w.op) then .next ((s.dropOp s.subject).admitOp m.op true)
        else .next { s.bump with fab := { s.fab with ops := setAt s.fab.ops s.subject { m with waiting := true, seq := s.seqCtr } } } := by
      rw [exec_chainOperationArrival, execChainOperationArrival, inCycle_next hcyc, harr]
      simp only [hp]
      rfl
    have hfree : ws = [] → p.openEntry h = true → exec .chainOperationArrival s = .next ((s.dropOp s.subject).admitOp m.op false) := fun hws hopen => by
      rw [hexec, hws, hopen]
      rfl
    refine ⟨fun hws hopen => henters _ m false p (hfree hws hopen) hp, fun hopen hres hold => henters _ m true p ?_ hp, fun hopen hres => ?_,
      fun th k code hws hopen htask hidx hk hth hstop hnone holdest hchk hc hcode => ?_⟩
    · have hany : ws.any (fun w => p.isOldest w.op) = false := List.any_eq_false.2 fun w hw => by simp [hold w hw]
      rw [hexec, hopen, hres, hany, Bool.and_false, if_neg Bool.false_ne_true]
      rfl
    · rw [hexec, hopen, hres, Bool.and_false, Bool.false_and, if_neg Bool.false_ne_true, if_neg Bool.false_ne_true]
      exact ⟨_, rfl, rfl⟩
    · exact ⟨_, hfree hws hopen, admitOp_faults (s := s.dropOp s.subject) hp htask hidx hk hth hstop hnone holdest hchk hc hcode⟩
  · rw [exec_wobEntryAdmit, execWobEntryAdmit, inCycle_next hcyc, hm]
    simp only [hwait, if_true, hadmit]
  · intro ops hwhole hearly
    refine ⟨_, waveCommit_eq hcyc hp htask hidx hth hnone hdbg hturn, ⟨p.commit tag.toNat, ?_, ?_⟩, rfl, rfl, rfl, rfl⟩
    · refine placement?_setPlacement (p.commit tag.toNat) ?_ ?_ s <;> rw [Placement.commit, hth] <;> assumption
    · rw [Placement.commit, hth]
      refine ⟨?_, rfl, rfl, rfl⟩
      rw [Placement.thread?] at hth
      simp only [Placement.modThread, tmod, hth]

end Sys2Proof.Machine
end


section
/-!
PROOFS. Early reads, their replies, and acknowledgements (R126 to R128, R144, R332): obligation O41.
-/
namespace Sys2Proof.Machine

/-! ### A held operation done (R128, R330) -/

/-- An operation's result goes out and its entry is freed. -/
theorem answerHeld_spec {s : State} {p : Placement} {op : WobOp} (hp : s.placement? op.task op.pl = some p) (hmov : p.moving = []) (v : Word) :
    (s.answerHeld op v).placement? op.task op.pl = some (p.freeOp op.seq) ∧
    s.answerHeld op v = { s with fab := { s.fab with
      net := s.fab.net ++ sentToks p (p.homePf op.tag) op.tag op.wave v s.clock.cycle op.instr.dests
      evc := (s.answerHeld op v).fab.evc, placements := (s.answerHeld op v).fab.placements } } := by
  have hsend := sendAll_net hp hmov (p.homePf op.tag) op.tag op.wave v op.instr.dests Flags.none
  rw [flaggedToks_none] at hsend
  have hresult : s.sendResult op v = s.sendAll (p.homePf op.tag) op.task op.pl op.tag op.wave v op.instr.dests Flags.none := by rw [State.sendResult, hp]
  rw [State.answerHeld, hresult, hsend]
  exact ⟨placement_mod _ op.task op.pl (fun p => p.freeOp op.seq) p hp, rfl⟩

theorem answerHeld_done {s : State} {p : Placement} {op : WobOp} (hp : s.placement? op.task op.pl = some p) (hmov : p.moving = []) (v : Word) :
    HeldDone s (s.answerHeld op v) p op v := by
  obtain ⟨hq, hs⟩ := answerHeld_spec hp hmov v
  exact ⟨⟨_, hq, rfl⟩, (congrArg (fun u : State => u.fab.net) hs).trans rfl⟩

/-! ### Early reads (R126, R127, R332) -/

theorem hlcShare_eq (s : State) (line : Nat) : ∃ hlc hostMem, s.hlcShare line = { s with mem := { s.mem with hlc := hlc, hostMem := hostMem } } := by
  rw [State.hlcShare]
  split
  · exact ⟨_, _, rfl⟩
  · split <;> exact ⟨_, _, rfl⟩

section
variable {s : State} {task pl : Nat} {tag : Tag} {own : BitVec 6} {k : Task} {p : Placement} {op : WobOp} {bef : List WobOp}

/-- The operation as it is sent: with what earlier stores supply, and its home fret's generation. -/
def State.sentRead (s : State) (p : Placement) (bef : List WobOp) (op : WobOp) : WobOp :=
  { op with st := .sent, fwd := fwdOf (p.queueOf op.serial ++ bef) op, gen := (s.fret (p.homePf op.tag)).gen }

/-- An early read is performed with its place in the WOB marked. -/
theorem earlyRead_eq (hcyc : s.frozenNow = false) (hready : s.earlyReady task pl tag.toNat own = some (k, p, op, bef))
    (hp : s.placement? op.task op.pl = some p) :
    exec (.earlyReadPerform task pl tag own) s = .next ((s.putOp (s.sentRead p bef op)).performRead k p (s.sentRead p bef op)) := by
  have hstamp : s.stampGen { op with st := .sent, fwd := fwdOf (p.queueOf op.serial ++ bef) op } = s.sentRead p bef op := by
    rw [State.stampGen, State.homePfOf, show s.placement? _ _ = some p from hp]
    rfl
  rw [exec_earlyReadPerform, execEarlyReadPerform, inCycle_next hcyc, hready]
  dsimp only
  rw [hstamp]

/-- A read of bytes goes the way of R127, R144, R66 or R142. -/
theorem performRead_forwards (s : State) (k : Task) (p : Placement) (o : WobOp) (h : forwards o.instr = true) :
    s.performRead k p o = if o.fwd.length = o.size then ((s.countRead o).countOp o 0x0C).pushReply o 0 none
      else if o.scratch then (s.countRead o).pushReply o (leNat (memBytes (s.fret (p.homePf o.tag)).scratch o.pa o.size)) none
      else if o.host && !s.usesHlc k.fn then s.readUncached k o
      else s.readCached p o := by
  rw [State.performRead]
  split
  · rename_i hi
    rw [hi] at h
    cases h
  · rename_i hi
    rw [hi] at h
    cases h
  · rfl

/-- An operation that has been sent is not counted as issued from the committed ones. -/
theorem countRead_sent (s : State) (o : WobOp) (h : o.st = .sent) : s.countRead o = s := by
  rw [State.countRead, h]
  exact if_neg (by simp)

/-- What every early read leaves: its place in the WOB marked, and no token, task or byte of device memory touched. -/
def State.ReadOut (s : State) (p : Placement) (o : WobOp) (u : State) : Prop :=
  u.placement? o.task o.pl = some (p.putOp o) ∧ u.fab.net = s.fab.net ∧ u.sched = s.sched ∧ u.mem.hbm = s.mem.hbm

theorem readOut_of {o : WobOp} {u : State} (hp : s.placement? o.task o.pl = some p) (hpl : u.fab.placements = (s.putOp o).fab.placements)
    (hnet : u.fab.net = s.fab.net) (hsched : u.sched = s.sched) (hhbm : u.mem.hbm = s.mem.hbm) : s.ReadOut p o u := by
  refine ⟨?_, hnet, hsched, hhbm⟩
  rw [State.placement?, hpl]
  exact placement_mod s o.task o.pl (fun p => p.putOp o) p hp

variable {o : WobOp} (hsent : o.st = .sent) (hp : s.placement? o.task o.pl = some p) (hfw : forwards o.instr = true)

include hsent hp hfw

theorem performRead_served (hall : o.fwd.length = o.size) :
    let u := (s.putOp o).performRead k p o
    s.ReadOut p o u ∧ u.mem.replies = s.mem.replies ++ [⟨o, 0, none, none, o.gen⟩] ∧ u.mem.reqs = s.mem.reqs := by
  intro u
  have hu : u = _ := (performRead_forwards (s.putOp o) k p o hfw).trans (if_pos hall)
  rw [hu, countRead_sent _ o hsent]
  exact ⟨readOut_of hp rfl rfl rfl rfl, rfl, rfl⟩

theorem performRead_scratch (hpart : o.fwd.length ≠ o.size) (hscr : o.scratch = true) :
    let u := (s.putOp o).performRead k p o
    s.ReadOut p o u ∧ u.mem.reqs = s.mem.reqs ∧
      u.mem.replies = s.mem.replies ++ [⟨o, leNat (memBytes (s.fret (p.homePf o.tag)).scratch o.pa o.size), none, none, o.gen⟩] := by
  intro u
  have hu : u = _ := (performRead_forwards (s.putOp o) k p o hfw).trans ((if_neg hpart).trans (if_pos hscr))
  rw [hu, countRead_sent _ o hsent]
  exact ⟨readOut_of hp rfl rfl rfl rfl, rfl, rfl⟩

/-- A read that goes by the home cluster's L1. -/
theorem performRead_cached (hpart : o.fwd.length ≠ o.size) (hscr : o.scratch = false) (hhost : o.host = true → s.usesHlc k.fn = true) :
    (s.putOp o).performRead k p o = (s.putOp o).readCached p o := by
  have hway : (o.host && !(s.putOp o).usesHlc k.fn) = false := by
    cases hh : o.host
    · rfl
    · rw [show (s.putOp o).usesHlc k.fn = true from hhost hh]
      rfl
  rw [performRead_forwards _ k p o hfw, if_neg hpart, hscr, hway]
  rfl

theorem opCluster_putOp : (s.putOp o).opCluster o = p.homeCluster o.tag := by
  have hput : (s.putOp o).placement? o.task o.pl = some (p.putOp o) := placement_mod s o.task o.pl (fun p => p.putOp o) p hp
  rw [State.opCluster, State.homePfOf, hput]
  rfl

theorem performRead_asks (hpart : o.fwd.length ≠ o.size) (hscr : o.scratch = false) (hhost : o.host = false)
    (hmiss : s.mem.l1At (p.homeCluster o.tag) (o.pa / 128) = none) :
    let u := (s.putOp o).performRead k p o
    s.ReadOut p o u ∧ u.mem.replies = s.mem.replies ∧ u.mem.reqs = s.mem.reqs ++
      [⟨.read (match o.instr with | .ldnt _ => true | _ => false), o, p.homeCluster o.tag, o.pa / 128, s.seqCtr⟩] := by
  intro u
  have hl1 : (s.putOp o).l1Hit p (p.homeCluster o.tag) (o.pa / 128) = none := by
    rw [State.l1Hit, show (s.putOp o).mem.l1At _ _ = none from hmiss]
  have hothers : ((s.putOp o).countOp o 0x07).clearOthers (p.homeCluster o.tag) (o.pa / 128) = (s.putOp o).countOp o 0x07 := by
    rw [State.clearOthers, show ((s.putOp o).countOp o 0x07).mem.l1At _ _ = none from hmiss]
  have hu : u = (s.putOp o).readCached p o := performRead_cached hsent hp hfw hpart hscr fun h => by simp [hhost] at h
  have hcluster : ((s.putOp o).countOp o 0x07).opCluster o = p.homeCluster o.tag := opCluster_putOp hsent hp hfw
  rw [hu, State.readCached]
  dsimp only
  rw [hl1]
  dsimp only
  rw [hothers, hhost, State.pushReq, hcluster]
  exact ⟨readOut_of hp rfl rfl rfl rfl, rfl, rfl⟩

theorem performRead_hit {x : L1Line} (hpart : o.fwd.length ≠ o.size) (hscr : o.scratch = false) (hhost : o.host = true → s.usesHlc k.fn = true)
    (hline : s.mem.l1At (p.homeCluster o.tag) (o.pa / 128) = some x)
    (hway : (p.waysIn (p.homeCluster o.tag)).any (fun f => f = x.way / 2) = true) :
    let u := (s.putOp o).performRead k p o
    s.ReadOut p o u ∧ u.mem.reqs = s.mem.reqs ∧
      u.mem.replies = s.mem.replies ++ [if s.poisoned (o.pa / 128) then ⟨o, 0, none, some (.uecc, o.ea / 128 * 128), o.gen⟩
        else ⟨o, lineRead x.data (o.pa % 128) o.size, none, none, o.gen⟩] := by
  intro u
  have hl1 : (s.putOp o).l1Hit p (p.homeCluster o.tag) (o.pa / 128) = some x := by
    rw [State.l1Hit, show (s.putOp o).mem.l1At _ _ = some x from hline]
    exact if_pos hway
  have hu : u = (s.putOp o).readCached p o := performRead_cached hsent hp hfw hpart hscr hhost
  have hpoison : (((s.putOp o).touchL1 x).countOp o 0x06).poisoned (o.pa / 128) = s.poisoned (o.pa / 128) := rfl
  rw [hu, State.readCached]
  dsimp only
  rw [hl1]
  dsimp only
  rw [hpoison, countRead_sent _ o hsent]
  cases s.poisoned (o.pa / 128) <;> exact ⟨readOut_of hp rfl rfl rfl rfl, rfl, rfl⟩

theorem performRead_uncached (hpart : o.fwd.length ≠ o.size) (hscr : o.scratch = false) (hhost : o.host = true) (hno : s.usesHlc k.fn = false)
    (hthr : bits (s.reg 0 0x248) 15 0 = 0) :
    let u := (s.putOp o).performRead k p o
    u.placement? o.task o.pl = some (p.putOp o) ∧ u.fab.net = s.fab.net ∧ u.mem.reqs = s.mem.reqs ∧
      (s.board.hostLoss = true → u.mem.replies = s.mem.replies ++ [⟨o, 0, none, some (.hostlink, o.ea), o.gen⟩]) ∧
      (s.board.hostLoss = false → nsHas s.mem.hostPoison (o.pa / 128) = true →
        u.mem.replies = s.mem.replies ++ [⟨o, 0, none, some (.uecc, o.ea / 128 * 128), o.gen⟩]) ∧
      (s.board.hostLoss = false → nsHas s.mem.hostPoison (o.pa / 128) = false → s.mem.posts = [] → tget s.mem.hlc (o.pa / 128) = none →
        u.mem.replies = s.mem.replies ++ [⟨o, leNat (memBytes s.mem.hostMem (s.hostAddr o.pa) o.size), none, none, o.gen⟩]) := by
  intro u
  have hput : (s.putOp o).placement? o.task o.pl = some (p.putOp o) := placement_mod s o.task o.pl (fun p => p.putOp o) p hp
  have hu : u = (s.putOp o).readUncached k o := by
    have hway : (o.host && !(s.putOp o).usesHlc k.fn) = true := by
      rw [hhost, show (s.putOp o).usesHlc k.fn = false from hno]
      rfl
    exact (performRead_forwards _ k p o hfw).trans ((if_neg hpart).trans ((if_neg (by simp [hscr])).trans (if_pos hway)))
  have hcount : (s.putOp o).acCountAccess k.fn o.pa = s.putOp o := if_pos hthr
  obtain ⟨hlc, hostMem, hshare⟩ := hlcShare_eq (s.putOp o) (o.pa / 128)
  have hseen : s.mem.posts = [] → tget s.mem.hlc (o.pa / 128) = none →
      ((s.putOp o).hlcShare (o.pa / 128)).hostSeen (((s.putOp o).hlcShare (o.pa / 128)).opCluster o) o.pa o.size =
        leNat (memBytes s.mem.hostMem (s.hostAddr o.pa) o.size) := fun hposts hnone => by
    have hsame : (s.putOp o).hlcShare (o.pa / 128) = s.putOp o := by
      rw [State.hlcShare, show tget (s.putOp o).mem.hlc (o.pa / 128) = none from hnone]
    rw [hsame, State.hostSeen, show (s.putOp o).mem.posts = [] from hposts]
    rfl
  rw [hu, State.readUncached, hcount]
  have hboard : ((s.putOp o).hlcShare (o.pa / 128)).board.hostLoss = s.board.hostLoss := by rw [hshare]; rfl
  have hpoison : ((s.putOp o).hlcShare (o.pa / 128)).mem.hostPoison = s.mem.hostPoison := by rw [hshare]; rfl
  have hreplies : ((s.putOp o).hlcShare (o.pa / 128)).mem.replies = s.mem.replies := by rw [hshare]; rfl
  have hout : ((s.putOp o).hlcShare (o.pa / 128)).fab = (s.putOp o).fab ∧ ((s.putOp o).hlcShare (o.pa / 128)).mem.reqs = s.mem.reqs := by
    rw [hshare]
    exact ⟨rfl, rfl⟩
  obtain ⟨hfab, hreqs⟩ := hout
  generalize (s.putOp o).hlcShare (o.pa / 128) = v at *
  have hpush : ∀ raw fault, (v.pushReply o raw fault).placement? o.task o.pl = some (p.putOp o) ∧ (v.pushReply o raw fault).fab.net = s.fab.net ∧
      (v.pushReply o raw fault).mem.reqs = s.mem.reqs ∧ (v.pushReply o raw fault).mem.replies = s.mem.replies ++ [⟨o, raw, none, fault, o.gen⟩] := by
    intro raw fault
    refine ⟨?_, (congrArg Fab.net hfab).trans rfl, hreqs, congrArg (· ++ _) hreplies⟩
    exact (congrArg (fun f : Fab => tget f.placements (plKey o.task o.pl)) hfab).trans hput
  rw [hboard, hpoison, countRead_sent _ o hsent]
  cases hloss : s.board.hostLoss
  · cases hpo : nsHas s.mem.hostPoison (o.pa / 128)
    · obtain ⟨hpl, hnet, hreq, hrep⟩ := hpush (v.hostSeen (v.opCluster o) o.pa o.size) none
      exact ⟨hpl, hnet, hreq, fun h => Bool.noConfusion h, fun _ h => Bool.noConfusion h, fun _ _ hposts hnone => (by rw [← hseen hposts hnone]; exact hrep)⟩
    · obtain ⟨hpl, hnet, hreq, hrep⟩ := hpush 0 (some (.uecc, o.ea / 128 * 128))
      exact ⟨hpl, hnet, hreq, fun h => Bool.noConfusion h, fun _ _ => hrep, fun _ h => Bool.noConfusion h⟩
  · obtain ⟨hpl, hnet, hreq, hrep⟩ := hpush 0 (some (.hostlink, o.ea))
    exact ⟨hpl, hnet, hreq, fun _ => hrep, fun h => Bool.noConfusion h, fun h => Bool.noConfusion h⟩

end

/-! ### Acknowledged posts (R66, R180) -/

/-- Two posts of which one leads the other: they are of one wave, or have a byte in common. -/
def Post.leads (y x : Post) : Prop := (y.task = x.task ∧ y.serial = x.serial ∧ y.wave = x.wave) ∨ y.meets x.pa x.bytes.length = true

/-- The posts that go with those hit. -/
def postsHit (hit : Post → Bool) (posts : List Post) : List Post :=
  posts.foldr (fun x acc =>
    let leads := fun (y : Post) => (y.task = x.task && y.serial = x.serial && y.wave = x.wave) || y.meets x.pa x.bytes.length
    if hit x || acc.any leads then x :: acc else acc) []

theorem postsUpTo_eq (hit : Post → Bool) (posts : List Post) : postsUpTo hit posts = (postsHit hit posts).map Post.seq := rfl

theorem mem_postsHit_of_hit {hit : Post → Bool} {posts : List Post} {x : Post} (hx : x ∈ posts) (h : hit x = true) : x ∈ postsHit hit posts := by
  induction posts with
  | nil => cases hx
  | cons y ps ih =>
    rw [postsHit, List.foldr_cons, ← postsHit]
    rcases List.mem_cons.1 hx with rfl | hx
    · rw [if_pos (by simp [h])]
      exact List.mem_cons_self
    · dsimp only
      split
      · exact List.mem_cons_of_mem _ (ih hx)
      · exact ih hx

theorem postsHit_nil {hit : Post → Bool} {posts : List Post} (h : ∀ x ∈ posts, hit x = false) : postsHit hit posts = [] := by
  induction posts with
  | nil => rfl
  | cons y ps ih =>
    rw [postsHit, List.foldr_cons, ← postsHit, ih fun x hx => h x (List.mem_cons_of_mem _ hx)]
    exact if_neg (by simp [h y List.mem_cons_self])

theorem meets_comm (x y : Post) : x.meets y.pa y.bytes.length = y.meets x.pa x.bytes.length := by
  rw [Post.meets, Post.meets, Bool.and_comm]

/-- An earlier post goes with a later one that is hit and that it leads. -/
theorem mem_postsHit_of_leads {hit : Post → Bool} {posts : List Post} {i j : Nat} {y x : Post} (hij : i < j) (hy : posts[i]? = some y)
    (hx : posts[j]? = some x) (h : hit x = true) (hl : y.leads x) : y ∈ postsHit hit posts := by
  induction posts generalizing i j with
  | nil => simp at hy
  | cons z ps ih =>
    obtain ⟨j, rfl⟩ := Nat.exists_eq_add_one_of_ne_zero (by omega : j ≠ 0)
    rw [List.getElem?_cons_succ] at hx
    rw [postsHit, List.foldr_cons, ← postsHit]
    cases i with
    | zero =>
      rw [List.getElem?_cons_zero] at hy
      obtain rfl := Option.some.inj hy
      have hmem := mem_postsHit_of_hit (List.mem_of_getElem? hx) h
      rw [if_pos]
      · exact List.mem_cons_self
      · refine Bool.or_eq_true_iff.2 (.inr (List.any_eq_true.2 ⟨x, hmem, ?_⟩))
        rcases hl with ⟨ht, hs, hw⟩ | hm
        · simp [ht, hs, hw]
        · rw [meets_comm, hm, Bool.or_true]
    | succ i =>
      have hin := ih (by omega) hy hx
      dsimp only
      split
      · exact List.mem_cons_of_mem _ hin
      · exact hin

theorem settlePosts_eq (m : Mem) (hit : Post → Bool) :
    m.settlePosts hit = { m with posts := m.posts.filter (fun x => !(postsUpTo hit m.posts).any (fun n => n = x.seq)) } := by
  rw [Mem.settlePosts]
  split
  · rename_i h
    rw [List.isEmpty_iff] at h
    obtain ⟨⟩ := m
    cases h
    rfl
  · rfl

theorem settlePosts_spec (m : Mem) (hit : Post → Bool) :
    (m.settlePosts hit).posts.Sublist m.posts ∧ (∀ x ∈ (m.settlePosts hit).posts, hit x = false) ∧
      ((∀ x ∈ m.posts, hit x = false) → (m.settlePosts hit).posts = m.posts) ∧
      ∀ (i j : Nat) (y x : Post), i < j → m.posts[i]? = some y → m.posts[j]? = some x → hit x = true → y.leads x → y ∉ (m.settlePosts hit).posts := by
  rw [settlePosts_eq]
  have hgone : ∀ y ∈ postsHit hit m.posts, y ∉ m.posts.filter (fun x => !(postsUpTo hit m.posts).any (fun n => n = x.seq)) := fun y hy hmem => by
    have hk := (List.mem_filter.1 hmem).2
    rw [postsUpTo_eq, Bool.not_eq_true', List.any_eq_false] at hk
    exact hk y.seq (List.mem_map_of_mem hy) (by simp)
  refine ⟨List.filter_sublist, fun x hx => ?_, fun hno => ?_, fun i j y x hij hy hx hh hl => hgone y (mem_postsHit_of_leads hij hy hx hh hl)⟩
  · by_contra hh
    exact hgone x (mem_postsHit_of_hit (List.mem_filter.1 hx).1 (by simpa using hh)) hx
  · rw [postsUpTo_eq, postsHit_nil hno]
    exact List.filter_eq_self.2 fun _ _ => rfl


/-! ### Replies and acknowledgements (R128, R330) -/

section
variable {s : State} {p : Placement}

theorem replyAccepted_of {op : WobOp} {gen : Bool} (hp : s.placement? op.task op.pl = some p) (hgen : gen = (s.fret (p.homePf op.tag)).gen) :
    s.replyAccepted op gen = true := by
  have hhome : s.homePfOf op = p.homePf op.tag := by
    rw [State.homePfOf, hp]
    rfl
  rw [State.replyAccepted, hp, hhome, ← hgen]
  simp

variable {r : Reply} (hcyc : s.frozenNow = false) (hr : s.mem.replies[s.subject]? = some r) (hinst : r.install = none) (hfault : r.fault = none)
  (hp : s.placement? r.op.task r.op.pl = some p) (hgen : r.gen = (s.fret (p.homePf r.op.tag)).gen) (hmov : p.moving = [])

/-- A state without the reply that it has delivered. -/
def State.replyTaken (s : State) : State := { s with mem := { s.mem with replies := dropAt s.mem.replies s.subject } }

include hcyc hr hinst hp hgen

theorem readReply_eq : exec .readReply s = .next (s.replyTaken.deliverReply r) := by
  have hacc : s.replyTaken.replyAccepted r.op r.gen = true := replyAccepted_of (s := s.replyTaken) hp hgen
  rw [exec_readReply, execReadReply, inCycle_next hcyc, hr]
  dsimp only
  rw [hinst]
  exact (if_pos hacc).symm ▸ rfl

include hfault hmov

theorem readReply_early {op : WobOp} (hop : p.wobOp? r.op.seq = some op) (htask : op.task = r.op.task) (hpl : op.pl = r.op.pl) :
    ∃ u, exec .readReply s = .next u ∧ u.placement? op.task op.pl = some (p.putOp { op with st := .replied }) ∧
      u.fab.net = s.fab.net ++ sentToks p (p.homePf op.tag) op.tag op.wave (readResult op r.raw) s.clock.cycle op.instr.dests ∧
      u.mem = { s.mem with replies := dropAt s.mem.replies s.subject } ∧ u.sched = s.sched := by
  have hp' : s.placement? op.task op.pl = some p := by rw [htask, hpl]; exact hp
  have hput : (s.replyTaken.putOp { op with st := .replied }).placement? op.task op.pl = some (p.putOp { op with st := .replied }) :=
    placement_mod s.replyTaken op.task op.pl (fun p => p.putOp { op with st := .replied }) p hp'
  have hdeliver : s.replyTaken.deliverReply r = (s.replyTaken.putOp { op with st := .replied }).sendResult op (readResult op r.raw) := by
    rw [State.deliverReply, show s.replyTaken.placement? _ _ = some p from hp]
    dsimp only
    rw [hop]
    dsimp only
    rw [State.replyEarly, hfault]
  have hsend := sendAll_net hput hmov (p.homePf op.tag) op.tag op.wave (readResult op r.raw) op.instr.dests Flags.none
  rw [flaggedToks_none] at hsend
  have hresult : (s.replyTaken.putOp { op with st := .replied }).sendResult op (readResult op r.raw) =
      (s.replyTaken.putOp { op with st := .replied }).sendAll (p.homePf op.tag) op.task op.pl op.tag op.wave (readResult op r.raw) op.instr.dests Flags.none := by
    rw [State.sendResult, hput]
    rfl
  refine ⟨_, (readReply_eq hcyc hr hinst hp hgen).trans (congrArg Host.Outcome.next (hdeliver.trans (hresult.trans hsend))), hput, ?_, rfl, rfl⟩
  rfl

theorem readReply_held {op : WobOp} (hno : p.wobOp? r.op.seq = none) (hop : p.queueOp? r.op.seq = some op) (htask : op.task = r.op.task)
    (hpl : op.pl = r.op.pl) : ∃ u, exec .readReply s = .next u ∧ HeldDone s u p op (readResult op r.raw) ∧
      u.mem = { s.mem with replies := dropAt s.mem.replies s.subject } ∧ u.sched = s.sched := by
  have hp' : s.replyTaken.placement? op.task op.pl = some p := by rw [htask, hpl]; exact hp
  have hdeliver : s.replyTaken.deliverReply r = s.replyTaken.answerHeld op (readResult op r.raw) := by
    rw [State.deliverReply, show s.replyTaken.placement? _ _ = some p from hp]
    dsimp only
    rw [hno, hop]
    dsimp only
    rw [State.replyHeld, hfault]
  obtain ⟨-, hanswer⟩ := answerHeld_spec hp' hmov (readResult op r.raw)
  refine ⟨_, (readReply_eq hcyc hr hinst hp hgen).trans (congrArg Host.Outcome.next hdeliver), answerHeld_done hp' hmov _, ?_, ?_⟩ <;> rw [hanswer] <;> rfl

end

theorem storeAck_next {s : State} {p : Placement} {a : Ack} (hcyc : s.frozenNow = false) (ha : s.mem.acks[s.subject]? = some a) (hinst : a.install = none)
    (hfault : a.fault = none) (hp : s.placement? a.op.task a.op.pl = some p) (hgen : a.op.gen = (s.fret (p.homePf a.op.tag)).gen) (hmov : p.moving = []) :
    ∃ u, exec .storeAck s = .next u ∧ HeldDone s u p a.op 0 ∧ u.sched = s.sched ∧
      u.mem = { s.mem with acks := dropAt s.mem.acks s.subject, posts := (s.mem.settlePosts (fun x => x.seq = a.op.seq)).posts } := by
  have hsettle : ({ s.mem with acks := dropAt s.mem.acks s.subject } : Mem).settlePost a.op =
      { s.mem with acks := dropAt s.mem.acks s.subject, posts := (s.mem.settlePosts (fun x => x.seq = a.op.seq)).posts } := by
    rw [Mem.settlePost, settlePosts_eq, settlePosts_eq]
  generalize hv : ({ s with mem := ({ s.mem with acks := dropAt s.mem.acks s.subject } : Mem).settlePost a.op } : State) = v
  have hmem : v.mem = { s.mem with acks := dropAt s.mem.acks s.subject, posts := (s.mem.settlePosts (fun x => x.seq = a.op.seq)).posts } := by
    rw [← hv]
    exact hsettle
  have hpv : v.placement? a.op.task a.op.pl = some p := by rw [← hv]; exact hp
  have hacc : v.replyAccepted a.op a.op.gen = true := replyAccepted_of hpv (by rw [← hv]; exact hgen)
  have hinstall : v.installAck a = v := by rw [State.installAck, hinst]
  have hexec : exec .storeAck s = .next (v.answerHeld a.op 0) := by
    rw [exec_storeAck, execStoreAck, inCycle_next hcyc, ha]
    dsimp only
    rw [hv, hinstall, hacc, hfault, hinst]
    rfl
  obtain ⟨-, hanswer⟩ := answerHeld_spec hpv hmov 0
  obtain ⟨hq, hnet⟩ := answerHeld_done hpv hmov 0
  refine ⟨_, hexec, ⟨hq, hnet.trans (by rw [← hv])⟩, ?_, ?_⟩
  · rw [hanswer, ← hv]
  · rw [hanswer]
    exact hmem

/-- Settles O41. -/
theorem readAndAckEvents : Obligations.ReadAndAckEvents := by
  unfold Obligations.ReadAndAckEvents
  intro s hcyc
  refine ⟨fun task pl tag own k p op bef hready hp htask hpl hfw => ?_, fun r p hr hinst hfault hp hgen hmov =>
    ⟨fun op hop htask hpl => readReply_early hcyc hr hinst hfault hp hgen hmov hop htask hpl,
      fun op hno hop htask hpl => readReply_held hcyc hr hinst hfault hp hgen hmov hno hop htask hpl⟩, fun a p ha hinst hfault hp hgen hmov => ?_⟩
  · subst htask hpl
    have hexec := earlyRead_eq hcyc hready hp
    have hhost : op.host = false → op.host = true → s.usesHlc k.fn = true := fun h h' => by simp [h] at h'
    intro fw op' sent
    refine ⟨fun hall => ⟨_, hexec, performRead_served rfl hp hfw hall⟩, fun hpart hscr => ⟨_, hexec, performRead_scratch rfl hp hfw hpart hscr⟩,
      fun hpart hscr hdev hmiss => ⟨_, hexec, performRead_asks rfl hp hfw hpart hscr hdev hmiss⟩,
      fun x hpart hscr hway hline hx => ⟨_, hexec, performRead_hit (o := op') rfl hp hfw hpart hscr hway hline hx⟩,
      fun hpart hscr hdev hno hthr => ⟨_, hexec, performRead_uncached (o := op') rfl hp hfw hpart hscr hdev hno hthr⟩⟩
  · obtain ⟨u, hexec, hdone, hsched, hmem⟩ := storeAck_next hcyc ha hinst hfault hp hgen hmov
    obtain ⟨hsub, hno, hsame, hlead⟩ := settlePosts_spec s.mem (fun x => x.seq = a.op.seq)
    have hposts : u.mem.posts = (s.mem.settlePosts (fun x => x.seq = a.op.seq)).posts := by rw [hmem]
    refine ⟨u, hexec, hdone, by rw [hposts]; exact hmem, hsched, by rw [hposts]; exact hsub, fun x hx => ?_, fun h => ?_, fun i j y x hij hy hx hseq hl => ?_⟩
    · rw [hposts] at hx
      simpa using hno x hx
    · rw [hposts]
      exact hsame fun x hx => by simpa using h x hx
    · rw [hposts]
      exact hlead i j y x hij hy hx (by simpa using hseq) hl

end Sys2Proof.Machine
end


section
/-!
PROOFS. The issue of committed operations (R388, R239): obligation O42 fails for a counter that is written as it counts the bridges that the
write's own result token crosses.
-/
namespace Sys2Proof.Machine

/-! ### A counter of bridges crossed, written -/

/-- `swr` of `evc0` of cluster 1, with 5, its result token bound for fret 1. -/
def writesCounter : WobOp where
  instr := .swrEvc 0 ⟨.s8, false, .rne, [⟨.left, 1, 0, 0, false⟩], .none, .edge, 0, .edge, 0, 0, false, 0, 0, 0⟩
  task := 1
  pl := 0
  tag := 0
  wave := 0
  fret := 0
  velem := 0
  slot := 0
  pf := 8
  pelem := 0
  left := 1
  right := 5
  aux := 0
  squashed := false
  ea := 1
  pa := 1
  host := false
  scratch := false
  st := .committed
  value := 0
  fwd := []
  seq := 0
  reserved := false
  gen := false
  serial := 0

/-- A placement with a fret in cluster 1, of die 0, and one in cluster 200, of die 1. -/
def twoDies : Placement := { loadPlacement 8 with map := [(0, 8), (1, 1600)], queue := [writesCounter] }

/-- Counter 0 of cluster 1 counts the bridges that task 1's tokens cross (code 0x15). -/
def countsBridges : State :=
  let s := bench (loadTask false) twoDies
  { s with fab := { s.fab with evsel := [(4, BitVec.ofNat 64 (2 ^ 32 + 2 ^ 16 + 0x15))] } }

/-- Counter 0 of cluster 1 after an instruction. -/
def counterOf (o : Out) : Option (Option Word) := match o with
  | .next t => some (tget t.fab.evc 4)
  | _ => none

/-- The write's result token crosses a bridge after the counter is written, and is counted in it. -/
theorem counterOf_countsBridges : counterOf (exec (.heldOperationIssue 1 0 0) countsBridges) = some (some 6) := by decide +kernel

/-- Refutes O42: the counter is not what was written to it. -/
theorem not_heldOperationIssue : ¬ Obligations.HeldOperationIssue := by
  unfold Obligations.HeldOperationIssue
  intro h
  obtain ⟨t, ht, -, -, -, -, hput, -⟩ := h countsBridges 1 0 0 (loadTask false) twoDies writesCounter [] (by decide +kernel) (by decide +kernel)
    (by decide +kernel) rfl rfl rfl (by decide +kernel) (by decide +kernel)
  have hevc : tget t.fab.evc 4 = some 5 := hput (by decide) (by decide +kernel)
  have hcount := counterOf_countsBridges
  rw [ht] at hcount
  have hsix : tget t.fab.evc 4 = some 6 := Option.some.inj hcount
  rw [hsix] at hevc
  exact absurd hevc (by decide)

end Sys2Proof.Machine
end


section
/-!
PROOFS. A line's home (R15, R152, R156, R158, R165, R330, R341): obligation O43.
-/
namespace Sys2Proof.Machine

/-! ### The operations of `atom` (R341) -/

/-- A value of an access's width as a signed or an unsigned integer (R330). -/
def accInt (a : Acc) (v : Nat) : Int := if a.signed = true ∧ 2 ^ (8 * a.size - 1) ≤ v then (v : Int) - 2 ^ (8 * a.size) else v

theorem pow_accWidth (a : Acc) : 2 ^ (8 * a.size) = 2 * 2 ^ (8 * a.size - 1) ∧ 2 ^ (8 * a.size) ≤ 2 ^ 64 := by cases a <;> decide

theorem extend_eq_accInt (a : Acc) {v : Nat} (h : v < 2 ^ (8 * a.size)) : a.extend v = BitVec.ofInt 64 (accInt a v) := by
  obtain ⟨hw, hle⟩ := pow_accWidth a
  have htop : v.testBit (8 * a.size - 1) = decide (2 ^ (8 * a.size - 1) ≤ v) := by
    have hpos := Nat.two_pow_pos (8 * a.size - 1)
    rw [Nat.testBit_eq_decide_div_mod_eq]
    by_cases hge : 2 ^ (8 * a.size - 1) ≤ v
    · have hdiv : v / 2 ^ (8 * a.size - 1) = 1 := Nat.div_eq_of_lt_le (by omega) (by omega)
      simp [hdiv, hge]
    · simp [Nat.div_eq_of_lt (Nat.lt_of_not_le hge), hge]
  apply BitVec.eq_of_toNat_eq
  rw [Acc.extend, accInt, htop, Nat.mod_eq_of_lt h]
  cases hs : a.signed with
  | false => simp
  | true =>
    by_cases hge : 2 ^ (8 * a.size - 1) ≤ v
    · have hcast : ((2 ^ (8 * a.size) : Nat) : Int) = 2 ^ (8 * a.size) := by push_cast; rfl
      simp only [hge, decide_true, Bool.and_self, if_true, and_self, BitVec.toNat_ofNat, BitVec.toNat_ofInt, ← hcast]
      omega
    · simp [hge]

/-- The comparison that `atom.min` and `atom.max` make is that of the integers. -/
theorem less_eq_accInt (a : Acc) {x y : Nat} (hx : x < 2 ^ (8 * a.size)) (hy : y < 2 ^ (8 * a.size)) :
    (if a.signed then decide ((BitVec.ofNat (8 * a.size) x).toInt < (BitVec.ofNat (8 * a.size) y).toInt) else decide (x < y)) =
      decide (accInt a x < accInt a y) := by
  cases hs : a.signed with
  | false => simp [accInt, hs]
  | true =>
    have hint : ∀ v, v < 2 ^ (8 * a.size) → (BitVec.ofNat (8 * a.size) v).toInt = accInt a v := by
      intro v hv
      obtain ⟨hw, -⟩ := pow_accWidth a
      have hcast : ((2 ^ (8 * a.size) : Nat) : Int) = 2 ^ (8 * a.size) := by push_cast; rfl
      rw [BitVec.toInt_eq_toNat_cond, BitVec.toNat_ofNat, Nat.mod_eq_of_lt hv, accInt, hs]
      by_cases hge : 2 ^ (8 * a.size - 1) ≤ v
      · rw [if_neg (by omega), if_pos ⟨rfl, hge⟩, hcast]
      · rw [if_pos (by omega), if_neg (fun h => hge h.2)]
    rw [hint x hx, hint y hy, if_pos rfl]

theorem accInt_inj (a : Acc) {x y : Nat} (hx : x < 2 ^ (8 * a.size)) (hy : y < 2 ^ (8 * a.size)) (h : accInt a x = accInt a y) : x = y := by
  have hcast : ((2 ^ (8 * a.size) : Nat) : Int) = 2 ^ (8 * a.size) := by push_cast; rfl
  rw [accInt, accInt, ← hcast] at h
  split at h <;> split at h <;> omega

/-- The lesser and the greater of two values, as integers. -/
def accMin (a : Acc) (x y : Nat) : Nat := if accInt a x < accInt a y then x else y
def accMax (a : Acc) (x y : Nat) : Nat := if accInt a x < accInt a y then y else x

theorem accMin_comm (a : Acc) {x y : Nat} (hx : x < 2 ^ (8 * a.size)) (hy : y < 2 ^ (8 * a.size)) : accMin a x y = accMin a y x := by
  unfold accMin
  split <;> split
  · omega
  · rfl
  · rfl
  · exact accInt_inj a hy hx (by omega)

/-- What an `atom` makes of the old value, x its second operand and e its third (R341, R342). -/
theorem atomNew_makes (op : WobOp) {old : Nat} (h : old < 2 ^ (8 * op.size)) :
    let x := op.right.toNat % 2 ^ (8 * op.size)
    let e := op.aux.toNat % 2 ^ (8 * op.size)
    let makes := fun (v : Nat) => atomNew op old = (some v, Flags.none)
    match op.instr with
    | .atomAdd _ => makes ((old + x) % 2 ^ (8 * op.size))
    | .atomMin _ => makes (accMin op.acc old x)
    | .atomMax _ => makes (accMax op.acc old x)
    | .atomAnd _ => makes (old &&& x)
    | .atomOr _ => makes (old ||| x)
    | .atomXor _ => makes (old ^^^ x)
    | .atomXchg _ => makes x
    | .atomCas _ => (old = e → makes x) ∧ (old ≠ e → atomNew op old = (none, Flags.none))
    | .atomInc _ => makes ((old + 1) % 2 ^ (8 * op.size))
    | .atomFadd _ => ∃ v fl, atomNew op old = (some v, fl) ∧ (op.size = 4 → (v, fl) = atomFadd fmtF32 old x) ∧
        (op.size = 8 → (v, fl) = atomFadd fmtF64 old x)
    | _ => True := by
  intro x e makes
  have hx : x < 2 ^ (8 * op.acc.size) := Nat.mod_lt _ (Nat.two_pow_pos _)
  cases hi : op.instr
  case atomMin f =>
    refine Eq.trans (b := (some (accMin op.acc x old), Flags.none)) ?_ (by rw [accMin_comm op.acc h hx])
    rw [atomNew, hi]
    refine (congrArg (fun b : Bool => (some (if b = true then x else old), Flags.none)) (less_eq_accInt op.acc hx h)).trans ?_
    simp only [accMin, decide_eq_true_eq]
  case atomMax f =>
    change atomNew op old = _
    rw [atomNew, hi]
    refine (congrArg (fun b : Bool => (some (if b = true then x else old), Flags.none)) (less_eq_accInt op.acc h hx)).trans ?_
    simp only [accMax, decide_eq_true_eq]
  case atomCas f =>
    refine ⟨fun he => ?_, fun he => ?_⟩
    · change atomNew op old = _
      rw [atomNew, hi]
      exact congrArg (·, Flags.none) (if_pos he)
    · rw [atomNew, hi]
      exact congrArg (·, Flags.none) (if_neg he)
  case atomFadd f =>
    refine ⟨_, _, by rw [atomNew, hi], fun h4 => ?_, fun h8 => ?_⟩
    · rw [if_pos h4]
    · rw [if_neg (by omega)]
  case atomAdd | atomAnd | atomOr | atomXor | atomXchg | atomInc =>
    change atomNew op old = _
    rw [atomNew, hi]
  all_goals trivial

/-! ### Read misses (R152, R157, R158, R165) -/

/-- A look at the check bytes of a line that the L2 holds finds nothing. -/
theorem readLines_present {s : State} {l : Nat} {x : L2Line} (h : tget s.mem.l2 l = some x) : s.readLines [l] = s := by
  change { s with mem := s.mem.checkRead l } = s
  rw [Mem.checkRead, h]
  rfl

/-- A look at the check bytes of a line that is not poisoned marks nothing. -/
theorem checkRead_sound {s : State} {l : Nat} (h : s.poisoned l = false) :
    (s.readLines [l]).mem = { s.mem with flaws := (s.readLines [l]).mem.flaws, corrected := (s.readLines [l]).mem.corrected } := by
  change s.mem.checkRead l = { s.mem with flaws := (s.mem.checkRead l).flaws, corrected := (s.mem.checkRead l).corrected }
  obtain ⟨-, hflaw⟩ := Bool.or_eq_false_iff.1 h
  unfold Mem.checkRead
  split
  next hc =>
    obtain ⟨h2, hmsc⟩ := Bool.and_eq_true_iff.1 hc
    rw [Mem.flawed, h2, hmsc, Bool.and_true, Bool.and_true, decide_eq_false_iff_not, tgetD] at hflaw
    unfold Mem.checkHbm
    split
    next => rfl
    next n hn =>
      rw [hn] at hflaw
      rw [if_pos (show n ≤ 1 from Nat.le_of_not_lt hflaw)]
  next => rfl

/-- A count of an early read changes event counters alone. -/
theorem countRead_counts (s : State) (op : WobOp) :
    s.countRead op = { s with fab := { s.fab with evc := (s.countRead op).fab.evc } } ∧ (op.early = false → s.countRead op = s) := by
  rw [State.countRead]
  split
  next h => exact ⟨rfl, fun he => by rw [he] at h; cases h⟩
  next => exact ⟨rfl, fun _ => rfl⟩

/-- A read that is answered leaves its reply and its count. -/
theorem countRead_pushReply (s : State) (op : WobOp) (raw : Nat) :
    let u := (s.countRead op).pushReply op raw none
    u = { s with mem := { s.mem with replies := s.mem.replies ++ [⟨op, raw, none, none, op.gen⟩] }, fab := u.fab } ∧
    u.fab = { s.fab with evc := u.fab.evc } ∧ (op.early = false → u.fab = s.fab) := by
  obtain ⟨hc, hlate⟩ := countRead_counts s op
  refine ⟨?_, congrArg State.fab hc, fun h => (congrArg State.fab (hlate h) : (s.countRead op).fab = s.fab)⟩
  rw [hc]
  rfl

section
variable {s : State} {r : Req} {nt : Bool} {x : L2Line}

theorem homeReadMiss_next {u : State} (hr : s.servable s.subject = some r) (hk : r.kind = .read nt) (h : s.serveRead r nt = u) :
    exec .homeReadMiss s = .next u := by
  subst h
  rw [exec_homeReadMiss, execHomeReadMiss, hr]
  simp only [hk]

theorem serveRead_spent (h : s.mem.isSpent r.line = true) : s.serveRead r nt = (s.takeReq r).readFault r .overread r.op.ea := by
  rw [State.serveRead, if_pos h]
  exact if_pos h

theorem serveRead_poisoned (hs : s.mem.isSpent r.line = false) (hp : s.poisoned r.line = true) :
    s.serveRead r nt = ((s.readLines [r.line]).takeReq r).readFault r .uecc r.op.lineVa := by
  simp [State.serveRead, hs, hp]

theorem serveRead_busy (hs : s.mem.isSpent r.line = false) (hp : s.poisoned r.line = false) (hb : s.busy r.line = true) :
    s.serveRead r nt = (((s.readLines [r.line]).takeReq r).countRead r.op).pushReply r.op
      (lineRead (s.mem.hbmLine r.line) (r.op.pa % 128) r.op.size) none := by
  have hline : (s.readLines [r.line]).mem.hbmLine = s.mem.hbmLine := by
    rw [readLines_checked s [r.line]]
    rfl
  have hbusy : (s.readLines [r.line]).busy r.line = true := hb
  simp [State.serveRead, hs, hp, hbusy, hline]

/-- A read miss of a line that the L2 holds, and that is neither spent, poisoned nor busy. -/
theorem serveRead_present (hx : tget s.mem.l2 r.line = some x) (hs : s.mem.isSpent r.line = false) (hp : s.poisoned r.line = false)
    (hb : s.busy r.line = false) :
    s.serveRead r nt = if x.count ≠ 0 then (s.takeReq r).sendData r none
      else match x.dir with
        | .e y => if y = r.cluster then ((s.takeReq r).setDir r.line .i).readShared r nt else s.beginTxn r [y] .forward
        | _ => (s.takeReq r).readShared r nt := by
  rw [State.serveRead, hs]
  simp only [Bool.false_eq_true, if_false, readLines_present hx, hs, hp, hb, Mem.counted, Mem.dirOf, hx, Option.map_some, Option.getD_some,
    decide_eq_true_eq] <;> rfl

theorem fetchHdm_clean {m : Mem} {l : Nat} (h : tget m.hdmMod l = none) : m.fetchHdm l = m := by
  rw [Mem.fetchHdm, h]
  rfl

/-- A line given to a reader in a state, as the L2 then lists it. -/
structure Given (s u : State) (r : Req) (y : L2Line) (st : L1St) : Prop where
  replies : u.mem.replies = s.mem.replies ++ [⟨r.op, lineRead y.data (r.op.pa % 128) r.op.size, some (r.line, st, y.data), none, r.op.gen⟩]
  line : tget u.mem.l2 r.line = some y
  others : ∀ l, l ≠ r.line → tget u.mem.l2 l = tget s.mem.l2 l
  reqs : u.mem.reqs = s.mem.reqs
  l1 : u.mem.l1 = s.mem.l1
  hbm : u.mem.hbm = s.mem.hbm
  fab : u.fab = { s.fab with evc := u.fab.evc }
  late : r.op.early = false → u.fab = s.fab
  sched : u.sched = s.sched
  msgs : u.mem.msgs = s.mem.msgs
  txns : u.mem.txns = s.mem.txns

theorem sendData_given (hx : tget s.mem.l2 r.line = some x) (st : L1St) (d : Dir) :
    Given s ((s.setDir r.line d).sendData r (some st)) r { x with dir := d } st := by
  obtain ⟨hc, hlate⟩ := countRead_counts (s.setDir r.line d) r.op
  have hline : tget (s.setDir r.line d).mem.l2 r.line = some { x with dir := d } := (tget_tmod_same _ _ _).trans (by rw [hx]; rfl)
  have hu : (s.setDir r.line d).sendData r (some st) = { s.setDir r.line d with
      fab := ((s.setDir r.line d).countRead r.op).fab
      mem := { (s.setDir r.line d).mem with
        replies := s.mem.replies ++ [⟨r.op, lineRead x.data (r.op.pa % 128) r.op.size, some (r.line, st, x.data), none, r.op.gen⟩] } } := by
    rw [State.sendData, Mem.l2Data, hline, hc]
    rfl
  rw [hu]
  exact ⟨rfl, hline, fun l hl => tget_tmod_ne _ _ _ _ hl, rfl, rfl, rfl, congrArg State.fab hc,
    fun h => (congrArg State.fab (hlate h) : ((s.setDir r.line d).countRead r.op).fab = (s.setDir r.line d).fab), rfl, rfl, rfl⟩

/-- A shared read of a line that the L2 holds and the host has not modified (R152, R173). -/
theorem readShared_given (hx : tget s.mem.l2 r.line = some x) (hm : tget s.mem.hdmMod r.line = none) {st : L1St} {d : Dir}
    (hd : (x.dir = .i ∧ s.mem.migAt (128 * r.line) = none ∧ nsHas s.mem.hdm r.line = false ∧ st = .e ∧ d = .e r.cluster) ∨
      ((∃ ps, x.dir = .sp ps) ∧ st = .s ∧ d = x.dir.share r.cluster)) :
    Given s (s.readShared r false) r { x with dir := d, used := s.seqCtr } st := by
  let t : State := { s.bump with mem := { s.mem with l2 := tput s.mem.l2 r.line { x with used := s.seqCtr } } }
  have htx : tget t.mem.l2 r.line = some { x with used := s.seqCtr } := tget_tput_same _ _ _
  have hgiven : s.readShared r false = (t.setDir r.line d).sendData r (some st) := by
    have hdir : t.mem.dirOf r.line = x.dir := by rw [Mem.dirOf, htx]; rfl
    rw [State.readShared, fetchHdm_clean hm, Mem.ensureL2_present hx]
    change (match t.mem.dirOf r.line, (s.mem.migAt (128 * r.line)).isSome || nsHas s.mem.hdm r.line with
      | .i, false => (t.setDir r.line (.e r.cluster)).sendData r (some .e)
      | d, _ => (t.setDir r.line (d.share r.cluster)).sendData r (some .s)) = _
    rw [hdir]
    obtain ⟨hi, hg, hn, rfl, rfl⟩ | ⟨⟨ps, hps⟩, rfl, rfl⟩ := hd
    · rw [hi, hg, hn]
      rfl
    · rw [hps]
  have hg : Given t (s.readShared r false) r { x with dir := d, used := s.seqCtr } st := by
    rw [hgiven]
    exact sendData_given htx st d
  exact ⟨hg.replies, hg.line, fun l hl => (hg.others l hl).trans (tget_tput_ne _ _ _ _ hl), hg.reqs, hg.l1, hg.hbm, hg.fab, hg.late, hg.sched, hg.msgs, hg.txns⟩

/-! ### Write misses (R152, R157, R158) -/

theorem homeWriteMiss_next {u : State} (hr : s.servable s.subject = some r) (hk : r.kind = .write) (h : s.serveWrite r = u) :
    exec .homeWriteMiss s = .next u := by
  subst h
  rw [exec_homeWriteMiss, execHomeWriteMiss, hr]
  exact if_pos hk

theorem serveWrite_spent (h : s.mem.isSpent r.line = true) :
    s.serveWrite r = (s.takeReq r).pushAck r.op r.line none (some (.overread, r.op.ea)) := by
  rw [State.serveWrite, if_pos h]

/-- The clusters whose copies a write miss has removed. -/
def Dir.removed (d : Dir) (all : Bool) (c : Nat) : List Nat := match d with
  | .e y => [y]
  | d => d.targets.filter (fun k => all || k ≠ c)

theorem serveWrite_present (hx : tget s.mem.l2 r.line = some x) (hs : s.mem.isSpent r.line = false) :
    s.serveWrite r = if (x.dir.removed (s.storeAtHome r.line) r.cluster).isEmpty then (s.takeReq r).completeWrite r
      else s.beginInval r (x.dir.removed (s.storeAtHome r.line) r.cluster) := by
  have hd : s.mem.dirOf r.line = x.dir := by rw [Mem.dirOf, hx]; rfl
  rw [State.serveWrite, hs, hd]
  rfl

/-- No page of an unmeasured package is copied. -/
theorem snapshot_unmeasured (h : s.obs.meas = []) (task pa : Nat) : s.snapshot task pa = s := by
  rw [State.snapshot, State.snapshotting, h]
  split <;> rfl

theorem backInvalidate_clean {m : Mem} {l : Nat} (h : tget m.hdmMod l = none) :
    ∃ hdm mods backInv, m.backInvalidate l = { m with hdm := hdm, hdmMod := mods, backInv := backInv } ∧ tget mods l = none := by
  rw [Mem.backInvalidate]
  split
  · rw [Mem.endHdm, h]
    exact ⟨_, _, _, rfl, tget_tdel_same _ _⟩
  · exact ⟨_, _, _, rfl, h⟩

/-- A write miss of a line in no other cluster, that the L2 holds and the host has not modified: the line is given in M. -/
theorem completeWrite_gives (hx : tget s.mem.l2 r.line = some x) (hm : tget s.mem.hdmMod r.line = none) (hh : s.storeAtHome r.line = false)
    (hmeas : s.obs.meas = []) :
    let u := s.completeWrite r
    u.mem.acks = s.mem.acks ++ [⟨r.op, r.line, some x.data, none⟩] ∧ tget u.mem.l2 r.line = some { x with dir := .e r.cluster, used := s.seqCtr } ∧
    u.mem.reqs = s.mem.reqs ∧ u.mem.l1 = s.mem.l1 ∧ u.mem.hbm = s.mem.hbm ∧ u.fab = s.fab ∧ u.sched = s.sched ∧ u.mem.msgs = s.mem.msgs ∧
    u.mem.txns = s.mem.txns := by
  obtain ⟨hdm, mods, backInv, hb, -⟩ := backInvalidate_clean hm
  let m : Mem := { s.mem with hdm := hdm, hdmMod := mods, backInv := backInv, l2 := tput s.mem.l2 r.line { x with used := s.seqCtr } }
  have hline : tget (m.setDir r.line (.e r.cluster)).l2 r.line = some { x with dir := .e r.cluster, used := s.seqCtr } := by
    refine (tget_tmod_same _ _ _).trans ?_
    rw [show tget m.l2 r.line = _ from tget_tput_same _ _ _]
    rfl
  have hu : s.completeWrite r = { s.bump with mem := { m.setDir r.line (.e r.cluster) with
      acks := s.mem.acks ++ [⟨r.op, r.line, some x.data, none⟩] } } := by
    rw [State.completeWrite, snapshot_unmeasured hmeas, hh, hb, Mem.ensureL2_present (m := { s.mem with hdm := hdm, hdmMod := mods, backInv := backInv }) hx]
    change State.pushAck { s.bump with mem := m.setDir r.line (.e r.cluster) } _ _ (some ((m.setDir r.line (.e r.cluster)).l2Data r.line)) _ = _
    rw [Mem.l2Data, hline]
    rfl
  intro u
  rw [show u = _ from hu]
  exact ⟨rfl, hline, rfl, rfl, rfl, rfl, rfl, rfl, rfl⟩

/-! ### Accesses performed at the home (R156, R337, R341) -/

theorem homePerformedAccess_next {u : State} (hr : s.servable s.subject = some r) (hk : r.kind = .atHome) (h : s.serveAtHome r = u) :
    exec .homePerformedAccess s = .next u := by
  subst h
  rw [exec_homePerformedAccess, execHomePerformedAccess, hr]
  exact if_pos hk

theorem serveAtHome_spent (h : s.mem.isSpent r.line = true) : s.serveAtHome r = (s.takeReq r).readFault r .overread r.op.ea := by
  rw [State.serveAtHome, if_pos h]

theorem serveAtHome_cntq {f : FmtM} (hs : s.mem.isSpent r.line = false) (hi : r.op.instr = .cntq f) :
    s.serveAtHome r = ((s.takeReq r).countRead r.op).pushReply r.op (s.mem.countAt r.line) none := by
  have hc : ((s.takeReq r).countRead r.op).mem.countAt r.line = s.mem.countAt r.line := by
    rw [(countRead_counts (s.takeReq r) r.op).1]
    rfl
  rw [State.serveAtHome, hs, hi]
  dsimp only
  rw [if_neg Bool.false_ne_true, State.completeAtHome, hi]
  rfl

theorem serveAtHome_atom (ha : isAtom r.op.instr = true) (hs : s.mem.isSpent r.line = false) (hd : s.mem.dirOf r.line = .i) :
    s.serveAtHome r = (s.takeReq r).atomHome r := by
  have hdone : (s.takeReq r).completeAtHome r = (s.takeReq r).atomHome r := by
    rw [State.completeAtHome]
    cases hi : r.op.instr <;> first | rfl | (rw [hi] at ha; cases ha)
  rw [← hdone, State.serveAtHome, hs, hd]
  cases hi : r.op.instr <;> rfl

/-- The marks that an `atom` leaves beside its write: its flags with its element, and counts and hashes. -/
theorem noteAtom_notes (s : State) (op : WobOp) (new : Option Nat) (fl : Flags) :
    (s.noteAtom op new fl).mem = s.mem ∧ (s.noteAtom op new fl).sched = s.sched ∧
    ∀ p, s.placement? op.task op.pl = some p → ∃ q, (s.noteAtom op new fl).placement? op.task op.pl = some q ∧ q.flags = p.flags.or fl := by
  let t := ((s.setFlags op.task op.pl fl).countOp op 0x17).countOp op 0x0A
  have ht : ∀ p, s.placement? op.task op.pl = some p → t.placement? op.task op.pl = some { p with flags := p.flags.or fl } :=
    fun p hp => placement_mod s op.task op.pl (fun p => { p with flags := p.flags.or fl }) p hp
  cases new with
  | none => exact ⟨rfl, rfl, fun p hp => ⟨_, ht p hp, rfl⟩⟩
  | some v => exact ⟨rfl, rfl, fun p hp => ⟨_, placement_mod { t with obs := (t.noteWrite op v).obs } op.task op.pl _ _ (ht p hp), rfl⟩⟩

/-- What a line that the L2 holds reads as: an L1's modified copy, or the L2's. -/
theorem value_present {m : Mem} {k : Nat} (hx : tget m.l2 k = some x) (hm : tget m.hdmMod k = none) :
    m.value k = (((m.l1Of k).find? (fun y => y.st = .m)).map L1Line.data).getD x.data := by
  rw [Mem.value, hm, hx]
  cases (m.l1Of k).find? (fun y => y.st = .m) <;> rfl

/-- A write at home of a line that the L2 holds and the host has not modified. -/
theorem homeWrite_present {m : Mem} {k : Nat} (off n v u : Nat) (hx : tget m.l2 k = some x) (hm : tget m.hdmMod k = none) :
    (m.homeWrite k off n v u).value k = lineWrite (m.value k) off n v := by
  obtain ⟨hdm, mods, backInv, hb, hmod⟩ := backInvalidate_clean hm
  obtain ⟨hgm, hg1, -⟩ := m.gathered_self k u
  let m' : Mem := { m with hdm := hdm, hdmMod := mods, backInv := backInv, l2 := tput m.l2 k { x with used := u } }
  have hm' : tget m'.l2 k = some { x with used := u } := tget_tput_same _ _ _
  have hgather : m.gathered k u = m'.recallAll k := by
    rw [Mem.gathered, hb, Mem.ensureL2_present (m := { m with hdm := hdm, hdmMod := mods, backInv := backInv }) hx]
  have hline : tget (m.gathered k u).l2 k = some { x with
      used := u, data := m'.value k, dirty := x.dirty || (m'.l1Of k).any (fun y => y.st = .m), dir := .i } := by
    rw [hgather, (m'.recallAll_fields k).2.2.2, hm']
    rfl
  rw [(m.homeWrite_self k off n v u).1, Mem.value_of_l2 hgm hg1 hline, value_present hm' hmod, value_present hx hm]
  rfl

/-- An `atom` on a line that the L2 holds and that no cluster, host, engine or migration uses (R156). -/
theorem atomHome_performs {s : State} (hx : tget s.mem.l2 r.line = some x) (hm : tget s.mem.hdmMod r.line = none) (hp : s.poisoned r.line = false)
    (hb : s.busy r.line = false) (hmeas : s.obs.meas = []) (hline : r.op.pa / 128 = r.line) (hhost : isHost r.op.pa = false)
    (hhline : isHost (128 * r.line) = false) (hfly : s.mem.inFlight r.line = none) (hmir : s.mem.mirror r.op.pa = none) :
    let u := s.atomHome r
    let old := lineRead (s.mem.value r.line) (r.op.pa % 128) r.op.size
    (⟨r.op, old, none, none, r.op.gen⟩ : Reply) ∈ u.mem.replies ∧
    u.mem.value r.line = (match (atomNew r.op old).1 with
      | some v => lineWrite (s.mem.value r.line) (r.op.pa % 128) r.op.size v
      | none => s.mem.value r.line) ∧
    (∀ p, s.placement? r.op.task r.op.pl = some p → ∃ q, u.placement? r.op.task r.op.pl = some q ∧ q.flags = p.flags.or (atomNew r.op old).2) ∧
    u.sched = s.sched := by
  obtain ⟨hdm, mods, backInv, hback, hmod⟩ := backInvalidate_clean hm
  let t : State := { s with mem := { s.mem with hdm := hdm, hdmMod := mods, backInv := backInv } }
  have ht : ({ s with mem := (s.mem.backInvalidate r.line).checkRead r.line } : State) = t := by
    rw [hback, Mem.checkRead]
    dsimp only
    rw [hx]
    rfl
  have hvalue : t.mem.value r.line = s.mem.value r.line := by rw [value_present (m := t.mem) hx hmod, value_present hx hm]; rfl
  have hold : t.readNat r.op.pa r.op.size = lineRead (s.mem.value r.line) (r.op.pa % 128) r.op.size := by
    rw [State.readNat, hline, State.lineValue, hhline, show t.busy r.line = false from hb, show t.mem.inFlight r.line = none from hfly, ← hvalue]
    rfl
  intro u old
  have hu : u = ((match (atomNew r.op old).1 with
      | some v => (t.snapshot r.op.task r.op.pa).writePiece (t.fnOf r.op) r.op.pa r.op.size v
      | none => t).noteAtom r.op (atomNew r.op old).1 (atomNew r.op old).2).pushReply r.op old none := by
    change s.atomHome r = _
    rw [State.atomHome, ht, show t.poisoned r.line = false from hp, hold]
    rfl
  have hdone : ∀ w : State, w.mem.value r.line = (match (atomNew r.op old).1 with
        | some v => lineWrite (s.mem.value r.line) (r.op.pa % 128) r.op.size v
        | none => s.mem.value r.line) → w.fab = s.fab → w.sched = s.sched →
      let u := (w.noteAtom r.op (atomNew r.op old).1 (atomNew r.op old).2).pushReply r.op old none
      (⟨r.op, old, none, none, r.op.gen⟩ : Reply) ∈ u.mem.replies ∧ u.mem.value r.line = (match (atomNew r.op old).1 with
        | some v => lineWrite (s.mem.value r.line) (r.op.pa % 128) r.op.size v
        | none => s.mem.value r.line) ∧
      (∀ p, s.placement? r.op.task r.op.pl = some p → ∃ q, u.placement? r.op.task r.op.pl = some q ∧ q.flags = p.flags.or (atomNew r.op old).2) ∧
      u.sched = s.sched := by
    intro w hw hfab hsched
    obtain ⟨hmem, hs, hflags⟩ := noteAtom_notes w r.op (atomNew r.op old).1 (atomNew r.op old).2
    refine ⟨List.mem_append_right _ (List.mem_singleton.2 rfl), ?_, fun p hp => hflags p ?_, hs.trans hsched⟩
    · rw [← hw, ← hmem]
      rfl
    · rw [State.placement?, hfab]
      exact hp
  rw [hu]
  apply hdone
  · cases (atomNew r.op old).1 with
    | none => exact hvalue
    | some v =>
      change ((t.snapshot r.op.task r.op.pa).writePiece (t.fnOf r.op) r.op.pa r.op.size v).mem.value r.line = lineWrite _ _ _ _
      rw [snapshot_unmeasured (s := t) hmeas, writePiece_plain (s := t) hmir, writeAt_home (s := t) hhost (by rw [hline]; exact hb), ← hvalue, hline]
      exact homeWrite_present (m := t.mem) _ _ _ _ hx hmod
  · cases (atomNew r.op old).1 with
    | none => rfl
    | some v =>
      change ((t.snapshot r.op.task r.op.pa).writePiece (t.fnOf r.op) r.op.pa r.op.size v).fab = _
      rw [snapshot_unmeasured (s := t) hmeas]
      exact (by simp : (t.writePiece (t.fnOf r.op) r.op.pa r.op.size v).fab = t.fab)
  · cases (atomNew r.op old).1 with
    | none => rfl
    | some v =>
      change ((t.snapshot r.op.task r.op.pa).writePiece (t.fnOf r.op) r.op.pa r.op.size v).sched = _
      rw [snapshot_unmeasured (s := t) hmeas]
      exact (by simp : (t.writePiece (t.fnOf r.op) r.op.pa r.op.size v).sched = t.sched)

end

/-! ### The obligation -/

/-- Settles O43: the home's service of each request, case by case. -/
theorem homeEvents : Obligations.HomeEvents := by
  unfold Obligations.HomeEvents
  intro s r hr
  dsimp only
  refine ⟨fun nt hk => ⟨fun hs => ?_, fun hs hp => ?_, fun hs hp hb => ?_, fun x hx hs hp hb hm => ⟨fun hc => ?_, ?_, ?_, fun hc y hy hne => ?_⟩⟩,
    fun hk => ⟨fun hs => ?_, fun x hx hs hm => ⟨fun hh hd hmeas => ?_, fun ps hps hne => ?_, fun y hy => ?_⟩⟩,
    fun hk => ⟨fun hs => ?_, fun x hx hd hs ha hp hb hmeas hline hhost hhline hm hfly hmir => ?_, fun f hi hs => ?_⟩, fun old hold => ⟨?_, ?_⟩⟩
  · exact ⟨_, homeReadMiss_next hr hk (serveRead_spent hs), rfl⟩
  · refine ⟨_, homeReadMiss_next hr hk (serveRead_poisoned hs hp), ?_, readLines_marks (List.mem_singleton.2 rfl) hp⟩
    exact congrArg (fun m => (({ s with mem := m } : State).takeReq r).readFault r .uecc r.op.lineVa) (readLines_checked s [r.line])
  · obtain ⟨hu, hfab, hlate⟩ := countRead_pushReply ((s.readLines [r.line]).takeReq r) r.op (lineRead (s.mem.hbmLine r.line) (r.op.pa % 128) r.op.size)
    refine ⟨_, homeReadMiss_next hr hk (serveRead_busy hs hp hb), ?_, hfab, hlate⟩
    rw [hu]
    exact (congrArg (fun m : Mem => ({ s with fab := (((s.readLines [r.line]).takeReq r).countRead r.op).fab, mem := { m with
      reqs := m.reqs.filter (fun q => q.seq ≠ r.seq)
      replies := m.replies ++ [⟨r.op, lineRead (s.mem.hbmLine r.line) (r.op.pa % 128) r.op.size, none, none, r.op.gen⟩] } } : State))
      (checkRead_sound hp)).trans rfl
  · obtain ⟨hu, hfab, hlate⟩ := countRead_pushReply (s.takeReq r) r.op (lineRead x.data (r.op.pa % 128) r.op.size)
    have hdata : (s.takeReq r).mem.l2Data r.line = x.data := by rw [Mem.l2Data, show tget (s.takeReq r).mem.l2 r.line = _ from hx]; rfl
    refine ⟨_, homeReadMiss_next hr hk ((serveRead_present hx hs hp hb).trans ((if_pos hc).trans ?_)), hu, hfab, hlate⟩
    rw [← hdata]
    rfl
  · intro hc hnt hi hmig hh
    have hg := readShared_given (s := s.takeReq r) hx hm (.inl ⟨hi, hmig, hh, rfl, rfl⟩)
    refine ⟨_, homeReadMiss_next hr hk ?_, hg.replies, hg.line, hg.others, hg.reqs, hg.l1, hg.hbm, ⟨hg.fab, hg.late⟩, hg.sched⟩
    rw [serveRead_present hx hs hp hb, if_neg (fun h => h hc), hi, hnt]
  · intro hc hnt ps hps
    have hg := readShared_given (s := s.takeReq r) hx hm (.inr ⟨⟨ps, hps⟩, rfl, rfl⟩)
    rw [hps] at hg
    refine ⟨_, homeReadMiss_next hr hk ?_, hg.replies, hg.line, hg.others, hg.reqs, hg.l1, hg.hbm, ⟨hg.fab, hg.late⟩, hg.sched⟩
    rw [serveRead_present hx hs hp hb, if_neg (fun h => h hc), hps, hnt]
  · have hu : s.serveRead r nt = s.beginTxn r [y] .forward := by
      rw [serveRead_present hx hs hp hb, if_neg (fun h => h hc), hy]
      exact if_neg hne
    exact ⟨_, homeReadMiss_next hr hk hu, rfl⟩
  · exact ⟨_, homeWriteMiss_next hr hk (serveWrite_spent hs), rfl⟩
  · have hu : s.serveWrite r = (s.takeReq r).completeWrite r := by
      rw [serveWrite_present hx hs, hh]
      obtain hd | hd := hd <;> rw [hd] <;> simp [Dir.removed, Dir.targets]
    obtain ⟨hacks, hline, hreqs, hl1, hhbm, hfab, hsched, -, -⟩ := completeWrite_gives (s := s.takeReq r) hx hm hh hmeas
    exact ⟨_, homeWriteMiss_next hr hk hu, hacks, hline, hreqs, hl1, hhbm, hfab, hsched⟩
  · have hdir : s.mem.dirOf r.line = .sp ps := by rw [Mem.dirOf, hx]; exact hps
    have hu : s.serveWrite r = s.beginTxn r (ps.filter (fun c => s.storeAtHome r.line || c ≠ r.cluster)) .inval := by
      rw [serveWrite_present hx hs, hps, if_neg (by simpa [Dir.removed, Dir.targets] using hne), State.beginInval, hdir]
      rfl
    refine ⟨_, homeWriteMiss_next hr hk hu, ?_⟩
    rw [List.length_map]
    rfl
  · have hdir : s.mem.dirOf r.line = .e y := by rw [Mem.dirOf, hx]; exact hy
    have hu : s.serveWrite r = s.beginTxn r [y] .recall := by
      rw [serveWrite_present hx hs, hy, State.beginInval, hdir]
      rfl
    exact ⟨_, homeWriteMiss_next hr hk hu, rfl⟩
  · exact ⟨_, homePerformedAccess_next hr hk (serveAtHome_spent hs), rfl⟩
  · have hdir : s.mem.dirOf r.line = .i := by rw [Mem.dirOf, hx]; exact hd
    exact ⟨_, homePerformedAccess_next hr hk (serveAtHome_atom ha hs hdir),
      atomHome_performs (s := s.takeReq r) hx hm hp hb hmeas hline hhost hhline hfly hmir⟩
  · obtain ⟨hu, hfab, hlate⟩ := countRead_pushReply (s.takeReq r) r.op (s.mem.countAt r.line)
    exact ⟨_, homePerformedAccess_next hr hk (serveAtHome_cntq hs hi), hu, hfab, hlate⟩
  · exact extend_eq_accInt r.op.acc hold
  · have hmakes := atomNew_makes r.op hold
    cases hi : r.op.instr <;> rw [hi] at hmakes
    case atomFadd f =>
      obtain ⟨v, fl, hnew, h4, h8⟩ := hmakes
      refine ⟨v, fl, hnew, fun h => ?_, fun h => ?_⟩
      · rw [h4 h]
        exact sum_or_nan fmtF32 (by decide) .rne false 0 _ _
      · rw [h8 h]
        exact sum_or_nan fmtF64 (by decide) .rne false 0 _ _
    all_goals exact hmakes

end Sys2Proof.Machine
end


section
/-!
PROOFS. Counted lines (R162 to R166, R335 to R338): obligation O44.
-/
namespace Sys2Proof.Machine

/-! ### Establishments (R162, R163, R335) -/

theorem Mem.evictL2_l1 (m : Mem) (k : Nat) : (m.evictL2 k).l1 = m.l1.filter (fun x => x.line ≠ k) := by
  rw [Mem.evictL2]
  dsimp only
  split
  · rfl
  next x _ =>
    split
    · exact ((m.recallAll k).putMsc_fields k ⟨x.data, true⟩).2.1
    · rfl

theorem Mem.l2Room_l1Of_nil {m : Mem} {l : Nat} (k : Nat) (h : m.l1Of l = []) : (m.l2Room k).l1Of l = [] := by
  rw [Mem.l2Room]
  split
  next v _ =>
    rw [Mem.l1Of, Mem.evictL2_l1, List.filter_filter]
    refine List.filter_eq_nil_iff.2 fun x hx hc => ?_
    exact List.filter_eq_nil_iff.1 h x hx (Bool.and_eq_true_iff.1 hc).1
  next => exact h

theorem Mem.mscFill_l1 (m : Mem) (k : Nat) : (m.mscFill k).l1 = m.l1 := by
  rw [Mem.mscFill]
  split
  · rfl
  · refine ((m.checkHbm k).putMsc_fields k _).2.1.trans ?_
    rw [Mem.checkHbm]
    split
    · rfl
    · split <;> rfl

theorem Mem.ensureL2_l1Of_nil {m : Mem} {l : Nat} (k u : Nat) (h : m.l1Of l = []) : (m.ensureL2 k u).l1Of l = [] := by
  cases hk : tget m.l2 k with
  | some x => rw [ensureL2_present hk]; exact h
  | none =>
    rw [ensureL2_absent hk]
    change ((m.l2Room k).mscFill k).l1.filter _ = []
    rw [Mem.mscFill_l1]
    exact l2Room_l1Of_nil k h

/-- A line written back to HBM, and read into the L2 anew. -/
def Mem.refetched (m : Mem) (k u : Nat) : Mem := (((m.backInvalidate k).evictL2 k).mscFlush k).ensureL2 k u

theorem Mem.refetched_l1Of (m : Mem) (k u : Nat) : (m.refetched k u).l1Of k = [] := by
  refine ensureL2_l1Of_nil k u ?_
  rw [Mem.l1Of, (Mem.mscFlush_fields _ k).2.1, Mem.evictL2_l1, List.filter_filter]
  simp

/-- The line refetched has the data that the L2's dirty copy had. -/
theorem Mem.refetched_data {m : Mem} {k u : Nat} {x y : L2Line} (hx : tget m.l2 k = some x) (hd : x.dirty = true) (h1 : m.l1Of k = [])
    (hm : tget m.hdmMod k = none) (hy : tget (m.refetched k u).l2 k = some y) : y.data = x.data := by
  have hsound : m.Sound k := by
    refine ⟨fun _ z hz hc => ?_, fun hc => ?_⟩
    · rw [hx] at hz; cases hz; rw [hd] at hc; cases hc
    · rw [hc x hx] at hd; cases hd
  obtain ⟨hbv, hbs⟩ := backInvalidate_self hsound (.inl hm)
  have hb2 : (tget (m.backInvalidate k).l2 k).isSome = true := by
    obtain ⟨hdm, mods, backInv, hb, -⟩ := backInvalidate_clean hm
    rw [hb]
    exact Option.isSome_iff_exists.2 ⟨x, hx⟩
  have he := evictL2_same (l := k) hbs hb2
  have hf := he.trans (mscFlush_same (k := k) he.sound)
  have hall := hf.trans (ensureL2_same k u hf.sound)
  have hmod : tget (m.refetched k u).hdmMod k = none := hall.mod.trans (m.backInvalidate_mod k)
  rw [← value_of_l2 hmod (m.refetched_l1Of k u) hy, ← value_of_l2 hm h1 hx, ← hbv]
  exact hall.value

section
variable {s : State} {r : Req}

theorem countedEstablishment_next {u : State} (hr : s.servable s.subject = some r) (hk : r.kind = .establish) (hm : s.mem.migAt (128 * r.line) = none)
    (hb : s.busy r.line = false) (h : s.serveEstablish r = u) : exec .countedEstablishment s = .next u := by
  subst h
  rw [exec_countedEstablishment, execCountedEstablishment, hr]
  simp [hk, hm, hb]

theorem serveEstablish_unmapped (h : s.estPlace r = none) : s.serveEstablish r = (s.takeReq r).readFault r .lease r.op.ea := by
  rw [State.serveEstablish, h]

theorem serveEstablish_here (h : s.estPlace r = some r.op.pa) (hh : isHost r.op.pa = false) (hd : s.mem.dirOf r.line = .i) :
    s.serveEstablish r = (s.takeReq r).completeEstablish r := by
  rw [State.serveEstablish, h, hd]
  simp [hh, Dir.targets]

/-- No read of a line waits: none is served. -/
theorem serveWaiting_none {line : Nat} (h : ∀ q ∈ s.mem.ldcWait, q.line ≠ line) : s.serveWaiting line = s := by
  have hnil : s.mem.ldcWait.filter (fun q => q.line = line) = [] := List.filter_eq_nil_iff.2 fun q hq => by simpa using h q hq
  have hall : s.mem.ldcWait.filter (fun q => q.line ≠ line) = s.mem.ldcWait := List.filter_eq_self.2 fun q hq => by simpa using h q hq
  rw [State.serveWaiting, hnil, hall]
  rfl

/-- The state in which an establishment goes on, with the flag of a count that was too large. -/
def State.estFlagged (s : State) (r : Req) : State := s.setFlags r.op.task r.op.pl (Flags.when (decide (4095 < r.op.right.toNat)) Flags.SAT)

/-- A `fillc` of a line that no read waits for. -/
theorem completeEstablish_fillc {f : FmtM} (hi : r.op.instr = .fillc f) (hmeas : s.obs.meas = []) (hw : ∀ q ∈ s.mem.ldcWait, q.line ≠ r.line) :
    s.completeEstablish r =
      if s.mem.countAt r.line = 0 ∧ s.noRoomToCount r = true then (s.estFlagged r).readFault r .countquota r.op.ea
      else if s.mem.isSpent r.line then (s.estFlagged r).readFault r .overread r.op.ea
      else ((if s.mem.countAt r.line ≠ 0 then (s.estFlagged r).addCount r (min 4095 r.op.right.toNat)
        else (s.estFlagged r).pin r (min 4095 r.op.right.toNat)).countOp r.op 0x0A).pushReply r.op 0 none := by
  have hcount : estCount r.op = (min 4095 r.op.right.toNat, decide (4095 < r.op.right.toNat)) := by rw [estCount, hi]
  have hstore : ∀ t : State, t.estStore r = t := by
    intro t
    rw [State.estStore, hi]
  have hserve : ∀ t : State, t.mem.ldcWait = s.mem.ldcWait →
      (((t.estStore r).countOp r.op 0x0A).pushReply r.op 0 none).serveWaiting r.line = (t.countOp r.op 0x0A).pushReply r.op 0 none := by
    intro t ht
    rw [hstore]
    exact serveWaiting_none fun q hq => hw q (by rw [← ht]; exact hq)
  have hpin : ((s.estFlagged r).pin r (min 4095 r.op.right.toNat)).mem.ldcWait = s.mem.ldcWait := by
    change Mem.ldcWait (Mem.ensureL2 _ _ _) = _
    simp
    rfl
  rw [State.completeEstablish, hcount]
  simp only []
  rw [← State.estFlagged, snapshot_unmeasured (s := s.estFlagged r) hmeas]
  change (if (decide (s.mem.countAt r.line = 0) && s.noRoomToCount r) = true then _ else if s.mem.isSpent r.line = true then _ else _) = _
  simp only [Bool.and_eq_true, decide_eq_true_eq]
  congr 2
  refine hserve _ ?_
  change (if s.mem.countAt r.line ≠ 0 then _ else _ : State).mem.ldcWait = _
  split
  · rfl
  · exact hpin

/-- A `fillc` whose line lies where it was found, and that no cluster holds. -/
theorem serveEstablish_fillc {f : FmtM} (hplace : s.estPlace r = some r.op.pa) (hh : isHost r.op.pa = false) (hd : s.mem.dirOf r.line = .i)
    (hi : r.op.instr = .fillc f) (hmeas : s.obs.meas = []) (hw : ∀ q ∈ s.mem.ldcWait, q.line ≠ r.line) :
    s.serveEstablish r =
      if s.mem.countAt r.line = 0 ∧ s.noRoomToCount r = true then ((s.takeReq r).estFlagged r).readFault r .countquota r.op.ea
      else if s.mem.isSpent r.line then ((s.takeReq r).estFlagged r).readFault r .overread r.op.ea
      else ((if s.mem.countAt r.line ≠ 0 then ((s.takeReq r).estFlagged r).addCount r (min 4095 r.op.right.toNat)
        else ((s.takeReq r).estFlagged r).pin r (min 4095 r.op.right.toNat)).countOp r.op 0x0A).pushReply r.op 0 none :=
  (serveEstablish_here hplace hh hd).trans (completeEstablish_fillc (s := s.takeReq r) hi hmeas hw)

/-- A flag raised with an element. -/
def Raises (s u : State) (op : WobOp) (fl : Flags) : Prop :=
  ∀ p, s.placement? op.task op.pl = some p → ∃ q, u.placement? op.task op.pl = some q ∧ q.flags = p.flags.or fl

theorem setFlags_raises (s : State) (op : WobOp) (fl : Flags) : Raises s (s.setFlags op.task op.pl fl) op fl :=
  fun p hp => ⟨_, placement_mod s op.task op.pl (fun p => { p with flags := p.flags.or fl }) p hp, rfl⟩

theorem Raises.trans {s t u : State} {op : WobOp} {a b : Bool} {fl : Flags} (h : Raises s t op (Flags.when a fl)) (h' : Raises t u op (Flags.when b fl)) :
    Raises s u op (Flags.when (a || b) fl) := by
  intro p hp
  obtain ⟨q, hq, hf⟩ := h p hp
  obtain ⟨o, ho, hf'⟩ := h' q hq
  refine ⟨o, ho, ?_⟩
  rw [hf', hf]
  cases a <;> cases b <;> simp [Flags.when, Flags.or, Flags.none, Bool.or_assoc]

/-- A line already counted: its count rises (R163). -/
theorem addCount_raises {x : L2Line} (c : Nat) (hx : tget s.mem.l2 r.line = some x) :
    tget (s.addCount r c).mem.l2 r.line = some { x with count := min 4095 (x.count + c) } ∧
    Raises s (s.addCount r c) r.op (Flags.when (decide (4095 < x.count + c)) Flags.SAT) := by
  have hc : s.mem.countAt r.line = x.count := by rw [Mem.countAt, hx]; rfl
  rw [State.addCount, hc]
  exact ⟨(tget_tmod_same _ _ _).trans (congrArg (Option.map _) hx), setFlags_raises s r.op _⟩

/-- A line pinned: it stands in the L2 alone, with its count and its owner (R162). -/
theorem pin_counts (c : Nat) {k : Task} (hk : s.task? r.op.task = some k) :
    (∃ y, tget (s.pin r c).mem.l2 r.line = some y ∧ y.count = c ∧ y.owner = r.op.task ∧ y.space = k.space ∧ y.va = r.op.ea / 128 * 128 ∧ y.dirty = true ∧
      ∀ x, tget s.mem.l2 r.line = some x → x.dirty = true → s.mem.l1Of r.line = [] → tget s.mem.hdmMod r.line = none → y.data = x.data) ∧
    (s.pin r c).mem.l1Of r.line = [] := by
  obtain ⟨z, hz⟩ := Option.isSome_iff_exists.1 (Mem.ensureL2_get (((s.mem.backInvalidate r.line).evictL2 r.line).mscFlush r.line) r.line s.seqCtr)
  refine ⟨⟨{ z with count := c, owner := r.op.task, space := k.space, va := r.op.ea / 128 * 128, dirty := true }, ?_, rfl, rfl, rfl, rfl, rfl, ?_⟩,
    s.mem.refetched_l1Of r.line s.seqCtr⟩
  · rw [State.pin, hk]
    refine (tget_tmod_same _ _ _).trans ?_
    rw [hz]
    rfl
  · exact fun x hx hd h1 hm => (Mem.refetched_data hx hd h1 hm hz : z.data = x.data)

/-! ### Consuming reads (R164, R336) -/

theorem consumingRead_next {u : State} (hr : s.servable s.subject = some r) (hk : r.kind = .consume)
    (h : (if s.mem.isSpent r.line || s.mem.counted r.line then (s.takeReq r).consume r
      else { s.takeReq r with mem := { (s.takeReq r).mem with ldcWait := s.mem.ldcWait ++ [r] } }) = u) : exec .consumingRead s = .next u := by
  subst h
  rw [exec_consumingRead, execConsumingRead, hr]
  simp only [hk, if_true]
  split <;> rfl

/-- A consuming read of a counted line takes one from its count; the last leaves it spent. -/
structure Consumed (s u : State) (r : Req) (x : L2Line) : Prop where
  reply : (⟨r.op, lineRead x.data (r.op.pa % 128) r.op.size, none, none, r.op.gen⟩ : Reply) ∈ u.mem.replies
  reqs : u.mem.reqs = s.mem.reqs
  hbm : u.mem.hbm = s.mem.hbm
  line : if x.count = 1 then tget u.mem.l2 r.line = none ∧ tget u.mem.spent r.line = some ⟨x.owner, x.space, x.va⟩
    else tget u.mem.l2 r.line = some { x with count := x.count - 1 } ∧ u.mem.spent = s.mem.spent
  others : ∀ l, l ≠ r.line → tget u.mem.l2 l = tget s.mem.l2 l ∧ tget u.mem.spent l = tget s.mem.spent l

theorem consume_counted {x : L2Line} (hs : s.mem.isSpent r.line = false) (hp : s.poisoned r.line = false) (hx : tget s.mem.l2 r.line = some x) :
    Consumed s (s.consume r) r x := by
  rw [State.consume, hs, hp, hx]
  by_cases h1 : x.count = 1
  · simp only [h1, if_true, Bool.false_eq_true, if_false]
    exact ⟨List.mem_append_right _ (List.mem_singleton.2 rfl), rfl, rfl, by rw [if_pos h1]; exact ⟨tget_tdel_same _ _, tget_tput_same _ _ _⟩,
      fun l hl => ⟨tget_tdel_ne _ _ _ hl, tget_tput_ne _ _ _ _ hl⟩⟩
  · simp only [h1, Bool.false_eq_true, if_false]
    exact ⟨List.mem_append_right _ (List.mem_singleton.2 rfl), rfl, rfl, by rw [if_neg h1]; exact ⟨tget_tput_same _ _ _, rfl⟩,
      fun l hl => ⟨tget_tput_ne _ _ _ _ hl, rfl⟩⟩

/-! ### `relc` (R166, R338) -/

theorem relcScan_next {u : State} {t : Task} (hr : s.mem.reqs[s.subject]? = some r) (hk : r.kind = .relc) (ht : s.task? r.op.task = some t)
    (hfree : ∀ l ∈ s.mem.countedOf t.space, ∀ x ∈ s.mem.txns, x.line ≠ l) (h : (s.takeReq r).relc t r.op = u) : exec .relcScan s = .next u := by
  subst h
  have hall : (s.mem.countedOf t.space).all (fun l => !s.mem.txns.any (fun x => x.line = l)) = true := by
    simpa [List.all_eq_true] using hfree
  rw [exec_relcScan, execRelcScan, hr]
  simp only [hk, ht, hall, if_true]

/-- Lines released are ordinary and dirty; the others stand as they stood. -/
theorem releases_get (ls : List Nat) (m : Mem) {l : Nat} {x : L2Line} (hx : tget m.l2 l = some x) :
    tget (ls.foldl Mem.release m).l2 l = some (if l ∈ ls then { x with count := 0, dirty := true } else x) := by
  induction ls generalizing m x with
  | nil => simpa using hx
  | cons k ls ih =>
    rw [List.foldl_cons]
    by_cases hk : l = k
    · subst hk
      have h : tget (m.release l).l2 l = some { x with count := 0, dirty := true } := (tget_tmod_same _ _ _).trans (congrArg (Option.map _) hx)
      rw [ih _ h]
      simp
    · have h : tget (m.release k).l2 l = some x := (tget_tmod_ne _ _ _ _ hk).trans hx
      rw [ih _ h]
      simp [hk]

theorem releases_rest (ls : List Nat) (m : Mem) : ls.foldl Mem.release m = { m with l2 := (ls.foldl Mem.release m).l2 } := by
  induction ls generalizing m with
  | nil => rfl
  | cons k ls ih => exact (ih (m.release k)).trans rfl

theorem tget_tdels {α : Type} (ls : List Nat) (t : Tab α) (l : Nat) : tget (ls.foldl tdel t) l = if l ∈ ls then none else tget t l := by
  induction ls generalizing t with
  | nil => simp
  | cons k ls ih =>
    rw [List.foldl_cons, ih]
    by_cases hk : l = k
    · subst hk; simp
    · simp [hk, tget_tdel_ne _ _ _ hk]

theorem snapshots_unmeasured (h : s.obs.meas = []) (task : Nat) (ls : List Nat) :
    ls.foldl (fun (s : State) (l : Nat) => s.snapshot task (128 * l)) s = s := by
  induction ls with
  | nil => rfl
  | cons k ls ih =>
    rw [List.foldl_cons, snapshot_unmeasured h]
    exact ih

/-- What a `relc` of the lines and markers given leaves. -/
structure Released (s u : State) (op : WobOp) (cs ms : List Nat) : Prop where
  replies : u.mem.replies = s.mem.replies ++ [⟨op, cs.length + 2 ^ 32 * ms.length, none, none, op.gen⟩]
  reqs : u.mem.reqs = s.mem.reqs
  hbm : u.mem.hbm = s.mem.hbm
  lines : ∀ l x, tget s.mem.l2 l = some x → tget u.mem.l2 l = some (if l ∈ cs then { x with count := 0, dirty := true } else x)
  spent : ∀ l, tget u.mem.spent l = if l ∈ ms then none else tget s.mem.spent l
  flags : Raises s u op (Flags.when (!cs.isEmpty) Flags.UNDERREAD)

theorem relcOn_released (hmeas : s.obs.meas = []) (op : WobOp) (cs ms : List Nat) : Released s (s.relcOn op cs ms) op cs ms := by
  rw [State.relcOn, snapshots_unmeasured hmeas, releases_rest]
  exact ⟨rfl, rfl, rfl, fun l x hx => releases_get cs s.mem hx, tget_tdels ms s.mem.spent, setFlags_raises s op _⟩

theorem firstBadVa_takeReq (s : State) (r : Req) (t : Task) (wr : Bool) (va n : Nat) : (s.takeReq r).firstBadVa t wr va n = s.firstBadVa t wr va n := rfl

/-- A `relc` whose whole range is mapped and leased. -/
theorem relc_range {t : Task} {op : WobOp} (h0 : op.right.toNat ≠ 0) (hle : op.ea + op.right.toNat ≤ 2 ^ 52) :
    s.relc t op = match s.firstBadVa t true (op.ea / 128 * 128) ((op.ea + op.right.toNat + 127) / 128 * 128 - op.ea / 128 * 128) with
      | some a => s.pushReply op 0 (some (.lease, a))
      | none => s.relcOn op (s.linesInRange t op.ea op.right.toNat (s.mem.countedOf t.space)) (s.linesInRange t op.ea op.right.toNat (s.mem.spentOf t.space)) := by
  rw [State.relc]
  dsimp only
  rw [if_neg h0, if_neg (Nat.not_lt.2 hle)] <;> rfl

end

/-! ### The obligation -/

/-- Settles O44: establishments, consuming reads and releases, case by case. -/
theorem countedLineEvents : Obligations.CountedLineEvents := by
  unfold Obligations.CountedLineEvents
  intro s
  dsimp only
  refine ⟨fun r hr => ⟨fun f hk hi hm hb hmeas hd hw => ⟨fun hplace => ?_, fun hplace hhost => ⟨fun h0 hroom => ?_, fun hroom hs => ?_,
      fun x hs hx hc => ?_, fun k hs h0 hroom hk' => ?_⟩⟩, fun hk => ⟨fun hs => ?_, fun x hs hx hc => ⟨fun hp => ?_, fun hp => ?_⟩, fun hs hc => ?_⟩⟩,
    fun r t hr hk ht hmeas hfree => ⟨fun h0 => ?_, fun h0 hlt => ?_, fun a h0 hle ha => ?_, fun h0 hle hnone => ?_⟩⟩
  · exact ⟨_, countedEstablishment_next hr hk hm hb (serveEstablish_unmapped hplace), rfl⟩
  · have hu := serveEstablish_fillc hplace hhost hd hi hmeas hw
    rw [if_pos ⟨h0, hroom⟩] at hu
    exact ⟨_, countedEstablishment_next hr hk hm hb hu, rfl, rfl, setFlags_raises (s.takeReq r) r.op _⟩
  · have hu := serveEstablish_fillc hplace hhost hd hi hmeas hw
    rw [if_neg (fun h => hroom.elim (fun hc => hc h.1) (fun hf => by rw [h.2] at hf; cases hf)), if_pos hs] at hu
    exact ⟨_, countedEstablishment_next hr hk hm hb hu, rfl, rfl, setFlags_raises (s.takeReq r) r.op _⟩
  · have hcount : s.mem.countAt r.line ≠ 0 := by rw [Mem.countAt, hx]; exact hc
    have hu := serveEstablish_fillc hplace hhost hd hi hmeas hw
    rw [if_neg (fun h => hcount h.1), if_neg (fun h => by rw [hs] at h; cases h), if_pos hcount] at hu
    obtain ⟨hline, hraise⟩ := addCount_raises (s := (s.takeReq r).estFlagged r) (r := r) (min 4095 r.op.right.toNat) hx
    exact ⟨_, countedEstablishment_next hr hk hm hb hu, hline, List.mem_append_right _ (List.mem_singleton.2 rfl), rfl,
      (setFlags_raises (s.takeReq r) r.op _).trans hraise⟩
  · have hu := serveEstablish_fillc hplace hhost hd hi hmeas hw
    rw [if_neg (fun h => by rw [h.2] at hroom; cases hroom),
      if_neg (fun h => by rw [hs] at h; cases h), if_neg (fun h => h h0)] at hu
    obtain ⟨hline, hl1⟩ := pin_counts (s := (s.takeReq r).estFlagged r) (r := r) (min 4095 r.op.right.toNat) hk'
    exact ⟨_, countedEstablishment_next hr hk hm hb hu, hline, hl1, List.mem_append_right _ (List.mem_singleton.2 rfl),
      setFlags_raises (s.takeReq r) r.op _⟩
  · exact ⟨_, consumingRead_next hr hk ((if_pos (by rw [hs]; rfl)).trans (if_pos hs)), rfl⟩
  · have hcount : s.mem.counted r.line = true := by rw [Mem.counted, hx]; simpa using hc
    refine ⟨_, consumingRead_next hr hk ((if_pos (by rw [hcount, Bool.or_true])).trans ?_), rfl⟩
    exact (if_neg (fun h : s.mem.isSpent r.line = true => by rw [hs] at h; cases h)).trans (if_pos hp)
  · have hcount : s.mem.counted r.line = true := by rw [Mem.counted, hx]; simpa using hc
    have hu := consume_counted (s := s.takeReq r) hs hp hx
    exact ⟨_, consumingRead_next hr hk (if_pos (by rw [hcount, Bool.or_true])), hu.reply, hu.reqs, hu.hbm, hu.line, hu.others⟩
  · exact ⟨_, consumingRead_next hr hk (if_neg (by rw [hs, hc]; exact Bool.false_ne_true)), rfl⟩
  · exact ⟨_, relcScan_next hr hk ht hfree (if_pos h0), rfl, rfl, rfl⟩
  · exact ⟨_, relcScan_next hr hk ht hfree ((if_neg h0).trans (if_pos hlt)), rfl, rfl, rfl⟩
  · have hu := relc_range (s := s.takeReq r) (t := t) h0 hle
    rw [firstBadVa_takeReq, ha] at hu
    exact ⟨_, relcScan_next hr hk ht hfree hu, rfl, rfl, rfl⟩
  · have hu := relc_range (s := s.takeReq r) (t := t) h0 hle
    rw [firstBadVa_takeReq, hnone] at hu
    have hrel := relcOn_released (s := s.takeReq r) hmeas r.op (s.linesInRange t r.op.ea r.op.right.toNat (s.mem.countedOf t.space))
      (s.linesInRange t r.op.ea r.op.right.toNat (s.mem.spentOf t.space))
    exact ⟨_, relcScan_next hr hk ht hfree hu, hrel.replies, hrel.reqs, hrel.hbm, hrel.lines, hrel.spent, hrel.flags⟩

end Sys2Proof.Machine
end


section
/-!
PROOFS. Coherence messages and the host-line cache (R152, R153, R155): obligation O45.
-/
namespace Sys2Proof.Machine

/-! ### Copies in an L1 -/

theorem l1At_dropL1At_same (m : Mem) (c l : Nat) : (m.dropL1At c l).l1At c l = none := by
  rw [Mem.l1At, Mem.dropL1At, List.find?_eq_none]
  intro x hx
  have h := (List.mem_filter.1 hx).2
  rw [Bool.not_eq_true'] at h
  exact Bool.eq_false_iff.1 h

theorem l1At_dropL1At_ne (m : Mem) {c l c' l' : Nat} (h : (c', l') ≠ (c, l)) : (m.dropL1At c l).l1At c' l' = m.l1At c' l' := by
  rw [Mem.l1At, Mem.dropL1At, List.find?_filter]
  refine congrArg (fun p => m.l1.find? p) (funext fun x => ?_)
  by_cases hx : x.cluster = c' ∧ x.line = l'
  · have : ¬ (c' = c ∧ l' = l) := fun hc => h (by rw [hc.1, hc.2])
    simpa [hx.1, hx.2, imp_iff_not_or] using this
  · have : (decide (x.cluster = c') && decide (x.line = l')) = false := by simpa using hx
    simp [this]

theorem l1At_toS (m : Mem) (c l c' l' : Nat) :
    (m.toS c l).l1At c' l' = if (c', l') = (c, l) then (m.l1At c l).map (fun x => { x with st := .s }) else m.l1At c' l' := by
  let f := fun x : L1Line => if x.cluster = c && x.line = l then { x with st := .s } else x
  have hf : (fun x : L1Line => decide (x.cluster = c') && decide (x.line = l')) ∘ f = fun x => decide (x.cluster = c') && decide (x.line = l') := by
    funext x
    simp only [Function.comp, f]
    split <;> rfl
  have hmap : (m.toS c l).l1At c' l' = (m.l1At c' l').map f := by
    rw [Mem.l1At, Mem.toS, List.find?_map]
    exact congrArg (fun p => (m.l1.find? p).map f) hf
  rw [hmap]
  split
  next h =>
    obtain ⟨rfl, rfl⟩ := Prod.mk.inj h
    refine Option.map_congr fun x hx => ?_
    exact if_pos (List.find?_some hx)
  next h =>
    refine (Option.map_congr (g := id) fun x hx => ?_).trans (Option.map_id_apply)
    have hx : x.cluster = c' ∧ x.line = l' := by simpa using List.find?_some hx
    exact if_neg fun hc => h (by rw [Bool.and_eq_true, decide_eq_true_eq, decide_eq_true_eq] at hc; rw [← hx.1, ← hx.2, hc.1, hc.2])

/-! ### Messages -/

section
variable {s : State} {line c : Nat}

/-- The directory without a cluster that has evicted its copy (R152). -/
def Dir.without (d : Dir) (c : Nat) : Dir := match d with
  | .sp ps => if ps.filter (fun p => p ≠ c) = [] then .i else .sp (ps.filter (fun p => p ≠ c))
  | .e y => if y = c then .i else .e y
  | d => d

theorem cleanEvictionNotice_heeded {x : L2Line} (hm : s.mem.msgs[s.subject]? = some (.evict line c)) (hh : isHost (128 * line) = false)
    (hfree : ∀ t ∈ s.mem.txns, t.line ≠ line) (hx : tget s.mem.l2 line = some x) :
    exec .cleanEvictionNotice s = .next ((s.takeMsg s.subject).setDir line (x.dir.without c)) := by
  have hnone : s.mem.txns.any (fun t => t.line = line) = false := by simpa [List.any_eq_false] using hfree
  have hd : s.mem.dirOf line = x.dir := by rw [Mem.dirOf, hx]; rfl
  rw [exec_cleanEvictionNotice, execCleanEvictionNotice, hm]
  dsimp only
  rw [hh, show (s.takeMsg s.subject).mem.txns = s.mem.txns from rfl, hnone, show (s.takeMsg s.subject).mem.dirOf line = _ from hd]
  simp only [Bool.false_eq_true, if_false, List.isEmpty_iff]
  rfl

theorem cleanEvictionNotice_ignored (hm : s.mem.msgs[s.subject]? = some (.evict line c)) (hh : isHost (128 * line) = false)
    (ht : ∃ t ∈ s.mem.txns, t.line = line) : exec .cleanEvictionNotice s = .next (s.takeMsg s.subject) := by
  have hsome : s.mem.txns.any (fun t => t.line = line) = true := by simpa [List.any_eq_true] using ht
  rw [exec_cleanEvictionNotice, execCleanEvictionNotice, hm]
  dsimp only
  rw [hh, show (s.takeMsg s.subject).mem.txns = s.mem.txns from rfl, hsome]
  rfl

/-- A line that no one waits on is re-checked without effect. -/
theorem recheck_none {m : Mem} (h : m.waits = []) (l : Nat) (d : Line) : m.recheck l d = m := by
  rw [Mem.recheck, h]
  simp only [List.filter_nil, List.map_nil, List.append_nil]
  rw [← h]

/-- Memory with a line's data written back into the L2. -/
def Mem.writtenBack (m : Mem) (line : Nat) (d : Line) : Mem := { m with l2 := tmod m.l2 line (fun x => { x with data := d, dirty := true }) }

theorem dirtyWriteBack_next {d : Line} (hm : s.mem.msgs[s.subject]? = some (.writeBack line c d)) (hw : s.mem.waits = []) :
    exec .dirtyWriteBack s = .next ({ s with mem := if s.mem.txns.any (fun t => t.line = line) then (s.takeMsg s.subject).mem.writtenBack line d
      else ((s.takeMsg s.subject).mem.writtenBack line d).setDir line .i } : State) := by
  rw [exec_dirtyWriteBack, execDirtyWriteBack, hm]
  dsimp only
  change Host.Outcome.next ({ s with mem := if (((s.takeMsg s.subject).mem.writtenBack line d).recheck line d).txns.any (fun t => t.line = line)
    then ((s.takeMsg s.subject).mem.writtenBack line d).recheck line d
    else (((s.takeMsg s.subject).mem.writtenBack line d).recheck line d).setDir line .i } : State) = _
  rw [recheck_none (m := (s.takeMsg s.subject).mem.writtenBack line d) hw]
  rfl

/-- The data that a cluster answers with: its copy's, where that is modified. -/
def Mem.modified (m : Mem) (c line : Nat) : Option Line := (m.l1At c line).bind (fun x => if x.st = .m then some x.data else none)

theorem invalidationReceive_next {id : Nat} (hcyc : s.frozenNow = false) (hg : s.grantPending c line = false)
    (hm : s.mem.msgs[s.subject]? = some (.inval id line c)) : ∃ fab, exec .invalidationReceive s =
      .next { s with fab := fab, mem := { s.mem.dropL1At c line with msgs := dropAt s.mem.msgs s.subject ++ [.ack id line c (s.mem.modified c line)] } } := by
  rw [exec_invalidationReceive, execInvalidationReceive, inCycle_next hcyc, hm]
  dsimp only
  rw [hg, if_neg Bool.false_ne_true, show (s.takeMsg s.subject).mem.l1At c line = s.mem.l1At c line from rfl]
  cases hx : s.mem.l1At c line with
  | none =>
    have hdrop : s.mem.dropL1At c line = s.mem := by
      have hall : s.mem.l1.filter (fun x => !(x.cluster = c && x.line = line)) = s.mem.l1 := by
        refine List.filter_eq_self.2 fun x hx' => ?_
        simpa [imp_iff_not_or] using List.find?_eq_none.1 hx x hx'
      rw [Mem.dropL1At, hall]
    refine ⟨s.fab, ?_⟩
    rw [hdrop, Mem.modified, hx]
    rfl
  | some x =>
    refine ⟨((s.takeMsg s.subject).countEvent c ((s.takeMsg s.subject).wayTask x) 0x14 1).fab, ?_⟩
    rw [Mem.modified, hx]
    rfl

theorem recallReceive_next {id : Nat} (hcyc : s.frozenNow = false) (hg : s.grantPending c line = false)
    (hm : s.mem.msgs[s.subject]? = some (.recall id line c)) : exec .forwardRecallReceive s =
      .next { s with mem := { s.mem.dropL1At c line with msgs := dropAt s.mem.msgs s.subject ++ [.ack id line c (s.mem.modified c line)] } } := by
  rw [exec_forwardRecallReceive, execForwardRecallReceive, inCycle_next hcyc, hm]
  dsimp only
  rw [hg]
  rfl

theorem forwardReceive_next {id : Nat} (hcyc : s.frozenNow = false) (hg : s.grantPending c line = false)
    (hm : s.mem.msgs[s.subject]? = some (.forward id line c)) : exec .forwardRecallReceive s =
      .next { s with mem := { s.mem.toS c line with msgs := dropAt s.mem.msgs s.subject ++ [.ack id line c (s.mem.modified c line)] } } := by
  rw [exec_forwardRecallReceive, execForwardRecallReceive, inCycle_next hcyc, hm]
  dsimp only
  rw [hg]
  rfl

/-! ### Acknowledgements -/

theorem takeData_get {m : Mem} {x : L2Line} (hx : tget m.l2 line = some x) (d : Option Line) :
    tget (m.takeData line d).l2 line = some { x with data := d.getD x.data, dirty := x.dirty || d.isSome } := by
  cases d with
  | none => simpa [Mem.takeData] using hx
  | some d => simpa [Mem.takeData] using (tget_tmod_same m.l2 line _).trans (congrArg (Option.map _) hx)

/-- The state in which the home goes on once an acknowledgement is taken. -/
def State.acked (s : State) (line : Nat) (d : Option Line) (txns : List Txn) : State :=
  { s with mem := { s.mem with msgs := dropAt s.mem.msgs s.subject, l2 := (s.mem.takeData line d).l2, txns := txns } }

theorem ackReceive_next {id : Nat} {d : Option Line} {t : Txn} {u : State} (hm : s.mem.msgs[s.subject]? = some (.ack id line c d))
    (hbef : ∀ m ∈ s.mem.msgs.take s.subject, (∀ l k, m = .evict l k → (l, k) ≠ (line, c)) ∧ ∀ l k e, m = .writeBack l k e → (l, k) ≠ (line, c))
    (ht : s.mem.txns.find? (fun t => t.id = id) = some t)
    (h : (if t.awaited ≤ 1 then (s.acked line d (s.mem.txns.filter (fun y => y.id ≠ id))).finishTxn t.req
      else s.acked line d (s.mem.txns.map (fun y => if y.id = id then { y with awaited := y.awaited - 1 } else y))) = u) :
    exec .ackReceive s = .next u := by
  subst h
  rw [exec_ackReceive, execAckReceive, hm]
  dsimp only
  rw [if_neg, show (s.takeMsg s.subject).mem.txns.find? (fun t => t.id = id) = some t from ht]
  · dsimp only
    cases d <;> split <;> rfl
  · rw [Bool.not_eq_true, List.any_eq_false]
    intro m hmem
    obtain ⟨he, hw⟩ := hbef m hmem
    cases m with
    | evict l k => simpa [imp_iff_not_or] using he l k rfl
    | writeBack l k e => simpa [imp_iff_not_or] using hw l k e rfl
    | _ => exact Bool.false_ne_true

/-- The last acknowledgement of a read (R152): the reader shares the line. -/
theorem finishTxn_read {r : Req} {x : L2Line} (hk : r.kind = .read false) (hx : tget s.mem.l2 r.line = some x) :
    s.finishTxn r = (s.setDir r.line (x.dir.share r.cluster)).sendData r (some .s) := by
  have hd : s.mem.dirOf r.line = x.dir := by rw [Mem.dirOf, hx]; rfl
  rw [State.finishTxn, hk, hd]
  rfl

theorem finishTxn_write {r : Req} (hk : r.kind = .write) : s.finishTxn r = (s.setDir r.line .i).completeWrite r := by
  rw [State.finishTxn, hk]

/-- A store to a line that no cluster holds and that is no busy, migrating or awaited one is performed in the L1. -/
theorem storeAtHome_congr {t : State} {line : Nat} (hc : t.mem.counted line = s.mem.counted line) (he : t.eng = s.eng)
    (hm : t.mem.migs = s.mem.migs) (hw : t.mem.waits = s.mem.waits) : t.storeAtHome line = s.storeAtHome line := by
  have hmig : t.mem.migAt = s.mem.migAt := by funext a; rw [Mem.migAt, hm]; rfl
  rw [State.storeAtHome, State.storeAtHome, hc, State.busy, he, hmig, hw]
  rfl

/-! ### The host-line cache -/

theorem hlcInsert_room {h : HlcLine} (hroom : s.mem.hlc.length < 16 ∨ (tget s.mem.hlc line).isSome = true) :
    s.hlcInsert line h = { s with mem := { s.mem with hlc := tput s.mem.hlc line h } } := by
  have hc : (decide (s.mem.hlc.length < 16) || (tget s.mem.hlc line).isSome) = true := by
    rw [Bool.or_eq_true, decide_eq_true_eq]
    exact hroom
  rw [State.hlcInsert, hc]
  rfl

theorem hlcClusterRead_next {n : Nat} {exclusive : Bool} {r : Req} (hr : s.servable n = some r) (hk : r.kind = .hlcRead) :
    (s.board.hostLoss = true → exec (.hlcClusterRead n exclusive) s = .next ((s.takeReq r).readFault r .hostlink r.op.ea)) ∧
    ∀ f u, s.board.hostLoss = false → nsHas s.mem.hostPoison r.line = false → r.op.instr = .ld f →
      ((s.takeReq r).hlcFetch r.line r.cluster exclusive true).countRead r.op = u →
      exec (.hlcClusterRead n exclusive) s = .next { u with mem := { u.mem with replies := u.mem.replies ++
        [⟨r.op, lineRead (u.hostLine r.line) (r.op.pa % 128) r.op.size, some (r.line, .s, u.hostLine r.line), none, r.op.gen⟩] } } := by
  rw [exec_hlcClusterRead, execHlcClusterRead, hr]
  simp only [hk, if_true]
  refine ⟨fun hl => if_pos hl, fun f u hl hp hi hu => ?_⟩
  subst hu
  rw [if_neg (by rw [show (s.takeReq r).board.hostLoss = _ from hl]; exact Bool.false_ne_true),
    if_neg (by rw [show nsHas (s.takeReq r).mem.hostPoison r.line = _ from hp]; exact Bool.false_ne_true), hi]

/-- A line read at the host-line cache, as it then stands there. -/
theorem hlcFetch_get {x : Nat} {exclusive : Bool} :
    (∀ h, tget s.mem.hlc line = some h → s.hlcFetch line x exclusive true =
      { s with mem := { s.mem with hlc := tput s.mem.hlc line { h with st := if h.st = .m then .o else h.st, dir := h.dir.share x } } }) ∧
    (tget s.mem.hlc line = none → s.mem.hlc.length < 16 → s.hlcFetch line x exclusive true =
      { s with mem := { s.mem with hlc := tput s.mem.hlc line ⟨if exclusive then .e else .s, s.hostLine line, Dir.share x .i⟩ } }) := by
  refine ⟨fun h hx => ?_, fun hx hroom => ?_⟩
  · rw [State.hlcFetch, hx]
    rfl
  · rw [State.hlcFetch, hx]
    exact hlcInsert_room (.inl hroom)

/-- A read of a line that then stands in the host-line cache. -/
theorem hlcClusterRead_fetched {n : Nat} {exclusive : Bool} {r : Req} {f : FmtM} {h : HlcLine} (hr : s.servable n = some r) (hk : r.kind = .hlcRead)
    (hl : s.board.hostLoss = false) (hp : nsHas s.mem.hostPoison r.line = false) (hi : r.op.instr = .ld f)
    (hfetch : (s.takeReq r).hlcFetch r.line r.cluster exclusive true =
      { s.takeReq r with mem := { (s.takeReq r).mem with hlc := tput s.mem.hlc r.line h } }) :
    ∃ u, exec (.hlcClusterRead n exclusive) s = .next u ∧ tget u.mem.hlc r.line = some h ∧ u.mem.reqs = s.mem.reqs.filter (fun q => q.seq ≠ r.seq) ∧
      u.mem.hostMem = s.mem.hostMem ∧
      u.mem.replies = s.mem.replies ++ [⟨r.op, lineRead h.data (r.op.pa % 128) r.op.size, some (r.line, .s, h.data), none, r.op.gen⟩] := by
  let t : State := { s.takeReq r with mem := { (s.takeReq r).mem with hlc := tput s.mem.hlc r.line h } }
  have hu := (hlcClusterRead_next (exclusive := exclusive) hr hk).2 f _ hl hp hi ((congrArg (·.countRead r.op) hfetch).trans (countRead_counts t r.op).1)
  have hline : State.hostLine { t with fab := { t.fab with evc := (t.countRead r.op).fab.evc } } r.line = h.data := by
    rw [State.hostLine, show tget _ r.line = some h from tget_tput_same s.mem.hlc r.line h]
  rw [hline] at hu
  exact ⟨_, hu, tget_tput_same _ _ _, rfl, rfl, rfl⟩

theorem hlcWrite_next {r : Req} {u : State} (hr : s.servable s.subject = some r) (hk : r.kind = .hlcWrite) (hs : s.mem.settled r.line = true)
    (h : (s.takeReq r).serveHlcWrite r = u) : exec .hlcWrite s = .next u := by
  subst h
  rw [exec_hlcWrite, execHlcWrite, hr]
  simp [hk, hs]

theorem serveHlcWrite_flush {r : Req} {f : FmtM} (hi : r.op.instr = .flush f) (hl : s.board.hostLoss = true) :
    s.serveHlcWrite r = (s.countOp r.op 0x0A).pushReply r.op 0 none := by
  rw [State.serveHlcWrite, hi, hl]
  rfl

theorem serveHlcWrite_lost {r : Req} {f : FmtM} (hi : r.op.instr = .st f) (hl : s.board.hostLoss = true) :
    s.serveHlcWrite r = (s.countOp r.op 0x0A).pushAck r.op r.line none none := by
  rw [State.serveHlcWrite, hi, hl]
  rfl

theorem serveHlcWrite_stored {r : Req} {f : FmtM} (hi : r.op.instr = .st f) (hl : s.board.hostLoss = false) :
    s.serveHlcWrite r = ((s.writePiece 0 r.op.pa r.op.size r.op.right.toNat).countOp r.op 0x0A).pushAck r.op r.line none none := by
  rw [State.serveHlcWrite, hi, hl]
  rfl

/-- A store to a line that the host-line cache holds: the line is modified there, and no L1 holds it. -/
theorem writePiece_hlc {pa n v : Nat} (hh : isHost pa = true) (hcxl : s.board.cxl = true) (hmir : s.mem.mirror pa = none)
    (hin : (tget s.mem.hlc (pa / 128)).isSome = true) :
    let u := s.writePiece 0 pa n v
    tget u.mem.hlc (pa / 128) = some ⟨.m, lineWrite (s.hostLine (pa / 128)) (pa % 128) n v, .i⟩ ∧ u.mem.l1Of (pa / 128) = [] ∧
    u.mem.acks = s.mem.acks ∧ u.mem.hostMem = s.mem.hostMem := by
  intro u
  let t : State := { s with mem := { s.mem with l1 := s.mem.l1.filter (fun x => x.line ≠ pa / 128) } }
  let d : Line := lineWrite (s.hostLine (pa / 128)) (pa % 128) n v
  let m : Mem := { t.mem with hlc := tput s.mem.hlc (pa / 128) ⟨.m, d, .i⟩ }
  have hu : u = ({ t with mem := m.recheck (pa / 128) d } : State).bump := by
    have huse : s.usesHlc 0 = true := by rw [State.usesHlc, hcxl]; rfl
    change s.writePiece 0 pa n v = _
    rw [writePiece_plain hmir, State.writeAt, if_pos hh, if_pos huse, State.hlcPut, hlcInsert_room (s := t) (.inr hin)]
  rw [hu]
  refine ⟨tget_tput_same _ _ _, ?_, rfl, rfl⟩
  change (s.mem.l1.filter (fun x => x.line ≠ pa / 128)).filter (fun x => x.line = pa / 128) = []
  simp

/-- The state in which the host has been given a line's data, where that is modified or owned. -/
def State.yielded (s : State) (line : Nat) (x : HlcLine) : State := if x.st = .m || x.st = .o then s.giveHost line x.data else s

theorem yielded_tells (line : Nat) (x : HlcLine) :
    (s.yielded line x).host.replies = (if x.st = .m ∨ x.st = .o then s.host.replies ++ [.data (lineBytes x.data)] else s.host.replies) ∧
    (x.st ≠ .m → x.st ≠ .o → (s.yielded line x).mem.hostMem = s.mem.hostMem) ∧ (s.yielded line x).mem.l1 = s.mem.l1 ∧
    (s.yielded line x).mem.waits = s.mem.waits := by
  rw [State.yielded]
  by_cases h : x.st = .m ∨ x.st = .o
  · have hc : (decide (x.st = .m) || decide (x.st = .o)) = true := by simpa using h
    rw [if_pos h, if_pos hc]
    exact ⟨rfl, fun hm ho => absurd h (not_or.2 ⟨hm, ho⟩), rfl, rfl⟩
  · have hc : ¬ (decide (x.st = .m) || decide (x.st = .o)) = true := by simpa using h
    rw [if_neg h, if_neg hc]
    exact ⟨rfl, fun _ _ => rfl, rfl, rfl⟩

theorem hostSnoop_next (hcxl : s.board.cxl = true) (hl : s.board.hostLoss = false) (hs : s.mem.settled s.subject = true) :
    (tget s.mem.hlc s.subject = none → exec .hostSnoopData s = .next s ∧ exec .hostSnoopInvalidate s = .next s) ∧
    ∀ x, tget s.mem.hlc s.subject = some x → s.mem.waits = [] →
      let t := s.yielded s.subject x
      exec .hostSnoopData s = .next { t with mem := { t.mem with hlc := tput t.mem.hlc s.subject { x with st := .s } } } ∧
      exec .hostSnoopInvalidate s = .next { t with mem := { t.mem with
        l1 := t.mem.l1.filter (fun y => y.line ≠ s.subject), hlc := tdel t.mem.hlc s.subject } } := by
  have hopen : (!s.board.cxl || s.board.hostLoss || !s.mem.settled s.subject) = false := by rw [hcxl, hl, hs]; rfl
  rw [exec_hostSnoopData, exec_hostSnoopInvalidate, execHostSnoopData, execHostSnoopInvalidate, hopen]
  refine ⟨fun hx => by rw [hx]; exact ⟨rfl, rfl⟩, fun x hx hw => ?_⟩
  have hw' : (s.yielded s.subject x).mem.waits = [] := (yielded_tells s.subject x).2.2.2.trans hw
  rw [hx]
  refine ⟨?_, ?_⟩
  · exact congrArg (fun m => Host.Outcome.next { s.yielded s.subject x with mem := m }) (recheck_none (m := { (s.yielded s.subject x).mem with
      hlc := tput (s.yielded s.subject x).mem.hlc s.subject { x with st := .s } }) hw' s.subject x.data)
  · exact congrArg (fun m => Host.Outcome.next { s.yielded s.subject x with mem := m }) (recheck_none (m := { (s.yielded s.subject x).mem with
      l1 := (s.yielded s.subject x).mem.l1.filter (fun y => y.line ≠ s.subject)
      hlc := tdel (s.yielded s.subject x).mem.hlc s.subject }) hw' s.subject x.data)

end

/-! ### The obligation -/

/-- Settles O45: each message and each access of the host-line cache, case by case. -/
theorem coherenceEvents : Obligations.CoherenceEvents := by
  unfold Obligations.CoherenceEvents
  intro s line c
  dsimp only
  refine ⟨fun hm hh hfree x hx => ?_, fun hm hh ht => ?_, fun d x hm hx hw => ?_, fun hg hcyc => ⟨fun id hm => ?_, fun id hm => ?_, fun id hm => ?_⟩,
    fun id d t x hm hbef ht htl hrl hx => ⟨fun hlt => ?_, fun hle hk => ?_, fun hle hk hh hmeas hmod => ?_⟩,
    fun n exclusive r hr hk => ⟨fun hl => ?_, fun f h hl hp hi hx => ?_, fun f hl hp hi hx hroom => ?_⟩, fun r f hr hk hi hs hl => ?_,
    fun r f hr hk hi hs hline hhost => ⟨fun hl => ?_, fun hl hcxl hmir hin => ?_⟩, fun hcxl hl hs hw => ⟨fun hx => ⟨?_, ?_⟩, fun x hx => ⟨?_, ?_⟩⟩⟩
  · exact ⟨_, cleanEvictionNotice_heeded hm hh hfree hx, (tget_tmod_same _ _ _).trans (congrArg (Option.map _) hx),
      fun l hl => tget_tmod_ne _ _ _ _ hl, rfl, rfl, rfl⟩
  · exact ⟨_, cleanEvictionNotice_ignored hm hh ht, rfl⟩
  · have hput : tget ((s.takeMsg s.subject).mem.writtenBack line d).l2 line = some { x with data := d, dirty := true } :=
      (tget_tmod_same _ _ _).trans (congrArg (Option.map _) hx)
    refine ⟨_, dirtyWriteBack_next hm hw, ?_⟩
    dsimp only
    split
    · exact ⟨hput, fun l hl => tget_tmod_ne _ _ _ _ hl, rfl, rfl, rfl⟩
    · exact ⟨(tget_tmod_same _ _ _).trans (congrArg (Option.map _) hput),
        fun l hl => (tget_tmod_ne _ _ _ _ hl).trans (tget_tmod_ne _ _ _ _ hl), rfl, rfl, rfl⟩
  · obtain ⟨fab, hu⟩ := invalidationReceive_next hcyc hg hm
    exact ⟨_, hu, l1At_dropL1At_same s.mem c line, fun k l h => l1At_dropL1At_ne s.mem h, rfl, rfl, rfl⟩
  · exact ⟨_, recallReceive_next hcyc hg hm, l1At_dropL1At_same s.mem c line, fun k l h => l1At_dropL1At_ne s.mem h, rfl, rfl, rfl⟩
  · exact ⟨_, forwardReceive_next hcyc hg hm, (l1At_toS s.mem c line c line).trans (if_pos rfl),
      fun k l h => (l1At_toS s.mem c line k l).trans (if_neg h), rfl, rfl, rfl⟩
  · exact ⟨_, ackReceive_next hm hbef ht (if_neg (Nat.not_le.2 hlt)), takeData_get hx d, rfl, rfl, rfl, rfl⟩
  · have hxa : tget (s.acked line d (s.mem.txns.filter (fun y => y.id ≠ id))).mem.l2 t.req.line =
        some { x with data := d.getD x.data, dirty := x.dirty || d.isSome } := by
      rw [hrl]
      exact takeData_get hx d
    have hg := sendData_given hxa .s (x.dir.share t.req.cluster)
    have hu := ackReceive_next hm hbef ht ((if_pos hle).trans (finishTxn_read hk hxa))
    rw [← hrl]
    exact ⟨_, hu, hg.line, hg.msgs, hg.txns, hg.replies⟩
  · let a := s.acked line d (s.mem.txns.filter (fun y => y.id ≠ id))
    have hxa : tget (a.setDir t.req.line .i).mem.l2 t.req.line =
        some { x with data := d.getD x.data, dirty := x.dirty || d.isSome, dir := .i } := by
      rw [hrl]
      exact (tget_tmod_same _ _ _).trans (congrArg (Option.map _) (takeData_get hx d))
    have hhome : (a.setDir t.req.line .i).storeAtHome t.req.line = false := by
      have hcount : (a.setDir t.req.line .i).mem.counted t.req.line = s.mem.counted t.req.line := by
        rw [Mem.counted, hxa, hrl, Mem.counted, hx]
        rfl
      rw [storeAtHome_congr (t := a.setDir t.req.line .i) (s := s) hcount rfl rfl rfl, hrl, hh]
    obtain ⟨hacks, hline, -, -, -, -, -, hmsgs, htxns⟩ := completeWrite_gives hxa (by rw [hrl]; exact hmod) hhome hmeas
    have hu := ackReceive_next hm hbef ht ((if_pos hle).trans (finishTxn_write hk))
    rw [← hrl]
    exact ⟨_, hu, hline, hmsgs, htxns, hacks⟩
  · exact ⟨_, (hlcClusterRead_next hr hk).1 hl, rfl⟩
  · exact hlcClusterRead_fetched hr hk hl hp hi ((hlcFetch_get (s := s.takeReq r)).1 h hx)
  · have hhost : s.hostLine r.line = bytesLine (memBytes s.mem.hostMem (s.hostAddr (128 * r.line)) 128) := by rw [State.hostLine, hx]
    have hu := hlcClusterRead_fetched hr hk hl hp hi ((hlcFetch_get (s := s.takeReq r) (x := r.cluster) (exclusive := exclusive)).2 hx hroom)
    rw [show (s.takeReq r).hostLine r.line = _ from hhost] at hu
    exact hu
  · exact ⟨_, hlcWrite_next hr hk hs (serveHlcWrite_flush hi hl), rfl, rfl⟩
  · exact ⟨_, hlcWrite_next hr hk hs (serveHlcWrite_lost hi hl), rfl, rfl⟩
  · obtain ⟨hline', hl1, hacks, hmem⟩ := writePiece_hlc (s := s.takeReq r) (n := r.op.size) (v := r.op.right.toNat) hhost hcxl hmir (by rw [hline]; exact hin)
    rw [hline] at hline' hl1
    refine ⟨_, hlcWrite_next hr hk hs (serveHlcWrite_stored hi hl), hline', hl1, ?_, hmem⟩
    exact congrArg (· ++ [⟨r.op, r.line, none, none⟩]) hacks
  · exact ⟨_, ((hostSnoop_next hcxl hl hs).1 hx).1, rfl⟩
  · exact ⟨_, ((hostSnoop_next hcxl hl hs).1 hx).2, rfl⟩
  · obtain ⟨htold, hmem, hl1, -⟩ := yielded_tells (s := s) s.subject x
    exact ⟨_, ((hostSnoop_next hcxl hl hs).2 x hx hw).1, tget_tput_same _ _ _, hl1, htold, hmem⟩
  · obtain ⟨htold, hmem, -, -⟩ := yielded_tells (s := s) s.subject x
    refine ⟨_, ((hostSnoop_next hcxl hl hs).2 x hx hw).2, tget_tdel_same _ _, ?_, htold, hmem⟩
    change ((s.yielded s.subject x).mem.l1.filter (fun y => y.line ≠ s.subject)).filter (fun y => y.line = s.subject) = []
    simp

end Sys2Proof.Machine
end


section
/-!
PROOFS. Barriers, line waits and prefetches (R134, R346, R348 to R352): obligation O46.
-/
namespace Sys2Proof.Machine

/-! ### Barrier words -/

theorem barPf_modPlacement (s : State) (task pl a b n : Nat) {g : Placement → Placement} (hg : ∀ p k, (g p).physFret k = p.physFret k) :
    (s.modPlacement task pl g).barPf a b n = s.barPf a b n := by
  have hp : (s.modPlacement task pl g).placement? a b = if plKey a b = plKey task pl then (s.placement? a b).map g else s.placement? a b := by
    rw [State.placement?, State.modPlacement]
    split
    next h => rw [State.placement?, h]; exact tget_tmod_same _ _ _
    next h => exact tget_tmod_ne _ _ _ _ h
  rw [State.barPf, hp, State.barPf]
  split
  · cases s.placement? a b <;> simp [hg]
  · rfl

/-- A held operation finished: its result is sent, its entry is free, and every barrier stands as it stood. -/
structure Finished (s u : State) (p : Placement) (op : WobOp) (v : Word) : Prop where
  net : u.fab.net = s.fab.net ++ sentToks p (p.homePf op.tag) op.tag op.wave v s.clock.cycle op.instr.dests
  place : u.placement? op.task op.pl = some (p.freeOp op.seq)
  frets : u.fab.frets = s.fab.frets
  bars : ∀ a b n, u.barrier a b n = s.barrier a b n
  barQ : u.fab.barQ = s.fab.barQ
  mem : u.mem = s.mem
  sched : u.sched = s.sched
  clock : u.clock = s.clock

theorem Finished.done {s u : State} {p : Placement} {op : WobOp} {v : Word} (h : Finished s u p op v) : HeldDone s u p op v := ⟨⟨_, h.place, rfl⟩, h.net⟩

theorem finishHeld_finished {s : State} {p : Placement} {op : WobOp} (hp : s.placement? op.task op.pl = some p) (hmov : p.moving = []) (v : Word) :
    Finished s (s.finishHeld op v) p op v := by
  let t := s.countOp op 0x0A
  have hsend := sendAll_net (s := t) hp hmov (p.homePf op.tag) op.tag op.wave v op.instr.dests Flags.none
  rw [flaggedToks_none] at hsend
  generalize ht : t.sendAll (p.homePf op.tag) op.task op.pl op.tag op.wave v op.instr.dests Flags.none = w at hsend
  have hu : s.finishHeld op v = w.modPlacement op.task op.pl (fun p => p.freeOp op.seq) := by
    have hresult : t.sendResult op v = w := by
      rw [State.sendResult, show t.placement? op.task op.pl = some p from hp]
      exact ht
    rw [State.finishHeld, State.answerHeld, hresult, State.freeOp]
  have hw : w.placement? op.task op.pl = some p ∧ w.fab.frets = s.fab.frets ∧ (∀ a b n, w.barrier a b n = s.barrier a b n) ∧ w.fab.barQ = s.fab.barQ ∧
      w.mem = s.mem ∧ w.sched = s.sched ∧ w.clock = s.clock ∧
      w.fab.net = s.fab.net ++ sentToks p (p.homePf op.tag) op.tag op.wave v s.clock.cycle op.instr.dests := by
    rw [hsend]
    exact ⟨hp, rfl, fun a b n => rfl, rfl, rfl, rfl, rfl, rfl⟩
  obtain ⟨hplace, hfrets, hbars, hbarQ, hmem, hsched, hclock, hnet⟩ := hw
  rw [hu]
  refine ⟨hnet, placement_mod w op.task op.pl (fun p => p.freeOp op.seq) p hplace, hfrets, fun a b n => ?_, hbarQ, hmem, hsched, hclock⟩
  rw [← hbars, State.barrier, barPf_modPlacement w op.task op.pl a b n (g := fun p => p.freeOp op.seq) (fun _ _ => rfl)]
  rfl

theorem barrier_setBarrier (s : State) (task pl n : Nat) (b : Barrier) : (s.setBarrier task pl n b).barrier task pl n = b := by
  have hf : (s.setBarrier task pl n b).fret (s.barPf task pl n) = { s.fret (s.barPf task pl n) with bars := tput (s.fret (s.barPf task pl n)).bars (n % 32) b } :=
    fret_setFret_same _ _ _
  rw [State.barrier, show (s.setBarrier task pl n b).barPf task pl n = s.barPf task pl n from rfl, hf, tgetD, tget_tput_same]
  rfl

/-! ### Requests at a barrier (R350, R351) -/

/-- The state in which the request that the beat names is off the queue. -/
def State.unqueued (s : State) : State := { s with fab := { s.fab with barQ := dropAt s.fab.barQ s.subject } }

section
variable {s : State} {m : OpMsg} {t : Task} {p : Placement}

theorem barrierRequestServe_eq (hcyc : s.frozenNow = false) (hm : s.fab.barQ[s.subject]? = some m) (hearly : m.earliest ≤ s.clock.cycle)
    (ht : s.task? m.op.task = some t) (hp : s.placement? m.op.task m.op.pl = some p)
    (hfirst : s.firstForBarrier s.subject m ((barrierOf t m.op.pl p.nf m.op.left).map (fun b => (m.op.task, b.1, b.2.1))) = true) :
    exec .barrierRequestServe s = match m.op.instr with
      | .barinit _ => .next (s.unqueued.barinit t m.op (barrierOf t m.op.pl p.nf m.op.left))
      | .bararr _ => .next (s.unqueued.bararr t m.op (barrierOf t m.op.pl p.nf m.op.left))
      | _ => .next (s.unqueued.barwait t m.op (barrierOf t m.op.pl p.nf m.op.left)) := by
  rw [exec_barrierRequestServe, execBarrierRequestServe, inCycle_next hcyc, hm]
  dsimp only
  rw [ht, hp]
  dsimp only
  rw [if_pos (by rw [hfirst, Bool.and_true]; exact decide_eq_true hearly)] <;> rfl

/-- What a request of a state serves, but for the queue of barriers and the frets, which are those of another. -/
structure BarsOnly (s w : State) : Prop where
  barQ : w.fab.barQ = dropAt s.fab.barQ s.subject
  mem : w.mem = s.mem
  sched : w.sched = s.sched
  net : w.fab.net = s.fab.net
  clock : w.clock = s.clock
  placements : w.fab.placements = s.fab.placements

theorem barsOnly_unqueued (s : State) : BarsOnly s s.unqueued := ⟨rfl, rfl, rfl, rfl, rfl, rfl⟩

theorem BarsOnly.setBarrier {w : State} (h : BarsOnly s w) (task pl n : Nat) (b : Barrier) : BarsOnly s (w.setBarrier task pl n b) :=
  ⟨h.barQ, h.mem, h.sched, h.net, h.clock, h.placements⟩

/-- A request is served by its result. -/
theorem BarsOnly.finishes {w : State} {op : WobOp} (h : BarsOnly s w) (hp : s.placement? op.task op.pl = some p) (hmov : p.moving = []) (v : Word)
    {i : Instr} (hi : exec i s = .next (w.finishHeld op v)) :
    ∃ u, exec i s = .next u ∧ u.fab.barQ = dropAt s.fab.barQ s.subject ∧ u.mem = s.mem ∧ u.sched = s.sched ∧ HeldDone s u p op v ∧
      u.fab.frets = w.fab.frets ∧ ∀ a b n, u.barrier a b n = w.barrier a b n := by
  have hf := finishHeld_finished (s := w) (op := op) (by rw [State.placement?, h.placements]; exact hp) hmov v
  refine ⟨_, hi, hf.barQ.trans h.barQ, hf.mem.trans h.mem, hf.sched.trans h.sched, ⟨⟨_, hf.place, rfl⟩, ?_⟩, hf.frets, hf.bars⟩
  rw [hf.net, h.net, h.clock]

theorem barStatus_err (n : Nat) : barStatus true n = BitVec.ofNat 64 (2 ^ 63 + n % 2 ^ 32) := by rw [barStatus]; simp

theorem barStatus_ok (n : Nat) : barStatus false n = BitVec.ofNat 64 (n % 2 ^ 32) := by rw [barStatus]; simp

theorem arrive_early {w : State} {task pl n : Nat} (h : ((w.barrier task pl n).arrived + 1) % 2 ^ 64 ≠ (w.barrier task pl n).expect) :
    w.arrive task pl n = w.setBarrier task pl n { w.barrier task pl n with arrived := ((w.barrier task pl n).arrived + 1) % 2 ^ 64 } := by
  rw [State.arrive]
  exact if_neg h

/-- The barrier in its next phase. -/
def Barrier.next (b : Barrier) : Barrier := { b with arrived := 0, phase := (b.phase + 1) % 2 ^ 32, waiters := [] }

theorem arrive_last {w : State} {task pl n : Nat} (h : ((w.barrier task pl n).arrived + 1) % 2 ^ 64 = (w.barrier task pl n).expect) :
    w.arrive task pl n = (w.barrier task pl n).waiters.foldl (fun s x => s.finishHeld x (barStatus false (((w.barrier task pl n).phase + 1) % 2 ^ 32)))
      (w.setBarrier task pl n (w.barrier task pl n).next) := by
  rw [State.arrive]
  exact if_pos h

theorem barinit_refused {w : State} {op : WobOp} {pl n : Nat} {level : Bool} (h : level = true ∨ op.left.getLsbD 20 = true ∨
    (w.barrier t.num pl n).arrived ≠ 0 ∨ (w.barrier t.num pl n).waiters ≠ []) :
    w.barinit t op (some (pl, n, level)) = w.finishHeld op (barStatus true (w.barrier t.num pl n).phase) := by
  rw [State.barinit]
  refine if_pos ?_
  simpa [or_assoc, List.isEmpty_iff] using h

theorem barinit_sets {w : State} {op : WobOp} {pl n : Nat} (hleft : op.left.getLsbD 20 = false)
    (harr : (w.barrier t.num pl n).arrived = 0) (hwait : (w.barrier t.num pl n).waiters = []) :
    w.barinit t op (some (pl, n, false)) = (w.setBarrier t.num pl n { w.barrier t.num pl n with expect := op.right.toNat, arrived := 0 }).finishHeld op
      (barStatus false (w.barrier t.num pl n).phase) := by
  rw [State.barinit]
  refine if_neg ?_
  rw [hleft, harr, hwait]
  exact Bool.false_ne_true

theorem bararr_idle {w : State} {op : WobOp} {pl n : Nat} {level : Bool} (h : (w.barrier t.num pl n).expect = 0) :
    w.bararr t op (some (pl, n, level)) = w.finishHeld op (barStatus true 0) := by
  rw [State.bararr]
  exact if_pos h

theorem bararr_arrives {w : State} {op : WobOp} {pl n : Nat} {level : Bool} (h : (w.barrier t.num pl n).expect ≠ 0) :
    w.bararr t op (some (pl, n, level)) = (w.arrive t.num pl n).finishHeld op (barStatus false (w.barrier t.num pl n).phase) := by
  rw [State.bararr]
  exact if_neg h

theorem barwait_eq {w : State} {op : WobOp} {pl n : Nat} {level : Bool} : w.barwait t op (some (pl, n, level)) =
    let b := w.barrier t.num pl n
    if b.expect = 0 then w.finishHeld op (barStatus true 0)
    else if b.phase ≠ op.right.toNat % 2 ^ 32 then w.finishHeld op (barStatus false b.phase)
    else if (w.fret (w.barPf t.num pl n)).waitCount < 64 then w.setBarrier t.num pl n { b with waiters := b.waiters ++ [op] }
    else w.putOp { op with st := .sent, value := BitVec.ofNat 64 w.clock.cycle } := by
  have hbits : bits op.right 31 0 = op.right.toNat % 2 ^ 32 := by simp [bits]
  rw [State.barwait, ← hbits]

end

/-! ### Waits sent again, and polled (R348, R351) -/

section
variable {s : State} {op : WobOp} {w : Wait}

theorem barwaitResend_next {t : Task} {p : Placement} (hcyc : s.frozenNow = false) (hop : s.turnedAway s.subject = some op)
    (ht : s.task? op.task = some t) (hp : s.placement? op.task op.pl = some p) (hdue : op.value.toNat + 64 ≤ s.clock.cycle) :
    exec .barwaitResend s = .next ((s.putOp { op with st := .issued }).sendBarrier t p { op with st := .issued }) := by
  rw [exec_barwaitResend, execBarwaitResend, inCycle_next hcyc, hop]
  dsimp only
  rw [ht, hp]
  exact event_next (by simpa using hdue)

/-- One slice poll of the only wait there is. -/
theorem waitlSlicePoll_next {u : State} (hw : s.mem.waits = [w]) (hpol : w.polled = true) (hh : isHost (128 * w.place) = false)
    (hsl : sliceOf (128 * w.place) = s.subject) (hdue : w.last + 256 ≤ s.clock.cycle)
    (h : ({ s with mem := { s.mem with waits := [] } } : State).pollWait w s.clock.cycle = u) : exec .waitlSlicePoll s = .next u := by
  subst h
  have hd : (w.polled && !isHost (128 * w.place) && decide (sliceOf (128 * w.place) = s.subject) && decide (w.last + 256 ≤ s.clock.cycle)) = true := by
    rw [hpol, hh, hsl]
    simpa using hdue
  rw [exec_waitlSlicePoll, execWaitlSlicePoll, hw]
  dsimp only
  rw [List.filter_cons_of_pos (by simpa using hd), List.filter_nil, List.filter_cons_of_neg (by simpa using hd), List.filter_nil]
  rfl

/-- The state in which the wait that the beat names is off the list. -/
def State.unwaited (s : State) : State := { s with mem := { s.mem with waits := dropAt s.mem.waits s.subject } }

theorem waitlHostPoll_next {u : State} (hw : s.mem.waits[s.subject]? = some w) (hpol : w.polled = true) (hh : isHost (128 * w.place) = true)
    (hdue : w.last + 1000 ≤ s.clock.ns) (hthr : bits (s.reg 0 0x248) 15 0 = 0)
    (h : s.unwaited.pollWait w s.clock.ns = u) : exec .waitlHostPoll s = .next u := by
  subst h
  have hcount : s.unwaited.acCountAccess (s.fnOf w.op) w.op.pa = s.unwaited := if_pos hthr
  rw [exec_waitlHostPoll, execWaitlHostPoll, hw]
  dsimp only
  rw [← State.unwaited, hcount]
  exact event_next (by rw [hpol, hh]; simpa using hdue)

/-- A look at a wait on device memory. -/
theorem pollWait_device (hh : isHost w.op.pa = false) (now : Nat) : s.pollWait w now =
    if s.mem.isSpent (w.op.pa / 128) then s.pushReply w.op 0 (some (.overread, w.op.ea))
    else if s.poisoned (w.op.pa / 128) then s.pushReply w.op 0 (some (.uecc, w.op.ea / 128 * 128))
    else if w.op.right.toNat ≤ s.readNat w.op.pa 8 then s.pushReply w.op (s.readNat w.op.pa 8) none
    else { s with mem := { s.mem with waits := s.mem.waits ++ [{ w with last := now }] } } := by
  rw [State.pollWait, hh]
  rfl

/-- A look at a wait on the host tier, of a line that no cache holds and to which no store is on its way. -/
theorem pollWait_host (hh : isHost w.op.pa = true) (hx : tget s.mem.hlc (w.op.pa / 128) = none) (hposts : s.mem.posts = []) (now : Nat) :
    s.pollWait w now =
    if s.board.hostLoss then s.pushReply w.op 0 (some (.hostlink, w.op.ea))
    else if nsHas s.mem.hostPoison (w.op.pa / 128) then s.pushReply w.op 0 (some (.uecc, w.op.ea / 128 * 128))
    else if w.op.right.toNat ≤ leNat (memBytes s.mem.hostMem (s.hostAddr w.op.pa) 8) then
      s.pushReply w.op (leNat (memBytes s.mem.hostMem (s.hostAddr w.op.pa) 8)) none
    else { s with mem := { s.mem with waits := s.mem.waits ++ [{ w with last := now }] } } := by
  have hshare : s.hlcShare (w.op.pa / 128) = s := by rw [State.hlcShare, hx]
  have hseen : s.hostSeen (s.opCluster w.op) w.op.pa 8 = leNat (memBytes s.mem.hostMem (s.hostAddr w.op.pa) 8) := by
    rw [State.hostSeen, hposts]
    rfl
  rw [State.pollWait, hh]
  simp only [Bool.not_true, Bool.false_and, Bool.true_and, if_true, hshare, hseen, Bool.false_eq_true, if_false]

/-! ### Prefetches (R99, R346) -/

theorem prefResident_of {t : Task} (h : ∀ va ∈ prefPages t op, ∃ q, s.physOf t.space va = some q ∧ isHost q.1 = false) : s.prefResident t op = true := by
  rw [State.prefResident, List.all_eq_true]
  intro va hva
  obtain ⟨q, hq, hh⟩ := h va hva
  rw [hq]
  exact congrArg (!·) hh

theorem prefComplete_saved {t : Task} (hno : s.issuedPref s.subject = none) (hop : s.savedPref s.subject = some (t, op)) (hres : s.prefResident t op = true) :
    exec .prefComplete s = .next (s.holdPref t op) := by
  rw [exec_prefComplete, execPrefComplete, hno]
  dsimp only
  rw [hop]
  exact event_next hres

theorem prefComplete_issued {t : Task} (hcyc : s.frozenNow = false) (hop : s.issuedPref s.subject = some op) (ht : s.task? op.task = some t)
    (hst : t.st ≠ .saving) (hres : s.prefResident t op = true) :
    exec .prefComplete s = .next ((s.prefArrive t op.pl op.aux).finishHeld op 0) := by
  rw [exec_prefComplete, execPrefComplete, hop]
  dsimp only
  rw [ht]
  dsimp only
  rw [inCycle_next hcyc]
  exact event_next (by rw [hres]; simpa using hst)

end

/-! ### The obligation -/

/-- Settles O46: barrier requests by form and by the state of their barrier, then the waits and the prefetches. -/
theorem waitAndBarrierEvents : Obligations.WaitAndBarrierEvents := by
  unfold Obligations.WaitAndBarrierEvents
  intro s
  dsimp only
  refine ⟨fun m t p hcyc hm hearly ht hnum hp hmov hfirst => ⟨fun hform hbar => ?_, fun pl n level hbar => ⟨fun f hi => ⟨fun h => ?_, fun hl hleft harr hwait => ?_⟩,
      fun f hi => ⟨fun hexp => ?_, fun hexp hk => ?_, fun hexp hk => ⟨fun hw => ?_, fun w hw hwt hwp => ?_⟩⟩,
      fun f hi => ⟨fun hexp => ?_, fun hexp hph => ?_, fun hexp hph => ?_⟩⟩⟩,
    fun op hcyc hop ht hp hdue => ?_, fun w hw hpol hh hsl hdue hpa => ⟨fun hs => ?_, fun hs hp => ?_, fun hs hp hv => ?_, fun hs hp hv => ?_⟩,
    fun w hw hpol hh hdue hpa hthr hx hposts => ⟨fun hl => ?_, fun hl hp => ?_, fun hl hp hv => ?_, fun hl hp hv => ?_⟩,
    fun t op hno hop hres => ?_, fun op t p hcyc hop ht hnum hp hmov hst hres => ⟨fun hbar => ?_, fun pl n level hbar hexp hk => ?_⟩⟩
  · have he := barrierRequestServe_eq hcyc hm hearly ht hp hfirst
    have hu : exec .barrierRequestServe s = .next (s.unqueued.finishHeld m.op (barStatus true 0)) := by
      rw [he, hbar]
      obtain ⟨f, hi | hi | hi⟩ := hform <;> rw [hi] <;> rfl
    obtain ⟨u, hu, hq, hmem, hsched, hd, hf, -⟩ := (barsOnly_unqueued s).finishes hp hmov _ hu
    exact ⟨u, hu, hq, hmem, hsched, hd, hf⟩
  · rw [← hnum] at h ⊢
    have hb := barinit_refused (t := t) (w := s.unqueued) (op := m.op) (pl := pl) (n := n) (level := level) h
    have he := barrierRequestServe_eq hcyc hm hearly ht hp hfirst
    rw [hi, hbar] at he
    obtain ⟨u, hu, hq, hmem, hsched, hd, hf, -⟩ := (barsOnly_unqueued s).finishes hp hmov _ (he.trans (congrArg Host.Outcome.next hb))
    rw [barStatus_err] at hd
    exact ⟨u, hu, hq, hmem, hsched, hd, hf⟩
  · rw [← hnum] at harr hwait ⊢
    subst hl
    have hb := barinit_sets (t := t) (w := s.unqueued) (op := m.op) (pl := pl) (n := n) hleft harr hwait
    have he := barrierRequestServe_eq hcyc hm hearly ht hp hfirst
    rw [hi, hbar] at he
    obtain ⟨u, hu, hq, hmem, hsched, hd, -, hbars⟩ :=
      ((barsOnly_unqueued s).setBarrier t.num pl n _).finishes hp hmov _ (he.trans (congrArg Host.Outcome.next hb))
    rw [barStatus_ok] at hd
    exact ⟨u, hu, hq, hmem, hsched, hd, (hbars _ _ _).trans (barrier_setBarrier _ _ _ _ _)⟩
  · rw [← hnum] at hexp
    have hb := bararr_idle (t := t) (w := s.unqueued) (op := m.op) (pl := pl) (n := n) (level := level) hexp
    have he := barrierRequestServe_eq hcyc hm hearly ht hp hfirst
    rw [hi, hbar] at he
    obtain ⟨u, hu, hq, hmem, hsched, hd, hf, -⟩ := (barsOnly_unqueued s).finishes hp hmov _ (he.trans (congrArg Host.Outcome.next hb))
    exact ⟨u, hu, hq, hmem, hsched, hd, hf⟩
  · rw [← hnum] at hexp hk ⊢
    have hb := bararr_arrives (t := t) (w := s.unqueued) (op := m.op) (pl := pl) (n := n) (level := level) hexp
    rw [arrive_early (w := s.unqueued) hk] at hb
    have he := barrierRequestServe_eq hcyc hm hearly ht hp hfirst
    rw [hi, hbar] at he
    obtain ⟨u, hu, hq, hmem, hsched, hd, -, hbars⟩ :=
      ((barsOnly_unqueued s).setBarrier t.num pl n _).finishes hp hmov _ (he.trans (congrArg Host.Outcome.next hb))
    rw [barStatus_ok] at hd
    exact ⟨u, hu, hq, hmem, hsched, hd, (hbars _ _ _).trans (barrier_setBarrier _ _ _ _ _)⟩
  · rw [← hnum] at hexp hk hw ⊢
    have hb := bararr_arrives (t := t) (w := s.unqueued) (op := m.op) (pl := pl) (n := n) (level := level) hexp
    rw [arrive_last (w := s.unqueued) hk, show (s.unqueued.barrier t.num pl n).waiters = [] from hw] at hb
    have he := barrierRequestServe_eq hcyc hm hearly ht hp hfirst
    rw [hi, hbar] at he
    obtain ⟨u, hu, hq, hmem, hsched, hd, -, hbars⟩ :=
      ((barsOnly_unqueued s).setBarrier t.num pl n _).finishes hp hmov _ (he.trans (congrArg Host.Outcome.next hb))
    rw [barStatus_ok] at hd
    exact ⟨u, hu, hq, hmem, hsched, hd, (hbars _ _ _).trans (barrier_setBarrier _ _ _ _ _)⟩
  · rw [← hnum] at hexp hk hw ⊢
    have hb := bararr_arrives (t := t) (w := s.unqueued) (op := m.op) (pl := pl) (n := n) (level := level) hexp
    rw [arrive_last (w := s.unqueued) hk, show (s.unqueued.barrier t.num pl n).waiters = [w] from hw] at hb
    have he := barrierRequestServe_eq hcyc hm hearly ht hp hfirst
    rw [hi, hbar] at he
    let v := s.unqueued.setBarrier t.num pl n (s.barrier t.num pl n).next
    have hone := finishHeld_finished (s := v) (op := w) (p := p) (by rw [hwt, hwp]; exact hp) hmov (barStatus false (((s.barrier t.num pl n).phase + 1) % 2 ^ 32))
    have hplace := hone.place
    rw [hwt, hwp] at hplace
    have htwo := finishHeld_finished (op := m.op) hplace hmov (barStatus false (s.barrier t.num pl n).phase)
    refine ⟨_, he.trans (congrArg Host.Outcome.next hb), htwo.barQ.trans hone.barQ, htwo.mem.trans hone.mem, htwo.sched.trans hone.sched,
      ((htwo.bars _ _ _).trans (hone.bars _ _ _)).trans (barrier_setBarrier _ _ _ _ _), ?_⟩
    refine htwo.net.trans ?_
    rw [hone.net, hone.clock, barStatus_ok, barStatus_ok, Nat.mod_mod]
    rfl
  · rw [← hnum] at hexp
    have hb := (barwait_eq (t := t) (w := s.unqueued) (op := m.op) (pl := pl) (n := n) (level := level)).trans (if_pos hexp)
    have he := barrierRequestServe_eq hcyc hm hearly ht hp hfirst
    rw [hi, hbar] at he
    obtain ⟨u, hu, hq, hmem, hsched, hd, hf, -⟩ := (barsOnly_unqueued s).finishes hp hmov _ (he.trans (congrArg Host.Outcome.next hb))
    exact ⟨u, hu, hq, hmem, hsched, hd, hf⟩
  · rw [← hnum] at hexp hph ⊢
    have hb := (barwait_eq (t := t) (w := s.unqueued) (op := m.op) (pl := pl) (n := n) (level := level)).trans ((if_neg hexp).trans (if_pos hph))
    have he := barrierRequestServe_eq hcyc hm hearly ht hp hfirst
    rw [hi, hbar] at he
    obtain ⟨u, hu, hq, hmem, hsched, hd, hf, -⟩ := (barsOnly_unqueued s).finishes hp hmov _ (he.trans (congrArg Host.Outcome.next hb))
    rw [barStatus_ok] at hd
    exact ⟨u, hu, hq, hmem, hsched, hd, hf⟩
  · have hb := (barwait_eq (t := t) (w := s.unqueued) (op := m.op) (pl := pl) (n := n) (level := level)).trans
      ((if_neg (by rw [hnum]; exact hexp)).trans (if_neg (by rw [hnum]; exact not_not.2 hph)))
    have he := barrierRequestServe_eq hcyc hm hearly ht hp hfirst
    rw [hi, hbar] at he
    have hu := he.trans (congrArg Host.Outcome.next hb)
    rw [hnum] at hu
    split
    next hroom =>
      rw [if_pos (show (s.unqueued.fret (s.unqueued.barPf m.op.task pl n)).waitCount < 64 from hroom)] at hu
      exact ⟨_, hu, rfl, rfl, rfl, barrier_setBarrier _ _ _ _ _, rfl, hp⟩
    next hfull =>
      rw [if_neg (show ¬ (s.unqueued.fret (s.unqueued.barPf m.op.task pl n)).waitCount < 64 from hfull)] at hu
      exact ⟨_, hu, rfl, rfl, rfl, rfl, rfl, placement_mod s.unqueued m.op.task m.op.pl _ p hp⟩
  · obtain ⟨t, ht⟩ := Option.isSome_iff_exists.1 ht
    obtain ⟨p, hp⟩ := Option.isSome_iff_exists.1 hp
    exact ⟨_, barwaitResend_next hcyc hop ht hp hdue, ⟨_, Nat.le_add_right _ _, rfl⟩, rfl, rfl, rfl, rfl⟩
  · exact ⟨_, waitlSlicePoll_next hw hpol hh hsl hdue ((pollWait_device hpa _).trans (if_pos hs)), rfl⟩
  · exact ⟨_, waitlSlicePoll_next hw hpol hh hsl hdue ((pollWait_device hpa _).trans ((if_neg (Bool.eq_false_iff.1 hs)).trans (if_pos hp))), rfl⟩
  · exact ⟨_, waitlSlicePoll_next hw hpol hh hsl hdue ((pollWait_device hpa _).trans ((if_neg (Bool.eq_false_iff.1 hs)).trans
      ((if_neg (Bool.eq_false_iff.1 hp)).trans (if_pos hv)))), rfl⟩
  · exact ⟨_, waitlSlicePoll_next hw hpol hh hsl hdue ((pollWait_device hpa _).trans ((if_neg (Bool.eq_false_iff.1 hs)).trans
      ((if_neg (Bool.eq_false_iff.1 hp)).trans (if_neg (Nat.not_le.2 hv))))), rfl⟩
  · exact ⟨_, waitlHostPoll_next hw hpol hh hdue hthr ((pollWait_host (s := s.unwaited) hpa hx hposts _).trans (if_pos hl)), rfl⟩
  · exact ⟨_, waitlHostPoll_next hw hpol hh hdue hthr ((pollWait_host (s := s.unwaited) hpa hx hposts _).trans ((if_neg (Bool.eq_false_iff.1 hl)).trans (if_pos hp))), rfl⟩
  · exact ⟨_, waitlHostPoll_next hw hpol hh hdue hthr ((pollWait_host (s := s.unwaited) hpa hx hposts _).trans ((if_neg (Bool.eq_false_iff.1 hl)).trans
      ((if_neg (Bool.eq_false_iff.1 hp)).trans (if_pos hv)))), rfl⟩
  · exact ⟨_, waitlHostPoll_next hw hpol hh hdue hthr ((pollWait_host (s := s.unwaited) hpa hx hposts _).trans ((if_neg (Bool.eq_false_iff.1 hl)).trans
      ((if_neg (Bool.eq_false_iff.1 hp)).trans (if_neg (Nat.not_le.2 hv))))), rfl⟩
  · exact ⟨_, prefComplete_saved hno hop (prefResident_of hres), tget_tput_same _ _ _, rfl, rfl, rfl⟩
  · have harr : s.prefArrive t op.pl op.aux = s := by
      rw [State.prefArrive, hnum, hp]
      dsimp only
      rw [hbar]
    have hu := prefComplete_issued hcyc hop ht hst (prefResident_of hres)
    rw [harr] at hu
    have hf := finishHeld_finished hp hmov 0
    exact ⟨_, hu, hf.done, hf.frets, hf.mem⟩
  · have harr : s.prefArrive t op.pl op.aux = s.setBarrier op.task pl n
        { s.barrier op.task pl n with arrived := ((s.barrier op.task pl n).arrived + 1) % 2 ^ 64 } := by
      rw [State.prefArrive, hnum, hp]
      dsimp only
      rw [hbar]
      exact (if_neg hexp).trans (arrive_early hk)
    have hu := prefComplete_issued hcyc hop ht hst (prefResident_of hres)
    rw [harr] at hu
    have hf := finishHeld_finished (s := s.setBarrier op.task pl n { s.barrier op.task pl n with arrived := ((s.barrier op.task pl n).arrived + 1) % 2 ^ 64 })
      hp hmov 0
    exact ⟨_, hu, hf.done, (hf.bars _ _ _).trans (barrier_setBarrier _ _ _ _ _), hf.mem⟩

end Sys2Proof.Machine
end


section
/-!
PROOFS. Engines and peers that write a line of which both the host and an L1 hold a modified copy (R19, R152): obligations O49 and O50 fail, which say
of every state that such a write starts from the line's value.
-/
namespace Sys2Proof.Machine

/-! ### A line modified twice -/

/-- Line 0 is modified by the host, which holds zeros, and in an L1, where bit 1000 is set. -/
def twiceModified : Mem := { identityMem with hdm := [(0, ())], hdmMod := [(0, 0)], l1 := [⟨0, 0, .m, BitVec.ofNat 1024 (2 ^ 1000), 0, 0, false⟩] }

/-- The line reads as the host has it. -/
theorem value_twiceModified : twiceModified.value 0 = 0 := by decide +kernel

/-- Line 0 after an instruction. -/
def lineZero (o : Out) : Option Line := match o with
  | .next t => some (t.mem.value 0)
  | _ => none

/-- A task with a writable lease of its first page, in gang 7. -/
def leasedTask : Task := { loadTask false with hdr := (loadTask false).hdr.set 38 1, gang := some ⟨7, 0, 0, 0, 0, 0, false⟩ }

/-! ### A remote write (R382) -/

/-- A port of the package is up and carries data, and a task of gang 7 runs. -/
def peersWrite : State :=
  let s := bench leasedTask (loadPlacement 8)
  { s with board := { s.board with devId := 5, ports := [(0, ⟨true, true, 3, 200, false, none, []⟩)] }, mem := twiceModified }

/-- The peer's byte is merged into the L1's copy. -/
theorem lineZero_peersWrite : lineZero (exec (.remoteWriteServe 7 0 [1] false) peersWrite) = some (BitVec.ofNat 1024 (2 ^ 1000 + 1)) := by decide +kernel

/-- Refutes O50: a remote write to a line that the host and an L1 have both modified does not start from the line's value. -/
theorem not_fabricEvents : ¬ Obligations.FabricEvents := by
  unfold Obligations.FabricEvents
  intro h
  obtain ⟨hserve, -⟩ := h peersWrite
  obtain ⟨-, hgang⟩ := hserve (by decide +kernel) 7 0
  obtain ⟨-, -, -, hwrite⟩ := hgang leasedTask (by decide +kernel)
  obtain ⟨t, ht, hvalue, -⟩ := hwrite [1] 0 false (by decide +kernel) (by decide +kernel) (by decide +kernel) rfl (by decide +kernel) (by decide +kernel)
    (by decide +kernel)
  have hobs := lineZero_peersWrite
  rw [ht] at hobs
  have hseen : t.mem.value 0 = BitVec.ofNat 1024 (2 ^ 1000 + 1) := Option.some.inj hobs
  have hsaid : t.mem.value 0 = lineWrite 0 0 1 1 := hvalue.trans (congrArg (fun d => lineWrite d 0 1 1) value_twiceModified)
  exact absurd (hseen.symm.trans hsaid) (by decide +kernel)

/-! ### A `drain.m` as it runs (R372) -/

/-- `drain.m` of one element, an 8-bit integer, to address 0. -/
def drainsByte : WobOp :=
  { writesCounter with
    instr := .drainM ⟨.bank0, false, 0, false, .none⟩ ⟨.s8, false, .rne, [], .none, .edge, 0, .edge, 0, 0, false, 0, 0, 0⟩, left := 0, right := 0x10001 }

/-- The command, with its one byte converted. -/
def runsDrain : Cmd := ⟨drainsByte, 4, 0, [], [], [1], true, 0, 0, 0, Flags.none, none, none, 0, 1, [], none⟩

/-- The command runs, and its line is modified twice. -/
def drainsTwice : State :=
  let s := bench leasedTask (loadPlacement 8)
  { s with mem := twiceModified, eng := { Eng.reset with cmds := [runsDrain] } }

/-- The byte is merged into the L1's copy. -/
theorem value_drainsTwice : (drainsTwice.runCmd 0).mem.value 0 = BitVec.ofNat 1024 (2 ^ 1000 + 1) := by decide +kernel

/-- Refutes O49: a `drain.m` to a line that the host and an L1 have both modified does not start from the line's value. -/
theorem not_streamEvents : ¬ Obligations.StreamEvents := by
  unfold Obligations.StreamEvents
  intro h
  obtain ⟨-, hrun, -⟩ := h drainsTwice runsDrain rfl rfl rfl (by decide) (by decide)
  obtain ⟨-, -, -, hdrain, -⟩ := hrun leasedTask (by decide +kernel) (by decide)
  obtain ⟨-, hvalue⟩ := hdrain _ _ 1 rfl 0 (by decide +kernel) (by decide +kernel)
  have hsaid : (drainsTwice.runCmd 0).mem.value 0 = lineWrite 0 0 1 1 := hvalue.trans (congrArg (fun d => lineWrite d 0 1 1) value_twiceModified)
  exact absurd (value_drainsTwice.symm.trans hsaid) (by decide +kernel)

end Sys2Proof.Machine
end


section
/-!
PROOFS. A fault's report at the Farrier, and the end or hold of the frozen task with its fault record (R223 to R225): obligation O51.
-/
namespace Sys2Proof.Machine

/-! ### The report (R223) -/

/-- What a report's arrival leaves of a task. -/
def Task.reported (t : Task) (n : Nat) (f : FaultRec) (ns : Nat) : Task :=
  if t.ending || t.st = .killing || !t.st.live then { t with reports := dropAt t.reports n } else t.takeReport n f ns

theorem faultReportArrival_next {s : State} {task n : Nat} {t : Task} {f : FaultRec} (ht : s.task? task = some t) (hf : s.nextReport t n = some f) :
    exec (.faultReportArrival task n) s = .next (s.setTask (t.reported n f s.clock.ns)) := by
  change execFaultReportArrival task n s = _
  rw [execFaultReportArrival, ht]
  dsimp only
  rw [hf]
  dsimp only
  rw [Task.reported]
  split <;> rfl

/-- A report that arrives changes its task alone. -/
theorem faultReportArrival_becomes {s : State} {task n : Nat} {t t' : Task} {f : FaultRec} (ht : s.task? task = some t) (hn : t.num = task)
    (hf : s.nextReport t n = some f) (h' : t.reported n f s.clock.ns = t') (hn' : t'.num = t.num) :
    ∃ u, exec (.faultReportArrival task n) s = .next u ∧ (u = { s with sched := u.sched } ∧ u.task? task = some t' ∧
      ∀ k, k ≠ task → u.task? k = s.task? k) := by
  refine ⟨_, faultReportArrival_next ht hf, rfl, ?_, fun k hk => ?_⟩ <;> rw [h', task?_setTask, hn', hn]
  · rw [if_pos rfl]
  · rw [if_neg hk]

/-! ### The fault record (R225) -/

/-- Whether a function's fault ring is on, at a backed base. -/
@[reducible] def State.recRings (s : State) (fn : Nat) : Prop :=
  (s.reg fn 0x280).getLsbD 0 = true ∧ s.deviceBacked fn (bits (s.reg fn 0x280) 51 15 * 2 ^ 15) = true

/-- The address of a function's next fault record. -/
def State.recAt (s : State) (fn : Nat) : Nat := bits (s.reg fn 0x280) 51 15 * 2 ^ 15 + 512 * ((s.reg fn 0x288).toNat % 64)

/-- The state, and the address, after a fault record is written. -/
theorem writeFaultRec_eq (s : State) (t : Task) (f : FaultRec) : s.writeFaultRec t f = if s.recRings t.fn then
    ((s.writeFn t.fn (s.recAt t.fn) (f.bytes (t.nfault - 1))).setReg t.fn 0x288 (s.reg t.fn 0x288 + 1), s.recAt t.fn) else (s, 0) := by
  have hon : (s.reg t.fn 0x280).toNat % 2 = 0 ↔ (s.reg t.fn 0x280).getLsbD 0 ≠ true := by
    rw [BitVec.getLsbD, Nat.testBit_zero]
    simp
  have hnext : BitVec.ofNat 64 ((s.reg t.fn 0x288).toNat + 1) = s.reg t.fn 0x288 + 1 := by
    rw [BitVec.ofNat_add, BitVec.ofNat_toNat, BitVec.setWidth_eq]
    rfl
  rw [State.writeFaultRec]
  by_cases h : s.recRings t.fn
  · have hoff : ¬ (decide ((s.reg t.fn 0x280).toNat % 2 = 0) || !s.deviceBacked t.fn (bits (s.reg t.fn 0x280) 51 15 * 2 ^ 15)) = true := by
      simpa [hon, State.recRings] using h
    rw [if_neg hoff, if_pos h, hnext]
    rfl
  · have hoff : (decide ((s.reg t.fn 0x280).toNat % 2 = 0) || !s.deviceBacked t.fn (bits (s.reg t.fn 0x280) 51 15 * 2 ^ 15)) = true := by
      simpa [hon, State.recRings, imp_iff_not_or] using h
    rw [if_pos hoff, if_neg h]

theorem writeFn_leaves (s : State) (fn a : Nat) (bs : List Byte) : (s.writeFn fn a bs).host = s.host ∧ (s.writeFn fn a bs).fab = s.fab ∧
    (s.writeFn fn a bs).obs = s.obs := by
  unfold State.writeFn
  split <;> simp

/-- What a fault record written leaves in memory and in the ring's register. -/
structure RecWritten (s u : State) (t : Task) (bs : List Byte) : Prop where
  prod : u.reg t.fn 0x288 = if s.recRings t.fn then s.reg t.fn 0x288 + 1 else s.reg t.fn 0x288
  off : ¬ s.recRings t.fn → u.mem = s.mem
  bytes : ∀ pa, s.recRings t.fn → s.fnAddr t.fn (s.recAt t.fn) = some pa →
    (∀ j < bs.length, isHost (pa + j) = false ∧ AtRest s ((pa + j) / 128)) → u.readBytes pa bs.length = bs

/-- Device memory reads the same wherever memory and the engines' busy lines are the same. -/
theorem readBytes_of_mem {s u : State} {pa n : Nat} (hm : u.mem = s.mem) (he : u.eng = s.eng) (hdev : ∀ j < n, isHost (pa + j) = false) :
    u.readBytes pa n = s.readBytes pa n := by
  rw [readBytes_eq_map, readBytes_eq_map]
  refine List.map_congr_left fun j hj => ?_
  have hh : ¬ isHost (128 * ((pa + j) / 128)) = true := Bool.eq_false_iff.1 (isHost_line (hdev j (List.mem_range.1 hj)))
  rw [State.byteAt, State.byteAt, State.lineValue, State.lineValue, if_neg hh, if_neg hh, State.busy, State.busy, hm, he]

theorem writeFaultRec_written (s : State) (t : Task) (f : FaultRec) :
    RecWritten s (s.writeFaultRec t f).1 t (f.bytes (t.nfault - 1)) := by
  rw [writeFaultRec_eq]
  by_cases h : s.recRings t.fn
  · rw [if_pos h]
    refine ⟨by rw [if_pos h, reg_setReg, if_pos ⟨rfl, rfl⟩], fun hn => absurd h hn, fun pa _ hpa hrest => ?_⟩
    have hw : s.writeFn t.fn (s.recAt t.fn) (f.bytes (t.nfault - 1)) = s.writeBytes t.fn pa (f.bytes (t.nfault - 1)) := by rw [State.writeFn, hpa]
    have hread := readBytes_of_mem (s := s.writeFn t.fn (s.recAt t.fn) (f.bytes (t.nfault - 1)))
      (u := (s.writeFn t.fn (s.recAt t.fn) (f.bytes (t.nfault - 1))).setReg t.fn 0x288 (s.reg t.fn 0x288 + 1)) rfl rfl fun j hj => (hrest j hj).1
    rw [hread, hw]
    exact (writeBytes_wrote (fn := t.fn) fun j hj => (hrest j hj).2.writable (isHost_line (hrest j hj).1)).read
  · rw [if_neg h]
    exact ⟨by rw [if_neg h], fun _ => rfl, fun _ hr => absurd hr h⟩

/-! ### The end or hold (R224) -/

theorem placementsOf_freezeTask (s : State) (n : Nat) : ∀ p ∈ (s.freezeTask n).placementsOf n, p.frozen = true := by
  rw [← eachPlacement_iff]
  intro r hr hn
  obtain ⟨q, -, rfl⟩ := List.mem_map.1 hr
  exact freezeFor_frozen (.inl (freezeFor_task n q.2 ▸ hn))

theorem writeFaultRec_fab (s : State) (t : Task) (f : FaultRec) : (s.writeFaultRec t f).1.fab = s.fab ∧ (s.writeFaultRec t f).1.obs = s.obs ∧
    (s.writeFaultRec t f).1.clock = s.clock := by
  rw [State.writeFaultRec]
  split
  · exact ⟨rfl, rfl, rfl⟩
  · exact ⟨(writeFn_leaves _ _ _ _).2.1, (writeFn_leaves _ _ _ _).2.2, (State.writeFn_stays _ _ _ _).1⟩

/-- The state in which the frozen task is ended or held: its placements are frozen and its record is written. -/
structure RecordedFrozen (s u : State) (t : Task) (f : FaultRec) : Prop where
  task : u.task? t.num = some t
  clock : u.clock = s.clock
  obs : u.obs = s.obs
  frozen : ∀ p ∈ u.placementsOf t.num, p.frozen = true
  written : RecWritten s u t (f.bytes (t.nfault - 1))

theorem faultFreezeComplete_next {s : State} {t : Task} {f : FaultRec} (ht : Named s t) (hf : t.fault = some f) (hz : t.freezing = true)
    (he : t.ending = false) : ∃ u, RecordedFrozen s u t f ∧ exec .faultFreezeComplete s =
      .next (u.afterFault t f (if s.recRings t.fn then s.recAt t.fn else 0)) := by
  obtain ⟨hsub, hnum⟩ := ht
  obtain ⟨hfab, hobs, hclock⟩ := writeFaultRec_fab (s.freezeTask t.num) t f
  obtain ⟨hprod, hoff, hbytes⟩ := writeFaultRec_written (s.freezeTask t.num) t f
  refine ⟨((s.freezeTask t.num).writeFaultRec t f).1, ⟨?_, hclock, hobs, ?_, hprod, hoff, hbytes⟩, ?_⟩
  · rw [task?_of_sched (writeFaultRec_sched _ _ _)]
    exact hnum
  · rw [State.placementsOf, hfab]
    exact placementsOf_freezeTask s t.num
  · have haddr : ((s.freezeTask t.num).writeFaultRec t f).2 = if s.recRings t.fn then s.recAt t.fn else 0 := by
      rw [writeFaultRec_eq]
      exact apply_ite Prod.snd _ _ _
    change execFaultFreezeComplete s = _
    rw [execFaultFreezeComplete, hsub, hnum]
    dsimp only
    rw [hf]
    dsimp only
    rw [hz, he]
    exact congrArg (fun a => Host.Outcome.next (State.afterFault _ t f a)) haddr

/-- What is said of a record written holds in every state with the same registers, memory and engines. -/
theorem RecWritten.of_same {s u v : State} {t : Task} {bs : List Byte} (h : RecWritten s u t bs) (hh : v.host = u.host) (hm : v.mem = u.mem)
    (he : v.eng = u.eng) : RecWritten s v t bs := by
  obtain ⟨hprod, hoff, hbytes⟩ := h
  refine ⟨?_, fun hr => hm.trans (hoff hr), fun pa hr hpa hrest => ?_⟩
  · rw [State.reg, State.hostFn, hh]
    exact hprod
  · rw [readBytes_of_mem hm he fun j hj => (hrest j hj).1, hbytes pa hr hpa hrest]

/-- END decides the task's end. -/
theorem afterFault_end {s u : State} {t : Task} {f : FaultRec} {a : Nat} (h : RecordedFrozen s u t f) (he : t.ending = false) (hp : t.fpolHold = false) :
    TaskIs (u.afterFault t f a) t.num (fun k => k = { t with frec := a, freezing := false, ending := true, status := .fault, reason := f.reason, faddr := f.addr }) ∧
      (∀ p ∈ (u.afterFault t f a).placementsOf t.num, p.frozen = true) ∧ RecWritten s (u.afterFault t f a) t (f.bytes (t.nfault - 1)) := by
  have hends : u.afterFault t f a = (u.modTask t.num (fun t => { t with frec := a, freezing := false })).decideEnd t.num .fault f.reason f.addr := by
    rw [State.afterFault, hp]
    rfl
  rw [hends]
  refine ⟨?_, h.frozen, h.written.of_same rfl rfl rfl⟩
  exact taskIs_modTask (k := { t with frec := a, freezing := false }) (by rw [State.task?_modTask_same, h.task]; rfl) (by simp [Task.endAs, he])

/-- HOLD holds the task; in no gang and under no debugger, nothing else is stopped. -/
theorem afterFault_hold {s u : State} {t : Task} {f : FaultRec} {a : Nat} (h : RecordedFrozen s u t f) (hp : t.fpolHold = true) (hg : t.gang = none)
    (hd : s.obs.dbg.attached ≠ some t.num) : TaskIs (u.afterFault t f a) t.num
      (fun k => k = { t with frec := a, freezing := false, st := .held, stateSince := s.clock.ns, victim := none, settled := false }) ∧
      (∀ p ∈ (u.afterFault t f a).placementsOf t.num, p.frozen = true) ∧ RecWritten s (u.afterFault t f a) t (f.bytes (t.nfault - 1)) := by
  let v := ((u.modTask t.num (fun t => { t with frec := a, freezing := false })).toState t.num .held).modTask t.num
    (fun t => { t with victim := none, settled := false })
  have htask : v.task? t.num = some { t with frec := a, freezing := false, st := .held, stateSince := s.clock.ns, victim := none, settled := false } := by
    simp [v, State.toState, h.task, h.clock]
  have hholds : u.afterFault t f a = v := by
    have hdbg : v.dbgStopped t.num 5 f.swid f.code.num = v := if_neg (h.obs ▸ hd)
    rw [State.afterFault, hp]
    change (v.dbgStopped t.num 5 f.swid f.code.num).gangStop t.num = v
    have hgang : (v.task? t.num).bind Task.gang = none := by
      rw [htask]
      exact hg
    rw [hdbg, State.gangStop, hgang]
  rw [hholds]
  exact ⟨⟨_, htask, rfl⟩, h.frozen, h.written.of_same rfl rfl rfl⟩

/-- Settles O51: a report that arrives and a freeze that completes each have one outcome, read off the state as the task is recorded frozen. -/
theorem faultEvents : Obligations.FaultEvents := by
  unfold Obligations.FaultEvents
  intro s
  refine ⟨fun task n t f ht hn hf => ⟨fun hover => ?_, fun he hk hl => ⟨fun hnone => ?_, fun hsome => ?_⟩⟩, fun t f ht hf hz he => ⟨fun hp => ?_, fun hp hg hd => ?_⟩⟩
  · refine faultReportArrival_becomes ht hn hf ?_ rfl
    rw [Task.reported, if_pos (by simpa [or_assoc] using hover)]
  · refine faultReportArrival_becomes ht hn hf ?_ rfl
    rw [Task.reported, if_neg (by simp [he, hk, hl]), Task.takeReport, hnone]
  · obtain ⟨g, hg⟩ := Option.isSome_iff_exists.1 hsome
    refine faultReportArrival_becomes ht hn hf ?_ rfl
    rw [Task.reported, if_neg (by simp [he, hk, hl]), Task.takeReport, hg]
  · obtain ⟨u, hu, hexec⟩ := faultFreezeComplete_next ht hf hz he
    obtain ⟨htask, hfrozen, hprod, hoff, hbytes⟩ := afterFault_end (a := if s.recRings t.fn then s.recAt t.fn else 0) hu he hp
    exact ⟨_, hexec, htask, hfrozen, hprod, hoff, hbytes⟩
  · obtain ⟨u, hu, hexec⟩ := faultFreezeComplete_next ht hf hz he
    obtain ⟨htask, hfrozen, hprod, hoff, hbytes⟩ := afterFault_hold (a := if s.recRings t.fn then s.recAt t.fn else 0) hu hp hg hd
    exact ⟨_, hexec, htask, hfrozen, hprod, hoff, hbytes⟩

end Sys2Proof.Machine
end


section
/-!
PROOFS. Trace records merged, written and lost, and clusters power-gated (R27, R233, R235, R236): obligation O53.
-/
namespace Sys2Proof.Machine

/-! ### One record written to a ring -/

/-- The LOST record of a die for a function. -/
def State.lost (s : State) (die fn : Nat) : Nat := tgetD s.fab.trLost (64 * die + fn) 0

/-- The state after one record is written at a ring's next place. -/
def State.ringPut (s : State) (fn base size : Nat) (bs : List Byte) : State :=
  (s.writeFn fn (base + 32 * ((s.reg fn 0x298).toNat % size)) (bs.take 32)).setReg fn 0x298 (s.reg fn 0x298 + 1)

theorem ringWrite_one (s : State) (fn base size : Nat) (bs : List Byte) : State.ringWrite fn base size 1 bs s = s.ringPut fn base size bs := by
  have hnext : BitVec.ofNat 64 ((s.reg fn 0x298).toNat + 1) = s.reg fn 0x298 + 1 := by
    rw [BitVec.ofNat_add, BitVec.ofNat_toNat, BitVec.setWidth_eq]
    rfl
  rw [State.ringPut, ← hnext]
  rfl

theorem ringPut_reg (s : State) (fn base size : Nat) (bs : List Byte) : (s.ringPut fn base size bs).reg fn 0x298 = s.reg fn 0x298 + 1 := by
  rw [State.ringPut, reg_setReg, if_pos ⟨rfl, rfl⟩]

theorem ringPut_leaves (s : State) (fn base size : Nat) (bs : List Byte) :
    (s.ringPut fn base size bs).fab = s.fab ∧ (s.ringPut fn base size bs).sched = s.sched := 
  ⟨(writeFn_leaves _ _ _ _).2.1, (State.writeFn_stays _ _ _ _).2⟩

/-! ### LOST records -/

/-- A function's ring does not lie in the fabric. -/
theorem traceRing_of_fab (s : State) (f : Fab) (fn : Nat) : State.traceRing { s with fab := f } fn = s.traceRing fn := by
  have hback : ∀ a, State.deviceBacked { s with fab := f } fn a = s.deviceBacked fn a := fun _ => rfl
  rw [State.traceRing, State.traceRing, hback]
  rfl

theorem traceRoom_of_fab (s : State) (f : Fab) (fn size : Nat) : State.traceRoom { s with fab := f } fn size = s.traceRoom fn size := rfl

theorem loseTrace_traceRing (s : State) (die fn n f : Nat) : (s.loseTrace die fn n).traceRing f = s.traceRing f := traceRing_of_fab s _ f

/-- A die with nothing lost writes nothing. -/
theorem writeLost_none {s : State} {fn die : Nat} (h : s.lost die fn = 0) : State.writeLost fn s die = s := by
  have h' : tgetD s.fab.trLost (64 * die + fn) 0 = 0 := h
  rw [State.writeLost]
  split
  · rfl
  · rw [h']
    rfl

/-- A function without a ring has no LOST record written. -/
theorem writeLost_ringless {s : State} {fn die : Nat} (h : s.traceRing fn = none) : State.writeLost fn s die = s := by
  rw [State.writeLost, h]

theorem writeLost_writes {s : State} {fn die base size : Nat} (h : s.lost die fn ≠ 0) (hr : s.traceRing fn = some (base, size))
    (hroom : s.traceRoom fn size ≠ 0) : State.writeLost fn s die =
      let u := s.ringPut fn base size (lostRec s.clock.ptpNs (s.lost die fn) fn).head
      { u with fab := { u.fab with trLost := tdel u.fab.trLost (64 * die + fn) } } := by
  have hfull : ¬ (decide (s.lost die fn = 0) || decide (s.traceRoom fn size = 0)) = true := by simp [h, hroom]
  rw [State.writeLost, hr]
  dsimp only
  rw [← ringWrite_one]
  exact if_neg hfull

/-- A fold that one member alone moves. -/
theorem foldl_one {α β : Type} {g : β → α → β} {b : β} {x : α} {l : List α} (hx : x ∈ l) (hother : ∀ y ∈ l, y ≠ x → g b y = b)
    (hstays : ∀ y ∈ l, g (g b x) y = g b x) : l.foldl g b = g b x := by
  induction l with
  | nil => cases hx
  | cons y l ih =>
    rw [List.foldl_cons]
    by_cases hy : y = x
    · rw [hy]
      exact List.foldlRecOn (motive := fun c => c = g b x) l g rfl fun c hc z hz => hc ▸ hstays z (List.mem_cons_of_mem _ hz)
    · rw [hother y List.mem_cons_self hy]
      exact ih ((List.mem_cons.1 hx).resolve_left (Ne.symm hy)) (fun z hz => hother z (List.mem_cons_of_mem _ hz))
        fun z hz => hstays z (List.mem_cons_of_mem _ hz)

theorem flushLost_none {s : State} {fn : Nat} (h : ∀ d < 4, s.lost d fn = 0) : s.flushLost fn = s :=
  List.foldlRecOn (motive := fun t => t = s) (List.range 4) _ rfl fun t ht d hd => by
    rw [ht]
    exact writeLost_none (h d (List.mem_range.1 hd))

theorem flushLost_ringless {s : State} {fn : Nat} (h : s.traceRing fn = none) : s.flushLost fn = s :=
  List.foldlRecOn (motive := fun t => t = s) (List.range 4) _ rfl fun t ht d _ => by
    rw [ht]
    exact writeLost_ringless h

/-- What a LOST record written leaves: the die owes nothing, and the other dies owe what they owed. -/
theorem writeLost_lost {s : State} {fn die base size : Nat} (h : s.lost die fn ≠ 0) (hr : s.traceRing fn = some (base, size))
    (hroom : s.traceRoom fn size ≠ 0) (d : Nat) : (State.writeLost fn s die).lost d fn = if d = die then 0 else s.lost d fn := by
  rw [writeLost_writes h hr hroom, State.lost, State.lost, tgetD, tgetD]
  dsimp only
  rw [(ringPut_leaves _ _ _ _ _).1]
  split
  next hd => rw [hd, tget_tdel_same]; rfl
  next hd =>
    rw [tget_tdel_ne _ _ _ (by omega)]
    rfl

theorem writeLost_reg {s : State} {fn die base size : Nat} (h : s.lost die fn ≠ 0) (hr : s.traceRing fn = some (base, size))
    (hroom : s.traceRoom fn size ≠ 0) : (State.writeLost fn s die).reg fn 0x298 = s.reg fn 0x298 + 1 := by
  rw [writeLost_writes h hr hroom]
  exact ringPut_reg s fn base size _

/-- Only one die owes a LOST record: it is the one written. -/
theorem flushLost_one {s : State} {fn die base size : Nat} (hd : die < 4) (h : s.lost die fn ≠ 0) (hother : ∀ d < 4, d ≠ die → s.lost d fn = 0)
    (hr : s.traceRing fn = some (base, size)) (hroom : s.traceRoom fn size ≠ 0) : s.flushLost fn = State.writeLost fn s die := by
  refine foldl_one (List.mem_range.2 hd) (fun d hd hne => writeLost_none (hother d (List.mem_range.1 hd) hne)) fun d hd => writeLost_none ?_
  rw [writeLost_lost h hr hroom]
  split
  · rfl
  next hne => exact hother d (List.mem_range.1 hd) hne

/-- The scheduler is left, and everything of the fabric but the counts of lost records. -/
structure OnlyLost (s u : State) : Prop where
  sched : u.sched = s.sched
  fab : u.fab = { s.fab with trLost := u.fab.trLost }

theorem OnlyLost.refl (s : State) : OnlyLost s s := ⟨rfl, rfl⟩

theorem OnlyLost.trans {s t u : State} (h : OnlyLost s t) (h' : OnlyLost t u) : OnlyLost s u := by
  refine ⟨h'.sched.trans h.sched, ?_⟩
  have hlost := h'.fab
  rw [h.fab] at hlost
  exact hlost

theorem onlyLost_loseTrace (s : State) (die fn n : Nat) : OnlyLost s (s.loseTrace die fn n) := ⟨rfl, rfl⟩

theorem onlyLost_writeLost (fn : Nat) (s : State) (die : Nat) : OnlyLost s (State.writeLost fn s die) := by
  by_cases h : s.lost die fn = 0
  · rw [writeLost_none h]
    exact .refl s
  · rcases hr : s.traceRing fn with _ | ⟨base, size⟩
    · rw [writeLost_ringless hr]
      exact .refl s
    · by_cases hroom : s.traceRoom fn size = 0
      · have hfull : (decide (s.lost die fn = 0) || decide (s.traceRoom fn size = 0)) = true := by simp [hroom]
        have hstays : State.writeLost fn s die = s := by
          rw [State.writeLost, hr]
          exact if_pos hfull
        rw [hstays]
        exact .refl s
      · rw [writeLost_writes h hr hroom]
        obtain ⟨hfab, hsched⟩ := ringPut_leaves s fn base size (lostRec s.clock.ptpNs (s.lost die fn) fn).head
        refine ⟨hsched, ?_⟩
        dsimp only
        rw [hfab]

theorem onlyLost_foldl {α : Type} {g : State → α → State} (h : ∀ t x, OnlyLost t (g t x)) (l : List α) (s : State) : OnlyLost s (l.foldl g s) :=
  List.foldlRecOn l g (.refl s) fun t ht x _ => ht.trans (h t x)

theorem onlyLost_flushLost (s : State) (fn : Nat) : OnlyLost s (s.flushLost fn) := onlyLost_foldl (fun t d => onlyLost_writeLost fn t d) _ s

/-! ### `TRACE_MERGE` (R235) -/

/-- The state after a die has taken the record at the head of a cluster's FIFO. -/
def State.takeTrace (s : State) (c : Nat) : State := { s with fab := { s.fab with trFifo := tmod s.fab.trFifo c (fun rs => rs.drop 1) } }

/-- What a record taken from a FIFO leaves. -/
structure TraceTaken (s u : State) (c : Nat) : Prop where
  head : tgetD u.fab.trFifo c [] = (tgetD s.fab.trFifo c []).drop 1
  others : ∀ k, k ≠ c → tget u.fab.trFifo k = tget s.fab.trFifo k
  sched : u.sched = s.sched

theorem takeTrace_taken {s u : State} {c : Nat} (hf : u.fab.trFifo = (s.takeTrace c).fab.trFifo) (hs : u.sched = s.sched) : TraceTaken s u c := by
  refine ⟨?_, fun k hk => by rw [hf, State.takeTrace, tget_tmod_ne _ _ _ _ hk], hs⟩
  rw [hf, State.takeTrace, tgetD, tgetD, tget_tmod_same]
  cases tget s.fab.trFifo c <;> rfl

theorem traceMerge_lost {s : State} {fn : Nat} (hd : s.lostDue s.subject = some fn) (hq : s.ringQuiet fn 0 = true) :
    exec .traceMerge s = .next (State.writeLost fn s s.subject) := by
  change execTraceMerge s = _
  rw [execTraceMerge, hd]
  exact event_next hq

theorem traceMerge_record {s : State} {c : Nat} {r : TrRec} (hd : s.lostDue s.subject = none) (ho : s.oldestTrace s.subject = some (c, r))
    (hq : s.ringQuiet r.fn r.size = true) : exec .traceMerge s = .next ((s.takeTrace c).emitTrace s.subject r) := by
  change execTraceMerge s = _
  rw [execTraceMerge, hd, ho]
  exact event_next hq

/-- A LOST record that is due is owed, and its ring has room. -/
theorem lostDue_owes {s : State} {die fn base size : Nat} (h : s.lostDue die = some fn) (hr : s.traceRing fn = some (base, size)) :
    s.lost die fn ≠ 0 ∧ s.traceRoom fn size ≠ 0 := by
  have hp := List.find?_some h
  rw [hr] at hp
  simpa [State.lost] using hp

theorem loseTrace_lost (s : State) (die fn n : Nat) : (s.loseTrace die fn n).lost die fn = s.lost die fn + n := tgetD_tput_same _ _ _ _

theorem loseTrace_lost_ne (s : State) {die fn d : Nat} (n : Nat) (h : d ≠ die) : (s.loseTrace die fn n).lost d fn = s.lost d fn :=
  tgetD_tput_ne _ _ _ _ _ (by omega)

/-- A record for which its function has no ring is lost. -/
theorem emitTrace_ringless {s : State} {die : Nat} {r : TrRec} (h : s.traceRing r.fn = none) : s.emitTrace die r = s.loseTrace die r.fn r.size := by
  rw [State.emitTrace, h]

/-- A record for which its ring has no room is lost. -/
theorem emitTrace_full {s : State} {die base size : Nat} {r : TrRec} (hr : s.traceRing r.fn = some (base, size)) (hl : ∀ d < 4, s.lost d r.fn = 0)
    (hroom : s.traceRoom r.fn size < r.size) : s.emitTrace die r = s.loseTrace die r.fn r.size := by
  rw [State.emitTrace, hr]
  dsimp only
  rw [flushLost_none hl, if_pos hroom]

/-- A record without a body is written at the ring's next place. -/
theorem emitTrace_one {s : State} {die base size : Nat} {r : TrRec} (hr : s.traceRing r.fn = some (base, size)) (hl : ∀ d < 4, s.lost d r.fn = 0)
    (hb : r.body = []) (hroom : s.traceRoom r.fn size ≠ 0) :
    s.emitTrace die r = (s.ringPut r.fn base size (r.head ++ r.body)).countEvent (clusterOf r.pf) r.task 0x18 1 := by
  have hsize : r.size = 1 := by rw [TrRec.size, hb]; rfl
  rw [State.emitTrace, hr]
  dsimp only
  rw [flushLost_none hl, if_neg (by omega), hsize, ringWrite_one, hr]
  rfl

/-! ### `CLUSTER_POWER_GATE` (R236) -/

/-- The state after a cluster is gated, its FIFO gone. -/
def State.gate (s : State) (c : Nat) : State := { s with fab := { s.fab with gated := nsAdd s.fab.gated c, trFifo := tdel s.fab.trFifo c } }

/-- The functions that a FIFO has records of. -/
def lostFns (rs : List TrRec) : List Nat := (List.range 64).filter (fun fn => rs.any (fun r => r.fn = fn))

/-- How many records of a function a FIFO has. -/
def lostOf (rs : List TrRec) (fn : Nat) : Nat := ((rs.filter (fun r => r.fn = fn)).map TrRec.size).foldl (· + ·) 0

/-- A function's records lost as a cluster is gated, with the LOST records that are due before and after. -/
def State.loseGated (c : Nat) (rs : List TrRec) (s : State) (fn : Nat) : State := ((s.flushLost fn).loseTrace (dieOf c) fn (lostOf rs fn)).flushLost fn

/-- What allows a cluster to be gated. -/
structure Gates (s : State) (rs : List TrRec) : Prop where
  range : s.subject < 512
  idle : ∀ f < 8, (s.fret (8 * s.subject + f)).st ≠ .live ∧ (s.fret (8 * s.subject + f)).st ≠ .load ∧ (s.fret (8 * s.subject + f)).st ≠ .move ∧
    (s.fret (8 * s.subject + f)).st ≠ .service
  awake : nsHas s.fab.gated s.subject = false
  due : (∀ r ∈ rs, r.time + 4000 ≤ s.clock.ptpNs) ∨ (∃ r ∈ s.board.dieTemp, 800 < r.2) ∨ s.board.hotStacks ≠ []
  quiet : ∀ r ∈ rs, r.fn < 64 → s.ringQuiet r.fn 4 = true

theorem clusterPowerGate_next {s : State} (h : Gates s (tgetD s.fab.trFifo s.subject [])) : exec .clusterPowerGate s =
    .next ((lostFns (tgetD s.fab.trFifo s.subject [])).foldl (State.loseGated s.subject (tgetD s.fab.trFifo s.subject [])) (s.gate s.subject)) := by
  refine event_next ?_
  obtain ⟨hrange, hidle, hawake, hdue, hquiet⟩ := h
  have hfrets : (List.range 8).all (fun f => match (s.fret (8 * s.subject + f)).st with
      | .live | .load | .move | .service => false
      | _ => true) = true := by
    refine List.all_eq_true.2 fun f hf => ?_
    obtain ⟨hlive, hload, hmove, hservice⟩ := hidle f (List.mem_range.1 hf)
    split
    · contradiction
    · contradiction
    · contradiction
    · contradiction
    · rfl
  have hold : (tgetD s.fab.trFifo s.subject []).all (fun r => r.time + 4000 ≤ s.clock.ptpNs) = true ∨ s.tooHot = true := by
    rw [State.tooHot]
    simpa using hdue
  have hrings : (lostFns (tgetD s.fab.trFifo s.subject [])).all (fun fn => s.ringQuiet fn 4) = true := by
    refine List.all_eq_true.2 fun fn hfn => ?_
    obtain ⟨hlt, hany⟩ := List.mem_filter.1 hfn
    obtain ⟨r, hr, hrfn⟩ := List.any_eq_true.1 hany
    rw [← of_decide_eq_true hrfn] at hlt ⊢
    exact hquiet r hr (List.mem_range.1 hlt)
  simp only [Bool.and_eq_true, Bool.or_eq_true, decide_eq_true_eq, Bool.not_eq_true']
  exact ⟨⟨⟨⟨hrange, hfrets⟩, hawake⟩, hold⟩, hrings⟩

/-- A gated cluster's losses change the counts of lost records alone. -/
theorem onlyLost_loseGated (c : Nat) (rs : List TrRec) (s : State) (fn : Nat) : OnlyLost s (s.loseGated c rs fn) :=
  ((onlyLost_flushLost s fn).trans (onlyLost_loseTrace _ _ _ _)).trans (onlyLost_flushLost _ _)

/-- What a cluster's gating leaves. -/
structure Gated (s u : State) (c : Nat) : Prop where
  gated : nsHas u.fab.gated c = true
  others : ∀ k, k ≠ c → nsHas u.fab.gated k = nsHas s.fab.gated k
  fifo : tget u.fab.trFifo c = none
  sched : u.sched = s.sched
  frets : u.fab.frets = s.fab.frets

theorem loseGated_gated (s : State) (c : Nat) (rs : List TrRec) (fns : List Nat) : Gated s (fns.foldl (State.loseGated c rs) (s.gate c)) c := by
  obtain ⟨hsched, hfab⟩ := onlyLost_foldl (onlyLost_loseGated c rs) fns (s.gate c)
  refine ⟨?_, fun k hk => ?_, ?_, hsched, ?_⟩
  all_goals rw [hfab]
  · exact nsHas_nsAdd_same _ _
  · exact nsHas_nsAdd_ne _ _ _ hk
  · exact tget_tdel_same _ _
  · rfl

/-- Losses of functions without rings leave memory. -/
theorem loseGated_ringless {s : State} {c : Nat} {rs : List TrRec} {fns : List Nat} (h : ∀ fn ∈ fns, s.traceRing fn = none) :
    (fns.foldl (State.loseGated c rs) (s.gate c)).mem = s.mem := by
  have hfold := List.foldlRecOn (motive := fun t : State => t = { s.gate c with fab := t.fab }) fns (State.loseGated c rs) (b := s.gate c) rfl
    fun t ht fn hfn => by
      have hr : t.traceRing fn = none := by
        rw [ht, traceRing_of_fab, State.gate, traceRing_of_fab]
        exact h fn hfn
      have hr' : (t.loseTrace (dieOf c) fn (lostOf rs fn)).traceRing fn = none := (loseTrace_traceRing _ _ _ _ _).trans hr
      rw [State.loseGated, flushLost_ringless hr, flushLost_ringless hr']
      exact congrArg (fun u : State => u.loseTrace (dieOf c) fn (lostOf rs fn)) ht
  rw [hfold]
  rfl

theorem mem_lostFns {rs : List TrRec} {fn : Nat} (h : fn ∈ lostFns rs) : ∃ r ∈ rs, r.fn = fn := by
  obtain ⟨-, hany⟩ := List.mem_filter.1 h
  simpa using hany

/-- The losses of a FIFO of one record. -/
theorem loseGated_single {s : State} {c : Nat} {r : TrRec} (h : r.fn < 64) : (lostFns [r]).foldl (State.loseGated c [r]) s =
    ((s.flushLost r.fn).loseTrace (dieOf c) r.fn r.size).flushLost r.fn := by
  have hfns : lostFns [r] = [r.fn] := by
    have hbeq : lostFns [r] = (List.range 64).filter (fun x => x == r.fn) :=
      List.filter_congr fun x _ => by
        rw [List.any_cons, List.any_nil, Bool.or_false, Bool.eq_iff_iff, decide_eq_true_eq, beq_iff_eq, eq_comm]
    rw [hbeq, List.filter_beq, List.count_eq_one_of_mem List.nodup_range (List.mem_range.2 h)]
    rfl
  have hsize : lostOf [r] r.fn = r.size := by simp [lostOf]
  rw [hfns, List.foldl_cons, List.foldl_nil, State.loseGated, hsize]

theorem loseGated_single_ringless {s : State} {c : Nat} {r : TrRec} (h : r.fn < 64) (hr : s.traceRing r.fn = none) :
    (((lostFns [r]).foldl (State.loseGated c [r]) (s.gate c))).lost (dieOf c) r.fn = s.lost (dieOf c) r.fn + r.size := by
  have hr' : (s.gate c).traceRing r.fn = none := (traceRing_of_fab s _ _).trans hr
  have hr'' : ((s.gate c).loseTrace (dieOf c) r.fn r.size).traceRing r.fn = none := (loseTrace_traceRing _ _ _ _ _).trans hr'
  rw [loseGated_single h, flushLost_ringless hr', flushLost_ringless hr'', loseTrace_lost]
  rfl

/-- With room in the ring, the record lost at the gating is told by a LOST record at once. -/
theorem loseGated_single_told {s : State} {c base size : Nat} {r : TrRec} (h : r.fn < 64) (hc : c < 512) (hr : s.traceRing r.fn = some (base, size))
    (hroom : s.traceRoom r.fn size ≠ 0) (hl : ∀ d < 4, s.lost d r.fn = 0) :
    let u := (lostFns [r]).foldl (State.loseGated c [r]) (s.gate c)
    u.reg r.fn 0x298 = s.reg r.fn 0x298 + 1 ∧ u.lost (dieOf c) r.fn = 0 := by
  have hdie : dieOf c < 4 := by rw [dieOf]; omega
  let v := (s.gate c).loseTrace (dieOf c) r.fn r.size
  have hown : v.lost (dieOf c) r.fn ≠ 0 := by
    rw [loseTrace_lost, TrRec.size]
    omega
  have hother : ∀ d < 4, d ≠ dieOf c → v.lost d r.fn = 0 := fun d hd hne => (loseTrace_lost_ne _ _ hne).trans (hl d hd)
  have hrv : v.traceRing r.fn = some (base, size) := (loseTrace_traceRing _ _ _ _ _).trans ((traceRing_of_fab s _ _).trans hr)
  have hroomv : v.traceRoom r.fn size ≠ 0 := by
    rw [show v.traceRoom r.fn size = s.traceRoom r.fn size from (traceRoom_of_fab (s.gate c) _ _ _).trans (traceRoom_of_fab s _ _ _)]
    exact hroom
  dsimp only
  rw [loseGated_single h, flushLost_none (s := s.gate c) hl, flushLost_one hdie hown hother hrv hroomv]
  refine ⟨writeLost_reg hown hrv hroomv, ?_⟩
  rw [writeLost_lost hown hrv hroomv, if_pos rfl]

/-- Settles O53: a merger writes a LOST record that is due, or takes the oldest head record; a gated cluster's records are lost, and told where there is room. -/
theorem traceEvents : Obligations.TraceEvents := by
  unfold Obligations.TraceEvents
  intro s
  refine ⟨fun fn base size hd hr hq => ?_, fun c r hd ho => ⟨fun hr => ?_, fun base size hr hq hl => ⟨fun hroom => ?_, fun hb hroom => ?_⟩⟩,
    fun hrange hidle hawake hdue => ⟨fun hr => ?_, fun hq => ?_⟩⟩
  · obtain ⟨howed, hroom⟩ := lostDue_owes hd hr
    obtain ⟨hsched, hfab⟩ := onlyLost_writeLost fn s s.subject
    refine ⟨_, traceMerge_lost hd hq, howed, (writeLost_lost howed hr hroom _).trans (if_pos rfl), writeLost_reg howed hr hroom, ?_, hsched, ?_⟩
    · rw [hfab]
    · rw [writeLost_writes howed hr hroom]
      rfl
  · have hq : s.ringQuiet r.fn r.size = true := by rw [State.ringQuiet, hr]
    have hr' : (s.takeTrace c).traceRing r.fn = none := (traceRing_of_fab s _ _).trans hr
    obtain ⟨hhead, hothers, hsched⟩ := takeTrace_taken (s := s) (u := (s.takeTrace c).loseTrace s.subject r.fn r.size) (c := c) rfl rfl
    refine ⟨_, traceMerge_record hd ho hq, ?_⟩
    rw [emitTrace_ringless hr']
    exact ⟨⟨hhead, hothers, hsched⟩, loseTrace_lost _ _ _ _, rfl, rfl⟩
  · have hr' : (s.takeTrace c).traceRing r.fn = some (base, size) := (traceRing_of_fab s _ _).trans hr
    obtain ⟨hhead, hothers, hsched⟩ := takeTrace_taken (s := s) (u := (s.takeTrace c).loseTrace s.subject r.fn r.size) (c := c) rfl rfl
    refine ⟨_, traceMerge_record hd ho hq, ?_⟩
    rw [emitTrace_full hr' hl hroom]
    exact ⟨⟨hhead, hothers, hsched⟩, loseTrace_lost _ _ _ _, rfl, rfl⟩
  · have hr' : (s.takeTrace c).traceRing r.fn = some (base, size) := (traceRing_of_fab s _ _).trans hr
    refine ⟨_, traceMerge_record hd ho hq, ?_⟩
    rw [emitTrace_one hr' hl hb hroom]
    obtain ⟨hfab, hsched⟩ := ringPut_leaves (s.takeTrace c) r.fn base size (r.head ++ r.body)
    obtain ⟨hhead, hothers, hsame⟩ := takeTrace_taken (s := s) (c := c)
      (u := ((s.takeTrace c).ringPut r.fn base size (r.head ++ r.body)).countEvent (clusterOf r.pf) r.task 0x18 1) (by simp [hfab]) hsched
    refine ⟨⟨hhead, hothers, hsame⟩, ringPut_reg _ _ _ _ _, ?_⟩
    simp only [State.countEvent_fab, Fab.countEvent_stays, hfab]
    rfl
  · have hquiet : ∀ r ∈ tgetD s.fab.trFifo s.subject [], r.fn < 64 → s.ringQuiet r.fn 4 = true := fun r hm _ => by rw [State.ringQuiet, hr r hm]
    obtain ⟨hgated, hothers, hfifo, hsched, hfrets⟩ := loseGated_gated s s.subject (tgetD s.fab.trFifo s.subject [])
      (lostFns (tgetD s.fab.trFifo s.subject []))
    refine ⟨_, clusterPowerGate_next ⟨hrange, hidle, hawake, hdue, hquiet⟩, ⟨hgated, hothers, hfifo, hsched, hfrets⟩, ?_, fun r hone h64 => ?_⟩
    · refine loseGated_ringless fun fn hfn => ?_
      obtain ⟨r, hm, rfl⟩ := mem_lostFns hfn
      exact hr r hm
    · rw [hone]
      exact loseGated_single_ringless h64 (hr r (hone ▸ List.mem_singleton_self r))
  · obtain ⟨hgated, hothers, hfifo, hsched, hfrets⟩ := loseGated_gated s s.subject (tgetD s.fab.trFifo s.subject [])
      (lostFns (tgetD s.fab.trFifo s.subject []))
    refine ⟨_, clusterPowerGate_next ⟨hrange, hidle, hawake, hdue, fun r hm _ => (hq r hm).2⟩, ⟨hgated, hothers, hfifo, hsched, hfrets⟩,
      fun r base size hone hr hroom hl => ?_⟩
    rw [hone]
    exact loseGated_single_told (hq r (hone ▸ List.mem_singleton_self r)).1 hrange hr hroom hl

end Sys2Proof.Machine
end


section
/-!
PROOFS. The debug block's commands (R227 to R231): obligation O52.
-/
namespace Sys2Proof.Machine

/-! ### The status word -/

/-- A field of four bits from bit 16. -/
theorem bits_stop (v : Word) : bits v 19 16 = (v.extractLsb' 16 4).toNat := by
  rw [BitVec.extractLsb'_toNat, Nat.shiftRight_eq_div_pow]
  rfl

theorem bits_stop_and (v m : Word) (hm : m.extractLsb' 16 4 = 15#4) : bits (v &&& m) 19 16 = bits v 19 16 := by
  rw [bits_stop, bits_stop, BitVec.extractLsb'_and, hm]
  exact congrArg BitVec.toNat BitVec.and_allOnes

theorem bits_stop_or (v w : Word) (hv : v.extractLsb' 16 4 = 0#4) : bits (v ||| w) 19 16 = bits w 19 16 := by
  rw [bits_stop, bits_stop, BitVec.extractLsb'_or, hv, BitVec.zero_or]

/-- What is kept of the status word lies below its fields. -/
theorem extract_kept (v m : Word) (hm : m.extractLsb' 16 4 = 0#4) : (v &&& m).extractLsb' 16 4 = 0#4 := by
  rw [BitVec.extractLsb'_and, hm, BitVec.and_zero]

/-- The status word of a task that stands still: the bits kept, then STOP, with a code and a thread. -/
theorem stopped_status (v : Word) {m : Word} {low cause high : Nat} (hm : m.extractLsb' 16 4 = 0#4) (hlow : low < 2 ^ 16) (hc : cause < 16) :
    let w := (v &&& m) ||| BitVec.ofNat 64 (low + 2 ^ 16 * cause + 2 ^ 20 * high)
    bits w 19 16 = cause ∧ ∀ i < 16, w.getLsbD i = ((v &&& m).getLsbD i || low.testBit i) := by
  refine ⟨?_, fun i hi => ?_⟩
  · rw [bits_stop_or _ _ (extract_kept v m hm), bits, BitVec.toNat_ofNat]
    omega
  · have hsum : low + 2 ^ 16 * cause + 2 ^ 20 * high = 2 ^ 16 * (cause + 2 ^ 4 * high) + low := by omega
    rw [BitVec.getLsbD_or, BitVec.getLsbD_ofNat, hsum, Nat.testBit_two_pow_mul_add _ hlow, if_pos hi, decide_eq_true (by omega), Bool.true_and]

/-! ### A command (R230) -/

/-- The state in which a command is carried out: its word kept, and `ERR` cleared. -/
def State.cmdTaken (s : State) (v : Word) : State := (s.setReg 0 0x310 (v &&& 0x3FFF03F0)).dbgTake

/-- The state after a command is refused with no task attached. -/
def State.cmdErr (s : State) (v : Word) : State := (s.setReg 0 0x310 (v &&& 0x3FFF03F0)).dbgRefuse

section
variable {s : State} {mn : String} {v : Word} {halts : Bool} {act : Task → State → State}

theorem dbgCommand_runs {n : Nat} {t : Task} (hr : s.reach 0 = .served) (ha : s.obs.dbg.attached = some n) (ht : s.task? n = some t)
    (hb : (s.reg 0 0x318).getLsbD 1 = false ∨ halts = true) : s.dbgCommand mn v halts act = .next (act t (s.cmdTaken v)) := by
  have hgo : ¬ ((s.reg 0 0x318).getLsbD 1 && !halts) = true := by simpa [imp_iff_not_or] using hb
  rw [State.dbgCommand, ha, Option.bind_some, ht, if_neg hgo]
  exact hostAccess_next hr rfl

theorem dbgCommand_err (hr : s.reach 0 = .served) (ha : s.obs.dbg.attached.bind s.task? = none) (hb : (s.reg 0 0x318).getLsbD 1 = false) :
    s.dbgCommand mn v halts act = .next (s.cmdErr v) := by
  rw [State.dbgCommand, ha, hb]
  exact hostAccess_next hr rfl

theorem dbgCommand_busy (hr : s.reach 0 = .served) (hb : (s.reg 0 0x318).getLsbD 1 = true) : s.dbgCommand mn v false act = .next s := by
  rw [State.dbgCommand, hb]
  exact hostAccess_next hr rfl

end

theorem cmdTaken_status (s : State) (v : Word) : (s.cmdTaken v).reg 0 0x318 = s.reg 0 0x318 &&& ~~~ (0x10 : Word) := by
  rw [State.cmdTaken, State.dbgTake, reg_setReg, if_pos ⟨rfl, rfl⟩, reg_setReg, if_neg (by decide)]

theorem cmdTaken_reg (s : State) (v : Word) {o : Nat} (ho : o ≠ 0x310 ∧ o ≠ 0x318) : (s.cmdTaken v).reg 0 o = s.reg 0 o := by
  rw [State.cmdTaken, State.dbgTake, reg_setReg, if_neg fun h => ho.2 h.2, reg_setReg, if_neg fun h => ho.1 h.2]

theorem cmdTaken_stop (s : State) (v : Word) : (s.cmdTaken v).stopField = bits (s.reg 0 0x318) 19 16 := by
  rw [State.stopField, cmdTaken_status, bits_stop_and _ _ (by decide)]

theorem cmdErr_status (s : State) (v : Word) : (s.cmdErr v).reg 0 0x318 = s.reg 0 0x318 ||| 0x10 := by
  rw [State.cmdErr, State.dbgRefuse, reg_setReg, if_pos ⟨rfl, rfl⟩, reg_setReg, if_neg (by decide)]

/-- A refusal sets `ERR`, and leaves everything but the registers. -/
theorem dbgRefuse_refuses {s u : State} (hs : u.sched = s.sched) (hf : u.fab = s.fab) (hm : u.mem = s.mem) (hb : u.board = s.board) :
    (u.dbgRefuse.reg 0 0x318).getLsbD 4 = true ∧ u.dbgRefuse.sched = s.sched ∧ u.dbgRefuse.fab = s.fab ∧ u.dbgRefuse.mem = s.mem ∧
      u.dbgRefuse.board = s.board := by
  refine ⟨?_, hs, hf, hm, hb⟩
  rw [State.dbgRefuse, reg_setReg, if_pos ⟨rfl, rfl⟩, BitVec.getLsbD_or]
  exact Bool.or_true _

/-! ### Resume and step (R230) -/

/-- A held token as it is sent when its task resumes. -/
def State.resent (s : State) (p : Placement) (k : NetTok) : NetTok :=
  { k with pf := p.physFret k.fret, pelem := p.physElem k.fret k.velem, gen := p.genAt k.fret k.src s.clock.cycle
           earliest := s.clock.cycle + 1 + routeLat k.src (clusterOf (p.physFret k.fret)) }

/-- One held token released. -/
def State.resend (s : State) (k : NetTok) : State :=
  match s.placement? k.task k.pl with
  | none => s
  | some p => s.releaseHeld p k

theorem releaseHeld_fab (s : State) (p : Placement) (k : NetTok) : s.releaseHeld p k = { s with fab := (s.releaseHeld p k).fab } := by
  rw [State.releaseHeld]
  split
  · rfl
  · rw [netSend_net]

theorem resend_fab (s : State) (k : NetTok) : s.resend k = { s with fab := (s.resend k).fab } := by
  rw [State.resend]
  split
  · rfl
  · exact releaseHeld_fab _ _ _

theorem resend_sends {s : State} {k : NetTok} {p : Placement} (hp : s.placement? k.task k.pl = some p) (hm : nsHas p.moving k.fret = false) :
    (s.resend k).fab.net = s.fab.net ++ [s.resent p k] ∧ (s.resend k).fab.placements = s.fab.placements ∧ (s.resend k).clock = s.clock := by
  rw [State.resend, hp]
  dsimp only
  rw [State.releaseHeld, hm]
  rw [if_neg Bool.false_ne_true, netSend_net]
  exact ⟨rfl, rfl, rfl⟩

theorem foldl_resend_fab (toks : List NetTok) (s : State) : toks.foldl State.resend s = { s with fab := (toks.foldl State.resend s).fab } := by
  refine List.foldlRecOn (motive := fun t : State => t = { s with fab := t.fab }) toks State.resend rfl fun t ht k _ => ?_
  rw [resend_fab]
  exact congrArg (fun u : State => { u with fab := (t.resend k).fab }) ht

/-- The token that a state sends for a held one, of whatever placement it has. -/
def State.resentOf (s : State) (k : NetTok) : NetTok :=
  match s.placement? k.task k.pl with
  | none => k
  | some p => s.resent p k

theorem foldl_resend_net {toks : List NetTok} {s : State}
    (h : ∀ k ∈ toks, ∃ p, s.placement? k.task k.pl = some p ∧ nsHas p.moving k.fret = false) :
    (toks.foldl State.resend s).fab.net = s.fab.net ++ toks.map s.resentOf := by
  induction toks generalizing s with
  | nil => simp
  | cons k toks ih =>
    obtain ⟨p, hp, hm⟩ := h k List.mem_cons_self
    obtain ⟨hnet, hpl, hclock⟩ := resend_sends hp hm
    have hsame : ∀ task pl, (s.resend k).placement? task pl = s.placement? task pl := fun task pl => by
      rw [State.placement?, State.placement?, hpl]
    have hto : (s.resend k).resentOf = s.resentOf := by
      funext x
      rw [State.resentOf, State.resentOf, hsame]
      cases s.placement? x.task x.pl with
      | none => rfl
      | some q => simp only [State.resent, hclock]
    have hk : s.resentOf k = s.resent p k := by rw [State.resentOf, hp]
    rw [List.foldl_cons, ih fun x hx => by simpa only [hsame] using h x (List.mem_cons_of_mem _ hx), hnet, hto, List.map_cons, hk, List.append_assoc]
    rfl

/-- What leaves HELD: the task runs, its placements fire, and the status says neither BUSY nor HALTED. -/
structure Leaves (s u : State) (n : Nat) (t : Task) : Prop where
  task : TaskIs u n (fun k => k = { t with st := .running, stateSince := s.clock.ns })
  thawed : ∀ p ∈ u.placementsOf n, p.frozen = false
  mem : u.mem = s.mem
  status : u.reg 0 0x318 = s.reg 0 0x318 &&& ~~~ (6 : Word)
  net : u.fab.net = s.fab.net
  obs : u.obs = s.obs

theorem leaveHeld_leaves {s : State} {n : Nat} {t : Task} (ha : s.obs.dbg.attached = some n) (ht : s.task? n = some t) : Leaves s (s.leaveHeld n) n t := by
  obtain ⟨hmem, hobs, -, -, hpl, hsched⟩ := leaveHeld_parts s n
  have heq : s.leaveHeld n = ((s.thawTask n).toState n .running).setReg 0 0x318 (s.reg 0 0x318 &&& ~~~ (6 : Word)) := if_pos ha
  refine ⟨?_, ?_, hmem, ?_, ?_, hobs⟩
  · rw [taskIs_of_sched hsched]
    exact taskIs_modTask ht rfl
  · rw [← eachPlacement_iff]
    exact State.EachPlacement.map (P := fun _ => True) (s := s) (fun _ _ _ => trivial) hpl (thawFor_task _) fun p hp _ => thawFor_frozen (.inl hp)
  · rw [heq, reg_setReg, if_pos ⟨rfl, rfl⟩]
  · rw [heq]
    rfl

/-- The debug block with nothing held of a step. -/
def State.stepDropped (s : State) (f : Fab) : State :=
  { s with fab := f, obs := { s.obs with dbg := { s.obs.dbg with heldToks := [], steppedWaves := [] } } }

theorem dropStepped_eq (s : State) : s.dropStepped = s.stepDropped s.dropStepped.fab := by
  have hsend : s.sendStepped = s.obs.dbg.heldToks.foldl State.resend { s with obs := { s.obs with dbg := { s.obs.dbg with heldToks := [] } } } := rfl
  rw [State.dropStepped, hsend, foldl_resend_fab]
  rfl

theorem dropStepped_net {s : State} (h : ∀ k ∈ s.obs.dbg.heldToks, ∃ p, s.placement? k.task k.pl = some p ∧ nsHas p.moving k.fret = false) :
    s.dropStepped.fab.net = s.fab.net ++ s.obs.dbg.heldToks.map s.resentOf :=
  foldl_resend_net (s := { s with obs := { s.obs with dbg := { s.obs.dbg with heldToks := [] } } }) h

/-- RESUME of a task that is held otherwise than for a fault, in no gang. -/
theorem resumeHeld_eq {s : State} {t : Task} (hst : t.st = .held) (hstop : s.stopField ≠ 5) (hg : t.gang = none) :
    resumeHeld t s = s.dropStepped.leaveHeld t.num := by
  have hgo : ¬ (decide (t.st ≠ .held) || decide (s.stopField = 5)) = true := by simp [hst, hstop]
  rw [resumeHeld, if_neg hgo, hg]
  rfl

theorem resumeHeld_refuses {s : State} {t : Task} (h : t.st ≠ .held ∨ s.stopField = 5) : resumeHeld t s = s.dbgRefuse := by
  have hno : (decide (t.st ≠ .held) || decide (s.stopField = 5)) = true := by simpa using h
  rw [resumeHeld, if_pos hno]

theorem stepHeld1_refuses {v : Word} {s : State} {t : Task} (h : t.st ≠ .held ∨ s.stopField = 5) : stepHeld1 v t s = s.dbgRefuse := by
  have hno : (decide (t.st ≠ .held) || decide (s.stopField = 5)) = true := by simpa using h
  rw [stepHeld1]
  split
  · rfl
  · rw [if_pos hno]

/-- STEP of a thread that is there. -/
theorem stepHeld1_eq {v : Word} {s : State} {t : Task} {p : Placement} {th : Thread} (hst : t.st = .held) (hstop : s.stopField ≠ 5) (hd : t.dbg = true)
    (hp : s.placement? t.num (bits v 9 4) = some p) (hth : p.thread? (bits v 29 16) = some th) :
    let u := (s.leaveHeld t.num).setReg 0 0x318 ((s.leaveHeld t.num).reg 0 0x318 ||| 2)
    stepHeld1 v t s = { u with obs := { u.obs with dbg := { u.obs.dbg with stepping := some (bits v 9 4, bits v 29 16, th.oldest) } } } := by
  have hgo : ¬ (decide (t.st ≠ .held) || decide (s.stopField = 5)) = true := by simp [hst, hstop]
  have hthread : (s.placement? t.num (bits v 9 4)).bind (fun p => p.thread? (bits v 29 16)) = some th := by rw [hp, Option.bind_some, hth]
  rw [stepHeld1, hthread]
  dsimp only
  rw [if_neg hgo, hd]
  rfl

theorem endHeld_refuses {s : State} {t : Task} (h : t.st ≠ .held ∨ s.stopField ≠ 5) : endHeld t s = s.dbgRefuse := by
  have hno : (decide (t.st ≠ .held) || decide (s.stopField ≠ 5)) = true := by simpa using h
  rw [endHeld]
  split
  · rw [if_pos hno]
  · rfl

theorem endHeld_ends {s : State} {t : Task} {f : FaultRec} (hf : t.fault = some f) (hst : t.st = .held) (hstop : s.stopField = 5) :
    endHeld t s = s.decideEnd t.num .fault f.reason f.addr := by
  have hgo : ¬ (decide (t.st ≠ .held) || decide (s.stopField ≠ 5)) = true := by simp [hst, hstop]
  rw [endHeld, hf]
  exact if_neg hgo

theorem killMatched_orders {s : State} {t : Task} (hst : t.st ∈ [TState.loading, .running, .held, .saving]) (he : t.ending = false) :
    s.killMatched t = s.modTask t.num (fun t => { t with orderKill := true }) := by
  rw [State.killMatched, he]
  simp only [List.mem_cons, List.not_mem_nil, or_false] at hst
  obtain hst | hst | hst | hst := hst <;> rw [hst] <;> rfl

/-! ### Halt (R229) -/

theorem raiseVec_host (s : State) (fn vec : Nat) : s.raiseVec fn vec = { s with host := (s.raiseVec fn vec).host } := by
  rw [State.raiseVec]
  split
  · rfl
  · split <;> rfl

/-- A vector raised, where one is named. -/
def State.raiseDbg (s : State) : State :=
  let vec := bits (s.reg 0 0x308) 39 32
  if vec = 0 then s else s.raiseVec 0 vec

theorem raiseDbg_host (s : State) : s.raiseDbg = { s with host := s.raiseDbg.host } ∧ ∀ f o, s.raiseDbg.reg f o = s.reg f o := by
  rw [State.raiseDbg]
  split
  · exact ⟨rfl, fun _ _ => rfl⟩
  · exact ⟨raiseVec_host _ _ _, fun f o => raiseVec_reg _ _ _ f o⟩

/-- The state of a task that the debug block stops, before its STOP record: its placements frozen, the task held, and the status word that tells why. -/
def State.stoppedFor (s : State) (n : Nat) (w : Word) : State :=
  (({ s with fab := { s.fab with placements := s.fab.placements.map (Prod.map id (Placement.freezeFor n)) } } : State).modTask n
    (fun t => { t with st := .held, stateSince := s.clock.ns })).setReg 0 0x318 w

theorem haltTask_stops {s : State} {t : Task} (hst : t.st = .running) (hd : t.dbg = true) (he : t.ending = false) (hf : t.freezing = false) :
    haltTask t s = s.stopAt t.num 1 := by
  rw [haltTask, hd, he, hst, hf]
  rfl

theorem haltTask_pends {s : State} {t : Task} (hst : t.st ∈ [TState.loading, .saving, .saved]) (hd : t.dbg = true) (he : t.ending = false) :
    haltTask t s = { s with obs := { s.obs with dbg := { s.obs.dbg with haltPending := true } } } := by
  rw [haltTask, hd, he]
  simp only [List.mem_cons, List.not_mem_nil, or_false] at hst
  obtain hst | hst | hst := hst <;> rw [hst] <;> rfl

/-- What a halted task and its debug block are left with. -/
structure Halts (s u : State) (n : Nat) (t : Task) : Prop where
  task : u.task? n = some { t with st := .held, stateSince := s.clock.ns }
  frozen : u.placementsOf n = (s.placementsOf n).map (fun p => { p with frozen := true })
  status : bits (u.reg 0 0x318) 19 16 = 1 ∧ (u.reg 0 0x318).getLsbD 2 = true ∧ (u.reg 0 0x318).getLsbD 1 = false
  stepping : u.obs.dbg.stepping = none
  mem : u.mem = s.mem
  net : u.fab.net = s.fab.net
  stepped : ∀ w, s.obs.dbg.stepping = some w → bits (s.reg 0 0x308) 2 2 = 0 → w ∈ u.obs.dbg.steppedWaves

theorem filter_freezeFor (l : List Placement) (n : Nat) : (l.map (Placement.freezeFor n)).filter (fun p => p.task = n) =
    (l.filter (fun p => p.task = n)).map (fun p => { p with frozen := true }) := by
  induction l with
  | nil => rfl
  | cons p l ih =>
    have htask := freezeFor_task n p
    rw [List.map_cons, List.filter_cons, List.filter_cons, ih, htask]
    by_cases hp : p.task = n
    · have hfrozen : p.freezeFor n = { p with frozen := true } := if_pos hp
      rw [decide_eq_true hp, if_pos rfl, if_pos rfl, List.map_cons, hfrozen]
    · rw [decide_eq_false hp, if_neg Bool.false_ne_true, if_neg Bool.false_ne_true]

theorem freezeFor_placementsOf {s u : State} {n : Nat} (h : u.fab.placements = s.fab.placements.map (Prod.map id (Placement.freezeFor n))) :
    u.placementsOf n = (s.placementsOf n).map (fun p => { p with frozen := true }) := by
  rw [State.placementsOf, h, State.placementsOf, ← filter_freezeFor, List.map_map, List.map_map]
  rfl

theorem endStep_dbg (s : State) : s.endStep.obs.dbg.stepping = none ∧
    ∀ w, s.obs.dbg.stepping = some w → bits (s.reg 0 0x308) 2 2 = 0 → w ∈ s.endStep.obs.dbg.steppedWaves := by
  refine ⟨rfl, fun w hw hb => ?_⟩
  by_cases hin : s.obs.dbg.steppedWaves.contains w = true
  · have hkeep : s.endStep.obs.dbg.steppedWaves = s.obs.dbg.steppedWaves := by
      rw [State.endStep]
      dsimp only
      rw [hw]
      dsimp only
      rw [hin]
      exact if_neg (by simp)
    rw [hkeep]
    exact List.contains_iff_mem.1 hin
  · have hadd : s.endStep.obs.dbg.steppedWaves = s.obs.dbg.steppedWaves ++ [w] := by
      rw [State.endStep]
      dsimp only
      rw [hw]
      dsimp only
      rw [Bool.eq_false_iff.2 hin, hb]
      rfl
    rw [hadd]
    exact List.mem_append_right _ List.mem_cons_self

/-- A task stopped by the debug block, in no gang. -/
theorem debugStop_halts {s : State} {n : Nat} {t : Task} (ht : s.task? n = some t) (hg : t.gang = none) (swid tag wave pl pf : Nat) :
    Halts s (s.debugStop n 1 swid tag wave pl pf) n t := by
  let w : Word := (s.reg 0 0x318 &&& 0x18) ||| BitVec.ofNat 64 (4 + 2 ^ 16 * 1 + 2 ^ 32 * swid)
  let v := ((s.stoppedFor n w).traceStop n swid tag wave 0 0 0 pl pf 1 0).raiseDbg
  have htrace := traceStop_eq (s.stoppedFor n w) n swid tag wave 0 0 0 pl pf 1 0
  obtain ⟨hraise, hreg⟩ := raiseDbg_host ((s.stoppedFor n w).traceStop n swid tag wave 0 0 0 pl pf 1 0)
  have hv : v.fab.placements = (s.stoppedFor n w).fab.placements ∧ v.fab.net = s.fab.net ∧ v.mem = s.mem ∧ v.obs = s.obs ∧ v.sched = (s.stoppedFor n w).sched := by
    rw [show v = _ from hraise, htrace]
    exact ⟨rfl, rfl, rfl, rfl, rfl⟩
  obtain ⟨hpl, hnet, hmem, hobs, hsched⟩ := hv
  have hregs : ∀ f o, v.reg f o = (s.stoppedFor n w).reg f o := fun f o => by
    rw [hreg, htrace]
    rfl
  have htask : v.task? n = some { t with st := .held, stateSince := s.clock.ns } := by
    rw [task?_of_sched hsched, State.stoppedFor]
    change (State.modTask s n _).task? n = _
    rw [State.task?_modTask_same, ht]
    rfl
  have hstop : s.debugStop n 1 swid tag wave pl pf = v.endStep := by
    have hgang : (v.endStep.task? n).bind Task.gang = none := by
      rw [show v.endStep.task? n = v.task? n from rfl, htask]
      exact hg
    change v.endStep.gangStop n = _
    rw [State.gangStop, hgang]
  rw [hstop]
  refine ⟨htask, freezeFor_placementsOf hpl, ?_, (endStep_dbg v).1, hmem, hnet, fun x hx hb => (endStep_dbg v).2 x (hobs ▸ hx) ?_⟩
  · have hstat : v.endStep.reg 0 0x318 = w := by
      rw [show v.endStep.reg 0 0x318 = v.reg 0 0x318 from rfl, hregs, State.stoppedFor, reg_setReg, if_pos ⟨rfl, rfl⟩]
    have hsum : 4 + 2 ^ 16 * 1 + 2 ^ 32 * swid = 4 + 2 ^ 16 * 1 + 2 ^ 20 * (2 ^ 12 * swid) := by omega
    have hw : w = (s.reg 0 0x318 &&& 0x18) ||| BitVec.ofNat 64 (4 + 2 ^ 16 * 1 + 2 ^ 20 * (2 ^ 12 * swid)) := by rw [← hsum]
    obtain ⟨hbits, hlow⟩ := stopped_status (s.reg 0 0x318) (m := 0x18) (low := 4) (cause := 1) (high := 2 ^ 12 * swid) (by decide) (by decide) (by decide)
    rw [hstat, hw]
    exact ⟨hbits, (hlow 2 (by decide)).trans (by simp [show Nat.testBit 4 2 = true by decide]), (hlow 1 (by decide)).trans (by simp [show Nat.testBit 4 1 = false by decide])⟩
  · rw [hregs, State.stoppedFor, reg_setReg, if_neg (by decide)]
    exact hb

/-! ### Attachment (R228) and DUMP (R230, R98) -/

/-- The status word of a debug block that attaches a task. -/
def State.attachStatus (s : State) (t : Task) : Word :=
  if t.st = .held then (s.reg 0 0x318 &&& 0x10) ||| BitVec.ofNat 64 (0xC + 2 ^ 16 * 5 + 2 ^ 24 * (t.fault.map (fun f => f.code.num)).getD 0 +
    2 ^ 32 * (t.fault.map FaultRec.swid).getD 0)
  else s.reg 0 0x318 ||| 8

theorem attachStatus_held {s : State} {t : Task} (h : t.st = .held) :
    (s.attachStatus t).getLsbD 3 = true ∧ (s.attachStatus t).getLsbD 2 = true ∧ bits (s.attachStatus t) 19 16 = 5 := by
  have hsum : ∀ a b : Nat, 0xC + 2 ^ 16 * 5 + 2 ^ 24 * a + 2 ^ 32 * b = 0xC + 2 ^ 16 * 5 + 2 ^ 20 * (2 ^ 4 * a + 2 ^ 12 * b) := fun a b => by omega
  rw [State.attachStatus, if_pos h, hsum]
  obtain ⟨hbits, hlow⟩ := stopped_status (s.reg 0 0x318) (m := 0x10) (low := 0xC) (cause := 5)
    (high := 2 ^ 4 * (t.fault.map (fun f => f.code.num)).getD 0 + 2 ^ 12 * (t.fault.map FaultRec.swid).getD 0) (by decide) (by decide) (by decide)
  exact ⟨(hlow 3 (by decide)).trans (by simp [show Nat.testBit 12 3 = true by decide]),
    (hlow 2 (by decide)).trans (by simp [show Nat.testBit 12 2 = true by decide]), hbits⟩

theorem attachStatus_attached (s : State) (t : Task) : (s.attachStatus t).getLsbD 3 = true := by
  by_cases h : t.st = .held
  · exact (attachStatus_held h).1
  · rw [State.attachStatus, if_neg h, BitVec.getLsbD_or]
    exact Bool.or_true _

theorem debugAttach_next {s : State} {t : Task} (ht : minBy Task.accept (s.tasks.filter s.attachable) = some t) (harm : (s.reg 0 0x308).getLsbD 1 = true)
    (hnone : s.obs.dbg.attached = none) : ∃ u, exec .debugAttach s = .next u ∧ u.obs.dbg.attached = some t.num ∧
      u.reg 0 0x308 = s.reg 0 0x308 &&& ~~~ (2 : Word) ∧ u.reg 0 0x318 = s.attachStatus t ∧ u.sched = s.sched ∧ u.fab = s.fab ∧ u.mem = s.mem := by
  refine ⟨s.attach t, ?_, rfl, ?_, ?_, rfl, rfl, rfl⟩
  · rw [exec_debugAttach, execDebugAttach, ht]
    exact event_next (by rw [harm, hnone]; rfl)
  · change (State.setReg (s.setReg 0 0x308 (s.reg 0 0x308 &&& ~~~ (2 : Word))) 0 0x318 _).reg 0 0x308 = _
    rw [reg_setReg, if_neg (by decide), reg_setReg, if_pos ⟨rfl, rfl⟩]
  · change (State.setReg (s.setReg 0 0x308 (s.reg 0 0x308 &&& ~~~ (2 : Word))) 0 0x318 (s.attachStatus t)).reg 0 0x318 = _
    rw [reg_setReg, if_pos ⟨rfl, rfl⟩]

theorem cmdTaken_dumpAt (s : State) (v : Word) : (s.cmdTaken v).dumpAt = s.dumpAt := by
  rw [State.dumpAt, cmdTaken_reg s v (by decide), State.dumpAt]

theorem cmdTaken_imageOf (s : State) (v : Word) (t : Task) : (s.cmdTaken v).imageOf t = s.imageOf t := rfl

theorem cmdTaken_hbmBacked (s : State) (v : Word) (a : Nat) : (s.cmdTaken v).hbmBacked a = s.hbmBacked a := rfl

/-- DUMP refused: the task is not held, or `ADDR` is not backed. -/
theorem dumpTask_refuses {s : State} {v : Word} {t : Task} (h : t.st ≠ .held ∨ s.hbmBacked s.dumpAt = false) :
    dumpTask t (s.cmdTaken v) = (s.cmdTaken v).dbgRefuse := by
  have hno : ((decide (t.st ≠ .held) || !s.hbmBacked s.dumpAt) || decide (hbmSize < s.dumpAt + ((s.imageOf t).bytes t).length)) = true := by
    rw [Bool.or_eq_true]
    exact .inl (by simpa using h)
  rw [dumpTask]
  rw [cmdTaken_dumpAt, cmdTaken_imageOf, cmdTaken_hbmBacked]
  exact if_pos hno

/-- DUMP's image written where it fits. -/
theorem dumpTask_writes {s : State} {v : Word} {t : Task} (hst : t.st = .held) (hb : s.hbmBacked s.dumpAt = true)
    (hfit : s.dumpAt + ((s.imageOf t).bytes t).length ≤ hbmSize) :
    dumpTask t (s.cmdTaken v) = (s.cmdTaken v).writeBytes 0 s.dumpAt ((s.imageOf t).bytes t) := by
  have hgo : ¬ ((decide (t.st ≠ .held) || !s.hbmBacked s.dumpAt) || decide (hbmSize < s.dumpAt + ((s.imageOf t).bytes t).length)) = true := by
    simp [hst, hb, hfit]
  rw [dumpTask]
  rw [cmdTaken_dumpAt, cmdTaken_imageOf, cmdTaken_hbmBacked]
  exact if_neg hgo

theorem isHost_of_lt {pa : Nat} (h : pa < hbmSize) : isHost pa = false := by
  rw [isHost, decide_eq_false (by unfold hostBase hbmSize at *; omega)]
  rfl

/-- An image written at rest reads back. -/
theorem dump_reads {s : State} {v : Word} {pa : Nat} {b : List Byte} (hfit : pa + b.length ≤ hbmSize) (h : ∀ j < b.length, AtRest s ((pa + j) / 128)) :
    ((s.cmdTaken v).writeBytes 0 pa b).readBytes pa b.length = b := by
  have hw : ∀ j < b.length, (s.cmdTaken v).Writable ((pa + j) / 128) := fun j hj =>
    (show AtRest (s.cmdTaken v) ((pa + j) / 128) from h j hj).writable (isHost_line (isHost_of_lt (by omega)))
  exact (writeBytes_wrote (fn := 0) hw).read

/-! ### The obligation -/

section
variable {s : State}

/-- No task attached: the command is in error. -/
theorem dbgCommand_errs {mn : String} {v : Word} {halts : Bool} {act : Task → State → State} (hr : s.reach 0 = .served)
    (ha : s.obs.dbg.attached.bind s.task? = none) (hb : (s.reg 0 0x318).getLsbD 1 = false) : ∃ u, s.dbgCommand mn v halts act = .next u ∧
      (u.reg 0 0x318 = s.reg 0 0x318 ||| 0x10 ∧ u.sched = s.sched ∧ u.fab = s.fab ∧ u.mem = s.mem ∧ u.board = s.board) :=
  ⟨_, dbgCommand_err hr ha hb, cmdErr_status s v, rfl, rfl, rfl, rfl⟩

/-- A command that the attached task refuses. -/
theorem dbgCommand_refuses {mn : String} {v : Word} {halts : Bool} {act : Task → State → State} {n : Nat} {t : Task} (hr : s.reach 0 = .served)
    (ha : s.obs.dbg.attached = some n) (ht : s.task? n = some t) (hb : (s.reg 0 0x318).getLsbD 1 = false)
    (h : act t (s.cmdTaken v) = (s.cmdTaken v).dbgRefuse) : ∃ u, s.dbgCommand mn v halts act = .next u ∧
      ((u.reg 0 0x318).getLsbD 4 = true ∧ u.sched = s.sched ∧ u.fab = s.fab ∧ u.mem = s.mem ∧ u.board = s.board) :=
  ⟨_, (dbgCommand_runs hr ha ht (.inl hb)).trans (congrArg _ h), dbgRefuse_refuses rfl rfl rfl rfl⟩

theorem execDbgDump_quiet (h : s.dumpQuiet = true) : exec .dbgDump s = s.dbgCommand "DBG_DUMP" s.cmdWord false dumpTask := if_pos h

theorem execDbgKill_command : exec .dbgKill s = s.dbgCommand "DBG_KILL" s.cmdWord false (fun t s => s.killMatched t) := rfl

theorem dumpQuiet_unheld {n : Nat} {t : Task} (ha : s.obs.dbg.attached = some n) (ht : s.task? n = some t) (hst : t.st ≠ .held) : s.dumpQuiet = true := by
  rw [State.dumpQuiet, ha, Option.bind_some, ht]
  simp [hst]

theorem dumpQuiet_unattached (ha : s.obs.dbg.attached.bind s.task? = none) : s.dumpQuiet = true := by
  rw [State.dumpQuiet, ha]

/-- RESUME of the attached task, held otherwise than for a fault, in no gang. -/
theorem dbgResume_resumes {n : Nat} {t : Task} (hr : s.reach 0 = .served) (ha : s.obs.dbg.attached = some n) (ht : s.task? n = some t) (hn : t.num = n)
    (hb : (s.reg 0 0x318).getLsbD 1 = false) (hst : t.st = .held) (hstop : bits (s.reg 0 0x318) 19 16 ≠ 5) (hg : t.gang = none) :
    ∃ u, exec .dbgResume s = .next u ∧ TaskIs u n (fun k => k = { t with st := .running, stateSince := s.clock.ns }) ∧
      (∀ p ∈ u.placementsOf n, p.frozen = false) ∧ (u.reg 0 0x318).getLsbD 1 = false ∧ (u.reg 0 0x318).getLsbD 2 = false ∧ u.obs.dbg.heldToks = [] ∧
      u.obs.dbg.steppedWaves = [] ∧ u.mem = s.mem ∧
      ((∀ k ∈ s.obs.dbg.heldToks, ∃ p, s.placement? k.task k.pl = some p ∧ nsHas p.moving k.fret = false) →
        u.fab.net = s.fab.net ++ s.obs.dbg.heldToks.map s.resentOf) := by
  have hdrop := dropStepped_eq (s.cmdTaken s.cmdWord)
  have hnet := fun h => dropStepped_net (s := s.cmdTaken s.cmdWord) h
  have ha' : (s.cmdTaken s.cmdWord).dropStepped.obs.dbg.attached = some n := by
    rw [hdrop]
    exact ha
  have ht' : (s.cmdTaken s.cmdWord).dropStepped.task? n = some t := by
    rw [hdrop]
    exact ht
  obtain ⟨htask, hthaw, hmem, hstat, hleft, hobs⟩ := leaveHeld_leaves ha' ht'
  have hrun := resumeHeld_eq (s := s.cmdTaken s.cmdWord) hst (by rw [cmdTaken_stop]; exact hstop) hg
  rw [hn] at hrun
  refine ⟨_, (dbgCommand_runs hr ha ht (.inl hb)).trans (congrArg _ hrun), ?_, hthaw, ?_, ?_, ?_, ?_, ?_, fun h => ?_⟩
  · rw [hdrop] at htask
    rwa [hdrop]
  · rw [hstat]
    simp
  · rw [hstat]
    simp
  · rw [hobs, hdrop]
    rfl
  · rw [hobs, hdrop]
    rfl
  · rw [hmem, hdrop]
    rfl
  · rw [hleft]
    exact hnet h

/-- STEP of a thread of the attached task. -/
theorem dbgStep_steps {n : Nat} {t : Task} {v : Word} {p : Placement} {th : Thread} (hr : s.reach 0 = .served) (ha : s.obs.dbg.attached = some n)
    (ht : s.task? n = some t) (hn : t.num = n) (hb : (s.reg 0 0x318).getLsbD 1 = false) (hst : t.st = .held) (hstop : bits (s.reg 0 0x318) 19 16 ≠ 5)
    (hd : t.dbg = true) (hp : s.placement? n (bits v 9 4) = some p) (hth : p.thread? (bits v 29 16) = some th) :
    ∃ u, exec (.dbgStep v) s = .next u ∧ TaskIs u n (fun k => k = { t with st := .running, stateSince := s.clock.ns }) ∧
      (∀ p ∈ u.placementsOf n, p.frozen = false) ∧ (u.reg 0 0x318).getLsbD 1 = true ∧ (u.reg 0 0x318).getLsbD 2 = false ∧
      u.obs.dbg.stepping = some (bits v 9 4, bits v 29 16, th.oldest) ∧ u.mem = s.mem := by
  obtain ⟨htask, hthaw, hmem, hstat, -, -⟩ := leaveHeld_leaves (s := s.cmdTaken v) ha ht
  have hrun := stepHeld1_eq (s := s.cmdTaken v) (v := v) hst (by rw [cmdTaken_stop]; exact hstop) hd (by rw [hn]; exact hp) hth
  rw [hn] at hrun
  refine ⟨_, (dbgCommand_runs hr ha ht (.inl hb)).trans (congrArg _ hrun), htask, hthaw, ?_, ?_, rfl, hmem⟩
  · change (State.reg (State.setReg _ 0 0x318 _) 0 0x318).getLsbD 1 = true
    rw [reg_setReg, if_pos ⟨rfl, rfl⟩, BitVec.getLsbD_or]
    exact Bool.or_true _
  · change (State.reg (State.setReg _ 0 0x318 _) 0 0x318).getLsbD 2 = false
    rw [reg_setReg, if_pos ⟨rfl, rfl⟩, hstat]
    simp

/-- DUMP of the attached task's image. -/
theorem dbgDump_dumps {n : Nat} {t : Task} (hr : s.reach 0 = .served) (ha : s.obs.dbg.attached = some n) (ht : s.task? n = some t)
    (hb : (s.reg 0 0x318).getLsbD 1 = false) (hst : t.st = .held) (hback : s.hbmBacked s.dumpAt = true)
    (hfit : s.dumpAt + ((s.imageOf t).bytes t).length ≤ hbmSize) (hq : s.dumpQuiet = true) : ∃ u, exec .dbgDump s = .next u ∧
      (u.reg 0 0x318).getLsbD 4 = false ∧ u.sched = s.sched ∧ u.fab = s.fab ∧ u.eng = s.eng ∧ u.board = s.board ∧ TaskIs u n (fun k => k = t) ∧
      ((∀ j < ((s.imageOf t).bytes t).length, AtRest s ((s.dumpAt + j) / 128)) →
        u.readBytes s.dumpAt ((s.imageOf t).bytes t).length = (s.imageOf t).bytes t) := by
  have hrun := dumpTask_writes (v := s.cmdWord) hst hback hfit
  have hleaves := State.writeBytes_leaves (s.cmdTaken s.cmdWord) 0 s.dumpAt ((s.imageOf t).bytes t)
  have hboard := (State.writeBytes_keeps (s.cmdTaken s.cmdWord) 0 s.dumpAt ((s.imageOf t).bytes t)).1
  refine ⟨_, (execDbgDump_quiet hq).trans ((dbgCommand_runs hr ha ht (.inl hb)).trans (congrArg _ hrun)), ?_, ?_, ?_, ?_, hboard, ?_, dump_reads hfit⟩
  · have hhost : ((s.cmdTaken s.cmdWord).writeBytes 0 s.dumpAt ((s.imageOf t).bytes t)).host = (s.cmdTaken s.cmdWord).host := by simp only [hleaves]
    rw [State.reg, State.hostFn, hhost]
    change ((s.cmdTaken s.cmdWord).reg 0 0x318).getLsbD 4 = false
    rw [cmdTaken_status]
    simp
  · simp only [hleaves]
    rfl
  · simp only [hleaves]
    rfl
  · simp only [hleaves]
    rfl
  · have hsched : ((s.cmdTaken s.cmdWord).writeBytes 0 s.dumpAt ((s.imageOf t).bytes t)).sched = s.sched := by
      simp only [hleaves]
      rfl
    exact ⟨t, (task?_of_sched hsched n).trans ht, rfl⟩

end

/-- Settles O52: each command of the debug block does as its task's state and the block's own bits say. -/
theorem debugEvents : Obligations.DebugEvents := by
  unfold Obligations.DebugEvents
  intro s
  refine ⟨fun t ht harm hnone => ?_, fun hr ha hb => ?_, fun hr hb => ?_, fun n t hr ha ht hn hb => ?_, fun n t hr ha ht hn hd he => ⟨?_, ?_⟩⟩
  · obtain ⟨u, hexec, hatt, harm', hstat, hrest⟩ := debugAttach_next ht harm hnone
    refine ⟨u, hexec, hatt, harm', ?_, fun hst => ?_, hrest⟩
    · rw [hstat]
      exact attachStatus_attached s t
    · rw [hstat]
      exact (attachStatus_held hst).2
  · refine ⟨dbgCommand_errs hr ha hb, dbgCommand_errs hr ha hb, fun _ => dbgCommand_errs hr ha hb, dbgCommand_errs hr ha hb, ?_, ?_⟩
    · dsimp only
      rw [execDbgKill_command]
      exact dbgCommand_errs hr ha hb
    · dsimp only
      rw [execDbgDump_quiet (dumpQuiet_unattached ha)]
      exact dbgCommand_errs hr ha hb
  · exact ⟨⟨s, dbgCommand_busy hr hb, rfl⟩, fun _ => ⟨s, dbgCommand_busy hr hb, rfl⟩, ⟨s, dbgCommand_busy hr hb, rfl⟩, ⟨s, execDbgKill_command.trans (dbgCommand_busy hr hb), rfl⟩⟩
  · have hstopped : ∀ v, bits (s.reg 0 0x318) 19 16 = 5 → (s.cmdTaken v).stopField = 5 := fun v h => (cmdTaken_stop s v).trans h
    have hrunning : ∀ v, bits (s.reg 0 0x318) 19 16 ≠ 5 → (s.cmdTaken v).stopField ≠ 5 := fun v h => by rwa [cmdTaken_stop]
    refine ⟨fun hst => ⟨?_, fun v => ?_, ?_, ?_⟩, fun _ hstop => ⟨?_, fun v => ?_⟩, fun hstop => ?_, fun hst hstop hg => ?_,
      fun v p th hst hstop hd hp hth => ?_, fun f hf hst hstop he => ?_, fun hst he => ?_, fun hst hback hq => ?_, fun hst hback hfit hq => ?_⟩
    · exact dbgCommand_refuses hr ha ht hb (resumeHeld_refuses (.inl hst))
    · exact dbgCommand_refuses hr ha ht hb (stepHeld1_refuses (.inl hst))
    · exact dbgCommand_refuses hr ha ht hb (endHeld_refuses (.inl hst))
    · dsimp only
      rw [execDbgDump_quiet (dumpQuiet_unheld ha ht hst)]
      exact dbgCommand_refuses hr ha ht hb (dumpTask_refuses (.inl hst))
    · exact dbgCommand_refuses hr ha ht hb (resumeHeld_refuses (.inr (hstopped _ hstop)))
    · exact dbgCommand_refuses hr ha ht hb (stepHeld1_refuses (.inr (hstopped _ hstop)))
    · exact dbgCommand_refuses hr ha ht hb (endHeld_refuses (.inr (hrunning _ hstop)))
    · exact dbgResume_resumes hr ha ht hn hb hst hstop hg
    · exact dbgStep_steps hr ha ht hn hb hst hstop hd hp hth
    · have hrun := endHeld_ends (s := s.cmdTaken s.cmdWord) hf hst (hstopped _ hstop)
      rw [hn] at hrun
      exact ⟨_, (dbgCommand_runs hr ha ht (.inl hb)).trans (congrArg _ hrun), taskIs_modTask ht (by simp [Task.endAs, he]), rfl, rfl⟩
    · have hrun := killMatched_orders (s := s.cmdTaken s.cmdWord) hst he
      rw [hn] at hrun
      exact ⟨_, execDbgKill_command.trans ((dbgCommand_runs hr ha ht (.inl hb)).trans (congrArg _ hrun)), taskIs_modTask ht rfl, rfl, rfl⟩
    · dsimp only
      rw [execDbgDump_quiet hq]
      exact dbgCommand_refuses hr ha ht hb (dumpTask_refuses (.inr hback))
    · exact dbgDump_dumps hr ha ht hb hst hback hfit hq
  · intro hst hf hg
    have hrun := haltTask_stops (s := s.cmdTaken s.cmdWord) hst hd he hf
    rw [hn] at hrun
    obtain ⟨htask, hfrozen, ⟨hstop, hhalted, hbusy⟩, hstep, hmem, hnet, hstepped⟩ :=
      debugStop_halts (s := (s.cmdTaken s.cmdWord).drawFree) (n := n) (t := t) ht hg (bits (Config.freeWord (s.cmdTaken s.cmdWord).freeCtr) 15 0)
        (bits (Config.freeWord (s.cmdTaken s.cmdWord).freeCtr) 29 16) (bits (Config.freeWord (s.cmdTaken s.cmdWord).freeCtr) 53 30) 0
        ((((s.cmdTaken s.cmdWord).placement? n 0).map (fun p => p.physFret 0)).getD 0)
    refine ⟨_, (dbgCommand_runs hr ha ht (.inr rfl)).trans (congrArg _ hrun), ⟨_, htask, rfl, rfl, he⟩, hfrozen, hstop, hhalted, hbusy, hstep, hmem, hnet,
      fun w hw h2 => hstepped w hw ?_⟩
    change bits ((s.cmdTaken s.cmdWord).reg 0 0x308) 2 2 = 0
    rwa [cmdTaken_reg s s.cmdWord (by decide)]
  · intro hst
    have hrun := haltTask_pends (s := s.cmdTaken s.cmdWord) hst hd he
    exact ⟨_, (dbgCommand_runs hr ha ht (.inr rfl)).trans (congrArg _ hrun), rfl, rfl, rfl, rfl⟩

end Sys2Proof.Machine
end


section
/-!
PROOFS. Division, roots and their approximations (R316, R317): obligation O18.
-/
namespace Sys2Proof.Machine

/-! ### The integer root -/

theorem isqrtFrom_spec (b : Nat) {n r : Nat} (hlo : r * r ≤ n) (hhi : n < (r + 2 ^ b) * (r + 2 ^ b)) :
    isqrtFrom b n r * isqrtFrom b n r ≤ n ∧ n < (isqrtFrom b n r + 1) * (isqrtFrom b n r + 1) := by
  induction b generalizing r with
  | zero => exact ⟨hlo, hhi⟩
  | succ b ih =>
    rw [isqrtFrom]
    split
    next h => exact ih h (by rw [add_assoc, ← two_mul, ← pow_succ']; exact hhi)
    next h => exact ih hlo (not_le.1 h)

/-- The whole part of a root. -/
theorem isqrt_spec (n : Nat) : isqrt n * isqrt n ≤ n ∧ n < (isqrt n + 1) * (isqrt n + 1) := by
  refine isqrtFrom_spec _ (Nat.zero_le n) ?_
  rw [Nat.zero_add, ← pow_add]
  exact Nat.lt_log2_self.trans_le (Nat.pow_le_pow_right (by norm_num) (by omega))

/-! ### A root held to a whole number of units rounds as the root itself -/

/-- A magnitude known to lie in [m, m + 1) units of 2^e, by its square. -/
structure RootIn (x : ℚ) (m : Nat) (e : Int) (sticky : Bool) : Prop where
  lo : ((m : ℚ) * 2 ^ e) ^ 2 ≤ x
  hi : x < (((m : ℚ) + 1) * 2 ^ e) ^ 2
  exact : sticky = decide (x ≠ ((m : ℚ) * 2 ^ e) ^ 2)

/-- What stands for the part of a unit that a root has beyond its whole units. -/
def restOf (sticky : Bool) : ℚ := if sticky then 1 / 2 else 0

theorem restOf_bounds (sticky : Bool) : 0 ≤ restOf sticky ∧ restOf sticky < 1 ∧ decide (restOf sticky ≠ 0) = sticky := by
  cases sticky <;> norm_num [restOf]

/-- The stand-in compares with every whole number of units as the root does. -/
theorem RootIn.le_iff {x : ℚ} {m : Nat} {e : Int} {sticky : Bool} (h : RootIn x m e sticky) (t : Nat) :
    (t : ℚ) * 2 ^ e ≤ ((m : ℚ) + restOf sticky) * 2 ^ e ↔ ((t : ℚ) * 2 ^ e) ^ 2 ≤ x := by
  have hpos : (0 : ℚ) < 2 ^ e := by positivity
  obtain ⟨h0, h1, -⟩ := restOf_bounds sticky
  rw [mul_le_mul_iff_left₀ hpos]
  constructor
  · intro hle
    have htm : t ≤ m := by
      have : (t : ℚ) < m + 1 := by linarith
      exact Nat.lt_succ_iff.1 (by exact_mod_cast this)
    have htm' : (t : ℚ) ≤ m := by exact_mod_cast htm
    exact le_trans (by gcongr) h.lo
  · intro hle
    by_contra hlt
    have hmt : (m : ℚ) + 1 ≤ t := by
      have : m < t := by
        by_contra hge
        have : (t : ℚ) ≤ m := by exact_mod_cast not_lt.1 hge
        exact hlt (by linarith)
      exact_mod_cast this
    have : (((m : ℚ) + 1) * 2 ^ e) ^ 2 ≤ ((t : ℚ) * 2 ^ e) ^ 2 := by gcongr
    exact absurd (h.hi.trans_le this) (not_lt.2 hle)

theorem RootIn.ge_iff {x : ℚ} {m : Nat} {e : Int} {sticky : Bool} (h : RootIn x m e sticky) (t : Nat) :
    ((m : ℚ) + restOf sticky) * 2 ^ e ≤ (t : ℚ) * 2 ^ e ↔ x ≤ ((t : ℚ) * 2 ^ e) ^ 2 := by
  have hpos : (0 : ℚ) < 2 ^ e := by positivity
  rw [mul_le_mul_iff_left₀ hpos]
  cases hs : sticky with
  | false =>
    have hx : x = ((m : ℚ) * 2 ^ e) ^ 2 := by simpa [hs] using h.exact
    rw [hx, sq_le_sq₀ (by positivity) (by positivity), mul_le_mul_iff_left₀ hpos]
    simp [restOf]
  | true =>
    have hx : x ≠ ((m : ℚ) * 2 ^ e) ^ 2 := by simpa [hs] using h.exact
    constructor
    · intro hle
      have hmt : m + 1 ≤ t := by
        by_contra hge
        have : (t : ℚ) ≤ m := by exact_mod_cast Nat.lt_succ_iff.1 (not_le.1 hge)
        simp only [restOf, if_true] at hle
        linarith
      have hmt' : (m : ℚ) + 1 ≤ t := by exact_mod_cast hmt
      exact le_trans h.hi.le (by gcongr)
    · intro hle
      have hlt : ((m : ℚ) * 2 ^ e) ^ 2 < ((t : ℚ) * 2 ^ e) ^ 2 := (lt_of_le_of_ne h.lo hx.symm).trans_le hle
      rw [sq_lt_sq₀ (by positivity) (by positivity), mul_lt_mul_iff_left₀ hpos] at hlt
      have hmt : m + 1 ≤ t := by exact_mod_cast hlt
      have hmt' : (m : ℚ) + 1 ≤ t := by exact_mod_cast hmt
      simp only [restOf, if_true]
      linarith

/-- A multiple of a coarser unit, in units of 2^e. -/
theorem mul_zpow_units (t : Nat) {e q : Int} (h : e ≤ q) : (t : ℚ) * 2 ^ q = ((t * 2 ^ (q - e).toNat : Nat) : ℚ) * 2 ^ e := by
  have hsplit : (2 : ℚ) ^ q = 2 ^ (q - e).toNat * 2 ^ e := by
    rw [← zpow_natCast, ← zpow_add₀ (by norm_num)]
    congr 1
    omega
  rw [hsplit]
  push_cast
  ring

/-- A point of the grid between two multiples of 2^q, and the fraction of the root beyond the lower one: they compare as their squares. -/
theorem RootIn.cmp {x : ℚ} {m k t : Nat} {e q : Int} {sticky : Bool} (h : RootIn x m e sticky) {d : ℚ} (ht : ((k : ℚ) + d) * 2 ^ q = (t : ℚ) * 2 ^ e) :
    (d ≤ ((m : ℚ) + restOf sticky) * 2 ^ e / 2 ^ q - k ↔ (((k : ℚ) + d) * 2 ^ q) ^ 2 ≤ x) ∧
    (((m : ℚ) + restOf sticky) * 2 ^ e / 2 ^ q - k ≤ d ↔ x ≤ (((k : ℚ) + d) * 2 ^ q) ^ 2) := by
  have hpos : (0 : ℚ) < 2 ^ q := by positivity
  rw [ht, ← h.le_iff, ← h.ge_iff, ← ht, le_sub_iff_add_le', le_div_iff₀ hpos, sub_le_iff_le_add', div_le_iff₀ hpos]
  exact ⟨Iff.rfl, Iff.rfl⟩

/-- Whether the larger of two neighbours k and k + 1 of a root is chosen, `at' d` being the square of k + d (R205). -/
def RootUp (rm : Rm) (rho k : Nat) (at' : ℚ → ℚ) (x : ℚ) (up : Bool) : Prop :=
  if x = at' 0 then up = false
  else match rm with
    | .rne => up = true ↔ (x > at' (1 / 2) ∨ (x = at' (1 / 2) ∧ k % 2 = 1))
    | .rtz => up = false
    | .rdn => up = false
    | .rup => up = true
    | .rna => up = true ↔ x ≥ at' (1 / 2)
    | .srd => up = true ↔ x ≥ at' (((rho : ℚ) + 1) / 2 ^ 32)

/-- The choice between the two neighbours of a root, said of squares. -/
theorem RootIn.chooses {x : ℚ} {m k : Nat} {e q : Int} {sticky : Bool} (h : RootIn x m e sticky) (hq : e + 32 ≤ q) {rm : Rm} {rho : Nat} {up : Bool}
    (hup : ChoosesUp rm false (decide (k % 2 = 1)) rho (((m : ℚ) + restOf sticky) * 2 ^ e / 2 ^ q - k) up) :
    RootUp rm rho k (fun d => (((k : ℚ) + d) * (2 : ℚ) ^ q) ^ 2) x up := by
  let at' : ℚ → ℚ := fun d => (((k : ℚ) + d) * (2 : ℚ) ^ q) ^ 2
  change RootUp rm rho k at' x up
  have hwhole : ((k : ℚ) + 0) * 2 ^ q = ((k * 2 ^ (q - e).toNat : Nat) : ℚ) * 2 ^ e := by
    rw [add_zero, ← mul_zpow_units k (by omega)]
  have hhalf : ((k : ℚ) + 1 / 2) * 2 ^ q = (((2 * k + 1) * 2 ^ (q - 1 - e).toNat : Nat) : ℚ) * 2 ^ e := by
    rw [← mul_zpow_units (2 * k + 1) (by omega), zpow_sub_one₀ (by norm_num)]
    push_cast
    ring
  have hsrd : ((k : ℚ) + ((rho : ℚ) + 1) / 2 ^ 32) * 2 ^ q = (((k * 2 ^ 32 + rho + 1) * 2 ^ (q - 32 - e).toNat : Nat) : ℚ) * 2 ^ e := by
    rw [← mul_zpow_units (k * 2 ^ 32 + rho + 1) (by omega), zpow_sub₀ (by norm_num)]
    push_cast
    norm_num
    ring
  obtain ⟨hle0, hge0⟩ := h.cmp hwhole
  obtain ⟨hleh, hgeh⟩ := h.cmp hhalf
  obtain ⟨hles, -⟩ := h.cmp hsrd
  generalize ((m : ℚ) + restOf sticky) * 2 ^ e / 2 ^ q - k = fr at *
  have hzero : fr = 0 ↔ x = at' 0 := by
    rw [le_antisymm_iff, hge0, hle0, ← le_antisymm_iff]
  have hgt : fr > 1 / 2 ↔ x > at' (1 / 2) := by
    rw [gt_iff_lt, gt_iff_lt, ← not_le, ← not_le, hgeh]
  have heq : fr = 1 / 2 ↔ x = at' (1 / 2) := by
    rw [le_antisymm_iff, hgeh, hleh, ← le_antisymm_iff]
  unfold ChoosesUp at hup
  unfold RootUp
  by_cases hz : fr = 0
  · rw [if_pos hz] at hup
    rwa [if_pos (hzero.1 hz)]
  · rw [if_neg hz] at hup
    rw [if_neg fun h => hz (hzero.2 h)]
    cases rm with
    | rne => simpa only [hgt, heq, decide_eq_true_eq] using hup
    | rtz => exact hup
    | rdn => exact hup
    | rup => exact hup
    | rna => exact hup.trans hleh
    | srd =>
      refine hup.trans (Iff.trans ?_ hles)
      rw [gt_iff_lt, ← Int.add_one_le_iff, Int.le_floor, div_le_iff₀ (by positivity)]
      push_cast
      exact Iff.rfl

/-- A root in the normal range of a format rounds once, correctly. -/
theorem rootRounds_of {F : Fmt} (hF : F ∈ fmts) {x : ℚ} {m : Nat} {e : Int} {sticky : Bool} (h : RootIn x m e sticky)
    (hprec : 33 + F.fbits ≤ Nat.log2 m) (hmin : F.emin ≤ e + Nat.log2 m) (hmax : (2 : ℚ) ^ (e + Nat.log2 m + 1) ≤ F.maxVal) (rm : Rm) (sat : Bool)
    (rho : Nat) : RootRounds F rm rho x (F.round rm sat rho ⟨false, m, e, sticky⟩) := by
  obtain ⟨h0, h1, hsticky⟩ := restOf_bounds sticky
  have hm : m ≠ 0 := fun hz => by simp [hz] at hprec
  have hm0 : (0 : ℚ) < m := by exact_mod_cast Nat.pos_of_ne_zero hm
  have hpos : (0 : ℚ) < ((m : ℚ) + restOf sticky) * 2 ^ e := by positivity
  have hr := round_spec F hF rm sat rho false m e hm (restOf sticky) h0 h1 (fun _ => hprec) (((m : ℚ) + restOf sticky) * 2 ^ e) hpos.ne'
    (abs_of_pos hpos) (decide_eq_false (not_lt.2 hpos.le)) false
  have hlog := log_mag m e hm (restOf sticky) h0 h1
  rw [hsticky] at hr
  unfold Rounds at hr
  rw [if_neg hpos.ne', abs_of_pos hpos, hlog, decide_eq_false (not_lt.2 hpos.le)] at hr
  dsimp only at hr
  rw [max_eq_left (by omega)] at hr
  obtain ⟨y, u, ⟨up, hup, hy⟩, ⟨up', -, hu⟩, -, hcode⟩ := hr
  have hchooses := h.chooses (by omega) hup
  have hwhole : ∀ n : Nat, (n : ℚ) * 2 ^ (e + Nat.log2 m - F.fbits) = ((n * 2 ^ (e + Nat.log2 m - F.fbits - e).toNat : Nat) : ℚ) * 2 ^ e :=
    fun n => mul_zpow_units n (by omega)
  have hle : ∀ n : Nat, (n : ℚ) * 2 ^ (e + Nat.log2 m - F.fbits) ≤ ((m : ℚ) + restOf sticky) * 2 ^ e ↔
      ((n : ℚ) * 2 ^ (e + Nat.log2 m - F.fbits)) ^ 2 ≤ x := fun n => by rw [hwhole]; exact h.le_iff _
  have hge : ∀ n : Nat, ((m : ℚ) + restOf sticky) * 2 ^ e ≤ (n : ℚ) * 2 ^ (e + Nat.log2 m - F.fbits) ↔
      x ≤ ((n : ℚ) * 2 ^ (e + Nat.log2 m - F.fbits)) ^ 2 := fun n => by rw [hwhole]; exact h.ge_iff _
  have hlow : (2 : ℚ) ^ (e + Nat.log2 m) ≤ ((m : ℚ) + restOf sticky) * 2 ^ e := by
    exact_mod_cast (Int.zpow_le_iff_le_log (b := 2) (by norm_num) hpos).2 hlog.ge
  have hhigh : ((m : ℚ) + restOf sticky) * 2 ^ e < 2 ^ (e + Nat.log2 m + 1) := by
    exact_mod_cast (Int.lt_zpow_iff_log_lt (b := 2) (by norm_num) hpos (x := e + Nat.log2 m + 1)).2 (by omega)
  obtain ⟨q, hq⟩ : ∃ q : Int, q = e + Nat.log2 m - F.fbits := ⟨_, rfl⟩
  have htop : e + (Nat.log2 m : Int) = q + F.fbits := by omega
  have hp : (2 : ℚ) ^ (q + F.fbits) = ((2 ^ F.fbits : Nat) : ℚ) * 2 ^ q := by
    rw [zpow_add₀ (by norm_num), mul_comm]
    push_cast
    rw [zpow_natCast]
  have hp1 : (2 : ℚ) ^ (q + F.fbits + 1) = ((2 ^ (F.fbits + 1) : Nat) : ℚ) * 2 ^ q := by
    rw [zpow_add_one₀ (by norm_num), hp]
    push_cast
    ring
  rw [← hq] at hup hu hy hchooses hle hge
  rw [htop] at hlow hhigh hmax hmin
  generalize ((m : ℚ) + restOf sticky) * 2 ^ e = v at *
  have hqpos : (0 : ℚ) < 2 ^ q := by positivity
  obtain ⟨k, hk⟩ : ∃ k, k = ⌊v / 2 ^ q⌋₊ := ⟨_, rfl⟩
  rw [← hk] at hup hu hy hchooses
  have hk0 : (k : ℚ) * 2 ^ q ≤ v := by
    rw [hk, ← le_div_iff₀ hqpos]
    exact Nat.floor_le (by positivity)
  have hk1 : v < ((k + 1 : Nat) : ℚ) * 2 ^ q := by
    rw [← div_lt_iff₀ hqpos, hk]
    exact_mod_cast Nat.lt_floor_add_one _
  have hkf : 2 ^ F.fbits ≤ k ∧ k < 2 ^ (F.fbits + 1) := by
    constructor
    · rw [hk, Nat.le_floor_iff (by positivity), le_div_iff₀ hqpos, ← hp]
      exact hlow
    · have : (k : ℚ) * 2 ^ q < ((2 ^ (F.fbits + 1) : Nat) : ℚ) * 2 ^ q := hp1 ▸ hk0.trans_lt hhigh
      exact_mod_cast lt_of_mul_lt_mul_right this hqpos.le
  have hy1 : y ≤ ((k + 1 : Nat) : ℚ) * 2 ^ q := by
    rw [hy]
    gcongr
    exact Bool.toNat_le up
  have hymax : y ≤ F.maxVal := by
    refine hy1.trans (le_trans ?_ hmax)
    rw [hp1]
    gcongr
    exact hkf.2
  have htiny : decide (u < (2 : ℚ) ^ F.emin) = false := by
    refine decide_eq_false (not_lt.2 ?_)
    calc (2 : ℚ) ^ F.emin ≤ 2 ^ (q + F.fbits) := zpow_le_zpow_right₀ (by norm_num) hmin
      _ = ((2 ^ F.fbits : Nat) : ℚ) * 2 ^ q := hp
      _ ≤ u := by
        rw [hu]
        gcongr
        exact hkf.1.trans (Nat.le_add_right _ _)
  have hexact : y = v ↔ x = (((k : ℚ) + 0) * 2 ^ q) ^ 2 := by
    rw [add_zero]
    constructor
    · intro hyv
      have hv : v ≤ k * 2 ^ q := by
        cases up with
        | false => rw [← hyv, hy]; simp
        | true => exact absurd (hyv ▸ hy) (ne_of_lt hk1)
      exact le_antisymm ((hge k).1 hv) ((hle k).1 hk0)
    · intro hx
      have hv : v = k * 2 ^ q := le_antisymm ((hge k).2 hx.le) hk0
      have hdown : up = false := by
        unfold ChoosesUp at hup
        rwa [if_pos (by rw [hv]; field_simp; ring)] at hup
      rw [hy, hdown, hv]
      simp
  obtain ⟨code, hmaxMag, hval, hres⟩ := hcode hymax
  obtain ⟨m', e', hfin, hsigned⟩ := unpack_withSign F hF false hmaxMag
  rw [htiny, Bool.and_false] at hres
  refine ⟨q, k, up, by omega, ?_, ?_, ?_, ?_, hchooses, ?_, ?_, ?_⟩
  · rw [hp]
    exact (hle _).1 (hp ▸ hlow)
  · rw [hp1, ← not_le, ← hle, not_le, ← hp1]
    exact hhigh
  · dsimp only
    rw [add_zero]
    exact (hle k).1 hk0
  · rw [← not_le]
    intro hx
    have := (hle (k + 1)).2 (by push_cast; exact hx)
    exact absurd hk1 (not_lt.2 this)
  · rw [hres, hsigned]
    rfl
  · rw [hres, hsigned, ← hfin, hval, hy]
  · rw [hres, decide_eq_decide.2 (not_congr hexact)]
    dsimp only
    cases decide (x ≠ (((k : ℚ) + 0) * 2 ^ q) ^ 2) <;> rfl

/-! ### The exact roots (R316, R317) -/

/-- The root of a whole number of squared units. -/
theorem rootIn_isqrt {x : ℚ} {n : Nat} {j : Int} (hx : x = n * (2 ^ j) ^ 2) : RootIn x (isqrt n) j (decide (isqrt n * isqrt n ≠ n)) := by
  obtain ⟨hlo, hhi⟩ := isqrt_spec n
  have hpos : (0 : ℚ) < (2 ^ j) ^ 2 := by positivity
  have hlo' : ((isqrt n : ℚ)) * isqrt n ≤ n := by exact_mod_cast hlo
  have hhi' : (n : ℚ) < ((isqrt n : ℚ) + 1) * (isqrt n + 1) := by exact_mod_cast hhi
  refine ⟨?_, ?_, decide_eq_decide.2 ?_⟩
  · rw [hx, mul_pow, sq (isqrt n : ℚ)]
    gcongr
  · rw [hx, mul_pow, sq ((isqrt n : ℚ) + 1)]
    gcongr
  · rw [hx, mul_pow, sq (isqrt n : ℚ), ne_eq, ne_eq, not_iff_not, mul_left_inj' hpos.ne', eq_comm]
    exact_mod_cast Iff.rfl

/-- The reciprocal root: of a whole part of a quotient, in squared units. -/
theorem rootIn_isqrt_div {x : ℚ} {n d : Nat} {j : Int} (hd : 0 < d) (hx : x = n / d * (2 ^ j) ^ 2) :
    RootIn x (isqrt (n / d)) j (decide (isqrt (n / d) * isqrt (n / d) * d ≠ n)) := by
  obtain ⟨hlo, hhi⟩ := isqrt_spec (n / d)
  have hpos : (0 : ℚ) < (2 ^ j) ^ 2 := by positivity
  have hd' : (0 : ℚ) < d := by exact_mod_cast hd
  have hlo' : (isqrt (n / d) : ℚ) * isqrt (n / d) ≤ (n : ℚ) / d := by
    rw [le_div_iff₀ hd']
    exact_mod_cast (Nat.le_div_iff_mul_le hd).1 hlo
  have hhi' : (n : ℚ) / d < ((isqrt (n / d) : ℚ) + 1) * (isqrt (n / d) + 1) := by
    rw [div_lt_iff₀ hd']
    exact_mod_cast (Nat.div_lt_iff_lt_mul hd).1 hhi
  refine ⟨?_, ?_, decide_eq_decide.2 ?_⟩
  · rw [hx, mul_pow, sq (isqrt (n / d) : ℚ)]
    gcongr
  · rw [hx, mul_pow, sq ((isqrt (n / d) : ℚ) + 1)]
    gcongr
  · rw [hx, mul_pow, sq (isqrt (n / d) : ℚ), ne_eq, ne_eq, not_iff_not, mul_left_inj' hpos.ne', div_eq_iff hd'.ne', eq_comm]
    exact_mod_cast Iff.rfl

theorem le_log2_isqrt {n a : Nat} (h : 2 ^ (2 * a) ≤ n) : a ≤ Nat.log2 (isqrt n) := by
  have hle : 2 ^ a ≤ isqrt n := by
    by_contra hlt
    have hsucc : isqrt n + 1 ≤ 2 ^ a := not_le.1 hlt
    have := Nat.mul_le_mul hsucc hsucc
    rw [← pow_add, ← two_mul] at this
    exact absurd ((isqrt_spec n).2.trans_le this) (not_lt.2 h)
  exact (Nat.le_log2 (by have : 0 < 2 ^ a := by positivity
                         omega)).2 hle

theorem log2_isqrt_lt {n b : Nat} (hb : 0 < b) (h : n < 2 ^ (2 * b)) : Nat.log2 (isqrt n) < b := by
  have hlt : isqrt n < 2 ^ b := by
    by_contra hge
    have := Nat.mul_le_mul (not_lt.1 hge) (not_lt.1 hge)
    rw [← pow_add, ← two_mul] at this
    exact absurd (this.trans (isqrt_spec n).1) (not_le.2 h)
  by_cases hz : isqrt n = 0
  · rw [hz]
    simpa using hb
  · exact (Nat.log2_lt hz).2 hlt

/-- A magnitude with an even exponent. -/
structure Halved (m : Nat) (e : Int) (m1 : Nat) (e1 : Int) : Prop where
  even : e1 = 2 * (e1 / 2)
  value : (m1 : ℚ) * 2 ^ e1 = m * 2 ^ e
  sig : m ≤ m1 ∧ m1 ≤ 2 * m
  exp : e - 1 ≤ e1 ∧ e1 ≤ e

theorem halved_of (m : Nat) (e : Int) : Halved m e (if e % 2 = 0 then (m, e) else (2 * m, e - 1)).1 (if e % 2 = 0 then (m, e) else (2 * m, e - 1)).2 := by
  split
  · exact ⟨by dsimp only; omega, rfl, ⟨le_rfl, by dsimp only; omega⟩, ⟨by dsimp only; omega, le_rfl⟩⟩
  · refine ⟨by dsimp only; omega, ?_, ⟨by dsimp only; omega, le_rfl⟩, ⟨le_rfl, by dsimp only; omega⟩⟩
    dsimp only
    rw [zpow_sub_one₀ (by norm_num)]
    push_cast
    ring

theorem sqrtExact_root (m : Nat) (e : Int) : ∃ m1 e1, Halved m e m1 e1 ∧ ∃ sticky,
    sqrtExact m e = ⟨false, isqrt (m1 * 2 ^ 400), e1 / 2 - 200, sticky⟩ ∧
    RootIn ((m : ℚ) * 2 ^ e) (isqrt (m1 * 2 ^ 400)) (e1 / 2 - 200) sticky := by
  have h := halved_of m e
  refine ⟨_, _, h, _, rfl, rootIn_isqrt ?_⟩
  generalize (if e % 2 = 0 then (m, e) else (2 * m, e - 1)).1 = m1 at *
  generalize (if e % 2 = 0 then (m, e) else (2 * m, e - 1)).2 = e1 at *
  obtain ⟨heven, hvalue, -, -⟩ := h
  rw [← hvalue, ← zpow_natCast, ← zpow_mul]
  push_cast
  rw [mul_assoc, ← zpow_natCast, ← zpow_add₀ (by norm_num)]
  congr 2
  omega

theorem rsqrtExact_root {m : Nat} (hm : 0 < m) (e : Int) : ∃ m1 e1, Halved m e m1 e1 ∧ ∃ sticky,
    rsqrtExact m e = ⟨false, isqrt (2 ^ 600 / m1), -(e1 / 2) - 300, sticky⟩ ∧
    RootIn (1 / ((m : ℚ) * 2 ^ e)) (isqrt (2 ^ 600 / m1)) (-(e1 / 2) - 300) sticky := by
  have h := halved_of m e
  refine ⟨_, _, h, _, rfl, rootIn_isqrt_div (hm.trans_le h.sig.1) ?_⟩
  generalize (if e % 2 = 0 then (m, e) else (2 * m, e - 1)).1 = m1 at *
  generalize (if e % 2 = 0 then (m, e) else (2 * m, e - 1)).2 = e1 at *
  obtain ⟨heven, hvalue, hsig, -⟩ := h
  have hm1 : (m1 : ℚ) ≠ 0 := by exact_mod_cast (hm.trans_le hsig.1).ne'
  rw [← hvalue, ← zpow_natCast, ← zpow_mul]
  have hexp : (2 : ℚ) ^ 600 * 2 ^ ((-(e1 / 2) - 300) * (2 : Nat)) * 2 ^ e1 = 1 := by
    rw [← zpow_natCast, ← zpow_add₀ (by norm_num), ← zpow_add₀ (by norm_num)]
    have : ((600 : Nat) : Int) + (-(e1 / 2) - 300) * (2 : Nat) + e1 = 0 := by push_cast; omega
    rw [this, zpow_zero]
  push_cast at hexp ⊢
  field_simp
  linarith

/-! ### The formats that results are computed in (R197) -/

/-- What the proofs need of the parameters of a format. -/
structure Wide (F : Fmt) : Prop where
  mem : F ∈ fmts
  ieee : F.kind = .ieee
  bias : 2 ^ F.ebits = 2 * F.bias + 2
  frac : 7 ≤ F.fbits ∧ F.fbits ≤ 52
  room : F.fbits + 5 ≤ F.bias
  top : 2 * F.bias * 2 ^ F.fbits ≤ F.maxMag

theorem wide_of_tyF {t : ETy} (ht : t ∈ tyF) : Wide (ETy.fmt t) := by
  simp only [tyF, List.mem_cons, List.not_mem_nil, or_false] at ht
  obtain rfl | rfl | rfl | rfl := ht
  · exact ⟨fmt_mem _, rfl, by decide, by decide, by decide, by decide⟩
  · exact ⟨fmt_mem _, rfl, by decide, by decide, by decide, by decide⟩
  · exact ⟨fmt_mem _, rfl, by decide, by decide, by decide, by decide⟩
  · exact ⟨fmt_mem _, rfl, by decide, by decide, by decide, by decide⟩

theorem Wide.two_pow_le_maxVal {F : Fmt} (h : Wide F) {j : Int} (hj : j ≤ F.bias) : (2 : ℚ) ^ j ≤ F.maxVal := by
  have hroom := h.room
  have hemin : F.emin = 1 - (F.bias : Int) := rfl
  calc (2 : ℚ) ^ j ≤ 2 ^ (F.bias : Int) := zpow_le_zpow_right₀ (by norm_num) hj
    _ = codeVal F.fbits (F.emin - F.fbits) ((2 * F.bias - 1) * 2 ^ F.fbits + 2 ^ F.fbits) := by
      rw [codeVal_mk _ _ _ _ (Nat.pow_le_pow_right (by norm_num) (by omega)) (.inr le_rfl)]
      push_cast
      rw [← zpow_natCast, ← zpow_add₀ (by norm_num)]
      congr 1
      omega
    _ ≤ codeVal F.fbits (F.emin - F.fbits) F.maxMag := by
      refine (codeVal_mono _ _).monotone (le_trans (Nat.le_of_eq ?_) h.top)
      rw [← Nat.succ_mul]
      congr 1
      omega
    _ = F.maxVal := (unpack_code F h.mem _ le_rfl).1.symm

/-- A finite code of a format: its significand and its exponent. -/
theorem Wide.unpack_bounds {F : Fmt} (h : Wide F) {v : Nat} {n : Bool} {m : Nat} {e : Int} (hv : F.unpack v = .fin n m e) :
    m < 2 ^ (F.fbits + 1) ∧ 1 - (F.bias : Int) - F.fbits ≤ e ∧ e ≤ F.bias - F.fbits := by
  obtain ⟨-, hm, he, -⟩ := unpack_fin F hv
  refine ⟨hm, he, ?_⟩
  have hbias := h.bias
  have hex : v / 2 ^ F.fbits % 2 ^ F.ebits < 2 ^ F.ebits := Nat.mod_lt _ (by positivity)
  have hemin : F.emin = 1 - (F.bias : Int) := rfl
  simp only [Fmt.unpack, h.ieee, decide_true, Bool.true_and, decide_eq_true_eq] at hv
  generalize v / 2 ^ F.fbits % 2 ^ F.ebits = ex at hv hex
  have hroom := h.room
  split_ifs at hv with hinf hfr h0 <;> simp at hv
  all_goals
    obtain ⟨-, -, rfl⟩ := hv
    omega

theorem Wide.sqrt_rounds {F : Fmt} (h : Wide F) {m : Nat} {e : Int} (hm : m ≠ 0) (hlt : m < 2 ^ (F.fbits + 1)) (hlo : 1 - (F.bias : Int) - F.fbits ≤ e)
    (hhi : e ≤ F.bias - F.fbits) (rm : Rm) (sat : Bool) (rho : Nat) : RootRounds F rm rho ((m : ℚ) * 2 ^ e) (F.round rm sat rho (sqrtExact m e)) := by
  obtain ⟨m1, e1, ⟨heven, -, ⟨hm1, hm2⟩, he1, he2⟩, sticky, hex, hroot⟩ := sqrtExact_root m e
  have hfrac := h.frac
  have hroom := h.room
  have hemin : F.emin = 1 - (F.bias : Int) := rfl
  have hdown : 200 ≤ Nat.log2 (isqrt (m1 * 2 ^ 400)) := le_log2_isqrt (Nat.le_mul_of_pos_left _ (by omega))
  have hup : Nat.log2 (isqrt (m1 * 2 ^ 400)) < 201 + (F.fbits + 3) / 2 := by
    refine log2_isqrt_lt (by omega) ?_
    calc m1 * 2 ^ 400 < 2 ^ (F.fbits + 2) * 2 ^ 400 := Nat.mul_lt_mul_of_pos_right (by rw [pow_succ]; omega) (by positivity)
      _ ≤ 2 ^ (2 * (201 + (F.fbits + 3) / 2)) := by
        rw [← pow_add]
        exact Nat.pow_le_pow_right (by norm_num) (by omega)
  rw [hex]
  exact rootRounds_of h.mem hroot (by omega) (by omega) (h.two_pow_le_maxVal (by omega)) rm sat rho

/-- The bounds of a reciprocal root's whole units. -/
theorem log2_rsqrt {F : Fmt} (hf : F.fbits ≤ 52) {m1 : Nat} (hm : 0 < m1) (hlt : m1 < 2 ^ (F.fbits + 2)) :
    (598 - F.fbits) / 2 ≤ Nat.log2 (isqrt (2 ^ 600 / m1)) ∧ Nat.log2 (isqrt (2 ^ 600 / m1)) < 301 := by
  constructor
  · refine le_log2_isqrt ((Nat.le_div_iff_mul_le hm).2 ?_)
    calc 2 ^ (2 * ((598 - F.fbits) / 2)) * m1 ≤ 2 ^ (598 - F.fbits) * 2 ^ (F.fbits + 2) :=
          Nat.mul_le_mul (Nat.pow_le_pow_right (by norm_num) (by omega)) hlt.le
      _ = 2 ^ 600 := by
        rw [← pow_add]
        congr 1
        omega
  · refine log2_isqrt_lt (by norm_num) ((Nat.div_le_self _ _).trans_lt ?_)
    exact Nat.pow_lt_pow_right (by norm_num) (by norm_num)

theorem Wide.rsqrt_rounds {F : Fmt} (h : Wide F) {m : Nat} {e : Int} (hm : m ≠ 0) (hlt : m < 2 ^ (F.fbits + 1)) (hlo : 1 - (F.bias : Int) - F.fbits ≤ e)
    (hhi : e ≤ F.bias - F.fbits) (rm : Rm) (sat : Bool) (rho : Nat) :
    RootRounds F rm rho (1 / ((m : ℚ) * 2 ^ e)) (F.round rm sat rho (rsqrtExact m e)) := by
  obtain ⟨m1, e1, ⟨heven, -, ⟨hm1, hm2⟩, he1, he2⟩, sticky, hex, hroot⟩ := rsqrtExact_root (Nat.pos_of_ne_zero hm) e
  have hfrac := h.frac
  have hroom := h.room
  have hemin : F.emin = 1 - (F.bias : Int) := rfl
  obtain ⟨hdown, hup⟩ := log2_rsqrt hfrac.2 (m1 := m1) (by omega) (by rw [pow_succ]; omega)
  rw [hex]
  exact rootRounds_of h.mem hroot (by omega) (by omega) (h.two_pow_le_maxVal (by omega)) rm sat rho

/-! ### Quotients (R316) -/

/-- A quotient rounds once, correctly. -/
theorem Wide.quot_rounds {F : Fmt} (h : Wide F) {neg zneg : Bool} {m m' : Nat} {e e' : Int} {v : ℚ} (hm : m ≠ 0) (hm' : m' ≠ 0)
    (hlt : m' < 2 ^ (F.fbits + 1)) (habs : |v| = (m : ℚ) * 2 ^ e / (m' * 2 ^ e')) (hneg : decide (v < 0) = neg) (rm : Rm) (sat : Bool) (rho : Nat) :
    Rounds F rm sat rho v zneg (F.round rm sat rho (quotExact neg m e m' e')) := by
  have hd : (0 : ℚ) < m' := by exact_mod_cast Nat.pos_of_ne_zero hm'
  have hm0 : (0 : ℚ) < m := by exact_mod_cast Nat.pos_of_ne_zero hm
  have hv : v ≠ 0 := abs_pos.1 (habs ▸ by positivity)
  let n := m * 2 ^ 200
  have hdiv : (n : ℚ) = m' * ((n / m' : Nat) : ℚ) + ((n % m' : Nat) : ℚ) := by exact_mod_cast (Nat.div_add_mod n m').symm
  have hbig : 2 ^ (33 + F.fbits) ≤ n / m' := by
    rw [Nat.le_div_iff_mul_le (Nat.pos_of_ne_zero hm')]
    calc 2 ^ (33 + F.fbits) * m' ≤ 2 ^ (33 + F.fbits) * 2 ^ (F.fbits + 1) := Nat.mul_le_mul_left _ hlt.le
      _ ≤ 2 ^ 200 := by
        have := h.frac.2
        rw [← pow_add]
        exact Nat.pow_le_pow_right (by norm_num) (by omega)
      _ ≤ n := Nat.le_mul_of_pos_left _ (Nat.pos_of_ne_zero hm)
  have hne : n / m' ≠ 0 := by
    have : 0 < 2 ^ (33 + F.fbits) := by positivity
    omega
  have hmod : ((n % m' : Nat) : ℚ) < m' := by exact_mod_cast Nat.mod_lt n (Nat.pos_of_ne_zero hm')
  have hsticky : decide (((n % m' : Nat) : ℚ) / m' ≠ 0) = decide (n % m' ≠ 0) := by
    refine decide_eq_decide.2 (not_congr ?_)
    rw [div_eq_zero_iff, or_iff_left hd.ne', Nat.cast_eq_zero]
  have hr := round_spec F h.mem rm sat rho neg (n / m') (e - e' - 200) hne (((n % m' : Nat) : ℚ) / m') (by positivity) ((div_lt_one hd).2 hmod)
    (fun _ => (Nat.le_log2 hne).2 hbig) v hv (by
      have hsum : ((n / m' : Nat) : ℚ) + ((n % m' : Nat) : ℚ) / m' = (m : ℚ) * 2 ^ 200 / m' := by
        have : (n : ℚ) = m * 2 ^ 200 := by push_cast [n]; rfl
        field_simp
        linarith
      rw [habs, hsum, zpow_sub₀ (by norm_num), zpow_sub₀ (by norm_num)]
      have : (2 : ℚ) ^ (200 : Int) = 2 ^ 200 := by norm_cast
      rw [this]
      field_simp) hneg zneg
  rw [hsticky] at hr
  exact hr

/-! ### The values within one ulp (R317) -/

/-- A code's magnitude in units of 2^e. -/
def Fmt.unitsAt (f : Fmt) (e : Int) (mag : Nat) : Nat :=
  (if mag < 2 ^ f.fbits then mag else mag % 2 ^ f.fbits + 2 ^ f.fbits) * 2 ^ (f.emin - f.fbits + (mag / 2 ^ f.fbits - 1 : Nat) - e).toNat

/-- The exponent of the last place at an exact value. -/
def Fmt.placeOf (f : Fmt) (y : Exact) : Int := max y.top f.emin - f.fbits

/-- The code of an exact value rounded toward zero. -/
def Fmt.baseOf (f : Fmt) (y : Exact) : Nat := (f.placeOf y - (f.emin - f.fbits)).toNat * 2 ^ f.fbits + (roundAt .rtz 0 y (f.placeOf y)).1

theorem mem_within1ulp {f : Fmt} {y : Exact} {mag : Nat} : mag ∈ f.within1ulp y ↔
    mag ∈ [f.baseOf y - 2, f.baseOf y - 1, f.baseOf y, f.baseOf y + 1, f.baseOf y + 2] ∧ mag ≠ 0 ∧
      f.unitsAt y.e mag ≤ y.m + 2 ^ (f.placeOf y - y.e).toNat ∧ y.m + y.sticky.toNat ≤ f.unitsAt y.e mag + 2 ^ (f.placeOf y - y.e).toNat := by
  rw [Fmt.within1ulp, List.mem_eraseDups, List.mem_filter]
  simp only [Bool.and_eq_true, decide_eq_true_eq, and_assoc]
  exact Iff.rfl

theorem unitsAt_value {f : Fmt} {e : Int} {mag : Nat} (h : e ≤ f.emin - f.fbits + (mag / 2 ^ f.fbits - 1 : Nat)) :
    (f.unitsAt e mag : ℚ) * 2 ^ e = codeVal f.fbits (f.emin - f.fbits) mag := by
  rw [Fmt.unitsAt, ← mul_zpow_units _ h, codeVal]
  split
  next hlt => rw [Nat.div_eq_of_lt hlt]; simp
  next hge =>
    have hpos : 0 < mag / 2 ^ f.fbits := Nat.div_pos (not_lt.1 hge) (by positivity)
    rw [Nat.add_comm (mag % 2 ^ f.fbits)]
    congr 2
    omega

/-- What an approximation within one ulp starts from: an exact value held to more bits than the format has. -/
structure Fine (F : Fmt) (y : Exact) : Prop where
  ne : y.m ≠ 0
  prec : F.fbits + 1 ≤ Nat.log2 y.m
  seen : F.emin - F.fbits ≤ y.top

theorem Fine.place {F : Fmt} {y : Exact} (h : Fine F y) : y.e + 1 ≤ F.placeOf y ∧ F.placeOf y ≤ y.top ∧ F.emin - F.fbits ≤ F.placeOf y := by
  have hprec := h.prec
  have hseen := h.seen
  have htop : y.top = y.e + Nat.log2 y.m := rfl
  rw [Fmt.placeOf]
  omega

/-- Rounding toward zero keeps the whole places. -/
theorem Fine.roundAt_rtz {F : Fmt} {y : Exact} (h : Fine F y) : (roundAt .rtz 0 y (F.placeOf y)).1 = y.m / 2 ^ (F.placeOf y - y.e).toNat := by
  obtain ⟨hlow, hhigh, -⟩ := h.place
  have htop : y.top = y.e + Nat.log2 y.m := rfl
  have hd : min (F.placeOf y - y.e).toNat (Nat.log2 y.m + 40) = (F.placeOf y - y.e).toNat := by omega
  have hz : (y.e - F.placeOf y).toNat = 0 := by omega
  rw [roundAt, hd, hz]
  simp [roundsUp]

theorem Fine.whole {F : Fmt} {y : Exact} (h : Fine F y) : 1 ≤ y.m / 2 ^ (F.placeOf y - y.e).toNat ∧
    (F.emin - F.fbits < F.placeOf y → 2 ^ F.fbits ≤ y.m / 2 ^ (F.placeOf y - y.e).toNat) := by
  obtain ⟨hlow, hhigh, -⟩ := h.place
  have htop : y.top = y.e + Nat.log2 y.m := rfl
  have hself : 2 ^ Nat.log2 y.m ≤ y.m := Nat.log2_self_le h.ne
  constructor
  · rw [Nat.le_div_iff_mul_le (by positivity), Nat.one_mul]
    exact (Nat.pow_le_pow_right (by norm_num) (by omega)).trans hself
  · intro hnormal
    have hprec := h.prec
    rw [Nat.le_div_iff_mul_le (by positivity), ← pow_add]
    refine (Nat.pow_le_pow_right (by norm_num) ?_).trans hself
    rw [Fmt.placeOf] at hnormal ⊢
    omega

theorem Fine.whole_lt {F : Fmt} {y : Exact} (h : Fine F y) : y.m / 2 ^ (F.placeOf y - y.e).toNat < 2 ^ (F.fbits + 1) := by
  obtain ⟨hlow, hhigh, -⟩ := h.place
  have htop : y.top = y.e + Nat.log2 y.m := rfl
  rw [Nat.div_lt_iff_lt_mul (by positivity), ← pow_add]
  refine Nat.lt_log2_self.trans_le (Nat.pow_le_pow_right (by norm_num) ?_)
  rw [Fmt.placeOf] at hlow hhigh ⊢
  omega

/-- A candidate's magnitude is a whole number of the exact value's units. -/
theorem Fine.units {F : Fmt} {y : Exact} (h : Fine F y) (hf : 1 ≤ F.fbits) {mag : Nat} (hmag : F.baseOf y - 2 ≤ mag) :
    (F.unitsAt y.e mag : ℚ) * 2 ^ y.e = codeVal F.fbits (F.emin - F.fbits) mag := by
  obtain ⟨hlow, -, hplace⟩ := h.place
  refine unitsAt_value ?_
  by_cases hnormal : F.emin - F.fbits < F.placeOf y
  · have hbase : F.baseOf y = (F.placeOf y - (F.emin - F.fbits)).toNat * 2 ^ F.fbits + y.m / 2 ^ (F.placeOf y - y.e).toNat := by
      rw [Fmt.baseOf, h.roundAt_rtz]
    have hk := h.whole.2 hnormal
    have htwo : 2 ≤ 2 ^ F.fbits := Nat.le_self_pow (by omega) 2
    have hdiv : (F.placeOf y - (F.emin - F.fbits)).toNat ≤ mag / 2 ^ F.fbits := by
      rw [Nat.le_div_iff_mul_le (by positivity)]
      omega
    omega
  · omega

theorem Fine.ulp_units {F : Fmt} {y : Exact} (h : Fine F y) :
    ((2 ^ (F.placeOf y - y.e).toNat : Nat) : ℚ) * 2 ^ y.e = 2 ^ F.placeOf y := by
  obtain ⟨hlow, -, -⟩ := h.place
  have := mul_zpow_units 1 (e := y.e) (q := F.placeOf y) (by omega)
  rw [Nat.cast_one, one_mul, Nat.one_mul] at this
  exact this.symm

/-- A candidate lies within one ulp of the exact value, on either side. -/
theorem Fine.near {F : Fmt} {y : Exact} (h : Fine F y) (hf : 1 ≤ F.fbits) {mag : Nat} (hmag : mag ∈ F.within1ulp y) : mag ≠ 0 ∧
    codeVal F.fbits (F.emin - F.fbits) mag ≤ (y.m : ℚ) * 2 ^ y.e + 2 ^ F.placeOf y ∧
    ((y.m : ℚ) + (y.sticky.toNat : ℚ)) * 2 ^ y.e ≤ codeVal F.fbits (F.emin - F.fbits) mag + 2 ^ F.placeOf y := by
  obtain ⟨hlist, hne, hup, hdown⟩ := mem_within1ulp.1 hmag
  have hpos : (0 : ℚ) < 2 ^ y.e := by positivity
  have hge : F.baseOf y - 2 ≤ mag := by
    simp only [List.mem_cons, List.not_mem_nil, or_false] at hlist
    omega
  have hup' : (F.unitsAt y.e mag : ℚ) ≤ y.m + ((2 ^ (F.placeOf y - y.e).toNat : Nat) : ℚ) := by exact_mod_cast hup
  have hdown' : (y.m : ℚ) + (y.sticky.toNat : ℚ) ≤ F.unitsAt y.e mag + ((2 ^ (F.placeOf y - y.e).toNat : Nat) : ℚ) := by exact_mod_cast hdown
  rw [← h.units hf hge, ← h.ulp_units, ← add_mul, ← add_mul]
  exact ⟨hne, mul_le_mul_of_nonneg_right hup' hpos.le, mul_le_mul_of_nonneg_right hdown' hpos.le⟩

/-- There is a candidate: the value rounded toward zero. -/
theorem Fine.base_mem {F : Fmt} {y : Exact} (h : Fine F y) (hf : 1 ≤ F.fbits) : F.baseOf y ∈ F.within1ulp y := by
  obtain ⟨hlow, -, hplace⟩ := h.place
  obtain ⟨hone, hnormal⟩ := h.whole
  have hlt := h.whole_lt
  have hbase : F.baseOf y = (F.placeOf y - (F.emin - F.fbits)).toNat * 2 ^ F.fbits + y.m / 2 ^ (F.placeOf y - y.e).toNat := by
    rw [Fmt.baseOf, h.roundAt_rtz]
  have hunits : F.unitsAt y.e (F.baseOf y) = y.m / 2 ^ (F.placeOf y - y.e).toNat * 2 ^ (F.placeOf y - y.e).toNat := by
    have hval := h.units hf (Nat.sub_le (F.baseOf y) 2)
    have hcode : codeVal F.fbits (F.emin - F.fbits) (F.baseOf y) = ((y.m / 2 ^ (F.placeOf y - y.e).toNat : Nat) : ℚ) * 2 ^ F.placeOf y := by
      rw [hbase, codeVal_mk _ _ _ _ hlt.le]
      · congr 2
        omega
      · by_cases hn : F.emin - F.fbits < F.placeOf y
        · exact .inr (hnormal hn)
        · exact .inl (by omega)
    rw [hcode, ← h.ulp_units, ← mul_assoc] at hval
    have hpos : (0 : ℚ) < 2 ^ y.e := by positivity
    exact_mod_cast mul_right_cancel₀ hpos.ne' hval
  have hdm := Nat.div_add_mod y.m (2 ^ (F.placeOf y - y.e).toNat)
  have hmod : y.m % 2 ^ (F.placeOf y - y.e).toNat < 2 ^ (F.placeOf y - y.e).toNat := Nat.mod_lt _ (by positivity)
  have hst := Bool.toNat_le y.sticky
  rw [mul_comm] at hdm
  refine mem_within1ulp.2 ⟨by simp, by omega, ?_, ?_⟩
  · rw [hunits]
    omega
  · rw [hunits]
    omega

/-- An approximation of a wide format is one of the candidates. -/
theorem Fine.rcpOut {t : ETy} {y : Exact} (h : Fine (ETy.fmt t) y) (hf : 1 ≤ (ETy.fmt t).fbits) (hn : narrowF t = false) (fn : Config.ApproxFn)
    (c : RCtx) (i v : Nat) : ∃ mag ∈ (ETy.fmt t).within1ulp y, rcpOut fn t c i v y = (ETy.fmt t).approxOut c.rm c.sat y.neg mag := by
  have hpos : 0 < ((ETy.fmt t).within1ulp y).length := List.length_pos_of_mem (h.base_mem hf)
  have hlt := Nat.mod_lt (Config.approx fn t c.rm c.sat v) hpos
  refine ⟨_, List.getElem_mem hlt, ?_⟩
  rw [Machine.rcpOut, hn, if_neg Bool.false_ne_true]
  exact congrArg ((ETy.fmt t).approxOut c.rm c.sat y.neg) (List.getD_eq_getElem _ 1 hlt)

theorem rcpOut_narrow {t : ETy} (hn : narrowF t = true) (fn : Config.ApproxFn) (c : RCtx) (i v : Nat) (y : Exact) :
    Machine.rcpOut fn t c i v y = (ETy.fmt t).round c.rm c.sat (c.srd.rho i) y := by
  rw [Machine.rcpOut, hn]
  rfl

/-- A magnitude that a function admits gives its result, and one past M an overflow. -/
theorem approxOut_result {F : Fmt} (hF : F ∈ fmts) {rm : Rm} {sat neg : Bool} {mag : Nat} {ok : ℚ → Prop} {big : Prop}
    (hok : mag ≤ F.maxMag → ok (codeVal F.fbits (F.emin - F.fbits) mag)) (hbig : F.maxMag < mag → big) :
    ApproxResult F rm sat neg ok big (F.approxOut rm sat neg mag) := by
  rw [Fmt.approxOut]
  by_cases h : mag > F.maxMag
  · rw [if_pos h]
    exact .inr ⟨hbig h, rfl⟩
  · rw [if_neg h]
    have hle := not_lt.1 h
    exact .inl ⟨mag, hle, (unpack_code F hF mag hle).1 ▸ hok hle, rfl⟩

/-! ### Reciprocals (R316, R317) -/

/-- What a quotient by m tells: its whole units, and that it lies within one more where it is not exact. -/
theorem quot_bounds {n m' : Nat} (hm' : m' ≠ 0) : ((n / m' : Nat) : ℚ) ≤ (n : ℚ) / m' ∧
    (n : ℚ) / m' ≤ ((n / m' : Nat) : ℚ) + ((decide (n % m' ≠ 0)).toNat : ℚ) ∧ (n : ℚ) / m' < ((n / m' : Nat) : ℚ) + 1 := by
  have hd : (0 : ℚ) < m' := by exact_mod_cast Nat.pos_of_ne_zero hm'
  have hdiv : (m' : ℚ) * ((n / m' : Nat) : ℚ) + ((n % m' : Nat) : ℚ) = n := by exact_mod_cast Nat.div_add_mod n m'
  have hmod0 : (0 : ℚ) ≤ ((n % m' : Nat) : ℚ) := by positivity
  have hmod : ((n % m' : Nat) : ℚ) < m' := by exact_mod_cast Nat.mod_lt n (Nat.pos_of_ne_zero hm')
  refine ⟨?_, ?_, ?_⟩
  · rw [le_div_iff₀ hd]
    linarith
  · rw [div_le_iff₀ hd]
    by_cases hz : n % m' = 0
    · rw [hz] at hdiv
      simp [hz]
      push_cast at hdiv
      linarith
    · simp [hz]
      linarith
  · rw [div_lt_iff₀ hd]
    linarith

theorem Wide.recip_fine {F : Fmt} (h : Wide F) {neg : Bool} {m : Nat} {e : Int} (hm : m ≠ 0) (hlt : m < 2 ^ (F.fbits + 1))
    (hhi : e ≤ F.bias - F.fbits) : Fine F (quotExact neg 1 0 m e) := by
  have hfrac := h.frac
  have hemin : F.emin = 1 - (F.bias : Int) := rfl
  have hbig : 2 ^ (199 - F.fbits) ≤ 1 * 2 ^ 200 / m := by
    rw [Nat.le_div_iff_mul_le (Nat.pos_of_ne_zero hm)]
    calc 2 ^ (199 - F.fbits) * m ≤ 2 ^ (199 - F.fbits) * 2 ^ (F.fbits + 1) := Nat.mul_le_mul_left _ hlt.le
      _ = 1 * 2 ^ 200 := by
        rw [← pow_add, Nat.one_mul]
        congr 1
        omega
  have hne : 1 * 2 ^ 200 / m ≠ 0 := by
    have : 0 < 2 ^ (199 - F.fbits) := by positivity
    omega
  have hlog : 199 - F.fbits ≤ Nat.log2 (1 * 2 ^ 200 / m) := (Nat.le_log2 hne).2 hbig
  refine ⟨hne, ?_, ?_⟩
  · change F.fbits + 1 ≤ Nat.log2 (1 * 2 ^ 200 / m)
    omega
  · change F.emin - F.fbits ≤ 0 - e - 200 + Nat.log2 (1 * 2 ^ 200 / m)
    omega

/-- The reciprocal lies between the exact value's whole units and one more. -/
theorem recip_between (neg : Bool) {m : Nat} {e : Int} (hm : m ≠ 0) : let y := quotExact neg 1 0 m e
    (y.m : ℚ) * 2 ^ y.e ≤ 1 / ((m : ℚ) * 2 ^ e) ∧ 1 / ((m : ℚ) * 2 ^ e) ≤ ((y.m : ℚ) + (y.sticky.toNat : ℚ)) * 2 ^ y.e ∧
    1 / ((m : ℚ) * 2 ^ e) < ((y.m : ℚ) + 1) * 2 ^ y.e := by
  obtain ⟨hlo, hhi, hone⟩ := quot_bounds (n := 1 * 2 ^ 200) hm
  have hd : (m : ℚ) ≠ 0 := by exact_mod_cast hm
  have hval : (1 : ℚ) / ((m : ℚ) * 2 ^ e) = ((1 * 2 ^ 200 : Nat) : ℚ) / m * 2 ^ (0 - e - 200) := by
    rw [zpow_sub₀ (by norm_num), zpow_sub₀ (by norm_num)]
    have : (2 : ℚ) ^ (200 : Int) = 2 ^ 200 := by norm_cast
    rw [this]
    push_cast
    field_simp
    norm_num
  intro y
  rw [hval]
  exact ⟨mul_le_mul_of_nonneg_right hlo (by positivity), mul_le_mul_of_nonneg_right hhi (by positivity),
    mul_lt_mul_of_pos_right hone (by positivity)⟩

theorem Fine.ulpAt {F : Fmt} {y : Exact} (h : Fine F y) {v : ℚ} (hlo : (y.m : ℚ) * 2 ^ y.e ≤ v)
    (hhi : v < ((y.m : ℚ) + 1) * 2 ^ y.e) : F.ulpAt v = 2 ^ F.placeOf y := by
  have hm : (0 : ℚ) < y.m := by exact_mod_cast Nat.pos_of_ne_zero h.ne
  have hpos : (0 : ℚ) < 2 ^ y.e := by positivity
  have hdiff : v = ((y.m : ℚ) + (v / 2 ^ y.e - y.m)) * 2 ^ y.e := by
    field_simp
    ring
  have h0 : 0 ≤ v / 2 ^ y.e - y.m := by rw [sub_nonneg, le_div_iff₀ hpos]; exact hlo
  have h1 : v / 2 ^ y.e - y.m < 1 := by rw [sub_lt_iff_lt_add', div_lt_iff₀ hpos]; exact hhi
  rw [Fmt.ulpAt, hdiff, log_mag y.m y.e h.ne _ h0 h1]
  rfl

/-- `frcp` of a wide format. -/
theorem Wide.recip_near {t : ETy} (h : Wide (ETy.fmt t)) (hn : narrowF t = false) {neg : Bool} {m : Nat} {e : Int} (hm : m ≠ 0)
    (hlt : m < 2 ^ ((ETy.fmt t).fbits + 1)) (hhi : e ≤ (ETy.fmt t).bias - (ETy.fmt t).fbits) (c : RCtx) (i v : Nat) {y : ℚ}
    (hy : |y| = 1 / ((m : ℚ) * 2 ^ e)) :
    ApproxResult (ETy.fmt t) c.rm c.sat neg (fun z => 0 < z ∧ |z - abs y| ≤ (ETy.fmt t).ulpAt |y|) ((ETy.fmt t).maxVal < |y| + (ETy.fmt t).ulpAt |y|)
      (rcpOut .rcp t c i v (quotExact neg 1 0 m e)) := by
  have hfrac := h.frac
  have hfine := h.recip_fine (neg := neg) hm hlt hhi
  obtain ⟨hlo, hup, hone⟩ := recip_between neg (e := e) hm
  obtain ⟨mag, hmem, hres⟩ := hfine.rcpOut (by omega) hn .rcp c i v
  obtain ⟨hne, hle, hge⟩ := hfine.near (by omega) hmem
  have hzpos : 0 < codeVal (ETy.fmt t).fbits ((ETy.fmt t).emin - (ETy.fmt t).fbits) mag := by
    have := (codeVal_mono (ETy.fmt t).fbits ((ETy.fmt t).emin - (ETy.fmt t).fbits)) (Nat.pos_of_ne_zero hne)
    refine lt_of_le_of_lt ?_ this
    rw [codeVal, if_pos (by positivity)]
    simp
  have hulp : (ETy.fmt t).ulpAt |y| = 2 ^ (ETy.fmt t).placeOf (quotExact neg 1 0 m e) := by
    rw [hy]
    exact hfine.ulpAt hlo hone
  rw [hres, hulp]
  rw [← hy] at hlo hup
  refine approxOut_result h.mem (fun _ => ⟨hzpos, abs_le.2 ⟨?_, ?_⟩⟩) fun hbig => ?_
  · linarith
  · linarith
  · have hmax : (ETy.fmt t).maxVal < codeVal (ETy.fmt t).fbits ((ETy.fmt t).emin - (ETy.fmt t).fbits) mag := by
      rw [Fmt.maxVal, (unpack_code _ h.mem _ le_rfl).1]
      exact codeVal_mono _ _ hbig
    linarith

/-- `frsq` of a wide format. -/
theorem Wide.rsqrt_near {t : ETy} (h : Wide (ETy.fmt t)) (hn : narrowF t = false) {m : Nat} {e : Int} (hm : m ≠ 0)
    (hlt : m < 2 ^ ((ETy.fmt t).fbits + 1)) (hlo : 1 - ((ETy.fmt t).bias : Int) - (ETy.fmt t).fbits ≤ e) (hhi : e ≤ (ETy.fmt t).bias - (ETy.fmt t).fbits)
    (c : RCtx) (i v : Nat) {y2 : ℚ} (hy : y2 = 1 / ((m : ℚ) * 2 ^ e)) :
    ∃ q : ℤ, ((2 : ℚ) ^ (q + (ETy.fmt t).fbits)) ^ 2 ≤ y2 ∧ y2 < ((2 : ℚ) ^ (q + (ETy.fmt t).fbits + 1)) ^ 2 ∧
      ApproxResult (ETy.fmt t) c.rm c.sat false (fun z => (2 : ℚ) ^ q < z ∧ (z - (2 : ℚ) ^ q) ^ 2 ≤ y2 ∧ y2 ≤ (z + (2 : ℚ) ^ q) ^ 2) False
        (rcpOut .rsq t c i v (rsqrtExact m e)) := by
  have hfrac := h.frac
  have hroom := h.room
  have hemin : (ETy.fmt t).emin = 1 - ((ETy.fmt t).bias : Int) := rfl
  obtain ⟨m1, e1, ⟨heven, -, ⟨hm1, hm2⟩, he1, he2⟩, sticky, hex, hroot⟩ := rsqrtExact_root (Nat.pos_of_ne_zero hm) e
  obtain ⟨hdown, hup⟩ := log2_rsqrt hfrac.2 (m1 := m1) (by omega) (by rw [pow_succ]; omega)
  rw [← hy] at hroot
  rw [hex]
  generalize hr : isqrt (2 ^ 600 / m1) = r at *
  generalize hj : -(e1 / 2) - 300 = j at *
  have hne : r ≠ 0 := fun hz => by simp [hz] at hdown; omega
  have htop : (⟨false, r, j, sticky⟩ : Exact).top = j + Nat.log2 r := rfl
  have hplace : (ETy.fmt t).placeOf ⟨false, r, j, sticky⟩ = j + Nat.log2 r - (ETy.fmt t).fbits := by
    rw [Fmt.placeOf, htop, max_eq_left (by omega)]
  have hfine : Fine (ETy.fmt t) ⟨false, r, j, sticky⟩ := ⟨hne, by dsimp only; omega, by rw [htop]; omega⟩
  obtain ⟨mag, hmem, hres⟩ := hfine.rcpOut (by omega) hn .rsq c i v
  obtain ⟨-, hle, hge⟩ := hfine.near (by omega) hmem
  rw [hplace] at hle hge
  dsimp only at hle hge
  have hpos : (0 : ℚ) < 2 ^ j := by positivity
  have hself : (2 : ℚ) ^ (j + Nat.log2 r) ≤ (r : ℚ) * 2 ^ j := by
    rw [zpow_add₀ (by norm_num), mul_comm, zpow_natCast]
    gcongr
    exact_mod_cast Nat.log2_self_le hne
  have hnext : ((r : ℚ) + 1) * 2 ^ j ≤ (2 : ℚ) ^ (j + Nat.log2 r + 1) := by
    rw [add_assoc, zpow_add₀ (by norm_num), mul_comm]
    gcongr
    exact_mod_cast (Nat.lt_log2_self : r < 2 ^ (Nat.log2 r + 1))
  have hceil : y2 ≤ (((r : ℚ) + (sticky.toNat : ℚ)) * 2 ^ j) ^ 2 := by
    cases hs : sticky with
    | false =>
      have hx : y2 = ((r : ℚ) * 2 ^ j) ^ 2 := by simpa [hs] using hroot.exact
      simp [hx]
    | true => simpa using hroot.hi.le
  obtain ⟨q, hq⟩ : ∃ q : Int, q = j + Nat.log2 r - (ETy.fmt t).fbits := ⟨_, rfl⟩
  have hqtop : j + (Nat.log2 r : Int) = q + (ETy.fmt t).fbits := by omega
  rw [← hq] at hle hge
  rw [hqtop] at hself hnext
  have hqpos : (0 : ℚ) < 2 ^ q := by positivity
  have hsteps : (128 : ℚ) * 2 ^ q ≤ 2 ^ (q + (ETy.fmt t).fbits) := by
    rw [zpow_add₀ (by norm_num), mul_comm, zpow_natCast]
    gcongr
    calc (128 : ℚ) = 2 ^ 7 := by norm_num
      _ ≤ 2 ^ (ETy.fmt t).fbits := pow_le_pow_right₀ (by norm_num) hfrac.1
  have hsticky : (0 : ℚ) ≤ (sticky.toNat : ℚ) * 2 ^ j := by positivity
  refine ⟨q, le_trans (by gcongr) hroot.lo, hroot.hi.trans_le (by gcongr), ?_⟩
  rw [hres]
  have hfar : (2 : ℚ) ^ q < codeVal (ETy.fmt t).fbits ((ETy.fmt t).emin - (ETy.fmt t).fbits) mag := by
    rw [add_mul] at hge
    linarith
  refine approxOut_result h.mem (fun _ => ⟨hfar, ?_, ?_⟩) fun hbig => ?_
  · exact (pow_le_pow_left₀ (by linarith) (by linarith) 2).trans hroot.lo
  · exact hceil.trans (pow_le_pow_left₀ (by positivity) hge 2)
  · have hmax : (ETy.fmt t).maxVal < codeVal (ETy.fmt t).fbits ((ETy.fmt t).emin - (ETy.fmt t).fbits) mag := by
      rw [Fmt.maxVal, (unpack_code _ h.mem _ le_rfl).1]
      exact codeVal_mono _ _ hbig
    have hroomy : (2 : ℚ) ^ (q + (ETy.fmt t).fbits + 2) ≤ (ETy.fmt t).maxVal := h.two_pow_le_maxVal (by omega)
    rw [zpow_add₀ (by norm_num) _ 2] at hroomy
    rw [zpow_add_one₀ (by norm_num)] at hnext
    norm_num at hroomy
    linarith

/-! ### The lanes (R303, R316, R317) -/

theorem narrowF_eq (t : ETy) : narrowF t = true ↔ t = .bf16x4 ∨ t = .f16x4 := by simp [narrowF]

/-- A zero code is its sign. -/
theorem Wide.withSign_zero {F : Fmt} (hF : Wide F) {v : Nat} {n : Bool} {e : Int} (hv : v < 2 ^ F.width) (h : F.unpack v = .fin n 0 e) :
    F.withSign n 0 = v := by
  obtain ⟨hn, -, -, -⟩ := unpack_fin F h
  have hwidth : F.width - 1 = F.fbits + F.ebits := by
    rw [Fmt.width]
    omega
  have hfields : v / 2 ^ F.fbits % 2 ^ F.ebits = 0 ∧ v % 2 ^ F.fbits = 0 := by
    have hpos : 0 < 2 ^ F.fbits := by positivity
    simp only [Fmt.unpack, hF.ieee, decide_true, Bool.true_and, decide_eq_true_eq, reduceCtorEq, decide_false, Bool.false_and, Bool.false_eq_true,
      if_false] at h
    split_ifs at h with hinf hfr h0 <;> simp at h
    exact ⟨h0, h.2.1⟩
  have hlow : v % 2 ^ (F.width - 1) = 0 := by rw [hwidth, pow_add, Nat.mod_mul, hfields.1, hfields.2, Nat.mul_zero]
  have hhigh : v / 2 ^ (F.width - 1) < 2 := by
    rw [Nat.div_lt_iff_lt_mul (by positivity), ← pow_succ']
    refine hv.trans_le (Nat.pow_le_pow_right (by norm_num) (by omega))
  have hdm := Nat.div_add_mod v (2 ^ (F.width - 1))
  rw [Fmt.withSign, hn]
  generalize v / 2 ^ (F.width - 1) = top at hhigh hdm ⊢
  have htop : (decide (top % 2 = 1)).toNat = top := by
    obtain rfl | rfl : top = 0 ∨ top = 1 := by omega
    · rfl
    · rfl
  rw [htop, hlow] at *
  rw [Nat.mul_comm]
  exact hdm

/-- The result and the flags of a division. -/
def divOut (F : Fmt) (rm : Rm) (sat : Bool) (rho : Nat) (u v : FVal) : Nat × Flags :=
  ((F.finish rm sat rho (fdivRes u v).1).1, (fdivRes u v).2.or (F.finish rm sat rho (fdivRes u v).1).2)

theorem divOut_exact {F : Fmt} {rm : Rm} {sat : Bool} {rho : Nat} {u v : FVal} {r : Res} (h : fdivRes u v = (r, Flags.none)) :
    divOut F rm sat rho u v = F.finish rm sat rho r := by
  rw [divOut, h]
  exact Prod.ext rfl (by cases (F.finish rm sat rho r).2; rfl)

theorem flags_or_comm (a b : Flags) : a.or b = b.or a := by simp [Flags.or, Bool.or_comm]

/-- A quotient is negative where the signs of its operands differ. -/
theorem quot_sign {n n' : Bool} {m m' : Nat} {e e' : Int} (hm : m ≠ 0) (hm' : m' ≠ 0) :
    decide ((FVal.fin n m e).rat / (FVal.fin n' m' e').rat < 0) = (n ^^ n') := by
  have ha : (0 : ℚ) < (m : ℚ) * 2 ^ e := mul_pos (by exact_mod_cast Nat.pos_of_ne_zero hm) (by positivity)
  have hb : (0 : ℚ) < (m' : ℚ) * 2 ^ e' := mul_pos (by exact_mod_cast Nat.pos_of_ne_zero hm') (by positivity)
  have hq : (0 : ℚ) < (m : ℚ) * 2 ^ e / ((m' : ℚ) * 2 ^ e') := div_pos ha hb
  rw [FVal.rat, FVal.rat, mul_assoc, mul_assoc]
  generalize (m : ℚ) * 2 ^ e = a at *
  generalize (m' : ℚ) * 2 ^ e' = b at *
  cases n <;> cases n' <;> simp [neg_div, div_neg, hq, hq.le]

/-- `fdiv`, operand by operand. -/
theorem Wide.divOut_result {F : Fmt} (hF : Wide F) {u v : FVal} (hv : ∀ n m e, v = .fin n m e → m < 2 ^ (F.fbits + 1)) (rm : Rm) (sat : Bool) (rho : Nat) :
    let r := divOut F rm sat rho u v
    let neg := u.neg? ^^ v.neg?
    if u.isNan || v.isNan then NanResult F [u, v] r
      else if (u.isZero && v.isZero) || (u.isInf && v.isInf) then r = (F.canonNan, Flags.NV)
      else if u.isInf then r = F.infinite sat neg
      else if v.isInf then r = (F.withSign neg 0, Flags.none)
      else if v.isZero then r.1 = (F.infinite sat neg).1 ∧ r.2 = (F.infinite sat neg).2.or Flags.DZ
      else Rounds F rm sat rho (u.rat / v.rat) neg r := by
  intro r neg
  by_cases hnan : (u.isNan || v.isNan) = true
  · rw [if_pos hnan]
    have hres : fdivRes u v = (.nan (u.isSnan || v.isSnan), Flags.none) := if_pos hnan
    change divOut F rm sat rho u v = _
    rw [divOut_exact hres]
    simp [Fmt.finish]
  · rw [if_neg hnan]
    cases u with
    | nan s => simp [FVal.isNan] at hnan
    | inf n =>
      cases v with
      | nan s => simp [FVal.isNan] at hnan
      | inf n' => exact divOut_exact (r := .nan true) rfl
      | fin n' m' e' => exact divOut_exact (r := .inf (n ^^ n')) rfl
    | fin n m e =>
      cases v with
      | nan s => simp [FVal.isNan] at hnan
      | inf n' =>
        simp only [FVal.isZero, FVal.isInf, Bool.and_false, Bool.false_and, Bool.or_false, Bool.false_eq_true, if_false, if_true]
        exact divOut_exact (r := .exact ⟨n ^^ n', 0, 0, false⟩) rfl
      | fin n' m' e' =>
        simp only [FVal.isZero, FVal.isInf, Bool.and_false, Bool.or_false, Bool.false_eq_true, if_false, Bool.and_eq_true, decide_eq_true_eq]
        by_cases hm' : m' = 0
        · by_cases hm : m = 0
          · rw [if_pos ⟨hm, hm'⟩]
            exact divOut_exact (r := .nan true) (by simp [fdivRes, FVal.isNan, hm, hm'])
          · rw [if_neg fun h => hm h.1, if_pos hm']
            have hres : fdivRes (.fin n m e) (.fin n' m' e') = (.inf neg, Flags.DZ) := by simp [fdivRes, FVal.isNan, hm, hm', neg]
            change (divOut F rm sat rho _ _).1 = _ ∧ (divOut F rm sat rho _ _).2 = _
            rw [divOut, hres]
            exact ⟨rfl, flags_or_comm _ _⟩
        · rw [if_neg fun h => hm' h.2, if_neg hm']
          by_cases hm : m = 0
          · have hres : fdivRes (.fin n m e) (.fin n' m' e') = (.exact ⟨neg, 0, 0, false⟩, Flags.none) := by
              simp [fdivRes, FVal.isNan, hm, hm', neg]
            have hzero : (FVal.fin n m e).rat / (FVal.fin n' m' e').rat = 0 := by simp [FVal.rat, hm]
            change Rounds F rm sat rho _ neg (divOut F rm sat rho _ _)
            rw [divOut_exact hres, hzero, Rounds, if_pos rfl]
            rfl
          · have hres : fdivRes (.fin n m e) (.fin n' m' e') = (.exact (quotExact neg m e m' e'), Flags.none) := by
              simp [fdivRes, FVal.isNan, hm, hm', neg]
            change Rounds F rm sat rho _ neg (divOut F rm sat rho _ _)
            rw [divOut_exact hres]
            refine hF.quot_rounds hm hm' (hv _ _ _ rfl) ?_ ?_ rm sat rho
            · rw [abs_div, abs_rat_fin, abs_rat_fin]
            · exact quot_sign hm hm'

/-! ### The lanes of the four forms -/

theorem overflow_lt {F : Fmt} (hF : F ∈ fmts) (rm : Rm) (sat neg : Bool) : (F.overflow rm sat neg).1 < 2 ^ F.width := by
  obtain ⟨hmax, hinf, hnan, -⟩ := code_lt F hF
  rw [Fmt.overflow]
  split
  · exact withSign_lt F hF _ _ hmax
  · split
    · dsimp only
      split
      · exact withSign_lt F hF _ _ hinf
      · exact hnan
    · exact withSign_lt F hF _ _ hmax

theorem approxOut_lt {F : Fmt} (hF : F ∈ fmts) (rm : Rm) (sat neg : Bool) (mag : Nat) : (F.approxOut rm sat neg mag).1 < 2 ^ F.width := by
  rw [Fmt.approxOut]
  split
  · exact overflow_lt hF rm sat neg
  next h => exact withSign_lt F hF _ _ ((not_lt.1 h).trans_lt (code_lt F hF).1)

theorem rcpOut_lt (fn : Config.ApproxFn) (t : ETy) (c : RCtx) (i v : Nat) (y : Exact) : (rcpOut fn t c i v y).1 < 2 ^ (ETy.fmt t).width := by
  rw [rcpOut]
  split
  · exact round_lt _ (fmt_mem t) _ _ _ _
  · exact approxOut_lt (fmt_mem t) _ _ _ _

theorem canonNan_lt (t : ETy) : (ETy.fmt t).canonNan < 2 ^ (ETy.fmt t).width := (code_lt _ (fmt_mem t)).2.2.1

theorem withSign_zero_lt (t : ETy) (n : Bool) : (ETy.fmt t).withSign n 0 < 2 ^ (ETy.fmt t).width := withSign_lt _ (fmt_mem t) _ _ (by positivity)

theorem frcpLane_lt (t : ETy) (c : RCtx) (i v : Nat) : (frcpLane t c i v).1 < 2 ^ (ETy.fmt t).width := by
  rw [frcpLane]
  cases (ETy.fmt t).unpack v with
  | nan s => exact canonNan_lt t
  | inf n => exact withSign_zero_lt t n
  | fin n m e =>
    dsimp only
    split
    · exact infinite_lt _ (fmt_mem t) _ _
    · exact rcpOut_lt _ _ _ _ _ _

theorem frsqLane_lt (t : ETy) (c : RCtx) (i v : Nat) : (frsqLane t c i v).1 < 2 ^ (ETy.fmt t).width := by
  rw [frsqLane]
  cases (ETy.fmt t).unpack v with
  | nan s => exact canonNan_lt t
  | inf n =>
    cases n
    · exact Nat.two_pow_pos _
    · exact canonNan_lt t
  | fin n m e =>
    dsimp only
    split
    · exact infinite_lt _ (fmt_mem t) _ _
    · split
      · exact canonNan_lt t
      · exact rcpOut_lt _ _ _ _ _ _

/-- A form that computes each lane of its left operand by itself. -/
theorem floatLanes_lane {i : Instr} {f : FmtA} {x : Nat} {p : Nat → Nat → Nat → Nat → Nat × Flags → Prop} (ht : f.ty ∈ tyF)
    (g : RCtx → Nat → Nat → Nat × Flags) (hi : ∀ s, exec i s = fireFlg f x s fun c l _ _ => mapLane1 f.ty (g c) l)
    (hlt : ∀ c j v, v < 2 ^ (ETy.fmt f.ty).width → (g c j v).1 < 2 ^ (ETy.fmt f.ty).width)
    (hp : ∀ srd j a b z, a < 2 ^ (ETy.fmt f.ty).width → p (srd.rho j) a b z (g ⟨f.rm, f.sat, srd⟩ j a)) : FloatLanes i f x p := by
  have hw := fmt_width _ (tyF_E _ ht)
  have hlane : ∀ l j, laneOf f.ty.width l j < 2 ^ (ETy.fmt f.ty).width := fun l j => hw ▸ Nat.mod_lt _ (Nat.two_pow_pos _)
  refine floatLanes_of (fun c l _ _ j => g c j (laneOf f.ty.width l j)) hi (fun c l _ _ j => (hlt c j _ (hlane l j)).trans_eq (congrArg (2 ^ ·) hw)) ?_
  rintro ⟨rm, sat, srd⟩ l r a j rfl rfl -
  exact hp srd j _ _ _ (hlane l j)

theorem floatLanes_fdiv (f : FmtA) (ht : f.ty ∈ tyF) :
    FloatLanes (.fdiv f) f (if f.ty = .f64 then 20 else if f.ty = .f32x2 then 10 else 6) (fun rho a b _ r =>
      let F := ETy.fmt f.ty
      let u := F.unpack a
      let v := F.unpack b
      let neg := u.neg? ^^ v.neg?
      if u.isNan || v.isNan then NanResult F [u, v] r
      else if (u.isZero && v.isZero) || (u.isInf && v.isInf) then r = (F.canonNan, Flags.NV)
      else if u.isInf then r = F.infinite f.sat neg
      else if v.isInf then r = (F.withSign neg 0, Flags.none)
      else if v.isZero then r.1 = (F.infinite f.sat neg).1 ∧ r.2 = (F.infinite f.sat neg).2.or Flags.DZ
      else Rounds F f.rm f.sat rho (u.rat / v.rat) neg r) := by
  have hw := wide_of_tyF ht
  refine floatLanes_of (fun c l r _ j => divOut (ETy.fmt f.ty) c.rm c.sat (c.srd.rho j) (laneF f.ty l j) (laneF f.ty r j)) (fun s => rfl)
    (fun c l r _ j => finish_lt_lane (tyF_E _ ht) _ _ _ _) ?_
  rintro ⟨rm, sat, srd⟩ l r a j rfl rfl -
  exact hw.divOut_result (fun _ _ _ hv => (hw.unpack_bounds hv).1) f.rm f.sat (srd.rho j)

theorem floatLanes_fsqrt (f : FmtA) (ht : f.ty ∈ tyF) :
    FloatLanes (.fsqrt f) f (if f.ty = .f64 then 20 else if f.ty = .f32x2 then 10 else 6) (fun rho a _ _ r =>
      match (ETy.fmt f.ty).unpack a with
      | .nan s => r = ((ETy.fmt f.ty).canonNan, Flags.when s Flags.NV)
      | .inf neg => r = if neg then ((ETy.fmt f.ty).canonNan, Flags.NV) else (ETy.fmt f.ty).infinite f.sat false
      | .fin neg m e =>
        if m = 0 then r = (a, Flags.none) else if neg then r = ((ETy.fmt f.ty).canonNan, Flags.NV)
        else RootRounds (ETy.fmt f.ty) f.rm rho (FVal.fin neg m e).rat r) := by
  have hw := wide_of_tyF ht
  refine floatLanes_lane ht (fun c j v => (ETy.fmt f.ty).finish c.rm c.sat (c.srd.rho j) (fsqrtRes ((ETy.fmt f.ty).unpack v))) (fun s => rfl)
    (fun c j v _ => finish_lt _ hw.mem _ _ _ _) fun srd j a _ _ ha => ?_
  cases hu : (ETy.fmt f.ty).unpack a with
  | nan s => rfl
  | inf n => cases n <;> rfl
  | fin n m e =>
    obtain ⟨hlt, hlo, hhi⟩ := hw.unpack_bounds hu
    dsimp only [fsqrtRes]
    by_cases hm : m = 0
    · rw [if_pos hm, if_pos hm]
      subst hm
      exact Prod.ext (hw.withSign_zero ha hu) rfl
    · rw [if_neg hm, if_neg hm]
      cases n with
      | true => rfl
      | false =>
        have h := hw.sqrt_rounds hm hlt hlo hhi f.rm f.sat (srd.rho j)
        have hrat : (FVal.fin false m e).rat = (m : ℚ) * 2 ^ e := by simp [FVal.rat]
        rw [hrat]
        exact h

theorem floatLanes_frcp (f : FmtA) (ht : f.ty ∈ tyF) : FloatLanes (.frcp f) f (if f.ty = .f64 then 8 else 4) (fun rho a _ _ r =>
    match (ETy.fmt f.ty).unpack a with
    | .nan s => r = ((ETy.fmt f.ty).canonNan, Flags.when s Flags.NV)
    | .inf neg => r = ((ETy.fmt f.ty).withSign neg 0, Flags.none)
    | .fin neg m e =>
      if m = 0 then r = (((ETy.fmt f.ty).infinite f.sat neg).1, ((ETy.fmt f.ty).infinite f.sat neg).2.or Flags.DZ)
      else ((f.ty = .bf16x4 ∨ f.ty = .f16x4) → Rounds (ETy.fmt f.ty) f.rm f.sat rho (1 / (FVal.fin neg m e).rat) neg r) ∧
        (¬ (f.ty = .bf16x4 ∨ f.ty = .f16x4) → ApproxResult (ETy.fmt f.ty) f.rm f.sat neg
          (fun z => 0 < z ∧ |z - abs (1 / (FVal.fin neg m e).rat)| ≤ (ETy.fmt f.ty).ulpAt (abs (1 / (FVal.fin neg m e).rat)))
          ((ETy.fmt f.ty).maxVal < |1 / (FVal.fin neg m e).rat| + (ETy.fmt f.ty).ulpAt |1 / (FVal.fin neg m e).rat|) r)) := by
  have hw := wide_of_tyF ht
  refine floatLanes_lane ht (fun c j v => frcpLane f.ty c j v) (fun s => rfl) (fun c j v _ => frcpLane_lt _ _ _ _) fun srd j a _ _ ha => ?_
  rw [frcpLane]
  cases hu : (ETy.fmt f.ty).unpack a with
  | nan s => rfl
  | inf n => rfl
  | fin n m e =>
    obtain ⟨hlt, hlo, hhi⟩ := hw.unpack_bounds hu
    dsimp only
    by_cases hm : m = 0
    · rw [if_pos hm, if_pos hm]
    · rw [if_neg hm, if_neg hm]
      have habs : |1 / (FVal.fin n m e).rat| = 1 / ((m : ℚ) * 2 ^ e) := by rw [abs_div, abs_one, abs_rat_fin]
      refine ⟨fun hn => ?_, fun hn => ?_⟩
      · rw [rcpOut_narrow ((narrowF_eq _).2 hn)]
        refine hw.quot_rounds one_ne_zero hm hlt ?_ ?_ _ _ _
        · rw [habs]
          simp
        · have hsign := quot_sign (n := false) (n' := n) (e := 0) (e' := e) one_ne_zero hm
          have hone : (FVal.fin false 1 0).rat = 1 := by simp [FVal.rat]
          rw [hone] at hsign
          simpa using hsign
      · exact hw.recip_near (Bool.eq_false_iff.2 fun h => hn ((narrowF_eq _).1 h)) hm hlt hhi _ j a habs

theorem floatLanes_frsq (f : FmtA) (ht : f.ty ∈ tyF) : FloatLanes (.frsq f) f (if f.ty = .f64 then 8 else 4) (fun rho a _ _ r =>
    match (ETy.fmt f.ty).unpack a with
    | .nan s => r = ((ETy.fmt f.ty).canonNan, Flags.when s Flags.NV)
    | .inf neg => r = if neg then ((ETy.fmt f.ty).canonNan, Flags.NV) else (0, Flags.none)
    | .fin neg m e =>
      if m = 0 then r = (((ETy.fmt f.ty).infinite f.sat neg).1, ((ETy.fmt f.ty).infinite f.sat neg).2.or Flags.DZ)
      else if neg then r = ((ETy.fmt f.ty).canonNan, Flags.NV)
      else ((f.ty = .bf16x4 ∨ f.ty = .f16x4) → RootRounds (ETy.fmt f.ty) f.rm rho (1 / (FVal.fin neg m e).rat) r) ∧
        (¬ (f.ty = .bf16x4 ∨ f.ty = .f16x4) → ∃ q : ℤ, ((2 : ℚ) ^ (q + (ETy.fmt f.ty).fbits)) ^ 2 ≤ 1 / (FVal.fin neg m e).rat ∧
          1 / (FVal.fin neg m e).rat < ((2 : ℚ) ^ (q + (ETy.fmt f.ty).fbits + 1)) ^ 2 ∧
          ApproxResult (ETy.fmt f.ty) f.rm f.sat false (fun z => (2 : ℚ) ^ q < z ∧ (z - (2 : ℚ) ^ q) ^ 2 ≤ 1 / (FVal.fin neg m e).rat ∧
            1 / (FVal.fin neg m e).rat ≤ (z + (2 : ℚ) ^ q) ^ 2) False r)) := by
  have hw := wide_of_tyF ht
  refine floatLanes_lane ht (fun c j v => frsqLane f.ty c j v) (fun s => rfl) (fun c j v _ => frsqLane_lt _ _ _ _) fun srd j a _ _ ha => ?_
  rw [frsqLane]
  cases hu : (ETy.fmt f.ty).unpack a with
  | nan s => rfl
  | inf n => cases n <;> rfl
  | fin n m e =>
    obtain ⟨hlt, hlo, hhi⟩ := hw.unpack_bounds hu
    dsimp only
    by_cases hm : m = 0
    · rw [if_pos hm, if_pos hm]
    · rw [if_neg hm, if_neg hm]
      cases n with
      | true => rfl
      | false =>
        have hrat : 1 / (FVal.fin false m e).rat = 1 / ((m : ℚ) * 2 ^ e) := by simp [FVal.rat]
        rw [if_neg Bool.false_ne_true, if_neg Bool.false_ne_true, hrat]
        refine ⟨fun hn => ?_, fun hn => ?_⟩
        · rw [rcpOut_narrow ((narrowF_eq _).2 hn)]
          exact hw.rsqrt_rounds hm hlt hlo hhi _ _ _
        · exact hw.rsqrt_near (Bool.eq_false_iff.2 fun h => hn ((narrowF_eq _).1 h)) hm hlt hlo hhi _ j a rfl

/-- Settles O18: special operands first; quotients and roots rounded once from their exact digits, or chosen among the codes within one ulp of them. -/
theorem floatDivideAndRootForms : Obligations.FloatDivideAndRootForms := by
  unfold Obligations.FloatDivideAndRootForms
  exact ⟨fun f ht => ⟨floatLanes_fdiv f ht, floatLanes_fsqrt f ht⟩, fun f ht => ⟨floatLanes_frcp f ht, floatLanes_frsq f ht⟩⟩

end Sys2Proof.Machine
end


section
/-!
PROOFS. The six functions (R316, R317): their special inputs, ranges, signs and flags: obligation O19.
-/
namespace Sys2Proof.Machine

/-! ### Results by their codes -/

/-- A result inexact by its flags, and no NaN. -/
def Inexact (F : Fmt) (r : Nat × Flags) : Prop := r.2.nx = true ∧ r.2.nv = false ∧ r.2.dz = false ∧ (F.unpack r.1).isNan = false

/-- A result that is a value as it stands. -/
def Exactly (F : Fmt) (q : ℚ) (r : Nat × Flags) : Prop := r.2 = Flags.none ∧ (F.unpack r.1).isFin = true ∧ (F.unpack r.1).rat = q

/-- A finite result of magnitude at most 1. -/
def WithinOne (F : Fmt) (r : Nat × Flags) : Prop := (F.unpack r.1).isFin = true ∧ |(F.unpack r.1).rat| ≤ 1

/-- A magnitude's code with a sign: its value, its sign, and whether it is zero. -/
theorem unpack_signed {F : Fmt} (hF : F ∈ fmts) (neg : Bool) {c : Nat} (hc : c ≤ F.maxMag) : (F.unpack (F.withSign neg c)).isFin = true ∧
    (F.unpack (F.withSign neg c)).isNan = false ∧ (F.unpack (F.withSign neg c)).neg? = neg ∧
    (F.unpack (F.withSign neg c)).rat = (if neg then -1 else 1) * codeVal F.fbits (F.emin - F.fbits) c := by
  obtain ⟨m, e, hfin, hsigned⟩ := unpack_withSign F hF neg hc
  have hval := (unpack_code F hF c hc).1
  rw [hsigned]
  refine ⟨rfl, rfl, rfl, ?_⟩
  rw [← hval, hfin, FVal.rat, FVal.rat]
  simp [mul_assoc]

theorem codeVal_zero (F : Nat) (q0 : Int) : codeVal F q0 0 = 0 := by simp [codeVal]

theorem codeVal_pos {F : Nat} {q0 : Int} {c : Nat} (hc : 1 ≤ c) : 0 < codeVal F q0 c := by
  rw [← codeVal_zero F q0]
  exact codeVal_mono F q0 hc

theorem codeVal_nonneg (F : Nat) (q0 : Int) (c : Nat) : 0 ≤ codeVal F q0 c := by
  rw [← codeVal_zero F q0]
  exact (codeVal_mono F q0).monotone (Nat.zero_le c)

/-- The code of an infinity. -/
theorem Wide.unpack_infMag {F : Fmt} (h : Wide F) (neg : Bool) : F.unpack (F.withSign neg F.infMag) = .inf neg := by
  have hwidth : F.width - 1 = F.fbits + F.ebits := by
    rw [Fmt.width]
    omega
  have hpow : 2 ^ (F.width - 1) = 2 ^ F.fbits * 2 ^ F.ebits := by rw [hwidth, pow_add]
  have hpf : 0 < 2 ^ F.fbits := by positivity
  have hpe : 0 < 2 ^ F.ebits := by positivity
  have hfields : F.withSign neg F.infMag = 2 ^ F.fbits * (neg.toNat * 2 ^ F.ebits + (2 ^ F.ebits - 1)) := by
    rw [Fmt.withSign, Fmt.infMag, hpow]
    ring
  have hex : F.withSign neg F.infMag / 2 ^ F.fbits % 2 ^ F.ebits = 2 ^ F.ebits - 1 := by
    rw [hfields, Nat.mul_div_cancel_left _ hpf, Nat.mul_comm, Nat.mul_add_mod, Nat.mod_eq_of_lt (by omega)]
  have hfr : F.withSign neg F.infMag % 2 ^ F.fbits = 0 := by rw [hfields, Nat.mul_mod_right]
  have hsign : F.withSign neg F.infMag / 2 ^ (F.width - 1) % 2 = neg.toNat := by
    have hlt : F.infMag < 2 ^ (F.width - 1) := by
      rw [Fmt.infMag, hpow, Nat.mul_comm]
      exact Nat.mul_lt_mul_of_pos_left (by omega) hpf
    rw [Fmt.withSign, Nat.mul_comm, Nat.mul_add_div (by positivity), Nat.div_eq_of_lt hlt]
    cases neg <;> rfl
  rw [Fmt.unpack, hex, hfr, hsign, h.ieee]
  cases neg <;> simp

/-- An approximated result is inexact, whatever its magnitude, and has its sign. -/
theorem Wide.approxOut_inexact {F : Fmt} (h : Wide F) (rm : Rm) (sat neg : Bool) (mag : Nat) :
    Inexact F (F.approxOut rm sat neg mag) ∧ (F.unpack (F.approxOut rm sat neg mag).1).neg? = neg := by
  rw [Fmt.approxOut]
  by_cases hmag : mag > F.maxMag
  · obtain ⟨-, hnan, hneg, -⟩ := unpack_signed h.mem neg (le_refl F.maxMag)
    have hinf := h.unpack_infMag neg
    rw [if_pos hmag, Fmt.overflow]
    split
    · exact ⟨⟨rfl, rfl, rfl, hnan⟩, hneg⟩
    · split
      · dsimp only
        rw [if_pos h.ieee]
        exact ⟨⟨rfl, rfl, rfl, by rw [hinf]; rfl⟩, by rw [hinf]; rfl⟩
      · exact ⟨⟨rfl, rfl, rfl, hnan⟩, hneg⟩
  · obtain ⟨-, hnan, hneg, -⟩ := unpack_signed h.mem neg (not_lt.1 hmag)
    rw [if_neg hmag]
    exact ⟨⟨rfl, rfl, rfl, hnan⟩, hneg⟩

/-- A magnitude of M or less is the result as it stands. -/
theorem approxOut_fst {F : Fmt} (rm : Rm) (sat neg : Bool) {mag : Nat} (hmag : mag ≤ F.maxMag) : (F.approxOut rm sat neg mag).1 = F.withSign neg mag := by
  rw [Fmt.approxOut, if_neg (not_lt.2 hmag)]

/-- A magnitude that is not 0 gives a code that is not 0. -/
theorem approxOut_ne_zero {F : Fmt} (h : Wide F) (rm : Rm) (sat : Bool) {mag : Nat} (hmag : 1 ≤ mag) : (F.approxOut rm sat false mag).1 ≠ 0 := by
  have hpf : 0 < 2 ^ F.fbits := by positivity
  have hmax : 1 ≤ F.maxMag := le_trans (Nat.mul_pos (by have := h.room; omega) hpf) h.top
  have hinf : 1 ≤ F.infMag := Nat.mul_pos (by have := h.bias; have := h.room; omega) hpf
  have hsigned : ∀ k, F.withSign false k = k := fun k => by simp [Fmt.withSign]
  rw [Fmt.approxOut]
  split
  · rw [Fmt.overflow]
    split
    · rw [hsigned]
      omega
    · split
      · dsimp only
        rw [if_pos h.ieee, hsigned]
        omega
      · rw [hsigned]
        omega
  · rw [hsigned]
    omega

/-! ### The choice near an enclosed value (R317) -/

/-- The code chosen near an enclosed value: no higher than its cap, and not 0 where the value lies in the format's range. -/
theorem near_eq (F : Fmt) (rm : Rm) (sat neg : Bool) (c k : Nat) (a : Option Int) (cap : Nat) (y : Encl) : ∃ mag ≤ cap,
    (F.magFloor y.lo y.e ≠ 0 → 1 ≤ cap → 1 ≤ mag) ∧ F.near rm sat neg c k a cap y = F.approxOut rm sat neg mag := by
  refine ⟨choose c (min (F.codesNear k a y).1 cap) (min (F.codesNear k a y).2 cap), ?_, fun hlo hcap => ?_, rfl⟩
  · rw [choose]
    have hrem : c % (min (F.codesNear k a y).2 cap - min (F.codesNear k a y).1 cap + 1) <
        min (F.codesNear k a y).2 cap - min (F.codesNear k a y).1 cap + 1 := Nat.mod_lt _ (Nat.succ_pos _)
    omega
  · have hone : 1 ≤ (F.codesNear k a y).1 := by
      rw [Fmt.codesNear]
      dsimp only
      rw [if_neg hlo]
      exact le_max_left _ _
    rw [choose]
    omega

theorem magFloor_ne_zero {F : Fmt} {m : Nat} {e : Int} (hm : m ≠ 0) (h : F.emin - F.fbits ≤ e + Nat.log2 m) : F.magFloor m e ≠ 0 := by
  have hself : 2 ^ Nat.log2 m ≤ m := Nat.log2_self_le hm
  have hq : F.ulpExp m e = max (e + Nat.log2 m) F.emin - F.fbits := if_neg hm
  rw [Fmt.magFloor]
  by_cases hhigh : F.emin - F.fbits < F.ulpExp m e
  · have hfirst : 1 ≤ (F.ulpExp m e - (F.emin - F.fbits)).toNat * 2 ^ F.fbits := Nat.mul_pos (by omega) (by positivity)
    omega
  · have hplace : F.ulpExp m e ≤ e + Nat.log2 m := by omega
    have hsecond : 1 ≤ if F.ulpExp m e ≤ e then m * 2 ^ (e - F.ulpExp m e).toNat else m / 2 ^ min (F.ulpExp m e - e).toNat (Nat.log2 m + 1) := by
      split
      · exact Nat.mul_pos (Nat.pos_of_ne_zero hm) (by positivity)
      · rw [Nat.le_div_iff_mul_le (by positivity), Nat.one_mul]
        exact (Nat.pow_le_pow_right (by norm_num) (by omega)).trans hself
    omega

/-! ### Whole numbers and powers of two, held as they are -/

/-- A whole number of the format's precision is its own result. -/
theorem Wide.round_nat {F : Fmt} (h : Wide F) (rm : Rm) (sat : Bool) (rho : Nat) (neg : Bool) {k : Nat} (hk : k < 2 ^ (F.fbits + 1)) :
    Exactly F ((if neg then -1 else 1) * k) (F.round rm sat rho ⟨neg, k, 0, false⟩) := by
  by_cases hzero : k = 0
  · subst hzero
    obtain ⟨hfin, -, -, hrat⟩ := unpack_signed h.mem neg (Nat.zero_le F.maxMag)
    refine ⟨rfl, hfin, ?_⟩
    change (F.unpack (F.withSign neg 0)).rat = _
    rw [hrat, codeVal_zero, Nat.cast_zero]
  · have hroom := h.room
    have hemin : F.emin = 1 - (F.bias : Int) := rfl
    have hpos : (0 : ℚ) < k := by exact_mod_cast Nat.pos_of_ne_zero hzero
    have habs : |(FVal.fin neg k 0).rat| = k := by simp [abs_rat_fin]
    have hne : (FVal.fin neg k 0).rat ≠ 0 := abs_ne_zero.1 (by simp [habs, hzero])
    have hneg : decide ((FVal.fin neg k 0).rat < 0) = neg := by cases neg <;> simp [FVal.rat, hpos, hpos.le]
    have hr := round_int F h.mem rm sat rho neg k 0 _ rfl neg (fun _ => rfl)
    unfold Rounds at hr
    rw [if_neg hne] at hr
    simp only [habs, hneg] at hr
    obtain ⟨y, u, hy, -, -, hcode⟩ := hr
    have hlog : Int.log 2 (k : ℚ) ≤ F.fbits := by
      rw [Int.log_natCast]
      exact_mod_cast Nat.lt_succ_iff.1 (Nat.log_lt_of_lt_pow hzero hk)
    have hexact : y = k := (roundsAt_whole _ _ _ _ (by omega) _).1 hy
    have hmax : (k : ℚ) ≤ F.maxVal := by
      refine le_trans ?_ (h.two_pow_le_maxVal (j := ((F.fbits + 1 : Nat) : Int)) (by push_cast; omega))
      rw [zpow_natCast]
      exact_mod_cast hk.le
    obtain ⟨code, hle, hval, hres⟩ := hcode (hexact ▸ hmax)
    obtain ⟨hfin, -, -, hrat⟩ := unpack_signed h.mem neg hle
    rw [hres, hexact]
    refine ⟨?_, hfin, ?_⟩
    · simp [Flags.none]
    · dsimp only
      rw [hrat, ← (unpack_code F h.mem code hle).1, hval, hexact]

/-- A code below infinity whose magnitude is known. -/
theorem exactly_code {F : Fmt} (hF : F ∈ fmts) (neg : Bool) {c : Nat} (hc : c ≤ F.maxMag) :
    Exactly F ((if neg then -1 else 1) * codeVal F.fbits (F.emin - F.fbits) c) (F.withSign neg c, Flags.none) := by
  obtain ⟨hfin, -, -, hrat⟩ := unpack_signed hF neg hc
  exact ⟨rfl, hfin, hrat⟩

/-- The codes of 1 and of one half. -/
theorem natMag_one {t : ETy} (ht : t ∈ tyF) : (ETy.fmt t).natMag 1 = ((ETy.fmt t).bias - 1) * 2 ^ (ETy.fmt t).fbits + 2 ^ (ETy.fmt t).fbits ∧
    (ETy.fmt t).pow2Mag (-1) = ((ETy.fmt t).bias - 2) * 2 ^ (ETy.fmt t).fbits + 2 ^ (ETy.fmt t).fbits := by
  simp only [tyF, List.mem_cons, List.not_mem_nil, or_false] at ht
  obtain rfl | rfl | rfl | rfl := ht <;> decide

theorem Wide.codeVal_pow {F : Fmt} (h : Wide F) {j : Nat} (hj : j < 2 * F.bias) :
    codeVal F.fbits (F.emin - F.fbits) (j * 2 ^ F.fbits + 2 ^ F.fbits) = 2 ^ (F.emin + j) ∧ j * 2 ^ F.fbits + 2 ^ F.fbits ≤ F.maxMag := by
  constructor
  · rw [codeVal_mk _ _ _ _ (Nat.pow_le_pow_right (by norm_num) (by omega)) (.inr le_rfl)]
    push_cast
    rw [← zpow_natCast, ← zpow_add₀ (by norm_num)]
    congr 1
    omega
  · refine le_trans ?_ h.top
    rw [← Nat.succ_mul]
    exact Nat.mul_le_mul_right _ hj

theorem one_code {t : ETy} (ht : t ∈ tyF) : codeVal (ETy.fmt t).fbits ((ETy.fmt t).emin - (ETy.fmt t).fbits) ((ETy.fmt t).natMag 1) = 1 ∧
    (ETy.fmt t).natMag 1 ≤ (ETy.fmt t).maxMag := by
  have hw := wide_of_tyF ht
  have hroom := hw.room
  obtain ⟨hval, hle⟩ := hw.codeVal_pow (j := (ETy.fmt t).bias - 1) (by omega)
  have hzero : (ETy.fmt t).emin + (((ETy.fmt t).bias - 1 : Nat) : Int) = 0 := by
    have hemin : (ETy.fmt t).emin = 1 - ((ETy.fmt t).bias : Int) := rfl
    omega
  rw [(natMag_one ht).1, hval, hzero]
  exact ⟨zpow_zero 2, hle⟩

theorem half_code {t : ETy} (ht : t ∈ tyF) : codeVal (ETy.fmt t).fbits ((ETy.fmt t).emin - (ETy.fmt t).fbits) ((ETy.fmt t).pow2Mag (-1)) = 1 / 2 ∧
    (ETy.fmt t).pow2Mag (-1) ≤ (ETy.fmt t).maxMag := by
  have hw := wide_of_tyF ht
  have hroom := hw.room
  obtain ⟨hval, hle⟩ := hw.codeVal_pow (j := (ETy.fmt t).bias - 2) (by omega)
  have hone : (ETy.fmt t).emin + (((ETy.fmt t).bias - 2 : Nat) : Int) = -1 := by
    have hemin : (ETy.fmt t).emin = 1 - ((ETy.fmt t).bias : Int) := rfl
    omega
  rw [(natMag_one ht).2, hval, hone]
  exact ⟨by norm_num, hle⟩

/-- A result of magnitude at most that of 1. -/
theorem withinOne_of_le {t : ETy} (ht : t ∈ tyF) (rm : Rm) (sat neg : Bool) {mag : Nat} (hmag : mag ≤ (ETy.fmt t).natMag 1) :
    WithinOne (ETy.fmt t) ((ETy.fmt t).approxOut rm sat neg mag) := by
  obtain ⟨hone, hle⟩ := one_code ht
  obtain ⟨hfin, -, -, hrat⟩ := unpack_signed (fmt_mem t) neg (hmag.trans hle)
  rw [WithinOne, approxOut_fst rm sat neg (hmag.trans hle)]
  refine ⟨hfin, ?_⟩
  have hnonneg := codeVal_nonneg (ETy.fmt t).fbits ((ETy.fmt t).emin - (ETy.fmt t).fbits) mag
  have hmono := (codeVal_mono (ETy.fmt t).fbits ((ETy.fmt t).emin - (ETy.fmt t).fbits)).monotone hmag
  rw [hone] at hmono
  rw [hrat]
  cases neg <;> simp [abs_of_nonneg hnonneg, hmono]

/-! ### `fexp2` -/

/-- The whole part of a magnitude, as the model takes it: whole where the value is, and below the cap of 2^20. -/
theorem floor_of_int {m : Nat} {e : Int} {k : Nat} (hm : m ≠ 0) (hval : (m : ℚ) * 2 ^ e = k) (hk : k < 2 ^ 20) :
    isIntVal m e = true ∧ ∀ neg, floorVal neg m e = if neg then -(k : Int) else k := by
  by_cases he : 0 ≤ e
  · have hnat : m * 2 ^ e.toNat = k := by
      rw [mul_zpow_eq_natCast m he] at hval
      exact_mod_cast hval
    have htop : ¬ e + (Nat.log2 m : Int) > 20 := by
      intro hgt
      have hself : 2 ^ Nat.log2 m ≤ m := Nat.log2_self_le hm
      have : 2 ^ 20 ≤ m * 2 ^ e.toNat := calc
        2 ^ 20 ≤ 2 ^ (Nat.log2 m + e.toNat) := Nat.pow_le_pow_right (by norm_num) (by omega)
        _ = 2 ^ Nat.log2 m * 2 ^ e.toNat := pow_add _ _ _
        _ ≤ m * 2 ^ e.toNat := Nat.mul_le_mul_right _ hself
      omega
    refine ⟨by simp [isIntVal, he], fun neg => ?_⟩
    rw [floorVal]
    simp only [ge_iff_le, he, if_true, if_neg htop, hnat, show ¬ e < 0 by omega, decide_false, Bool.false_and, Bool.toNat_false]
    simp
  · have hpow : (2 : ℚ) ^ e * 2 ^ (-e).toNat = 1 := by
      rw [← zpow_natCast, ← zpow_add₀ (by norm_num), Int.toNat_of_nonneg (by omega)]
      simp
    have hnat : m = k * 2 ^ (-e).toNat := by
      have : (m : ℚ) = k * 2 ^ (-e).toNat := by rw [← hval, mul_assoc, hpow, mul_one]
      exact_mod_cast this
    have hkpos : 0 < k := Nat.pos_of_ne_zero fun hz => hm (by rw [hnat, hz, Nat.zero_mul])
    have hcap : min (-e).toNat (Nat.log2 m + 1) = (-e).toNat := by
      refine min_eq_left (le_trans ?_ (Nat.le_succ _))
      rw [Nat.le_log2 hm, hnat]
      exact Nat.le_mul_of_pos_left _ hkpos
    have hmod : m % 2 ^ (-e).toNat = 0 := by rw [hnat, Nat.mul_mod_left]
    have hdiv : m / 2 ^ (-e).toNat = k := by rw [hnat, Nat.mul_div_cancel _ (by positivity)]
    refine ⟨by simp [isIntVal, hcap, hmod], fun neg => ?_⟩
    rw [floorVal]
    simp only [ge_iff_le, he, if_false, hcap, hmod, hdiv, ne_eq, not_true_eq_false, decide_false, Bool.and_false, Bool.toNat_false, min_eq_right hk.le]
    simp

/-- A value that the model takes for whole is whole. -/
theorem int_of_isIntVal {m : Nat} {e : Int} (hm : m ≠ 0) (h : isIntVal m e = true) : ∃ k : Nat, (m : ℚ) * 2 ^ e = k := by
  by_cases he : 0 ≤ e
  · exact ⟨_, mul_zpow_eq_natCast m he⟩
  · have hmod : m % 2 ^ min (-e).toNat (Nat.log2 m + 1) = 0 := by simpa [isIntVal, he] using h
    have hcap : min (-e).toNat (Nat.log2 m + 1) = (-e).toNat := by
      by_contra hne
      have hlog : min (-e).toNat (Nat.log2 m + 1) = Nat.log2 m + 1 := by omega
      rw [hlog, Nat.mod_eq_of_lt Nat.lt_log2_self] at hmod
      exact hm hmod
    rw [hcap] at hmod
    obtain ⟨k, hk⟩ := Nat.dvd_of_mod_eq_zero hmod
    refine ⟨k, ?_⟩
    have hpow : (2 : ℚ) ^ (-e).toNat * 2 ^ e = 1 := by
      rw [← zpow_natCast, ← zpow_add₀ (by norm_num), Int.toNat_of_nonneg (by omega)]
      simp
    rw [hk]
    push_cast
    rw [mul_comm ((2 : ℚ) ^ _) (k : ℚ), mul_assoc, hpow, mul_one]

/-- The whole part below a value that is not whole. -/
theorem le_floorVal {neg : Bool} {m : Nat} {e : Int} (hint : isIntVal m e = false) {N : Nat} (hlow : -(N : ℚ) ≤ (FVal.fin neg m e).rat) :
    -(N : Int) ≤ floorVal neg m e := by
  have he : ¬ 0 ≤ e := fun he => by simp [isIntVal, he] at hint
  cases neg with
  | false =>
    have hnonneg : (0 : Int) ≤ floorVal false m e := Int.natCast_nonneg _
    omega
  | true =>
    have hmag : (m : ℚ) * 2 ^ e ≤ N := by
      have : (FVal.fin true m e).rat = -((m : ℚ) * 2 ^ e) := by simp [FVal.rat]
      rw [this] at hlow
      linarith
    have hpow : (2 : ℚ) ^ e * 2 ^ (-e).toNat = 1 := by
      rw [← zpow_natCast, ← zpow_add₀ (by norm_num), Int.toNat_of_nonneg (by omega)]
      simp
    have hle : m ≤ N * 2 ^ (-e).toNat := by
      have : (m : ℚ) ≤ N * 2 ^ (-e).toNat := calc
        (m : ℚ) = m * 2 ^ e * 2 ^ (-e).toNat := by rw [mul_assoc, hpow, mul_one]
        _ ≤ N * 2 ^ (-e).toNat := by gcongr
      exact_mod_cast this
    have hmod : m % 2 ^ min (-e).toNat (Nat.log2 m + 1) ≠ 0 := by
      intro hz
      simp [isIntVal, hz] at hint
    have hquot : m / 2 ^ min (-e).toNat (Nat.log2 m + 1) + 1 ≤ N := by
      by_cases hcap : (-e).toNat ≤ Nat.log2 m + 1
      · rw [min_eq_left hcap] at hmod ⊢
        have hne : m ≠ N * 2 ^ (-e).toNat := fun hz => hmod (by rw [hz, Nat.mul_mod_left])
        exact (Nat.div_lt_iff_lt_mul (by positivity)).2 (lt_of_le_of_ne hle hne)
      · rw [min_eq_right (by omega), Nat.div_eq_of_lt Nat.lt_log2_self]
        by_contra hN
        have hzero : N = 0 := by omega
        rw [hzero, Nat.zero_mul] at hle
        have : m = 0 := by omega
        subst this
        simp at hmod
    rw [floorVal]
    simp only [ge_iff_le, he, if_false, if_true]
    have hfrac : (decide (e < 0) && decide (m % 2 ^ min (-e).toNat (Nat.log2 m + 1) ≠ 0)).toNat ≤ 1 := Bool.toNat_le _
    omega

/-- The code of a power of two that a format holds. -/
theorem codeVal_magFloor_pow {F : Fmt} {n : Int} (hlow : F.emin - F.fbits ≤ n) :
    codeVal F.fbits (F.emin - F.fbits) (F.magFloor 1 n) = 2 ^ n := by
  have hq : F.ulpExp 1 n = max n F.emin - F.fbits := by
    have hlog : Nat.log2 1 = 0 := by decide
    simp [Fmt.ulpExp, hlog]
  have hle : F.ulpExp 1 n ≤ n := by omega
  have hcode : F.magFloor 1 n = (F.ulpExp 1 n - (F.emin - F.fbits)).toNat * 2 ^ F.fbits + 2 ^ (n - F.ulpExp 1 n).toNat := by
    rw [Fmt.magFloor, if_pos hle, Nat.one_mul]
  rw [hcode, codeVal_mk _ _ _ _ (Nat.pow_le_pow_right (by norm_num) (by omega))]
  · push_cast
    rw [← zpow_natCast, ← zpow_add₀ (by norm_num)]
    congr 1
    omega
  · by_cases hhigh : n ≤ F.emin
    · exact .inl (by omega)
    · exact .inr (Nat.pow_le_pow_right (by norm_num) (by omega))

/-- A power of two that a format holds lies below 2^20 in its exponent. -/
theorem Wide.exp_lt {F : Fmt} (h : Wide F) (hb : F.bias < 2 ^ 10) {n : Int} (hlow : F.emin - F.fbits ≤ n) (hmax : (2 : ℚ) ^ n ≤ F.maxVal) :
    n.natAbs < 2 ^ 20 := by
  have hroom := h.room
  have hemin : F.emin = 1 - (F.bias : Int) := rfl
  have hover : F.maxVal < 2 ^ ((F.bias : Int) + 1) := by
    have hmag : F.maxMag < 2 * F.bias * 2 ^ F.fbits + 2 ^ F.fbits := by
      have hpos : 0 < 2 ^ F.fbits := by positivity
      rw [Fmt.maxMag, h.ieee]
      dsimp only
      rw [h.bias, ← Nat.succ_mul, Nat.succ_eq_add_one, show 2 * F.bias + 2 - 1 = 2 * F.bias + 1 by omega]
      have : 0 < (2 * F.bias + 1) * 2 ^ F.fbits := by positivity
      omega
    have hval : codeVal F.fbits (F.emin - F.fbits) (2 * F.bias * 2 ^ F.fbits + 2 ^ F.fbits) = 2 ^ ((F.bias : Int) + 1) := by
      rw [codeVal_mk _ _ _ _ (Nat.pow_le_pow_right (by norm_num) (by omega)) (.inr le_rfl)]
      push_cast
      rw [← zpow_natCast, ← zpow_add₀ (by norm_num)]
      congr 1
      omega
    rw [← hval, Fmt.maxVal, (unpack_code F h.mem _ le_rfl).1]
    exact codeVal_mono _ _ hmag
  have hn : n < F.bias + 1 := (zpow_lt_zpow_iff_right₀ (by norm_num : (1 : ℚ) < 2)).1 (hmax.trans_lt hover)
  omega

/-- A whole value's magnitude. -/
theorem natAbs_of_rat {neg : Bool} {m : Nat} {e n : Int} (hn : (FVal.fin neg m e).rat = n) :
    ∃ k : Nat, (m : ℚ) * 2 ^ e = k ∧ n = if neg then -(k : Int) else k := by
  have hpos : (0 : ℚ) ≤ (m : ℚ) * 2 ^ e := by positivity
  cases neg with
  | false =>
    have hrat : (FVal.fin false m e).rat = (m : ℚ) * 2 ^ e := by simp [FVal.rat]
    rw [hrat] at hn
    have hn0 : 0 ≤ n := by
      rw [hn] at hpos
      exact_mod_cast hpos
    refine ⟨n.toNat, ?_, by simp [hn0]⟩
    rw [hn]
    exact_mod_cast (Int.toNat_of_nonneg hn0).symm
  | true =>
    have hrat : (FVal.fin true m e).rat = -((m : ℚ) * 2 ^ e) := by simp [FVal.rat]
    rw [hrat] at hn
    have hneg : (m : ℚ) * 2 ^ e = ((-n : Int) : ℚ) := by
      push_cast
      linarith
    have hn0 : 0 ≤ -n := by
      rw [hneg] at hpos
      exact_mod_cast hpos
    refine ⟨(-n).toNat, ?_, by simp; omega⟩
    rw [hneg]
    exact_mod_cast (Int.toNat_of_nonneg hn0).symm

theorem bias_lt {t : ETy} (ht : t ∈ tyF) : (ETy.fmt t).bias < 2 ^ 10 := by
  simp only [tyF, List.mem_cons, List.not_mem_nil, or_false] at ht
  obtain rfl | rfl | rfl | rfl := ht <;> decide

/-- The enclosure of a power of two that is not whole lies between two whole powers. -/
theorem enclExp2_above (neg : Bool) (m : Nat) (e : Int) : fxOne ≤ (enclExp2 neg m e).lo ∧ (enclExp2 neg m e).e = floorVal neg m e - 256 := by
  unfold enclExp2
  dsimp only
  exact ⟨le_max_left _ _, rfl⟩

section
variable {t : ETy} {c : RCtx} {v : Nat} {neg : Bool} {m : Nat} {e : Int}

/-- `fexp2` of a whole number whose power of two the format holds. -/
theorem fexp2Lane_whole (ht : t ∈ tyF) (hv : (ETy.fmt t).unpack v = .fin neg m e) {n : Int} (hn : (FVal.fin neg m e).rat = n)
    (hlow : (ETy.fmt t).emin - (ETy.fmt t).fbits ≤ n) (hmax : (2 : ℚ) ^ n ≤ (ETy.fmt t).maxVal) : Exactly (ETy.fmt t) ((2 : ℚ) ^ n) (fexp2Lane t c v) := by
  have hw := wide_of_tyF ht
  by_cases hm : m = 0
  · have hlane : fexp2Lane t c v = (ETy.fmt t).round c.rm c.sat 0 ⟨false, 1, 0, false⟩ := by
      rw [fexp2Lane, hv]
      exact if_pos hm
    have hn0 : n = 0 := by
      have hzero : (FVal.fin neg m e).rat = 0 := by simp [FVal.rat, hm]
      rw [hzero] at hn
      exact_mod_cast hn.symm
    have h := hw.round_nat c.rm c.sat 0 false (k := 1) (Nat.one_lt_two_pow (by omega))
    rw [hlane, hn0]
    simpa using h
  · obtain ⟨k, hk, hkn⟩ := natAbs_of_rat hn
    have hsmall := hw.exp_lt (bias_lt ht) hlow hmax
    obtain ⟨hint, hfloor⟩ := floor_of_int hm hk (k := k) (by cases neg <;> simp at hkn <;> omega)
    have hfl : floorVal neg m e = n := (hfloor neg).trans hkn.symm
    have hval := codeVal_magFloor_pow hlow
    have hpos : 0 < (ETy.fmt t).magFloor 1 n := by
      by_contra hz
      rw [Nat.eq_zero_of_not_pos hz, codeVal_zero] at hval
      exact absurd hval (by positivity)
    have hle : (ETy.fmt t).magFloor 1 n ≤ (ETy.fmt t).maxMag := by
      rw [← (codeVal_mono (ETy.fmt t).fbits ((ETy.fmt t).emin - (ETy.fmt t).fbits)).le_iff_le, hval, ← (unpack_code _ hw.mem _ le_rfl).1]
      exact hmax
    have hlane : fexp2Lane t c v = ((ETy.fmt t).magFloor 1 n, Flags.none) := by
      rw [fexp2Lane, hv]
      dsimp only
      rw [if_neg hm, hint, hfl]
      exact if_pos (by simp [hpos, hle])
    have h := exactly_code hw.mem false hle
    rw [hlane, ← hval]
    simpa [Fmt.withSign] using h

/-- `fexp2` of a value that is not whole: not 0 within the format's range. -/
theorem fexp2Lane_between (ht : t ∈ tyF) (hv : (ETy.fmt t).unpack v = .fin neg m e) (hne : ∀ n : ℤ, (FVal.fin neg m e).rat ≠ n) :
    Inexact (ETy.fmt t) (fexp2Lane t c v) ∧ ((ETy.fmt t).unpack (fexp2Lane t c v).1).neg? = false ∧
      (((ETy.fmt t).emin : ℚ) - (ETy.fmt t).fbits ≤ (FVal.fin neg m e).rat → (fexp2Lane t c v).1 ≠ 0) := by
  have hw := wide_of_tyF ht
  have hm : m ≠ 0 := fun hz => hne 0 (by simp [FVal.rat, hz])
  have hint : isIntVal m e = false := by
    by_contra hi
    obtain ⟨k, hk⟩ := int_of_isIntVal hm (Bool.eq_true_of_not_eq_false hi)
    refine hne ((if neg then -1 else 1) * k) ?_
    rw [FVal.rat, mul_assoc, hk]
    cases neg <;> simp
  obtain ⟨mag, -, hone, hnear⟩ := near_eq (ETy.fmt t) c.rm c.sat false (Config.approx .exp2 t c.rm c.sat v) (ulpsOf t) none
    ((ETy.fmt t).magFloor (enclExp2 neg m e).hi (enclExp2 neg m e).e + 4) (enclExp2 neg m e)
  have hlane : fexp2Lane t c v = (ETy.fmt t).approxOut c.rm c.sat false mag := by
    rw [fexp2Lane, hv]
    dsimp only
    rw [if_neg hm]
    simp only [hint, Bool.false_and, Bool.false_eq_true, if_false]
    exact hnear
  obtain ⟨hinexact, hsign⟩ := hw.approxOut_inexact c.rm c.sat false mag
  rw [hlane]
  refine ⟨hinexact, hsign, fun hlow => ?_⟩
  have hroom := hw.room
  have hemin : (ETy.fmt t).emin = 1 - ((ETy.fmt t).bias : Int) := rfl
  have hfloor := le_floorVal hint (N := (ETy.fmt t).bias - 1 + (ETy.fmt t).fbits) (by
    refine le_trans (le_of_eq ?_) hlow
    rw [hemin]
    push_cast [Nat.cast_sub (show 1 ≤ (ETy.fmt t).bias by omega)]
    ring)
  obtain ⟨hbig, hexp⟩ := enclExp2_above neg m e
  generalize enclExp2 neg m e = y at hbig hexp hone
  have hpow : 2 ^ 256 ≤ y.lo := hbig
  have hlo : y.lo ≠ 0 := fun hz => by
    rw [hz] at hpow
    exact absurd hpow (by norm_num)
  have hlog : 256 ≤ Nat.log2 y.lo := (Nat.le_log2 hlo).2 hpow
  have hmag : 1 ≤ mag := hone (magFloor_ne_zero hlo (by omega)) (by omega)
  exact approxOut_ne_zero hw c.rm c.sat hmag

end

/-! ### `flog2` -/

/-- The bits taken are added below those there were. -/
theorem fxLog2From_bounds (N z acc : Nat) : acc * 2 ^ N ≤ fxLog2From N z acc ∧ fxLog2From N z acc + 1 ≤ (acc + 1) * 2 ^ N := by
  induction N generalizing z acc with
  | zero => simp [fxLog2From]
  | succ N ih =>
    have hpow : 2 ^ (N + 1) = 2 * 2 ^ N := pow_succ' 2 N
    rw [fxLog2From]
    split
    · obtain ⟨hlo, hhi⟩ := ih (z * z / fxOne / 2) (2 * acc + 1)
      constructor <;> nlinarith
    · obtain ⟨hlo, hhi⟩ := ih (z * z / fxOne) (2 * acc)
      constructor <;> nlinarith

theorem fxOne_pos : 0 < fxOne := Nat.two_pow_pos 256

theorem fxOne_eq {j : Nat} (hj : j ≤ 256) : fxOne = 2 ^ (256 - j) * 2 ^ j := by
  rw [← pow_add, Nat.sub_add_cancel hj]
  rfl

/-- A value above 1 by one part in 2^j has a bit of its logarithm set, at the latest at place j. -/
theorem fxLog2From_lower {j : Nat} (hj : j < 256) {N z : Nat} (acc : Nat) (hN : j + 1 ≤ N) (hz : fxOne + 2 ^ (256 - (j + 1)) ≤ z) :
    acc * 2 ^ N + 2 ^ (N - (j + 1)) ≤ fxLog2From N z acc := by
  induction j generalizing N z acc with
  | zero =>
    obtain ⟨N, rfl⟩ : ∃ n, N = n + 1 := ⟨N - 1, by omega⟩
    have hone := fxOne_eq (j := 1) (by norm_num)
    have htwice : 2 * fxOne ≤ z * z / fxOne := by
      rw [Nat.le_div_iff_mul_le fxOne_pos]
      nlinarith
    have hpow : 2 ^ (N + 1) = 2 * 2 ^ N := pow_succ' 2 N
    obtain ⟨hlo, -⟩ := fxLog2From_bounds N (z * z / fxOne / 2) (2 * acc + 1)
    rw [fxLog2From]
    rw [if_pos htwice, Nat.zero_add, Nat.add_sub_cancel]
    nlinarith
  | succ j ih =>
    obtain ⟨N, rfl⟩ : ∃ n, N = n + 1 := ⟨N - 1, by omega⟩
    have hstep : 2 ^ (256 - (j + 1)) = 2 * 2 ^ (256 - (j + 1 + 1)) := by
      rw [← pow_succ']
      congr 1
      omega
    have hsquare : fxOne + 2 ^ (256 - (j + 1)) ≤ z * z / fxOne := by
      rw [Nat.le_div_iff_mul_le fxOne_pos, hstep]
      have hmul := Nat.mul_le_mul hz hz
      generalize fxOne = F at hmul ⊢
      generalize 2 ^ (256 - (j + 1 + 1)) = d at hmul ⊢
      nlinarith
    have hpow : 2 ^ (N + 1) = 2 * 2 ^ N := pow_succ' 2 N
    have hplace : 2 ^ (N + 1 - (j + 1 + 1)) = 2 ^ (N - (j + 1)) := by
      congr 1
      omega
    rw [fxLog2From, hplace]
    split
    · obtain ⟨hlo, -⟩ := fxLog2From_bounds N (z * z / fxOne / 2) (2 * acc + 1)
      have hle : 2 ^ (N - (j + 1)) ≤ 2 ^ N := Nat.pow_le_pow_right (by norm_num) (by omega)
      nlinarith
    · have h := ih (by omega) (N := N) (2 * acc) (by omega) hsquare
      nlinarith

/-- A value below 2 by one part in 2^j has a bit of its logarithm clear, at the latest at place j. -/
theorem fxLog2From_upper {j N z : Nat} (acc : Nat) (hN : j + 1 ≤ N) (hz : z * (2 ^ j + 1) ≤ 2 * fxOne * 2 ^ j) :
    fxLog2From N z acc + 2 ^ (N - (j + 1)) ≤ (acc + 1) * 2 ^ N := by
  induction j generalizing N z acc with
  | zero =>
    obtain ⟨N, rfl⟩ : ∃ n, N = n + 1 := ⟨N - 1, by omega⟩
    have hsmall : ¬ z * z / fxOne ≥ 2 * fxOne := by
      rw [ge_iff_le, Nat.le_div_iff_mul_le fxOne_pos, not_le]
      have hone := fxOne_pos
      have hle : z ≤ fxOne := by omega
      nlinarith
    have hpow : 2 ^ (N + 1) = 2 * 2 ^ N := pow_succ' 2 N
    obtain ⟨-, hhi⟩ := fxLog2From_bounds N (z * z / fxOne) (2 * acc)
    rw [fxLog2From]
    rw [if_neg hsmall, Nat.zero_add, Nat.add_sub_cancel]
    nlinarith
  | succ j ih =>
    obtain ⟨N, rfl⟩ : ∃ n, N = n + 1 := ⟨N - 1, by omega⟩
    have hpow : 2 ^ (N + 1) = 2 * 2 ^ N := pow_succ' 2 N
    have hplace : 2 ^ (N + 1 - (j + 1 + 1)) = 2 ^ (N - (j + 1)) := by
      congr 1
      omega
    rw [fxLog2From, hplace]
    split
    · have hhalf : z * z / fxOne / 2 * (2 ^ j + 1) ≤ 2 * fxOne * 2 ^ j := by
        have hpos := fxOne_pos
        have hp : 0 < 2 ^ j := by positivity
        have hdiv := Nat.div_mul_le_self (z * z) fxOne
        have htwo := Nat.div_mul_le_self (z * z / fxOne) 2
        have hmul := Nat.mul_le_mul hz hz
        rw [pow_succ'] at hmul
        generalize z * z / fxOne = D at hdiv htwo ⊢
        generalize D / 2 = H at htwo ⊢
        generalize fxOne = F at hdiv hmul hpos ⊢
        generalize 2 ^ j = P at hmul hp ⊢
        have hsquares : z * z * (P + 1) ≤ 4 * F * F * P := by
          refine Nat.le_of_mul_le_mul_left (c := 4 * P) ?_ (by omega)
          nlinarith
        have hD : D * (P + 1) ≤ 4 * F * P := by
          refine Nat.le_of_mul_le_mul_left (c := F) ?_ hpos
          nlinarith
        nlinarith
      have h := ih (N := N) (2 * acc + 1) (by omega) hhalf
      nlinarith
    · obtain ⟨-, hhi⟩ := fxLog2From_bounds N (z * z / fxOne) (2 * acc)
      have hle : 2 ^ (N - (j + 1)) ≤ 2 ^ N := Nat.pow_le_pow_right (by norm_num) (by omega)
      nlinarith

/-- The enclosure of a logarithm that is not whole does not reach 0: it is at least one part in 2^(p + 2) from every whole number. -/
theorem enclLog2_above {m L : Nat} {e : Int} (hm : m ≠ 0) (hL : Nat.log2 m = L) (hbits : L ≤ 52) (hpow : isPow2 m = false) :
    2 ^ (197 - L) ≤ (enclLog2 m e).lo ∧ (enclLog2 m e).e = -200 := by
  have hself : 2 ^ L < m := by
    refine lt_of_le_of_ne (hL ▸ Nat.log2_self_le hm) fun heq => ?_
    simp [isPow2, hL, heq] at hpow
  have hnext : m + 1 ≤ 2 ^ (L + 1) := hL ▸ Nat.lt_log2_self
  have hL1 : 1 ≤ L := by
    by_contra hz
    have : L = 0 := by omega
    subst this
    omega
  have hz : m * 2 ^ 256 / 2 ^ L = m * 2 ^ (256 - L) := by
    have hsplit : 2 ^ 256 = 2 ^ (256 - L) * 2 ^ L := by
      rw [← pow_add, Nat.sub_add_cancel (by omega)]
    rw [hsplit, ← mul_assoc, Nat.mul_div_cancel _ (by positivity)]
  have hone : fxOne = 2 ^ (256 - L) * 2 ^ L := fxOne_eq (by omega)
  have hlower : 2 ^ (200 - L) ≤ fxLog2From 200 (m * 2 ^ 256 / 2 ^ L) 0 := by
    have h := fxLog2From_lower (j := L - 1) (by omega) (N := 200) (z := m * 2 ^ (256 - L)) 0 (by omega) (by
      rw [hone, Nat.sub_add_cancel hL1]
      nlinarith [Nat.two_pow_pos (256 - L)])
    rwa [Nat.zero_mul, Nat.zero_add, Nat.sub_add_cancel hL1, ← hz] at h
  have hupper : fxLog2From 200 (m * 2 ^ 256 / 2 ^ L) 0 + 2 ^ (200 - (L + 2)) ≤ 2 ^ 200 := by
    have h := fxLog2From_upper (j := L + 1) (N := 200) (z := m * 2 ^ (256 - L)) 0 (by omega) (by
      rw [hone]
      have hpos := Nat.two_pow_pos (256 - L)
      have hm2 : m * (2 ^ (L + 1) + 1) ≤ 2 ^ (L + 1) * 2 ^ (L + 1) := by
        calc m * (2 ^ (L + 1) + 1) ≤ (2 ^ (L + 1) - 1) * (2 ^ (L + 1) + 1) := Nat.mul_le_mul_right _ (by omega)
          _ ≤ 2 ^ (L + 1) * 2 ^ (L + 1) := by
            obtain ⟨a, ha⟩ : ∃ a, 2 ^ (L + 1) = a + 1 := ⟨2 ^ (L + 1) - 1, by omega⟩
            rw [ha]
            simp only [Nat.add_sub_cancel]
            nlinarith
      calc m * 2 ^ (256 - L) * (2 ^ (L + 1) + 1) = 2 ^ (256 - L) * (m * (2 ^ (L + 1) + 1)) := by ring
        _ ≤ 2 ^ (256 - L) * (2 ^ (L + 1) * 2 ^ (L + 1)) := Nat.mul_le_mul_left _ hm2
        _ = 2 * (2 ^ (256 - L) * 2 ^ L) * 2 ^ (L + 1) := by ring)
    rw [← hz] at h
    simpa using h
  have hdouble : 2 ^ (200 - (L + 2)) = 2 * 2 ^ (197 - L) := by
    rw [← pow_succ']
    congr 1
    omega
  have hmore : 2 ^ (200 - (L + 2)) ≤ 2 ^ (200 - L) := Nat.pow_le_pow_right (by norm_num) (by omega)
  have hsmall : 2 ^ 8 ≤ 2 ^ (197 - L) := Nat.pow_le_pow_right (by norm_num) (by omega)
  unfold enclLog2
  dsimp only
  rw [hL]
  generalize fxLog2From 200 (m * 2 ^ 256 / 2 ^ L) 0 = l at hlower hupper ⊢
  refine ⟨?_, rfl⟩
  have hv : 2 ^ (200 - (L + 2)) ≤ if e + (L : Int) ≥ 0 then (e + (L : Int)).toNat * 2 ^ 200 + l else (-(e + (L : Int))).toNat * 2 ^ 200 - l := by
    split
    · omega
    next hneg =>
      have hle : 2 ^ 200 ≤ (-(e + (L : Int))).toNat * 2 ^ 200 := Nat.le_mul_of_pos_left _ (by omega)
      omega
  omega

/-- `flog2` of a positive power of two is its exponent. -/
theorem flog2Lane_pow {t : ETy} (ht : t ∈ tyF) (c : RCtx) {v m : Nat} {e n : Int} (hm : m ≠ 0) (hv : (ETy.fmt t).unpack v = .fin false m e)
    (hn : (FVal.fin false m e).rat = (2 : ℚ) ^ n) : Exactly (ETy.fmt t) n (flog2Lane t c v) := by
  have hw := wide_of_tyF ht
  have hrat : (FVal.fin false m e).rat = (m : ℚ) * 2 ^ e := by simp [FVal.rat]
  have htop : e + (Nat.log2 m : Int) = n := by
    have hlog := log_mag m e hm 0 le_rfl one_pos
    rw [add_zero, ← hrat, hn] at hlog
    rw [← hlog]
    exact_mod_cast Int.log_zpow (R := ℚ) (by norm_num : 1 < 2) n
  have hpow : isPow2 m = true := by
    have hsig : (m : ℚ) = ((2 ^ Nat.log2 m : Nat) : ℚ) := by
      have hsplit : (2 : ℚ) ^ n = 2 ^ Nat.log2 m * 2 ^ e := by
        rw [← htop, add_comm, zpow_add₀ (by norm_num), zpow_natCast]
      have hpos : (0 : ℚ) < 2 ^ e := by positivity
      rw [hrat, hsplit] at hn
      rw [mul_right_cancel₀ hpos.ne' hn]
      push_cast
      rfl
    rw [isPow2, decide_eq_true_eq]
    exact_mod_cast hsig
  obtain ⟨hlt, hlo, hhi⟩ := hw.unpack_bounds hv
  have hlog : Nat.log2 m < (ETy.fmt t).fbits + 1 := (Nat.log2_lt hm).2 hlt
  have hfits : (ETy.fmt t).bias + (ETy.fmt t).fbits < 2 ^ ((ETy.fmt t).fbits + 1) := by
    simp only [tyF, List.mem_cons, List.not_mem_nil, or_false] at ht
    obtain rfl | rfl | rfl | rfl := ht <;> decide
  have hlane : flog2Lane t c v = (ETy.fmt t).round .rne false 0 ⟨decide (n < 0), n.natAbs, 0, false⟩ := by
    rw [flog2Lane, hv]
    dsimp only
    rw [if_neg hm, if_neg Bool.false_ne_true, htop, if_pos hpow]
  have h := hw.round_nat .rne false 0 (decide (n < 0)) (k := n.natAbs) (by omega)
  have hvalue : (if decide (n < 0) then (-1 : ℚ) else 1) * (n.natAbs : ℚ) = n := by
    by_cases hneg : n < 0
    · have habs : ((n.natAbs : Nat) : Int) = -n := by omega
      rw [decide_eq_true hneg, if_pos rfl, ← Int.cast_natCast, habs]
      push_cast
      ring
    · have habs : ((n.natAbs : Nat) : Int) = n := by omega
      rw [decide_eq_false hneg, if_neg Bool.false_ne_true, ← Int.cast_natCast, habs, one_mul]
  rw [hlane, ← hvalue]
  exact h

/-- `flog2` of any other positive value: inexact, and not 0. -/
theorem flog2Lane_between {t : ETy} (ht : t ∈ tyF) (c : RCtx) {v m : Nat} {e : Int} (hm : m ≠ 0) (hv : (ETy.fmt t).unpack v = .fin false m e)
    (hne : ∀ n : ℤ, (FVal.fin false m e).rat ≠ (2 : ℚ) ^ n) : Inexact (ETy.fmt t) (flog2Lane t c v) ∧
      ((ETy.fmt t).unpack (flog2Lane t c v).1).neg? = decide ((FVal.fin false m e).rat < 1) ∧ ((ETy.fmt t).unpack (flog2Lane t c v).1).isZero = false := by
  have hw := wide_of_tyF ht
  have hroom := hw.room
  have hfrac := hw.frac
  have hemin : (ETy.fmt t).emin = 1 - ((ETy.fmt t).bias : Int) := rfl
  have hrat : (FVal.fin false m e).rat = (m : ℚ) * 2 ^ e := by simp [FVal.rat]
  have hpos : (0 : ℚ) < (m : ℚ) * 2 ^ e := mul_pos (by exact_mod_cast Nat.pos_of_ne_zero hm) (by positivity)
  obtain ⟨hlt, -, -⟩ := hw.unpack_bounds hv
  have hlog : Nat.log2 m < (ETy.fmt t).fbits + 1 := (Nat.log2_lt hm).2 hlt
  have hpow : isPow2 m = false := by
    by_contra hp
    have hsig : m = 2 ^ Nat.log2 m := by simpa [isPow2] using Bool.eq_true_of_not_eq_false hp
    refine hne (Nat.log2 m + e) ?_
    rw [hrat, zpow_add₀ (by norm_num), zpow_natCast]
    congr 1
    exact_mod_cast hsig
  obtain ⟨hlo, hexp⟩ := enclLog2_above (e := e) hm rfl (by omega) hpow
  obtain ⟨mag, hcap, hone, hnear⟩ := near_eq (ETy.fmt t) c.rm c.sat (decide (e + (Nat.log2 m : Int) < 0)) (Config.approx .log2 t c.rm c.sat v) (ulpsOf t)
    (absBound (ETy.fmt t) 2) (ETy.fmt t).maxMag (enclLog2 m e)
  have hlane : flog2Lane t c v = (ETy.fmt t).approxOut c.rm c.sat (decide (e + (Nat.log2 m : Int) < 0)) mag := by
    rw [flog2Lane, hv]
    dsimp only
    rw [if_neg hm, if_neg Bool.false_ne_true, if_neg (by rw [hpow]; exact Bool.false_ne_true)]
    exact hnear
  generalize enclLog2 m e = y at hlo hexp hone
  have hylo : y.lo ≠ 0 := by
    have : 0 < 2 ^ (197 - Nat.log2 m) := by positivity
    omega
  have hylog : 197 - Nat.log2 m ≤ Nat.log2 y.lo := (Nat.le_log2 hylo).2 hlo
  have hmax : 1 ≤ (ETy.fmt t).maxMag := le_trans (Nat.mul_pos (by omega) (by positivity)) hw.top
  have hmag : 1 ≤ mag := hone (magFloor_ne_zero hylo (by omega)) hmax
  obtain ⟨hinexact, hsign⟩ := hw.approxOut_inexact c.rm c.sat (decide (e + (Nat.log2 m : Int) < 0)) mag
  have hbelow : e + (Nat.log2 m : Int) < 0 ↔ (FVal.fin false m e).rat < 1 := by
    have hloge := log_mag m e hm 0 le_rfl one_pos
    rw [add_zero] at hloge
    have hz := Int.lt_zpow_iff_log_lt (b := 2) (by norm_num) hpos (x := 0)
    rw [hloge, zpow_zero] at hz
    rw [hrat]
    exact hz.symm
  rw [hlane]
  refine ⟨hinexact, hsign.trans (decide_eq_decide.2 hbelow), ?_⟩
  rw [approxOut_fst _ _ _ hcap]
  obtain ⟨m', e', hfin, hsigned⟩ := unpack_withSign (ETy.fmt t) hw.mem (decide (e + (Nat.log2 m : Int) < 0)) hcap
  rw [hsigned]
  have hvpos := codeVal_pos (F := (ETy.fmt t).fbits) (q0 := (ETy.fmt t).emin - (ETy.fmt t).fbits) hmag
  rw [← (unpack_code _ hw.mem mag hcap).1, hfin] at hvpos
  refine decide_eq_false fun hz => ?_
  simp [FVal.rat, hz] at hvpos

/-! ### The bounded functions -/

/-- A value chosen no higher than the code of 1: inexact, of its sign, and of magnitude at most 1. -/
theorem near_within {t : ETy} (ht : t ∈ tyF) (rm : Rm) (sat neg : Bool) (c k : Nat) (a : Option Int) (y : Encl) :
    let r := (ETy.fmt t).near rm sat neg c k a ((ETy.fmt t).natMag 1) y
    Inexact (ETy.fmt t) r ∧ WithinOne (ETy.fmt t) r ∧ ((ETy.fmt t).unpack r.1).neg? = neg := by
  obtain ⟨mag, hmag, -, hnear⟩ := near_eq (ETy.fmt t) rm sat neg c k a ((ETy.fmt t).natMag 1) y
  obtain ⟨hinexact, hsign⟩ := (wide_of_tyF ht).approxOut_inexact rm sat neg mag
  rw [hnear]
  exact ⟨hinexact, withinOne_of_le ht rm sat neg hmag, hsign⟩

/-- The code of 1, with its sign, and that of one half are exact. -/
theorem exactly_one {t : ETy} (ht : t ∈ tyF) (neg : Bool) :
    Exactly (ETy.fmt t) (if neg then -1 else 1) ((ETy.fmt t).withSign neg ((ETy.fmt t).natMag 1), Flags.none) := by
  have h := exactly_code (fmt_mem t) neg (one_code ht).2
  rwa [(one_code ht).1, mul_one] at h

theorem withSign_false (F : Fmt) (c : Nat) : F.withSign false c = c := by simp [Fmt.withSign]

theorem exactly_half {t : ETy} (ht : t ∈ tyF) : Exactly (ETy.fmt t) (1 / 2) ((ETy.fmt t).pow2Mag (-1), Flags.none) := by
  have h := exactly_code (fmt_mem t) false (half_code ht).2
  rwa [(half_code ht).1, withSign_false, if_neg Bool.false_ne_true, one_mul] at h

theorem rat_eq_zero {neg : Bool} {m : Nat} {e : Int} : (FVal.fin neg m e).rat = 0 ↔ m = 0 := by
  cases neg <;> simp [FVal.rat, zpow_ne_zero]

theorem rat_neg_iff {neg : Bool} {m : Nat} {e : Int} (hm : m ≠ 0) : (FVal.fin neg m e).rat < 0 ↔ neg = true := by
  have hpos : (0 : ℚ) < m * 2 ^ e := mul_pos (by exact_mod_cast Nat.pos_of_ne_zero hm) (by positivity)
  cases neg <;> simp [FVal.rat, hpos, hpos.le]

/-! ### The lanes -/

theorem signed_lt {t : ETy} (neg : Bool) {c : Nat} (hc : c ≤ (ETy.fmt t).maxMag) : (ETy.fmt t).withSign neg c < 2 ^ (ETy.fmt t).width :=
  withSign_lt _ (fmt_mem t) _ _ (hc.trans_lt (code_lt _ (fmt_mem t)).1)

theorem magnitude_lt {t : ETy} {c : Nat} (hc : c ≤ (ETy.fmt t).maxMag) : c < 2 ^ (ETy.fmt t).width := by
  have h := signed_lt (t := t) false hc
  rwa [withSign_false] at h

theorem near_lt (t : ETy) (rm : Rm) (sat neg : Bool) (c k : Nat) (a : Option Int) (cap : Nat) (y : Encl) :
    ((ETy.fmt t).near rm sat neg c k a cap y).1 < 2 ^ (ETy.fmt t).width := approxOut_lt (fmt_mem t) _ _ _ _

theorem fexp2Lane_lt (t : ETy) (c : RCtx) (v : Nat) : (fexp2Lane t c v).1 < 2 ^ (ETy.fmt t).width := by
  rw [fexp2Lane]
  cases (ETy.fmt t).unpack v with
  | nan s => exact canonNan_lt t
  | inf n =>
    cases n
    · exact infinite_lt _ (fmt_mem t) _ _
    · exact Nat.two_pow_pos _
  | fin n m e =>
    dsimp only
    split
    · exact round_lt _ (fmt_mem t) _ _ _ _
    · split
      next h =>
        simp only [Bool.and_eq_true, decide_eq_true_eq] at h
        exact magnitude_lt h.2
      · exact near_lt t _ _ _ _ _ _ _ _

theorem flog2Lane_lt (t : ETy) (c : RCtx) (v : Nat) : (flog2Lane t c v).1 < 2 ^ (ETy.fmt t).width := by
  rw [flog2Lane]
  cases (ETy.fmt t).unpack v with
  | nan s => exact canonNan_lt t
  | inf n =>
    cases n
    · exact infinite_lt _ (fmt_mem t) _ _
    · exact canonNan_lt t
  | fin n m e =>
    dsimp only
    split
    · exact infinite_lt _ (fmt_mem t) _ _
    · split
      · exact canonNan_lt t
      · split
        · exact round_lt _ (fmt_mem t) _ _ _ _
        · exact near_lt t _ _ _ _ _ _ _ _

theorem ftanhLane_lt {t : ETy} (ht : t ∈ tyF) (c : RCtx) {v : Nat} (hv : v < 2 ^ (ETy.fmt t).width) :
    (ftanhLane t c v).1 < 2 ^ (ETy.fmt t).width := by
  rw [ftanhLane]
  cases (ETy.fmt t).unpack v with
  | nan s => exact canonNan_lt t
  | inf n => exact signed_lt n (one_code ht).2
  | fin n m e =>
    dsimp only
    split
    · exact hv
    · exact near_lt t _ _ _ _ _ _ _ _

theorem ftrigLane_lt {t : ETy} (ht : t ∈ tyF) (isCos : Bool) (c : RCtx) {v : Nat} (hv : v < 2 ^ (ETy.fmt t).width) :
    (ftrigLane isCos t c v).1 < 2 ^ (ETy.fmt t).width := by
  rw [ftrigLane]
  cases (ETy.fmt t).unpack v with
  | nan s => exact canonNan_lt t
  | inf n => exact canonNan_lt t
  | fin n m e =>
    dsimp only
    split
    · cases isCos
      · exact hv
      · exact magnitude_lt (one_code ht).2
    · exact near_lt t _ _ _ _ _ _ _ _

theorem fsigLane_lt {t : ETy} (ht : t ∈ tyF) (c : RCtx) (v : Nat) : (fsigLane t c v).1 < 2 ^ (ETy.fmt t).width := by
  rw [fsigLane]
  cases (ETy.fmt t).unpack v with
  | nan s => exact canonNan_lt t
  | inf n =>
    cases n
    · exact magnitude_lt (one_code ht).2
    · exact Nat.two_pow_pos _
  | fin n m e =>
    dsimp only
    split
    · exact magnitude_lt (half_code ht).2
    · exact near_lt t _ _ _ _ _ _ _ _

/-! ### The six forms -/

/-- What a form's function gives for an operand: a NaN's result, or what is said of an infinity and of a finite value. -/
def FunctionLanes (i : Instr) (f : FmtA) (inf : Bool → Nat × Flags → Prop) (fin : Nat → ℚ → Bool → Nat × Flags → Prop) : Prop :=
  FloatLanes i f (if f.ty = .f64 then 24 else 12) fun _ a _ _ r =>
    match (ETy.fmt f.ty).unpack a with
    | .nan s => r = ((ETy.fmt f.ty).canonNan, Flags.when s Flags.NV)
    | .inf neg => inf neg r
    | .fin neg m e => fin a (FVal.fin neg m e).rat neg r

section
variable {f : FmtA} (ht : f.ty ∈ tyF)
include ht

theorem functionLanes_fexp2 : FunctionLanes (.fexp2 f) f (fun neg r => r = if neg then (0, Flags.none) else (ETy.fmt f.ty).infinite f.sat false)
    (fun _ v _ r => (∀ n : ℤ, v = n → (ETy.fmt f.ty).emin - (ETy.fmt f.ty).fbits ≤ n → (2 : ℚ) ^ n ≤ (ETy.fmt f.ty).maxVal →
        Exactly (ETy.fmt f.ty) ((2 : ℚ) ^ n) r) ∧
      ((∀ n : ℤ, v ≠ n) → Inexact (ETy.fmt f.ty) r ∧ ((ETy.fmt f.ty).unpack r.1).neg? = false ∧
        (((ETy.fmt f.ty).emin : ℚ) - (ETy.fmt f.ty).fbits ≤ v → r.1 ≠ 0))) := by
  refine floatLanes_lane ht (fun c _ v => fexp2Lane f.ty c v) (fun s => rfl) (fun c _ v _ => fexp2Lane_lt _ c v) fun srd j a _ _ ha => ?_
  cases hu : (ETy.fmt f.ty).unpack a with
  | nan s => rw [fexp2Lane, hu]
  | inf n => rw [fexp2Lane, hu]
  | fin n m e => exact ⟨fun k hk hlow hmax => fexp2Lane_whole ht hu hk hlow hmax, fun hne => fexp2Lane_between ht hu hne⟩

theorem functionLanes_flog2 : FunctionLanes (.flog2 f) f
    (fun neg r => r = if neg then ((ETy.fmt f.ty).canonNan, Flags.NV) else (ETy.fmt f.ty).infinite f.sat false)
    (fun _ v _ r => if v = 0 then r = (((ETy.fmt f.ty).infinite f.sat true).1, ((ETy.fmt f.ty).infinite f.sat true).2.or Flags.DZ)
      else if v < 0 then r = ((ETy.fmt f.ty).canonNan, Flags.NV)
      else (∀ n : ℤ, v = (2 : ℚ) ^ n → Exactly (ETy.fmt f.ty) n r) ∧ ((∀ n : ℤ, v ≠ (2 : ℚ) ^ n) → Inexact (ETy.fmt f.ty) r ∧
        ((ETy.fmt f.ty).unpack r.1).neg? = decide (v < 1) ∧ ((ETy.fmt f.ty).unpack r.1).isZero = false)) := by
  refine floatLanes_lane ht (fun c _ v => flog2Lane f.ty c v) (fun s => rfl) (fun c _ v _ => flog2Lane_lt _ c v) fun srd j a _ _ ha => ?_
  cases hu : (ETy.fmt f.ty).unpack a with
  | nan s => rw [flog2Lane, hu]
  | inf n => rw [flog2Lane, hu]
  | fin n m e =>
    dsimp only
    by_cases hm : m = 0
    · rw [if_pos (rat_eq_zero.2 hm), flog2Lane, hu]
      exact if_pos hm
    · rw [if_neg fun h => hm (rat_eq_zero.1 h)]
      cases n with
      | true =>
        rw [if_pos ((rat_neg_iff hm).2 rfl), flog2Lane, hu]
        exact (if_neg hm).trans rfl
      | false =>
        rw [if_neg fun h => Bool.false_ne_true ((rat_neg_iff hm).1 h)]
        exact ⟨fun k hk => flog2Lane_pow ht _ hm hu hk, fun hne => flog2Lane_between ht _ hm hu hne⟩

theorem functionLanes_ftanh : FunctionLanes (.ftanh f) f (fun neg r => Exactly (ETy.fmt f.ty) (if neg then -1 else 1) r)
    (fun a v neg r => if v = 0 then r = (a, Flags.none)
      else Inexact (ETy.fmt f.ty) r ∧ WithinOne (ETy.fmt f.ty) r ∧ ((ETy.fmt f.ty).unpack r.1).neg? = neg) := by
  refine floatLanes_lane ht (fun c _ v => ftanhLane f.ty c v) (fun s => rfl) (fun c _ v hv => ftanhLane_lt ht c hv) fun srd j a _ _ ha => ?_
  rw [ftanhLane]
  cases hu : (ETy.fmt f.ty).unpack a with
  | nan s => rfl
  | inf n => exact exactly_one ht n
  | fin n m e =>
    dsimp only
    by_cases hm : m = 0
    · rw [if_pos hm, if_pos (rat_eq_zero.2 hm)]
    · rw [if_neg hm, if_neg fun h => hm (rat_eq_zero.1 h)]
      exact near_within ht _ _ _ _ _ _ _

theorem functionLanes_fsin : FunctionLanes (.fsin f) f (fun _ r => r = ((ETy.fmt f.ty).canonNan, Flags.NV))
    (fun a v _ r => if v = 0 then r = (a, Flags.none) else Inexact (ETy.fmt f.ty) r ∧ WithinOne (ETy.fmt f.ty) r) := by
  refine floatLanes_lane ht (fun c _ v => ftrigLane false f.ty c v) (fun s => rfl) (fun c _ v hv => ftrigLane_lt ht false c hv) fun srd j a _ _ ha => ?_
  rw [ftrigLane]
  cases hu : (ETy.fmt f.ty).unpack a with
  | nan s => rfl
  | inf n => rfl
  | fin n m e =>
    dsimp only
    by_cases hm : m = 0
    · rw [if_pos hm, if_pos (rat_eq_zero.2 hm), if_neg Bool.false_ne_true]
    · rw [if_neg hm, if_neg fun h => hm (rat_eq_zero.1 h)]
      obtain ⟨hinexact, hwithin, -⟩ := near_within ht f.rm f.sat (enclTrig false n m e).1
        (Config.approx (if false = true then .cos else .sin) f.ty f.rm f.sat a) (ulpsOf f.ty) (absBound (ETy.fmt f.ty) 0) (enclTrig false n m e).2
      exact ⟨hinexact, hwithin⟩

theorem functionLanes_fcos : FunctionLanes (.fcos f) f (fun _ r => r = ((ETy.fmt f.ty).canonNan, Flags.NV))
    (fun _ v _ r => if v = 0 then Exactly (ETy.fmt f.ty) 1 r else Inexact (ETy.fmt f.ty) r ∧ WithinOne (ETy.fmt f.ty) r) := by
  refine floatLanes_lane ht (fun c _ v => ftrigLane true f.ty c v) (fun s => rfl) (fun c _ v hv => ftrigLane_lt ht true c hv) fun srd j a _ _ ha => ?_
  have hone := exactly_one ht false
  rw [withSign_false] at hone
  rw [ftrigLane]
  cases hu : (ETy.fmt f.ty).unpack a with
  | nan s => rfl
  | inf n => rfl
  | fin n m e =>
    dsimp only
    by_cases hm : m = 0
    · rw [if_pos hm, if_pos (rat_eq_zero.2 hm), if_pos rfl]
      exact hone
    · rw [if_neg hm, if_neg fun h => hm (rat_eq_zero.1 h)]
      obtain ⟨hinexact, hwithin, -⟩ := near_within ht f.rm f.sat (enclTrig true n m e).1
        (Config.approx (if true = true then .cos else .sin) f.ty f.rm f.sat a) (ulpsOf f.ty) (absBound (ETy.fmt f.ty) 0) (enclTrig true n m e).2
      exact ⟨hinexact, hwithin⟩

theorem functionLanes_fsig : FunctionLanes (.fsig f) f (fun neg r => if neg then r = (0, Flags.none) else Exactly (ETy.fmt f.ty) 1 r)
    (fun _ v _ r => if v = 0 then Exactly (ETy.fmt f.ty) (1 / 2) r
      else Inexact (ETy.fmt f.ty) r ∧ WithinOne (ETy.fmt f.ty) r ∧ ((ETy.fmt f.ty).unpack r.1).neg? = false) := by
  refine floatLanes_lane ht (fun c _ v => fsigLane f.ty c v) (fun s => rfl) (fun c _ v _ => fsigLane_lt ht c v) fun srd j a _ _ ha => ?_
  have hone := exactly_one ht false
  rw [withSign_false] at hone
  rw [fsigLane]
  cases hu : (ETy.fmt f.ty).unpack a with
  | nan s => rfl
  | inf n =>
    cases n
    · exact hone
    · rfl
  | fin n m e =>
    dsimp only
    by_cases hm : m = 0
    · rw [if_pos hm, if_pos (rat_eq_zero.2 hm)]
      exact exactly_half ht
    · rw [if_neg hm, if_neg fun h => hm (rat_eq_zero.1 h)]
      exact near_within ht _ _ _ _ _ _ _

end

/-- Settles O19: special operands first; every other result is chosen near an enclosure of the function's value, below the function's cap. -/
theorem floatFunctions : Obligations.FloatFunctions := by
  unfold Obligations.FloatFunctions
  exact fun f ht => ⟨functionLanes_fexp2 ht, functionLanes_flog2 ht, functionLanes_ftanh ht, functionLanes_fsin ht, functionLanes_fcos ht,
    functionLanes_fsig ht⟩

end Sys2Proof.Machine
end


section
/-!
PROOFS. Engine commands are accepted (R149, R354, R373): what the reads of a descriptor leave alone, and the first part of obligation O47.
-/
namespace Sys2Proof.Machine

/-! ### What an engine's reads of memory leave alone -/

@[simp] theorem State.setCount_spares (s : State) (key v : Nat) : (s.setCount key v).fab = s.fab ∧ (s.setCount key v).eng = s.eng := ⟨rfl, rfl⟩

@[simp] theorem State.acPost_spares (s : State) (key kind : Nat) : (s.acPost key kind).fab = s.fab ∧ (s.acPost key kind).eng = s.eng := by
  simp [State.acPost]

@[simp] theorem State.acReach_spares (s : State) (key kind : Nat) : (s.acReach key kind).fab = s.fab ∧ (s.acReach key kind).eng = s.eng := by
  simp [State.acReach]

@[simp] theorem State.acCountAccess_spares (s : State) (fn pa : Nat) :
    (s.acCountAccess fn pa).fab = s.fab ∧ (s.acCountAccess fn pa).sched = s.sched ∧ (s.acCountAccess fn pa).eng = s.eng := by
  simp [State.acCountAccess]

@[simp] theorem State.hlcShare_spares (s : State) (line : Nat) :
    (s.hlcShare line).fab = s.fab ∧ (s.hlcShare line).sched = s.sched ∧ (s.hlcShare line).eng = s.eng := by
  unfold State.hlcShare
  split <;> simp

@[simp] theorem State.hlcFetch_spares (s : State) (line x : Nat) (exclusive copy : Bool) :
    (s.hlcFetch line x exclusive copy).fab = s.fab ∧ (s.hlcFetch line x exclusive copy).sched = s.sched ∧
      (s.hlcFetch line x exclusive copy).eng = s.eng := by
  unfold State.hlcFetch
  (repeat' split) <;> simp

@[simp] theorem State.engTouch_spares (s : State) (t : Task) (pa : Nat) :
    (s.engTouch t pa).fab = s.fab ∧ (s.engTouch t pa).sched = s.sched ∧ (s.engTouch t pa).eng = s.eng := by
  simp [State.engTouch]

/-- The lines of a range are read one after another; the clusters, the tasks and the engines stay as they are. -/
@[simp] theorem State.touchVa_spares (s : State) (t : Task) (va n : Nat) :
    (s.touchVa t va n).fab = s.fab ∧ (s.touchVa t va n).sched = s.sched ∧ (s.touchVa t va n).eng = s.eng := by
  rw [State.touchVa]
  refine foldl_induct (P := fun u : State => u.fab = s.fab ∧ u.sched = s.sched ∧ u.eng = s.eng) (fun u l hu => ?_) _ ⟨rfl, rfl, rfl⟩
  split
  · split
    · simpa using hu
    · simpa using hu
  · exact hu

/-! ### Consuming reads of an accepted command (R149) -/

theorem consumeCmd_none {s : State} {c : Cmd} (h : c.toRead = []) : s.consumeCmd c = (s, c) := by
  rw [State.consumeCmd, h]
  exact ite_self _

/-- A slot whose tile is uncounted, or which the command reads without consuming, waits for the command's start. -/
theorem consumeSlot_waits {s : State} {c : Cmd} {slot : Nat} {x : Tile} (hx : s.tile? c.cluster c.op.task c.op.pl slot = some x)
    (h : x.count = 0 ∨ tileConsumes c.op.instr = false) : s.consumeSlot c slot = (s, c) := by
  rw [State.consumeSlot, hx]
  refine if_pos ?_
  rcases h with h | h <;> simp [h]

/-- The one read of a counted tile: its count falls by one, and the last read leaves it SPENT. -/
theorem consumeSlot_takes {s : State} {c : Cmd} {slot : Nat} {x : Tile} (hx : s.tile? c.cluster c.op.task c.op.pl slot = some x)
    (hreads : c.toRead = [slot]) (hst : x.st = tReady) (hcount : x.count ≠ 0) (hconsumes : tileConsumes c.op.instr = true) :
    s.consumeSlot c slot = ((s.setTile c.cluster c.op.task c.op.pl slot
      (if x.count = 1 then { x with count := 0, st := tSpent, gcnt := 0, data := [] } else { x with count := x.count - 1 })).countEvent
        c.cluster c.op.task 0x13 1, { c with toRead := [], taken := c.taken ++ [(slot, x)] }) := by
  rw [State.consumeSlot, hx, hreads]
  simp [hst, hcount, hconsumes]

theorem consumeCmd_one {s : State} {c : Cmd} {slot : Nat} (hfault : c.fault = none) (hreads : c.toRead = [slot]) :
    s.consumeCmd c = s.consumeSlot c slot := by
  rw [State.consumeCmd, hfault, hreads]
  simp [hfault]

@[simp] theorem tile?_setTile_same (s : State) (cluster task pl slot : Nat) (x : Tile) :
    (s.setTile cluster task pl slot x).tile? cluster task pl slot = some x := tget_tput_same _ _ _

/-! ### Acceptance (R354, R373) -/

/-- The command that an operation becomes as its unit accepts it. -/
def State.newCmd (s : State) (op : WobOp) : Cmd :=
  ⟨op, s.unitOf op, s.engCluster op, tileReads op, [], [], false, 0, 0, 0, Flags.none, none, none, 0, 0, [], none⟩

section
variable {s : State} {op : WobOp} {k : Task} {p : Placement} (hf : s.frozenNow = false) (hop : s.issuedEngine s.subject = some op)
  (hk : s.task? op.task = some k) (hp : s.placement? op.task op.pl = some p) (hacc : s.acceptable k op = true)
include hf hop hk hacc

theorem accept_next : let r := (s.freeOp op).acceptDesc k (s.newCmd op)
    let q := r.1.consumeCmd r.2
    exec .engineCommandAccept s = .next { q.1 with eng := { q.1.eng with cmds := q.1.eng.cmds ++ [q.2] } } := by
  rw [exec_engineCommandAccept, execEngineCommandAccept, inCycle_next hf, hop]
  dsimp only
  rw [hk]
  dsimp only
  rw [hacc]
  rfl

end

/-- What a command takes with it, where it is no `copy`: no more than places. -/
theorem acceptDesc_plain {s : State} {t : Task} {c : Cmd} (h : ∀ f, c.op.instr ≠ .copy f) :
    ∃ d, s.acceptDesc t c = (s, { c with desc := d }) := by
  unfold State.acceptDesc
  split
  next f hc => exact absurd hc (h f)
  next =>
    split
    · exact ⟨_, rfl⟩
    · exact ⟨c.desc, rfl⟩

theorem pieces_freeOp (s : State) (op : WobOp) (space va fuel n : Nat) : (s.freeOp op).pieces space va fuel n = s.pieces space va fuel n := by
  induction fuel generalizing va n with
  | zero => cases n <;> rfl
  | succ fuel ih =>
    cases n with
    | zero => rfl
    | succ n =>
      have hphys : (s.freeOp op).physOf space va = s.physOf space va := rfl
      simp only [State.pieces, hphys, ih]

/-- A descriptor reads alike once its operation's entry is free. -/
theorem copyDesc_freeOp (s : State) (op : WobOp) (t : Task) (a : Nat) : (s.freeOp op).copyDesc t a = s.copyDesc t a := by
  have hread : (s.freeOp op).readVa t.space a 64 = s.readVa t.space a 64 := by
    have hbytes : ∀ pa n, (s.freeOp op).readBytes pa n = s.readBytes pa n := fun pa n => by
      rw [readBytes_eq_map, readBytes_eq_map]
      rfl
    simp only [State.readVa, pieces_freeOp, hbytes]
  have hfails : (s.freeOp op).readFails t [(a, 64)] = s.readFails t [(a, 64)] := rfl
  have hpoison : (s.freeOp op).readPoison t [(a, 64)] = s.readPoison t [(a, 64)] := rfl
  rw [State.copyDesc, State.copyDesc, hread, hfails, hpoison]

theorem freeOp_placement {s : State} {op : WobOp} {p : Placement} (hp : s.placement? op.task op.pl = some p) :
    (s.freeOp op).placement? op.task op.pl = some (p.freeOp op.seq) := placement_mod s op.task op.pl (fun p => p.freeOp op.seq) p hp

/-- A `copy` reads no tile. -/
theorem copy_untiled {op : WobOp} {slot : Nat} (hreads : tileReads op = [slot]) (f : FmtE) : op.instr ≠ .copy f := by
  intro hc
  simp [tileReads, hc] at hreads

/-- What every acceptance leaves: the command joins those of its unit, and the operation's entry is free. -/
def Accepts (s : State) (op : WobOp) (p : Placement) (P : State → Cmd → Prop) : Prop :=
  ∃ u, exec .engineCommandAccept s = .next u ∧ ∃ c, u.eng.cmds = s.eng.cmds ++ [c] ∧ c.op = op ∧ c.running = false ∧ c.unit = s.unitOf op ∧
    c.cluster = s.engCluster op ∧ (∃ q, u.placement? op.task op.pl = some q ∧ q.queue = p.queue.filter fun o => o.seq ≠ op.seq) ∧
    u.fab.net = s.fab.net ∧ u.sched = s.sched ∧ P u c

section
variable {s : State} {op : WobOp} {k : Task} {p : Placement} (hf : s.frozenNow = false) (hop : s.issuedEngine s.subject = some op)
  (hk : s.task? op.task = some k) (hp : s.placement? op.task op.pl = some p) (hacc : s.acceptable k op = true)
include hf hop hk hp hacc

/-- A `copy` takes its descriptor, or its failure. -/
theorem accepts_copy {f : FmtE} (hcopy : op.instr = .copy f) : Accepts s op p fun _ c => match s.copyDesc k op.left.toNat with
    | .error e => c.fault = some e
    | .ok d => c.fault = none ∧ c.desc = d := by
  have hnext := accept_next hf hop hk hacc
  have hreads : tileReads op = [] := by simp [tileReads, hcopy]
  have hdesc : (s.freeOp op).acceptDesc k (s.newCmd op) = match s.copyDesc k op.left.toNat with
      | .error e => (s.freeOp op, { s.newCmd op with fault := some e })
      | .ok d => ((s.freeOp op).touchVa k op.left.toNat 64, { s.newCmd op with desc := d }) := by
    rw [State.acceptDesc]
    have hinstr : (s.newCmd op).op.instr = .copy f := hcopy
    rw [hinstr]
    dsimp only
    rw [← copyDesc_freeOp s op]
    rfl
  have hqueue := freeOp_placement hp
  dsimp only at hnext
  cases hd : s.copyDesc k op.left.toNat with
  | error e =>
    rw [hdesc, hd] at hnext
    dsimp only at hnext
    rw [consumeCmd_none (by exact hreads)] at hnext
    exact ⟨_, hnext, _, rfl, rfl, rfl, rfl, rfl, ⟨_, hqueue, rfl⟩, rfl, rfl, rfl⟩
  | ok d =>
    rw [hdesc, hd] at hnext
    dsimp only at hnext
    rw [consumeCmd_none (by exact hreads)] at hnext
    obtain ⟨hfab, hsched, heng⟩ := State.touchVa_spares (s.freeOp op) k op.left.toNat 64
    refine ⟨_, hnext, { s.newCmd op with desc := d }, ?_, rfl, rfl, rfl, rfl, ⟨p.freeOp op.seq, ?_, rfl⟩, ?_, hsched, rfl, rfl⟩
    · exact congrArg (fun e : Eng => e.cmds ++ [{ s.newCmd op with desc := d }]) heng
    · exact (congrArg (fun f : Fab => tget f.placements _) hfab).trans hqueue
    · have hnet := congrArg Fab.net hfab
      exact hnet

/-- A command that reads no tile. -/
theorem accepts_untiled (hreads : tileReads op = []) (hcopy : ∀ f, op.instr ≠ .copy f) :
    Accepts s op p fun u c => c.fault = none ∧ u.mem = s.mem ∧ c.toRead = [] ∧ u.eng.tiles = s.eng.tiles := by
  have hnext := accept_next hf hop hk hacc
  obtain ⟨d, hdesc⟩ := acceptDesc_plain (s := s.freeOp op) (t := k) (c := s.newCmd op) hcopy
  dsimp only at hnext
  rw [hdesc] at hnext
  dsimp only at hnext
  rw [consumeCmd_none (by exact hreads)] at hnext
  exact ⟨_, hnext, _, rfl, rfl, rfl, rfl, rfl, ⟨_, freeOp_placement hp, rfl⟩, rfl, rfl, rfl, rfl, hreads, rfl⟩

section
variable {slot : Nat} {x : Tile} (hreads : tileReads op = [slot]) (hx : s.tile? (s.engCluster op) op.task op.pl slot = some x)
include hreads hx

/-- A command whose tile is to be read as it starts. -/
theorem accepts_waiting (h : x.count = 0 ∨ tileConsumes op.instr = false) :
    Accepts s op p fun u c => c.fault = none ∧ u.mem = s.mem ∧ c.toRead = [slot] ∧ c.taken = [] ∧ u.eng.tiles = s.eng.tiles := by
  have hnext := accept_next hf hop hk hacc
  obtain ⟨d, hdesc⟩ := acceptDesc_plain (s := s.freeOp op) (t := k) (c := s.newCmd op) (copy_untiled hreads)
  dsimp only at hnext
  rw [hdesc] at hnext
  dsimp only at hnext
  rw [consumeCmd_one rfl (by exact hreads), consumeSlot_waits (by exact hx) (by exact h)] at hnext
  exact ⟨_, hnext, _, rfl, rfl, rfl, rfl, rfl, ⟨_, freeOp_placement hp, rfl⟩, rfl, rfl, rfl, rfl, hreads, rfl, rfl⟩

/-- A command whose one counted tile is consumed at once. -/
theorem accepts_consuming (hst : x.st = tReady) (hcount : x.count ≠ 0) (hconsumes : tileConsumes op.instr = true) :
    Accepts s op p fun u c => c.fault = none ∧ u.mem = s.mem ∧ c.toRead = [] ∧ c.taken = [(slot, x)] ∧ u.tile? (s.engCluster op) op.task op.pl slot =
      some (if x.count = 1 then { x with count := 0, st := tSpent, gcnt := 0, data := [] } else { x with count := x.count - 1 }) := by
  have hnext := accept_next hf hop hk hacc
  obtain ⟨d, hdesc⟩ := acceptDesc_plain (s := s.freeOp op) (t := k) (c := s.newCmd op) (copy_untiled hreads)
  dsimp only at hnext
  rw [hdesc] at hnext
  dsimp only at hnext
  rw [consumeCmd_one rfl (by exact hreads), consumeSlot_takes (by exact hx) (by exact hreads) hst hcount (by exact hconsumes)] at hnext
  exact ⟨_, hnext, _, rfl, rfl, rfl, rfl, rfl, ⟨_, freeOp_placement hp, rfl⟩, rfl, rfl, rfl, rfl, rfl, rfl, tile?_setTile_same _ _ _ _ _ _⟩

end

end

end Sys2Proof.Machine
end


section
/-!
PROOFS. Engine commands as they start (R355, R356): their operand tiles, and what every start leaves.
-/
namespace Sys2Proof.Machine

/-! ### Commands by their number -/

theorem startable_parts {s : State} {n : Nat} {t : Task} {p : Placement} {c : Cmd} (h : s.startable n = some (t, p, c)) :
    s.cmd? n = some c ∧ s.task? c.op.task = some t ∧ s.placement? c.op.task c.op.pl = some p := by
  rw [State.startable] at h
  cases hc : s.cmd? n with
  | none => simp [hc] at h
  | some c' =>
    rw [hc] at h
    dsimp only at h
    cases ht : s.task? c'.op.task with
    | none => simp [ht] at h
    | some t' =>
      cases hp : s.placement? c'.op.task c'.op.pl with
      | none => simp [ht, hp] at h
      | some p' =>
        simp only [ht, hp, Option.ite_none_right_eq_some, Option.some.injEq, Prod.mk.injEq] at h
        obtain ⟨-, rfl, rfl, rfl⟩ := h
        exact ⟨rfl, ht, hp⟩

/-- A command put back under its number is found there. -/
theorem cmd?_putCmd {s : State} {n : Nat} {c c' : Cmd} (hc : s.cmd? n = some c) (hn : c'.op.seq = n) : (s.putCmd c').cmd? n = some c' := by
  rw [State.cmd?] at hc ⊢
  rw [State.putCmd]
  dsimp only
  generalize s.eng.cmds = cmds at hc ⊢
  induction cmds with
  | nil => simp at hc
  | cons x xs ih =>
    rw [List.map_cons]
    by_cases hx : x.op.seq = n
    · rw [if_pos (hx.trans hn.symm), List.find?_cons_of_pos (by simpa using hn)]
    · rw [if_neg fun h => hx (h.trans hn), List.find?_cons_of_neg (by simpa using hx)]
      rw [List.find?_cons_of_neg (by simpa using hx)] at hc
      exact ih hc

/-! ### The tiles that a command reads (R148) -/

/-- A tile that a command has as an operand: one that it consumed at acceptance, or the one that stands in the slot. -/
def State.operand (s : State) (c : Cmd) (slot : Nat) : Option Tile := if c.toRead = [] then c.tile? slot else s.slotTile c slot

/-- A command as its unit begins to perform it, with the tiles it takes. -/
def Cmd.ready (c : Cmd) (now : Nat) (taken : List (Nat × Tile)) : Cmd :=
  { c with
    running := true
    busyEnd := now
    doneAt := now
    toRead := []
    taken := taken }

/-- The tiles still to be read stand READY, and reading them changes none. -/
def ReadsReady (s : State) (c : Cmd) : Prop := c.toRead = [] ∨ (c.taken = [] ∧ c.toRead = tileReads c.op ∧
  ∀ slot ∈ c.toRead, ∃ x, s.slotTile c slot = some x ∧ x.st = tReady ∧ (x.count = 0 ∨ tileConsumes c.op.instr = false))

theorem consumeCmd_waits {s : State} {c : Cmd} (h : ∀ slot ∈ c.toRead, ∃ x, s.slotTile c slot = some x ∧ (x.count = 0 ∨ tileConsumes c.op.instr = false)) :
    s.consumeCmd c = (s, c) := by
  rw [State.consumeCmd]
  split
  · rfl
  next hfault =>
    have hfold : ∀ l : List Nat, (∀ slot ∈ l, ∃ x, s.slotTile c slot = some x ∧ (x.count = 0 ∨ tileConsumes c.op.instr = false)) →
        l.foldl (fun (acc : State × Cmd) slot => if acc.2.fault.isSome then acc else acc.1.consumeSlot acc.2 slot) (s, c) = (s, c) := by
      intro l hl
      induction l with
      | nil => rfl
      | cons slot l ih =>
        obtain ⟨x, hx, hwait⟩ := hl slot List.mem_cons_self
        rw [List.foldl_cons, if_neg hfault, consumeSlot_waits hx hwait]
        exact ih fun a ha => hl a (List.mem_cons_of_mem _ ha)
    exact hfold _ h

/-- READY slots are taken one after another. -/
theorem takeSlots_ready {s : State} {c : Cmd} {l : List Nat} (h : ∀ slot ∈ l, ∃ x, s.slotTile c slot = some x ∧ x.st = tReady) :
    l.foldl (fun c slot => s.takeSlot c slot) c = { c with taken := c.taken ++ l.filterMap fun slot => (s.slotTile c slot).map fun x => (slot, x) } := by
  induction l generalizing c with
  | nil => simp
  | cons slot l ih =>
    obtain ⟨x, hx, hst⟩ := h slot List.mem_cons_self
    have hone : s.takeSlot c slot = { c with taken := c.taken ++ [(slot, x)] } := by
      rw [State.takeSlot, hx]
      exact if_neg (by rw [hst]; decide)
    have hrest := ih (c := { c with taken := c.taken ++ [(slot, x)] }) fun a ha => h a (List.mem_cons_of_mem _ ha)
    rw [List.foldl_cons, hone, hrest, List.filterMap_cons_some (b := (slot, x)) (by rw [hx]; rfl)]
    simp only [List.append_assoc, List.singleton_append]
    rfl

/-- A slot's tile among those taken. -/
theorem find_taken {s : State} {c : Cmd} {l : List Nat} {slot : Nat} (hmem : slot ∈ l) (h : ∀ a ∈ l, ∃ x, s.slotTile c a = some x) :
    ((l.filterMap fun a => (s.slotTile c a).map fun x => (a, x)).find? fun q => q.1 = slot).map Prod.snd = s.slotTile c slot := by
  induction l with
  | nil => cases hmem
  | cons a l ih =>
    obtain ⟨x, hx⟩ := h a List.mem_cons_self
    rw [List.filterMap_cons_some (b := (a, x)) (by rw [hx]; rfl)]
    by_cases ha : a = slot
    · subst ha
      rw [List.find?_cons_of_pos (by simp), hx]
      rfl
    · rw [List.find?_cons_of_neg (by simpa using ha)]
      exact ih ((List.mem_cons.1 hmem).resolve_left (Ne.symm ha)) fun b hb => h b (List.mem_cons_of_mem _ hb)

/-- A command's tiles read as it begins: its operands, with no tile changed. -/
theorem readTiles_ready {s : State} {c : Cmd} (hfault : c.fault = none) (hfill : (tileFills c.op).bind (s.fillerFault c) = none)
    (hreads : ReadsReady s c) (now : Nat) : ∃ taken, s.readTiles (c.begun now) = (s, c.ready now taken) ∧
      ∀ slot ∈ tileReads c.op, (c.ready now taken).tile? slot = s.operand c slot := by
  rcases hreads with hnone | ⟨htaken, hall, hready⟩
  · refine ⟨c.taken, ?_, fun slot _ => by rw [State.operand, if_pos hnone]; rfl⟩
    have hconsume : s.consumeCmd (c.begun now) = (s, c.begun now) := consumeCmd_none (by exact hnone)
    have hto : (c.begun now).toRead = [] := hnone
    have hf : (c.begun now).fault = none := hfault
    have hfill' : (tileFills (c.begun now).op).bind (s.fillerFault (c.begun now)) = none := hfill
    rw [State.readTiles, hconsume]
    dsimp only
    rw [hf, hto]
    simp only [Option.isSome_none, Bool.false_eq_true, if_false, List.eraseDups_nil, List.foldl_nil, hfill', hf]
    rw [Cmd.ready, ← hfault]
    simp [Cmd.begun, worse, hfault]
  · have hwait : s.consumeCmd (c.begun now) = (s, c.begun now) :=
      consumeCmd_waits fun slot hs => let ⟨x, hx, _, hw⟩ := hready slot hs; ⟨x, hx, hw⟩
    have hslots : ∀ slot ∈ c.toRead.eraseDups, ∃ x, s.slotTile (c.begun now) slot = some x ∧ x.st = tReady := fun slot hs =>
      let ⟨x, hx, hst, _⟩ := hready slot (List.mem_eraseDups.1 hs); ⟨x, hx, hst⟩
    have hf : (c.begun now).fault = none := hfault
    have hto : (c.begun now).toRead = c.toRead := rfl
    have hfill' : (tileFills (c.begun now).op).bind (s.fillerFault (c.begun now)) = none := hfill
    refine ⟨c.toRead.eraseDups.filterMap fun slot => (s.slotTile c slot).map fun x => (slot, x), ?_, fun slot hs => ?_⟩
    · rw [State.readTiles, hwait]
      dsimp only
      rw [hf, hto, takeSlots_ready hslots]
      have htk : (c.begun now).taken = [] := htaken
      simp only [Option.isSome_none, Bool.false_eq_true, if_false, htk, List.nil_append]
      refine Prod.ext rfl ?_
      dsimp only
      have hw : worse c.fault ((tileFills c.op).bind (s.fillerFault c)) = c.fault := by
        rw [hfill, hfault]
        rfl
      exact congrArg (fun f => ({ c.ready now (c.toRead.eraseDups.filterMap fun slot => (s.slotTile c slot).map fun x => (slot, x)) with fault := f } : Cmd)) hw
    · rw [State.operand]
      have hmem : slot ∈ c.toRead := by rw [hall]; exact hs
      rw [if_neg (List.ne_nil_of_mem hmem)]
      exact find_taken (List.mem_eraseDups.2 hmem) fun a ha => let ⟨x, hx, _⟩ := hslots a ha; ⟨x, hx⟩

/-! ### What every start leaves (R355, R356) -/

/-- A command started: what no start of a tile or matrix form changes, and the command running. -/
def Starts (s : State) (P : State → Cmd → Prop) : Prop := ∃ u, exec .engineCommandStart s = .next u ∧ (u.fab.net = s.fab.net ∧ u.mem = s.mem ∧ u.sched = s.sched ∧
  ∃ c2, u.cmd? s.subject = some c2 ∧ c2.running = true ∧ P u c2)

/-- What performing a command leaves alone. -/
structure Apart (s u : State) : Prop where
  net : u.fab.net = s.fab.net
  mem : u.mem = s.mem
  sched : u.sched = s.sched
  cmds : u.eng.cmds = s.eng.cmds

theorem Apart.refl (s : State) : Apart s s := ⟨rfl, rfl, rfl, rfl⟩

theorem Apart.trans {s u w : State} (h : Apart s u) (h' : Apart u w) : Apart s w :=
  ⟨h'.net.trans h.net, h'.mem.trans h.mem, h'.sched.trans h.sched, h'.cmds.trans h.cmds⟩

theorem apart_setTile (s : State) (cluster task pl slot : Nat) (x : Tile) : Apart s (s.setTile cluster task pl slot x) := ⟨rfl, rfl, rfl, rfl⟩

theorem apart_dropTile (s : State) (cluster task pl slot : Nat) : Apart s (s.dropTile cluster task pl slot) := ⟨rfl, rfl, rfl, rfl⟩

theorem apart_emptyFailed (s : State) (c : Cmd) : Apart s (s.emptyFailed c) := by
  unfold State.emptyFailed
  split
  · split
    · exact apart_dropTile _ _ _ _ _
    · exact .refl s
  · split
    · exact apart_dropTile _ _ _ _ _
    · exact .refl s
  · exact .refl s

/-- A command that this event starts, and the state of its operands. -/
structure Begins (s : State) (t : Task) (p : Placement) (c : Cmd) : Prop where
  start : s.startable s.subject = some (t, p, c)
  seq : c.op.seq = s.subject
  task : p.task = c.op.task
  idx : p.idx = c.op.pl
  fault : c.fault = none
  fill : (tileFills c.op).bind (s.fillerFault c) = none
  reads : ReadsReady s c

/-- A start ends: a fault of memory comes first where it is worse, and a fetch that has failed leaves its uncounted tile's slot EMPTY. -/
def endStart (t : Task) (r : State × Cmd) : State × Cmd :=
  (r.1.emptyFailed { r.2 with fault := r.1.firstFault t r.2 }, { r.2 with fault := r.1.firstFault t r.2 })

/-- The operands that a command takes as it begins, and what its start comes to. -/
structure Takes (s : State) (t : Task) (p : Placement) (c : Cmd) (taken : List (Nat × Tile)) : Prop where
  start : s.startCmd t p (c.begun s.clock.cycle) = endStart t (s.performCmd t p (c.ready s.clock.cycle taken))
  tile : ∀ slot ∈ tileReads c.op, (c.ready s.clock.cycle taken).tile? slot = s.operand c slot

section
variable {s : State} {t : Task} {p : Placement} {c : Cmd} (hb : Begins s t p c)
include hb

theorem Begins.takes : ∃ taken, Takes s t p c taken := by
  obtain ⟨taken, hread, htiles⟩ := readTiles_ready hb.fault hb.fill hb.reads s.clock.cycle
  refine ⟨taken, ?_, htiles⟩
  have hf : (c.ready s.clock.cycle taken).fault = none := hb.fault
  rw [State.startCmd, hread]
  dsimp only
  rw [hf]
  rfl

/-- A start that leaves the rest alone. -/
theorem Begins.ends {P : State → Cmd → Prop} {u : State} {c2 : Cmd} (h : s.startCmd t p (c.begun s.clock.cycle) = (u, c2)) (hu : Apart s u)
    (hop : c2.op = c.op) (hrun : c2.running = true) (hP : P (u.putCmd c2) c2) : Starts s P := by
  refine ⟨u.putCmd c2, ?_, hu.net, hu.mem, hu.sched, c2, ?_, hrun, hP⟩
  · rw [exec_engineCommandStart, execEngineCommandStart, hb.start]
    dsimp only
    rw [h]
  · refine cmd?_putCmd (c := c) ?_ ((congrArg WobOp.seq hop).trans hb.seq)
    rw [State.cmd?, hu.cmds]
    exact (startable_parts hb.start).1

variable {taken : List (Nat × Tile)} (htake : Takes s t p c taken) {P : State → Cmd → Prop} {u : State} {c2 : Cmd}
  (hperf : s.performCmd t p (c.ready s.clock.cycle taken) = (u, c2)) (hu : Apart s u) (hop : c2.op = c.op) (hrun : c2.running = true)
include htake hperf hu hop hrun

/-- A form that meets no fault as it is performed. -/
theorem Begins.starts (hfault : c2.fault = none) (hP : P (u.putCmd c2) c2) : Starts s P := by
  refine hb.ends (u := u) ?_ hu hop hrun hP
  have hsame : ({ c2 with fault := u.firstFault t c2 } : Cmd) = c2 := by
    rw [State.firstFault, hfault]
    cases c2
    cases hfault
    rfl
  have hkeep : u.emptyFailed c2 = u := by
    unfold State.emptyFailed
    rw [hfault]
    split <;> rfl
  rw [htake.start, hperf, endStart]
  dsimp only
  rw [hsame, hkeep]

/-- A form that meets a fault as it is performed, where its memory meets none. -/
theorem Begins.fails (hrow : u.rowFault t c2 = none) (hP : P ((u.emptyFailed c2).putCmd c2) c2) : Starts s P := by
  refine hb.ends (u := u.emptyFailed c2) ?_ (hu.trans (apart_emptyFailed u c2)) hop hrun hP
  have hsame : ({ c2 with fault := u.firstFault t c2 } : Cmd) = c2 := by
    rw [State.firstFault, hrow]
    simp
  rw [htake.start, hperf, endStart]
  dsimp only
  rw [hsame]

end

/-- A command that reads and writes no memory meets no fault of memory. -/
theorem rowFault_of_no_rows {s : State} {t : Task} {c : Cmd} (h : s.cmdRows c = []) : s.rowFault t c = none := by
  rw [State.rowFault, h]
  simp

end Sys2Proof.Machine
end


section
/-!
PROOFS. Tile commands as they start (R148, R202, R356, R360 to R364): the second part of obligation O47.
-/
namespace Sys2Proof.Machine

/-! ### Tiles of a command -/

@[simp] theorem slotTile_setTile_same (s : State) (c : Cmd) (slot : Nat) (x : Tile) :
    (s.setTile c.cluster c.op.task c.op.pl slot x).slotTile c slot = some x := tget_tput_same _ _ _

@[simp] theorem slotTile_dropTile_same (s : State) (c : Cmd) (slot : Nat) :
    (s.dropTile c.cluster c.op.task c.op.pl slot).slotTile c slot = none := tget_tdel_same _ _

/-- A form that touches no memory: it meets no fault of memory, and a failure of it leaves every tile. -/
structure Still (c : Cmd) : Prop where
  rows : ∀ (u : State) (c' : Cmd), c'.op = c.op → u.cmdRows c' = []
  keep : ∀ (u : State) (c' : Cmd), c'.op = c.op → u.emptyFailed c' = u

/-- A fetch's slot alone is emptied. -/
theorem emptyFailed_other {s : State} {c : Cmd} (hld : ∀ f, c.op.instr ≠ .tLd f) (hgath : ∀ f, c.op.instr ≠ .gath f) : s.emptyFailed c = s := by
  unfold State.emptyFailed
  split
  next f _ h _ => exact absurd h (hld f)
  next f _ h _ => exact absurd h (hgath f)
  next => rfl

theorem still_tZero {c : Cmd} {f : FmtE} (h : c.op.instr = .tZero f) : Still c :=
  ⟨fun u c' hop => by simp [State.cmdRows, hop, h], fun u c' hop => emptyFailed_other (by simp [hop, h]) (by simp [hop, h])⟩

theorem still_tTr {c : Cmd} {f : FmtE} (h : c.op.instr = .tTr f) : Still c :=
  ⟨fun u c' hop => by simp [State.cmdRows, hop, h], fun u c' hop => emptyFailed_other (by simp [hop, h]) (by simp [hop, h])⟩

section
variable {s : State} {t : Task} {p : Placement} {c : Cmd}

/-- A form that touches no memory and fails. -/
theorem Begins.fails_still (hb : Begins s t p c) {taken : List (Nat × Tile)} (htake : Takes s t p c taken) (hstill : Still c) {P : State → Cmd → Prop}
    {u : State} {c2 : Cmd} (hperf : s.performCmd t p (c.ready s.clock.cycle taken) = (u, c2)) (hu : Apart s u) (hop : c2.op = c.op)
    (hrun : c2.running = true) (hP : P (u.putCmd c2) c2) : Starts s P := by
  refine hb.fails htake hperf hu hop hrun (rowFault_of_no_rows (hstill.rows u c2 hop)) ?_
  rw [hstill.keep u c2 hop]
  exact hP

/-! ### A tile begun anew (R146, R148, R202) -/

/-- A tile as a filler leaves it, in granules that it has already. -/
def State.filling (s : State) (f : TFmt) (rows cols : Nat) (x : Tile) : Tile :=
  { x with
    st := tFilling
    fmt := f
    rows := rows
    cols := cols
    gcnt := granules f rows cols
    count := 0
    satf := false
    gen := (s.fret x.pf).gen
    data := [] }

section
variable {slot : Nat} {f : TFmt} {rows cols : Nat} (htask : p.task = c.op.task) (hidx : p.idx = c.op.pl)
include htask hidx

theorem beginFill_again {x : Tile} (hx : s.slotTile c slot = some x) (hn : granules f rows cols ≤ x.gcnt) :
    s.beginFill t p c slot f rows cols = (s.setTile c.cluster c.op.task c.op.pl slot (s.filling f rows cols x), c) := by
  have hx' : s.tile? c.cluster p.task p.idx slot = some x := by rw [htask, hidx]; exact hx
  have hfill : s.fillTile t p c.cluster slot f rows cols = (s.setTile c.cluster p.task p.idx slot (s.filling f rows cols x), true) := by
    rw [State.fillTile, hx']
    exact if_pos hn
  rw [State.beginFill, hfill, htask, hidx]

theorem beginFill_placed {pf g : Nat} (hx : s.slotTile c slot = none) (hpl : s.placeTile t p c.cluster (granules f rows cols) = some (pf, g)) :
    s.beginFill t p c slot f rows cols = (s.setTile c.cluster c.op.task c.op.pl slot
      (s.filling f rows cols ⟨0, f, 0, 0, g, granules f rows cols, 0, false, pf, false, []⟩), c) := by
  have hx' : s.tile? c.cluster p.task p.idx slot = none := by rw [htask, hidx]; exact hx
  have hfill : s.fillTile t p c.cluster slot f rows cols = (s.setTile c.cluster p.task p.idx slot
      (s.filling f rows cols ⟨0, f, 0, 0, g, granules f rows cols, 0, false, pf, false, []⟩), true) := by
    rw [State.fillTile, hx']
    dsimp only
    rw [hpl]
    rfl
  rw [State.beginFill, hfill, htask, hidx]

/-- No fret has room: TILESPACE. -/
theorem beginFill_full (hx : s.slotTile c slot = none) (hpl : s.placeTile t p c.cluster (granules f rows cols) = none) :
    s.beginFill t p c slot f rows cols = (s, { c with fault := some (.engine, 4, slot) }) := by
  have hx' : s.tile? c.cluster p.task p.idx slot = none := by rw [htask, hidx]; exact hx
  have hfill : s.fillTile t p c.cluster slot f rows cols = (s, false) := by
    rw [State.fillTile, hx']
    dsimp only
    rw [hpl]
  rw [State.beginFill, hfill]

end

theorem beginFill_cmd (s : State) (t : Task) (p : Placement) (c : Cmd) (slot : Nat) (f : TFmt) (rows cols : Nat) :
    ∃ fault, (s.beginFill t p c slot f rows cols).2 = { c with fault := fault } := by
  unfold State.beginFill
  split
  · exact ⟨c.fault, rfl⟩
  · exact ⟨_, rfl⟩

/-- What a form puts in the tile that it has begun. -/
structure Writes (c : Cmd) (slot : Nat) (g : State → State) (d : Memory) : Prop where
  apart : ∀ u, Apart u (g u)
  none : ∀ u, u.slotTile c slot = none → g u = u
  some : ∀ u y, u.slotTile c slot = some y → y.data = [] → y.satf = false → (g u).slotTile c slot = some { y with data := d }

theorem writes_nothing (c : Cmd) (slot : Nat) : Writes c slot id [] := by
  refine ⟨fun u => .refl u, fun u _ => rfl, fun u y hy hdata _ => ?_⟩
  rw [id, hy, ← hdata]

theorem writes_putTileData (c : Cmd) (slot : Nat) (bs : List Byte) :
    Writes c slot (fun u => u.putTileData c slot bs false) (memPutBytes [] 0 bs) := by
  refine ⟨fun u => ?_, fun u hu => ?_, fun u y hy _ hsat => ?_⟩
  · unfold State.putTileData
    split
    · exact .refl u
    · exact apart_setTile _ _ _ _ _ _
  · rw [State.putTileData, hu]
  · rw [State.putTileData, hy]
    dsimp only
    rw [slotTile_setTile_same, ← hsat]

/-- A command that fills its tile, as a tile that stands there gives room, as a fret does, or as none does. -/
def Fills (s : State) (t : Task) (p : Placement) (c : Cmd) (f : TFmt) (rows cols : Nat) (P : State → Cmd → Tile → Prop) : Prop :=
  let n := granules f rows cols
  let anew := fun (u : State) (x : Tile) => ∃ y, u.slotTile c c.op.ta = some y ∧ y = { x with
    st := tFilling, fmt := f, rows := rows, cols := cols, gcnt := n, count := 0, satf := false, gen := (s.fret x.pf).gen, data := y.data }
  (∀ x, s.slotTile c c.op.ta = some x → n ≤ x.gcnt → Starts s fun u c2 => c2.fault = none ∧ anew u x ∧ ∀ y, u.slotTile c c.op.ta = some y → P u c2 y) ∧
  (s.slotTile c c.op.ta = none →
    (∀ pf g, s.placeTile t p c.cluster n = some (pf, g) → Starts s fun u c2 => c2.fault = none ∧ anew u ⟨0, f, 0, 0, g, n, 0, false, pf, false, []⟩ ∧
      ∀ y, u.slotTile c c.op.ta = some y → P u c2 y) ∧
    (s.placeTile t p c.cluster n = none → (∀ f, c.op.instr ≠ .tLd f) → Starts s fun u c2 => c2.fault = some (.engine, 4, c.op.ta) ∧ u.eng.tiles = s.eng.tiles))

/-- A command's work and its end, as the form sets them. -/
def Cmd.bound (c : Cmd) (doneAt total : Nat) : Cmd :=
  { c with
    doneAt := doneAt
    total := total }

/-- A form that begins its tile and puts data in it. -/
theorem Begins.fills (hb : Begins s t p c) {taken : List (Nat × Tile)} (htake : Takes s t p c taken) {f : TFmt} {rows cols doneAt total : Nat}
    {g : State → State} {d : Memory} (hw : Writes c c.op.ta g d)
    (hperf : s.performCmd t p (c.ready s.clock.cycle taken) =
      (let r := s.beginFill t p ((c.ready s.clock.cycle taken).bound doneAt total) c.op.ta f rows cols
       (g r.1, r.2)))
    (hstill : (∀ f, c.op.instr ≠ .tLd f) → Still c) {P : State → Cmd → Tile → Prop}
    (hP : ∀ u y, y.data = d → P u ((c.ready s.clock.cycle taken).bound doneAt total) y) : Fills s t p c f rows cols P := by
  have hready : ((c.ready s.clock.cycle taken).bound doneAt total).fault = none := hb.fault
  have hbegun : ∀ x, s.beginFill t p ((c.ready s.clock.cycle taken).bound doneAt total) c.op.ta f rows cols =
        (s.setTile c.cluster c.op.task c.op.pl c.op.ta (s.filling f rows cols x), (c.ready s.clock.cycle taken).bound doneAt total) →
      Starts s fun u c2 => c2.fault = none ∧ (∃ y, u.slotTile c c.op.ta = some y ∧ y = { x with
          st := tFilling, fmt := f, rows := rows, cols := cols, gcnt := granules f rows cols, count := 0, satf := false, gen := (s.fret x.pf).gen, data := y.data }) ∧
        ∀ y, u.slotTile c c.op.ta = some y → P u c2 y := by
    intro x hx
    rw [hx] at hperf
    have htile : (g (s.setTile c.cluster c.op.task c.op.pl c.op.ta (s.filling f rows cols x))).slotTile c c.op.ta =
        some { s.filling f rows cols x with data := d } := hw.some _ _ (slotTile_setTile_same _ _ _ _) rfl rfl
    refine hb.starts htake hperf ((apart_setTile _ _ _ _ _ _).trans (hw.apart _)) rfl rfl hready ⟨hready, ⟨_, htile, rfl⟩, fun y hy => hP _ _ ?_⟩
    have hy' := htile.symm.trans hy
    rw [← Option.some.inj hy']
  refine ⟨fun x hx hn => hbegun x (beginFill_again (c := (c.ready s.clock.cycle taken).bound doneAt total) hb.task hb.idx hx hn), fun hnone =>
    ⟨fun pf g hpl => hbegun _ (beginFill_placed (c := (c.ready s.clock.cycle taken).bound doneAt total) hb.task hb.idx hnone hpl), fun hpl hld => ?_⟩⟩
  have hfull := beginFill_full (c := (c.ready s.clock.cycle taken).bound doneAt total) hb.task hb.idx hnone hpl
  rw [hfull] at hperf
  dsimp only at hperf
  rw [hw.none s hnone] at hperf
  exact hb.fails_still htake (hstill hld) hperf (.refl s) rfl rfl ⟨rfl, rfl⟩

end

/-! ### Bytes laid out in equal blocks (R202) -/

/-- Of blocks of one length joined, each stands at its multiple of that length. -/
theorem take_drop_flatMap {α β : Type} {g : α → List β} {w : Nat} {l : List α} (hg : ∀ a ∈ l, (g a).length = w) {k : Nat} {a : α} (h : l[k]? = some a) :
    ((l.flatMap g).drop (k * w)).take w = g a := by
  induction l generalizing k with
  | nil => simp at h
  | cons b l ih =>
    have hb := hg b List.mem_cons_self
    rw [List.flatMap_cons]
    cases k with
    | zero =>
      obtain rfl : b = a := by simpa using h
      rw [Nat.zero_mul, List.drop_zero, List.take_append_of_le_length hb.ge, List.take_of_length_le hb.le]
    | succ k =>
      have hlen : (k + 1) * w = (g b).length + k * w := by rw [hb]; ring
      rw [hlen, List.drop_append, List.drop_of_length_le (by omega), List.nil_append, Nat.add_sub_cancel_left]
      exact ih (fun a ha => hg a (List.mem_cons_of_mem _ ha)) (by simpa using h)

/-- The places of a rectangle, row by row. -/
def cells (m n : Nat) : List (Nat × Nat) := (List.range m).flatMap fun i => (List.range n).map fun j => (i, j)

theorem cells_getElem? {m n i j : Nat} (hi : i < m) (hj : j < n) : (cells m n)[i * n + j]? = some (i, j) := by
  have hblock : ((cells m n).drop (i * n)).take n = (List.range n).map fun j => (i, j) :=
    take_drop_flatMap (fun a _ => by simp) (List.getElem?_range hi)
  have hget := congrArg (fun l : List (Nat × Nat) => l[j]?) hblock
  rw [List.getElem?_take_of_lt hj, List.getElem?_drop] at hget
  rw [hget, List.getElem?_map, List.getElem?_range hj]
  rfl

@[simp] theorem cells_length (m n : Nat) : (cells m n).length = m * n := by simp [cells, List.length_flatMap]

theorem mem_cells {m n : Nat} {q : Nat × Nat} : q ∈ cells m n ↔ q.1 < m ∧ q.2 < n := by
  obtain ⟨i, j⟩ := q
  simp [cells]

/-- Bytes read back from where they were written, from address 0. -/
theorem memBytes_memPutBytes_zero {bs : List Byte} {a n : Nat} (h : a + n ≤ bs.length) : memBytes (memPutBytes [] 0 bs) a n = (bs.drop a).take n := by
  rw [memBytes_eq_map]
  refine List.ext_getElem (by simp; omega) fun j hj _ => ?_
  have hj : j < n := by simpa using hj
  rw [List.getElem_map, List.getElem_range, memByte_memPutBytes, if_pos (by omega)]
  simp [List.getElem?_eq_getElem (show a + j < bs.length by omega)]

theorem leBytes_leNat (bs : List Byte) : leBytes bs.length (leNat bs) = bs := by
  induction bs with
  | nil => rfl
  | cons b bs ih =>
    have hb := b.isLt
    have hlow : BitVec.ofNat 8 (b.toNat + 256 * leNat bs) = b := BitVec.eq_of_toNat_eq (by rw [BitVec.toNat_ofNat]; omega)
    have hhigh : (b.toNat + 256 * leNat bs) / 256 = leNat bs := by omega
    rw [List.length_cons, leNat, leBytes, hlow, hhigh, ih]

/-- An element read back from bytes laid out place by place. -/
theorem memBytes_cells {m n w : Nat} {g : Nat × Nat → List Byte} (hg : ∀ q, (g q).length = w) {i j : Nat} (hi : i < m) (hj : j < n) :
    memBytes (memPutBytes [] 0 ((cells m n).flatMap g)) ((i * n + j) * w) w = g (i, j) := by
  have hlen : ((cells m n).flatMap g).length = m * n * w := by simp [List.length_flatMap, hg]
  have hplace : i * n + j + 1 ≤ m * n := by
    calc i * n + j + 1 ≤ i * n + n := by omega
      _ = (i + 1) * n := by ring
      _ ≤ m * n := Nat.mul_le_mul_right n hi
  rw [memBytes_memPutBytes_zero, take_drop_flatMap (fun a _ => hg a) (cells_getElem? hi hj)]
  rw [hlen, ← Nat.succ_mul]
  exact Nat.mul_le_mul_right w hplace

/-- The bytes of a transposed tile, place by place. -/
theorem transposed_cells (x : Tile) : x.transposed = (cells x.cols x.rows).flatMap fun q => leBytes x.fmt.esize (x.elemBits q.2 q.1) := by
  simp [Tile.transposed, cells, List.flatMap_assoc, List.flatMap_map]

/-- A row of the formats whose elements are whole bytes (R201). -/
theorem rowBytes_plain {f : TFmt} (hmx : f ≠ .mx4) (htrit : f ≠ .trit) (cols : Nat) : f.rowBytes cols = f.esize * cols := by
  cases f with
  | mx4 => exact absurd rfl hmx
  | trit => exact absurd rfl htrit
  | _ => rfl

/-- R364: each element of a transposed tile. -/
theorem transposed_elem {x : Tile} (hmx : x.fmt ≠ .mx4) (htrit : x.fmt ≠ .trit) {i j : Nat} (hi : i < x.rows) (hj : j < x.cols) :
    memBytes (memPutBytes [] 0 x.transposed) ((j * x.rows + i) * x.fmt.esize) x.fmt.esize = memBytes x.data ((i * x.cols + j) * x.fmt.esize) x.fmt.esize := by
  have hrow := rowBytes_plain hmx htrit x.cols
  have hlen : (memBytes x.data ((i * x.cols + j) * x.fmt.esize) x.fmt.esize).length = x.fmt.esize := by simp [memBytes_eq_map]
  have hat : i * x.fmt.rowBytes x.cols + j * x.fmt.esize = (i * x.cols + j) * x.fmt.esize := by
    rw [hrow]
    ring
  have hle := leBytes_leNat (memBytes x.data ((i * x.cols + j) * x.fmt.esize) x.fmt.esize)
  rw [transposed_cells, memBytes_cells (fun q => leBytes_length _ _) hj hi, Tile.elemBits, hat]
  rwa [hlen] at hle

/-! ### The tile forms as they start -/

section
variable {s : State} {t : Task} {p : Placement} {c : Cmd} (hb : Begins s t p c)
include hb

theorem Begins.tStat {f : FmtE} (h : c.op.instr = .tStat f) :
    Starts s fun u c2 => c2.fault = none ∧ c2.result = tileStatus (s.slotTile c c.op.ta) ∧ u.eng.tiles = s.eng.tiles := by
  obtain ⟨taken, htake⟩ := hb.takes
  have hinstr : (c.ready s.clock.cycle taken).op.instr = .tStat f := h
  have hperf : s.performCmd t p (c.ready s.clock.cycle taken) =
      (s, { c.ready s.clock.cycle taken with result := tileStatus (s.slotTile c c.op.ta) }) := by
    rw [State.performCmd, hinstr]
    rfl
  exact hb.starts htake hperf (.refl s) rfl rfl hb.fault ⟨hb.fault, rfl, rfl⟩

theorem Begins.tRel {f : FmtE} {x : Tile} (h : c.op.instr = .tRel f) (hx : s.slotTile c c.op.ta = some x) : Starts s fun u c2 => c2.fault = none ∧
    c2.flags = Flags.when (decide (x.st = tReady) && decide (x.count ≠ 0)) Flags.UNDERREAD ∧ u.slotTile c c.op.ta = none ∧ u.fab = s.fab := by
  obtain ⟨taken, htake⟩ := hb.takes
  have hinstr : (c.ready s.clock.cycle taken).op.instr = .tRel f := h
  have hx' : s.slotTile (c.ready s.clock.cycle taken) (c.ready s.clock.cycle taken).op.ta = some x := hx
  have hperf : s.performCmd t p (c.ready s.clock.cycle taken) = (s.dropTile c.cluster c.op.task c.op.pl c.op.ta,
      { c.ready s.clock.cycle taken with flags := Flags.when (decide (x.st = tReady) && decide (x.count ≠ 0)) Flags.UNDERREAD }) := by
    rw [State.performCmd, hinstr]
    dsimp only
    rw [State.startTrel, hx']
    rfl
  exact hb.starts htake hperf (apart_dropTile _ _ _ _ _) rfl rfl hb.fault ⟨hb.fault, rfl, slotTile_dropTile_same _ _ _, rfl⟩

/-- A form that fails its check of shape at one slot. -/
theorem Begins.engFails {taken : List (Nat × Tile)} (htake : Takes s t p c taken) (hstill : Still c) {reason slot : Nat}
    (hperf : s.performCmd t p (c.ready s.clock.cycle taken) = s.engFail (c.ready s.clock.cycle taken) reason [slot]) :
    Starts s fun u c2 => c2.fault = some (.engine, reason, slot) ∧ u.eng.tiles = s.eng.tiles :=
  hb.fails_still htake hstill (hperf.trans rfl) (.refl s) rfl rfl ⟨rfl, rfl⟩

theorem Begins.tZero {f : FmtE} (h : c.op.instr = .tZero f) :
    (∀ r, shapeReason c.op.fmt c.op.left = some r → Starts s fun u c2 => c2.fault = some (.engine, r, c.op.ta) ∧ u.eng.tiles = s.eng.tiles) ∧
    (shapeReason c.op.fmt c.op.left = none → Fills s t p c c.op.fmt (shapeRows c.op.left) (shapeCols c.op.left) fun _ c2 y =>
      c2.doneAt = s.clock.cycle + granules c.op.fmt (shapeRows c.op.left) (shapeCols c.op.left) ∧ y.data = []) := by
  obtain ⟨taken, htake⟩ := hb.takes
  have hinstr : (c.ready s.clock.cycle taken).op.instr = .tZero f := h
  have hperf : s.performCmd t p (c.ready s.clock.cycle taken) = s.startTzero t p (c.ready s.clock.cycle taken) := by rw [State.performCmd, hinstr]
  refine ⟨fun r hr => hb.engFails htake (still_tZero h) (hperf.trans ?_), fun hr => ?_⟩
  · have hr' : shapeReason (c.ready s.clock.cycle taken).op.fmt (c.ready s.clock.cycle taken).op.left = some r := hr
    rw [State.startTzero, hr']
    rfl
  · have hr' : shapeReason (c.ready s.clock.cycle taken).op.fmt (c.ready s.clock.cycle taken).op.left = none := hr
    refine hb.fills htake (doneAt := s.clock.cycle + granules c.op.fmt (shapeRows c.op.left) (shapeCols c.op.left)) (total := c.total)
      (writes_nothing c c.op.ta) (hperf.trans ?_) (fun _ => still_tZero h) fun u y hy => ⟨rfl, hy⟩
    rw [State.startTzero, hr']
    rfl

theorem Begins.tTr {f : FmtE} {x : Tile} (h : c.op.instr = .tTr f) (hx : s.operand c c.op.tb = some x) :
    (x.fmt = .mx4 ∨ x.fmt = .trit → Starts s fun u c2 => c2.fault = some (.engine, 6, c.op.tb) ∧ u.eng.tiles = s.eng.tiles) ∧
    (x.fmt ≠ .mx4 → x.fmt ≠ .trit → 4095 < x.cols → Starts s fun u c2 => c2.fault = some (.engine, 7, c.op.ta) ∧ u.eng.tiles = s.eng.tiles) ∧
    (x.fmt ≠ .mx4 → x.fmt ≠ .trit → x.cols ≤ 4095 → Fills s t p c x.fmt x.cols x.rows fun _ c2 y =>
      c2.doneAt = s.clock.cycle + (tileBytes x.fmt x.rows x.cols + 127) / 128 ∧
      ∀ i < x.rows, ∀ j < x.cols, memBytes y.data ((j * x.rows + i) * x.fmt.esize) x.fmt.esize = memBytes x.data ((i * x.cols + j) * x.fmt.esize) x.fmt.esize) := by
  obtain ⟨taken, htake⟩ := hb.takes
  have hinstr : (c.ready s.clock.cycle taken).op.instr = .tTr f := h
  have htile : (c.ready s.clock.cycle taken).tile? (c.ready s.clock.cycle taken).op.tb = some x := (htake.tile c.op.tb (by simp [tileReads, h])).trans hx
  have hperf : s.performCmd t p (c.ready s.clock.cycle taken) = s.startTtr t p (c.ready s.clock.cycle taken) := by rw [State.performCmd, hinstr]
  have hplain : x.fmt ≠ .mx4 → x.fmt ≠ .trit → ¬ (decide (x.fmt = .mx4) || decide (x.fmt = .trit)) = true := fun hmx htrit => by simp [hmx, htrit]
  refine ⟨fun hbad => hb.engFails htake (still_tTr h) (hperf.trans ?_), fun hmx htrit hwide => hb.engFails htake (still_tTr h) (hperf.trans ?_),
    fun hmx htrit hwide => ?_⟩
  · rw [State.startTtr, htile]
    exact if_pos (by simpa using hbad)
  · rw [State.startTtr, htile]
    exact (if_neg (hplain hmx htrit)).trans (if_pos hwide)
  · refine hb.fills htake (doneAt := s.clock.cycle + (tileBytes x.fmt x.rows x.cols + 127) / 128) (total := c.total)
      (writes_putTileData c c.op.ta x.transposed) (hperf.trans ?_) (fun _ => still_tTr h) fun u y hy => ⟨rfl, fun i hi j hj => ?_⟩
    · obtain ⟨fault, hres⟩ := beginFill_cmd s t p
        ((c.ready s.clock.cycle taken).bound (s.clock.cycle + (tileBytes x.fmt x.rows x.cols + 127) / 128) c.total) c.op.ta x.fmt x.cols x.rows
      have hput : ∀ r : State × Cmd, r.2 = { (c.ready s.clock.cycle taken).bound (s.clock.cycle + (tileBytes x.fmt x.rows x.cols + 127) / 128) c.total with
          fault := fault } → r.1.putTileData r.2 r.2.op.ta x.transposed false = r.1.putTileData c c.op.ta x.transposed false := by
        rintro ⟨u, _⟩ rfl
        rfl
      rw [State.startTtr, htile]
      dsimp only
      rw [if_neg (hplain hmx htrit), if_neg (not_lt.2 hwide), ← hput _ hres]
      rfl
    · rw [hy]
      exact transposed_elem hmx htrit hi hj

theorem Begins.tLd {f : FmtE} (h : c.op.instr = .tLd f) (hrow : s.rowFault t c = none) :
    (∀ r, shapeReason c.op.fmt c.op.right = some r → Starts s fun _ c2 => c2.fault = some (.engine, r, c.op.ta)) ∧
    (shapeReason c.op.fmt c.op.right = none → pitchReason c.op.fmt c.op.left.toNat (shapePitch c.op.right) = none →
      Fills s t p c c.op.fmt (shapeRows c.op.right) (shapeCols c.op.right) fun _ c2 y =>
        c2.progress = c.progress ∧ c2.total = tileBytes c.op.fmt (shapeRows c.op.right) (shapeCols c.op.right) ∧ y.data = []) := by
  obtain ⟨taken, htake⟩ := hb.takes
  have hinstr : (c.ready s.clock.cycle taken).op.instr = .tLd f := h
  have hperf : s.performCmd t p (c.ready s.clock.cycle taken) = s.startTld t p (c.ready s.clock.cycle taken) := by rw [State.performCmd, hinstr]
  refine ⟨fun r hr => ?_, fun hr hpitch => ?_⟩
  · have hr' : (shapeReason (c.ready s.clock.cycle taken).op.fmt (c.ready s.clock.cycle taken).op.right).or
        (pitchReason (c.ready s.clock.cycle taken).op.fmt (c.ready s.clock.cycle taken).op.left.toNat
          (shapePitch (c.ready s.clock.cycle taken).op.right)) = some r := congrArg (fun o : Option Nat => o.or _) hr
    have hfail : s.performCmd t p (c.ready s.clock.cycle taken) = (s, { c.ready s.clock.cycle taken with fault := some (.engine, r, c.op.ta) }) := by
      rw [hperf, State.startTld]
      dsimp only
      rw [hr']
      rfl
    exact hb.fails htake hfail (.refl s) rfl rfl hrow rfl
  · have hr' : (shapeReason (c.ready s.clock.cycle taken).op.fmt (c.ready s.clock.cycle taken).op.right).or
        (pitchReason (c.ready s.clock.cycle taken).op.fmt (c.ready s.clock.cycle taken).op.left.toNat
          (shapePitch (c.ready s.clock.cycle taken).op.right)) = none := (congrArg (fun o : Option Nat => o.or _) hr).trans hpitch
    refine hb.fills htake (doneAt := s.clock.cycle) (total := tileBytes c.op.fmt (shapeRows c.op.right) (shapeCols c.op.right))
      (writes_nothing c c.op.ta) (hperf.trans ?_) (fun hld => absurd h (hld f)) fun u y hy => ⟨rfl, rfl, hy⟩
    rw [State.startTld]
    dsimp only
    rw [hr']
    rfl

theorem Begins.tSt {f : FmtE} {x : Tile} (h : c.op.instr = .tSt f) (hto : c.toRead ≠ []) (hx : s.slotTile c c.op.ta = some x)
    (hpitch : pitchReason x.fmt c.op.left.toNat (bits c.op.right 31 0) = none) : Starts s fun u c2 =>
      c2.fault = none ∧ c2.total = tileBytes x.fmt x.rows x.cols ∧ u.slotTile c c.op.ta = some { x with st := tDraining } := by
  obtain ⟨taken, htake⟩ := hb.takes
  have hinstr : (c.ready s.clock.cycle taken).op.instr = .tSt f := h
  have htile : (c.ready s.clock.cycle taken).tile? (c.ready s.clock.cycle taken).op.ta = some x :=
    (htake.tile c.op.ta (by simp [tileReads, h])).trans ((if_neg hto).trans hx)
  have hpitch' : pitchReason x.fmt (c.ready s.clock.cycle taken).op.left.toNat (bits (c.ready s.clock.cycle taken).op.right 31 0) = none := hpitch
  have hperf : s.performCmd t p (c.ready s.clock.cycle taken) = (s.setTile c.cluster c.op.task c.op.pl c.op.ta { x with st := tDraining },
      { c.ready s.clock.cycle taken with total := tileBytes x.fmt x.rows x.cols }) := by
    rw [State.performCmd, hinstr]
    dsimp only
    rw [State.startTst, htile]
    dsimp only
    rw [hpitch']
    rfl
  exact hb.starts htake hperf (apart_setTile _ _ _ _ _ _) rfl rfl hb.fault ⟨hb.fault, rfl, slotTile_setTile_same _ _ _ _⟩

end

end Sys2Proof.Machine
end


section
/-!
PROOFS. Engine commands complete (R148, R357): the last part of obligation O47.
-/
namespace Sys2Proof.Machine

/-! ### What a command leaves of its tile (R148, R360, R361) -/

/-- A state with its tiles replaced. -/
def State.withTiles (s : State) (ts : Tab Tile) : State := { s with eng := { s.eng with tiles := ts } }

theorem setTile_withTiles (s : State) (cluster task pl slot : Nat) (x : Tile) :
    s.setTile cluster task pl slot x = s.withTiles (tput s.eng.tiles (tileKey cluster task pl slot) x) := rfl

theorem dropTile_withTiles (s : State) (cluster task pl slot : Nat) :
    s.dropTile cluster task pl slot = s.withTiles (tdel s.eng.tiles (tileKey cluster task pl slot)) := rfl

/-- No waiting read is applied where no command has one. -/
theorem consumeAll_none {s : State} (h : ∀ x ∈ s.eng.cmds, x.toRead = []) : s.consumeAll = s := by
  have hfold : ∀ (l done : List Cmd), (∀ x ∈ l, x.toRead = []) → l.foldl (fun (acc : State × List Cmd) c =>
      let (s, c) := acc.1.consumeCmd c
      (s, acc.2 ++ [c])) (s, done) = (s, done ++ l) := by
    intro l
    induction l with
    | nil => intro done _; simp
    | cons c l ih =>
      intro done hl
      rw [List.foldl_cons, consumeCmd_none (hl c List.mem_cons_self)]
      rw [ih _ fun x hx => hl x (List.mem_cons_of_mem _ hx), List.append_assoc, List.singleton_append]
  rw [State.consumeAll, hfold _ _ h]
  rfl

/-- The tile that a fill leaves: READY with its count, or gone where the fill has failed. -/
def Cmd.filled (c : Cmd) (x : Tile) : Option Tile :=
  if c.fault.isSome then none else some { x with st := tReady, count := match c.op.instr with | .tLd _ => c.op.count | _ => 0 }

/-- What a command's end makes of its tile. -/
structure Settled (s : State) (c : Cmd) (u : State) : Prop where
  other : tileFills c.op = none → (∀ f, c.op.instr ≠ .tSt f) → u.eng.tiles = s.eng.tiles
  filled : ∀ slot x, tileFills c.op = some slot → s.slotTile c slot = some x → x.st = tFilling → u.slotTile c slot = c.filled x
  drained : ∀ f x, c.op.instr = .tSt f → s.slotTile c c.op.ta = some x → x.st = tDraining → u.slotTile c c.op.ta = some { x with st := tReady }

/-- The first half of a settlement: a fill's tile. -/
def State.settleFill (s : State) (c : Cmd) : State :=
  match tileFills c.op, (tileFills c.op).bind (s.slotTile c) with
  | some slot, some x =>
    if x.st ≠ tFilling then s
    else if c.fault.isSome then s.dropTile c.cluster c.op.task c.op.pl slot
    else s.setTile c.cluster c.op.task c.op.pl slot { x with st := tReady, count := match c.op.instr with | .tLd _ => c.op.count | _ => 0 }
  | _, _ => s

/-- The second half of a settlement: a store's tile. -/
def State.settleStore (s : State) (c : Cmd) : State :=
  match c.op.instr, s.slotTile c c.op.ta with
  | .tSt _, some x => if x.st = tDraining then s.setTile c.cluster c.op.task c.op.pl c.op.ta { x with st := tReady } else s
  | _, _ => s

theorem settleTile_eq (s : State) (c : Cmd) : s.settleTile c = ((s.settleFill c).settleStore c).consumeAll := rfl

theorem settleFill_tiles (s : State) (c : Cmd) : ∃ ts, s.settleFill c = s.withTiles ts := by
  unfold State.settleFill
  split
  · split
    · exact ⟨s.eng.tiles, rfl⟩
    · split
      · exact ⟨_, dropTile_withTiles _ _ _ _ _⟩
      · exact ⟨_, setTile_withTiles _ _ _ _ _ _⟩
  · exact ⟨s.eng.tiles, rfl⟩

theorem settleStore_tiles (s : State) (c : Cmd) : ∃ ts, s.settleStore c = s.withTiles ts := by
  unfold State.settleStore
  split
  · split
    · exact ⟨_, setTile_withTiles _ _ _ _ _ _⟩
    · exact ⟨s.eng.tiles, rfl⟩
  · exact ⟨s.eng.tiles, rfl⟩

theorem settleFill_none {s : State} {c : Cmd} (h : tileFills c.op = none) : s.settleFill c = s := by rw [State.settleFill, h]

theorem settleFill_filling {s : State} {c : Cmd} {slot : Nat} {x : Tile} (h : tileFills c.op = some slot) (hx : s.slotTile c slot = some x)
    (hst : x.st = tFilling) : (s.settleFill c).slotTile c slot = c.filled x := by
  rw [State.settleFill, h, Option.bind_some, hx]
  dsimp only
  rw [if_neg (not_not.2 hst), Cmd.filled]
  split
  · exact slotTile_dropTile_same _ _ _
  · exact slotTile_setTile_same _ _ _ _

theorem settleStore_other {s : State} {c : Cmd} (h : ∀ f, c.op.instr ≠ .tSt f) : s.settleStore c = s := by
  unfold State.settleStore
  split
  next f _ hi _ => exact absurd hi (h f)
  next => rfl

theorem settleStore_draining {s : State} {c : Cmd} {f : FmtE} {x : Tile} (h : c.op.instr = .tSt f) (hx : s.slotTile c c.op.ta = some x)
    (hst : x.st = tDraining) : (s.settleStore c).slotTile c c.op.ta = some { x with st := tReady } := by
  rw [State.settleStore, h, hx]
  dsimp only
  rw [if_pos hst]
  exact slotTile_setTile_same _ _ _ _

/-- A `t.st` fills no tile. -/
theorem tSt_fills {op : WobOp} {f : FmtE} (h : op.instr = .tSt f) : tileFills op = none := by rw [tileFills, h]

/-- A settlement changes the command's tile alone, where no read waits. -/
theorem settleTile_settled {s : State} {c : Cmd} (h : ∀ x ∈ s.eng.cmds, x.toRead = []) :
    (∃ ts, s.settleTile c = s.withTiles ts) ∧ Settled s c (s.settleTile c) := by
  have hkeep : s.settleTile c = (s.settleFill c).settleStore c := by
    obtain ⟨ts, hts⟩ := settleFill_tiles s c
    obtain ⟨ts', hts'⟩ := settleStore_tiles (s.settleFill c) c
    rw [settleTile_eq]
    refine consumeAll_none ?_
    rw [hts', hts]
    exact h
  rw [hkeep]
  refine ⟨?_, fun hnone hst => ?_, fun slot x hslot hx hst => ?_, fun f x hi hx hst => ?_⟩
  · obtain ⟨ts, hts⟩ := settleFill_tiles s c
    obtain ⟨ts', hts'⟩ := settleStore_tiles (s.settleFill c) c
    exact ⟨ts', by rw [hts', hts]; rfl⟩
  · rw [settleStore_other hst, settleFill_none hnone]
  · rw [settleStore_other fun f hi => by simp [tSt_fills hi] at hslot]
    exact settleFill_filling hslot hx hst
  · rw [settleFill_none (tSt_fills hi)]
    exact settleStore_draining hi hx hst

/-! ### Completion (R357) -/

/-- A running command that completes alone: it is no near-memory command, no collective and no remote access. -/
structure Completes (s : State) (c : Cmd) (p : Placement) : Prop where
  flows : s.frozenNow = false
  done : s.completable s.subject = some c
  seq : c.op.seq = s.subject
  placed : s.placement? c.op.task c.op.pl = some p
  still : p.moving = []
  nmc : isNmc c.op.instr = false
  coll : s.collOf s.subject = none
  remote : ∀ r ∈ s.eng.remote, r.op.seq ≠ s.subject
  reads : ∀ x ∈ s.eng.cmds, x.op.seq ≠ s.subject → x.toRead = []

section
variable {s : State} {c : Cmd} {p : Placement} (h : Completes s c p)
include h

theorem Completes.lastWork : s.lastWork c = (s, c) := by
  have hcolls : s.eng.colls.filter (fun g => g.op.seq ≠ c.op.seq) = s.eng.colls := by
    refine List.filter_eq_self.2 fun g hg => ?_
    have hnone := List.find?_eq_none.1 h.coll g hg
    rw [h.seq]
    simpa using hnone
  have hremote : s.eng.remote.any (fun r => r.op.seq = c.op.seq) = false := by
    rw [List.any_eq_false]
    intro r hr
    rw [h.seq]
    simpa using h.remote r hr
  unfold State.lastWork
  split
  · rw [h.seq, h.coll]
    dsimp only
    rw [h.seq] at hremote
    rw [hremote]
    rfl
  · rw [hcolls]

/-- The command is gone, and its tile is settled. -/
def State.settledOf (s : State) (c : Cmd) : State := (s.dropCmd c.op.seq).settleTile c

theorem Completes.settled : (∃ ts, s.settledOf c = (s.dropCmd c.op.seq).withTiles ts) ∧ Settled s c (s.settledOf c) := by
  have hreads : ∀ x ∈ (s.dropCmd c.op.seq).eng.cmds, x.toRead = [] := fun x hx => by
    obtain ⟨hmem, hne⟩ := List.mem_filter.1 hx
    exact h.reads x hmem (by simpa [h.seq] using hne)
  obtain ⟨hts, hother, hfilled, hdrained⟩ := settleTile_settled (c := c) hreads
  exact ⟨hts, hother, hfilled, hdrained⟩

theorem Completes.next : exec .engineCommandComplete s = match c.fault with
    | some f => .next ((s.settledOf c).failCmd c.op f)
    | none => .next ((s.settledOf c).finishCmd c) := by
  have hbusy : ∀ u : State, u.unbusy c = u := fun u => by
    rw [State.unbusy, h.nmc]
    rfl
  rw [exec_engineCommandComplete, execEngineCommandComplete, h.done]
  dsimp only
  rw [inCycle_next h.flows, h.lastWork]
  dsimp only
  rw [hbusy]
  rfl

end

/-- The completion token of a command goes to its destinations with its flags; where it goes to no port, they are set at once. -/
theorem finishCmd_sends {s : State} {c : Cmd} {p : Placement} (hp : s.placement? c.op.task c.op.pl = some p) (hmov : p.moving = []) :
    (s.finishCmd c).sched = s.sched ∧ (s.finishCmd c).mem = s.mem ∧ (s.finishCmd c).eng = s.eng ∧
    (s.finishCmd c).fab.net = s.fab.net ++ flaggedToks p (p.homePf c.op.tag) c.op.tag c.op.wave c.result s.clock.cycle c.dests c.flags ∧
    ∃ q, (s.finishCmd c).placement? c.op.task c.op.pl = some q ∧ q.flags = if c.dests.all (fun d => d.port = .sink) then p.flags.or c.flags else p.flags := by
  obtain ⟨w, hw⟩ : ∃ w, w = if c.dests.all (fun d => d.port = .sink) then s.setFlags c.op.task c.op.pl c.flags else s := ⟨_, rfl⟩
  obtain ⟨q, hq⟩ : ∃ q, q = if c.dests.all (fun d => d.port = .sink) then { p with flags := p.flags.or c.flags } else p := ⟨_, rfl⟩
  have hwq : w.placement? c.op.task c.op.pl = some q := by
    rw [hw, hq]
    split
    · exact placement_mod s _ _ (fun p => { p with flags := p.flags.or c.flags }) p hp
    · exact hp
  have hqmov : q.moving = [] := by
    rw [hq]
    split <;> exact hmov
  have hflags : q.flags = if c.dests.all (fun d => d.port = .sink) then p.flags.or c.flags else p.flags := by
    rw [hq]
    split <;> rfl
  have htoks : flaggedToks q (q.homePf c.op.tag) c.op.tag c.op.wave c.result w.clock.cycle c.dests c.flags =
      flaggedToks p (p.homePf c.op.tag) c.op.tag c.op.wave c.result s.clock.cycle c.dests c.flags := by
    rw [hw, hq]
    split <;> rfl
  have hfin : s.finishCmd c = (w.sendAll (q.homePf c.op.tag) c.op.task c.op.pl c.op.tag c.op.wave c.result c.dests c.flags).countOp c.op 0x0A := by
    rw [State.finishCmd, ← hw, hwq]
  have hsend := sendAll_net hwq hqmov (q.homePf c.op.tag) c.op.tag c.op.wave c.result c.dests c.flags
  rw [htoks] at hsend
  have hsame : w.sched = s.sched ∧ w.mem = s.mem ∧ w.eng = s.eng ∧ w.fab.net = s.fab.net := by
    rw [hw]
    split <;> exact ⟨rfl, rfl, rfl, rfl⟩
  obtain ⟨hsched, hmem, heng, hnet⟩ := hsame
  rw [hfin, hsend]
  exact ⟨hsched, hmem, heng, congrArg (· ++ _) hnet, q, hwq, hflags⟩

/-- A fault found after a commit lands at once. -/
theorem failCmd_lands {s : State} {op : WobOp} {p : Placement} {t : Thread} {k : Task} {code : FCode} {reason addr : Nat}
    (hp : s.placement? op.task op.pl = some p) (ht : p.thread? op.tag = some t) (hserial : t.serial = op.serial) (hstop : t.stopped = false)
    (hnone : t.faults = []) (hk : s.task? op.task = some k) : let u := s.failCmd op (code, reason, addr)
    u.eng = s.eng ∧ u.mem = s.mem ∧ u.fab.net = s.fab.net ∧
    (∃ q, u.placement? op.task op.pl = some q ∧ q.thread? op.tag = some { t with stopped := true } ∧ q.wob = p.wob.filter (fun o => o.tag ≠ op.tag)) ∧
    TaskIs u op.task (fun k' => ∃ f at', k' = { k with nfault := min 0x10000 (k.nfault + 1), reports := k.reports ++ [(f, at')] } ∧
      f.code = code ∧ f.reason = reason ∧ f.addr = addr ∧ f.kind = .afterCommit ∧ f.wave = op.wave ∧ f.tag = op.tag) := by
  have hfail : s.failCmd op (code, reason, addr) = s.findFault (s.opFault op .afterCommit code reason addr) op.task := by
    rw [State.failCmd, State.faultAfter, hp]
    exact if_pos (by simp [ht, hserial])
  intro u
  obtain ⟨⟨q, hq, hqt, hqw, -⟩, ⟨r, at', hr, hrec⟩, hu⟩ := findFault_lands (s := s) (f := s.opFault op .afterCommit code reason addr) (task := op.task)
    hp ht hnone hstop hk rfl
  have hthread : ({ t with stopped := true, faults := [] } : Thread) = { t with stopped := true } := by
    cases t
    cases hnone
    rfl
  have hu' : u = s.findFault (s.opFault op .afterCommit code reason addr) op.task := hfail
  have heng := congrArg State.eng hu
  have hmem := congrArg State.mem hu
  have hnet := congrArg (fun u : State => u.fab.net) hu
  rw [hu']
  refine ⟨heng, hmem, hnet, ⟨q, hq, ?_, hqw⟩, _, hr, r, at', rfl, ?_⟩
  · rw [← hthread]
    exact hqt
  · rw [hrec]
    exact ⟨rfl, rfl, rfl, rfl, rfl, rfl⟩

section
variable {s : State} {c : Cmd} {p : Placement} (h : Completes s c p)
include h

/-- What a completion leaves of the engines and of memory. -/
theorem Completes.leaves {u : State} (heng : u.eng = (s.settledOf c).eng) (hmem : u.mem = (s.settledOf c).mem) :
    (u.eng.cmds = s.eng.cmds.filter (fun x => x.op.seq ≠ s.subject) ∧ u.mem = s.mem) ∧ Settled s c u := by
  obtain ⟨⟨ts, hts⟩, hother, hfilled, hdrained⟩ := h.settled
  have hslot : ∀ slot, u.slotTile c slot = (s.settledOf c).slotTile c slot := fun slot =>
    congrArg (fun e : Eng => tget e.tiles (tileKey c.cluster c.op.task c.op.pl slot)) heng
  refine ⟨⟨?_, ?_⟩, fun hn hst => ?_, fun slot x h1 h2 h3 => (hslot slot).trans (hfilled slot x h1 h2 h3),
    fun f x h1 h2 h3 => (hslot _).trans (hdrained f x h1 h2 h3)⟩
  · rw [heng, hts, ← h.seq]
    rfl
  · rw [hmem, hts]
    rfl
  · rw [heng]
    exact hother hn hst

/-- A command that met no fault sends its token. -/
theorem Completes.sends (hfault : c.fault = none) : ∃ u, exec .engineCommandComplete s = .next u ∧
    (u.eng.cmds = s.eng.cmds.filter (fun x => x.op.seq ≠ s.subject) ∧ u.mem = s.mem) ∧ Settled s c u ∧ u.sched = s.sched ∧
    u.fab.net = s.fab.net ++ flaggedToks p (p.homePf c.op.tag) c.op.tag c.op.wave c.result s.clock.cycle c.dests c.flags ∧
    ∃ q, u.placement? c.op.task c.op.pl = some q ∧ q.flags = if c.dests.all (fun d => d.port = .sink) then p.flags.or c.flags else p.flags := by
  have hnext := h.next
  rw [hfault] at hnext
  obtain ⟨⟨ts, hts⟩, -⟩ := h.settled
  have hp : (s.settledOf c).placement? c.op.task c.op.pl = some p := by
    rw [hts]
    exact h.placed
  obtain ⟨hsched, hmem, heng, hnet, hq⟩ := finishCmd_sends (s := s.settledOf c) hp h.still
  obtain ⟨hgone, hsettled⟩ := h.leaves heng hmem
  refine ⟨_, hnext, hgone, hsettled, hsched.trans (by rw [hts]; rfl), hnet.trans (by rw [hts]; rfl), hq⟩

/-- A command that failed lands its fault. -/
theorem Completes.faults {code : FCode} {reason addr : Nat} {t : Thread} {k : Task} (hfault : c.fault = some (code, reason, addr))
    (ht : p.thread? c.op.tag = some t) (hserial : t.serial = c.op.serial) (hstop : t.stopped = false) (hnone : t.faults = [])
    (hk : s.task? c.op.task = some k) : ∃ u, exec .engineCommandComplete s = .next u ∧
    (u.eng.cmds = s.eng.cmds.filter (fun x => x.op.seq ≠ s.subject) ∧ u.mem = s.mem) ∧ Settled s c u ∧ u.fab.net = s.fab.net ∧
    (∃ q, u.placement? c.op.task c.op.pl = some q ∧ q.thread? c.op.tag = some { t with stopped := true } ∧ q.wob = p.wob.filter (fun o => o.tag ≠ c.op.tag)) ∧
    TaskIs u c.op.task (fun k' => ∃ f at', k' = { k with nfault := min 0x10000 (k.nfault + 1), reports := k.reports ++ [(f, at')] } ∧
      f.code = code ∧ f.reason = reason ∧ f.addr = addr ∧ f.kind = .afterCommit ∧ f.wave = c.op.wave ∧ f.tag = c.op.tag) := by
  have hnext := h.next
  rw [hfault] at hnext
  obtain ⟨⟨ts, hts⟩, -⟩ := h.settled
  have hp : (s.settledOf c).placement? c.op.task c.op.pl = some p := by
    rw [hts]
    exact h.placed
  have hk' : (s.settledOf c).task? c.op.task = some k := by
    rw [hts]
    exact hk
  obtain ⟨heng, hmem, hnet, hq, htask⟩ := failCmd_lands (code := code) (reason := reason) (addr := addr) hp ht hserial hstop hnone hk'
  obtain ⟨hgone, hsettled⟩ := h.leaves heng hmem
  exact ⟨_, hnext, hgone, hsettled, hnet.trans (by rw [hts]; rfl), hq, htask⟩

end

/-- Settles O47: a unit accepts a command with its consuming read; a start takes the operands as they stand and begins the tile that it fills; a completion
settles the tile, and sends the token or lands the fault. -/
theorem engineEvents : Obligations.EngineEvents := by
  unfold Obligations.EngineEvents
  refine fun s => ⟨fun op k p hf hop hk hp hacc => ?_, fun t p c hstart hseq htask hidx hfault hfill hreads => ?_,
    fun c p hf hdone hseq hp hmov hnmc hcoll hremote hreads => ?_⟩
  · exact ⟨fun f hcopy => accepts_copy hf hop hk hp hacc hcopy, fun hreads hcopy => accepts_untiled hf hop hk hp hacc hreads hcopy,
      fun slot x hreads hx hst => ⟨fun h => accepts_waiting hf hop hk hp hacc hreads hx h,
        fun hcount hconsumes => accepts_consuming hf hop hk hp hacc hreads hx hst hcount hconsumes⟩⟩
  · have hb : Begins s t p c := ⟨hstart, hseq, htask, hidx, hfault, hfill, hreads⟩
    exact ⟨fun f h => hb.tStat h, fun f x h hx => hb.tRel h hx, fun f h => hb.tZero h, fun f x h hx => hb.tTr h hx, fun f h hrow => hb.tLd h hrow,
      fun f x h hto hx hpitch => hb.tSt h hto hx hpitch⟩
  · have hc : Completes s c p := ⟨hf, hdone, hseq, hp, hmov, hnmc, hcoll, hremote, hreads⟩
    refine ⟨fun hfault => ?_, fun code reason addr t k hfault ht hserial hstop hnone hk => ?_⟩
    · obtain ⟨u, hnext, hgone, ⟨hother, hfilled, hdrained⟩, hsched, hnet, hq⟩ := hc.sends hfault
      have hdests : c.dests = match c.steer with
          | none => c.op.instr.dests
          | some k => (c.op.instr.dests.drop k).take 1 := by
        rw [Cmd.dests]
        cases c.steer <;> rfl
      rw [hdests] at hnet hq
      exact ⟨u, hnext, hgone, ⟨hother, hfilled, hdrained⟩, hsched, hnet, hq⟩
    · obtain ⟨u, hnext, hgone, ⟨hother, hfilled, hdrained⟩, hnet, hq, htk⟩ := hc.faults hfault ht hserial hstop hnone hk
      exact ⟨u, hnext, hgone, ⟨hother, hfilled, hdrained⟩, hnet, hq, htk⟩

end Sys2Proof.Machine
end


section
/-!
PROOFS. One output of the matrix engines (R211, R213, R214): the first part of obligation O48.
-/
namespace Sys2Proof.Machine

/-! ### Flags that stay raised -/

theorem sat_or_left {f : Flags} (h : f.sat = true) (g : Flags) : (f.or g).sat = true := by simp [Flags.or, h]

theorem sat_or_right {g : Flags} (h : g.sat = true) (f : Flags) : (f.or g).sat = true := by simp [Flags.or, h]

/-! ### A fold, step by step -/

/-- A fold over the first g numbers. -/
def foldTo {β : Type} (step : β → Nat → β) (b : β) (g : Nat) : β := (List.range g).foldl step b

theorem foldTo_succ {β : Type} (step : β → Nat → β) (b : β) (g : Nat) : foldTo step b (g + 1) = step (foldTo step b g) g := by
  rw [foldTo, foldTo, List.range_succ, List.foldl_append, List.foldl_cons, List.foldl_nil]

/-! ### `mm.tern` (R211) -/

/-- A byte's value as a ternary weight's digit k (R203). -/
theorem tritW_eq (b : Tile) (n g : Nat) {i : Nat} (hi : i < 5) :
    b.tritW n (5 * g + i) = ([0, 1, -1] : List ℤ).getD ((memByte b.data (n * (b.cols / 5) + g)).toNat / 3 ^ i % 3) 0 := by
  have hdiv : (5 * g + i) / 5 = g := by omega
  have hmod : (5 * g + i) % 5 = i := by omega
  rw [Tile.tritW, hdiv, hmod]
  have hlt : (memByte b.data (n * (b.cols / 5) + g)).toNat / 3 ^ i % 3 < 3 := Nat.mod_lt _ (by norm_num)
  generalize (memByte b.data (n * (b.cols / 5) + g)).toNat / 3 ^ i % 3 = d at hlt
  obtain rfl | rfl | rfl : d = 0 ∨ d = 1 ∨ d = 2 := by omega
  · rfl
  · rfl
  · rfl

/-- A signed byte of a tile. -/
theorem elemBits_s8 {a : Tile} (h : a.fmt = .s8) (m k : Nat) : BitVec.ofNat 8 (a.elemBits m k) = memByte a.data (m * a.cols + k) := by
  have hbits : a.elemBits m k = (memByte a.data (m * a.cols + k)).toNat := by
    simp [Tile.elemBits, h, TFmt.rowBytes, TFmt.esize, memBytes, leNat]
  rw [hbits, BitVec.ofNat_toNat, BitVec.setWidth_eq]

/-- The exact sum of a group of five products. -/
def ternPart (a b : Tile) (m n g : Nat) : ℤ := ∑ i ∈ Finset.range 5,
  (memByte a.data (m * a.cols + (5 * g + i))).toInt * ([0, 1, -1] : List ℤ).getD ((memByte b.data (n * (b.cols / 5) + g)).toNat / 3 ^ i % 3) 0

theorem ternPart_eq {a : Tile} (h : a.fmt = .s8) (b : Tile) (m n g : Nat) : (List.range 5).foldl (fun (acc : Int) i =>
    acc + (BitVec.ofNat 8 (a.elemBits m (5 * g + i))).toInt * b.tritW n (5 * g + i)) 0 = ternPart a b m n g := by
  have hsum : ∀ f : Nat → ℤ, (List.range 5).foldl (fun acc i => acc + f i) 0 = ∑ i ∈ Finset.range 5, f i := fun f => by
    simp [List.range, List.range.loop, Finset.sum_range_succ]
  rw [hsum]
  refine Finset.sum_congr rfl fun i hi => ?_
  rw [elemBits_s8 h, tritW_eq b n g (Finset.mem_range.1 hi)]

theorem toInt_ofInt_32 {v : ℤ} (hlo : -(2 ^ 31) ≤ v) (hhi : v < 2 ^ 31) : (BitVec.ofInt 32 v).toInt = v := by
  rw [BitVec.toInt_ofInt, Int.bmod_def]
  norm_num at hlo hhi ⊢
  split <;> omega

/-- One group added: the sum is held within range, and SAT tells where it was held. -/
theorem ternStep_adds {a : Tile} (h : a.fmt = .s8) (b : Tile) (m n : Nat) (st : AccSt) (g : Nat) : let r := ternStep a b m n st g
    r.1.toInt = max (-(2 ^ 31 - 1)) (min (2 ^ 31 - 1) (st.1.toInt + ternPart a b m n g)) ∧
    (r.1.toInt ≠ st.1.toInt + ternPart a b m n g → r.2.sat = true) ∧ (st.2.sat = true → r.2.sat = true) := by
  intro r
  have hr : r = ternStep a b m n st g := rfl
  rw [ternStep, ternPart_eq h] at hr
  generalize st.1.toInt + ternPart a b m n g = v at hr ⊢
  rw [hr]
  split
  next hbig =>
    dsimp only
    rw [toInt_ofInt_32 (by norm_num) (by norm_num)]
    exact ⟨by omega, fun _ => sat_or_right rfl _, fun hs => sat_or_left hs _⟩
  next hbig =>
    split
    next hsmall =>
      dsimp only
      rw [toInt_ofInt_32 (by norm_num) (by norm_num)]
      exact ⟨by omega, fun _ => sat_or_right rfl _, fun hs => sat_or_left hs _⟩
    next hsmall =>
      dsimp only
      rw [toInt_ofInt_32 (by omega) (by omega)]
      exact ⟨by omega, fun hne => absurd rfl hne, id⟩

theorem foldTo_tern_sat {a : Tile} (h : a.fmt = .s8) (b : Tile) (m n : Nat) (st : AccSt) {g k : Nat} (hgk : g ≤ k)
    (hs : (foldTo (ternStep a b m n) st g).2.sat = true) : (foldTo (ternStep a b m n) st k).2.sat = true := by
  induction k, hgk using Nat.le_induction with
  | base => exact hs
  | succ k _ ih =>
    rw [foldTo_succ]
    exact (ternStep_adds h b m n _ k).2.2 ih

/-- R211: an output is the sum of its groups, held after each of them. -/
theorem ternOut_sums {a : Tile} (h : a.fmt = .s8) (b : Tile) (m n : Nat) (old : BitVec 32) (K : Nat) : let r := foldTo (ternStep a b m n) (old, Flags.none) K
    ∃ v : Nat → ℤ, v 0 = old.toInt ∧ (∀ g < K, v (g + 1) = max (-(2 ^ 31 - 1)) (min (2 ^ 31 - 1) (v g + ternPart a b m n g)) ∧
      (v (g + 1) ≠ v g + ternPart a b m n g → r.2.sat = true)) ∧ r.1 = BitVec.ofInt 32 (v K) := by
  refine ⟨fun g => (foldTo (ternStep a b m n) (old, Flags.none) g).1.toInt, rfl, fun g hg => ?_, (BitVec.ofInt_toInt ..).symm⟩
  obtain ⟨hval, hsat, -⟩ := ternStep_adds h b m n (foldTo (ternStep a b m n) (old, Flags.none) g) g
  rw [← foldTo_succ (ternStep a b m n)] at hval hsat
  exact ⟨hval, fun hne => foldTo_tern_sat h b m n _ hg (hsat hne)⟩

/-! ### Sums of groups (R213, R214, R367) -/

/-- A group's rounded sum added to an accumulator element with one rounding more. -/
theorem accAdd_adds (st : AccSt) (q : Nat × Flags) : ∃ r : Nat × Flags,
    AddResult fmtF32 .rne 0 (fmtF32.unpack st.1.toNat) (fmtF32.unpack q.1) r ∧ (accAdd st q).1 = BitVec.ofNat 32 r.1 :=
  ⟨_, sum_or_nan fmtF32 (by decide) .rne false 0 _ _, rfl⟩

/-- A group that is a NaN makes the element the canonical NaN. -/
theorem nan_adds (v : BitVec 32) : ∃ r : Nat × Flags,
    AddResult fmtF32 .rne 0 (fmtF32.unpack v.toNat) (fmtF32.unpack fmtF32.canonNan) r ∧ BitVec.ofNat 32 fmtF32.canonNan = BitVec.ofNat 32 r.1 := by
  have hnan : (fmtF32.unpack fmtF32.canonNan).isNan = true := by decide
  refine ⟨(fmtF32.canonNan, Flags.when ([fmtF32.unpack v.toNat, fmtF32.unpack fmtF32.canonNan].any FVal.isSnan) Flags.NV), ?_, rfl⟩
  rw [AddResult, hnan, Bool.or_true, if_pos rfl]
  rfl

/-- One group of an accumulation: what its step does, where it is a NaN and where it has a sum. -/
structure GroupStep (width : Nat) (bad : Prop) (x y : Nat → FVal) (st st' : AccSt) : Prop where
  adds : ∃ q r : Nat × Flags, AddResult fmtF32 .rne 0 (fmtF32.unpack st.1.toNat) (fmtF32.unpack q.1) r ∧ st'.1 = BitVec.ofNat 32 r.1 ∧
    (bad → q.1 = fmtF32.canonNan) ∧ (¬ bad → ∃ ps, Products width x y ps ∧ SumResult fmtF32 .rne false 0 ps q)

/-- An accumulation, from what each of its groups does. -/
theorem accumulates_of {n width : Nat} {bad : Nat → Prop} {x y : Nat → Nat → FVal} {step : AccSt → Nat → AccSt}
    (h : ∀ g < n, ∀ st, GroupStep width (bad g) (x g) (y g) st (step st g)) (old : BitVec 32) :
    Accumulates n width bad x y old (foldTo step (old, Flags.none) n).1 := by
  refine ⟨fun g => (foldTo step (old, Flags.none) g).1, rfl, rfl, fun g hg => ?_⟩
  obtain ⟨hadds⟩ := h g hg (foldTo step (old, Flags.none) g)
  rw [← foldTo_succ step] at hadds
  exact hadds

/-- The product of two numbers: an infinity, or their exact product. -/
theorem times_spec {u v : FVal} (hu : u.isNan = false) (hv : v.isNan = false) :
    if u.isInf || v.isInf then u.times v = .inf (u.neg? ^^ v.neg?)
    else (u.times v).isFin = true ∧ (u.times v).rat = u.rat * v.rat ∧ (u.times v).neg? = (u.neg? ^^ v.neg?) := by
  cases u with
  | nan s => simp [FVal.isNan] at hu
  | inf n => simp [FVal.isInf, FVal.times]
  | fin n m e =>
    cases v with
    | nan s => simp [FVal.isNan] at hv
    | inf n' => simp [FVal.isInf, FVal.times]
    | fin n' m' e' =>
      simp only [FVal.isInf, Bool.or_false, Bool.false_eq_true, if_false, FVal.times]
      exact ⟨rfl, fin_mul n n' m m' e e', rfl⟩

/-- The products of a group of numbers, none of which pairs 0 with infinity. -/
theorem products_times {width : Nat} {x y : Nat → FVal} (hx : ∀ i < width, (x i).isNan = false ∧ (y i).isNan = false) :
    Products width x y ((List.range width).map fun i => (x i).times (y i)) := by
  refine ⟨by simp, fun i p hp => ?_⟩
  obtain ⟨hi, hp⟩ := List.getElem?_eq_some_iff.1 hp
  have hi' : i < width := by simpa using hi
  rw [List.getElem_map, List.getElem_range] at hp
  obtain ⟨hu, hv⟩ := hx i hi'
  rw [← hp]
  exact times_spec hu hv

/-- The sum of a group's products, rounded once. -/
theorem sum_times (width : Nat) (x y : Nat → FVal) : SumResult fmtF32 .rne false 0 ((List.range width).map fun i => (x i).times (y i))
    (fmtF32.finish .rne false 0 (sumVals .rne ((List.range width).map fun i => (x i).times (y i)))) := by
  refine finish_sum fmtF32 (by decide) .rne false 0 _ ?_
  rw [List.any_map, List.any_eq_false]
  intro i _
  simp [isNan_times]

/-! ### `mm.mx4` (R213) -/

theorem mxValue_isFin {code4 code : Nat} (h : code ≠ 0xFF) : (mxValue code4 code).isFin = true := by
  obtain ⟨neg, m, e, -, hv⟩ := mxValue_of_code (code4 := code4) h
  rw [hv]
  rfl

theorem mulVals_fin {u v : FVal} (hu : u.isFin = true) (hv : v.isFin = true) : mulVals u v = some (u.times v) := by
  cases u <;> cases v <;> simp_all [FVal.isFin, mulVals, FVal.times]

theorem isNan_of_isFin {u : FVal} (hu : u.isFin = true) : u.isNan = false := by
  cases u <;> simp_all [FVal.isFin, FVal.isNan]

/-- An element of an `mx4` tile with its block's scale. -/
def Tile.mxVal (t : Tile) (r j i : Nat) : FVal := mxValue (t.mxElem r (32 * j + i)) (t.mxScale r j)

/-- R213: one block of 32. -/
theorem mxStep_group (a b : Tile) (m n : Nat) (st : AccSt) (j : Nat) :
    GroupStep 32 (a.mxScale m j = 0xFF ∨ b.mxScale n j = 0xFF) (a.mxVal m j) (b.mxVal n j) st (mxStep a b m n st j) := by
  refine ⟨?_⟩
  by_cases hbad : a.mxScale m j = 0xFF ∨ b.mxScale n j = 0xFF
  · obtain ⟨r, hr, hval⟩ := nan_adds st.1
    have hstep : mxStep a b m n st j = (BitVec.ofNat 32 fmtF32.canonNan, st.2.or Flags.NV) := by
      rw [mxStep]
      exact if_pos (by simpa using hbad)
    exact ⟨(fmtF32.canonNan, Flags.NV), r, hr, by rw [hstep]; exact hval, fun _ => rfl, fun hgood => absurd hbad hgood⟩
  · obtain ⟨ha, hb⟩ := not_or.1 hbad
    have hfin : ∀ i, (a.mxVal m j i).isFin = true ∧ (b.mxVal n j i).isFin = true := fun i => ⟨mxValue_isFin ha, mxValue_isFin hb⟩
    have hps : (List.range 32).filterMap (fun i => mulVals (mxValue (a.mxElem m (32 * j + i)) (a.mxScale m j)) (mxValue (b.mxElem n (32 * j + i)) (b.mxScale n j))) =
        (List.range 32).map fun i => (a.mxVal m j i).times (b.mxVal n j i) := by
      rw [← List.filterMap_eq_map]
      exact List.filterMap_congr fun i _ => mulVals_fin (hfin i).1 (hfin i).2
    obtain ⟨r, hr, hval⟩ := accAdd_adds st (fmtF32.finish .rne false 0 (sumVals .rne ((List.range 32).map fun i => (a.mxVal m j i).times (b.mxVal n j i))))
    have hstep : mxStep a b m n st j =
        accAdd st (fmtF32.finish .rne false 0 (sumVals .rne ((List.range 32).map fun i => (a.mxVal m j i).times (b.mxVal n j i)))) := by
      rw [mxStep, ← hps]
      exact if_neg (by simp [ha, hb])
    exact ⟨_, r, hr, by rw [hstep]; exact hval, fun h => absurd h hbad, fun _ => ⟨_,
      products_times fun i _ => ⟨isNan_of_isFin (hfin i).1, isNan_of_isFin (hfin i).2⟩, sum_times 32 _ _⟩⟩

/-- R200: the sixteen codes of E2M1. -/
theorem unpack_e2m1 {code : Nat} (h : code < 16) : fmtE2m1.unpack code =
    .fin (decide (8 ≤ code)) (([0, 1, 2, 3, 2, 3, 2, 3] : List Nat).getD (code % 8) 0) (([-1, -1, -1, -1, 0, 0, 1, 1] : List ℤ).getD (code % 8) 0) := by
  interval_cases code <;> rfl

theorem e2m1_magnitude {k : Nat} (h : k < 8) : ((([0, 1, 2, 3, 2, 3, 2, 3] : List Nat).getD k 0 : Nat) : ℚ) *
    2 ^ (([-1, -1, -1, -1, 0, 0, 1, 1] : List ℤ).getD k 0) = ([0, 1 / 2, 1, 3 / 2, 2, 3, 4, 6] : List ℚ).getD k 0 := by
  interval_cases k <;> norm_num

/-- R200, R202: what an element of an `mx4` tile is, by its code and its block's scale. -/
theorem mxVal_spec {x : Tile} {r j i code : Nat} (hcode : x.mxElem r (32 * j + i) = code) (hlt : code < 16) (hscale : x.mxScale r j ≠ 0xFF) :
    (x.mxVal r j i).isFin = true ∧ (x.mxVal r j i).neg? = decide (8 ≤ code) ∧
    |(x.mxVal r j i).rat| = ([0, 1 / 2, 1, 3 / 2, 2, 3, 4, 6] : List ℚ).getD (code % 8) 0 * (2 : ℚ) ^ ((x.mxScale r j : ℤ) - 127) := by
  have hval : x.mxVal r j i = .fin (decide (8 ≤ code)) (([0, 1, 2, 3, 2, 3, 2, 3] : List Nat).getD (code % 8) 0)
      (([-1, -1, -1, -1, 0, 0, 1, 1] : List ℤ).getD (code % 8) 0 + ((x.mxScale r j : ℤ) - 127)) := by
    rw [Tile.mxVal, hcode, mxValue, if_neg hscale, unpack_e2m1 hlt]
  rw [hval]
  refine ⟨rfl, rfl, ?_⟩
  rw [abs_rat_fin, zpow_add₀ (by norm_num), ← mul_assoc, e2m1_magnitude (Nat.mod_lt _ (by norm_num))]

/-! ### `mm.d` (R214) -/

/-- An element of a tile of a number format. -/
def Tile.num (x : Tile) (r k : Nat) : FVal := (tileNum x.fmt).unpack (x.elemBits r k)

/-- Whether a pair of operands has no product: a NaN, or 0 and an infinity. -/
def NoProduct (u v : FVal) : Prop := u.isNan = true ∨ v.isNan = true ∨ (u.isZero = true ∧ v.isInf = true) ∨ (u.isInf = true ∧ v.isZero = true)

theorem mulVals_some {u v : FVal} (h : ¬ NoProduct u v) : u.isNan = false ∧ v.isNan = false ∧ mulVals u v = some (u.times v) := by
  rw [NoProduct, not_or, not_or, not_or] at h
  obtain ⟨hu, hv, h1, h2⟩ := h
  have hu' := Bool.eq_false_iff.2 hu
  have hv' := Bool.eq_false_iff.2 hv
  refine ⟨hu', hv', (mulVals_eq u v hu' hv').trans (if_neg ?_)⟩
  rw [Bool.or_eq_true, Bool.and_eq_true, Bool.and_eq_true, not_or]
  exact ⟨h1, h2⟩

theorem mulVals_none {u v : FVal} (hu : u.isNan = false) (hv : v.isNan = false) (h : NoProduct u v) : mulVals u v = none := by
  refine (mulVals_eq u v hu hv).trans (if_pos ?_)
  rw [Bool.or_eq_true, Bool.and_eq_true, Bool.and_eq_true]
  rcases h with h | h | h
  · exact absurd h (by simp [hu])
  · exact absurd h (by simp [hv])
  · exact h

/-- A group of sixteen: NaN where a pair has no product, and otherwise the sum of the products. -/
theorem denseGroup_eq (a b : Tile) (m n g : Nat) :
    ((∃ i < 16, NoProduct (a.num m (16 * g + i)) (b.num n (16 * g + i))) → denseGroup a b m n g = (fmtF32.canonNan, Flags.NV)) ∧
    ((¬ ∃ i < 16, NoProduct (a.num m (16 * g + i)) (b.num n (16 * g + i))) → denseGroup a b m n g =
      fmtF32.finish .rne false 0 (sumVals .rne ((List.range 16).map fun i => (a.num m (16 * g + i)).times (b.num n (16 * g + i))))) := by
  have hzip : (((List.range 16).map fun i => a.num m (16 * g + i)).zip ((List.range 16).map fun i => b.num n (16 * g + i))).map (fun q => mulVals q.1 q.2) =
      (List.range 16).map fun i => mulVals (a.num m (16 * g + i)) (b.num n (16 * g + i)) := by
    rw [List.zip_map', List.map_map]
    rfl
  have hgroup : denseGroup a b m n g =
      if ((List.range 16).map fun i => a.num m (16 * g + i)).any FVal.isNan || ((List.range 16).map fun i => b.num n (16 * g + i)).any FVal.isNan then
        (fmtF32.canonNan, Flags.NV)
      else if ((List.range 16).map fun i => mulVals (a.num m (16 * g + i)) (b.num n (16 * g + i))).any Option.isNone then (fmtF32.canonNan, Flags.NV)
      else fmtF32.finish .rne false 0 (sumVals .rne
        (((List.range 16).map fun i => mulVals (a.num m (16 * g + i)) (b.num n (16 * g + i))).filterMap id)) := by
    rw [← hzip]
    rfl
  rw [hgroup]
  refine ⟨fun ⟨i, hi, hbad⟩ => ?_, fun hgood => ?_⟩
  · split
    · rfl
    next hnum =>
      simp only [List.any_map, Bool.or_eq_true, List.any_eq_true, List.mem_range, Function.comp_apply, not_or, not_exists, not_and, Bool.not_eq_true] at hnum
      refine if_pos ?_
      rw [List.any_map, List.any_eq_true]
      exact ⟨i, List.mem_range.2 hi, by rw [Function.comp_apply, mulVals_none (hnum.1 i hi) (hnum.2 i hi) hbad]; rfl⟩
  · have hsome := fun i (hi : i ∈ List.range 16) => mulVals_some fun h => hgood ⟨i, List.mem_range.1 hi, h⟩
    have hps : (List.range 16).map (fun i => mulVals (a.num m (16 * g + i)) (b.num n (16 * g + i))) =
        ((List.range 16).map fun i => (a.num m (16 * g + i)).times (b.num n (16 * g + i))).map some := by
      rw [List.map_map]
      exact List.map_congr_left fun i hi => (hsome i hi).2.2
    have hnum : ¬ (((List.range 16).map fun i => a.num m (16 * g + i)).any FVal.isNan || ((List.range 16).map fun i => b.num n (16 * g + i)).any FVal.isNan) = true := by
      simp only [List.any_map, Bool.or_eq_true, List.any_eq_true, Function.comp_apply, not_or, not_exists, not_and, Bool.not_eq_true]
      exact ⟨fun i hi => (hsome i hi).1, fun i hi => (hsome i hi).2.1⟩
    rw [if_neg hnum, hps]
    simp

/-- R214: one group of sixteen. -/
theorem denseStep_group (a b : Tile) (m n : Nat) (st : AccSt) (g : Nat) :
    GroupStep 16 (∃ i < 16, NoProduct (a.num m (16 * g + i)) (b.num n (16 * g + i))) (fun i => a.num m (16 * g + i)) (fun i => b.num n (16 * g + i)) st
      (denseStep a b m n st g) := by
  obtain ⟨hbad, hgood⟩ := denseGroup_eq a b m n g
  obtain ⟨r, hr, hval⟩ := accAdd_adds st (denseGroup a b m n g)
  refine ⟨_, r, hr, hval, fun h => by rw [hbad h], fun h => ⟨_, products_times fun i hi => ?_, ?_⟩⟩
  · obtain ⟨hx, hy, -⟩ := mulVals_some fun hno => h ⟨i, hi, hno⟩
    exact ⟨hx, hy⟩
  · rw [hgood h]
    exact sum_times 16 _ _

/-- The bits of an element of a format whose elements are whole bytes. -/
theorem elemBits_plain {x : Tile} (hmx : x.fmt ≠ .mx4) (htrit : x.fmt ≠ .trit) (r k : Nat) :
    x.elemBits r k = leNat (memBytes x.data ((r * x.cols + k) * x.fmt.esize) x.fmt.esize) := by
  rw [Tile.elemBits, rowBytes_plain hmx htrit]
  congr 2
  ring

end Sys2Proof.Machine
end


section
/-!
PROOFS. Matrix commands as they start (R365 to R367): the second part of obligation O48.
-/
namespace Sys2Proof.Machine

/-! ### Outputs written place by place -/

/-- The places of a rectangle have keys of their own in rows at least as wide. -/
theorem cell_key_inj {w : Nat} {q q' : Nat × Nat} (hq : q.2 < w) (hq' : q'.2 < w) (h : w * q.1 + q.2 = w * q'.1 + q'.2) : q = q' := by
  have hw : 0 < w := by omega
  have hdiv := congrArg (· / w) h
  have hmod := congrArg (· % w) h
  simp only [Nat.mul_add_div hw, Nat.div_eq_of_lt hq, Nat.div_eq_of_lt hq', Nat.mul_add_mod, Nat.mod_eq_of_lt hq, Nat.mod_eq_of_lt hq', Nat.add_zero] at hdiv hmod
  exact Prod.ext hdiv hmod

theorem cells_nodup (m n : Nat) : (cells m n).Nodup := List.Nodup.product List.nodup_range List.nodup_range

/-- One place's output written, and its flags raised. -/
def putCell (out : Nat × Nat → BitVec 32 → AccSt) (w : Nat) (st : Tab (BitVec 32) × Flags) (q : Nat × Nat) : Tab (BitVec 32) × Flags :=
  (tput st.1 (w * q.1 + q.2) (out q (tgetD st.1 (w * q.1 + q.2) 0)).1, st.2.or (out q (tgetD st.1 (w * q.1 + q.2) 0)).2)

/-- Places that none of the outputs has are left alone. -/
theorem putCells_other (out : Nat × Nat → BitVec 32 → AccSt) (w : Nat) {l : List (Nat × Nat)} {k : Nat} (hk : ∀ q ∈ l, w * q.1 + q.2 ≠ k)
    (st : Tab (BitVec 32) × Flags) : tgetD (l.foldl (putCell out w) st).1 k 0 = tgetD st.1 k 0 := by
  induction l generalizing st with
  | nil => rfl
  | cons q l ih =>
    rw [List.foldl_cons, ih fun q' hq' => hk q' (List.mem_cons_of_mem _ hq')]
    exact tgetD_tput_ne _ _ _ _ _ (hk q List.mem_cons_self).symm

theorem putCells_sat (out : Nat × Nat → BitVec 32 → AccSt) (w : Nat) (l : List (Nat × Nat)) {st : Tab (BitVec 32) × Flags} (h : st.2.sat = true) :
    (l.foldl (putCell out w) st).2.sat = true := by
  induction l generalizing st with
  | nil => exact h
  | cons q l ih => exact ih (sat_or_left h _)

/-- Each output is that of its place's old value, and its SAT is raised. -/
theorem putCells_same (out : Nat × Nat → BitVec 32 → AccSt) {w : Nat} {l : List (Nat × Nat)} (hl : l.Nodup) (hw : ∀ q ∈ l, q.2 < w) {q : Nat × Nat}
    (hq : q ∈ l) (st : Tab (BitVec 32) × Flags) : let r := l.foldl (putCell out w) st
    tgetD r.1 (w * q.1 + q.2) 0 = (out q (tgetD st.1 (w * q.1 + q.2) 0)).1 ∧ ((out q (tgetD st.1 (w * q.1 + q.2) 0)).2.sat = true → r.2.sat = true) := by
  induction l generalizing st with
  | nil => cases hq
  | cons x l ih =>
    obtain ⟨hx, hl⟩ := List.nodup_cons.1 hl
    have hdiff : ∀ a b : Nat × Nat, a ∈ x :: l → b ∈ x :: l → a ≠ b → w * a.1 + a.2 ≠ w * b.1 + b.2 := fun a b ha hb hab h =>
      hab (cell_key_inj (hw a ha) (hw b hb) h)
    intro r
    by_cases hqx : q = x
    · subst hqx
      have hother := putCells_other out w (l := l) (k := w * q.1 + q.2)
        (fun y hy => hdiff y q (List.mem_cons_of_mem _ hy) List.mem_cons_self fun h => hx (h ▸ hy)) (putCell out w st q)
      refine ⟨hother.trans (tgetD_tput_same _ _ _ _), fun hs => putCells_sat out w l (sat_or_right hs _)⟩
    · have hmem := (List.mem_cons.1 hq).resolve_left hqx
      have hold : tgetD (putCell out w st x).1 (w * q.1 + q.2) 0 = tgetD st.1 (w * q.1 + q.2) 0 :=
        tgetD_tput_ne _ _ _ _ _ (hdiff q x hq List.mem_cons_self hqx)
      have hrest := ih hl (fun y hy => hw y (List.mem_cons_of_mem _ hy)) hmem (putCell out w st x)
      rw [hold] at hrest
      exact hrest

/-! ### A whole matrix command (R366) -/

/-- An accumulator's element as a command finds it. -/
def Accum.oldOf (acc : Accum) (clr : Bool) (k : Nat) : BitVec 32 := if clr then 0 else tgetD acc.elems k 0

/-- What a command makes of its accumulator: its outputs, and the rest as it was. -/
structure Outputs (i : Instr) (a b : Tile) (acc : Accum) (r : Accum × Flags) : Prop where
  kind : r.1.kind = accKindOf i
  outputs : ∀ m n, m < a.rows → n < b.rows →
    tgetD r.1.elems (accCols (accSel i) * m + n) 0 = (mmOut i a b m n (acc.oldOf (accClr i) (accCols (accSel i) * m + n))).1 ∧
    ((mmOut i a b m n (acc.oldOf (accClr i) (accCols (accSel i) * m + n))).2.sat = true → r.2.sat = true)
  rest : ∀ m n, n < accCols (accSel i) → a.rows ≤ m ∨ b.rows ≤ n →
    tgetD r.1.elems (accCols (accSel i) * m + n) 0 = acc.oldOf (accClr i) (accCols (accSel i) * m + n)
  sat : ∀ bank clr f, i = .mmTern bank clr f → r.2.sat = true → r.1.sat = true

/-- Whether a command marks its accumulator saturated (R215): a ternary one alone. -/
def ternSat (i : Instr) (fl : Flags) : Bool :=
  match i with
  | .mmTern _ _ _ => fl.sat
  | _ => false

/-- A command runs over the places of its outputs. -/
theorem mmRun_eq (i : Instr) (a b : Tile) (acc : Accum) : mmRun i a b acc =
    (let r := (cells a.rows b.rows).foldl (putCell (fun q v => mmOut i a b q.1 q.2 v) (accCols (accSel i))) ((if accClr i then Accum.zero else acc).elems, Flags.none)
     ({ kind := accKindOf i, sat := (if accClr i then Accum.zero else acc).sat || ternSat i r.2, elems := r.1 }, r.2)) := rfl

theorem mmRun_outputs (i : Instr) (a b : Tile) (acc : Accum) (hcols : b.rows ≤ accCols (accSel i)) : Outputs i a b acc (mmRun i a b acc) := by
  let start : Tab (BitVec 32) × Flags := ((if accClr i then Accum.zero else acc).elems, Flags.none)
  have hold : ∀ k, tgetD start.1 k 0 = acc.oldOf (accClr i) k := fun k => by
    dsimp only [start]
    rw [Accum.oldOf]
    split <;> rfl
  have hw : ∀ q ∈ cells a.rows b.rows, q.2 < accCols (accSel i) := fun q hq => (mem_cells.1 hq).2.trans_le hcols
  rw [mmRun_eq]
  refine ⟨rfl, fun m n hm hn => ?_, fun m n hn hout => ?_, fun bank clr f hi hs => ?_⟩
  · rw [← hold]
    exact putCells_same (fun q v => mmOut i a b q.1 q.2 v) (cells_nodup _ _) hw (q := (m, n)) (mem_cells.2 ⟨hm, hn⟩) start
  · rw [← hold]
    refine putCells_other (fun q v => mmOut i a b q.1 q.2 v) _ (fun q hq h => ?_) start
    obtain ⟨hq1, hq2⟩ := mem_cells.1 hq
    have heq : q = (m, n) := cell_key_inj (hw q hq) hn h
    rw [heq] at hq1 hq2
    rcases hout with hout | hout
    · exact absurd hq1 (not_lt.2 hout)
    · exact absurd hq2 (not_lt.2 hout)
  · subst hi
    dsimp only [ternSat] at hs ⊢
    rw [hs, Bool.or_true]

/-! ### Accumulators of a cluster (R365) -/

theorem accum_setAccum_same (s : State) (cluster sel : Nat) (x : Accum) : (s.setAccum cluster sel x).accum cluster sel = x := tgetD_tput_same _ _ _ _

theorem accum_setAccum_ne (s : State) (cluster : Nat) {sel k : Nat} (x : Accum) (h : k ≠ sel) : (s.setAccum cluster sel x).accum cluster k = s.accum cluster k :=
  tgetD_tput_ne _ _ _ _ _ (by rw [accKey, accKey]; omega)

/-! ### Matrix commands as they start -/

/-- The three matrix forms. -/
theorem isMm_cases {i : Instr} (h : isMm i = true) : (∃ bank clr f, i = .mmTern bank clr f) ∨ (∃ bank clr f, i = .mmMx4 bank clr f) ∨ ∃ clr f, i = .mmD clr f := by
  unfold isMm at h
  split at h
  next bank clr f => exact .inl ⟨bank, clr, f, rfl⟩
  next bank clr f => exact .inr (.inl ⟨bank, clr, f, rfl⟩)
  next clr f => exact .inr (.inr ⟨clr, f, rfl⟩)
  next => cases h

theorem still_mm {c : Cmd} (h : isMm c.op.instr = true) : Still c := by
  rcases isMm_cases h with ⟨bank, clr, f, hi⟩ | ⟨bank, clr, f, hi⟩ | ⟨clr, f, hi⟩
  all_goals exact ⟨fun u c' hop => by simp [State.cmdRows, hop, hi], fun u c' hop => emptyFailed_other (by simp [hop, hi]) (by simp [hop, hi])⟩

theorem tileReads_mm {op : WobOp} (h : isMm op.instr = true) : tileReads op = [op.ta, op.tb] := by
  rcases isMm_cases h with ⟨bank, clr, f, hi⟩ | ⟨bank, clr, f, hi⟩ | ⟨clr, f, hi⟩
  all_goals rw [tileReads, hi]

theorem performCmd_mm {s : State} {t : Task} {p : Placement} {c : Cmd} (h : isMm c.op.instr = true) : s.performCmd t p c = s.startMm c := by
  rcases isMm_cases h with ⟨bank, clr, f, hi⟩ | ⟨bank, clr, f, hi⟩ | ⟨clr, f, hi⟩
  all_goals rw [State.performCmd, hi]

/-- What a matrix command leaves as it starts. -/
structure Multiplied (s : State) (c : Cmd) (a b : Tile) (u : State) (c2 : Cmd) : Prop where
  fault : c2.fault = none
  busy : c2.busyEnd = s.clock.cycle + (mmCycles c.op a b).1
  done : c2.doneAt = c2.busyEnd + (mmCycles c.op a b).2
  tiles : u.eng.tiles = s.eng.tiles
  flags : c2.flags = (mmRun c.op.instr a b (s.accum c.cluster (accSel c.op.instr))).2
  accum : u.accum c.cluster (accSel c.op.instr) = (mmRun c.op.instr a b (s.accum c.cluster (accSel c.op.instr))).1
  others : ∀ k, k ≠ accSel c.op.instr → u.accum c.cluster k = s.accum c.cluster k

section
variable {s : State} {t : Task} {p : Placement} {c : Cmd} (hb : Begins s t p c) (hmm : isMm c.op.instr = true) {a b : Tile}
  (ha : s.operand c c.op.ta = some a) (hbt : s.operand c c.op.tb = some b)
include hb hmm ha hbt

/-- A matrix command with its operands. -/
theorem Begins.mm : ∃ taken, Takes s t p c taken ∧ s.performCmd t p (c.ready s.clock.cycle taken) = s.startMm (c.ready s.clock.cycle taken) ∧
    (c.ready s.clock.cycle taken).tile? c.op.ta = some a ∧ (c.ready s.clock.cycle taken).tile? c.op.tb = some b := by
  obtain ⟨taken, htake⟩ := hb.takes
  have hreads := tileReads_mm hmm
  exact ⟨taken, htake, performCmd_mm hmm, (htake.tile _ (by simp [hreads])).trans ha, (htake.tile _ (by simp [hreads])).trans hbt⟩

/-- A matrix command whose checks hold. -/
theorem Begins.multiplies (hreason : mmReason c.op a b (s.accum c.cluster (accSel c.op.instr)).kind = none) : Starts s (Multiplied s c a b) := by
  obtain ⟨taken, htake, hperf, hta, htb⟩ := hb.mm hmm ha hbt
  let run := mmRun c.op.instr a b (s.accum c.cluster (accSel c.op.instr))
  let u := (s.setAccum c.cluster (accSel c.op.instr) run.1).countEvent c.cluster c.op.task (if accSel c.op.instr = 2 then 0x10 else 0x0E) (mmCycles c.op a b).1
  let u' := match c.op.instr with
    | .mmTern _ _ _ => u.countEvent c.cluster c.op.task 0x0F (zeroGroups b)
    | _ => u
  have hstart : s.startMm (c.ready s.clock.cycle taken) = (u', { c.ready s.clock.cycle taken with
      flags := run.2
      busyEnd := s.clock.cycle + (mmCycles c.op a b).1
      doneAt := s.clock.cycle + (mmCycles c.op a b).1 + (mmCycles c.op a b).2 }) := by
    have hreason' : mmReason (c.ready s.clock.cycle taken).op a b (s.accum (c.ready s.clock.cycle taken).cluster (accSel (c.ready s.clock.cycle taken).op.instr)).kind =
      none := hreason
    have hta' : (c.ready s.clock.cycle taken).tile? (c.ready s.clock.cycle taken).op.ta = some a := hta
    have htb' : (c.ready s.clock.cycle taken).tile? (c.ready s.clock.cycle taken).op.tb = some b := htb
    rw [State.startMm, hta', htb']
    dsimp only
    rw [hreason']
    rfl
  have hu : u'.fab.net = s.fab.net ∧ u'.mem = s.mem ∧ u'.sched = s.sched ∧ u'.eng = (s.setAccum c.cluster (accSel c.op.instr) run.1).eng := by
    dsimp only [u']
    split <;> exact ⟨rfl, rfl, rfl, rfl⟩
  obtain ⟨hnet, hmem, hsched, heng⟩ := hu
  have haccum : ∀ k, u'.accum c.cluster k = (s.setAccum c.cluster (accSel c.op.instr) run.1).accum c.cluster k := fun k => by rw [State.accum, heng]; rfl
  refine hb.starts htake (hperf.trans hstart) ⟨hnet, hmem, hsched, by rw [heng]; rfl⟩ rfl rfl hb.fault ⟨hb.fault, rfl, rfl, ?_, rfl, ?_, fun k hk => ?_⟩
  · have htiles := congrArg Eng.tiles heng
    exact htiles
  · exact (haccum _).trans (accum_setAccum_same _ _ _ _)
  · exact (haccum k).trans (accum_setAccum_ne _ _ _ hk)

/-- A matrix command that fails its check of formats at one operand. -/
theorem Begins.mm_fails {reason slot : Nat} (hreason : mmReason c.op a b (s.accum c.cluster (accSel c.op.instr)).kind = some (reason, [slot])) :
    Starts s fun u c2 => c2.fault = some (.engine, reason, slot) ∧ u.eng.accs = s.eng.accs := by
  obtain ⟨taken, htake, hperf, hta, htb⟩ := hb.mm hmm ha hbt
  have hstart : s.startMm (c.ready s.clock.cycle taken) = (s, { c.ready s.clock.cycle taken with fault := some (.engine, reason, slot) }) := by
    have hreason' : mmReason (c.ready s.clock.cycle taken).op a b (s.accum (c.ready s.clock.cycle taken).cluster (accSel (c.ready s.clock.cycle taken).op.instr)).kind =
      some (reason, [slot]) := hreason
    have hta' : (c.ready s.clock.cycle taken).tile? (c.ready s.clock.cycle taken).op.ta = some a := hta
    have htb' : (c.ready s.clock.cycle taken).tile? (c.ready s.clock.cycle taken).op.tb = some b := htb
    rw [State.startMm, hta', htb']
    dsimp only
    rw [hreason']
    rfl
  exact hb.fails_still htake (still_mm hmm) (hperf.trans hstart) (.refl s) rfl rfl ⟨rfl, rfl⟩

end

end Sys2Proof.Machine
end


section
/-!
PROOFS. The three matrix forms (R211, R213, R214, R366, R367): the third part of obligation O48.
-/
namespace Sys2Proof.Machine

theorem Starts.mono {s : State} {P Q : State → Cmd → Prop} (h : Starts s P) (hPQ : ∀ u c2, P u c2 → Q u c2) : Starts s Q := by
  obtain ⟨u, hnext, hnet, hmem, hsched, c2, hc2, hrun, hP⟩ := h
  exact ⟨u, hnext, hnet, hmem, hsched, c2, hc2, hrun, hPQ u c2 hP⟩

/-- A matrix command that runs: its end, the outputs that it writes, and what it leaves alone. -/
def Runs (s : State) (c : Cmd) (sel : Nat) (clr : Bool) (a b : Tile) (w hand : Nat) (P : State → Cmd → Nat → Nat → BitVec 32 → BitVec 32 → Prop) : Prop :=
  Starts s fun u c2 =>
    let old := fun (k : Nat) => if clr then (0 : BitVec 32) else tgetD (s.accum c.cluster sel).elems k 0
    let new := fun (k : Nat) => tgetD (u.accum c.cluster sel).elems k 0
    c2.fault = none ∧ c2.doneAt = c2.busyEnd + hand ∧ u.eng.tiles = s.eng.tiles ∧ (∀ k, k ≠ sel → sel < 4 → k < 4 → u.accum c.cluster k = s.accum c.cluster k) ∧
    (∀ m n, m < a.rows → n < b.rows → P u c2 m n (old (w * m + n)) (new (w * m + n))) ∧
    (∀ m n, n < w → a.rows ≤ m ∨ b.rows ≤ n → new (w * m + n) = old (w * m + n))

/-- A running matrix command, seen from one output. -/
structure Output (s : State) (c : Cmd) (a b : Tile) (m n : Nat) (old new : BitVec 32) (u : State) (c2 : Cmd) : Prop where
  busy : c2.busyEnd = s.clock.cycle + (mmCycles c.op a b).1
  kind : (u.accum c.cluster (accSel c.op.instr)).kind = accKindOf c.op.instr
  value : new = (mmOut c.op.instr a b m n old).1
  flags : (mmOut c.op.instr a b m n old).2.sat = true → c2.flags.sat = true
  sat : ∀ bank clr f, c.op.instr = .mmTern bank clr f → c2.flags.sat = true → (u.accum c.cluster (accSel c.op.instr)).sat = true

section
variable {s : State} {t : Task} {p : Placement} {c : Cmd} (hb : Begins s t p c) {a b : Tile}
  (ha : s.operand c c.op.ta = some a) (hbt : s.operand c c.op.tb = some b)
include hb ha hbt

/-- A matrix command runs where its checks hold and each of its outputs is as its form says. -/
theorem Begins.runs {sel w hand : Nat} {clr : Bool} {P : State → Cmd → Nat → Nat → BitVec 32 → BitVec 32 → Prop} (hmm : isMm c.op.instr = true)
    (hsel : accSel c.op.instr = sel) (hclr : accClr c.op.instr = clr) (hw : accCols sel = w) (hhand : (mmCycles c.op a b).2 = hand)
    (hreason : mmReason c.op a b (s.accum c.cluster sel).kind = none) (hcols : b.rows ≤ w)
    (hP : ∀ u c2 m n old new, m < a.rows → n < b.rows → Output s c a b m n old new u c2 → P u c2 m n old new) : Runs s c sel clr a b w hand P := by
  subst hsel hclr hw hhand
  refine (hb.multiplies hmm ha hbt hreason).mono fun u c2 h => ?_
  obtain ⟨hkind, houts, hrest, hsat⟩ := mmRun_outputs c.op.instr a b (s.accum c.cluster (accSel c.op.instr)) hcols
  rw [← h.accum] at hkind houts hrest hsat
  rw [← h.flags] at houts hsat
  refine ⟨h.fault, h.done, h.tiles, fun k hk _ _ => h.others k hk, fun m n hm hn => hP u c2 m n _ _ hm hn ?_, hrest⟩
  obtain ⟨hvalue, hflags⟩ := houts m n hm hn
  exact ⟨h.busy, hkind, hvalue, hflags, hsat⟩

/-- `mm.tern` of a tile that is no `s8` fails its check of formats. -/
theorem Begins.tern_fails {bank clr : Bool} {f : FmtE} (hi : c.op.instr = .mmTern bank clr f) (hfmt : a.fmt ≠ .s8) :
    Starts s fun u c2 => c2.fault = some (.engine, 6, c.op.ta) ∧ u.eng.accs = s.eng.accs := by
  refine hb.mm_fails (by rw [hi]; rfl) ha hbt ?_
  simp [mmReason, mmFmtBad, hi, hfmt]

/-- `mm.tern` (R211): each output is the sum of its groups of five, held after each. -/
theorem Begins.tern {bank clr : Bool} {f : FmtE} (hi : c.op.instr = .mmTern bank clr f) (hfa : a.fmt = .s8) (hfb : b.fmt = .trit) (hcols : a.cols = b.cols)
    (hk : a.cols % 5 = 0) (hra : a.rows ≤ 192) (hrb : b.rows ≤ 192)
    (hkind : clr = true ∨ (s.accum c.cluster bank.toNat).kind = .none ∨ (s.accum c.cluster bank.toNat).kind = .int) :
    Runs s c bank.toNat clr a b 192 12 fun u c2 m n old new => (u.accum c.cluster bank.toNat).kind = .int ∧ ∃ v : Nat → ℤ, v 0 = old.toInt ∧
      (∀ g < a.cols / 5, v (g + 1) = max (-(2 ^ 31 - 1)) (min (2 ^ 31 - 1) (v g + ternPart a b m n g)) ∧
        (v (g + 1) ≠ v g + ternPart a b m n g → c2.flags.sat = true ∧ (u.accum c.cluster bank.toNat).sat = true)) ∧ new = BitVec.ofInt 32 (v (a.cols / 5)) := by
  have hsel : accSel c.op.instr = bank.toNat := by rw [hi]; rfl
  have hbank : accCols bank.toNat = 192 ∧ accRows bank.toNat = 192 := by cases bank <;> exact ⟨rfl, rfl⟩
  refine hb.runs ha hbt (by rw [hi]; rfl) hsel (by rw [hi]; rfl) hbank.1 (by rw [mmCycles, hi]) ?_ hrb fun u c2 m n old new hm hn h => ?_
  · have hclr : ¬ ((!clr && decide ((s.accum c.cluster bank.toNat).kind ≠ .none)) && decide ((s.accum c.cluster bank.toNat).kind ≠ .int)) = true := by
      rcases hkind with h | h | h <;> simp [h]
    have hk' : b.cols % 5 = 0 := hcols ▸ hk
    simp only [mmReason, mmFmtBad, hi, hfa, hfb, accClr, accKindOf, accSel, mmK, hbank, hclr, hk, hk', hcols, not_lt.2 hra, not_lt.2 hrb]
    simp
  · obtain ⟨v, hv0, hstep, hlast⟩ := ternOut_sums hfa b m n old (a.cols / 5)
    have hout : mmOut c.op.instr a b m n old = foldTo (ternStep a b m n) (old, Flags.none) (a.cols / 5) := by rw [hi]; rfl
    have hkind' := h.kind
    have hsat := h.sat bank clr f hi
    have hflags := h.flags
    rw [hout] at hflags
    rw [hsel] at hkind' hsat
    rw [hi] at hkind'
    exact ⟨hkind', v, hv0, fun g hg => ⟨(hstep g hg).1, fun hne => ⟨hflags ((hstep g hg).2 hne), hsat (hflags ((hstep g hg).2 hne))⟩⟩,
      (h.value.trans (congrArg Prod.fst hout)).trans hlast⟩

/-- `mm.mx4` (R213): each output is its element with the sums of its blocks of 32 added one after another. -/
theorem Begins.mx4 {bank clr : Bool} {f : FmtE} (hi : c.op.instr = .mmMx4 bank clr f) (hfa : a.fmt = .mx4) (hfb : b.fmt = .mx4) (hcols : a.cols = b.cols)
    (hk : a.cols % 32 = 0) (hra : a.rows ≤ 192) (hrb : b.rows ≤ 192)
    (hkind : clr = true ∨ (s.accum c.cluster bank.toNat).kind = .none ∨ (s.accum c.cluster bank.toNat).kind = .fp) :
    Runs s c bank.toNat clr a b 192 12 fun u c2 m n old new => (u.accum c.cluster bank.toNat).kind = .fp ∧ c2.busyEnd = s.clock.cycle + 24 + a.cols ∧
      Accumulates (a.cols / 32) 32 (fun j => a.mxScale m j = 0xFF ∨ b.mxScale n j = 0xFF) (a.mxVal m) (b.mxVal n) old new := by
  have hsel : accSel c.op.instr = bank.toNat := by rw [hi]; rfl
  have hbank : accCols bank.toNat = 192 ∧ accRows bank.toNat = 192 := by cases bank <;> exact ⟨rfl, rfl⟩
  refine hb.runs ha hbt (by rw [hi]; rfl) hsel (by rw [hi]; rfl) hbank.1 (by rw [mmCycles, hi]) ?_ hrb fun u c2 m n old new hm hn h => ?_
  · have hclr : ¬ ((!clr && decide ((s.accum c.cluster bank.toNat).kind ≠ .none)) && decide ((s.accum c.cluster bank.toNat).kind ≠ .fp)) = true := by
      rcases hkind with h | h | h <;> simp [h]
    have hk' : b.cols % 32 = 0 := hcols ▸ hk
    simp only [mmReason, mmFmtBad, hi, hfa, hfb, accClr, accKindOf, accSel, mmK, hbank, hclr, hk, hk', hcols, not_lt.2 hra, not_lt.2 hrb]
    simp
  · have hout : mmOut c.op.instr a b m n old = foldTo (mxStep a b m n) (old, Flags.none) (a.cols / 32) := by rw [hi]; rfl
    have hkind' := h.kind
    have hbusy := h.busy
    rw [hsel, hi] at hkind'
    rw [mmCycles, hi] at hbusy
    refine ⟨hkind', hbusy.trans (Nat.add_assoc ..).symm, ?_⟩
    rw [h.value, hout]
    exact accumulates_of (fun j _ st => mxStep_group a b m n st j) old

/-- `mm.d` (R214): each output is its element with the sums of its groups of sixteen added one after another. -/
theorem Begins.dense {clr : Bool} {f : FmtE} (hi : c.op.instr = .mmD clr f) (hfa : a.fmt = c.op.fmt)
    (hfb : if a.fmt = .e4m3 ∨ a.fmt = .e5m2 then b.fmt = .e4m3 ∨ b.fmt = .e5m2 else b.fmt = a.fmt) (hcols : a.cols = b.cols)
    (hk : a.cols % 16 = 0) (hra : a.rows ≤ 96) (hrb : b.rows ≤ 64)
    (hkind : clr = true ∨ (s.accum c.cluster 2).kind = .none ∨ (s.accum c.cluster 2).kind = .fp) :
    Runs s c 2 clr a b 64 8 fun u c2 m n old new => (u.accum c.cluster 2).kind = .fp ∧
      c2.busyEnd = s.clock.cycle + 16 + a.cols / (if a.fmt = .e4m3 ∨ a.fmt = .e5m2 then 2 else 1) ∧
      Accumulates (a.cols / 16) 16 (fun g => ∃ i < 16, NoProduct (a.num m (16 * g + i)) (b.num n (16 * g + i)))
        (fun g i => a.num m (16 * g + i)) (fun g i => b.num n (16 * g + i)) old new := by
  have hsel : accSel c.op.instr = 2 := by rw [hi]; rfl
  refine hb.runs ha hbt (by rw [hi]; rfl) hsel (by rw [hi]; rfl) rfl (by rw [mmCycles, hi]) ?_ hrb fun u c2 m n old new hm hn h => ?_
  · have hclr : ¬ ((!clr && decide ((s.accum c.cluster 2).kind ≠ .none)) && decide ((s.accum c.cluster 2).kind ≠ .fp)) = true := by
      rcases hkind with h | h | h <;> simp [h]
    have hk' : b.cols % 16 = 0 := hcols ▸ hk
    have hra' : ¬ accRows 2 < a.rows := not_lt.2 hra
    have hrb' : ¬ accCols 2 < b.rows := not_lt.2 hrb
    have hbfmt : ¬ (if decide (c.op.fmt = .e4m3) || decide (c.op.fmt = .e5m2) then decide (b.fmt ≠ .e4m3) && decide (b.fmt ≠ .e5m2) else decide (b.fmt ≠ c.op.fmt)) = true := by
      rw [← hfa]
      split at hfb
      next hnarrow => rcases hnarrow with h | h <;> rcases hfb with h' | h' <;> simp [h, h']
      next hnarrow => simp [not_or.1 hnarrow, hfb]
    simp only [mmReason, mmFmtBad, hi, hfa, hbfmt, accClr, accKindOf, accSel, mmK, hclr, hk, hk', hcols, hra', hrb']
    simp
  · have hout : mmOut c.op.instr a b m n old = foldTo (denseStep a b m n) (old, Flags.none) (a.cols / 16) := by rw [hi]; rfl
    have hkind' := h.kind
    have hbusy := h.busy
    rw [hsel, hi] at hkind'
    rw [mmCycles, hi, ← hfa] at hbusy
    refine ⟨hkind', hbusy.trans ?_, ?_⟩
    · simp [Nat.add_assoc]
    · rw [h.value, hout]
      exact accumulates_of (fun g _ st => denseStep_group a b m n st g) old

end

end Sys2Proof.Machine
end


section
/-!
PROOFS. Drains (R216, R368, R370, R372): obligation O48.
-/
namespace Sys2Proof.Machine

/-! ### One element drained (R216) -/

theorem tileNum_mem (f : TFmt) : tileNum f ∈ fmts := by
  cases f <;> decide

theorem nx_all {l : List Flags} {f : Flags} (hf : f ∈ l) (h : f.nx = true) : (Flags.all l).nx = true := by
  have hor : ∀ a b : Flags, (a.or b).nx = (a.nx || b.nx) := fun _ _ => rfl
  induction l with
  | nil => cases hf
  | cons a l ih =>
    rw [Flags.all, hor]
    rcases List.mem_cons.1 hf with rfl | hf
    · rw [h, Bool.true_or]
    · rw [ih hf, Bool.or_true]

/-- A value converted to a format. -/
theorem convFF_converts {D : Fmt} (hD : D ∈ fmts) (rm : Rm) (sat : Bool) (rho v : Nat) : ConvToFloat D rm sat rho (fmtF32.unpack v) (convFF fmtF32 D rm sat rho v) := by
  rw [convFF]
  cases fmtF32.unpack v with
  | nan s => rfl
  | inf neg => rfl
  | fin neg m e => exact round_int _ hD _ _ _ _ _ _ _ rfl _ fun _ => rfl

/-- A value converted to a signed integer. -/
theorem convFI_converts (w : Nat) (rm : Rm) (rho v : Nat) : ConvToInt w rm rho (fmtF32.unpack v) (convFI fmtF32 true w rm rho v) := by
  unfold ConvToInt
  extract_lets hi lo
  cases hv : fmtF32.unpack v with
  | nan s => simp [convFI, hv]
  | inf neg => cases neg <;> simp [convFI, hv, wrapInt_coe, lo, hi, intMin, intMax]
  | fin neg m e =>
    obtain ⟨y, hy, hval, -⟩ := convFI_fin fmtF32 true w rm rho hv
    exact ⟨y, hy, hval⟩

/-- R216, steps 2 and 3. -/
theorem scaleStep_scales (v : Nat) (x : Tile) (row col : Nat) :
    ProductResult fmtF32 .rne 0 (fmtF32.unpack v) (fmtF32.unpack (x.elemBits row col)) (scaleStep v (some x) row col) :=
  mul_ok fmtF32 (by decide) .rne false 0 _ _

/-- What an absent scale leaves, and what a scale makes of a value. -/
def ScaledBy (v w : Nat × Flags) (x : Option Nat) : Prop :=
  match x with
  | none => w = (v.1, Flags.none)
  | some x => ProductResult fmtF32 .rne 0 (fmtF32.unpack v.1) (fmtF32.unpack x) w

theorem scaleStep_scaledBy (v : Nat × Flags) (x : Option Tile) (row col : Nat) :
    ScaledBy v (scaleStep v.1 x row col) (x.map fun t => t.elemBits row col) := by
  cases x with
  | none => rfl
  | some x => exact scaleStep_scales v.1 x row col

/-- An element as it is brought to binary32 (R216, step 1). -/
def drainRaw (acc : Accum) (k : Nat) : Nat × Flags :=
  if acc.kind = .int then convIF fmtF32 .rne false 0 (tgetD acc.elems k 0).toInt else ((tgetD acc.elems k 0).toNat, Flags.none)

/-- An element with its scales. -/
def drainScaled (acc : Accum) (k : Nat) (sc : Scales) (row col : Nat) : Nat × Flags :=
  scaleStep (scaleStep (drainRaw acc k).1 sc.row row 0).1 sc.group 0 (col / sc.width)

/-- The last step of a drained element: its output. -/
def drainLast (f : TFmt) (rm : Rm) (sat : Bool) (srd : SrdIn) (acc : Accum) (w cols : Nat) (sc : Scales) (q : Nat × Nat) : Nat × Flags :=
  drainOut f rm sat (srd.rho (q.1 * cols + q.2)) (drainScaled acc (w * q.1 + q.2) sc q.1 q.2).1

/-- A drained element is its last step's output, whose flags it raises. -/
theorem drainElem_last (f : TFmt) (rm : Rm) (sat : Bool) (srd : SrdIn) (acc : Accum) (w cols : Nat) (sc : Scales) (q : Nat × Nat) :
    (drainElem f rm sat srd acc w cols sc q.1 q.2).1 = (drainLast f rm sat srd acc w cols sc q).1 ∧
    ((drainLast f rm sat srd acc w cols sc q).2.nx = true → (drainElem f rm sat srd acc w cols sc q.1 q.2).2.nx = true) := by
  have helem : drainElem f rm sat srd acc w cols sc q.1 q.2 = ((drainLast f rm sat srd acc w cols sc q).1,
      Flags.all [(drainRaw acc (w * q.1 + q.2)).2, (scaleStep (drainRaw acc (w * q.1 + q.2)).1 sc.row q.1 0).2,
        (drainScaled acc (w * q.1 + q.2) sc q.1 q.2).2, (drainLast f rm sat srd acc w cols sc q).2]) := rfl
  rw [helem]
  exact ⟨rfl, fun h => nx_all (by simp) h⟩

/-- R216: one element drained. -/
theorem drainLast_result (f : TFmt) (rm : Rm) (sat : Bool) (srd : SrdIn) (acc : Accum) (w cols : Nat) (sc : Scales) (r k : Nat) :
    DrainResult f rm sat (srd.rho (r * cols + k)) acc.kind (tgetD acc.elems (w * r + k) 0) (sc.row.map fun t => t.elemBits r 0)
      (sc.group.map fun t => t.elemBits 0 (k / sc.width)) (drainLast f rm sat srd acc w cols sc (r, k)) := by
  have hraw : if acc.kind = .int then Rounds fmtF32 .rne false 0 ((tgetD acc.elems (w * r + k) 0).toInt : ℚ) false (drainRaw acc (w * r + k))
      else drainRaw acc (w * r + k) = ((tgetD acc.elems (w * r + k) 0).toNat, Flags.none) := by
    rw [drainRaw]
    split
    · exact convIF_rounds fmtF32 (by decide) .rne false 0 _
    · rfl
  have hrow := scaleStep_scaledBy (drainRaw acc (w * r + k)) sc.row r 0
  have hgroup := scaleStep_scaledBy (scaleStep (drainRaw acc (w * r + k)).1 sc.row r 0) sc.group 0 (k / sc.width)
  refine ⟨_, _, _, hraw, hrow, hgroup, ?_⟩
  cases f with
  | s8 => exact convFI_converts 8 rm _ _
  | s32 => exact convFI_converts 32 rm _ _
  | _ => exact convFF_converts (tileNum_mem _) rm sat _ _

/-! ### The bytes of a drained region (R202, R216) -/

section
variable (f : TFmt) (rm : Rm) (sat : Bool) (srd : SrdIn) (acc : Accum) (w rows cols : Nat) (sc : Scales)

theorem drainRun_bytes : (drainRun f rm sat srd acc w rows cols sc).1 =
    (cells rows cols).flatMap fun q => leBytes f.esize (drainLast f rm sat srd acc w cols sc q).1 := by
  have hrun : (drainRun f rm sat srd acc w rows cols sc).1 =
      ((cells rows cols).map fun q => drainElem f rm sat srd acc w cols sc q.1 q.2).flatMap fun v => leBytes f.esize v.1 := rfl
  rw [hrun, List.flatMap_map]
  exact List.flatMap_congr fun q _ => by rw [(drainElem_last f rm sat srd acc w cols sc q).1]

theorem drainRun_length : (drainRun f rm sat srd acc w rows cols sc).1.length = rows * cols * f.esize := by
  rw [drainRun_bytes]
  simp [List.length_flatMap]

variable {rows cols} {r k : Nat} (hr : r < rows) (hk : k < cols)
include hr hk

theorem drainRun_nx (h : (drainLast f rm sat srd acc w cols sc (r, k)).2.nx = true) : (drainRun f rm sat srd acc w rows cols sc).2.nx = true := by
  have hrun : (drainRun f rm sat srd acc w rows cols sc).2 =
      Flags.all (((cells rows cols).map fun q => drainElem f rm sat srd acc w cols sc q.1 q.2).map Prod.snd) := rfl
  rw [hrun]
  refine nx_all ?_ ((drainElem_last f rm sat srd acc w cols sc (r, k)).2 h)
  exact List.mem_map.2 ⟨_, List.mem_map.2 ⟨(r, k), mem_cells.2 ⟨hr, hk⟩, rfl⟩, rfl⟩

/-- An element's bytes in a tile that holds the region. -/
theorem drainRun_tile : memBytes (memPutBytes [] 0 (drainRun f rm sat srd acc w rows cols sc).1) ((r * cols + k) * f.esize) f.esize =
    leBytes f.esize (drainLast f rm sat srd acc w cols sc (r, k)).1 := by
  rw [drainRun_bytes]
  exact memBytes_cells (fun q => leBytes_length _ _) hr hk

/-- An element's bytes among those that go to memory. -/
theorem drainRun_list : ((drainRun f rm sat srd acc w rows cols sc).1.drop ((r * cols + k) * f.esize)).take f.esize =
    leBytes f.esize (drainLast f rm sat srd acc w cols sc (r, k)).1 := by
  rw [drainRun_bytes]
  exact take_drop_flatMap (fun q _ => leBytes_length _ _) (cells_getElem? hr hk)

end

end Sys2Proof.Machine
end


section
/-!
PROOFS. Drains as they start (R216, R368, R370, R372), and the whole of obligation O48.
-/
namespace Sys2Proof.Machine

/-! ### The checks of a drain (R368) -/

/-- A drain whose region and scales pass their checks. -/
def DrainLegal (s : State) (c : Cmd) (d : DrainF) (w : Word) : Prop :=
  shapeReason c.op.fmt w = none ∧ shapeRows w ≤ (if d.acc.code = 2 then 96 else 192) ∧ shapeCols w ≤ (if d.acc.code = 2 then 64 else 192) ∧
  (d.rowsc = true → ∃ x, s.operand c c.op.ta = some x ∧ x.fmt = .f32 ∧ shapeRows w ≤ x.rows ∧ 1 ≤ x.cols) ∧
  (d.gsel ≠ .none → ∃ x, s.operand c c.op.tb = some x ∧ x.fmt = .f32 ∧ 1 ≤ x.rows ∧ (shapeCols w + gselCols d.gsel - 1) / gselCols d.gsel ≤ x.cols)

/-- The scales that a drain takes. -/
def State.drainScales (s : State) (c : Cmd) (d : DrainF) : Scales :=
  ⟨if d.rowsc then s.operand c c.op.ta else none, if d.gsel = .none then none else s.operand c c.op.tb, gselCols d.gsel⟩

/-- The tiles that a drain reads: its scales. -/
def scaleReads (op : WobOp) (d : DrainF) : List Nat := (if d.rowsc then [op.ta] else []) ++ (if d.gsel = .none then [] else [op.tb])

section
variable {s : State} {c : Cmd} {d : DrainF} {w : Word} (hlegal : DrainLegal s c d w)
include hlegal

theorem DrainLegal.region : regionReason c.op.fmt d.acc.code w = none := by
  obtain ⟨hshape, hrows, hcols, -, -⟩ := hlegal
  have hr : ¬ accRows d.acc.code < shapeRows w := not_lt.2 hrows
  have hc : ¬ accCols d.acc.code < shapeCols w := not_lt.2 hcols
  simp [regionReason, hshape, hr, hc]

/-- The scales pass their checks. -/
theorem DrainLegal.scales {c' : Cmd} (hop : c'.op = c.op) (htile : ∀ slot ∈ scaleReads c.op d, c'.tile? slot = s.operand c slot) :
    c'.scales d (shapeRows w) (shapeCols w) = .ok (s.drainScales c d) := by
  obtain ⟨-, -, -, hrow, hgroup⟩ := hlegal
  have hrow' : (if d.rowsc then c'.tile? c.op.ta else none) = (s.drainScales c d).row := by
    dsimp only [State.drainScales]
    split
    next h => exact htile _ (by simp [scaleReads, h])
    next h => rfl
  have hgroup' : (if d.gsel = .none then none else c'.tile? c.op.tb) = (s.drainScales c d).group := by
    dsimp only [State.drainScales]
    split
    next h => rfl
    next h => exact htile _ (by simp [scaleReads, h])
  have hrowOk : (s.drainScales c d).row.bind (fun x => scaleReason c.op.ta x (shapeRows w) 1) = none := by
    dsimp only [State.drainScales]
    split
    next h =>
      obtain ⟨x, hx, hfmt, hrows, hcols⟩ := hrow h
      rw [hx, Option.bind_some, scaleReason, if_neg (not_not.2 hfmt)]
      exact if_neg (by simp only [Bool.or_eq_true, decide_eq_true_eq]; omega)
    next h => rfl
  have hgroupOk : (s.drainScales c d).group.bind
      (fun x => scaleReason c.op.tb x 1 ((shapeCols w + gselCols d.gsel - 1) / gselCols d.gsel)) = none := by
    dsimp only [State.drainScales]
    split
    next h => rfl
    next h =>
      obtain ⟨x, hx, hfmt, hrows, hcols⟩ := hgroup h
      rw [hx, Option.bind_some, scaleReason, if_neg (not_not.2 hfmt)]
      exact if_neg (by simp only [Bool.or_eq_true, decide_eq_true_eq]; omega)
  rw [Cmd.scales, hop, hrow', hgroup', hrowOk, hgroupOk]
  rfl

/-- The row scale and the group scale of an element. -/
theorem DrainLegal.scaleBits (r k : Nat) :
    (s.drainScales c d).row.map (fun x => x.elemBits r 0) =
      (if d.rowsc then (s.operand c c.op.ta).map (fun x => leNat (memBytes x.data (r * (4 * x.cols)) 4)) else none) ∧
    (s.drainScales c d).group.map (fun x => x.elemBits 0 (k / (s.drainScales c d).width)) =
      (if d.gsel = .none then none else (s.operand c c.op.tb).map (fun x => leNat (memBytes x.data (k / gselCols d.gsel * 4) 4))) := by
  obtain ⟨-, -, -, hrow, hgroup⟩ := hlegal
  dsimp only [State.drainScales]
  constructor
  · split
    next h =>
      obtain ⟨x, hx, hfmt, -⟩ := hrow h
      simp [hx, Tile.elemBits, hfmt, TFmt.rowBytes, TFmt.esize]
    next h => rfl
  · split
    next h => rfl
    next h =>
      obtain ⟨x, hx, hfmt, -⟩ := hgroup h
      simp [hx, Tile.elemBits, hfmt, TFmt.esize]

end

/-! ### A region drained (R216) -/

/-- What is said of a drained region, with the way its bytes are read. -/
def Drained (s : State) (c : Cmd) (d : DrainF) (w : Word) (bs : Nat → Nat → List Byte) (c2 : Cmd) : Prop :=
  let sel := d.acc.code
  let acc := s.accum c.cluster sel
  ∀ r < shapeRows w, ∀ k < shapeCols w, ∃ q, DrainResult c.op.fmt c.op.e.rm c.op.e.sat (c.op.srd.rho (r * shapeCols w + k)) acc.kind (tgetD acc.elems (accCols sel * r + k) 0)
    (if d.rowsc then (s.operand c c.op.ta).map (fun x => leNat (memBytes x.data (r * (4 * x.cols)) 4)) else none)
    (if d.gsel = .none then none else (s.operand c c.op.tb).map (fun x => leNat (memBytes x.data (k / gselCols d.gsel * 4) 4))) q ∧
    bs (r * shapeCols w + k) c.op.fmt.esize = leBytes c.op.fmt.esize q.1 ∧ (q.2.nx = true → c2.flags.nx = true)

/-- The bytes and flags of a command's drained region. -/
def State.drainOf (s : State) (c : Cmd) (d : DrainF) (w : Word) : List Byte × Flags :=
  drainRun c.op.fmt c.op.e.rm c.op.e.sat c.op.srd (s.accum c.cluster d.acc.code) (accCols d.acc.code) (shapeRows w) (shapeCols w) (s.drainScales c d)

theorem DrainLegal.drained {s : State} {c : Cmd} {d : DrainF} {w : Word} (hlegal : DrainLegal s c d w) {bs : Nat → Nat → List Byte} {c2 : Cmd}
    (hflags : c2.flags = (s.drainOf c d w).2)
    (hbs : ∀ r < shapeRows w, ∀ k < shapeCols w, bs (r * shapeCols w + k) c.op.fmt.esize = leBytes c.op.fmt.esize (drainLast c.op.fmt c.op.e.rm c.op.e.sat c.op.srd
      (s.accum c.cluster d.acc.code) (accCols d.acc.code) (shapeCols w) (s.drainScales c d) (r, k)).1) : Drained s c d w bs c2 := by
  intro r hr k hk
  have hres := drainLast_result c.op.fmt c.op.e.rm c.op.e.sat c.op.srd (s.accum c.cluster d.acc.code) (accCols d.acc.code) (shapeCols w) (s.drainScales c d) r k
  obtain ⟨hrow, hgroup⟩ := hlegal.scaleBits r k
  rw [hrow, hgroup] at hres
  refine ⟨_, hres, hbs r hr k hk, fun hnx => ?_⟩
  rw [hflags]
  exact drainRun_nx _ _ _ _ _ _ _ hr hk hnx

/-- The accumulator that a drain leaves. -/
def State.drainClear (s : State) (c : Cmd) (d : DrainF) : State := if d.clr then s.setAccum c.cluster d.acc.code Accum.zero else s

theorem accum_drainClear (s : State) (c : Cmd) (d : DrainF) :
    (s.drainClear c d).accum c.cluster d.acc.code = if d.clr then Accum.zero else s.accum c.cluster d.acc.code := by
  rw [State.drainClear]
  split
  · exact accum_setAccum_same _ _ _ _
  · rfl

theorem drainClear_keeps (s : State) (c : Cmd) (d : DrainF) : Apart s (s.drainClear c d) ∧ (s.drainClear c d).eng.tiles = s.eng.tiles := by
  rw [State.drainClear]
  split <;> exact ⟨⟨rfl, rfl, rfl, rfl⟩, rfl⟩

/-! ### `drain` (R370) -/

theorem still_drain {c : Cmd} {d : DrainF} {f : FmtE} (hi : c.op.instr = .drain d f) : Still c :=
  ⟨fun u c' hop => by simp [State.cmdRows, hop, hi], fun u c' hop => emptyFailed_other (by simp [hop, hi]) (by simp [hop, hi])⟩

section
variable {s : State} {t : Task} {p : Placement} {c : Cmd} (hb : Begins s t p c) {d : DrainF} {f : FmtE}
include hb

/-- A drain to an output that it does not have. -/
theorem Begins.drain_fails (hi : c.op.instr = .drain d f) (hmany : 2 ≤ d.nout.toNat) (hout : d.nout.toNat ≤ c.op.drainK) :
    Starts s fun u c2 => c2.fault = some (.engine, 7, c.op.tc + c.op.drainK) ∧ u.eng.accs = s.eng.accs ∧ u.eng.tiles = s.eng.tiles := by
  obtain ⟨taken, htake⟩ := hb.takes
  have hinstr : (c.ready s.clock.cycle taken).op.instr = .drain d f := hi
  have hperf : s.performCmd t p (c.ready s.clock.cycle taken) =
      (s, { c.ready s.clock.cycle taken with fault := some (.engine, 7, c.op.tc + c.op.drainK) }) := by
    rw [State.performCmd, hinstr]
    exact if_pos (by simp [DrainF.steered, hmany]; exact hout)
  exact hb.fails_still htake (still_drain hi) hperf (.refl s) rfl rfl ⟨rfl, rfl, rfl⟩

/-- A drain into a tile that gives room. -/
theorem Begins.drain (hi : c.op.instr = .drain d f) {y : Tile} (hout : 2 ≤ d.nout.toNat → c.op.drainK < d.nout.toNat) (hlegal : DrainLegal s c d c.op.left)
    (hy : s.slotTile c (c.op.tc + c.op.drainK) = some y) (hroom : granules c.op.fmt (shapeRows c.op.left) (shapeCols c.op.left) ≤ y.gcnt) :
    Starts s fun u c2 => c2.fault = none ∧ c2.doneAt = s.clock.cycle + 4 + shapeRows c.op.left ∧
      c2.steer = (if 2 ≤ d.nout.toNat then some c.op.drainK else none) ∧
      (u.accum c.cluster d.acc.code = if d.clr then Accum.zero else s.accum c.cluster d.acc.code) ∧
      ∃ y2, u.slotTile c (c.op.tc + c.op.drainK) = some y2 ∧ y2.st = tFilling ∧ y2.fmt = c.op.fmt ∧ y2.rows = shapeRows c.op.left ∧
        y2.cols = shapeCols c.op.left ∧ y2.count = 0 ∧ ((s.accum c.cluster d.acc.code).sat = true → y2.satf = true) ∧
        Drained s c d c.op.left (fun i n => memBytes y2.data (i * n) n) c2 := by
  obtain ⟨taken, htake⟩ := hb.takes
  have hinstr : (c.ready s.clock.cycle taken).op.instr = .drain d f := hi
  let slot := c.op.tc + c.op.drainK
  let tile := s.filling c.op.fmt (shapeRows c.op.left) (shapeCols c.op.left) y
  let out := s.drainOf c d c.op.left
  let w := (s.setTile c.cluster c.op.task c.op.pl slot tile).drainClear c d
  let sat := (s.accum c.cluster d.acc.code).sat || out.2.sat
  let y2 : Tile := { tile with data := memPutBytes [] 0 out.1, satf := sat }
  let fin := w.clock.cycle + 4 + shapeRows c.op.left
  have hsteer : ¬ (d.steered && decide (d.nout.toNat ≤ (c.ready s.clock.cycle taken).op.drainK)) = true := by
    simp only [DrainF.steered, Bool.and_eq_true, decide_eq_true_eq, not_and, not_le]
    exact hout
  have hsel : accSel (c.ready s.clock.cycle taken).op.instr = d.acc.code := by rw [hinstr]; rfl
  have hregion : regionReason (c.ready s.clock.cycle taken).op.fmt d.acc.code (c.ready s.clock.cycle taken).op.left = none := hlegal.region
  have hscales : (c.ready s.clock.cycle taken).scales d (shapeRows (c.ready s.clock.cycle taken).op.left) (shapeCols (c.ready s.clock.cycle taken).op.left) =
      .ok (s.drainScales c d) := hlegal.scales rfl fun x hx => htake.tile x (by rw [tileReads, hi]; exact hx)
  have hfill : s.beginFill t p (c.ready s.clock.cycle taken) ((c.ready s.clock.cycle taken).op.tc + (c.ready s.clock.cycle taken).op.drainK)
      (c.ready s.clock.cycle taken).op.fmt (shapeRows (c.ready s.clock.cycle taken).op.left) (shapeCols (c.ready s.clock.cycle taken).op.left) =
        (s.setTile c.cluster c.op.task c.op.pl slot tile, c.ready s.clock.cycle taken) :=
    beginFill_again (c := c.ready s.clock.cycle taken) hb.task hb.idx hy hroom
  have hdrained : (s.setTile c.cluster c.op.task c.op.pl slot tile).drained (c.ready s.clock.cycle taken) d
      (shapeRows (c.ready s.clock.cycle taken).op.left) (shapeCols (c.ready s.clock.cycle taken).op.left) (s.drainScales c d) = (w, out.1, out.2, sat) := by
    rw [State.drained, hsel]
    rfl
  have hw : w.slotTile c slot = some tile := by
    have htiles := (drainClear_keeps (s.setTile c.cluster c.op.task c.op.pl slot tile) c d).2
    exact (congrArg (fun ts => tget ts (tileKey c.cluster c.op.task c.op.pl slot)) htiles).trans (slotTile_setTile_same s c slot tile)
  have hput : w.putTileData (c.ready s.clock.cycle taken) slot out.1 sat = w.setTile c.cluster c.op.task c.op.pl slot y2 := by
    have hw' : w.slotTile (c.ready s.clock.cycle taken) slot = some tile := hw
    rw [State.putTileData, hw']
    rfl
  have hperf : s.performCmd t p (c.ready s.clock.cycle taken) = (w.setTile c.cluster c.op.task c.op.pl slot y2, { c.ready s.clock.cycle taken with
      flags := out.2
      busyEnd := fin
      doneAt := fin
      steer := if d.steered then some c.op.drainK else none }) := by
    have hnone : ¬ ((c.ready s.clock.cycle taken).fault.isSome = true) := by
      have hf : (c.ready s.clock.cycle taken).fault = none := hb.fault
      simp [hf]
    rw [State.performCmd, hinstr]
    dsimp only
    rw [State.startDrain]
    dsimp only
    rw [if_neg hsteer, hsel, hregion]
    dsimp only
    rw [hscales]
    dsimp only
    rw [hfill]
    dsimp only
    rw [if_neg hnone]
    rw [hdrained]
    exact Prod.ext hput rfl
  have hclock : w.clock.cycle = s.clock.cycle := by
    dsimp only [w]
    rw [State.drainClear]
    split <;> rfl
  have happart : Apart s (w.setTile c.cluster c.op.task c.op.pl slot y2) :=
    ((apart_setTile s _ _ _ _ _).trans (drainClear_keeps _ c d).1).trans (apart_setTile w _ _ _ _ _)
  refine hb.starts htake hperf happart rfl rfl hb.fault ⟨hb.fault, congrArg (· + 4 + shapeRows c.op.left) hclock, ?_, ?_, y2, slotTile_setTile_same _ _ _ _, rfl, rfl, rfl, rfl, rfl, fun hs => ?_, ?_⟩
  · simp [DrainF.steered]
  · exact accum_drainClear (s.setTile c.cluster c.op.task c.op.pl slot tile) c d
  · exact Bool.or_eq_true_iff.2 (.inl hs)
  · exact hlegal.drained rfl fun r hr k hk => drainRun_tile _ _ _ _ _ _ _ hr hk

/-! ### `drain.m` (R372) -/

theorem Begins.drainM (hi : c.op.instr = .drainM d f) (hlegal : DrainLegal s c d c.op.right)
    (hpitch : pitchReason c.op.fmt c.op.left.toNat (shapePitch c.op.right) = none) :
    Starts s fun u c2 => c2.fault = none ∧ c2.total = shapeRows c.op.right * shapeCols c.op.right * c.op.fmt.esize ∧ c2.desc.length = c2.total ∧
      (u.accum c.cluster d.acc.code = if d.clr then Accum.zero else s.accum c.cluster d.acc.code) ∧ u.eng.tiles = s.eng.tiles ∧
      Drained s c d c.op.right (fun i n => (c2.desc.drop (i * n)).take n) c2 := by
  obtain ⟨taken, htake⟩ := hb.takes
  have hinstr : (c.ready s.clock.cycle taken).op.instr = .drainM d f := hi
  let out := s.drainOf c d c.op.right
  have hsel : accSel (c.ready s.clock.cycle taken).op.instr = d.acc.code := by rw [hinstr]; rfl
  have hregion : (regionReason (c.ready s.clock.cycle taken).op.fmt d.acc.code (c.ready s.clock.cycle taken).op.right).or
      (pitchReason (c.ready s.clock.cycle taken).op.fmt (c.ready s.clock.cycle taken).op.left.toNat (shapePitch (c.ready s.clock.cycle taken).op.right)) = none :=
    (congrArg (fun o : Option Nat => o.or _) hlegal.region).trans hpitch
  have hscales : (c.ready s.clock.cycle taken).scales d (shapeRows (c.ready s.clock.cycle taken).op.right) (shapeCols (c.ready s.clock.cycle taken).op.right) =
      .ok (s.drainScales c d) := hlegal.scales rfl fun x hx => htake.tile x (by rw [tileReads, hi]; exact hx)
  have hdrained : s.drained (c.ready s.clock.cycle taken) d (shapeRows (c.ready s.clock.cycle taken).op.right) (shapeCols (c.ready s.clock.cycle taken).op.right)
      (s.drainScales c d) = (s.drainClear c d, out.1, out.2, (s.accum c.cluster d.acc.code).sat || out.2.sat) := by
    rw [State.drained, hsel]
    rfl
  have hperf : s.performCmd t p (c.ready s.clock.cycle taken) = (s.drainClear c d, { c.ready s.clock.cycle taken with
      flags := out.2
      desc := out.1
      total := out.1.length
      doneAt := (s.drainClear c d).clock.cycle + 4 + shapeRows c.op.right }) := by
    rw [State.performCmd, hinstr]
    dsimp only
    rw [State.startDrainM]
    dsimp only
    rw [hsel, hregion]
    dsimp only
    rw [hscales]
    dsimp only
    rw [hdrained]
    rfl
  obtain ⟨happart, htiles⟩ := drainClear_keeps s c d
  refine hb.starts htake hperf happart rfl rfl hb.fault ⟨hb.fault, drainRun_length _ _ _ _ _ _ _ _ _, rfl, accum_drainClear s c d, htiles, ?_⟩
  exact hlegal.drained rfl fun r hr k hk => drainRun_list _ _ _ _ _ _ _ hr hk

end

/-! ### The whole statement -/

theorem Runs.mono {s : State} {c : Cmd} {sel w hand : Nat} {clr : Bool} {a b : Tile} {P Q : State → Cmd → Nat → Nat → BitVec 32 → BitVec 32 → Prop}
    (h : Runs s c sel clr a b w hand P) (hPQ : ∀ u c2 m n old new, P u c2 m n old new → Q u c2 m n old new) : Runs s c sel clr a b w hand Q :=
  Starts.mono h fun u c2 ⟨hfault, hdone, htiles, hothers, houts, hrest⟩ =>
    ⟨hfault, hdone, htiles, hothers, fun m n hm hn => hPQ u c2 m n _ _ (houts m n hm hn), hrest⟩

/-- The four bits of an element of an `mx4` tile. -/
theorem mxElem_eq (x : Tile) (r k : Nat) : x.mxElem r k = (memByte x.data (r * (x.cols / 2) + k / 2)).toNat / 16 ^ (k % 2) % 16 := by
  rw [Tile.mxElem, pow_mul]
  norm_num

/-- What an element of an `mx4` tile is, by its four bits and its block's scale (R200, R202). -/
def MxElement (x : Tile) (r j i : Nat) (q : FVal) : Prop :=
  let code := (memByte x.data (r * (x.cols / 2) + (32 * j + i) / 2)).toNat / 16 ^ ((32 * j + i) % 2) % 16
  q.isFin = true ∧ q.neg? = decide (8 ≤ code) ∧
    |q.rat| = ([0, 1 / 2, 1, 3 / 2, 2, 3, 4, 6] : List ℚ).getD (code % 8) 0 * (2 : ℚ) ^ ((x.mxScale r j : ℤ) - 127)

theorem mxVal_element {x : Tile} {r j : Nat} (hscale : x.mxScale r j ≠ 0xFF) (i : Nat) : MxElement x r j i (x.mxVal r j i) :=
  mxVal_spec (mxElem_eq x r (32 * j + i)) (Nat.mod_lt _ (by norm_num)) hscale

/-- The outputs of `mm.mx4`, with its elements said by their bits. -/
theorem runs_mx4 {s : State} {c : Cmd} {sel : Nat} {clr : Bool} {a b : Tile} (h : Runs s c sel clr a b 192 12 fun u c2 m n old new =>
      (u.accum c.cluster sel).kind = .fp ∧ c2.busyEnd = s.clock.cycle + 24 + a.cols ∧
      Accumulates (a.cols / 32) 32 (fun j => a.mxScale m j = 0xFF ∨ b.mxScale n j = 0xFF) (a.mxVal m) (b.mxVal n) old new) :
    Runs s c sel clr a b 192 12 fun u c2 m n old new => (u.accum c.cluster sel).kind = .fp ∧ c2.busyEnd = s.clock.cycle + 24 + a.cols ∧
      ∃ x y : Nat → Nat → FVal, (∀ j < a.cols / 32, a.mxScale m j ≠ 0xFF → b.mxScale n j ≠ 0xFF → ∀ i < 32, MxElement a m j i (x j i) ∧ MxElement b n j i (y j i)) ∧
        Accumulates (a.cols / 32) 32 (fun j => a.mxScale m j = 0xFF ∨ b.mxScale n j = 0xFF) x y old new :=
  h.mono fun _ _ m n _ _ ⟨hkind, hbusy, hacc⟩ =>
    ⟨hkind, hbusy, a.mxVal m, b.mxVal n, fun _ _ hsa hsb i _ => ⟨mxVal_element hsa i, mxVal_element hsb i⟩, hacc⟩

/-- The elements of a tile of a number format, by their bytes. -/
theorem num_eq {x : Tile} (hmx : x.fmt ≠ .mx4) (htrit : x.fmt ≠ .trit) (r : Nat) : (fun g i => x.num r (16 * g + i)) =
    fun g i => (tileNum x.fmt).unpack (leNat (memBytes x.data ((r * x.cols + (16 * g + i)) * x.fmt.esize) x.fmt.esize)) := by
  funext g i
  rw [Tile.num, elemBits_plain hmx htrit]

/-- The outputs of `mm.d`, with its elements said by their bytes. -/
theorem runs_dense {s : State} {c : Cmd} {clr : Bool} {a b : Tile} {busy : Nat} (ha : a.fmt ≠ .mx4 ∧ a.fmt ≠ .trit) (hb : b.fmt ≠ .mx4 ∧ b.fmt ≠ .trit)
    (h : Runs s c 2 clr a b 64 8 fun u c2 m n old new => (u.accum c.cluster 2).kind = .fp ∧ c2.busyEnd = busy ∧
      Accumulates (a.cols / 16) 16 (fun g => ∃ i < 16, NoProduct (a.num m (16 * g + i)) (b.num n (16 * g + i)))
        (fun g i => a.num m (16 * g + i)) (fun g i => b.num n (16 * g + i)) old new) :
    let el := fun (x : Tile) (r g i : Nat) =>
      (tileNum x.fmt).unpack (leNat (memBytes x.data ((r * x.cols + (16 * g + i)) * x.fmt.esize) x.fmt.esize))
    Runs s c 2 clr a b 64 8 fun u c2 m n old new => (u.accum c.cluster 2).kind = .fp ∧ c2.busyEnd = busy ∧
      Accumulates (a.cols / 16) 16 (fun g => ∃ i < 16, NoProduct (el a m g i) (el b n g i)) (el a m) (el b n) old new := by
  refine h.mono fun u c2 m n old new ⟨hkind, hbusy, hacc⟩ => ⟨hkind, hbusy, ?_⟩
  have hbad : (fun g => ∃ i < 16, NoProduct (a.num m (16 * g + i)) (b.num n (16 * g + i))) =
      fun g => ∃ i < 16, NoProduct ((fun g i => a.num m (16 * g + i)) g i) ((fun g i => b.num n (16 * g + i)) g i) := rfl
  rw [hbad, num_eq ha.1 ha.2 m, num_eq hb.1 hb.2 n] at hacc
  exact hacc

/-- A drain's output, by its left-over operand. -/
theorem drainK_eq {op : WobOp} {d : DrainF} {f : FmtE} (hi : op.instr = .drain d f) :
    op.drainK = if 2 ≤ d.nout.toNat then op.aux.toNat % 4 else 0 := by
  simp [WobOp.drainK, hi, DrainF.steered]

/-- Formats whose elements `mm.d` can take. -/
theorem dense_formats {f : TFmt} (h : 2 ≤ f.esize ∨ f = .e4m3 ∨ f = .e5m2) : f ≠ .mx4 ∧ f ≠ .trit := by
  cases f <;> simp_all [TFmt.esize]

/-- Settles O48: a matrix command writes its outputs place by place, each a fold over its groups; a drain converts its region place by place. -/
theorem matrixEvents : Obligations.MatrixEvents := by
  unfold Obligations.MatrixEvents
  intro s t p c hstart hseq htask hidx hfault hfill hreads
  have hready : ReadsReady s c := hreads.imp_right fun ⟨htaken, hto, hall⟩ =>
    ⟨htaken, hto, fun slot hs => let ⟨x, hx, hst, hcount⟩ := hall slot hs; ⟨x, hx, hst, .inl hcount⟩⟩
  have hb : Begins s t p c := ⟨hstart, hseq, htask, hidx, hfault, hfill, hready⟩
  refine ⟨fun bank clr f a b hi ha hbt => ⟨fun hfmt => hb.tern_fails ha hbt hi hfmt, fun hfa hfb hcols hk hra hrb hkind => ?_⟩,
    fun bank clr f a b hi ha hbt hfa hfb hcols hk hra hrb hkind => ?_, fun clr f a b hi ha hbt hfa hfb hcols hk hra hrb hkind hsize => ?_,
    fun d f hi => ⟨fun hmany hout => ?_, fun y hout hlegal hy hroom => ?_⟩, fun d f hi hlegal hpitch => hb.drainM hi hlegal hpitch⟩
  · exact hb.tern ha hbt hi hfa hfb hcols hk hra hrb hkind
  · exact runs_mx4 (hb.mx4 ha hbt hi hfa hfb hcols hk hra hrb hkind)
  · rw [← hfa] at hsize
    have hsizeb : 2 ≤ b.fmt.esize ∨ b.fmt = .e4m3 ∨ b.fmt = .e5m2 := by
      split at hfb
      · exact .inr hfb
      · rw [hfb]
        exact hsize
    exact runs_dense (dense_formats hsize) (dense_formats hsizeb) (hb.dense ha hbt hi hfa hfb hcols hk hra hrb hkind)
  · have h := hb.drain_fails hi hmany
    rw [drainK_eq hi] at h
    exact h hout
  · have h := hb.drain (y := y) hi
    rw [drainK_eq hi] at h
    exact h hout hlegal hy hroom

end Sys2Proof.Machine
end
